-- ==== Sys2Proof/Word.lean ====
section
/-! DEFINITION. The plain number types of the model: bytes, binary32 words and 64-bit register words. -/

namespace Sys2Proof

/-- One byte of memory, a cell body or a message. -/
abbrev Byte := BitVec 8

/-- One IEEE 754 binary32 value, as its bits (R123). -/
abbrev F32 := BitVec 32

/-- A 64-bit register, counter or address word, as the manual numbers its bits. -/
abbrev Word := BitVec 64

/-- A 128-byte descriptor, bit b in byte b / 8 (03, section Descriptors). -/
abbrev Desc := BitVec 1024

end Sys2Proof
end

