-- ==== Sys2Proof/Syntax.lean ====
section
/-! DEFINITION. The commands of the engine: one constructor per row of the table of operations and events.
The operands are what the row's rule takes from outside: a task (by its number `t`), a Pod, a queue, a ring, a port,
a register value, the bytes of a message, or an outcome that the manual leaves to the world outside the engine. -/

namespace Sys2Proof

/-- The three roles of the object dictionary, lowest first (R8). -/
inductive Role where
  | operator
  | owner
  | service
  deriving DecidableEq, Repr

/-- One constructor per row of the table of operations and events. -/
inductive Instr where
  /-- NOP (R77): A NOP descriptor completes with OK and has no other effect. -/
  | nop (t : Nat)
  /-- FENCE (R77): A FENCE stalls its queue until every earlier task of the queue has written its completion record. -/
  | fence (t : Nat)
  /-- FENCE_RELEASE (R77): Once the earlier records, and with XPATH the drain, are done, the stalled FENCE completes with OK and the queue continues. -/
  | fenceRelease (t : Nat)
  /-- SET (R76): A SYNC_OP SET replaces the value of a local sync counter, after earlier tasks finish when AFTER = 1. -/
  | set (t : Nat)
  /-- ADD (R76): A SYNC_OP ADD adds VALUE modulo 2^64 to a local sync counter. -/
  | add (t : Nat)
  /-- WAIT_GE (R76): A SYNC_OP WAIT_GE stalls the queue in WAITING until the counter is at least VALUE. -/
  | waitGe (t : Nat)
  /-- WAIT_EQ (R76): A SYNC_OP WAIT_EQ stalls the queue in WAITING until the counter takes the value VALUE. -/
  | waitEq (t : Nat)
  /-- REMOTE_SET (R373): A SYNC_OP REMOTE_SET sends a SYNC cell that sets a counter of another engine and completes on its acknowledgement. -/
  | remoteSet (t : Nat)
  /-- REMOTE_ADD (R373): A SYNC_OP REMOTE_ADD sends a SYNC cell that adds to a counter of another engine and completes on its acknowledgement. -/
  | remoteAdd (t : Nat)
  /-- SYNC_ACK_TIMEOUT (R373): A remote SYNC_OP with no acknowledgement within SFP_READ_TIMEOUT ends with ABORTED_FAULT. -/
  | syncAckTimeout (t : Nat)
  /-- COUNTER_UPDATE_APPLY (R370): The FSU applies one queued update to a sync counter in a hub cycle and evaluates every wait, doorbell and notify slot on it. -/
  | counterUpdateApply (c : Nat)
  /-- WAIT_TIMEOUT (R372): A wait whose TIMEOUT folios pass unsatisfied ends with WAIT_TIMEOUT, and the queue continues. -/
  | waitTimeout (t : Nat)
  /-- LOOKUP (R68): A LOOKUP pools the rows named by each bag's indices and exports one output row per bag, or per index in GATHER. -/
  | lookup (t : Nat)
  /-- LOOKUP_FOLD (R68): A LOOKUP_FOLD pools each bag and projects it through the Fold Unit before export. -/
  | lookupFold (t : Nat)
  /-- UPDATE (R70): An UPDATE expands bag gradients into row gradients, coalesces them and sends parcels to the rows' owners. -/
  | update (t : Nat)
  /-- ROW_WRITE (R71): A ROW_WRITE writes a run of rows, stored or quantised from FP32, to their shards' homes, through the Ledger on training tables. -/
  | rowWrite (t : Nat)
  /-- WRITE_DIR (R72): TABLE_CTL WRITE_DIR writes the table directory entry of TABLE_ID after the checks of R51. -/
  | writeDir (t : Nat)
  /-- WRITE_DESC (R72): TABLE_CTL WRITE_DESC writes a shard descriptor after the checks of R47, R48 and R461. -/
  | writeDesc (t : Nat)
  /-- SET_STATE (R72): TABLE_CTL SET_STATE sets a shard's STATE to OFFLINE or ONLINE. -/
  | setState (t : Nat)
  /-- READ_DESC (R72): TABLE_CTL READ_DESC copies one shard descriptor to DATA_ADDR. -/
  | readDesc (t : Nat)
  /-- READ_DIR (R72): TABLE_CTL READ_DIR copies one directory entry to DATA_ADDR. -/
  | readDir (t : Nat)
  /-- MOVE_SHARD (R248): RELOCATE MOVE_SHARD sets the shard RELOCATING and streams it to the new home or tier. -/
  | moveShard (t : Nat)
  /-- SHARD_SWITCH (R250): Once the copy stream and invalidations are acknowledged, the old home switches the shard between two parcels to its new home. -/
  | shardSwitch (t : Nat)
  /-- MOVE_ROW (R236): RELOCATE MOVE_ROW copies one shelved row to a slot in another tier of the same engine. -/
  | moveRow (t : Nat)
  /-- MOVE_ROW_COMMIT (R236): When the copy ends, the engine commits the new shelfmark if the old accession and location still hold, or ends the move with CTL_REFUSED. -/
  | moveRowCommit (t : Nat)
  /-- REPLICATE_ROW (R246): RELOCATE REPLICATE_ROW reads a row from its home and holds it as a Stacks replica. -/
  | replicateRow (t : Nat)
  /-- DROP_REPLICA (R246): RELOCATE DROP_REPLICA removes a replica, and a remote one from its home's directory. -/
  | dropReplica (t : Nat)
  /-- DRAIN_FENCE (R254): RELOCATE DRAIN_FENCE ends the second copy of a relocated or replaced shard once its conditions hold. -/
  | drainFence (t : Nat)
  /-- DRAIN_FENCE_COMPLETE (R254): When the pending reads, the floors and the forwarding acknowledgements allow, the shard returns to ONLINE with ALT_BASE 0 and old slots go to the rings. -/
  | drainFenceComplete (t : Nat)
  /-- REPLACE_BEGIN (R237): RELOCATE REPLACE_BEGIN copies a shard's live array to NEW_BASE. -/
  | replaceBegin (t : Nat)
  /-- REPLACE_COPY_DONE (R237): When the copy ends, the shard becomes REPLACING with ALT_BASE NEW_BASE and the task completes. -/
  | replaceCopyDone (t : Nat)
  /-- REPLACE_COMMIT (R239): RELOCATE REPLACE_COMMIT swaps BASE and ALT_BASE, raises REPLACE_EPOCH and drops the shard's replicas. -/
  | replaceCommit (t : Nat)
  /-- GROUP_OPEN (R140): GROUP_OPEN opens an accumulation group and claims a run of tiles on one Pod. -/
  | groupOpen (t : Nat)
  /-- GROUP_OPEN_COMPLETE (R140): The GROUP_OPEN completes once every claimed carrel is freed and any Fold pass in progress has ended. -/
  | groupOpenComplete (t : Nat)
  /-- GROUP_CLOSE (R143): GROUP_CLOSE fuses and exports each group tile in tile order and releases the tiles. -/
  | groupClose (t : Nat)
  /-- TILE_READ (R75): TILE_READ copies tiles to memory. -/
  | tileRead (t : Nat)
  /-- TILE_WRITE (R75): TILE_WRITE copies memory into tiles. -/
  | tileWrite (t : Nat)
  /-- ZERO (R75): ZERO writes zeros to tiles or to LENGTH bytes of GDDR7 or Stacks scratch. -/
  | zero (t : Nat)
  /-- SPROUT_LOAD (R78): SPROUT_LOAD checks and loads a sprout or hash microcode image into a slot of one or all Pods. -/
  | sproutLoad (t : Nat)
  /-- DESCRIPTOR_FETCH (R64): The CFE fetches the next descriptor of a queue in round-robin order when a completion slot is free. -/
  | descriptorFetch
  /-- ADMISSION (R364): The FSU admits the best-fitting candidate task, at most one per hub cycle, charging its phase shares to Pod budgets. -/
  | admission
  /-- BAG_START (R16): The GAU starts a bag once its carrels and tree-store entries are free on its home Pod and pushes an OPEN handle. -/
  | bagStart (pod : Nat)
  /-- INDEX_PROCESS (R91): The IXU takes an index, hashes or range-checks it, and routes it to the Sorter and the Catalogue. -/
  | indexProcess (pod t bag : Nat)
  /-- DESCRIPTOR_FILL (R52): A descriptor miss returns from GDDR7 into the cache and the indices waiting on it resume. -/
  | descriptorFill (idx : Nat)
  /-- SEGMENT_RELEASE (R98): Once a segment's last index is in the window, the Sorter releases one read per distinct row with its folded weight. -/
  | segmentRelease (pod t bag : Nat)
  /-- READ_ISSUE (R104): The GAU issues a queued row read on its path once its tier has slots. err is what a Stacks hit
  meets in its way (R278): 0 nothing, 1 a corrected error, 2 an uncorrectable one. -/
  | readIssue (pod tier err : Nat)
  /-- CALL_SLIP_FILL (R264): A fill arrives for a call slip; the slice installs the line and serves the slip's requests. -/
  | callSlipFill (pod slip : Nat)
  /-- WEED_ACK (R267): The directory acknowledges an eviction notice and the weeding entry is freed. -/
  | weedAck (pod : Nat)
  /-- ROW_RETURN (R126): A row's data is written into the Pod's return buffer and its read slot is freed. err is what its
  GDDR7 access met (R291, R296): 0 nothing, 1 to 4 that many CRC retries, 5 an uncorrectable atom, 6 a tag mismatch. -/
  | rowReturn (rid err : Nat)
  /-- LEAF_POOL (R128): A quad takes the next leaf in order, decodes, weights and adds it into the bag's tree. -/
  | leafPool (pod t bag : Nat)
  /-- EXPORT (R150): The Quantiser takes a finished row and writes it in OUT_FMT with an on-the-fly scale. -/
  | exportRow (pod : Nat)
  /-- TILE_ADD (R142): A finished row is added into a group's tiles once earlier operations on those tiles are done. -/
  | tileAdd (pod : Nat)
  /-- ABORTED_HANDLE_FREE (R19): A consumer taking an ABORTED handle frees its carrels or tiles without writing output. -/
  | abortedHandleFree (pod q : Nat)
  /-- LATCH_ROW_FILL (R177): The Quantiser converts a POOLED bag into a shadow latch row and frees its carrels. -/
  | latchRowFill (pod : Nat)
  /-- FOLD_PASS_START (R185): The FLU swaps a filled latch set in and starts its column passes. -/
  | foldPassStart (pod : Nat)
  /-- FOLD_FILL_WAIT_EXPIRY (R185): FLU_FILL_WAIT cycles after a latch set's first row, the pass starts with the rows filled. -/
  | foldFillWaitExpiry (pod : Nat)
  /-- FOLD_CAPTURE (R186): At the end of a pass the cells capture their accumulators and FOLDED handles are pushed. -/
  | foldCapture (pod : Nat)
  /-- FOLD_WEIGHT_LOAD (R181): A task's weight tensor is loaded once into BUF_HALF of every Pod concerned, after the half's last pass has captured. -/
  | foldWeightLoad (t : Nat)
  /-- CODEBOOK_LOAD (R167): A Pod's QNT slice loads a missing codebook set or sign vector into codebook memory. -/
  | codebookLoad (pod kind aux size : Nat)
  /-- COMPLETION_RECORD_WRITE (R81): After the task's writes are acknowledged, the engine writes its 32-byte completion record and advances CFE_Q_CPL_TAIL. -/
  | completionRecordWrite (t : Nat)
  /-- UPDATE_WINDOW_CLOSE (R198): An update window closes and the Sorter sums index gradients of each distinct row into row gradients. -/
  | updateWindowClose (pod t : Nat)
  /-- DEEP_COMBINE (R199): A combine Pod adds an arriving row gradient into its row's carrel set, or passes it on uncombined. -/
  | deepCombine (pod t : Nat)
  /-- ROW_GRADIENT_PACK (R200): The UPU hub share packs a row gradient into a parcel for its owner, closing parcels as needed. -/
  | rowGradientPack (t : Nat)
  /-- PARCEL_RELEASE (R201): When a task's last parcel closes and the retention ring has room, all its parcels are released at once. -/
  | parcelRelease (t : Nat)
  /-- PARCEL_SEND (R204): A released parcel is sent once parcel s − 256 of its pair is acknowledged. -/
  | parcelSend (owner : Nat)
  /-- PARCEL_RESEND_TIMEOUT (R206): After UPU_RESEND_FOLIOS without acknowledgement, the sender resends every unacknowledged parcel of that owner. -/
  | parcelResendTimeout (owner : Nat)
  /-- PARCEL_ARRIVAL (R216): An owner receives a parcel and journals, holds, re-acknowledges or drops it by its SEQ. -/
  | parcelArrival (src : Nat) (bytes : List Byte)
  /-- EARLY_PARCEL_JOURNAL (R216): A parcel held in the inbox is journalled once every parcel before it has been journalled. -/
  | earlyParcelJournal (src : Nat)
  /-- PARCEL_APPLY (R218): The owner applies a parcel's entries in intake order by state and row steps under their stamps, then marks it APPLIED and sends applied. -/
  | parcelApply
  /-- PARCEL_ACK_RECEIVED (R204): An applied acknowledgement frees the parcel from the sender's retention ring. -/
  | parcelAckReceived (owner source seq intake : Nat)
  /-- RECEIVED_ABANDON (R222): A RECEIVED entry whose resend has not arrived within UPU_RECOVERY_FOLIOS is set ABANDONED and UPU_ABANDONED raised. -/
  | receivedAbandon (source seq : Nat)
  /-- APPLY_FAULT_REPAIR (R435): A repairing ROW_WRITE or partner copy of a faulted row is applied ahead of the held parcel, which then applies. -/
  | applyFaultRepair (t : Nat)
  /-- SHELVED_ROW_COMMIT (R233): Once a replacement row and side list are visible in a fresh slot, the shelfmark is committed and the old slot quarantined. -/
  | shelvedRowCommit (w : Nat)
  /-- SLOT_QUARANTINE_END (R234): A freed slot leaves quarantine when folio f + 2 begins and may be reused. -/
  | slotQuarantineEnd (ring : Nat)
  /-- CAT_SLOTRING_WRITE (R232): A write of CAT_SLOTRING_k sets a ring, or advances its supply TAIL under the doorbell rule. -/
  | catSlotringWrite (k v : Nat) (role : Role)
  /-- INVAL_RX (R247): A holder receiving INVAL drops the replica, discards any fill in flight and acknowledges. -/
  | invalRx (home table row : Nat)
  /-- INVAL_ACK_RX (R247): The home receives a holder's INVAL_ACK toward its commit. -/
  | invalAckRx (holder table row : Nat)
  /-- CAT_INVAL_TIMEOUT (R247): A holder silent for CAT_INVAL_FOLIOS is removed from the directory, the commit proceeds and CAT_INVAL_TIMEOUT is raised. -/
  | catInvalTimeout (holder table row : Nat)
  /-- HOLDER_REPLICA_EXPIRY (R247): A holder that heard nothing from a home for CAT_INVAL_FOLIOS − 1 folios drops every replica of that home's rows. -/
  | holderReplicaExpiry (home : Nat)
  /-- HEAT_WINDOW_BOUNDARY (R245): At each IXU_HEAT_WINDOW boundary the candidate lists merge into IXU_HEAT_TOP and every sketch counter is halved. -/
  | heatWindowBoundary
  /-- IXU_HEAT_QUERY (R245): Writing a row key to IXU_HEAT_QUERY makes IXU_HEAT_ESTIMATE return that row's estimate. -/
  | ixuHeatQuery (key : Nat) (role : Role)
  /-- FOLIO_BOUNDARY (R354): A folio begins: the number rises, budgets are reset less carries, and the boundary's merges, markers and telemetry run. -/
  | folioBoundary
  /-- NO_MARKER (R357): A member with no marker by half a period into a folio marks it degraded with cause NO_MARKER. -/
  | noMarker
  /-- MARKER (R344): A received folio marker is accepted or dropped and used to align the folio counter. -/
  | marker (port : Nat) (payload : BitVec 192) (offset : Int)
  /-- J_FOLIO_IN_EDGE (R359): A rising edge on J_FOLIO_IN is ignored or starts the next folio by its timing. -/
  | jFolioInEdge (t10ns : Nat)
  /-- TICK_MISSED (R359): No J_FOLIO_IN edge by 1.25 P starts the folio from the timer, and two misses hand over to local timing with FSU_TICK_LOST. -/
  | tickMissed
  /-- CFE_Q_TAIL_DOORBELL (R61): A write to CFE_Q_TAIL is accepted as the new tail or ignored with CFE_DOORBELL_BAD. -/
  | cfeQTailDoorbell (q v : Nat)
  /-- QUEUE_ENABLE (R60): Setting ENABLE zeroes the queue pointers and makes the queue ACTIVE. -/
  | queueEnable (q ctl : Nat)
  /-- QUEUE_DISABLE (R60): Clearing ENABLE stops fetches; the queue is DRAINING until its fetched tasks have records, then DISABLED. -/
  | queueDisable (q ctl : Nat)
  /-- EVQ_ENABLE (R83): Writing ENABLE in CFE_EVQ_CTL enables an event ring with pointers 0. -/
  | evqEnable (i ctl : Nat)
  /-- CFE_EVQ_POP (R86): A read of CFE_EVQ_POP returns and consumes the head event entry, or flags UNDERRUN on an empty ring. -/
  | cfeEvqPop (i : Nat)
  /-- CFE_EVQ_GAP (R85): In the first cycle a slot frees after drops, a gap marker with the drop count is written. -/
  | cfeEvqGap (i : Nat)
  /-- TELEMETRY_ENABLE (R459): Writing CFE_TEL_CTL enables a telemetry ring or changes PERIOD and MASK from the next boundary. -/
  | telemetryEnable (j ctl : Nat)
  /-- TILE_WINDOW_WRITE (R139): A write into the tile window lands in an unowned idle tile or is dropped and counted. -/
  | tileWindowWrite (off width v : Nat)
  /-- ENG_PATH_FENCE (R316): A read of ENG_PATH_FENCE returns after every earlier write on every path is acknowledged, reporting LOST. -/
  | engPathFence
  /-- ENG_RESET (R458): Writing 0xA5C3 to ENG_RESET resets the engine as a pulse on J_RST_N would. -/
  | engReset (key : Nat)
  /-- ERR_CLEAR (R429): Writing CLEAR in ENG_ERR_STATUS empties both error records and clears ALERT when no handling is open. -/
  | errClear
  /-- FSU_SYNC_VALUE_WRITE (R371): An MMIO write of FSU_SYNC_VALUE_c queues a SET of counter c. -/
  | fsuSyncValueWrite (c v : Nat)
  /-- FSU_SYNC_ADD_WRITE (R371): An MMIO write of FSU_SYNC_ADD_c queues an ADD to counter c. -/
  | fsuSyncAddWrite (c v : Nat)
  /-- INVALIDATE (R275): Writing INVALIDATE in STK_PART_k starts or restarts a sweep clearing the partition's tags. -/
  | invalidate (k : Nat) (role : Role)
  /-- INVALIDATE_DONE (R275): The sweep ends after 8,192 sets, clearing INV_BUSY and setting INV_DONE. -/
  | invalidateDone (k : Nat)
  /-- MMIO_REGISTER_WRITE (R453): A write to a register with no behaviour of its own sets its fields under their access codes. -/
  | mmioRegisterWrite (off width v : Nat)
  /-- INBOUND_WRITE (R311): An inbound package write through an aperture commits in requester order, or is refused and dropped. -/
  | inboundWrite (path req off : Nat) (bytes : List Byte)
  /-- INBOUND_READ (R310): An inbound package read through an aperture returns memory, or 0xFF bytes when refused. -/
  | inboundRead (path req off len : Nat)
  /-- TRANSLATION_INVALIDATE (R305): A package invalidation request completes after every access using the old translation has ended. -/
  | translationInvalidate (base len : Nat)
  /-- WRITE_ACK (R313): A path acknowledges an outbound write as visible at its target. -/
  | writeAck (path : Nat)
  /-- HPT_LINK_DOWN (R319): The coherent link stops; host-bound queues pause and coherent traffic waits with writes retained. -/
  | hptLinkDown
  /-- HPT_LINK_UP_SAME_EPOCH (R320): The link returns with the same epoch; retained writes replay, the apply log is rewritten and traffic resumes. -/
  | hptLinkUpSameEpoch
  /-- HPT_LINK_UP_NEW_EPOCH (R321): The link returns with a new epoch; retained writes are discarded, host-bound queues reset and host tiers held. -/
  | hptLinkUpNewEpoch (epoch : Nat)
  /-- HPT_DIE_LOST (R323): A host or accelerator die reported lost ends its tasks with DEST_LOST and discards its writes. -/
  | hptDieLost (die : Nat)
  /-- HPT_ENGINE_ASID_WRITE (R321): Writing HPT_ENGINE_ASID clears TIER_HELD, rewrites the apply log and resumes host-tier traffic. -/
  | hptEngineAsidWrite (v : Nat) (role : Role)
  /-- HPT_APERTURE_WRITE (R309): A write of HPT_APERTURE_k maps or enables an inbound aperture, or is refused. -/
  | hptApertureWrite (k v : Nat) (role : Role)
  /-- TEMP_READ (R288): Every 100 µs the MSS reads each device's temperature and adjusts refresh and throttling. -/
  | tempRead (ch : Nat) (reading : Option Int)
  /-- CHANNEL_RETRAIN (R290): The MSS retrains one channel while holding its traffic for up to 40 µs. -/
  | channelRetrain (ch : Nat) (hold10ns : Nat)
  /-- MSS_RETRAIN (R290): Writing a channel number to MSS_RETRAIN requests a retrain of that channel. -/
  | mssRetrain (ch : Nat) (role : Role)
  /-- RETRAIN_TIMEOUT (R290): A retrain unfinished after 40 µs takes the channel down and raises MSS_CHAN_DOWN. -/
  | retrainTimeout
  /-- SCRUB_STEP (R299): The patrol scrubs an atom and its tag on an idle channel. err is what it finds: as for ROW_RETURN. -/
  | scrubStep (atom err : Nat)
  /-- OVERWRITE (R300): The MSS raises MSS_GENERATION, derives new keys and writes all of GDDR7 as zeros. -/
  | overwrite
  /-- MSS_OVERWRITE_DONE (R300): The overwrite ends and MSS_OVERWRITE_DONE is raised. -/
  | mssOverwriteDone (us : Nat)
  /-- PORT_TRAIN (R328): An Ifeop port trains at 16 lanes, then 8 lanes, or stays down. -/
  | portTrain (port lanes : Nat)
  /-- SFP_PORT_DOWN (R328): A port losing FEC lock or reaching SFP_RETRY_LIMIT goes down and retrains, and its traffic moves to other ports. -/
  | sfpPortDown (port cause : Nat)
  /-- LINK (R332): A LINK cell updates credits, acknowledgements and the delay measurement of its port. -/
  | link (port : Nat) (credits : List Nat) (ack : Nat) (nak : Option Nat) (delay : Nat)
  /-- LINK_CELL_SEND (R332): A port sends a LINK cell at least every 64 cells and every 100 ns. -/
  | linkCellSend (port : Nat)
  /-- READ_REQ (R333): A serving engine receives a READ_REQ, resolves it from its tiers and answers with READ_RSP. -/
  | readReq (hdr : BitVec 128) (body : List Byte)
  /-- READ_RSP (R336): A READ_RSP completes a remote read, or ends its task by its STATUS. -/
  | readRsp (xid status : Nat) (absent : Bool) (row side : List Byte)
  /-- READ_TIMEOUT (R336): A remote read without response in SFP_READ_TIMEOUT is reissued up to twice, then ends with ABORTED_FAULT. -/
  | readTimeout (xid : Nat)
  /-- SYNC (R373): A SYNC cell applies a remote SET or ADD to a local counter, or is refused. -/
  | sync (src ctr op v mseq : Nat)
  /-- COPY (R249): A COPY transfer writes relocation or resync data into this engine's GDDR7. -/
  | copy (src mseq addr : Nat) (bytes : List Byte)
  /-- CONTROL_RESEND (R335): A control message unacknowledged after 20 µs is resent. -/
  | controlResend (dst mseq : Nat)
  /-- DESC_UPDATE (R338): A member receives descriptors of a placement epoch, acknowledges and adopts them. -/
  | descUpdate (src term mseq epoch : Nat) (descs : List (Nat × BitVec 512))
  /-- EPOCH_ADOPTED (R338): The Registrar receives a member's adoption of an epoch. -/
  | epochAdopted (member epoch : Nat)
  /-- FLOORS (R242): A member receives the epoch floor and admission floor for the folio. -/
  | floors (src term mseq epochFloor admFloor : Nat)
  /-- FLOOR_REPORT (R358): The Registrar receives a member's oldest epoch, admission folio and folio number, and may step its own number. -/
  | floorReport (member epoch adm folio : Nat)
  /-- SFP_MEMBER_SILENT (R339): A member without FLOOR_REPORT for SFP_TAKEOVER_FOLIOS is left out of the floors and SFP_MEMBER_SILENT raised. -/
  | sfpMemberSilent (member : Nat)
  /-- MAP_MIRROR (R338): A deputy receives and acknowledges a placement map change. -/
  | mapMirror (src term mseq epoch : Nat) (ack : Bool)
  /-- REGISTRAR_TAKEOVER (R339): A deputy hearing no Registrar for SFP_TAKEOVER_FOLIOS raises the term and takes over. -/
  | registrarTakeover
  /-- LEDGER_READY (R206): A sender receiving LEDGER_READY resends its unacknowledged parcels to that owner, or acts on FRESH. -/
  | ledgerReady (owner : Nat) (fresh : Bool)
  /-- KEY_SWITCH (R343): A member receives KEY_SWITCH naming a slot and switch folio. -/
  | keySwitch (src term slot folio : Nat)
  /-- KEY_SWITCH_FOLIO (R343): At folio F the member starts sending under the new key slot. -/
  | keySwitchFolio
  /-- OLD_KEY_ERASE (R343): At F + SFP_KEY_OVERLAP the member stops accepting and erases the old slot. -/
  | oldKeyErase
  /-- TWIN_HEARTBEAT (R348): A twin receives its partner's per-folio heartbeat. -/
  | twinHeartbeat (src : Nat)
  /-- TWIN_TIMEOUT (R348): A twin without heartbeat for SFP_TWIN_TIMEOUT, or told its partner's hub is lost, goes ALONE and takes over its identity. -/
  | twinTimeout (hubLost : Bool)
  /-- TWIN_FAILOVER (R348): Members receiving TWIN_FAILOVER redirect cells for the lost twin to its partner. -/
  | twinFailover (lost partner : Nat)
  /-- TWIN_RESYNC (R350): A returning twin becomes RESYNC_TARGET and the partner streams every shard and Ledger context to it. -/
  | twinResync
  /-- TWIN_RESTORED (R350): When the resync stream drains, both twins go PAIRED and TWIN_RESTORED is sent. -/
  | twinRestored
  /-- TWIN_RECOPY (R437): After TWIN_MISMATCH the pair copies the shard again from its primary. -/
  | twinRecopy (idx : Nat)
  /-- GARWA_READ (R381): A Garwa READ, over the network or mailbox, returns bytes of an entry's value. -/
  | garwaRead (session : Nat) (role : Role) (index sub offset len : Nat)
  /-- GARWA_WRITE_SEGMENT (R382): A non-final WRITE segment is staged for its entry. -/
  | garwaWriteSegment (session : Nat) (role : Role) (index sub offset : Nat) (bytes : List Byte)
  /-- OD_WRITE (R451): A final WRITE to an entry without behaviour of its own is checked and applied whole, RWS values stored first. -/
  | odWrite (session : Nat) (role : Role) (index sub offset : Nat) (bytes : List Byte)
  /-- STAGED_VALUE_DISCARD (R382): A staged value receiving no segment for 2 s is discarded. -/
  | stagedValueDiscard (index sub : Nat)
  /-- SPDM (R388): The MSC answers an SPDM 1.3 request, including signed MEASUREMENTS. -/
  | spdm (session : Nat) (msg : List Byte)
  /-- DTLS_HANDSHAKE (R380): A management session handshake assigns the highest role whose anchor validates the client chain, or fails with MSC_AUTH_FAIL. -/
  | dtlsHandshake (chain : List Byte) (peer : Nat)
  /-- SESSION_IDLE_CLOSE (R379): A session idle for 60 s is closed. -/
  | sessionIdleClose (session : Nat)
  /-- SEC_MODE_REQ_ENTER (R394): Writing SEC_MODE_REQ = 1 enters confidential mode through the ordered steps, overwriting GDDR7. -/
  | secModeReqEnter (role : Role)
  /-- SEC_MODE_REQ_EXIT (R396): Writing SEC_MODE_REQ = 0 exits confidential mode, erasing keys and overwriting GDDR7. -/
  | secModeReqExit (role : Role)
  /-- SEC_JOB_END (R396): Writing SEC_JOB_END erases keys and overwrites GDDR7 without changing SEC_MODE. -/
  | secJobEnd (role : Role)
  /-- SEC_JOB_ENVELOPE (R390): A KIND 1 envelope installs a job secret in its link key slot, or is refused. -/
  | secJobEnvelope (role : Role) (bytes : List Byte)
  /-- SEC_TABLE_ENVELOPE (R391): A KIND 2 envelope binds a table key to this engine, or is refused. -/
  | secTableEnvelope (role : Role) (bytes : List Byte)
  /-- SEC_TABLE_UNBIND (R391): Writing SEC_TABLE_UNBIND erases a table's key. -/
  | secTableUnbind (role : Role) (table : Nat)
  /-- MSC_FW_IMAGE (R387): A complete MSC_FW_IMAGE is verified and written to the inactive slot, or refused. -/
  | mscFwImage (role : Role) (bytes : List Byte)
  /-- MSC_FW_SWITCH (R387): Writing MSC_FW_SWITCH schedules a switch to the inactive slot at the next folio boundary. -/
  | mscFwSwitch (role : Role)
  /-- FW_RESTART (R387): At the boundary the MSC activates the other slot and restarts from it. -/
  | fwRestart
  /-- FW_HEALTH_TIMEOUT (R387): New firmware not healthy within 10 s is switched back and MSC_FW_FALLBACK raised. -/
  | fwHealthTimeout
  /-- MSC_FW_COMMIT (R387): Writing MSC_FW_COMMIT burns SVN fuses up to the active image's SVN. -/
  | mscFwCommit (role : Role)
  /-- MSC_BOOT (R386): The boot ROM verifies and boots a firmware slot, falling back or failing start-up. -/
  | mscBoot
  /-- UPU_TRAIN_ENTRY_WRITE (R208): A write of UPU_TRAIN_ENTRY sets the selected table's training entry, refused while shards are online except HUSK_LR. -/
  | upuTrainEntryWrite (role : Role) (v : Nat)
  /-- STK_PART_WRITE (R260): A write of STK_PART_k enables, disables or reconfigures a Stacks partition. -/
  | stkPartWrite (k v : Nat) (role : Role)
  /-- STK_PIN_WRITE (R270): A write of STK_PIN_k enables or disables pinning of a table. -/
  | stkPinWrite (k v : Nat) (role : Role)
  /-- PIN_SHARD_LOAD (R270): The engine loads a shard's pinned copy into PIN ways, or marks the entry SHORT. -/
  | pinShardLoad (k idx : Nat)
  /-- IXU_HASH_SLOT_WRITE (R113): A write of IXU_HASH_SLOT selects the hash function, refused while hashed shards are online. -/
  | ixuHashSlotWrite (v : Nat) (role : Role)
  /-- GAU_SPROUT_BIND_WRITE (R106): A write of GAU_SPROUT_BIND_k binds stream slots per queue, refused for foreign system slots. -/
  | gauSproutBindWrite (k v : Nat) (role : Role)
  /-- QNT_RESID_WRITE (R155): A write of QNT_RESID_k configures a residual slot from the next folio boundary. -/
  | qntResidWrite (k v : Nat) (role : Role)
  /-- FSU_NOTIFY_WRITE (R375): A write of FSU_NOTIFY_k arms a notify slot on a counter. -/
  | fsuNotifyWrite (k v : Nat) (role : Role)
  /-- CRU_POD_RESET (R420): A Service write of CRU_POD_RESET resets one logical Pod. -/
  | cruPodReset (pod : Nat) (role : Role)
  /-- POD_RESET (R421): A Pod die resets; its tasks end with POD_LOST and its groups close while the engine runs. -/
  | podReset (pod cause : Nat)
  /-- POD_RESET_EXIT (R420): A Pod leaving reset sends RESYNC, gets its sprouts reloaded and rejoins the deal. -/
  | podResetExit (pod : Nat)
  /-- POD_PLL_UNLOCK (R421): A Pod PLL losing lock while the reference holds resets that Pod. -/
  | podPllUnlock (pod : Nat)
  /-- POD_IDLE_VOLTAGE (R406): A Pod idle for 10 µs lowers VDD_POD to 0.55 V until work arrives. -/
  | podIdleVoltage (pod : Nat)
  /-- D2D_TRAINING_ATTEMPT (R418): A Cafofold link trains, exchanging records, up to three attempts before D2D_FAULT. -/
  | d2dTrainingAttempt (die cause : Nat)
  /-- RESYNC (R419): A received RESYNC restarts the link's training. -/
  | resync (die : Nat)
  /-- CRU_REF_LOST (R401): Loss of the reference holds the links, coasts the core clocks at 250 MHz and raises CRU_REF_LOST. -/
  | cruRefLost (freq : Bool)
  /-- REF_QUALIFIED (R402): A candidate reference qualifies, the PLLs lock and the clocks return under a link hold with CRU_RELOCKED. -/
  | refQualified (port : Option Nat)
  /-- CRU_HOLDOVER_LOST (R403): No relock within 10 ms of holdover takes ports down, puts GDDR7 in self-refresh and raises CRU_HOLDOVER_LOST. -/
  | cruHoldoverLost
  /-- PRESSURE_UPDATE (R413): Every 10 µs the PEU adjusts the power pressure from the input power mean. -/
  | pressureUpdate (pinW iin10mA vinmV : Nat)
  /-- INPUT_CURRENT_TRIP (R414): Input current above 20 A for 10 µs stops the first stage and is contained at engine level. -/
  | inputCurrentTrip (mv : Nat)
  /-- PEU_RAIL_FAULT (R414): A rail out of window for 10 µs shuts the engine's rails down, or a Pod's rail off. -/
  | peuRailFault (rail mv : Nat)
  /-- INPUT_LOSS (R412): Under- or overvoltage stops the input; J_PWRGD falls and rails fall in reverse order. -/
  | inputLoss
  /-- POWER_UP (R412): The PEU brings up the rails in order and raises J_PWRGD. -/
  | powerUp
  /-- J_RST_N_LOW (R416): A recognised low on J_RST_N enters engine reset after commits in progress end. -/
  | jRstNLow (ns : Nat)
  /-- J_RST_N_RISE (R417): J_RST_N rising starts the ordered exit from engine reset. -/
  | jRstNRise
  /-- ENGINE_READY (R417): After reference, links, memory and ports are up, the MSC declares the engine ready. -/
  | engineReady
  /-- HUB_PLL_UNLOCK (R427): A hub or fabric core PLL unlocking while the reference holds is contained at engine level. -/
  | hubPllUnlock
  /-- ENGINE_CONTAINMENT (R430): An engine-level handling stops fetch and admission, flushes records, writes the preserved region and resets the engine. -/
  | engineContainment (cause subsys event source : Nat)
  /-- PACKAGE_CONTAINMENT (R432): A package-level handling holds the engine in reset with ALERT set. -/
  | packageContainment (cause : Nat)
  /-- MSC_CONTAIN_RELEASE (R433): A Service write of MSC_CONTAIN_RELEASE lets the engine leave package containment. -/
  | mscContainRelease (role : Role)
  /-- MSC_POD_RETIRE (R442): A Service write of MSC_POD_RETIRE stops dealing to a Pod, then resets and retires it. -/
  | mscPodRetire (pod : Nat) (role : Role)
  /-- MSC_SPARE_MAP (R441): A spare die is powered, trained, loaded and takes a logical Pod number at the next folio boundary. -/
  | mscSpareMap (die pod : Nat) (role : Role)
  /-- CRU_GATE_WRITE (R407): A write of EN in CRU_GATE gates or ungates subsystem clocks, placing the MSS in self-refresh first and applying held entry writes on ungating. -/
  | cruGateWrite (v : Nat)
  /-- SFP_REF_PORT_WRITE (R345): A write of SFP_REF_PORT changes the port nominated as clock reference, which the CRU then qualifies or moves to. -/
  | sfpRefPortWrite (v : Nat) (role : Role)
  /-- STREAM_READ_RETURN (R117): Data read by a sprout stream (indices, offsets, weights, fused tensor, gradients, scales) returns into its stream buffer, or faults. -/
  | streamReadReturn (pod t kind : Nat)
  /-- ARB_WINDOW_BOUNDARY (R116): At each window of 4,096 hub cycles, the ports renew class shares, the switch between fixed and deadline sharing takes effect with GAU_ARB_MODE, and throttle levels change. -/
  | arbWindowBoundary
  /-- CONTROL_ACK (R335): An acknowledgement of a control message arrives at its source, stopping its resend and completing a remote SYNC_OP or reporting its refusal. -/
  | controlAck (src mseq : Nat) (refused : Bool)
  /-- BAD_CELL (R337): A cell with a reserved TYPE, a foreign Collection ID or a non-member source arrives and is dropped and counted in SFP_BAD_CELLS. -/
  | badCell (type coll src : Nat)
  /-- UNCORRECTABLE_CODEWORD (R331): A receiver finding an uncorrectable RS codeword drops the cell and every later cell and sends a NAK naming the first missing number. -/
  | uncorrectableCodeword (port num : Nat)
  /-- TWIN_MIRRORED_PARCEL (R347): In PAIRED, the partner receives a parcel mirrored by the primary with its journal entry and intake number, journals it and later applies it. -/
  | twinMirroredParcel (src intake : Nat) (bytes : List Byte)
  /-- TWIN_PARTNER_REPORT (R347): The primary receives the partner's report that a mirrored parcel is journalled, letting it apply, or applied, letting it send applied. -/
  | twinPartnerReport (source seq : Nat) (applied : Bool)
  /-- TWIN_RESTORED_NOTICE (R350): A member receiving TWIN_RESTORED stops redirecting cells for the returned twin to its partner. -/
  | twinRestoredNotice (twin : Nat)
  /-- MSC_RESTART_DONE (R387): The MSC finishes restarting from the new slot within 250 ms, mailbox BUSY clears, sessions may open, and events held during the restart are posted. -/
  | mscRestartDone
  /-- CONTAINMENT_FLUSH_END (R430): When MSC_FLUSH_TIME expires in an engine-level handling, record writing stops, the preserved region is written and the engine enters reset. -/
  | containmentFlushEnd
  /-- REFCLK_QUALIFY_TIMEOUT (R444): J_REFCLK not qualified within 100 ms of J_RST_N rising leaves the engine in start-up with START_CAUSE 1 and sends MSC_START_FAIL. -/
  | refclkQualifyTimeout
  deriving DecidableEq, Repr

end Sys2Proof
end

