-- ==== Sys2Proof/Decode.lean ====
section
/-! DEFINITION. The command that a word spells by the table's bits. No row of the table of operations and events gives
bits, so no word spells a command (log 3). -/

namespace Sys2Proof

/-- The command of an instruction word of nbits bits: none, since the table gives no row any bits. -/
def decodeTableWord (_nbits _w : Nat) : Option Instr := none

end Sys2Proof
end

