-- ==== Sys2Proof/Machine/Bits.lean ====
section
/-! DEFINITION. Fields of numbers, and little-endian byte strings (R2). -/

namespace Sys2Proof.Machine

/-- Bits [hi:lo] of a number. -/
def bitsOf (v hi lo : Nat) : Nat := (v >>> lo) % 2 ^ (hi + 1 - lo)

/-- Bit b of a number. -/
def bitOf (v b : Nat) : Bool := (v >>> b) % 2 == 1

/-- A number with bits [hi:lo] replaced. -/
def setBits (v hi lo x : Nat) : Nat :=
  v - (bitsOf v hi lo <<< lo) + ((x % 2 ^ (hi + 1 - lo)) <<< lo)

/-- A number with bit b set to a truth value. -/
def setBit (v b : Nat) (x : Bool) : Nat := setBits v b b (if x then 1 else 0)

/-- A truth value as a bit. -/
def bit (x : Bool) : Nat := if x then 1 else 0

/-- The number that bytes hold, least significant first (R2). -/
def leNat : List Byte → Nat
  | [] => 0
  | b :: bs => b.toNat + 256 * leNat bs

/-- The n low bytes of a number, least significant first (R2). -/
def leBytes : Nat → Nat → List Byte
  | 0, _ => []
  | n + 1, v => BitVec.ofNat 8 v :: leBytes n (v / 256)

/-- n bytes of a byte string from an offset; bytes beyond its end read as zero. -/
def sliceBytes (off n : Nat) (bs : List Byte) : List Byte :=
  let t := (bs.drop off).take n
  t ++ List.replicate (n - t.length) 0

/-- The number in n bytes of a byte string. -/
def numAt (off n : Nat) (bs : List Byte) : Nat := leNat ((bs.drop off).take n)

/-- A byte string with bytes replaced from an offset. -/
def pasteBytes (off : Nat) (new bs : List Byte) : List Byte :=
  bs.take off ++ new ++ bs.drop (off + new.length)

/-- ⌈a / b⌉, and 0 when b is 0. -/
def cdiv (a b : Nat) : Nat := (a + b - 1) / b

/-- a rounded up to a multiple of b. -/
def roundUp (a b : Nat) : Nat := cdiv a b * b

/-- A number of n bits read as two's complement. -/
def toSigned (n v : Nat) : Int := if 2 ^ (n - 1) ≤ v % 2 ^ n then (v % 2 ^ n : Nat) - (2 ^ n : Nat) else (v % 2 ^ n : Nat)

/-- An integer as n bits of two's complement. -/
def ofSigned (n : Nat) (i : Int) : Nat := (i % (2 ^ n : Nat)).toNat

/-- How many of the low n bits are set. -/
def popCount : Nat → Nat → Nat
  | 0, _ => 0
  | n + 1, v => v % 2 + popCount n (v / 2)

/-- The lowest set bit among n. -/
def lowBit : Nat → Nat → Option Nat
  | 0, _ => none
  | n + 1, v => if v % 2 == 1 then some 0 else (lowBit n (v / 2)).map (· + 1)

/-- The smaller of a count and its ceiling. -/
def satTo (m v : Nat) : Nat := if v ≤ m then v else m

end Sys2Proof.Machine
end

