-- ==== Sys2Proof/Machine/Operands.lean ====
section
/-! DEFINITION. The fields of a descriptor (Tables 3.6 to 3.16), each under the name its table gives it. -/

namespace Sys2Proof.Machine

/-- Bits [hi:lo] of a descriptor. -/
def df (d : Desc) (hi lo : Nat) : Nat := bitsOf d.toNat hi lo
/-- Bit b of a descriptor. -/
def db (d : Desc) (b : Nat) : Bool := bitOf d.toNat b

/-! ## Header (Table 3.6) -/

/-- TAG. -/
def dTag (d : Desc) : Nat := df d 63 32
/-- EVENT. -/
def dEvent (d : Desc) : Bool := db d 19
/-- STRICT. -/
def dStrict (d : Desc) : Bool := db d 18
/-- ORDERED. -/
def dOrdered (d : Desc) : Bool := db d 17
/-- XPATH. -/
def dXpath (d : Desc) : Bool := db d 16
/-- PRIO. -/
def dPrio (d : Desc) : Nat := df d 11 10
/-- LAT. -/
def dLat (d : Desc) : Nat := df d 9 8
/-- OPCODE. -/
def dOp (d : Desc) : Nat := df d 7 0

/-- The opcodes of Table 3.7. -/
def opNop : Nat := 0x01
/-- FENCE. -/
def opFence : Nat := 0x02
/-- SYNC_OP. -/
def opSync : Nat := 0x03
/-- LOOKUP. -/
def opLookup : Nat := 0x10
/-- LOOKUP_FOLD. -/
def opFold : Nat := 0x11
/-- UPDATE. -/
def opUpdate : Nat := 0x18
/-- ROW_WRITE. -/
def opRowWrite : Nat := 0x20
/-- TABLE_CTL. -/
def opCtl : Nat := 0x21
/-- RELOCATE. -/
def opReloc : Nat := 0x22
/-- GROUP_OPEN. -/
def opGOpen : Nat := 0x28
/-- GROUP_CLOSE. -/
def opGClose : Nat := 0x29
/-- TILE_READ. -/
def opTRead : Nat := 0x2A
/-- TILE_WRITE. -/
def opTWrite : Nat := 0x2B
/-- ZERO. -/
def opZero : Nat := 0x2C
/-- SPROUT_LOAD. -/
def opSprout : Nat := 0x30

/-- A LOOKUP or a LOOKUP_FOLD. -/
def dIsLookup (d : Desc) : Bool := dOp d == opLookup || dOp d == opFold
/-- An opcode whose body uses the lookup fields of Table 3.8. -/
def dIsIndexed (d : Desc) : Bool := dIsLookup d || dOp d == opUpdate

/-! ## LOOKUP, LOOKUP_FOLD and UPDATE (Tables 3.8 and 3.9) -/

/-- TABLE_ID of a LOOKUP, LOOKUP_FOLD, UPDATE, ROW_WRITE or RELOCATE. -/
def dTable (d : Desc) : Nat := df d 79 64
/-- POOL: 0 SUM, 1 MEAN, 2 SQRTN, 3 WSUM, 4 MAX, 5 MIN, 6 GATHER. -/
def dPool (d : Desc) : Nat := df d 82 80
/-- The bytes of an index, from IDX_W. -/
def dIdxBytes (d : Desc) : Nat := if db d 83 then 8 else 4
/-- INLINE of a lookup. -/
def dInline (d : Desc) : Nat := df d 85 84
/-- PIN. -/
def dPin (d : Desc) : Bool := db d 86
/-- The bytes of an offset, from OFF_W. -/
def dOffBytes (d : Desc) : Nat := if db d 87 then 8 else 4
/-- OUT_FMT. -/
def dOutFmt (d : Desc) : Nat := df d 91 88
/-- GROUP of a lookup whose OUT_ADDR names tiles. -/
def dOutGroup (d : Desc) : Nat := df d 103 96
/-- OUT_ADDR, or GRAD_ADDR of an UPDATE. -/
def dOutAddr (d : Desc) : Nat := df d 191 128
/-- BAG_COUNT. -/
def dBags (d : Desc) : Nat := df d 215 192
/-- INLINE_COUNT. -/
def dInlineCount (d : Desc) : Nat := df d 220 216
/-- OUT_STRIDE. -/
def dOutStride (d : Desc) : Nat := df d 239 224
/-- PIN_EPOCH. -/
def dPinEpoch (d : Desc) : Nat := df d 255 240
/-- INDEX_ADDR. -/
def dIndexAddr (d : Desc) : Nat := df d 319 256
/-- OFFSET_ADDR. -/
def dOffsetAddr (d : Desc) : Nat := df d 383 320
/-- WEIGHT_ADDR. -/
def dWeightAddr (d : Desc) : Nat := df d 447 384
/-- INDEX_COUNT as the descriptor gives it: INLINE_COUNT with inline data (R69). -/
def dIndexCount (d : Desc) : Nat := if dInline d = 0 then df d 487 448 else dInlineCount d
/-- FUSE_ADDR of a lookup; an inline task has no fusion (R69). -/
def dFuseAddr (d : Desc) : Nat := if dInline d = 0 then df d 575 512 else 0
/-- FUSE_OP of a lookup. -/
def dFuseOp (d : Desc) : Nat := if dInline d = 0 then df d 577 576 else 0
/-- FUSE_FMT of a lookup. -/
def dFuseFmt (d : Desc) : Nat := if dInline d = 0 then df d 579 578 else 0
/-- FOLD_W_ADDR. -/
def dFoldW (d : Desc) : Nat := df d 703 640
/-- N of the Fold weights, from FOLD_N_M1. -/
def dFoldN (d : Desc) : Nat := df d 719 704 + 1
/-- IN_BITS in bits. -/
def dInBits (d : Desc) : Nat := match df d 737 736 with | 0 => 2 | 1 => 3 | 2 => 4 | _ => 8
/-- W_BITS in bits. -/
def dWBits (d : Desc) : Nat := match df d 739 738 with | 0 => 2 | 1 => 4 | _ => 8
/-- BUF_HALF. -/
def dBufHalf (d : Desc) : Nat := df d 740 740
/-- PRELOADED. -/
def dPreloaded (d : Desc) : Bool := db d 741
/-- FOLD_SCALE_ADDR. -/
def dFoldScale (d : Desc) : Nat := df d 831 768

/-- STEP of an UPDATE. -/
def dStep (d : Desc) : Nat := df d 255 224
/-- LR of an UPDATE. -/
def dLr (d : Desc) : F32 := BitVec.ofNat 32 (df d 127 96)
/-- OPT of an UPDATE. -/
def dOpt (d : Desc) : Nat := df d 95 92
/-- DEEP of an UPDATE. -/
def dDeep (d : Desc) : Bool := db d 90
/-- GRAD_FMT of an UPDATE. -/
def dGradFmt (d : Desc) : Nat := df d 89 88

/-- Inline index k (R69). -/
def dInlineIndex (d : Desc) (k : Nat) : Nat := (d.toNat >>> (256 + 8 * dIdxBytes d * k)) % 2 ^ (8 * dIdxBytes d)
/-- Inline weight k (R69). -/
def dInlineWeight (d : Desc) (k : Nat) : F32 := BitVec.ofNat 32 (d.toNat >>> (640 + 32 * k))

/-- The most indices that an inline form holds (R69). -/
def dInlineMax (d : Desc) : Nat :=
  match dInline d with
  | 1 => if db d 83 then 12 else 24
  | _ => if db d 83 then 6 else 12

/-- OUT_ADDR names tiles. -/
def dToTiles (d : Desc) : Bool := df d 189 188 == 3
/-- The first byte address of the tiles of OUT_ADDR. -/
def dOutTileAddr (d : Desc) : Nat := df d 184 128

/-! ## ROW_WRITE (Table 3.10) -/

/-- INLINE of a ROW_WRITE. -/
def rwInline (d : Desc) : Bool := db d 80
/-- QUANT. -/
def rwQuant (d : Desc) : Bool := db d 81
/-- REPLACE. -/
def rwReplace (d : Desc) : Bool := db d 82
/-- ROW. -/
def rwRow (d : Desc) : Nat := df d 127 88
/-- SRC_ADDR. -/
def rwSrc (d : Desc) : Nat := df d 191 128
/-- ROW_COUNT. -/
def rwCount (d : Desc) : Nat := df d 223 192
/-- INLINE_DATA of a ROW_WRITE as bytes. -/
def rwData (d : Desc) : List Byte := leBytes 96 (df d 1023 256)

/-! ## TABLE_CTL (Table 3.11) -/

/-- CTL_OP. -/
def tcOp (d : Desc) : Nat := df d 71 64
/-- TABLE_ID of a TABLE_CTL. -/
def tcTable (d : Desc) : Nat := df d 95 80
/-- DESC_INDEX. -/
def tcIndex (d : Desc) : Nat := df d 115 96
/-- NEW_STATE. -/
def tcState (d : Desc) : Nat := df d 117 116
/-- DATA_ADDR. -/
def tcAddr (d : Desc) : Nat := df d 191 128
/-- INLINE of a TABLE_CTL. -/
def tcInline (d : Desc) : Bool := db d 192
/-- INLINE_DATA as a shard descriptor. -/
def tcDesc (d : Desc) : BitVec 512 := BitVec.ofNat 512 (df d 767 256)
/-- INLINE_DATA as a directory entry. -/
def tcDir (d : Desc) : BitVec 128 := BitVec.ofNat 128 (df d 383 256)

/-! ## RELOCATE (Table 3.12) -/

/-- SHARD_NO. -/
def rlShard (d : Desc) : Nat := df d 95 80
/-- NEW_ENGINE. -/
def rlEngine (d : Desc) : Nat := df d 105 96
/-- NEW_TIER. -/
def rlTier (d : Desc) : Nat := df d 107 106
/-- REL_OP. -/
def rlOp (d : Desc) : Nat := df d 111 108
/-- ROW of a RELOCATE. -/
def rlRow (d : Desc) : Nat := df d 167 128
/-- NEW_BASE, ÷ 32. -/
def rlBase (d : Desc) : Nat := df d 241 192
/-- TARGET_EPOCH. -/
def rlEpoch (d : Desc) : Nat := df d 287 256

/-! ## Groups and tiles (Tables 3.13 and 3.14) -/

/-- GROUP. -/
def gpGroup (d : Desc) : Nat := df d 71 64
/-- POD of a GROUP_OPEN or GROUP_CLOSE. -/
def gpPod (d : Desc) : Nat := df d 75 72
/-- FUSE_OP of a GROUP_CLOSE. -/
def gpFuseOp (d : Desc) : Nat := df d 77 76
/-- FUSE_FMT of a GROUP_CLOSE. -/
def gpFuseFmt (d : Desc) : Nat := df d 79 78
/-- TILE_FIRST. -/
def gpFirst (d : Desc) : Nat := df d 103 80
/-- TILE_COUNT. -/
def gpCount (d : Desc) : Nat := df d 119 104
/-- FUSE_ADDR of a GROUP_CLOSE. -/
def gpFuseAddr (d : Desc) : Nat := df d 191 128
/-- OUT_ADDR of a GROUP_CLOSE. -/
def gpOutAddr (d : Desc) : Nat := df d 255 192
/-- OUT_FMT of a GROUP_CLOSE. -/
def gpOutFmt (d : Desc) : Nat := df d 259 256
/-- GROUPED. -/
def tlGrouped (d : Desc) : Bool := db d 72
/-- MEM_ADDR. -/
def tlAddr (d : Desc) : Nat := df d 191 128
/-- LENGTH of a ZERO. -/
def tlLength (d : Desc) : Nat := df d 231 192

/-- POD of a tile address (Table 5.2). -/
def tilePod (t : Nat) : Nat := bitsOf t 23 20
/-- KIND of a tile address. -/
def tileKind (t : Nat) : Nat := bitsOf t 19 16
/-- TILE of a tile address. -/
def tileNum (t : Nat) : Nat := t % 2 ^ 16

/-! ## SYNC_OP and SPROUT_LOAD (Tables 3.15 and 3.16) -/

/-- OP of a SYNC_OP. -/
def syOp (d : Desc) : Nat := df d 67 64
/-- AFTER. -/
def syAfter (d : Desc) : Bool := db d 68
/-- COUNTER. -/
def syCounter (d : Desc) : Nat := df d 83 72
/-- ENGINE. -/
def syEngine (d : Desc) : Nat := df d 93 84
/-- TIMEOUT. -/
def syTimeout (d : Desc) : Nat := df d 127 96
/-- VALUE. -/
def syValue (d : Desc) : Nat := df d 191 128
/-- SLOT of a SPROUT_LOAD. -/
def spSlot (d : Desc) : Nat := df d 71 64
/-- POD of a SPROUT_LOAD. -/
def spPod (d : Desc) : Nat := df d 75 72
/-- ALL_PODS. -/
def spAll (d : Desc) : Bool := db d 76
/-- KIND: false a sprout, true index-hash microcode. -/
def spHash (d : Desc) : Bool := db d 77
/-- LENGTH, ÷ 8 bytes. -/
def spLength (d : Desc) : Nat := df d 95 80
/-- SRC_ADDR of a SPROUT_LOAD. -/
def spSrc (d : Desc) : Nat := df d 191 128

/-! ## Reserved fields (R4) -/

/-- Every bit range of a list is 0. -/
def allZero (d : Desc) (rs : List (Nat × Nat)) : Bool := rs.all (fun r => df d r.1 r.2 == 0)

/-- The reserved fields of a lookup with fields (Table 3.8); inline data replaces bits [1023:256] (R69). A GROUP that is not 0
while OUT_ADDR names no tiles is not among them: it is ignored (log 98). -/
def lookupReserved (d : Desc) : Bool :=
  allZero d [(223, 221), (127, 104), (95, 92)] &&
  (dInline d ≠ 0 || allZero d [(1023, 832), (767, 742), (735, 720), (639, 580), (511, 488)]) &&
  (dOp d == opFold || dInline d ≠ 0 || allZero d [(831, 640)])

/-- The reserved fields of an UPDATE (R70). -/
def updateReserved (d : Desc) : Bool :=
  !dPin d && allZero d [(91, 91), (223, 221)] && (dInline d ≠ 0 || allZero d [(1023, 488)])

/-- The fields that a RELOCATE operation does not use, as bit ranges (R73 and 09; log 14 for SHARD_NO). -/
def relocUnused (d : Desc) : List (Nat × Nat) :=
  match rlOp d with
  | 0 => [(167, 128)]
  | 1 => [(105, 80), (287, 256)]
  | 2 => [(107, 80), (241, 192), (287, 256)]
  | 3 => [(107, 80), (241, 192), (287, 256)]
  | 4 => [(107, 96), (167, 128), (241, 192)]
  | 5 => [(107, 96), (167, 128), (287, 256)]
  | _ => [(107, 96), (167, 128), (241, 192), (287, 256)]

/-- The parts of a TABLE_CTL that its operation gives no use are 0: inline data without INLINE, the rest of the inline
data of a WRITE_DIR, and NEW_STATE outside SET_STATE (Table 3.11, R4; log 14). -/
def ctlUnused (d : Desc) : Bool :=
  (if tcInline d then (tcOp d != 1 || df d 767 384 == 0) else df d 767 256 == 0) &&
  (tcOp d == 3 || tcState d == 0)

/-- Every reserved field of the descriptor is 0, under its opcode; a field that a form does not use is reserved in it
(R4, log 14). -/
def reservedOk (d : Desc) : Bool :=
  allZero d [(31, 20), (15, 12)] &&
  (let op := dOp d
   if op == opNop || op == opFence then allZero d [(1023, 64)]
   else if op == opSync then allZero d [(1023, 192), (95, 94), (71, 69)]
   else if op == opLookup || op == opFold then lookupReserved d
   else if op == opUpdate then updateReserved d
   else if op == opRowWrite then
     allZero d [(255, 224), (87, 83)] && (if rwInline d then rwSrc d == 0 else df d 1023 256 == 0)
   else if op == opCtl then
     allZero d [(1023, 768), (255, 193), (127, 118), (79, 72)] && ctlUnused d
   else if op == opReloc then
     allZero d [(1023, 288), (255, 242), (191, 168), (127, 112)] && allZero d (relocUnused d)
   else if op == opGOpen then allZero d [(1023, 192), (191, 120), (79, 76)]
   else if op == opGClose then allZero d [(1023, 260), (127, 80)]
   else if op == opTRead || op == opTWrite then allZero d [(1023, 192), (127, 120), (79, 73)]
   else if op == opZero then allZero d [(1023, 232), (127, 120), (79, 73)]
   else allZero d [(1023, 192), (127, 96), (79, 78)])

end Sys2Proof.Machine
end

