-- ==== Sys2Proof/Config.lean ====
section
/-! DEFINITION. What the manual leaves open: free values, and the cryptographic functions, none of which has a body,
so that nothing can be proved from a value of theirs (log 4). -/

namespace Sys2Proof

/-- A free value: what a bit pattern that no rule fixes holds, one for each draw (log 4). -/
opaque Config.freeWord : Nat → BitVec 64

/-- A free byte string: what memory holds whose contents a rule leaves unspecified, by draw and place (log 4). -/
opaque Config.freeByte : Nat → Nat → BitVec 8

/-- Whether a firmware image's signature verifies under the fused key digest (R386). -/
opaque Config.fwSigned : List Byte → Bool

/-- The version and the SVN that a firmware image names (R386). -/
opaque Config.fwVersion : List Byte → Nat
opaque Config.fwSvn : List Byte → Nat

/-- ECDH on P-384 between the engine's agreement key and a public key, and AES key unwrap (RFC 3394) under a key, none when its
integrity check fails (R389). Published functions that the manual names and does not restate; the agreement key is fused. -/
opaque Config.agree : List Byte → List Byte
opaque Config.keyUnwrap : List Byte → List Byte → Option (List Byte)

/-- The plaintext of AES-256-GCM if its tag verifies: key, IV, associated data, ciphertext, tag (R341). A published function
that the manual names and does not restate. -/
opaque Config.gcmOpen : List Byte → List Byte → List Byte → List Byte → List Byte → Option (List Byte)

/-- Whether a client's certificate chain is validated by the root whose SHA-384 digest is given (R380). -/
opaque Config.chainValid : List Byte → Nat → Bool

/-- The fused Service anchor digest and firmware key digest, 48 bytes each (R384). -/
opaque Config.serviceAnchor : List Byte
opaque Config.firmwareKey : List Byte

/-- SHA-384, 48 bytes. A published function that the manual names and does not restate. -/
opaque Config.sha384 : List Byte → List Byte

/-- The digests of the boot ROM and of the system sprouts in slots 0 to 15, which the manual does not give (Table 15.5). -/
opaque Config.bootRom : List Byte
opaque Config.systemSprouts : List Byte

/-- The answer to an SPDM message of a request that the MSC supports (R388), given the message and the measured values. -/
opaque Config.spdmAnswer : List Byte → List Byte → List Byte

/-- The bytes of the entries that are set at manufacture or by the package (Tables 15.10 and 12.7), by key. -/
opaque Config.manufactured : Nat → List Byte

/-- The hash of destination, transfer and part that picks the port of a cell (R334): the manual does not give it. -/
opaque Config.portHash : Nat → Nat → Nat → Nat

/-- Which of the sizes 4 KiB, 64 KiB, 2 MiB and 1 GiB the package reports for the page that holds a 4 KiB page of an address
space, modulo 4 (R305). -/
opaque Config.pageSize : Nat → Nat → Nat

/-- The set of the line directory that a line of a tier at an address maps to: the manual gives 16 ways and not the map
(R263). -/
opaque Config.dirSet : Nat → Nat → Nat

/-- Whether another engine can take a shard: it holds the shard's descriptor, and the array lies inside its usable memory. By
engine, descriptor index, tier and base; this engine cannot tell it, and the manual names no message that asks (R248). -/
opaque Config.peerTakes : Nat → Nat → Nat → Nat → Bool

/-- The fused memory root key (R294). -/
opaque Config.memRoot : List Byte

/-- The counter-mode KDF of NIST SP 800-108 with HMAC-SHA-384, 32 bytes: a key, a label, a context. AES-256 of one block, and
AES-256-CMAC: a key, a message. Published functions that the manual names and does not restate (R293 to R295). -/
opaque Config.kdf : List Byte → List Byte → List Byte → List Byte
opaque Config.aes256 : List Byte → List Byte → List Byte
opaque Config.cmac256 : List Byte → List Byte → List Byte

/-- CRC-32 of IEEE 802.3 over bytes (R322). A published function that the manual names and does not restate. -/
opaque Config.crc32 : List Byte → BitVec 32

end Sys2Proof
end

