-- ==== Sys2Proof/Machine/Events.lean ====
section
/-! DEFINITION. The events of the engine (Tables 3.23, 4.9, 5.5, 6.6, 7.5, 8.10, 9.7, 10.7, 11.7, 12.8, 13.9, 14.8,
15.11, 16.13 and 17.8) with the severities of Table 3.25, the status codes of Table 3.19, and the entry of
Table 3.22. -/

namespace Sys2Proof.Machine

/-- An event: SUBSYS, EVENT and SEVERITY. -/
structure EvKind where
  sub : Nat
  num : Nat
  sev : Nat
  deriving DecidableEq, Repr

/-- CFE_QUEUE_RESET. -/
def evCfeQueueReset : EvKind := ⟨0, 1, 2⟩
/-- CFE_EVQ_GAP. -/
def evCfeEvqGap : EvKind := ⟨0, 2, 1⟩
/-- CFE_DOORBELL_BAD. -/
def evCfeDoorbellBad : EvKind := ⟨0, 3, 1⟩
/-- CFE_FETCH_FAULT. -/
def evCfeFetchFault : EvKind := ⟨0, 4, 2⟩
/-- CFE_TASK_DONE. -/
def evCfeTaskDone : EvKind := ⟨0, 5, 0⟩
/-- CAT_SLOTS_EMPTY. -/
def evCatSlotsEmpty : EvKind := ⟨1, 1, 1⟩
/-- CAT_SHARD_HOT. -/
def evCatShardHot : EvKind := ⟨1, 2, 0⟩
/-- CAT_INVAL_TIMEOUT. -/
def evCatInvalTimeout : EvKind := ⟨1, 3, 1⟩
/-- IXU_DEFAULT_RATE. -/
def evIxuDefaultRate : EvKind := ⟨2, 1, 1⟩
/-- GAU_ARB_MODE. -/
def evGauArbMode : EvKind := ⟨3, 1, 0⟩
/-- GAU_STREAM_FAULT. -/
def evGauStreamFault : EvKind := ⟨3, 2, 2⟩
/-- STK_WAY_RETIRED. -/
def evStkWayRetired : EvKind := ⟨4, 1, 1⟩
/-- STK_PIN_SHORT. -/
def evStkPinShort : EvKind := ⟨4, 2, 1⟩
/-- MSS_THROTTLE. -/
def evMssThrottle : EvKind := ⟨5, 1, 1⟩
/-- MSS_CHAN_DOWN. -/
def evMssChanDown : EvKind := ⟨5, 2, 3⟩
/-- MSS_RETRAIN. -/
def evMssRetrain : EvKind := ⟨5, 3, 0⟩
/-- MSS_TAG_FAIL. -/
def evMssTagFail : EvKind := ⟨5, 4, 2⟩
/-- MSS_TEMP_LOST. -/
def evMssTempLost : EvKind := ⟨5, 5, 1⟩
/-- MSS_OVERWRITE_DONE. -/
def evMssOverwriteDone : EvKind := ⟨5, 6, 0⟩
/-- PLU_GROUP_DROPPED. -/
def evPluGroupDropped : EvKind := ⟨6, 1, 1⟩
/-- FLU_PRELOAD_MISS. -/
def evFluPreloadMiss : EvKind := ⟨7, 1, 1⟩
/-- FLU_WLOAD_FAULT. -/
def evFluWloadFault : EvKind := ⟨7, 2, 2⟩
/-- QNT_SCALE_LOW. -/
def evQntScaleLow : EvKind := ⟨8, 1, 1⟩
/-- QNT_SCALE_HIGH. -/
def evQntScaleHigh : EvKind := ⟨8, 2, 1⟩
/-- UPU_RETAIN_FULL. -/
def evUpuRetainFull : EvKind := ⟨9, 1, 1⟩
/-- UPU_LEDGER_READY. -/
def evUpuLedgerReady : EvKind := ⟨9, 2, 0⟩
/-- UPU_APPLY_FAULT. -/
def evUpuApplyFault : EvKind := ⟨9, 3, 2⟩
/-- UPU_ABANDONED. -/
def evUpuAbandoned : EvKind := ⟨9, 4, 3⟩
/-- UPU_STRAY. -/
def evUpuStray : EvKind := ⟨9, 5, 1⟩
/-- HPT_LINK_DOWN. -/
def evHptLinkDown : EvKind := ⟨10, 1, 1⟩
/-- HPT_LINK_UP. -/
def evHptLinkUp : EvKind := ⟨10, 2, 0⟩
/-- HPT_DIE_LOST. -/
def evHptDieLost : EvKind := ⟨10, 3, 2⟩
/-- HPT_INBOUND_REJECT. -/
def evHptInboundReject : EvKind := ⟨10, 4, 1⟩
/-- HPT_PRESERVED_WRITTEN. -/
def evHptPreservedWritten : EvKind := ⟨10, 5, 0⟩
/-- SFP_PORT_DOWN. -/
def evSfpPortDown : EvKind := ⟨11, 1, 1⟩
/-- SFP_PORT_UP. -/
def evSfpPortUp : EvKind := ⟨11, 2, 0⟩
/-- SFP_AUTH_FAIL. -/
def evSfpAuthFail : EvKind := ⟨11, 3, 2⟩
/-- SFP_KEY_WEAR. -/
def evSfpKeyWear : EvKind := ⟨11, 4, 1⟩
/-- SFP_REGISTRAR_CHANGE. -/
def evSfpRegistrarChange : EvKind := ⟨11, 5, 1⟩
/-- SFP_MEMBER_SILENT. -/
def evSfpMemberSilent : EvKind := ⟨11, 6, 1⟩
/-- SFP_TWIN_STATE. -/
def evSfpTwinState : EvKind := ⟨11, 7, 1⟩
/-- SFP_TWIN_MISMATCH. -/
def evSfpTwinMismatch : EvKind := ⟨11, 8, 2⟩
/-- FSU_DEGRADED. -/
def evFsuDegraded : EvKind := ⟨12, 1, 1⟩
/-- FSU_ALIGNED. -/
def evFsuAligned : EvKind := ⟨12, 2, 0⟩
/-- FSU_STEP. -/
def evFsuStep : EvKind := ⟨12, 3, 1⟩
/-- FSU_TICK_LOST. -/
def evFsuTickLost : EvKind := ⟨12, 4, 1⟩
/-- FSU_TICK_RESTORED. -/
def evFsuTickRestored : EvKind := ⟨12, 5, 0⟩
/-- FSU_COUNTER_NOTIFY. -/
def evFsuCounterNotify : EvKind := ⟨12, 6, 0⟩
/-- MSC_MODE. -/
def evMscMode : EvKind := ⟨13, 1, 0⟩
/-- MSC_FW_SWITCH. -/
def evMscFwSwitch : EvKind := ⟨13, 2, 0⟩
/-- MSC_FW_FALLBACK. -/
def evMscFwFallback : EvKind := ⟨13, 3, 2⟩
/-- MSC_AUTH_FAIL. -/
def evMscAuthFail : EvKind := ⟨13, 4, 1⟩
/-- MSC_ENVELOPE_REFUSED. -/
def evMscEnvelopeRefused : EvKind := ⟨13, 5, 1⟩
/-- MSC_SEAL_FAIL. -/
def evMscSealFail : EvKind := ⟨13, 6, 2⟩
/-- MSC_CONTAINED. -/
def evMscContained : EvKind := ⟨13, 7, 2⟩
/-- MSC_RETIRED. -/
def evMscRetired : EvKind := ⟨13, 8, 2⟩
/-- MSC_SPARE_MAPPED. -/
def evMscSpareMapped : EvKind := ⟨13, 9, 1⟩
/-- MSC_STATE_LOST. -/
def evMscStateLost : EvKind := ⟨13, 10, 3⟩
/-- MSC_START_FAIL. -/
def evMscStartFail : EvKind := ⟨13, 11, 3⟩
/-- CRU_REF_LOST. -/
def evCruRefLost : EvKind := ⟨14, 1, 1⟩
/-- CRU_RELOCKED. -/
def evCruRelocked : EvKind := ⟨14, 2, 0⟩
/-- CRU_HOLDOVER_LOST. -/
def evCruHoldoverLost : EvKind := ⟨14, 3, 3⟩
/-- CRU_POD_RESET. -/
def evCruPodReset : EvKind := ⟨14, 4, 2⟩
/-- CRU_D2D_FAULT. -/
def evCruD2dFault : EvKind := ⟨14, 5, 2⟩
/-- PEU_LIMITING. -/
def evPeuLimiting : EvKind := ⟨15, 1, 1⟩
/-- PEU_RAIL_FAULT. -/
def evPeuRailFault : EvKind := ⟨15, 2, 3⟩
/-- PEU_RAIL_FAULT of a VDD_POD rail (Table 3.25). -/
def evPeuPodRailFault : EvKind := ⟨15, 2, 2⟩

/-- OK (Table 3.19). -/
def stOk : Nat := 0x0000
/-- OK_DEFAULTS (Table 3.19). -/
def stOkDefaults : Nat := 0x0001
/-- BAG_LONG (Table 3.19). -/
def stBagLong : Nat := 0x0002
/-- FOLIO_OVERRUN (Table 3.19). -/
def stFolioOverrun : Nat := 0x0004
/-- SATURATED (Table 3.19). -/
def stSaturated : Nat := 0x0008
/-- LATE (Table 3.19). -/
def stLate : Nat := 0x0010
/-- ABORTED_FAULT (Table 3.19). -/
def stAbortedFault : Nat := 0x8001
/-- POD_LOST (Table 3.19). -/
def stPodLost : Nat := 0x8002
/-- TILE_BUSY (Table 3.19). -/
def stTileBusy : Nat := 0x8003
/-- HOST_EPOCH (Table 3.19). -/
def stHostEpoch : Nat := 0x8004
/-- ACCESS_DENIED (Table 3.19). -/
def stAccessDenied : Nat := 0x8005
/-- QUEUE_RESET (Table 3.19). -/
def stQueueReset : Nat := 0x8006
/-- TABLE_OFFLINE (Table 3.19). -/
def stTableOffline : Nat := 0x8007
/-- BUDGET_ABORT (Table 3.19). -/
def stBudgetAbort : Nat := 0x8008
/-- BAD_DESCRIPTOR (Table 3.19). -/
def stBadDescriptor : Nat := 0x8009
/-- TABLE_MISMATCH (Table 3.19). -/
def stTableMismatch : Nat := 0x800A
/-- CTL_REFUSED (Table 3.19). -/
def stCtlRefused : Nat := 0x800B
/-- ADDRESS_FAULT (Table 3.19). -/
def stAddressFault : Nat := 0x800C
/-- NO_GROUP (Table 3.19). -/
def stNoGroup : Nat := 0x800D
/-- WAIT_TIMEOUT (Table 3.19). -/
def stWaitTimeout : Nat := 0x800E
/-- SPROUT_INVALID (Table 3.19). -/
def stSproutInvalid : Nat := 0x800F
/-- DEST_LOST (Table 3.19). -/
def stDestLost : Nat := 0x8010
/-- TWIN_MISMATCH (Table 3.19). -/
def stTwinMismatch : Nat := 0x8011

/-- An event entry as one 256-bit number (Table 3.22), with PHASE 0. -/
def eventEntry (e : EvKind) (source count folio detail : Nat) : Nat :=
  e.num % 2 ^ 12 + (e.sub % 16) <<< 12 + (e.sev % 4) <<< 18 + (count % 2 ^ 16) <<< 32 + (source % 2 ^ 16) <<< 48
    + (folio % 2 ^ 48) <<< 64 + (detail % 2 ^ 128) <<< 128

end Sys2Proof.Machine
end

