-- ==== Sys2Proof/Machine/Float.lean ====
section
/-! DEFINITION. Floating-point arithmetic as R123 and R148 fix it: exact on numbers of the form ±m × 2^e, with one
rounding at the end, to nearest even (the Pool Unit and every decode) or toward zero (the Quantiser). -/

namespace Sys2Proof.Machine

/-- A floating-point datum: NaN, an infinity, or the finite value ±m × 2^e. -/
inductive FVal where
  | nan
  | inf (neg : Bool)
  | fin (neg : Bool) (m : Nat) (e : Int)
  deriving DecidableEq, Repr

/-- A format: significand bits with the hidden one, the exponent of a subnormal's last place, the width, the first
magnitude that is not finite, and the NaN written. -/
structure FFmt where
  p : Nat
  emin : Int
  width : Nat
  top : Nat
  nan : Nat
  hasInf : Bool
  deriving DecidableEq, Repr

/-- IEEE 754 binary32. -/
def fmt32 : FFmt := ⟨24, -149, 32, 0x7F800000, 0x7FC00000, true⟩
/-- IEEE 754 binary16. -/
def fmt16 : FFmt := ⟨11, -24, 16, 0x7C00, 0x7E00, true⟩
/-- bfloat16. -/
def fmtBf : FFmt := ⟨8, -133, 16, 0x7F80, 0x7FC0, true⟩
/-- OCP E4M3: no infinity, NaN at magnitude 0x7F. -/
def fmtE4 : FFmt := ⟨4, -9, 8, 0x7F, 0x7F, false⟩
/-- OCP E5M2. -/
def fmtE5 : FFmt := ⟨3, -16, 8, 0x7C, 0x7E, true⟩

/-- The datum that the bits of a format stand for (R41: every finite value exactly, a NaN without its payload). -/
def decodeF (f : FFmt) (bits : Nat) : FVal :=
  let neg := (bits >>> (f.width - 1)) % 2 == 1
  let mag := bits % 2 ^ (f.width - 1)
  if f.top ≤ mag then (if f.hasInf && mag == f.top then .inf neg else .nan)
  else
    let x := mag >>> (f.p - 1)
    if x = 0 then .fin neg mag f.emin
    else .fin neg (2 ^ (f.p - 1) + mag % 2 ^ (f.p - 1)) (f.emin + (x : Int) - 1)

/-- The last place kept and the significand there, after one rounding (rz: toward zero, else to nearest even). -/
def roundF (f : FFmt) (rz : Bool) (m : Nat) (e : Int) : Nat × Int :=
  let le := e + (Nat.log2 m + 1 : Nat) - (f.p : Int)
  let e' := if le < f.emin then f.emin else le
  if e' ≤ e then (m <<< (e - e').toNat, e')
  else
    let d := (e' - e).toNat
    let q := m >>> d
    let r := m % 2 ^ d
    let up := !rz && (decide (2 ^ (d - 1) < r) || (r == 2 ^ (d - 1) && q % 2 == 1))
    ((if up then q + 1 else q), e')

/-- The magnitude bits of m × 2^e in a format, one past the largest finite one or more on overflow. -/
def magF (f : FFmt) (rz : Bool) (m : Nat) (e : Int) : Nat :=
  if m = 0 then 0
  else
    let (q, e') := roundF f rz m e
    ((e' - f.emin).toNat <<< (f.p - 1)) + q

/-- The bits of a datum in a format. An overflow gives an infinity to nearest, and the largest finite value toward
zero or where the format has no infinity. -/
def encodeF (f : FFmt) (rz : Bool) : FVal → Nat
  | .nan => f.nan
  | .inf neg => (if f.hasInf then f.top else f.top - 1) + (if neg then 2 ^ (f.width - 1) else 0)
  | .fin neg m e =>
    let g := magF f rz m e
    let g' := if f.top ≤ g then (if rz || !f.hasInf then f.top - 1 else f.top) else g
    g' + (if neg then 2 ^ (f.width - 1) else 0)

/-- m × 2^e as an integer times a power of two no higher than the one given. -/
def alignF (neg : Bool) (m : Nat) (e lo : Int) : Int :=
  let v : Int := (m <<< (e - lo).toNat : Nat)
  if neg then -v else v

/-- The exact sum of two data (R123). An exact zero is +0, but −0 for two negative zeros. -/
def addV : FVal → FVal → FVal
  | .nan, _ => .nan
  | _, .nan => .nan
  | .inf a, .inf b => if a == b then .inf a else .nan
  | .inf a, _ => .inf a
  | _, .inf b => .inf b
  | .fin s m e, .fin t n g =>
    let lo := if e < g then e else g
    let v := alignF s m e lo + alignF t n g lo
    if v = 0 then .fin (s && t && m == 0 && n == 0) 0 lo
    else .fin (decide (v < 0)) v.natAbs lo

/-- The datum with the other sign. -/
def negV : FVal → FVal
  | .nan => .nan
  | .inf a => .inf (!a)
  | .fin s m e => .fin (!s) m e

/-- The exact product of two data. -/
def mulV : FVal → FVal → FVal
  | .nan, _ => .nan
  | _, .nan => .nan
  | .inf a, .inf b => .inf (xor a b)
  | .inf a, .fin t n _ => if n = 0 then .nan else .inf (xor a t)
  | .fin s m _, .inf b => if m = 0 then .nan else .inf (xor s b)
  | .fin s m e, .fin t n g => .fin (xor s t) (m * n) (e + g)

/-- The quotient of two data to 70 bits or more, with a last bit that is set when anything was left over. -/
def divV : FVal → FVal → FVal
  | .nan, _ => .nan
  | _, .nan => .nan
  | .inf _, .inf _ => .nan
  | .inf a, .fin t _ _ => .inf (xor a t)
  | .fin s _ e, .inf b => .fin (xor s b) 0 e
  | .fin s m e, .fin t n g =>
    if n = 0 then (if m = 0 then .nan else .inf (xor s t))
    else
      let k := 72 + Nat.log2 n
      let q := (m <<< k) / n
      let r := (m <<< k) % n
      .fin (xor s t) (2 * q + (if r = 0 then 0 else 1)) (e - g - k - 1)

/-- The integer square root, one binary digit at a time from digit n − 1 down; acc holds the digits found. -/
def isqrtGo (v : Nat) : Nat → Nat → Nat
  | 0, acc => acc
  | n + 1, acc =>
    let c := acc + 2 ^ n
    isqrtGo v n (if c * c ≤ v then c else acc)

/-- The integer square root. -/
def isqrt (v : Nat) : Nat := isqrtGo v (Nat.log2 v / 2 + 1) 0

/-- The square root of a datum to 60 bits or more, with a last bit that is set when anything was left over. -/
def sqrtV : FVal → FVal
  | .nan => .nan
  | .inf a => if a then .nan else .inf false
  | .fin s m e =>
    if m = 0 then .fin s 0 e
    else if s then .nan
    else
      let k : Nat := 120 + (e % 2).toNat
      let v := m <<< k
      let r := isqrt v
      .fin false (2 * r + (if r * r = v then 0 else 1)) ((e - k) / 2 - 1)

/-- The datum of a binary32 value. -/
def valOf (x : F32) : FVal := decodeF fmt32 x.toNat

/-- The binary32 value of a datum, rounded once. -/
def f32Of (rz : Bool) (v : FVal) : F32 := BitVec.ofNat 32 (encodeF fmt32 rz v)

/-- fl(a + b) (R123), or fl0 with rz (R148). -/
def fAdd (rz : Bool) (a b : F32) : F32 := f32Of rz (addV (valOf a) (valOf b))

/-- fl(a − b). -/
def fSub (rz : Bool) (a b : F32) : F32 := f32Of rz (addV (valOf a) (negV (valOf b)))

/-- fl(a × b). -/
def fMul (rz : Bool) (a b : F32) : F32 := f32Of rz (mulV (valOf a) (valOf b))

/-- fl(a ÷ b). -/
def fDiv (rz : Bool) (a b : F32) : F32 := f32Of rz (divV (valOf a) (valOf b))

/-- fl(√a). -/
def fSqrt (rz : Bool) (a : F32) : F32 := f32Of rz (sqrtV (valOf a))

/-- The binary32 value of an integer. -/
def fInt (rz : Bool) (i : Int) : F32 := f32Of rz (.fin (decide (i < 0)) i.natAbs 0)

/-- The exact datum of an integer. -/
def vInt (i : Int) : FVal := .fin (decide (i < 0)) i.natAbs 0

/-- The quiet NaN of R123. -/
def fNan : F32 := 0x7FC00000

/-- A NaN or an infinity. -/
def fNonFinite (x : F32) : Bool := decide (0x7F800000 ≤ x.toNat % 2 ^ 31)

/-- A NaN. -/
def fIsNan (x : F32) : Bool := decide (0x7F800000 < x.toNat % 2 ^ 31)

/-- A zero of either sign. -/
def fIsZero (x : F32) : Bool := x.toNat % 2 ^ 31 == 0

/-- |x|. -/
def fAbs (x : F32) : F32 := BitVec.ofNat 32 (x.toNat % 2 ^ 31)

/-- −x. -/
def fNeg (x : F32) : F32 := x ^^^ 0x80000000

/-- The place of a value in the order of R132, where −0.0 stands below +0.0. A NaN has no place. -/
def fKey (x : F32) : Int :=
  let mag : Int := (x.toNat % 2 ^ 31 : Nat)
  if x.toNat < 2 ^ 31 then mag else -mag - 1

/-- The value of a datum cut to an integer toward zero; 0 for a datum that is not finite. -/
def truncV : FVal → Int
  | .fin s m e =>
    let n : Nat := if 0 ≤ e then m <<< e.toNat else m >>> (-e).toNat
    if s then -(n : Int) else n
  | _ => 0

/-- Whether the exact values of two finite data stand in the order a < b. -/
def ltV : FVal → FVal → Bool
  | .fin s m e, .fin t n g =>
    let lo := if e < g then e else g
    decide (alignF s m e lo < alignF t n g lo)
  | .inf a, .inf b => a && !b
  | .inf a, .fin _ _ _ => a
  | .fin _ _ _, .inf b => !b
  | _, _ => false

end Sys2Proof.Machine
end

