-- ==== Sys2Proof/Machine/Formats.lean ====
section
/-! DEFINITION. Rows: the fields of a shard descriptor and of a directory entry, the stored row formats and their
decoding (02), the Quantiser's encoding of stored rows and of exports (06), rotation, and the pooling tree (05). -/

namespace Sys2Proof.Machine

/-! ## Fields of Tables 2.5, 2.7 and 2.8 -/

/-- TABLE_ID of a shard descriptor (Table 2.7). -/
def sdTable (d : BitVec 512) : Nat := bitsOf d.toNat 15 0
/-- SHARD_NO. -/
def sdShard (d : BitVec 512) : Nat := bitsOf d.toNat 31 16
/-- HOME_ENGINE. -/
def sdHome (d : BitVec 512) : Nat := bitsOf d.toNat 41 32
/-- HOME_TIER. -/
def sdTier (d : BitVec 512) : Nat := bitsOf d.toNat 43 42
/-- STATE: 0 OFFLINE, 1 ONLINE, 2 REPLACING, 3 RELOCATING. -/
def sdState (d : BitVec 512) : Nat := bitsOf d.toNat 45 44
/-- PLACEMENT_EPOCH. -/
def sdPlaced (d : BitVec 512) : Nat := bitsOf d.toNat 95 64
/-- REPLACE_EPOCH. -/
def sdReplaceEpoch (d : BitVec 512) : Nat := bitsOf d.toNat 111 96
/-- BASE, ÷ 32. -/
def sdBase (d : BitVec 512) : Nat := bitsOf d.toNat 177 128
/-- ALT_BASE, ÷ 32. -/
def sdAlt (d : BitVec 512) : Nat := bitsOf d.toNat 241 192
/-- ROW_FMT. -/
def sdFmt (d : BitVec 512) : Nat := bitsOf d.toNat 299 296
/-- d, from DIM_M8. -/
def sdDim (d : BitVec 512) : Nat := (bitsOf d.toNat 308 300 + 1) * 8
/-- STRIDE, ÷ 32. -/
def sdStride (d : BitVec 512) : Nat := bitsOf d.toNat 318 309
/-- SHELVED. -/
def sdShelved (d : BitVec 512) : Bool := bitOf d.toNat 320
/-- TRAIN. -/
def sdTrain (d : BitVec 512) : Bool := bitOf d.toNat 321
/-- ESC. -/
def sdEsc (d : BitVec 512) : Bool := bitOf d.toNat 322
/-- ESC_W. -/
def sdEscW (d : BitVec 512) : Bool := bitOf d.toNat 323
/-- ROT. -/
def sdRot (d : BitVec 512) : Bool := bitOf d.toNat 324
/-- The block of ROT_BLK: 16, 32, 64 or 128 elements. -/
def sdBlock (d : BitVec 512) : Nat := 16 <<< bitsOf d.toNat 326 325
/-- PREFETCH. -/
def sdPrefetch (d : BitVec 512) : Bool := bitOf d.toNat 327
/-- DEFAULT_MODE: 0 ZERO, 1 FIXED, 2 LEARNED. -/
def sdDefault (d : BitVec 512) : Nat := bitsOf d.toNat 329 328
/-- CB_GROUPS_LOG2. -/
def sdCbLog (d : BitVec 512) : Nat := bitsOf d.toNat 332 330
/-- ESC_BASE, ÷ 32. -/
def sdEscBase (d : BitVec 512) : Nat := bitsOf d.toNat 385 336
/-- DEFAULT_ADDR, ÷ 32. -/
def sdDefAddr (d : BitVec 512) : Nat := bitsOf d.toNat 435 386
/-- AUX_BASE, ÷ 32. -/
def sdAux (d : BitVec 512) : Nat := bitsOf d.toNat 485 436

/-- A shard descriptor with bits [hi:lo] replaced. -/
def sdSet (d : BitVec 512) (hi lo v : Nat) : BitVec 512 := BitVec.ofNat 512 (setBits d.toNat hi lo v)

/-- The table-level fields of R461 as one number. -/
def sdTableLevel (d : BitVec 512) : Nat :=
  let v := d.toNat
  let base := bitsOf v 308 296 + 2 ^ 13 * bitsOf v 326 321 + 2 ^ 19 * bitsOf v 332 328
  base + (if sdDefault d = 2 then 2 ^ 24 * (sdDefAddr d + 1) else 0)

/-- VALID of a directory entry (Table 2.8). -/
def deValid (e : BitVec 128) : Bool := bitOf e.toNat 0
/-- FIRST_DESC. -/
def deFirst (e : BitVec 128) : Nat := bitsOf e.toNat 20 1
/-- The shard count, from SHARD_COUNT_M1. -/
def deShards (e : BitVec 128) : Nat := bitsOf e.toNat 36 21 + 1
/-- SHARD_SHIFT. -/
def deShift (e : BitVec 128) : Nat := bitsOf e.toNat 42 37
/-- HASHED. -/
def deHashed (e : BitVec 128) : Bool := bitOf e.toNat 43
/-- ROW_TOTAL, from ROW_TOTAL_M1. -/
def deRows (e : BitVec 128) : Nat := bitsOf e.toNat 83 44 + 1
/-- HASH_SEED. -/
def deSeed (e : BitVec 128) : Nat := bitsOf e.toNat 127 96

/-- TIER of a shelfmark (Table 2.5). -/
def smTier (m : Nat) : Nat := bitsOf m 63 62
/-- ACCESSION of a shelfmark. -/
def smAccession (m : Nat) : Nat := bitsOf m 61 50
/-- LOCATION of a shelfmark, ÷ 32. -/
def smLoc (m : Nat) : Nat := bitsOf m 49 0
/-- A shelfmark from its fields. -/
def smMake (tier acc loc : Nat) : Nat := (tier % 4) <<< 62 + (acc % 4096) <<< 50 + loc % 2 ^ 50

/-- k after the first five lines of R28. -/
def hashMix (seed index : Nat) : Nat :=
  let m := 2 ^ 64
  let k := (index ^^^ ((seed <<< 32) ||| seed)) % m
  let k := k * 0x9E3779B97F4A7C15 % m
  let k := k ^^^ (k >>> 29)
  let k := k * 0xBF58476D1CE4E5B9 % m
  k ^^^ (k >>> 32)

/-- The row of an index of a hashed table (R28). -/
def hashRow (seed rows index : Nat) : Nat := (hashMix seed index * rows) >>> 64

/-! ## The stored row (R32 to R41) -/

/-- The code width of a format, 0 where it has no integer or codebook codes (Table 2.2). -/
def fmtWidth (f : Nat) : Nat :=
  match f with
  | 0 => 2 | 1 => 3 | 2 => 4 | 3 => 8 | 4 => 4 | 5 => 8 | _ => 0

/-- Bits of one element of a format. -/
def fmtBits (f : Nat) : Nat :=
  match f with
  | 6 => 8 | 7 => 8 | 8 => 16 | 9 => 16 | 10 => 32 | n => fmtWidth n

/-- The formats that may have escapes (Table 2.2). -/
def fmtMayEsc (f : Nat) : Bool := f == 1 || f == 2 || f == 3
/-- The formats that may be rotated (Table 2.2). -/
def fmtMayRot (f : Nat) : Bool := decide (f ≤ 3)
/-- The codebook formats. -/
def fmtIsCb (f : Nat) : Bool := f == 4 || f == 5
/-- The formats with a husk. -/
def fmtHusked (f : Nat) : Bool := decide (f ≤ 7)

/-- T, the bytes of the stamp (R32). -/
def rowT (d : BitVec 512) : Nat := if sdTrain d then 8 else 0
/-- H, the bytes of the husk (Table 2.2). -/
def rowH (d : BitVec 512) : Nat := if fmtHusked (sdFmt d) then (if sdEsc d then 8 else 4) else 0
/-- P, the bytes of the payload (Table 2.2). -/
def rowP (d : BitVec 512) : Nat := sdDim d * fmtBits (sdFmt d) / 8
/-- S, the stored size (R32). -/
def rowS (d : BitVec 512) : Nat := 32 * cdiv (rowT d + rowH d + rowP d) 32

/-- The bytes of a side-list slot (R39). -/
def slotSize (d : BitVec 512) : Nat := if sdEscW d then 64 else 32

/-- The husk of a stored row as a number. -/
def rowHusk (d : BitVec 512) (row : List Byte) : Nat := numAt (rowT d) (rowH d) row
/-- SCALE of a husk. -/
def hkScale (h : Nat) : Nat := bitsOf h 15 0
/-- OFFSET of a husk. -/
def hkOffset (h : Nat) : Nat := bitsOf h 31 16
/-- ESC_SLOT of a husk. -/
def hkSlot (h : Nat) : Nat := bitsOf h 58 32
/-- ESC_COUNT of a husk. -/
def hkCount (h : Nat) : Nat := bitsOf h 63 59
/-- A constant row (R36). -/
def hkConst (h : Nat) : Bool := hkScale h % 2 ^ 15 == 0
/-- A husk with a SCALE or OFFSET that is not finite (R157). -/
def hkBad (h : Nat) : Bool := decide (0x7C00 ≤ hkScale h % 2 ^ 15) || decide (0x7C00 ≤ hkOffset h % 2 ^ 15)

/-- The payload of a stored row as one bit string (R34). -/
def rowPayload (d : BitVec 512) (row : List Byte) : Nat := numAt (rowT d + rowH d) (rowP d) row

/-- Code j of width w of a bit string, unsigned (R34). -/
def codeAt (w bits j : Nat) : Nat := (bits >>> (w * j)) % 2 ^ w

/-- Whether an unsigned code is the escape of its width (Table 2.4). -/
def isEscCode (w c : Nat) : Bool := c == 2 ^ (w - 1)

/-- How many escape codes the row holds. -/
def escCodes (d : BitVec 512) (row : List Byte) : Nat :=
  let w := fmtWidth (sdFmt d)
  let p := rowPayload d row
  ((List.range (sdDim d)).filter (fun j => isEscCode w (codeAt w p j))).length

/-- The side-list entries that a read of the row needs: ESC_COUNT, but none for a constant row (R36, R40). -/
def rowEscapes (d : BitVec 512) (row : List Byte) : Nat :=
  let h := rowHusk d row
  if sdEsc d && !hkConst h then hkCount h else 0

/-- A malformed row (R40). A constant row's codes are not read (R36). -/
def rowMalformed (d : BitVec 512) (row : List Byte) : Bool :=
  let h := rowHusk d row
  sdEsc d && !hkConst h && (decide (16 < hkCount h) || decide (escCodes d row ≠ hkCount h))

/-- Value k of a side list, as FP32 (R40). -/
def sideVal (d : BitVec 512) (side : List Byte) (k : Nat) : F32 :=
  if sdEscW d then f32Of false (decodeF fmt32 (numAt (4 * k) 4 side))
  else f32Of false (decodeF fmt16 (numAt (2 * k) 2 side))

/-- scale × v + offset with one rounding to nearest (R35, R38, R41). -/
def scaled (h : Nat) (v : FVal) : F32 :=
  f32Of false (addV (mulV (decodeF fmt16 (hkScale h)) v) (decodeF fmt16 (hkOffset h)))

/-- Entry c of codebook g of a set in memory (R38). -/
def cbVal (f : Nat) (set : List Byte) (g c : Nat) : FVal :=
  decodeF fmt16 (numAt (2 * (g * 2 ^ fmtWidth f + c)) 2 set)

/-- The codebook that element j uses (R38). -/
def cbGroup (d : BitVec 512) (j : Nat) : Nat := j / (sdDim d / 2 ^ sdCbLog d)

/-- The bytes of the table's codebook set (R167). -/
def cbSize (d : BitVec 512) : Nat := (if sdFmt d = 4 then 32 else 512) <<< sdCbLog d

/-- Decodes elements from j on, n of them; k is the number of escapes met so far (R35 to R41). -/
def decodeGo (d : BitVec 512) (h p : Nat) (side cb : List Byte) : Nat → Nat → Nat → List F32
  | 0, _, _ => []
  | n + 1, j, k =>
    let f := sdFmt d
    let w := fmtBits f
    let c := codeAt w p j
    let husk := fmtHusked f
    if husk && hkConst h then
      f32Of false (decodeF fmt16 (hkOffset h)) :: decodeGo d h p side cb n (j + 1) k
    else if sdEsc d && isEscCode w c then
      sideVal d side k :: decodeGo d h p side cb n (j + 1) (k + 1)
    else
      let v : F32 :=
        if f ≤ 3 then scaled h (vInt (toSigned w c))
        else if fmtIsCb f then scaled h (cbVal f cb (cbGroup d j) c)
        else if f = 6 then scaled h (decodeF fmtE4 c)
        else if f = 7 then scaled h (decodeF fmtE5 c)
        else if f = 8 then f32Of false (decodeF fmtBf c)
        else if f = 9 then f32Of false (decodeF fmt16 c)
        else f32Of false (decodeF fmt32 c)
      v :: decodeGo d h p side cb n (j + 1) k

/-- The elements of a stored row (R122 step 1). -/
def decodeRow (d : BitVec 512) (row side cb : List Byte) : List F32 :=
  decodeGo d (rowHusk d row) (rowPayload d row) side cb (sdDim d) 0 0

/-! ## Vectors, the tree and the carry stack (R128) -/

/-- Element by element sum. -/
def vAdd (rz : Bool) (a b : List F32) : List F32 := List.zipWith (fAdd rz) a b

/-- Enters one leaf into a carry stack (R128). -/
def treePush (rz : Bool) (lin : Option (List F32)) :
    List (Nat × List F32) → Nat → List F32 → List (Nat × List F32) × Option (List F32)
  | [], lvl, v => ([(lvl, v)], lin)
  | (l, top) :: rest, lvl, v =>
    if l = lvl then
      let v' := vAdd rz top v
      if lvl + 1 = 20 then
        (rest, some (match lin with | none => v' | some x => vAdd rz x v'))
      else treePush rz lin rest (lvl + 1) v'
    else ((lvl, v) :: (l, top) :: rest, lin)

/-- Combines the partials left on the stack, smallest first (R128). -/
def treeFold (rz : Bool) (s : List F32) : List (Nat × List F32) → List F32
  | [] => s
  | (_, t) :: rest => treeFold rz (vAdd rz t s) rest

/-- The sum at bag end (R128). -/
def treeEnd (rz : Bool) (d : Nat) (lin : Option (List F32)) : List (Nat × List F32) → List F32
  | [] => lin.getD (List.replicate d 0)
  | (_, t) :: rest =>
    let s := treeFold rz t rest
    match lin with
    | none => s
    | some x => vAdd rz x s

/-- The tree over a list of leaves. -/
def treeGo (rz : Bool) (d : Nat) (st : List (Nat × List F32)) (lin : Option (List F32)) : List (List F32) → List F32
  | [] => treeEnd rz d lin st
  | v :: vs =>
    let r := treePush rz lin st 0 v
    treeGo rz d r.1 r.2 vs

/-- The tree over scalars (R163). -/
def treeScalar (rz : Bool) (xs : List F32) : F32 :=
  (treeGo rz 1 [] none (xs.map (fun x => [x]))).headD 0

/-- x ÷ √n with one rounding (R131, R135, R165). -/
def divSqrt (rz : Bool) (x : F32) (n : Nat) : F32 :=
  match valOf x with
  | .fin s m e =>
    if m = 0 then x
    else
      let v := (m * m) <<< 192
      let q := v / n
      let r := isqrt q
      let exact := r * r == q && v % n == 0
      f32Of rz (.fin s (2 * r + (if exact then 0 else 1)) (e - 97))
  | v => f32Of rz v

/-! ## Rotation (R135, R165) -/

/-- One butterfly stage with pairs h apart over a whole vector. -/
def butterfly (rz : Bool) (h : Nat) (xs : List F32) : List F32 :=
  let a := xs.toArray
  (List.range xs.length).map (fun i =>
    if (i / h) % 2 = 0 then fAdd rz (a.getD i 0) (a.getD (i + h) 0)
    else fSub rz (a.getD (i - h) 0) (a.getD i 0))

/-- The stages from stage j, n of them. -/
def butterflies (rz : Bool) : Nat → Nat → List F32 → List F32
  | 0, _, xs => xs
  | n + 1, j, xs => butterflies rz n (j + 1) (butterfly rz (2 ^ j) xs)

/-- Multiplies by the sign vector (R165); a NaN result is the quiet NaN (R123). -/
def applySigns (signs : List Byte) (xs : List F32) : List F32 :=
  let v := leNat signs
  xs.zipIdx.map (fun (x, j) => if fIsNan x then fNan else if bitOf v j then fNeg x else x)

/-- The forward rotation in blocks of b (R165). -/
def rotateFwd (b : Nat) (signs : List Byte) (xs : List F32) : List F32 :=
  (butterflies true (Nat.log2 b) 0 (applySigns signs xs)).map (fun z => divSqrt true z b)

/-- The inverse rotation in blocks of b (R135). -/
def rotateInv (b : Nat) (signs : List Byte) (xs : List F32) : List F32 :=
  applySigns signs ((butterflies false (Nat.log2 b) 0 xs).map (fun z => divSqrt false z b))

/-! ## Pooling (R131, R132) -/

/-- The larger of two elements in the order of R132, a NaN winning. -/
def fMax (a b : F32) : F32 := if fIsNan a || fIsNan b then fNan else if fKey a < fKey b then b else a

/-- The smaller of two elements in the order of R132, a NaN winning. -/
def fMin (a b : F32) : F32 := if fIsNan a || fIsNan b then fNan else if fKey b < fKey a then b else a

/-- The exact sum of weights, rounded once to nearest (R137). An exact zero of two or more is +0.0. -/
def foldWeights : List F32 → F32
  | [] => 0
  | [w] => w
  | ws =>
    match ws.foldl (fun v w => addV v (valOf w)) (.fin false 0 0) with
    | .fin _ 0 _ => 0
    | v => f32Of false v

/-- Scaling at bag end: MEAN (1) divides by n, SQRTN (2) by √n (R131). -/
def scaleBag (pool n : Nat) (s : List F32) : List F32 :=
  if pool = 1 then (if n = 0 then s.map (fun _ => 0) else s.map (fun x => f32Of false (divV (valOf x) (vInt n))))
  else if pool = 2 then (if n = 0 then s.map (fun _ => 0) else s.map (fun x => divSqrt false x n))
  else s

/-- Fusion of one element (R135): 1 adds, 2 multiplies. -/
def fuseElem (op : Nat) (r f : F32) : F32 := if op = 1 then fAdd false r f else if op = 2 then fMul false r f else r

/-- The bytes of an element of FUSE_FMT or GRAD_FMT: 0 FP32, 1 BF16, 2 FP16. -/
def fuseBytes (f : Nat) : Nat := if f = 0 then 4 else 2

/-- An element of FUSE_FMT or GRAD_FMT as FP32, exactly. -/
def fuseVal (f bits : Nat) : F32 :=
  if f = 0 then f32Of false (decodeF fmt32 bits)
  else if f = 1 then f32Of false (decodeF fmtBf bits)
  else f32Of false (decodeF fmt16 bits)

/-- n elements of FUSE_FMT or GRAD_FMT from bytes. -/
def fuseVec (f : Nat) : Nat → List Byte → List F32
  | 0, _ => []
  | n + 1, bs => fuseVal f (leNat (bs.take (fuseBytes f))) :: fuseVec f n (bs.drop (fuseBytes f))

/-! ## Packing of codes (R34) -/

/-- Codes of width w as one bit string. -/
def packCodes (w : Nat) : List Nat → Nat
  | [] => 0
  | c :: cs => c % 2 ^ w + 2 ^ w * packCodes w cs

/-! ## Exports (R150 to R153) -/

/-- What an export of one row gives: its bytes, saturations, whether the row held a NaN or an infinity, and m. -/
structure Exported where
  bytes : List Byte
  sats : Nat
  nonFinite : Bool
  m : F32
  /-- The row scale and the codes, as FP32 values where they are floating-point (R156). -/
  scale : F32
  codes : List F32
  deriving DecidableEq, Repr

/-- The output formats with a row scale. -/
def outNarrow (f : Nat) : Bool := decide (3 ≤ f) && decide (f ≤ 6)

/-- The bits of one code of an output format. -/
def outBits (f : Nat) : Nat :=
  match f with
  | 0 => 32 | 1 => 16 | 2 => 16 | 6 => 4 | _ => 8

/-- K of Table 6.1. -/
def outK (f : Nat) : Nat :=
  match f with
  | 3 => 448 | 4 => 57344 | 5 => 127 | _ => 7

/-- The output row size of R151 for d elements. -/
def outSize (f d : Nat) : Nat :=
  if outNarrow f then 32 * cdiv (4 + d * outBits f / 8) 32 else d * outBits f / 8

/-- The largest magnitude of a row, taken exactly. -/
def maxAbs (xs : List F32) : F32 :=
  xs.foldl (fun m x => if m.toNat < (fAbs x).toNat then fAbs x else m) 0

/-- From what magnitude a quotient clips: the next step above K (R161). -/
def clipAt (f : Nat) : Nat := if f = 3 then 480 else 61440

/-- One code of a narrow export: its bits, its value, and whether the clamp clipped it (R150). -/
def narrowCode (f : Nat) (s r : F32) : Nat × F32 × Bool :=
  let q := if fIsZero s then (0 : F32) else fDiv true r s
  if f = 3 || f = 4 then
    let ff := if f = 3 then fmtE4 else fmtE5
    let v := valOf q
    let clipped := !(ltV (valOf (fAbs q)) (vInt (clipAt f)))
    let c := encodeF ff true v
    (c, f32Of false (decodeF ff c), clipped)
  else
    let k : Int := outK f
    let t := truncV (valOf q)
    let c := if k < t then k else if t < -k then -k else t
    (ofSigned (outBits f) c, fInt false c, decide (c ≠ t))

/-- The export of one finished row (R150 to R153). -/
def exportRow (f : Nat) (r : List F32) : Exported :=
  let bad := r.any fNonFinite
  if outNarrow f then
    let size := outSize f r.length
    let m := maxAbs r
    if bad then
      ⟨sliceBytes 0 size (leBytes 4 fNan.toNat), 0, true, 0, fNan, r.map (fun _ => 0)⟩
    else
      let s := fDiv true m (fInt false (outK f))
      let cs := r.map (narrowCode f s)
      let bits := packCodes (outBits f) (cs.map (·.1))
      ⟨sliceBytes 0 size (leBytes 4 s.toNat ++ leBytes (cdiv (r.length * outBits f) 8) bits),
        (cs.filter (·.2.2)).length, false, m, s, cs.map (·.2.1)⟩
  else if f = 0 then
    ⟨r.flatMap (fun x => leBytes 4 x.toNat), 0, bad, 0, 0, r⟩
  else
    let ff := if f = 1 then fmtBf else fmt16
    let clip (x : F32) : Bool := !fNonFinite x && ltV (decodeF ff (ff.top - 1)) (valOf (fAbs x))
    ⟨r.flatMap (fun x => leBytes 2 (encodeF ff true (valOf x))), (r.filter clip).length, bad, 0, 0, r⟩

/-! ## Stored rows written from FP32 (R157 to R163, R463) -/

/-- What the Quantiser gives for one stored row. -/
structure Encoded where
  /-- The husk's SCALE and OFFSET. -/
  scale : Nat
  offset : Nat
  /-- The payload as a bit string. -/
  payload : Nat
  /-- The side-list values, in element order. -/
  side : List Nat
  sats : Nat
  /-- A resolution-loss row (R169), a constant row (R159). -/
  resLoss : Bool
  const : Bool
  /-- Candidates that were not escaped (R163). -/
  dropped : Nat
  deriving DecidableEq, Repr

/-- K of R158 and R161. -/
def encK (f : Nat) : Nat :=
  match f with
  | 0 => 1 | 1 => 3 | 2 => 7 | 3 => 127 | 6 => 448 | _ => 57344

/-- The value range of Table 2.4 for an integer format. -/
def codeRange (f : Nat) (esc : Bool) : Int × Int :=
  let h : Int := (2 ^ (fmtWidth f - 1) : Nat)
  (if esc then -h + 1 else -h, h - 1)

/-- The quotient of R158 and R160: fl0(fl0(x − off) ÷ s). -/
def quot (off s x : F32) : F32 := fDiv true (fSub true x off) s

/-- A binary16 number as FP32. -/
def of16 (h : Nat) : F32 := f32Of false (decodeF fmt16 h)

/-- fl0 to binary16. -/
def to16 (x : F32) : Nat := encodeF fmt16 true (valOf x)

/-- Inserts an element into a list of (magnitude, index), larger magnitudes first, then lower indices (R163). -/
def candInsert (m : F32) (j : Nat) : List (F32 × Nat) → List (F32 × Nat)
  | [] => [(m, j)]
  | (n, i) :: t => if n.toNat < m.toNat then (m, j) :: (n, i) :: t else (n, i) :: candInsert m j t

/-- Candidates in the order of R163, from (index, magnitude) in ascending index. -/
def candSort (cs : List (Nat × F32)) : List Nat :=
  (cs.foldl (fun acc c => candInsert c.2 c.1 acc) []).map (·.2)

/-- Whether quotient q of a finite element clips under KEEP (R160, R161). -/
def keepClips (f : Nat) (esc : Bool) (q : F32) : Bool :=
  if f = 6 || f = 7 then !(ltV (valOf (fAbs q)) (vInt (clipAt (if f = 6 then 3 else 4))))
  else
    let r := codeRange f esc
    let t := truncV (valOf q)
    decide (t < r.1) || decide (r.2 < t) || fNonFinite q

/-- The escape candidates among the finite elements under KEEP (R163). -/
def keepCands (f : Nat) (off s : F32) (xs : List F32) : List Nat :=
  candSort ((xs.zipIdx.filter (fun c => !fNonFinite c.1 && keepClips f true (quot off s c.1))).map
    (fun c => (c.2, fAbs (quot off s c.1))))

/-- The escape candidates among the finite elements under RESCALE (R163). -/
def rescaleCands (ratio : F32) (xs : List F32) : List Nat :=
  let fin := xs.filter (fun x => !fNonFinite x)
  let n := vInt fin.length
  let perN (x : F32) : F32 := f32Of true (divV (valOf x) n)
  let mu := perN (treeScalar true fin)
  let var := perN (treeScalar true (fin.map (fun x => let v := fSub true x mu; fMul true v v)))
  let t := fMul true ratio (fSqrt true var)
  let dev (x : F32) : F32 := fAbs (fSub true x mu)
  candSort ((xs.zipIdx.filter (fun c => !fNonFinite c.1 && ltV (valOf t) (valOf (dev c.1)))).map
    (fun c => (c.2, dev c.1)))

/-- The husk that R158 derives from the finite elements given: (SCALE, OFFSET) as binary16. -/
def deriveHusk (f : Nat) (xs : List F32) : Nat × Nat :=
  match xs with
  | [] => (0, 0)
  | x :: rest =>
    let lo := rest.foldl (fun m y => if fKey y < fKey m then y else m) x
    let hi := rest.foldl (fun m y => if fKey m < fKey y then y else m) x
    let off := to16 (fDiv true (fAdd true hi lo) 0x40000000)
    let a := let p := fSub true hi (of16 off); let q := fSub true (of16 off) lo
             if ltV (valOf p) (valOf q) then q else p
    let s := to16 (fDiv true a (fInt false (encK f)))
    (s % 2 ^ 15, off)

/-- The two numbers are equal as values. -/
def sameVal (a b : F32) : Bool := !fIsNan a && !fIsNan b && (a == b || (fIsZero a && fIsZero b))

/-- The code of one element that is not an escape: its bits, its magnitude for R169, and whether it counts as a
saturation. keep selects the range of R160 in place of R158. -/
def elemCode (f : Nat) (keep esc : Bool) (off s x : F32) : Nat × F32 × Bool :=
  let w := fmtBits f
  let r := if keep then codeRange f esc else (-(encK f : Int), (encK f : Int))
  if f = 6 || f = 7 then
    let ff := if f = 6 then fmtE4 else fmtE5
    if fIsNan x then (0, 0, true)
    else if fNonFinite x then
      (encodeF ff true (.fin (decide (2 ^ 31 ≤ x.toNat)) (encK f) 0), fInt false (encK f), true)
    else
      let q := quot off s x
      let c := encodeF ff true (match valOf q with | .inf n => .fin n (encK f) 0 | v => v)
      (c, fAbs (f32Of false (decodeF ff c)), keepClips f esc q)
  else
    if fIsNan x then (0, 0, true)
    else if fNonFinite x then
      let c := if 2 ^ 31 ≤ x.toNat then r.1 else r.2
      (ofSigned w c, fInt false c.natAbs, true)
    else
      let q := quot off s x
      let t := match valOf q with
        | .inf n => if n then r.1 - 1 else r.2 + 1
        | v => truncV v
      let c := if t < r.1 then r.1 else if r.2 < t then r.2 else t
      (ofSigned w c, fInt false c.natAbs, decide (c ≠ t))

/-- The side-list value of an escaped element and whether it counts as a saturation (R163, R463). -/
def sideBits (escW : Bool) (x : F32) : Nat × Bool :=
  if escW then (if fIsNan x then fNan.toNat else x.toNat, false)
  else (encodeF fmt16 true (valOf x), !fNonFinite x && ltV (vInt 65504) (valOf (fAbs x)))

/-- The Quantiser's encoding of a row of an integer or OCP 8-bit format (R157 to R163, R463). derive selects R158 in
place of R160; mayEsc is false where the Quantiser writes no escapes (R166). Where s is 0 every code that is not escaped is 0,
that of an infinity too (R159 before R463; log 98). -/
def encodeScaled (d : BitVec 512) (derive mayEsc : Bool) (husk : Nat) (ratio : F32) (xs : List F32) : Encoded :=
  let f := sdFmt d
  let esc := sdEsc d
  let bad := (xs.zipIdx.filter (fun c => fNonFinite c.1)).map (·.2)
  let cands :=
    if esc then
      bad ++ (if derive then rescaleCands ratio xs else keepCands f (of16 (hkOffset husk)) (of16 (hkScale husk)) xs)
    else []
  let chosen := if mayEsc then cands.take 16 else []
  let dropped := cands.length - chosen.length
  let isEsc (j : Nat) : Bool := chosen.contains j
  let rest := (xs.zipIdx.filter (fun c => !isEsc c.2)).map (·.1)
  let husk' := if derive then deriveHusk f (rest.filter (fun x => !fNonFinite x))
    else (hkScale husk, hkOffset husk)
  let w := fmtBits f
  let sideOf := (xs.zipIdx.filter (fun c => isEsc c.2)).map (fun c => sideBits (sdEscW d) c.1)
  let sideSats := (sideOf.filter (·.2)).length
  let flat := derive && husk'.1 == 0
  if flat && chosen.isEmpty then
    { scale := 0, offset := husk'.2, payload := 0, side := [], sats := (rest.filter fNonFinite).length,
      resLoss := !(xs.all (sameVal (xs.headD 0))), const := true, dropped := dropped }
  else
    let scale := if flat then 1 else husk'.1
    let off := of16 husk'.2
    let s := of16 scale
    let one (x : F32) : Nat × F32 × Bool :=
      if flat then (0, 0, fNonFinite x) else elemCode f (!derive) esc off s x
    let codes := xs.zipIdx.map (fun c => if isEsc c.2 then (2 ^ (w - 1), (0 : F32), false) else one c.1)
    let top := codes.foldl (fun m c => if m.toNat < c.2.1.toNat then c.2.1 else m) (0 : F32)
    { scale := scale, offset := husk'.2, payload := packCodes w (codes.map (·.1)), side := sideOf.map (·.1),
      sats := (codes.filter (·.2.2)).length + sideSats,
      resLoss := chosen.isEmpty && ltV (mulV (vInt 4) (valOf top)) (vInt (encK f)), const := false,
      dropped := dropped }

/-- The distance |a − b| as an exact datum. -/
def distV (a b : FVal) : FVal :=
  match addV a (negV b) with
  | .fin _ m e => .fin false m e
  | .inf _ => .inf false
  | .nan => .nan

/-- The best code of a codebook for an element, from code c on, n codes left; better says when a later code wins. -/
def bestCode (better : FVal → FVal → Bool) (val : Nat → FVal) (best : Nat) : Nat → Nat → Nat
  | 0, _ => best
  | n + 1, c => bestCode better val (if better (val c) (val best) then c else best) n (c + 1)

/-- The code of an element of a codebook row (R162, R463). -/
def cbCode (d : BitVec 512) (scale off : Nat) (cb : List Byte) (j : Nat) (x : F32) : Nat :=
  let f := sdFmt d
  let v (c : Nat) : FVal :=
    valOf (f32Of true (addV (mulV (decodeF fmt16 scale) (cbVal f cb (cbGroup d j) c)) (decodeF fmt16 off)))
  let n := 2 ^ fmtWidth f
  if fIsNan x then 0
  else if fNonFinite x then
    if 2 ^ 31 ≤ x.toNat then bestCode ltV v 0 (n - 1) 1
    else bestCode (fun a b => ltV b a) v 0 (n - 1) 1
  else bestCode ltV (fun c => distV (v c) (valOf x)) 0 (n - 1) 1

/-- The Quantiser's encoding of a codebook row (R162). -/
def encodeCb (d : BitVec 512) (derive : Bool) (husk : Nat) (cb : List Byte) (xs : List F32) : Encoded :=
  let scale := if derive then 0x3C00 else hkScale husk
  let off := if derive then 0 else hkOffset husk
  let codes := xs.zipIdx.map (fun c => cbCode d scale off cb c.2 c.1)
  { scale := scale, offset := off, payload := packCodes (fmtWidth (sdFmt d)) codes, side := [], sats := 0,
    resLoss := false, const := false, dropped := 0 }

/-- A row of a wide format: each element converted toward zero (R148). -/
def encodeWide (f : Nat) (xs : List F32) : Encoded :=
  let ff := if f = 8 then fmtBf else if f = 9 then fmt16 else fmt32
  let one (x : F32) : Nat := if f = 10 then x.toNat else encodeF ff true (valOf x)
  { scale := 0, offset := 0, payload := packCodes (fmtBits f) (xs.map one), side := [], sats := 0,
    resLoss := false, const := false, dropped := 0 }

/-- The encoding of one row from FP32 (R157 to R163). rescale is the table's policy or the REPLACE bit; a constant or
non-finite current husk derives regardless (R157). -/
def encodeRow (d : BitVec 512) (rescale mayEsc : Bool) (husk : Nat) (ratio : F32) (signs cb : List Byte)
    (xs : List F32) : Encoded :=
  let f := sdFmt d
  let derive := rescale || hkConst husk || hkBad husk
  if !fmtHusked f then encodeWide f xs
  else if fmtIsCb f then encodeCb d derive husk cb xs
  else
    let zs := if sdRot d then rotateFwd (sdBlock d) signs xs else xs
    encodeScaled d derive mayEsc husk ratio zs

/-- The stored bytes of an encoded row: stamp, husk, payload and padding (R32). slot is the side-list slot used. -/
def buildRow (d : BitVec 512) (stamp slot : Nat) (e : Encoded) : List Byte :=
  let n := e.side.length
  let husk := e.scale + e.offset <<< 16 + (if n = 0 then 0 else (slot % 2 ^ 27) <<< 32 + n <<< 59)
  sliceBytes 0 (rowS d)
    (leBytes (rowT d) stamp ++ leBytes (rowH d) husk ++ leBytes (rowP d) e.payload)

/-- The bytes of a side list, the whole slot. -/
def buildSide (d : BitVec 512) (side : List Nat) : List Byte :=
  sliceBytes 0 (slotSize d) (side.flatMap (fun v => leBytes (if sdEscW d then 4 else 2) v))

end Sys2Proof.Machine
end

