-- ==== Sys2Proof/Machine/OdTable.lean ====
section
/-! DEFINITION. The object dictionary: the entries of Tables 18.1 to 18.7, with the type, access, role, default and
range of each. A key is index × 256 + subindex, and a value is one little-endian number (R2, R460). -/

namespace Sys2Proof.Machine

/-- The types of R460. -/
inductive OdType where
  | bool | u8 | u16 | u32 | u64 | i32 | f32 | enum | str | blob
  deriving DecidableEq, Repr

/-- The access codes of the object dictionary (00, section Access codes). -/
inductive OdAccess where
  | ro | rw | wo | rws
  deriving DecidableEq, Repr

/-- Whether an entry is a counter, and the reset from which it counts (R449). -/
inductive OdCount where
  | none | engine | powerOn
  deriving DecidableEq, Repr

/-- One entry (R448). For an entry of variable length, size is its limit. lo and hi are the range, where the table
gives one as two bounds; step is the multiple that a base must be of. -/
structure OdEnt where
  key : Nat
  ty : OdType
  acc : OdAccess
  role : Role
  size : Nat
  dflt : Nat := 0
  lo : Nat := 0
  hi : Nat := 0
  step : Nat := 1
  count : OdCount := .none
  varLen : Bool := false
  deriving DecidableEq, Repr

/-- n copies of a value of w bytes, one after the other. -/
def odRepeat (w v n : Nat) : Nat :=
  match n with
  | 0 => 0
  | k + 1 => v + 2 ^ (8 * w) * odRepeat w v k

/-- The entries of Tables 18.1 to 18.7, part 1. -/
def odPart1 : List OdEnt :=
  [ { key := 0x100001, ty := .str, acc := .ro, role := .operator, size := 7, dflt := 0x746e6175647a41, varLen := true },
    { key := 0x100002, ty := .str, acc := .ro, role := .operator, size := 7, dflt := 0x3120726f6b754a, varLen := true },
    { key := 0x100003, ty := .u16, acc := .ro, role := .operator, size := 2, dflt := 161 },
    { key := 0x100004, ty := .str, acc := .ro, role := .operator, size := 32, varLen := true },
    { key := 0x100005, ty := .blob, acc := .ro, role := .operator, size := 8192, varLen := true },
    { key := 0x100006, ty := .blob, acc := .ro, role := .operator, size := 97 },
    { key := 0x100007, ty := .u64, acc := .ro, role := .operator, size := 8 },
    { key := 0x200001, ty := .enum, acc := .rws, role := .owner, size := 1, hi := 1 },
    { key := 0x200002, ty := .u32, acc := .rws, role := .service, size := 4, dflt := 0x1e8480, lo := 250000, hi := 2000000 },
    { key := 0x200003, ty := .u32, acc := .rws, role := .service, size := 4, dflt := 0x186a00, lo := 250000, hi := 1600000 },
    { key := 0x200004, ty := .u32, acc := .rws, role := .service, size := 4, dflt := 0x17d784, lo := 250000, hi := 1562500 },
    { key := 0x200005, ty := .u16, acc := .rw, role := .owner, size := 2, dflt := 255, hi := 65535 },
    { key := 0x200006, ty := .u8, acc := .wo, role := .service, size := 1, dflt := 255, hi := 15 },
    { key := 0x200007, ty := .blob, acc := .ro, role := .operator, size := 18 },
    { key := 0x200008, ty := .u64, acc := .ro, role := .operator, size := 8, count := .powerOn },
    { key := 0x200009, ty := .u64, acc := .ro, role := .operator, size := 8, count := .powerOn },
    { key := 0x20000A, ty := .u64, acc := .ro, role := .operator, size := 8, count := .powerOn },
    { key := 0x210001, ty := .u16, acc := .rws, role := .service, size := 2, dflt := 760, lo := 540, hi := 760 },
    { key := 0x210002, ty := .u16, acc := .rws, role := .service, size := 2, dflt := 140, lo := 110, hi := 140 },
    { key := 0x210003, ty := .u32, acc := .ro, role := .operator, size := 4 },
    { key := 0x210004, ty := .u32, acc := .ro, role := .operator, size := 4 },
    { key := 0x210005, ty := .u32, acc := .ro, role := .operator, size := 4 },
    { key := 0x210006, ty := .u16, acc := .ro, role := .operator, size := 2, dflt := 760 },
    { key := 0x210007, ty := .blob, acc := .ro, role := .operator, size := 96 } ]

/-- The entries of Tables 18.1 to 18.7, part 2. -/
def odPart2 : List OdEnt :=
  [ { key := 0x210008, ty := .u64, acc := .ro, role := .operator, size := 8, count := .engine },
    { key := 0x300001, ty := .u64, acc := .rws, role := .service, size := 8, hi := 0xffffffffffffffff, step := 0x4000000 },
    { key := 0x300002, ty := .u64, acc := .ro, role := .operator, size := 8, count := .engine },
    { key := 0x300003, ty := .u64, acc := .ro, role := .operator, size := 8, count := .engine },
    { key := 0x300004, ty := .bool, acc := .rw, role := .operator, size := 1, dflt := 1, hi := 1 },
    { key := 0x300005, ty := .u64, acc := .ro, role := .operator, size := 8, count := .engine },
    { key := 0x310001, ty := .u64, acc := .rws, role := .service, size := 8, dflt := 0x4800000, hi := 0xffffffffffffffff, step := 0x100000 },
    { key := 0x310002, ty := .u64, acc := .rws, role := .service, size := 8, dflt := 0x5000000, hi := 0xffffffffffffffff, step := 0x100000 },
    { key := 0x310003, ty := .u64, acc := .rws, role := .service, size := 8, dflt := 0xa000000, hi := 0xffffffffffffffff, step := 0x2000000 },
    { key := 0x310004, ty := .u32, acc := .rws, role := .owner, size := 4, dflt := 500, lo := 10, hi := 100000 },
    { key := 0x310005, ty := .u32, acc := .rw, role := .operator, size := 4, hi := 0xffffffff },
    { key := 0x310006, ty := .u32, acc := .rw, role := .operator, size := 4, hi := 0xffffffff },
    { key := 0x310007, ty := .u32, acc := .rws, role := .operator, size := 4, dflt := 1000, lo := 1, hi := 1000000 },
    { key := 0x310008, ty := .u64, acc := .ro, role := .operator, size := 8, count := .engine },
    { key := 0x310009, ty := .u64, acc := .ro, role := .operator, size := 8, count := .engine },
    { key := 0x31000A, ty := .u64, acc := .ro, role := .operator, size := 8, count := .engine },
    { key := 0x31000B, ty := .u64, acc := .ro, role := .operator, size := 8, count := .engine },
    { key := 0x31000C, ty := .u32, acc := .ro, role := .operator, size := 4 },
    { key := 0x31000D, ty := .u32, acc := .ro, role := .operator, size := 4 },
    { key := 0x31000E, ty := .u64, acc := .ro, role := .operator, size := 8, count := .engine },
    { key := 0x310100, ty := .blob, acc := .rw, role := .operator, size := 32 },
    { key := 0x310101, ty := .blob, acc := .rw, role := .operator, size := 32 },
    { key := 0x310102, ty := .blob, acc := .rw, role := .operator, size := 32 },
    { key := 0x310103, ty := .blob, acc := .rw, role := .operator, size := 32 } ]

/-- The entries of Tables 18.1 to 18.7, part 3. -/
def odPart3 : List OdEnt :=
  [ { key := 0x310104, ty := .blob, acc := .rw, role := .operator, size := 32 },
    { key := 0x310105, ty := .blob, acc := .rw, role := .operator, size := 32 },
    { key := 0x310106, ty := .blob, acc := .rw, role := .operator, size := 32 },
    { key := 0x310107, ty := .blob, acc := .rw, role := .operator, size := 32 },
    { key := 0x400002, ty := .blob, acc := .ro, role := .operator, size := 18 },
    { key := 0x410001, ty := .u64, acc := .ro, role := .operator, size := 8, count := .engine },
    { key := 0x410002, ty := .u64, acc := .ro, role := .operator, size := 8, count := .engine },
    { key := 0x410003, ty := .u32, acc := .rw, role := .operator, size := 4, hi := 0xffffffff },
    { key := 0x410004, ty := .u64, acc := .ro, role := .operator, size := 8, count := .engine },
    { key := 0x410005, ty := .u64, acc := .ro, role := .operator, size := 8, count := .engine },
    { key := 0x410006, ty := .u8, acc := .rws, role := .owner, size := 1, hi := 3 },
    { key := 0x410007, ty := .u32, acc := .rws, role := .operator, size := 4, dflt := 100, lo := 1, hi := 1000000 },
    { key := 0x410008, ty := .u32, acc := .rw, role := .operator, size := 4, dflt := 0x10000, lo := 1, hi := 0xffffffff },
    { key := 0x410009, ty := .u64, acc := .rw, role := .operator, size := 8, hi := 0xffffffffffffffff },
    { key := 0x41000A, ty := .u32, acc := .ro, role := .operator, size := 4 },
    { key := 0x41000B, ty := .blob, acc := .ro, role := .operator, size := 4096 },
    { key := 0x420001, ty := .u16, acc := .rws, role := .operator, size := 2, dflt := 512, hi := 8192 },
    { key := 0x420002, ty := .u16, acc := .rws, role := .operator, size := 2, dflt := 1792, hi := 8192 },
    { key := 0x420003, ty := .u16, acc := .rws, role := .operator, size := 2, dflt := 2560, hi := 8192 },
    { key := 0x420004, ty := .u16, acc := .rws, role := .operator, size := 2, dflt := 1280, hi := 8192 },
    { key := 0x420005, ty := .u16, acc := .rws, role := .operator, size := 2, dflt := 2048, hi := 8192 },
    { key := 0x420006, ty := .u32, acc := .rws, role := .operator, size := 4, dflt := 0xf193c, hi := 0xffffffff },
    { key := 0x420007, ty := .enum, acc := .ro, role := .operator, size := 1, dflt := 1 },
    { key := 0x420008, ty := .blob, acc := .rw, role := .operator, size := 64 } ]

/-- The entries of Tables 18.1 to 18.7, part 4. -/
def odPart4 : List OdEnt :=
  [ { key := 0x420009, ty := .u64, acc := .ro, role := .operator, size := 8, count := .engine },
    { key := 0x420100, ty := .blob, acc := .rw, role := .operator, size := 512 },
    { key := 0x420101, ty := .blob, acc := .rw, role := .operator, size := 512, dflt := odRepeat 1 1 512 },
    { key := 0x420102, ty := .blob, acc := .rw, role := .operator, size := 512, dflt := odRepeat 1 2 512 },
    { key := 0x420103, ty := .blob, acc := .rw, role := .operator, size := 512, dflt := odRepeat 1 3 512 },
    { key := 0x420104, ty := .blob, acc := .rw, role := .operator, size := 512, dflt := odRepeat 1 4 512 },
    { key := 0x420105, ty := .blob, acc := .rw, role := .operator, size := 512, dflt := odRepeat 1 5 512 },
    { key := 0x420106, ty := .blob, acc := .rw, role := .operator, size := 512, dflt := odRepeat 1 6 512 },
    { key := 0x420107, ty := .blob, acc := .rw, role := .operator, size := 512, dflt := odRepeat 1 7 512 },
    { key := 0x420108, ty := .blob, acc := .rw, role := .operator, size := 512, dflt := odRepeat 1 8 512 },
    { key := 0x430001, ty := .u64, acc := .ro, role := .operator, size := 8, count := .engine },
    { key := 0x430002, ty := .u64, acc := .ro, role := .operator, size := 8, count := .engine },
    { key := 0x430003, ty := .u64, acc := .ro, role := .operator, size := 8, count := .engine },
    { key := 0x430004, ty := .u64, acc := .ro, role := .operator, size := 8, count := .engine },
    { key := 0x430005, ty := .u64, acc := .ro, role := .operator, size := 8, count := .engine },
    { key := 0x430006, ty := .u64, acc := .ro, role := .operator, size := 8, count := .engine },
    { key := 0x430007, ty := .blob, acc := .ro, role := .operator, size := 32 },
    { key := 0x440001, ty := .u32, acc := .rws, role := .operator, size := 4, dflt := 1000, lo := 1, hi := 1000000 },
    { key := 0x440002, ty := .u32, acc := .rws, role := .operator, size := 4, dflt := 1024, hi := 0xffffffff },
    { key := 0x440003, ty := .u32, acc := .rws, role := .operator, size := 4, dflt := 256, hi := 0xffffffff },
    { key := 0x440004, ty := .f32, acc := .rws, role := .operator, size := 4, dflt := 0x40c00000, hi := 0xffffffff },
    { key := 0x440005, ty := .u64, acc := .rws, role := .service, size := 8, dflt := 0x8000000, hi := 0xffffffffffffffff, step := 0x1000000 },
    { key := 0x440006, ty := .blob, acc := .rws, role := .operator, size := 8192 },
    { key := 0x440007, ty := .u64, acc := .ro, role := .operator, size := 8, count := .engine } ]

/-- The entries of Tables 18.1 to 18.7, part 5. -/
def odPart5 : List OdEnt :=
  [ { key := 0x440008, ty := .u64, acc := .ro, role := .operator, size := 8, count := .engine },
    { key := 0x440009, ty := .u64, acc := .ro, role := .operator, size := 8, count := .engine },
    { key := 0x44000A, ty := .u64, acc := .ro, role := .operator, size := 8, count := .engine },
    { key := 0x44000B, ty := .u64, acc := .ro, role := .operator, size := 8, count := .engine },
    { key := 0x44000C, ty := .u64, acc := .ro, role := .operator, size := 8, count := .engine },
    { key := 0x44000D, ty := .f32, acc := .ro, role := .operator, size := 4 },
    { key := 0x44000E, ty := .u32, acc := .rw, role := .operator, size := 4, hi := 1048575 },
    { key := 0x44000F, ty := .blob, acc := .ro, role := .operator, size := 16 },
    { key := 0x440100, ty := .blob, acc := .rw, role := .operator, size := 16 },
    { key := 0x440101, ty := .blob, acc := .rw, role := .operator, size := 16 },
    { key := 0x440102, ty := .blob, acc := .rw, role := .operator, size := 16 },
    { key := 0x440103, ty := .blob, acc := .rw, role := .operator, size := 16 },
    { key := 0x440104, ty := .blob, acc := .rw, role := .operator, size := 16 },
    { key := 0x440105, ty := .blob, acc := .rw, role := .operator, size := 16 },
    { key := 0x440106, ty := .blob, acc := .rw, role := .operator, size := 16 },
    { key := 0x440107, ty := .blob, acc := .rw, role := .operator, size := 16 },
    { key := 0x440108, ty := .blob, acc := .rw, role := .operator, size := 16 },
    { key := 0x440109, ty := .blob, acc := .rw, role := .operator, size := 16 },
    { key := 0x44010A, ty := .blob, acc := .rw, role := .operator, size := 16 },
    { key := 0x44010B, ty := .blob, acc := .rw, role := .operator, size := 16 },
    { key := 0x44010C, ty := .blob, acc := .rw, role := .operator, size := 16 },
    { key := 0x44010D, ty := .blob, acc := .rw, role := .operator, size := 16 },
    { key := 0x44010E, ty := .blob, acc := .rw, role := .operator, size := 16 },
    { key := 0x44010F, ty := .blob, acc := .rw, role := .operator, size := 16 } ]

/-- The entries of Tables 18.1 to 18.7, part 6. -/
def odPart6 : List OdEnt :=
  [ { key := 0x450001, ty := .u32, acc := .rw, role := .operator, size := 4, dflt := 2048, hi := 1000000 },
    { key := 0x450002, ty := .u64, acc := .ro, role := .operator, size := 8, count := .engine },
    { key := 0x450003, ty := .u64, acc := .ro, role := .operator, size := 8, count := .engine },
    { key := 0x450004, ty := .u64, acc := .ro, role := .operator, size := 8, count := .engine },
    { key := 0x450005, ty := .u64, acc := .ro, role := .operator, size := 8, count := .engine },
    { key := 0x450006, ty := .u64, acc := .ro, role := .operator, size := 8, count := .engine },
    { key := 0x450007, ty := .u64, acc := .ro, role := .operator, size := 8, count := .engine },
    { key := 0x450008, ty := .blob, acc := .ro, role := .operator, size := 32 },
    { key := 0x460001, ty := .u64, acc := .rws, role := .service, size := 8, dflt := 0x9000000, hi := 0xffffffffffffffff, step := 0x1000000 },
    { key := 0x460002, ty := .u64, acc := .rws, role := .service, size := 8, dflt := 0x40000000, hi := 0xffffffffffffffff, step := 0x4000000 },
    { key := 0x460003, ty := .u32, acc := .rws, role := .service, size := 4, dflt := 1024, lo := 64, hi := 16384 },
    { key := 0x460004, ty := .u32, acc := .rws, role := .operator, size := 4, dflt := 512, hi := 0xffffffff },
    { key := 0x460005, ty := .u64, acc := .rws, role := .service, size := 8, dflt := 0x10000000, hi := 0xffffffffffffffff, step := 0x4000000 },
    { key := 0x460006, ty := .u32, acc := .rws, role := .service, size := 4, dflt := 256, lo := 64, hi := 4096 },
    { key := 0x460007, ty := .u64, acc := .rws, role := .service, size := 8, dflt := 0xc000000, hi := 0xffffffffffffffff, step := 0x4000000 },
    { key := 0x460008, ty := .u16, acc := .rws, role := .operator, size := 2, dflt := 50, lo := 1, hi := 65535 },
    { key := 0x460009, ty := .u32, acc := .rws, role := .owner, size := 4, dflt := 0x1388, lo := 100, hi := 1000000 },
    { key := 0x46000A, ty := .u16, acc := .rw, role := .operator, size := 2, hi := 65535 },
    { key := 0x46000B, ty := .blob, acc := .rw, role := .operator, size := 16 },
    { key := 0x46000C, ty := .u64, acc := .ro, role := .operator, size := 8, count := .engine },
    { key := 0x46000D, ty := .u64, acc := .ro, role := .operator, size := 8, count := .engine },
    { key := 0x46000E, ty := .u64, acc := .ro, role := .operator, size := 8, count := .engine },
    { key := 0x46000F, ty := .u64, acc := .ro, role := .operator, size := 8, count := .engine },
    { key := 0x460010, ty := .u64, acc := .ro, role := .operator, size := 8, count := .engine } ]

/-- The entries of Tables 18.1 to 18.7, part 7. -/
def odPart7 : List OdEnt :=
  [ { key := 0x460011, ty := .u64, acc := .ro, role := .operator, size := 8, count := .engine },
    { key := 0x460012, ty := .u64, acc := .ro, role := .operator, size := 8, count := .engine },
    { key := 0x460013, ty := .u64, acc := .ro, role := .operator, size := 8, count := .engine },
    { key := 0x460014, ty := .u64, acc := .ro, role := .operator, size := 8, count := .engine },
    { key := 0x460015, ty := .u64, acc := .ro, role := .operator, size := 8, count := .engine },
    { key := 0x460016, ty := .u64, acc := .ro, role := .operator, size := 8, count := .engine },
    { key := 0x460017, ty := .u64, acc := .ro, role := .operator, size := 8 },
    { key := 0x460018, ty := .u64, acc := .ro, role := .operator, size := 8, count := .engine },
    { key := 0x460019, ty := .u64, acc := .ro, role := .operator, size := 8, count := .engine },
    { key := 0x46001A, ty := .u64, acc := .ro, role := .operator, size := 8, count := .engine },
    { key := 0x460100, ty := .blob, acc := .rws, role := .operator, size := 32 },
    { key := 0x460101, ty := .blob, acc := .rws, role := .operator, size := 32 },
    { key := 0x460102, ty := .blob, acc := .rws, role := .operator, size := 32 },
    { key := 0x460103, ty := .blob, acc := .rws, role := .operator, size := 32 },
    { key := 0x460104, ty := .blob, acc := .rws, role := .operator, size := 32 },
    { key := 0x460105, ty := .blob, acc := .rws, role := .operator, size := 32 },
    { key := 0x460106, ty := .blob, acc := .rws, role := .operator, size := 32 },
    { key := 0x460107, ty := .blob, acc := .rws, role := .operator, size := 32 },
    { key := 0x460108, ty := .blob, acc := .rws, role := .operator, size := 32 },
    { key := 0x460109, ty := .blob, acc := .rws, role := .operator, size := 32 },
    { key := 0x46010A, ty := .blob, acc := .rws, role := .operator, size := 32 },
    { key := 0x46010B, ty := .blob, acc := .rws, role := .operator, size := 32 },
    { key := 0x46010C, ty := .blob, acc := .rws, role := .operator, size := 32 },
    { key := 0x46010D, ty := .blob, acc := .rws, role := .operator, size := 32 } ]

/-- The entries of Tables 18.1 to 18.7, part 8. -/
def odPart8 : List OdEnt :=
  [ { key := 0x46010E, ty := .blob, acc := .rws, role := .operator, size := 32 },
    { key := 0x46010F, ty := .blob, acc := .rws, role := .operator, size := 32 },
    { key := 0x470001, ty := .blob, acc := .rw, role := .operator, size := 2048 },
    { key := 0x470002, ty := .u32, acc := .rw, role := .operator, size := 4, hi := 0xffffffff },
    { key := 0x470003, ty := .u64, acc := .rws, role := .operator, size := 8, hi := 0xffffffffffffffff, step := 0x10000 },
    { key := 0x470004, ty := .u64, acc := .ro, role := .operator, size := 8 },
    { key := 0x470005, ty := .u32, acc := .ro, role := .operator, size := 4 },
    { key := 0x470006, ty := .u64, acc := .ro, role := .operator, size := 8, count := .engine },
    { key := 0x470007, ty := .u64, acc := .ro, role := .operator, size := 8, count := .engine },
    { key := 0x470008, ty := .u64, acc := .ro, role := .operator, size := 8, count := .engine },
    { key := 0x470009, ty := .u64, acc := .ro, role := .operator, size := 8, count := .engine },
    { key := 0x47000A, ty := .u64, acc := .ro, role := .operator, size := 8, count := .engine },
    { key := 0x47000B, ty := .u64, acc := .ro, role := .operator, size := 8, count := .engine },
    { key := 0x470100, ty := .blob, acc := .rws, role := .owner, size := 32 },
    { key := 0x470101, ty := .blob, acc := .rws, role := .owner, size := 32 },
    { key := 0x470102, ty := .blob, acc := .rws, role := .owner, size := 32 },
    { key := 0x470103, ty := .blob, acc := .rws, role := .owner, size := 32 },
    { key := 0x470104, ty := .blob, acc := .rws, role := .owner, size := 32 },
    { key := 0x470105, ty := .blob, acc := .rws, role := .owner, size := 32 },
    { key := 0x470106, ty := .blob, acc := .rws, role := .owner, size := 32 },
    { key := 0x470107, ty := .blob, acc := .rws, role := .owner, size := 32 },
    { key := 0x470108, ty := .blob, acc := .rws, role := .owner, size := 32 },
    { key := 0x470109, ty := .blob, acc := .rws, role := .owner, size := 32 },
    { key := 0x47010A, ty := .blob, acc := .rws, role := .owner, size := 32 } ]

/-- The entries of Tables 18.1 to 18.7, part 9. -/
def odPart9 : List OdEnt :=
  [ { key := 0x47010B, ty := .blob, acc := .rws, role := .owner, size := 32 },
    { key := 0x47010C, ty := .blob, acc := .rws, role := .owner, size := 32 },
    { key := 0x47010D, ty := .blob, acc := .rws, role := .owner, size := 32 },
    { key := 0x47010E, ty := .blob, acc := .rws, role := .owner, size := 32 },
    { key := 0x47010F, ty := .blob, acc := .rws, role := .owner, size := 32 },
    { key := 0x500001, ty := .blob, acc := .rws, role := .service, size := 36 },
    { key := 0x500002, ty := .u64, acc := .ro, role := .operator, size := 8, count := .engine },
    { key := 0x500003, ty := .u64, acc := .ro, role := .operator, size := 8, count := .engine },
    { key := 0x500004, ty := .u64, acc := .ro, role := .operator, size := 8, count := .engine },
    { key := 0x500005, ty := .u64, acc := .ro, role := .operator, size := 8, count := .engine },
    { key := 0x500006, ty := .u64, acc := .ro, role := .operator, size := 8, count := .engine },
    { key := 0x500007, ty := .u64, acc := .ro, role := .operator, size := 8, count := .engine },
    { key := 0x500008, ty := .u64, acc := .ro, role := .operator, size := 8, count := .engine },
    { key := 0x500009, ty := .u64, acc := .ro, role := .operator, size := 8, count := .engine },
    { key := 0x50000A, ty := .u64, acc := .ro, role := .operator, size := 8, count := .engine },
    { key := 0x50000B, ty := .u64, acc := .ro, role := .operator, size := 8, count := .engine },
    { key := 0x50000C, ty := .u64, acc := .ro, role := .operator, size := 8, count := .engine },
    { key := 0x500100, ty := .u64, acc := .rws, role := .owner, size := 8, dflt := 0x200b103ff, hi := 0xffffffffffffffff },
    { key := 0x500101, ty := .u64, acc := .rws, role := .owner, size := 8, dflt := 0x200410c00, hi := 0xffffffffffffffff },
    { key := 0x500102, ty := .u64, acc := .rws, role := .owner, size := 8, dflt := 0x203013000, hi := 0xffffffffffffffff },
    { key := 0x500103, ty := .u64, acc := .rws, role := .owner, size := 8, dflt := 0x201014000, hi := 0xffffffffffffffff },
    { key := 0x500104, ty := .u64, acc := .rws, role := .owner, size := 8, dflt := 0x204018000, hi := 0xffffffffffffffff },
    { key := 0x500105, ty := .u64, acc := .rws, role := .owner, size := 8, dflt := 0x200000000, hi := 0xffffffffffffffff },
    { key := 0x500106, ty := .u64, acc := .rws, role := .owner, size := 8, dflt := 0x200000000, hi := 0xffffffffffffffff } ]

/-- The entries of Tables 18.1 to 18.7, part 10. -/
def odPart10 : List OdEnt :=
  [ { key := 0x500107, ty := .u64, acc := .rws, role := .owner, size := 8, dflt := 0x200000000, hi := 0xffffffffffffffff },
    { key := 0x500200, ty := .blob, acc := .rws, role := .operator, size := 16 },
    { key := 0x500201, ty := .blob, acc := .rws, role := .operator, size := 16 },
    { key := 0x500202, ty := .blob, acc := .rws, role := .operator, size := 16 },
    { key := 0x500203, ty := .blob, acc := .rws, role := .operator, size := 16 },
    { key := 0x500204, ty := .blob, acc := .rws, role := .operator, size := 16 },
    { key := 0x500205, ty := .blob, acc := .rws, role := .operator, size := 16 },
    { key := 0x500206, ty := .blob, acc := .rws, role := .operator, size := 16 },
    { key := 0x500207, ty := .blob, acc := .rws, role := .operator, size := 16 },
    { key := 0x500208, ty := .blob, acc := .rws, role := .operator, size := 16 },
    { key := 0x500209, ty := .blob, acc := .rws, role := .operator, size := 16 },
    { key := 0x50020A, ty := .blob, acc := .rws, role := .operator, size := 16 },
    { key := 0x50020B, ty := .blob, acc := .rws, role := .operator, size := 16 },
    { key := 0x50020C, ty := .blob, acc := .rws, role := .operator, size := 16 },
    { key := 0x50020D, ty := .blob, acc := .rws, role := .operator, size := 16 },
    { key := 0x50020E, ty := .blob, acc := .rws, role := .operator, size := 16 },
    { key := 0x50020F, ty := .blob, acc := .rws, role := .operator, size := 16 },
    { key := 0x510001, ty := .u8, acc := .rws, role := .service, size := 1, dflt := 36, hi := 255 },
    { key := 0x510002, ty := .u8, acc := .ro, role := .operator, size := 1 },
    { key := 0x510003, ty := .u32, acc := .rws, role := .service, size := 4, dflt := 0xffffff, hi := 0xffffffff },
    { key := 0x510004, ty := .u8, acc := .ro, role := .operator, size := 1, dflt := 24 },
    { key := 0x510005, ty := .u64, acc := .ro, role := .operator, size := 8 },
    { key := 0x510006, ty := .bool, acc := .rws, role := .owner, size := 1, hi := 1 },
    { key := 0x510007, ty := .u8, acc := .rws, role := .owner, size := 1, dflt := 95, lo := 70, hi := 104 } ]

/-- The entries of Tables 18.1 to 18.7, part 11. -/
def odPart11 : List OdEnt :=
  [ { key := 0x510008, ty := .u8, acc := .rws, role := .owner, size := 1, dflt := 105, lo := 71, hi := 110 },
    { key := 0x510009, ty := .blob, acc := .ro, role := .operator, size := 24, dflt := 0x808080808080808080808080808080808080808080808080 },
    { key := 0x51000A, ty := .blob, acc := .ro, role := .operator, size := 24 },
    { key := 0x51000B, ty := .u8, acc := .wo, role := .owner, size := 1, dflt := 255, hi := 23 },
    { key := 0x51000C, ty := .u16, acc := .rws, role := .owner, size := 2, dflt := 64, hi := 65535 },
    { key := 0x51000D, ty := .u64, acc := .ro, role := .operator, size := 8, count := .engine },
    { key := 0x51000E, ty := .u64, acc := .ro, role := .operator, size := 8, count := .engine },
    { key := 0x51000F, ty := .u64, acc := .ro, role := .operator, size := 8, count := .engine },
    { key := 0x510010, ty := .u16, acc := .rws, role := .owner, size := 2, dflt := 24, lo := 1, hi := 168 },
    { key := 0x510011, ty := .u64, acc := .ro, role := .operator, size := 8 },
    { key := 0x600001, ty := .u16, acc := .rws, role := .service, size := 2, hi := 1023 },
    { key := 0x600002, ty := .u32, acc := .rws, role := .owner, size := 4, hi := 0xffffffff },
    { key := 0x600003, ty := .blob, acc := .rws, role := .owner, size := 128 },
    { key := 0x600004, ty := .blob, acc := .rws, role := .owner, size := 8, dflt := 0xffffffffffffffff },
    { key := 0x600005, ty := .u16, acc := .ro, role := .operator, size := 2, dflt := 0xffff },
    { key := 0x600006, ty := .u16, acc := .ro, role := .operator, size := 2 },
    { key := 0x600007, ty := .u8, acc := .rws, role := .owner, size := 1, dflt := 4, lo := 2, hi := 64 },
    { key := 0x600008, ty := .blob, acc := .rw, role := .operator, size := 1024, dflt := odRepeat 1 0xFF 1024 },
    { key := 0x600009, ty := .blob, acc := .ro, role := .operator, size := 8 },
    { key := 0x60000A, ty := .u8, acc := .rws, role := .owner, size := 1, dflt := 255, hi := 255 },
    { key := 0x60000B, ty := .u32, acc := .rws, role := .owner, size := 4, dflt := 4096, lo := 16, hi := 1000000 },
    { key := 0x60000C, ty := .u32, acc := .rws, role := .operator, size := 4, dflt := 100, lo := 10, hi := 100000 },
    { key := 0x60000D, ty := .bool, acc := .rws, role := .owner, size := 1, dflt := 1, hi := 1 },
    { key := 0x60000E, ty := .u16, acc := .rws, role := .owner, size := 2, dflt := 100, lo := 4, hi := 10000 } ]

/-- The entries of Tables 18.1 to 18.7, part 12. -/
def odPart12 : List OdEnt :=
  [ { key := 0x60000F, ty := .blob, acc := .ro, role := .operator, size := 8 },
    { key := 0x600010, ty := .u64, acc := .ro, role := .operator, size := 8, count := .engine },
    { key := 0x600011, ty := .u64, acc := .ro, role := .operator, size := 8, count := .engine },
    { key := 0x600012, ty := .u64, acc := .ro, role := .operator, size := 8, count := .engine },
    { key := 0x600013, ty := .u64, acc := .ro, role := .operator, size := 8, count := .engine },
    { key := 0x600014, ty := .u64, acc := .ro, role := .operator, size := 8, count := .engine },
    { key := 0x600015, ty := .u64, acc := .ro, role := .operator, size := 8, count := .engine },
    { key := 0x600016, ty := .u16, acc := .rws, role := .service, size := 2, dflt := 0xffff, hi := 65535 },
    { key := 0x600017, ty := .enum, acc := .ro, role := .operator, size := 1 },
    { key := 0x600018, ty := .u8, acc := .rws, role := .owner, size := 1, dflt := 4, lo := 2, hi := 64 },
    { key := 0x600019, ty := .u8, acc := .rw, role := .operator, size := 1, dflt := 255, hi := 255 },
    { key := 0x60001A, ty := .u64, acc := .ro, role := .operator, size := 8, count := .engine },
    { key := 0x60001B, ty := .u64, acc := .ro, role := .operator, size := 8, count := .engine },
    { key := 0x700001, ty := .u16, acc := .rws, role := .owner, size := 2, dflt := 2000, lo := 400, hi := 25000 },
    { key := 0x700002, ty := .u16, acc := .ro, role := .operator, size := 2, dflt := 2000 },
    { key := 0x700003, ty := .enum, acc := .rws, role := .owner, size := 1, hi := 1 },
    { key := 0x700004, ty := .enum, acc := .ro, role := .operator, size := 1 },
    { key := 0x700005, ty := .u64, acc := .ro, role := .operator, size := 8, count := .engine },
    { key := 0x700006, ty := .u64, acc := .ro, role := .operator, size := 8, count := .engine },
    { key := 0x700007, ty := .bool, acc := .rws, role := .owner, size := 1, dflt := 1, hi := 1 },
    { key := 0x700008, ty := .i32, acc := .ro, role := .operator, size := 4 },
    { key := 0x700009, ty := .u64, acc := .ro, role := .operator, size := 8, count := .engine },
    { key := 0x70000A, ty := .u32, acc := .rws, role := .operator, size := 4, dflt := 0x5a5a5a, hi := 0xffffffff },
    { key := 0x70000B, ty := .u32, acc := .rws, role := .operator, size := 4, dflt := 0x10000, lo := 1024, hi := 16777216 } ]

/-- The entries of Tables 18.1 to 18.7, part 13. -/
def odPart13 : List OdEnt :=
  [ { key := 0x70000C, ty := .u64, acc := .ro, role := .operator, size := 8, count := .engine },
    { key := 0x70000D, ty := .u64, acc := .ro, role := .operator, size := 8, count := .engine },
    { key := 0x70000E, ty := .u64, acc := .ro, role := .operator, size := 8, count := .engine },
    { key := 0x70000F, ty := .blob, acc := .ro, role := .operator, size := 196 },
    { key := 0x701001, ty := .blob, acc := .rws, role := .owner, size := 512 },
    { key := 0x701002, ty := .u64, acc := .ro, role := .operator, size := 8, count := .engine },
    { key := 0x701003, ty := .u64, acc := .ro, role := .operator, size := 8, count := .engine },
    { key := 0x701100, ty := .blob, acc := .rw, role := .operator, size := 16 },
    { key := 0x701101, ty := .blob, acc := .rw, role := .operator, size := 16 },
    { key := 0x701102, ty := .blob, acc := .rw, role := .operator, size := 16 },
    { key := 0x701103, ty := .blob, acc := .rw, role := .operator, size := 16 },
    { key := 0x701104, ty := .blob, acc := .rw, role := .operator, size := 16 },
    { key := 0x701105, ty := .blob, acc := .rw, role := .operator, size := 16 },
    { key := 0x701106, ty := .blob, acc := .rw, role := .operator, size := 16 },
    { key := 0x701107, ty := .blob, acc := .rw, role := .operator, size := 16 },
    { key := 0x701108, ty := .blob, acc := .rw, role := .operator, size := 16 },
    { key := 0x701109, ty := .blob, acc := .rw, role := .operator, size := 16 },
    { key := 0x70110A, ty := .blob, acc := .rw, role := .operator, size := 16 },
    { key := 0x70110B, ty := .blob, acc := .rw, role := .operator, size := 16 },
    { key := 0x70110C, ty := .blob, acc := .rw, role := .operator, size := 16 },
    { key := 0x70110D, ty := .blob, acc := .rw, role := .operator, size := 16 },
    { key := 0x70110E, ty := .blob, acc := .rw, role := .operator, size := 16 },
    { key := 0x70110F, ty := .blob, acc := .rw, role := .operator, size := 16 },
    { key := 0x701110, ty := .blob, acc := .rw, role := .operator, size := 16 } ]

/-- The entries of Tables 18.1 to 18.7, part 14. -/
def odPart14 : List OdEnt :=
  [ { key := 0x701111, ty := .blob, acc := .rw, role := .operator, size := 16 },
    { key := 0x701112, ty := .blob, acc := .rw, role := .operator, size := 16 },
    { key := 0x701113, ty := .blob, acc := .rw, role := .operator, size := 16 },
    { key := 0x701114, ty := .blob, acc := .rw, role := .operator, size := 16 },
    { key := 0x701115, ty := .blob, acc := .rw, role := .operator, size := 16 },
    { key := 0x701116, ty := .blob, acc := .rw, role := .operator, size := 16 },
    { key := 0x701117, ty := .blob, acc := .rw, role := .operator, size := 16 },
    { key := 0x701118, ty := .blob, acc := .rw, role := .operator, size := 16 },
    { key := 0x701119, ty := .blob, acc := .rw, role := .operator, size := 16 },
    { key := 0x70111A, ty := .blob, acc := .rw, role := .operator, size := 16 },
    { key := 0x70111B, ty := .blob, acc := .rw, role := .operator, size := 16 },
    { key := 0x70111C, ty := .blob, acc := .rw, role := .operator, size := 16 },
    { key := 0x70111D, ty := .blob, acc := .rw, role := .operator, size := 16 },
    { key := 0x70111E, ty := .blob, acc := .rw, role := .operator, size := 16 },
    { key := 0x70111F, ty := .blob, acc := .rw, role := .operator, size := 16 },
    { key := 0x701120, ty := .blob, acc := .rw, role := .operator, size := 16 },
    { key := 0x701121, ty := .blob, acc := .rw, role := .operator, size := 16 },
    { key := 0x701122, ty := .blob, acc := .rw, role := .operator, size := 16 },
    { key := 0x701123, ty := .blob, acc := .rw, role := .operator, size := 16 },
    { key := 0x701124, ty := .blob, acc := .rw, role := .operator, size := 16 },
    { key := 0x701125, ty := .blob, acc := .rw, role := .operator, size := 16 },
    { key := 0x701126, ty := .blob, acc := .rw, role := .operator, size := 16 },
    { key := 0x701127, ty := .blob, acc := .rw, role := .operator, size := 16 },
    { key := 0x701128, ty := .blob, acc := .rw, role := .operator, size := 16 } ]

/-- The entries of Tables 18.1 to 18.7, part 15. -/
def odPart15 : List OdEnt :=
  [ { key := 0x701129, ty := .blob, acc := .rw, role := .operator, size := 16 },
    { key := 0x70112A, ty := .blob, acc := .rw, role := .operator, size := 16 },
    { key := 0x70112B, ty := .blob, acc := .rw, role := .operator, size := 16 },
    { key := 0x70112C, ty := .blob, acc := .rw, role := .operator, size := 16 },
    { key := 0x70112D, ty := .blob, acc := .rw, role := .operator, size := 16 },
    { key := 0x70112E, ty := .blob, acc := .rw, role := .operator, size := 16 },
    { key := 0x70112F, ty := .blob, acc := .rw, role := .operator, size := 16 },
    { key := 0x701130, ty := .blob, acc := .rw, role := .operator, size := 16 },
    { key := 0x701131, ty := .blob, acc := .rw, role := .operator, size := 16 },
    { key := 0x701132, ty := .blob, acc := .rw, role := .operator, size := 16 },
    { key := 0x701133, ty := .blob, acc := .rw, role := .operator, size := 16 },
    { key := 0x701134, ty := .blob, acc := .rw, role := .operator, size := 16 },
    { key := 0x701135, ty := .blob, acc := .rw, role := .operator, size := 16 },
    { key := 0x701136, ty := .blob, acc := .rw, role := .operator, size := 16 },
    { key := 0x701137, ty := .blob, acc := .rw, role := .operator, size := 16 },
    { key := 0x701138, ty := .blob, acc := .rw, role := .operator, size := 16 },
    { key := 0x701139, ty := .blob, acc := .rw, role := .operator, size := 16 },
    { key := 0x70113A, ty := .blob, acc := .rw, role := .operator, size := 16 },
    { key := 0x70113B, ty := .blob, acc := .rw, role := .operator, size := 16 },
    { key := 0x70113C, ty := .blob, acc := .rw, role := .operator, size := 16 },
    { key := 0x70113D, ty := .blob, acc := .rw, role := .operator, size := 16 },
    { key := 0x70113E, ty := .blob, acc := .rw, role := .operator, size := 16 },
    { key := 0x70113F, ty := .blob, acc := .rw, role := .operator, size := 16 },
    { key := 0x702001, ty := .u32, acc := .rw, role := .operator, size := 4, dflt := 128, hi := 65535 } ]

/-- The entries of Tables 18.1 to 18.7, part 16. -/
def odPart16 : List OdEnt :=
  [ { key := 0x702002, ty := .u16, acc := .rw, role := .operator, size := 2, dflt := 512, lo := 1, hi := 4096 },
    { key := 0x702003, ty := .u16, acc := .rw, role := .operator, size := 2, dflt := 48, lo := 1, hi := 4096 },
    { key := 0x702004, ty := .u16, acc := .rw, role := .operator, size := 2, dflt := 56, lo := 1, hi := 4096 },
    { key := 0x702005, ty := .u16, acc := .rw, role := .operator, size := 2, dflt := 90, lo := 1, hi := 4096 },
    { key := 0x800001, ty := .enum, acc := .ro, role := .operator, size := 1 },
    { key := 0x800002, ty := .enum, acc := .wo, role := .owner, size := 1, hi := 1 },
    { key := 0x800003, ty := .bool, acc := .wo, role := .owner, size := 1, hi := 1 },
    { key := 0x800004, ty := .blob, acc := .rws, role := .owner, size := 48 },
    { key := 0x800005, ty := .blob, acc := .rws, role := .owner, size := 48 },
    { key := 0x800006, ty := .blob, acc := .wo, role := .owner, size := 57464, varLen := true },
    { key := 0x800007, ty := .blob, acc := .wo, role := .owner, size := 57464, varLen := true },
    { key := 0x800008, ty := .u16, acc := .wo, role := .owner, size := 2, hi := 65535 },
    { key := 0x800009, ty := .blob, acc := .ro, role := .operator, size := 512, dflt := odRepeat 1 0xFF 512 },
    { key := 0x80000A, ty := .blob, acc := .rws, role := .owner, size := 8192, dflt := odRepeat 16 0xfff000000000003ffff00000ffff0000 512 },
    { key := 0x80000B, ty := .u8, acc := .rws, role := .service, size := 1, dflt := 255, hi := 255 },
    { key := 0x80000C, ty := .u8, acc := .rws, role := .service, size := 1, dflt := 8, lo := 1, hi := 255 },
    { key := 0x900001, ty := .blob, acc := .ro, role := .operator, size := 96 },
    { key := 0x900002, ty := .blob, acc := .ro, role := .operator, size := 96 },
    { key := 0x900003, ty := .blob, acc := .ro, role := .operator, size := 144, count := .powerOn },
    { key := 0x900004, ty := .u32, acc := .rws, role := .owner, size := 4, dflt := 1000, lo := 100, hi := 1000000 },
    { key := 0x900005, ty := .u16, acc := .rws, role := .owner, size := 2, dflt := 16, lo := 1, hi := 1000 },
    { key := 0x900006, ty := .u16, acc := .rws, role := .owner, size := 2, dflt := 8, lo := 1, hi := 1000 },
    { key := 0x900007, ty := .u8, acc := .rws, role := .owner, size := 1, dflt := 3, lo := 1, hi := 100 },
    { key := 0x900008, ty := .u8, acc := .rws, role := .owner, size := 1, dflt := 4, lo := 1, hi := 16 } ]

/-- The entries of Tables 18.1 to 18.7, part 17. -/
def odPart17 : List OdEnt :=
  [ { key := 0x900009, ty := .bool, acc := .rws, role := .owner, size := 1, dflt := 1, hi := 1 },
    { key := 0x90000A, ty := .bool, acc := .rws, role := .owner, size := 1, dflt := 1, hi := 1 },
    { key := 0x90000B, ty := .u16, acc := .rws, role := .owner, size := 2, dflt := 100, hi := 10000 },
    { key := 0x90000C, ty := .u64, acc := .ro, role := .operator, size := 8, count := .engine },
    { key := 0xA00001, ty := .enum, acc := .ro, role := .operator, size := 1 },
    { key := 0xA00002, ty := .blob, acc := .ro, role := .operator, size := 10 },
    { key := 0xA00003, ty := .blob, acc := .wo, role := .service, size := 4194304, varLen := true },
    { key := 0xA00004, ty := .bool, acc := .wo, role := .service, size := 1, hi := 1 },
    { key := 0xA00005, ty := .bool, acc := .wo, role := .service, size := 1, hi := 1 },
    { key := 0xA00006, ty := .u8, acc := .wo, role := .service, size := 1, dflt := 255, hi := 15 },
    { key := 0xA00007, ty := .u16, acc := .wo, role := .service, size := 2, dflt := 0xffff, hi := 65535 },
    { key := 0xA00008, ty := .bool, acc := .wo, role := .service, size := 1, hi := 1 } ]

/-- Every entry of the object dictionary (R448). -/
def odTable : List OdEnt :=
  odPart1 ++ odPart2 ++ odPart3 ++ odPart4 ++ odPart5 ++ odPart6 ++ odPart7 ++ odPart8 ++ odPart9 ++ odPart10 ++ odPart11 ++ odPart12 ++ odPart13 ++ odPart14 ++ odPart15 ++ odPart16 ++ odPart17

/-- The entry with a key, if there is one (R448). -/
def odFind (k : Nat) : Option OdEnt := odTable.find? (fun e => e.key == k)

/-! The keys of the entries by name. Where a row has a range of subindices, the name is that of the first. -/

/-- ID_VENDOR. -/
def odIdVendor : Nat := 0x100001
/-- ID_PRODUCT. -/
def odIdProduct : Nat := 0x100002
/-- ID_STEPPING. -/
def odIdStepping : Nat := 0x100003
/-- ID_SERIAL. -/
def odIdSerial : Nat := 0x100004
/-- ID_CERT. -/
def odIdCert : Nat := 0x100005
/-- ID_AGREE_PUB. -/
def odIdAgreePub : Nat := 0x100006
/-- ID_MGMT_MAC. -/
def odIdMgmtMac : Nat := 0x100007
/-- CRU_REF_MODE. -/
def odCruRefMode : Nat := 0x200001
/-- CRU_POD_KHZ. -/
def odCruPodKhz : Nat := 0x200002
/-- CRU_HUB_KHZ. -/
def odCruHubKhz : Nat := 0x200003
/-- CRU_FAB_KHZ. -/
def odCruFabKhz : Nat := 0x200004
/-- CRU_CLKMON. -/
def odCruClkmon : Nat := 0x200005
/-- CRU_POD_RESET. -/
def odCruPodReset : Nat := 0x200006
/-- CRU_D2D_STATE. -/
def odCruD2dState : Nat := 0x200007
/-- CRU_COASTS. -/
def odCruCoasts : Nat := 0x200008
/-- CRU_POD_RESETS. -/
def odCruPodResets : Nat := 0x200009
/-- CRU_D2D_FAILS. -/
def odCruD2dFails : Nat := 0x20000A
/-- PEU_PDESIGN. -/
def odPeuPdesign : Nat := 0x210001
/-- PEU_ILIMIT. -/
def odPeuIlimit : Nat := 0x210002
/-- PEU_VIN. -/
def odPeuVin : Nat := 0x210003
/-- PEU_IIN. -/
def odPeuIin : Nat := 0x210004
/-- PEU_PIN. -/
def odPeuPin : Nat := 0x210005
/-- PEU_TARGET. -/
def odPeuTarget : Nat := 0x210006
/-- PEU_RAILS. -/
def odPeuRails : Nat := 0x210007
/-- PEU_LIMIT_FOLIOS. -/
def odPeuLimitFolios : Nat := 0x210008
/-- CAT_DESC_BASE. -/
def odCatDescBase : Nat := 0x300001
/-- CAT_HITS. -/
def odCatHits : Nat := 0x300002
/-- CAT_MISSES. -/
def odCatMisses : Nat := 0x300003
/-- CAT_PRELOAD. -/
def odCatPreload : Nat := 0x300004
/-- CAT_MISS_WAITS. -/
def odCatMissWaits : Nat := 0x300005
/-- CAT_FWD_BASE. -/
def odCatFwdBase : Nat := 0x310001
/-- CAT_REPDIR_BASE. -/
def odCatRepdirBase : Nat := 0x310002
/-- CAT_CIRC_BASE. -/
def odCatCircBase : Nat := 0x310003
/-- CAT_INVAL_FOLIOS. -/
def odCatInvalFolios : Nat := 0x310004
/-- CAT_HOT_READS. -/
def odCatHotReads : Nat := 0x310005
/-- CAT_HOT_ENTRIES. -/
def odCatHotEntries : Nat := 0x310006
/-- CAT_HOT_WINDOW. -/
def odCatHotWindow : Nat := 0x310007
/-- CAT_LATE_REREADS. -/
def odCatLateRereads : Nat := 0x310008
/-- CAT_SLOT_WAITS. -/
def odCatSlotWaits : Nat := 0x310009
/-- CAT_SLOTS_LEAKED. -/
def odCatSlotsLeaked : Nat := 0x31000A
/-- CAT_MOVES_LOST. -/
def odCatMovesLost : Nat := 0x31000B
/-- CAT_REPLICAS. -/
def odCatReplicas : Nat := 0x31000C
/-- CAT_REPDIR_USED. -/
def odCatRepdirUsed : Nat := 0x31000D
/-- CAT_READS_PASSED. -/
def odCatReadsPassed : Nat := 0x31000E
/-- CAT_SLOTRING_0. -/
def odCatSlotring : Nat := 0x310100
/-- POD_MAP. -/
def odPodMap : Nat := 0x400002
/-- IXU_DEFAULTS_RANGE. -/
def odIxuDefaultsRange : Nat := 0x410001
/-- IXU_DEFAULTS_ABSENT. -/
def odIxuDefaultsAbsent : Nat := 0x410002
/-- IXU_DEFAULT_THRESH. -/
def odIxuDefaultThresh : Nat := 0x410003
/-- IXU_FOLDED. -/
def odIxuFolded : Nat := 0x410004
/-- IXU_PARK_STALLS. -/
def odIxuParkStalls : Nat := 0x410005
/-- IXU_HASH_SLOT. -/
def odIxuHashSlot : Nat := 0x410006
/-- IXU_HEAT_WINDOW. -/
def odIxuHeatWindow : Nat := 0x410007
/-- IXU_HEAT_THRESH. -/
def odIxuHeatThresh : Nat := 0x410008
/-- IXU_HEAT_QUERY. -/
def odIxuHeatQuery : Nat := 0x410009
/-- IXU_HEAT_ESTIMATE. -/
def odIxuHeatEstimate : Nat := 0x41000A
/-- IXU_HEAT_TOP. -/
def odIxuHeatTop : Nat := 0x41000B
/-- GAU_BUDGET_STACKS. -/
def odGauBudgetStacks : Nat := 0x420001
/-- GAU_BUDGET_XPOD. -/
def odGauBudgetXpod : Nat := 0x420002
/-- GAU_BUDGET_GDDR. -/
def odGauBudgetGddr : Nat := 0x420003
/-- GAU_BUDGET_HOST. -/
def odGauBudgetHost : Nat := 0x420004
/-- GAU_BUDGET_REMOTE. -/
def odGauBudgetRemote : Nat := 0x420005
/-- GAU_SHARES. -/
def odGauShares : Nat := 0x420006
/-- GAU_ARB_STATE. -/
def odGauArbState : Nat := 0x420007
/-- GAU_INTERLEAVE. -/
def odGauInterleave : Nat := 0x420008
/-- GAU_SLOT_WAITS. -/
def odGauSlotWaits : Nat := 0x420009
/-- GAU_SPROUT_BIND_00. -/
def odGauSproutBind : Nat := 0x420100
/-- PLU_BAG_LONG. -/
def odPluBagLong : Nat := 0x430001
/-- PLU_NONFINITE. -/
def odPluNonfinite : Nat := 0x430002
/-- PLU_TREE_WAITS. -/
def odPluTreeWaits : Nat := 0x430003
/-- PLU_RETURN_WAITS. -/
def odPluReturnWaits : Nat := 0x430004
/-- PLU_TILE_BUSY. -/
def odPluTileBusy : Nat := 0x430005
/-- PLU_WINDOW_DROPS. -/
def odPluWindowDrops : Nat := 0x430006
/-- PLU_GROUPS_OPEN. -/
def odPluGroupsOpen : Nat := 0x430007
/-- QNT_WINDOW. -/
def odQntWindow : Nat := 0x440001
/-- QNT_SAT_THRESH. -/
def odQntSatThresh : Nat := 0x440002
/-- QNT_RES_THRESH. -/
def odQntResThresh : Nat := 0x440003
/-- QNT_ESC_RATIO. -/
def odQntEscRatio : Nat := 0x440004
/-- QNT_STATS_BASE. -/
def odQntStatsBase : Nat := 0x440005
/-- QNT_RESCALE. -/
def odQntRescale : Nat := 0x440006
/-- QNT_EXPORT_SAT. -/
def odQntExportSat : Nat := 0x440007
/-- QNT_EXPORT_NONFINITE. -/
def odQntExportNonfinite : Nat := 0x440008
/-- QNT_CB_LOADS. -/
def odQntCbLoads : Nat := 0x440009
/-- QNT_CB_WAITS. -/
def odQntCbWaits : Nat := 0x44000A
/-- QNT_ESC_DROPPED. -/
def odQntEscDropped : Nat := 0x44000B
/-- QNT_CONST_ROWS. -/
def odQntConstRows : Nat := 0x44000C
/-- QNT_EXPORT_MAXABS. -/
def odQntExportMaxabs : Nat := 0x44000D
/-- QNT_STATS_SELECT. -/
def odQntStatsSelect : Nat := 0x44000E
/-- QNT_STATS_ENTRY. -/
def odQntStatsEntry : Nat := 0x44000F
/-- QNT_RESID_0. -/
def odQntResid : Nat := 0x440100
/-- FLU_FILL_WAIT. -/
def odFluFillWait : Nat := 0x450001
/-- FLU_PASSES. -/
def odFluPasses : Nat := 0x450002
/-- FLU_PARTIAL_PASSES. -/
def odFluPartialPasses : Nat := 0x450003
/-- FLU_ACTIVE_CYCLES. -/
def odFluActiveCycles : Nat := 0x450004
/-- FLU_RAMPS. -/
def odFluRamps : Nat := 0x450005
/-- FLU_PRELOAD_MISSES. -/
def odFluPreloadMisses : Nat := 0x450006
/-- FLU_WLOAD_BYTES. -/
def odFluWloadBytes : Nat := 0x450007
/-- FLU_HALF_STATE. -/
def odFluHalfState : Nat := 0x450008
/-- UPU_LEDGER_BASE. -/
def odUpuLedgerBase : Nat := 0x460001
/-- UPU_RETAIN_BASE. -/
def odUpuRetainBase : Nat := 0x460002
/-- UPU_RETAIN_SIZE. -/
def odUpuRetainSize : Nat := 0x460003
/-- UPU_TASK_LIMIT. -/
def odUpuTaskLimit : Nat := 0x460004
/-- UPU_INBOX_BASE. -/
def odUpuInboxBase : Nat := 0x460005
/-- UPU_INBOX_SIZE. -/
def odUpuInboxSize : Nat := 0x460006
/-- UPU_HOSTLOG_BASE. -/
def odUpuHostlogBase : Nat := 0x460007
/-- UPU_RESEND_FOLIOS. -/
def odUpuResendFolios : Nat := 0x460008
/-- UPU_RECOVERY_FOLIOS. -/
def odUpuRecoveryFolios : Nat := 0x460009
/-- UPU_TRAIN_SELECT. -/
def odUpuTrainSelect : Nat := 0x46000A
/-- UPU_TRAIN_ENTRY. -/
def odUpuTrainEntry : Nat := 0x46000B
/-- UPU_GRAD_DISCARDED. -/
def odUpuGradDiscarded : Nat := 0x46000C
/-- UPU_GRAD_ABSENT. -/
def odUpuGradAbsent : Nat := 0x46000D
/-- UPU_COALESCED. -/
def odUpuCoalesced : Nat := 0x46000E
/-- UPU_DEEP_SPILLS. -/
def odUpuDeepSpills : Nat := 0x46000F
/-- UPU_PARCELS_SENT. -/
def odUpuParcelsSent : Nat := 0x460010
/-- UPU_PARCELS_RESENT. -/
def odUpuParcelsResent : Nat := 0x460011
/-- UPU_DUP_PARCELS. -/
def odUpuDupParcels : Nat := 0x460012
/-- UPU_ROWS_SKIPPED. -/
def odUpuRowsSkipped : Nat := 0x460013
/-- UPU_ROWS_FINISHED. -/
def odUpuRowsFinished : Nat := 0x460014
/-- UPU_INBOX_DROPS. -/
def odUpuInboxDrops : Nat := 0x460015
/-- UPU_RETAIN_STALLS. -/
def odUpuRetainStalls : Nat := 0x460016
/-- UPU_RETAINED_BYTES. -/
def odUpuRetainedBytes : Nat := 0x460017
/-- UPU_FORWARDED. -/
def odUpuForwarded : Nat := 0x460018
/-- UPU_STRAY_ENTRIES. -/
def odUpuStrayEntries : Nat := 0x460019
/-- UPU_FRESH_DISCARDS. -/
def odUpuFreshDiscards : Nat := 0x46001A
/-- UPU_OPT_0. -/
def odUpuOpt : Nat := 0x460100
/-- HPT_ASID. -/
def odHptAsid : Nat := 0x470001
/-- HPT_ENGINE_ASID. -/
def odHptEngineAsid : Nat := 0x470002
/-- HPT_PRESERVED_ADDR. -/
def odHptPreservedAddr : Nat := 0x470003
/-- HPT_INBOUND_BASE. -/
def odHptInboundBase : Nat := 0x470004
/-- HPT_HOST_EPOCH. -/
def odHptHostEpoch : Nat := 0x470005
/-- HPT_RETAIN_STALLS. -/
def odHptRetainStalls : Nat := 0x470006
/-- HPT_REPLAYED. -/
def odHptReplayed : Nat := 0x470007
/-- HPT_DISCARDED. -/
def odHptDiscarded : Nat := 0x470008
/-- HPT_TRANS_MISSES. -/
def odHptTransMisses : Nat := 0x470009
/-- HPT_INBOUND_REJECTS. -/
def odHptInboundRejects : Nat := 0x47000A
/-- HPT_SNOOP_RECALLS. -/
def odHptSnoopRecalls : Nat := 0x47000B
/-- HPT_APERTURE_0. -/
def odHptAperture : Nat := 0x470100
/-- STK_RETIRED. -/
def odStkRetired : Nat := 0x500001
/-- STK_HITS. -/
def odStkHits : Nat := 0x500002
/-- STK_MISSES. -/
def odStkMisses : Nat := 0x500003
/-- STK_MERGED. -/
def odStkMerged : Nat := 0x500004
/-- STK_SLIP_WAITS. -/
def odStkSlipWaits : Nat := 0x500005
/-- STK_WEED_HITS. -/
def odStkWeedHits : Nat := 0x500006
/-- STK_WEED_WAITS. -/
def odStkWeedWaits : Nat := 0x500007
/-- STK_STALE_REISSUES. -/
def odStkStaleReissues : Nat := 0x500008
/-- STK_PREFETCHES. -/
def odStkPrefetches : Nat := 0x500009
/-- STK_PREFETCH_USED. -/
def odStkPrefetchUsed : Nat := 0x50000A
/-- STK_DIR_BACKINV. -/
def odStkDirBackinv : Nat := 0x50000B
/-- STK_ERRORS. -/
def odStkErrors : Nat := 0x50000C
/-- STK_PART_0. -/
def odStkPart : Nat := 0x500100
/-- STK_PIN_0. -/
def odStkPin : Nat := 0x500200
/-- MSS_PIN_RATE. -/
def odMssPinRate : Nat := 0x510001
/-- MSS_DENSITY. -/
def odMssDensity : Nat := 0x510002
/-- MSS_CHAN_MAP. -/
def odMssChanMap : Nat := 0x510003
/-- MSS_CHANNELS. -/
def odMssChannels : Nat := 0x510004
/-- MSS_USABLE. -/
def odMssUsable : Nat := 0x510005
/-- MSS_TAGS. -/
def odMssTags : Nat := 0x510006
/-- MSS_THROTTLE_T1. -/
def odMssThrottleT1 : Nat := 0x510007
/-- MSS_THROTTLE_T2. -/
def odMssThrottleT2 : Nat := 0x510008
/-- MSS_TEMP. -/
def odMssTemp : Nat := 0x510009
/-- MSS_THROTTLE_STATE. -/
def odMssThrottleState : Nat := 0x51000A
/-- MSS_RETRAIN. -/
def odMssRetrain : Nat := 0x51000B
/-- MSS_CRC_RETRAIN. -/
def odMssCrcRetrain : Nat := 0x51000C
/-- MSS_CRC_RETRIES. -/
def odMssCrcRetries : Nat := 0x51000D
/-- MSS_RETRAINS. -/
def odMssRetrains : Nat := 0x51000E
/-- MSS_TAG_FAILS. -/
def odMssTagFails : Nat := 0x51000F
/-- MSS_SCRUB_PERIOD. -/
def odMssScrubPeriod : Nat := 0x510010
/-- MSS_GENERATION. -/
def odMssGeneration : Nat := 0x510011
/-- SFP_ENGINE_ID. -/
def odSfpEngineId : Nat := 0x600001
/-- SFP_COLL_ID. -/
def odSfpCollId : Nat := 0x600002
/-- SFP_MEMBERS. -/
def odSfpMembers : Nat := 0x600003
/-- SFP_SUCCESSION. -/
def odSfpSuccession : Nat := 0x600004
/-- SFP_REGISTRAR. -/
def odSfpRegistrar : Nat := 0x600005
/-- SFP_TERM. -/
def odSfpTerm : Nat := 0x600006
/-- SFP_TAKEOVER_FOLIOS. -/
def odSfpTakeoverFolios : Nat := 0x600007
/-- SFP_ROUTE. -/
def odSfpRoute : Nat := 0x600008
/-- SFP_PORT_STATE. -/
def odSfpPortState : Nat := 0x600009
/-- SFP_REF_PORT. -/
def odSfpRefPort : Nat := 0x60000A
/-- SFP_RETRY_LIMIT. -/
def odSfpRetryLimit : Nat := 0x60000B
/-- SFP_READ_TIMEOUT. -/
def odSfpReadTimeout : Nat := 0x60000C
/-- SFP_ALLOW_PLAIN. -/
def odSfpAllowPlain : Nat := 0x60000D
/-- SFP_KEY_OVERLAP. -/
def odSfpKeyOverlap : Nat := 0x60000E
/-- SFP_KEY_STATE. -/
def odSfpKeyState : Nat := 0x60000F
/-- SFP_LINK_RETRIES. -/
def odSfpLinkRetries : Nat := 0x600010
/-- SFP_REPLAY_DROPS. -/
def odSfpReplayDrops : Nat := 0x600011
/-- SFP_AUTH_FAILS. -/
def odSfpAuthFails : Nat := 0x600012
/-- SFP_BAD_CELLS. -/
def odSfpBadCells : Nat := 0x600013
/-- SFP_READ_REISSUES. -/
def odSfpReadReissues : Nat := 0x600014
/-- SFP_MARKER_DROPS. -/
def odSfpMarkerDrops : Nat := 0x600015
/-- SFP_TWIN_PARTNER. -/
def odSfpTwinPartner : Nat := 0x600016
/-- SFP_TWIN_STATE. -/
def odSfpTwinState : Nat := 0x600017
/-- SFP_TWIN_TIMEOUT. -/
def odSfpTwinTimeout : Nat := 0x600018
/-- SFP_TWIN_CHECK. -/
def odSfpTwinCheck : Nat := 0x600019
/-- SFP_TWIN_CHECKS. -/
def odSfpTwinChecks : Nat := 0x60001A
/-- SFP_TWIN_SKIPS. -/
def odSfpTwinSkips : Nat := 0x60001B
/-- FSU_PERIOD. -/
def odFsuPeriod : Nat := 0x700001
/-- FSU_PERIOD_NOW. -/
def odFsuPeriodNow : Nat := 0x700002
/-- FSU_TICK_SRC. -/
def odFsuTickSrc : Nat := 0x700003
/-- FSU_TICK_ACTIVE. -/
def odFsuTickActive : Nat := 0x700004
/-- FSU_TICK_IGNORED. -/
def odFsuTickIgnored : Nat := 0x700005
/-- FSU_TICK_MISSED. -/
def odFsuTickMissed : Nat := 0x700006
/-- FSU_OUT_ENABLE. -/
def odFsuOutEnable : Nat := 0x700007
/-- FSU_ALIGN_ERR. -/
def odFsuAlignErr : Nat := 0x700008
/-- FSU_DEGRADED_FOLIOS. -/
def odFsuDegradedFolios : Nat := 0x700009
/-- FSU_PCT. -/
def odFsuPct : Nat := 0x70000A
/-- FSU_BUDGET_C. -/
def odFsuBudgetC : Nat := 0x70000B
/-- FSU_CARRY. -/
def odFsuCarry : Nat := 0x70000C
/-- FSU_OVERRUNS. -/
def odFsuOverruns : Nat := 0x70000D
/-- FSU_BUDGET_ABORTS. -/
def odFsuBudgetAborts : Nat := 0x70000E
/-- FSU_REMAINING. -/
def odFsuRemaining : Nat := 0x70000F
/-- FSU_REMOTE_ALLOW. -/
def odFsuRemoteAllow : Nat := 0x701001
/-- FSU_REMOTE_DENIED. -/
def odFsuRemoteDenied : Nat := 0x701002
/-- FSU_MMIO_DROPS. -/
def odFsuMmioDrops : Nat := 0x701003
/-- FSU_NOTIFY_0. -/
def odFsuNotify : Nat := 0x701100
/-- CFE_TASK_BASE. -/
def odCfeTaskBase : Nat := 0x702001
/-- CFE_RATE_STACKS. -/
def odCfeRateStacks : Nat := 0x702002
/-- CFE_RATE_GDDR. -/
def odCfeRateGddr : Nat := 0x702003
/-- CFE_RATE_HOST. -/
def odCfeRateHost : Nat := 0x702004
/-- CFE_RATE_REMOTE. -/
def odCfeRateRemote : Nat := 0x702005
/-- SEC_MODE. -/
def odSecMode : Nat := 0x800001
/-- SEC_MODE_REQ. -/
def odSecModeReq : Nat := 0x800002
/-- SEC_JOB_END. -/
def odSecJobEnd : Nat := 0x800003
/-- SEC_ANCHOR_OWNER. -/
def odSecAnchorOwner : Nat := 0x800004
/-- SEC_ANCHOR_OPERATOR. -/
def odSecAnchorOperator : Nat := 0x800005
/-- SEC_JOB_ENVELOPE. -/
def odSecJobEnvelope : Nat := 0x800006
/-- SEC_TABLE_ENVELOPE. -/
def odSecTableEnvelope : Nat := 0x800007
/-- SEC_TABLE_UNBIND. -/
def odSecTableUnbind : Nat := 0x800008
/-- SEC_TABLE_KEYS. -/
def odSecTableKeys : Nat := 0x800009
/-- SEC_Q_ACL. -/
def odSecQAcl : Nat := 0x80000A
/-- MSC_PLCA_ID. -/
def odMscPlcaId : Nat := 0x80000B
/-- MSC_PLCA_COUNT. -/
def odMscPlcaCount : Nat := 0x80000C
/-- MSC_ERR_PRIMARY. -/
def odMscErrPrimary : Nat := 0x900001
/-- MSC_ERR_SECONDARY. -/
def odMscErrSecondary : Nat := 0x900002
/-- MSC_ERR_COUNTS. -/
def odMscErrCounts : Nat := 0x900003
/-- MSC_RETIRE_WINDOW. -/
def odMscRetireWindow : Nat := 0x900004
/-- MSC_CHAN_UE_LIMIT. -/
def odMscChanUeLimit : Nat := 0x900005
/-- MSC_CHAN_RETRAIN_LIMIT. -/
def odMscChanRetrainLimit : Nat := 0x900006
/-- MSC_POD_RESET_LIMIT. -/
def odMscPodResetLimit : Nat := 0x900007
/-- MSC_POD_WAY_LIMIT. -/
def odMscPodWayLimit : Nat := 0x900008
/-- MSC_AUTO_SPARE. -/
def odMscAutoSpare : Nat := 0x900009
/-- MSC_AUTO_CHAN_RETIRE. -/
def odMscAutoChanRetire : Nat := 0x90000A
/-- MSC_FLUSH_TIME. -/
def odMscFlushTime : Nat := 0x90000B
/-- MSC_ENTRIES_DROPPED. -/
def odMscEntriesDropped : Nat := 0x90000C
/-- MSC_FW_ACTIVE. -/
def odMscFwActive : Nat := 0xA00001
/-- MSC_FW_VERSIONS. -/
def odMscFwVersions : Nat := 0xA00002
/-- MSC_FW_IMAGE. -/
def odMscFwImage : Nat := 0xA00003
/-- MSC_FW_SWITCH. -/
def odMscFwSwitch : Nat := 0xA00004
/-- MSC_FW_COMMIT. -/
def odMscFwCommit : Nat := 0xA00005
/-- MSC_POD_RETIRE. -/
def odMscPodRetire : Nat := 0xA00006
/-- MSC_SPARE_MAP. -/
def odMscSpareMap : Nat := 0xA00007
/-- MSC_CONTAIN_RELEASE. -/
def odMscContainRelease : Nat := 0xA00008

end Sys2Proof.Machine
end

