-- ==== Sys2Proof/Machine/State.lean ====
section
/-! DEFINITION. The state of the engine as plain data, one record per subsystem of Table 0.1, and the state after
reset. Every field's docstring starts with its width, the chapter file and rule that name it, and its value at reset. -/

namespace Sys2Proof.Machine

/-- The reasons for which the machine stops. No command of this engine stops it: the manual gives every error a
handling, so nothing raises this fault (the type must have a constructor only to be named; safe). -/
inductive Fault where
  /-- Raised by no command: the manual names no stop of the engine that is not a state of its own. Safe. -/
  | none
  deriving DecidableEq, Repr

/-- The reasons for which a command has no meaning in this model. -/
inductive Refusal where
  /-- A command without a meaning here. Raised only by an arm of the dispatch; safe. -/
  | notModelled (mnemonic : String)
  deriving DecidableEq, Repr

/-- A pointer that the engine owns, kept as two copies (R56). -/
structure Ptr where
  val : Nat := 0
  copy : Nat := 0
  deriving DecidableEq, Repr

/-- The states of a command queue (Table 3.5). -/
inductive QState where
  | disabled | active | waiting | paused | draining | halted
  deriving DecidableEq, Repr

/-- One command queue: its page of registers (Table 3.3) and what the CFE keeps about it. -/
structure Queue where
  /-- [n+1 bits; 03 R59, R61; reset 0] CFE_Q_TAIL, the command write pointer. -/
  tail : Nat := 0
  /-- [2 × n+1 bits; 03 R56, R59; reset 0] CFE_Q_HEAD, the command read pointer. -/
  head : Ptr := {}
  /-- [2 × n+1 bits; 03 R56, R81; reset 0] CFE_Q_CPL_TAIL, the completion write pointer that software sees. -/
  cplTail : Ptr := {}
  /-- [n+1 bits; 03 R59; reset 0] CFE_Q_CPL_HEAD, the completion read pointer. -/
  cplHead : Nat := 0
  /-- [2 × n+1 bits; 03 R56, R64, R81; reset 0] the next completion slot to be written (records issued). -/
  cplNext : Ptr := {}
  /-- [3 bits; 03 R60, Table 3.5; reset DISABLED] STATE of CFE_Q_STATE. -/
  state : QState := .disabled
  /-- [3 bits; 12 R320; reset DISABLED] the state held before a pause. -/
  before : QState := .disabled
  /-- [32 bits; 03 Table 3.5; reset 0] LAST_TAG. -/
  lastTag : Nat := 0
  /-- [model number; 04 R119; reset none] the task fetched last from the queue. -/
  lastTask : Option Nat := none
  /-- [32 bits; 03 Table 3.3; reset 0] CFE_Q_COST. -/
  cost : Nat := 0
  /-- [64 bits; 03 R59, Table 3.4; reset 0] CFE_Q_CTL. -/
  ctl : Nat := 0
  /-- [64 bits; 03 R59; reset 0] CFE_Q_RING_BASE, an address word. -/
  ringBase : Nat := 0
  /-- [64 bits; 03 R59; reset 0] CFE_Q_CPL_BASE, an address word. -/
  cplBase : Nat := 0
  /-- [03 R57; reset none] after a ring reset: the tasks it aborted, until CFE_QUEUE_RESET follows their records. -/
  resetDue : Option Nat := none
  deriving DecidableEq, Repr

/-- One event or telemetry ring (Tables 3.20, 3.21, 19.5). -/
structure Ring where
  /-- [64 bits; 03 Table 3.20, 19 Table 19.5; reset 0] the base, an address word. -/
  base : Nat := 0
  /-- [64 bits; 03 Table 3.21, 19 Table 19.5; reset 0] the control register. -/
  ctl : Nat := 0
  /-- [2 × n+1 bits; 03 R56, R314; reset 0] the write pointer that software sees. -/
  tail : Ptr := {}
  /-- [2 × n+1 bits; 03 R56, R85; reset 0] the next slot to be written (entries issued). -/
  next : Ptr := {}
  /-- [2 × n+1 bits; 03 R56, R86; reset 0] the read pointer. -/
  head : Ptr := {}
  /-- [32 bits; 03 R85; reset 0] events dropped since the last gap marker. -/
  drops : Nat := 0
  /-- [48 bits; 03 R85; reset 0] folio of the first drop. -/
  firstDrop : Nat := 0
  /-- [48 bits; 03 R85; reset 0] folio of the last drop. -/
  lastDrop : Nat := 0
  /-- [64 bits; 03 R85; reset 0] drops since reset. -/
  totalDrops : Nat := 0
  /-- [64 bits; 03 R86; reset 0x10000] the value of the last pop, returned on an empty ring. -/
  lastPop : Nat := 0x10000
  /-- [192 bits; 03 R86, Table 3.20; reset 0] CFE_EVQ_DATA0 to 2. -/
  data : Nat := 0
  /-- [1 bit; 12 R317; reset 0] an interrupt was sent and the ring has not been read empty since. -/
  notified : Bool := false
  /-- [8 bits; 03 R87, 19 R459; reset 0] telemetry: folios counted in the present period. -/
  count : Nat := 0
  /-- [64 bits; 19 R459; reset 0] telemetry: CFE_TEL_CTL as in effect since the last boundary. -/
  ctlNow : Nat := 0
  /-- [model, list of 16 × 6 × 64 bits; 03 R87; reset empty] telemetry: the counts at the last entry. -/
  latched : List (Nat × Nat) := []
  /-- [5 + 16 + 16 bits; 03 Table 3.26; reset none] telemetry: highest p, lowest PEU_VIN in mV and highest PEU_IIN in
  10 mA since the last entry. -/
  peaks : Option (Nat × Nat × Nat) := none
  deriving DecidableEq, Repr

/-- Where a task stands between its fetch and its completion record. -/
inductive Phase where
  /-- Fetched, and neither run by the CFE nor admitted (R64, R364). -/
  | fetched
  /-- A wait or a FENCE that stalls its queue (R76, R77). -/
  | stalled
  /-- Admitted by the FSU and not finished (R364). -/
  | admitted
  /-- Past its finish point (Table 14.3), with its record still to be written. -/
  | finished
  /-- Its record has been issued and is not yet visible (R81). -/
  | recorded
  deriving DecidableEq, Repr

/-- One bag of a task and the Pod it was dealt to, with the phases of R362 that it has passed (R368). -/
structure Deal where
  bag : Nat
  pod : Nat
  started : Bool := false
  passedG : Bool := false
  passedF : Bool := false
  passedX : Bool := false
  /-- Column blocks of a LOOKUP_FOLD bag that have been added into its output tiles (R142, R187). -/
  blocks : Nat := 0
  deriving DecidableEq, Repr

/-- One entry of a parcel (Table 8.2): the row, DEF, and the bytes after its first eight. -/
structure PEntry where
  row : Nat
  dflt : Bool
  data : List Byte
  deriving DecidableEq, Repr

/-- One parcel (Tables 8.1 and 8.2): its 32-byte header and its entries. -/
structure Parcel where
  hdr : BitVec 256
  entries : List PEntry
  deriving DecidableEq, Repr

/-- One row gradient on its way to a parcel (R198, R200). -/
structure RowGrad where
  row : Nat
  dflt : Bool
  owner : Nat
  g : List F32
  /-- The residual of R156 held with it, as its address in the array and its new values. -/
  resid : Option (Nat × List F32) := none
  deriving DecidableEq, Repr

/-- A task: a fetched descriptor and what the engine keeps until its record is visible. -/
structure Task where
  /-- [model number; 03 R64; per task] the number the commands name it by. -/
  id : Nat
  /-- [9 bits; 03 R64; per task] its queue. -/
  queue : Nat
  /-- [1,024 bits; 03 R66; per task] its descriptor. -/
  desc : Desc
  phase : Phase := .fetched
  /-- [48 bits; 14 R366; per task] the fetch folio. -/
  fetchFolio : Nat := 0
  /-- [48 bits; 14 R364; per task] the admission folio. -/
  admitFolio : Nat := 0
  /-- [32 bits; 03 R88; per task] the cost estimate. -/
  cost : Nat := 0
  /-- [32 bits; 03 R88, R89; per task] CFE_TASK_BASE as its descriptor was fetched. -/
  base : Nat := 0
  /-- [1 bit; 03 R79; per task] the CFE has refused it. -/
  refused : Bool := false
  /-- [per task; 14 R362] the phase costs G, F, X and C. -/
  phases : Nat × Nat × Nat × Nat := (0, 0, 0, 0)
  /-- [model number; 05 R141; per task] its place in the order of admission. -/
  seq : Nat := 0
  /-- [1 bit; 03 R76; per task] a wait whose condition the FSU evaluates after every update. -/
  waiting : Bool := false
  /-- [1 bit; 03 R80; per task] a bag of it exceeded 2^20 rows. -/
  bagLong : Bool := false
  /-- [48 bits; 14 R367; per task] the folio of its finish point, once past it. -/
  finishFolio : Option Nat := none
  /-- [per task; 04 R461] the table-level fields of shard 0 at admission, and its descriptor. -/
  shard0 : BitVec 512 := 0
  /-- [per task; 04 R113] the index-hash slot at the start of its streams. -/
  hashSlot : Nat := 0
  /-- [9 × 8 bits; 04 R106; per task] the sprout slot of each stream kind, as bound at its admission. -/
  binds : List Nat := []
  /-- [01 R14; per task] the deal of its bags. -/
  deals : List Deal := []
  /-- [15 bits; 03 R82; per task] the status flags. -/
  flags : Nat := 0
  /-- [16 bits; 03 R82; per task] the error status, when it has ended with one. -/
  err : Option Nat := none
  /-- [4 bits; 03 R80; per task] DETAIL_KIND. -/
  dKind : Nat := 0
  /-- [1 bit; 06 R157; per task] the policy of its table at its admission: RESCALE. -/
  rescale : Bool := false
  /-- [64 bits; 03 R80; per task] DETAIL_VALUE. -/
  dVal : Nat := 0
  /-- [20 bits; 03 R80; per task] DEFAULTS. -/
  defaults : Nat := 0
  /-- [20 bits; 03 R80; per task] SATURATIONS. -/
  sats : Nat := 0
  /-- [20 bits; 03 R80; per task] ESCAPES. -/
  escapes : Nat := 0
  /-- [1 bit; 08 R201; per task] its parcels have been released. -/
  released : Bool := false
  /-- [12 R315; per task] with XPATH, the write number that the drain waits for. -/
  drainTo : Option Nat := none
  /-- [14 R372; per task] folios of TIMEOUT still to pass, for a wait that has one. -/
  waitLeft : Option Nat := none
  /-- [14 R373; per task] the control sequence of its remote operation. -/
  ctlSeq : Option Nat := none
  /-- [08 R198; per task] row gradients that have left their windows and wait to be packed. -/
  grads : List RowGrad := []
  /-- [08 R197, R224; per task] update windows closed so far on each Pod. -/
  windows : List (Nat × Nat) := []
  /-- [08 R201; per task] parcels of the task still pending, oldest first, the last one open. -/
  pendingParcels : List Parcel := []
  /-- [08 R156; per task] residuals held with the staged parcels: array address and new values. -/
  resids : List (Nat × List F32) := []
  /-- [08 R202; per task] parcels released and not yet acknowledged. -/
  unacked : Nat := 0
  /-- [09 R236, R237, R248; per task] progress of a relocation: the next position to copy. -/
  copyPos : Nat := 0
  /-- [09 R236; per task] MOVE_ROW: shelfmark read, and the slot taken. -/
  moveMark : Nat := 0
  moveSlot : Nat := 0
  /-- [01 R14; per task] the Pod to which the first row of a ROW_WRITE was dealt. -/
  rowStart : Nat := 0
  /-- [05 R140; per task] GROUP_OPEN: waits for claimed carrels. -/
  waitTiles : Bool := false
  /-- [1 bit; 07 R183; per task] its weights stand in BUF_HALF of every Pod of its bags. -/
  wLoaded : Bool := false
  /-- [24 bits; 07 R193, Table 7.5; per task] bytes that its weight load has delivered. -/
  wBytes : Nat := 0
  /-- [04 R119; per task] the partner of a micro-batch pair, and the task fetched from its queue just before it. -/
  pair : Option Nat := none
  prev : Option Nat := none
  deriving DecidableEq, Repr

/-- The Command Front End (03). -/
structure Cfe where
  /-- [512 queues; 03 R59; reset each at its resets] the command queues that differ from their reset. -/
  queues : List (Nat × Queue) := []
  /-- [64 rings; 03 R83; reset each at its resets] the event rings. -/
  evqs : List (Nat × Ring) := []
  /-- [8 rings; 03 R87, 19 R459; reset each at its resets] the telemetry rings. -/
  tels : List (Nat × Ring) := []
  /-- [list; 03 R64; reset empty] the tasks fetched whose record is not visible yet, oldest first. -/
  tasks : List Task := []
  /-- [model number; 03 R64; reset 0] the number of the next task. -/
  nextTask : Nat := 0
  /-- [9 bits; 03 R64; reset 0, DESIGN CHOICE 0, log 2] the queue that the round-robin visits next. -/
  rr : Nat := 0
  /-- [4 bits; 01 R14; reset 0, DESIGN CHOICE 0, log 2] the Pod that receives the next bag. -/
  dealNext : Nat := 0
  /-- [5 × 64 bits; 03 Table 3.26; reset 0] descriptors fetched, records written, descriptors refused, doorbells
  ignored, events dropped. -/
  fetched : Nat := 0
  records : Nat := 0
  refused : Nat := 0
  badBells : Nat := 0
  dropped : Nat := 0
  deriving DecidableEq, Repr

/-- A write that a shelved row is waiting on (R232, R233). -/
structure PendRow where
  /-- The number the commands name it by. -/
  w : Nat
  /-- The shard descriptor index and the position of the row. -/
  idx : Nat
  pos : Nat
  /-- The shelfmark array written: BASE, or ALT_BASE while REPLACING (R238), as a byte address, and its tier. -/
  mark : Nat
  tier : Nat
  /-- The stored row, and the side list at its address, that the fresh slot gets (R166). -/
  row : List Byte
  side : Option (Nat × List Byte)
  /-- The task that waits for it, if any. -/
  task : Option Nat
  deriving DecidableEq, Repr

/-- A freed slot in a return ring, with the folio in which it was freed (R234). -/
structure FreedSlot where
  loc : Nat
  folio : Nat
  ready : Bool := false
  deriving DecidableEq, Repr

/-- One slot ring (Table 9.2 has its fields; the return ring's entries are kept here with their quarantine). -/
structure SlotRing where
  /-- [n+1 bits; 09 Table 9.2; reset 0] HEAD of the supply ring. -/
  head : Nat := 0
  /-- [2^n entries; 09 R232; reset empty] the return ring, oldest first. -/
  ret : List FreedSlot := []
  /-- [n bits; 09 R232; reset 0] the place in the return ring that the next freed slot takes. -/
  retNext : Nat := 0
  /-- [1 bit; 09 R232; reset 0] CAT_SLOTS_EMPTY was raised in this folio. -/
  emptyRaised : Bool := false
  deriving DecidableEq, Repr

/-- An invalidation on its way to the holders of a row (R247), with the write that waits for it. -/
structure Inval where
  table : Nat
  row : Nat
  holders : List Nat
  folio : Nat
  deriving DecidableEq, Repr

/-- A replica held in this engine's Stacks (R246, R272). -/
structure Replica where
  table : Nat
  row : Nat
  home : Nat
  data : List Byte
  side : List Byte
  /-- Where the row lies, if its home is this engine: tier and address (R262). -/
  place : Option (Nat × Nat) := none
  deriving DecidableEq, Repr

/-- The Catalogue (02, 09). The descriptor array, the directory copy, the forwarding table, the replica directory,
the circulation array and the slot rings' regions lie in GDDR7 at the bases in the object dictionary. -/
structure Cat where
  /-- [65,536 × 128 bits; 02 R51, Table 2.8; reset 0] the table directory on the hub. -/
  dir : List (Nat × BitVec 128) := []
  /-- [65,536 descriptors; 02 R52; reset empty] the descriptor cache: index, descriptor, most recently used last. -/
  cache : List (Nat × BitVec 512) := []
  /-- [512 misses; 02 R52; reset empty] descriptor misses outstanding. -/
  misses : List Nat := []
  /-- [64 bits; 02 R55; reset 0] CAT_DESC_BASE as in effect since the last engine reset. -/
  descBase : Nat := 0
  /-- [64 bits; 09 R257; reset 0x0480_0000] CAT_FWD_BASE in effect. -/
  fwdBase : Nat := 0x04800000
  /-- [64 bits; 09 R257; reset 0x0500_0000] CAT_REPDIR_BASE in effect. -/
  repdirBase : Nat := 0x05000000
  /-- [64 bits; 09 R243; reset 0x0A00_0000] CAT_CIRC_BASE in effect. -/
  circBase : Nat := 0x0A000000
  /-- [8 rings; 09 R232; reset each empty] the slot rings. -/
  rings : List (Nat × SlotRing) := []
  /-- [list; 09 R233; reset empty] shelved rows waiting for their slot or their commit. -/
  pend : List PendRow := []
  /-- [model number; 09 R233; reset 0] the next number of such a write. -/
  nextPend : Nat := 0
  /-- [65,536 pairs; 09 R247; reset empty] the replica directory: (table, row, holder). -/
  repdir : List (Nat × Nat × Nat) := []
  /-- [list; 09 R247; reset empty] invalidations not yet acknowledged. -/
  invals : List Inval := []
  /-- [list; 09 R246; reset empty] the replicas held here. -/
  replicas : List Replica := []
  /-- [1,024 × 48 bits; 09 R247; reset 0] the last folio in which something came from each home engine. -/
  heard : List (Nat × Nat) := []
  /-- [4 × 32 bits a shard; 09 R243; reset 0] this folio's counts: reads, remote reads, bytes, entries. -/
  circ : List (Nat × (Nat × Nat × Nat × Nat)) := []
  /-- [per shard; 09 R239; reset empty] REPLACING shards whose REPLACE_COMMIT has run. -/
  committed : List Nat := []
  /-- [per shard; 09 R248; reset empty] RELOCATING shards: index, task, local, switched. -/
  moves : List (Nat × Nat × Bool × Bool) := []
  /-- [10 + 1 bits a shard; 09 R248; reset empty] the engine and the tier that each of them goes to. -/
  moveTo : List (Nat × (Nat × Nat)) := []
  /-- [list; 09 R249, R255; reset empty] rows of shelved shards that have come here from a move: the place of the new shelfmark
  as a COPY word, the descriptor index, and the shelfmark. -/
  copied : List (Nat × Nat × Nat) := []
  /-- [list; 09 R232, R249; reset empty] COPY chunks that wait for a slot, and those behind them: source, number, word and
  data. -/
  copyWait : List (Nat × Nat × Nat × List Byte) := []
  /-- [list; 09 R249; reset empty] positions of a local move whose commit is still to be mirrored, for want of a slot. -/
  owed : List (Nat × Nat) := []
  /-- [list; 06 R166; reset empty] side-list slots that a row write has stopped naming: byte address, tier and folio. -/
  sideFreed : List (Nat × Nat × Nat) := []
  deriving DecidableEq, Repr

/-- One leaf of a bag, or one index of a GATHER (R125). -/
structure Leaf where
  /-- Bag position of the first occurrence (R98). -/
  pos : Nat
  /-- The row, or none for an out-of-range index (R92). -/
  row : Option Nat
  /-- The weight of Table 4.2. -/
  weight : F32
  /-- Occurrences folded into it (R94 counts every one). -/
  count : Nat
  /-- 0 released, 1 reads under way, 2 its data is in the return buffer, 3 taken by a quad. -/
  stage : Nat := 0
  /-- 1 once the leaf is known to be the default row (R94). -/
  dflt : Bool := false
  /-- The descriptor that its index read (R54). -/
  desc : BitVec 512 := 0
  /-- A switch of its shard came while its reads were under way: it is read from the old copy (R251). -/
  old : Bool := false
  /-- The folio in which its shelfmark arrived (R234), and the folio in which its row arrived (R166). -/
  markFolio : Nat := 0
  rowFolio : Nat := 0
  /-- The stored row and its side list as returned. -/
  data : List Byte := []
  side : List Byte := []
  deriving DecidableEq, Repr

/-- An index in the Sorter window: its position, its row (none: out of range) and its weight (R97, R98). -/
structure WinEntry where
  pos : Nat
  row : Option Nat
  weight : F32
  /-- The descriptor that the index has read (R54). -/
  desc : BitVec 512 := 0
  /-- For an UPDATE, its index gradient (R195), and whether the default mode discards it (R197). -/
  grad : List F32 := []
  discard : Bool := false
  deriving DecidableEq, Repr

/-- A bag in progress on its home Pod. -/
structure Bag where
  task : Nat
  bag : Nat
  /-- Index of its first index in the task's list, and its length before folding. -/
  base : Nat
  n : Nat
  /-- The first of its carrels and how many (R16), and the tree-store entries that it reserves (05 R129: 4,096 a Pod). -/
  carrel : Nat
  carrels : Nat
  tree : Nat
  /-- Indices taken so far (R91), and the open segment (R97: a Pod's open segments share 65,536 window entries). -/
  taken : Nat := 0
  window : List WinEntry := []
  /-- Parked positions whose descriptor is missing (R93: 1,024 a Pod): descriptor index and position. -/
  parked : List (Nat × Nat) := []
  /-- Its leaves, in leaf order, and how many have been pooled (those in the return buffer: R126, 2 MiB a Pod). -/
  leaves : List Leaf := []
  pooled : Nat := 0
  /-- The carry stack of R128: level and one value per element; the top comes first. -/
  stack : List (Nat × List F32) := []
  /-- The linear sum above level 19. -/
  lin : Option (List F32) := none
  /-- MAX or MIN so far, or a finished row. -/
  acc : Option (List F32) := none
  /-- An output row of a GATHER bag held an infinity or NaN (R123). -/
  nonfin : Bool := false
  deriving DecidableEq, Repr

/-- The handle states of Table 1.5. -/
inductive HState where
  | open | pooled | folded | aborted
  deriving DecidableEq, Repr

/-- A handle between two stages: its task, bag (or index, in GATHER) and consumer. The finished row stands in its carrels, or in
the Fold tiles of its latch row. -/
structure Handle where
  st : HState
  task : Nat
  bag : Nat
  /-- true: the consumer is the Fold Unit (R18). -/
  fold : Bool
  carrel : Nat
  carrels : Nat
  /-- FOLDED: latch row and column block (POOLED: the bag that a GATHER index belongs to); the row's a and the block's column
  scales (R187). -/
  latch : Nat := 0
  block : Nat := 0
  scale : F32 := 0
  cols : List F32 := []
  deriving DecidableEq, Repr

/-- A handle queue: its entries, oldest first, and its two pointers in two copies (R56, R17). -/
structure HQueue where
  items : List Handle := []
  rd : Ptr := {}
  wr : Ptr := {}
  deriving DecidableEq, Repr

/-- A read that a GAU slice tracks (R104). -/
structure ReadRec where
  id : Nat
  task : Nat
  bag : Nat
  /-- The leaf it serves. -/
  leaf : Nat
  /-- 0 shelfmark, 1 row, 2 side list, 3 default row. -/
  kind : Nat
  /-- The slot tier of Table 4.3: 0 STACKS, 1 XPOD, 2 GDDR, 3 HOST, 4 REMOTE. -/
  tier : Nat
  /-- Memory of the row: 1 this engine's GDDR7, 0 host DRAM, 2 pinned copy, 3 replica, 4 another engine. -/
  space : Nat
  addr : Nat
  len : Nat
  slots : Nat := 0
  issued : Bool := false
  /-- A dependent read (R103): it waits for slots only, not in the issue queue. -/
  dep : Bool := false
  /-- Lines that wait for a call slip to close (R100), by address, and whether the row's shard has PREFETCH (R266). -/
  hold : List Nat := []
  ahead : Bool := false
  /-- Lines still outstanding at a call slip, by slip number, and the pieces that have arrived. -/
  need : List Nat := []
  got : List (Nat × List Byte) := []
  /-- REMOTE: the transfer, its reissues, and its answer. -/
  xid : Nat := 0
  tries : Nat := 0
  /-- The placement epoch that its READ_REQ names (R242). -/
  epoch : Nat := 0
  /-- The twin check (R349): decided for this read; the second read's transfer, its answer and its repeats. -/
  checked : Bool := false
  twin : Option Nat := none
  other : List Byte := []
  again : Nat := 0
  deriving DecidableEq, Repr

/-- A cached line (R259): its tier (0 GDDR7, 1 host), address, data and whether a prefetch brought it unused. -/
structure Line where
  tier : Nat
  addr : Nat
  data : List Byte
  prefetched : Bool := false
  /-- Recency stamp for the least recently used choice (R261). -/
  used : Nat := 0
  /-- The directory lists this slice for the line (R263, R276). -/
  listed : Bool := true
  deriving DecidableEq, Repr

/-- A call slip (R264): its line, class, the reads that joined before and after a write marked it stale. -/
structure Slip where
  n : Nat
  tier : Nat
  addr : Nat
  cls : Nat
  prefetch : Bool := false
  stale : Bool := false
  before : List Nat := []
  after : List Nat := []
  /-- The line's bytes when it went stale: what the joined reads are served from (R265). -/
  old : List Byte := []
  deriving DecidableEq, Repr

/-- One Stacks slice (10). -/
structure Slice where
  /-- [16 ways × 8,192 sets; 10 R259; reset empty] valid lines, by way × 8,192 + set. -/
  lines : List (Nat × Line) := []
  /-- [1,024; 10 R264; reset empty] open call slips. -/
  slips : List Slip := []
  /-- [model number; 10 R264; reset 0] next slip number. -/
  nextSlip : Nat := 0
  /-- [512; 10 R267; reset empty] the weeding buffer, oldest first. -/
  weed : List Line := []
  /-- [16 ways × list of folios; 10 R278; reset empty] error folios of each way. -/
  errs : List (Nat × List Nat) := []
  deriving DecidableEq, Repr

/-- A codebook memory entry (R167): kind 0 CB4, 1 CB8, 2 sign vector; AUX address, size, lines, recency, bytes. -/
structure CbEntry where
  kind : Nat
  aux : Nat
  size : Nat
  used : Nat
  data : List Byte
  deriving DecidableEq, Repr

/-- An accumulation group of a Pod (R140). -/
structure Group where
  g : Nat
  queue : Nat
  kind : Nat
  first : Nat
  count : Nat
  /-- Tasks of the group not yet ended, in admission order (R141). -/
  tasks : List Nat := []
  /-- The task number of its GROUP_CLOSE, from that task's admission until the tiles are released (R141, R143). -/
  closer : Option Nat := none
  deriving DecidableEq, Repr

/-- One half of a weight buffer (R183). -/
structure Half where
  /-- FOLD_W_ADDR, W_BITS, d, N; none is empty. -/
  tag : Option (Nat × Nat × Nat × Nat) := none
  /-- The tasks loading into it (state 1 of FLU_HALF_STATE while not empty). -/
  loading : List Nat := []
  /-- d rows of N codes. -/
  w : List (List Int) := []
  deriving DecidableEq, Repr

/-- A row latch (R174): task, bag, row scale, codes. -/
structure Latch where
  task : Nat
  bag : Nat
  a : F32
  codes : List Int
  aborted : Bool := false
  deriving DecidableEq, Repr

/-- A Fold Unit slice (07). -/
structure Flu where
  /-- [2 × 2 MiB; 07 R179, R183; reset empty] the weight buffer halves. -/
  h0 : Half := {}
  h1 : Half := {}
  /-- [160 rows; 07 R174; reset empty] the shadow latch set. -/
  shadow : List Latch := []
  /-- [160 rows; 07 R174; reset empty] the active latch set. -/
  active : List Latch := []
  /-- [1 bit; 07 R185; reset 0] a pass is stepping. -/
  running : Bool := false
  /-- [7 bits; 07 R186; reset 0] the column block of the pass. -/
  block : Nat := 0
  /-- [160 rows; 07 R186; reset 0] handles of the last capture that the Quantiser has not read. -/
  unread : Nat := 0
  /-- [07 R184; reset none] the configuration of the layer: half, tag, IN_BITS, scale address. -/
  cfg : Option (Nat × (Nat × Nat × Nat × Nat) × Nat × Nat) := none
  /-- [1 bit; 07 R185; reset 0] FLU_FILL_WAIT has passed since the first row of the shadow set. -/
  expired : Bool := false
  /-- [FLU_FILL_WAIT; 07 R193; reset 2,048] the fill wait that the latch set began with. -/
  fillWait : Nat := 2048
  /-- [1 bit; 07 R189; reset 1] the array stands idle. -/
  idle : Bool := true
  /-- [256 KiB; 07 R178; reset empty] the scale store: the column scales by task. -/
  scales : List (Nat × List F32) := []
  deriving DecidableEq, Repr

/-- The training link of a Pod die (R418, R419). -/
inductive D2d where
  | down | training | up | fault
  deriving DecidableEq, Repr

/-- One logical Pod. -/
structure Pod where
  /-- [1 bit; 16 R421; reset 0] the Pod takes part in the deal. -/
  up : Bool := false
  /-- [1 bit; 16 R421; reset 1] the die is in reset. -/
  inReset : Bool := true
  /-- [1 bit; 17 R440; reset 0] retired with no spare mapped. -/
  retired : Bool := false
  /-- [1 bit; 17 R442; reset 0] R14 no longer deals to it from the next folio. -/
  retiring : Bool := false
  /-- [8 folios; 17 R442; reset 0] folios left to wait for its bags. -/
  retireWait : Nat := 0
  /-- [1 bit; 16 R406; reset 0] VDD_POD lowered to 0.55 V. -/
  lowVolt : Bool := false
  /-- [list; 17 R439; reset empty] folios of the resets counted toward MSC_POD_RESET_LIMIT. -/
  resets : List Nat := []
  /-- [1,024; 01 R16; reset empty] carrels held: carrel and the task that holds it. -/
  carrels : List (Nat × Nat) := []
  /-- [list; 01 R16; reset empty] bags in progress. -/
  bags : List Bag := []
  /-- [256; 01 Table 1.5; reset empty] Gather to Pool. -/
  hq0 : HQueue := {}
  /-- [256; 01 Table 1.5; reset empty] Pool to Quantiser or Fold. -/
  hq1 : HQueue := {}
  /-- [256; 01 Table 1.5; reset empty] Fold to export. -/
  hq2 : HQueue := {}
  /-- [8,192; 04 R105; reset empty] reads queued or issued. -/
  reads : List ReadRec := []
  /-- [64 × 64 × 64 bits; 04 R106; reset system sprouts only] sprout slots loaded by SPROUT_LOAD: slot, words. -/
  sprouts : List (Nat × List Word) := []
  /-- [3 × 64 × 64 bits; 04 R112; reset empty] index-hash microcode slots 1 to 3. -/
  hashes : List (Nat × List Word) := []
  /-- [4 × 65,536 × 32 bits; 09 R244; reset 0] the heat sketch, by row × 65,536 + counter. -/
  sketch : List (Nat × Nat) := []
  /-- [64; 09 R245; reset empty] the candidate list: row key and estimate. -/
  cand : List (Nat × Nat) := []
  /-- [64 lines of 2 KiB; 06 R167; reset empty] codebook memory. -/
  cb : List CbEntry := []
  /-- [06 R167; reset empty] entries (kind, AUX_BASE, size) that an encode on the Pod waits for, with the task of a
  ROW_WRITE. -/
  cbAsk : List ((Nat × Nat × Nat) × Option Nat) := []
  /-- [256; 05 R140; reset empty] open groups. -/
  groups : List Group := []
  /-- [per shard; 06 R171; reset 0] this folio's saturations and resolution-loss rows. -/
  qstats : List (Nat × (Nat × Nat)) := []
  /-- [07; reset empty] the Fold Unit slice. -/
  flu : Flu := {}
  /-- [10; reset empty] the Stacks slice. -/
  slice : Slice := {}
  /-- [65,536; 08 R197; reset empty] the open update window: task and entries. -/
  uwin : List (Nat × List WinEntry) := []
  /-- [list; 08 R199; reset empty] row gradients arriving at this combine Pod. -/
  combIn : List (Nat × RowGrad) := []
  /-- [list; 08 R199; reset empty] combine sets: task and sum, in order of first arrival. -/
  comb : List (Nat × RowGrad) := []
  deriving DecidableEq, Repr

/-- The states of a journal entry (Table 8.7). -/
inductive JState where
  | free | received | applied | forwarded | abandoned
  deriving DecidableEq, Repr

/-- A journal entry (Table 8.7). The engine writes each through to its slot of the Ledger region in GDDR7. -/
structure Journal where
  table : Nat
  seq : Nat
  st : JState
  source : Nat
  intake : Nat
  /-- [08 R222; reset] the folio from which UPU_RECOVERY_FOLIOS counts. -/
  since : Nat := 0
  /-- [13 R347] the twin partner has journalled it, and has applied it. -/
  mirrored : Bool := false
  partnerApplied : Bool := false
  /-- [09 R252] for FORWARDED: "applied" has been sent. -/
  told : Bool := false
  /-- [48 bits; 09 R252; reset 0] for FORWARDED: the last intake number whose forwarding parcels it waits for; 0 after a reset,
  until its resend arrives. -/
  upTo : Nat := 0
  deriving DecidableEq, Repr

/-- A parcel that a sender retains (R205). -/
structure Retained where
  seq : Nat
  task : Nat
  parcel : Parcel
  sent : Bool := false
  /-- The byte of the retention ring at which it lies (log 99). -/
  pos : Nat := 0
  /-- For a forwarding parcel, the (source, seq) of the journal entry it came from (R252). -/
  fwd : Option (Nat × Nat) := none
  deriving DecidableEq, Repr

/-- The Update Unit's hub share and the Ledger (08). -/
structure Upu where
  /-- [1,024 × 48 bits; 08 R216; reset 0] HWM per source. -/
  hwm : List (Nat × Nat) := []
  /-- [48 bits; 08 R216; reset 1] the next intake number. -/
  intake : Nat := 1
  /-- [1,024 × 256 entries; 08 R217; reset empty] the journal, in intake order. -/
  journal : List Journal := []
  /-- [256 MiB; 08 R216; reset empty] the inbox: source, SEQ and parcel. -/
  inbox : List (Nat × Nat × Parcel) := []
  /-- [1,024 × 48 bits; 08 R204; reset 1 each] the next sequence of each pair, kept as how many have been used. -/
  sent : List (Nat × Nat) := []
  /-- [1,024 MiB; 08 R205; reset empty] the retention ring: owner and parcel, oldest first. -/
  ring : List (Nat × Retained) := []
  /-- [1 bit; 08 R205; reset 0] the ring has been full for the whole folio. -/
  wasFull : Bool := false
  /-- [34 bits; 08 R205; reset 0] the byte of the retention ring at which the next parcel goes in (log 99). -/
  ringTail : Nat := 0
  /-- [48 bits; 08 R206; reset empty] the folio from which an owner with sent parcels has acknowledged none, by the key under
  which they are kept. -/
  waiting : List (Nat × Nat) := []
  /-- [03 R71; reset empty] row writes from other engines to shards without TRAIN that wait here for their row: source, the
  tag that the acknowledgement carries, and the parcel (log 41). -/
  rowIn : List (Nat × Nat × Parcel) := []
  /-- [65,536 × 128 bits; 08 R208; reset 0] the training array. -/
  train : List (Nat × BitVec 128) := []
  /-- [08 R218; reset none] the parcel being applied: source, SEQ, entries done. -/
  applying : Option (Nat × Nat × Nat) := none
  /-- [08 R219; reset none] the apply fault that holds the Ledger: table, row, intake. -/
  fault : Option (Nat × Nat × Nat) := none
  /-- [64 MiB; 08 R220; reset empty] the host apply log: host address and image. -/
  hostlog : List (Nat × List Byte) := []
  /-- [26 bits; 08 R220; reset 0] the byte of the host apply log at which the next entry goes in (log 99). -/
  logTail : Nat := 0
  /-- [64 bits each; 08 R225; reset the defaults] the region bases in effect since the last engine reset. -/
  ledgerBase : Nat := 0x09000000
  retainBase : Nat := 0x40000000
  retainSize : Nat := 1024
  inboxBase : Nat := 0x10000000
  inboxSize : Nat := 256
  hostlogBase : Nat := 0x0C000000
  /-- [64 bits; 03 Table 3.26; reset 0] parcels journalled. -/
  journalled : Nat := 0
  /-- [1 bit; 17 R431; reset 0] the engine is in recovery since it left reset. -/
  recovering : Bool := false
  /-- [48 bits; 08 R222; reset 0] the intake counter at the restart: RECEIVED entries below it are to be recovered. -/
  recoverTo : Nat := 0
  /-- [1 bit; 17 R436; reset 0] the Ledger starts fresh after a map change: LEDGER_READY will carry FRESH. -/
  fresh : Bool := false
  /-- [13 R347; reset empty] the partner's parcels mirrored here from its retention ring, by owner + 1,024. (The
  parcels that it journals are in the journal and the inbox here, under source + 1,024.) -/
  twinRing : List (Nat × Retained) := []
  deriving DecidableEq, Repr

/-- Memory of the engine and of the package, byte by byte, each in canonical form: addresses rising, no zero byte. -/
structure Mem where
  /-- [2^57 bytes; 03 R58; reads DESIGN CHOICE 0 where nothing was written, log 5] package virtual memory. -/
  host : List Host.Cell := []
  /-- [MSS_USABLE bytes; 11 R284, R300; reads 0 where nothing was written since the overwrite] GDDR7. -/
  gddr : List Host.Cell := []
  /-- [16 × 16 MiB; 10 R269; reads DESIGN CHOICE 0, log 5] Stacks scratch, by Pod × 2^24 + offset. -/
  scratch : List Host.Cell := []
  /-- [16 × (1,024 + 640) KiB; 05 R138; reads DESIGN CHOICE 0, log 5] tiles, by (2 Pod + KIND) × 2^20 + offset. -/
  tiles : List Host.Cell := []
  deriving DecidableEq, Repr

/-- What an outbound write carries. -/
inductive WKind where
  | output
  | record (q : Nat)
  /-- A record whose queue has been reset since (R57): it moves no pointer. -/
  | oldRecord
  | event (ring : Nat)
  | telemetry (ring : Nat)
  | hostlog
  deriving DecidableEq, Repr

/-- A write that the engine has issued on a path and that is not yet acknowledged (R313, R318). -/
structure OutWrite where
  seq : Nat
  /-- 0 coherent, 1 mesh. -/
  path : Nat
  addr : Nat
  data : List Byte
  task : Option Nat
  kind : WKind
  deriving DecidableEq, Repr

/-- The states of the coherent link (Table 12.6). -/
inductive LinkSt where
  | up | down | lost
  deriving DecidableEq, Repr

/-- The Host Port (12). -/
structure Hpt where
  /-- [2 bits; 12 R318, Table 12.6; reset DOWN] LINK. -/
  link : LinkSt := .down
  /-- [32 bits; 12 R318, Table 12.6; reset 0] HOST_EPOCH. -/
  epoch : Nat := 0
  /-- [1 bit; 12 R321; reset 0] TIER_HELD. -/
  tierHeld : Bool := false
  /-- [1 bit; 12 R323; reset 0] ACCEL_LOST. -/
  accelLost : Bool := false
  /-- [1 bit; 12 R316; reset 0] LOST of ENG_PATH_FENCE. -/
  lost : Bool := false
  /-- [4 MiB on the coherent path; 12 R313, R318; reset empty] writes issued and not acknowledged, oldest first. -/
  outq : List OutWrite := []
  /-- [64 bits; 12 R313; reset 0] writes issued since reset. -/
  issued : Nat := 0
  /-- [list; 12 R305; reset DESIGN CHOICE empty, log 6] package ranges whose translation fails: base, length. -/
  unmapped : List (Nat × Nat) := []
  /-- [16,384; 12 R305; reset empty] the translation cache, oldest first: address space, bits of the page's size, page. -/
  tlb : List (Nat × Nat × Nat) := []
  /-- [64 bits; 12 R305; reset 0] HPT_TRANS_MISSES. -/
  transMisses : Nat := 0
  /-- [262,144; 12 R307; reset empty] lines that a host cache holds, oldest first. -/
  snoop : List Nat := []
  /-- [1 bit; 12 R310; reset 0] HPT_INBOUND_REJECT was raised in this folio. -/
  rejected : Bool := false
  /-- [64 bits; 12 R322; reset 0] SEQ of the preserved region. -/
  preservedSeq : Nat := 0
  /-- [48 bits; 12 R322; reset 0] the folio at which the link went DOWN. -/
  downFolio : Nat := 0
  /-- [2 × 64 bits; 03 Table 3.26; reset 0] bytes read and bytes written by the HPT. -/
  bytesRead : Nat := 0
  bytesWritten : Nat := 0
  deriving DecidableEq, Repr

/-- A channel of GDDR7 (11). -/
structure Chan where
  /-- [1 bit; 11 R290, R292; reset 0] the channel is down. -/
  down : Bool := false
  /-- [1 bit; 11 R282; reset DESIGN CHOICE 0, log 7] the channel fails to train. -/
  failed : Bool := false
  /-- [8 bits; 11 R282; reset DESIGN CHOICE 32, log 7] the density that its device reports, in Gb. -/
  density : Nat := 32
  /-- [2 bits; 11 R288; reset 0] throttle level to take effect at the next window. -/
  level : Nat := 0
  /-- [8 bits; 11 R289; reset 0] invalid readings in a row. -/
  bad : Nat := 0
  /-- [1 bit; 11 R287; reset 0] refresh rate for above 85 °C. -/
  hotRefresh : Bool := false
  /-- [I8; 11 R290; reset none] temperature at the last training. -/
  trainTemp : Option Int := none
  /-- [48 bits; 11 R290; reset none] folio of its last retrain by cause 1 or 2. -/
  lastRetrain : Option Nat := none
  /-- [16 bits; 11 R290; reset 0] CRC retries in this folio. -/
  crc : Nat := 0
  /-- [list; 17 R439; reset empty] folios of its uncorrectable reads, and of its cause-1 retrains. -/
  ues : List Nat := []
  retrains : List Nat := []
  deriving DecidableEq, Repr

/-- The Memory Subsystem (11). -/
structure Mss where
  /-- [24 channels; 11 R281; reset each at its resets] the channels. -/
  chans : List (Nat × Chan) := []
  /-- [list; 11 R290; reset empty] channels waiting to retrain with the cause, in order of request. -/
  retrainQ : List (Nat × Nat) := []
  /-- [1 bit; 11 R290; reset none] the channel that retrains now, with its cause. -/
  retraining : Option (Nat × Nat) := none
  /-- [1 bit; 11 R300; reset 1, the overwrite of power-up] an overwrite is to run, or runs. -/
  overwriteDue : Bool := true
  /-- [1 bit; 11 R300; reset 0] an overwrite is running. -/
  overwriting : Bool := false
  /-- [1 bit; 11 R300, R403, R416; reset 1] the devices are in self-refresh. -/
  selfRefresh : Bool := true
  /-- [1 bit; 11 R295; reset 0] tags in force since the last overwrite. -/
  tags : Bool := false
  /-- [24 bits; 11 R292; reset 0xFF_FFFF] MSS_CHAN_MAP in force since the last engine reset. -/
  chanMap : Nat := 0xFFFFFF
  /-- [8 bits; 11 R283; reset 36] pin rate in force. -/
  pinRate : Nat := 36
  /-- [list; 11 R291, R296; reset empty] atoms that read uncorrectable (true: a tag mismatch). -/
  badAtoms : List (Nat × Bool) := []
  /-- [64 bits; 11 R299; reset 0] the next atom of the patrol. -/
  scrub : Nat := 0
  /-- [64 bits; 03 Table 3.26; reset 0] atoms read, atoms written. -/
  atomsRead : Nat := 0
  atomsWritten : Nat := 0
  /-- [64 bits; 03 Table 3.26; reset 0] hub cycles in which any channel was throttled. -/
  throttled : Nat := 0
  /-- [256 bits each; 11 R294; reset free, log 4] K_data, K_tweak and K_tag, by the generation they come from. -/
  keyGen : Nat := 0
  /-- [768 atoms to a channel; 11 R286; reset empty] the write queues: the atoms that wait on each channel. -/
  writeq : List (Nat × List Nat) := []
  deriving DecidableEq, Repr

/-- A message of VC 3 that waits for its acknowledgement (R335). -/
structure CtlMsg where
  dst : Nat
  mseq : Nat
  type : Nat
  payload : List Nat
  task : Option Nat
  deriving DecidableEq, Repr

/-- A cell the engine has sent: type, destination, transfer, payload. The wire itself is outside the engine. -/
structure SentCell where
  type : Nat
  dst : Nat
  xid : Nat
  payload : List Nat
  /-- [13 R330] payload bytes of the transfer. -/
  len : Nat := 0
  /-- [13 R342] CSEQ of its first cell; 0 for a link-local cell. -/
  cseq : Nat := 0
  /-- [13 R341] the key slot it goes out under; none for a cell in clear. -/
  slot : Option Nat := none
  deriving DecidableEq, Repr

/-- A cell in a replay buffer: its number, and what says where it goes when its port is lost (R331, R334). -/
structure ReplayCell where
  num : Nat
  dst : Nat
  xid : Nat
  part : Nat
  deriving DecidableEq, Repr

/-- An Ifeop port (R327 to R332). -/
structure Port where
  /-- [16 bits; 13 R331; reset 0] number of the next cell sent. -/
  txNum : Nat := 0
  /-- [16 bits; 13 R331; reset 0] number of the next cell expected. -/
  rxNum : Nat := 0
  /-- [2,048 cells; 13 R331; reset empty] the replay buffer: cells not yet acknowledged. -/
  replay : List ReplayCell := []
  /-- [4 × 32 bits; 13 R332; reset 0] credits granted by the partner, per virtual channel. -/
  credits : List Nat := [0, 0, 0, 0]
  /-- [32 bits; 13 R332; reset 0] cells sent on VC 0 since training, against its credits. -/
  vc0 : Nat := 0
  /-- [32 bits; 13 R332; reset 0] ingress delay, ns. -/
  delay : Nat := 0
  /-- [32 bits; 13 R328; reset 0] link retries in this folio. -/
  retries : Nat := 0
  /-- [7 bits; 13 R332; reset 0] cells since the last LINK cell. -/
  sinceLink : Nat := 0
  /-- [1 bit; 13 R331; reset 0] a NAK is to be sent, and the number it names. -/
  nak : Option Nat := none
  /-- [4 bits; 13 R344; reset none] HOPS of the last accepted marker. -/
  hops : Option Nat := none
  deriving DecidableEq, Repr

/-- A link key slot (R340, R343). -/
structure KeySlot where
  /-- The installed job secret (uninterpreted bytes) and its generation. -/
  secret : Option (List Byte) := none
  gen : Nat := 0
  deriving DecidableEq, Repr

/-- The Shard Fabric Port (13). -/
structure Sfp where
  /-- [8 ports; 13 R327; reset each at its resets] the ports. -/
  ports : List (Nat × Port) := []
  /-- [10 bits; 13 R351; reset 0] Engine ID in force since the last engine reset. -/
  engineId : Nat := 0
  /-- [32 bits; 13 R351; reset 0] Collection ID in force. -/
  collId : Nat := 0
  /-- [16 bits; 13 R351; reset 0xFFFF] twin partner in force. -/
  partner : Nat := 0xFFFF
  /-- [8 bits; 13 R345; reset none] the nominated port. -/
  refPort : Option Nat := none
  /-- [23 bits; 13 R329; reset 0] next transfer identifier. -/
  xid : Nat := 0
  /-- [list; 13 R329; reset empty] the cells the engine has sent, newest first: what leaves it. -/
  sentCells : List SentCell := []
  /-- [list; 13 R335; reset empty] control messages not yet acknowledged. -/
  ctlOut : List CtlMsg := []
  /-- [09 R250; reset empty] COPY chunks that are not acknowledged: destination and the number of the chunk. -/
  copyOut : List (Nat × Nat) := []
  /-- [32 bits; 09 R250; reset 0] the number of the next COPY chunk, kept above the 2^32 message sequences (log 99). -/
  copyNext : Nat := 2 ^ 32
  /-- [1,024 × 32 bits; 13 R335; reset 0] the next message sequence toward each engine. -/
  ctlSeq : List (Nat × Nat) := []
  /-- [1,024 × 32 bits; 13 R335; reset 0] messages delivered from each engine. -/
  ctlIn : List (Nat × Nat) := []
  /-- [64 per source; 13 R335; reset empty] early messages buffered: source, sequence. -/
  ctlEarly : List (Nat × Nat) := []
  /-- [48 + 4,096 bits each; 13 R335; reset 0] per (source, slot): the highest CSEQ accepted and those marked. -/
  replayWin : List (Nat × (Nat × List Nat)) := []
  /-- [48 bits each; 13 R342; reset 1] CSEQ per (destination, slot), kept as how many have been used. -/
  cseq : List (Nat × Nat) := []
  /-- [4 slots; 13 R340; reset empty] the link key slots. -/
  keys : List (Nat × KeySlot) := []
  /-- [2 bits; 13 R343; reset none] the slot used for sending. -/
  sending : Option Nat := none
  /-- [13 R343; reset none] the pending switch: slot and folio; and the old slot with its last folio. -/
  switchTo : Option (Nat × Nat) := none
  oldSlot : Option (Nat × Nat) := none
  /-- [1 bit; 13 R339; reset 0] this engine acts as Registrar. -/
  registrar : Bool := false
  /-- [1,024 × (32 + 48 + 48) bits; 13 R338, R339; reset empty] reports: member, epoch, admission folio, when. -/
  reports : List (Nat × (Nat × Nat × Nat)) := []
  /-- [list; 13 R339; reset empty] members left out of the floors. -/
  silent : List Nat := []
  /-- [48 bits; 13 R358; reset 0] highest folio number reported in this folio. -/
  reported : Nat := 0
  /-- [32 bits; 09 R242; reset 0] the epoch floor. -/
  epochFloor : Nat := 0
  /-- [48 bits; 09 R242; reset 0] the admission floor. -/
  admFloor : Nat := 0
  /-- [32 bits; 09 R250, 19 Table 19.3; reset 0] ENG_EPOCH. -/
  epoch : Nat := 0
  /-- [32 bits; 13 R338; reset 0] the epoch of the placement map that this engine keeps or mirrors. -/
  mapEpoch : Nat := 0
  /-- [list; 13 R338; reset empty] the descriptors of a map change that waits for its deputy's acknowledgement. -/
  mapPending : List (Nat × BitVec 512) := []
  /-- [list; 13 R338; reset empty] members that have adopted the map epoch. -/
  adopted : List Nat := []
  /-- [64 × per engine; 13 R339; reset 0] folios since the Registrar, and each engine ahead of it, was heard. -/
  quiet : List (Nat × Nat) := []
  /-- [48 bits; 13 R344; reset 0] folio number of the last accepted marker. -/
  markFolio : Nat := 0
  /-- [1 bit; 13 R344, 14 R356; reset 0] a marker has been accepted since reset. -/
  marked : Bool := false
  /-- [1 bit; 13 R344; reset 0] the marker in use came from the reference port. -/
  markRef : Bool := false
  /-- [1 bit; 14 R357; reset 0] a marker has been accepted in this folio. -/
  markedNow : Bool := false
  /-- [13 R341; reset empty] sources whose SFP_AUTH_FAIL was raised in this folio. -/
  authRaised : List Nat := []
  /-- [8 bits; 13 R348; reset 0] folios since the partner's heartbeat. -/
  twinQuiet : Nat := 0
  /-- [1,024 × 10 bits; 13 R348; reset empty] redirections: lost twin to its partner. -/
  redirect : List (Nat × Nat) := []
  /-- [65,536 transfers; 13 R333; reset empty] READ_REQ transfers that wait for a credit of VC 0, oldest first. -/
  held : List SentCell := []
  /-- [list; 17 R437; reset empty] shards being copied again after a mismatch, and whether the copy has been sent. -/
  recopy : List (Nat × Bool) := []
  /-- [64 bits; 03 Table 3.26; reset 0] cells sent and received. -/
  cellsSent : Nat := 0
  cellsRecv : Nat := 0
  /-- [model counter; 13 R349; reset 0] reads of PAIRED shards since reset, from which one in 2^k is checked. -/
  pairReads : Nat := 0
  deriving DecidableEq, Repr

/-- A queued update of a sync counter (R370): from the fabric or from MMIO, SET or ADD. -/
structure CUpd where
  ctr : Nat
  fabric : Bool
  add : Bool
  v : Nat
  deriving DecidableEq, Repr

/-- The Folio and Sync Unit (14). -/
structure Fsu where
  /-- [48 bits; 14 R354; reset 1 at power-up] the folio number. -/
  folio : Nat := 1
  /-- [24 bits; 14 R376; reset 0] ELAPSED, in units of 10 ns. -/
  elapsed : Nat := 0
  /-- [5 bits; 14 Table 14.2; reset 0b10000] CAUSE of the current folio. -/
  cause : Nat := 0x10
  /-- [5 bits; 14 R361; reset 0b10000] the causes that hold for the next folio from its start. -/
  causeNext : Nat := 0
  /-- [48 bits; 14 R361; reset 0] length of the degraded run. -/
  run : Nat := 0
  /-- [48 bits; 14 R356, R358; reset none] the folio number that the next boundary takes. -/
  stepTo : Option Nat := none
  /-- [16 bits; 14 R353; reset none] the period of the next folio, from a marker. -/
  periodNext : Option Nat := none
  /-- [I32; 14 R356; reset 0] correction to the next boundary, ns. -/
  correct : Int := 0
  /-- [8 bits; 14 R356; reset 0] folios run on the local timer since reset. -/
  localRun : Nat := 0
  /-- [14 R359; reset 0] missed ticks in a row, good edges in a row, and the time of the last good edge after the last
  folio start, × 10 ns. -/
  missed : Nat := 0
  good : Nat := 0
  lastGood : Option Int := none
  /-- [48 bits; 14 R359; reset 0] the folio of the last accepted edge. -/
  edgeFolio : Nat := 0
  /-- [4,096 × 64 bits; 14 R370; reset 0] the sync counters. -/
  counters : List (Nat × Nat) := []
  /-- [list; 14 R370; reset empty] updates queued and not yet applied, in arrival order. -/
  updates : List CUpd := []
  /-- [16 × 3 × I32 and C; 14 R363; reset the full budgets] B of each budget at the folio start, by 3 Pod + phase; 48
  is C. -/
  full : List (Nat × Int) := []
  /-- [16 × 3 × I32 and C; 14 R363; reset the full budgets] remaining budgets, by 3 Pod + phase; 48 is C. -/
  remaining : List (Nat × Int) := []
  /-- [16 × 3; 14 R365; reset empty] budgets charged or carried into in this folio. -/
  charged : List Nat := []
  /-- [1 bit; 14 R364; reset 0] the pass at the folio start is still open. -/
  pass : Bool := false
  /-- [64 bits; 03 Table 3.26; reset 0] tasks admitted, counter updates applied. -/
  admitted : Nat := 0
  applied : Nat := 0
  deriving DecidableEq, Repr

/-- The state of the GAU and the IXU that is not per Pod (04). -/
structure Gau where
  /-- [per table; 04 R96; reset 0] substitutions of each table in this folio and the cause of the first. -/
  subst : List (Nat × (Nat × Nat)) := []
  /-- [per table; 04 R96; reset empty] tables whose IXU_DEFAULT_RATE was raised in this folio. -/
  substRaised : List Nat := []
  /-- [64 bits; 03 Table 3.26; reset 0] indices taken, reads issued, row bytes returned, tasks ended under R117. -/
  taken : Nat := 0
  issued : Nat := 0
  bytes : Nat := 0
  faults : Nat := 0
  /-- [model number; 04 R104; reset 0] the next read number. -/
  nextRead : Nat := 0
  /-- [64 KiB each; 04 R116, R117; reset empty] data returned into stream buffers: task, kind. -/
  streams : List (Nat × Nat) := []
  /-- [64 bits; 05, 03 Table 3.26; reset 0] bags finished; rows exported. -/
  bags : Nat := 0
  exported : Nat := 0
  /-- [F32; 06 R154; reset 0] the largest m of a narrow export in this folio. -/
  maxabs : F32 := 0
  /-- [2 × 64 bits; 06 R169, 03 Table 3.26; reset 0] saturations in stored rows, resolution-loss rows. -/
  sats : Nat := 0
  ress : Nat := 0
  /-- [64 bits; 06 R170; reset 0x0800_0000] QNT_STATS_BASE in effect. -/
  statsBase : Nat := 0x08000000
  /-- [32 bits; 06 R171; reset 1,000] QNT_WINDOW in effect. -/
  window : Nat := 1000
  /-- [16 × 128 bits; 06 R155; reset 0] residual slots in effect. -/
  resid : List (Nat × Nat) := []
  /-- [model counter; log 4; reset DESIGN CHOICE 0] how many free values have been drawn. -/
  free : Nat := 0
  deriving DecidableEq, Repr

/-- A pinned copy of a shard (R270, R271): entry, descriptor index, extent and its rows by position. -/
structure Pinned where
  k : Nat
  idx : Nat
  first : Nat
  lines : Nat
  /-- Rows by position; a shelved absent position holds none. -/
  rows : List (Nat × Option (List Byte))
  /-- Where the backing rows lie, by position: tier and address (R262). -/
  homes : List (Nat × (Nat × Nat)) := []
  deriving DecidableEq, Repr

/-- The part of Stacks that is not per slice (10). -/
structure Stk where
  /-- [list; 10 R270; reset empty] the pinned copies. -/
  pinned : List Pinned := []
  /-- [8 × 13 bits; 10 R275; reset none] the sweep running on each partition: the next set. -/
  sweeps : List (Nat × Nat) := []
  /-- [8 × 16 bits; 10 R276; reset the defaults of Table 10.3] the ways each partition had at its last disable. -/
  lastWays : List (Nat × Nat) := []
  /-- [64 bits; 10 R261; reset 0] the recency clock. -/
  clock : Nat := 0
  /-- [36 bytes; 10 R278; reset 0] the retired ways in force. -/
  retired : List (Nat × Nat) := []
  /-- [16 bits; 10 R270; reset empty] pin entries whose STK_PIN_SHORT has been raised. -/
  short : List Nat := []
  deriving DecidableEq, Repr

/-- A value staged in segments (R382). -/
structure Staged where
  key : Nat
  session : Nat
  bytes : List Byte
  deriving DecidableEq, Repr

/-- The modes of SEC_MODE (R393). -/
inductive SecMode where
  | open | entering | confidential | exiting
  deriving DecidableEq, Repr

/-- The stage of a change of mode or a job end (R394, R396): none, waiting for the overwrite. -/
inductive SecStep where
  | idle | enter | exit | jobEnd
  deriving DecidableEq, Repr

/-- A firmware slot (R386): its image is uninterpreted; its version, SVN and whether it passes are kept. -/
structure FwSlot where
  version : Nat := 0
  svn : Nat := 0
  passes : Bool := true
  image : List Byte := []
  deriving DecidableEq, Repr

/-- An error record (Table 17.3). -/
structure ErrRec where
  valid : Bool := false
  cause : Nat := 0
  detected : Nat := 0
  level : Nat := 0
  event : Nat := 0
  subsys : Nat := 0
  source : Nat := 0
  status : Nat := 0
  dKind : Nat := 0
  queue : Nat := 0
  tag : Nat := 0
  endFolio : Nat := 0
  folio : Nat := 0
  dVal : Nat := 0
  detail : Nat := 0
  deriving DecidableEq, Repr

/-- An open handling of an error (R426, R428): its level, cause, and its domain. -/
structure Handling where
  level : Nat
  cause : Nat
  tasks : List Nat := []
  pod : Option Nat := none
  /-- Which records it fills. -/
  primary : Bool := false
  secondary : Bool := false
  /-- What MSC_CONTAINED says of it (R447): the level of its cause, whether it is nested, and DETAIL_VALUE. -/
  detected : Nat := 0
  nested : Bool := false
  dVal : Nat := 0
  deriving DecidableEq, Repr

/-- The Management and Security Controller (15, 17). -/
structure Msc where
  /-- [8; 15 R379; reset empty] open Garwa sessions and their roles. -/
  sessions : List (Nat × Role) := []
  /-- [model number; 15 R379; reset 0] the next session number. -/
  nextSession : Nat := 0
  /-- [list; 15 R382; reset empty] staged values. -/
  staged : List Staged := []
  /-- [1 bit; 15 R383; reset 0] BUSY of the mailbox. -/
  mbBusy : Bool := false
  /-- [1 bit; 15 R383; reset 0] DONE of the mailbox. -/
  mbDone : Bool := false
  /-- [32 bits; 15 R383; reset 0] REQ_ID of the last mailbox response. -/
  mbReqId : Nat := 0
  /-- [1,040 bytes; 15 R383; reset 0] MSC_MB_REQ. -/
  mbReq : List Host.Cell := []
  /-- [1,040 bytes; 15 R383; reset 0] MSC_MB_RSP. -/
  mbRsp : List Host.Cell := []
  /-- [2 bits; 15 R393; reset OPEN] SEC_MODE. -/
  mode : SecMode := .open
  /-- [15 R394, R396; reset idle] the step that waits for the overwrite. -/
  step : SecStep := .idle
  /-- [256 keys; 15 R391; reset empty] table keys (uninterpreted bytes). -/
  tableKeys : List (Nat × List Byte) := []
  /-- [2 slots; 15 R386; reset DESIGN CHOICE version 0, log 8] the firmware slots. -/
  slotA : FwSlot := {}
  slotB : FwSlot := {}
  /-- [7 bits; 15 R384; reset 0, DESIGN CHOICE, log 8] the fused SVN. -/
  svn : Nat := 0
  /-- [1 bit; 15 R384; reset 0, DESIGN CHOICE, log 8] DEBUG_KILL. -/
  debugKill : Bool := false
  /-- [1 bit; 15 R394, R396; reset DESIGN CHOICE 1, log 8] debug and boundary scan enabled. -/
  debug : Bool := true
  /-- [1 bit; 15 R386; reset 0] the MSC has booted a firmware slot since power-up. -/
  booted : Bool := false
  /-- [1 bit; 15 R387; reset 0] a switch is scheduled for the next folio boundary. -/
  fwPending : Bool := false
  /-- [1 bit; 15 R387; reset 0] the MSC is restarting. -/
  restarting : Bool := false
  /-- [1 bit; 15 R387; reset 0] new firmware has not yet reported itself healthy. -/
  unhealthy : Bool := false
  /-- [list; 15 R399; reset empty] events held while the MSC restarts, oldest first: ring and entry. -/
  held : List (Nat × Nat) := []
  /-- [1 bit; 15 R380; reset 0] MSC_AUTH_FAIL was raised in this folio. -/
  authRaised : Bool := false
  /-- [list; 15 R395; reset empty] the counters latched at the last folio boundary. -/
  latched : List (Nat × Nat) := []
  /-- [list; 17 R426; reset empty] the open handlings. -/
  open_ : List Handling := []
  /-- [96 bytes; 17 R429; reset 0] ENG_ERR_PRIMARY. -/
  primary : ErrRec := {}
  /-- [96 bytes; 17 R429; reset 0] ENG_ERR_SECONDARY. -/
  secondary : ErrRec := {}
  /-- [32 bits; 17 R429; reset 0] UNRECORDED. -/
  unrecorded : Nat := 0
  /-- [8 bits; 17 R444; reset 0] START_CAUSE. -/
  startCause : Nat := 0
  /-- [1 bit; 17 R443; reset 0] ALERT. -/
  alert : Bool := false
  /-- [1 bit; 17 R432; reset 0] package containment holds the engine in reset; and cause 18. -/
  packageHeld : Bool := false
  hubLost : Bool := false
  /-- [1 bit; 17 R430; reset 0] engine containment: flushing records; waiting in reset for release. -/
  flushing : Bool := false
  waitRelease : Bool := false
  /-- [18 × 8 bits; 01 R10; reset DESIGN CHOICE dies 0 to 15 mapped to 0 to 15, log 9] POD_MAP. -/
  podMap : List Nat := [0, 1, 2, 3, 4, 5, 6, 7, 8, 9, 10, 11, 12, 13, 14, 15, 0xFF, 0xFF]
  /-- [18 × 1 bit; 17 R440; reset empty] retired dies. -/
  retiredDies : List Nat := []
  /-- [17 R441; reset none] the spare being mapped: die and logical Pod, ready for the next boundary. -/
  sparing : Option (Nat × Nat × Bool) := none
  /-- [16 × (64 + 3) images; 17 R441; reset empty] the hub's copies of user sprouts and microcode, by Pod × 128 + slot
  (microcode slots at 64 + slot). -/
  images : List (Nat × List Word) := []
  /-- [2 × 64 bits; 03 Table 3.26; reset 0] Garwa messages and mailbox requests answered. -/
  answered : Nat := 0
  mbAnswered : Nat := 0
  deriving DecidableEq, Repr

/-- Where the engine stands between power and service (R412, R416, R417, R430, R444). -/
inductive Run where
  /-- No power at the core rails. -/
  | off
  /-- Engine reset held (J_RST_N low, or a containment). -/
  | reset
  /-- Leaving reset: J_REFCLK being qualified. -/
  | starting
  /-- The reference has qualified, links are training: the window does not answer yet (R456). -/
  | linking
  /-- The links have trained: the window answers, memory and ports come up. -/
  | bringup
  /-- The MSC has declared the engine ready. -/
  | ready
  deriving DecidableEq, Repr

/-- The Clock and Reset Unit and the Power Entry Unit (16). -/
structure Cru where
  /-- [16 R415 to R417; reset engine reset held] where the engine stands. -/
  run : Run := .reset
  /-- [1 pin; 16 R416; reset 0, an unconnected J_RST_N reads low (R409)] J_RST_N. -/
  rstN : Bool := false
  /-- [1 pin; 16 R412; reset 1 once POWER_UP has run] J_PWRGD. -/
  pwrgd : Bool := true
  /-- [1 pin; 14 R360; reset 0] J_FOLIO_OUT. -/
  folioOut : Bool := false
  /-- [1 bit; 16 Table 16.10; reset 0] LOCKED. -/
  locked : Bool := false
  /-- [1 bit; 16 Table 16.10; reset 0] CRU_COAST. -/
  coast : Bool := false
  /-- [1 bit; 16 R403; reset 0] HOLDOVER. -/
  holdover : Bool := false
  /-- [1 bit; 16 Table 16.10; reset 0] QUALIFYING. -/
  qualifying : Bool := false
  /-- [2 + 3 bits; 16 R400, Table 16.10; reset J_REFCLK] REF and REF_PORT: the port in use, if any. -/
  refPort : Option Nat := none
  /-- [1 bit; 17 R444; reset 0] start-up has failed: the engine stays where it stands until its next reset. -/
  stuck : Bool := false
  /-- [3 × 32 bits, kHz; 16 R405; reset the defaults] the clocks in force since the last engine reset. -/
  podKhz : Nat := 2000000
  hubKhz : Nat := 1600000
  fabKhz : Nat := 1562500
  /-- [16 bits; 16 R407, Table 16.10; reset 0xFFFF] EN of CRU_GATE. -/
  gate : BitVec 16 := 0xFFFF
  /-- [list; 16 R407; reset empty] object dictionary writes held while their subsystem is gated: key and value. -/
  heldWrites : List (Nat × Nat) := []
  /-- [18 dies; 16 R418; reset down] the links of the physical dies. -/
  d2d : List (Nat × D2d) := []
  /-- [18 × (2 + 4 bits); 16 R418, R419; reset 0] failed attempts in a row and RESYNCs received per die. -/
  d2dTries : List (Nat × (Nat × Nat)) := []
  /-- [5 bits; 16 R413; reset 0] the pressure p. -/
  pressure : Nat := 0
  /-- [16 + 16 bits; 16 Table 16.10; reset 0] PIN in W and IIN in 10 mA. -/
  pin : Nat := 0
  iin : Nat := 0
  /-- [16 bits; 16 Table 16.10; reset 0] PEU_VIN in mV. -/
  vin : Nat := 0
  /-- [64 bits; 03 Table 3.26; reset 0] input energy in 10 µJ. -/
  energy : Nat := 0
  /-- [100 × 16 bits; 16 R413; reset empty] the input voltages of the last 1 ms in mV, newest first. -/
  vinHist : List Nat := []
  /-- [2 × 64 bits; 16 Table 16.11; reset 0] the sum of PIN over this folio's 10 µs periods, and their number. -/
  folioPin : Nat × Nat := (0, 0)
  /-- [15 R395; reset 0] PEU_UPDATEs in the present 10 ms window and their sums of PIN, IIN and VIN; and the means of the
  last completed window. -/
  window : Nat × Nat × Nat × Nat := (0, 0, 0, 0)
  mean : Nat × Nat × Nat := (0, 0, 0)
  /-- [8 bits; 16 R413; reset 0] 10 µs periods in a row below T − 20 W. -/
  below : Nat := 0
  /-- [16 bits; 16 R413; reset 760] T, W. -/
  target : Nat := 760
  /-- [1 bit; 03 Table 3.26; reset 0] p was above 0 in this folio. -/
  limited : Bool := false
  /-- [64 bits; 03 Table 3.26; reset 0] Pod cycles removed under R406. -/
  skipped : Nat := 0
  /-- [1 bit; 16 R410, R412; reset 1] the input is present. -/
  input : Bool := true
  deriving DecidableEq, Repr

/-- What leaves the engine toward whoever sent the last commands: the value of a read, a response, messages. -/
structure Out where
  /-- [model output; 12 R310, 03 R86; reset empty] the bytes that the last read returned. -/
  read : List Byte := []
  /-- [16 bits; 15 Table 15.3; reset 0] the status of the last object dictionary access. -/
  status : Nat := 0
  /-- [model output; 12 R317; reset empty] interrupt messages sent: VECTOR and path, newest first. -/
  interrupts : List (Nat × Nat) := []
  /-- [model output; 12 R305; reset empty] invalidation requests completed, newest first: base and length. -/
  invalidated : List (Nat × Nat) := []
  /-- [model output; 15 R381; reset empty] Garwa EVENT messages sent, newest first, each a 256-bit entry. -/
  garwaEvents : List Nat := []
  deriving DecidableEq, Repr

/-- The whole engine. -/
structure State where
  cfe : Cfe := {}
  cat : Cat := {}
  /-- [16 logical Pods; 01 R10; reset each at its resets] the Pods. -/
  pods : List (Nat × Pod) := []
  gau : Gau := {}
  stk : Stk := {}
  mss : Mss := {}
  upu : Upu := {}
  hpt : Hpt := {}
  sfp : Sfp := {}
  fsu : Fsu := {}
  msc : Msc := {}
  cru : Cru := {}
  /-- [the entries of 18; 18 R448; reset each at its default] object dictionary values that differ from their default,
  by index × 256 + subindex, each as one little-endian number (R460). -/
  od : List (Nat × Nat) := []
  mem : Mem := {}
  out : Out := {}
  /-- The commands that wait, first in, first out. -/
  pending : List Instr := []
  deriving DecidableEq, Repr

/-- The engine right after power-on reset: every field at the default its declaration gives it. -/
def State.reset : State := {}

end Sys2Proof.Machine
end

