-- ==== Sys2Proof/Machine/Store.lean ====
section
/-! DEFINITION. The two kinds of store that the state is made of: a table of values by number, kept in rising order,
and a byte memory in canonical form, where an unlisted address reads as zero and no zero byte is listed. -/

namespace Sys2Proof.Machine

/-- The value listed under a number. -/
def tabFind {α : Type} (k : Nat) : List (Nat × α) → Option α
  | [] => none
  | (j, v) :: t => if k = j then some v else tabFind k t

/-- The value listed under a number, or the one an unlisted number has. -/
def tabGet {α : Type} (k : Nat) (d : α) (t : List (Nat × α)) : α := (tabFind k t).getD d

/-- Lists a value under a number, in place of the one listed before. -/
def tabPut {α : Type} (k : Nat) (v : α) : List (Nat × α) → List (Nat × α)
  | [] => [(k, v)]
  | (j, w) :: t =>
    if k = j then (k, v) :: t
    else if k < j then (k, v) :: (j, w) :: t
    else (j, w) :: tabPut k v t

/-- Unlists a number. -/
def tabDrop {α : Type} (k : Nat) (t : List (Nat × α)) : List (Nat × α) := t.filter (fun x => x.1 != k)

/-- Changes the value under a number. -/
def tabMod {α : Type} (k : Nat) (d : α) (f : α → α) (t : List (Nat × α)) : List (Nat × α) :=
  tabPut k (f (tabGet k d t)) t

/-- Lists a value, or unlists the number where the value is the one that an unlisted number has. -/
def tabKeep (k d v : Nat) (t : List (Nat × Nat)) : List (Nat × Nat) :=
  if v = d then tabDrop k t else tabPut k v t

/-- The numbers rise strictly from the head. -/
def tabRising {α : Type} : List (Nat × α) → Bool
  | [] => true
  | [_] => true
  | (j, _) :: (k, v) :: t => decide (j < k) && tabRising ((k, v) :: t)

/-- The byte that a memory holds at an address. -/
def memByte (m : List Host.Cell) (a : Nat) : Byte := tabGet a 0 m

/-- Stores one byte. -/
def memPut (a : Nat) (b : Byte) (m : List Host.Cell) : List Host.Cell :=
  if b = 0 then tabDrop a m else tabPut a b m

/-- Stores bytes at rising addresses. -/
def memStore (a : Nat) : List Byte → List Host.Cell → List Host.Cell
  | [], m => m
  | b :: bs, m => memStore (a + 1) bs (memPut a b m)

/-- The bytes at n rising addresses. -/
def memLoad (m : List Host.Cell) (a : Nat) : Nat → List Byte
  | 0 => []
  | n + 1 => memByte m a :: memLoad m (a + 1) n

/-- Sets n bytes to zero. -/
def memClear (a n : Nat) (m : List Host.Cell) : List Host.Cell :=
  m.filter (fun c => decide (c.1 < a) || decide (a + n ≤ c.1))

/-- The canonical form of a byte memory: addresses rise and no zero byte is listed. -/
def memWf (m : List Host.Cell) : Bool := tabRising m && m.all (fun c => decide (c.2 ≠ 0))

end Sys2Proof.Machine
end

