-- ==== Sys2Proof/Machine/Ops.lean ====
section
/-! DEFINITION. The named operations over the state that every family of commands shares: updates of one subsystem,
the object dictionary, events, memory by address word, outbound writes and their order, and the end of a task. -/

namespace Sys2Proof.Machine

/-! ## Updates of one subsystem -/

/-- Changes the Command Front End. -/
def onCfe (f : Cfe → Cfe) (s : State) : State := { s with cfe := f s.cfe }
/-- Changes the Catalogue. -/
def onCat (f : Cat → Cat) (s : State) : State := { s with cat := f s.cat }
/-- Changes the Pods. -/
def onPods (f : List (Nat × Pod) → List (Nat × Pod)) (s : State) : State := { s with pods := f s.pods }
/-- Changes the engine-wide part of the IXU, GAU, PLU and QNT. -/
def onGau (f : Gau → Gau) (s : State) : State := { s with gau := f s.gau }
/-- Changes the engine-wide part of Stacks. -/
def onStk (f : Stk → Stk) (s : State) : State := { s with stk := f s.stk }
/-- Changes the Memory Subsystem. -/
def onMss (f : Mss → Mss) (s : State) : State := { s with mss := f s.mss }
/-- Changes the Update Unit's hub share. -/
def onUpu (f : Upu → Upu) (s : State) : State := { s with upu := f s.upu }
/-- Changes the Host Port. -/
def onHpt (f : Hpt → Hpt) (s : State) : State := { s with hpt := f s.hpt }
/-- Changes the Shard Fabric Port. -/
def onSfp (f : Sfp → Sfp) (s : State) : State := { s with sfp := f s.sfp }
/-- Changes the Folio and Sync Unit. -/
def onFsu (f : Fsu → Fsu) (s : State) : State := { s with fsu := f s.fsu }
/-- Changes the Management and Security Controller. -/
def onMsc (f : Msc → Msc) (s : State) : State := { s with msc := f s.msc }
/-- Changes the Clock and Reset Unit and the Power Entry Unit. -/
def onCru (f : Cru → Cru) (s : State) : State := { s with cru := f s.cru }
/-- Changes the object dictionary values. -/
def onOd (f : List (Nat × Nat) → List (Nat × Nat)) (s : State) : State := { s with od := f s.od }
/-- Changes memory. -/
def onMem (f : Mem → Mem) (s : State) : State := { s with mem := f s.mem }
/-- Changes what leaves the engine. -/
def onOut (f : Out → Out) (s : State) : State := { s with out := f s.out }

/-- Runs a change for each element of a list, in order. -/
def forEach {α : Type} (f : α → State → State) : List α → State → State
  | [], s => s
  | x :: xs, s => forEach f xs (f x s)

/-- Runs a change where a condition holds, and nothing where it does not: a step that is not enabled changes nothing
(log 1). -/
def whenS (b : Bool) (f : State → State) (s : State) : State := if b then f s else s

/-- Sums a count over a list. -/
def sumOf {α : Type} (f : α → Nat) (xs : List α) : Nat := (xs.map f).foldl (· + ·) 0

/-! ## Records by number -/

/-- Queue q. -/
def getQ (s : State) (q : Nat) : Queue := tabGet q {} s.cfe.queues
/-- Changes queue q. -/
def modQ (q : Nat) (f : Queue → Queue) (s : State) : State :=
  onCfe (fun c => { c with queues := tabMod q {} f c.queues }) s
/-- Event ring i. -/
def getEvq (s : State) (i : Nat) : Ring := tabGet i {} s.cfe.evqs
/-- Changes event ring i. -/
def modEvq (i : Nat) (f : Ring → Ring) (s : State) : State :=
  onCfe (fun c => { c with evqs := tabMod i {} f c.evqs }) s
/-- Telemetry ring j. -/
def getTel (s : State) (j : Nat) : Ring := tabGet j {} s.cfe.tels
/-- Changes telemetry ring j. -/
def modTel (j : Nat) (f : Ring → Ring) (s : State) : State :=
  onCfe (fun c => { c with tels := tabMod j {} f c.tels }) s
/-- Logical Pod p. -/
def getPod (s : State) (p : Nat) : Pod := tabGet p {} s.pods
/-- Changes logical Pod p. -/
def modPod (p : Nat) (f : Pod → Pod) (s : State) : State := onPods (tabMod p {} f) s
/-- The sixteen logical Pods (R10). -/
def podNums : List Nat := List.range 16
/-- The logical Pods that take part in the deal (R14). -/
def activePods (s : State) : List Nat := podNums.filter (fun p => (getPod s p).up)
/-- The task with a number. -/
def getTask (s : State) (t : Nat) : Option Task := s.cfe.tasks.find? (fun k => k.id == t)
/-- Changes the task with a number. -/
def modTask (t : Nat) (f : Task → Task) (s : State) : State :=
  onCfe (fun c => { c with tasks := c.tasks.map (fun k => if k.id == t then f k else k) }) s
/-- Forgets the task with a number: its record is visible, or no record will be written. -/
def dropTask (t : Nat) (s : State) : State :=
  onCfe (fun c => { c with tasks := c.tasks.filter (fun k => k.id != t) }) s
/-- Channel c of GDDR7. -/
def getChan (s : State) (c : Nat) : Chan := tabGet c {} s.mss.chans
/-- Changes channel c. -/
def modChan (c : Nat) (f : Chan → Chan) (s : State) : State :=
  onMss (fun m => { m with chans := tabMod c {} f m.chans }) s
/-- Ifeop port k. -/
def getPort (s : State) (k : Nat) : Port := tabGet k {} s.sfp.ports
/-- Changes port k. -/
def modPort (k : Nat) (f : Port → Port) (s : State) : State :=
  onSfp (fun m => { m with ports := tabMod k {} f m.ports }) s

/-! ## Pointers (R56) -/

/-- A pointer with both copies at a value. -/
def ptr (v : Nat) : Ptr := ⟨v, v⟩
/-- The two copies of a pointer agree. -/
def ptrOk (p : Ptr) : Bool := p.val == p.copy
/-- a − b of pointers of n + 1 bits. -/
def ptrSub (n a b : Nat) : Nat := (a + 2 ^ (n + 1) - b % 2 ^ (n + 1)) % 2 ^ (n + 1)
/-- A pointer of n + 1 bits, one on. -/
def ptrNext (n a : Nat) : Nat := (a + 1) % 2 ^ (n + 1)
/-- A pointer that the engine owns, one on: both copies (R56). -/
def ptrStep (n : Nat) (p : Ptr) : Ptr := ptr (ptrNext n p.val)
/-- A ring of 2^n entries is full (R56). -/
def ringFull (n w r : Nat) : Bool := ptrSub n w r == 2 ^ n
/-- PHASE of the pass that a write pointer is in: 1 on the first pass (Table 3.18). -/
def phaseOf (n w : Nat) : Nat := if bitOf w n then 0 else 1

/-! ## The object dictionary -/

/-- The value that an entry holds (R450: its default where nothing else was stored). -/
def odGet (s : State) (k : Nat) : Nat :=
  match tabFind k s.od with
  | some v => v
  | none => ((odFind k).map (·.dflt)).getD 0

/-- Stores a value of an entry. -/
def odSet (k v : Nat) (s : State) : State :=
  onOd (tabKeep k (((odFind k).map (·.dflt)).getD 0) v) s

/-- Counts n more in a counter, which saturates at its type's maximum (18, after R449). -/
def odCount (k n : Nat) (s : State) : State :=
  if n = 0 then s
  else
    let top := 2 ^ (8 * ((odFind k).map (·.size)).getD 8) - 1
    odSet k (satTo top (odGet s k + n)) s

/-- Byte b of a BLOB entry. -/
def odByte (s : State) (k b : Nat) : Nat := bitsOf (odGet s k) (8 * b + 7) (8 * b)

/-- A subsystem's clock is gated (R407). -/
def gated (s : State) (sub : Nat) : Bool := !bitOf s.cru.gate.toNat sub

/-- The MMIO window answers: the links have trained since the last engine reset (R456). -/
def windowUp (s : State) : Bool := s.cru.run == .bringup || s.cru.run == .ready

/-- A register of a subsystem takes an access: the window answers, and the subsystem's clock runs (R407, R455). -/
def regOn (s : State) (sub : Nat) : Bool := windowUp s && !gated s sub

/-- The settings of confidential mode apply (Table 15.9): from step 3 of R394, in ENTERING, to step 4 of R396, at the end of
EXITING. -/
def confidential (s : State) : Bool := s.msc.mode != .open

/-- The folio number now. -/
def folio (s : State) : Nat := s.fsu.folio

/-- Draws a free value (log 4): what it is, nothing says. -/
def freeNow (s : State) : BitVec 64 := Config.freeWord s.gau.free
/-- Counts a draw. -/
def drawn (s : State) : State := onGau (fun g => { g with free := g.free + 1 }) s

/-! ## Address words (R58) -/

/-- PATH of an address word. -/
def awPath (w : Nat) : Nat := bitsOf w 63 62
/-- SPACE of an address word: 0 package, 1 GDDR7, 2 scratch, 3 tiles. -/
def awSpace (w : Nat) : Nat := bitsOf w 61 60
/-- ADDR of an address word. -/
def awAddr (w : Nat) : Nat := bitsOf w 56 0
/-- An address word that is well formed: no reserved bit, no reserved PATH, PATH 0b01 with SPACE 0b00 only. -/
def awOk (w : Nat) : Bool :=
  bitsOf w 59 57 == 0 && decide (awPath w < 2) && (awPath w == 0 || awSpace w == 0)
/-- The named memory is package memory on the coherent path; a word of all zeros names nothing (R58). -/
def awCoherent (w : Nat) : Bool := w != 0 && awSpace w == 0 && awPath w == 0

/-- The place of a tile's byte in the tile memory, from ADDR of SPACE 0b11 (R138). -/
def tileKey (a : Nat) : Nat :=
  let tile := bitsOf a 33 10
  (((tile >>> 20) * 2 + bitsOf tile 19 16) <<< 20) + (tile % 2 ^ 16) * 1024 + a % 1024

/-- How many tiles a kind has (Table 5.2): 1,024 carrels, 640 Fold tiles, none of a reserved kind. -/
def tilesOfKind (k : Nat) : Nat := if k = 0 then 1024 else if k = 1 then 640 else 0

/-- A run of n tiles from a tile address stays in its kind's range (R138). -/
def tileRunOk (tile n : Nat) : Bool := decide (tile % 2 ^ 16 + n ≤ tilesOfKind (bitsOf tile 19 16))

/-- Ranges [a, a + n) and [b, b + m) share a place. -/
def overlaps (a n b m : Nat) : Bool := decide (a < b + m) && decide (b < a + n)

/-! ## GDDR7 (R284, R285, R292) -/

/-- Usable bytes (Table 11.3). -/
def usable (s : State) : Nat := odGet s odMssUsable

/-- The active physical channels, in ascending order (R284). -/
def activeChans (s : State) : List Nat := (List.range 24).filter (fun c => bitOf s.mss.chanMap c)

/-- The physical channel that holds a byte address (R284). -/
def chanOf (s : State) (a : Nat) : Nat :=
  let act := activeChans s
  let n := act.length
  let u := a >>> 8
  let q := u / n
  (act.getD ((u + q) % n) 0)

/-- The byte offset within its channel at which a byte address lies (R284). -/
def chanOffset (s : State) (a : Nat) : Nat := (a >>> 8) / (activeChans s).length * 256 + a % 256

/-- The byte address that lies at an offset of the k-th active channel: the interleave of R284 the other way. -/
def chanAddr (s : State) (k o : Nat) : Nat :=
  let n := (activeChans s).length
  let q := o / 256
  (q * n + (k + n - q % n) % n) * 256 + o % 256

/-- The 64-byte atoms that n bytes from an address touch. -/
def atomsOf (a n : Nat) : List Nat :=
  if n = 0 then [] else (List.range ((a + n - 1) / 64 - a / 64 + 1)).map (fun i => a / 64 + i)

/-- The atoms that a write of n bytes covers in part, and that are read for it (R285). -/
def partAtoms (a n : Nat) : Nat :=
  if n = 0 then 0
  else if a / 64 = (a + n - 1) / 64 then (if n = 64 then 0 else 1)
  else (if a % 64 = 0 then 0 else 1) + (if (a + n) % 64 = 0 then 0 else 1)

/-- Some atom of a range cannot be read: its channel is down (R292), or it is uncorrectable (R291, R296). -/
def gddrBad (s : State) (a n : Nat) : Bool :=
  let anyDown := s.mss.chans.any (fun c => c.2.down)
  (!s.mss.badAtoms.isEmpty && (atomsOf a n).any (fun x => s.mss.badAtoms.any (fun b => b.1 == x))) ||
  (anyDown && (atomsOf a n).any (fun x => (getChan s (chanOf s (x * 64))).down))

/-- The bytes of a write that reach memory when a channel is down: those of its atoms are discarded (R292). -/
def gddrKeep (s : State) (a : Nat) (bs : List Byte) : List Byte :=
  if s.mss.chans.any (fun c => c.2.down) then
    bs.zipIdx.map (fun c =>
      if (getChan s (chanOf s (a + c.2))).down then memByte s.mem.gddr (a + c.2) else c.1)
  else bs

/-- A 128-byte line with a write laid over it. -/
def pasteLine (la : Nat) (old : List Byte) (a : Nat) (bs : List Byte) : List Byte :=
  let new := bs.toArray
  (List.range 128).map (fun i =>
    if a ≤ la + i ∧ la + i < a + bs.length then new.getD (la + i - a) 0 else old.getD i 0)

/-- A cached line takes a write that covers part of it, if the directory still lists it (R262, R276). -/
def lineWrite (tier a : Nat) (bs : List Byte) (l : Line) : Line :=
  if l.listed && l.tier == tier && overlaps a bs.length l.addr 128 then
    { l with data := pasteLine l.addr l.data a bs }
  else l

/-- Bytes at an address with a write laid over them. -/
def layBytes (la : Nat) (old : List Byte) (a : Nat) (bs : List Byte) : List Byte :=
  if overlaps la old.length a bs.length then
    let new := bs.toArray
    old.zipIdx.map (fun c => if a ≤ la + c.2 ∧ la + c.2 < a + bs.length then new.getD (la + c.2 - a) 0 else c.1)
  else old

/-- Bytes of host memory as this engine reads them: with its own coherent writes that are under way (R306). -/
def hostView (s : State) (a n : Nat) : List Byte :=
  s.hpt.outq.foldl (fun b w => if w.path = 0 then layBytes a b w.addr w.data else b) (memLoad s.mem.host a n)

/-- A slip whose line a write covers goes stale (R265); old is the line before the write. -/
def slipWrite (tier a n : Nat) (old : Nat → List Byte) (c : Slip) : Slip :=
  if c.tier == tier && overlaps a n c.addr 128 && !c.stale then
    { c with stale := true, old := old c.addr }
  else c

/-- Every Stacks copy of a written range changes in the same commit (R262), and open slips go stale (R265). -/
def stacksWrite (tier a : Nat) (bs : List Byte) (s : State) : State :=
  let old (la : Nat) : List Byte :=
    if tier = 0 then memLoad s.mem.gddr la 128 else hostView s la 128
  onPods (fun ps => ps.map (fun p =>
    (p.1, { p.2 with slice := { p.2.slice with
      lines := p.2.slice.lines.map (fun l => (l.1, lineWrite tier a bs l.2)),
      weed := p.2.slice.weed.map (lineWrite tier a bs),
      slips := p.2.slice.slips.map (slipWrite tier a bs.length old) } }))) s

/-- The atoms in the read queue of a channel: those of the lines that GDDR7 slips wait for (R286). -/
def readsAt (s : State) (ch : Nat) : Nat :=
  2 * (s.pods.map (fun p => (p.2.slice.slips.filter (fun c => c.tier == 0 && chanOf s c.addr == ch)).length)).foldl (· + ·) 0

/-- A channel's write queue once the channel has served what it may: all of it where no read waits, down to 128 atoms once it
has reached 640, and nothing while the channel retrains (R286, R290). -/
def chanServe (s : State) (ch : Nat) (q : List Nat) : List Nat :=
  if s.mss.retraining.any (fun r => r.1 == ch) then q
  else if readsAt s ch = 0 then []
  else if 640 ≤ q.length then q.drop (q.length - 128) else q

/-- The write queues with atoms written in order, each behind those that wait on its channel (R286). -/
def writesQueued (s : State) (as : List Nat) : List (Nat × List Nat) :=
  if s.mss.retraining.isNone && !s.pods.any (fun p => p.2.slice.slips.any (fun c => c.tier == 0)) then []
  else
    as.foldl (fun t x =>
      let ch := chanOf s (64 * x)
      if (getChan s ch).down then t
      else
        let q := chanServe s ch (tabGet ch [] t ++ [x])
        if q.isEmpty then tabDrop ch t else tabPut ch q t) s.mss.writeq

/-- The channels go on with their write queues, as a read has ended or a retrain is over (R286). -/
def serveWrites (s : State) : State :=
  onMss (fun m => { m with writeq :=
    (m.writeq.map (fun c => (c.1, chanServe s c.1 c.2))).filter (fun c => !c.2.isEmpty) }) s

/-- A commit of bytes to GDDR7 (R262, R285, R286, R307): memory, the Stacks copies, and host caches that held the line. Its
atoms join the write queues, and every read from then on returns them. -/
def gddrStore (a : Nat) (bs : List Byte) (s : State) : State :=
  let kept := gddrKeep s a bs
  let s := stacksWrite 0 a kept s
  let s := onHpt (fun h => { h with snoop := h.snoop.filter (fun l => !overlaps a bs.length (l * 128) 128) }) s
  let q := writesQueued s (atomsOf a bs.length)
  let s := onMss (fun m => { m with writeq := q, atomsRead := m.atomsRead + partAtoms a bs.length, atomsWritten := m.atomsWritten + (atomsOf a bs.length).length,
                                    badAtoms := m.badAtoms.filter (fun b => !(atomsOf a bs.length).contains b.1) }) s
  onMem (fun m => { m with gddr := memStore a kept m.gddr }) s

/-- The bytes of GDDR7 at an address. -/
def gddrLoad (s : State) (a n : Nat) : List Byte := memLoad s.mem.gddr a n
/-- A 64-bit number in GDDR7. -/
def gddrU64 (s : State) (a : Nat) : Nat := leNat (memLoad s.mem.gddr a 8)

/-! ## Memory by address word -/

/-- The scratch ways of the enabled SCRATCH partition, in ascending order (R269). -/
def scratchWays (s : State) : List Nat :=
  ((List.range 8).filterMap (fun k =>
    let v := odGet s (odStkPart + k)
    if bitOf v 16 && bitsOf v 27 24 == 1 then some ((List.range 16).filter (bitOf v)) else none)).headD []

/-- The physical die of a logical Pod (R10). -/
def dieOf (s : State) (pod : Nat) : Nat := (s.msc.podMap.zipIdx.find? (fun c => c.1 == pod)).elim 0xFF (·.2)

/-- The retired ways of a logical Pod's die, as a mask (R278). -/
def retiredWays (s : State) (pod : Nat) : Nat := tabGet (dieOf s pod) 0 s.stk.retired

/-- What an access of n bytes at an address of scratch ends with: none, ADDRESS_FAULT, or POD_LOST (R269). -/
def scratchFault (s : State) (a n : Nat) : Option Nat :=
  let pod := bitsOf a 27 24
  let off := a % 2 ^ 24
  let ways := scratchWays s
  let used := (List.range 16).filter (fun k => overlaps off n (k * 2 ^ 20) (2 ^ 20))
  if a ≥ 2 ^ 28 then some stAddressFault
  else if (getPod s pod).inReset && !(getPod s pod).retired then some stPodLost
  else if off + n > ways.length * 2 ^ 20 || used.any (fun k => bitOf (retiredWays s pod) (ways.getD k 0)) then
    some stAddressFault
  else none

/-- What an access of n bytes at an address word ends with: none when it can be made, else the status of its fault
(R117, R138, R269, R284, R305, R323). A tile address whose ADDR [56:34] is not 0 is an ADDRESS_FAULT (log 98). -/
def accessFault (s : State) (w n : Nat) : Option Nat :=
  let a := awAddr w
  match awSpace w with
  | 0 =>
    if (awPath w == 0 && s.hpt.link == .lost) || (awPath w == 1 && s.hpt.accelLost) then some stDestLost
    else if s.hpt.unmapped.any (fun r => overlaps r.1 r.2 a n) then some stAddressFault else none
  | 1 => if usable s < a + n then some stAddressFault else if gddrBad s a n then some stAbortedFault else none
  | 2 => scratchFault s a n
  | _ =>
    let tile := bitsOf a 33 10
    if a ≥ 2 ^ 34 || !tileRunOk tile (cdiv (a % 1024 + n) 1024) then some stAddressFault else none

/-! ## Address translation (R304, R305) -/

/-- The address space of queue q, in HPT_ASID. -/
def queueAsid (s : State) (q : Nat) : Nat := bitsOf (odGet s odHptAsid) (32 * q + 19) (32 * q)

/-- The engine's own address space, in HPT_ENGINE_ASID. -/
def engineAsid (s : State) : Nat := odGet s odHptEngineAsid % 2 ^ 20

/-- The address space of a task's queue; the engine's own for what no task does. -/
def taskAsid (s : State) (t : Option Nat) : Nat :=
  match t.bind (getTask s) with
  | some k => queueAsid s k.queue
  | none => engineAsid s

/-- The page that holds an address of an address space, as the translation cache holds it. -/
def pageOf (asid a : Nat) : Nat × Nat × Nat :=
  let b := [12, 16, 21, 30].getD (Config.pageSize asid (a / 4096) % 4) 12
  (asid, b, a >>> b)

/-- The translation cache, with its misses, after one more look-up: a miss takes the page in, in place of the oldest where
16,384 are held (log 6). -/
def lookUp (c : List (Nat × Nat × Nat) × Nat) (e : Nat × Nat × Nat) : List (Nat × Nat × Nat) × Nat :=
  if c.1.contains e then c else (c.1.drop (c.1.length + 1 - 16384) ++ [e], c.2 + 1)

/-- The HPT translates the n bytes at an address of an address space, 4 KiB at a time. -/
def translate (asid a n : Nat) (s : State) : State :=
  let ps := if n = 0 then [] else (List.range ((a + n - 1) / 4096 - a / 4096 + 1)).map (fun i => 4096 * (a / 4096 + i))
  let x := (ps.map (pageOf asid)).foldl lookUp (s.hpt.tlb, 0)
  onHpt (fun h => { h with tlb := x.1, transMisses := satTo (2 ^ 64 - 1) (h.transMisses + x.2) }) s

/-- The HPT reads n bytes at an address word in an address space, if the word names package memory (Table 3.26). -/
def hptRead (asid w n : Nat) (s : State) : State :=
  if awSpace w = 0 then translate asid (awAddr w) n (onHpt (fun h => { h with bytesRead := h.bytesRead + n }) s) else s

/-- The lines that n bytes from an address touch. -/
def linesOf (a n : Nat) : List Nat :=
  if n = 0 then [] else (List.range ((a + n - 1) / 128 - a / 128 + 1)).map (fun i => (a / 128 + i) * 128)

/-- The place of a scratch byte: its Pod, the physical way of the SCRATCH partition that its offset selects, and the
byte in the way, so that a byte stays with its way whatever ways the partition is given (R269). -/
def scratchKey (s : State) (a : Nat) : Nat :=
  bitsOf a 27 24 <<< 24 + ((scratchWays s).getD (bitsOf a 23 20) 0) <<< 20 + a % 2 ^ 20

/-- The n scratch bytes from an address on. -/
def scratchLoad (s : State) (a n : Nat) : List Byte := (List.range n).map (fun i => memByte s.mem.scratch (scratchKey s (a + i)))

/-- Scratch with bytes stored from an address on. -/
def scratchStore (s : State) (a : Nat) (bs : List Byte) : List Host.Cell :=
  bs.zipIdx.foldl (fun m c => memPut (scratchKey s (a + c.2)) c.1 m) s.mem.scratch

/-- A tile is a carrel of a bag in progress: it holds partial sums (R139). -/
def carrelBusy (s : State) (pod kind tile : Nat) : Bool :=
  kind == 0 && (getPod s pod).bags.any (fun b => decide (b.carrel ≤ tile) && decide (tile < b.carrel + b.carrels))

/-- The byte of tile memory at a place, as a read of the tile gets it: partial sums are unspecified (R139), and so a free
value. -/
def tileByte (s : State) (a : Nat) : Byte :=
  if carrelBusy s (a / 2 ^ 21) (a / 2 ^ 20 % 2) (a % 2 ^ 20 / 1024) then Config.freeByte s.gau.free a else memByte s.mem.tiles a

/-- The n bytes of tile memory from a place on. -/
def tileLoad (s : State) (a n : Nat) : List Byte := (List.range n).map (fun i => tileByte s (a + i))

/-- The bytes at an address word. -/
def loadAw (s : State) (w n : Nat) : List Byte :=
  match awSpace w with
  | 0 => memLoad s.mem.host (awAddr w) n
  | 1 => memLoad s.mem.gddr (awAddr w) n
  | 2 => scratchLoad s (awAddr w) n
  | _ => tileLoad s (tileKey (awAddr w)) n

/-- The bytes of coherent writes in the write-retention buffer (R318). -/
def retained (s : State) : Nat := sumOf (fun w => if w.path = 0 then w.data.length else 0) s.hpt.outq

/-- Issues a write to package memory: it waits for its path's acknowledgement (R313). A coherent one that finds the
retention buffer of 4 MiB full counts a stall (R318, log 101). -/
def postWrite (path a : Nat) (bs : List Byte) (task : Option Nat) (kind : WKind) (s : State) : State :=
  let s := odCount odHptRetainStalls (bit (path == 0 && decide (4194304 < retained s + bs.length))) s
  let s := translate (taskAsid s task) a bs.length s
  onHpt (fun h => { h with
    issued := h.issued + 1,
    bytesWritten := h.bytesWritten + bs.length,
    outq := h.outq ++ [{ seq := h.issued + 1, path := path, addr := a, data := bs, task := task, kind := kind }] }) s

/-- A row of a pinned copy or a replica with a write laid over it, where its backing row lies at a place (R262). -/
def layRow (tier a : Nat) (bs : List Byte) (place : Option (Nat × Nat)) (row : List Byte) : List Byte :=
  match place with
  | some (t, b) => if t = tier then layBytes b row a bs else row
  | none => row

/-- Pinned and replica lines change in the same commit as the memory under them (R262, R273). -/
def pinOverlay (tier a : Nat) (bs : List Byte) (s : State) : State :=
  let s := onStk (fun k => { k with pinned := k.pinned.map (fun c => { c with
    rows := c.rows.map (fun r => (r.1, r.2.map (layRow tier a bs (tabFind r.1 c.homes)))) }) }) s
  onCat (fun c => { c with replicas := c.replicas.map (fun r => { r with data := layRow tier a bs r.place r.data }) }) s

/-- Writes bytes at an address word: package memory by a posted write, the other spaces at once (Table 12.3). A write to
GDDR7 or host DRAM changes every copy of it in Stacks (R262). -/
def storeAw (w : Nat) (bs : List Byte) (task : Option Nat) (s : State) : State :=
  match awSpace w with
  | 0 =>
    postWrite (awPath w) (awAddr w) bs task .output
      (if awPath w = 0 then pinOverlay 1 (awAddr w) bs (stacksWrite 1 (awAddr w) bs s) else s)
  | 1 => gddrStore (awAddr w) bs (pinOverlay 0 (awAddr w) bs s)
  | 2 => onMem (fun m => { m with scratch := scratchStore s (awAddr w) bs }) s
  | _ => onMem (fun m => { m with tiles := memStore (tileKey (awAddr w)) bs m.tiles }) s

/-! ## Events and rings (R83 to R86) -/

/-- n of an event ring: LOG2_M6 + 6 (Table 3.21). -/
def evqLog (r : Ring) : Nat := bitsOf r.ctl 5 2 + 6
/-- n of a telemetry ring (Table 19.5). -/
def telLog (r : Ring) : Nat := bitsOf r.ctl 4 1 + 6
/-- ENABLE of a ring. -/
def ringOn (r : Ring) : Bool := bitOf r.ctl 0

/-- A ring with its pointers at 0 and nothing dropped: its state after an enable or a reset (R57, R83). -/
def ringZero (r : Ring) : Ring :=
  { r with tail := ptr 0, head := ptr 0, next := ptr 0, drops := 0, firstDrop := 0, lastDrop := 0, lastPop := 0x10000,
           data := 0, notified := false }

/-- Writes of a kind that are still on their way no longer move the pointers of a ring that has been reset (R57). -/
def forgetWrites (k : WKind) (s : State) : State :=
  onHpt (fun h => { h with outq := h.outq.map (fun w => if w.kind == k then { w with kind := .output } else w) }) s

/-- Some pointer of a ring has copies that disagree (R56). -/
def ringBroken (r : Ring) : Bool := !(ptrOk r.tail && ptrOk r.head && ptrOk r.next)

/-- The interrupt of an event ring that goes from empty to non-empty (R317). -/
def notifyEvq (i : Nat) (s : State) : State :=
  let r := getEvq s i
  if bitOf r.ctl 8 && !r.notified then
    onOut (fun o => { o with interrupts := (bitsOf r.ctl 31 16, awPath r.base) :: o.interrupts })
      (modEvq i (fun r => { r with notified := true }) s)
  else s

/-- An entry of event ring i is visible: CFE_EVQ_TAIL advances (R314), and the interrupt goes out (R317). -/
def evqVisible (i : Nat) (s : State) : State :=
  let r := getEvq s i
  let n := evqLog r
  notifyEvq i (modEvq i (fun r => { r with tail := ptrStep n r.tail }) s)

/-- Writes an entry into the next slot of event ring i, with the PHASE of the pass (R83). -/
def evqWrite (i entry : Nat) (s : State) : State :=
  let r := getEvq s i
  let n := evqLog r
  let bytes := leBytes 32 (setBits entry 20 20 (phaseOf n r.next.val))
  let a := r.base + 32 * (r.next.val % 2 ^ n)
  let s := modEvq i (fun r => { r with next := ptrStep n r.next }) s
  if awSpace r.base = 0 then postWrite (awPath a) (awAddr a) bytes none (.event i) s
  else evqVisible i (storeAw a bytes none s)

/-- DETAIL of a gap marker (R85): the drops and the folios of the first and the last. -/
def gapDetail (r : Ring) : Nat :=
  satTo (2 ^ 32 - 1) r.drops + (r.firstDrop % 2 ^ 48) <<< 32 + (r.lastDrop % 2 ^ 48) <<< 80

/-- Writes the gap marker of event ring i, when events were dropped and a slot is free (R85). -/
def evqGap (i : Nat) (s : State) : State :=
  let r := getEvq s i
  if ringOn r && decide (0 < r.drops) && !ringFull (evqLog r) r.next.val r.head.val then
    let e := setBit (eventEntry evCfeEvqGap i (satTo 65535 r.drops) (folio s) (gapDetail r)) 17 true
    evqWrite i e (modEvq i (fun r => { r with drops := 0, firstDrop := 0, lastDrop := 0 }) s)
  else s

/-- Counts a dropped event (R85). -/
def evqDrop (i : Nat) (s : State) : State :=
  onCfe (fun c => { c with dropped := c.dropped + 1 })
    (modEvq i (fun r => { r with
      firstDrop := if r.drops = 0 then folio s else r.firstDrop, lastDrop := folio s,
      drops := r.drops + 1, totalDrops := r.totalDrops + 1 }) s)

/-- A session of the Owner or Service role is open (R381). -/
def garwaListener (s : State) : Bool := s.msc.sessions.any (fun p => p.2 == .owner || p.2 == .service)

/-- Sends an entry as a Garwa EVENT to every Owner or Service session (R381). -/
def garwaSend (entry : Nat) (s : State) : State :=
  if garwaListener s then onOut (fun o => { o with garwaEvents := entry :: o.garwaEvents }) s else s

/-- ALERT is set (R443). -/
def setAlert (s : State) : State := onMsc (fun m => { m with alert := true }) s

/-- Counts an occurrence of a cause in MSC_ERR_COUNTS, a U64 at 8(c − 1) (R425). -/
def countCause (c : Nat) (s : State) : State :=
  let v := odGet s odMscErrCounts
  let lo := 64 * (c - 1)
  odSet odMscErrCounts (setBits v (lo + 63) lo (satTo (2 ^ 64 - 1) (bitsOf v (lo + 63) lo + 1))) s

/-- The error of cause 6 of an event ring (kind 2) or a telemetry ring (kind 3): it ends no task, so its handling ends as the
ring is reset. It fills the primary record, or counts as unrecorded (R429, Table 17.6). -/
def ringResetErr (kind i : Nat) (s : State) : State :=
  let r : ErrRec := { valid := true, cause := 6, detected := 2, level := 2, event := evCfeQueueReset.num,
                      subsys := evCfeQueueReset.sub, source := i, status := stQueueReset, dKind := 10, endFolio := folio s,
                      folio := folio s, dVal := i + kind <<< 16, detail := kind }
  onMsc (fun m =>
    if m.primary.valid then { m with unrecorded := satTo (2 ^ 32 - 1) (m.unrecorded + 1) } else { m with primary := r })
    (countCause 6 s)

/-- The ring reset of R57 for an event ring: pointers 0, and CFE_QUEUE_RESET as entry 0. DETAIL holds the ring's kind
(2 for an event ring, log 12) and no aborted task; on ring 0 it also goes out as a Garwa EVENT (R84). -/
def evqReset (i : Nat) (s : State) : State :=
  let e := eventEntry evCfeQueueReset i 0 (folio s) 2
  let s := evqWrite i e (modEvq i ringZero (forgetWrites (.event i) (ringResetErr 2 i s)))
  if i = 0 then garwaSend e s else s

/-- The use of a pointer of event ring i compares its copies (R56): a ring whose pointers disagree is reset first. -/
def evqCheck (i : Nat) (s : State) : State :=
  if ringOn (getEvq s i) && ringBroken (getEvq s i) then evqReset i s else s

/-- The write of an entry of event ring i is acknowledged: its copies compared, CFE_EVQ_TAIL advances. A ring that the
comparison resets has lost the entry. -/
def evqAcked (i : Nat) (s : State) : State :=
  if ringOn (getEvq s i) && ringBroken (getEvq s i) then evqReset i s else evqVisible i s

/-- Posts an entry to event ring i: nothing on a disabled ring, a count on a full one (R83, R85), and a Garwa EVENT
for SEVERITY 2 or 3 on ring 0 (R84). -/
def postEntry (i entry : Nat) (s : State) : State :=
  let s := evqGap i (evqCheck i s)
  let r := getEvq s i
  if !ringOn r then s
  else if ringFull (evqLog r) r.next.val r.head.val then evqDrop i s
  else
    let s := evqWrite i entry s
    if i = 0 && decide (2 ≤ bitsOf entry 19 18) then garwaSend entry s else s

/-- Posts an event to event ring i (R83, R84). -/
def postEvent (i : Nat) (e : EvKind) (source count detail : Nat) (s : State) : State :=
  let s := if e.sev = 3 then setAlert s else s
  let entry := eventEntry e source count (folio s) detail
  if e.sub = 13 && s.msc.restarting then onMsc (fun m => { m with held := m.held ++ [(i, entry)] }) s
  else postEntry i entry s

/-- Posts an engine-wide event (03, section Event and telemetry rings). -/
def post0 (e : EvKind) (source detail : Nat) (s : State) : State := postEvent 0 e source 0 detail s

/-- EVQ of a queue (Table 3.4). -/
def qEvq (s : State) (q : Nat) : Nat := bitsOf (getQ s q).ctl 13 8

/-- Posts an event about a queue to its event ring. -/
def postQ (q : Nat) (e : EvKind) (detail : Nat) (s : State) : State := postEvent (qEvq s q) e q 0 detail s

/-! ## Queues -/

/-- n of a queue: RING_LOG2_M4 + 4 (Table 3.4). -/
def qLog (q : Queue) : Nat := bitsOf q.ctl 7 4 + 4
/-- ENABLE of a queue. -/
def qOn (q : Queue) : Bool := bitOf q.ctl 0
/-- HOST_BOUND of a queue: either ring lies in host memory, which the model takes as package memory on the coherent
path (Table 3.4, log 13). -/
def qHostBound (q : Queue) : Bool := awCoherent q.ringBase || awCoherent q.cplBase
/-- The tasks of a queue that have no visible record (INFLIGHT, Table 3.5). -/
def qTasks (s : State) (q : Nat) : List Task := s.cfe.tasks.filter (fun k => k.queue == q)
/-- The tasks of a queue that have written no record yet. -/
def qOpen (s : State) (q : Nat) : List Task := (qTasks s q).filter (fun k => k.phase != .recorded)

end Sys2Proof.Machine
end

