-- ==== Sys2Proof/Machine/Flags.lean ====
section
/-! DEFINITION. The status flags of a task, and the completion record (Tables 3.18 and 3.19). -/

namespace Sys2Proof.Machine

/-- Folios from the fetch folio to the due folio, by LAT (R366). -/
def dueAfter (lat : Nat) : Nat := if lat = 0 then 1 else if lat = 1 then 2 else 8

/-- The due folio of a task (R366). -/
def dueFolio (k : Task) : Nat := k.fetchFolio + dueAfter (dLat k.desc)

/-- A task whose finish point is its record's issue (Table 14.3, last row). -/
def finishAtRecord (d : Desc) : Bool :=
  let op := dOp d
  op == opNop || op == opFence || op == opSync || op == opCtl || op == opGOpen || op == opSprout

/-- The folio of a task's finish point, with its record issued in folio now. -/
def finishedIn (k : Task) (now : Nat) : Nat := k.finishFolio.getD now

/-- FOLIO_OVERRUN: finished in a later folio than it was admitted to (R367). A task never admitted has none. -/
def overran (k : Task) (now : Nat) : Bool := decide (k.admitFolio ≠ 0) && decide (k.admitFolio < finishedIn k now)

/-- The flags of a task whose record is written in folio now (R82). -/
def statusFlags (k : Task) (now : Nat) : Nat :=
  (if k.defaults = 0 then 0 else stOkDefaults) + (if k.bagLong then stBagLong else 0) +
  (if overran k now then stFolioOverrun else 0) + (if k.sats = 0 then 0 else stSaturated) +
  (if dueFolio k < now then stLate else 0)

/-- STATUS of a task whose record is written in folio now (R82). -/
def taskStatus (k : Task) (now : Nat) : Nat :=
  match k.err with
  | some e => e
  | none => statusFlags k now

/-- An UPDATE, or a ROW_WRITE that is known to go through the Ledger: a task that has RELEASED (R201). -/
def hasReleased (k : Task) : Bool :=
  dOp k.desc == opUpdate || (dOp k.desc == opRowWrite && sdTrain k.shard0)

/-- DETAIL_VALUE: 0 without an error, and with RELEASED in bit 63 where the task has it (R80, R201). -/
def detailValue (k : Task) : Nat :=
  if k.err.isNone then 0 else setBit k.dVal 63 (hasReleased k && k.released)

/-- A count of a record saturates at 1,048,575 (R80). -/
def recCount (n : Nat) : Nat := satTo (2 ^ 20 - 1) n

/-- The completion record of a task as one 256-bit number, in folio now and with the PHASE of its pass (Table 3.18). -/
def recordOf (k : Task) (now phase : Nat) : Nat :=
  dTag k.desc + (taskStatus k now) <<< 32 + (dOp k.desc) <<< 48 + phase <<< 56 + (now % 2 ^ 48) <<< 64 +
  (k.queue % 512) <<< 112 + (recCount k.defaults) <<< 128 + (recCount k.sats) <<< 148 + (recCount k.escapes) <<< 168 +
  ((if k.err.isNone then 0 else k.dKind) % 16) <<< 188 + (detailValue k % 2 ^ 64) <<< 192

end Sys2Proof.Machine
end

