-- ==== Sys2Proof/Machine/Tasks.lean ====
section
/-! DEFINITION. The life of a task after its fetch: its finish point, its end with an error (R19, R117), the closing of
accumulation groups without a GROUP_CLOSE (R144), and the reset of a command queue or a handle queue (R57). -/

namespace Sys2Proof.Machine

/-! ## Finish and stall -/

/-- A queue that a SYNC_OP or FENCE has stalled goes on (R60). -/
def unstallQueue (r : Queue) : Queue :=
  { r with state := if r.state = .waiting then .active else r.state,
           before := if r.before = .waiting then .active else r.before }

/-- A queue that a SYNC_OP or FENCE stalls is WAITING (R60). -/
def stallQueue (r : Queue) : Queue :=
  { r with state := if r.state = .active then .waiting else r.state,
           before := if r.state = .paused ∧ r.before = .active then .waiting else r.before }

/-- The record of a task past its finish point in folio now (Table 14.3). -/
def finishedTask (now : Nat) (k : Task) : Task :=
  { k with phase := .finished, waiting := false, waitLeft := none,
           finishFolio := if finishAtRecord k.desc then none else some (k.finishFolio.getD now) }

/-- A task passes its finish point; a queue that it stalled goes on. -/
def finishTask (t : Nat) (s : State) : State :=
  match getTask s t with
  | none => s
  | some k => modQ k.queue unstallQueue (modTask t (finishedTask (folio s)) s)

/-- A task stalls its queue (R76, R77). -/
def stallTask (t : Nat) (s : State) : State :=
  match getTask s t with
  | none => s
  | some k => modQ k.queue stallQueue (modTask t (fun k => { k with phase := .stalled }) s)

/-- The tasks fetched earlier from a task's queue that have written no record yet (R76, R77). -/
def earlierOpen (s : State) (k : Task) : Bool :=
  (qOpen s k.queue).any (fun j => decide (j.id < k.id))

/-- A task that has ended or finished. -/
def isOver (k : Task) : Bool := k.phase == .finished || k.phase == .recorded

/-- The subsystems that the work of an opcode needs (R407). -/
def opUnits (op : Nat) : List Nat :=
  if op == opCtl || op == opReloc then [1]
  else if op == opLookup then [1, 2, 3, 6, 8]
  else if op == opFold then [1, 2, 3, 6, 7, 8]
  else if op == opUpdate then [1, 2, 3, 9]
  else if op == opRowWrite then [1, 3, 8]
  else if op == opGOpen || op == opTRead || op == opTWrite || op == opZero then [3, 6]
  else if op == opGClose then [3, 6, 8]
  else if op == opSprout then [3]
  else [0]

/-- Every subsystem of a list has its clock (R407). -/
def unitsOn (s : State) (us : List Nat) : Bool := us.all (fun u => !gated s u)

/-- The task t, if it is admitted or stalled, carries an opcode, and no subsystem that its work needs is gated. -/
def liveTask (s : State) (t op : Nat) : Option Task :=
  match getTask s t with
  | some k => if dOp k.desc == op && (k.phase == .admitted || k.phase == .stalled) && unitsOn s (opUnits op) then some k else none
  | none => none

/-! ## The end of a task with an error -/

/-- A handle of a task is set to ABORTED (R19). -/
def abortHandle (t : Nat) (h : Handle) : Handle := if h.task = t then { h with st := .aborted } else h

/-- A handle queue with a task's handles aborted. -/
def abortHq (t : Nat) (q : HQueue) : HQueue := { q with items := q.items.map (abortHandle t) }

/-- A row latch of a task is flagged aborted; it still steps (R187, R192). -/
def abortLatch (t : Nat) (l : Latch) : Latch := if l.task = t then { l with aborted := true } else l

/-- A half that a task was loading is emptied (R192). -/
def abortHalf (t : Nat) (h : Half) : Half :=
  if h.loading.contains t then { tag := none, loading := h.loading.filter (· != t), w := [] } else h

/-- The Pool Unit has taken the OPEN handle of a bag from its queue. -/
def bagTaken (p : Pod) (b : Bag) : Bool := !p.hq0.items.any (fun h => h.task == b.task && h.bag == b.bag)

/-- A bag that the Pool Unit holds when its task ends: all that is left of it is the handle that it passes on as ABORTED,
with its carrels (R19). -/
def emptiedBag (b : Bag) : Bag :=
  { b with tree := 0, window := [], parked := [], leaves := [], pooled := 0, stack := [], lin := none, acc := none }

/-- A bag of a task that has ended: one whose handle still waits for the Pool Unit, or one of an UPDATE, goes. -/
def abortBag (t : Nat) (p : Pod) (b : Bag) : Option Bag :=
  if b.task ≠ t then some b else if b.carrels = 0 ∨ !bagTaken p b then none else some (emptiedBag b)

/-- A handle holds a carrel. -/
def handleHolds (c : Nat) (h : Handle) : Bool := decide (h.carrel ≤ c) && decide (c < h.carrel + h.carrels)

/-- A carrel of a task that has ended stays held until the consumer of an ABORTED handle frees it (R16). -/
def abortHolds (t : Nat) (p : Pod) (c : Nat) : Bool :=
  (p.hq0.items ++ p.hq1.items).any (fun h => h.task == t && handleHolds c h) ||
  p.bags.any (fun b => b.task == t && decide (b.carrel ≤ c) && decide (c < b.carrel + b.carrels))

/-- What a Pod holds of a task when the task ends (R19, R117): its handles become ABORTED, its bags stop, its reads
that have not issued are dropped, its windows and combine sets are discarded, its Sorter and park entries free, and the
halves that it was loading are emptied (R192). -/
def abortOnPod (t : Nat) (p : Pod) : Pod :=
  { p with
    bags := p.bags.filterMap (abortBag t p),
    hq0 := abortHq t p.hq0, hq1 := abortHq t p.hq1, hq2 := abortHq t p.hq2,
    reads := p.reads.filter (fun r => r.task != t || r.issued),
    uwin := p.uwin.filter (fun u => u.1 != t),
    combIn := p.combIn.filter (fun u => u.1 != t),
    comb := p.comb.filter (fun u => u.1 != t),
    carrels := p.carrels.filter (fun c => c.2 != t || abortHolds t p c.1),
    flu := { p.flu with h0 := abortHalf t p.flu.h0, h1 := abortHalf t p.flu.h1,
                        shadow := p.flu.shadow.map (abortLatch t), active := p.flu.active.map (abortLatch t) } }

/-- The record of a task that ends with an error: what it had pending is discarded (R201). -/
def endedTask (now st kind val : Nat) (k : Task) : Task :=
  { k with err := some st, dKind := kind, dVal := val, phase := .finished, waiting := false, waitLeft := none,
           finishFolio := some (k.finishFolio.getD now),
           grads := [], pendingParcels := [], resids := if k.released then k.resids else [] }

/-- A task that can still end with an error: its record is not issued, and no error has ended it (R117, R428). -/
def canEnd (k : Task) : Bool := k.phase != .recorded && k.err.isNone

/-- A task ends with an error, apart from what its end does to its group. -/
def endTaskCore (t st kind val : Nat) (s : State) : State :=
  match getTask s t with
  | none => s
  | some k =>
    if canEnd k then
      let s := modTask t (endedTask (folio s) st kind val) s
      let s := onPods (fun ps => ps.map (fun p => (p.1, abortOnPod t p.2))) s
      let s := onCat (fun c => { c with pend := c.pend.filter (fun w => w.task != some t) }) s
      modQ k.queue unstallQueue s
    else s

/-! ## Groups (R140 to R144) -/

/-- The groups of a Pod that are open: no GROUP_CLOSE of theirs has been admitted (R141). -/
def openGroups (p : Pod) : List Group := p.groups.filter (fun g => g.closer.isNone)

/-- The open group g of Pod p. -/
def getGroup (s : State) (p g : Nat) : Option Group := (openGroups (getPod s p)).find? (fun x => x.g == g)

/-- The groups of Pod p that own a tile of a run (kind, first, count). -/
def owners (s : State) (p kind first count : Nat) : List Group :=
  (openGroups (getPod s p)).filter (fun g => g.kind == kind && overlaps first count g.first g.count)

/-- A carrel is named by no group, open or closing (R140, R141). -/
def carrelUnclaimed (p : Pod) (c : Nat) : Bool :=
  !p.groups.any (fun g => g.kind == 0 && decide (g.first ≤ c) && decide (c < g.first + g.count))

/-- PLU_GROUP_DROPPED, on event ring 0 and on the ring of the queue that opened the group (R147). -/
def groupDropEvent (p : Nat) (g : Group) (status : Nat) (s : State) : State :=
  let d := g.g + g.queue <<< 16 + status <<< 32
  let s := postEvent 0 evPluGroupDropped p 0 d s
  if qEvq s g.queue = 0 then s else postEvent (qEvq s g.queue) evPluGroupDropped p 0 d s

/-- Whether a member of a group that closes without a GROUP_CLOSE ends with NO_GROUP: a task with bags to add, or an
operation admitted after the task that closed the group (R144). -/
def endsWithGroup (after : Nat) (k : Task) : Bool :=
  k.phase == .admitted && (dIsLookup k.desc || decide (after < k.seq))

/-- A group closes without a GROUP_CLOSE (R144): it writes nothing, its tiles are released as they stand, its tasks
that cannot go on end with NO_GROUP, and PLU_GROUP_DROPPED is raised. -/
def dropGroup (p : Nat) (g : Group) (after status : Nat) (s : State) : State :=
  let s := modPod p (fun q => { q with groups := q.groups.filter (fun x => x != g) }) s
  let ends := g.tasks.filter (fun t => (getTask s t).any (endsWithGroup after))
  groupDropEvent p g status (forEach (fun t s => endTaskCore t stNoGroup 0 0 s) ends s)

/-- The statuses of a task that close its group (R144). -/
def closesGroup (st : Nat) : Bool :=
  [stAbortedFault, stAddressFault, stPodLost, stDestLost, stHostEpoch, stQueueReset, stBudgetAbort].contains st

/-- The groups, with their Pods, that hold task t. -/
def groupsOf (s : State) (t : Nat) : List (Nat × Group) :=
  podNums.flatMap (fun p => ((getPod s p).groups.filter (fun g => g.tasks.contains t)).map (fun g => (p, g)))

/-- A task ends with an error (R19, R144, R201). -/
def endTask (t st kind val : Nat) (s : State) : State :=
  match getTask s t with
  | none => s
  | some k =>
    if canEnd k then
      let gs := groupsOf s t
      let s := endTaskCore t st kind val s
      if closesGroup st then forEach (fun g s => dropGroup g.1 g.2 k.seq st s) gs s else s
    else s

/-- Every group that a queue opened closes (R144). Every operation of the group that has been admitted ends with NO_GROUP,
a TILE_READ, TILE_WRITE, ZERO or GROUP_CLOSE too: the rule names those admitted after a task that ends, and the close of a
queue or the loss of a Pod comes before all of them (log 98). -/
def dropQueueGroups (q : Nat) (s : State) : State :=
  let gs := podNums.flatMap (fun p => ((getPod s p).groups.filter (fun g => g.queue == q)).map (fun g => (p, g)))
  forEach (fun g s => dropGroup g.1 g.2 0 0 s) gs s

/-- Every group on a Pod closes: its Pod is lost (R144). -/
def dropPodGroups (p : Nat) (s : State) : State :=
  forEach (fun g s => dropGroup p g 0 stPodLost s) (getPod s p).groups s

/-! ## Addresses of errors (Table 17.6) -/

/-- An error that ends a task: STATUS, DETAIL_KIND, DETAIL_VALUE. -/
structure Flt where
  st : Nat
  kind : Nat := 0
  val : Nat := 0
  deriving DecidableEq, Repr

/-- ADDRESS_FAULT at an address word. -/
def addrFlt (w : Nat) : Flt := ⟨stAddressFault, 2, awAddr w + (awSpace w) <<< 59 + (awPath w) <<< 61⟩
/-- ABORTED_FAULT at a GDDR7 atom of an engine. -/
def memFlt (engine a : Nat) : Flt := ⟨stAbortedFault, 3, a % 2 ^ 37 / 64 * 64 + (engine % 1024) <<< 37⟩
/-- ABORTED_FAULT at a row (R40, R44). -/
def rowFlt (idx pos : Nat) : Flt := ⟨stAbortedFault, 1, idx % 2 ^ 20 + (pos % 2 ^ 40) <<< 20⟩
/-- ABORTED_FAULT of a pinned read without a copy (R240). -/
def pinFlt (idx e : Nat) : Flt := ⟨stAbortedFault, 5, idx % 2 ^ 20 + (e % 2 ^ 16) <<< 20⟩
/-- The containment detail of a lost Pod, or of an engine-level handling. -/
def containVal (s : State) (level cause : Nat) : Nat := level + cause <<< 3 + (folio s) <<< 11

/-- The first atom of a range that cannot be read. -/
def firstBadAtom (s : State) (a n : Nat) : Nat :=
  64 * ((atomsOf a n).find? (fun x => gddrBad s (64 * x) 64)).getD (a / 64)

/-- What an access of n bytes at an address word ends its task with (R117). -/
def accessFlt (s : State) (w n : Nat) : Option Flt :=
  match accessFault s w n with
  | none => none
  | some st =>
    some (if st = stAddressFault then addrFlt w
      else if st = stAbortedFault then memFlt s.sfp.engineId (firstBadAtom s (awAddr w) n)
      else if st = stDestLost then ⟨st, 12, awPath w⟩
      else if st = stPodLost then ⟨st, 9, containVal s 3 10⟩
      else ⟨st, 0, 0⟩)

/-! ## Ring resets (R57) -/

/-- The records of queue q that are still on their way move no pointer of it any more: the aborted records are written
from slot 0 (Table 3.1). -/
def oldRecords (q : Nat) (s : State) : State :=
  onHpt (fun h => { h with outq := h.outq.map (fun w => if w.kind == .record q then { w with kind := .oldRecord } else w) }) s

/-- A command queue reset by a mismatch (Table 3.1): its tasks without a record end with QUEUE_RESET, its pointers
are 0, it is HALTED, and its groups close. CFE_QUEUE_RESET follows the last aborted record. A task of a group that is
live in the queue ends before the group closes, so that the group closes with the task's status (log 97). -/
def resetQueue (q : Nat) (s : State) : State :=
  let ts := (qOpen s q).filter (fun k => k.err.isNone)
  let s := forEach (fun k s => endTask k.id stQueueReset 10 q s) ts s
  let s := modQ q (fun r => { r with tail := 0, head := ptr 0, cplTail := ptr 0, cplHead := 0, cplNext := ptr 0,
                                     state := .halted, resetDue := some ts.length }) (oldRecords q s)
  dropQueueGroups q s

/-- DETAIL of CFE_QUEUE_RESET: the kind of ring in [1:0] and the tasks aborted in [63:32] (log 12). -/
def resetDetail (kind n : Nat) : Nat := kind + (n % 2 ^ 32) <<< 32

/-- CFE_QUEUE_RESET of a command queue, once the last aborted record is written (Table 3.1). -/
def resetNotice (q : Nat) (s : State) : State :=
  match (getQ s q).resetDue with
  | none => s
  | some n =>
    if (qTasks s q).isEmpty then
      postQ q evCfeQueueReset (resetDetail 0 n) (modQ q (fun r => { r with resetDue := none }) s)
    else s

/-- Pointers of a command queue that disagree (R56). -/
def queueBroken (r : Queue) : Bool := !(ptrOk r.head && ptrOk r.cplTail && ptrOk r.cplNext)

/-- A queue that is DRAINING reads DISABLED once its fetched tasks have written their records (R60). Its groups close
(R144). -/
def drainDone (q : Nat) (s : State) : State :=
  if (getQ s q).state = .draining ∧ (qTasks s q).isEmpty then
    dropQueueGroups q (modQ q (fun r => { r with state := .disabled }) s)
  else s

end Sys2Proof.Machine
end

