-- ==== Sys2Proof/Machine/Recovery.lean ====
section
/-! DEFINITION. Errors and containment as shared operations (16, 17): the reset of a Pod, of the engine and at
power-on, the preserved region, the handlings and the two error records, and the end of a task by a fault. -/

namespace Sys2Proof.Machine

/-! ## Resets (Table 16.9) -/

/-- The object dictionary values that an engine reset returns to their defaults: counters since reset (R449), and
readings that the reset clears. -/
def odAfterReset (od : List (Nat × Nat)) : List (Nat × Nat) :=
  let cleared := [odIxuHeatTop, odIxuHeatEstimate, odFsuAlignErr, odFsuTickActive, odMssThrottleState, odSfpPortState,
    odGauArbState, odCatReplicas, odQntExportMaxabs, odMssUsable, odMssDensity, odMssTemp]
  od.filter (fun e => !(cleared.contains e.1 || (odFind e.1).any (fun x => x.count == .engine)))

/-- The object dictionary values that survive power-on: those of RWS entries (R450), and MSS_GENERATION's store. -/
def odAfterPowerOn (od : List (Nat × Nat)) : List (Nat × Nat) :=
  od.filter (fun e => (odFind e.1).any (fun x => x.acc == .rws))

/-- A Pod in reset (R420): its stages empty, its slice invalid and its halves empty. -/
def podInReset (p : Pod) : Pod := { retired := p.retired, resets := p.resets }

/-- The state of the Fold halves and everything else on every Pod after an engine reset. -/
def podsInReset (ps : List (Nat × Pod)) : List (Nat × Pod) := ps.map (fun p => (p.1, podInReset p.2))

/-- The directory that the copy after a descriptor array holds (R51). -/
def dirCopy (s : State) (base : Nat) : List (Nat × BitVec 128) :=
  let b := base + 2 ^ 26
  let ts := ((s.mem.gddr.filter (fun c => decide (b ≤ c.1) && decide (c.1 < b + 2 ^ 20))).map (fun c => (c.1 - b) / 16)).eraseDups
  ts.foldl (fun d t => tabPut t (BitVec.ofNat 128 (leNat (memLoad s.mem.gddr (b + 16 * t) 16))) d) []

/-- The entries of a replica directory at an address, n of them at most, up to the empty one (R247; log 94). -/
def repdirFrom (s : State) (a : Nat) : Nat → List (Nat × Nat × Nat)
  | 0 => []
  | n + 1 =>
    let v := leNat (memLoad s.mem.gddr a 16)
    if bitOf v 127 then (bitsOf v 15 0, bitsOf v 55 16, bitsOf v 73 64) :: repdirFrom s (a + 16) n else []

/-- The Catalogue after an engine reset: the table directory and the replica directory come back from GDDR7 (R51, R247), the
descriptor cache, the replicas and what was waiting are gone, and the bases written before take effect (R55, R243, R257). -/
def catAfterReset (s : State) : Cat :=
  { s.cat with
    dir := dirCopy s (odGet s odCatDescBase), cache := [], misses := [], pend := [], invals := [], replicas := [], heard := [], circ := [],
    repdir := repdirFrom s (odGet s odCatRepdirBase) 65536, copyWait := [], owed := [],
    descBase := odGet s odCatDescBase, fwdBase := odGet s odCatFwdBase, repdirBase := odGet s odCatRepdirBase,
    circBase := odGet s odCatCircBase }

/-- The Ledger after an engine reset: what lies in the Ledger region and the retention ring stays (R222), and a region
moved under R225 starts empty. -/
def upuAfterReset (s : State) : Upu :=
  let moved := odGet s odUpuLedgerBase ≠ s.upu.ledgerBase || odGet s odUpuRetainBase ≠ s.upu.retainBase ||
    odGet s odUpuRetainSize ≠ s.upu.retainSize || odGet s odUpuInboxBase ≠ s.upu.inboxBase ||
    odGet s odUpuInboxSize ≠ s.upu.inboxSize || odGet s odUpuHostlogBase ≠ s.upu.hostlogBase
  let remapped := s.mss.chanMap != odGet s odMssChanMap && odGet s odSfpTwinState != 1
  let kept : Upu := if moved then {} else
    { s.upu with inbox := [], rowIn := [], waiting := [], applying := none, fault := none, wasFull := false, journalled := 0,
                 journal := s.upu.journal.map (fun j => { j with upTo := 0, told := false }), recovering := false }
  { kept with
    fresh := s.upu.fresh || remapped, ledgerBase := odGet s odUpuLedgerBase, retainBase := odGet s odUpuRetainBase,
    retainSize := odGet s odUpuRetainSize, inboxBase := odGet s odUpuInboxBase,
    inboxSize := odGet s odUpuInboxSize, hostlogBase := odGet s odUpuHostlogBase }

/-- Engine reset invalidates every way: INV_DONE is set and INV_BUSY is clear in every partition entry (R275). -/
def partsReset (s : State) : State :=
  forEach (fun k s => odSet (odStkPart + k) (setBits (odGet s (odStkPart + k)) 33 32 2) s) (List.range 8) s

/-- The retired ways that STK_RETIRED holds, by die (R278). -/
def retiredInForce (s : State) : List (Nat × Nat) :=
  (List.range 18).filterMap (fun d =>
    let m := bitsOf (odGet s odStkRetired) (16 * d + 15) (16 * d)
    if m = 0 then none else some (d, m))

/-- Whether a channel trains is open anew at the reset: the pin rate changes, its bit in MSS_CHAN_MAP is set again, or it has
gone down (R282, R283, R292; log 7). -/
def trainsAnew (s : State) (ch : Nat) : Bool :=
  s.mss.pinRate != odGet s odMssPinRate || (bitOf (odGet s odMssChanMap) ch && !bitOf s.mss.chanMap ch) || (getChan s ch).down

/-- A channel in engine reset: whether it trains at the end of it is a free value where that is open, and else as it was. -/
def chanInReset (s : State) (ch : Nat) : Nat × Chan :=
  let c := getChan s ch
  (ch, { density := c.density, ues := c.ues, retrains := c.retrains,
         failed := if trainsAnew s ch then bitOf (freeNow s).toNat ch else c.failed })

/-- The channels in engine reset. -/
def chansInReset (s : State) : List (Nat × Chan) := (List.range 24).map (chanInReset s)

/-- The engine in reset (R415): every die but the VDD_AUX domain. The MSC, the object dictionary, the folio number,
MSS_GENERATION and GDDR7 stay. Scratch, carrels and Fold tiles are not cleared (R300, R397; log 104). -/
def engineReset (s : State) : State :=
  let s := partsReset s
  let tags := odGet s odMssTags == 1 || confidential s
  let due := s.mss.overwriteDue || s.mss.overwriting || s.mss.chanMap != odGet s odMssChanMap || s.mss.tags != tags
  { s with
    cfe := {}, cat := catAfterReset s, pods := podsInReset s.pods,
    gau := { free := s.gau.free + 1, statsBase := odGet s odQntStatsBase, window := odGet s odQntWindow, resid := s.gau.resid },
    stk := { retired := retiredInForce s, lastWays := s.stk.lastWays },
    mss := { s.mss with chans := chansInReset s,
                        retrainQ := [], retraining := none, overwriting := false, overwriteDue := due,
                        selfRefresh := true,
                        chanMap := odGet s odMssChanMap, pinRate := odGet s odMssPinRate, scrub := 0,
                        atomsRead := 0, atomsWritten := 0, writeq := [] },
    upu := upuAfterReset s,
    hpt := { unmapped := s.hpt.unmapped, preservedSeq := s.hpt.preservedSeq, epoch := s.hpt.epoch,
             accelLost := s.hpt.accelLost },
    sfp := { engineId := odGet s odSfpEngineId, collId := odGet s odSfpCollId, partner := odGet s odSfpTwinPartner,
             keys := s.sfp.keys, sending := s.sfp.sending, copyNext := s.sfp.copyNext, epoch := s.sfp.epoch, mapEpoch := s.sfp.mapEpoch, markFolio := s.sfp.markFolio },
    fsu := { folio := s.fsu.folio },
    msc := { s.msc with flushing := false, images := [], latched := [] },
    cru := { run := .reset, rstN := s.cru.rstN, pwrgd := s.cru.pwrgd, podKhz := odGet s odCruPodKhz,
             hubKhz := odGet s odCruHubKhz, fabKhz := odGet s odCruFabKhz, pin := s.cru.pin, iin := s.cru.iin,
             pressure := s.cru.pressure, below := s.cru.below, target := s.cru.target, input := s.cru.input,
             vin := s.cru.vin, vinHist := s.cru.vinHist, folioPin := s.cru.folioPin, window := s.cru.window,
             mean := s.cru.mean, limited := s.cru.limited, heldWrites := s.cru.heldWrites },
    od := odAfterReset s.od }

/-- The logical Pod that stands in for Pod p: itself, or the next one that is up, in ascending order with wrap
(R440). -/
def standIn (s : State) (p : Nat) : Nat :=
  let a := activePods s
  ((a.filter (p ≤ ·)) ++ a.filter (· < p)).headD p

/-- Cells whose address, divided by a power of two, is not n. -/
def cellsBut (bits n : Nat) (m : List Host.Cell) : List Host.Cell := m.filter (fun c => c.1 >>> bits != n)

/-- A Pod reset of logical Pod p, from any cause (R421), apart from the tasks it ends: the pinned positions in its
slice go to the home tier (R273), its scratch, carrels and Fold tiles hold nothing that was there (R192, R420), and its link
is down until the die leaves reset. -/
def podClear (p : Nat) (s : State) : State :=
  let d := dieOf s p
  let s := onMem (fun m => { m with scratch := cellsBut 24 p m.scratch, tiles := cellsBut 21 p m.tiles }) s
  let s := onStk (fun k => { k with pinned := k.pinned.map (fun c =>
    { c with rows := c.rows.filter (fun r => standIn s (r.1 % 16) != p) }) }) s
  let s := modPod p podInReset s
  onCru (fun c => { c with d2d := tabDrop d c.d2d, d2dTries := tabDrop d c.d2dTries }) s

/-- The physical dies that can be mapped in as spares. -/
def spareDies (s : State) : List Nat :=
  (List.range 18).filter (fun d => s.msc.podMap.getD d 0xFF == 0xFF && !s.msc.retiredDies.contains d)

/-- The MSC begins to map the next spare in for Pod p, unless one is being mapped (R441). -/
def mapNextSpare (p : Nat) (s : State) : State :=
  match s.msc.sparing, spareDies s with
  | none, d :: _ => onCru (fun c => { c with d2d := tabPut d .training c.d2d, d2dTries := tabDrop d c.d2dTries })
      (onMsc (fun m => { m with sparing := some (d, p, false) }) s)
  | _, _ => s

/-- With MSC_AUTO_SPARE, a spare is mapped in for Pod p. -/
def autoSpare (p : Nat) (s : State) : State := if odGet s odMscAutoSpare = 1 then mapNextSpare p s else s

/-- The tasks with a bag or a handle on a Pod (R421): those with a bag dealt to it that has not passed export. -/
def tasksOnPod (s : State) (p : Nat) : List Nat :=
  (s.cfe.tasks.filter (fun k => k.phase == .admitted && k.err.isNone &&
    k.deals.any (fun x => x.pod == p && !x.passedX))).map (·.id)

/-- GAU_STREAM_FAULT of a task on a Pod (R117, Table 4.9), on its queue's event ring, and the count of R117. -/
def streamFaultEvent (t p kind st : Nat) (s : State) : State :=
  match getTask s t with
  | none => s
  | some k =>
    onGau (fun g => { g with faults := g.faults + 1 })
      (postEvent (qEvq s k.queue) evGauStreamFault p 0
        (dTag k.desc + k.queue <<< 32 + kind <<< 44 + st <<< 48) s)

/-- A task still to end meets a fault of R117 in stream kind `kind` on Pod p: it ends, and GAU_STREAM_FAULT is raised. -/
def endByFault (t p kind : Nat) (f : Flt) (s : State) : State :=
  match getTask s t with
  | none => s
  | some k =>
    if canEnd k then streamFaultEvent t p kind f.st (endTask t f.st f.kind f.val s) else s

/-- FLU_WLOAD_FAULT: on event ring 0, and on the queue's where it is another (Table 7.5). -/
def wloadFault (k : Task) (pod delivered : Nat) (scale : Bool) (s : State) : State :=
  let d := dTag k.desc + dBufHalf k.desc <<< 32 + (delivered / 128 % 2 ^ 24) <<< 33 + bit scale <<< 57
  let s := post0 evFluWloadFault pod d s
  if qEvq s k.queue = 0 then s else postEvent (qEvq s k.queue) evFluWloadFault pod 0 d s

/-- The weight load of task t, if it runs on Pod p, is lost with the Pod (R192): FLU_WLOAD_FAULT is raised. How many of the
tensor's bytes it had delivered by then the spec does not say (log 98). -/
def loadLost (t p : Nat) (s : State) : State :=
  match getTask s t with
  | none => s
  | some k =>
    let load (q : Pod) : Bool := q.flu.h0.loading.contains t || q.flu.h1.loading.contains t
    let lead := podNums.find? (fun q => k.deals.any (fun x => x.pod == q))
    if lead == some p && podNums.any (fun q => load (getPod s q)) then
      let n := (freeNow s).toNat % (sdDim k.shard0 * (dFoldN k.desc * dWBits k.desc / 8) + 1)
      wloadFault k p n false (odCount odFluWloadBytes n (drawn s))
    else s

/-! ## Handlings end (last column of Table 17.2) -/

/-- The handling's END_FOLIO goes into the records that it fills. -/
def closeRecords (h : Handling) (s : State) : State :=
  let now := folio s
  onMsc (fun m => { m with
    primary := if h.primary then { m.primary with endFolio := now } else m.primary,
    secondary := if h.secondary then { m.secondary with endFolio := now } else m.secondary }) s

/-- Closes the handlings that a test selects (last column of Table 17.2). -/
def closeHandlings (f : Handling → Bool) (s : State) : State :=
  let done := s.msc.open_.filter f
  let s := onMsc (fun m => { m with open_ := m.open_.filter (fun h => !f h) }) s
  forEach closeRecords done s

/-- Pod p has joined, or is retired: the handlings at Pod level that wait for it end, that of cause 11 once a spare has been
mapped in or none remains. -/
def podHandlingsOver (p : Nat) (s : State) : State :=
  let back := !(getPod s p).retired
  let noSpare := (spareDies s).isEmpty && !s.msc.sparing.any (fun x => x.2.1 == p)
  closeHandlings (fun h => h.level == 3 && h.pod == some p && (back || h.cause != 11 || noSpare)) s

/-- RECEIVED entries of the restart are still to be applied or abandoned (R222). -/
def ledgerRecovering (s : State) : Bool :=
  s.upu.journal.any (fun j => j.st == .received && decide (j.intake < s.upu.recoverTo))

/-- Every Pod link is up, or its Pod is retired. -/
def podsSettled (s : State) : Bool := podNums.all (fun p => let q := getPod s p; !q.inReset || q.retired)

/-- The recovery that began when the engine left reset ends (R431), and with it the handlings at engine level, once no entry
is left to recover and every Pod is up or retired. -/
def leaveRecovery (s : State) : State :=
  if s.upu.recovering && s.cru.run == .ready && !s.msc.flushing && !ledgerRecovering s && podsSettled s then
    closeHandlings (fun h => h.level == 4) (onUpu (fun u => { u with recovering := false }) s)
  else s

/-- The die of Pod p, or a spare for it, has left its reset. -/
def podLeftReset (s : State) (p : Nat) : Bool :=
  tabGet (dieOf s p) .down s.cru.d2d != .down || s.msc.sparing.any (fun x => x.2.1 == p)

/-- The engine is in recovery (R431). -/
def inRecovery (s : State) : Bool :=
  s.upu.recovering || s.msc.open_.any (fun h => h.level == 3 && h.pod.any (podLeftReset s))

/-! ## Pods that reset or retire (R421, R439 to R441) -/

/-- Logical Pod p is retired with its die (R440): MSC_RETIRED is raised, and a spare may take its place. -/
def retirePod (p : Nat) (s : State) : State :=
  let d := dieOf s p
  if 18 ≤ d then s
  else
    let s := modPod p (fun q => { q with retired := true, up := false, inReset := true, retiring := false, resets := [] }) s
    let s := onMsc (fun m => { m with podMap := m.podMap.set d 0xFF, retiredDies := m.retiredDies ++ [d] }) s
    podHandlingsOver p (autoSpare p (post0 evMscRetired 2 p s))

/-- A reset of Pod p counts toward MSC_POD_RESET_LIMIT, which retires it when the limit is reached within
MSC_RETIRE_WINDOW folios of the first one counted (R439). -/
def countPodReset (p : Nat) (s : State) : State :=
  let now := folio s
  let w := odGet s odMscRetireWindow
  let s := modPod p (fun q => { q with resets := q.resets.filter (fun f => decide (now < f + w)) ++ [now] }) s
  if odGet s odMscPodResetLimit ≤ (getPod s p).resets.length then retirePod p s else s

/-- Pod p resets: its tasks end with POD_LOST, its groups close, CRU_POD_RESET counts and is raised (R420, R421).
A weight load that it was running faults first (R192). cause is 1 CRU_POD_RESET, 2 PLL unlock, 3 VDD_POD fault. A reset that a handling of an error makes has its cause code in
contain: it counts for R439, and the tasks' detail names the containment. -/
def podResetCore (p cause : Nat) (contain : Option Nat) (s : State) : State :=
  let lost : Flt := match contain with
    | some c => ⟨stPodLost, 9, containVal s 3 c⟩
    | none => ⟨stPodLost, 0, 0⟩
  let ts := tasksOnPod s p
  let s := forEach (fun t s => loadLost t p s) ts s
  let s := forEach (fun t s => endByFault t p 0 lost s) ts s
  let s := dropPodGroups p s
  let s := podClear p s
  let s := odCount odCruPodResets 1 s
  let s := postEvent 0 ⟨14, 4, if cause = 1 then 1 else 2⟩ p 0 cause s
  if contain.isSome then countPodReset p s else s

/-! ## The preserved region (R322, Table 12.5) -/

/-- The number of STATE (Table 3.5). -/
def qStateNum : QState → Nat
  | .disabled => 0 | .active => 1 | .waiting => 2 | .paused => 3 | .draining => 4 | .halted => 5

/-- The 96 bytes of an error record as a number (Table 17.3). -/
def errNum (r : ErrRec) : Nat :=
  if r.valid then
    1 + (r.cause % 256) <<< 370 + (r.detected % 8) <<< 378 + (r.level % 8) <<< 381 + (r.event % 4096) <<< 384 +
    (r.subsys % 16) <<< 396 + (r.source % 65536) <<< 400 + (r.status % 65536) <<< 416 + (r.dKind % 16) <<< 432 +
    (r.queue % 512) <<< 439 + (r.tag % 2 ^ 32) <<< 448 + (r.endFolio % 2 ^ 48) <<< 480 + (r.folio % 2 ^ 48) <<< 528 +
    (r.dVal % 2 ^ 64) <<< 576 + (r.detail % 2 ^ 128) <<< 640
  else 0

/-- Queue record q of the preserved region. -/
def preservedQueue (s : State) (reset : Nat → Bool) (q : Nat) : List Byte :=
  let r := getQ s q
  leBytes 4 r.head.val ++ leBytes 4 r.tail ++ leBytes 4 r.cplTail.val ++ leBytes 4 r.cplHead ++ leBytes 4 r.lastTag ++
  leBytes 4 (qTasks s q).length ++ leBytes 1 (qStateNum r.state) ++ leBytes 1 (bit (qHostBound r) + 2 * bit (reset q)) ++
  leBytes 6 0

/-- Event ring record i of the preserved region. -/
def preservedRing (s : State) (i : Nat) : List Byte :=
  let r := getEvq s i
  leBytes 4 r.head.val ++ leBytes 4 r.tail.val ++ leBytes 8 r.totalDrops

/-- The preserved region but for CHECK. -/
def preservedBytes (s : State) (reason after discarded ended : Nat) (reset : Nat → Bool) : List Byte :=
  sliceBytes 0 0x7FFC
    (leBytes 8 0x31565352_50524B4A ++
     leBytes 2 1 ++ leBytes 2 s.sfp.engineId ++ leBytes 2 (odGet s odIdStepping) ++ leBytes 2 reason ++
     leBytes 8 (s.hpt.preservedSeq + 1) ++ leBytes 4 s.hpt.epoch ++ leBytes 4 after ++
     leBytes 8 (folio s) ++ leBytes 8 (if reason = 1 then s.hpt.downFolio else 0) ++
     leBytes 8 discarded ++ leBytes 8 ended ++
     leBytes 96 (errNum s.msc.primary) ++ leBytes 96 (errNum s.msc.secondary) ++
     (List.range 512).flatMap (preservedQueue s reset) ++ (List.range 64).flatMap (preservedRing s))

/-- The HPT writes the preserved region and raises HPT_PRESERVED_WRITTEN, where HPT_PRESERVED_ADDR names one. -/
def writePreserved (reason after discarded ended : Nat) (reset : Nat → Bool) (s : State) : State :=
  let a := odGet s odHptPreservedAddr
  if a = 0 then s
  else
    let body := preservedBytes s reason after discarded ended reset
    let all := body ++ leBytes 4 (Config.crc32 body).toNat
    let s := onMem (fun m => { m with host := memStore a all m.host }) s
    let s := onHpt (fun h => { h with preservedSeq := h.preservedSeq + 1, bytesWritten := h.bytesWritten + 0x8000 }) s
    post0 evHptPreservedWritten 0 (s.hpt.preservedSeq + reason <<< 64) s

/-! ## Handlings (R426 to R429) -/

/-- What is known of an error when it is detected. -/
structure ErrInfo where
  cause : Nat
  level : Nat
  /-- The tasks it ends. -/
  tasks : List Nat := []
  /-- The Pod on which it was detected; none for the hub. -/
  pod : Option Nat := none
  ev : EvKind := ⟨0, 0, 0⟩
  source : Nat := 0
  detail : Nat := 0
  st : Nat := 0
  dKind : Nat := 0
  dVal : Nat := 0
  /-- The shard that the handling copies again (R437). -/
  recopy : Option Nat := none
  deriving DecidableEq, Repr

/-- Two domains overlap (R428): a handling at engine level or above covers everything; a Pod's covers the Pod and the
tasks on it; a task's covers its tasks. -/
def domainOverlaps (e : ErrInfo) (h : Handling) : Bool :=
  decide (4 ≤ h.level) || decide (4 ≤ e.level) || e.tasks.any (h.tasks.contains ·) ||
  (decide (3 ≤ h.level) && e.pod.isSome && e.pod == h.pod) || (decide (3 ≤ e.level) && e.pod.isSome && e.pod == h.pod)

/-- The highest open level (Table 17.4). -/
def openLevel (s : State) : Nat := s.msc.open_.foldl (fun m h => max m h.level) 0

/-- The tasks that a handling at a level ends, with their status and detail: those of its error at task level, those on its
Pod at Pod level, every one above (R426, R428). -/
def endedAt (s : State) (e : ErrInfo) (lvl : Nat) : List Nat × Nat × Nat × Nat :=
  let live (ts : List Nat) : List Nat := ts.filter (fun t => (getTask s t).any canEnd)
  if 4 ≤ lvl then ((s.cfe.tasks.filter canEnd).map (·.id), stAbortedFault, 9, containVal s lvl e.cause)
  else if lvl = 3 then (live ((e.pod.map (tasksOnPod s)).getD []), stPodLost, 9, containVal s 3 e.cause)
  else (live e.tasks, e.st, e.dKind, e.dVal)

/-- The record of an error (Table 17.3). The first task it ended gives TAG and QUEUE. -/
def errRecord (s : State) (e : ErrInfo) (lvl : Nat) : ErrRec :=
  let x := endedAt s e lvl
  let k := (x.1.head?).bind (getTask s)
  { valid := true, cause := e.cause, detected := e.level, level := lvl, event := e.ev.num, subsys := e.ev.sub,
    source := e.source, status := x.2.1, dKind := x.2.2.1, queue := (k.map (·.queue)).getD 0,
    tag := (k.map (fun k => dTag k.desc)).getD 0, folio := folio s, dVal := x.2.2.2, detail := e.detail }

/-- The level at which an error is handled, and the Pod of the handling (R428). -/
def escalated (s : State) (e : ErrInfo) : Nat × Bool :=
  let met := s.msc.open_.filter (domainOverlaps e)
  if met.isEmpty then (e.level, false)
  else
    let top := met.foldl (fun m h => max m h.level) e.level
    let up := min 5 (top + 1)
    (if up = 3 ∧ e.pod.isNone then 4 else up, true)

/-- Enters an error in the records and opens, or escalates, its handling (R428, R429). -/
def openHandling (e : ErrInfo) (lvl : Nat) (nested : Bool) (s : State) : State :=
  let rec_ := errRecord s e lvl
  let toPrimary := !s.msc.primary.valid
  let toSecondary := !toPrimary && nested && !s.msc.secondary.valid
  let met := if nested then s.msc.open_.filter (domainOverlaps e) else []
  let rest := if nested then s.msc.open_.filter (fun h => !domainOverlaps e h) else s.msc.open_
  let h : Handling :=
    { level := lvl, cause := e.cause, tasks := e.tasks.filter (fun t => (getTask s t).isSome) ++ met.flatMap (·.tasks),
      pod := if e.pod.isSome then e.pod else (met.filterMap (·.pod)).head?,
      detected := e.level, nested := nested, dVal := rec_.dVal,
      primary := toPrimary || met.any (·.primary), secondary := toSecondary || met.any (·.secondary) }
  onMsc (fun m => { m with
    open_ := rest ++ [h],
    primary := if toPrimary then rec_ else m.primary,
    secondary := if toSecondary then rec_ else m.secondary,
    unrecorded := if toPrimary || toSecondary then m.unrecorded else satTo (2 ^ 32 - 1) (m.unrecorded + 1) }) s

/-- MSC_CONTAINED (R447): DETAIL [2:0] LEVEL, [5:3] DETECTED_LEVEL, [8] nested, [9] and [31:12] a recopy's shard. -/
def containedEvent (cause detected lvl : Nat) (nested : Bool) (recopy : Option Nat) (dVal : Nat) (s : State) : State :=
  let d := lvl + detected <<< 3 + (bit nested) <<< 8 +
    (match recopy with | none => 0 | some i => 2 ^ 9 + (i % 2 ^ 20) <<< 12) + (dVal % 2 ^ 64) <<< 64
  postEvent 0 ⟨13, 7, if 4 ≤ lvl then 3 else 2⟩ cause 0 d s

/-- The handlings at task level that wait for no task close. Causes 7 and 8 end with their repair instead. -/
def closeEmptied (s : State) : State :=
  closeHandlings (fun h => h.level == 2 && h.tasks.isEmpty && h.cause != 7 && h.cause != 8) s

/-- Task t has written its record: it leaves the handlings of task level, and those that have ended every task close. -/
def handlingTaskDone (t : Nat) (s : State) : State :=
  closeEmptied (onMsc (fun m => { m with open_ := m.open_.map (fun h => { h with tasks := h.tasks.filter (· != t) }) }) s)

/-- Steps 1 and 2 of R430 begin: fetch and admission stop, and every fetched task that has no record yet gets one with
ABORTED_FAULT and DETAIL_KIND 9, or keeps the error that ended it (R428). -/
def beginContainment (lvl cause : Nat) (s : State) : State :=
  let ts := (s.cfe.tasks.filter canEnd).map (·.id)
  let v := containVal s lvl cause
  let s := forEach (fun t s => endTask t stAbortedFault 9 v s) ts s
  onMsc (fun m => { m with flushing := true, packageHeld := m.packageHeld || decide (5 ≤ lvl),
                           hubLost := m.hubLost || cause == 18 }) s

/-- A detected error at task level or above (R425 to R429): it is counted and recorded, and it opens a handling, or
escalates the one it is nested in; an escalation to Pod level resets the Pod, and one to engine or package level
begins containment. The tasks that a handling at task level ends are left to the caller, which ends those that have not
ended by then; a handling that ends no task is over at once. -/
def raiseErr (e : ErrInfo) (s : State) : State :=
  let x := escalated s e
  let lvl := x.1
  let dVal := (endedAt s e lvl).2.2.2
  let s := openHandling e lvl x.2 (countCause e.cause s)
  let s := if lvl = 3 ∨ (e.cause = 8 ∧ lvl < 4) then containedEvent e.cause e.level lvl x.2 e.recopy dVal s else s
  let s := if lvl = 3 ∧ e.level < 3 then
      (match e.pod with | some p => podResetCore p 1 (some e.cause) s | none => s) else s
  if 4 ≤ lvl then beginContainment lvl e.cause s else closeEmptied s

/-! ## Faults of tasks (R117) -/

/-- The cause code of an error that ends a task by itself (Table 17.2): none for what a lost Pod, a lost die or a
reboot ends, for a bag or pin detail, and for a status that is no fault of R117. -/
def faultCause (f : Flt) : Option Nat :=
  if f.st = stAddressFault then some 4
  else if f.st = stTwinMismatch then some 8
  else if f.st = stAbortedFault then
    (if f.kind = 1 ∨ f.kind = 3 ∨ f.kind = 7 then some 3 else if f.kind = 4 then some 5 else none)
  else none

/-- A fault of R117, with its event; a bag, pin, retention or seal detail and the other statuses raise none. -/
def isStreamFault (f : Flt) : Bool :=
  f.st == stAddressFault || f.st == stPodLost || f.st == stDestLost || f.st == stHostEpoch ||
  (f.st == stAbortedFault && (f.kind == 1 || f.kind == 3 || f.kind == 4))

/-- Task t meets its first fault, in a stream of a kind on Pod p (R117): it ends, GAU_STREAM_FAULT is raised where
R117 raises it, and the error is handled at its level. -/
def taskFault (t p kind : Nat) (f : Flt) (s : State) : State :=
  match getTask s t with
  | none => s
  | some k =>
    if canEnd k then
      let s := match faultCause f with
        | none => s
        | some c =>
          raiseErr { cause := c, level := 2, tasks := [t], pod := some p, ev := evGauStreamFault, source := p,
                     detail := dTag k.desc + k.queue <<< 32 + kind <<< 44 + f.st <<< 48, st := f.st, dKind := f.kind,
                     dVal := f.val } s
      if isStreamFault f then endByFault t p kind f s else endTask t f.st f.kind f.val s
    else s

/-- The Pod named with a task's faults: the home Pod of its first bag, or Pod 0 (log 15). -/
def faultPod (k : Task) : Nat := ((k.deals.head?).map (·.pod)).getD 0

/-- A command queue whose pointers disagree is reset, and the error of cause 6 handled (R57). -/
def queueMismatch (q : Nat) (s : State) : State :=
  let ts := ((qOpen s q).filter (fun k => k.err.isNone)).map (·.id)
  resetQueue q (raiseErr { cause := 6, level := 2, tasks := ts, ev := evCfeQueueReset, source := q,
                           detail := resetDetail 0 ts.length, st := stQueueReset, dKind := 10, dVal := q } s)

/-- A handle queue of Pod p whose pointers disagree (R57): every task with a handle in it ends with QUEUE_RESET, the
queue is emptied, and CFE_QUEUE_RESET goes to event ring 0. -/
def handleQueueMismatch (p : Nat) (items : List Handle) (empty : Pod → Pod) (s : State) : State :=
  let ts := (items.map (·.task)).eraseDups
  let v := p + 1 <<< 16
  let s := raiseErr { cause := 6, level := 2, tasks := ts, pod := some p, ev := evCfeQueueReset, source := p,
                      detail := resetDetail 1 ts.length, st := stQueueReset, dKind := 10, dVal := v } s
  let s := forEach (fun t s => endTask t stQueueReset 10 v s) ts s
  post0 evCfeQueueReset p (resetDetail 1 ts.length) (modPod p empty s)

/-- A queue whose ring can no longer be fetched is HALTED with CFE_FETCH_FAULT (R63); its groups close (R144). -/
def haltQueue (q : Nat) (s : State) : State :=
  dropQueueGroups q (postQ q evCfeFetchFault 0 (modQ q (fun r => { r with state := .halted }) s))

end Sys2Proof.Machine
end

