-- ==== Sys2Proof/Machine/Catalogue.lean ====
section
/-! DEFINITION. The Catalogue (02): the table directory, the array of shard descriptors and its cache, and the checks
of R47, R48, R51 and R461 that TABLE_CTL applies. -/

namespace Sys2Proof.Machine

/-! ## The descriptor array and its cache (R52, R54) -/

/-- Where descriptor i lies in GDDR7. -/
def descAddr (s : State) (i : Nat) : Nat := s.cat.descBase + 64 * i

/-- The copy of descriptor i in the cache. -/
def cached (s : State) (i : Nat) : Option (BitVec 512) := (s.cat.cache.find? (fun c => c.1 == i)).map (·.2)

/-- Descriptor i, as the engine holds it. -/
def descAt (s : State) (i : Nat) : BitVec 512 :=
  match cached s i with
  | some d => d
  | none => BitVec.ofNat 512 (leNat (gddrLoad s (descAddr s i) 64))

/-- Replaces descriptor i: 64 bytes in GDDR7, and a cached copy in place (R54). -/
def setDesc (i : Nat) (d : BitVec 512) (s : State) : State :=
  let s := gddrStore (descAddr s i) (leBytes 64 d.toNat) s
  onCat (fun c => { c with cache := c.cache.map (fun e => if e.1 = i then (i, d) else e) }) s

/-- Puts a descriptor into a cache of 4,096 sets of 16 ways as the most recently used of its set, in place of the
least recently used one where the set is full (R52). -/
def cachePut (i : Nat) (d : BitVec 512) (c : List (Nat × BitVec 512)) : List (Nat × BitVec 512) :=
  let c := c.filter (fun e => e.1 != i)
  let set := c.filter (fun e => e.1 % 4096 == i % 4096)
  let c := if set.length < 16 then c else
    (match set.head? with
     | none => c
     | some v => c.filter (fun e => e.1 != v.1))
  c ++ [(i, d)]

/-- Descriptor i enters the cache from GDDR7 (R52, R53). -/
def cacheLoad (i : Nat) (s : State) : State :=
  let d := BitVec.ofNat 512 (leNat (gddrLoad s (descAddr s i) 64))
  onCat (fun c => { c with cache := cachePut i d c.cache }) s

/-- A lookup that hits: the entry becomes the most recently used of its set, and CAT_HITS counts. -/
def cacheHit (i : Nat) (d : BitVec 512) (s : State) : State :=
  odCount odCatHits 1 (onCat (fun c => { c with cache := cachePut i d c.cache }) s)

/-- A lookup that misses (R52): it merges into a miss under way, opens one of the 512, or waits for one to free. -/
def cacheMiss (i : Nat) (s : State) : State :=
  if s.cat.misses.contains i then s
  else if s.cat.misses.length < 512 then
    odCount odCatMisses 1 (onCat (fun c => { c with misses := c.misses ++ [i] }) s)
  else odCount odCatMissWaits 1 s

/-- Work of one command asks for descriptor i (R52): it hits, or it misses and the entry enters the cache within the command. -/
def useDesc (i : Nat) (s : State) : State :=
  match cached s i with
  | some d => cacheHit i d s
  | none => cacheLoad i (odCount odCatMisses 1 s)

/-! ## The table directory (R51) -/

/-- The directory entry of a table. -/
def dirAt (s : State) (t : Nat) : BitVec 128 := tabGet t 0 s.cat.dir

/-- Replaces a directory entry, on the hub and in its copy after the descriptor array. -/
def setDir (t : Nat) (e : BitVec 128) (s : State) : State :=
  let s := onCat (fun c => { c with dir := if e = 0 then tabDrop t c.dir else tabPut t e c.dir }) s
  gddrStore (s.cat.descBase + 2 ^ 26 + 16 * t) (leBytes 16 e.toNat) s

/-- The descriptor index of shard n of a table (R25). -/
def shardIndex (e : BitVec 128) (n : Nat) : Nat := deFirst e + n
/-- The shard of a row (R25). -/
def shardOf (e : BitVec 128) (row : Nat) : Nat := row >>> deShift e
/-- The position of a row in its shard (R25). -/
def posOf (e : BitVec 128) (row : Nat) : Nat := row % 2 ^ deShift e
/-- The rows of shard n (R25). -/
def shardRows (e : BitVec 128) (n : Nat) : Nat := min (2 ^ deShift e) (deRows e - n * 2 ^ deShift e)
/-- The row at a position of shard n. -/
def rowOf (e : BitVec 128) (n pos : Nat) : Nat := n * 2 ^ deShift e + pos

/-- The descriptor of shard 0 of a table. -/
def shard0Of (s : State) (t : Nat) : BitVec 512 := descAt s (deFirst (dirAt s t))

/-- A descriptor index lies in the range of a valid entry. -/
def inRange (e : BitVec 128) (i : Nat) : Bool :=
  deValid e && decide (deFirst e ≤ i) && decide (i < deFirst e + deShards e)

/-- The shards of a table that exist under an entry: the descriptors in its range that carry its Table ID (R51). -/
def tableShards (s : State) (t : Nat) (e : BitVec 128) : List Nat :=
  if deValid e then
    ((List.range (deShards e)).map (deFirst e + ·)).filter (fun i => sdTable (descAt s i) == t)
  else []

/-- The number of the first n descriptors that can be other than all zeros: only those are looked at one by one. -/
def liveDescs (s : State) : List Nat :=
  let lo := s.cat.descBase
  (((s.mem.gddr.filter (fun c => decide (lo ≤ c.1) && decide (c.1 < lo + 2 ^ 26))).map (fun c => (c.1 - lo) / 64)).eraseDups)

/-! ## Checks of a descriptor (R47, R461) -/

/-- ROW_FMT, DEFAULT_MODE and HOME_TIER are not reserved. -/
def fmtOk (d : BitVec 512) : Bool := decide (sdFmt d ≤ 10) && decide (sdDefault d ≠ 3) && decide (sdTier d < 2)
/-- ESC (R39, Table 2.2). -/
def escOk (d : BitVec 512) : Bool := !sdEsc d || (fmtMayEsc (sdFmt d) && !sdRot d)
/-- ROT (Table 2.2). -/
def rotOk (d : BitVec 512) : Bool := !sdRot d || (fmtMayRot (sdFmt d) && sdDim d % sdBlock d == 0)
/-- CB_GROUPS_LOG2. -/
def cbOk (d : BitVec 512) : Bool :=
  if fmtIsCb (sdFmt d) then decide (sdCbLog d ≤ 6) && sdDim d / 8 % 2 ^ sdCbLog d == 0 else sdCbLog d == 0
/-- STRIDE and BASE (R42). -/
def strideOk (d : BitVec 512) : Bool :=
  let st := 32 * sdStride d
  if sdShelved d then st == rowS d
  else decide (rowS d ≤ st) && (st == 32 || st == 64 || st % 128 == 0) && 32 * sdBase d % 128 == 0
/-- Every reserved bit of Table 2.7 is 0. -/
def sdReservedOk (d : BitVec 512) : Bool :=
  [(511, 486), (335, 333), (319, 319), (295, 242), (191, 178), (127, 112), (63, 46)].all
    (fun r => bitsOf d.toNat r.1 r.2 == 0)

/-- The rules of R47 that a descriptor's own fields meet or break. -/
def descFieldsOk (d : BitVec 512) : Bool :=
  fmtOk d && escOk d && rotOk d && cbOk d && strideOk d && sdReservedOk d

/-- The rules of R47 about a descriptor's place in its table. -/
def descPlaceOk (s : State) (t i : Nat) (d : BitVec 512) : Bool :=
  let e := dirAt s t
  deValid e && sdTable d == t && decide (sdShard d < deShards e) && i == shardIndex e (sdShard d)

/-- The peer shards of descriptor i of a table (R461). A descriptor of all zeros is never one. -/
def peers (s : State) (t i : Nat) : List (BitVec 512) :=
  let e := dirAt s t
  ((liveDescs s).filter (fun j => inRange e j && j != i)).filterMap (fun j =>
    let d := descAt s j
    if sdTable d == t && deFirst e + sdShard d == j && descFieldsOk d && sdState d != 0 then some d else none)

/-- A descriptor's table-level fields agree with those of every peer (R461). -/
def peersAgree (s : State) (t i : Nat) (d : BitVec 512) : Bool :=
  (peers s t i).all (fun p => sdTableLevel p == sdTableLevel d)

/-- What R48 keeps while a shard is not OFFLINE: fields [335:296], HOME_ENGINE, HOME_TIER and BASE. -/
def heldFields (d : BitVec 512) : Nat × Nat × Nat :=
  (bitsOf d.toNat 335 296, bitsOf d.toNat 43 32, sdBase d)

/-- A WRITE_DESC of descriptor i with new fields may be applied (R47, R48, R461). A shard that is REPLACING or
RELOCATING changes by its sequence only. -/
def writeDescOk (s : State) (t i : Nat) (d : BitVec 512) : Bool :=
  let old := descAt s i
  let mine := sdTable old == t && sdShard old == sdShard d
  descFieldsOk d && decide (sdState d < 2) && descPlaceOk s t i d &&
  (sdState d != 1 || peersAgree s t i d) &&
  (!mine || sdState old == 0 || (sdState old == 1 && heldFields old == heldFields d))

/-- A descriptor as WRITE_DESC stores it: the fields that the engine maintains stay as they were (R46). -/
def withHeld (old d : BitVec 512) : BitVec 512 :=
  let mine := sdTable old == sdTable d && sdShard old == sdShard d
  let keep (hi lo : Nat) (d : BitVec 512) : BitVec 512 :=
    sdSet d hi lo (if mine then bitsOf old.toNat hi lo else 0)
  keep 241 192 (keep 111 96 (keep 95 64 d))

/-- A SET_STATE of descriptor i may be applied (R48, R72, R461, Table 9.1). -/
def setStateOk (s : State) (t i st : Nat) : Bool :=
  let d := descAt s i
  decide (st < 2) && inRange (dirAt s t) i && sdTable d == t && decide (sdState d < 2) &&
  (st == 0 || (descFieldsOk d && descPlaceOk s t i d && peersAgree s t i d))

/-- A READ_DESC of descriptor i may be done (R72). -/
def readDescOk (s : State) (t i : Nat) : Bool := inRange (dirAt s t) i && sdTable (descAt s i) == t

/-- Two descriptor ranges of valid entries overlap. -/
def rangesMeet (a b : BitVec 128) : Bool :=
  deValid a && deValid b && overlaps (deFirst a) (deShards a) (deFirst b) (deShards b)

/-- Some shard of a table is not OFFLINE. -/
def tableInService (s : State) (t : Nat) : Bool :=
  let e := dirAt s t
  (liveDescs s).any (fun i => inRange e i && sdTable (descAt s i) == t && sdState (descAt s i) != 0)

/-- The shard count that ROW_TOTAL and SHARD_SHIFT need. -/
def shardsNeeded (e : BitVec 128) : Nat := cdiv (deRows e) (2 ^ deShift e)

/-- A WRITE_DIR of an entry of table t may be applied (R51). -/
def writeDirOk (s : State) (t : Nat) (e : BitVec 128) : Bool :=
  let old := dirAt s t
  bitsOf e.toNat 95 84 == 0 &&
  (!deValid e ||
    (decide (deFirst e + deShards e ≤ 2 ^ 20) && decide (deShift e ≤ 40) && deShards e == shardsNeeded e &&
      !s.cat.dir.any (fun x => x.1 != t && rangesMeet x.2 e))) &&
  (!tableInService s t ||
    (deValid e && bitsOf e.toNat 127 1 == bitsOf old.toNat 127 1))

/-! ## Rows of this engine's shards -/

/-- The address of the row, or of the shelfmark, of a position under a base (R26, R27), in the home tier. -/
def rowAddr (d : BitVec 512) (base pos : Nat) : Nat :=
  32 * base + pos * (if sdShelved d then 8 else 32 * sdStride d)

/-- Bytes of a tier of this engine: 0 GDDR7, 1 host DRAM. -/
def tierLoad (s : State) (tier a n : Nat) : List Byte :=
  if tier = 0 then gddrLoad s a n else hostView s a n

/-- What a read of a tier ends its task with (R291, R305, R323). -/
def tierFlt (s : State) (tier a n : Nat) : Option Flt :=
  accessFlt s (if tier = 0 then a % 2 ^ 57 + 2 ^ 60 else a % 2 ^ 57) n

/-- The shelfmark of a position of a shelved shard. -/
def shelfmark (s : State) (d : BitVec 512) (pos : Nat) : Nat :=
  leNat (tierLoad s (sdTier d) (rowAddr d (sdBase d) pos) 8)

/-- The address of the row of a position, and its tier: none for an absent row. -/
def rowPlace (s : State) (d : BitVec 512) (pos : Nat) : Option (Nat × Nat) :=
  if sdShelved d then
    let m := shelfmark s d pos
    if smTier m < 2 then some (smTier m, 32 * smLoc m) else none
  else some (sdTier d, rowAddr d (sdBase d) pos)

/-- The address of the side list of a row (R39). -/
def sideAddr (d : BitVec 512) (slot : Nat) : Nat := 32 * sdEscBase d + slot * slotSize d

/-- The codebook set or the signs of a shard, from the reading engine's GDDR7 (R38, R165). -/
def auxBytes (s : State) (d : BitVec 512) : List Byte :=
  if fmtIsCb (sdFmt d) then gddrLoad s (32 * sdAux d) (cbSize d)
  else if sdRot d then gddrLoad s (32 * sdAux d) (sdDim d / 8)
  else []

/-- The statistics entry of a shard (R170). -/
def statsAddr (s : State) (i : Nat) : Nat := s.gau.statsBase + 16 * i

end Sys2Proof.Machine
end

