-- ==== Sys2Proof/Machine/Cells.lean ====
section
/-! DEFINITION. What the engine sends over Ifeop (13): transfers, control messages with their sequence, and which
engines can be reached. The wire outside the engine is not part of the model. -/

namespace Sys2Proof.Machine

/-- The cells of a transfer of n payload bytes (R330). -/
def cellsFor (n : Nat) : Nat := max 1 (cdiv n 224)

/-- The cell types of Table 13.3. -/
def ctReadReq : Nat := 1
/-- READ_RSP. -/
def ctReadRsp : Nat := 2
/-- PARCEL. -/
def ctParcel : Nat := 3
/-- PARCEL_ACK. -/
def ctParcelAck : Nat := 4
/-- SYNC. -/
def ctSync : Nat := 5
/-- COPY. -/
def ctCopy : Nat := 6
/-- INVAL. -/
def ctInval : Nat := 7
/-- INVAL_ACK. -/
def ctInvalAck : Nat := 8
/-- CONTROL. -/
def ctControl : Nat := 9
/-- LINK. -/
def ctLink : Nat := 14
/-- MARKER. -/
def ctMarker : Nat := 15

/-- The engine that cells for an engine go to: a lost twin's partner takes its place (R348). -/
def cellDst (s : State) (dst : Nat) : Nat := tabGet dst dst s.sfp.redirect

/-- The cells counted so far against the cell sequence of an engine and the sending slot (R342). -/
def cseqUsed (s : State) (dst : Nat) : Nat :=
  match s.sfp.sending with
  | none => 0
  | some k => tabGet (dst * 4 + k) 0 s.sfp.cseq

/-- Counts a sent transfer's cells against the cell sequence of its destination and sending slot, and raises
SFP_KEY_WEAR as the count reaches 2^47 (R342). -/
def countCells (dst n : Nat) (s : State) : State :=
  match s.sfp.sending with
  | none => s
  | some k =>
    let old := cseqUsed s dst
    let s := onSfp (fun f => { f with cseq := tabPut (dst * 4 + k) (old + n) f.cseq }) s
    if old < 2 ^ 47 ∧ 2 ^ 47 ≤ old + n then post0 evSfpKeyWear dst (k + (old + n) <<< 16) s else s

/-- An engine is a member of this engine's Collection (SFP_MEMBERS, R351); Collection 0 is none (R337). -/
def isMember (s : State) (e : Nat) : Bool := decide (e < 1024) && bitOf (odGet s odSfpMembers) e && s.sfp.collId != 0

/-- The ports that SFP_ROUTE gives an engine (R351). -/
def routePorts (s : State) (e : Nat) : Nat := odByte s odSfpRoute e

/-- A port's byte of SFP_PORT_STATE (Table 13.8): 0 down, 1 training, 2 up at 16 lanes, 3 up at 8 lanes. -/
def portState (s : State) (k : Nat) : Nat := odByte s odSfpPortState k

/-- A port is up. -/
def portUp (s : State) (k : Nat) : Bool := decide (2 ≤ portState s k)

/-- The ports of an engine's route that are up. -/
def upPorts (s : State) (e : Nat) : List Nat := (List.range 8).filter (fun k => bitOf (routePorts s e) k && portUp s k)

/-- Some port of an engine's route is up. -/
def linked (s : State) (e : Nat) : Bool := !(upPorts s e).isEmpty

/-- A member of the Collection can be reached. -/
def reachable (s : State) (e : Nat) : Bool := isMember s e && linked s e

/-- The port of part i of a transfer to an engine: one of the ports up in its mask, by the hash (R334). -/
def portFor (s : State) (dst xid i : Nat) : Option Nat :=
  (upPorts s dst)[Config.portHash dst xid i % (upPorts s dst).length]?

/-- A cell takes the next number of its port and stays in the replay buffer (R331); one without a usable port is not sent
(R334). -/
def laneCell (dst xid i : Nat) (s : State) : State :=
  match portFor s dst xid i with
  | none => s
  | some k => modPort k (fun p => { p with
      txNum := (p.txNum + 1) % 65536, replay := p.replay ++ [{ num := p.txNum, dst := dst, xid := xid, part := i }],
      sinceLink := p.sinceLink + 1 }) s

/-- Each cell of a transfer goes to its port. -/
def laneCells (dst xid n : Nat) (s : State) : State := forEach (fun i s => laneCell dst xid i s) (List.range n) s

/-- The port of a one-cell request to an engine has a credit of VC 0 (R332, R333). -/
def credited (s : State) (dst xid : Nat) : Bool :=
  (portFor s dst xid 0).all (fun k => decide ((getPort s k).vc0 < (getPort s k).credits.getD 0 0))

/-- A request has used a credit of VC 0. -/
def useCredit (c : SentCell) (s : State) : State :=
  if c.type = ctReadReq then
    (match portFor s c.dst c.xid 0 with
     | none => s
     | some k => modPort k (fun p => { p with vc0 := p.vc0 + 1 }) s)
  else s

/-- A transfer goes out, under the slot in use and the next cell sequence of its destination (R341, R342). Nothing goes out
under a slot whose cell sequence toward the destination is used up. -/
def transmit (c : SentCell) (s : State) : State :=
  let n := cellsFor c.len
  if 2 ^ 48 ≤ cseqUsed s c.dst + n then s
  else
    let c := { c with cseq := cseqUsed s c.dst + 1, slot := s.sfp.sending }
    let s := useCredit c (laneCells c.dst c.xid n (countCells c.dst n s))
    onSfp (fun f => { f with cellsSent := f.cellsSent + n, sentCells := c :: f.sentCells }) s

/-- Sends a transfer of a type: its fields, and its length in bytes. The XID of the transfer is the next one. A transfer
without a usable port is not sent (R334), and a READ_REQ without a credit of VC 0 waits for one (R333). -/
def sendCell (type dst len : Nat) (fields : List Nat) (s : State) : State :=
  let c : SentCell := { type := type, dst := cellDst s dst, xid := s.sfp.xid, payload := fields, len := len }
  let s := onSfp (fun f => { f with xid := (f.xid + 1) % 2 ^ 23 }) s
  if !linked s c.dst then s
  else if type = ctReadReq ∧ !credited s c.dst c.xid then onSfp (fun f => { f with held := f.held ++ [c] }) s
  else transmit c s

/-- Requests that wait for a credit go out as credits have come, in order (R332). -/
def releaseHeld (s : State) : State :=
  forEach (fun c s =>
    if credited s c.dst c.xid then transmit c (onSfp (fun f => { f with held := f.held.erase c }) s) else s) s.sfp.held s

/-- The virtual channel of a cell type (Table 13.3). -/
def typeVc (t : Nat) : Nat := if t = 1 then 0 else if t = 2 then 1 else if t = 3 ∨ t = 6 then 2 else if t < 14 then 3 else 0

/-- The header of cell i of a transfer that the engine sends (Table 13.2). -/
def cellHeader (s : State) (c : SentCell) (i : Nat) : Nat :=
  let n := cellsFor c.len
  let cseq := if c.cseq = 0 then 0 else c.cseq + i
  (cseq % 2 ^ 48) <<< 80 + (c.slot.getD 0) <<< 78 + c.type <<< 72 + (min 224 (c.len - 224 * i)) <<< 64 + c.dst <<< 54 +
  s.sfp.engineId <<< 44 + (typeVc c.type) <<< 40 + (bit (i == 0)) <<< 39 + (bit (i + 1 == n)) <<< 38 +
  (bit c.slot.isNone) <<< 37 + c.xid <<< 13 + i

/-- SFP_TWIN_STATE. -/
def twinState (s : State) : Nat := odGet s odSfpTwinState
/-- The two words of a READ_REQ (Table 13.3). Bit 58 marks a read whose row the reader will hold as a replica: the
manual gives the home no other way to learn of a holder (log 43). -/
def readReqWords (row table : Nat) (pin dflt holds : Bool) (pinEpoch epoch : Nat) : List Nat :=
  [row % 2 ^ 40 + (table % 2 ^ 16) <<< 40 + (bit pin) <<< 56 + (bit dflt) <<< 57 + (bit holds) <<< 58,
   pinEpoch % 2 ^ 16 + (epoch % 2 ^ 32) <<< 32]

/-- Sends a transfer under a given transfer identifier: the answer to a request, or a request passed on. -/
def sendAs (xid type dst len : Nat) (fields : List Nat) (s : State) : State :=
  let next := s.sfp.xid
  let s := onSfp (fun f => { f with xid := xid }) s
  onSfp (fun f => { f with xid := next }) (sendCell type dst len fields s)

/-- Sends a message of VC 3 with the next message sequence toward its destination, and keeps it until it is
acknowledged (R335). -/
def sendCtl (type dst : Nat) (fields : List Nat) (task : Option Nat) (s : State) : State :=
  let m := (tabGet dst 0 s.sfp.ctlSeq)
  let s := onSfp (fun f => { f with
    ctlSeq := tabPut dst ((m + 1) % 2 ^ 32) f.ctlSeq,
    ctlOut := f.ctlOut ++ [{ dst := dst, mseq := m, type := type, payload := fields, task := task }] }) s
  sendCell type dst 24 (m :: fields) s

/-- The message sequence that sendCtl gives its next message to an engine. -/
def nextCtl (s : State) (dst : Nat) : Nat := tabGet dst 0 s.sfp.ctlSeq

/-- Acknowledges a control message, or refuses what it asks for (R335, R373). A transfer of VC 3 with code 0. -/
def sendAck (dst mseq : Nat) (refused : Bool) (s : State) : State :=
  sendCell ctControl dst 8 [0, mseq, bit refused] s

/-- Something has come from an engine (R247, R339). -/
def hear (src : Nat) (s : State) : State :=
  onSfp (fun f => { f with quiet := tabPut src 0 f.quiet })
    (onCat (fun c => { c with heard := tabPut src (folio s) c.heard }) s)

/-- A control message arrives (R335): the next in its source's sequence is delivered, one of the 64 after it is
acknowledged and kept for its turn, and one delivered before is acknowledged again. -/
def deliverAck (src mseq : Nat) (refused : Bool) (f : State → State) (s : State) : State :=
  if !isMember s src then odCount odSfpBadCells 1 s
  else
    let s := hear src s
    let x := tabGet src 0 s.sfp.ctlIn
    let d := (mseq + 2 ^ 32 - x) % 2 ^ 32
    let early := s.sfp.ctlEarly.any (fun e => e.1 == src && e.2 == mseq)
    if d = 0 then
      let s := onSfp (fun g => { g with
        ctlIn := tabPut src ((x + 1) % 2 ^ 32) g.ctlIn,
        ctlEarly := g.ctlEarly.filter (fun e => !(e.1 == src && e.2 == mseq)) }) s
      f (if early then s else sendAck src mseq refused s)
    else if d ≤ 64 then
      if early then s
      else sendAck src mseq refused (onSfp (fun g => { g with ctlEarly := g.ctlEarly ++ [(src, mseq)] }) s)
    else if 2 ^ 31 ≤ d then sendAck src mseq refused s
    else s

/-- A control message that cannot be refused arrives. -/
def deliver (src mseq : Nat) (f : State → State) (s : State) : State := deliverAck src mseq false f s

end Sys2Proof.Machine
end

