-- ==== Sys2Proof/Machine/Rows.lean ====
section
/-! DEFINITION. Rows in memory (09): the slot rings and their quarantine, the commit of a row with every copy of it,
the replacement of a shelved row, side-list slots, and the replicas and their holders. -/

namespace Sys2Proof.Machine

/-! ## Slot rings (R232, R234, Table 9.2) -/

/-- CAT_SLOTRING_k as written. -/
def slotCtl (s : State) (k : Nat) : Nat := odGet s (odCatSlotring + k)
/-- Ring k's pointers and return ring. -/
def slotRing (s : State) (k : Nat) : SlotRing := tabGet k {} s.cat.rings
/-- Changes ring k. -/
def modSlotRing (k : Nat) (f : SlotRing → SlotRing) (s : State) : State :=
  onCat (fun c => { c with rings := tabMod k {} f c.rings }) s
/-- SLOT of a ring, in bytes. -/
def srSize (v : Nat) : Nat := 32 * bitsOf v 73 64
/-- TIER of a ring. -/
def srTier (v : Nat) : Nat := bitsOf v 75 74
/-- n of a ring. -/
def srLog (v : Nat) : Nat := bitsOf v 84 80
/-- BASE of a ring. -/
def srBase (v : Nat) : Nat := bitsOf v 63 0
/-- TAIL of a ring. -/
def srTail (v : Nat) : Nat := bitsOf v 159 128

/-- The enabled ring that serves a slot size and tier. -/
def ringFor (s : State) (size tier : Nat) : Option Nat :=
  (List.range 8).find? (fun k => let v := slotCtl s k; bitOf v 76 && srSize v == size && srTier v == tier)

/-- The next slot of ring k: from the return ring when its head has left quarantine, else from the supply ring. -/
def nextSlot (s : State) (k : Nat) : Option (Nat × Bool) :=
  let v := slotCtl s k
  let r := slotRing s k
  match r.ret with
  | f :: _ => if f.ready then some (f.loc, true) else
      if r.head = srTail v then none else some (gddrU64 s (srBase v + 8 * (r.head % 2 ^ srLog v)) % 2 ^ 50, false)
  | [] => if r.head = srTail v then none else some (gddrU64 s (srBase v + 8 * (r.head % 2 ^ srLog v)) % 2 ^ 50, false)

/-- Takes the slot that nextSlot names. -/
def takeSlot (k : Nat) (fromRet : Bool) (s : State) : State :=
  let v := slotCtl s k
  modSlotRing k (fun r => if fromRet then { r with ret := r.ret.tail } else { r with head := ptrNext (srLog v) r.head }) s

/-- A write finds both slot rings empty: it waits, and CAT_SLOTS_EMPTY is raised once per ring per folio (R232). -/
def slotsEmpty (k : Nat) (s : State) : State :=
  let v := slotCtl s k
  let s := odCount odCatSlotWaits 1 s
  if (slotRing s k).emptyRaised then s
  else modSlotRing k (fun r => { r with emptyRaised := true })
    (post0 evCatSlotsEmpty k (bitsOf v 73 64 + (srTier v) <<< 10) s)

/-- Puts a freed location into the return ring of its size and tier, behind the slots that stand there; a full ring leaks it
(R232, R234). ready is true for a slot that no reader has seen, which stands in front (R236). The entry goes into the second
half of the ring's region. -/
def freeSlot (size tier loc : Nat) (ready : Bool) (s : State) : State :=
  match ringFor s size tier with
  | none => odCount odCatSlotsLeaked 1 s
  | some k =>
    let v := slotCtl s k
    let r := slotRing s k
    let n := 2 ^ srLog v
    if n ≤ r.ret.length then odCount odCatSlotsLeaked 1 s
    else
      let place := if ready then (r.retNext + 2 * n - r.ret.length - 1) % n else r.retNext % n
      let s := gddrStore (srBase v + 8 * (n + place)) (leBytes 8 (loc % 2 ^ 50)) s
      modSlotRing k (fun r =>
        if ready then { r with ret := { loc := loc, folio := folio s, ready := true } :: r.ret }
        else { r with ret := r.ret ++ [{ loc := loc, folio := folio s }], retNext := (r.retNext + 1) % n }) s

/-! ## Writes of a tier -/

/-- The parts of a record that lie in each 128-byte line, with their addresses. -/
def linePieces (a : Nat) (bs : List Byte) : List (Nat × List Byte) :=
  (linesOf a bs.length).map (fun la =>
    let lo := max la a
    (lo, (bs.drop (lo - a)).take (la + 128 - lo)))

/-- Writes bytes in a tier of this engine: GDDR7 at once, host DRAM by a coherent write, or, through the host apply log, line
by line with the line of the stamp, the first, last (R220). Stacks copies change in the same commit (R262). -/
def tierStore (tier a : Nat) (bs : List Byte) (kind : WKind) (s : State) : State :=
  if tier = 0 then gddrStore a bs s
  else
    let s := stacksWrite 1 a bs s
    let ls := linePieces a bs
    if kind = .hostlog then forEach (fun l s => postWrite 0 l.1 l.2 none kind s) (ls.tail ++ ls.take 1) s
    else postWrite 0 a bs none kind s

/-- A write of a range of host DRAM is still on its way. -/
def hostPending (s : State) (a n : Nat) : Bool :=
  s.hpt.outq.any (fun w => w.path == 0 && overlaps w.addr w.data.length a n)

/-! ## Copies of a row (R247, R262, R270) -/

/-- Replicas of a row that are held here take its new bytes. -/
def replicaWrite (t row : Nat) (bs side : List Byte) (s : State) : State :=
  onCat (fun c => { c with replicas := c.replicas.map (fun r =>
    if r.table = t ∧ r.row = row then { r with data := bs, side := side } else r) }) s

/-- A pinned copy takes a row's new bytes. -/
def pinnedWrite (idx pos : Nat) (bs : Option (List Byte)) (s : State) : State :=
  onStk (fun k => { k with pinned := k.pinned.map (fun p =>
    if p.idx = idx then { p with rows := tabPut pos bs p.rows } else p) }) s

/-- The backing row of a pinned position, and of a replica, now lies at another place (R233, R262). -/
def rowPlaced (t row idx pos tier a : Nat) (s : State) : State :=
  let s := onStk (fun k => { k with pinned := k.pinned.map (fun p =>
    if p.idx = idx then { p with homes := tabPut pos (tier, a) p.homes } else p) }) s
  onCat (fun c => { c with replicas := c.replicas.map (fun r =>
    if r.table = t ∧ r.row = row then { r with place := r.place.map (fun _ => (tier, a)) } else r) }) s

/-- The remote holders of a row that this engine homes (R247). -/
def holdersOf (s : State) (t row : Nat) : List Nat :=
  (s.cat.repdir.filter (fun h => h.1 == t && h.2.1 == row)).map (·.2.2)

/-- Sends INVAL to every holder of a row, once (R247). -/
def askInval (t row : Nat) (s : State) : State :=
  if s.cat.invals.any (fun v => v.table == t && v.row == row) then s
  else
    let hs := holdersOf s t row
    let s := onCat (fun c => { c with invals := c.invals ++
      [{ table := t, row := row, holders := hs, folio := folio s }] }) s
    forEach (fun h s => sendCtl ctInval h [t, row] none s) hs s

/-- A replica directory entry (log 94): [15:0] table, [55:16] row, [73:64] holder, [127] in use. -/
def repdirNum (h : Nat × Nat × Nat) : Nat := h.1 % 2 ^ 16 + (h.2.1 % 2 ^ 40) <<< 16 + (h.2.2 % 2 ^ 10) <<< 64 + 2 ^ 127

/-- Writes the replica directory through: its entries, and an empty one behind the last (R247; log 94). -/
def putRepdir (s : State) : State :=
  let es := s.cat.repdir
  let bs := es.flatMap (fun h => leBytes 16 (repdirNum h))
  odSet odCatRepdirUsed es.length
    (gddrStore s.cat.repdirBase (if es.length < 65536 then bs ++ List.replicate 16 0 else bs) s)

/-- A holder of a row is entered in the replica directory (R247). -/
def addHolder (holder t row : Nat) (s : State) : State :=
  let c := (t, row, holder)
  if s.cat.repdir.contains c then s else putRepdir (onCat (fun c' => { c' with repdir := c'.repdir ++ [c] }) s)

/-- A holder is off the directory: it has acknowledged, or it has been given up (R247). -/
def dropHolder (h t row : Nat) (s : State) : State :=
  putRepdir (onCat (fun c => { c with
    repdir := c.repdir.filter (fun x => !(x.1 == t && x.2.1 == row && x.2.2 == h)),
    invals := (c.invals.map (fun v => if v.table = t ∧ v.row = row then
      { v with holders := v.holders.filter (· != h) } else v)).filter (fun v => !v.holders.isEmpty) }) s)

/-! ## The mirror of a relocation (R249) -/

/-- The relocation of a shard: its task, whether it is local, and whether it has switched. -/
def moveOf (s : State) (idx : Nat) : Option (Nat × Bool × Bool) :=
  (s.cat.moves.find? (fun m => m.1 == idx)).map (·.2)

/-- The engine and the tier that a shard goes to. -/
def moveDst (s : State) (idx : Nat) : Nat × Nat := tabGet idx (0, 0) s.cat.moveTo

/-- The address word of a COPY chunk. The manual gives a GDDR7 byte address; a chunk for the host tier has bit 62 set, one
that holds a row of a shelved shard bit 63, and one that abandons a move bit 61 (log 99). -/
def copyWord (tier a : Nat) : Nat := a % 2 ^ 57 + (tier % 2) <<< 62
/-- The word of a row of a shelved shard: the place of its new shelfmark. -/
def rowWord (tier a : Nat) : Nat := copyWord tier a + 2 ^ 63

/-- Sends bytes for an address of another engine (COPY, Table 13.3), and keeps the number of the chunk until it is
acknowledged (R250). -/
def sendCopy (dst a : Nat) (bs : List Byte) (s : State) : State :=
  let n := s.sfp.copyNext
  let s := onSfp (fun f => { f with copyOut := f.copyOut ++ [(dst, n)], copyNext := n + 1 }) s
  sendCell ctCopy dst (8 + bs.length) (a :: bs.map (·.toNat)) s

/-- This engine streams to its returning twin (R350). -/
def twinOpen (s : State) : Bool := twinState s == 3 && decide (s.sfp.partner < 1024)

/-- Bytes committed at a place go on to the returning twin, which has the same layout, in the order of its stream (R346, R350). -/
def toTwin (tier a : Nat) (bs : List Byte) (s : State) : State :=
  if twinOpen s then sendCopy s.sfp.partner (copyWord tier a) bs s else s

/-- A record of a Ledger context goes on to the returning twin: a chunk with bit 60 set in its word (R350; log 99). -/
def sayTwin (words : List Nat) (bs : List Byte) (s : State) : State :=
  if twinOpen s then sendCopy s.sfp.partner (2 ^ 60) (words.flatMap (leBytes 8) ++ bs) s else s

/-- A key of the Ledger, an engine's number with 1,024 added for the partner's identity, as the partner has it (R346). -/
def twinKey (k : Nat) : Nat := if k < 1024 then k + 1024 else k - 1024

/-- Every COPY chunk to an engine has been acknowledged. -/
def copiesAcked (s : State) (dst : Nat) : Bool := !s.sfp.copyOut.any (fun c => c.1 == dst)

/-- A row of a shelved shard that moves here: into the slot that an earlier chunk for its position took, or a fresh one, with
a new shelfmark that names it, at the place of the word; none when no slot is free (R248, R249). -/
def landRow (w idx mark : Nat) (bs : List Byte) (s : State) : Option State :=
  let tier := smTier mark
  let put (loc : Nat) (s : State) : State :=
    let m := smMake tier (smAccession mark) loc
    let s := tierStore tier (32 * loc) bs .output s
    let s := tierStore (bit (bitOf w 62)) (w % 2 ^ 57) (leBytes 8 m) .output s
    onCat (fun c => { c with copied := c.copied.filter (fun x => x.1 != w) ++ [(w, idx, m)] }) s
  match s.cat.copied.find? (fun x => x.1 == w) with
  | some x => some (put (smLoc x.2.2) s)
  | none =>
    match ringFor s bs.length tier with
    | none => none
    | some k => (nextSlot s k).map (fun n => put n.1 (takeSlot k n.2 s))

/-- The shelfmark that a moved row gets at its new place: ACCESSION + 1, in the new tier; its LOCATION is that of the slot
taken there (R235, R249). -/
def movedMark (tier m : Nat) : Nat := smMake tier ((smAccession m + 1) % 4096) 0

/-- Carries the row of a shelved shard to its new place; none when this engine has no slot for it. -/
def carryRow (idx : Nat) (isLocal : Bool) (a m : Nat) (bs : List Byte) (s : State) : Option State :=
  let to_ := moveDst s idx
  let mark := movedMark to_.2 m
  let w := rowWord to_.2 a
  if isLocal then landRow w idx mark bs s
  else some (sendCopy to_.1 w (leBytes 8 idx ++ leBytes 8 mark ++ bs) s)

/-- Carries bytes of a shard that moves to an address of its new home or tier. -/
def carryBytes (idx : Nat) (isLocal : Bool) (a : Nat) (bs : List Byte) (s : State) : State :=
  let to_ := moveDst s idx
  if isLocal then tierStore to_.2 a bs .output s else sendCopy to_.1 (copyWord to_.2 a) bs s

/-- A position has been copied by the move of its shard that has not switched: whether the move is local. -/
def mirrors (s : State) (idx pos : Nat) : Option Bool :=
  match moveOf s idx with
  | none => none
  | some (t, isLocal, switched) =>
    match getTask s t with
    | none => none
    | some k => if switched || decide (k.copyPos ≤ pos) then none else some isLocal

/-- Mirrors a commit at a position already copied to the shard's new home, or to its new place here, its side list first
(R249). A row that needs a slot here and finds none is owed. -/
def mirrorRow (idx : Nat) (d : BitVec 512) (pos : Nat) (bs : List Byte) (side : Option (Nat × List Byte)) (s : State) : State :=
  match mirrors s idx pos with
  | none => s
  | some isLocal =>
    let a := rowAddr d (sdAlt d) pos
    let s := match side with | none => s | some y => carryBytes idx isLocal y.1 y.2 s
    if sdShelved d then
      (carryRow idx isLocal a (shelfmark s d pos) bs s).getD
        (onCat (fun c => { c with owed := c.owed.filter (· != (idx, pos)) ++ [(idx, pos)] }) s)
    else carryBytes idx isLocal a bs s

/-! ## The commit of a row -/

/-- A row of a direct shard is committed in place with its copies (R230, R247, R262). -/
def commitDirect (t idx : Nat) (d : BitVec 512) (base row pos : Nat) (bs : List Byte) (side : Option (Nat × List Byte))
    (kind : WKind) (s : State) : State :=
  let live := base == sdBase d
  let s := tierStore (sdTier d) (rowAddr d base pos) bs kind s
  let s := match side with | none => s | some y => toTwin (sdTier d) y.1 y.2 s
  let s := toTwin (sdTier d) (rowAddr d base pos) bs s
  if live then
    mirrorRow idx d pos bs side (pinnedWrite idx pos (some bs) (replicaWrite t row bs ((side.map (·.2)).getD []) s))
  else s

/-- The side-list slot that the Quantiser uses for a position, given the current husk (R166). -/
def sideSlot (pos husk : Nat) : Nat := if hkSlot husk = 2 * pos ∧ 0 < hkCount husk then 2 * pos + 1 else 2 * pos

/-- A side-list slot may be written: two folio boundaries have passed since a row write stopped naming it (R166). -/
def sideReady (s : State) (tier a : Nat) : Bool :=
  s.cat.sideFreed.all (fun f => !(f.1 == a && f.2.1 == tier) || decide (f.2.2 + 2 ≤ folio s))

/-- A row write stops naming a side-list slot. -/
def sideFree (tier a : Nat) (s : State) : State :=
  onCat (fun c => { c with sideFreed := c.sideFreed.filter (fun f => !(f.1 == a && f.2.1 == tier)) ++
    [(a, tier, folio s)] }) s

/-- The base that a ROW_WRITE of a shard writes: the new copy while REPLACING before the commit (R238). -/
def writeBase (s : State) (idx : Nat) (d : BitVec 512) : Nat :=
  if sdState d = 2 ∧ !s.cat.committed.contains idx then sdAlt d else sdBase d

/-- Starts the replacement of a shelved row (R233 steps 1 and 2): the fresh slot takes the row, and the commit of its
shelfmark waits. none: no slot is free. -/
def beginShelved (idx : Nat) (d : BitVec 512) (base pos : Nat) (tier : Nat) (bs : List Byte)
    (side : Option (Nat × List Byte)) (task : Option Nat) (s : State) : Option (Nat × State) :=
  match ringFor s (rowS d) tier with
  | none => none
  | some k =>
    match nextSlot s k with
    | none => none
    | some (loc, fromRet) =>
      let s := takeSlot k fromRet s
      let s := match side with
        | none => s
        | some x => tierStore (sdTier d) x.1 x.2 .output s
      let s := tierStore tier (32 * loc) bs .output s
      let w : PendRow := { w := s.cat.nextPend, idx := idx, pos := pos, mark := rowAddr d base pos, tier := tier,
                           row := leBytes 8 loc ++ bs, side := side, task := task }
      some (w.w, onCat (fun c => { c with pend := c.pend ++ [w], nextPend := c.nextPend + 1 }) s)

/-- The location and the bytes that a waiting row write has put in its slot. -/
def pendLoc (w : PendRow) : Nat := numAt 0 8 w.row
/-- The row bytes of a waiting row write. -/
def pendBytes (w : PendRow) : List Byte := w.row.drop 8

/-- A row write stops naming the side-list slot of the row before it (R166). -/
def sideLeft (x : BitVec 512) (old new : List Byte) (s : State) : State :=
  let o := rowHusk x old
  let n := rowHusk x new
  if sdEsc x && decide (0 < hkCount o) && !(decide (0 < hkCount n) && hkSlot n == hkSlot o) then
    sideFree (sdTier x) (sideAddr x (hkSlot o)) s
  else s

/-- Its writes are visible (R233 step 2). -/
def pendVisible (s : State) (w : PendRow) (sideTier : Nat) : Bool :=
  !(w.tier == 1 && hostPending s (32 * pendLoc w) (pendBytes w).length) &&
  (match w.side with
   | none => true
   | some x => !(sideTier == 1 && hostPending s x.1 x.2.length))

/-- The shelfmark of a waiting row write is committed, with every copy of the row, and the old slot and side list are freed
(R166, R233 steps 3 and 4). -/
def commitShelved (w : PendRow) (s : State) : State :=
  let d := descAt s w.idx
  let t := sdTable d
  let row := rowOf (dirAt s t) (sdShard d) w.pos
  let old := leNat (tierLoad s (sdTier d) w.mark 8)
  let new := smMake w.tier ((smAccession old + 1) % 4096) (pendLoc w)
  let s := tierStore (sdTier d) w.mark (leBytes 8 new) .output s
  let s := match w.side with | none => s | some y => toTwin (sdTier d) y.1 y.2 s
  let s := toTwin (sdTier d) w.mark (leBytes 8 new) (toTwin w.tier (32 * pendLoc w) (pendBytes w) s)
  let live := w.mark == rowAddr d (sdBase d) w.pos
  let side := match w.side with | none => [] | some x => x.2
  let s := if live then
      mirrorRow w.idx d w.pos (pendBytes w) w.side
        (rowPlaced t row w.idx w.pos w.tier (32 * pendLoc w)
          (pinnedWrite w.idx w.pos (some (pendBytes w)) (replicaWrite t row (pendBytes w) side s))) else s
  let keepOld := smTier old == 3 || (sdState d == 2 && !live && shelfmark s d w.pos == old)
  let before := if 1 < smTier old then [] else tierLoad s (smTier old) (32 * smLoc old) (rowS d)
  let s := if before.isEmpty then s else sideLeft d before (pendBytes w) s
  let s := if keepOld || 1 < smTier old then s else freeSlot (rowS d) (smTier old) (smLoc old) false s
  onCat (fun c => { c with pend := c.pend.filter (fun x => x.w != w.w) }) s

end Sys2Proof.Machine
end

