-- ==== Sys2Proof/Machine/Placement.lean ====
section
/-! DEFINITION. The placement map (09, 13): which engine homes a shard, the order of epochs, the Registrar, its deputies and
the adoption of descriptors (R50, R338, R339). -/

namespace Sys2Proof.Machine

/-- a is older than b in serial arithmetic (R242). -/
def epochOlder (a b : Nat) : Bool :=
  let x := (b + 2 ^ 32 - a % 2 ^ 32) % 2 ^ 32
  decide (1 ≤ x) && decide (x < 2 ^ 31)

/-- This engine is the home of a shard. -/
def isHome (s : State) (d : BitVec 512) : Bool := sdHome d == s.sfp.engineId

/-- PLACEMENT_EPOCH of a parcel header. -/
def phEpoch (h : BitVec 256) : Nat := bitsOf h.toNat 191 160

/-- SFP_SUCCESSION in order. -/
def succession (s : State) : List Nat :=
  ((List.range 4).map (fun k => bitsOf (odGet s odSfpSuccession) (16 * k + 15) (16 * k))).filter (· < 1024)

/-- The members of the Collection. -/
def members (s : State) : List Nat := (List.range 1024).filter (isMember s)

/-- A term is seen from an engine of SFP_SUCCESSION (R339): a higher one is followed, and a Registrar that sees one
stops acting. -/
def seeTerm (src term : Nat) (s : State) : State :=
  if odGet s odSfpTerm < term ∧ (succession s).contains src then
    let old := odGet s odSfpRegistrar
    let was := s.sfp.registrar
    let s := odSet odSfpRegistrar src (odSet odSfpTerm term (onSfp (fun f => { f with registrar := false }) s))
    if was then post0 evSfpRegistrarChange src (term + old <<< 16) s else s
  else s

/-- A message of a term is followed: it is the highest term seen (R339). -/
def termOk (s : State) (term : Nat) : Bool := decide (odGet s odSfpTerm ≤ term)

/-- A descriptor as an engine adopts it: its own AUX_BASE, its own FIXED default row, and the STATE and second base of
copies that it keeps itself stay (R50). -/
def adoptDesc (s : State) (i : Nat) (d : BitVec 512) : BitVec 512 :=
  let old := descAt s i
  let mine := sdTable old == sdTable d && sdShard old == sdShard d
  if mine then
    let d := sdSet d 485 436 (sdAux old)
    let d := if sdDefault d = 1 then sdSet d 435 386 (sdDefAddr old) else d
    if isHome s old || decide (2 ≤ sdState old) then sdSet (sdSet d 45 44 (sdState old)) 241 192 (sdAlt old) else d
  else d

/-- The engine adopts a placement epoch with its descriptors, and reports it to the Registrar (R338). The rows of a shard that
is homed here now are its own (R249). -/
def adoptEpoch (epoch : Nat) (descs : List (Nat × BitVec 512)) (s : State) : State :=
  let s := forEach (fun x s => setDesc x.1 (adoptDesc s x.1 x.2) s) descs s
  let here := (descs.filter (fun x => isHome s (descAt s x.1))).map (·.1)
  let s := onCat (fun c => { c with copied := c.copied.filter (fun x => !here.contains x.2.1) }) s
  let s := onSfp (fun f => { f with epoch := epoch % 2 ^ 32 }) s
  let r := odGet s odSfpRegistrar
  if r < 1024 ∧ !s.sfp.registrar then sendCtl ctControl r [2, epoch] none s else s

/-- The Registrar distributes the waiting map change to every other member, and adopts it (R338). -/
def distribute (s : State) : State :=
  let ds := s.sfp.mapPending
  let e := s.sfp.mapEpoch
  let flat := ds.flatMap (fun x => [x.1, x.2.toNat])
  let s := onSfp (fun f => { f with mapPending := [], adopted := [s.sfp.engineId] }) s
  let s := forEach (fun m s => if m = s.sfp.engineId then s else sendCtl ctControl m (1 :: e :: flat) none s) (members s) s
  adoptEpoch e ds s

/-- The first other engine of SFP_SUCCESSION that is not silent. -/
def firstDeputy (s : State) : Option Nat :=
  (succession s).find? (fun e => e != s.sfp.engineId && tabGet e 0 s.sfp.quiet < odGet s odSfpTakeoverFolios)

/-- The Registrar takes a report into its map, whose epoch never goes back, and mirrors it to the first live deputy before it
distributes it (R250, R338). -/
def mapChange (epoch : Nat) (descs : List (Nat × BitVec 512)) (s : State) : State :=
  let s := onSfp (fun f => { f with
    mapEpoch := if epochOlder epoch f.mapEpoch then f.mapEpoch else epoch % 2 ^ 32, mapPending := f.mapPending ++ descs }) s
  match firstDeputy s with
  | none => distribute s
  | some e => sendCtl ctControl e [5, s.sfp.mapEpoch] none s

/-- A changed descriptor is reported to the Registrar, which distributes it with STATE ONLINE and no second base (R50, R239,
R250); the Registrar itself takes it into its map. -/
def reportMove (epoch i : Nat) (d : BitVec 512) (s : State) : State :=
  let z := sdSet (sdSet d 45 44 1) 241 192 0
  let r := odGet s odSfpRegistrar
  if s.sfp.registrar then mapChange epoch [(i, z)] s
  else if r < 1024 ∧ r ≠ s.sfp.engineId then sendCtl ctControl r [1, epoch, i, z.toNat] none s
  else s

end Sys2Proof.Machine
end

