-- ==== Sys2Proof/Machine/Relocate.lean ====
section
/-! DEFINITION. RELOCATE (09, R73): moving a shard or a row, replicas, in-service replacement and its fence, and the
forwarding table. -/

namespace Sys2Proof.Machine

/-! ## The forwarding table (Table 9.5) -/

/-- Where forwarding entry n lies. -/
def fwdAddr (s : State) (n : Nat) : Nat := s.cat.fwdBase + 32 * n
/-- Forwarding entry n. -/
def fwdEntry (s : State) (n : Nat) : Nat := leNat (gddrLoad s (fwdAddr s n) 32)
/-- VALID of a forwarding entry. -/
def fwValid (e : Nat) : Bool := bitOf e 20
/-- DESC_INDEX. -/
def fwIndex (e : Nat) : Nat := bitsOf e 19 0
/-- TARGET_EPOCH. -/
def fwEpoch (e : Nat) : Nat := bitsOf e 143 112
/-- NEW_ENGINE. -/
def fwEngine (e : Nat) : Nat := bitsOf e 111 102
/-- SWITCH_INTAKE. -/
def fwIntake (e : Nat) : Nat := bitsOf e 191 144
/-- OLD_BASE. -/
def fwOldBase (e : Nat) : Nat := bitsOf e 255 206
/-- OLD_TIER. -/
def fwOldTier (e : Nat) : Nat := bitsOf e 205 204

/-- The forwarding entries in force: only slots with a byte set are looked at. -/
def fwdSlots (s : State) : List Nat :=
  let lo := s.cat.fwdBase
  let touched := (s.mem.gddr.filter (fun c => decide (lo ≤ c.1) && decide (c.1 < lo + 131072))).map (fun c => (c.1 - lo) / 32)
  touched.eraseDups.filter (fun n => fwValid (fwdEntry s n))

/-- The forwarding entry of a shard. -/
def fwdOf (s : State) (idx : Nat) : Option (Nat × Nat) :=
  ((fwdSlots s).map (fun n => (n, fwdEntry s n))).find? (fun x => fwIndex x.2 == idx)

/-- The lowest free slot of the forwarding table. -/
def fwdFree (s : State) : Option Nat := let used := fwdSlots s; (List.range 4096).find? (fun n => !used.contains n)

/-- A forwarding entry from its fields. -/
def fwdMake (idx table shard engine epoch intake oldTier oldBase : Nat) : Nat :=
  idx % 2 ^ 20 + 2 ^ 20 + (table % 65536) <<< 64 + (shard % 65536) <<< 80 + (engine % 1024) <<< 102 +
  (epoch % 2 ^ 32) <<< 112 + (intake % 2 ^ 48) <<< 144 + (oldTier % 4) <<< 204 + (oldBase % 2 ^ 50) <<< 206

/-! ## Conditions (R229, R236, R237, R246, R248, R254) -/

/-- The shard number of a RELOCATE: SHARD_NO, or the shard of ROW for the row operations. -/
def rlShardNo (s : State) (d : Desc) : Nat :=
  if rlOp d = 1 ∨ rlOp d = 2 ∨ rlOp d = 3 then shardOf (dirAt s (dTable d)) (rlRow d) else rlShard d

/-- The descriptor index of the shard of a RELOCATE. -/
def rlIndex (s : State) (d : Desc) : Nat := shardIndex (dirAt s (dTable d)) (rlShardNo s d)

/-- A shard of the table exists at the index (R51). -/
def rlExists (s : State) (d : Desc) : Bool :=
  let e := dirAt s (dTable d)
  let x := descAt s (rlIndex s d)
  deValid e && decide (rlShardNo s d < deShards e) && sdTable x == dTable d && sdShard x == rlShardNo s d

/-- The bytes of the live array of a shard: rows, or shelfmarks. -/
def arrayBytes (e : BitVec 128) (x : BitVec 512) : Nat :=
  shardRows e (sdShard x) * (if sdShelved x then 8 else 32 * sdStride x)

/-- MOVE_SHARD may start (R248). What another engine holds, and what its memory is, is a free value: this engine cannot tell it,
and the manual names no message that asks (log 36). -/
def moveShardOk (s : State) (d : Desc) : Bool :=
  let x := descAt s (rlIndex s d)
  let e := dirAt s (dTable d)
  let isLocal := rlEngine d == s.sfp.engineId
  isHome s x && sdState x == 1 && (sdShelved x || 32 * rlBase d % 128 == 0) &&
  (if isLocal then
    rlEpoch d == 0 && decide (rlTier d ≠ sdTier x) &&
    (rlTier d != 0 || decide (32 * rlBase d + arrayBytes e x ≤ usable s))
   else reachable s (rlEngine d) && Config.peerTakes (rlEngine d) (rlIndex s d) (rlTier d) (rlBase d) && (fwdFree s).isSome &&
    epochOlder (sdPlaced x) (rlEpoch d))

/-- MOVE_ROW may start (R236). -/
def moveRowOk (s : State) (d : Desc) : Bool :=
  let x := descAt s (rlIndex s d)
  let e := dirAt s (dTable d)
  isHome s x && sdState x == 1 && sdShelved x && decide (rlRow d < deRows e) &&
  (let m := shelfmark s x (posOf e (rlRow d)); decide (smTier m < 2) && decide (smTier m ≠ rlTier d))

/-- The lines that a replica occupies (R272). -/
def replicaLines (data side : List Byte) : Nat := cdiv data.length 128 + cdiv side.length 128

/-- The lines that the replicas held occupy in every slice. -/
def replicaUsed (s : State) : Nat := (s.cat.replicas.map (fun r => replicaLines r.data r.side)).foldl (· + ·) 0

/-- The ways of the enabled partition of a kind (Table 10.2). -/
def kindWays (s : State) (kind : Nat) : List Nat :=
  (List.range 8).flatMap (fun k =>
    let v := odGet s (odStkPart + k)
    if bitOf v 16 && bitsOf v 27 24 == kind then (List.range 16).filter (bitOf v) else [])

/-- The REPLICA lines of the smallest active slice (R272, R278). -/
def replicaRoom (s : State) : Nat :=
  let ways := kindWays s 3
  let room := (activePods s).map (fun p => 8192 * (ways.filter (fun w => !bitOf (retiredWays s p) w)).length)
  match room with
  | [] => 0
  | r :: rs => rs.foldl min r

/-- REPLICATE_ROW may start (R246): what this engine can tell without the row. -/
def replicateOk (s : State) (d : Desc) : Bool :=
  let x := descAt s (rlIndex s d)
  let e := dirAt s (dTable d)
  sdState x == 1 && decide (rlRow d < deRows e) && (isHome s x || !sdTrain x) &&
  decide (replicaUsed s + cdiv (rowS x) 128 ≤ replicaRoom s) &&
  (!isHome s x || (rowPlace s x (posOf e (rlRow d))).isSome)

/-- DROP_REPLICA may run: every state but OFFLINE and RELOCATING after the switch (Table 9.1). -/
def dropReplicaOk (s : State) (d : Desc) : Bool :=
  let i := rlIndex s d
  let x := descAt s i
  let e := dirAt s (dTable d)
  decide (rlRow d < deRows e) && sdState x != 0 && (sdState x != 3 || !((moveOf s i).any (·.2.2)))

/-- DRAIN_FENCE may start (R241, R254). -/
def drainFenceOk (s : State) (d : Desc) : Bool :=
  let i := rlIndex s d
  let x := descAt s i
  if sdState x = 2 then isHome s x && rlEpoch d == 0
  else if sdState x = 3 then
    (match fwdOf s i with
     | some f => fwEpoch f.2 == rlEpoch d
     | none => rlEpoch d == 0 && (moveOf s i).any (fun m => m.2.1 && m.2.2))
  else false

/-- REPLACE_BEGIN may start (R237). -/
def replaceBeginOk (s : State) (d : Desc) : Bool :=
  let i := rlIndex s d
  let x := descAt s i
  isHome s x && sdState x == 1 && !sdTrain x && (sdShelved x || 32 * rlBase d % 128 == 0) && (fwdOf s i).isNone

/-- REPLACE_COMMIT may start (Table 9.1). -/
def replaceCommitOk (s : State) (d : Desc) : Bool :=
  let i := rlIndex s d
  let x := descAt s i
  isHome s x && sdState x == 2 && !s.cat.committed.contains i

/-- The conditions of a RELOCATE; a failing one is refused with CTL_REFUSED. -/
def relocOk (s : State) (d : Desc) : Bool :=
  rlExists s d &&
  (match rlOp d with
   | 0 => moveShardOk s d
   | 1 => moveRowOk s d
   | 2 => replicateOk s d
   | 3 => dropReplicaOk s d
   | 4 => drainFenceOk s d
   | 5 => replaceBeginOk s d
   | _ => replaceCommitOk s d)

/-! ## Shared steps -/

/-- Task t, if it is an admitted RELOCATE of an operation. -/
def relocTask (s : State) (t op : Nat) : Option Task :=
  match liveTask s t opReloc with
  | some k => if rlOp k.desc == op then some k else none
  | none => none

/-- A RELOCATE whose conditions fail when it is carried out ends with CTL_REFUSED. -/
def refuseCtl (t : Nat) (s : State) : State := endTask t stCtlRefused 0 0 s

/-- The rows of a shard that remote engines hold. -/
def shardHolders (s : State) (t shard : Nat) : List (Nat × Nat) :=
  let e := dirAt s t
  (s.cat.repdir.filter (fun h => h.1 == t && shardOf e h.2.1 == shard)).map (fun h => (h.1, h.2.1))

/-- Drops the replicas held here of a shard's rows. -/
def dropShardReplicas (t shard : Nat) (s : State) : State :=
  let e := dirAt s t
  let s := onCat (fun c => { c with
    replicas := c.replicas.filter (fun r => !(r.table == t && shardOf e r.row == shard)) }) s
  odSet odCatReplicas s.cat.replicas.length s

/-- The slots that one array names and the other does not return to their rings (R241, R254). -/
def freeArray (d : BitVec 512) (rows tierOld old tierNew new : Nat) (s : State) : State :=
  if sdShelved d then
    forEach (fun p s =>
      let a := leNat (tierLoad s tierOld (32 * old + 8 * p) 8)
      let b := leNat (tierLoad s tierNew (32 * new + 8 * p) 8)
      if 1 < smTier a ∨ (smTier a = smTier b ∧ smLoc a = smLoc b) then s
      else freeSlot (rowS d) (smTier a) (smLoc a) false s) (List.range rows) s
  else s

/-- The descriptor index of the shard that a leaf reads. -/
def leafShard (s : State) (l : Leaf) : Nat := shardIndex (dirAt s (sdTable l.desc)) (sdShard l.desc)

/-- A read of a shard that this engine received before the switch has not completed (R254). -/
def shardReads (s : State) (idx : Nat) : Bool :=
  s.pods.any (fun p => p.2.bags.any (fun b => b.leaves.any (fun l => l.old && l.stage == 1 && leafShard s l == idx)))

/-- The reads of a shard that have been resolved are reads received before its switch: those issued, and those whose shelfmark
or row has come (R228, R251). -/
def markReads (idx : Nat) (s : State) : State :=
  onPods (fun ps => ps.map (fun p => (p.1, { p.2 with bags := p.2.bags.map (fun b => { b with
    leaves := b.leaves.zipIdx.map (fun c =>
      if c.1.stage = 1 ∧ !c.1.dflt ∧ leafShard s c.1 = idx ∧
          p.2.reads.any (fun r => r.task == b.task && r.bag == b.bag && r.leaf == c.2 && (r.issued || r.dep)) then
        { c.1 with old := true }
      else c.1) }) }))) s

/-! ## MOVE_SHARD (R248, R249, R250) -/

/-- C of the companion records of a table, 0 where it has none (R209). -/
def compSize (te : BitVec 128) (dim : Nat) : Nat :=
  let v := te.toNat
  let m := bit (bitOf v 90)
  let kind := bitsOf v 92 91
  let k := if kind = 0 then 0 else if kind = 1 then dim else if kind = 2 then 1 else 2 * dim
  if bitOf v 89 && (m != 0 || kind != 0) then 32 * cdiv (8 + 4 * (m * dim + k)) 32 else 0

/-- COMP_OFF of a training entry, in bytes. -/
def compOff (te : BitVec 128) : Nat := 32 * bitsOf te.toNat 49 0

/-- The companion record of position p of a shard that moves is carried to the same place beside the new array (R209, R249). -/
def copyComp (idx : Nat) (d : BitVec 512) (isLocal : Bool) (base p : Nat) (s : State) : State :=
  let te := tabGet (sdTable d) 0 s.upu.train
  let c := compSize te (sdDim d)
  if c = 0 then s
  else carryBytes idx isLocal (32 * base + compOff te + p * c)
    (tierLoad s (sdTier d) (32 * sdBase d + compOff te + p * c) c) s

/-- The side list of a row that moves is carried to its unchanged address (R248, R249). -/
def copySide (idx : Nat) (d : BitVec 512) (isLocal : Bool) (row : List Byte) (s : State) : State :=
  if rowEscapes d row = 0 then s
  else
    let a := sideAddr d (hkSlot (rowHusk d row))
    carryBytes idx isLocal a (tierLoad s (sdTier d) a (slotSize d)) s

/-- Copies position p of a shard that moves: the side list, the row, or for a shelved shard the row into a slot of the new home
with a new shelfmark, and the companion; none when this engine has no slot (R249). An absent shelfmark is copied as absent. -/
def copyPosition (idx : Nat) (d : BitVec 512) (isLocal : Bool) (base p : Nat) (s : State) : Option State :=
  let a := rowAddr d base p
  match rowPlace s d p with
  | none => some (copyComp idx d isLocal base p (carryBytes idx isLocal a (leBytes 8 (shelfmark s d p)) s))
  | some (tier, ra) =>
    let row := tierLoad s tier ra (rowS d)
    let m := shelfmark s d p
    let s := copySide idx d isLocal row s
    let s := if sdShelved d then carryRow idx isLocal a m row s else some (carryBytes idx isLocal a row s)
    s.map (copyComp idx d isLocal base p)

/-- This engine has no slot for a row of a shard that moves here: the move waits (R232). -/
def copyWaits (idx : Nat) (d : BitVec 512) (s : State) : State :=
  match ringFor s (rowS d) (moveDst s idx).2 with
  | none => odCount odCatSlotWaits 1 s
  | some k => slotsEmpty k s

/-- Copies the positions from p on, n of them, as far as slots last. -/
def copyFrom (t idx : Nat) (d : BitVec 512) (isLocal : Bool) (base : Nat) : Nat → Nat → State → State
  | 0, _, s => s
  | n + 1, p, s =>
    match copyPosition idx d isLocal base p s with
    | none => copyWaits idx d s
    | some s => copyFrom t idx d isLocal base n (p + 1) (modTask t (fun k => { k with copyPos := p + 1 }) s)

/-- Commits that found no slot are mirrored now, as far as slots last (R249). -/
def mirrorOwed (idx : Nat) (d : BitVec 512) (s : State) : State :=
  forEach (fun x s =>
    let s' := onCat (fun c => { c with owed := c.owed.filter (· != x) }) s
    match copyPosition idx d true (sdAlt d) x.2 s' with
    | none => copyWaits idx d s
    | some s => s) (s.cat.owed.filter (fun x => x.1 == idx)) s

/-- MOVE_SHARD: the shard becomes RELOCATING and every position is copied in ascending order. -/
def doMoveShard (t : Nat) (s : State) : State :=
  match relocTask s t 0 with
  | none => s
  | some k =>
    let i := rlIndex s k.desc
    let isLocal := rlEngine k.desc == s.sfp.engineId
    let started := (moveOf s i).any (fun m => m.1 == t)
    if !started && !relocOk s k.desc then refuseCtl t s
    else
      let x := descAt s i
      let s := if started then s else
        onCat (fun c => { c with
            moves := c.moves ++ [(i, t, isLocal, false)], moveTo := tabPut i (rlEngine k.desc, rlTier k.desc) c.moveTo,
            copied := c.copied.filter (fun y => y.2.1 != i) })
          (setDesc i (sdSet (sdSet x 45 44 3) 241 192 (rlBase k.desc)) s)
      let n := shardRows (dirAt s (dTable k.desc)) (sdShard x)
      copyFrom t i (descAt s i) isLocal (rlBase k.desc) (n - k.copyPos) k.copyPos (mirrorOwed i (descAt s i) s)

/-- MOVE_SHARD (R248). -/
def execMoveShard (t : Nat) (s : State) : Host.Outcome State Fault Refusal := .next (doMoveShard t s)

/-- Marks a move as switched. -/
def moveSwitched (i : Nat) (s : State) : State :=
  onCat (fun c => { c with moves := c.moves.map (fun m => if m.1 = i then (m.1, m.2.1, m.2.2.1, true) else m) }) s

/-- The descriptor of the old home after the switch (R250). -/
def switchedDesc (x : BitVec 512) (d : Desc) (isLocal : Bool) : BitVec 512 :=
  let y := sdSet (sdSet (sdSet (sdSet x 45 44 3) 241 192 (sdBase x)) 177 128 (rlBase d)) 43 42 (rlTier d)
  if isLocal then y else sdSet (sdSet y 41 32 (rlEngine d)) 95 64 (rlEpoch d)

/-- The intake number that follows that of the last parcel applied: that of the first parcel still to be applied (R250). -/
def nextApply (s : State) : Nat :=
  (s.upu.journal.filter (fun j => j.st == .received)).foldl (fun n j => min n j.intake) s.upu.intake

/-- The mirror stream of a move has been acknowledged: every chunk of it by the other engine, or every write of it to host DRAM
(R250). -/
def mirrorAcked (s : State) (idx : Nat) (isLocal : Bool) : Bool :=
  let to_ := moveDst s idx
  if isLocal then to_.2 == 0 || !s.hpt.outq.any (fun w => w.path == 0) else copiesAcked s to_.1

/-- A shard may switch: the copy has drained with its mirror, between two parcels (R250). -/
def switchReady (s : State) (idx t n : Nat) (k : Task) : Option Bool :=
  match moveOf s idx with
  | none => none
  | some (t', isLocal, switched) =>
    if t' ≠ t ∨ switched ∨ k.copyPos < n ∨ s.upu.applying.isSome ∨ !mirrorAcked s idx isLocal ∨
        s.cat.owed.any (fun x => x.1 == idx) then none
    else some isLocal

/-- The replicas held here of a shard's rows after its switch: those of a shard that is homed here still lie at their rows' new
places, and those of one that is not go, for its new home knows nothing of them (R247, R262). -/
def switchReplicas (t shard : Nat) (y : BitVec 512) (isLocal : Bool) (s : State) : State :=
  if isLocal then
    let e := dirAt s t
    onCat (fun c => { c with replicas := c.replicas.map (fun r =>
      if r.table = t ∧ shardOf e r.row = shard then { r with place := rowPlace s y (posOf e r.row) } else r) }) s
  else dropShardReplicas t shard s

/-- The forwarding entry of a shard that has moved to another engine is written (Table 9.5). -/
def writeForward (i : Nat) (x : BitVec 512) (d : Desc) (s : State) : State :=
  match fwdFree s with
  | none => s
  | some f => gddrStore (fwdAddr s f)
      (leBytes 32 (fwdMake i (sdTable x) (sdShard x) (rlEngine d) (rlEpoch d) (nextApply s) (sdTier x) (sdBase x))) s

/-- SHARD_SWITCH: between two parcels, with the copy drained and acknowledged and no remote holder left, the shard switches to
its new home or place, and the MOVE_SHARD finishes. A pinned copy of the shard goes (R270). -/
def doShardSwitch (t : Nat) (s : State) : State :=
  match relocTask s t 0 with
  | none => s
  | some k =>
    let i := rlIndex s k.desc
    let s := mirrorOwed i (descAt s i) s
    let x := descAt s i
    match switchReady s i t (shardRows (dirAt s (dTable k.desc)) (sdShard x)) k with
    | none => s
    | some isLocal =>
      let hs := shardHolders s (dTable k.desc) (sdShard x)
      if !hs.isEmpty then forEach (fun h s => askInval h.1 h.2 s) hs s
      else
        let y := switchedDesc x k.desc isLocal
        let s := switchReplicas (dTable k.desc) (sdShard x) y isLocal (setDesc i y (moveSwitched i (markReads i s)))
        let s := onStk (fun u => { u with pinned := u.pinned.filter (fun p => p.idx != i) }) s
        let s := onCat (fun c => { c with copied := c.copied.filter (fun z => z.2.1 != i) }) s
        let s := if isLocal then s
          else
            let z := sdSet (sdSet y 45 44 1) 241 192 0
            reportMove (rlEpoch k.desc) i y
              (sendCtl ctControl (rlEngine k.desc) [1, rlEpoch k.desc, i, z.toNat] none (writeForward i x k.desc s))
        finishTask t s

/-- SHARD_SWITCH (R250). -/
def execShardSwitch (t : Nat) (s : State) : Host.Outcome State Fault Refusal := .next (doShardSwitch t s)

/-! ## MOVE_ROW (R236) -/

/-- MOVE_ROW: reads the shelfmark and copies the row to a slot of the new tier. Its husk goes with it, and so its side list stays
where that names it (R166). -/
def doMoveRow (t : Nat) (s : State) : State :=
  match relocTask s t 1 with
  | none => s
  | some k =>
    if k.copyPos ≠ 0 then s
    else if !relocOk s k.desc then refuseCtl t s
    else
      let x := descAt s (rlIndex s k.desc)
      let m := shelfmark s x (posOf (dirAt s (dTable k.desc)) (rlRow k.desc))
      let put (loc : Nat) (s : State) : State :=
        let s := tierStore (rlTier k.desc) (32 * loc) (tierLoad s (smTier m) (32 * smLoc m) (rowS x)) .output s
        modTask t (fun k => { k with copyPos := 1 + folio s, moveMark := m, moveSlot := loc }) s
      if rlBase k.desc ≠ 0 then put (rlBase k.desc) s
      else
        match ringFor s (rowS x) (rlTier k.desc) with
        | none => s
        | some r =>
          match nextSlot s r with
          | none => slotsEmpty r s
          | some (loc, fromRet) => put loc (takeSlot r fromRet s)

/-- MOVE_ROW (R236). -/
def execMoveRow (t : Nat) (s : State) : Host.Outcome State Fault Refusal := .next (doMoveRow t s)

/-- MOVE_ROW_COMMIT: commits the new shelfmark if the current one still holds what was read, and the copy has ended by the end
of the folio after its start; else the task ends with CTL_REFUSED and the fresh slot returns to its ring. A copy to host DRAM
ends with the acknowledgement of its write. -/
def doMoveRowCommit (t : Nat) (s : State) : State :=
  match relocTask s t 1 with
  | none => s
  | some k =>
    if k.copyPos = 0 then s
    else
      let i := rlIndex s k.desc
      let x := descAt s i
      let pos := posOf (dirAt s (dTable k.desc)) (rlRow k.desc)
      let a := rowAddr x (sdBase x) pos
      let m := shelfmark s x pos
      if smAccession m = smAccession k.moveMark ∧ smLoc m = smLoc k.moveMark ∧ folio s ≤ k.copyPos then
        if rlTier k.desc = 1 ∧ hostPending s (32 * k.moveSlot) (rowS x) then s
        else
          let new := smMake (rlTier k.desc) ((smAccession m + 1) % 4096) k.moveSlot
          let s := toTwin (rlTier k.desc) (32 * k.moveSlot) (tierLoad s (rlTier k.desc) (32 * k.moveSlot) (rowS x)) s
          let s := toTwin (sdTier x) a (leBytes 8 new) (tierStore (sdTier x) a (leBytes 8 new) .output s)
          let s := rowPlaced (dTable k.desc) (rlRow k.desc) i pos (rlTier k.desc) (32 * k.moveSlot) s
          finishTask t (freeSlot (rowS x) (smTier m) (smLoc m) false s)
      else
        let s := if rlBase k.desc = 0 then freeSlot (rowS x) (rlTier k.desc) k.moveSlot true s else s
        refuseCtl t (odCount odCatMovesLost 1 s)

/-- MOVE_ROW_COMMIT (R236). -/
def execMoveRowCommit (t : Nat) (s : State) : Host.Outcome State Fault Refusal := .next (doMoveRowCommit t s)

/-! ## Replicas (R246, R272) -/

/-- Holds a row as a replica. -/
def holdReplica (r : Replica) (s : State) : State :=
  let s := onCat (fun c => { c with
    replicas := c.replicas.filter (fun x => !(x.table == r.table && x.row == r.row)) ++ [r] }) s
  odSet odCatReplicas s.cat.replicas.length s

/-- REPLICATE_ROW: reads the row from its home and holds it in Stacks. A remote row is asked for with READ_REQ, and
its READ_RSP brings it. -/
def doReplicateRow (t : Nat) (s : State) : State :=
  match relocTask s t 2 with
  | none => s
  | some k =>
    if k.ctlSeq.isSome then s
    else if !relocOk s k.desc then refuseCtl t s
    else
      let x := descAt s (rlIndex s k.desc)
      let e := dirAt s (dTable k.desc)
      let pos := posOf e (rlRow k.desc)
      if isHome s x then
        match rowPlace s x pos with
        | none => refuseCtl t s
        | some (tier, a) =>
          match tierFlt s tier a (rowS x) with
          | some f => taskFault t (faultPod k) 0 f s
          | none =>
            let row := tierLoad s tier a (rowS x)
            let side := if rowEscapes x row = 0 then []
              else tierLoad s (sdTier x) (sideAddr x (hkSlot (rowHusk x row))) (slotSize x)
            if replicaRoom s < replicaUsed s + replicaLines row side then refuseCtl t s
            else finishTask t (holdReplica { table := dTable k.desc, row := rlRow k.desc, home := sdHome x,
                                             data := row, side := side, place := some (tier, a) } s)
      else
        let s := modTask t (fun k => { k with ctlSeq := some s.sfp.xid, moveMark := s.sfp.epoch }) s
        sendCell ctReadReq (sdHome x) 16 (readReqWords (rlRow k.desc) (dTable k.desc) false false true 0 s.sfp.epoch) s

/-- REPLICATE_ROW (R246). -/
def execReplicateRow (t : Nat) (s : State) : Host.Outcome State Fault Refusal := .next (doReplicateRow t s)

/-- DROP_REPLICA: the replica goes, and a remote row's home is told, so that its directory forgets this holder. -/
def doDropReplica (t : Nat) (s : State) : State :=
  match relocTask s t 3 with
  | none => s
  | some k =>
    if !relocOk s k.desc then refuseCtl t s
    else
      let x := descAt s (rlIndex s k.desc)
      let held := s.cat.replicas.any (fun r => r.table == dTable k.desc && r.row == rlRow k.desc)
      let s := onCat (fun c => { c with
        replicas := c.replicas.filter (fun r => !(r.table == dTable k.desc && r.row == rlRow k.desc)) }) s
      let s := odSet odCatReplicas s.cat.replicas.length s
      let s := if held && !isHome s x then sendCtl ctInvalAck (sdHome x) [dTable k.desc, rlRow k.desc] none s else s
      finishTask t s

/-- DROP_REPLICA (R246). -/
def execDropReplica (t : Nat) (s : State) : Host.Outcome State Fault Refusal := .next (doDropReplica t s)

/-! ## DRAIN_FENCE (R241, R254) -/

/-- DRAIN_FENCE: checked as it is carried out; before the commit it abandons a replacement at once, and otherwise it
waits for its conditions. -/
def doDrainFence (t : Nat) (s : State) : State :=
  match relocTask s t 4 with
  | none => s
  | some k =>
    if !relocOk s k.desc then refuseCtl t s
    else
      let i := rlIndex s k.desc
      let x := descAt s i
      if sdState x = 2 ∧ !s.cat.committed.contains i then
        let n := shardRows (dirAt s (dTable k.desc)) (sdShard x)
        let s := freeArray x n (sdTier x) (sdAlt x) (sdTier x) (sdBase x) s
        finishTask t (setDesc i (sdSet (sdSet x 45 44 1) 241 192 0) s)
      else s

/-- DRAIN_FENCE (R254). -/
def execDrainFence (t : Nat) (s : State) : Host.Outcome State Fault Refusal := .next (doDrainFence t s)

/-- The oldest admission folio of the tasks here that have not completed. A DRAIN_FENCE stands outside it, or no fence that
waits for the floor could ever end (R241, R242; log 47). -/
def ownAdmFloor (s : State) : Nat :=
  (s.cfe.tasks.filter (fun k => !(dOp k.desc == opReloc && rlOp k.desc == 4) && k.admitFolio != 0 && !isOver k)).foldl
    (fun m k => min m k.admitFolio) (folio s)

/-- The older of two placement epochs. -/
def epochMin (a b : Nat) : Nat := if epochOlder a b then a else b

/-- The epochs that the reads in flight to other engines name: those of lookups, and those of REPLICATE_ROW (R242). -/
def readEpochs (s : State) : List Nat :=
  podNums.flatMap (fun p => ((getPod s p).reads.filter (fun r => r.issued && r.space == 4)).map (·.epoch)) ++
  (s.cfe.tasks.filter (fun k => dOp k.desc == opReloc && rlOp k.desc == 2 && k.ctlSeq.isSome && !isOver k)).map (·.moveMark)

/-- The oldest placement epoch named by an unacknowledged parcel or by a read in flight (R242). -/
def ownEpochFloor (s : State) : Nat :=
  (s.upu.ring.map (fun r => phEpoch r.2.parcel.hdr) ++ readEpochs s).foldl epochMin s.sfp.epoch

/-- This engine belongs to no Collection (R337). -/
def alone (s : State) : Bool := s.sfp.collId == 0 || !isMember s s.sfp.engineId

/-- The admission floor (R242): this engine's own where it belongs to no Collection. -/
def admFloorNow (s : State) : Nat := if alone s then ownAdmFloor s else s.sfp.admFloor

/-- The epoch floor has reached an epoch (R242, R254): this engine's own floor where it belongs to no Collection. -/
def epochFloorAt (s : State) (e : Nat) : Bool := !epochOlder (if alone s then ownEpochFloor s else s.sfp.epochFloor) e

/-- Every forwarding parcel to an engine has been acknowledged. -/
def forwardsDone (s : State) (dst : Nat) : Bool :=
  !s.upu.ring.any (fun r => r.1 == dst && r.2.fwd.isSome)

/-- DRAIN_FENCE_COMPLETE: the second copy of the shard ends, and its slots return to their rings. -/
def doDrainFenceComplete (t : Nat) (s : State) : State :=
  match relocTask s t 4 with
  | none => s
  | some k =>
    let i := rlIndex s k.desc
    let x := descAt s i
    let n := shardRows (dirAt s (dTable k.desc)) (sdShard x)
    let close (s : State) : State :=
      onCat (fun c => { c with moves := c.moves.filter (fun m => m.1 != i), committed := c.committed.filter (· != i) })
        (setDesc i (sdSet (sdSet x 45 44 1) 241 192 0) s)
    if sdState x = 2 then
      if s.cat.committed.contains i ∧ k.admitFolio < admFloorNow s then
        finishTask t (freeArray x n (sdTier x) (sdAlt x) (sdTier x) (sdBase x) (close s))
      else s
    else if sdState x = 3 then
      match fwdOf s i with
      | some (slot, f) =>
        if !shardReads s i && epochFloorAt s (fwEpoch f) && forwardsDone s (fwEngine f) then
          let s := gddrStore (fwdAddr s slot) (List.replicate 32 0) (close s)
          finishTask t (if sdShelved x then
            forEach (fun p s =>
              let a := leNat (tierLoad s (fwOldTier f) (32 * fwOldBase f + 8 * p) 8)
              if 1 < smTier a then s else freeSlot (rowS x) (smTier a) (smLoc a) false s) (List.range n) s else s)
        else s
      | none =>
        match moveOf s i with
        | some (t', true, true) =>
          let oldTier := 1 - sdTier x
          if shardReads s i ∨ t' = t then s
          else finishTask t (freeArray x n oldTier (sdAlt x) (sdTier x) (sdBase x) (close s))
        | _ => s
    else s

/-- DRAIN_FENCE_COMPLETE (R254). -/
def execDrainFenceComplete (t : Nat) (s : State) : Host.Outcome State Fault Refusal := .next (doDrainFenceComplete t s)

/-! ## Replacement of a shard (R237, R239) -/

/-- REPLACE_BEGIN: copies the shard's live array to NEW_BASE in the home tier. -/
def doReplaceBegin (t : Nat) (s : State) : State :=
  match relocTask s t 5 with
  | none => s
  | some k =>
    if k.copyPos ≠ 0 then s
    else if !relocOk s k.desc then refuseCtl t s
    else
      let x := descAt s (rlIndex s k.desc)
      let n := arrayBytes (dirAt s (dTable k.desc)) x
      match tierFlt s (sdTier x) (32 * sdBase x) n, tierFlt s (sdTier x) (32 * rlBase k.desc) n with
      | some f, _ => taskFault t (faultPod k) 0 f s
      | none, some f => taskFault t (faultPod k) 0 f s
      | none, none =>
        let bs := tierLoad s (sdTier x) (32 * sdBase x) n
        modTask t (fun k => { k with copyPos := 1 })
          (toTwin (sdTier x) (32 * rlBase k.desc) bs (tierStore (sdTier x) (32 * rlBase k.desc) bs .output s))

/-- REPLACE_BEGIN (R237). -/
def execReplaceBegin (t : Nat) (s : State) : Host.Outcome State Fault Refusal := .next (doReplaceBegin t s)

/-- REPLACE_COPY_DONE: the shard becomes REPLACING with ALT_BASE NEW_BASE, and the task completes. -/
def doReplaceCopyDone (t : Nat) (s : State) : State :=
  match relocTask s t 5 with
  | none => s
  | some k =>
    if k.copyPos = 0 then s
    else
      let i := rlIndex s k.desc
      finishTask t (setDesc i (sdSet (sdSet (descAt s i) 45 44 2) 241 192 (rlBase k.desc)) s)

/-- REPLACE_COPY_DONE (R237). -/
def execReplaceCopyDone (t : Nat) (s : State) : Host.Outcome State Fault Refusal := .next (doReplaceCopyDone t s)

/-- The descriptor after a REPLACE_COMMIT (R239). -/
def committedDesc (x : BitVec 512) : BitVec 512 :=
  sdSet (sdSet (sdSet x 177 128 (sdAlt x)) 241 192 (sdBase x)) 111 96 ((sdReplaceEpoch x + 1) % 65536)

/-- REPLACE_COMMIT: swaps the bases, raises REPLACE_EPOCH and drops the replicas, once no remote holder is left; the Registrar
hears of the changed descriptor. -/
def doReplaceCommit (t : Nat) (s : State) : State :=
  match relocTask s t 6 with
  | none => s
  | some k =>
    if !relocOk s k.desc then refuseCtl t s
    else
      let i := rlIndex s k.desc
      let x := descAt s i
      let hs := shardHolders s (dTable k.desc) (sdShard x)
      if !hs.isEmpty then forEach (fun h s => askInval h.1 h.2 s) hs s
      else
        let s := setDesc i (committedDesc x) (dropShardReplicas (dTable k.desc) (sdShard x) s)
        let s := onCat (fun c => { c with committed := c.committed ++ [i] }) s
        let s := onStk (fun u => { u with pinned := u.pinned.filter (fun p => p.idx != i) }) s
        finishTask t (reportMove s.sfp.epoch i (committedDesc x) s)

/-- REPLACE_COMMIT (R239). -/
def execReplaceCommit (t : Nat) (s : State) : Host.Outcome State Fault Refusal := .next (doReplaceCommit t s)

end Sys2Proof.Machine
end

