-- ==== Sys2Proof/Machine/Checks.lean ====
section
/-! DEFINITION. The checks before admission (R79, Table 3.17, with R179, R210 and R392) and the cost estimate (R88). -/

namespace Sys2Proof.Machine

/-! ## The form of a descriptor: the BAD_DESCRIPTOR rows of Table 3.17 -/

/-- The opcodes of Table 3.7. -/
def opcodes : List Nat :=
  [opNop, opFence, opSync, opLookup, opFold, opUpdate, opRowWrite, opCtl, opReloc, opGOpen, opGClose, opTRead, opTWrite,
   opZero, opSprout]

/-- OUT_FMT is not reserved. -/
def outFmtOk (f : Nat) : Bool := decide (f ≤ 6)

/-- No enumerated field of a lookup holds a reserved value (R68). -/
def lookupEnums (d : Desc) : Bool :=
  decide (dPool d ≤ 6) && decide (dInline d ≤ 2) && outFmtOk (dOutFmt d) && decide (dFuseOp d ≤ 2) &&
  decide (dFuseFmt d ≤ 2) && (dOp d != opFold || df d 739 738 != 3)

/-- No enumerated field of an UPDATE holds a reserved value (R70). -/
def updateEnums (d : Desc) : Bool := decide (dPool d ≤ 6) && decide (dInline d ≤ 2) && decide (dGradFmt d ≤ 2)

/-- OPCODE, LAT and every enumerated field of the body hold values that are not reserved. -/
def enumsOk (d : Desc) : Bool :=
  let op := dOp d
  opcodes.contains op && decide (dLat d < 3) &&
  (if op == opLookup || op == opFold then lookupEnums d
   else if op == opUpdate then updateEnums d
   else if op == opCtl then decide (1 ≤ tcOp d) && decide (tcOp d ≤ 5)
   else if op == opReloc then decide (rlOp d ≤ 6) && decide (rlTier d < 2)
   else if op == opSync then decide (syOp d ≤ 5)
   else if op == opGClose then decide (gpFuseOp d ≤ 2) && decide (gpFuseFmt d ≤ 2) && outFmtOk (gpOutFmt d)
   else true)

/-- ORDERED and STRICT stand only where they may (Table 3.17). -/
def flagsOk (d : Desc) : Bool :=
  let op := dOp d
  (!dOrdered d || op == opUpdate) && (!dStrict d || !(op == opNop || op == opFence || op == opSync))

/-- The address words of a descriptor, with whether each is required. -/
def addrWords (d : Desc) : List (Nat × Bool) :=
  let op := dOp d
  let inl := dInline d ≠ 0
  if op == opLookup || op == opFold then
    [(dOutAddr d, true)] ++
    (if inl then [] else [(dIndexAddr d, true), (dOffsetAddr d, true), (dWeightAddr d, false), (dFuseAddr d, false)]) ++
    (if op == opFold && !inl then [(dFoldW d, true), (dFoldScale d, true)] else [])
  else if op == opUpdate then
    [(dOutAddr d, true)] ++
    (if inl then [] else [(dIndexAddr d, true), (dOffsetAddr d, true), (dWeightAddr d, false)])
  else if op == opRowWrite then [(rwSrc d, !rwInline d)]
  else if op == opCtl then [(tcAddr d, tcOp d == 4 || tcOp d == 5 || (!(tcInline d) && tcOp d != 3))]
  else if op == opGClose then [(gpFuseAddr d, false), (gpOutAddr d, false)]
  else if op == opTRead || op == opTWrite then [(tlAddr d, true)]
  else if op == opZero then [(tlAddr d, false)]
  else if op == opSprout then [(spSrc d, true)]
  else []

/-- Every address word is well formed, and every required one names something. -/
def addrsOk (d : Desc) : Bool := (addrWords d).all (fun w => awOk w.1 && (!w.2 || w.1 != 0))

/-- BAG_COUNT, INDEX_COUNT and the inline form (Table 3.17). An inline task has no pinning (R69). -/
def countsOk (d : Desc) : Bool :=
  decide (dBags d ≠ 0) &&
  (if dInline d = 0 then decide (dIndexCount d ≠ 0) && dInlineCount d == 0
   else
    decide (1 ≤ dInlineCount d) && decide (dInlineCount d ≤ dInlineMax d) && dInlineCount d % dBags d == 0 &&
    (dInline d != 1 || dPool d != 3) && (dInline d != 2 || dPool d == 3) && (!dIsLookup d || !dPin d))

/-- WEIGHT_ADDR and FUSE_ADDR (Table 3.17). -/
def weightFuseOk (d : Desc) : Bool :=
  (dInline d ≠ 0 || (dPool d == 3) == (dWeightAddr d != 0)) &&
  (dOp d == opUpdate || (dFuseOp d != 0) == (dFuseAddr d != 0))

/-- What else Table 3.17 and R179 ask of a lookup's form. -/
def lookupForm (d : Desc) : Bool :=
  countsOk d && weightFuseOk d && (dPool d != 6 || dFuseOp d == 0) && (dPin d || dPinEpoch d == 0) &&
  (dOp d != opFold || (dInline d == 0 && dPool d != 6 && dFoldN d % 8 == 0))

/-- What Table 3.17 and Table 8.5 ask of an UPDATE's form. -/
def updateForm (d : Desc) : Bool :=
  countsOk d && weightFuseOk d && dPool d != 4 && dPool d != 5 && !(dDeep d && dOrdered d)

/-- A ZERO names tiles or memory, and not both; LENGTH is a multiple of its unit (R75). -/
def zeroForm (d : Desc) : Bool :=
  let sp := awSpace (tlAddr d)
  if gpCount d ≠ 0 then tlAddr d == 0 && tlLength d == 0
  else tlAddr d != 0 && gpFirst d == 0 && (sp == 1 || sp == 2) && tlLength d % (if sp = 1 then 64 else 128) == 0

/-- What Table 3.17 asks of the form of the other opcodes. An engine's number belongs to remote operations only. -/
def otherForm (d : Desc) : Bool :=
  let op := dOp d
  if op == opRowWrite then
    decide (rwCount d ≠ 0) && (!rwInline d || (rwCount d == 1 && !rwQuant d))
  else if op == opZero then zeroForm d
  else if op == opSync then
    (syTimeout d == 0 || syOp d == 2 || syOp d == 3) && (syEngine d == 0 || decide (4 ≤ syOp d))
  else if op == opGOpen || op == opTRead || op == opTWrite then decide (gpCount d ≠ 0)
  else if op == opGClose then (gpFuseOp d != 0) == (gpFuseAddr d != 0)
  else if op == opSprout then !spAll d || spPod d == 0
  else true

/-- The form is right: none of the BAD_DESCRIPTOR rows that need no table applies. -/
def formOk (d : Desc) : Bool :=
  enumsOk d && reservedOk d && flagsOk d && addrsOk d &&
  (if dIsLookup d then lookupForm d else if dOp d == opUpdate then updateForm d else otherForm d)

/-- A ROW_WRITE with its row inline and a stored size above 96 bytes (Table 3.17). -/
def inlineTooLong (s : State) (d : Desc) : Bool :=
  dOp d == opRowWrite && rwInline d && deValid (dirAt s (dTable d)) && decide (96 < rowS (shard0Of s (dTable d)))

/-! ## The other rows of Table 3.17 -/

/-- The output of a lookup names Fold tiles, or a byte that is no multiple of 4 (R142, R179). -/
def badTileOut (d : Desc) : Bool :=
  dIsLookup d && dToTiles d &&
  (decide (bitsOf (dOutTileAddr d) 29 26 ≠ 0) || decide (dOutTileAddr d % 4 ≠ 0))

/-- The access entry of a queue (Table 15.8). -/
def aclOf (s : State) (q : Nat) : Nat := bitsOf (odGet s odSecQAcl) (128 * q + 127) (128 * q)

/-- The Table ID that a descriptor names (R392). -/
def aclTable (d : Desc) : Option Nat :=
  let op := dOp d
  if dIsIndexed d || op == opRowWrite || op == opReloc then some (dTable d)
  else if op == opCtl then some (tcTable d) else none

/-- An address word that an access entry allows (R392). -/
def aclAddr (a w : Nat) : Bool :=
  let unit := awAddr w / 2 ^ 26
  (awPath w != 1 || bitOf a 67) &&
  (match awSpace w with
   | 0 => true
   | 1 => bitOf a 64 && decide (bitsOf a 115 104 ≤ unit) && decide (unit ≤ bitsOf a 127 116)
   | 2 => bitOf a 65
   | _ => bitOf a 66)

/-- The queue may do what the descriptor asks (R392). -/
def aclOk (s : State) (q : Nat) (d : Desc) : Bool :=
  let a := aclOf s q
  let op := dOp d
  (match aclTable d with
   | none => true
   | some t => decide (bitsOf a 15 0 ≤ t) && decide (t ≤ bitsOf a 31 16)) &&
  (op != opSync || (decide (bitsOf a 51 40 ≤ syCounter d) && decide (syCounter d ≤ bitsOf a 63 52) &&
    (decide (syOp d < 4) || bitOf a 68))) &&
  (!(op == opCtl || op == opReloc || op == opSprout) || bitOf a 69) &&
  (addrWords d).all (fun w => w.1 == 0 || aclAddr a w.1) &&
  (!(op == opGOpen || op == opGClose || op == opTRead || op == opTWrite || (op == opZero && gpCount d != 0)) || bitOf a 66)

/-- A training entry (Table 8.3). -/
def trainAt (s : State) (t : Nat) : BitVec 128 := tabGet t 0 s.upu.train
/-- Where the training entry of a table lies (Table 8.8). -/
def trainAddr (s : State) (t : Nat) : Nat := s.upu.ledgerBase + 0x800000 + 16 * t
/-- The training entry of a table cannot be read: a task that needs it is admitted all the same (R208). -/
def trainBad (s : State) (t : Nat) : Bool := gddrBad s (trainAddr s t) 16
/-- MASTER in force. -/
def teMaster (e : BitVec 128) : Bool := bitOf e.toNat 89 && bitOf e.toNat 90
/-- STATE_KIND in force. -/
def teKind (e : BitVec 128) : Nat := if bitOf e.toNat 89 then bitsOf e.toNat 92 91 else 0

/-- UPU_OPT_k, the optimiser slot k. -/
def optSlot (s : State) (k : Nat) : Nat := odGet s (odUpuOpt + k)
/-- KIND of slot k (Table 8.2; slot 0 is ADD). -/
def optKind (s : State) (k : Nat) : Nat := if k = 0 then 0 else bitsOf (optSlot s k) 2 0
/-- The STATE_KIND that an optimiser kind needs: 0 ADD, 1 SGD, 2 MOMENTUM, 3 ROWWISE, 4 MOMENTS. -/
def kindNeeds (k : Nat) : Nat := match k with | 2 => 1 | 3 => 2 | 4 => 3 | _ => 0

/-- The TABLE_MISMATCH rows: the directory, Table 3.17, R179 and Table 8.5. -/
def tableOk (s : State) (d : Desc) : Bool :=
  let op := dOp d
  if dIsIndexed d || op == opRowWrite || op == opReloc then
    let e := dirAt s (dTable d)
    let x := shard0Of s (dTable d)
    let te := trainAt s (dTable d)
    let wide := sdFmt x == 8 || sdFmt x == 10
    let bad := trainBad s (dTable d)
    deValid e &&
    (!(dIsLookup d && (dPool d == 4 || dPool d == 5)) || !sdRot x) &&
    (op != opFold || decide (sdDim x * dFoldN d * dWBits d / 8 ≤ 2097152)) &&
    (op != opUpdate || (sdTrain x && (bad || ((wide || teMaster te) && teKind te == kindNeeds (optKind s (dOpt d)))))) &&
    (op != opRowWrite || (decide (rwRow d + rwCount d ≤ deRows e) && (!sdTrain x || wide || bad || teMaster te)))
  else true

/-- A TABLE_CTL meets R47, R48, R51, R72 and R461 as far as its body, and its inline data, show (R462). -/
def ctlOk (s : State) (d : Desc) : Bool :=
  let t := tcTable d
  match tcOp d with
  | 1 => !tcInline d || writeDirOk s t (tcDir d)
  | 2 => inRange (dirAt s t) (tcIndex d) && (!tcInline d || writeDescOk s t (tcIndex d) (tcDesc d))
  | 3 => setStateOk s t (tcIndex d) (tcState d)
  | 4 => readDescOk s t (tcIndex d)
  | _ => true

/-- The status with which a descriptor of queue q is refused: the earliest row of Table 3.17 that applies (R79). The
NO_GROUP row, which needs the groups as admission leaves them, is decided there. -/
def refusal (s : State) (q : Nat) (d : Desc) : Option Nat :=
  if !formOk d || inlineTooLong s d then some stBadDescriptor
  else if badTileOut d then some stAddressFault
  else if !aclOk s q d then some stAccessDenied
  else if !tableOk s d then some stTableMismatch
  else if dOp d == opCtl && !ctlOk s d then some stCtlRefused
  else if dOp d == opReloc && !relocOk s d then some stCtlRefused
  else none

/-! ## The cost estimate (R88) -/

/-- A table is pinned: an enabled entry of STK_PIN names it (R270). -/
def isPinned (s : State) (t : Nat) : Bool :=
  (List.range 16).any (fun k => let v := odGet s (odStkPin + k); bitOf v 16 && bitsOf v 15 0 == t)

/-- GRAIN and RATE of a table's tier (R88). -/
def grainRate (s : State) (t : Nat) (x : BitVec 512) : Nat × Nat :=
  if isPinned s t then (128, odGet s odCfeRateStacks)
  else if sdHome x ≠ s.sfp.engineId then (32, odGet s odCfeRateRemote)
  else if sdTier x = 0 then (64, odGet s odCfeRateGddr)
  else (128, odGet s odCfeRateHost)

/-- The larger of two fractions. -/
def fracMax (a b : Nat × Nat) : Nat × Nat := if a.1 * b.2 < b.1 * a.2 then b else a

/-- e of R88: cost units of one exported row. -/
def exportCost (d : Desc) (dim : Nat) : Nat := cdiv dim 1024 * (if outNarrow (dOutFmt d) then 2 else 1)

/-- p of R88. -/
def foldPlanes (d : Desc) : Nat := match dInBits d with | 2 => 1 | 3 => 2 | 4 => 2 | _ => 4

/-- The numerator of f over 6,400 (R88). -/
def foldCost6400 (d : Desc) (dim : Nat) : Nat :=
  if dOp d = opFold then
    40 * (dBags d * dim * cdiv (dFoldN d) 1024 * foldPlanes d) +
    (if dPreloaded d then 0 else dim * dFoldN d * dWBits d)
  else 0

/-- Output rows of a lookup. -/
def outRows (d : Desc) : Nat := if dPool d = 6 then dIndexCount d else dBags d

/-- The cost estimate of a task (R88). -/
def costOf (s : State) (d : Desc) : Nat :=
  let c0 := odGet s odCfeTaskBase
  let op := dOp d
  let x := shard0Of s (dTable d)
  let dim := sdDim x
  let gr := grainRate s (dTable d) x
  if dIsLookup d then
    let g := gr.1 * cdiv (rowS x) gr.1
    let m := fracMax (1, 4) (fracMax (dim, 1024) (g, gr.2))
    c0 + cdiv (dIndexCount d * m.1 * 6400 + outRows d * exportCost d dim * m.2 * 6400 + foldCost6400 d dim * m.2) (m.2 * 6400)
  else if op == opUpdate then
    let m := fracMax (1, 4) (fracMax (dim, 1024) (4 * dim, gr.2))
    c0 + cdiv (dIndexCount d * m.1 + dBags d * cdiv dim 1024 * m.2) m.2
  else if op == opRowWrite then c0 + cdiv (rwCount d * rowS x) gr.2
  else if op == opTRead || op == opTWrite || op == opZero then
    c0 + cdiv (if op == opZero && gpCount d == 0 then tlLength d else 1024 * gpCount d) 512
  else c0

end Sys2Proof.Machine
end

