-- ==== Sys2Proof/Machine/Admission.lean ====
section
/-! DEFINITION. Admission by the FSU (14, R362 to R366), the deal of bags (R14, R119, R224) and the checks of tiles and
groups that are made at admission (R141, R142, NO_GROUP of Table 3.17). -/

namespace Sys2Proof.Machine

/-! ## Budgets (R363) -/

/-- The sixteenths of the configured Pod clock that remain at pressure p (Table 16.7). -/
def podSixteenths (p : Nat) : Nat := if p ≤ 12 then 16 else 16 - 2 * (p - 12)

/-- The effective clock of the Pods, kHz (R401, R413). -/
def podKhzNow (s : State) : Nat :=
  (if s.cru.coast then 250000 else s.cru.podKhz) * podSixteenths s.cru.pressure / 16

/-- pct of phase 0 G, 1 F, 2 X, in percent. -/
def pctOf (s : State) (ph : Nat) : Nat := bitsOf (odGet s odFsuPct) (8 * ph + 7) (8 * ph)

/-- The period in effect, × 10 ns. -/
def periodNow (s : State) : Nat := odGet s odFsuPeriodNow

/-- B of budget 3 Pod + phase, or of phase C at 48, for a folio that starts now (R363); 0 on a Pod that is down (R440). -/
def budgetAt (s : State) (key : Nat) : Int :=
  if key = 48 then odGet s odFsuBudgetC
  else if (getPod s (key / 3)).retired then 0
  else (periodNow s * podKhzNow s * pctOf s (key % 3) / (100000 * 100) : Nat)

/-- B of a budget in this folio. -/
def fullBudget (s : State) (key : Nat) : Int := (tabFind key s.fsu.full).getD (budgetAt s key)

/-- R of a budget. -/
def remaining (s : State) (key : Nat) : Int := (tabFind key s.fsu.remaining).getD (fullBudget s key)

/-- At least t has passed since the folio began, × 10 ns; J_FOLIO_OUT falls after 1 µs (R360). -/
def timePassed (t : Nat) (s : State) : State :=
  let s := onFsu (fun f => { f with elapsed := max f.elapsed t }) s
  onCru (fun c => { c with folioOut := c.folioOut && decide (t < 100) }) s

/-- ELAPSED (R376): in the pass at the folio start no time has passed; later it is a free value between what is known to have
passed and 1.25 periods (log 45). -/
def timeNow (s : State) : Nat :=
  if s.fsu.pass then s.fsu.elapsed
  else s.fsu.elapsed + (freeNow s).toNat % (5 * periodNow s / 4 - s.fsu.elapsed + 1)

/-- The time of an admission is settled: a later one comes no earlier. -/
def settleTime (s : State) : State := if s.fsu.pass then s else drawn (timePassed (timeNow s) s)

/-- The cap by the time left in the folio; phase C has none. -/
def timeCap (s : State) (key : Nat) : Int :=
  ((periodNow s - s.fsu.elapsed) * podKhzNow s * pctOf s (key % 3) / (100000 * 100) : Nat)

/-! ## Phases and the deal (R14, R362) -/

/-- Work that is charged to phase C (R362). -/
def isControl (d : Desc) : Bool :=
  let op := dOp d
  op == opNop || op == opFence || op == opSync || op == opCtl || op == opReloc || op == opGOpen || op == opGClose ||
  op == opSprout || (op == opZero && gpCount d == 0)

/-- The phase costs G, F, X and C of a task (R362). -/
def phasesOf (s : State) (k : Task) : Nat × Nat × Nat × Nat :=
  let d := k.desc
  let dim := sdDim (shard0Of s (dTable d))
  if isControl d then (0, 0, 0, k.cost)
  else if dIsLookup d then
    let x := outRows d * exportCost d dim
    let f := cdiv (foldCost6400 d dim) 6400
    (k.cost - x - f, f, x, 0)
  else if dOp d = opUpdate then
    let x := dBags d * cdiv dim 1024
    (k.cost - x, 0, x, 0)
  else if dOp d = opRowWrite then (k.cost, 0, 0, 0)
  else
    let x := k.cost - k.base
    (k.cost - x, 0, x, 0)

/-- What a task deals: its bags, or the rows of a ROW_WRITE. -/
def dealt (d : Desc) : Nat := if dIsIndexed d then dBags d else if dOp d = opRowWrite then rwCount d else 0

/-- The active Pods in the order of a deal that starts at a Pod. -/
def dealOrder (s : State) (start : Nat) : List Nat :=
  let a := activePods s
  a.filter (start ≤ ·) ++ a.filter (· < start)

/-- The Pod from which a task is dealt: the next one (R14), or Pod 0 for an ORDERED UPDATE (R224). -/
def dealStart (s : State) (d : Desc) : Nat := if dOrdered d then 0 else s.cfe.dealNext

/-- The Pod of bag i in an order of Pods. -/
def dealPod (order : List Nat) (i : Nat) : Nat := order.getD (i % order.length) 0

/-- The deal of a task's bags. -/
def dealOf (s : State) (d : Desc) : List Deal :=
  let order := dealOrder s (dealStart s d)
  if dIsIndexed d then (List.range (dBags d)).map (fun i => { bag := i, pod := dealPod order i }) else []

/-- b_p: how many of n bags an order gives to Pod p. -/
def dealCount (order : List Nat) (n p : Nat) : Nat :=
  match order.findIdx? (· == p) with
  | none => 0
  | some i => (n + order.length - 1 - i) / order.length

/-- The shares of a task: budget and amount (R362). -/
def sharesOf (s : State) (k : Task) (ph : Nat × Nat × Nat × Nat) : List (Nat × Nat) :=
  let d := k.desc
  if isControl d then [(48, ph.2.2.2)]
  else if dealt d = 0 then
    let p := tilePod (gpFirst d)
    [(3 * p, ph.1), (3 * p + 2, ph.2.2.1)]
  else
    let order := dealOrder s (dealStart s d)
    let n := dealt d
    order.flatMap (fun p =>
      let b := dealCount order n p
      [(3 * p, cdiv (ph.1 * b) n), (3 * p + 1, cdiv (ph.2.1 * b) n), (3 * p + 2, cdiv (ph.2.2.1 * b) n)])

/-! ## Tiles (R138, R141, R142) -/

/-- The output row size of a projection of n columns: a narrow one is a row of its own for each block of 1,024 columns
(R187). -/
def foldOutSize (f n : Nat) : Nat :=
  if outNarrow f then n / 1024 * outSize f 1024 + (if n % 1024 = 0 then 0 else outSize f (n % 1024)) else outSize f n

/-- The bytes of one output row (R68, R142, R151, R187). -/
def outRowBytes (d : Desc) (dim : Nat) : Nat :=
  let n := if dOp d = opFold then dFoldN d else dim
  if dToTiles d then 4 * n else if dOp d = opFold then foldOutSize (dOutFmt d) n else outSize (dOutFmt d) n

/-- The distance between output rows (R68, R142). -/
def outPitch (d : Desc) (dim : Nat) : Nat := if dOutStride d = 0 then outRowBytes d dim else 32 * dOutStride d

/-- A run of tiles: Pod, kind, first and count. -/
structure TileRun where
  pod : Nat
  kind : Nat
  first : Nat
  count : Nat
  deriving DecidableEq, Repr

/-- The tile that the OUT_ADDR of a lookup names, as a run of one. -/
def outTile (d : Desc) : TileRun :=
  let t := bitsOf (dOutTileAddr d) 33 10
  ⟨tilePod t, tileKind t, tileNum t, 1⟩

/-- The run of TILE_FIRST and TILE_COUNT. -/
def namedRun (d : Desc) : TileRun := ⟨tilePod (gpFirst d), tileKind (gpFirst d), tileNum (gpFirst d), gpCount d⟩

/-- A run stays in its kind's range (R138). -/
def runOk (r : TileRun) : Bool := decide (r.first + r.count ≤ tilesOfKind r.kind)

/-- An operation that names tiles by TILE_FIRST and TILE_COUNT. -/
def namesRun (d : Desc) : Bool :=
  let op := dOp d
  op == opGOpen || op == opTRead || op == opTWrite || (op == opZero && gpCount d != 0)

/-- A lookup whose output names tiles. -/
def addsTiles (d : Desc) : Bool := dIsLookup d && dToTiles d

/-- The tiles that a task acts on, for the order at each tile (R141). -/
def tilesOf (s : State) (k : Task) : Option TileRun :=
  let d := k.desc
  if namesRun d then some (namedRun d)
  else if dOp d = opGClose then
    ((getPod s (gpPod d)).groups.find? (fun g => g.closer == some k.id)).map (fun g => ⟨gpPod d, g.kind, g.first, g.count⟩)
  else if addsTiles d then
    let t := outTile d
    let dim := sdDim k.shard0
    let last := dOutTileAddr d % 1024 + (dBags d - 1) * outPitch d dim + outRowBytes d dim
    some { t with count := cdiv last 1024 }
  else none

/-- Two runs share a tile. -/
def runsMeet (a b : TileRun) : Bool := a.pod == b.pod && a.kind == b.kind && overlaps a.first a.count b.first b.count

/-- Every operation admitted earlier on a tile of task k has finished with it (R141). -/
def tileTurn (s : State) (k : Task) : Bool :=
  match tilesOf s k with
  | none => true
  | some r =>
    !s.cfe.tasks.any (fun j => j.id != k.id && j.phase == .admitted && decide (j.seq < k.seq) &&
      (match tilesOf s j with | none => false | some x => runsMeet r x))

/-- The NO_GROUP row of Table 3.17: a GROUP_OPEN of an open group or with all 256 open, a GROUP_CLOSE of a group not
open, GROUPED = 1 naming a group not open. -/
def groupRefused (s : State) (d : Desc) : Bool :=
  let op := dOp d
  if op == opGOpen then
    (getGroup s (gpPod d) (gpGroup d)).isSome || decide (256 ≤ (openGroups (getPod s (gpPod d))).length)
  else if op == opGClose then (getGroup s (gpPod d) (gpGroup d)).isNone
  else if (op == opTRead || op == opTWrite || op == opZero) && tlGrouped d then
    (getGroup s (tilePod (gpFirst d)) (gpGroup d)).isNone
  else false

/-- A group owns a whole run. -/
def ownsRun (g : Group) (r : TileRun) : Bool :=
  g.kind == r.kind && decide (g.first ≤ r.first) && decide (r.first + r.count ≤ g.first + g.count)

/-- The outcome of a run against the groups open: TILE_BUSY where another group owns a tile, NO_GROUP where the task's
own group does not own it all (R141). -/
def runCheck (s : State) (r : TileRun) (grp : Option Nat) : Option Flt :=
  let own := owners s r.pod r.kind r.first r.count
  if own.any (fun g => some g.g != grp) then some ⟨stTileBusy, 0, 0⟩
  else
    match grp with
    | none => none
    | some g => if (getGroup s r.pod g).any (ownsRun · r) then none else some ⟨stNoGroup, 0, 0⟩

/-- The check of the tiles that a task names, at its admission (R138, R140, R141, R142, R143). -/
def tileCheck (s : State) (k : Task) : Option Flt :=
  let d := k.desc
  if addsTiles d then
    if !runOk (outTile d) ∨ 2 ^ 34 ≤ awAddr (dOutAddr d) then some (addrFlt (dOutAddr d))
    else
      match runCheck s (outTile d) (some (dOutGroup d)) with
      | some f => some f
      | none => if dOutFmt d ≠ 0 ∨ dFuseOp d ≠ 0 ∨ dPool d = 6 then some ⟨stNoGroup, 0, 0⟩ else none
  else if namesRun d then
    let r := namedRun d
    if !runOk r ∨ (dOp d = opGOpen ∧ r.pod ≠ gpPod d) then some (addrFlt ((3 <<< 60) + (gpFirst d) <<< 10))
    else runCheck s r (if dOp d = opGOpen then none else if tlGrouped d then some (gpGroup d) else none)
  else if dOp d = opGClose then
    match getGroup s (gpPod d) (gpGroup d) with
    | none => some ⟨stNoGroup, 0, 0⟩
    | some g => if g.kind = 1 ∧ (gpOutAddr d ≠ 0 ∨ gpFuseOp d ≠ 0) then some ⟨stNoGroup, 0, 0⟩ else none
  else none

/-- The group, with its Pod, that an admitted task belongs to. -/
def groupOfTask (d : Desc) : Option (Nat × Nat) :=
  if addsTiles d then some ((outTile d).pod, dOutGroup d)
  else if dOp d = opGClose then some (gpPod d, gpGroup d)
  else if namesRun d && tlGrouped d && dOp d != opGOpen then some (tilePod (gpFirst d), gpGroup d)
  else none

/-- What the admission of a task does to the groups: GROUP_OPEN opens one, GROUP_CLOSE closes it for every later
operation, and a task of a group joins it (R140, R141). -/
def admitGroup (t : Nat) (k : Task) (s : State) : State :=
  let d := k.desc
  if dOp d = opGOpen then
    let r := namedRun d
    modPod r.pod (fun p => { p with groups := p.groups ++
      [{ g := gpGroup d, queue := k.queue, kind := r.kind, first := r.first, count := r.count, tasks := [t] }] }) s
  else
    match groupOfTask d with
    | none => s
    | some (pod, g) =>
      modPod pod (fun p => { p with groups := p.groups.map (fun x =>
        if x.closer.isNone ∧ x.g = g then
          { x with tasks := x.tasks ++ [t], closer := if dOp d = opGClose then some t else none }
        else x) }) s

/-! ## Admission (R364, R365) -/

/-- The oldest unadmitted task of each queue. -/
def candidates (s : State) : List Task :=
  s.cfe.tasks.filter (fun k => k.phase == .fetched &&
    !s.cfe.tasks.any (fun j => j.phase == .fetched && j.queue == k.queue && decide (j.id < k.id)))

/-- a comes before b (R364): the earliest due folio, the highest PRIO, the earliest fetch. -/
def admitsBefore (a b : Task) : Bool :=
  decide (dueFolio a < dueFolio b) ||
  (dueFolio a == dueFolio b && (decide (dPrio b.desc < dPrio a.desc) || (dPrio a.desc == dPrio b.desc && decide (a.id < b.id))))

/-- Candidates in the order of R364. -/
def inOrder : List Task → List Task
  | [] => []
  | k :: ks => insert_ k (inOrder ks)
where
  /-- Puts a task in its place. -/
  insert_ (k : Task) : List Task → List Task
    | [] => [k]
    | j :: js => if admitsBefore j k then j :: insert_ k js else k :: j :: js

/-- What the FSU decides for a candidate: pass over, refuse for its group, abort as oversized STRICT, or let it enter. -/
inductive Verdict where
  | pass | noGroup | abort | enter
  deriving DecidableEq, Repr

/-- The decision for a candidate (R365). -/
def verdict (s : State) (k : Task) : Verdict :=
  if groupRefused s k.desc then .noGroup
  else
    let sh := (sharesOf s k (phasesOf s k)).filter (fun x => x.2 != 0)
    let big := sh.filter (fun x => decide (fullBudget s x.1 < (x.2 : Int)))
    let rest := sh.filter (fun x => !decide (fullBudget s x.1 < (x.2 : Int)))
    let fits := rest.all (fun x => decide ((x.2 : Int) ≤ remaining s x.1) &&
      (x.1 == 48 || decide ((x.2 : Int) ≤ timeCap s x.1)))
    if dealt k.desc ≠ 0 ∧ (activePods s).isEmpty then .pass
    else if big.isEmpty then (if fits then .enter else .pass)
    else if !s.fsu.pass then .pass
    else if dStrict k.desc && dOp k.desc != opReloc then .abort
    else if fits && big.all (fun x => !s.fsu.charged.contains x.1) then .enter
    else .pass

/-- Charges the shares of a task; an oversized share leaves 0 (R365). -/
def charge (sh : List (Nat × Nat)) (s : State) : State :=
  forEach (fun x s =>
    let b := fullBudget s x.1
    let r := remaining s x.1
    onFsu (fun f => { f with
      remaining := tabPut x.1 (if b < (x.2 : Int) then 0 else r - x.2) f.remaining,
      charged := if f.charged.contains x.1 then f.charged else f.charged ++ [x.1] }) s)
    (sh.filter (fun x => x.2 != 0)) s

/-- The partner of a LOOKUP_FOLD of an interleaved queue (R119): the task fetched just before it from its queue, admitted
in this folio, with the same weights and widths, which still runs and has no partner yet. -/
def pairOf (s : State) (k : Task) : Option Task :=
  let d := k.desc
  if dOp d = opFold ∧ bitOf (odGet s odGauInterleave) k.queue then
    match k.prev.bind (getTask s) with
    | some j =>
      if j.phase == .admitted && dOp j.desc == opFold && j.admitFolio == folio s && j.pair.isNone &&
          dFoldW j.desc == dFoldW d && dBufHalf j.desc == dBufHalf d &&
          dInBits j.desc == dInBits d && dWBits j.desc == dWBits d && dFoldN j.desc == dFoldN d then some j else none
    | none => none
  else none

/-- The place of bag i of one of two tasks with a and b bags in the alternating deal; second tells which (R119). -/
def pairPlace (second : Bool) (a b i : Nat) : Nat :=
  let m := min a b
  if i < m then 2 * i + bit second else m + i

/-- Deals a pair's bags alternately from the Pod where the first task's deal began. A bag of the first task that has
started by then stays on its Pod (log 98). -/
def dealPair (j k : Task) (s : State) : State :=
  let start := ((j.deals.head?).map (·.pod)).getD 0
  let order := dealOrder s start
  let a := dBags j.desc
  let b := dBags k.desc
  let mk (second : Bool) (n : Nat) : List Deal :=
    (List.range n).map (fun i => { bag := i, pod := dealPod order (pairPlace second a b i) })
  let s := modTask j.id (fun x => { x with
    deals := List.zipWith (fun (old new : Deal) => if old.started then old else new) x.deals (mk false a), pair := some k.id }) s
  let s := modTask k.id (fun x => { x with deals := mk true b, pair := some j.id }) s
  onCfe (fun c => { c with dealNext := (dealPod order (a + b - 1) + 1) % 16 }) s

/-- The sprout slot bound to a stream kind for a queue (R106). -/
def boundSlot (s : State) (kind q : Nat) : Nat := odByte s (odGauSproutBind + kind) q

/-- Pods that work arrives for return to their operating voltage (R406). -/
def wakePods (ps : List Nat) (s : State) : State :=
  onPods (fun t => t.map (fun p => if ps.contains p.1 then (p.1, { p.2 with lowVolt := false }) else p)) s

/-- Admits a task: its deal, its phases and shares, and what it binds for its life (R106, R113, R364, R461). -/
def beginTask (k : Task) (s : State) : State :=
  let d := k.desc
  let ph := phasesOf s k
  let sh := sharesOf s k ph
  let deals := dealOf s d
  let order := dealOrder s (dealStart s d)
  let x := shard0Of s (dTable d)
  let pair := pairOf s k
  let binds := (List.range 9).map (fun kind => boundSlot s kind k.queue)
  let hash := odGet s odIxuHashSlot
  let s := charge sh s
  let s := if dealt d = 0 then s
    else onCfe (fun c => { c with dealNext := (dealPod order (dealt d - 1) + 1) % 16 }) s
  let n := s.fsu.admitted
  let now := folio s
  let s := onFsu (fun f => { f with admitted := f.admitted + 1 }) s
  let s := modQ k.queue (fun r => { r with cost := k.cost }) s
  let s := wakePods (deals.map (·.pod)) s
  let s := modTask k.id (fun k => { k with
    phase := .admitted, admitFolio := now, rescale := bitOf (odGet s odQntRescale) (dTable k.desc), seq := n, phases := ph, deals := deals, shard0 := x, hashSlot := hash,
    binds := binds, rowStart := dealPod order 0, finishFolio := if dOp d = opReloc then some now else none }) s
  match pair with
  | none => s
  | some j => dealPair j k s

/-- A task of a group that ends at its admission closes the group that it names, where its status does so (R144). -/
def dropNamedGroup (k : Task) (st : Nat) (s : State) : State :=
  match groupOfTask k.desc with
  | none => s
  | some (pod, g) =>
    match getGroup s pod g with
    | none => s
    | some x => if closesGroup st then dropGroup pod x s.fsu.admitted st s else s

/-- The fault of a task that needs a training entry that cannot be read (R208). -/
def trainFlt (s : State) (k : Task) : Option Flt :=
  let d := k.desc
  let needs := dOp d == opUpdate || (dOp d == opRowWrite && sdTrain (shard0Of s (dTable d)))
  if needs && trainBad s (dTable d) then
    some (memFlt s.sfp.engineId (64 * ((atomsOf (trainAddr s (dTable d)) 16).headD 0)))
  else none

/-- A task ends at task level under cause 3 by an error that no stream met (R208). -/
def entryFault (k : Task) (f : Flt) (s : State) : State :=
  endTask k.id f.st f.kind f.val
    (raiseErr { cause := 3, level := 2, tasks := [k.id], st := f.st, dKind := f.kind, dVal := f.val } s)

/-- Admits a task and makes the checks of its tiles and of its training entry. -/
def admitTask (k : Task) (s : State) : State :=
  let check := tileCheck s k
  let train := trainFlt s k
  let s := beginTask k s
  match train, check with
  | some f, _ => entryFault k f s
  | none, none => admitGroup k.id k s
  | none, some f =>
    let s := if f.st = stTileBusy then odCount odPluTileBusy 1 s else s
    dropNamedGroup k f.st
      (if f.st = stAddressFault then taskFault k.id (faultPod k) 6 f s else endTask k.id f.st f.kind f.val s)

/-- A candidate refused for its group is charged nothing (R79). -/
def refuseGroup (k : Task) (s : State) : State :=
  onCfe (fun c => { c with refused := c.refused + 1 }) (endTask k.id stNoGroup 0 0 s)

/-- An engine that starts its own folios: one of no Collection, or the Registrar (Table 14.1). -/
def startsOwn (s : State) : Bool := s.sfp.collId == 0 || s.sfp.registrar

/-- A member admits nothing before its first marker after reset, or before its local timer has run
SFP_TAKEOVER_FOLIOS folios (R356). -/
def timeKnown (s : State) : Bool :=
  startsOwn s || s.sfp.marked || decide (odGet s odSfpTakeoverFolios ≤ s.fsu.localRun)

/-- The FSU admits tasks: the engine is ready, no containment has stopped it, and its folio time is known. -/
def admitting (s : State) : Bool := s.cru.run == .ready && !gated s 12 && !s.msc.flushing && timeKnown s

/-- The first candidate in order that is not passed over; where all are, the pass at the folio start ends. -/
def admitOne (s : State) : State :=
  match (inOrder (candidates s)).find? (fun k => verdict s k != .pass) with
  | none => onFsu (fun f => { f with pass := false }) s
  | some k =>
    match verdict s k with
    | .pass => s
    | .noGroup => refuseGroup k s
    | .abort => dropNamedGroup k stBudgetAbort (odCount odFsuBudgetAborts 1 (endTask k.id stBudgetAbort 0 0 s))
    | .enter => admitTask k s

/-- ADMISSION: one candidate is admitted at the time of the command. -/
def doAdmission (s : State) : State := if admitting s then admitOne (settleTime s) else s

/-- ADMISSION (R364). -/
def execAdmission (s : State) : Host.Outcome State Fault Refusal := .next (doAdmission s)

end Sys2Proof.Machine
end

