-- ==== Sys2Proof/Machine/Fabric.lean ====
section
/-! DEFINITION. The Shard Fabric Port (13): ports and link cells, control messages, Registrar and deputies, link keys,
the invalidation of replicas (R247), copy streams and twin pairs. -/

namespace Sys2Proof.Machine

/-! ## Ports (R328, R331, R332, R345) -/

/-- Sets a port's byte of SFP_PORT_STATE. -/
def setPortState (k v : Nat) (s : State) : State :=
  odSet odSfpPortState (setBits (odGet s odSfpPortState) (8 * k + 7) (8 * k) v) s

/-- The port that SFP_REF_PORT nominates, or with 0xFF the port up whose last accepted marker had the lowest HOPS, the
nominated port staying while it is up (R345). -/
def nominee (s : State) : Option Nat :=
  let fixed := odGet s odSfpRefPort
  if fixed < 8 then (if portUp s fixed then some fixed else none)
  else
    match s.sfp.refPort with
    | some k => if portUp s k then some k else best s
    | none => best s
where
  /-- The port up with the lowest HOPS, the lowest number first. -/
  best (s : State) : Option Nat :=
    let cs := (List.range 8).filterMap (fun k =>
      if portUp s k then ((getPort s k).hops).map (fun h => (h, k)) else none)
    (cs.foldl (fun m c => match m with
      | none => some c
      | some b => if c.1 < b.1 then some c else some b) none).map (·.2)

/-- While the engine is locked, a nominated port that is not in use is qualified, unless CRU_REF_MODE asks for J_REFCLK
only (R400, R402). -/
def requalify (s : State) : State :=
  let n := s.sfp.refPort
  let want := odGet s odCruRefMode == 0 && n.isSome
  if s.cru.locked then onCru (fun c => { c with qualifying := want && n != c.refPort }) s else s

/-- Nominates the reference port again. -/
def renominate (s : State) : State := requalify (onSfp (fun f => { f with refPort := nominee s }) s)

/-- A port whose clock was lost as the reference has gone down: what the SFP nominates from now on is new (R402). -/
def forgetRef (port : Nat) (s : State) : State :=
  onCru (fun c => { c with refPort := if c.coast && c.refPort == some port then none else c.refPort }) s

/-- PORT_TRAIN: the port is up at 16 or 8 lanes, or stays down. -/
def doPortTrain (port lanes : Nat) (s : State) : State :=
  if 8 ≤ port ∨ s.cru.run = .off ∨ s.cru.run = .reset ∨ portUp s port then s
  else
    let s := modPort port (fun _ => {}) s
    if lanes = 16 ∨ lanes = 8 then
      renominate (post0 evSfpPortUp port lanes (setPortState port (if lanes = 16 then 2 else 3) s))
    else post0 evSfpPortDown port 3 (setPortState port 0 s)

/-- PORT_TRAIN (R328). -/
def execPortTrain (port lanes : Nat) (s : State) : Host.Outcome State Fault Refusal := .next (doPortTrain port lanes s)

/-- A port goes down and retrains; its cells not yet acknowledged are resent on other ports (R328, R334). -/
def portDown (port cause : Nat) (s : State) : State :=
  if portUp s port then
    let cells := (getPort s port).replay
    let s := modPort port (fun p => { p with replay := [], retries := 0, nak := none }) s
    let s := renominate (forgetRef port (post0 evSfpPortDown port cause (setPortState port 1 s)))
    forEach (fun c s => laneCell c.dst c.xid c.part s) cells s
  else s

/-- SFP_PORT_DOWN (R328): FEC lock lost (1) or the retry limit (2). -/
def execSfpPortDown (port cause : Nat) (s : State) : Host.Outcome State Fault Refusal :=
  .next (whenS (cause == 1 || cause == 2) (portDown port cause) s)

/-- a stands at or before b in numbers modulo 65,536. -/
def cellUpTo (a b : Nat) : Bool := decide ((b + 65536 - a % 65536) % 65536 < 32768)

/-- LINK: credits, which let waiting requests out, acknowledgement, and a NAK that makes the port resend from the cell it
names. -/
def doLink (port : Nat) (credits : List Nat) (ack : Nat) (nak : Option Nat) (delay : Nat) (s : State) : State :=
  if portUp s port then
    let s := modPort port (fun p => { p with
      credits := credits.take 4, delay := delay % 2 ^ 32, replay := p.replay.filter (fun c => !cellUpTo c.num ack) }) s
    let s := releaseHeld s
    match nak with
    | none => s
    | some n =>
      let again := ((getPort s port).replay.filter (fun c => cellUpTo n c.num)).length
      let s := odCount odSfpLinkRetries again (modPort port (fun p => { p with retries := p.retries + again }) s)
      if odGet s odSfpRetryLimit ≤ (getPort s port).retries then portDown port 2 s else s
  else s

/-- LINK (R332). -/
def execLink (port : Nat) (credits : List Nat) (ack : Nat) (nak : Option Nat) (delay : Nat) (s : State) :
    Host.Outcome State Fault Refusal := .next (doLink port credits ack nak delay s)

/-- LINK_CELL_SEND: a link-local cell with the acknowledgement and any NAK goes out; it is neither numbered nor kept. -/
def doLinkCellSend (port : Nat) (s : State) : State :=
  if portUp s port then
    let p := getPort s port
    let s := modPort port (fun p => { p with sinceLink := 0, nak := none }) s
    onSfp (fun f => { f with
      cellsSent := f.cellsSent + 1,
      sentCells := { type := ctLink, dst := 0x3FF, xid := 0, payload := [port, p.rxNum, (p.nak.map (· + 1)).getD 0] } :: f.sentCells }) s
  else s

/-- LINK_CELL_SEND (R332). -/
def execLinkCellSend (port : Nat) (s : State) : Host.Outcome State Fault Refusal := .next (doLinkCellSend port s)

/-- UNCORRECTABLE_CODEWORD: the cell and every later one are dropped, and a NAK will name the first missing number. -/
def doUncorrectableCodeword (port num : Nat) (s : State) : State :=
  whenS (portUp s port) (modPort port (fun p => { p with rxNum := num % 65536, nak := some (num % 65536) })) s

/-- UNCORRECTABLE_CODEWORD (R331). -/
def execUncorrectableCodeword (port num : Nat) (s : State) : Host.Outcome State Fault Refusal :=
  .next (doUncorrectableCodeword port num s)

/-- A cell type that Table 13.3 reserves. -/
def typeReserved (t : Nat) : Bool := !(List.contains [1, 2, 3, 4, 5, 6, 7, 8, 9, 14, 15] t)

/-- BAD_CELL (R329, R337): dropped, and counted in SFP_BAD_CELLS. -/
def execBadCell (type coll src : Nat) (s : State) : Host.Outcome State Fault Refusal :=
  .next (whenS (typeReserved type || coll != s.sfp.collId || !isMember s src) (odCount odSfpBadCells 1) s)

/-! ## Control messages (R335) -/

/-- CONTROL_RESEND: a message still unacknowledged goes out again under its message sequence. -/
def doControlResend (dst mseq : Nat) (s : State) : State :=
  match s.sfp.ctlOut.find? (fun m => m.dst == dst && m.mseq == mseq) with
  | none => s
  | some m => sendCell m.type dst 24 (m.mseq :: m.payload) s

/-- CONTROL_RESEND (R335). -/
def execControlResend (dst mseq : Nat) (s : State) : Host.Outcome State Fault Refusal := .next (doControlResend dst mseq s)

/-- CONTROL_ACK: the message, or the COPY chunk, is done. A remote SYNC_OP completes, or ends with ACCESS_DENIED where the other engine
refused it (R373). -/
def doControlAck (src mseq : Nat) (refused : Bool) (s : State) : State :=
  match s.sfp.ctlOut.find? (fun m => m.dst == src && m.mseq == mseq) with
  | none =>
    if s.sfp.copyOut.contains (src, mseq) then
      hear src (onSfp (fun f => { f with copyOut := f.copyOut.erase (src, mseq) }) s)
    else s
  | some m =>
    let s := hear src (onSfp (fun f => { f with ctlOut := f.ctlOut.filter (fun x => !(x.dst == src && x.mseq == mseq)) }) s)
    match m.task with
    | none => s
    | some t => if refused then endTask t stAccessDenied 0 0 s else finishTask t s

/-- CONTROL_ACK (R335, R373). -/
def execControlAck (src mseq : Nat) (refused : Bool) (s : State) : Host.Outcome State Fault Refusal :=
  .next (doControlAck src mseq refused s)

/-! ## Registrar, deputies and the placement map (R338, R339, R358) -/

/-- DESC_UPDATE: a member adopts an epoch; the Registrar takes a report into its map. -/
def doDescUpdate (src term mseq epoch : Nat) (descs : List (Nat × BitVec 512)) (s : State) : State :=
  deliver src mseq (fun s =>
    if s.sfp.registrar && !decide (odGet s odSfpTerm < term) then mapChange epoch descs s
    else if termOk s term then adoptEpoch epoch descs (seeTerm src term s)
    else s) s

/-- DESC_UPDATE (R338). -/
def execDescUpdate (src term mseq epoch : Nat) (descs : List (Nat × BitVec 512)) (s : State) :
    Host.Outcome State Fault Refusal := .next (doDescUpdate src term mseq epoch descs s)

/-- EPOCH_ADOPTED: the Registrar notes a member's adoption of its map epoch. -/
def doEpochAdopted (member epoch : Nat) (s : State) : State :=
  if s.sfp.registrar && isMember s member then
    let s := hear member s
    whenS (epoch == s.sfp.mapEpoch && !s.sfp.adopted.contains member)
      (onSfp (fun f => { f with adopted := f.adopted ++ [member] })) s
  else s

/-- EPOCH_ADOPTED (R338). -/
def execEpochAdopted (member epoch : Nat) (s : State) : Host.Outcome State Fault Refusal := .next (doEpochAdopted member epoch s)

/-- FLOORS: the member takes the two floors. -/
def doFloors (src term mseq epochFloor admFloor : Nat) (s : State) : State :=
  deliver src mseq (fun s =>
    if termOk s term then
      onSfp (fun f => { f with epochFloor := epochFloor % 2 ^ 32, admFloor := admFloor % 2 ^ 48 }) (seeTerm src term s)
    else s) s

/-- FLOORS (R242). -/
def execFloors (src term mseq epochFloor admFloor : Nat) (s : State) : Host.Outcome State Fault Refusal :=
  .next (doFloors src term mseq epochFloor admFloor s)

/-- FLOOR_REPORT: the Registrar keeps the report; a folio number at or above its own makes it step at its next boundary. -/
def doFloorReport (member epoch adm folioNo : Nat) (s : State) : State :=
  if s.sfp.registrar && isMember s member then
    let s := hear member s
    let now := folio s
    onSfp (fun f => { f with
      reports := tabPut member (epoch, adm, now) f.reports,
      silent := f.silent.filter (· != member),
      reported := if now ≤ folioNo then max f.reported folioNo else f.reported }) s
  else s

/-- FLOOR_REPORT (R358). -/
def execFloorReport (member epoch adm folioNo : Nat) (s : State) : Host.Outcome State Fault Refusal :=
  .next (doFloorReport member epoch adm folioNo s)

/-- SFP_MEMBER_SILENT: a member without a report for SFP_TAKEOVER_FOLIOS folios is left out of the floors. -/
def doSfpMemberSilent (member : Nat) (s : State) : State :=
  let last := (tabGet member (0, 0, 0) s.sfp.reports).2.2
  if s.sfp.registrar && isMember s member && member != s.sfp.engineId && !s.sfp.silent.contains member &&
      decide (last + odGet s odSfpTakeoverFolios ≤ folio s) then
    post0 evSfpMemberSilent member last (onSfp (fun f => { f with silent := f.silent ++ [member] }) s)
  else s

/-- SFP_MEMBER_SILENT (R339). -/
def execSfpMemberSilent (member : Nat) (s : State) : Host.Outcome State Fault Refusal := .next (doSfpMemberSilent member s)

/-- MAP_MIRROR: a deputy keeps the map epoch and acknowledges; the acknowledgement lets the Registrar distribute. -/
def doMapMirror (src term mseq epoch : Nat) (ack : Bool) (s : State) : State :=
  deliver src mseq (fun s =>
    if ack then (if s.sfp.registrar && epoch == s.sfp.mapEpoch then distribute s else s)
    else if termOk s term then
      sendCtl ctControl src [5, epoch, 1] none
        (onSfp (fun f => { f with mapEpoch := epoch % 2 ^ 32 }) (seeTerm src term s))
    else s) s

/-- MAP_MIRROR (R338). -/
def execMapMirror (src term mseq epoch : Nat) (ack : Bool) (s : State) : Host.Outcome State Fault Refusal :=
  .next (doMapMirror src term mseq epoch ack s)

/-- The engines ahead of this one in SFP_SUCCESSION. -/
def ahead (s : State) : List Nat := (succession s).takeWhile (· != s.sfp.engineId)

/-- A deputy may take over: the Registrar and every engine ahead have been silent toward it long enough. -/
def mayTakeOver (s : State) : Bool :=
  let n := odGet s odSfpTakeoverFolios
  (succession s).contains s.sfp.engineId && !s.sfp.registrar && isMember s s.sfp.engineId && s.sfp.collId != 0 &&
  (ahead s ++ [odGet s odSfpRegistrar]).all (fun e => e == s.sfp.engineId || decide (n ≤ tabGet e 0 s.sfp.quiet))

/-- REGISTRAR_TAKEOVER: the deputy raises the term by one and acts as Registrar. -/
def doRegistrarTakeover (s : State) : State :=
  if mayTakeOver s then
    let old := odGet s odSfpRegistrar
    let term := (odGet s odSfpTerm + 1) % 65536
    let me := s.sfp.engineId
    let s := onSfp (fun f => { f with registrar := true, adopted := [], reports := [], silent := [] }) s
    post0 evSfpRegistrarChange me (term + old <<< 16) (odSet odSfpRegistrar me (odSet odSfpTerm term s))
  else s

/-- REGISTRAR_TAKEOVER (R339). -/
def execRegistrarTakeover (s : State) : Host.Outcome State Fault Refusal := .next (doRegistrarTakeover s)

/-! ## Link keys (R343) -/

/-- A link key slot. -/
def getKey (s : State) (k : Nat) : KeySlot := tabGet k {} s.sfp.keys

/-- SFP_KEY_STATE as the slots stand (Table 13.8). -/
def keyStateNum (s : State) : Nat :=
  ((List.range 4).map (fun k =>
    (if s.sfp.sending = some k then 2 else if (getKey s k).secret.isSome then 1 else 0) <<< (8 * k))).foldl (· + ·) 0

/-- Brings SFP_KEY_STATE up to date. -/
def showKeys (s : State) : State := odSet odSfpKeyState (keyStateNum s) s

/-- KEY_SWITCH: an installed slot will be sent under from the folio named. -/
def doKeySwitch (src term slot folioNo : Nat) (s : State) : State :=
  if isMember s src && termOk s term && (succession s).contains src && (getKey s slot).secret.isSome then
    onSfp (fun f => { f with switchTo := some (slot, folioNo) }) (seeTerm src term (hear src s))
  else s

/-- KEY_SWITCH (R343). -/
def execKeySwitch (src term slot folioNo : Nat) (s : State) : Host.Outcome State Fault Refusal :=
  .next (doKeySwitch src term slot folioNo s)

/-- KEY_SWITCH_FOLIO: from the folio named the member sends under the new slot. -/
def doKeySwitchFolio (s : State) : State :=
  match s.sfp.switchTo with
  | none => s
  | some (k, f) =>
    if f ≤ folio s then
      showKeys (onSfp (fun g => { g with
        sending := some k, switchTo := none,
        oldSlot := match g.sending with
          | none => g.oldSlot
          | some o => if o = k then g.oldSlot else some (o, f + odGet s odSfpKeyOverlap) }) s)
    else s

/-- KEY_SWITCH_FOLIO (R343). -/
def execKeySwitchFolio (s : State) : Host.Outcome State Fault Refusal := .next (doKeySwitchFolio s)

/-- Erases a link key slot, with its cell sequences. -/
def eraseKey (k : Nat) (s : State) : State :=
  showKeys (onSfp (fun f => { f with
    keys := tabMod k {} (fun x => { x with secret := none }) f.keys,
    cseq := f.cseq.filter (fun c => c.1 % 4 != k),
    sending := if f.sending = some k then none else f.sending }) s)

/-- OLD_KEY_ERASE: after folio F + SFP_KEY_OVERLAP the old slot is erased. -/
def doOldKeyErase (s : State) : State :=
  match s.sfp.oldSlot with
  | none => s
  | some (k, f) => if f < folio s then eraseKey k (onSfp (fun g => { g with oldSlot := none }) s) else s

/-- OLD_KEY_ERASE (R343). -/
def execOldKeyErase (s : State) : Host.Outcome State Fault Refusal := .next (doOldKeyErase s)

/-! ## Invalidation of replicas (R247) -/

/-- Replicas of the rows that a test selects are dropped, and so are their fills in flight: the REPLICATE_ROW that
waits for one ends with CTL_REFUSED. -/
def loseReplicas (f : Nat → Nat → Nat → Bool) (s : State) : State :=
  let s := onCat (fun c => { c with replicas := c.replicas.filter (fun r => !f r.home r.table r.row) }) s
  odSet odCatReplicas s.cat.replicas.length s

/-- INVAL_RX: the holder drops the replica, discards a fill of it in flight, and acknowledges. -/
def doInvalRx (home table row : Nat) (s : State) : State :=
  if isMember s home then
    let s := loseReplicas (fun _ t r => t == table && r == row) (hear home s)
    let fills := (s.cfe.tasks.filter (fun k => dOp k.desc == opReloc && rlOp k.desc == 2 && dTable k.desc == table &&
      rlRow k.desc == row && k.ctlSeq.isSome && !isOver k)).map (·.id)
    let s := forEach refuseCtl fills s
    sendCtl ctInvalAck home [table, row] none s
  else s

/-- INVAL_RX (R247). -/
def execInvalRx (home table row : Nat) (s : State) : Host.Outcome State Fault Refusal := .next (doInvalRx home table row s)

/-- INVAL_ACK_RX (R247): the holder is off the directory. -/
def execInvalAckRx (holder table row : Nat) (s : State) : Host.Outcome State Fault Refusal :=
  .next (whenS (isMember s holder) (fun s => dropHolder holder table row (hear holder s)) s)

/-- CAT_INVAL_TIMEOUT: a holder that the home has waited CAT_INVAL_FOLIOS folios for is removed. -/
def doCatInvalTimeout (holder table row : Nat) (s : State) : State :=
  let late := s.cat.invals.any (fun v => v.table == table && v.row == row && v.holders.contains holder &&
    decide (v.folio + odGet s odCatInvalFolios ≤ folio s))
  whenS late (fun s => post0 evCatInvalTimeout holder (table + row <<< 16) (dropHolder holder table row s)) s

/-- CAT_INVAL_TIMEOUT (R247). -/
def execCatInvalTimeout (holder table row : Nat) (s : State) : Host.Outcome State Fault Refusal :=
  .next (doCatInvalTimeout holder table row s)

/-- HOLDER_REPLICA_EXPIRY: nothing from a home for CAT_INVAL_FOLIOS − 1 folios drops every replica of its rows. -/
def doHolderReplicaExpiry (home : Nat) (s : State) : State :=
  whenS (home != s.sfp.engineId && decide (tabGet home 0 s.cat.heard + odGet s odCatInvalFolios - 1 ≤ folio s))
    (loseReplicas (fun h _ _ => h == home)) s

/-- HOLDER_REPLICA_EXPIRY (R247). -/
def execHolderReplicaExpiry (home : Nat) (s : State) : Host.Outcome State Fault Refusal := .next (doHolderReplicaExpiry home s)

/-! ## Copy streams (R249, R350) -/

/-- A move to this engine is abandoned: the slots that its rows took return, and no reader has seen them (R236, R255). -/
def dropCopied (idx : Nat) (s : State) : State :=
  let size := rowS (descAt s idx)
  let s := forEach (fun c s => freeSlot size (smTier c.2.2) (smLoc c.2.2) true s) (s.cat.copied.filter (fun c => c.2.1 == idx)) s
  onCat (fun c => { c with copied := c.copied.filter (fun x => x.2.1 != idx) }) s

/-- A COPY chunk lands here by its word: bytes at an address of GDDR7 or of host DRAM, a row of a shelved shard in a slot of
this engine, or the end of a move that was given up; none when it waits for a slot (R249, R255; log 99). -/
def landChunk (w : Nat) (bs : List Byte) (s : State) : Option State :=
  if bitOf w 61 then some (dropCopied (numAt 0 8 bs) s)
  else if bitOf w 63 then landRow w (numAt 0 8 bs) (numAt 8 8 bs) (bs.drop 16) s
  else if bitOf w 62 then some (tierStore 1 (w % 2 ^ 57) bs .output s)
  else if w % 2 ^ 57 + bs.length ≤ usable s then some (gddrStore (w % 2 ^ 57) bs s)
  else some s

/-- A COPY chunk that waits has found no slot (R232). -/
def chunkWaits (w : Nat) (bs : List Byte) (s : State) : State :=
  match (if bitOf w 63 then ringFor s (bs.length - 16) (smTier (numAt 8 8 bs)) else none) with
  | none => odCount odCatSlotWaits 1 s
  | some k => slotsEmpty k s

/-- The chunks that wait for a slot land as slots have come, each source's in its order, and are acknowledged (R232, R249). -/
def copyRetry (s : State) : State :=
  let r := s.cat.copyWait.foldl (fun (a : List (Nat × Nat × Nat × List Byte) × State) c =>
    if a.1.any (fun x => x.1 == c.1) then (a.1 ++ [c], a.2)
    else match landChunk c.2.2.1 c.2.2.2 a.2 with
      | none => (a.1 ++ [c], a.2)
      | some s => (a.1, sendAck c.1 c.2.1 false s)) ([], s)
  onCat (fun c => { c with copyWait := r.1 }) r.2

/-! ## Twin pairs (R348, R350) -/

/-- Changes SFP_TWIN_STATE, with its event. -/
def setTwin (v : Nat) (s : State) : State :=
  let old := twinState s
  if old = v then s else post0 evSfpTwinState s.sfp.partner (v + old <<< 8) (odSet odSfpTwinState v s)

/-- TWIN_HEARTBEAT (R348): the partner is there. -/
def execTwinHeartbeat (src : Nat) (s : State) : Host.Outcome State Fault Refusal :=
  .next (whenS (src == s.sfp.partner) (fun s => onSfp (fun f => { f with twinQuiet := 0 }) (hear src s)) s)

/-- Sends LEDGER_READY under an identity to every other member (R222, R348). -/
def sendLedgerReady (as_ : Nat) (fresh : Bool) (s : State) : State :=
  forEach (fun m s => if m = s.sfp.engineId then s else sendCtl ctControl m [6, as_, bit fresh] none s)
    (if alone s then [] else members s) s

/-- TWIN_TIMEOUT: the twin goes ALONE, asks the Registrar for TWIN_FAILOVER, and takes over the lost twin's retained
parcels as last mirrored beside its own; its mirrored journal it holds already. -/
def doTwinTimeout (hubLost : Bool) (s : State) : State :=
  let lost := s.sfp.partner
  if lost < 1024 ∧ twinState s = 1 ∧ (hubLost ∨ odGet s odSfpTwinTimeout ≤ s.sfp.twinQuiet) then
    let s := setTwin 2 s
    let r := odGet s odSfpRegistrar
    let s := if s.sfp.registrar then
        forEach (fun m s => if m = s.sfp.engineId ∨ m = lost then s else sendCtl ctControl m [8, lost, s.sfp.engineId] none s) (members s) s
      else if r < 1024 then sendCtl ctControl r [8, lost, s.sfp.engineId] none s else s
    let s := onSfp (fun f => { f with redirect := tabPut lost s.sfp.engineId f.redirect }) s
    let s := onUpu (fun u => { u with
      intake := (u.journal.map (fun j => j.intake + 1)).foldl max u.intake,
      ring := u.ring ++ u.twinRing, twinRing := [] }) s
    sendLedgerReady lost false s
  else s

/-- TWIN_TIMEOUT (R348). -/
def execTwinTimeout (hubLost : Bool) (s : State) : Host.Outcome State Fault Refusal := .next (doTwinTimeout hubLost s)

/-- TWIN_FAILOVER (R348): cells for the lost twin go to its partner. -/
def execTwinFailover (lost partner : Nat) (s : State) : Host.Outcome State Fault Refusal :=
  .next (whenS (isMember s lost && isMember s partner)
    (onSfp (fun f => { f with redirect := tabPut lost partner f.redirect })) s)

/-- TWIN_RESTORED_NOTICE (R350): cells for the returned twin go to it again. -/
def execTwinRestoredNotice (twin : Nat) (s : State) : Host.Outcome State Fault Refusal :=
  .next (onSfp (fun f => { f with redirect := tabDrop twin f.redirect }) s)

/-- Streams position p of a shard to the twin, which has the same layout: the side list, the row and the shelfmark, and the
companion go to the places that they have here (R346, R350). -/
def copyTwinRow (d : BitVec 512) (p : Nat) (s : State) : State :=
  let to_ := s.sfp.partner
  let te := tabGet (sdTable d) 0 s.upu.train
  let c := compSize te (sdDim d)
  let put (tier a : Nat) (bs : List Byte) (s : State) : State := sendCopy to_ (copyWord tier a) bs s
  let s := match rowPlace s d p with
    | none => s
    | some (tier, a) =>
      let row := tierLoad s tier a (rowS d)
      let sa := sideAddr d (hkSlot (rowHusk d row))
      put tier a row (if rowEscapes d row = 0 then s else put (sdTier d) sa (tierLoad s (sdTier d) sa (slotSize d)) s)
  let s := if sdShelved d then put (sdTier d) (rowAddr d (sdBase d) p) (leBytes 8 (shelfmark s d p)) s else s
  let ca := 32 * sdBase d + compOff te + p * c
  if c = 0 then s else put (sdTier d) ca (tierLoad s (sdTier d) ca c) s

/-- Streams a shard to the twin, in ascending order of position (R249, R350). -/
def copyTwin (idx : Nat) (s : State) : State :=
  let d := descAt s idx
  forEach (copyTwinRow d) (List.range (shardRows (dirAt s (sdTable d)) (sdShard d))) s

/-- Streams every shard that either twin homes to the partner (R350). -/
def streamShards (s : State) : State :=
  let mine := (liveDescs s).filter (fun i =>
    let d := descAt s i
    inRange (dirAt s (sdTable d)) i && (sdHome d == s.sfp.engineId || sdHome d == s.sfp.partner))
  forEach copyTwin mine s

end Sys2Proof.Machine
end

