-- ==== Sys2Proof/Machine/Cfe.lean ====
section
/-! DEFINITION. The Command Front End (03): doorbells, the enabling of queues and rings, the fetch of descriptors, and
completion records. -/

namespace Sys2Proof.Machine

/-! ## Doorbells (R61, R63) -/

/-- A doorbell value would neither shrink nor overfill the ring (R61). -/
def doorbellOk (r : Queue) (v : Nat) : Bool :=
  let n := qLog r
  decide (ptrSub n r.tail r.head.val ≤ ptrSub n v r.head.val) && decide (ptrSub n v r.head.val ≤ 2 ^ n)

/-- A new tail of queue q is accepted, or ignored with CFE_DOORBELL_BAD (R61). The use of the head compares its copies
(R56). -/
def ringBell (q v : Nat) (s : State) : State :=
  let r := getQ s q
  let v := v % 2 ^ (qLog r + 1)
  if queueBroken r then queueMismatch q s
  else if doorbellOk r v then modQ q (fun r => { r with tail := v }) s
  else postQ q evCfeDoorbellBad 0 (onCfe (fun c => { c with badBells := c.badBells + 1 }) s)

/-- A queue takes doorbells: it is ACTIVE, WAITING or PAUSED (R61). -/
def takesBell (r : Queue) : Bool := r.state == .active || r.state == .waiting || r.state == .paused

/-- CFE_Q_TAIL_DOORBELL: ignored while LZ_DOORBELL = 1 or the queue takes none. -/
def doCfeQTailDoorbell (q v : Nat) (s : State) : State :=
  let r := getQ s q
  if q < 512 ∧ takesBell r ∧ !bitOf r.ctl 1 then ringBell q v s else s

/-- CFE_Q_TAIL_DOORBELL (R61). -/
def execCfeQTailDoorbell (q v : Nat) (s : State) : Host.Outcome State Fault Refusal := 
  .next (whenS (regOn s 0) (doCfeQTailDoorbell q v) s)

/-- The queues whose doorbell is counter c take its new value v as their tail (R63). -/
def lzBells (c v : Nat) (s : State) : State :=
  forEach (fun q s => ringBell q (v % 2 ^ (qLog (getQ s q) + 1)) s)
    ((s.cfe.queues.filter (fun x => bitOf x.2.ctl 1 && bitsOf x.2.ctl 27 16 == c && takesBell x.2)).map (·.1)) s

/-! ## Enabling queues and rings (R59, R60, R83, R459) -/

/-- The bits of CFE_Q_CTL that software writes (Table 3.4). -/
def qCtlMask : Nat := 0x0FFF3FF3

/-- The LZ_COUNTER of a queue lies in the range of its access entry (R392). -/
def lzAllowed (s : State) (q ctl : Nat) : Bool :=
  let a := aclOf s q
  !bitOf ctl 1 || (decide (bitsOf a 51 40 ≤ bitsOf ctl 27 16) && decide (bitsOf ctl 27 16 ≤ bitsOf a 63 52))

/-- The mode of security is changing: writes of ENABLE in CFE_Q_CTL are ignored (R394). -/
def modeChanging (s : State) : Bool := s.msc.mode == .entering || s.msc.mode == .exiting

/-- QUEUE_ENABLE: a DISABLED queue with ENABLE 0 takes the control word, its pointers become 0, and it is ACTIVE; a
host-bound queue is PAUSED while the coherent link is not up (R319). An LZ_COUNTER outside the access range leaves the
queue DISABLED. A counter that acts as the doorbell gives the tail from its next change on (R63). -/
def doQueueEnable (q ctl : Nat) (s : State) : State :=
  let r := getQ s q
  if q < 512 ∧ bitOf ctl 0 ∧ !qOn r ∧ r.state = .disabled ∧ lzAllowed s q ctl ∧ !modeChanging s then
    let r' : Queue := { r with ctl := ctl &&& qCtlMask, tail := 0, head := ptr 0, cplTail := ptr 0, cplHead := 0,
                               cplNext := ptr 0, state := .active, before := .active }
    let held := qHostBound r' && s.hpt.link != .up
    modQ q (fun _ => if held then { r' with state := .paused } else r') s
  else s

/-- QUEUE_ENABLE (R60). -/
def execQueueEnable (q ctl : Nat) (s : State) : Host.Outcome State Fault Refusal := 
  .next (whenS (regOn s 0) (doQueueEnable q ctl) s)

/-- QUEUE_DISABLE: no more fetches; the queue is DRAINING until its fetched tasks have records, then DISABLED. A HALTED
queue, whatever its ENABLE, is DISABLED by it (R60). -/
def doQueueDisable (q ctl : Nat) (s : State) : State :=
  let r := getQ s q
  if q < 512 ∧ !bitOf ctl 0 ∧ (qOn r ∨ r.state = .halted) ∧ !modeChanging s then
    drainDone q (modQ q (fun r => { r with ctl := setBit r.ctl 0 false, state := .draining }) s)
  else s

/-- QUEUE_DISABLE (R60). -/
def execQueueDisable (q ctl : Nat) (s : State) : Host.Outcome State Fault Refusal := 
  .next (whenS (regOn s 0) (doQueueDisable q ctl) s)

/-- The bits of CFE_EVQ_CTL that software writes (Table 3.21). -/
def evqCtlMask : Nat := 0xFFFF013F

/-- EVQ_ENABLE: the ring is enabled with its pointers at 0. -/
def doEvqEnable (i ctl : Nat) (s : State) : State :=
  if i < 64 ∧ bitOf ctl 0 ∧ !ringOn (getEvq s i) then
    modEvq i (fun r => ringZero { r with ctl := ctl &&& evqCtlMask }) (forgetWrites (.event i) s)
  else s

/-- EVQ_ENABLE (R83). -/
def execEvqEnable (i ctl : Nat) (s : State) : Host.Outcome State Fault Refusal := 
  .next (whenS (regOn s 0) (doEvqEnable i ctl) s)

/-- CFE_EVQ_POP: the head entry is returned and consumed; on an empty ring the last value comes back with UNDERRUN. With
POP_MODE = 0, of which R86 says nothing, it returns 0 and changes nothing (DESIGN CHOICE, log 96). -/
def doCfeEvqPop (i : Nat) (s : State) : State :=
  let s := evqCheck i s
  let r := getEvq s i
  let n := evqLog r
  if 64 ≤ i ∨ !bitOf r.ctl 1 then onOut (fun o => { o with read := leBytes 8 0 }) s
  else if r.head.val = r.tail.val then
    onOut (fun o => { o with read := leBytes 8 (setBit r.lastPop 16 true) })
      (modEvq i (fun r => { r with notified := false }) s)
  else
    let e := loadAw s (r.base + 32 * (r.head.val % 2 ^ n)) 32
    let v := numAt 0 8 e
    let s := hptRead (engineAsid s) (r.base + 32 * (r.head.val % 2 ^ n)) 32 s
    let s := modEvq i (fun r => { r with
      head := ptrStep n r.head, lastPop := v, data := numAt 8 24 e,
      notified := r.notified && decide (ptrNext n r.head.val ≠ r.tail.val) }) s
    evqGap i (onOut (fun o => { o with read := leBytes 8 v }) s)

/-- CFE_EVQ_POP (R86). -/
def execCfeEvqPop (i : Nat) (s : State) : Host.Outcome State Fault Refusal := 
  .next (if !windowUp s then onOut (fun o => { o with read := List.replicate 8 0xFF }) s
    else if gated s 0 then onOut (fun o => { o with read := leBytes 8 0 }) s else doCfeEvqPop i s)

/-- CFE_EVQ_GAP (R85): a gap marker goes into the slot that has freed. -/
def execCfeEvqGap (i : Nat) (s : State) : Host.Outcome State Fault Refusal := .next (evqGap i (evqCheck i s))

/-- The bits of CFE_TEL_CTL that software writes (Table 19.5): ENABLE, LOG2_M6, PERIOD and MASK. -/
def telCtlMask : Nat := 0xFFFFFF1F

/-- TELEMETRY_ENABLE: a ring that is off takes every field, and is enabled with its pointers at 0; one that is on keeps
LOG2_M6 and takes PERIOD and MASK, which count from the next boundary. ENABLE stays 0 without a PERIOD. -/
def doTelemetryEnable (j ctl : Nat) (s : State) : State :=
  let ctl := if bitsOf ctl 15 8 = 0 then setBit ctl 0 false else ctl
  if 8 ≤ j then s
  else if bitOf ctl 0 ∧ !ringOn (getTel s j) then
    modTel j (fun r => { ringZero { r with ctl := ctl &&& telCtlMask } with count := 0, latched := [], ctlNow := 0 })
      (forgetWrites (.telemetry j) s)
  else if !ringOn (getTel s j) then modTel j (fun r => { r with ctl := ctl &&& telCtlMask }) s
  else modTel j (fun r => { r with ctl := (ctl &&& 0xFFFFFF01) ||| (r.ctl &&& 0x1E) }) s

/-- TELEMETRY_ENABLE (R459). -/
def execTelemetryEnable (j ctl : Nat) (s : State) : Host.Outcome State Fault Refusal := 
  .next (whenS (regOn s 0) (doTelemetryEnable j ctl) s)

/-! ## The fetch of descriptors (R64, R65) -/

/-- A SYNC_OP or FENCE that the queue has not got past. A remote operation stalls it only until it has been sent. -/
def holdsFetch (k : Task) : Bool :=
  !isOver k && (dOp k.desc == opFence || (dOp k.desc == opSync && k.ctlSeq.isNone))

/-- The completion slots of a queue that are taken: written and not consumed, or claimed by a fetched task (R65). -/
def slotsTaken (s : State) (q : Nat) : Nat :=
  let r := getQ s q
  ptrSub (qLog r) r.cplNext.val r.cplHead + (qOpen s q).length

/-- The CFE may fetch from queue q. -/
def canFetch (s : State) (q : Nat) : Bool :=
  let r := getQ s q
  r.state == .active && decide (r.head.val ≠ r.tail) && decide (slotsTaken s q < 2 ^ qLog r) &&
  !(qTasks s q).any holdsFetch

/-- The queue that the round-robin visits next (R64): the first eligible one from rr on, wrapping. -/
def nextQueue (s : State) : Option Nat :=
  let qs := s.cfe.queues.map (·.1)
  ((qs.filter (s.cfe.rr ≤ ·)) ++ qs.filter (· < s.cfe.rr)).find? (canFetch s)

/-- The engine fetches: it is ready, the CFE's clock runs, and no containment has stopped it (R407, R430). -/
def fetching (s : State) : Bool := s.cru.run == .ready && !gated s 0 && !s.msc.flushing

/-- The task of a descriptor just fetched; a refused one is past its finish point at once (R79). -/
def newTask (s : State) (q : Nat) (d : Desc) : Task :=
  let k : Task := { id := s.cfe.nextTask, queue := q, desc := d, fetchFolio := folio s, base := odGet s odCfeTaskBase, prev := (getQ s q).lastTask }
  match refusal s q d with
  | some e => { k with err := some e, phase := .finished, refused := true }
  | none => { k with cost := costOf s d }

/-- Fetches the next descriptor of queue q. -/
def fetchFrom (q : Nat) (s : State) : State :=
  let r := getQ s q
  let a := r.ringBase + 128 * (r.head.val % 2 ^ qLog r)
  let s := onCfe (fun c => { c with rr := (q + 1) % 512 }) s
  if queueBroken r then queueMismatch q s
  else if (accessFault s a 128).isSome then haltQueue q s
  else
    let d : Desc := BitVec.ofNat 1024 (leNat (loadAw s a 128))
    let k := newTask s q d
    let s := hptRead (queueAsid s q) a 128 s
    let s := onCfe (fun c => { c with
      tasks := c.tasks ++ [k], nextTask := c.nextTask + 1, fetched := c.fetched + 1,
      refused := c.refused + bit k.err.isSome }) s
    modQ q (fun r => { r with head := ptrStep (qLog r) r.head, lastTag := dTag d, lastTask := some k.id }) s

/-- DESCRIPTOR_FETCH. -/
def doDescriptorFetch (s : State) : State :=
  if fetching s then (match nextQueue s with | none => s | some q => fetchFrom q s) else s

/-- DESCRIPTOR_FETCH (R64). -/
def execDescriptorFetch (s : State) : Host.Outcome State Fault Refusal := .next (doDescriptorFetch s)

/-! ## Completion records (R80, R81, R314, R315) -/

/-- The path that carries the records of a queue, if they lie in package memory. -/
def recordPath (r : Queue) : Option Nat := if awSpace r.cplBase = 0 then some (awPath r.cplBase) else none

/-- The writes that stand before a task's record have been acknowledged: the task's own on the record's path, or with
XPATH every write issued before the drain began on any path (R314, R315). -/
def writesDone (s : State) (k : Task) : Bool :=
  let p := recordPath (getQ s k.queue)
  !s.hpt.outq.any (fun w => (w.task == some k.id && some w.path == p) ||
    (match k.drainTo with | some n => decide (w.seq ≤ n) | none => false))

/-- The task is waiting for nothing but its record: its parcels, if it has released any, are all acknowledged, and its
rows committed (R202). -/
def taskSettled (s : State) (k : Task) : Bool :=
  k.phase == .finished && (k.err.isSome || (k.unacked == 0 && !s.cat.pend.any (fun w => w.task == some k.id)))

/-- A task with its record visible is forgotten, and what its record ends follows. CFE_TASK_DONE follows a record with
EVENT = 1, but not that of a refused descriptor, which has no other effect (R79). -/
def recordGone (t : Nat) (s : State) : State :=
  match getTask s t with
  | none => s
  | some k =>
    let q := k.queue
    let s := handlingTaskDone t (dropTask t s)
    let s := if dEvent k.desc && !k.refused then postQ q evCfeTaskDone (dTag k.desc) s else s
    drainDone q (resetNotice q s)

/-- A record is visible (R81): CFE_Q_CPL_TAIL advances, after its copies have been compared (R56), and the task is
forgotten. -/
def recordVisible (t : Nat) (s : State) : State :=
  match getTask s t with
  | none => s
  | some k =>
    recordGone t (if queueBroken (getQ s k.queue) then queueMismatch k.queue s
      else modQ k.queue (fun r => { r with cplTail := ptrStep (qLog r) r.cplTail }) s)

/-- Issues the record of a task into the next completion slot. -/
def issueRecord (k : Task) (s : State) : State :=
  let q := k.queue
  let r := getQ s q
  let n := qLog r
  let a := r.cplBase + 32 * (r.cplNext.val % 2 ^ n)
  let bytes := leBytes 32 (recordOf k (folio s) (phaseOf n r.cplNext.val))
  let s := modQ q (fun r => { r with cplNext := ptrStep n r.cplNext }) s
  let s := modTask k.id (fun k => { k with phase := .recorded, finishFolio := some (finishedIn k (folio s)) }) s
  let s := onCfe (fun c => { c with records := c.records + 1 }) s
  let s := if k.err.isNone ∧ overran k (folio s) then odCount odFsuOverruns 1 s else s
  if awSpace r.cplBase = 0 then postWrite (awPath a) (awAddr a) bytes (some k.id) (.record q) s
  else recordVisible k.id (storeAw a bytes (some k.id) s)

/-- COMPLETION_RECORD_WRITE: with XPATH the drain begins with the first attempt; once the writes before the record are
acknowledged, the record goes out. -/
def doCompletionRecordWrite (t : Nat) (s : State) : State :=
  match getTask s t with
  | none => s
  | some k =>
    if !taskSettled s k then s
    else if queueBroken (getQ s k.queue) then queueMismatch k.queue s
    else
      let s := if dXpath k.desc && k.drainTo.isNone then modTask t (fun k => { k with drainTo := some s.hpt.issued }) s else s
      match getTask s t with
      | none => s
      | some k => if writesDone s k then issueRecord k s else s

/-- COMPLETION_RECORD_WRITE (R81). -/
def execCompletionRecordWrite (t : Nat) (s : State) : Host.Outcome State Fault Refusal := .next (doCompletionRecordWrite t s)

end Sys2Proof.Machine
end

