-- ==== Sys2Proof/Machine/Sprouts.lean ====
section
/-! DEFINITION. Sprouts and index-hash microcode (04, R106 to R112): the checks of an image, the interpreter, and what a
stream driven by a sprout reads and writes. A system sprout, whose image the manual does not print, makes the accesses
that its stream needs. -/

namespace Sys2Proof.Machine

/-! ## Instructions (Tables 4.6 and 4.7, R112) -/

/-- OP of an instruction. -/
def siOp (w : Word) : Nat := bitsOf w.toNat 63 58
/-- DST. -/
def siDst (w : Word) : Nat := bitsOf w.toNat 57 55
/-- SRC. -/
def siSrc (w : Word) : Nat := bitsOf w.toNat 54 52
/-- AUX. -/
def siAux (w : Word) : Nat := bitsOf w.toNat 51 48
/-- IMM as an unsigned number. -/
def siImm (w : Word) : Nat := bitsOf w.toNat 47 0
/-- IMM sign-extended to 64 bits (R108). -/
def siImmS (w : Word) : Nat := ofSigned 64 (toSigned 48 (siImm w))

/-- A byte count of 1 to 4,096. -/
def siBytesOk (w : Word) : Bool := decide (1 ≤ siImm w) && decide (siImm w ≤ 4096)

/-- Which of DST, SRC, AUX and IMM an operation uses, and its ranges (R108, Table 4.7); hash selects the operations of
R112. A field that the operation does not use must be 0. -/
def siOk (hash : Bool) (w : Word) : Bool :=
  let dst0 := siDst w == 0
  let src0 := siSrc w == 0
  let aux0 := siAux w == 0
  let imm0 := siImm w == 0
  match siOp w with
  | 0x01 => src0 && aux0
  | 0x02 => src0 && aux0
  | 0x03 => aux0 && imm0
  | 0x04 => aux0
  | 0x08 => !hash && dst0 && (siAux w == 0 && src0 || siAux w == 1 && imm0)
  | 0x09 => !hash && dst0 && src0 && aux0 && imm0
  | 0x10 => !hash && dst0 && aux0 && siBytesOk w
  | 0x11 => !hash && src0 && aux0 && siBytesOk w
  | 0x12 => !hash && decide (siAux w ≤ 1) && siBytesOk w
  | 0x18 => !hash && dst0 && decide (siAux w ≤ 2) && imm0
  | 0x20 => !hash && dst0 && src0 && aux0 && imm0
  | 0x30 => hash && aux0 && imm0
  | 0x31 => hash && src0 && aux0 && decide (siImm w ≤ 63)
  | 0x32 => hash && src0 && aux0 && decide (siImm w ≤ 63)
  | 0x3F => dst0 && src0 && aux0 && imm0
  | _ => false

/-- LOOP and ENDL pair, and loops nest no deeper than 8; depth loops are open (R109). -/
def loopsPair : Nat → List Word → Bool
  | depth, [] => depth == 0
  | depth, w :: ws =>
    if siOp w = 0x08 then decide (depth < 8) && loopsPair (depth + 1) ws
    else if siOp w = 0x09 then decide (0 < depth) && loopsPair (depth - 1) ws
    else loopsPair depth ws

/-- HALT is the last instruction and stands nowhere else (R109). -/
def haltLast (ws : List Word) : Bool :=
  match ws.reverse with
  | [] => false
  | w :: rest => siOp w == 0x3F && rest.all (fun x => siOp x != 0x3F)

/-- An image passes the checks of R109 for its kind and slot. -/
def imageOk (hash allPods : Bool) (slot : Nat) (ws : List Word) : Bool :=
  decide (1 ≤ ws.length) && decide (ws.length ≤ 64) && ws.all (siOk hash) && loopsPair 0 ws && haltLast ws &&
  (if hash then decide (1 ≤ slot) && decide (slot ≤ 3) && allPods else decide (16 ≤ slot) && decide (slot ≤ 63))

/-! ## Registers -/

/-- A register: its value, and the address word of A0 (false) or A1 (true) that it came from, if either (R107). -/
structure SReg where
  v : Nat := 0
  src : Option Bool := none
  deriving DecidableEq, Repr

/-- Register i. -/
def sreg (rs : List SReg) (i : Nat) : SReg := rs.getD i {}
/-- The first of two sources that is one. -/
def srcOr (a b : Option Bool) : Option Bool := match a with | some x => some x | none => b

/-- An operation on registers: MOVI, ADDI, ADD, MULI, and XOR, XSR and ROT of R112. -/
def regOp (w : Word) (rs : List SReg) : List SReg :=
  let m := 2 ^ 64
  let d := sreg rs (siDst w)
  let a := sreg rs (siSrc w)
  let put (r : SReg) : List SReg := rs.set (siDst w) r
  match siOp w with
  | 0x01 => put ⟨siImmS w, none⟩
  | 0x02 => put ⟨(d.v + siImmS w) % m, d.src⟩
  | 0x03 => put ⟨(d.v + a.v) % m, srcOr d.src a.src⟩
  | 0x04 => put ⟨a.v * siImmS w % m, a.src⟩
  | 0x30 => put ⟨d.v ^^^ a.v, d.src⟩
  | 0x31 => put ⟨d.v ^^^ (d.v >>> siImm w), d.src⟩
  | 0x32 => put ⟨((d.v >>> siImm w) ||| (d.v <<< (64 - siImm w))) % m, d.src⟩
  | _ => rs

/-- k of a loaded hash function: A0 at HALT, from the index and HASH_SEED (R112). -/
def hashImage (ws : List Word) (index seed : Nat) : Nat :=
  (sreg (ws.foldl (fun rs w => regOp w rs)
    ([⟨index, none⟩, ⟨seed, none⟩] ++ List.replicate 6 ({} : SReg))) 0).v

/-! ## The accesses of a stream -/

/-- One access of a stream, at an address word (none where the address has left its space, R111). -/
inductive SAct where
  /-- Bytes read into the stream buffer. -/
  | rd (aw : Option Nat) (n : Nat)
  /-- Bytes written from the stream buffer. -/
  | wr (aw : Option Nat) (n : Nat)
  /-- An index that GATH reads for itself. -/
  | ix (aw : Option Nat) (n : Nat)
  /-- A tile of 32 × 32 elements of a width, delivered column by column: the address words of its rows (XPOSE). -/
  | tile (rows : List (Option Nat)) (width : Nat)
  deriving DecidableEq, Repr

/-- A sprout while it runs. -/
structure SRun where
  pc : Nat := 0
  regs : List SReg
  /-- Open loops: the first instruction of the body, and the iterations left. -/
  loops : List (Nat × Nat) := []
  /-- The accesses made, newest first. -/
  acts : List SAct := []
  halted : Bool := false
  deriving DecidableEq, Repr

/-- The address words that A0 and A1 of a stream came from. -/
structure SWords where
  w0 : Nat
  w1 : Nat
  deriving DecidableEq, Repr

/-- An address in the space of a register's word; none beyond ADDR (R107, R111). -/
def wordAt (ws : SWords) (r : SReg) (off : Nat) : Option Nat :=
  let w := if r.src = some true then ws.w1 else ws.w0
  let a := (r.v + off) % 2 ^ 64
  if a < 2 ^ 57 then some (w - awAddr w + a) else none

/-- How many words a LOOP that runs no iteration skips: to the one after its ENDL. -/
def skipLoop : Nat → List Word → Nat
  | _, [] => 0
  | depth, w :: ws =>
    if siOp w = 0x08 then 1 + skipLoop (depth + 1) ws
    else if siOp w = 0x09 then (if depth = 0 then 1 else 1 + skipLoop (depth - 1) ws)
    else 1 + skipLoop depth ws

/-- The number at an address word. -/
def numAtAw (s : State) (w : Option Nat) (n : Nat) : Nat :=
  match w with | none => 0 | some w => leNat (loadAw s w n)

/-- One instruction of a sprout (Table 4.7). -/
def sproutStep (s : State) (ws : SWords) (prog : List Word) (r : SRun) : SRun :=
  let w := prog.getD r.pc 0
  let a := sreg r.regs (siSrc w)
  let d := sreg r.regs (siDst w)
  let act (x : List SAct) : SRun := { r with pc := r.pc + 1, acts := x ++ r.acts }
  match siOp w with
  | 0x08 =>
    let n := if siAux w = 1 then a.v else siImm w
    if n = 0 then { r with pc := r.pc + 1 + skipLoop 0 (prog.drop (r.pc + 1)) }
    else { r with pc := r.pc + 1, loops := (r.pc + 1, n) :: r.loops }
  | 0x09 =>
    match r.loops with
    | [] => { r with halted := true }
    | (start, n) :: rest =>
      if 1 < n then { r with pc := start, loops := (start, n - 1) :: rest } else { r with pc := r.pc + 1, loops := rest }
  | 0x10 => act [.rd (wordAt ws a 0) (siImm w)]
  | 0x11 => act [.wr (wordAt ws d 0) (siImm w)]
  | 0x12 =>
    let n := if siAux w = 1 then 8 else 4
    let ia := wordAt ws a 0
    act [.rd (wordAt ws d (numAtAw s ia n * (sreg r.regs 3).v)) (siImm w), .ix ia n]
  | 0x18 => act [.tile ((List.range 32).map (fun i => wordAt ws a (i * (sreg r.regs 4).v))) (2 <<< siAux w)]
  | 0x20 => { r with pc := r.pc + 1 }
  | 0x3F => { r with halted := true }
  | _ => { r with pc := r.pc + 1, regs := regOp w r.regs }

/-- Runs a sprout until it halts. Every sprout of at most 64 instructions and 8 nested loops of at most 2^64
iterations halts within 2^519 steps. -/
def sproutGo (s : State) (ws : SWords) (prog : List Word) : Nat → SRun → SRun
  | 0, r => r
  | n + 1, r => if r.halted then r else sproutGo s ws prog n (sproutStep s ws prog r)

/-- The accesses of a stream in order: A0 to A4 as Table 4.5 gives them, A5 to A7 zero (R107). -/
def sproutActs (s : State) (prog : List Word) (ws : SWords) (a0 a1 : SReg) (a2 a3 a4 : Nat) : List SAct :=
  (sproutGo s ws prog (2 ^ 519)
    { regs := [a0, a1, ⟨a2, none⟩, ⟨a3, none⟩, ⟨a4, none⟩] ++ List.replicate 3 ({} : SReg) }).acts.reverse

/-! ## Streams -/

/-- The slot of a stream: the system sprout, an empty slot, or a loaded image (R106). -/
inductive SSlot where
  | system
  | empty
  | user (prog : List Word)
  deriving DecidableEq, Repr

/-- The slot that drives a task's stream of a kind on a Pod, as bound at its admission (R106). -/
def streamSlot (s : State) (k : Task) (pod kind : Nat) : SSlot :=
  let n := k.binds.getD kind kind
  if n = kind then .system
  else match tabFind n (getPod s pod).sprouts with
    | none => .empty
    | some ws => .user ws

/-- The end of a task whose stream finds its slot empty (R106). -/
def emptySlot : Flt := ⟨stSproutInvalid, 0, 0⟩

/-- What an access ends its task with; an address that has left its space is an ADDRESS_FAULT (R111), with the highest
address of ADDR in DETAIL_VALUE where it does not fit ADDR [56:0] (log 98). -/
def actFlt (s : State) (aw : Option Nat) (n : Nat) : Option Flt :=
  match aw with
  | none => some ⟨stAddressFault, 2, 2 ^ 57 - 1⟩
  | some w => accessFlt s w n

/-- Codes of a tile, column by column. -/
def tileBytes (width : Nat) (rows : List (List Byte)) : List Byte :=
  let ns := (rows.map leNat).toArray
  let codes := (List.range 32).flatMap (fun c => (List.range 32).map (fun r => codeAt width (ns.getD r 0) c))
  leBytes (128 * width) (packCodes width codes)

/-- What the reads of a stream deliver, in order, each with whether it is a transposed tile, or its first fault. -/
def actsRead (s : State) : List SAct → Except Flt (List (Bool × List Byte))
  | [] => .ok []
  | .rd aw n :: rest =>
    match actFlt s aw n with
    | some f => .error f
    | none => (actsRead s rest).map (fun x => (false, loadAw s (aw.getD 0) n) :: x)
  | .ix aw n :: rest =>
    match actFlt s aw n with
    | some f => .error f
    | none => actsRead s rest
  | .wr _ _ :: rest => actsRead s rest
  | .tile rows width :: rest =>
    match rows.findSome? (fun w => actFlt s w (4 * width)) with
    | some f => .error f
    | none => (actsRead s rest).map (fun x =>
        (true, tileBytes width (rows.map (fun w => loadAw s (w.getD 0) (4 * width)))) :: x)

/-- What a stream of a task delivers: sys are the accesses that the system sprout makes for it. -/
def streamRead (s : State) (k : Task) (pod kind : Nat) (ws : SWords) (a0 a1 : SReg) (a2 a3 a4 : Nat)
    (sys : List (Nat × Nat)) : Except Flt (List (Bool × List Byte)) :=
  match streamSlot s k pod kind with
  | .system => actsRead s (sys.map (fun x => .rd (some x.1) x.2))
  | .empty => .error emptySlot
  | .user prog => actsRead s (sproutActs s prog ws a0 a1 a2 a3 a4)

/-- The first n bytes that a stream has delivered; a byte that its sprout never delivers is free (log 4). -/
def delivered (s : State) (n : Nat) (cs : List (Bool × List Byte)) : List Byte :=
  let bs := (cs.flatMap (·.2)).take n
  bs ++ (List.range (n - bs.length)).map (fun i => Config.freeByte s.gau.free (bs.length + i))

/-- A register that holds ADDR of an address word, as A0 (false) or as A1. -/
def wordReg (second : Bool) (w : Nat) : SReg := ⟨awAddr w, some second⟩

/-- The accesses of a stream that reads: the system sprout's, or a user program's. -/
def streamActs (s : State) (k : Task) (pod kind : Nat) (ws : SWords) (a0 a1 : SReg) (a2 a3 a4 : Nat)
    (sys : List (Nat × Nat)) : List SAct :=
  match streamSlot s k pod kind with
  | .system => sys.map (fun x => .rd (some x.1) x.2)
  | .empty => []
  | .user prog => sproutActs s prog ws a0 a1 a2 a3 a4

/-- A stream with one address word in A0. -/
def streamOne (s : State) (k : Task) (pod kind w a2 a3 a4 : Nat) (sys : List (Nat × Nat)) :
    Except Flt (List (Bool × List Byte)) :=
  streamRead s k pod kind ⟨w, w⟩ (wordReg false w) {} a2 a3 a4 sys

/-- Makes the accesses of a stream that writes, in order: buf is its buffer, and a byte missing from it is free (log 4).
The first fault ends the stream. -/
def runActs (t : Nat) : List SAct → List Byte → State → State × Option Flt
  | [], _, s => (s, none)
  | .wr aw n :: rest, buf, s =>
    match actFlt s aw n with
    | some f => (s, some f)
    | none => runActs t rest (buf.drop n) (storeAw (aw.getD 0) (delivered s n [(false, buf.take n)]) (some t) s)
  | .rd aw n :: rest, buf, s =>
    match actFlt s aw n with
    | some f => (s, some f)
    | none => runActs t rest (buf ++ loadAw s (aw.getD 0) n) (hptRead (taskAsid s (some t)) (aw.getD 0) n s)
  | .ix aw n :: rest, buf, s =>
    match actFlt s aw n with
    | some f => (s, some f)
    | none => runActs t rest buf (hptRead (taskAsid s (some t)) (aw.getD 0) n s)
  | .tile rows width :: rest, buf, s =>
    match rows.findSome? (fun w => actFlt s w (4 * width)) with
    | some f => (s, some f)
    | none => runActs t rest (buf ++ tileBytes width (rows.map (fun w => loadAw s (w.getD 0) (4 * width))))
        (forEach (fun w s => hptRead (taskAsid s (some t)) (w.getD 0) (4 * width) s) rows s)

/-- A stream of kind 3 writes an output row for a task (Table 4.5): the system sprout writes it at its place after the
address word base, and a user sprout gets the number n of the bag or index. -/
def outputStream (k : Task) (pod base place n stride : Nat) (bytes : List Byte) (s : State) : State × Option Flt :=
  match streamSlot s k pod 3 with
  | .system => runActs k.id [.wr (some (base + place)) bytes.length] bytes s
  | .empty => (s, some emptySlot)
  | .user prog =>
    runActs k.id (sproutActs s prog ⟨base, base⟩ {} (wordReg true base) n bytes.length stride) bytes (drawn s)

/-- A stream that copies from one address word to another (kinds 6 and 7, Table 4.5): n pieces of len bytes, the
destination's step bytes apart. -/
def copyStream (k : Task) (pod kind src dst n len step : Nat) (s : State) : State × Option Flt :=
  match streamSlot s k pod kind with
  | .system =>
    runActs k.id ((List.range n).flatMap (fun i => [.rd (some (src + i * len)) len, .wr (some (dst + i * step)) len])) [] s
  | .empty => (s, some emptySlot)
  | .user prog =>
    runActs k.id (sproutActs s prog ⟨src, dst⟩ (wordReg false src) (wordReg true dst) n len (if kind = 7 then step else 0))
      [] (drawn s)

/-- The fused tensor's row n of d elements, by the stream of kind 2 (R135, Table 4.5). -/
def fusedRow (s : State) (k : Task) (pod w fmt n d : Nat) : Except Flt (List F32) :=
  let b := fuseBytes fmt
  (streamOne s k pod 2 w n b (d * b) [(w + n * d * b, d * b)]).map (fun cs => fuseVec fmt d (delivered s (d * b) cs))

end Sys2Proof.Machine
end

