-- ==== Sys2Proof/Machine/Groups.lean ====
section
/-! DEFINITION. Tiles and accumulation groups (05, R138 to R145), the handle queues between the stages of a Pod
(01, R16 to R19, R56), and SPROUT_LOAD (R78, R109, R110). -/

namespace Sys2Proof.Machine

/-! ## Handle queues (R17, R56) -/

/-- Handle queue q of a Pod: 0 Gather to Pool, 1 Pool to Quantiser or Fold, 2 Fold to export. -/
def hqOf (p : Pod) (q : Nat) : HQueue := if q = 0 then p.hq0 else if q = 1 then p.hq1 else p.hq2
/-- Replaces a handle queue of a Pod. -/
def setHq (q : Nat) (h : HQueue) (p : Pod) : Pod :=
  if q = 0 then { p with hq0 := h } else if q = 1 then { p with hq1 := h } else { p with hq2 := h }
/-- A handle queue holds 256 entries. -/
def hqFull (h : HQueue) : Bool := decide (256 ≤ h.items.length)
/-- The two copies of both pointers agree. -/
def hqOk (h : HQueue) : Bool := ptrOk h.rd && ptrOk h.wr
/-- A handle queue with a handle pushed. -/
def hqPush (x : Handle) (h : HQueue) : HQueue :=
  { h with items := h.items ++ [x], wr := ptr (ptrNext 8 h.wr.val) }
/-- A handle queue without its oldest handle. -/
def hqPop (h : HQueue) : HQueue := { h with items := h.items.tail, rd := ptr (ptrNext 8 h.rd.val) }
/-- Pushes a handle into queue q of Pod p. -/
def pushHandle (p q : Nat) (x : Handle) (s : State) : State := modPod p (fun P => setHq q (hqPush x (hqOf P q)) P) s
/-- Takes the oldest handle from queue q of Pod p. -/
def popHandle (p q : Nat) (s : State) : State := modPod p (fun P => setHq q (hqPop (hqOf P q)) P) s
/-- The oldest handle of queue q of Pod p. -/
def headHandle (s : State) (p q : Nat) : Option Handle := (hqOf (getPod s p) q).items.head?
/-- Queue q of Pod p is reset when its pointers disagree (R57), and used otherwise. -/
def withHq (p q : Nat) (f : State → State) (s : State) : State :=
  let h := hqOf (getPod s p) q
  if hqOk h then f s else handleQueueMismatch p h.items (setHq q {}) s

/-- Carrels first to first + n − 1 of Pod p become free (R16). -/
def freeCarrels (p first n : Nat) (s : State) : State :=
  modPod p (fun P => { P with carrels := P.carrels.filter (fun c => !(decide (first ≤ c.1) && decide (c.1 < first + n))) }) s

/-- ABORTED_HANDLE_FREE: the consumer of queue q takes an aborted handle and frees what it holds, writing nothing. -/
def doAbortedHandleFree (pod q : Nat) (s : State) : State :=
  if q < 3 then
    withHq pod q (fun s =>
      match headHandle s pod q with
      | none => s
      | some h =>
        if h.st = .aborted then
          let s := popHandle pod q s
          if q = 2 then modPod pod (fun P => { P with flu := { P.flu with unread := P.flu.unread - 1 } }) s
          else freeCarrels pod h.carrel h.carrels s
        else s) s
  else s

/-- ABORTED_HANDLE_FREE (R19). -/
def execAbortedHandleFree (pod q : Nat) (s : State) : Host.Outcome State Fault Refusal :=
  .next (doAbortedHandleFree pod q s)

/-! ## GROUP_OPEN (R140) -/

/-- A run's tiles are free of bags in progress, and for Fold tiles no pass steps on the Pod. -/
def runIdle (s : State) (r : TileRun) : Bool :=
  let p := getPod s r.pod
  if r.kind = 0 then !p.carrels.any (fun c => decide (r.first ≤ c.1) && decide (c.1 < r.first + r.count))
  else !p.flu.running

/-- A GROUP_OPEN may complete. -/
def openDone (s : State) (k : Task) : Bool := tileTurn s k && runIdle s (namedRun k.desc)

/-- GROUP_OPEN: its group is open since its admission; it completes at once where its tiles are idle, and otherwise
waits for them. -/
def doGroupOpen (t : Nat) (s : State) : State :=
  match liveTask s t opGOpen with
  | none => s
  | some k => if openDone s k then finishTask t s else modTask t (fun k => { k with waitTiles := true }) s

/-- GROUP_OPEN (R140). -/
def execGroupOpen (t : Nat) (s : State) : Host.Outcome State Fault Refusal := .next (doGroupOpen t s)

/-- GROUP_OPEN_COMPLETE: the tiles that a GROUP_OPEN waits for are idle. -/
def doGroupOpenComplete (t : Nat) (s : State) : State :=
  match liveTask s t opGOpen with
  | none => s
  | some k => if k.waitTiles && openDone s k then finishTask t s else s

/-- GROUP_OPEN_COMPLETE (R140). -/
def execGroupOpenComplete (t : Nat) (s : State) : Host.Outcome State Fault Refusal := .next (doGroupOpenComplete t s)

/-! ## Exports (R150 to R154) -/

/-- Counts one exported row of a task: its saturations, a NaN scale, and the largest m of the folio. -/
def countExport (t : Nat) (narrow : Bool) (e : Exported) (s : State) : State :=
  let s := modTask t (fun k => { k with sats := k.sats + e.sats }) s
  let s := odCount odQntExportSat e.sats s
  let s := odCount odQntExportNonfinite (bit (narrow && e.nonFinite)) s
  onGau (fun g => { g with
    exported := g.exported + 1,
    maxabs := if narrow && !e.nonFinite && decide (g.maxabs.toNat < e.m.toNat) then e.m else g.maxabs }) s

/-- The address word of a tile. -/
def tileWord (pod kind n : Nat) : Nat := (3 <<< 60) + ((pod <<< 20 + kind <<< 16 + n) <<< 10)

/-- The 256 values of a tile. -/
def tileVec (s : State) (pod kind n : Nat) : List F32 := fuseVec 0 256 (loadAw s (tileWord pod kind n) 1024)

/-! ## GROUP_CLOSE (R143) -/

/-- The group that a GROUP_CLOSE is closing. -/
def closingGroup (s : State) (k : Task) : Option Group :=
  (getPod s (gpPod k.desc)).groups.find? (fun g => g.closer == some k.id)

/-- A group's tiles are released. -/
def releaseGroup (p : Nat) (g : Group) (s : State) : State :=
  modPod p (fun P => { P with groups := P.groups.filter (fun x => x != g) }) s

/-- Fuses a tile's row, where FUSE_OP asks for it. -/
def fuseTile (s : State) (k : Task) (i : Nat) (r : List F32) : Except Flt (List F32) :=
  let d := k.desc
  if gpFuseOp d = 0 then .ok r
  else (fusedRow s k (gpPod d) (gpFuseAddr d) (gpFuseFmt d) i 256).map (List.zipWith (fuseElem (gpFuseOp d)) r)

/-- Exports tile i of a closing group at its place. -/
def closeTile (k : Task) (g : Group) (i : Nat) (s : State) : State × Option (Nat × Flt) :=
  let d := k.desc
  match fuseTile s k i (tileVec s (gpPod d) g.kind (g.first + i)) with
  | .error f => (s, some (2, f))
  | .ok r =>
    let e := exportRow (gpOutFmt d) r
    let n := e.bytes.length
    let b := if gpFuseOp d = 0 then 0 else 256 * fuseBytes (gpFuseFmt d)
    let s := hptRead (queueAsid s k.queue) (gpFuseAddr d + i * b) b s
    let x := outputStream k (gpPod d) (gpOutAddr d) (i * n) i 0 e.bytes (countExport k.id (outNarrow (gpOutFmt d)) e s)
    (x.1, x.2.map (fun f => (3, f)))

/-- Exports n tiles of a closing group from tile i on. -/
def closeTiles (k : Task) (g : Group) : Nat → Nat → State → State × Option (Nat × Flt)
  | 0, _, s => (s, none)
  | n + 1, i, s =>
    let x := closeTile k g i s
    match x.2 with
    | some f => (x.1, some f)
    | none => closeTiles k g n (i + 1) x.1

/-- GROUP_CLOSE: once every earlier operation has done with the tiles, each is fused and exported in tile order and
released; with OUT_ADDR 0 they are released as they are. -/
def doGroupClose (t : Nat) (s : State) : State :=
  match liveTask s t opGClose with
  | none => s
  | some k =>
    match closingGroup s k with
    | none => s
    | some g =>
      if !tileTurn s k then s
      else if gpOutAddr k.desc = 0 then finishTask t (releaseGroup (gpPod k.desc) g s)
      else
        let x := closeTiles k g g.count 0 s
        match x.2 with
        | some (kind, f) => taskFault t (gpPod k.desc) kind f x.1
        | none => finishTask t (releaseGroup (gpPod k.desc) g x.1)

/-- GROUP_CLOSE (R143). -/
def execGroupClose (t : Nat) (s : State) : Host.Outcome State Fault Refusal := .next (doGroupClose t s)

/-! ## TILE_READ, TILE_WRITE and ZERO (R75) -/

/-- The address word of the first tile that a task names. -/
def firstWord (d : Desc) : Nat := (3 <<< 60) + (gpFirst d <<< 10)

/-- Copies tiles for a task, by the stream of kind 6. -/
def tileCopy (t : Nat) (k : Task) (src dst : Nat) (s : State) : State :=
  let pod := tilePod (gpFirst k.desc)
  let x := copyStream k pod 6 src dst (gpCount k.desc) 1024 1024 s
  match x.2 with
  | some f => taskFault t pod 6 f x.1
  | none => finishTask t x.1

/-- TILE_READ: tiles are copied to memory in their turn. -/
def doTileRead (t : Nat) (s : State) : State :=
  match liveTask s t opTRead with
  | none => s
  | some k => if tileTurn s k then tileCopy t k (firstWord k.desc) (tlAddr k.desc) s else s

/-- TILE_READ (R75). -/
def execTileRead (t : Nat) (s : State) : Host.Outcome State Fault Refusal := .next (doTileRead t s)

/-- TILE_WRITE: memory is copied into tiles in their turn. -/
def doTileWrite (t : Nat) (s : State) : State :=
  match liveTask s t opTWrite with
  | none => s
  | some k => if tileTurn s k then tileCopy t k (tlAddr k.desc) (firstWord k.desc) s else s

/-- TILE_WRITE (R75). -/
def execTileWrite (t : Nat) (s : State) : Host.Outcome State Fault Refusal := .next (doTileWrite t s)

/-- A line with the bytes of a range zeroed. -/
def zeroLine (la a n : Nat) (data : List Byte) : List Byte :=
  data.zipIdx.map (fun c => if a ≤ la + c.2 ∧ la + c.2 < a + n then 0 else c.1)

/-- Zeroes n bytes of GDDR7 with every copy of them, as one commit after the other (R262, R265, R292). -/
def gddrZero (a n : Nat) (s : State) : State :=
  let down := s.mss.chans.any (fun c => c.2.down)
  let lost (x : Nat) : Bool := down && (getChan s (chanOf s x)).down
  let old (la : Nat) : List Byte := memLoad s.mem.gddr la 128
  let one (l : Line) : Line :=
    if l.listed && l.tier == 0 && overlaps a n l.addr 128 && !lost l.addr then { l with data := zeroLine l.addr a n l.data }
    else l
  let s := onPods (fun ps => ps.map (fun p => (p.1, { p.2 with slice := { p.2.slice with
    lines := p.2.slice.lines.map (fun l => (l.1, one l.2)), weed := p.2.slice.weed.map one,
    slips := p.2.slice.slips.map (slipWrite 0 a n old) } }))) s
  let s := onHpt (fun h => { h with snoop := h.snoop.filter (fun l => !overlaps a n (l * 128) 128) }) s
  let s := onMss (fun m => { m with
    atomsWritten := m.atomsWritten + (if n = 0 then 0 else (a + n - 1) / 64 - a / 64 + 1),
    badAtoms := m.badAtoms.filter (fun b => !overlaps a n (64 * b.1) 64 || lost (64 * b.1)) }) s
  onMem (fun m => { m with
    gddr := m.gddr.filter (fun c => decide (c.1 < a) || decide (a + n ≤ c.1) || lost c.1) }) s

/-- Zeroes n bytes at an address word of GDDR7, scratch or tiles. -/
def zeroAw (w n : Nat) (s : State) : State :=
  match awSpace w with
  | 1 => gddrZero (awAddr w) n (pinOverlay 0 (awAddr w) (List.replicate n 0) s)
  | 2 => onMem (fun m => { m with scratch := scratchStore s (awAddr w) (List.replicate n 0) }) s
  | 3 => onMem (fun m => { m with tiles := memClear (tileKey (awAddr w)) n m.tiles }) s
  | _ => s

/-- ZERO: zeros are written to the tiles, or to LENGTH bytes of memory. -/
def doZero (t : Nat) (s : State) : State :=
  match liveTask s t opZero with
  | none => s
  | some k =>
    let d := k.desc
    if gpCount d ≠ 0 then
      if tileTurn s k then finishTask t (zeroAw (firstWord d) (1024 * gpCount d) s) else s
    else
      match accessFlt s (tlAddr d) (tlLength d) with
      | some f =>
        if f.st = stAbortedFault ∧ awSpace (tlAddr d) = 1 then finishTask t (zeroAw (tlAddr d) (tlLength d) s)
        else taskFault t 0 0 f s
      | none => finishTask t (zeroAw (tlAddr d) (tlLength d) s)

/-- ZERO (R75). -/
def execZero (t : Nat) (s : State) : Host.Outcome State Fault Refusal := .next (doZero t s)

/-! ## SPROUT_LOAD (R78, R109, R110) -/

/-- The 64-bit words of an image. -/
def imageWords : Nat → List Byte → List Word
  | 0, _ => []
  | n + 1, bs => BitVec.ofNat 64 (leNat (bs.take 8)) :: imageWords n (bs.drop 8)

/-- Streams of other tasks run from a slot of a kind: an admitted task with a bag begun that has bound it (R110). -/
def slotRunning (s : State) (t : Nat) (hash : Bool) (slot : Nat) : Bool :=
  s.cfe.tasks.any (fun k => k.id != t && k.phase == .admitted && k.deals.any (·.started) &&
    (if hash then k.hashSlot == slot else k.binds.contains slot))

/-- A Pod with an image in a slot. -/
def loadSlot (hash : Bool) (slot : Nat) (ws : List Word) (p : Pod) : Pod :=
  if hash then { p with hashes := tabPut slot ws p.hashes } else { p with sprouts := tabPut slot ws p.sprouts }

/-- An image goes into the hub's copy for each Pod named, and into each of them that is not in reset (R78, R441). -/
def loadImage (hash : Bool) (pods : List Nat) (slot : Nat) (ws : List Word) (s : State) : State :=
  forEach (fun p s =>
    let s := onMsc (fun m => { m with images := tabPut (p * 128 + slot + (if hash then 64 else 0)) ws m.images }) s
    if (getPod s p).inReset then s else modPod p (loadSlot hash slot ws) s) pods s

/-- SPROUT_LOAD: the image is read and checked, and loaded whole once no stream runs from the slot. -/
def doSproutLoad (t : Nat) (s : State) : State :=
  match liveTask s t opSprout with
  | none => s
  | some k =>
    let d := k.desc
    let n := spLength d
    if n = 0 ∨ 64 < n then endTask t stSproutInvalid 0 0 s
    else
      match accessFlt s (spSrc d) (8 * n) with
      | some f => taskFault t (spPod d) 0 f s
      | none =>
        let ws := imageWords n (loadAw s (spSrc d) (8 * n))
        if !imageOk (spHash d) (spAll d) (spSlot d) ws then endTask t stSproutInvalid 0 0 s
        else if slotRunning s t (spHash d) (spSlot d) then s
        else finishTask t (loadImage (spHash d) (if spAll d then podNums else [spPod d]) (spSlot d) ws (hptRead (queueAsid s k.queue) (spSrc d) (8 * n) s))

/-- SPROUT_LOAD (R78). -/
def execSproutLoad (t : Nat) (s : State) : Host.Outcome State Fault Refusal := .next (doSproutLoad t s)

/-! ## The tile window (R139) -/

/-- The tile and byte that an offset of the window names: Pod, kind, tile and byte; none for a reserved offset. -/
def windowTile (off : Nat) : Option (Nat × Nat × Nat × Nat) :=
  if 0x01000000 ≤ off ∧ off < 0x03000000 then
    let x := off - 0x01000000
    let y := x % 0x200000
    let kind := y / 0x100000
    let tile := y % 0x100000 / 0x400
    if tile < tilesOfKind kind then some (x / 0x200000, kind, tile, y % 0x400) else none
  else none

/-- A write lands in a tile that no group owns and, for a carrel, that no bag holds. -/
def windowOpen (s : State) (pod kind tile : Nat) : Bool :=
  let p := getPod s pod
  !p.groups.any (fun g => g.kind == kind && decide (g.first ≤ tile) && decide (tile < g.first + g.count)) &&
  (kind != 0 || !p.carrels.any (fun c => c.1 == tile))

/-- The subsystem of a tile of a kind: the PLU for carrels, the FLU for Fold tiles (R455). -/
def tileSub (kind : Nat) : Nat := if kind = 0 then 6 else 7

/-- TILE_WINDOW_WRITE: an aligned write of 4 or 8 bytes lands, or is dropped and counted; every other access is
dropped (R453). -/
def doTileWindowWrite (off width v : Nat) (s : State) : State :=
  if (width = 4 ∨ width = 8) ∧ off % width = 0 ∧ windowUp s ∧ !confidential s then
    match windowTile off with
    | none => s
    | some (pod, kind, tile, b) =>
      if gated s (tileSub kind) then s
      else if windowOpen s pod kind tile then storeAw (tileWord pod kind tile + b) (leBytes width v) none s
      else odCount odPluWindowDrops 1 s
  else s

/-- TILE_WINDOW_WRITE (R139). -/
def execTileWindowWrite (off width v : Nat) (s : State) : Host.Outcome State Fault Refusal :=
  .next (doTileWindowWrite off width v s)

end Sys2Proof.Machine
end

