-- ==== Sys2Proof/Machine/Bags.lean ====
section
/-! DEFINITION. One bag of a LOOKUP, LOOKUP_FOLD or UPDATE as data: its indices (R68, R90), its rows (R28, R92), its
segments and leaves (R97, R98, R125, R137), where a row is read (Tables 4.1, 4.3 and 9.3), and its pooled row (05). -/

namespace Sys2Proof.Machine

/-! ## Indices and weights of a bag -/

/-- The stream of kind 0 of a bag under a user sprout (Table 4.5). -/
def indexSprout (s : State) (k : Task) (bag : Nat) (prog : List Word) : Except Flt (List (Bool × List Byte)) :=
  let d := k.desc
  let ws : SWords := ⟨dIndexAddr d, dOffsetAddr d⟩
  actsRead s (sproutActs s prog ws (wordReg false ws.w0) (wordReg true ws.w1) bag (dIdxBytes d) (dOffBytes d))

/-- Bytes off to off + n − 1 of the stream of kind 0 of a bag, which holds the bag's two offsets and then its indices;
the system sprout reads them at the address word sys. -/
def indexBytes (s : State) (k : Task) (pod bag off n sys : Nat) : Except Flt (List Byte) :=
  match streamSlot s k pod 0 with
  | .system => (actsRead s [.rd (some sys) n]).map (fun cs => delivered s n cs)
  | .empty => .error emptySlot
  | .user prog => (indexSprout s k bag prog).map (fun cs => (delivered s (off + n) cs).drop off)

/-- The two offsets of a bag. -/
def bagOffsets (s : State) (k : Task) (pod bag : Nat) : Except Flt (Nat × Nat) :=
  let d := k.desc
  let w := dOffBytes d
  if dInline d ≠ 0 then
    let n := dInlineCount d / dBags d
    .ok (bag * n, bag * n + n)
  else
    (indexBytes s k pod bag 0 (2 * w) (dOffsetAddr d + bag * w)).map (fun b => (numAt 0 w b, numAt w w b))

/-- The offsets of a bag break the conditions of R68. -/
def badBag (d : Desc) (bag : Nat) (o : Nat × Nat) : Bool :=
  (bag == 0 && o.1 != 0) || decide (o.2 < o.1) || decide (dIndexCount d < o.2) ||
  (bag + 1 == dBags d && o.2 != dIndexCount d) || decide (2 ^ 32 - 1 < o.2 - o.1)

/-- The lowest bag, up to a bad one, whose offsets are bad (R68). -/
def firstBadBag (s : State) (k : Task) (pod bag : Nat) : Nat :=
  ((List.range bag).find? (fun b =>
    match bagOffsets s k pod b with | .ok o => badBag k.desc b o | .error _ => false)).getD bag

/-- The first index of a bag in the task's list, and its length, or the fault of R68 or R117. -/
def bagSpan (s : State) (k : Task) (pod bag : Nat) : Except Flt (Nat × Nat) :=
  match bagOffsets s k pod bag with
  | .error f => .error f
  | .ok o => if badBag k.desc bag o then .error ⟨stAbortedFault, 8, firstBadBag s k pod bag⟩ else .ok (o.1, o.2 - o.1)

/-- Index j of a bag whose indices begin at base. -/
def bagIndex (s : State) (k : Task) (pod bag base j : Nat) : Except Flt Nat :=
  let d := k.desc
  let w := dIdxBytes d
  if dInline d ≠ 0 then .ok (dInlineIndex d (base + j))
  else (indexBytes s k pod bag (2 * dOffBytes d + j * w) w (dIndexAddr d + (base + j) * w)).map leNat

/-- Weight j of a bag of a WSUM task, by the stream of kind 1; other modes carry none. -/
def bagWeight (s : State) (k : Task) (pod base j : Nat) : Except Flt F32 :=
  let d := k.desc
  if dPool d ≠ 3 then .ok 0x3F800000
  else if dInline d ≠ 0 then .ok (dInlineWeight d (base + j))
  else
    let w := dWeightAddr d
    (streamRead s k pod 1 ⟨w, w⟩ (wordReg false w) {} base 4 0 [(w + 4 * (base + j), 4)]).map (fun cs =>
      match streamSlot s k pod 1 with
      | .system => BitVec.ofNat 32 (leNat (delivered s 4 cs))
      | _ => BitVec.ofNat 32 (leNat ((delivered s (4 * j + 4) cs).drop (4 * j))))

/-! ## From an index to a row (R91 step 1, R28, R92, R112, R113) -/

/-- The row of an index: none is an index out of range. -/
def indexRow (s : State) (k : Task) (pod index : Nat) : Except Flt (Option Nat) :=
  let e := dirAt s (dTable k.desc)
  if !deValid e then .error ⟨stTableOffline, 0, 0⟩
  else if deHashed e then
    if k.hashSlot = 0 then .ok (some (hashRow (deSeed e) (deRows e) index))
    else match tabFind k.hashSlot (getPod s pod).hashes with
      | none => .error emptySlot
      | some ws => .ok (some ((hashImage ws index (deSeed e) * deRows e) >>> 64))
  else .ok (if index < deRows e then some index else none)

/-- An index of a bag as the Sorter window holds it. -/
def bagEntry (s : State) (k : Task) (pod bag base j : Nat) : Except Flt WinEntry :=
  match bagIndex s k pod bag base j with
  | .error f => .error f
  | .ok i =>
    match indexRow s k pod i with
    | .error f => .error f
    | .ok r =>
      match bagWeight s k pod base j with
      | .error f => .error f
      | .ok w => .ok { pos := j, row := r, weight := w }

/-! ## Folding (R97, R98, Table 4.2) -/

/-- The weight of the one read of some occurrences of a row. -/
def foldedWeight (pool : Nat) (es : List WinEntry) : F32 :=
  if pool = 3 then foldWeights (es.map (·.weight))
  else if pool ≤ 2 then fInt false es.length
  else 0x3F800000

/-- The leaf of an entry, with every later entry of its row folded in, under the descriptor that the first read (R54). -/
def foldLeaf (pool : Nat) (e : WinEntry) (rest : List WinEntry) : Leaf :=
  let es := e :: rest.filter (fun x => x.row == e.row)
  { pos := e.pos, row := e.row, weight := foldedWeight pool es, count := es.length, desc := e.desc }

/-- The leaves of a segment of at most n entries, in the order of the first occurrences. -/
def foldSegment (pool : Nat) : Nat → List WinEntry → List Leaf
  | 0, _ => []
  | _, [] => []
  | n + 1, e :: rest =>
    if pool = 6 then { pos := e.pos, row := e.row, weight := 0x3F800000, count := 1, desc := e.desc } :: foldSegment pool n rest
    else foldLeaf pool e rest :: foldSegment pool n (rest.filter (fun x => x.row != e.row))

/-- The entries of a segment. -/
def segmentLen : Nat := 65536

/-! ## Where a row is read (Tables 4.3 and 9.3) -/

/-- REPLACE_COMMIT has run for a REPLACING shard. -/
def isCommitted (s : State) (idx : Nat) (x : BitVec 512) : Bool := sdState x == 2 && s.cat.committed.contains idx

/-- The base that a read of a shard resolves to, by PIN and PIN_EPOCH (Table 9.3). -/
def pinBase (s : State) (pin : Bool) (pinEpoch idx : Nat) (x : BitVec 512) : Except Flt Nat :=
  let e := sdReplaceEpoch x
  if !pin || pinEpoch = e then .ok (sdBase x)
  else if isCommitted s idx x ∧ (pinEpoch + 1) % 65536 = e then .ok (sdAlt x)
  else .error (pinFlt idx e)

/-- What a row's shard lets an index of a task do, before its read is sent (R49, R91 step 4, R461). -/
def shardFlt (k : Task) (table : Nat) (x : BitVec 512) : Option Flt :=
  if sdTable x ≠ table ∨ sdState x = 0 then some ⟨stTableOffline, 0, 0⟩
  else if sdTableLevel x ≠ sdTableLevel k.shard0 then some ⟨stTableMismatch, 0, 0⟩
  else none

/-- The pinned copy of a shard. -/
def pinnedCopy (s : State) (idx : Nat) : Option Pinned := s.stk.pinned.find? (fun p => p.idx == idx)

/-- The replica of a row held here. -/
def replicaOf (s : State) (t row : Nat) : Option Replica := s.cat.replicas.find? (fun r => r.table == t && r.row == row)

/-- The path of a row read (Table 4.3). -/
inductive RPath where
  /-- A row of a pinned copy; none is an absent position. -/
  | pinned (row : Option (List Byte))
  | replica (r : Replica)
  | remote
  | home
  deriving DecidableEq, Repr

/-- A shard is read here as its home: it is homed here, or at the twin whose shards this one serves alone (Table 13.7). -/
def readHome (s : State) (x : BitVec 512) : Bool :=
  let st := odGet s odSfpTwinState
  sdHome x == s.sfp.engineId ||
  ((st == 2 || st == 3) && decide (s.sfp.partner < 1024) && sdHome x == s.sfp.partner)

/-- The path of a read of a row of shard idx. A pinned task reads memory, never a copy in Stacks, once the shard's
replacement is committed (R240). -/
def rowPath (s : State) (d : Desc) (idx : Nat) (x : BitVec 512) (row pos : Nat) : RPath :=
  let mem := dPin d && isCommitted s idx x
  match (if mem then none else (pinnedCopy s idx).bind (fun p => tabFind pos p.rows)) with
  | some r => .pinned r
  | none =>
    match (if mem then none else replicaOf s (dTable d) row) with
    | some r => .replica r
    | none => if readHome s x then .home else .remote

/-- Where a row of a home shard lies under a base: its tier and address, absent, or the fault of its shelfmark. -/
inductive RowAt where
  | place (tier a : Nat)
  | absent
  | bad (f : Flt)
  deriving DecidableEq, Repr

/-- Resolves a position of a shard homed here (R26, R27, Table 2.6). -/
def resolveRow (s : State) (idx : Nat) (x : BitVec 512) (base pos : Nat) : RowAt :=
  let a := rowAddr x base pos
  if sdShelved x then
    match tierFlt s (sdTier x) a 8 with
    | some f => .bad f
    | none =>
      let m := leNat (tierLoad s (sdTier x) a 8)
      if smTier m < 2 then .place (smTier m) (32 * smLoc m)
      else if smTier m = 3 then .absent
      else .bad (rowFlt idx pos)
  else .place (sdTier x) a

/-- Reads of rows in host DRAM wait (R319, R321). -/
def hostHeld (s : State) : Bool := s.hpt.link == .down || s.hpt.tierHeld

/-- The side list of a row of a shard in a tier (R40). -/
def sideOf (s : State) (x : BitVec 512) (tier : Nat) (data : List Byte) : Except Flt (List Byte) :=
  if rowEscapes x data = 0 then .ok []
  else
    let a := sideAddr x (hkSlot (rowHusk x data))
    match tierFlt s tier a (slotSize x) with
    | some f => .error f
    | none => .ok (tierLoad s tier a (slotSize x))

/-! ## Default rows (R29, R30, R94, Table 4.1) -/

/-- A default row's malformed fault (R40): its address and its engine. -/
def dfltFlt (engine : Nat) (y : BitVec 512) : Flt := ⟨stAbortedFault, 3, (32 * sdDefAddr y) % 2 ^ 37 + (engine % 1024) <<< 37⟩

/-- The engine whose GDDR7 holds a LEARNED default row: the home of shard 0 (Table 2.1). -/
def defaultHome (s : State) (t : Nat) : Nat := sdHome (shard0Of s t)

/-! ## Pooling (R122, R131 to R135) -/

/-- The sum of weighted leaves by the tree, or the largest or smallest of them (R131, R132). -/
def poolLeaves (pool d : Nat) (xs : List (F32 × List F32)) : List F32 :=
  if pool = 4 ∨ pool = 5 then
    match xs with
    | [] => List.replicate d 0
    | x :: rest => rest.foldl (fun acc y => List.zipWith (if pool = 4 then fMax else fMin) acc y.2)
        (x.2.map (fun v => if fIsNan v then fNan else v))
  else treeGo false d [] none (xs.map (fun x => x.2.map (fun v => fMul false x.1 v)))

/-- Fusion of a bag (R135 step 3). -/
def finishFuse (s : State) (k : Task) (pod bag : Nat) (r : List F32) : Except Flt (List F32) :=
  let d := k.desc
  if dFuseOp d = 0 then .ok r
  else (fusedRow s k pod (dFuseAddr d) (dFuseFmt d) bag r.length).map (List.zipWith (fuseElem (dFuseOp d)) r)

/-- E of R129. -/
def treeE (n : Nat) : Nat := if n = 0 then 0 else if n ≤ 2 ^ 20 then Nat.log2 (n + 1) - 1 else 20

/-- The carrels of a bag of dimension d (R16, R124). -/
def bagCarrels (d : Nat) : Nat := cdiv d 256

/-- The tree-store entries that a bag reserves (R129). -/
def bagTree (pool d n : Nat) : Nat := if pool ≤ 3 then bagCarrels d * treeE n else 0

/-! ## Counts of a bag (R94, R96, R99, R130, R243 to R245) -/

/-- The key of a row in the heat instruments (R245). -/
def heatKey (t row : Nat) : Nat := t <<< 40 + row

/-- Counter k of a row key in a sketch (R244). -/
def sketchSlot (k key : Nat) : Nat := k * 65536 + (hashMix (k + 1) key) >>> 48

/-- The estimate of a row key on a Pod (R244). -/
def heatEstimate (p : Pod) (key : Nat) : Nat :=
  let c (k : Nat) : Nat := tabGet (sketchSlot k key) 0 p.sketch
  min (min (c 0) (c 1)) (min (c 2) (c 3))

/-- A candidate list with a row's new estimate: it is updated, or displaces the lowest of 64 (R245). -/
def candPut (key est : Nat) (c : List (Nat × Nat)) : List (Nat × Nat) :=
  if c.any (fun x => x.1 == key) then c.map (fun x => if x.1 = key then (key, est) else x)
  else if c.length < 64 then c ++ [(key, est)]
  else
    let low := c.foldl (fun m x => min m x.2) (2 ^ 32)
    match c.find? (fun x => x.2 == low) with
    | none => c
    | some x => c.map (fun y => if y.1 = x.1 then (key, est) else y)

/-- The IXU counts a row of an index in its Pod's sketch (R244, R245). -/
def heatHit (pod t row : Nat) (s : State) : State :=
  let key := heatKey t row
  let thr := odGet s odIxuHeatThresh
  modPod pod (fun p =>
    let sk := (List.range 4).foldl (fun sk k =>
      let i := sketchSlot k key
      tabPut i (satTo (2 ^ 32 - 1) (tabGet i 0 sk + 1)) sk) p.sketch
    let p := { p with sketch := sk }
    let est := heatEstimate p key
    if thr ≤ est then { p with cand := candPut key est p.cand } else p) s

/-- n indices of a table's task are substituted for a cause, 0 out of range and 1 absent (R94, R96). -/
def countSubst (t table cause n : Nat) (s : State) : State :=
  if n = 0 then s
  else
    let s := modTask t (fun k => { k with defaults := k.defaults + n }) s
    let s := odCount (if cause = 0 then odIxuDefaultsRange else odIxuDefaultsAbsent) n s
    let old := tabGet table (0, cause) s.gau.subst
    let now := old.1 + n
    let s := onGau (fun g => { g with subst := tabPut table (now, old.2) g.subst }) s
    let thr := odGet s odIxuDefaultThresh
    if thr ≠ 0 ∧ thr ≤ now ∧ !s.gau.substRaised.contains table then
      post0 evIxuDefaultRate table (satTo (2 ^ 32 - 1) now + old.2 <<< 32)
        (onGau (fun g => { g with substRaised := g.substRaised ++ [table] }) s)
    else s

/-- A row of a shard homed here has been served (R243). -/
def countServed (s : State) (idx : Nat) (x : BitVec 512) (remote : Bool) : State :=
  if sdHome x = s.sfp.engineId then
    onCat (fun c =>
      let r := tabGet idx (0, 0, 0, 0) c.circ
      { c with circ := tabPut idx (r.1 + 1, r.2.1 + bit remote, r.2.2.1 + rowS x, r.2.2.2) c.circ }) s
  else s

/-- A bag is finished: PLU counts it, with BAG_LONG and a result that is not finite (R123, R130). -/
def countBag (t n : Nat) (nonfin : Bool) (s : State) : State :=
  let s := onGau (fun g => { g with bags := g.bags + 1 }) s
  let s := odCount odPluNonfinite (bit nonfin) s
  if 2 ^ 20 < n then odCount odPluBagLong 1 (modTask t (fun k => { k with bagLong := true }) s) else s

end Sys2Proof.Machine
end

