-- ==== Sys2Proof/Machine/Lookup.lean ====
section
/-! DEFINITION. Where finished rows go (R142, R150 to R153), the deal of a task as it is worked off (R362), and the Fold
Unit's arithmetic, weight buffers and captures (07). -/

namespace Sys2Proof.Machine

/-! ## Where a finished row goes -/

/-- What a stage's work on a task ends with: the stream kind and the fault. -/
abbrev StageFlt := Option (Nat × Flt)

/-- Exports a finished row of a LOOKUP as output row n. -/
def exportOut (k : Task) (pod n : Nat) (r : List F32) (s : State) : State × StageFlt :=
  let d := k.desc
  let e := exportRow (dOutFmt d) r
  let x := outputStream k pod (dOutAddr d) (n * outPitch d (sdDim k.shard0)) n (32 * dOutStride d) e.bytes
    (countExport k.id (outNarrow (dOutFmt d)) e s)
  (x.1, x.2.map (fun f => (3, f)))

/-- The group that a task adds into. -/
def addGroup (s : State) (k : Task) : Option Group :=
  (getPod s (outTile k.desc).pod).groups.find? (fun g => g.tasks.contains k.id)

/-- Adds a finished row, or a block of one that starts at a byte of it, into the tiles of a bag (R142). -/
def addTiles (k : Task) (bag off : Nat) (r : List F32) (s : State) : State × StageFlt :=
  let d := k.desc
  let run := outTile d
  match addGroup s k with
  | none => (s, some (3, ⟨stNoGroup, 0, 0⟩))
  | some g =>
    let lin := run.first * 1024 + dOutTileAddr d % 1024 + bag * outPitch d (sdDim k.shard0) + off
    let w := tileWord run.pod 0 0 + lin
    if lin < g.first * 1024 ∨ (g.first + g.count) * 1024 < lin + 4 * r.length then (s, some (3, addrFlt w))
    else
      let old := fuseVec 0 r.length (loadAw s w (4 * r.length))
      (storeAw w ((vAdd false old r).flatMap (fun v => leBytes 4 v.toNat)) (some k.id) s, none)

/-- A finished row of a LOOKUP leaves: as output row n, or into the tiles of its bag. -/
def emitRow (k : Task) (pod bag n : Nat) (r : List F32) (s : State) : State × StageFlt :=
  if dToTiles k.desc then addTiles k bag 0 r s else exportOut k pod n r s

/-! ## The deal of a task as it is worked off (R362) -/

/-- Changes the deal of a bag. -/
def modDeal (t bag : Nat) (f : Deal → Deal) (s : State) : State :=
  modTask t (fun k => { k with deals := k.deals.map (fun x => if x.bag = bag then f x else x) }) s

/-- A bag has passed every phase. -/
def dealDone (x : Deal) : Deal := { x with started := true, passedG := true, passedF := true, passedX := true }

/-- A task whose bags have all passed export is past its finish point (Table 14.3). -/
def finishIfDone (t : Nat) (s : State) : State :=
  match getTask s t with
  | none => s
  | some k => if k.phase == .admitted && k.deals.all (·.passedX) then finishTask t s else s

/-- A task that may go on: admitted, and not ended. -/
def goesOn (s : State) (t : Nat) : Bool :=
  match getTask s t with
  | none => false
  | some k => k.phase == .admitted && k.err.isNone

/-- A named memory of the task is on a path that holds its traffic back (R319). -/
def wordsHeld (s : State) (d : Desc) : Bool :=
  s.hpt.link == .down && (addrWords d).any (fun w => awCoherent w.1)

/-! ## Fold arithmetic (R175 to R178) -/

/-- K_in of IN_BITS (R177). -/
def foldK (bits : Nat) : Nat := match bits with | 2 => 1 | 3 => 3 | 4 => 7 | _ => 127

/-- The row scale, the codes, and the codes clipped, of a finished row as a latch takes it (R177). -/
def latchRow (bits : Nat) (r : List F32) : F32 × List Int × Nat :=
  if r.any fNonFinite then (fNan, r.map (fun _ => 0), 0)
  else
    let a := fDiv true (maxAbs r) (fInt false (foldK bits))
    if fIsZero a then (0, r.map (fun _ => 0), 0)
    else
      let k : Int := foldK bits
      let cs := r.map (fun x =>
        let t := truncV (valOf (fDiv true x a))
        if k < t then (k, true) else if t < -k then (-k, true) else (t, false))
      (a, cs.map (·.1), (cs.filter (·.2)).length)

/-- The accumulators of a row over the columns of a block (R174, R175). -/
def foldAcc (block : Nat) (codes : List Int) (w : List (List Int)) : List Int :=
  (codes.zip w).foldl (fun acc c =>
    let q := (c.2.drop (1024 * block)).take 1024
    if acc.isEmpty then q.map (c.1 * ·) else List.zipWith (fun a b => a + c.1 * b) acc q) []

/-- y of R178 for the columns of a block. -/
def foldScaled (a : F32) (scales : List F32) (accs : List Int) : List F32 :=
  List.zipWith (fun b acc => fMul false (fMul false a b) (fInt false acc)) scales accs

/-- How many column blocks N columns make (R186). -/
def foldBlocks (n : Nat) : Nat := cdiv n 1024

/-- The columns of a block. -/
def blockWidth (n block : Nat) : Nat := min 1024 (n - 1024 * block)

/-! ## Weights and scales (R178, R180 to R183) -/

/-- The bytes of one row of the weight tensor, packed. -/
def wRowBytes (d : Desc) : Nat := dFoldN d * dWBits d / 8
/-- The pitch of the weight tensor's rows (R180). -/
def wPitch (d : Desc) : Nat := 32 * cdiv (dFoldN d * dWBits d) 256

/-- The tag of a task's weights (R183): FOLD_W_ADDR, W_BITS, d and N. -/
def foldTag (k : Task) : Nat × Nat × Nat × Nat := (dFoldW k.desc, dWBits k.desc, sdDim k.shard0, dFoldN k.desc)

/-- Codes of a width from bytes, as signed integers. -/
def signedCodes (w n : Nat) (bs : List Byte) : List Int :=
  let v := leNat bs
  (List.range n).map (fun j => toSigned w (codeAt w v j))

/-- Element (k, j) of a tensor of d rows delivered as 32 × 32 tiles: tiles come down the rows first, then along the
columns, and each tile delivers column by column (Worked example 4.2; log 16). -/
def tileElem (codes : Array Int) (d k j : Nat) : Int :=
  let tile := j / 32 * cdiv d 32 + k / 32
  codes.getD (tile * 1024 + k % 32 * 32 + j % 32) 0

/-- The weight tensor from what the stream of kind 4 delivers: d rows of N codes. -/
def weightRows (s : State) (k : Task) (cs : List (Bool × List Byte)) : List (List Int) :=
  let d := k.desc
  let dim := sdDim k.shard0
  let n := dFoldN d
  let w := dWBits d
  if !cs.isEmpty ∧ cs.all (·.1) then
    let codes := (signedCodes w (roundUp dim 32 * roundUp n 32)
      (delivered s (roundUp dim 32 * roundUp n 32 * w / 8) cs)).toArray
    (List.range dim).map (fun i => (List.range n).map (fun j => tileElem codes dim i j))
  else
    let bs := delivered s (dim * wRowBytes d) cs
    (List.range dim).map (fun i => signedCodes w n ((bs.drop (i * wRowBytes d)).take (wRowBytes d)))

/-- The accesses of the system sprout for a task's weights. -/
def weightAccesses (k : Task) : List (Nat × Nat) :=
  (List.range (sdDim k.shard0)).map (fun i => (dFoldW k.desc + i * wPitch k.desc, wRowBytes k.desc))

/-- Half h of a Pod's weight buffer. -/
def halfOf (p : Pod) (h : Nat) : Half := if h = 0 then p.flu.h0 else p.flu.h1
/-- Replaces a half. -/
def setHalf (h : Nat) (x : Half) (p : Pod) : Pod :=
  { p with flu := if h = 0 then { p.flu with h0 := x } else { p.flu with h1 := x } }

/-- The Pods that hold bags of a task, in order. -/
def taskPods (k : Task) : List Nat := podNums.filter (fun p => k.deals.any (fun x => x.pod == p))

/-- The Pods whose half a task has to load (R183). -/
def loadPods (s : State) (k : Task) : List Nat :=
  (taskPods k).filter (fun p => !dPreloaded k.desc || (halfOf (getPod s p) (dBufHalf k.desc)).tag != some (foldTag k))

/-! ## Captures and Fold output (R186, R187) -/

/-- Each cell's accumulator of a column pass goes into its Fold tile: rows of the active set, then empty rows (R138,
R174, R186). -/
def captureTiles (pod : Nat) (accs : List (List Int)) (s : State) : State :=
  let base := tileKey (bitsOf (tileWord pod 1 0) 56 0)
  let row (a : List Int) : List Byte := a.flatMap (fun v => leBytes 4 (ofSigned 32 v))
  onMem (fun m => { m with tiles :=
    (accs.zipIdx.foldl (fun t c => memStore (base + 4096 * c.2) (row c.1) t) (memClear base (640 * 1024) m.tiles)) }) s

/-- The accumulators of latch row r, as its Fold tiles hold them, n of them. -/
def capturedAcc (s : State) (pod r n : Nat) : List Int :=
  signedCodes 32 n (loadAw s (tileWord pod 1 (4 * r)) (4 * n))

/-- A column block of a projected bag leaves: as narrow rows of its own, as a part of one wide row, or into tiles (R187). A
block's export is a stream of its own, whose A1 is the block's place (log 16). -/
def emitBlock (k : Task) (pod bag block : Nat) (y : List F32) (s : State) : State × StageFlt :=
  let d := k.desc
  if dToTiles d then addTiles k bag (4096 * block) y s
  else
    let f := dOutFmt d
    let e := exportRow f y
    let place := bag * outPitch d (sdDim k.shard0) +
      (if outNarrow f then block * outSize f 1024 else block * 1024 * outBits f / 8)
    let x := outputStream k pod (dOutAddr d + place) 0 bag (32 * dOutStride d) e.bytes (countExport k.id (outNarrow f) e s)
    (x.1, x.2.map (fun f => (3, f)))

/-- The projection of captured row r of a bag: scaled by the row's a and the block's column scales, and sent on (R178). -/
def sendBlock (k : Task) (pod r block : Nat) (a : F32) (cols : List F32) (bag : Nat) (s : State) : State × StageFlt :=
  emitBlock k pod bag block (foldScaled a cols (capturedAcc s pod r (blockWidth (dFoldN k.desc) block))) s

/-! ## Carrels (R16, R124, Table 1.5) -/

/-- Where the bytes of a run of carrels begin in tile memory. -/
def carrelKey (pod c : Nat) : Nat := tileKey (bitsOf (tileWord pod 0 c) 56 0)

/-- A finished row goes into the carrels of its bag, piece by piece: element i of the row is value i mod 256 of carrel
i / 256 (R124). -/
def putCarrels (pod c : Nat) (r : List F32) (s : State) : State :=
  onMem (fun m => { m with tiles := memStore (carrelKey pod c) (r.flatMap (fun x => leBytes 4 x.toNat)) m.tiles }) s

/-- The finished row of n elements in the carrels of a bag. -/
def carrelRow (s : State) (pod c n : Nat) : List F32 := fuseVec 0 n (memLoad s.mem.tiles (carrelKey pod c) (4 * n))

/-- A group owns Fold tiles of a Pod: no pass starts there (R145). -/
def foldOwned (p : Pod) : Bool := p.groups.any (fun g => g.kind == 1)

/-- p of Table 7.1. -/
def foldCycles (bits : Nat) : Nat := match bits with | 2 => 1 | 3 => 2 | 4 => 2 | _ => 4

end Sys2Proof.Machine
end

