-- ==== Sys2Proof/Machine/OdAccess.lean ====
section
/-! DEFINITION. The checks that a write of an object dictionary entry passes before its value is looked at (15, 18,
R382, R407, R451), shared by every entry with a behaviour of its own. -/

namespace Sys2Proof.Machine

/-- The statuses of Table 15.3. -/
def osOk : Nat := 0
/-- NO_ENTRY. -/
def osNoEntry : Nat := 1
/-- DENIED. -/
def osDenied : Nat := 2
/-- REFUSED. -/
def osRefused : Nat := 3
/-- READ_ONLY. -/
def osReadOnly : Nat := 4
/-- LOCKED. -/
def osLocked : Nat := 5
/-- BUSY. -/
def osBusy : Nat := 6
/-- BAD_MESSAGE. -/
def osBadMessage : Nat := 7
/-- SEQUENCE. -/
def osSequence : Nat := 8

/-- The subsystem that an entry belongs to, by its index (Table 0.1, Tables 18.1 to 18.7). -/
def odSub (key : Nat) : Nat :=
  match key / 65536 with
  | 0x20 => 14 | 0x21 => 15 | 0x30 => 1 | 0x31 => 1 | 0x41 => 2 | 0x42 => 3 | 0x43 => 6 | 0x44 => 8 | 0x45 => 7
  | 0x46 => 9 | 0x47 => 10 | 0x50 => 4 | 0x51 => 5 | 0x60 => 11
  | 0x70 => if key / 256 = 0x7020 then 0 else 12
  | _ => 13

/-- The rank of a role: each may do what the ones before it may (R8). -/
def roleRank : Role → Nat
  | .operator => 0 | .owner => 1 | .service => 2

/-- A role may do what another role is needed for. -/
def roleOk (need role : Role) : Bool := decide (roleRank need ≤ roleRank role)

/-- The status of an object dictionary access. -/
def odAnswer (st : Nat) (s : State) : State := onOut (fun o => { o with status := st }) s

/-- The MSC takes no write: it restarts, or the mode changes (Table 15.3). -/
def mscBusy (s : State) : Bool := s.msc.restarting || s.msc.mode == .entering || s.msc.mode == .exiting

/-- The entries that confidential mode locks whatever is written (R392 to R396, R423). -/
def odLocked (s : State) (key : Nat) : Bool :=
  confidential s &&
  List.contains [odSfpAllowPlain, odMssTags, odMscFwSwitch, odMscFwImage, odCruClkmon] key

/-- The write of an entry of a gated subsystem is held until its clock runs (R407). -/
def holdWrite (key v : Nat) (s : State) : State := onCru (fun c => { c with heldWrites := c.heldWrites ++ [(key, v)] }) s

/-- A write of value v to an entry with a behaviour: the role that it needs, the present mode and a value staged by
another session are checked in the order of R451, then f applies the value, or answers none for REFUSED. While the
entry's subsystem is gated a value that is not refused is held (R407). -/
def odTry (key : Nat) (need role : Role) (v : Nat) (f : State → Option State) (s : State) : State :=
  if !roleOk need role then odAnswer osDenied s
  else if odLocked s key then odAnswer osLocked s
  else if mscBusy s ∨ s.msc.staged.any (fun x => x.key == key) then odAnswer osBusy s
  else
    match f s with
    | none => odAnswer osRefused s
    | some t => odAnswer osOk (if gated s (odSub key) then holdWrite key v s else t)

end Sys2Proof.Machine
end

