-- ==== Sys2Proof/Machine/Stacks.lean ====
section
/-! DEFINITION. Stacks (10): lines, requests, call slips, weeding, partitions, pinned tables and the errors of ways. -/

namespace Sys2Proof.Machine

/-! ## Ways and sets (R259, R261) -/

/-- The set of a line address (R259). -/
def lineSet (a : Nat) : Nat := let l := a / 128; (l % 8192) ^^^ ((l / 8192) % 8192)

/-- The place of a set in a way. -/
def lineKey (way set : Nat) : Nat := way * 8192 + set

/-- Partition k as STK_PART_k holds it. -/
def partVal (s : State) (k : Nat) : Nat := odGet s (odStkPart + k)
/-- WAYS of a partition value, as way numbers. -/
def partWays (v : Nat) : List Nat := (List.range 16).filter (bitOf v)
/-- ENABLE. -/
def partOn (v : Nat) : Bool := bitOf v 16
/-- CLASSES. -/
def partClasses (v : Nat) : Nat := bitsOf v 23 20
/-- KIND: 0 CACHE, 1 SCRATCH, 2 PIN, 3 REPLICA, 4 PRIVILEGED. -/
def partKind (v : Nat) : Nat := bitsOf v 27 24

/-- Ways in ascending order that partitions with a property have, but for the retired ways of a Pod's die (R278). -/
def waysWhere (s : State) (pod : Nat) (f : Nat → Bool) : List Nat :=
  let vs := (List.range 8).map (partVal s)
  (List.range 16).filter (fun w => !bitOf (retiredWays s pod) w && vs.any (fun v => partOn v && bitOf v w && f v))

/-- The ways that a request of a class searches (R261). -/
def searchWays (s : State) (pod cls : Nat) : List Nat :=
  waysWhere s pod (fun v => partKind v == (if cls = 5 then 4 else 0))

/-- The ways that a fill of a class may take (R261). -/
def fillWays (s : State) (pod cls : Nat) : List Nat :=
  waysWhere s pod (fun v => if cls = 5 then partKind v == 4 else partKind v == 0 && bitOf (partClasses v) cls)

/-- Changes the slice of a Pod. -/
def modSlice (pod : Nat) (f : Slice → Slice) (s : State) : State := modPod pod (fun p => { p with slice := f p.slice }) s

/-- The slice of a Pod. -/
def getSlice (s : State) (pod : Nat) : Slice := (getPod s pod).slice

/-- The lowest way of a list that holds a line, with the line (R276). -/
def findLine (s : State) (pod : Nat) (ways : List Nat) (tier a : Nat) : Option (Nat × Line) :=
  ways.findSome? (fun w =>
    match tabFind (lineKey w (lineSet a)) (getSlice s pod).lines with
    | some l => if l.tier = tier ∧ l.addr = a then some (w, l) else none
    | none => none)

/-- The entry of a line in the weeding buffer of a Pod. -/
def weedLine (s : State) (pod tier a : Nat) : Option Line :=
  (getSlice s pod).weed.find? (fun l => l.tier == tier && l.addr == a)

/-- The open slip of a line. -/
def slipFor (s : State) (pod tier a : Nat) : Option Slip :=
  (getSlice s pod).slips.find? (fun c => c.tier == tier && c.addr == a)

/-- The bytes of a line in its tier. -/
def lineBytes (s : State) (tier a : Nat) : List Byte := tierLoad s tier a 128

/-- A hit of a line in a way: it becomes the most recently used, and a prefetched one counts once (R266). -/
def touchLine (pod way : Nat) (l : Line) (s : State) : State :=
  let c := s.stk.clock + 1
  let s := onStk (fun k => { k with clock := c }) s
  let s := modSlice pod (fun x => { x with
    lines := tabPut (lineKey way (lineSet l.addr)) { l with used := c, prefetched := false } x.lines }) s
  odCount odStkPrefetchUsed (bit l.prefetched) (odCount odStkHits 1 s)

/-- The way of a set that a fill takes: an empty one, or the least recently used (R261). -/
def victimWay (s : State) (pod set : Nat) (ways : List Nat) : Option Nat :=
  let lines := (getSlice s pod).lines
  match ways.find? (fun w => (tabFind (lineKey w set) lines).isNone) with
  | some w => some w
  | none =>
    (ways.foldl (fun best w =>
      let u := ((tabFind (lineKey w set) lines).map (·.used)).getD 0
      match best with
      | none => some (w, u)
      | some b => if u < b.2 then some (w, u) else some b) none).map (·.1)

/-- A fill would have to wait for a weeding entry (R267). -/
def weedFull (s : State) (pod cls a : Nat) : Bool :=
  match victimWay s pod (lineSet a) (fillWays s pod cls) with
  | none => false
  | some w => (tabFind (lineKey w (lineSet a)) (getSlice s pod).lines).isSome && decide (512 ≤ (getSlice s pod).weed.length)

/-- The lines with an entry in the directory: those that a slice holds listed in a way, or in its weeding buffer (R263). -/
def dirLines (s : State) : List (Nat × Nat) :=
  (s.pods.flatMap (fun p => (((p.2.slice.lines.map (·.2)) ++ p.2.slice.weed).filter (·.listed)).map (fun l => (l.tier, l.addr)))).eraseDups

/-- A line is invalidated in every slice that the directory lists for it (R263). -/
def backInvalidate (tier a : Nat) (s : State) : State :=
  let keep (l : Line) : Bool := !(l.listed && l.tier == tier && l.addr == a)
  onPods (fun ps => ps.map (fun p => (p.1, { p.2 with slice := { p.2.slice with
    lines := p.2.slice.lines.filter (fun l => keep l.2), weed := p.2.slice.weed.filter keep } }))) s

/-- A fill allocates the line's directory entry before it installs the line: where the 16 entries of the set are taken,
one of them, by a free choice, is replaced, its line invalidated first and the replacement counted (R263). -/
def allocDir (tier a : Nat) (s : State) : State :=
  let es := dirLines s
  if es.length < 16 ∨ es.contains (tier, a) then s
  else
    let set := es.filter (fun e => Config.dirSet e.1 e.2 == Config.dirSet tier a)
    if set.length < 16 then s
    else
      let v := set.getD ((freeNow s).toNat % set.length) (0, 0)
      backInvalidate v.1 v.2 (odCount odStkDirBackinv 1 (drawn s))

/-- The lines of a partition's ways in sets lo to hi − 1 lose their tags in every slice (R275). -/
def clearSets (ways lo hi : Nat) (s : State) : State :=
  onPods (fun ps => ps.map (fun p => (p.1, { p.2 with slice := { p.2.slice with
    lines := p.2.slice.lines.filter (fun l => !(bitOf ways (l.1 / 8192) && decide (lo ≤ l.1 % 8192) && decide (l.1 % 8192 < hi))) } }))) s

/-- A sweep that runs has come further by the time of a request, by a free number of sets (R275). -/
def sweepOn (k : Nat) (s : State) : State :=
  match tabFind k s.stk.sweeps with
  | none => s
  | some p =>
    let q := p + (freeNow s).toNat % (8193 - p)
    clearSets (partVal s k % 65536) p q (onStk (fun x => { x with sweeps := tabPut k q x.sweeps }) (drawn s))

/-- Every sweep that runs has come further. -/
def sweepAll (s : State) : State := if s.stk.sweeps.isEmpty then s else forEach sweepOn (List.range 8) s

/-- Installs a line once its directory entry is allocated: its victim is held in the weeding buffer, and an old copy held
there is dropped (R263, R267, R268). A class without a way installs nothing (R261). -/
def installLine (pod cls tier a : Nat) (data : List Byte) (prefetched : Bool) (s : State) : State :=
  let set := lineSet a
  match victimWay s pod set (fillWays s pod cls) with
  | none => s
  | some w =>
    let s := allocDir tier a s
    let c := s.stk.clock + 1
    let s := onStk (fun k => { k with clock := c }) s
    modSlice pod (fun x =>
      let old := tabFind (lineKey w set) x.lines
      let held := x.weed.filter (fun l => !(l.tier == tier && l.addr == a))
      { x with
        lines := tabPut (lineKey w set) { tier := tier, addr := a, data := data, prefetched := prefetched, used := c } x.lines
        weed := match old with | none => held | some l => held ++ [l] }) s

/-! ## Errors of ways (R273, R278) -/

/-- Drops the lines of ways that a test selects, in every slice or one. -/
def dropWays (f : Nat → Bool) (x : Slice) : Slice := { x with lines := x.lines.filter (fun l => !f (l.1 / 8192)) }

/-- The lines per slice that a pinned row or the whole extent of n rows at a pitch occupies (R271). -/
def extentLines (n pitch : Nat) : Nat := cdiv (cdiv n 16 * pitch) 128

/-- P of R271. -/
def pinPitch (size : Nat) : Nat := if size ≤ 32 then 32 else if size ≤ 64 then 64 else roundUp size 128

/-- The ways of the PIN partition that a Pod can use. -/
def pinWays (s : State) (pod : Nat) : List Nat := waysWhere s pod (fun v => partKind v == 2)

/-- The way in which the row at a position of a pinned copy lies (R271), given the usable PIN ways. -/
def pinRowWays (ways : List Nat) (first pitch pos : Nat) : List Nat :=
  let b := 128 * first + pos / 16 * pitch
  ((List.range 16).filter (fun i => overlaps b pitch (i * 2 ^ 20) (2 ^ 20))).filterMap (fun i => ways[i]?)

/-- The pinned positions of a Pod's slice that lie in a way are lost to the home tier (R273). -/
def pinLoseWay (pod way : Nat) (s : State) : State :=
  let ways := pinWays s pod
  onStk (fun k => { k with pinned := k.pinned.map (fun c =>
    let pitch := pinPitch (rowS (descAt s c.idx))
    { c with rows := c.rows.filter (fun r =>
      !(standIn s (r.1 % 16) == pod && (pinRowWays ways c.first pitch r.1).contains way)) }) }) s

/-- The REPLICA ways of a Pod. -/
def replicaWays (s : State) (pod : Nat) : List Nat := waysWhere s pod (fun v => partKind v == 3)

/-- The replicas that have no line in a way: replicas fill the ways in the order in which they were placed. -/
def replicasOutside (ways : List Nat) (way : Nat) : Nat → List Replica → List Replica
  | _, [] => []
  | first, r :: rs =>
    let n := replicaLines r.data r.side
    let hit := (List.range 16).any (fun i => ways[i]? == some way && overlaps first n (i * 8192) 8192)
    if hit then replicasOutside ways way (first + n) rs else r :: replicasOutside ways way (first + n) rs

/-- A replica with a line in a way of a Pod is dropped in every slice (R273). -/
def replicaLoseWay (pod way : Nat) (s : State) : State :=
  let s := onCat (fun c => { c with replicas := replicasOutside (replicaWays s pod) way 0 c.replicas }) s
  odSet odCatReplicas s.cat.replicas.length s

/-- The enabled partition that a way belongs to, or 0. -/
def wayPart (s : State) (way : Nat) : Nat :=
  ((List.range 8).find? (fun k => partOn (partVal s k) && bitOf (partVal s k) way)).getD 0

/-- A way of a Pod's die retires: its lines and pinned rows go, STK_RETIRED and STK_WAY_RETIRED say so, and a Pod with
too many retired ways retires (R278, R439). -/
def retireWay (pod way first : Nat) (s : State) : State :=
  let d := dieOf s pod
  let part := wayPart s way
  let s := replicaLoseWay pod way (pinLoseWay pod way s)
  let s := modSlice pod (dropWays (· == way)) s
  let m := setBit (retiredWays s pod) way true
  let s := onStk (fun k => { k with retired := tabPut d m k.retired }) s
  let s := odSet odStkRetired (setBit (odGet s odStkRetired) (16 * d + way) true) s
  let s := post0 evStkWayRetired pod (way + d <<< 8 + part <<< 16 + (first % 2 ^ 48) <<< 64) s
  if odGet s odMscPodWayLimit ≤ popCount 16 m then retirePod pod (podResetCore pod 1 none s) else s

/-- A detected error of a way counts, and the third within 1,000 folios of the first retires the way (R278). -/
def wayError (pod way : Nat) (s : State) : State :=
  let now := folio s
  let fs := (tabGet way [] (getSlice s pod).errs).filter (fun f => decide (now < f + 1000)) ++ [now]
  let s := odCount odStkErrors 1 (modSlice pod (fun x => { x with errs := tabPut way fs x.errs }) s)
  if 3 ≤ fs.length then retireWay pod way (fs.headD now) s else s

/-! ## Requests (R264, R268) -/

/-- What a request for a line gets: its bytes, a slip to wait for, or a wait for a slip. -/
inductive LineAns where
  | data (bs : List Byte)
  | slip (n : Nat)
  | wait
  deriving DecidableEq, Repr

/-- Opens a slip. -/
def openSlip (pod cls tier a : Nat) (prefetch : Bool) (reads : List Nat) (s : State) : Nat × State :=
  let n := (getSlice s pod).nextSlip
  (n, modSlice pod (fun x => { x with
    nextSlip := n + 1,
    slips := x.slips ++ [{ n := n, tier := tier, addr := a, cls := cls, prefetch := prefetch, before := reads }] }) s)

/-- The read queue of the channel of an address holds 768 atoms, or all but one (R286). -/
def chanFull (s : State) (tier a : Nat) : Bool := tier == 0 && decide (768 < readsAt s (chanOf s a) + 2)

/-- A primary miss of a shard with PREFETCH opens a prefetch slip for the next line under the conditions of R266. -/
def openPrefetch (pod tier a : Nat) (s : State) : State :=
  let b := a + 128
  if !chanFull s tier b && (findLine s pod (List.range 16) tier b).isNone && (weedLine s pod tier b).isNone && (slipFor s pod tier b).isNone &&
      a / 4096 == b / 4096 && decide ((getSlice s pod).slips.length + 256 ≤ 1024) then
    (openSlip pod 0 tier b true [] s).2
  else s

/-- A slip has room for one more secondary: 64, and the primary of a slip that no prefetch opened (R264). -/
def slipRoom (c : Slip) : Bool := decide (c.before.length + c.after.length < (if c.prefetch then 64 else 65))

/-- A request joins a slip, before or after the mark of a write (R264, R265). -/
def joinSlip (pod n rid : Nat) (s : State) : State :=
  odCount odStkMerged 1 (modSlice pod (fun x => { x with slips := x.slips.map (fun c =>
    if c.n = n then (if c.stale then { c with after := c.after ++ [rid] } else { c with before := c.before ++ [rid] })
    else c) }) s)

/-- A request of a class that finds its line in no way (R268, items 2 to 4). -/
def askMiss (pod cls tier a rid : Nat) (prefetch : Bool) (s : State) : State × LineAns :=
  match weedLine s pod tier a with
  | some l => (odCount odStkWeedHits 1 s, .data l.data)
  | none =>
    match slipFor s pod tier a with
    | some c => if slipRoom c then (joinSlip pod c.n rid s, .slip c.n) else (s, .wait)
    | none =>
      if 1024 ≤ (getSlice s pod).slips.length then (odCount odStkSlipWaits 1 s, .wait)
      else if chanFull s tier a then (s, .wait)
      else
        let x := openSlip pod cls tier a false [rid] (odCount odStkMisses 1 s)
        (if prefetch then openPrefetch pod tier a x.2 else x.2, .slip x.1)

/-- A request of read rid for one line. err is what a hit meets in its way (R278): 1 is corrected; 2 invalidates the
line, and the read fetches it from memory. -/
def askLine (pod cls tier a rid err : Nat) (prefetch : Bool) (s : State) : State × LineAns :=
  let s := sweepAll s
  match findLine s pod (searchWays s pod cls) tier a with
  | some (w, l) =>
    if err = 2 then
      let s := modSlice pod (fun x => { x with lines := tabDrop (lineKey w (lineSet a)) x.lines }) s
      askMiss pod cls tier a rid prefetch (wayError pod w s)
    else
      let s := touchLine pod w l s
      (if err = 1 then wayError pod w s else s, .data l.data)
  | none => askMiss pod cls tier a rid prefetch s

/-- The Pod whose slice serves the classes HOST and PRIVILEGED for a line (Table 10.1, R440). -/
def hubSlice (s : State) (a : Nat) : Nat := standIn s (a / 128 % 16)

/-! ## Fills (R264 to R267) -/

/-- A read gets the bytes of a line that it waits for. -/
def feedRead (n a : Nat) (bs : List Byte) (r : ReadRec) : ReadRec :=
  if r.need.contains n then { r with need := r.need.filter (· != n), got := r.got ++ [(a, bs)] } else r

/-- Serves the reads of a list that wait for slip n. -/
def serveReads (pod n a : Nat) (ids : List Nat) (bs : List Byte) (s : State) : State :=
  modPod pod (fun p => { p with reads := p.reads.map (fun r => if ids.contains r.id then feedRead n a bs r else r) }) s

/-- A slip closes; a channel of GDDR7 whose last read this was goes on with its writes (R286). -/
def closeSlip (pod n : Nat) (s : State) : State :=
  serveWrites (modSlice pod (fun x => { x with slips := x.slips.filter (fun c => c.n != n) }) s)

/-- The reads that joined a stale slip after its mark are reissued as one new miss with its secondaries (R265). -/
def reissue (pod : Nat) (c : Slip) (s : State) : State :=
  if c.after.isEmpty then s
  else
    let x := openSlip pod c.cls c.tier c.addr false c.after (odCount odStkMisses 1 s)
    odCount odStkStaleReissues c.after.length (modPod pod (fun p => { p with reads := p.reads.map (fun r =>
      if c.after.contains r.id then { r with need := r.need.map (fun m => if m = c.n then x.1 else m) } else r) }) x.2)

/-- GDDR7 holds back accesses at an address: its channel retrains, an overwrite runs, or the devices are in self-refresh
(R290, R300). -/
def gddrHeld (s : State) (a : Nat) : Bool :=
  s.mss.overwriting || s.mss.selfRefresh || (s.mss.retraining.any (fun r => r.1 == chanOf s a))

/-- Changes a read. -/
def modRead (pod id : Nat) (f : ReadRec → ReadRec) (s : State) : State :=
  modPod pod (fun p => { p with reads := p.reads.map (fun r => if r.id = id then f r else r) }) s

/-- A slice is asked for a line of a read: its bytes come at once, or by a slip, or the read holds the line until a slip
closes (R100, R264). -/
def askFor (pod : Nat) (r : ReadRec) (err la : Nat) (s : State) : State :=
  let x := askLine pod 0 (if r.space = 1 then 0 else 1) la r.id err r.ahead s
  match x.2 with
  | .wait => modRead pod r.id (fun r => { r with hold := r.hold ++ [la] }) x.1
  | .data bs => modRead pod r.id (fun r => { r with got := r.got ++ [(la, bs)] }) x.1
  | .slip n => modRead pod r.id (fun r => { r with need := r.need ++ [n] }) x.1

/-- The lines that reads of a Pod hold are asked for again, as a slip has closed (R100, R264). -/
def retryHeld (pod : Nat) (s : State) : State :=
  forEach (fun r s => forEach (fun la s => askFor pod r 0 la s) r.hold
    (modRead pod r.id (fun r => { r with hold := [] }) s)) ((getPod s pod).reads.filter (fun r => !r.hold.isEmpty)) s

/-- The fill of a slip arrives. A stale slip serves the earlier reads from the line as it was and installs nothing;
another slip installs the line. Reads that found the slip full are then served from the line. -/
def fillSlip (pod : Nat) (c : Slip) (s : State) : State :=
  let s := if c.tier = 1 then hptRead (engineAsid s) c.addr 128 s else onMss (fun m => { m with atomsRead := m.atomsRead + 2 }) s
  if c.stale then
    retryHeld pod (reissue pod c (closeSlip pod c.n (serveReads pod c.n c.addr c.before c.old s)))
  else
    let bs := lineBytes s c.tier c.addr
    let s := installLine pod c.cls c.tier c.addr bs c.prefetch (sweepAll s)
    let s := odCount odStkPrefetches (bit c.prefetch) s
    retryHeld pod (closeSlip pod c.n (serveReads pod c.n c.addr c.before bs s))

/-- CALL_SLIP_FILL: the fill of a slip arrives, once a weeding entry is free where it needs one. Reads of every Pod that the
full read queue of a channel held back are asked for again (R286). -/
def doCallSlipFill (pod slip : Nat) (s : State) : State :=
  match (getSlice s pod).slips.find? (fun c => c.n == slip) with
  | none => s
  | some c =>
    if (c.tier = 1 ∧ hostHeld s) ∨ (c.tier = 0 ∧ gddrHeld s c.addr) ∨ gated s 4 then s
    else if !c.stale ∧ weedFull s pod c.cls c.addr then odCount odStkWeedWaits 1 s
    else
      let s := fillSlip pod c s
      if c.tier = 0 then forEach retryHeld (podNums.filter (· != pod)) s else s

/-- CALL_SLIP_FILL (R264). -/
def execCallSlipFill (pod slip : Nat) (s : State) : Host.Outcome State Fault Refusal := .next (doCallSlipFill pod slip s)

/-- The oldest eviction notice of a slice is acknowledged (R267). -/
def ackWeed (pod : Nat) (s : State) : State := modSlice pod (fun x => { x with weed := x.weed.tail }) s

/-! ## Reads of one step: the classes UPDATE, WEIGHTS, HOST and PRIVILEGED (Table 10.1)

A read of these classes is part of one command, so what it waits for comes within that command: the fill of its slip, the
slip of another request that it joins or needs closed, and an acknowledgement for a weeding entry (log 50). -/

/-- The fill of a slip arrives within a command. -/
def fillNow (pod : Nat) (c : Slip) (s : State) : State :=
  if !c.stale ∧ weedFull s pod c.cls c.addr then fillSlip pod c (ackWeed pod (odCount odStkWeedWaits 1 s)) else fillSlip pod c s

/-- A request of one step that needs a slip: it opens one whose fill arrives, after the oldest one's where all 1,024 are
open. -/
def missNow (pod cls tier a : Nat) (s : State) : State :=
  let s := match (getSlice s pod).slips with
    | c :: _ => if 1024 ≤ (getSlice s pod).slips.length then fillNow pod c (odCount odStkSlipWaits 1 s) else s
    | [] => s
  let x := openSlip pod cls tier a false [] (odCount odStkMisses 1 s)
  match (getSlice x.2 pod).slips.find? (fun c => c.n == x.1) with
  | none => x.2
  | some c => fillNow pod c x.2

/-- A read of one step that a class makes of one line, in the order of R268. -/
def readLine (pod cls tier a : Nat) (s : State) : List Byte × State :=
  let s := sweepAll s
  match findLine s pod (searchWays s pod cls) tier a with
  | some (w, l) => (l.data, touchLine pod w l s)
  | none =>
    match weedLine s pod tier a with
    | some l => (l.data, odCount odStkWeedHits 1 s)
    | none =>
      (lineBytes s tier a, match slipFor s pod tier a with
        | some c => fillNow pod c (odCount odStkMerged (bit (slipRoom c)) s)
        | none => missNow pod cls tier a s)

/-- A read of n bytes through a slice by a class. -/
def stkRead (pod cls tier a n : Nat) (s : State) : List Byte × State :=
  let x := (linesOf a n).foldl (fun (y : List Byte × State) la =>
    let z := readLine pod cls tier la y.2
    (y.1 ++ z.1, z.2)) (([] : List Byte), s)
  ((x.1.drop (a % 128)).take n, x.2)

/-- WEED_ACK (R267): the oldest eviction notice of a slice is acknowledged. -/
def execWeedAck (pod : Nat) (s : State) : Host.Outcome State Fault Refusal :=
  .next (whenS (!(getSlice s pod).weed.isEmpty) (ackWeed pod) s)

/-! ## Pinned tables (R270, R271) -/

/-- STK_PIN_k as its write fields. -/
def pinVal (s : State) (k : Nat) : Nat := odGet s (odStkPin + k)
/-- TABLE_ID of a pin entry. -/
def pinTable (v : Nat) : Nat := v % 65536
/-- ENABLE of a pin entry. -/
def pinOn (v : Nat) : Bool := bitOf v 16

/-- The shards of a pin entry's table that the engine pins: ONLINE and homed here. -/
def pinShards (s : State) (k : Nat) : List Nat :=
  let t := pinTable (pinVal s k)
  (tableShards s t (dirAt s t)).filter (fun i => sdHome (descAt s i) == s.sfp.engineId && sdState (descAt s i) == 1)

/-- A shard's pinned copy is complete: it holds every position. -/
def pinComplete (s : State) (idx : Nat) : Bool :=
  (pinnedCopy s idx).any (fun c => c.rows.length == shardRows (dirAt s (sdTable (descAt s idx))) (sdShard (descAt s idx)))

/-- The entry becomes SHORT: STK_PIN_SHORT is raised once. -/
def pinShort (k idx lines : Nat) (s : State) : State :=
  if s.stk.short.contains k then s
  else
    post0 evStkPinShort (pinTable (pinVal s k)) (idx % 2 ^ 20 + (lines % 2 ^ 32) <<< 20)
      (onStk (fun x => { x with short := x.short ++ [k] }) s)

/-- The lines per slice that a shard needs. -/
def shardPinLines (s : State) (idx : Nat) : Nat :=
  let x := descAt s idx
  extentLines (shardRows (dirAt s (sdTable x)) (sdShard x)) (pinPitch (rowS x))

/-- The lines of PIN ways in the smallest active slice. -/
def pinRoom (s : State) : Nat :=
  match (activePods s).map (fun p => 8192 * (pinWays s p).length) with
  | [] => 0
  | r :: rs => rs.foldl min r

/-- The logical Pods whose share of a pinned copy lies in a Pod's slice: its own, and those that it stands in for (R440). -/
def pinShares (s : State) (pod : Nat) : Nat := (podNums.filter (fun l => standIn s l == pod)).length

/-- Every active slice has PIN ways for its shares of n lines each (R273). -/
def pinSharesFit (s : State) (n : Nat) : Bool :=
  (activePods s).all (fun p => decide (n * pinShares s p ≤ 8192 * (pinWays s p).length))

/-- The first place of n lines among extents, within room lines (R271). -/
def firstFit (room n : Nat) (exts : List (Nat × Nat)) : Option Nat :=
  let free (a : Nat) : Bool := decide (a + n ≤ room) && !exts.any (fun e => overlaps a n e.1 e.2)
  (((0 :: exts.map (fun e => e.1 + e.2)).filter free).foldl (fun m a =>
    match m with | none => some a | some b => some (min a b)) none)

/-- The rows of a shard by position, as its pinned copy holds them. -/
def pinRows (s : State) (idx : Nat) : List (Nat × Option (List Byte)) :=
  let x := descAt s idx
  (List.range (shardRows (dirAt s (sdTable x)) (sdShard x))).map (fun p =>
    (p, (rowPlace s x p).map (fun c => tierLoad s c.1 c.2 (rowS x))))

/-- Where the rows of a shard lie, by position. -/
def pinHomes (s : State) (idx : Nat) : List (Nat × (Nat × Nat)) :=
  let x := descAt s idx
  (List.range (shardRows (dirAt s (sdTable x)) (sdShard x))).filterMap (fun p => (rowPlace s x p).map (fun c => (p, c)))

/-- A row of a shard cannot be read: its load waits. -/
def pinBlocked (s : State) (idx : Nat) : Bool :=
  let x := descAt s idx
  (sdTier x == 1 && hostHeld s) ||
  (List.range (shardRows (dirAt s (sdTable x)) (sdShard x))).any (fun p =>
    match rowPlace s x p with
    | none => false
    | some c => (tierFlt s c.1 c.2 (rowS x)).isSome || (c.1 == 1 && hostHeld s))

/-- The pinned copies of other shards. -/
def pinOthers (s : State) (idx : Nat) : List Pinned := s.stk.pinned.filter (fun c => c.idx != idx)

/-- Where a shard's extent of n lines begins: where it lies, or the first place that fits; none where its lines do not fit
in every slice. -/
def pinFirst (s : State) (idx n : Nat) : Option Nat :=
  if pinSharesFit s (sumOf (·.lines) (pinOthers s idx) + n) then
    match pinnedCopy s idx with
    | some c => some c.first
    | none => firstFit (pinRoom s) n ((pinOthers s idx).map (fun c => (c.first, c.lines)))
  else none

/-- PIN_SHARD_LOAD: the shard's rows are read into an extent placed first-fit, or the entry is SHORT. A copy that has lost
positions keeps its extent, and those that it still holds are read while the others find no room (R273). -/
def doPinShardLoad (k idx : Nat) (s : State) : State :=
  if k < 16 ∧ pinOn (pinVal s k) ∧ (pinShards s k).contains idx ∧ !pinComplete s idx ∧ !gated s 4 then
    if pinBlocked s idx then s
    else
      let n := shardPinLines s idx
      match pinFirst s idx n with
      | none => pinShort k idx n s
      | some a =>
        let host := (pinHomes s idx).filter (fun h => h.2.1 == 1)
        let p : Pinned := { k := k, idx := idx, first := a, lines := n, rows := pinRows s idx, homes := pinHomes s idx }
        onStk (fun x => { x with pinned := pinOthers s idx ++ [p] }) (forEach (fun h s => hptRead (engineAsid s) h.2.2 (rowS (descAt s idx)) s) host s)
  else s

/-- PIN_SHARD_LOAD (R270). -/
def execPinShardLoad (k idx : Nat) (s : State) : Host.Outcome State Fault Refusal := .next (doPinShardLoad k idx s)

/-- A PIN partition is enabled. -/
def pinPartOn (s : State) : Bool := (List.range 8).any (fun k => partOn (partVal s k) && partKind (partVal s k) == 2)

/-- STATE of a pin entry (Table 10.5). -/
def pinState (s : State) (k : Nat) : Nat :=
  if !pinOn (pinVal s k) then 0
  else if s.stk.short.contains k || !pinPartOn s then 3
  else if (pinShards s k).all (pinComplete s) then 2 else 1

/-- STK_PIN_k as it reads: LINES and STATE with the fields written. -/
def pinRead (s : State) (k : Nat) : Nat :=
  let lines := ((s.stk.pinned.filter (fun c => c.k == k)).map (fun c => c.lines)).foldl (· + ·) 0
  pinVal s k + (pinState s k) <<< 32 + ((16 * lines) % 2 ^ 32) <<< 96

/-- Without a PIN partition every enabled entry is SHORT (R270). -/
def pinShortAll (s : State) : State :=
  forEach (fun k s => if pinOn (pinVal s k) then
    let i := (pinShards s k).headD (deFirst (dirAt s (pinTable (pinVal s k))))
    pinShort k i (shardPinLines s i) s else s) (List.range 16) s

/-- The value of a STK_PIN_k write, or none where it is refused. -/
def pinWrite (k v : Nat) (s : State) : Option State :=
  let old := pinVal s k
  let clash := pinOn v && (List.range 16).any (fun j => j != k && pinOn (pinVal s j) && pinTable (pinVal s j) == pinTable v)
  if 16 ≤ k ∨ 2 ^ 128 ≤ v ∨ bitsOf v 31 17 ≠ 0 ∨ bitsOf v 95 34 ≠ 0 ∨ (pinOn old ∧ pinTable v ≠ pinTable old) ∨ clash then none
  else
    let s := odSet (odStkPin + k) (v % 2 ^ 17) s
    some (if pinOn v then (if pinOn old || pinPartOn s then s else pinShortAll s)
      else onStk (fun x => { x with pinned := x.pinned.filter (fun c => c.k != k), short := x.short.filter (· != k) }) s)

/-- STK_PIN_WRITE (R270). -/
def execStkPinWrite (k v : Nat) (role : Role) (s : State) : Host.Outcome State Fault Refusal :=
  .next (odTry (odStkPin + k) .operator role v (pinWrite k v) s)

/-! ## Partitions (R260, R274 to R277) -/

/-- The bits of STK_PART_k that a write sets. -/
def partFields (v : Nat) : Nat := bitsOf v 16 0 + (bitsOf v 27 20) <<< 20

/-- A write of STK_PART_k is refused (R260, R277). -/
def partRefused (s : State) (k v : Nat) : Bool :=
  let old := partVal s k
  let others := ((List.range 8).filter (· != k)).map (partVal s) |>.filter partOn
  decide (8 ≤ k) || decide (2 ^ 64 ≤ v) || bitsOf v 63 34 != 0 || bitsOf v 31 28 != 0 || bitsOf v 19 18 != 0 ||
  (partOn old && (partWays v != partWays old || partKind v != partKind old || partClasses v != partClasses old)) ||
  decide (4 < partKind v) || (partKind v != 0 && partClasses v != 0) ||
  (partOn v && !partOn old &&
    (others.any (fun o => (partWays v).any (fun w => bitOf o w)) ||
     (partKind v != 0 && others.any (fun o => partKind o == partKind v)) ||
     (partKind v == 4 && !bitOf old 33)))

/-- The role that a write of STK_PART_k needs (R260). -/
def partRole (s : State) (k v : Nat) : Role :=
  let old := partVal s k
  let priv := partKind old == 4 || partKind v == 4
  if priv && (partOn old != partOn v || partKind old != partKind v) then .service else .owner

/-- Changes every slice. -/
def modSlices (f : Slice → Slice) (s : State) : State := onPods (fun ps => ps.map (fun p => (p.1, { p.2 with slice := f p.2.slice }))) s

/-- Every replica held is dropped (R272). -/
def dropReplicas (s : State) : State := odSet odCatReplicas 0 (onCat (fun c => { c with replicas := [] }) s)

/-- What disabling partition k does (R274). -/
def partDisable (k : Nat) (s : State) : State :=
  let v := partVal s k
  let s := onStk (fun x => { x with lastWays := tabPut k (v % 65536) x.lastWays }) s
  let s := odSet (odStkPart + k) (setBit v 33 false) s
  if partKind v = 0 ∨ partKind v = 4 then
    modSlices (fun x => { x with lines := x.lines.map (fun l =>
      if bitOf v (l.1 / 8192) then (l.1, { l.2 with listed := false }) else l) }) s
  else if partKind v = 2 then pinShortAll (onStk (fun x => { x with pinned := [] }) s)
  else if partKind v = 3 then dropReplicas s
  else s

/-- The ways that a partition had when it was last disabled (Table 10.3 before that). -/
def partLastWays (s : State) (k : Nat) : Nat :=
  tabGet k (bitsOf (((odFind (odStkPart + k)).map (·.dflt)).getD 0) 15 0) s.stk.lastWays

/-- What enabling partition k does: ways new to it are invalidated (R276), and a PIN partition places the shards of
every enabled entry again (R270). -/
def partEnable (k : Nat) (s : State) : State :=
  let v := partVal s k
  let last := partLastWays s k
  let s := modSlices (dropWays (fun w => bitOf v w && !bitOf last w)) s
  if partKind v = 2 then onStk (fun x => { x with short := [] }) s else s

/-- An invalidate of partition k starts, or starts again, from set 0 (R275). -/
def startInvalidate (k : Nat) (s : State) : State :=
  let v := partVal s k
  odSet (odStkPart + k) (setBit v 32 true) (onStk (fun x => { x with sweeps := tabPut k 0 x.sweeps }) s)

/-- A write of STK_PART_k applied. -/
def partWrite (k v : Nat) (s : State) : Option State :=
  if partRefused s k v then none
  else
    let old := partVal s k
    let s := if partOn old && !partOn v then partDisable k s else s
    let s := odSet (odStkPart + k) (partFields v + (bitsOf (partVal s k) 33 32) <<< 32) s
    let s := if partOn v && !partOn old then partEnable k s else s
    some (if bitOf v 17 then startInvalidate k s else s)

/-- STK_PART_WRITE (R260). -/
def execStkPartWrite (k v : Nat) (role : Role) (s : State) : Host.Outcome State Fault Refusal :=
  .next (odTry (odStkPart + k) (partRole s k v) role v (partWrite k v) s)

/-- INVALIDATE (R275): STK_PART_k is written as it stands with INVALIDATE = 1. -/
def execInvalidate (k : Nat) (role : Role) (s : State) : Host.Outcome State Fault Refusal :=
  let v := partFields (partVal s k) + 2 ^ 17
  .next (odTry (odStkPart + k) .owner role v (partWrite k v) s)

/-- The sweep of partition k ends: the sets that it had still to reach are cleared, INV_BUSY clears and INV_DONE is set. -/
def endSweep (k : Nat) (s : State) : State :=
  match tabFind k s.stk.sweeps with
  | none => s
  | some p =>
    odSet (odStkPart + k) (setBits (partVal s k) 33 32 2)
      (onStk (fun x => { x with sweeps := tabDrop k x.sweeps }) (clearSets (partVal s k % 65536) p 8192 s))

/-- INVALIDATE_DONE (R275): the sweep of partition k has cleared its 8,192 sets. -/
def execInvalidateDone (k : Nat) (s : State) : Host.Outcome State Fault Refusal := .next (endSweep k s)

end Sys2Proof.Machine
end

