-- ==== Sys2Proof/Machine/Memory.lean ====
section
/-! DEFINITION. The Memory Subsystem (11): temperatures and throttling, retrains, channels that go down, errors of
atoms, the scrub and the overwrite. -/

namespace Sys2Proof.Machine

/-! ## Capacity (Table 11.3) -/

/-- Usable bytes of a number of channels of a density in Gb, with or without tags. -/
def usableBytes (n density : Nat) (tags : Bool) : Nat :=
  let b := n * (density / 8) * 2 ^ 30
  if tags then b * 7 / 8 else b

/-! ## Channels that go down or retire (R292, R436, R439) -/

/-- A channel's bit in MSS_CHAN_MAP is cleared for the next engine reset; a second one is beyond the engine, at package
level with cause 16 (Table 17.5). -/
def retireChan (ch : Nat) (pending : Bool) (s : State) : State :=
  let m := odGet s odMssChanMap
  if !bitOf m ch then s
  else if m % 2 ^ 24 ≠ 2 ^ 24 - 1 then
    raiseErr { cause := 16, level := 5, ev := evMssChanDown, source := ch } s
  else
    post0 evMscRetired 1 (ch + (bit pending) <<< 8) (odSet odMssChanMap (setBit m ch false) s)

/-- Channel ch goes down: MSS_CHAN_DOWN is raised and the engine is contained with cause 13; with MSC_AUTO_CHAN_RETIRE
its bit is cleared (R436). -/
def chanDown (ch cause : Nat) (s : State) : State :=
  let s := modChan ch (fun c => { c with down := true }) s
  let s := onMss (fun m => { m with retrainQ := m.retrainQ.filter (fun r => r.1 != ch), writeq := tabDrop ch m.writeq }) s
  let s := post0 evMssChanDown ch cause s
  let second := decide (1 ≤ ((List.range 24).filter (fun c => c != ch && (!bitOf s.mss.chanMap c || (getChan s c).down))).length)
  if second then raiseErr { cause := 16, level := 5, ev := evMssChanDown, source := ch, detail := cause } s
  else
    let s := if odGet s odMscAutoChanRetire = 1 then retireChan ch false s else s
    raiseErr { cause := 13, level := 4, ev := evMssChanDown, source := ch, detail := cause } s

/-- Folios of a count that MSC_RETIRE_WINDOW still covers, with the present one. -/
def inWindow (s : State) (fs : List Nat) : List Nat :=
  fs.filter (fun f => decide (folio s < f + odGet s odMscRetireWindow)) ++ [folio s]

/-! ## Temperatures (R287 to R289) -/

/-- The throttle level that a reading gives a channel at a level: it leaves one 3 °C below its threshold (R288). -/
def throttleLevel (s : State) (cur : Nat) (r : Int) : Nat :=
  let t1 : Int := odGet s odMssThrottleT1
  let t2 : Int := odGet s odMssThrottleT2
  if t2 < r ∨ (cur = 2 ∧ t2 - 3 < r) then 2
  else if t1 < r ∨ (1 ≤ cur ∧ t1 - 3 < r) then 1 else 0

/-- Byte ch of MSS_TEMP. -/
def setTemp (ch v : Nat) (s : State) : State :=
  odSet odMssTemp (setBits (odGet s odMssTemp) (8 * ch + 7) (8 * ch) v) s

/-- A retrain of a channel is requested (R290): causes 1 and 2 at most once per 10 folios, and no channel that is down or
mapped out. -/
def requestRetrain (ch cause : Nat) (s : State) : State :=
  let c := getChan s ch
  let spaced := 2 < cause || (match c.lastRetrain with | none => true | some f => decide (f + 10 ≤ folio s))
  if c.down || !bitOf s.mss.chanMap ch || !spaced || s.mss.retrainQ.any (fun r => r.1 == ch) ||
      s.mss.retraining.any (fun r => r.1 == ch) then s
  else onMss (fun m => { m with retrainQ := m.retrainQ ++ [(ch, cause)] }) s

/-- TEMP_READ: a valid reading in °C, or none. -/
def doTempRead (ch : Nat) (reading : Option Int) (s : State) : State :=
  if 24 ≤ ch ∨ s.mss.selfRefresh ∨ gated s 5 then s
  else
    match reading with
    | none =>
      let n := (getChan s ch).bad + 1
      let s := setTemp ch 0x80 (modChan ch (fun c => { c with bad := n }) s)
      if n = 3 then
        post0 evMssTempLost ch 0 (modChan ch (fun c => { c with level := 2, hotRefresh := true }) s)
      else s
    | some r =>
      if r < -127 ∨ 127 < r then s
      else
        let c := getChan s ch
        let base := c.trainTemp.getD r
        let s := setTemp ch (ofSigned 8 r) s
        let lvl := throttleLevel s c.level r
        let s := modChan ch (fun c => { c with
          bad := 0, hotRefresh := decide (85 < r), level := lvl, trainTemp := some base }) s
        if 10 ≤ (r - base).natAbs then requestRetrain ch 2 s else s

/-- TEMP_READ (R288). -/
def execTempRead (ch : Nat) (reading : Option Int) (s : State) : Host.Outcome State Fault Refusal :=
  .next (doTempRead ch reading s)

/-- Throttle levels take effect at a window boundary and raise MSS_THROTTLE (R288). -/
def applyThrottle (s : State) : State :=
  forEach (fun ch s =>
    let lvl := (getChan s ch).level
    let v := odGet s odMssThrottleState
    if bitsOf v (8 * ch + 7) (8 * ch) = lvl then s
    else post0 evMssThrottle ch (lvl + (odByte s odMssTemp ch) <<< 8)
      (odSet odMssThrottleState (setBits v (8 * ch + 7) (8 * ch) lvl) s)) (List.range 24) s

/-! ## Retrains (R290) -/

/-- n CRC retries of a channel are counted, and reach MSS_CRC_RETRAIN in this folio or not (R290, R291). -/
def crcRetries (ch n : Nat) (s : State) : State :=
  let s := odCount odMssCrcRetries n (modChan ch (fun c => { c with crc := c.crc + n }) s)
  let lim := odGet s odMssCrcRetrain
  if 0 < lim ∧ lim ≤ (getChan s ch).crc then requestRetrain ch 1 s else s

/-- MSS_RETRAIN: an Owner asks for a retrain of a channel. -/
def retrainWrite (ch : Nat) (s : State) : Option State := if ch < 24 then some (requestRetrain ch 3 s) else none

/-- MSS_RETRAIN (R290). -/
def execMssRetrain (ch : Nat) (role : Role) (s : State) : Host.Outcome State Fault Refusal :=
  .next (odTry odMssRetrain .owner role ch (retrainWrite ch) s)

/-- A retrain ends with success: MSS_RETRAIN is raised, and a cause-1 retrain counts toward MSC_CHAN_RETRAIN_LIMIT
(R439). -/
def retrainDone (ch cause hold : Nat) (s : State) : State :=
  let temp := odByte s odMssTemp ch
  let now := folio s
  let s := serveWrites (onMss (fun m => { m with retraining := none }) s)
  let s := modChan ch (fun c => { c with
    trainTemp := if temp = 0x80 then none else some (toSigned 8 temp),
    lastRetrain := if cause ≤ 2 then some now else c.lastRetrain, crc := 0 }) s
  let s := post0 evMssRetrain ch (cause + (hold % 65536) <<< 16) (odCount odMssRetrains 1 s)
  if cause = 1 then
    let fs := inWindow s (getChan s ch).retrains
    let s := modChan ch (fun c => { c with retrains := fs }) s
    if odGet s odMscChanRetrainLimit ≤ fs.length then retireChan ch true s else s
  else s

/-- CHANNEL_RETRAIN: the oldest request starts when no other retrain and no overwrite runs; the retrain that runs ends,
within 40 µs, after a hold of so many 10 ns. Where no retrain is requested, the command says that a write to the channel has
failed its CRC after four retries, cause 4 (R291, log 100). -/
def doChannelRetrain (ch hold : Nat) (s : State) : State :=
  match s.mss.retraining with
  | some r => if r.1 = ch ∧ hold ≤ 4000 then retrainDone ch r.2 hold s else s
  | none =>
    match s.mss.retrainQ with
    | [] =>
      if ch < 24 ∧ bitOf s.mss.chanMap ch ∧ !(getChan s ch).down ∧ !s.mss.overwriting ∧ !s.mss.selfRefresh then
        crcRetries ch 4 (onMss (fun m => { m with retraining := some (ch, 4) }) s)
      else s
    | r :: rest =>
      if r.1 = ch ∧ !s.mss.overwriting ∧ !s.mss.selfRefresh then
        onMss (fun m => { m with retraining := some r, retrainQ := rest }) s
      else s

/-- CHANNEL_RETRAIN (R290). -/
def execChannelRetrain (ch hold10ns : Nat) (s : State) : Host.Outcome State Fault Refusal :=
  .next (doChannelRetrain ch hold10ns s)

/-- RETRAIN_TIMEOUT: the retrain that runs has not ended within 40 µs; its channel goes down. -/
def doRetrainTimeout (s : State) : State :=
  match s.mss.retraining with
  | none => s
  | some r => chanDown r.1 (if r.2 = 4 then 3 else 2) (onMss (fun m => { m with retraining := none }) s)

/-- RETRAIN_TIMEOUT (R290). -/
def execRetrainTimeout (s : State) : Host.Outcome State Fault Refusal := .next (doRetrainTimeout s)

/-! ## Errors of atoms (R291, R296, R299) -/

/-- An uncorrectable read of a channel counts toward MSC_CHAN_UE_LIMIT (R439). -/
def chanUe (ch : Nat) (s : State) : State :=
  let fs := inWindow s (getChan s ch).ues
  let s := modChan ch (fun c => { c with ues := fs }) s
  if odGet s odMscChanUeLimit ≤ fs.length then retireChan ch true s else s

/-- What an access at a byte address of GDDR7 met: retries, an uncorrectable atom, or a tag mismatch where tags are on.
The answer tells whether the data is lost. -/
def atomError (a err : Nat) (scrub : Bool) (s : State) : State × Bool :=
  let ch := chanOf s a
  let at_ := a / 64 * 64
  if err = 0 then (s, false)
  else if err ≤ 4 then (crcRetries ch err s, false)
  else if err = 5 then
    let s := chanUe ch (crcRetries ch 4 s)
    (if scrub then post0 evMssTagFail ch (at_ + 2 ^ 64 + 2 ^ 65) s else s, true)
  else if s.mss.tags then
    (chanUe ch (post0 evMssTagFail ch (at_ + (bit scrub) <<< 64) (odCount odMssTagFails 1 s)), true)
  else (s, false)

/-- SCRUB_STEP: the next atom of the patrol, on a channel that works and is not held; an atom found bad stays so. -/
def doScrubStep (atom err : Nat) (s : State) : State :=
  if atom ≠ s.mss.scrub ∨ usable s ≤ 64 * atom ∨ gddrHeld s (64 * atom) ∨ (getChan s (chanOf s (64 * atom))).down ∨ gated s 5 then s
  else
    let n := usable s / 64
    let s := onMss (fun m => { m with scrub := (atom + 1) % n, atomsRead := m.atomsRead + 1 }) s
    let x := atomError (64 * atom) err true s
    if x.2 ∧ !s.mss.badAtoms.any (fun b => b.1 == atom) then
      onMss (fun m => { m with badAtoms := m.badAtoms ++ [(atom, err == 6)] }) x.1
    else x.1

/-- SCRUB_STEP (R299). -/
def execScrubStep (atom err : Nat) (s : State) : Host.Outcome State Fault Refusal := .next (doScrubStep atom err s)

/-! ## What the devices store (R284, R293 to R295)

`Mem.gddr` holds what the engine reads and writes, which is plaintext. The devices hold only ciphertext and tags: these
definitions say which bytes, from the plaintext, its address and the keys of the generation in force. -/

/-- The characters of a label as bytes. -/
def asciiBytes (label : String) : List Byte := label.toList.map (fun c => BitVec.ofNat 8 c.toNat)

/-- The key of a label, derived from the root key with MSS_GENERATION as the context (R294). -/
def memKey (s : State) (label : String) : List Byte := Config.kdf Config.memRoot (asciiBytes label) (leBytes 8 s.mss.keyGen)

/-- Bytes combined by exclusive or. -/
def xorBytes (x y : List Byte) : List Byte := List.zipWith (· ^^^ ·) x y

/-- The tweak of the next block of a data unit: multiplied by α in GF(2^128), least significant byte first. -/
def nextTweak (t : List Byte) : List Byte :=
  let v := leNat t
  leBytes 16 ((2 * v % 2 ^ 128) ^^^ (if bitOf v 127 then 0x87 else 0))

/-- AES-256-XTS of a data unit's blocks in order, from the tweak of the first (R293). -/
def xtsBlocks (k : List Byte) : Nat → List Byte → List Byte → List Byte
  | 0, _, _ => []
  | n + 1, t, bs => xorBytes t (Config.aes256 k (xorBytes t (bs.take 16))) ++ xtsBlocks k n (nextTweak t) (bs.drop 16)

/-- The ciphertext of atom n, with the atom's 64 bytes as the data unit and n, its address over 64, as the number of the
unit (R293). -/
def atomCipher (s : State) (n : Nat) : List Byte :=
  xtsBlocks (memKey s "JKR-MEM-DATA") 4 (Config.aes256 (memKey s "JKR-MEM-TWEAK") (leBytes 16 n)) (gddrLoad s (64 * n) 64)

/-- The integrity tag of atom n (R295). -/
def atomTag (s : State) (n : Nat) : List Byte :=
  (Config.cmac256 (memKey s "JKR-MEM-TAG") (atomCipher s n ++ leBytes 8 (64 * n))).take 8

/-- The byte that the device of the k-th active channel, of capacity c, stores at an offset: of a tag in the top eighth where
tags are on, else of an atom's ciphertext (R293, R295). -/
def deviceByte (s : State) (c k o : Nat) : Byte :=
  if s.mss.tags ∧ 7 * c / 8 ≤ o then
    (atomTag s (chanAddr s k ((o - 7 * c / 8) / 8 * 64) / 64)).getD (o % 8) 0
  else (atomCipher s (chanAddr s k o / 64)).getD (o % 64) 0

/-! ## Overwrite (R300) -/

/-- Everything that a slice holds by tag is gone. -/
def emptySlices (s : State) : State := modSlices (fun x => { x with lines := [], slips := [], weed := [] }) s

/-- OVERWRITE: where one is due and the devices are up, MSS_GENERATION rises, new keys are derived, and every usable atom
is written as zeros, so that the directory, the journal and the retention ring are empty; tags are in force as MSS_TAGS says, or in confidential mode (R295). -/
def doOverwrite (s : State) : State :=
  if s.mss.overwriteDue ∧ !s.mss.selfRefresh ∧ !s.mss.overwriting then
    let g := odGet s odMssGeneration + 1
    let on := odGet s odMssTags == 1 || confidential s
    let n := (activeChans s).length
    let s := odSet odMssUsable (usableBytes n (odGet s odMssDensity) on) (odSet odMssGeneration g s)
    let s := onMss (fun m => { m with overwriting := true, keyGen := g, tags := on, badAtoms := [], scrub := 0, writeq := [] }) s
    let s := onCat (fun c => { c with dir := [], cache := [], misses := [], repdir := [], circ := [] }) s
    let s := onUpu (fun u => {
      fresh := u.fresh, ledgerBase := u.ledgerBase, retainBase := u.retainBase, retainSize := u.retainSize, inboxBase := u.inboxBase,
      inboxSize := u.inboxSize, hostlogBase := u.hostlogBase }) s
    emptySlices (onMem (fun m => { m with gddr := [] }) s)
  else s

/-- OVERWRITE (R300). -/
def execOverwrite (s : State) : Host.Outcome State Fault Refusal := .next (doOverwrite s)

/-- The overwrite ends, and MSS_OVERWRITE_DONE is raised with the duration in µs. -/
def overwriteEnd (us : Nat) (s : State) : State :=
  post0 evMssOverwriteDone 0 (odGet s odMssGeneration % 2 ^ 64 + (us % 2 ^ 32) <<< 64)
    (onMss (fun m => { m with overwriting := false, overwriteDue := false }) s)

end Sys2Proof.Machine
end

