-- ==== Sys2Proof/Machine/Gather.lean ====
section
/-! DEFINITION. The stages from a bag's start to its finished row, bag by bag and read by read (04, 05): BAG_START,
INDEX_PROCESS, DESCRIPTOR_FILL, SEGMENT_RELEASE, READ_ISSUE, ROW_RETURN, CODEBOOK_LOAD and LEAF_POOL. -/

namespace Sys2Proof.Machine

/-! ## What a Pod holds -/

/-- Bag `bag` of task t on a Pod. -/
def getBag (s : State) (pod t bag : Nat) : Option Bag := (getPod s pod).bags.find? (fun b => b.task == t && b.bag == bag)

/-- Changes bag `bag` of task t on a Pod. -/
def modBag (pod t bag : Nat) (f : Bag → Bag) (s : State) : State :=
  modPod pod (fun p => { p with bags := p.bags.map (fun b => if b.task = t ∧ b.bag = bag then f b else b) }) s

/-- The positions of the segment that holds position j of a bag of n (R97). -/
def segSize (n j : Nat) : Nat := min segmentLen (n - j / segmentLen * segmentLen)

/-- Window entries that a Pod's open segments and update windows claim (R97, R197). -/
def windowUse (p : Pod) : Nat :=
  sumOf (fun b => if b.window.isEmpty then 0 else segSize b.n (b.taken - 1)) p.bags + sumOf (fun u => u.2.length) p.uwin

/-- Park buffer entries in use (R93). -/
def parkUse (p : Pod) : Nat := sumOf (fun b => b.parked.length) p.bags

/-- Tree-store entries reserved (R129). -/
def treeUse (p : Pod) : Nat := sumOf (fun b => b.tree) p.bags

/-- The return-buffer bytes that a leaf reserves (R126); a default row of mode ZERO is read from nowhere (R125). -/
def leafBytes (l : Leaf) : Nat :=
  if (l.stage = 1 ∨ l.stage = 2) ∧ !(l.dflt && sdDefault l.desc == 0) then
    rowS l.desc + (if sdEsc l.desc then slotSize l.desc else 0)
  else 0

/-- Return-buffer bytes reserved (R126). -/
def returnUse (p : Pod) : Nat := sumOf (fun b => sumOf leafBytes b.leaves) p.bags

/-- Slots that a tier's issued reads hold (R104). -/
def slotUse (p : Pod) (tier : Nat) : Nat :=
  sumOf (fun r => r.slots) (p.reads.filter (fun r => r.issued && r.tier == tier))

/-- The grain of a slot tier (R104): 0 STACKS, 1 XPOD, 2 GDDR, 3 HOST, 4 REMOTE. -/
def tierGrain (tier : Nat) : Nat := match tier with | 2 => 64 | 4 => 256 | _ => 128

/-- The data of a stream of a task has been returned on a Pod (R117); inline indices and weights need no stream (R69). -/
def streamReady (s : State) (k : Task) (pod kind : Nat) : Bool :=
  (dInline k.desc != 0 && decide (kind < 2)) || s.gau.streams.contains (k.id * 16 + pod, kind)

/-! ## BAG_START (R16, R119, R129) -/

/-- The place of a bag in the order of starts: its task's admission, or its pair's, and its place in the deal. -/
def startKey (s : State) (k : Task) (bag : Nat) : Nat × Nat :=
  match k.pair.bind (getTask s) with
  | none => (k.seq, bag)
  | some j => (min k.seq j.seq, pairPlace (decide (j.seq < k.seq)) (dBags (if j.seq < k.seq then j else k).desc)
      (dBags (if j.seq < k.seq then k else j).desc) bag)

/-- One place comes before another. -/
def keyBefore (a b : Nat × Nat) : Bool := decide (a.1 < b.1) || (a.1 == b.1 && decide (a.2 < b.2))

/-- The bags that wait to start on a Pod, each with its task. -/
def startList (s : State) (pod : Nat) : List (Task × Deal) :=
  (s.cfe.tasks.filter (fun k => k.phase == .admitted && k.err.isNone && dIsIndexed k.desc)).flatMap (fun k =>
    (k.deals.filter (fun x => x.pod == pod && !x.started)).map (fun x => (k, x)))

/-- The next bag to start on a Pod. -/
def nextStart (s : State) (pod : Nat) : Option (Task × Deal) :=
  (startList s pod).foldl (fun m c =>
    match m with
    | none => some c
    | some b => if keyBefore (startKey s c.1 c.2.bag) (startKey s b.1 b.2.bag) then some c else some b) none

/-- The first run of n free carrels of a Pod: held by no bag, and named by no group (R16, R140). -/
def carrelRun (p : Pod) (n : Nat) : Option Nat :=
  (List.range 1024).find? (fun c => decide (c + n ≤ 1024) &&
    (List.range n).all (fun i => !p.carrels.any (fun x => x.1 == c + i) && carrelUnclaimed p (c + i)))

/-- A Pod works: it takes part in the deal, and the subsystems named have their clocks (R407). -/
def podOn (s : State) (pod : Nat) (subs : List Nat) : Bool := (getPod s pod).up && unitsOn s subs

/-- A bag starts with its carrels and tree-store entries, and its OPEN handle is pushed. -/
def startBag (k : Task) (pod bag base n carrel : Nat) (s : State) : State :=
  let d := k.desc
  let dim := sdDim k.shard0
  let c := if dOp d = opUpdate then 0 else bagCarrels dim
  let b : Bag := { task := k.id, bag := bag, base := base, n := n, carrel := carrel, carrels := c,
                   tree := if dOp d = opUpdate then 0 else bagTree (dPool d) dim n }
  let s := modPod pod (fun p => { p with
    bags := p.bags ++ [b], carrels := p.carrels ++ (List.range c).map (fun i => (carrel + i, k.id)) }) s
  let s := modDeal k.id bag (fun x => { x with started := true }) s
  if dOp d = opUpdate then s
  else pushHandle pod 0 { st := .open, task := k.id, bag := bag, fold := dOp d == opFold, carrel := carrel, carrels := c } s

/-- BAG_START: the next bag of a Pod starts once its carrels and tree-store entries are free. A bag of an UPDATE holds
neither. PLU_TREE_WAITS counts Pod cycles of waiting, and this model has no cycles: it counts one for each BAG_START that
finds the tree store full (log 98). -/
def doBagStart (pod : Nat) (s : State) : State :=
  if !podOn s pod [3, 6] then s
  else
    match nextStart s pod with
    | none => s
    | some (k, x) =>
      if !streamReady s k pod 0 then s
      else match bagSpan s k pod x.bag with
        | .error f => taskFault k.id pod 0 f s
        | .ok (base, n) =>
          if dOp k.desc = opUpdate then startBag k pod x.bag base n 0 s
          else withHq pod 0 (fun s =>
            let p := getPod s pod
            match carrelRun p (bagCarrels (sdDim k.shard0)) with
            | none => s
            | some c =>
              if hqFull p.hq0 then s
              else if 4096 < treeUse p + bagTree (dPool k.desc) (sdDim k.shard0) n then odCount odPluTreeWaits 1 s
              else startBag k pod x.bag base n c s) s

/-- BAG_START (R16). -/
def execBagStart (pod : Nat) (s : State) : Host.Outcome State Fault Refusal := .next (doBagStart pod s)

/-! ## INDEX_PROCESS (R91, R93, R97, R195) -/

/-- The task of a bag, while it goes on. -/
def bagTask (s : State) (t : Nat) : Option Task := if goesOn s t then getTask s t else none

/-- The gradient row of an index (R195), by the stream of kind 8. -/
def gradRow (s : State) (k : Task) (pod bag base j : Nat) : Except Flt (List F32) :=
  let d := k.desc
  let dim := sdDim k.shard0
  let b := fuseBytes (dGradFmt d)
  let n := if dPool d = 6 then base + j else bag
  let w := dOutAddr d
  (streamOne s k pod 8 w n b (dim * b) [(w + n * dim * b, dim * b)]).map
    (fun cs => fuseVec (dGradFmt d) dim (delivered s (dim * b) cs))

/-- The index gradient of an index of a bag of n (R195). -/
def indexGrad (pool n : Nat) (w : F32) (g : List F32) : List F32 :=
  if pool = 1 then g.map (fun x => f32Of false (divV (valOf x) (vInt n)))
  else if pool = 2 then g.map (fun x => divSqrt false x n)
  else if pool = 3 then g.map (fun x => fMul false w x)
  else g

/-- Index j of a bag has read its descriptor, whole (R54). -/
def gotDesc (pod t bag j : Nat) (x : BitVec 512) (s : State) : State :=
  modBag pod t bag (fun b => { b with window := b.window.map (fun e => if e.pos = j then { e with desc := x } else e) }) s

/-- The Catalogue is asked for the descriptor of a row that an index of a lookup named (R91 steps 3 and 4): a hit checks
the shard's state, and a miss parks the index (R93). -/
def askDescriptor (k : Task) (pod bag j row : Nat) (s : State) : State :=
  let t := dTable k.desc
  let e := dirAt s t
  let idx := shardIndex e (shardOf e row)
  match cached s idx with
  | some x =>
    let s := gotDesc pod k.id bag j x (cacheHit idx x s)
    (match shardFlt k t x with
     | some f => taskFault k.id pod 0 f s
     | none => s)
  | none => cacheMiss idx (modBag pod k.id bag (fun b => { b with parked := b.parked ++ [(idx, j)] }) s)

/-- A miss can be opened for the descriptor of a row, or merged into one (R52). -/
def missRoom (s : State) (t row : Nat) : Bool :=
  let e := dirAt s t
  let idx := shardIndex e (shardOf e row)
  (cached s idx).isSome || s.cat.misses.contains idx || decide (s.cat.misses.length < 512)

/-- An index of a lookup enters its segment; one out of range stands under the descriptor of shard 0 (R92, Table 4.1). -/
def takeLookup (k : Task) (pod : Nat) (b : Bag) (e : WinEntry) (s : State) : State :=
  let e := { e with desc := shard0Of s (dTable k.desc) }
  let s := onGau (fun g => { g with taken := g.taken + 1 }) s
  let s := modBag pod k.id b.bag (fun b => { b with taken := b.taken + 1, window := b.window ++ [e] }) s
  match e.row with
  | none => countSubst k.id (dTable k.desc) 0 1 s
  | some row => askDescriptor k pod b.bag b.taken row (heatHit pod (dTable k.desc) row s)

/-- An index of an UPDATE enters its window, with its index gradient; out of range it is discarded unless the default
row learns (R196), and counts toward its window all the same (R197). -/
def takeUpdate (k : Task) (pod : Nat) (b : Bag) (e : WinEntry) (s : State) : State :=
  match gradRow s k pod b.bag b.base b.taken with
  | .error f => taskFault k.id pod 8 f s
  | .ok g =>
    let e := { e with grad := indexGrad (dPool k.desc) b.n e.weight g }
    let s := onGau (fun g => { g with taken := g.taken + 1 }) s
    let s := modBag pod k.id b.bag (fun b => { b with taken := b.taken + 1 }) s
    let out := e.row.isNone && sdDefault k.shard0 != 2
    let e := if out then { e with grad := [], discard := true } else e
    let s := modPod pod (fun p => { p with uwin := tabMod k.id [] (· ++ [e]) p.uwin }) (odCount odUpuGradDiscarded (bit out) s)
    match e.row with
    | none => s
    | some row => heatHit pod (dTable k.desc) row s

/-- The bag of an UPDATE whose indices are taken next on a Pod: the first in deal order (R197). -/
def updateTurn (s : State) (pod t bag : Nat) : Bool :=
  !(getPod s pod).bags.any (fun b => b.task == t && decide (b.bag < bag) && decide (b.taken < b.n)) &&
  !(startList s pod).any (fun c => c.1.id == t && decide (c.2.bag < bag))

/-- Reads of a tier in its issue queue (R105); a dependent read waits for slots alone (R103). -/
def queued (p : Pod) (tier : Nat) : Nat := (p.reads.filter (fun r => !r.issued && !r.dep && r.tier == tier)).length

/-- The issue queue of a tier is full, and so the IXU takes no index (R105). -/
def queueFull (p : Pod) : Bool := (List.range 5).any (fun t => decide (256 ≤ queued p t))

/-- INDEX_PROCESS: the next index of a bag is taken, if the streams have brought it, no issue queue is full and the window
has room. A bag's next segment enters the window once the reads of the one before are queued (log 98). -/
def doIndexProcess (pod t bag : Nat) (s : State) : State :=
  match bagTask s t, getBag s pod t bag with
  | some k, some b =>
    let d := k.desc
    let upd := dOp d == opUpdate
    let p := getPod s pod
    let j := b.taken
    let room := if upd then decide (windowUse p < segmentLen) && updateTurn s pod t bag
      else if j % segmentLen = 0 then
        b.window.isEmpty && b.leaves.all (fun l => l.stage != 0) && decide (windowUse p + segSize b.n j ≤ segmentLen)
      else true
    if !podOn s pod (if upd then [1, 2, 3, 9] else [1, 2, 3]) ∨ b.n ≤ j ∨ !streamReady s k pod 0 ∨
        (dPool d = 3 ∧ !streamReady s k pod 1) ∨ (upd ∧ !s.gau.streams.contains (t * 16 + pod, 8)) ∨ queueFull p ∨ !room then s
    else if !upd ∧ 1024 ≤ parkUse p then odCount odIxuParkStalls 1 s
    else match bagEntry s k pod bag b.base j with
      | .error f => taskFault t pod 0 f s
      | .ok e =>
        if upd then takeUpdate k pod b e s
        else if e.row.all (missRoom s (dTable d)) then takeLookup k pod b e s
        else odCount odCatMissWaits 1 s
  | _, _ => s

/-- INDEX_PROCESS (R91). -/
def execIndexProcess (pod t bag : Nat) (s : State) : Host.Outcome State Fault Refusal := .next (doIndexProcess pod t bag s)

/-- The parked indices of a bag that wait for a descriptor resume at step 4 (R93). -/
def resumeBag (pod idx : Nat) (x : BitVec 512) (b : Bag) (s : State) : State :=
  if b.parked.any (fun q => q.1 == idx) then
    let js := (b.parked.filter (fun q => q.1 == idx)).map (·.2)
    let s := modBag pod b.task b.bag (fun b => { b with
      parked := b.parked.filter (fun q => q.1 != idx),
      window := b.window.map (fun e => if js.contains e.pos then { e with desc := x } else e) }) s
    match bagTask s b.task with
    | none => s
    | some k =>
      match shardFlt k (dTable k.desc) x with
      | some f => taskFault k.id pod 0 f s
      | none => s
  else s

/-- DESCRIPTOR_FILL: a missing descriptor enters the cache. -/
def doDescriptorFill (idx : Nat) (s : State) : State :=
  if s.cat.misses.contains idx ∧ !gated s 1 ∧ !gddrHeld s (descAddr s idx) then
    let s := cacheLoad idx (onCat (fun c => { c with misses := c.misses.filter (· != idx) }) s)
    let x := descAt s idx
    forEach (fun pod s => forEach (resumeBag pod idx x) (getPod s pod).bags s) podNums s
  else s

/-- DESCRIPTOR_FILL (R52). -/
def execDescriptorFill (idx : Nat) (s : State) : Host.Outcome State Fault Refusal := .next (doDescriptorFill idx s)

/-! ## Release of reads (R98, R105, R126) -/

/-- A read that a leaf needs: its kind, tier, space, address and length. -/
structure Want where
  kind : Nat
  tier : Nat
  space : Nat
  addr : Nat
  len : Nat
  deriving DecidableEq, Repr

/-- What a leaf needs first: a read, nothing (a default row of mode ZERO), or the end of its task. -/
inductive WantRes where
  | read (w : Want) (x : BitVec 512) (dflt : Bool)
  | zero (x : BitVec 512)
  | bad (f : Flt)
  deriving DecidableEq, Repr

/-- The tier of slots of a memory tier (Table 4.3). -/
def slotTier (tier : Nat) : Nat := if tier = 0 then 2 else 3
/-- The space of a memory tier as a read names it. -/
def readSpace (tier : Nat) : Nat := if tier = 0 then 1 else 0

/-- The read of a default row under a descriptor (Table 4.1). -/
def wantDefault (s : State) (t : Nat) (y : BitVec 512) : WantRes :=
  if sdDefault y = 0 then .zero y
  else if sdDefault y = 1 ∨ defaultHome s t = s.sfp.engineId then .read ⟨3, 2, 1, 32 * sdDefAddr y, rowS y⟩ y true
  else .read ⟨3, 4, 4, 32 * sdDefAddr y, rowS y⟩ y true

/-- The first read of a leaf on a Pod (Table 4.3). -/
def wantRow (s : State) (k : Task) (pod : Nat) (l : Leaf) : WantRes :=
  let t := dTable k.desc
  match l.row with
  | none => wantDefault s t (shard0Of s t)
  | some row =>
    let e := dirAt s t
    let idx := shardIndex e (shardOf e row)
    let pos := posOf e row
    let x := l.desc
    match rowPath s k.desc idx x row pos with
    | .pinned none => wantDefault s t x
    | .pinned (some _) => .read ⟨1, if standIn s (pos % 16) = pod then 0 else 1, 2, pos, rowS x⟩ x false
    | .replica _ => .read ⟨1, 0, 3, row, rowS x⟩ x false
    | .remote => .read ⟨1, 4, 4, row, rowS x⟩ x false
    | .home =>
      match pinBase s (dPin k.desc) (dPinEpoch k.desc) idx x with
      | .error f => .bad f
      | .ok base =>
        let a := rowAddr x base pos
        if sdShelved x then .read ⟨0, slotTier (sdTier x), readSpace (sdTier x), a, 8⟩ x false
        else .read ⟨1, slotTier (sdTier x), readSpace (sdTier x), a, rowS x⟩ x false

/-- A read with what a leaf wants: its slots are counted from its length (R104). -/
def wantRead (w : Want) (ahead : Bool) (r : ReadRec) : ReadRec :=
  { r with kind := w.kind, tier := w.tier, space := w.space, addr := w.addr, len := w.len,
           slots := cdiv w.len (tierGrain w.tier), ahead := ahead }

/-- Puts a read into its tier's queue, a dependent one to wait for slots alone (R103). -/
def queueRead (pod t bag leaf : Nat) (w : Want) (dep : Bool) (s : State) : State :=
  let n := s.gau.nextRead
  let s := onGau (fun g => { g with nextRead := n + 1 }) s
  let r : ReadRec := { id := n, task := t, bag := bag, leaf := leaf, kind := 0, tier := 0, space := 0, addr := 0, len := 0, dep := dep }
  modPod pod (fun p => { p with reads := p.reads ++ [wantRead w false r] }) s

/-- Changes leaf i of a bag. -/
def modLeaf (pod t bag i : Nat) (f : Leaf → Leaf) (s : State) : State :=
  modBag pod t bag (fun b => { b with leaves := b.leaves.modify i f }) s

/-- Nothing of a bag is still to be released: each of its leaves is queued, and no index of it is to come. A bag of an
UPDATE, and one of a task that has ended, releases nothing. -/
def bagReleased (s : State) (b : Bag) : Bool :=
  b.carrels == 0 || !goesOn s b.task || (b.taken == b.n && b.window.isEmpty && b.leaves.all (fun l => l.stage != 0))

/-- The next leaf of a Pod that is not yet released, in the order of release: bags as they started, leaves in order
(R126). -/
def nextLeaf (s : State) (pod : Nat) : Option (Bag × Nat × Leaf) :=
  ((getPod s pod).bags.find? (fun b => !bagReleased s b)).bind (fun b =>
    (b.leaves.zipIdx.find? (fun c => c.1.stage == 0)).map (fun c => (b, c.2, c.1)))

/-- A leaf found absent, or known to be, counts as a substitution (R94). -/
def substLeaf (k : Task) (pod bag i : Nat) (l : Leaf) (y : BitVec 512) (absent : Bool) (s : State) : State :=
  let s := modLeaf pod k.id bag i (fun l => { l with dflt := true, desc := y, stage := if l.stage = 0 then 1 else l.stage }) s
  if absent then countSubst k.id (dTable k.desc) 1 l.count s else s

/-- Releases leaves into the issue queues while the queues and the return buffer have room, at most n of them.
PLU_RETURN_WAITS counts one for each time that a read is held for space (log 98). -/
def feedReads (pod : Nat) : Nat → State → State
  | 0, s => s
  | n + 1, s =>
    let p := getPod s pod
    match nextLeaf s pod with
    | none => s
    | some (b, i, l) =>
      match bagTask s b.task with
      | none => s
      | some k =>
        match wantRow s k pod l with
        | .bad f => taskFault k.id pod 0 f s
        | .zero y =>
          let s := substLeaf k pod b.bag i l y l.row.isSome s
          feedReads pod n (modLeaf pod k.id b.bag i (fun l => { l with stage := 2, data := [] }) s)
        | .read w x dflt =>
          if 256 ≤ queued p w.tier then s
          else if 2 ^ 21 < returnUse p + leafBytes { l with stage := 1, desc := x } then odCount odPluReturnWaits 1 s
          else
            let s := if dflt then substLeaf k pod b.bag i l x l.row.isSome s
              else modLeaf pod k.id b.bag i (fun l => { l with stage := 1 }) s
            feedReads pod n (queueRead pod k.id b.bag i w false s)

/-- Releases what can be released on a Pod. -/
def feed (pod : Nat) (s : State) : State := feedReads pod (sumOf (fun b => b.leaves.length) (getPod s pod).bags) s

/-- SEGMENT_RELEASE: the last index of a bag's open segment has entered the window and no index of it is parked; its
reads are released with their folded weights. The segment's entries leave the window here: the rule says when a segment
enters, and not when it leaves (log 98). -/
def doSegmentRelease (pod t bag : Nat) (s : State) : State :=
  match bagTask s t, getBag s pod t bag with
  | some k, some b =>
    if b.window.isEmpty ∨ b.window.length < segSize b.n (b.taken - 1) ∨ !b.parked.isEmpty ∨ !podOn s pod [2, 3] ∨
        dOp k.desc = opUpdate then s
    else
      let ls := foldSegment (dPool k.desc) segmentLen b.window
      let s := odCount odIxuFolded (b.window.length - ls.length) s
      feed pod (modBag pod t bag (fun b => { b with window := [], leaves := b.leaves ++ ls }) s)
  | _, _ => s

/-- SEGMENT_RELEASE (R98). -/
def execSegmentRelease (pod t bag : Nat) (s : State) : Host.Outcome State Fault Refusal :=
  .next (doSegmentRelease pod t bag s)

/-! ## READ_ISSUE (R101, R104) -/

/-- A read's slots are freed. -/
def dropRead (pod id : Nat) (s : State) : State := modPod pod (fun p => { p with reads := p.reads.filter (fun r => r.id != id) }) s

/-- The leaf that a read serves. -/
def readLeaf (s : State) (pod : Nat) (r : ReadRec) : Option Leaf := (getBag s pod r.task r.bag).bind (fun b => b.leaves[r.leaf]?)

/-- The descriptor index and position of a leaf's row. -/
def leafPlace (s : State) (k : Task) (l : Leaf) : Nat × Nat :=
  let e := dirAt s (dTable k.desc)
  let row := l.row.getD 0
  (shardIndex e (shardOf e row), posOf e row)

/-- The descriptor that places a read as it issues: the home engine's own, as it stands (R239), while the index that was
validated under `x` may still use it. -/
def placeDesc (s : State) (k : Task) (idx : Nat) (x : BitVec 512) : BitVec 512 :=
  if (shardFlt k (dTable k.desc) (descAt s idx)).isNone then descAt s idx else x

/-- What a read asks for as it issues: the first read of a row is resolved here, after every commit before it (R228, R240,
R251), and a dependent read or one of a default row stands as it was queued. -/
def placedRead (s : State) (k : Task) (pod : Nat) (r : ReadRec) (l : Leaf) : WantRes :=
  if r.dep ∨ 2 ≤ r.kind ∨ l.dflt ∨ l.row.isNone then .read ⟨r.kind, r.tier, r.space, r.addr, r.len⟩ l.desc l.dflt
  else wantRow s k pod { l with desc := placeDesc s k (leafPlace s k l).1 l.desc }

/-- The Pod and the way that hold the row at a position of a pinned copy. -/
def pinnedWay (s : State) (idx pos : Nat) : Nat × Nat :=
  let pod := standIn s (pos % 16)
  match pinnedCopy s idx with
  | none => (pod, 0)
  | some c => (pod, ((pinRowWays (pinWays s pod) c.first (pinPitch (rowS (descAt s idx))) pos).head?).getD 0)

/-- A pinned row is read: its bytes come at once. An error of its way counts, and with one that is not corrected the
position is lost to the home tier and the read is resolved again (R278). -/
def readPinned (pod idx : Nat) (r : ReadRec) (err : Nat) (s : State) : State :=
  let w := pinnedWay s idx r.addr
  let s' := if err = 0 then s else wayError w.1 w.2 s
  if err = 2 then
    onStk (fun k => { k with pinned := k.pinned.map (fun c =>
      if c.idx = idx then { c with rows := tabDrop r.addr c.rows } else c) }) s'
  else
    let bs := ((pinnedCopy s idx).bind (fun p => tabFind r.addr p.rows)).getD none
    modRead pod r.id (fun r => { r with issued := true, got := [(0, bs.getD [])] }) s'

/-- A replica is read from its Pod's own slice: an error that is not corrected drops the replica, and the read is resolved
again (R273, R278). -/
def readReplica (t pod : Nat) (r : ReadRec) (err : Nat) (s : State) : State :=
  let s' := if err = 0 then s else wayError pod ((replicaWays s pod).headD 0) s
  if err = 2 then
    let s := onCat (fun c => { c with replicas := c.replicas.filter (fun x => !(x.table == t && x.row == r.addr)) }) s'
    odSet odCatReplicas s.cat.replicas.length s
  else
    let bs := ((replicaOf s t r.addr).map (fun c => c.data)).getD []
    modRead pod r.id (fun r => { r with issued := true, got := [(0, bs)] }) s'

/-- Sends a read on its path: a pinned copy or a replica answers at once, another engine gets a READ_REQ, and memory is
read through the Pod's own slice, line by line. -/
def sendRead (k : Task) (pod : Nat) (r : ReadRec) (x : BitVec 512) (err : Nat) (s : State) : State :=
  let t := dTable k.desc
  match r.space with
  | 2 => readPinned pod (shardIndex (dirAt s t) (sdShard x)) r err s
  | 3 => readReplica t pod r err s
  | 4 =>
    let xid := s.sfp.xid
    let dst := if r.kind = 3 then defaultHome s t else sdHome x
    let s := sendCell ctReadReq dst 16
      (readReqWords (if r.kind = 3 then 0 else r.addr) t (dPin k.desc) (r.kind == 3) false (dPinEpoch k.desc) s.sfp.epoch) s
    modRead pod r.id (fun r => { r with issued := true, xid := xid, epoch := s.sfp.epoch }) s
  | _ =>
    forEach (fun c s => askFor pod r (if c.2 = 0 then err else 0) c.1 s) (linesOf r.addr r.len).zipIdx
      (modRead pod r.id (fun r => { r with issued := true }) s)

/-- The read of a tier that issues next: a dependent one first, else the oldest of the queue (log 98). -/
def nextIssue (p : Pod) (tier : Nat) : Option ReadRec :=
  match p.reads.find? (fun r => !r.issued && r.dep && r.tier == tier) with
  | some r => some r
  | none => p.reads.find? (fun r => !r.issued && r.tier == tier)

/-- A read resolved for issue goes out when its tier's budget has slots for it; one that its placement has moved to another
tier waits in that tier's queue. -/
def issueRead (k : Task) (pod : Nat) (r : ReadRec) (w : Want) (x : BitVec 512) (err : Nat) (s : State) : State :=
  let r' := wantRead w (sdPrefetch x) r
  let s := modLeaf pod r.task r.bag r.leaf (fun l => { l with desc := x }) (modRead pod r.id (wantRead w (sdPrefetch x)) s)
  if w.tier ≠ r.tier then s
  else if odGet s (odGauBudgetStacks + w.tier) < slotUse (getPod s pod) w.tier + r'.slots then odCount odGauSlotWaits 1 s
  else feed pod (onGau (fun g => { g with issued := g.issued + 1 }) (sendRead k pod r' x err s))

/-- READ_ISSUE: the next read of a tier is resolved and issues. -/
def doReadIssue (pod tier err : Nat) (s : State) : State :=
  match nextIssue (getPod s pod) tier with
  | none => feed pod s
  | some r =>
    match bagTask s r.task, readLeaf s pod r with
    | some k, some l =>
      if !podOn s pod [3, 4] ∨ (tier = 3 ∧ hostHeld s) then s
      else match placedRead s k pod r l with
        | .bad f => taskFault k.id pod 0 f s
        | .zero y =>
          feed pod (modLeaf pod r.task r.bag r.leaf (fun l => { l with stage := 2, data := [] })
            (substLeaf k pod r.bag r.leaf l y true (dropRead pod r.id s)))
        | .read w x dflt => issueRead k pod r w x err (if dflt && !l.dflt then substLeaf k pod r.bag r.leaf l x true s else s)
    | _, _ => s

/-- READ_ISSUE (R104). -/
def execReadIssue (pod tier err : Nat) (s : State) : Host.Outcome State Fault Refusal := .next (doReadIssue pod tier err s)

/-! ## ROW_RETURN (R103, R126, R234) -/

/-- The Pod and the read with a number. -/
def findRead (s : State) (rid : Nat) : Option (Nat × ReadRec) :=
  podNums.findSome? (fun p => ((getPod s p).reads.find? (fun r => r.id == rid)).map (fun r => (p, r)))

/-- The bytes of a read whose pieces have all arrived. -/
def readBytes (r : ReadRec) : List Byte :=
  if 2 ≤ r.space then (r.got.flatMap (·.2)).take r.len
  else
    let all := (linesOf r.addr r.len).flatMap (fun la => ((r.got.find? (fun g => g.1 == la)).map (·.2)).getD [])
    (all.drop (r.addr % 128)).take r.len

/-- All pieces of a read have arrived. -/
def readWhole (r : ReadRec) : Bool := r.issued && r.need.isEmpty && r.hold.isEmpty && !r.got.isEmpty && r.twin.isNone

/-- A leaf's row is in the return buffer, with its side list; its escapes are the task's. -/
def leafReady (pod : Nat) (r : ReadRec) (x : BitVec 512) (data side : List Byte) (s : State) : State :=
  onGau (fun g => { g with bytes := g.bytes + data.length })
    (modTask r.task (fun k => { k with escapes := k.escapes + rowEscapes x data })
      (modLeaf pod r.task r.bag r.leaf (fun l => { l with stage := 2, data := data, side := side }) s))

/-- A leaf turns out absent: its default row is read, or is all zeros (R94). -/
def leafAbsent (k : Task) (pod : Nat) (r : ReadRec) (l : Leaf) (s : State) : State :=
  match wantDefault s (dTable k.desc) l.desc with
  | .zero y => modLeaf pod r.task r.bag r.leaf (fun l => { l with stage := 2, data := [] }) (substLeaf k pod r.bag r.leaf l y true s)
  | .read w y _ => queueRead pod r.task r.bag r.leaf w true (substLeaf k pod r.bag r.leaf l y true s)
  | .bad f => taskFault k.id pod 0 f s

/-- The shelfmark of a leaf is read again (R234). -/
def reread (k : Task) (pod : Nat) (r : ReadRec) (l : Leaf) (s : State) : State :=
  let s := modLeaf pod r.task r.bag r.leaf (fun l => { l with markFolio := 0 }) (odCount odCatLateRereads 1 s)
  match wantRow s k pod l with
  | .read w _ _ => queueRead pod r.task r.bag r.leaf w false s
  | .bad f => taskFault k.id pod 0 f s
  | .zero _ => s

/-- A shelfmark has arrived: the row is read at its location, or it is absent (R26, R27). -/
def gotShelfmark (k : Task) (pod : Nat) (r : ReadRec) (l : Leaf) (m : Nat) (s : State) : State :=
  let now := folio s
  let at_ := leafPlace s k l
  if smTier m < 2 then
    queueRead pod r.task r.bag r.leaf ⟨1, slotTier (smTier m), readSpace (smTier m), 32 * smLoc m, rowS l.desc⟩ true
      (modLeaf pod r.task r.bag r.leaf (fun l => { l with markFolio := now }) s)
  else if smTier m = 3 then leafAbsent k pod r l s
  else taskFault k.id pod 0 (rowFlt at_.1 at_.2) s

/-- A row has arrived: it is counted as served, and its side list is read where it has escapes (R40, R103). -/
def gotRow (k : Task) (pod : Nat) (r : ReadRec) (l : Leaf) (data : List Byte) (s : State) : State :=
  let at_ := leafPlace s k l
  let now := folio s
  let x := l.desc
  if sdShelved x ∧ r.space < 2 ∧ r.kind = 1 ∧ l.markFolio + 1 < now then reread k pod r l s
  else if rowMalformed x data then
    taskFault k.id pod 0 (if l.dflt then dfltFlt (if r.space = 4 then defaultHome s (dTable k.desc) else s.sfp.engineId) x
      else rowFlt at_.1 at_.2) s
  else
    let s := if l.dflt then s else countServed s at_.1 x false
    if rowEscapes x data = 0 then leafReady pod r x data [] s
    else if r.space = 3 then leafReady pod r x data (((replicaOf s (dTable k.desc) (l.row.getD 0)).map (·.side)).getD []) s
    else if r.space = 4 then leafReady pod r x data (((r.got.drop 1).flatMap (·.2))) s
    else
      let tier := if l.dflt then 0 else sdTier x
      queueRead pod r.task r.bag r.leaf
        ⟨2, slotTier tier, readSpace tier, sideAddr x (hkSlot (rowHusk x data)), slotSize x⟩ true
        (modLeaf pod r.task r.bag r.leaf (fun l => { l with data := data, rowFolio := now }) s)

/-- A side list has arrived. Later than the folio after its row's shelfmark it is discarded like the row (R227, R234); with
a row of an earlier folio than the last it is discarded, and the row is read again (R166). -/
def gotSide (k : Task) (pod : Nat) (r : ReadRec) (l : Leaf) (side : List Byte) (s : State) : State :=
  if l.markFolio ≠ 0 ∧ l.markFolio + 1 < folio s then reread k pod r l s
  else if l.rowFolio + 1 < folio s then
    match (if l.dflt then wantDefault s (dTable k.desc) l.desc else wantRow s k pod l) with
    | .read w _ _ => queueRead pod r.task r.bag r.leaf w false s
    | .bad f => taskFault k.id pod 0 f s
    | .zero _ => s
  else leafReady pod r l.desc l.data side s

/-- The data of a whole read goes to its leaf. -/
def readDone (k : Task) (pod : Nat) (r : ReadRec) (l : Leaf) (bs : List Byte) (s : State) : State :=
  if r.kind = 0 then gotShelfmark k pod r l (leNat bs) s
  else if r.kind = 2 then gotSide k pod r l bs s
  else gotRow k pod r l bs s

/-! ### The cross-check of twins (R349) -/

/-- A read of a row of a PAIRED shard of a table with TRAIN = 1, from memory, that a check can take. -/
def pairRead (s : State) (idx : Nat) (r : ReadRec) (l : Leaf) : Bool :=
  let x := l.desc
  r.kind == 1 && (r.space == 0 || r.space == 1 || r.space == 4) && !l.dflt && sdTrain x &&
  odGet s odSfpTwinState == 1 && decide (s.sfp.partner < 1024) && decide (odGet s odSfpTwinCheck ≤ 15) &&
  (sdHome x == s.sfp.engineId || sdHome x == s.sfp.partner) && !s.sfp.recopy.any (fun c => c.1 == idx)

/-- The row as this engine's own copy holds it, for a read that its partner answered. -/
def ownCopy (s : State) (k : Task) (idx pos : Nat) (x : BitVec 512) : Option (List Byte) :=
  match pinBase s (dPin k.desc) (dPinEpoch k.desc) idx x with
  | .error _ => none
  | .ok base =>
    match resolveRow s idx x base pos with
    | .place tier a => if (tierFlt s tier a (rowS x)).isSome then none else some (tierLoad s tier a (rowS x))
    | _ => none

/-- Asks the partner for the row again, as the second read of a check. -/
def askTwin (k : Task) (pod row : Nat) (r : ReadRec) (again : Nat) (s : State) : State :=
  let xid := s.sfp.xid
  let s := sendCell ctReadReq s.sfp.partner 16
    (readReqWords row (dTable k.desc) (dPin k.desc) false false (dPinEpoch k.desc) s.sfp.epoch) s
  modRead pod r.id (fun r => { r with checked := true, twin := some xid, again := again }) s

/-- The two copies of a row differ under one stamp (R349, R437): the task ends, and the shard is copied again. -/
def twinMismatch (k : Task) (pod idx row intake : Nat) (s : State) : State :=
  let t := dTable k.desc
  let v := row % 2 ^ 40 + t <<< 40
  let s := post0 evSfpTwinMismatch t (row % 2 ^ 40 + intake <<< 40) s
  let s := onSfp (fun f => { f with recopy := f.recopy ++ [(idx, false)] }) s
  let s := raiseErr { cause := 8, level := 2, tasks := [k.id], pod := some pod, ev := evSfpTwinMismatch, source := t,
                      detail := row % 2 ^ 40 + intake <<< 40, st := stTwinMismatch, dKind := 11, dVal := v,
                      recopy := some idx } s
  endTask k.id stTwinMismatch 11 v s

/-- Compares the two copies: equal stamps end the check; else the copy with the lower stamp is read again, up to twice,
and then the one with the higher stamp is used. The row that the read goes on with is none where the check has used
the step. -/
def twinCompare (k : Task) (pod idx row : Nat) (r : ReadRec) (mine other : List Byte) (s : State) : Option (List Byte) × State :=
  let a := numAt 0 8 mine
  let b := numAt 0 8 other
  let s := odCount odSfpTwinChecks 1 s
  if a = b then
    if mine = other then (some mine, s)
    else (none, dropRead pod r.id (twinMismatch k pod idx row (bitsOf a 47 0) s))
  else if 2 ≤ r.again then (some (if a < b then other else mine), odCount odSfpTwinSkips 1 s)
  else if a < b then
    (none, modRead pod r.id (fun r => { r with checked := true, other := other, again := r.again + 1, issued := false, got := [], need := [] }) s)
  else if r.space = 4 then (none, modRead pod r.id (fun r => { r with checked := true, again := r.again + 1 }) s)
  else (none, askTwin k pod row r (r.again + 1) s)

/-- The cross-check of a whole read: one in 2^SFP_TWIN_CHECK of the reads that can be checked is. -/
def twinCheck (k : Task) (pod : Nat) (r : ReadRec) (l : Leaf) (s : State) : Option (List Byte) × State :=
  let mine := readBytes r
  let at_ := leafPlace s k l
  let row := l.row.getD 0
  if !pairRead s at_.1 r l then (some mine, s)
  else
    let s := if r.checked then s else onSfp (fun f => { f with pairReads := f.pairReads + 1 }) s
    if !r.checked && decide (s.sfp.pairReads % 2 ^ odGet s odSfpTwinCheck ≠ 0) then (some mine, s)
    else if r.space = 4 then
      match ownCopy s k at_.1 at_.2 l.desc with
      | none => (some mine, s)
      | some o => twinCompare k pod at_.1 row r mine o s
    else if r.other.isEmpty then
      (if r.checked then (some mine, s) else (none, askTwin k pod row r r.again s))
    else twinCompare k pod at_.1 row r mine r.other s

/-- ROW_RETURN: a read whose data has arrived frees its slots; the data of a task that has ended is discarded (R117). -/
def doRowReturn (rid err : Nat) (s : State) : State :=
  match findRead s rid with
  | none => s
  | some (pod, r) =>
    if !readWhole r then s
    else
      let x := if r.space = 1 then atomError r.addr err false s else (s, false)
      match bagTask s r.task, readLeaf s pod r with
      | some k, some l =>
        (match (if x.2 then some (memFlt s.sfp.engineId r.addr)
            else if r.space < 2 then tierFlt s (if r.space = 1 then 0 else 1) r.addr r.len else none) with
         | some f => taskFault k.id pod 0 f (dropRead pod rid x.1)
         | none =>
           match twinCheck k pod r l x.1 with
           | (none, t) => t
           | (some bs, t) => feed pod (readDone k pod r l bs (dropRead pod rid t)))
      | _, _ => dropRead pod rid x.1

/-- ROW_RETURN (R126). -/
def execRowReturn (rid err : Nat) (s : State) : Host.Outcome State Fault Refusal := .next (doRowReturn rid err s)

/-! ## Codebook memory (R167) -/

/-- The lines of 2 KiB that an entry takes. -/
def cbLines (size : Nat) : Nat := cdiv size 2048

/-- The codebook memory entry that rows of a descriptor need to decode: none for formats without codebooks. -/
def cbNeed (x : BitVec 512) : Option (Nat × Nat × Nat) :=
  if fmtIsCb (sdFmt x) then some (if sdFmt x = 4 then 0 else 1, sdAux x, cbSize x) else none

/-- The sign vector that rows of a descriptor need to be rotated. -/
def signNeed (x : BitVec 512) : Option (Nat × Nat × Nat) := if sdRot x then some (2, sdAux x, sdDim x / 8) else none

/-- An entry that is needed is resident on a Pod. -/
def cbHeld (p : Pod) (n : Option (Nat × Nat × Nat)) : Bool :=
  match n with
  | none => true
  | some c => p.cb.any (fun e => e.kind == c.1 && e.aux == c.2.1 && e.size == c.2.2)

/-- The bytes of a resident entry. -/
def cbBytes (p : Pod) (n : Option (Nat × Nat × Nat)) : List Byte :=
  match n with
  | none => []
  | some c => ((p.cb.find? (fun e => e.kind == c.1 && e.aux == c.2.1 && e.size == c.2.2)).map (·.data)).getD []

/-- A resident entry becomes the most recently used. -/
def cbTouch (pod : Nat) (n : Option (Nat × Nat × Nat)) (s : State) : State :=
  match n with
  | none => s
  | some c =>
    modPod pod (fun p =>
      let top := (p.cb.map (·.used)).foldl max 0 + 1
      { p with cb := p.cb.map (fun e => if e.kind = c.1 ∧ e.aux = c.2.1 ∧ e.size = c.2.2 then { e with used := top } else e) }) s

/-- The entries that work in flight on a Pod needs. -/
def cbInUse (s : State) (pod : Nat) : List (Nat × Nat × Nat) :=
  (getPod s pod).bags.flatMap (fun b =>
    match getTask s b.task with
    | none => []
    | some k => (b.leaves.filterMap (fun l => cbNeed l.desc)) ++ (signNeed k.shard0).toList)

/-- The entries that rows of a descriptor need are resident on a Pod. -/
def cbReady (s : State) (pod : Nat) (x : BitVec 512) : Bool :=
  cbHeld (getPod s pod) (cbNeed x) && cbHeld (getPod s pod) (signNeed x)

/-- An encode on a Pod, for a ROW_WRITE or for the Ledger, waits for the entries that rows of a descriptor need (R167). -/
def askCb (pod : Nat) (x : BitVec 512) (task : Option Nat) (s : State) : State :=
  let need := (((cbNeed x).toList ++ (signNeed x).toList).filter (fun c => !cbHeld (getPod s pod) (some c))).map (fun c => (c, task))
  modPod pod (fun p => { p with cbAsk := p.cbAsk ++ need.filter (fun c => !p.cbAsk.contains c) }) s

/-- The entries that rows of a descriptor need become the most recently used. -/
def cbUsed (pod : Nat) (x : BitVec 512) (s : State) : State := cbTouch pod (cbNeed x) (cbTouch pod (signNeed x) s)

/-- An entry is needed on a Pod: work in flight there reads it, or an encode waits for it. -/
def cbWanted (s : State) (pod : Nat) (c : Nat × Nat × Nat) : Bool :=
  (cbInUse s pod).contains c || (getPod s pod).cbAsk.any (fun a => a.1 == c)

/-- Makes room for n lines among entries that a test says are free: least recently used ones go; none where that is not
enough. -/
def cbRoom (n : Nat) (free : CbEntry → Bool) : Nat → List CbEntry → Option (List CbEntry)
  | 0, _ => none
  | m + 1, es =>
    if sumOf (fun e => cbLines e.size) es + n ≤ 64 then some es
    else
      match (es.filter free).foldl (fun b e => match b with
          | none => some e
          | some x => if e.used < x.used then some e else some x) none with
      | none => none
      | some v => cbRoom n free m (es.filter (fun e => e != v))

/-- The tasks of a Pod's bags, and of the encodes that wait there, that need a codebook entry. -/
def cbTasks (s : State) (pod : Nat) (c : Nat × Nat × Nat) : List Nat :=
  let p := getPod s pod
  ((p.bags.filter (fun b => (getTask s b.task).any (fun k => signNeed k.shard0 == some c) ||
    b.leaves.any (fun l => cbNeed l.desc == some c))).map (·.task) ++
   (p.cbAsk.filter (fun a => a.1 == c)).filterMap (·.2)).eraseDups

/-- What the read of an entry comes to: the tasks that need it end with a fault, or the Pod keeps it beside the entries
`es`, as the one used last. -/
def cbFill (pod : Nat) (c : Nat × Nat × Nat) (es : List CbEntry) (fl : Option Flt) (bs : List Byte) (s : State) : State :=
  match fl with
  | some f =>
    modPod pod (fun p => { p with cbAsk := p.cbAsk.filter (fun a => a.1 != c) })
      (forEach (fun t s => taskFault t pod 0 f s) (cbTasks s pod c) s)
  | none =>
    let top := ((getPod s pod).cb.map (·.used)).foldl max 0 + 1
    odCount odQntCbLoads 1 (modPod pod (fun p => { p with
      cbAsk := p.cbAsk.filter (fun a => a.1 != c),
      cb := es ++ [{ kind := c.1, aux := c.2.1, size := c.2.2, used := top, data := bs }] }) s)

/-- CODEBOOK_LOAD: a Pod loads an entry that work needs and that is not resident from GDDR7, in place of unused ones. A
load that fails ends the tasks that need the entry. -/
def doCodebookLoad (pod kind aux size : Nat) (s : State) : State :=
  let p := getPod s pod
  let c := (kind, aux, size)
  if !podOn s pod [8] ∨ cbHeld p (some c) ∨ !cbWanted s pod c ∨ gddrHeld s (32 * aux) then s
  else
    let use_ := cbInUse s pod
    match cbRoom (cbLines size) (fun e => !use_.contains (e.kind, e.aux, e.size)) (p.cb.length + 1) p.cb with
    | none => odCount odQntCbWaits 1 s
    | some es => cbFill pod c es (tierFlt s 0 (32 * aux) size) (gddrLoad s (32 * aux) size) s

/-- CODEBOOK_LOAD (R167). -/
def execCodebookLoad (pod kind aux size : Nat) (s : State) : Host.Outcome State Fault Refusal :=
  .next (doCodebookLoad pod kind aux size s)

/-! ## LEAF_POOL (R128 to R135) -/

/-- The elements of a leaf with the codebook memory of its Pod. -/
def poolVec (p : Pod) (l : Leaf) : List F32 :=
  if l.dflt && l.data.isEmpty then List.replicate (sdDim l.desc) 0
  else decodeRow l.desc l.data l.side (cbBytes p (cbNeed l.desc))

/-- A bag with one more leaf pooled. -/
def poolInto (pool : Nat) (l : Leaf) (v : List F32) (b : Bag) : Bag :=
  let b := { b with pooled := b.pooled + 1, leaves := b.leaves.modify b.pooled (fun x => { x with stage := 3, data := [], side := [] }) }
  if pool = 6 then { b with acc := some v }
  else if pool = 4 ∨ pool = 5 then
    { b with acc := some (match b.acc with
      | none => v.map (fun x => if fIsNan x then fNan else x)
      | some a => List.zipWith (if pool = 4 then fMax else fMin) a v) }
  else
    let r := treePush false b.lin b.stack 0 (v.map (fun x => fMul false l.weight x))
    { b with stack := r.1, lin := r.2 }

/-- The Pool Unit has taken the OPEN handle of a bag, and those before it; an aborted handle before it must be freed
first (R19). -/
def takeOpen (pod t bag : Nat) (s : State) : Option State :=
  let q := (getPod s pod).hq0
  match q.items.findIdx? (fun h => h.task == t && h.bag == bag && h.st == .open) with
  | none => some s
  | some i =>
    if (q.items.take i).any (fun h => h.st == .aborted) then none
    else some (modPod pod (fun p => { p with hq0 := (List.range (i + 1)).foldl (fun q _ => hqPop q) p.hq0 }) s)

/-- The row of a bag at its end (R131, R132, R135 steps 1 and 2), with the sign vector in codebook memory. Like
`poolLeaves`, it rounds once at each operation that R136 counts. -/
def bagRow (p : Pod) (k : Task) (b : Bag) : List F32 :=
  let x := k.shard0
  let pool := dPool k.desc
  let r := if pool = 4 ∨ pool = 5 ∨ pool = 6 then b.acc.getD (List.replicate (sdDim x) 0)
    else treeEnd false (sdDim x) b.lin b.stack
  let r := scaleBag pool b.n r
  if sdRot x then rotateInv (sdBlock x) (cbBytes p (signNeed x)) r else r

/-- A finished row stands in the carrels of its bag and goes to the Quantiser or the Fold Unit; the last one of a bag
takes the carrels with it and ends the bag's gathering. -/
def pushPooled (k : Task) (pod : Nat) (b : Bag) (num : Nat) (last : Bool) (r : List F32) (s : State) : State :=
  let h : Handle := { st := .pooled, task := k.id, bag := num, fold := dOp k.desc == opFold, carrel := b.carrel,
                      carrels := if last then b.carrels else 0, block := b.bag }
  let s := pushHandle pod 1 h (putCarrels pod b.carrel r s)
  if last then
    let s := modPod pod (fun p => { p with bags := p.bags.filter (fun c => !(c.task == k.id && c.bag == b.bag)) }) s
    modDeal k.id b.bag (fun x => { x with passedG := true }) s
  else s

/-- A bag is at its end: every index is taken, every segment released and every leaf pooled. -/
def bagEnds (b : Bag) : Bool := b.taken == b.n && b.window.isEmpty && b.pooled == b.leaves.length

/-- A finished bag, or a finished index of a GATHER, leaves the Pool Unit. -/
def finishBag (k : Task) (pod : Nat) (b : Bag) (s : State) : State :=
  let p := getPod s pod
  let gather := dPool k.desc == 6
  let num := if gather then b.base + (b.leaves[b.pooled - 1]?).elim 0 (·.pos) else b.bag
  if gather ∧ b.n = 0 then
    let s := countBag k.id 0 false (freeCarrels pod b.carrel b.carrels s)
    let s := modPod pod (fun p => { p with bags := p.bags.filter (fun c => !(c.task == k.id && c.bag == b.bag)) }) s
    finishIfDone k.id (modDeal k.id b.bag dealDone s)
  else
    let r := bagRow p k b
    match (if gather then .ok r else finishFuse s k pod b.bag r) with
    | .error f => taskFault k.id pod 2 f s
    | .ok r =>
      let bad := b.nonfin || r.any fNonFinite
      let s := modBag pod k.id b.bag (fun b => { b with nonfin := bad }) (cbTouch pod (signNeed k.shard0) s)
      let s := if bagEnds b then countBag k.id b.n bad s else s
      pushPooled k pod b num (bagEnds b) r s

/-- It is a bag's turn to leave the Pool Unit: rows that go into tiles leave a Pod in the order of their adds, the bags of
a task in bag order and the tasks in the order of their admission, so that no row waits in its queue for one behind it
(R142; log 98). -/
def pushTurn (s : State) (k : Task) (pod bag : Nat) : Bool :=
  !addsTiles k.desc ||
  s.cfe.tasks.all (fun j => !addsTiles j.desc || !goesOn s j.id || decide (k.seq < j.seq) ||
    j.deals.all (fun x => x.pod != pod || x.passedG || (j.id == k.id && decide (bag ≤ x.bag))))

/-- A finished row can leave: the queue has room and it is the bag's turn, the sign vector is resident, the fused tensor
has come, and an earlier row of a GATHER has left its carrels. -/
def mayFinish (s : State) (k : Task) (pod : Nat) (b : Bag) : Bool :=
  let p := getPod s pod
  !hqFull p.hq1 && pushTurn s k pod b.bag && cbHeld p (signNeed k.shard0) && (dFuseOp k.desc == 0 || streamReady s k pod 2) &&
  !(dPool k.desc == 6 && p.hq1.items.any (fun h => h.task == k.id && h.block == b.bag))

/-- What the Pool Unit still holds of a bag whose task has ended leaves it as an ABORTED handle, with its carrels, once
there is room (R19). -/
def passAborted (pod t : Nat) (b : Bag) (s : State) : State :=
  withHq pod 1 (fun s =>
    if hqFull (getPod s pod).hq1 then s
    else
      let h : Handle := { st := .aborted, task := t, bag := b.bag, fold := (getTask s t).any (fun k => dOp k.desc == opFold),
                          carrel := b.carrel, carrels := b.carrels, block := b.bag }
      modPod pod (fun p => { p with bags := p.bags.filter (fun c => !(c.task == t && c.bag == b.bag)) }) (pushHandle pod 1 h s)) s

/-- LEAF_POOL: the next leaf of a bag is decoded and pooled; the last one, or an empty bag, finishes the bag's row. -/
def doLeafPool (pod t bag : Nat) (s : State) : State :=
  match bagTask s t, getBag s pod t bag with
  | none, some b => passAborted pod t b s
  | some k, some b =>
    if !podOn s pod [6, 8] ∨ dOp k.desc = opUpdate then s
    else withHq pod 0 (fun s => withHq pod 1 (fun s =>
      match takeOpen pod t bag s with
      | none => s
      | some s1 =>
        let p := getPod s pod
        match b.leaves[b.pooled]? with
        | none => if bagEnds b && mayFinish s k pod b then finishBag k pod b s1 else s
        | some l =>
          let b' := poolInto (dPool k.desc) l (poolVec p l) b
          let ends := bagEnds b' || dPool k.desc == 6
          if l.stage ≠ 2 ∨ !cbHeld p (cbNeed l.desc) ∨ (ends ∧ !mayFinish s k pod b') then s
          else
            let s := cbTouch pod (cbNeed l.desc) (modBag pod t bag (fun _ => b') (drawn s1))
            feed pod (if ends then finishBag k pod b' s else s)) s) s
  | _, _ => s

/-- LEAF_POOL (R128). -/
def execLeafPool (pod t bag : Nat) (s : State) : Host.Outcome State Fault Refusal := .next (doLeafPool pod t bag s)

end Sys2Proof.Machine
end

