-- ==== Sys2Proof/Machine/Export.lean ====
section
/-! DEFINITION. The stages after the Pool Unit, handle by handle: EXPORT and TILE_ADD (05, 06), and the latches, passes
and captures of the Fold Unit (07). -/

namespace Sys2Proof.Machine

/-! ## EXPORT and TILE_ADD (R142, R150, R187) -/

/-- A bag's last row or block has left: it has passed export, and a task whose bags all have is finished. -/
def leftBag (t bag : Nat) (s : State) : State := finishIfDone t (modDeal t bag (fun x => { x with passedX := true }) s)

/-- The end of a stage's work on a handle: its fault ends the task, and otherwise f goes on. -/
def stageEnd (k : Task) (pod : Nat) (x : State × StageFlt) (f : State → State) : State :=
  match x.2 with
  | none => f x.1
  | some flt => taskFault k.id pod flt.1 flt.2 x.1

/-- A finished row leaves its carrels from the Pool to Quantiser queue. -/
def sendPooled (k : Task) (pod : Nat) (h : Handle) (s : State) : State :=
  let r := carrelRow s pod h.carrel (sdDim k.shard0)
  stageEnd k pod (emitRow k pod h.block h.bag r (popHandle pod 1 s)) (fun s =>
    let s := freeCarrels pod h.carrel h.carrels s
    if h.carrels = 0 then s else leftBag k.id h.block s)

/-- A column block leaves from the Fold to export queue. -/
def sendFolded (k : Task) (pod : Nat) (h : Handle) (s : State) : State :=
  let x := sendBlock k pod h.latch h.block h.scale h.cols h.bag s
  let s := popHandle pod 2 x.1
  let s := modPod pod (fun p => { p with flu := { p.flu with unread := p.flu.unread - 1 } }) s
  stageEnd k pod (s, x.2) (fun s =>
    let s := modDeal k.id h.bag (fun x => { x with blocks := x.blocks + 1 }) s
    if h.block + 1 = foldBlocks (dFoldN k.desc) then leftBag k.id h.bag s else s)

/-- The oldest handle of a queue whose consumer is the export, with its task, if its output goes to tiles or not. -/
def exportHead (s : State) (pod q : Nat) (tiles : Bool) : Option (Handle × Task) :=
  match headHandle s pod q with
  | none => none
  | some h =>
    let st := if q = 2 then HState.folded else HState.pooled
    if h.st = st ∧ (q = 2 ∨ !h.fold) then
      match getTask s h.task with
      | some k => if dToTiles k.desc = tiles then some (h, k) else none
      | none => none
    else none

/-- The turn of a row that goes into tiles: every earlier operation has done with them, and the bags of the task before
its own have been added, a block of a projection after theirs of the same columns (R141, R142; log 98). -/
def addTurn (s : State) (k : Task) (bag : Nat) (block : Option Nat) : Bool :=
  tileTurn s k && k.deals.all (fun x => decide (bag ≤ x.bag) || x.passedX || block.any (fun b => decide (b < x.blocks)))

/-- The export of a Pod takes a FOLDED handle whose turn has come first, else a POOLED one. -/
def exportNext (pod : Nat) (tiles : Bool) (s : State) : State :=
  if !podOn s pod (if tiles then [6] else [8]) then s
  else withHq pod 2 (fun s => withHq pod 1 (fun s =>
    match (exportHead s pod 2 tiles).filter (fun c => !tiles || addTurn s c.2 c.1.bag (some c.1.block)) with
    | some (h, k) => sendFolded k pod h s
    | none =>
      match (exportHead s pod 1 tiles).filter (fun c => !tiles || addTurn s c.2 c.1.block none) with
      | some (h, k) => sendPooled k pod h s
      | none => s) s) s

/-- EXPORT (R150): the next finished row or block of a Pod is written in OUT_FMT. -/
def execExportRow (pod : Nat) (s : State) : Host.Outcome State Fault Refusal := .next (exportNext pod false s)

/-- TILE_ADD (R142): the next finished row or block of a Pod is added into its tiles, in its turn. -/
def execTileAdd (pod : Nat) (s : State) : Host.Outcome State Fault Refusal := .next (exportNext pod true s)

/-! ## Weight and scale loads (R178, R180 to R183, R192 to R194) -/

/-- The accesses of a task's weight load stream on a Pod. -/
def weightActs (s : State) (k : Task) (pod : Nat) : List SAct :=
  let w := dFoldW k.desc
  streamActs s k pod 4 ⟨w, w⟩ (wordReg false w) {} (sdDim k.shard0) (dFoldN k.desc) (wPitch k.desc) (weightAccesses k)

/-- The accesses of a task's scale load stream on a Pod. -/
def scaleActs (s : State) (k : Task) (pod : Nat) : List SAct :=
  let w := dFoldScale k.desc
  streamActs s k pod 5 ⟨w, w⟩ (wordReg false w) {} (dFoldN k.desc) 4 0 [(w, 4 * dFoldN k.desc)]

/-- Bytes at an address word, as a stream of class WEIGHTS reads them on a Pod: this engine's GDDR7 through the Pod's slice
(Table 10.1). -/
def readClass (asid pod w n : Nat) (s : State) : List Byte × State :=
  if awSpace w = 1 then stkRead pod 2 0 (awAddr w) n s else (loadAw s w n, hptRead asid w n s)

/-- The bytes of an access before the first one that cannot be read. -/
def bytesBefore (s : State) (aw : Option Nat) (n : Nat) : Nat :=
  match aw with
  | none => 0
  | some w => ((List.range n).takeWhile (fun i => (accessFlt s (w + i) 1).isNone)).length

/-- What a load stream has come to: its chunks, the bytes delivered, its fault, and the state. -/
structure LoadRun where
  chunks : List (Bool × List Byte) := []
  bytes : Nat := 0
  flt : Option Flt := none
  s : State

/-- The rows of a tile read, one access after the other. -/
def loadRows (asid pod width : Nat) : List (Option Nat) → List (List Byte) → LoadRun → LoadRun
  | [], rows, r => { r with chunks := r.chunks ++ [(true, tileBytes width rows.reverse)] }
  | aw :: rest, rows, r =>
    match actFlt r.s aw (4 * width) with
    | some f => { r with flt := some f, bytes := r.bytes + bytesBefore r.s aw (4 * width) }
    | none =>
      let x := readClass asid pod (aw.getD 0) (4 * width) r.s
      loadRows asid pod width rest (x.1 :: rows) { r with bytes := r.bytes + 4 * width, s := x.2 }

/-- Makes the accesses of a load stream on a Pod, up to its first fault (R117). -/
def loadActs (asid pod : Nat) : List SAct → LoadRun → LoadRun
  | [], r => r
  | .rd aw n :: rest, r =>
    (match actFlt r.s aw n with
     | some f => { r with flt := some f, bytes := r.bytes + bytesBefore r.s aw n }
     | none =>
       let x := readClass asid pod (aw.getD 0) n r.s
       loadActs asid pod rest { r with chunks := r.chunks ++ [(false, x.1)], bytes := r.bytes + n, s := x.2 })
  | .ix aw n :: rest, r =>
    (match actFlt r.s aw n with
     | some f => { r with flt := some f }
     | none => loadActs asid pod rest { r with s := hptRead asid (aw.getD 0) n r.s })
  | .wr _ _ :: rest, r => loadActs asid pod rest r
  | .tile rows width :: rest, r =>
    let x := loadRows asid pod width rows [] r
    if x.flt.isSome then x else loadActs asid pod rest x

/-- A load stream of a task on a Pod, with the fault of an empty slot. -/
def runLoad (k : Task) (pod kind : Nat) (acts : List SAct) (s : State) : LoadRun :=
  match streamSlot s k pod kind with
  | .empty => { flt := some emptySlot, s := s }
  | _ => loadActs (queueAsid s k.queue) pod acts { s := s }

/-- A stream of a Fold task's weights (kind 4) or scales (kind 5) faults on a Pod (R192): FLU_WLOAD_FAULT is raised with the
bytes that the weight load has delivered, and the task ends; with its end the halves that it was filling are empty. -/
def foldFault (k : Task) (pod kind : Nat) (f : Flt) (bytes : Nat) (s : State) : State :=
  taskFault k.id pod kind f (if f.st = stSproutInvalid then s else wloadFault k pod bytes (kind == 5) s)

/-- A task fills a Pod's half. -/
def filling (p : Pod) (k : Task) : Bool := (halfOf p (dBufHalf k.desc)).loading.contains k.id

/-- A pass of a Pod reads a half: the rows of its active set step through it. -/
def halfStepping (p : Pod) (h : Nat) : Bool := (p.flu.running || !p.flu.active.isEmpty) && (p.flu.cfg.map (·.1)).getD 0 == h

/-- The load of a task waits: a load into one of its Pods admitted earlier is still to be done (R181), a pass steps through
the half, or a task admitted earlier has not made its last pass with the half's contents (R183). The partner of a pair
loads the same tensor, and does not wait for the passes that they share (R191). -/
def loadWaits (s : State) (k : Task) : Bool :=
  let pods := loadPods s k
  s.cfe.tasks.any (fun j => dOp j.desc == opFold && goesOn s j.id && decide (j.seq < k.seq) &&
    ((!j.wLoaded && (taskPods j).any (fun p => (taskPods k).contains p)) ||
     (dBufHalf j.desc == dBufHalf k.desc && k.pair != some j.id && j.deals.any (fun x => pods.contains x.pod && !x.passedF)))) ||
  pods.any (fun p => halfStepping (getPod s p) (dBufHalf k.desc))

/-- A load begins: the half is being filled on every Pod whose contents are not the task's already; a PRELOADED task that
has to load is a miss (R183). -/
def beginLoad (k : Task) (s : State) : State :=
  let h := dBufHalf k.desc
  let pods := loadPods s k
  if pods.isEmpty then modTask k.id (fun k => { k with wLoaded := true }) s
  else
    let s := forEach (fun p s => modPod p (setHalf h { tag := none, loading := [k.id], w := [] }) s) pods s
    if dPreloaded k.desc then
      postEvent (qEvq s k.queue) evFluPreloadMiss k.queue 0 (dTag k.desc + h <<< 32 + pods.length <<< 48)
        (odCount odFluPreloadMisses pods.length s)
    else s

/-- The data of a load arrives: it is read once, on the lowest Pod of the task, and delivered to every half that the task
fills (R181), which then carries its tag; a fault ends the task (R192). -/
def endLoad (k : Task) (s : State) : State :=
  let lead := (taskPods k).headD 0
  let r := runLoad k lead 4 (weightActs s k lead) s
  let s := modTask k.id (fun k => { k with wBytes := r.bytes }) (odCount odFluWloadBytes r.bytes r.s)
  match r.flt with
  | some f => foldFault k lead 4 f r.bytes s
  | none =>
    let w := weightRows s k r.chunks
    let s := forEach (fun p s =>
      if filling (getPod s p) k then modPod p (setHalf (dBufHalf k.desc) { tag := some (foldTag k), loading := [], w := w }) s
      else s) podNums (drawn s)
    modTask k.id (fun k => { k with wLoaded := true }) s

/-- FOLD_WEIGHT_LOAD: the load of a task begins once it need not wait; of a load that has begun, the data arrives. -/
def doFoldWeightLoad (t : Nat) (s : State) : State :=
  match liveTask s t opFold with
  | none => s
  | some k =>
    if k.wLoaded ∨ wordsHeld s k.desc then s
    else if podNums.any (fun p => filling (getPod s p) k) then endLoad k s
    else if loadWaits s k then s
    else beginLoad k s

/-- FOLD_WEIGHT_LOAD (R181). -/
def execFoldWeightLoad (t : Nat) (s : State) : Host.Outcome State Fault Refusal := .next (doFoldWeightLoad t s)

/-- The column scales of task t in a Pod's scale store. -/
def storedScales (p : Pod) (t : Nat) : Option (List F32) := tabFind t p.flu.scales

/-- The scale store holds 65,536 values (R178): those of tasks that go on, and n more. -/
def scaleRoom (s : State) (p : Pod) (n : Nat) : Bool :=
  decide (sumOf (fun c => c.2.length) (p.flu.scales.filter (fun c => goesOn s c.1)) + n ≤ 65536)

/-- The column scales of a task are read into a Pod's scale store (R178), or fault (R192). -/
def loadScales (k : Task) (pod : Nat) (s : State) : State :=
  let n := dFoldN k.desc
  if !scaleRoom s (getPod s pod) n then s
  else
    let r := runLoad k pod 5 (scaleActs s k pod) s
    match r.flt with
    | some f => foldFault k pod 5 f k.wBytes r.s
    | none =>
      let b := fuseVec 0 n (delivered r.s (4 * n) r.chunks)
      let s := onGau (fun g => { g with streams := g.streams ++ [(k.id * 16 + pod, 5)] }) (drawn r.s)
      modPod pod (fun p => { p with flu := { p.flu with scales := tabPut k.id b (p.flu.scales.filter (fun c => goesOn s c.1)) } }) s

/-! ## Latches (R177, R184, R185) -/

/-- The configuration of a Fold task (R184): half, tag, IN_BITS, FOLD_SCALE_ADDR. -/
def foldCfg (k : Task) : Nat × (Nat × Nat × Nat × Nat) × Nat × Nat :=
  (dBufHalf k.desc, foldTag k, dInBits k.desc, dFoldScale k.desc)

/-- Changes the Fold Unit slice of a Pod. -/
def modFlu (pod : Nat) (f : Flu → Flu) (s : State) : State := modPod pod (fun p => { p with flu := f p.flu }) s

/-- A bag of task k may join a latch set that holds rows of other tasks: its own, or its pair partner's with the same
configuration (R119, R185). -/
def joinsSet (s : State) (k : Task) (set : List Latch) : Bool :=
  set.all (fun l => l.task == k.id || (k.pair == some l.task && (getTask s l.task).any (fun j => foldCfg j == foldCfg k)))

/-- LATCH_ROW_FILL: the oldest POOLED bag for the Fold Unit becomes a row of the shadow set, and its carrels are free. While
a group owns Fold tiles of the Pod the bag waits in its queue (R145). -/
def doLatchRowFill (pod : Nat) (s : State) : State :=
  if !podOn s pod [7, 8] then s
  else withHq pod 1 (fun s =>
    match headHandle s pod 1 with
    | none => s
    | some h =>
      match getTask s h.task with
      | none => s
      | some k =>
        let p := getPod s pod
        if h.st ≠ .pooled ∨ !h.fold ∨ foldOwned p ∨ 160 ≤ p.flu.shadow.length ∨ !joinsSet s k p.flu.shadow then s
        else
          let l := latchRow (dInBits k.desc) (carrelRow s pod h.carrel (sdDim k.shard0))
          let first := p.flu.shadow.isEmpty
          let wait := odGet s odFluFillWait
          let s := freeCarrels pod h.carrel h.carrels (popHandle pod 1 s)
          let s := modTask k.id (fun k => { k with sats := k.sats + l.2.2 }) s
          modFlu pod (fun f => { f with
            shadow := f.shadow ++ [{ task := k.id, bag := h.bag, a := l.1, codes := l.2.1 }],
            expired := if first then false else f.expired,
            fillWait := if first then wait else f.fillWait }) s) s

/-- LATCH_ROW_FILL (R177). -/
def execLatchRowFill (pod : Nat) (s : State) : Host.Outcome State Fault Refusal := .next (doLatchRowFill pod s)

/-! ## Passes (R185, R186, R189) -/

/-- The live tasks of a latch set. -/
def setTasks (s : State) (set : List Latch) : List Task := ((set.map (·.task)).eraseDups).filterMap (getTask s)

/-- A task of a set, or the partner of one, has a further bag for the Pod that is not in the set (R185). -/
def furtherBag (s : State) (pod : Nat) (set : List Latch) : Bool :=
  let ks := setTasks s set
  let partners := (ks.filterMap (fun k => k.pair)).filterMap (getTask s)
  (ks ++ partners).any (fun k => k.err.isNone && k.phase == .admitted &&
    k.deals.any (fun x => x.pod == pod && !x.passedF && !set.any (fun l => l.task == k.id && l.bag == x.bag)))

/-- The head of the queue belongs to another task, or names another configuration (R185). -/
def otherHead (s : State) (pod : Nat) (set : List Latch) : Bool :=
  match headHandle s pod 1 with
  | none => false
  | some h => h.st == .pooled && (!h.fold || (getTask s h.task).any (fun k => !joinsSet s k set))

/-- A handle of the set's tasks waits in the queue. -/
def handleWaits (s : State) (pod : Nat) (set : List Latch) : Bool :=
  (getPod s pod).hq1.items.any (fun h => set.any (fun l => l.task == h.task))

/-- The shadow set of a Pod may start: it is complete by R185, its weights are loaded, and no group owns Fold tiles of
the Pod (R145, R183). -/
def passReady (s : State) (pod : Nat) : Bool :=
  let p := getPod s pod
  let set := p.flu.shadow
  !set.isEmpty && !foldOwned p &&
  (decide (160 ≤ set.length) || !furtherBag s pod set || otherHead s pod set || p.flu.expired ||
    (p.flu.fillWait == 0 && !handleWaits s pod set)) &&
  (setTasks s set).all (fun k => k.err.isSome || (k.wLoaded && (halfOf p (dBufHalf k.desc)).tag == some (foldTag k)))

/-- The configuration of a latch set; that of the last pass where every task of it has gone. -/
def setCfg (s : State) (pod : Nat) (set : List Latch) : Option (Nat × (Nat × Nat × Nat × Nat) × Nat × Nat) :=
  match setTasks s set with
  | [] => (getPod s pod).flu.cfg
  | k :: _ => some (foldCfg k)

/-- FOLD_PASS_START: the shadow set becomes the active one and its first column pass steps, with a ramp from idle or
after a change of layer. -/
def doFoldPassStart (pod : Nat) (s : State) : State :=
  let f := (getPod s pod).flu
  if !podOn s pod [7] ∨ f.running ∨ !f.active.isEmpty ∨ !passReady s pod then s
  else
    let cfg := setCfg s pod f.shadow
    let ramp := f.idle || f.cfg != cfg
    let s := if ramp then odCount odFluRamps 1 (odCount odFluActiveCycles 45 s) else s
    modFlu pod (fun f => { f with
      active := f.shadow, shadow := [], running := true, block := 0, cfg := cfg, expired := false, idle := false }) s

/-- FOLD_PASS_START (R185). -/
def execFoldPassStart (pod : Nat) (s : State) : Host.Outcome State Fault Refusal := .next (doFoldPassStart pod s)

/-- FOLD_FILL_WAIT_EXPIRY: the fill wait of the shadow set has passed, and the pass starts with the rows filled as soon
as the array is free. -/
def doFoldFillWaitExpiry (pod : Nat) (s : State) : State :=
  if (getPod s pod).flu.shadow.isEmpty then s
  else doFoldPassStart pod (modFlu pod (fun f => { f with expired := true }) s)

/-- FOLD_FILL_WAIT_EXPIRY (R185). -/
def execFoldFillWaitExpiry (pod : Nat) (s : State) : Host.Outcome State Fault Refusal := .next (doFoldFillWaitExpiry pod s)

/-! ## Captures (R186, R187) -/

/-- The handles of a capture, one for each filled row: FOLDED with the row's a and the block's column scales, or ABORTED for
a row whose task has ended (R187, R191). -/
def foldedHandles (s : State) (pod block : Nat) (set : List Latch) : List Handle :=
  set.zipIdx.map (fun c =>
    let gone := c.1.aborted || !goesOn s c.1.task
    let b := (storedScales (getPod s pod) c.1.task).getD []
    { st := if gone then .aborted else .folded, task := c.1.task, bag := c.1.bag, fold := true, carrel := 0, carrels := 0,
      latch := c.2, block := block, scale := c.1.a, cols := if gone then [] else (b.drop (1024 * block)).take 1024 })

/-- The column scales of every row of a set whose task goes on are in the Pod's store. -/
def scalesHere (s : State) (pod : Nat) (set : List Latch) : Bool :=
  set.all (fun l => l.aborted || !goesOn s l.task || (storedScales (getPod s pod) l.task).isSome)

/-- Columns of the layer that a Pod runs. -/
def layerCols (f : Flu) : Nat := (f.cfg.map (fun c => c.2.1.2.2.2)).getD 1024

/-- FOLD_CAPTURE: at the end of a column pass, with the last capture read and the column scales come, the accumulators go
into the Fold tiles and the handles of the filled rows are pushed; after the last block the set is done. -/
def doFoldCapture (pod : Nat) (s : State) : State :=
  withHq pod 2 (fun s =>
    let p := getPod s pod
    let f := p.flu
    let hs := foldedHandles s pod f.block f.active
    if !f.running ∨ f.unread ≠ 0 ∨ !scalesHere s pod f.active ∨ 256 < p.hq2.items.length + hs.length ∨ !podOn s pod [7] then s
    else
      let half := halfOf p ((f.cfg.map (·.1)).getD 0)
      let bits := (f.cfg.map (fun c => c.2.2.1)).getD 8
      let d := (f.cfg.map (fun c => c.2.1.2.2.1)).getD 0
      let s := captureTiles pod (f.active.map (fun l => foldAcc f.block l.codes half.w)) s
      let s := odCount odFluPartialPasses (bit (decide (f.active.length < 160))) (odCount odFluPasses 1 s)
      let s := odCount odFluActiveCycles (d * foldCycles bits) s
      let s := forEach (fun h s => pushHandle pod 2 h s) hs s
      let s := modFlu pod (fun f => { f with unread := hs.length, block := f.block + 1 }) s
      if f.block + 1 < foldBlocks (layerCols f) then s
      else
        let s := forEach (fun l s => modDeal l.task l.bag (fun x => { x with passedF := true }) s) f.active s
        let idle := !passReady s pod
        modFlu pod (fun f => { f with active := [], running := false, idle := idle }) s) s

/-- FOLD_CAPTURE (R186). -/
def execFoldCapture (pod : Nat) (s : State) : Host.Outcome State Fault Refusal := .next (doFoldCapture pod s)

end Sys2Proof.Machine
end

