-- ==== Sys2Proof/Machine/Update.lean ====
section
/-! DEFINITION. UPDATE at the sender (08): windows and their row gradients (R195 to R199), parcels and their release
(R200 to R205), and sending (R204, R206). An UPDATE as a whole task runs the same stages over all of its bags. -/

namespace Sys2Proof.Machine

/-! ## Parcels (Tables 8.1 and 8.2) -/

/-- SEQ. -/
def phSeq (h : BitVec 256) : Nat := bitsOf h.toNat 47 0
/-- SOURCE. -/
def phSource (h : BitVec 256) : Nat := bitsOf h.toNat 57 48
/-- OWNER. -/
def phOwner (h : BitVec 256) : Nat := bitsOf h.toNat 67 58
/-- KIND: 1 is a row write. -/
def phWrite (h : BitVec 256) : Bool := bitOf h.toNat 96
/-- QUANT. -/
def phQuant (h : BitVec 256) : Bool := bitOf h.toNat 97
/-- REPLACE. -/
def phReplace (h : BitVec 256) : Bool := bitOf h.toNat 98
/-- PFMT. -/
def phFmt (h : BitVec 256) : Nat := bitsOf h.toNat 105 104
/-- OPT. -/
def phOpt (h : BitVec 256) : Nat := bitsOf h.toNat 109 106
/-- COUNT. -/
def phCount (h : BitVec 256) : Nat := bitsOf h.toNat 124 112
/-- TABLE_ID. -/
def phTable (h : BitVec 256) : Nat := bitsOf h.toNat 143 128
/-- STEP. -/
def phStep (h : BitVec 256) : Nat := bitsOf h.toNat 223 192
/-- LR. -/
def phLr (h : BitVec 256) : F32 := BitVec.ofNat 32 (bitsOf h.toNat 255 224)
/-- A header with bits [hi:lo] replaced. -/
def phSet (h : BitVec 256) (hi lo v : Nat) : BitVec 256 := BitVec.ofNat 256 (setBits h.toNat hi lo v)

/-- The bytes of an entry after its first eight, padded to a multiple of 8. -/
def entryBytes (e : PEntry) : List Byte :=
  leBytes 8 (e.row % 2 ^ 40 + (bit e.dflt) <<< 40) ++ sliceBytes 0 (roundUp e.data.length 8) e.data

/-- The bytes of a parcel. -/
def parcelBytes (p : Parcel) : List Byte := leBytes 32 p.hdr.toNat ++ p.entries.flatMap entryBytes

/-- The size of a parcel. -/
def parcelSize (p : Parcel) : Nat := 32 + sumOf (fun e => 8 + roundUp e.data.length 8) p.entries

/-- The bytes of n entries of `size` bytes of data each. -/
def readEntries (size : Nat) : Nat → List Byte → List PEntry
  | 0, _ => []
  | n + 1, bs =>
    let h := numAt 0 8 bs
    { row := h % 2 ^ 40, dflt := bitOf h 40, data := sliceBytes 8 size bs } ::
      readEntries size n (bs.drop (8 + roundUp size 8))

/-- The data bytes of an entry, by the header and the table's descriptor (Table 8.2). -/
def entrySize (h : BitVec 256) (x : BitVec 512) : Nat :=
  if phWrite h then (if phQuant h then 4 * sdDim x else rowS x)
  else match phFmt h with
    | 0 => 4 * sdDim x
    | 1 => 2 * sdDim x
    | _ => 4 + sdDim x

/-- The parcel in received bytes, read under the owner's own descriptor of shard 0. -/
def readParcel (s : State) (bs : List Byte) : Parcel :=
  let h := BitVec.ofNat 256 (numAt 0 32 bs)
  { hdr := h, entries := readEntries (entrySize h (shard0Of s (phTable h))) (phCount h) (bs.drop 32) }

/-! ## The Ledger region as a sender (R204, R205, Table 8.8) -/

/-- Where the sender state of an owner lies. -/
def senderAddr (s : State) (owner : Nat) : Nat := s.upu.ledgerBase + 0x404000 + 16 * owner

/-- The next SEQ toward an owner. -/
def nextSeq (s : State) (owner : Nat) : Nat := tabGet owner 0 s.upu.sent + 1

/-- The retained parcels of an owner, oldest first. -/
def retainedOf (s : State) (owner : Nat) : List Retained := (s.upu.ring.filter (fun r => r.1 == owner)).map (·.2)

/-- The bytes that the retention ring holds (R205). -/
def ringSize (s : State) : Nat := s.upu.retainSize * 2 ^ 20

/-- Writes the retention ring's pointers through, each twice (R56, R205): the byte of the oldest retained parcel, and that at
which the next one goes in (log 99). -/
def putRing (s : State) : State :=
  let t := s.upu.ringTail
  let h := (s.upu.ring.head?.map (·.2.pos)).getD t
  gddrStore (s.upu.ledgerBase + 0x408000) (leBytes 8 h ++ leBytes 8 h ++ leBytes 8 t ++ leBytes 8 t) s

/-- Writes the sender state of an owner through: the next SEQ and the oldest unacknowledged one, with the ring's pointers. -/
def putSender (owner : Nat) (s : State) : State :=
  let n := nextSeq s owner
  putRing (gddrStore (senderAddr s owner) (leBytes 8 n ++ leBytes 8 (((retainedOf s owner).head?.map (·.seq)).getD n)) s)

/-- Bytes go into the retention ring from its tail on, and round its end (log 99). -/
def intoRing (bs : List Byte) (s : State) : State :=
  let t := s.upu.ringTail
  let room := ringSize s - t
  let base := s.upu.retainBase
  let s := gddrStore base (bs.drop room) (gddrStore (base + t) (bs.take room) s)
  onUpu (fun u => { u with ringTail := (t + bs.length) % ringSize s }) s

/-- The bytes of released parcels in the retention ring. -/
def ringBytes (s : State) : Nat := sumOf (fun r => parcelSize r.2.parcel) s.upu.ring

/-- Brings UPU_RETAINED_BYTES up to date. -/
def showRing (s : State) : State := odSet odUpuRetainedBytes (ringBytes s) s

/-! ## Update windows (R197, R198, R224) -/

/-- The window entries of task t on a Pod. -/
def windowOf (s : State) (pod t : Nat) : List WinEntry := tabGet t [] (getPod s pod).uwin

/-- Every index of the task dealt to a Pod has been taken. -/
def podTaken (s : State) (k : Task) (pod : Nat) : Bool :=
  (k.deals.filter (fun x => x.pod == pod)).all (·.started) &&
  (getPod s pod).bags.all (fun b => b.task != k.id || b.taken == b.n)

/-- A Pod has work of the task before its windows are all closed. -/
def podOpen (s : State) (k : Task) (pod : Nat) : Bool :=
  k.deals.any (fun x => x.pod == pod && !x.passedX) || !(windowOf s pod k.id).isEmpty

/-- With ORDERED, it is a Pod's turn to give a window: every Pod before it has given its window of this round, and
every Pod after it that of the round before (R224). -/
def windowTurn (s : State) (k : Task) (pod : Nat) : Bool :=
  let n (p : Nat) : Nat := tabGet p 0 k.windows
  !dOrdered k.desc || podNums.all (fun q => q == pod || !podOpen s k q ||
    decide (n pod < n q) || (n q == n pod && decide (pod < q)))

/-- The distinct rows of at most n window entries in the order of their first occurrence, each with its index
gradients. -/
def windowRows : Nat → List WinEntry → List (Option Nat × List (List F32))
  | 0, _ => []
  | _, [] => []
  | n + 1, e :: rest =>
    (e.row, e.grad :: (rest.filter (fun x => x.row == e.row)).map (·.grad)) ::
      windowRows n (rest.filter (fun x => x.row != e.row))

/-- A row gradient leaves its window: to parcel assembly, or with DEEP to its combine Pod (R199). -/
def sendGrad (k : Task) (g : RowGrad) (s : State) : State :=
  if dDeep k.desc then
    modPod (standIn s (g.row % 16)) (fun p => { p with combIn := p.combIn ++ [(k.id, g)] }) s
  else modTask k.id (fun k => { k with grads := k.grads ++ [g] }) s

/-- The descriptor of a row that leaves a window, from the cache or, after a miss, from the array (R198; log 38). -/
def askUpdate (t row : Nat) (s : State) : State :=
  let e := dirAt s t
  useDesc (shardIndex e (shardOf e row)) s

/-- One distinct row of a window becomes a row gradient for its owner. -/
def windowRow (k : Task) (pod : Nat) (r : Option Nat × List (List F32)) (s : State) : State :=
  if !goesOn s k.id then s
  else
    let t := dTable k.desc
    let g := treeGo false (sdDim k.shard0) [] none r.2
    let s := odCount odUpuCoalesced (r.2.length - 1) s
    match r.1 with
    | none => sendGrad k { row := 0, dflt := true, owner := defaultHome s t, g := g } s
    | some row =>
      let s := askUpdate t row s
      let e := dirAt s t
      let x := descAt s (shardIndex e (shardOf e row))
      match shardFlt k t x with
      | some f => taskFault k.id pod 0 f s
      | none => sendGrad k { row := row, dflt := false, owner := sdHome x, g := g } s

/-- Every window of a task has closed, on every Pod. -/
def windowsDone (s : State) (k : Task) : Bool := podNums.all (fun p => !podOpen s k p)

/-- No row gradient is on its way to a combine Pod. -/
def combInEmpty (s : State) (t : Nat) : Bool := podNums.all (fun p => !(getPod s p).combIn.any (fun c => c.1 == t))

/-- The combine sets of a task become its row gradients, Pod by Pod, once nothing more can arrive (R199). -/
def flushDeep (t : Nat) (s : State) : State :=
  match getTask s t with
  | none => s
  | some k =>
    if windowsDone s k && combInEmpty s t then
      let sets := podNums.flatMap (fun p => ((getPod s p).comb.filter (fun c => c.1 == t)).map (·.2))
      if sets.isEmpty then s
      else
        let s := onPods (fun ps => ps.map (fun p => (p.1, { p.2 with
          comb := p.2.comb.filter (fun c => c.1 != t), carrels := p.2.carrels.filter (fun c => c.2 != t) }))) s
        modTask t (fun k => { k with grads := k.grads ++ sets }) s
    else s

/-- A Pod whose indices of a task are all taken, with no window left, has passed every phase. -/
def retirePodBags (t pod : Nat) (s : State) : State :=
  match getTask s t with
  | none => s
  | some k =>
    if podTaken s k pod && (windowOf s pod t).isEmpty then
      modTask t (fun k => { k with deals := k.deals.map (fun x => if x.pod = pod then dealDone x else x) })
        (modPod pod (fun p => { p with bags := p.bags.filter (fun b => b.task != t),
                                       uwin := p.uwin.filter (fun u => u.1 != t) }) s)
    else s

/-- A window of at most 65,536 entries closes; an index that was discarded counts among them and gives no row (R197). -/
def closeWindow (k : Task) (pod : Nat) (s : State) : State :=
  let es := windowOf s pod k.id
  let now := es.take segmentLen
  let s := modPod pod (fun p => { p with uwin := tabPut k.id (es.drop segmentLen) p.uwin }) s
  let s := if now.isEmpty then s
    else modTask k.id (fun k => { k with windows := tabMod pod 0 (· + 1) k.windows }) s
  let s := forEach (fun r s => windowRow k pod r s) (windowRows segmentLen (now.filter (fun e => !e.discard))) s
  flushDeep k.id (retirePodBags k.id pod s)

/-- UPDATE_WINDOW_CLOSE: a window that is full, or that holds the task's last indices on the Pod, closes in its turn. -/
def doUpdateWindowClose (pod t : Nat) (s : State) : State :=
  match liveTask s t opUpdate with
  | none => s
  | some k =>
    let full := decide (segmentLen ≤ (windowOf s pod t).length)
    if k.err.isSome ∨ !podOpen s k pod ∨ !(full || podTaken s k pod) ∨ !windowTurn s k pod then s
    else closeWindow k pod s

/-- UPDATE_WINDOW_CLOSE (R198). -/
def execUpdateWindowClose (pod t : Nat) (s : State) : Host.Outcome State Fault Refusal := .next (doUpdateWindowClose pod t s)

/-! ## DEEP_COMBINE (R199) -/

/-- An arriving row gradient is added into its row's set, opens one, or is passed on where no carrels are free. -/
def combineOne (t pod : Nat) (s : State) : State :=
  let p := getPod s pod
  match p.combIn.find? (fun c => c.1 == t), getTask s t with
  | some (_, g), some k =>
    let s := modPod pod (fun p => { p with combIn := p.combIn.eraseP (fun c => c.1 == t) }) s
    let same (c : Nat × RowGrad) : Bool := c.1 == t && c.2.row == g.row && c.2.dflt == g.dflt
    if p.comb.any same then
      odCount odUpuCoalesced 1 (modPod pod (fun p => { p with
        comb := p.comb.map (fun c => if same c then (c.1, { c.2 with g := vAdd false c.2.g g.g }) else c) }) s)
    else
      let n := bagCarrels (sdDim k.shard0)
      match carrelRun p n with
      | some c => modPod pod (fun p => { p with
          comb := p.comb ++ [(t, g)], carrels := p.carrels ++ (List.range n).map (fun i => (c + i, t)) }) s
      | none => odCount odUpuDeepSpills 1 (modTask t (fun k => { k with grads := k.grads ++ [g] }) s)
  | _, _ => s

/-- DEEP_COMBINE: a combine Pod takes the next row gradient of a task. -/
def doDeepCombine (pod t : Nat) (s : State) : State :=
  match liveTask s t opUpdate with
  | none => s
  | some k => if k.err.isSome ∨ !(getPod s pod).up then s else flushDeep t (combineOne t pod s)

/-- DEEP_COMBINE (R199). -/
def execDeepCombine (pod t : Nat) (s : State) : Host.Outcome State Fault Refusal := .next (doDeepCombine pod t s)

/-! ## ROW_GRADIENT_PACK (R156, R200, R201, R203) -/

/-- The residual array of a table with an enabled slot (R155). -/
def residBase (s : State) (table : Nat) : Option Nat :=
  (s.gau.resid.find? (fun r => bitsOf r.2 15 0 == table && bitOf r.2 16)).map (fun r => bitsOf r.2 127 64)

/-- A task whose work goes through the Ledger. -/
def viaLedger (k : Task) : Bool := dOp k.desc == opUpdate || (dOp k.desc == opRowWrite && sdTrain k.shard0)

/-- A ROW_WRITE that does not go through the Ledger is done once its last row is in place, here or at another home. -/
def rowsDone (t : Nat) (s : State) : State :=
  match getTask s t with
  | none => s
  | some k =>
    if k.phase == .admitted && k.err.isNone && k.copyPos == rwCount k.desc && !viaLedger k && k.unacked == 0 &&
        !s.cat.pend.any (fun w => w.task == some t) then
      finishTask t s
    else s

/-- The header of a task's parcels to an owner, but for COUNT and SEQ. -/
def headerFor (s : State) (k : Task) (owner : Nat) : BitVec 256 :=
  let d := k.desc
  let upd := dOp d == opUpdate
  let own := owner == s.sfp.engineId
  let pf := if !upd || own then 0 else bitsOf (optSlot s (dOpt d)) 9 8
  BitVec.ofNat 256 ((s.sfp.engineId % 1024) <<< 48 + (owner % 1024) <<< 58 + (bit (!upd)) <<< 96 +
    (if upd then 0 else (bit (rwQuant d)) <<< 97 + (bit (rwReplace d)) <<< 98) + pf <<< 104 +
    (if upd then (dOpt d) <<< 106 else 0) + (dTable d % 65536) <<< 128 + (s.sfp.epoch % 2 ^ 32) <<< 160 +
    (if upd then (dStep d) <<< 192 + (dLr d).toNat <<< 224 else 0))

/-- A parcel takes no further entry of a row and of so many bytes (R200). -/
def parcelShut (p : Parcel) (row : Nat) (dflt : Bool) (size : Nat) : Bool :=
  decide (4096 ≤ p.entries.length) || decide (2 ^ 20 < parcelSize p + 8 + roundUp size 8) ||
  p.entries.any (fun x => x.row == row && x.dflt == dflt)

/-- The parcel of an owner that the next entry for a row joins, with its place: none where the entry opens the next one. The
entry has the format of the parcel that it joins (R203). -/
def openParcel (k : Task) (owner row : Nat) (dflt : Bool) (ps : List Parcel) : Option (Parcel × Nat) :=
  ((ps.zipIdx.filter (fun c => phOwner c.1.hdr == owner)).getLast?).filter
    (fun c => !parcelShut c.1 row dflt (entrySize c.1.hdr k.shard0))

/-- The header of the parcel that an entry goes into: the open one's, or that of one opened now. -/
def entryHdr (s : State) (k : Task) (owner row : Nat) (dflt : Bool) : BitVec 256 :=
  match openParcel k owner row dflt k.pendingParcels with
  | some c => c.1.hdr
  | none => headerFor s k owner

/-- Adds an entry to a parcel. -/
def parcelAdd (e : PEntry) (p : Parcel) : Parcel :=
  { hdr := phSet p.hdr 124 112 (p.entries.length + 1), entries := p.entries ++ [e] }

/-- Pending parcels with an entry for an owner: it joins the owner's last parcel, or opens the next one. -/
def packEntry (s : State) (k : Task) (owner : Nat) (e : PEntry) (ps : List Parcel) : List Parcel :=
  match openParcel k owner e.row e.dflt ps with
  | some (p, i) => ps.set i (parcelAdd e p)
  | none => ps ++ [parcelAdd e { hdr := headerFor s k owner, entries := [] }]

/-- Puts an entry of a task into its parcels; a task whose pending parcels exceed UPU_TASK_LIMIT ends (R201). -/
def packFor (k : Task) (owner : Nat) (e : PEntry) (resid : Option (Nat × List F32)) (s : State) : State :=
  let s := modTask k.id (fun k => { k with
    pendingParcels := packEntry s k owner e k.pendingParcels,
    resids := match resid with
      | none => k.resids
      | some r => k.resids.filter (fun x => x.1 != r.1) ++ [r] }) s
  let size := sumOf parcelSize (((getTask s k.id).map (·.pendingParcels)).getD [])
  let lim := odGet s odUpuTaskLimit
  if lim * 2 ^ 20 < size then
    taskFault k.id (faultPod k) 8 ⟨stAbortedFault, 6, cdiv size (2 ^ 20) % 2 ^ 32 + (lim % 2 ^ 31) <<< 32⟩ s
  else s

/-- The residual of a row as it stands: what this task holds for it, else the array's. -/
def residAt (s : State) (k : Task) (a dim : Nat) : List F32 :=
  match k.resids.find? (fun r => r.1 == a) with
  | some r => r.2
  | none => fuseVec 0 dim (gddrLoad s a (4 * dim))

/-- Where the residual of a row gradient lies: none where it is not packed narrow, where its table has no enabled slot, and for
the default row, which has no row of the residual array (R155, R156; log 98). -/
def residPlace (s : State) (k : Task) (g : RowGrad) : Option Nat :=
  if phFmt (entryHdr s k g.owner g.row g.dflt) < 2 ∨ g.dflt then none
  else (residBase s (dTable k.desc)).map (fun b => b + 4 * (g.row * sdDim k.shard0))

/-- Packs a row gradient in its parcel format, with the residual carry of R156. -/
def packGrad (k : Task) (g : RowGrad) (s : State) : State :=
  let dim := sdDim k.shard0
  let pf := phFmt (entryHdr s k g.owner g.row g.dflt)
  let f := if pf = 2 then 5 else if pf = 3 then 3 else pf
  let at_ := residPlace s k g
  let v := match at_ with
    | none => g.g
    | some a => List.zipWith (fAdd true) g.g (residAt s k a dim)
  let e := exportRow f v
  let s := if pf = 0 then s else countExport k.id (decide (2 ≤ pf)) e s
  let data := if pf = 0 then v.flatMap (fun x => leBytes 4 x.toNat) else if pf = 1 then e.bytes else e.bytes.take (4 + dim)
  let res := at_.map (fun a => (a, List.zipWith (fun x c => fSub true x (fMul true e.scale c)) v e.codes))
  packFor k g.owner { row := g.row, dflt := g.dflt, data := data } res s

/-- A task's parcels are complete: nothing of it is still to be packed. -/
def packed (s : State) (k : Task) : Bool :=
  if dOp k.desc = opUpdate then
    windowsDone s k && combInEmpty s k.id && k.grads.isEmpty && podNums.all (fun p => !(getPod s p).comb.any (fun c => c.1 == k.id))
  else k.copyPos == rwCount k.desc

/-- A task that may still pack or release parcels. -/
def staging (k : Task) : Bool := k.phase == .admitted && k.err.isNone && viaLedger k && !k.released

/-- The bytes in the retention ring: the released parcels, and the staging areas of the tasks that a test selects (R205). -/
def ringUsed (s : State) (f : Task → Bool) : Nat :=
  ringBytes s + sumOf (fun j => sumOf parcelSize j.pendingParcels) (s.cfe.tasks.filter (fun j => staging j && f j))

/-- The retention ring has room for the parcels of a task and of those admitted before it (R205; log 99). -/
def ringRoom (s : State) (k : Task) : Bool := decide (ringUsed s (fun j => decide (j.seq ≤ k.seq)) ≤ ringSize s)

/-- Staging goes on for a task: no task before it waits for room to release, and the ring has room for what is staged beside the
first task's (R205; log 99). -/
def mayPack (s : State) (k : Task) : Bool :=
  let before := s.cfe.tasks.filter (fun j => staging j && decide (j.seq < k.seq))
  before.isEmpty || (!before.any (fun j => packed s j && !ringRoom s j) && decide (ringUsed s (fun _ => true) < ringSize s))

/-- An UPDATE still to release packs a row, as far as its indices have been taken; until they all have, it may (R156). -/
def packsRow (s : State) (j : Task) (row : Nat) : Bool :=
  let mine (c : Nat × RowGrad) : Bool := c.1 == j.id && !c.2.dflt && c.2.row == row
  podNums.any (fun p => !podTaken s j p ||
    (windowOf s p j.id).any (fun e => e.row == some row && !e.discard) ||
    (getPod s p).combIn.any mine || (getPod s p).comb.any mine) ||
  j.grads.any (fun g => !g.dflt && g.row == row) ||
  j.pendingParcels.any (fun p => p.entries.any (fun e => !e.dflt && e.row == row))

/-- The packing of a row with a residual waits for every task admitted earlier that packs the same row (R156). -/
def residWaits (s : State) (k : Task) (g : RowGrad) : Bool :=
  (residPlace s k g).isSome &&
  s.cfe.tasks.any (fun j => staging j && dOp j.desc == opUpdate && decide (j.seq < k.seq) &&
    dTable j.desc == dTable k.desc && packsRow s j g.row)

/-- Packs the next row gradient of a task. -/
def packOne (t : Nat) (s : State) : State :=
  match liveTask s t opUpdate with
  | none => s
  | some k =>
    match k.grads with
    | [] => s
    | g :: rest =>
      if k.err.isSome ∨ !mayPack s k ∨ residWaits s k g then s
      else packGrad k g (modTask t (fun k => { k with grads := rest }) s)

/-- ROW_GRADIENT_PACK (R200). -/
def execRowGradientPack (t : Nat) (s : State) : Host.Outcome State Fault Refusal := .next (packOne t s)

/-! ## PARCEL_RELEASE (R201, R202, R205, R253) -/

/-- No parcel released under an older epoch than a task's parcels is unacknowledged (R253). -/
def epochsClear (s : State) (k : Task) : Bool :=
  s.upu.ring.all (fun r => k.pendingParcels.all (fun p => !epochOlder (phEpoch r.2.parcel.hdr) (phEpoch p.hdr)))

/-- A parcel takes the next sequence of its pair and goes into the retention ring, at its tail. -/
def retain (t : Nat) (fwd : Option (Nat × Nat)) (p : Parcel) (s : State) : State :=
  let o := phOwner p.hdr
  let n := nextSeq s o
  let q : Parcel := { p with hdr := phSet p.hdr 47 0 n }
  let r : Retained := { seq := n, task := t, parcel := q, pos := s.upu.ringTail, fwd := fwd }
  sayTwin [3, twinKey o, n, r.pos, 0] (parcelBytes q) <|
    putSender o (intoRing (parcelBytes q) (onUpu (fun u => { u with sent := tabPut o n u.sent, ring := u.ring ++ [(o, r)] }) s))

/-- Releases every parcel of a task at once, with its residuals. -/
def releaseTask (k : Task) (s : State) : State :=
  let s := forEach (fun p s => retain k.id none p s) k.pendingParcels s
  let s := forEach (fun r s => gddrStore r.1 (r.2.flatMap (fun x => leBytes 4 x.toNat)) s) k.resids s
  let s := odCount odUpuParcelsSent k.pendingParcels.length s
  let now := folio s
  let s := modTask k.id (fun j => { j with
    released := true, unacked := k.pendingParcels.length, pendingParcels := [], resids := [], finishFolio := some now }) s
  showRing (if k.pendingParcels.isEmpty then finishTask k.id s else s)

/-- PARCEL_RELEASE: a task whose last parcel has closed releases, once the ring has room. -/
def doParcelRelease (t : Nat) (s : State) : State :=
  match getTask s t with
  | none => s
  | some k =>
    if k.phase != .admitted || k.err.isSome || k.released || !viaLedger k || !packed s k || gated s 9 || !epochsClear s k then s
    else if !ringRoom s k then odCount odUpuRetainStalls 1 s
    else releaseTask k s

/-- PARCEL_RELEASE (R201). -/
def execParcelRelease (t : Nat) (s : State) : Host.Outcome State Fault Refusal := .next (doParcelRelease t s)

end Sys2Proof.Machine
end

