-- ==== Sys2Proof/Machine/Quantise.lean ====
section
/-! DEFINITION. A stored row written from FP32 on its Pod (R157, R166, R169), and a row write put into its place at its
home (R230, R231, R238). -/

namespace Sys2Proof.Machine

/-- A row at its home: descriptor index, descriptor, row, position, and whether it is the LEARNED default row. -/
structure RowCtx where
  idx : Nat
  x : BitVec 512
  row : Nat
  pos : Nat
  dflt : Bool := false
  deriving DecidableEq, Repr

/-- The task of this engine that a parcel header came from, while it is kept (R202, R204). -/
def hdrTask (s : State) (h : BitVec 256) : Option Task :=
  if phSource h = s.sfp.engineId ∧ phOwner h = s.sfp.engineId then
    ((s.upu.ring.find? (fun r => r.1 == s.sfp.engineId && r.2.seq == phSeq h && r.2.fwd.isNone)).map (·.2.task)).bind (getTask s)
  else none

/-- The policy of a table for the entries of a parcel (R157): RESCALE where its bit of QNT_RESCALE was set when the task
was admitted; for a task that this engine does not hold, as the bit stands. -/
def rescales (s : State) (h : BitVec 256) (t : Nat) : Bool :=
  match hdrTask s h with
  | some k => k.rescale
  | none => bitOf (odGet s odQntRescale) t

/-- The clipped codes and escapes of a row encoded for a task count in its record (R80, R169). -/
def countFor (s0 : State) (h : BitVec 256) (e : Encoded) (s : State) : State :=
  match hdrTask s0 h with
  | some k => modTask k.id (fun j => { j with
      sats := j.sats + e.sats, escapes := j.escapes + (if phWrite h then e.side.length else 0) }) s
  | none => s

/-- The Quantiser's encoding of a row on a Pod, with the codebook set and the sign vector resident there (R162, R167, R168):
derive asks for R158 by policy or REPLACE, against a husk. -/
def quantised (s : State) (pod : Nat) (c : RowCtx) (derive : Bool) (husk : Nat) (xs : List F32) : Encoded :=
  let p := getPod s pod
  encodeRow c.x derive (!c.dflt && decide (c.pos < 2 ^ 26)) husk (BitVec.ofNat 32 (odGet s odQntEscRatio))
    (cbBytes p (signNeed c.x)) (cbBytes p (cbNeed c.x)) xs

/-- The Pod of this engine that does the work on a row at its home (R213). -/
def homePod (s : State) (row : Nat) : Nat := standIn s (row % 16)

/-- Counts an encoded row on a Pod, in the statistics of its shard (R169, R171). -/
def countStored (pod : Nat) (c : RowCtx) (e : Encoded) (s : State) : State :=
  let idx := c.idx
  let s := cbUsed pod c.x s
  let s := onGau (fun g => { g with sats := g.sats + e.sats, ress := g.ress + bit e.resLoss }) s
  let s := odCount odQntEscDropped e.dropped (odCount odQntConstRows (bit e.const) s)
  if e.sats = 0 ∧ !e.resLoss then s
  else modPod pod (fun p =>
    let q := tabGet idx (0, 0) p.qstats
    { p with qstats := tabPut idx (q.1 + e.sats, q.2 + bit e.resLoss) p.qstats }) s

/-- The side-list slot of a row encoded against a current husk, with its address and bytes: none without escapes. -/
def sideFor (c : RowCtx) (husk : Nat) (e : Encoded) : Option (Nat × List Byte) :=
  if e.side.isEmpty then none else some (sideAddr c.x (sideSlot c.pos husk), buildSide c.x e.side)

/-- The stored row at a position under a base; none for an absent row of a shelved shard. -/
def currentRow (s : State) (x : BitVec 512) (base pos : Nat) : Option (List Byte) :=
  if sdShelved x then
    let m := leNat (tierLoad s (sdTier x) (rowAddr x base pos) 8)
    if smTier m < 2 then some (tierLoad s (smTier m) (32 * smLoc m) (rowS x)) else none
  else some (tierLoad s (sdTier x) (rowAddr x base pos) (rowS x))

/-- The stored row at a position under a base, as a Pod reads it for a write (class UPDATE, Table 10.1). -/
def readRow (pod : Nat) (x : BitVec 512) (base pos : Nat) (s : State) : Option (List Byte) × State :=
  let a := rowAddr x base pos
  if sdShelved x then
    let y := stkRead pod 1 (sdTier x) a 8 s
    let m := leNat y.1
    if smTier m < 2 then
      let z := stkRead pod 1 (smTier m) (32 * smLoc m) (rowS x) y.2
      (some z.1, z.2)
    else (none, y.2)
  else
    let z := stkRead pod 1 (sdTier x) a (rowS x) s
    (some z.1, z.2)

/-- What a read of the row at a position under a base ends with (R117). -/
def rowReadFlt (s : State) (x : BitVec 512) (base pos : Nat) : Option Flt :=
  let a := rowAddr x base pos
  if sdShelved x then
    match tierFlt s (sdTier x) a 8 with
    | some f => some f
    | none =>
      let m := leNat (tierLoad s (sdTier x) a 8)
      if smTier m < 2 then tierFlt s (smTier m) (32 * smLoc m) (rowS x) else none
  else tierFlt s (sdTier x) a (rowS x)

/-- What putting a row into its place gives: it is there, it has to wait, or its shelfmark's commit waits. -/
inductive PutRes where
  | done (s : State)
  | wait (s : State)
  | pend (w : Nat) (s : State)
  deriving DecidableEq, Repr

/-- The tier of the place that a row write of this engine's own shard goes to: for a shelved row, that of its shelfmark. -/
def rowSlotTier (s : State) (x : BitVec 512) (base pos : Nat) : Nat :=
  let m := leNat (tierLoad s (sdTier x) (rowAddr x base pos) 8)
  if sdShelved x && decide (smTier m < 2) then smTier m else sdTier x

/-- A row write of this engine's own shard goes into its place: in place in a direct shard, and in an OFFLINE shelved
one unless the row is absent; else into a fresh slot. Holders of the row are asked first where the commit is at once. -/
def putRow (c : RowCtx) (bs : List Byte) (side : Option (Nat × List Byte)) (kind : WKind) (task : Option Nat) (s : State) :
    PutRes :=
  let x := c.x
  let t := sdTable x
  let base := writeBase s c.idx x
  let live := base == sdBase x
  let sideOk := match side with | none => true | some y => sideReady s (sdTier x) y.1
  if !sideOk then .wait s
  else if live && !(holdersOf s t c.row).isEmpty then .wait (askInval t c.row s)
  else
    let old := (currentRow s x base c.pos).getD []
    let put (s : State) : State := match side with | none => s | some y => tierStore (sdTier x) y.1 y.2 .output s
    if !sdShelved x then .done (sideLeft x old bs (commitDirect t c.idx x base c.row c.pos bs side kind (put s)))
    else
      let m := leNat (tierLoad s (sdTier x) (rowAddr x base c.pos) 8)
      if sdState x = 0 ∧ smTier m < 2 then .done (sideLeft x old bs (toTwin (smTier m) (32 * smLoc m) bs
        ((match side with | none => id | some y => toTwin (sdTier x) y.1 y.2) (tierStore (smTier m) (32 * smLoc m) bs kind (put s)))))
      else
        let tier := if smTier m < 2 then smTier m else sdTier x
        match beginShelved c.idx x base c.pos tier bs side task s with
        | none => .wait (match ringFor s (rowS x) tier with | some k => slotsEmpty k s | none => odCount odCatSlotWaits 1 s)
        | some (w, s) => .pend w s

/-! ## A row of a table without TRAIN at its home (R71, R157, R229) -/

/-- A row to be stored: its bytes, its side list, and what the encoding of an FP32 row counts. -/
structure RowImage where
  bytes : List Byte
  side : Option (Nat × List Byte) := none
  enc : Option Encoded := none
  deriving DecidableEq, Repr

/-- What the preparation of a row gives: the row, a wait, or a fault. -/
inductive PrepRes where
  | ready (r : RowImage) (s : State)
  | wait (s : State)
  | fault (f : Flt) (s : State)
  deriving DecidableEq, Repr

/-- A row for a shard homed here, prepared on a Pod. An FP32 row (quant) is encoded with the entries resident there against the
row's current husk, which is read first; it waits for an earlier write of the row that is not committed, whose husk is not yet
the current one. -/
def prepRow (pod : Nat) (c : RowCtx) (quant derive : Bool) (data : List Byte) (task : Option Nat) (s : State) : PrepRes :=
  let x := c.x
  let base := writeBase s c.idx x
  if !quant then .ready { bytes := data } s
  else if s.cat.pend.any (fun w => w.idx == c.idx && w.pos == c.pos) then .wait s
  else if !cbReady s pod x then .wait (askCb pod x task s)
  else
    match (if derive then none else rowReadFlt s x base c.pos) with
    | some f => .fault f s
    | none =>
      let y := readRow pod x base c.pos s
      let hk := (y.1.map (rowHusk x)).getD 0
      let e := quantised y.2 pod c derive hk (fuseVec 0 (sdDim x) data)
      .ready { bytes := buildRow x 0 (sideSlot c.pos hk) e, side := sideFor c hk e, enc := some e } y.2

end Sys2Proof.Machine
end

