-- ==== Sys2Proof/Machine/Ledger.lean ====
section
/-! DEFINITION. The Ledger (08): the acknowledgement of parcels (R202, R252), the journal and the inbox (R216, R217,
R221, R222), the optimiser steps (R211 to R213) and the apply of parcels (R218 to R220, R214, R464). -/

namespace Sys2Proof.Machine

/-! ## Acknowledgement at the sender (R202, R205) -/

/-- The engine acts for its lost or returning twin too (Table 13.7). -/
def actsForTwin (s : State) : Bool := decide (s.sfp.partner < 1024) && (twinState s == 2 || twinState s == 3)

/-- A row write of a task to another home has been done there (log 41). -/
def rowAcked (t : Nat) (s : State) : State :=
  match getTask s t with
  | none => s
  | some k =>
    if dOp k.desc == opRowWrite && !viaLedger k then rowsDone t (modTask t (fun k => { k with unacked := k.unacked - 1 }) s)
    else s

/-- One of a task's parcels is acknowledged; the last one finishes the task. -/
def taskAcked (t : Nat) (s : State) : State :=
  let s := modTask t (fun k => { k with unacked := k.unacked - 1 }) s
  match getTask s t with
  | none => s
  | some k => if k.phase == .admitted && k.err.isNone && k.released && k.unacked == 0 then finishTask t s else s

/-- The count of R206 for the parcels kept under a key starts now: sent ones wait for an acknowledgement. -/
def waitFrom (key : Nat) (s : State) : State :=
  let now := folio s
  let any := s.upu.ring.any (fun r => r.1 == key && r.2.sent)
  onUpu (fun u => { u with waiting := if any then tabPut key now u.waiting else tabDrop key u.waiting }) s

/-- "applied" for a parcel of this sender frees it from the retention ring. -/
def ackRing (owner seq : Nat) (s : State) : State :=
  match s.upu.ring.find? (fun r => r.1 == owner && r.2.seq == seq) with
  | none => s
  | some r =>
    let s := waitFrom owner <| onUpu (fun u => { u with ring := u.ring.filter (fun x => !(x.1 == owner && x.2.seq == seq)), wasFull := false }) s
    let s := sayTwin [4, twinKey owner, seq] [] (showRing (putSender owner s))
    if r.2.fwd.isSome then s else taskAcked r.2.task s

/-- Sends "applied" for a journalled parcel, carrying OWNER, SOURCE, SEQ and the intake number (R218). -/
def sayApplied (j : Journal) (s : State) : State :=
  let src := j.source % 1024
  let me := if 1024 ≤ j.source then s.sfp.partner else s.sfp.engineId
  if src = s.sfp.engineId then ackRing me j.seq s else sendCell ctParcelAck src 16 [me, src, j.seq, j.intake] s

/-! ## The journal in the Ledger region (R217, Table 8.8) -/

/-- The number of a journal state (Table 8.7). -/
def jNum : JState → Nat
  | .free => 0 | .received => 1 | .applied => 2 | .forwarded => 3 | .abandoned => 4

/-- A journal entry as its 16 bytes (Table 8.7). -/
def journalNum (j : Journal) : Nat :=
  j.intake % 2 ^ 48 + (j.source % 1024) <<< 48 + (jNum j.st) <<< 58 + (j.seq % 2 ^ 48) <<< 64 + (j.table % 65536) <<< 112

/-- The parcel of (source, SEQ) in the inbox. -/
def inboxOf (s : State) (src seq : Nat) : Option Parcel := (s.upu.inbox.find? (fun x => x.1 == src && x.2.1 == seq)).map (·.2.2)

/-- A journal entry goes on to the returning twin, with its parcel where that is here (R350). -/
def journalTwin (j : Journal) (s : State) : State :=
  sayTwin [0, twinKey j.source, j.table, j.seq, jNum j.st, j.intake, j.upTo, bit j.told]
    (((inboxOf s j.source j.seq).map parcelBytes).getD []) s

/-- The part of the Ledger region of an entry's identity: the twin partner's lies at 0x0090_0000. -/
def ledgerPart (s : State) (src : Nat) : Nat := s.upu.ledgerBase + (if 1024 ≤ src then 0x900000 else 0)

/-- Two entries have the same slot of the journal. -/
def sameSlot (a b : Journal) : Bool := a.source == b.source && a.seq % 256 == b.seq % 256

/-- Writes a journal entry through; it takes the place of the entry in its slot. -/
def putJournal (j : Journal) (s : State) : State :=
  let s := onUpu (fun u => { u with
    journal := if u.journal.any (fun x => x.source == j.source && x.seq == j.seq) then
        u.journal.map (fun x => if x.source = j.source ∧ x.seq = j.seq then j else x)
      else u.journal.filter (fun x => !sameSlot x j) ++ [j] }) s
  journalTwin j <| gddrStore (ledgerPart s j.source + 16 * ((j.source % 1024) * 256 + j.seq % 256)) (leBytes 16 (journalNum j)) s

/-- The journal entry of (source, SEQ). -/
def getJournal (s : State) (src seq : Nat) : Option Journal := s.upu.journal.find? (fun j => j.source == src && j.seq == seq)

/-- HWM of a source. -/
def hwmOf (s : State) (src : Nat) : Nat := tabGet src 0 s.upu.hwm

/-- Sets HWM of a source, written through. -/
def setHwm (src n : Nat) (s : State) : State :=
  sayTwin [1, twinKey src, n] [] <| gddrStore (ledgerPart s src + 0x400000 + 8 * (src % 1024)) (leBytes 8 n) (onUpu (fun u => { u with hwm := tabPut src n u.hwm }) s)

/-- The intake counter moves on, written through. -/
def setIntake (n : Nat) (s : State) : State :=
  sayTwin [2, n] [] <| gddrStore (s.upu.ledgerBase + 0x402000) (leBytes 8 n) (onUpu (fun u => { u with intake := n }) s)

/-- A FORWARDED entry may be acknowledged once no forwarding parcel is retained that had been released when it became
FORWARDED, or, after a reset, when its resend arrived (R252). -/
def forwardsClear (s : State) (j : Journal) : Bool :=
  s.upu.ring.all (fun r =>
    match r.2.fwd with
    | none => true
    | some f => (match getJournal s f.1 f.2 with
        | some i => decide (j.upTo < i.intake)
        | none => false))

/-- "applied" goes out for every FORWARDED entry that has become free of its forwarding parcels; after a reset only for one
whose resend has arrived. -/
def tellForwarded (s : State) : State :=
  forEach (fun j s =>
    if j.st == .forwarded && !j.told && j.upTo != 0 && forwardsClear s j then sayApplied j (putJournal { j with told := true } s) else s)
    s.upu.journal s

/-- PARCEL_ACK_RECEIVED: an "applied" of a parcel of this sender, or of its twin while it acts for it. One with SEQ 0 says that
a row write outside the Ledger is done, and carries its tag (log 41). -/
def doParcelAckReceived (owner source seq intake : Nat) (s : State) : State :=
  if seq = 0 then (if source = s.sfp.engineId then rowAcked intake (hear owner s) else s)
  else if source = s.sfp.engineId then tellForwarded (ackRing owner seq (hear owner s))
  else if actsForTwin s ∧ source = s.sfp.partner then ackRing (owner + 1024) seq (hear owner s)
  else s

/-- PARCEL_ACK_RECEIVED (R204). The intake number of a Ledger parcel changes nothing at the sender. -/
def execParcelAckReceived (owner source seq intake : Nat) (s : State) : Host.Outcome State Fault Refusal :=
  .next (doParcelAckReceived owner source seq intake s)

/-! ## Arrival (R216, R221, R347) -/

/-- The bytes in the inbox. -/
def inboxBytes (s : State) : Nat := sumOf (fun x => parcelSize x.2.2) s.upu.inbox

/-- Puts a parcel into the inbox, or drops it where there is no room. -/
def intoInbox (src : Nat) (p : Parcel) (f : State → State) (s : State) : State :=
  if (inboxOf s src (phSeq p.hdr)).isSome then f s
  else if s.upu.inboxSize * 2 ^ 20 < inboxBytes s + parcelSize p then odCount odUpuInboxDrops 1 s
  else f (onUpu (fun u => { u with inbox := u.inbox ++ [(src, phSeq p.hdr, p)] }) s)

/-- Counts a journalled parcel's entries for the circulation of their shards homed here (R243). -/
def countEntries (p : Parcel) (s : State) : State :=
  let e := dirAt s (phTable p.hdr)
  forEach (fun x s =>
    let idx := shardIndex e (shardOf e x.row)
    if isHome s (descAt s idx) then
      onCat (fun c =>
        let r := tabGet idx (0, 0, 0, 0) c.circ
        { c with circ := tabPut idx (r.1, r.2.1, r.2.2.1, r.2.2.2 + 1) c.circ }) s
    else s) p.entries s

/-- A parcel in the inbox is journalled RECEIVED with the next intake number, and mirrored to a paired twin. -/
def journalParcel (src : Nat) (p : Parcel) (s : State) : State :=
  let n := s.upu.intake
  let paired := twinState s == 1 && decide (s.sfp.partner < 1024)
  let j : Journal := { table := phTable p.hdr, seq := phSeq p.hdr, st := .received, source := src, intake := n,
                       since := folio s, mirrored := !paired, partnerApplied := !paired }
  let s := setIntake (n + 1) (setHwm src (phSeq p.hdr) (putJournal j s))
  let s := countEntries p (onUpu (fun u => { u with journalled := u.journalled + 1 }) s)
  if paired then
    sendCell ctParcel s.sfp.partner (16 + parcelSize p) (journalNum j :: (parcelBytes p).map (·.toNat)) s
  else s

/-- The identity under which this engine owns a parcel: its own (0), or its twin's (1,024). -/
def ownedAs (s : State) (p : Parcel) : Option Nat :=
  if phOwner p.hdr = s.sfp.engineId then some 0
  else if actsForTwin s ∧ phOwner p.hdr = s.sfp.partner then some 1024 else none

/-- Reads of the Ledger region go through the privileged ways of Stacks (R217, Table 10.1). -/
def privRead (a n : Nat) (s : State) : State :=
  forEach (fun la s => (readLine (hubSlice s la) 5 0 la s).2) (linesOf a n) s

/-- The HWM of a source, and the journal slot of one of its parcels, are read. -/
def readLedger (src seq : Nat) (s : State) : State :=
  privRead (ledgerPart s src + 16 * ((src % 1024) * 256 + seq % 256)) 16
    (privRead (ledgerPart s src + 0x400000 + 8 * (src % 1024)) 8 s)

/-- A row write outside the Ledger waits for its row (log 41). -/
def holdRow (p : Parcel) (s : State) : State :=
  onUpu (fun u => { u with rowIn := u.rowIn ++ [(phSource p.hdr, phStep p.hdr, p)] }) s

/-- A parcel of a sequence reaches its owner, from a source (R216, R221). -/
def arriveSeq (src : Nat) (p : Parcel) (s : State) : State :=
  let q := phSeq p.hdr
  let s := readLedger src q s
  let h := hwmOf s src
  if q = h + 1 then intoInbox src p (journalParcel src p) s
  else if h + 1 < q ∧ q ≤ h + 256 then intoInbox src p id s
  else if q ≤ h ∧ h < q + 256 then
    match getJournal s src q with
    | none => s
    | some j =>
      match j.st with
      | .received => intoInbox src p id s
      | .applied => odCount odUpuDupParcels 1 (sayApplied j s)
      | .abandoned => odCount odUpuDupParcels 1 (sayApplied j s)
      | .forwarded =>
        let s := odCount odUpuDupParcels 1 s
        let j := if j.upTo = 0 then { j with upTo := s.upu.intake } else j
        if forwardsClear s j then sayApplied j (putJournal { j with told := true } s)
        else putJournal { j with told := false } s
      | .free => s
  else s

/-- A parcel reaches its owner. -/
def arrive (p : Parcel) (s : State) : State :=
  match ownedAs s p with
  | none => s
  | some off =>
    if phSeq p.hdr ≠ 0 then arriveSeq (phSource p.hdr + off) p s
    else if phWrite p.hdr then holdRow p s else s

/-- PARCEL_ARRIVAL: a parcel whose source is a member reaches its owner. -/
def doParcelArrival (src : Nat) (bytes : List Byte) (s : State) : State :=
  let p := readParcel s bytes
  if gated s 9 then s
  else if !isMember s src && src != s.sfp.engineId then odCount odSfpBadCells 1 s
  else if phSeq p.hdr ≠ 0 ∧ phSource p.hdr ≠ src ∧ phSource p.hdr ≠ s.sfp.partner ∨ p.entries.isEmpty ∨ bytes.length ≠ parcelSize p then s
  else arrive p (hear src s)

/-- PARCEL_ARRIVAL (R216). -/
def execParcelArrival (src : Nat) (bytes : List Byte) (s : State) : Host.Outcome State Fault Refusal :=
  .next (doParcelArrival src bytes s)

/-- EARLY_PARCEL_JOURNAL: the next parcel of a source waits in the inbox, and every one before it is journalled. -/
def doEarlyParcelJournal (src : Nat) (s : State) : State :=
  let q := hwmOf s src + 1
  match inboxOf s src q with
  | none => s
  | some p => journalParcel src p s

/-- EARLY_PARCEL_JOURNAL (R216). -/
def execEarlyParcelJournal (src : Nat) (s : State) : Host.Outcome State Fault Refusal := .next (doEarlyParcelJournal src s)

/-- RECEIVED_ABANDON: the resend of a journalled parcel has not come within UPU_RECOVERY_FOLIOS. -/
def doReceivedAbandon (src seq : Nat) (s : State) : State :=
  match getJournal s src seq with
  | none => s
  | some j =>
    if j.st == .received && (inboxOf s src seq).isNone && decide (j.since + odGet s odUpuRecoveryFolios ≤ folio s) then
      post0 evUpuAbandoned (src % 1024) (seq % 2 ^ 48 + j.intake <<< 48) (putJournal { j with st := .abandoned } s)
    else s

/-! ## PARCEL_SEND and resends (R204, R206) -/

/-- A parcel goes out to its owner; to this engine itself it goes at once. A paired twin mirrors it first (R347). -/
def emitParcel (p : Parcel) (s : State) : State :=
  let o := phOwner p.hdr
  if cellDst s o = s.sfp.engineId then arrive p s
  else
    let bytes := (parcelBytes p).map (·.toNat)
    let s := if twinState s = 1 ∧ s.sfp.partner < 1024 then sendCell ctParcel s.sfp.partner (parcelSize p) (0 :: bytes) s else s
    sendCell ctParcel o (parcelSize p) bytes s

/-- Marks a retained parcel as sent; the first one sent starts the count of R206. -/
def markSent (owner seq : Nat) (s : State) : State :=
  let s := onUpu (fun u => { u with ring := u.ring.map (fun r =>
    if r.1 = owner ∧ r.2.seq = seq then (r.1, { r.2 with sent := true }) else r) }) s
  if (tabFind owner s.upu.waiting).isSome then s else waitFrom owner s

/-- No parcel released under an older epoch is unacknowledged: one of a newer epoch goes out only then (R253). -/
def epochTurn (s : State) (p : Parcel) : Bool := s.upu.ring.all (fun r => !epochOlder (phEpoch r.2.parcel.hdr) (phEpoch p.hdr))

/-- The next released parcel of a pair, kept under a key, goes out once the one 256 before it is acknowledged. -/
def sendNext (key : Nat) (s : State) : State :=
  match (retainedOf s key).find? (fun r => !r.sent) with
  | none => s
  | some r =>
    let owner := key % 1024
    if gated s 9 ∨ (retainedOf s key).any (fun x => decide (x.seq + 256 ≤ r.seq)) ∨
        !epochTurn s r.parcel ∨ (cellDst s owner ≠ s.sfp.engineId ∧ !reachable s (cellDst s owner)) then s
    else emitParcel r.parcel (markSent key r.seq s)

/-- PARCEL_SEND: the next parcel of this engine's own pair, or of its lost twin's, which it keeps beside them. -/
def doParcelSend (owner : Nat) (s : State) : State :=
  if (retainedOf s owner).any (fun r => !r.sent) then sendNext owner s else sendNext (owner + 1024) s

/-- PARCEL_SEND (R204). -/
def execParcelSend (owner : Nat) (s : State) : Host.Outcome State Fault Refusal := .next (doParcelSend owner s)

/-- Resends every unacknowledged parcel kept under a key, in sequence order and as retained. -/
def resendKey (key : Nat) (s : State) : State :=
  forEach (fun r s =>
    if r.sent && (retainedOf s key).any (fun x => x.seq == r.seq) then
      odCount odUpuParcelsResent 1 (emitParcel r.parcel (markSent key r.seq s))
    else s) (retainedOf s key) (waitFrom key s)

/-- Resends every unacknowledged parcel of an owner. -/
def resendOwner (owner : Nat) (s : State) : State := resendKey (owner + 1024) (resendKey owner s)

/-- UPU_RESEND_FOLIOS folios have passed without an acknowledgement of the parcels kept under a key. -/
def resendDue (s : State) (key : Nat) : Bool :=
  (tabFind key s.upu.waiting).any (fun f => decide (f + odGet s odUpuResendFolios ≤ folio s))

/-- PARCEL_RESEND_TIMEOUT: an owner has acknowledged nothing for UPU_RESEND_FOLIOS folios. -/
def doParcelResendTimeout (owner : Nat) (s : State) : State :=
  let s := if resendDue s owner then resendKey owner s else s
  if resendDue s (owner + 1024) then resendKey (owner + 1024) s else s

/-- PARCEL_RESEND_TIMEOUT (R206). -/
def execParcelResendTimeout (owner : Nat) (s : State) : Host.Outcome State Fault Refusal := .next (doParcelResendTimeout owner s)

/-! ## Optimisers (R211, R212) -/

/-- F32 field [hi:hi−31] of an optimiser slot (Table 8.3). -/
def optF (slot lo : Nat) : F32 := BitVec.ofNat 32 (bitsOf slot (lo + 31) lo)
/-- wd of a slot. -/
def optWd (slot : Nat) : F32 := optF slot 128
/-- eps of a slot. -/
def optEps (slot : Nat) : F32 := optF slot 96
/-- β2 of a slot. -/
def optB2 (slot : Nat) : F32 := optF slot 64
/-- β1 of a slot. -/
def optB1 (slot : Nat) : F32 := optF slot 32

/-- 1 − β^t, exact and rounded once. -/
def biasCorr (b : F32) (t : Nat) : F32 :=
  match valOf b with
  | .fin n m e => f32Of false (addV (vInt 1) (negV (.fin (n && t % 2 == 1) (m ^ t) (e * t))))
  | v => f32Of false (addV (vInt 1) (negV v))

/-- 1.0. -/
def fOne : F32 := 0x3F800000

/-- How many state values a STATE_KIND holds for d elements (R209). -/
def stateLen (kind d : Nat) : Nat := match kind with | 0 => 0 | 1 => d | 2 => 1 | _ => 2 * d

/-- The state step of an optimiser: the new state from the gradient, the row and the old state. -/
def stateStep (kind slot : Nat) (g w st : List F32) : List F32 :=
  let d := g.length
  match kind with
  | 2 => List.zipWith (fun m c => fAdd false (fMul false (optB1 slot) m) c) st
      (List.zipWith (fun a b => fAdd false a (fMul false (optWd slot) b)) g w)
  | 3 =>
    let sq := treeScalar false (g.map (fun a => fMul false a a))
    [fAdd false (st.headD 0) (fDiv false sq (fInt false d))]
  | 4 =>
    let b1 := optB1 slot
    let b2 := optB2 slot
    List.zipWith (fun m a => fAdd false (fMul false b1 m) (fMul false (fSub false fOne b1) a)) (st.take d) g ++
    List.zipWith (fun v a => fAdd false (fMul false b2 v) (fMul false (fSub false fOne b2) (fMul false a a))) (st.drop d) g
  | _ => st

/-- The row step of an optimiser: the new row from the gradient, the old row and the new state. -/
def rowStep (kind slot : Nat) (lr : F32) (step : Nat) (g w st : List F32) : List F32 :=
  let d := g.length
  let wd (x : F32) : F32 := fMul false (optWd slot) x
  match kind with
  | 0 => List.zipWith (fun x a => fAdd false x (fMul false lr a)) w g
  | 1 => List.zipWith (fun x a => fSub false x (fMul false lr (fAdd false a (wd x)))) w g
  | 2 => List.zipWith (fun x m => fSub false x (fMul false lr m)) w st
  | 3 =>
    let q := fAdd false (fSqrt false (st.headD 0)) (optEps slot)
    List.zipWith (fun x a => fSub false x (fMul false lr (fDiv false a q))) w g
  | _ =>
    let t := max step 1
    let c1 := biasCorr (optB1 slot) t
    let c2 := biasCorr (optB2 slot) t
    let dir := List.zipWith (fun m v => fDiv false (fDiv false m c1)
      (fAdd false (fSqrt false (fDiv false v c2)) (optEps slot))) (st.take d) (st.drop d)
    List.zipWith (fun x y => fSub false x (fMul false lr (fAdd false y (wd x)))) w dir

/-- The gradient of an update entry as FP32 (R203). -/
def entryGrad (h : BitVec 256) (d : Nat) (bs : List Byte) : List F32 :=
  match phFmt h with
  | 0 => fuseVec 0 d bs
  | 1 => (List.range d).map (fun j => BitVec.ofNat 32 (numAt (2 * j) 2 bs <<< 16))
  | 2 =>
    let sc := BitVec.ofNat 32 (numAt 0 4 bs)
    (List.range d).map (fun j => fMul false sc (fInt false (toSigned 8 (numAt (4 + j) 1 bs))))
  | _ =>
    let sc := BitVec.ofNat 32 (numAt 0 4 bs)
    (List.range d).map (fun j => fMul false sc (f32Of false (decodeF fmtE4 (numAt (4 + j) 1 bs))))

/-! ## Serving rows of a master (R213) -/

/-- The value of code c of element j, as the husk multiplies it. -/
def codeVal (x : BitVec 512) (cb : List Byte) (j c : Nat) : FVal :=
  let f := sdFmt x
  if fmtIsCb f then cbVal f cb (cbGroup x j) c
  else if f = 6 then decodeF fmtE4 c
  else if f = 7 then decodeF fmtE5 c
  else vInt (toSigned (fmtWidth f) c)

/-- The husk learned from an entry's gradient and the codes of the serving row before the update, with the codebook set of the
Pod. -/
def learnHusk (cb : List Byte) (x : BitVec 512) (row : List Byte) (g : List F32) (h : F32) : Nat :=
  let w := fmtBits (sdFmt x)
  let p := rowPayload x row
  let es := g.zipIdx.filter (fun c => !(sdEsc x && fmtMayEsc (sdFmt x) && isEscCode w (codeAt w p c.2)))
  let gs := treeScalar false (es.map (fun c => f32Of false (mulV (valOf c.1) (codeVal x cb c.2 (codeAt w p c.2)))))
  let go := treeScalar false (es.map (·.1))
  let hk := rowHusk x row
  let half (v : F32) : Nat := encodeF fmt16 false (valOf v)
  let sc := half (fSub false (of16 (hkScale hk)) (fMul false h gs))
  let off := half (fSub false (of16 (hkOffset hk)) (fMul false h go))
  setBits (setBits hk 15 0 sc) 31 16 off

/-- The serving row written from a master for an update entry: the encoding against the learned husk, or a derived one. -/
def servingOf (s : State) (h : BitVec 256) (c : RowCtx) (te : BitVec 128) (lr : F32) (g master : List F32) (row : List Byte) : Encoded :=
  let hk := rowHusk c.x row
  let hlr : F32 := BitVec.ofNat 32 (bitsOf te.toNat 127 96)
  let derive := rescales s h (sdTable c.x)
  let pod := homePod s c.row
  if !derive && fmtHusked (sdFmt c.x) && !fIsZero hlr && !hkConst hk && !hkBad hk then
    let hk' := learnHusk (cbBytes (getPod s pod) (cbNeed c.x)) c.x row g (fMul false lr hlr)
    quantised s pod c (hkConst hk' || decide (0x7C00 ≤ hkScale hk' % 2 ^ 15)) hk' master
  else quantised s pod c derive hk master

/-! ## Places at the owner (R209, R218, R252) -/

/-- A shard is homed here, or at the twin whose identity this engine holds a copy for (R347, R348). -/
def homedHere (s : State) (x : BitVec 512) : Bool :=
  isHome s x || (decide (s.sfp.partner < 1024) && decide (1 ≤ twinState s) && decide (twinState s ≤ 3) && sdHome x == s.sfp.partner)

/-- Where an entry belongs: to a row here, to the engine a shard was forwarded to, or nowhere this engine knows. -/
inductive EntryAt where
  | here (c : RowCtx)
  | fwd (engine : Nat)
  | stray
  deriving DecidableEq, Repr

/-- The place of a parcel entry. -/
def entryAt (s : State) (t : Nat) (e : PEntry) : EntryAt :=
  let de := dirAt s t
  let row := if e.dflt then 0 else e.row
  let idx := shardIndex de (shardOf de row)
  let x := descAt s idx
  if !deValid de ∨ deRows de ≤ row ∨ sdTable x ≠ t then .stray
  else if homedHere s x then .here { idx := idx, x := x, row := row, pos := posOf de row, dflt := e.dflt }
  else match fwdOf s idx with
    | some f => .fwd (fwEngine f.2)
    | none => .stray

/-- The tier and address of a row: none for an absent row, or one whose shelfmark names no tier. -/
def rowSpot (s : State) (c : RowCtx) : Option (Nat × Nat) :=
  if c.dflt then some (0, 32 * sdDefAddr c.x) else rowPlace s c.x c.pos

/-- The tier and address of a row's companion record (R209). -/
def compSpot (te : BitVec 128) (c : RowCtx) : Nat × Nat :=
  if c.dflt then (0, 32 * sdDefAddr c.x + rowS c.x)
  else (sdTier c.x, 32 * sdBase c.x + compOff te + c.pos * compSize te (sdDim c.x))

/-- An image for host DRAM goes into the host apply log in GDDR7: its address, its length and its bytes (R220; log 99). -/
def logHost (tier a : Nat) (bs : List Byte) (s : State) : State :=
  if tier = 1 then
    let rec_ := leBytes 8 a ++ leBytes 8 bs.length ++ bs
    let at_ := if s.upu.logTail + rec_.length ≤ 2 ^ 26 then s.upu.logTail else 0
    let s := gddrStore (s.upu.hostlogBase + at_) rec_ s
    onUpu (fun u => { u with hostlog := u.hostlog ++ [(a, bs)], logTail := roundUp (at_ + rec_.length) 32 }) s
  else s

/-- A Ledger commit in a tier: in host DRAM it goes through the host apply log (R220). -/
def ledgerStore (tier a : Nat) (bs : List Byte) (s : State) : State :=
  if tier = 1 then tierStore 1 a bs .hostlog (logHost 1 a bs s) else tierStore tier a bs .output s

/-- The UPU rewrites every entry of the host apply log still held (R220). -/
def rewriteHostlog (s : State) : State := forEach (fun e s => tierStore 1 e.1 e.2 .hostlog s) s.upu.hostlog s

/-- A companion record is committed, and mirrored by a move that has copied its position (R249). -/
def commitComp (te : BitVec 128) (c : RowCtx) (bs : List Byte) (s : State) : State :=
  let at_ := compSpot te c
  let s := toTwin at_.1 at_.2 bs (ledgerStore at_.1 at_.2 bs s)
  match (if c.dflt then none else mirrors s c.idx c.pos) with
  | none => s
  | some isLocal => carryBytes c.idx isLocal (32 * sdAlt c.x + compOff te + c.pos * compSize te (sdDim c.x)) bs s

/-- A row is committed in its place by a parcel, with its copies, and its side list before it. -/
def commitRow (c : RowCtx) (bs : List Byte) (side : Option (Nat × List Byte)) (s : State) : State :=
  let t := sdTable c.x
  match rowSpot s c with
  | none => s
  | some (tier, a) =>
    let old := tierLoad s tier a (rowS c.x)
    let s := match side with | none => s | some y => toTwin (sdTier c.x) y.1 y.2 (ledgerStore (sdTier c.x) y.1 y.2 s)
    let s := toTwin tier a bs (ledgerStore tier a bs s)
    if c.dflt then s
    else
      let s := sideLeft c.x old bs s
      mirrorRow c.idx c.x c.pos bs side
        (pinnedWrite c.idx c.pos (some bs) (replicaWrite t c.row bs ((side.map (·.2)).getD []) s))

/-! ## One entry (R218, R464, R214) -/

/-- The outcome of an entry. -/
inductive ApplyRes where
  | done (s : State)
  | wait (s : State)
  /-- An apply fault (R219). -/
  | fault (s : State)
  deriving DecidableEq, Repr

/-- INTAKE of a stamp (Table 8.6). -/
def stampIntake (v : Nat) : Nat := bitsOf v 47 0

/-- Values in a companion record: n of them from value k on. -/
def compVals (comp : List Byte) (k n : Nat) : List F32 := fuseVec 0 n (sliceBytes (8 + 4 * k) (4 * n) comp)

/-- A companion record of a stamp, master and state. -/
def compRec (size stamp : Nat) (master st : List F32) : List Byte :=
  sliceBytes 0 size (leBytes 8 stamp ++ (master ++ st).flatMap (fun v => leBytes 4 v.toNat))

/-- The elements of a row of format FP32 or BF16, or the decode of any row with its side list, on the Pod that does the work on
the row (R122). -/
def rowVals (s : State) (c : RowCtx) (row side : List Byte) : List F32 :=
  decodeRow c.x row side (cbBytes (getPod s (homePod s c.row)) (cbNeed c.x))

/-- The bytes of an FP32 or BF16 row from its elements, rounded to nearest even (R212). -/
def wideRow (x : BitVec 512) (stamp : Nat) (w : List F32) : List Byte :=
  sliceBytes 0 (rowS x) (leBytes (rowT x) stamp ++
    (if sdFmt x = 8 then w.flatMap (fun v => leBytes 2 (encodeF fmtBf false (valOf v))) else w.flatMap (fun v => leBytes 4 v.toNat)))

/-- The optimiser that an update entry applies under at this owner (R207). -/
def optOf (s : State) (h : BitVec 256) : Nat × Nat := (optKind s (phOpt h), optSlot s (phOpt h))

/-- The owner's check of an entry: true discards it (R464). A row of a table without stamps is discarded too. -/
def entryDrops (s : State) (h : BitVec 256) (te : BitVec 128) (x : BitVec 512) : Bool :=
  !sdTrain x || (sdFmt x != 10 && sdFmt x != 8 && !teMaster te) || (!phWrite h && kindNeeds (optOf s h).1 != teKind te)

/-- The side-list slot of a serving row cannot be written yet (R166). -/
def sideWaits (s : State) (c : RowCtx) (row : List Byte) (e : Encoded) : Bool :=
  (sideFor c (rowHusk c.x row) e).any (fun y => !sideReady s (sdTier c.x) y.1)

/-- The serving row of a master is written for a row, with a stamp. A write below the row's stamp is dropped. -/
def serve (h : BitVec 256) (c : RowCtx) (stamp : Nat) (row : List Byte) (e : Encoded) (s : State) : State :=
  let hk := rowHusk c.x row
  if stampIntake stamp < stampIntake (numAt 0 8 row) then s
  else commitRow c (buildRow c.x stamp (sideSlot c.pos hk) e) (sideFor c hk e)
    (countFor s h e (countStored (homePod s c.row) c e s))

/-- The two steps of an update entry with intake number n. -/
def updateEntry (c : RowCtx) (te : BitVec 128) (h : BitVec 256) (n : Nat) (e : PEntry) (row comp : List Byte) (s : State) :
    ApplyRes :=
  let x := c.x
  let d := sdDim x
  let o := optOf s h
  let lr := phLr h
  let g := entryGrad h d e.data
  let size := compSize te d
  let hasC := decide (0 < size)
  let ms := if teMaster te then d else 0
  let cOld := hasC && decide (n ≤ stampIntake (numAt 0 8 comp))
  let rOld := decide (n ≤ stampIntake (numAt 0 8 row))
  if rOld && (!hasC || cOld) then .done (odCount odUpuRowsSkipped 1 s)
  else
    let w := if teMaster te then compVals comp 0 d else rowVals s c row []
    let st0 := compVals comp ms (stateLen (teKind te) d)
    let run := hasC && !cOld
    let st := if run then stateStep o.1 o.2 g w st0 else st0
    let w' := if teMaster te && !run then w else rowStep o.1 o.2 lr (phStep h) g w st
    let state (s : State) : State := if run then commitComp te c (compRec size n (if teMaster te then w' else []) st) s else s
    if rOld then .done (state s)
    else
      let first (s : State) : State := if cOld then odCount odUpuRowsFinished 1 s else state s
      if teMaster te then
        let en := servingOf s h c te lr g w' row
        if sideWaits s c row en then .wait s else .done (serve h c n row en (first s))
      else .done (commitRow c (wideRow x n w') none (first s))

/-- A row-write entry, with the stamp it sets (R214): where its row has to wait, its companion waits too. The repair of a faulted row replaces what is there, whatever its stamps
(R435). -/
def writeEntry (force : Bool) (c : RowCtx) (te : BitVec 128) (h : BitVec 256) (stamp : Nat) (e : PEntry) (row comp : List Byte)
    (s : State) : ApplyRes :=
  let x := c.x
  let d := sdDim x
  let n := stampIntake stamp
  let size := compSize te d
  let hasC := decide (0 < size)
  let ms := if teMaster te then d else 0
  let cOld := !force && hasC && decide (n ≤ stampIntake (numAt 0 8 comp))
  let rOld := !force && decide (n ≤ stampIntake (numAt 0 8 row))
  let src := e.data
  let sa := sideAddr x (hkSlot (rowHusk x src))
  let esc := !phQuant h && decide (0 < rowEscapes x src)
  if rOld && (!hasC || cOld) then .done (odCount odUpuRowsSkipped 1 s)
  else if esc && teMaster te && (tierFlt s (sdTier x) sa (slotSize x)).isSome then .fault s
  else
    let pod := homePod s c.row
    let y := if esc && teMaster te then stkRead pod 1 (sdTier x) sa (slotSize x) s else ([], s)
    let s := y.2
    let master := if !teMaster te then [] else if phQuant h then fuseVec 0 d src else rowVals s c src y.1
    let st0 := compVals comp ms (stateLen (teKind te) d)
    let st := if phReplace h then st0.map (fun _ => 0) else st0
    let state (s : State) : State := if hasC && !cOld then commitComp te c (compRec size stamp master st) s else s
    if rOld then .done (state s)
    else
      let enc := if phQuant h then
          some (quantised s pod c (phReplace h || rescales s h (sdTable x)) (rowHusk x row) (fuseVec 0 d src)) else none
      let new := match enc with
        | some en => (buildRow x stamp (sideSlot c.pos (rowHusk x row)) en, sideFor c (rowHusk x row) en)
        | none => (leBytes 8 stamp ++ (sliceBytes 0 (rowS x) src).drop 8, none)
      let count (s : State) : State :=
        let s := if cOld then odCount odUpuRowsFinished 1 s else s
        match enc with
        | none => s
        | some en => countFor s h en (countStored pod c en s)
      let shelve (p : PendRow) (s : State) : ApplyRes :=
        if pendVisible s p (sdTier x) then .done (count (commitShelved p (state s))) else .wait s
      match (s.cat.pend.find? (fun w => w.idx == c.idx && w.pos == c.pos && w.task.isNone)) with
      | some w => shelve w s
      | none =>
        let direct := decide (sdTier x = 1) && !sdShelved x
        let log (s : State) : State := if direct then logHost 1 (rowAddr x (sdBase x) c.pos) new.1 s else s
        let kind := if direct then WKind.hostlog else WKind.output
        match putRow c new.1 new.2 kind none s with
        | .wait s => .wait s
        | .pend w s =>
          (match s.cat.pend.find? (fun p => p.w == w) with
           | none => .wait s
           | some p => shelve p s)
        | .done _ =>
          match putRow c new.1 new.2 kind none (log (state s)) with
          | .done s => .done (count s)
          | _ => .wait s

/-- The row and the companion of an entry can be read, cannot yet, or fault. -/
def readable (s : State) (te : BitVec 128) (c : RowCtx) (spot : Nat × Nat) : Option Bool :=
  let size := compSize te (sdDim c.x)
  let cs := compSpot te c
  let bad (tier a n : Nat) : Bool := decide (0 < n) && (tierFlt s tier a n).isSome
  if (spot.1 = 1 ∨ sdTier c.x = 1) ∧ (hostHeld s || !(s.upu.hostlog.isEmpty)) then none
  else some (!(bad spot.1 spot.2 (rowS c.x) || bad cs.1 cs.2 size))

/-- UPU_STRAY: an entry for a row that this engine neither homes nor forwards is discarded (R252, Table 9.7). -/
def strayEntry (h : BitVec 256) (intake row : Nat) (s : State) : State :=
  post0 evUpuStray (phTable h) (row % 2 ^ 40 + (phSource h) <<< 40 + (intake % 2 ^ 48) <<< 64) (odCount odUpuStrayEntries 1 s)

/-- The entries of codebook memory that an entry's row needs on its Pod are resident; else it waits for them, or faults where
they cannot be read (R167). -/
def cbHere (c : RowCtx) (s : State) : Option ApplyRes :=
  let pod := homePod s c.row
  let size := if fmtIsCb (sdFmt c.x) then cbSize c.x else sdDim c.x / 8
  if cbReady s pod c.x then none
  else if (tierFlt s 0 (32 * sdAux c.x) size).isSome then some (.fault s)
  else some (.wait (askCb pod c.x none s))

/-- The owner's lookup of an entry's descriptor (R52). -/
def useEntry (h : BitVec 256) (e : PEntry) (s : State) : State :=
  let de := dirAt s (phTable h)
  let row := if e.dflt then 0 else e.row
  if deValid de ∧ row < deRows de then useDesc (shardIndex de (shardOf de row)) s else s

/-- Applies one entry of a parcel with a stamp. A pending entry of a host-tier shard that is OFFLINE while its host die is
lost is discarded and counted as it is reached (R438). -/
def applyEntry (force : Bool) (h : BitVec 256) (stamp : Nat) (e : PEntry) (s : State) : ApplyRes :=
  let t := phTable h
  match entryAt s t e with
  | .fwd _ => .done s
  | .stray => .done (strayEntry h (stampIntake stamp) e.row s)
  | .here c =>
    let te := trainAt s t
    if gddrBad s (trainAddr s t) 16 then .fault s
    else if s.hpt.link == .lost && sdTier c.x == 1 && !e.dflt && sdState c.x == 0 then .done (odCount odMscEntriesDropped 1 s)
    else if (e.dflt && sdDefault c.x != 2) || entryDrops s h te c.x then .done (odCount odUpuGradDiscarded 1 s)
    else if s.hpt.link == .lost && sdTier c.x == 1 && !e.dflt then .wait s
    else if !(holdersOf s t c.row).isEmpty && !e.dflt then .wait (askInval t c.row s)
    else if sdShelved c.x && !e.dflt && (tierFlt s (sdTier c.x) (rowAddr c.x (sdBase c.x) c.pos) 8).isSome then .fault s
    else
      match cbHere c s with
      | some r => r
      | none =>
        let read (spot : Nat × Nat) (n : Nat) (s : State) : List Byte × State := stkRead (homePod s c.row) 1 spot.1 spot.2 n s
        let size := compSize te (sdDim c.x)
        let s := privRead (trainAddr s t) 16 s
        match rowSpot s c with
        | none =>
          if smTier (shelfmark s c.x c.pos) ≠ 3 then .fault s
          else if phWrite h then
            (let y := read (compSpot te c) size s
             writeEntry force c te h stamp e [] y.1 y.2)
          else .done (odCount odUpuGradAbsent 1 s)
        | some spot =>
          match readable s te c spot with
          | none => .wait s
          | some true =>
            let x := read spot (rowS c.x) s
            let y := read (compSpot te c) size x.2
            if phWrite h then writeEntry force c te h stamp e x.1 y.1 y.2
            else updateEntry c te h stamp e x.1 y.1 y.2
          | some false =>
            if force && phWrite h && phReplace h then writeEntry true c te h stamp e [] [] s else .fault s

/-! ## PARCEL_APPLY (R218, R219, R252) -/

/-- The lowest RECEIVED entry of the journal. -/
def nextReceived (s : State) : Option Journal :=
  (s.upu.journal.filter (fun j => j.st == .received)).foldl (fun m j =>
    match m with
    | none => some j
    | some b => if j.intake < b.intake then some j else some b) none

/-- A parcel leaves the inbox, and its journal entry is final. -/
def endParcel (j : Journal) (s : State) : State :=
  let s := onUpu (fun u => { u with applying := none, inbox := u.inbox.filter (fun x => !(x.1 == j.source && x.2.1 == j.seq)) }) s
  putJournal j s

/-- The forwarding parcels of a parcel, one for each new home (R252). -/
def forwardsOf (s : State) (p : Parcel) : List Parcel :=
  let es := p.entries.filterMap (fun e => match entryAt s (phTable p.hdr) e with | .fwd b => some (b, e) | _ => none)
  ((es.map (·.1)).eraseDups).map (fun b =>
    let mine := (es.filter (fun x => x.1 == b)).map (·.2)
    let h := phSet (phSet (phSet (phSet p.hdr 57 48 s.sfp.engineId) 67 58 b) 124 112 mine.length) 191 160 s.sfp.epoch
    { hdr := h, entries := mine })

/-- Every entry of a parcel is done: it is APPLIED and says so, or FORWARDED. A paired twin reports to its primary, and
the primary says "applied" after its partner has. -/
def parcelDone (j : Journal) (p : Parcel) (s : State) : State :=
  let fs := forwardsOf s p
  if fs.isEmpty then
    let s := endParcel { j with st := .applied } s
    if 1024 ≤ j.source ∧ twinState s = 1 then sendCell ctParcelAck s.sfp.partner 16 [s.sfp.partner, j.source % 1024, j.seq, j.intake] s
    else if j.partnerApplied ∨ twinState s ≠ 1 then sayApplied j s else s
  else
    let s := forEach (fun f s => retain 0 (some (j.source, j.seq)) f s) fs s
    let s := odCount odUpuForwarded (sumOf (fun f => f.entries.length) fs) s
    let s := odCount odUpuParcelsSent fs.length s
    tellForwarded (showRing (endParcel { j with st := .forwarded, upTo := j.intake } s))

/-- UPU_APPLY_FAULT: the parcel stays RECEIVED, and what follows it waits for the repair (R219, R435). -/
def applyFault (j : Journal) (row : Nat) (s : State) : State :=
  let s := onUpu (fun u => { u with fault := some (j.table, row, j.intake) }) s
  let d := row % 2 ^ 40 + j.intake <<< 40
  raiseErr { cause := 7, level := 2, ev := evUpuApplyFault, source := j.table, detail := d } (post0 evUpuApplyFault j.table d s)

/-- Applies the entries of a parcel from entry i on. -/
def applyFrom (j : Journal) (p : Parcel) : List PEntry → Nat → State → State
  | [], _, s => parcelDone j p s
  | e :: es, i, s =>
    let hold (s : State) : State := onUpu (fun u => { u with applying := some (j.source, j.seq, i) }) s
    let stamp := j.intake + (bit (phWrite p.hdr)) <<< 48
    match applyEntry false p.hdr stamp e s with
    | .done s => applyFrom j p es (i + 1) (useEntry p.hdr e s)
    | .wait s => hold s
    | .fault s => applyFault j e.row (hold s)

/-- A row write outside the Ledger is in place: its source is told, with the tag of the task. -/
def sayRow (x : Nat × Nat × Parcel) (s : State) : State := sendCell ctParcelAck x.1 16 [s.sfp.engineId, x.1, 0, x.2.1] s

/-- A row write from another engine goes into its row, encoded here if it holds FP32 values, or on to the engine that the
shard has moved to (R229); false: it waits (log 41). -/
def runRow (x : Nat × Nat × Parcel) (s : State) : Bool × State :=
  let p := x.2.2
  let h := p.hdr
  match p.entries with
  | [] => (true, s)
  | e :: _ =>
    match entryAt s (phTable h) e with
    | .fwd b =>
      let q : Parcel := { p with hdr := phSet h 67 58 b }
      (true, sendCell ctParcel b (parcelSize q) ((parcelBytes q).map (·.toNat)) s)
    | .stray => (true, sayRow x (strayEntry h 0 e.row s))
    | .here c =>
      match s.cat.pend.find? (fun w => w.idx == c.idx && w.pos == c.pos && w.task.isNone) with
      | some w =>
        if !pendVisible s w (sdTier c.x) then (false, s)
        else if !(holdersOf s (phTable h) c.row).isEmpty then (false, askInval (phTable h) c.row s)
        else (true, sayRow x (commitShelved w s))
      | none =>
        let pod := homePod s c.row
        let derive := phReplace h || bitOf (odGet s odQntRescale) (phTable h)
        if (sdTier c.x = 1 ∨ rowSlotTier s c.x (writeBase s c.idx c.x) c.pos = 1) ∧ hostHeld s then (false, s)
        else
          match prepRow pod c (phQuant h) derive e.data none s with
          | .fault _ s => (false, s)
          | .wait s => (false, s)
          | .ready r s =>
            match putRow c r.bytes r.side .output none s with
            | .wait s => (false, s)
            | .pend _ s => (false, (r.enc.map (fun en => countStored pod c en s)).getD s)
            | .done s => (true, sayRow x (useEntry h e ((r.enc.map (fun en => countStored pod c en s)).getD s)))

/-- The row writes from other engines that can go in do so; one to a row waits for those to it that came before. -/
def runRows (s : State) : State :=
  let same (x y : Nat × Nat × Parcel) : Bool :=
    phTable x.2.2.hdr == phTable y.2.2.hdr && (x.2.2.entries.map (·.row)) == (y.2.2.entries.map (·.row))
  let r := s.upu.rowIn.foldl (fun (a : List (Nat × Nat × Parcel) × State) x =>
    if a.1.any (same x) then (a.1 ++ [x], a.2)
    else
      let y := runRow x a.2
      (if y.1 then a.1 else a.1 ++ [x], y.2)) ([], s)
  onUpu (fun u => { u with rowIn := r.1 }) r.2

/-- A shard's copy to its new home has drained, and the engine waits to switch: between two parcels it begins no further one
(R250). -/
def switchWaits (s : State) : Bool :=
  s.cat.moves.any (fun m => !m.2.2.2 &&
    (getTask s m.2.1).any (fun k => k.phase == .admitted && k.err.isNone &&
      decide (shardRows (dirAt s (sdTable (descAt s m.1))) (sdShard (descAt s m.1)) ≤ k.copyPos)))

/-- PARCEL_APPLY: the owner goes on with the parcel whose intake number comes next, once its data is in the inbox and a
paired partner has journalled it; row writes from other engines that wait outside the Ledger go in first. -/
def doParcelApply (s0 : State) : State :=
  let s := if gated s0 9 then s0 else runRows s0
  match nextReceived s with
  | none => s
  | some j =>
    match inboxOf s j.source j.seq with
    | none => s
    | some p =>
      if gated s 9 ∨ s.upu.fault.isSome ∨ !j.mirrored ∨ (s.upu.applying.isNone ∧ switchWaits s) then s
      else
        let from_ := match s.upu.applying with
          | some (a, b, i) => if a = j.source ∧ b = j.seq then i else 0
          | none => 0
        applyFrom j p (p.entries.drop from_) from_ s

/-- The journalled parcel that repairs a faulted row: a row write of that row alone with REPLACE. -/
def repairOf (s : State) (table row : Nat) : Option (Journal × Parcel) :=
  (s.upu.journal.filter (fun j => j.st == .received)).findSome? (fun j =>
    match inboxOf s j.source j.seq with
    | none => none
    | some p =>
      if phWrite p.hdr && phReplace p.hdr && phTable p.hdr == table && p.entries.length == 1 &&
          p.entries.all (fun e => e.row == row) then some (j, p) else none)

/-- The faulted row and its companion can be read again: its partner's copy has replaced them. -/
def rowMended (s : State) (table row : Nat) : Bool :=
  match entryAt s table { row := row, dflt := false, data := [] } with
  | .here c => (match rowSpot s c with
      | none => false
      | some spot => readable s (trainAt s table) c spot == some true && !gddrBad s (trainAddr s table) 16)
  | _ => true

/-- The fault is repaired: the handling of cause 7 ends. -/
def faultOver (s : State) : State :=
  closeHandlings (fun h => h.cause == 7) (onUpu (fun u => { u with fault := none }) s)

/-- APPLY_FAULT_REPAIR: the repairing row write is applied ahead of the held parcel, with the intake number before it, and
the held parcel applies next; or the copied row reads again. -/
def doApplyFaultRepair (t : Nat) (s : State) : State :=
  match s.upu.fault with
  | none => s
  | some (table, row, n) =>
    match repairOf s table row with
    | some (j, p) =>
      (match getTask s t with
       | some k => if dOp k.desc ≠ opRowWrite then s else apply j p n s
       | none => apply j p n s)
    | none => if rowMended s table row then faultOver s else s
where
  /-- Applies the repairing parcel and goes on with the held one. -/
  apply (j : Journal) (p : Parcel) (n : Nat) (s : State) : State :=
    match p.entries with
    | [] => s
    | e :: _ =>
      match applyEntry true p.hdr (n - 1 + 2 ^ 48) e s with
      | .done s =>
        let keep := s.upu.applying
        let s := endParcel { j with st := .applied } s
        doParcelApply (faultOver (onUpu (fun u => { u with applying := keep }) (sayApplied j s)))
      | .wait s => s
      | .fault s => s

/-! ## Twins and restarts (R206, R222, R347, R436) -/

/-- TWIN_MIRRORED_PARCEL: the partner journals a parcel of its primary under the primary's intake number, and reports it;
a parcel that the primary sends itself goes into the mirror of its retention ring. -/
def doTwinMirroredParcel (src intake : Nat) (bytes : List Byte) (s : State) : State :=
  let p := readParcel s bytes
  if twinState s ≠ 1 ∨ p.entries.isEmpty then s
  else if phSource p.hdr = s.sfp.partner ∧ intake = 0 then
    onUpu (fun u => { u with twinRing := u.twinRing ++
      [(phOwner p.hdr + 1024, { seq := phSeq p.hdr, task := 2 ^ 64, parcel := p })] }) s
  else if phOwner p.hdr ≠ s.sfp.partner then s
  else
    let k := src + 1024
    let j : Journal := { table := phTable p.hdr, seq := phSeq p.hdr, st := .received, source := k, intake := intake,
                         since := folio s, mirrored := true, partnerApplied := true }
    let s := onUpu (fun u => { u with inbox := u.inbox ++ [(k, j.seq, p)] }) s
    let s := setHwm k j.seq (putJournal j s)
    sendCtl ctControl s.sfp.partner [9, src, j.seq, 0] none s

/-- TWIN_MIRRORED_PARCEL (R347). -/
def execTwinMirroredParcel (src intake : Nat) (bytes : List Byte) (s : State) : Host.Outcome State Fault Refusal :=
  .next (doTwinMirroredParcel src intake bytes s)

/-- TWIN_PARTNER_REPORT: the partner has journalled a mirrored parcel, which lets the primary apply it, or has applied
it, which lets the primary say "applied". -/
def doTwinPartnerReport (source seq : Nat) (applied : Bool) (s : State) : State :=
  match getJournal s source seq with
  | none => s
  | some j =>
    if twinState s ≠ 1 then s
    else
      let j' := { j with mirrored := true, partnerApplied := j.partnerApplied || applied }
      let s := putJournal j' (hear s.sfp.partner s)
      if applied && !j.partnerApplied && j.st == .applied then sayApplied j' s else s

/-- TWIN_PARTNER_REPORT (R347). -/
def execTwinPartnerReport (source seq : Nat) (applied : Bool) (s : State) : Host.Outcome State Fault Refusal :=
  .next (doTwinPartnerReport source seq applied s)

/-- LEDGER_READY: the sender resends what the owner has not acknowledged. With FRESH the other engine has lost its
Ledger: its RECEIVED entries are abandoned, its HWM is 0, and what was retained for it is discarded. -/
def doLedgerReady (owner : Nat) (fresh : Bool) (s : State) : State :=
  let s := hear owner s
  if !fresh then resendOwner owner s
  else
    let lost := s.upu.journal.filter (fun j => j.st == .received && j.source == owner)
    let s := forEach (fun j s =>
      post0 evUpuAbandoned owner (j.seq % 2 ^ 48 + j.intake <<< 48)
        (onUpu (fun u => { u with inbox := u.inbox.filter (fun x => !(x.1 == owner && x.2.1 == j.seq)) })
          (putJournal { j with st := .abandoned } s))) lost s
    let s := setHwm owner 0 s
    let gone := retainedOf s owner
    let s := odCount odUpuFreshDiscards gone.length s
    let s := onUpu (fun u => { u with ring := u.ring.filter (fun r => r.1 != owner), sent := tabDrop owner u.sent }) s
    showRing (putSender owner (forEach (fun r s => if r.fwd.isSome then s else taskAcked r.task s) gone s))

/-! ## The Ledger contexts of a returning twin (R350) -/

/-- Streams both Ledger contexts to the returning twin. -/
def streamLedger (s : State) : State :=
  let s := sayTwin [2, s.upu.intake] [] s
  let s := forEach (fun h s => sayTwin [1, twinKey h.1, h.2] [] s) s.upu.hwm s
  let s := forEach journalTwin s.upu.journal s
  forEach (fun r s => sayTwin [3, twinKey r.1, r.2.seq, r.2.pos, bit r.2.sent] (parcelBytes r.2.parcel) s) s.upu.ring s

/-- The state of a journal number (Table 8.7). -/
def jOfNum (n : Nat) : JState :=
  match n with | 1 => .received | 2 => .applied | 3 => .forwarded | 4 => .abandoned | _ => .free

/-- A record of a Ledger context lands at the returning twin (log 99). -/
def landLedger (bs : List Byte) (s : State) : State :=
  let w (i : Nat) : Nat := numAt (8 * i) 8 bs
  match w 0 with
  | 0 =>
    let j : Journal := { source := w 1, table := w 2, seq := w 3, st := jOfNum (w 4), intake := w 5, upTo := w 6, told := w 7 == 1,
                         since := folio s, mirrored := true, partnerApplied := true }
    let rest := s.upu.inbox.filter (fun x => !(x.1 == j.source && x.2.1 == j.seq))
    let p := if bs.length ≤ 64 then [] else [(j.source, j.seq, readParcel s (bs.drop 64))]
    putJournal j (onUpu (fun u => { u with inbox := rest ++ p }) s)
  | 1 => setHwm (w 1) (w 2) s
  | 2 => setIntake (w 1) s
  | 3 =>
    let r : Retained := { seq := w 2, task := 2 ^ 64, parcel := readParcel s (bs.drop 40), sent := w 4 == 1, pos := w 3 }
    if 1024 ≤ w 1 then onUpu (fun u => { u with twinRing := u.twinRing ++ [(w 1, r)] }) s
    else showRing (putSender (w 1) (onUpu (fun u => { u with ring := u.ring ++ [(w 1, r)] }) s))
  | 4 =>
    let keep (x : Nat × Retained) : Bool := !(x.1 == w 1 && x.2.seq == w 2)
    onUpu (fun u => { u with ring := u.ring.filter keep, twinRing := u.twinRing.filter keep }) s
  | _ => s

/-- The returning twin's Ledger contexts are those that its partner streams. -/
def emptyLedger (s : State) : State :=
  onUpu (fun u => { u with
    journal := [], inbox := [], hwm := [], ring := [], twinRing := [], waiting := [], applying := none, fault := none }) s

/-! ## The restart of the Ledger (R222) -/

/-- The engines named as a source in the journal. -/
def journalSources (s : State) : List Nat := ((s.upu.journal.filter (fun j => j.st != .free)).map (·.source % 1024)).eraseDups

/-- The Ledger restarts from its region: the inbox is discarded, RECEIVED entries wait from now for their resends, the host
apply log is rewritten where host traffic is allowed, LEDGER_READY goes to the engines named in the journal (with FRESH to every member) and to itself, and the engine resends
what it retains. -/
def ledgerRestart (fresh : Bool) (s : State) : State :=
  let now := folio s
  let s := onUpu (fun u => { u with
    inbox := [], applying := none, fault := none,
    journal := u.journal.map (fun j => if j.st = .received then { j with since := now } else j) }) s
  let s := if s.hpt.link == .up && !s.hpt.tierHeld then rewriteHostlog s else s
  let s := if fresh then sendLedgerReady s.sfp.engineId true s
    else forEach (fun m s =>
      if m = s.sfp.engineId then s else sendCtl ctControl m [6, s.sfp.engineId, 0] none s) (journalSources s) s
  forEach resendKey ((s.upu.ring.map (·.1)).eraseDups) s

/-- The staging areas are discarded as the engine leaves recovery, and the tasks that own them end as those of the handling
that has ended do (R222; log 99). -/
def dropStaging (h : Option Handling) (s : State) : State :=
  let v := containVal s ((h.map (·.level)).getD 4) ((h.map (·.cause)).getD 0)
  forEach (fun k s => endTask k.id stAbortedFault 9 v s)
    (s.cfe.tasks.filter (fun k => staging k && !(k.pendingParcels.isEmpty && k.resids.isEmpty))) s

/-- The engine was in recovery in s and has left it in t: its handlings have ended. A Pod that goes back into reset, and a
containment that begins, end none. -/
def recoveryOver (s t : State) : Bool :=
  inRecovery s && !inRecovery t && !t.msc.flushing &&
  ((s.upu.recovering && !t.upu.recovering) ||
    s.msc.open_.any (fun h => h.level == 3 && !t.msc.open_.any (fun g => g.level == 3 && g.pod == h.pod)))

/-- A step, and what follows when recovery ends in it (R222, R431). -/
def settle (f : State → State) (s : State) : State :=
  let t := leaveRecovery (f s)
  if recoveryOver s t then
    ledgerRestart false (dropStaging ((s.msc.open_.filter (fun h => decide (3 ≤ h.level))).getLast?) t)
  else t

/-! ## The commands that can end recovery -/

/-- RECEIVED_ABANDON (R222). -/
def execReceivedAbandon (source seq : Nat) (s : State) : Host.Outcome State Fault Refusal := .next (settle (doReceivedAbandon source seq) s)

/-- PARCEL_APPLY (R218). -/
def execParcelApply (s : State) : Host.Outcome State Fault Refusal := .next (settle doParcelApply s)

/-- APPLY_FAULT_REPAIR (R435). -/
def execApplyFaultRepair (t : Nat) (s : State) : Host.Outcome State Fault Refusal := .next (settle (doApplyFaultRepair t) s)

/-- LEDGER_READY (R206). -/
def execLedgerReady (owner : Nat) (fresh : Bool) (s : State) : Host.Outcome State Fault Refusal :=
  .next (settle (doLedgerReady owner fresh) s)

end Sys2Proof.Machine
end

