-- ==== Sys2Proof/Machine/RowWrite.lean ====
section
/-! DEFINITION. ROW_WRITE (R71, R157, R214, R230, R231, R391), the commit of shelved rows and their slots (R232 to R234),
and the heat instruments (R244, R245). -/

namespace Sys2Proof.Machine

/-! ## The source of a ROW_WRITE -/

/-- The bytes of one row of the source. -/
def rowLen (k : Task) : Nat := if rwQuant k.desc then 4 * sdDim k.shard0 else rowS k.shard0

/-- The Pod to which row i of a ROW_WRITE was dealt (R14). -/
def rowPod (s : State) (k : Task) (i : Nat) : Nat := dealPod (dealOrder s k.rowStart) i

/-- A table that holds a key is bound: its rows come sealed (R391). -/
def tableKey (s : State) (t : Nat) : Option (List Byte) := (s.msc.tableKeys.find? (fun x => x.1 == t)).map (·.2)

/-- The sealed chunks of a source from a byte offset on, that begin at a row: their rows, and the row of the first chunk
that fails. -/
def sealedFrom (s : State) (k : Task) (key : List Byte) : Nat → Nat → Nat → List (List Byte) × Option Nat
  | 0, _, _ => ([], none)
  | n + 1, off, row =>
    let d := k.desc
    let stop := rwRow d + rwCount d
    let size := rowS k.shard0
    if stop ≤ row then ([], none)
    else
      let hdr := loadAw s (rwSrc d + off) 32
      let cnt := numAt 16 4 hdr
      let first := numAt 8 8 hdr
      let body := cnt * size
      let ok := numAt 0 4 hdr == 0x49534B4A && numAt 4 2 hdr == dTable d && numAt 6 2 hdr == 0 && first == row &&
        decide (1 ≤ cnt) && decide (cnt ≤ 4096) && decide (row + cnt ≤ stop) && numAt 20 4 hdr == size && numAt 24 8 hdr == 0
      let text := loadAw s (rwSrc d + off + 32) (body + 16)
      match (if ok then Config.gcmOpen key (leBytes 8 first ++ [0, 0, 0, 0]) hdr (text.take body) (text.drop body) else none) with
      | none => ([], some (first % 2 ^ 40))
      | some plain =>
        let rows := (List.range cnt).map (fun i => sliceBytes (i * size) size plain)
        let rest := sealedFrom s k key n (off + roundUp (32 + body + 16) 32) (row + cnt)
        (rows ++ rest.1, rest.2)

/-- Row i of the source: its bytes, or the fault of its stream and the stream's kind. -/
def rowSource (s : State) (k : Task) (i : Nat) : Except Flt (List Byte) :=
  let d := k.desc
  let n := rowLen k
  if rwInline d then .ok ((rwData d).take n)
  else
    let w := rwSrc d
    let pod := rowPod s k i
    match streamRead s k pod 7 ⟨w, 0⟩ (wordReg false w) (wordReg true 0) (rwCount d) n n [(w + i * n, n)] with
    | .error f => .error f
    | .ok cs =>
      match streamSlot s k pod 7 with
      | .system => .ok (delivered s n cs)
      | _ => .ok ((delivered s ((i + 1) * n) cs).drop (i * n))

/-- What the rows of a ROW_WRITE give: the row, a fault, or a sealed chunk that fails at a row. -/
inductive SrcRes where
  | row (bs : List Byte)
  | bad (f : Flt)
  | unsealed (first : Nat)
  deriving DecidableEq, Repr

/-- Row i of a ROW_WRITE, through the seal of a bound table. -/
def rowOfTask (s : State) (k : Task) (i : Nat) : SrcRes :=
  match tableKey s (dTable k.desc) with
  | none => (match rowSource s k i with | .ok bs => .row bs | .error f => .bad f)
  | some key =>
    let x := sealedFrom s k key (rwCount k.desc) 0 (rwRow k.desc)
    match x.1[i]? with
    | some bs => .row bs
    | none => .unsealed (x.2.getD (rwRow k.desc + i))

/-! ## ROW_WRITE -/

/-- The shards that a ROW_WRITE reaches. -/
def rowShards (s : State) (d : Desc) : List Nat :=
  let e := dirAt s (dTable d)
  let a := shardOf e (rwRow d)
  let b := shardOf e (rwRow d + rwCount d - 1)
  (List.range (b + 1 - a)).map (fun i => shardIndex e (a + i))

/-- A shard takes no ROW_WRITE: a direct one of rows above 128 bytes in service (R230), or one whose replacement is
committed (Table 9.1; log 40). -/
def shardRefuses (s : State) (idx : Nat) : Bool :=
  let x := descAt s idx
  (!sdShelved x && decide (128 < rowS x) && (sdState x == 1 || sdState x == 3)) || isCommitted s idx x

/-- The next row of a task is written or packed. -/
def nextRow (t : Nat) (s : State) : State := modTask t (fun k => { k with copyPos := k.copyPos + 1 }) s

/-- Counts the encoding of a task's row (R80, R169). -/
def countRow (k : Task) (pod : Nat) (c : RowCtx) (enc : Option Encoded) (s : State) : State :=
  match enc with
  | none => s
  | some e => modTask k.id (fun j => { j with sats := j.sats + e.sats, escapes := j.escapes + e.side.length })
      (countStored pod c e s)

/-- Writes one row of a table without TRAIN at its home here, on the Pod to which it was dealt (R157); false: it has to wait, or
the task has ended. -/
def writeHere (k : Task) (i : Nat) (c : RowCtx) (bs : List Byte) (s : State) : State × Bool :=
  let pod := rowPod s k i
  match prepRow pod c (rwQuant k.desc) (rwReplace k.desc || k.rescale) bs (some k.id) s with
  | .wait s => (s, false)
  | .fault f s => (taskFault k.id pod 7 f s, false)
  | .ready r s =>
    match putRow c r.bytes r.side .output (some k.id) s with
    | .done s => (nextRow k.id (countRow k pod c r.enc s), true)
    | .pend _ s => (nextRow k.id (countRow k pod c r.enc s), true)
    | .wait s => (s, false)

/-- Sends one row of a table without TRAIN to its home on another engine. The manual names no transfer for it: it goes as a
row-write parcel outside the Ledger, with SEQ 0 and the task as its tag in STEP, and the home writes it by its own rules and
acknowledges the tag (log 41). -/
def writeThere (k : Task) (c : RowCtx) (bs : List Byte) (s : State) : State :=
  let o := sdHome c.x
  let p := parcelAdd { row := c.row, dflt := false, data := bs } { hdr := phSet (headerFor s k o) 223 192 k.id, entries := [] }
  nextRow k.id (modTask k.id (fun j => { j with unacked := j.unacked + 1 })
    (sendCell ctParcel o (parcelSize p) ((parcelBytes p).map (·.toNat)) s))

/-- The descriptor index of row i of a ROW_WRITE. -/
def rowIdx (s : State) (k : Task) (i : Nat) : Nat :=
  let e := dirAt s (dTable k.desc)
  shardIndex e (shardOf e (rwRow k.desc + i))

/-- Writes or packs row i of a task; false: it has to wait, or the task has ended. -/
def writeRow (k : Task) (i : Nat) (s : State) : State × Bool :=
  let d := k.desc
  let t := dTable d
  let e := dirAt s t
  let row := rwRow d + i
  let idx := rowIdx s k i
  let x := descAt s idx
  let c : RowCtx := { idx := idx, x := x, row := row, pos := posOf e row }
  let pod := rowPod s k i
  if !deValid e ∨ sdTable x ≠ t then (endTask k.id stTableOffline 0 0 s, false)
  else if sdTableLevel x ≠ sdTableLevel k.shard0 then (endTask k.id stTableMismatch 0 0 s, false)
  else
    match rowOfTask s k i with
    | .bad f => (taskFault k.id pod 7 f s, false)
    | .unsealed first =>
      (endTask k.id stAbortedFault 7 first (post0 evMscSealFail t (first + dTag d <<< 40) s), false)
    | .row bs =>
      if !rwQuant d && sdEsc x && rowMalformed x bs then (taskFault k.id pod 7 (rowFlt idx c.pos) s, false)
      else if sdTrain x then
        if mayPack s k then
          let s := packFor k (sdHome x) { row := row, dflt := false, data := bs } none (nextRow k.id s)
          (s, goesOn s k.id)
        else (s, false)
      else if homedHere s x then
        (if (sdTier x = 1 ∨ rowSlotTier s x (writeBase s idx x) c.pos = 1) ∧ hostHeld s then (s, false) else writeHere k i c bs s)
      else (writeThere k c bs s, true)

/-- Writes rows until one has to wait, at most n of them, each with a lookup of its shard's descriptor (R52). -/
def writeRows (t : Nat) : Nat → State → State
  | 0, s => s
  | n + 1, s =>
    match getTask s t with
    | none => s
    | some k =>
      if !goesOn s t ∨ rwCount k.desc ≤ k.copyPos then s
      else
        let x := writeRow k k.copyPos s
        if x.2 then writeRows t n (useDesc (rowIdx s k k.copyPos) x.1) else x.1

/-- Sends every released parcel that may go, at most n of them. -/
def sendAll : Nat → State → State
  | 0, s => s
  | n + 1, s => sendAll n (forEach doParcelSend ((s.upu.ring.filter (fun r => !r.2.sent)).map (·.1 % 1024)).eraseDups s)

/-- ROW_WRITE: every row is written at its home, or goes through the Ledger on a training table. -/
def doRowWrite (t : Nat) (s : State) : State :=
  match liveTask s t opRowWrite with
  | none => s
  | some k =>
    let d := k.desc
    if k.err.isSome ∨ k.released ∨ wordsHeld s d then s
    else if k.copyPos = 0 ∧ (rowShards s d).any (shardRefuses s) then endTask t stTableMismatch 0 0 s
    else if (tableKey s (dTable d)).isSome ∧ (rwQuant d ∨ rwInline d) then endTask t stAccessDenied 0 0 s
    else
      let s := rowsDone t (writeRows t (rwCount d) s)
      if viaLedger k then
        let s := doParcelRelease t s
        sendAll s.upu.ring.length s
      else s

/-- ROW_WRITE (R71). -/
def execRowWrite (t : Nat) (s : State) : Host.Outcome State Fault Refusal := .next (doRowWrite t s)

/-! ## Shelved rows and their slots (R232 to R234) -/

/-- SHELVED_ROW_COMMIT: what the fresh slot got is visible, no earlier write of the row waits, and no other engine holds
the row; its shelfmark is committed. -/
def doShelvedRowCommit (w : Nat) (s : State) : State :=
  match s.cat.pend.find? (fun p => p.w == w) with
  | none => s
  | some p =>
    let x := descAt s p.idx
    let t := sdTable x
    let row := rowOf (dirAt s t) (sdShard x) p.pos
    if gated s 1 ∨ p.task.isNone ∨ !pendVisible s p (sdTier x) ∨
        s.cat.pend.any (fun q => q.idx == p.idx && q.pos == p.pos && decide (q.w < p.w)) then s
    else if p.mark = rowAddr x (sdBase x) p.pos ∧ !(holdersOf s t row).isEmpty then askInval t row s
    else
      let s := commitShelved p s
      match p.task with
      | none => s
      | some k => rowsDone k s

/-- SHELVED_ROW_COMMIT (R233). -/
def execShelvedRowCommit (w : Nat) (s : State) : Host.Outcome State Fault Refusal := .next (doShelvedRowCommit w s)

/-- SLOT_QUARANTINE_END: slots freed in folio f leave quarantine when folio f + 2 has begun, and rows of a move that wait here
for a slot take them. -/
def doSlotQuarantineEnd (ring : Nat) (s : State) : State :=
  let now := folio s
  copyRetry (modSlotRing ring (fun r => { r with
    ret := r.ret.map (fun f => if f.folio + 2 ≤ now then { f with ready := true } else f) }) s)

/-- SLOT_QUARANTINE_END (R234). -/
def execSlotQuarantineEnd (ring : Nat) (s : State) : Host.Outcome State Fault Refusal :=
  .next (whenS (decide (ring < 8) && !gated s 1) (doSlotQuarantineEnd ring) s)

/-- The role that writes an entry. -/
def odNeed (key : Nat) : Role := ((odFind key).map (·.role)).getD .service

/-- The fields of a slot ring that stay while it is enabled: everything but TAIL, ENABLE and what the engine keeps. -/
def slotFields (v : Nat) : Nat × Nat × Nat × Nat := (srSize v, srTier v, srLog v, srBase v)

/-- CAT_SLOTRING_k takes a value: none refuses it (R232). Rows of a move that wait here for a slot take the new ones. -/
def slotringApply (k v : Nat) (s : State) : Option State :=
  let old := slotCtl s k
  let new := setBits v 223 160 0
  let on := bitOf new 76
  let was := bitOf old 76
  let reserved := bitsOf v 255 224 ≠ 0 || bitsOf v 127 85 ≠ 0 || bitsOf v 79 77 ≠ 0
  let fields := decide (10 ≤ srLog v) && decide (srLog v ≤ 24) && decide (32 ≤ srSize v) && decide (srTier v < 2) &&
    srBase v % 4096 == 0
  let twin := (List.range 8).any (fun j => j != k && bitOf (slotCtl s j) 76 && srSize (slotCtl s j) == srSize v &&
    srTier (slotCtl s j) == srTier v)
  let r := slotRing s k
  let n := srLog v
  let bell := decide (ptrSub n (srTail old) r.head ≤ ptrSub n (srTail new) r.head) && decide (ptrSub n (srTail new) r.head ≤ 2 ^ n) &&
    decide (srTail new < 2 ^ (n + 1))
  if reserved || (on && (!fields || twin)) || (was && on && (slotFields old != slotFields new || !bell)) ||
      (was && !on && slotFields old != slotFields new) then none
  else if on && !was then
    some (modSlotRing k (fun _ => {}) (odSet (odCatSlotring + k) (setBits new 159 128 0) s))
  else some (copyRetry (odSet (odCatSlotring + k) new s))

/-- CAT_SLOTRING_WRITE. -/
def doCatSlotringWrite (k v : Nat) (role : Role) (s : State) : State :=
  if 8 ≤ k then odAnswer osNoEntry s
  else odTry (odCatSlotring + k) (odNeed (odCatSlotring + k)) role v (slotringApply k v) s

/-- CAT_SLOTRING_WRITE (R232). -/
def execCatSlotringWrite (k v : Nat) (role : Role) (s : State) : Host.Outcome State Fault Refusal :=
  .next (doCatSlotringWrite k v role s)

/-! ## Heat (R244, R245) -/

/-- A row's estimate, summed over Pods. -/
def heatSum (s : State) (key : Nat) : Nat := sumOf (fun p => heatEstimate (getPod s p) key) podNums

/-- The record of a row in IXU_HEAT_TOP. -/
def heatRecord (key est : Nat) : Nat :=
  bitsOf key 55 40 + (key % 2 ^ 40) <<< 16 + (satTo (2 ^ 32 - 1) est) <<< 64

/-- Puts a row into a list in descending order of estimate. -/
def heatInsert (x : Nat × Nat) : List (Nat × Nat) → List (Nat × Nat)
  | [] => [x]
  | y :: ys => if y.2 < x.2 then x :: y :: ys else y :: heatInsert x ys

/-- The candidates of all Pods, each once, in descending order of estimate. -/
def heatOrder (s : State) : List (Nat × Nat) :=
  let keys := (podNums.flatMap (fun p => ((getPod s p).cand).map (·.1))).eraseDups
  keys.foldl (fun acc k => heatInsert (k, heatSum s k) acc) []

/-- HEAT_WINDOW_BOUNDARY: at a folio that begins a window, the candidate lists merge into IXU_HEAT_TOP and every counter is
halved. The lists begin the window empty (log 39). -/
def doHeatWindowBoundary (s : State) : State :=
  if folio s % odGet s odIxuHeatWindow ≠ 0 ∨ gated s 2 then s
  else
    let top := ((heatOrder s).take 256).zipIdx.foldl (fun v c => v + (heatRecord c.1.1 c.1.2) <<< (128 * c.2)) 0
    let s := odSet odIxuHeatTop top s
    onPods (fun ps => ps.map (fun p => (p.1, { p.2 with
      cand := [], sketch := (p.2.sketch.map (fun c => (c.1, c.2 / 2))).filter (fun c => c.2 != 0) }))) s

/-- HEAT_WINDOW_BOUNDARY (R245). -/
def execHeatWindowBoundary (s : State) : Host.Outcome State Fault Refusal := .next (doHeatWindowBoundary s)

/-- IXU_HEAT_QUERY takes a row key: IXU_HEAT_ESTIMATE returns its estimate. -/
def heatQueryApply (key : Nat) (s : State) : Option State :=
  if 2 ^ 56 ≤ key then none
  else some (odSet odIxuHeatEstimate (satTo (2 ^ 32 - 1) (heatSum s key)) (odSet odIxuHeatQuery key s))

/-- IXU_HEAT_QUERY (R245). -/
def execIxuHeatQuery (key : Nat) (role : Role) (s : State) : Host.Outcome State Fault Refusal :=
  .next (odTry odIxuHeatQuery (odNeed odIxuHeatQuery) role key (heatQueryApply key) s)

end Sys2Proof.Machine
end

