-- ==== Sys2Proof/Machine/Telemetry.lean ====
section
/-! DEFINITION. Telemetry (R87, R459, Table 3.26) and the counters that confidential mode coarsens (R395). -/

namespace Sys2Proof.Machine

/-! ## Coarse values (R395) -/

/-- The largest power of two not above n, searched from 2^k down. -/
def pow2Below (n : Nat) : Nat → Nat
  | 0 => 1
  | k + 1 => if 2 ^ (k + 1) ≤ n then 2 ^ (k + 1) else pow2Below n k

/-- A value rounded down to a multiple of the largest power of two not above 1/64 of it. -/
def coarse (v : Nat) : Nat := if v < 128 then v else v - v % pow2Below (v / 64) 64

/-- The reading of the input (power in W, current in 10 mA, voltage in mV): in confidential mode the means of the last
10 ms window, power in steps of 5 W and current in steps of 0.1 A. -/
def peuReading (s : State) : Nat × Nat × Nat :=
  if confidential s then
    let m := s.cru.mean
    (m.1 - m.1 % 5, m.2.1 - m.2.1 % 10, m.2.2)
  else (s.cru.pin, s.cru.iin, s.cru.vin)

/-! ## The values of Table 3.26 -/

/-- The sum of MSC_ERR_COUNTS. -/
def errTotal (s : State) : Nat :=
  (List.range 18).foldl (fun n c => n + bitsOf (odGet s odMscErrCounts) (64 * c + 63) (64 * c)) 0

/-- T0 to T5 of a subsystem as running counts. -/
def telCounts (s : State) : Nat → List Nat
  | 0 => [s.cfe.fetched, s.cfe.records, s.cfe.refused, s.cfe.badBells, s.cfe.dropped]
  | 1 => [odGet s odCatHits, odGet s odCatMisses, odGet s odCatMissWaits, odGet s odCatLateRereads,
          odGet s odCatSlotWaits, odGet s odCatReadsPassed]
  | 2 => [s.gau.taken, odGet s odIxuFolded, odGet s odIxuDefaultsRange, odGet s odIxuDefaultsAbsent,
          odGet s odIxuParkStalls]
  | 3 => [s.gau.issued, s.gau.bytes, odGet s odGauSlotWaits, s.gau.faults]
  | 4 => [odGet s odStkHits, odGet s odStkMisses, odGet s odStkMerged, odGet s odStkWeedHits,
          odGet s odStkStaleReissues, odGet s odStkPrefetchUsed]
  | 5 => [s.mss.atomsRead, s.mss.atomsWritten, odGet s odMssCrcRetries, odGet s odMssRetrains, odGet s odMssTagFails,
          s.mss.throttled]
  | 6 => [s.gau.bags, odGet s odPluTreeWaits, odGet s odPluReturnWaits, odGet s odPluTileBusy, odGet s odPluNonfinite,
          odGet s odPluBagLong]
  | 7 => [odGet s odFluPasses, odGet s odFluPartialPasses, odGet s odFluActiveCycles, odGet s odFluRamps,
          odGet s odFluPreloadMisses, odGet s odFluWloadBytes]
  | 8 => [s.gau.exported, odGet s odQntExportSat, s.gau.sats, s.gau.ress, odGet s odQntEscDropped, odGet s odQntCbWaits]
  | 9 => [odGet s odUpuParcelsSent, odGet s odUpuParcelsResent, s.upu.journalled, odGet s odUpuRowsSkipped,
          odGet s odUpuCoalesced]
  | 10 => [s.hpt.bytesRead, s.hpt.bytesWritten, s.hpt.transMisses, odGet s odHptRetainStalls,
           odGet s odHptInboundRejects, odGet s odHptSnoopRecalls]
  | 11 => [s.sfp.cellsSent, s.sfp.cellsRecv, odGet s odSfpLinkRetries, odGet s odSfpReadReissues, odGet s odSfpAuthFails,
           odGet s odSfpReplayDrops]
  | 12 => [s.fsu.admitted, odGet s odFsuCarry, odGet s odFsuOverruns, odGet s odFsuBudgetAborts,
           odGet s odFsuDegradedFolios, s.fsu.applied]
  | 13 => [s.msc.answered, s.msc.mbAnswered, errTotal s]
  | 14 => [odGet s odCruCoasts, odGet s odCruPodResets, odGet s odCruD2dFails, s.cru.skipped]
  | 15 => [s.cru.energy / 100, odGet s odPeuLimitFolios]
  | _ => []

/-- The levels of a subsystem, with their places: GAU_ARB_STATE, UPU_RETAINED_BYTES and the extremes of the PEU since the
last entry of a ring. In confidential mode a PEU reading is its mean (R395). -/
def telLevels (s : State) (r : Ring) : Nat → List (Nat × Nat)
  | 3 => [(4, odGet s odGauArbState)]
  | 9 => [(5, odGet s odUpuRetainedBytes)]
  | 15 =>
    let now := peuReading s
    let p := r.peaks.getD (s.cru.pressure, s.cru.vin, s.cru.iin)
    let v := if confidential s then now.2.2 else p.2.1
    let i := if confidential s then now.2.1 else p.2.2
    [(2, p.1), (3, v), (4, 10 * i)]
  | _ => []

/-- T0 to T5 of a subsystem for a ring: counts as their increase since the last entry, coarse in confidential mode. -/
def telValues (s : State) (r : Ring) (sub : Nat) : List Nat :=
  let now := telCounts s sub
  let old (i : Nat) : Nat := tabGet (8 * sub + i) 0 r.latched
  let counts := (List.range 6).map (fun i =>
    let d := now.getD i 0 - old i
    if confidential s then coarse d else d)
  (telLevels s r sub).foldl (fun l x => l.set x.1 x.2) counts

/-- The counts of every subsystem as they stand, to be subtracted from the next entry's. -/
def telLatch (s : State) : List (Nat × Nat) :=
  (List.range 16).flatMap (fun sub => ((telCounts s sub).zipIdx.filter (fun c => c.1 != 0)).map (fun c => (8 * sub + c.2, c.1)))

/-! ## The rings (R83, R85, R87) -/

/-- An entry of telemetry ring j is visible: CFE_TEL_TAIL advances. -/
def telVisible (j : Nat) (s : State) : State :=
  modTel j (fun r => { r with tail := ptrStep (telLog r) r.tail }) s

/-- Writes 64 bytes into the next slot of telemetry ring j, with the PHASE of the pass. -/
def telWrite (j head : Nat) (rest : List Byte) (s : State) : State :=
  let r := getTel s j
  let n := telLog r
  let bytes := leBytes 16 (setBits head 20 20 (phaseOf n r.next.val)) ++ rest
  let a := r.base + 64 * (r.next.val % 2 ^ n)
  let s := modTel j (fun r => { r with next := ptrStep n r.next }) s
  if awSpace r.base = 0 then postWrite (awPath a) (awAddr a) bytes none (.telemetry j) s
  else telVisible j (storeAw a bytes none s)

/-- A telemetry ring whose pointers disagree is reset, with CFE_QUEUE_RESET on event ring 0 (Table 3.1). -/
def telReset (j : Nat) (s : State) : State :=
  post0 evCfeQueueReset j (resetDetail 3 0) (modTel j ringZero (forgetWrites (.telemetry j) (ringResetErr 3 j s)))

/-- The use of a pointer of telemetry ring j compares its copies (R56). -/
def telCheck (j : Nat) (s : State) : State :=
  if ringOn (getTel s j) && ringBroken (getTel s j) then telReset j s else s

/-- The write of an entry of telemetry ring j is acknowledged: its copies compared, CFE_TEL_TAIL advances. -/
def telAcked (j : Nat) (s : State) : State :=
  if ringOn (getTel s j) && ringBroken (getTel s j) then telReset j s else telVisible j s

/-- The gap marker of telemetry ring j (R85, R87). -/
def telGap (j : Nat) (s : State) : State :=
  let s := telCheck j s
  let r := getTel s j
  if ringOn r && decide (0 < r.drops) && !ringFull (telLog r) r.next.val r.head.val then
    let h := setBit (eventEntry evCfeEvqGap j (satTo 65535 r.drops) (folio s) 0) 17 true
    telWrite j h (leBytes 16 (gapDetail r) ++ List.replicate 32 0)
      (modTel j (fun r => { r with drops := 0, firstDrop := 0, lastDrop := 0 }) s)
  else s

/-- Writes the entry of a subsystem in telemetry ring j, or counts its drop. -/
def telEntry (j sub : Nat) (s : State) : State :=
  let s := telGap j s
  let r := getTel s j
  if ringFull (telLog r) r.next.val r.head.val then
    modTel j (fun r => { r with
      firstDrop := if r.drops = 0 then folio s else r.firstDrop, lastDrop := folio s,
      drops := r.drops + 1, totalDrops := r.totalDrops + 1 }) s
  else
    let head := sub <<< 12 + (bitsOf r.ctlNow 15 8) <<< 32 + (folio s % 2 ^ 48) <<< 64
    telWrite j head ((telValues s r sub).flatMap (fun v => leBytes 8 (v % 2 ^ 64))) s

/-- A folio boundary at telemetry ring j: after PERIOD folios each masked subsystem that is not gated writes an entry in
ascending order, and a changed PERIOD or MASK takes effect and counts from here (R459). -/
def telBoundary (j : Nat) (s : State) : State :=
  let s := telCheck j s
  let r := getTel s j
  if !ringOn r then s
  else
    let due := ringOn { r with ctl := r.ctlNow } && decide (bitsOf r.ctlNow 15 8 ≤ r.count + 1)
    let changed := bitsOf r.ctl 31 8 != bitsOf r.ctlNow 31 8 || !bitOf r.ctlNow 0
    let fresh := telLatch s
    let s := if due then
        forEach (fun sub s => telEntry j sub s)
          ((List.range 16).filter (fun x => bitOf r.ctlNow (16 + x) && !gated s x)) s
      else s
    modTel j (fun r => { r with
      ctlNow := r.ctl, count := if due || changed then 0 else r.count + 1,
      latched := if due || changed then fresh else r.latched,
      peaks := if due || changed then none else r.peaks }) s

/-- The telemetry of a folio boundary. -/
def telemetry (s : State) : State := forEach telBoundary (List.range 8) s

end Sys2Proof.Machine
end

