-- ==== Sys2Proof/Machine/Folio.lean ====
section
/-! DEFINITION. The folio time base (14, R353 to R361, R363, R368, R369): the boundary with its merges (R154, R171,
R243), markers (R344, R356) and J_FOLIO_IN (R359). -/

namespace Sys2Proof.Machine

/-! ## Degraded folios (R361) -/

/-- CAUSE bits of Table 14.2. -/
def dcNoMarker : Nat := 1
/-- STEP. -/
def dcStep : Nat := 2
/-- COAST. -/
def dcCoast : Nat := 4
/-- TICK. -/
def dcTick : Nat := 8
/-- UNALIGNED. -/
def dcUnaligned : Nat := 16

/-- Causes hold in the folio that begins: the first folio of a run raises FSU_DEGRADED. -/
def enterDegraded (causes : Nat) (s : State) : State :=
  let first := s.fsu.run == 0
  let s := onFsu (fun f => { f with cause := causes, run := f.run + 1 }) s
  let s := odCount odFsuDegradedFolios 1 s
  if first then post0 evFsuDegraded 0 causes s else s

/-- A cause comes up during the folio. -/
def degrade (c : Nat) (s : State) : State :=
  if s.fsu.cause = 0 then enterDegraded c s else onFsu (fun f => { f with cause := f.cause ||| c }) s

/-- The run of degraded folios is over: FSU_ALIGNED. -/
def endRun (s : State) : State :=
  if s.fsu.run = 0 then s
  else post0 evFsuAligned 0 (s.fsu.run % 2 ^ 32) (onFsu (fun f => { f with run := 0 }) s)

/-- The causes of the folio that begins: those left for it, a coast, and for a member that no marker has been
accepted since reset. -/
def causesAtStart (s : State) : Nat :=
  s.fsu.causeNext ||| (if s.cru.coast then dcCoast else 0) |||
    (if startsOwn s || s.sfp.marked then 0 else dcUnaligned)

/-- The flag and causes of the folio that begins. A member's run ends once a marker has come in a folio without a
cause; an engine that starts its own folios sees it at once. -/
def setCauses (s : State) : State :=
  let c := causesAtStart s
  let s := onFsu (fun f => { f with cause := 0, causeNext := 0 }) s
  if c ≠ 0 then enterDegraded c s else if startsOwn s then endRun s else s

/-! ## Merges at the boundary (R154, R171, R243) -/

/-- The counts of every Pod for each shard, added up. -/
def qstatsSum (s : State) : List (Nat × (Nat × Nat)) :=
  (podNums.flatMap (fun p => (getPod s p).qstats)).foldl
    (fun t x => tabMod x.1 (0, 0) (fun c => (c.1 + x.2.1, c.2 + x.2.2)) t) []

/-- Merges one shard's counts of folio f into its statistics entry (Table 6.4). -/
def mergeStats (f idx sat res : Nat) (s : State) : State :=
  let a := statsAddr s idx
  let e := leNat (gddrLoad s a 16)
  let w := f - f % s.gau.window
  let e := if bitsOf e 111 64 = w then e else w <<< 64
  let sats := satTo (2 ^ 32 - 1) (bitsOf e 31 0 + sat)
  let ress := satTo (2 ^ 32 - 1) (bitsOf e 63 32 + res)
  let low := odGet s odQntSatThresh ≠ 0 && decide (odGet s odQntSatThresh ≤ sats) && !bitOf e 112
  let high := odGet s odQntResThresh ≠ 0 && decide (odGet s odQntResThresh ≤ ress) && !bitOf e 113
  let e := setBits (setBits e 31 0 sats) 63 32 ress
  let e := setBit (setBit e 112 (bitOf e 112 || low)) 113 (bitOf e 113 || high)
  let s := gddrStore a (leBytes 16 e) s
  let t := sdTable (descAt s idx)
  let s := if low then post0 evQntScaleLow t (idx % 2 ^ 20 + sats <<< 32 + w <<< 64) s else s
  if high then post0 evQntScaleHigh t (idx % 2 ^ 20 + ress <<< 32 + w <<< 64) s else s

/-- The merge of R171 at the boundary that ends folio f. -/
def statsBoundary (f : Nat) (s : State) : State :=
  let s := forEach (fun x s => mergeStats f x.1 x.2.1 x.2.2 s) (qstatsSum s) s
  let s := onPods (fun ps => ps.map (fun p => (p.1, { p.2 with qstats := [] }))) s
  let w := odGet s odQntWindow
  onGau (fun g => { g with window := w }) s

/-- The residual slots that are in effect from the boundary on (R155). -/
def residBoundary (s : State) : State :=
  let rs := (List.range 16).filterMap (fun k =>
    let v := odGet s (odQntResid + k)
    if v = 0 then none else some (k, v))
  onGau (fun g => { g with resid := rs }) s

/-- QNT_EXPORT_MAXABS takes the largest m of the folio that ends (R154). -/
def maxabsBoundary (s : State) : State :=
  odSet odQntExportMaxabs s.gau.maxabs.toNat (onGau (fun g => { g with maxabs := 0 }) s)

/-- Merges one shard's circulation of folio f into its entry (Table 9.4). -/
def mergeCirc (f idx : Nat) (c : Nat × Nat × Nat × Nat) (s : State) : State :=
  let a := s.cat.circBase + 32 * idx
  let old := leNat (gddrLoad s a 32)
  let reads := satTo (2 ^ 32 - 1) c.1
  let ents := satTo (2 ^ 32 - 1) c.2.2.2
  let w := f - f % odGet s odCatHotWindow
  let busy := (odGet s odCatHotReads ≠ 0 && decide (odGet s odCatHotReads ≤ reads)) ||
    (odGet s odCatHotEntries ≠ 0 && decide (odGet s odCatHotEntries ≤ ents))
  let hot := busy && bitsOf old 207 160 != w
  let e := reads + (satTo (2 ^ 32 - 1) c.2.1) <<< 32 + (satTo (2 ^ 40 - 1) c.2.2.1) <<< 88 + ents <<< 128 +
    (if hot then w else bitsOf old 207 160) <<< 160 + (f % 2 ^ 48) <<< 208
  let s := gddrStore a (leBytes 32 e) s
  if hot then
    post0 evCatShardHot (sdTable (descAt s idx)) (idx % 2 ^ 20 + reads <<< 32 + ents <<< 64 + (f % 2 ^ 48) <<< 96) s
  else s

/-- The merge of R243 at the boundary that ends folio f. -/
def circBoundary (f : Nat) (s : State) : State :=
  let s := forEach (fun x s => mergeCirc f x.1 x.2 s) s.cat.circ s
  onCat (fun c => { c with circ := [] }) s

/-! ## Budgets (R363, R368, R369) -/

/-- A task that is admitted and has not passed its finish point. -/
def inWork (k : Task) : Bool := (k.phase == .admitted || k.phase == .stalled) && k.admitFolio != 0 && k.finishFolio.isNone

/-- A STRICT task unfinished at its first boundary ends with BUDGET_ABORT (R369). -/
def strictAborts (s : State) : State :=
  let ts := (s.cfe.tasks.filter (fun k => inWork k && dStrict k.desc && k.err.isNone)).map (·.id)
  forEach (fun t s => odCount odFsuBudgetAborts 1 (endTask t stBudgetAbort 0 0 s)) ts s

/-- ⌈a · b / c⌉, and 0 for c = 0. -/
def shareOf (a b c : Nat) : Nat := if c = 0 then 0 else cdiv (a * b) c

/-- The rows of a ROW_WRITE, which count as bags (R362): one that is written or packed has passed every phase. -/
def rowDeals (s : State) (k : Task) : List Deal :=
  let order := dealOrder s k.rowStart
  (List.range (rwCount k.desc)).map (fun i =>
    let passed := decide (i < k.copyPos)
    { bag := i, pod := dealPod order i, passedG := passed, passedF := passed, passedX := passed })

/-- What a task carries into the folio that begins: budget and units (R368). -/
def carryOf (s : State) (k : Task) : List (Nat × Nat) :=
  let ds := if dOp k.desc = opRowWrite then rowDeals s k else k.deals
  let n := ds.length
  (podNums.flatMap (fun p =>
    let mine := ds.filter (fun x => x.pod == p)
    let b := mine.length
    let left (f : Deal → Bool) : Nat := (mine.filter (fun x => !f x)).length
    [(3 * p, shareOf (shareOf k.phases.1 b n) (left (·.passedG)) b),
     (3 * p + 1, shareOf (shareOf k.phases.2.1 b n) (left (·.passedF)) b),
     (3 * p + 2, shareOf (shareOf k.phases.2.2.1 b n) (left (·.passedX)) b)])).filter (fun x => x.2 != 0)

/-- Every carry into the folio that begins. -/
def carries (s : State) : List (Nat × Nat) :=
  (s.cfe.tasks.filter (fun k => inWork k && !dStrict k.desc && k.err.isNone)).flatMap (carryOf s)

/-- The budgets of the folio that begins, each less what is carried into it. -/
def newBudgets (s : State) : State :=
  let cs := carries s
  let sum (key : Nat) : Nat := (cs.filter (fun c => c.1 == key)).foldl (fun n c => n + c.2) 0
  let full := (List.range 49).map (fun key => (key, budgetAt s key))
  let s := odCount odFsuCarry (cs.foldl (fun n c => n + c.2) 0) s
  onFsu (fun f => { f with
    full := full, remaining := full.map (fun b => (b.1, b.2 - (sum b.1 : Nat))),
    charged := (cs.map (·.1)).eraseDups, pass := true }) s

/-- A boundary passes for every wait with a TIMEOUT (R372). -/
def waitsTick (s : State) : State :=
  onCfe (fun c => { c with tasks := c.tasks.map (fun k => { k with waitLeft := k.waitLeft.map (· - 1) }) }) s

/-! ## What each engine sends at a boundary (R338, R339, R344, R348) -/

/-- The two floors over the Registrar and the members that are not left out (R242, R339); none while a member has still
to report. -/
def floorsNow (s : State) : Option (Nat × Nat) :=
  let ms := (members s).filter (fun m => m != s.sfp.engineId && !s.sfp.silent.contains m)
  if ms.all (fun m => (tabFind m s.sfp.reports).isSome) then
    some (ms.foldl (fun acc m =>
      let r := tabGet m (0, 0, 0) s.sfp.reports
      (epochMin acc.1 r.1, min acc.2 r.2.1)) (ownEpochFloor s, ownAdmFloor s))
  else none

/-- The marker of the folio that begins (Table 13.6). -/
def markerNum (s : State) : Nat :=
  (folio s % 2 ^ 48) + (periodNow s % 2 ^ 16) <<< 64 + (s.sfp.engineId % 2 ^ 10) <<< 96 +
  (odGet s odSfpTerm % 2 ^ 16) <<< 112 + (s.sfp.collId % 2 ^ 32) <<< 160

/-- MARKER_SEND: the Registrar sends a marker through every port that is up. -/
def sendMarkers (s : State) : State :=
  let m := markerNum s
  forEach (fun k s =>
    if portUp s k then
      onSfp (fun f => { f with
        cellsSent := f.cellsSent + 1,
        sentCells := { type := ctMarker, dst := 0x3FF, xid := 0, payload := [k, m] } :: f.sentCells }) s
    else s) (List.range 8) s

/-- The Registrar distributes the floors. -/
def sendFloors (s : State) : State :=
  match floorsNow s with
  | none => s
  | some f =>
    let s := onSfp (fun g => { g with epochFloor := f.1, admFloor := f.2 }) s
    forEach (fun m s =>
      if m = s.sfp.engineId then s else sendCtl ctControl m [3, f.1, f.2] none s) (members s) s

/-- A member reports its floors and its folio number to the Registrar (R358). -/
def sendReport (s : State) : State :=
  let r := odGet s odSfpRegistrar
  if r < 1024 ∧ r ≠ s.sfp.engineId then
    sendCtl ctControl r [4, ownEpochFloor s, ownAdmFloor s, folio s] none s
  else s

/-- The messages of a folio. -/
def folioMessages (s : State) : State :=
  let s := if alone s then s else if s.sfp.registrar then sendFloors (sendMarkers s) else sendReport s
  if s.sfp.partner < 1024 then sendCtl ctControl s.sfp.partner [9] none s else s

/-- One more folio of silence from each engine of SFP_SUCCESSION, the Registrar and the twin. -/
def countSilence (s : State) : State :=
  let es := (succession s ++ [odGet s odSfpRegistrar]).eraseDups.filter (fun e => e < 1024 && e != s.sfp.engineId)
  onSfp (fun f => { f with
    quiet := es.foldl (fun q e => tabMod e 0 (· + 1) q) f.quiet, twinQuiet := f.twinQuiet + 1 }) s

/-! ## Per-folio flags -/

/-- What is raised at most once in a folio may be raised again. -/
def clearOnce (s : State) : State :=
  let s := onGau (fun g => { g with subst := [], substRaised := [] }) s
  let s := onCat (fun c => { c with rings := c.rings.map (fun r => (r.1, { r.2 with emptyRaised := false })) }) s
  let s := onSfp (fun f => { f with
    authRaised := [], markedNow := false, reported := 0, ports := f.ports.map (fun p => (p.1, { p.2 with retries := 0 })) }) s
  let s := onHpt (fun h => { h with rejected := false }) s
  let s := onMss (fun m => { m with chans := m.chans.map (fun c => (c.1, { c.2 with crc := 0 })) }) s
  onMsc (fun m => { m with authRaised := false }) s

/-- PEU_LIMIT_FOLIOS counts a folio in which p was above 0, and PEU_PIN takes the mean over the folio (Table 16.11). -/
def limitBoundary (s : State) : State :=
  let s := if s.cru.limited then odCount odPeuLimitFolios 1 s else s
  let x := s.cru.folioPin
  let s := if x.2 = 0 then s else odSet odPeuPin (1000 * x.1 / x.2 % 2 ^ 32) s
  onCru (fun c => { c with limited := decide (0 < c.pressure), folioPin := (0, 0) }) s

/-! ## The retention ring (R205) -/

/-- The retention ring is full: it has no byte left, or the release of a task waits for room. -/
def ringIsFull (s : State) : Bool :=
  decide (s.upu.retainSize * 2 ^ 20 ≤ ringBytes s) ||
  s.cfe.tasks.any (fun k => k.phase == .admitted && k.err.isNone && viaLedger k && !k.released && packed s k && !ringRoom s k)

/-- UPU_RETAIN_FULL for each folio after one in which the ring was full throughout. -/
def retainBoundary (s : State) : State :=
  let now := ringIsFull s
  let was := s.upu.wasFull
  let s := onUpu (fun u => { u with wasFull := now }) s
  if now ∧ was then
    post0 evUpuRetainFull 0 ((ringBytes s) % 2 ^ 64 + (((s.upu.ring.head?).map (·.1)).getD 0 % 1024) <<< 64) s
  else s

/-! ## Pods that leave and join at a boundary (R441, R442) -/

/-- A Pod with the hub's copies of its user sprouts and microcode (R441). -/
def withImages (imgs : List (Nat × List Word)) (pod : Nat) (p : Pod) : Pod :=
  let mine := imgs.filter (fun x => x.1 / 128 == pod)
  { p with sprouts := (mine.filter (fun x => x.1 % 128 < 64)).map (fun x => (x.1 % 128, x.2)),
           hashes := (mine.filter (fun x => 64 ≤ x.1 % 128)).map (fun x => (x.1 % 128 - 64, x.2)) }

/-- A Pod joins the deal with its images. -/
def joinPod (pod : Nat) (s : State) : State :=
  let imgs := s.msc.images
  podHandlingsOver pod
    (modPod pod (fun p => withImages imgs pod { p with up := true, inReset := false, retired := false, retiring := false }) s)

/-- The next spare is mapped in for a Pod that is still without one (R441). -/
def nextSpare (s : State) : State :=
  match podNums.find? (fun p => (getPod s p).retired) with
  | some p => autoSpare p s
  | none => s

/-- A spare that is ready takes its logical number (R441). -/
def spareBoundary (s : State) : State :=
  match s.msc.sparing with
  | some (d, p, true) =>
    let s := onMsc (fun m => { m with podMap := m.podMap.set d p, sparing := none }) s
    let s := joinPod p s
    nextSpare (post0 evMscSpareMapped p (d + (spareDies s).length <<< 8) s)
  | _ => s

/-- A Pod that MSC_POD_RETIRE names leaves the deal at the first boundary; within eight folios, or once its bags are
done, it is reset and retired (R442). -/
def retireBoundary (s : State) : State :=
  forEach (fun p s =>
    let q := getPod s p
    if !q.retiring then s
    else if q.up then modPod p (fun q => { q with up := false, retireWait := 8 }) s
    else if (tasksOnPod s p).isEmpty ∨ q.retireWait ≤ 1 then retirePod p (podResetCore p 1 none s)
    else modPod p (fun q => { q with retireWait := q.retireWait - 1 }) s) podNums s

/-! ## The boundary (R354) -/

/-- The folio number that the next boundary takes: one on, or the step of R358 on a Registrar. -/
def nextFolio (s : State) : Nat × Bool :=
  if s.sfp.registrar && s.sfp.collId != 0 && decide (folio s ≤ s.sfp.reported) then ((s.sfp.reported + 1) % 2 ^ 48, true)
  else ((folio s + 1) % 2 ^ 48, false)

/-- FSU_STEP: the number before and after, and e in ns. -/
def stepEvent (before after : Nat) (e : Int) (s : State) : State :=
  post0 evFsuStep 0 (before % 2 ^ 48 + (after % 2 ^ 48) <<< 48 + (ofSigned 32 e) <<< 96) s

/-- FSU_PERIOD takes effect on an engine that starts its own folios (R353). -/
def periodBoundary (s : State) : State := if startsOwn s then odSet odFsuPeriodNow (odGet s odFsuPeriod) s else s

/-- The new folio's number, causes and time. -/
def beginFolio (s : State) : State :=
  let n := nextFolio s
  let old := folio s
  let p : Int := periodNow s
  let s := onFsu (fun f => { f with
    folio := n.1, elapsed := 0, correct := 0, localRun := f.localRun + 1, lastGood := f.lastGood.map (· - p),
    causeNext := if n.2 then f.causeNext ||| dcStep else f.causeNext }) s
  let s := periodBoundary s
  let s := if n.2 then stepEvent old n.1 0 s else s
  let out := odGet s odFsuOutEnable = 1
  setCauses (onCru (fun c => { c with folioOut := out }) s)

/-- The counters that confidential mode shows until the next boundary (R395). -/
def latchCounters (s : State) : State :=
  let l := s.od.filter (fun e => (odFind e.1).any (fun x => x.count != .none))
  onMsc (fun m => { m with latched := (odHptTransMisses, s.hpt.transMisses) :: l }) s

/-- A folio begins (R354): the number rises, and everything that falls due at a boundary happens in it. -/
def folioBegin (s : State) : State :=
  let f := folio s
  let s := clearOnce (beginFolio s)
  let s := residBoundary (statsBoundary f (circBoundary f (maxabsBoundary s)))
  let s := spareBoundary (retireBoundary (limitBoundary (retainBoundary s)))
  let s := waitsTick (strictAborts s)
  let s := newBudgets s
  let s := folioMessages (countSilence s)
  latchCounters (telemetry s)

/-- Folios run: the hub has left reset (R354, R360). -/
def folioRuns (s : State) : Bool := s.cru.run == .linking || s.cru.run == .bringup || s.cru.run == .ready

/-- J_FOLIO_IN gives the boundaries of an engine that starts its own folios: FSU_TICK_SRC is 1, and fewer than two
ticks in a row have been missed (R359). -/
def tickInUse (s : State) : Bool := startsOwn s && odGet s odFsuTickSrc == 1 && decide (s.fsu.missed < 2)

/-- FOLIO_BOUNDARY: the local timer starts the folio. While J_FOLIO_IN is in use, its edges and missed ticks start the
folios instead. -/
def doFolioBoundary (s : State) : State := whenS (folioRuns s && !tickInUse s) (settle folioBegin) s

/-- FOLIO_BOUNDARY (R354). -/
def execFolioBoundary (s : State) : Host.Outcome State Fault Refusal := .next (doFolioBoundary s)

/-- NO_MARKER: a member with no marker by half a period has a degraded folio (R357). -/
def execNoMarker (s : State) : Host.Outcome State Fault Refusal :=
  .next (whenS (folioRuns s && !startsOwn s && !s.sfp.markedNow)
    (fun s => degrade dcNoMarker (timePassed (periodNow s / 2) s)) s)

/-! ## Markers (R344, R356) -/

/-- FOLIO of a marker payload. -/
def mkFolio (m : Nat) : Nat := bitsOf m 47 0
/-- PERIOD. -/
def mkPeriod (m : Nat) : Nat := bitsOf m 79 64
/-- HOPS. -/
def mkHops (m : Nat) : Nat := bitsOf m 95 92
/-- REGISTRAR. -/
def mkRegistrar (m : Nat) : Nat := bitsOf m 105 96
/-- TERM. -/
def mkTerm (m : Nat) : Nat := bitsOf m 127 112
/-- COLL_ID. -/
def mkColl (m : Nat) : Nat := bitsOf m 191 160

/-- The conditions of R344 but for the folio number. -/
def markerFrom (s : State) (m : Nat) : Bool :=
  termOk s (mkTerm m) && (succession s).contains (mkRegistrar m) && mkColl m == s.sfp.collId && s.sfp.collId != 0 &&
  !s.sfp.registrar

/-- FOLIO is greater than the last one accepted, or for the first marker after reset at least the engine's own. -/
def markerNew (s : State) (m : Nat) : Bool :=
  if s.sfp.marked then decide (s.sfp.markFolio < mkFolio m) else decide (folio s ≤ mkFolio m)

/-- The next boundary moves by −e (R356). -/
def alignBy (e : Int) (s : State) : State :=
  odSet odFsuAlignErr (ofSigned 32 e) (onFsu (fun f => { f with correct := -e }) s)

/-- The member aligns to an accepted marker: within 1 µs of the same folio the boundary moves; in every other case it
steps, number and boundary. No marker moves the number backwards: a member that has run ahead keeps its own (log 62). -/
def alignTo (m : Nat) (e : Int) (s : State) : State :=
  let before := folio s
  let n := max before (mkFolio m)
  let s := alignBy e s
  if e.natAbs ≤ 1000 ∧ mkFolio m = before then (if s.fsu.cause = 0 then endRun s else s)
  else stepEvent before n e (degrade dcStep (onFsu (fun f => { f with folio := n }) s))

/-- A marker is accepted: its period, its number and its instant. -/
def acceptMarker (port m : Nat) (e : Int) (s : State) : State :=
  let s := onSfp (fun f => { f with
    marked := true, markedNow := true, markFolio := mkFolio m, markRef := f.refPort == some port }) (hear (mkRegistrar m) s)
  let s := if 400 ≤ mkPeriod m ∧ mkPeriod m ≤ 25000 then odSet odFsuPeriodNow (mkPeriod m) s else s
  alignTo m e s

/-- MARKER: a copy on a port that is up. offset is e of R356 for this copy, in ns. A copy of the marker already accepted
is used when it comes from the reference port and the first one did not. -/
def doMarker (port : Nat) (payload : BitVec 192) (offset : Int) (s : State) : State :=
  let m := payload.toNat
  if !portUp s port ∨ !folioRuns s then s
  else
    let s := if (succession s).contains (mkRegistrar m) ∧ mkColl m = s.sfp.collId then seeTerm (mkRegistrar m) (mkTerm m) s else s
    if !markerFrom s m then odCount odSfpMarkerDrops 1 s
    else
      let hop (s : State) : State := renominate (modPort port (fun p => { p with hops := some (mkHops m) }) s)
      if markerNew s m then acceptMarker port m offset (hop s)
      else if s.sfp.markedNow ∧ mkFolio m = s.sfp.markFolio ∧ s.sfp.refPort = some port ∧ !s.sfp.markRef then
        alignBy offset (onSfp (fun f => { f with markRef := true }) (hop s))
      else odCount odSfpMarkerDrops 1 s

/-- MARKER (R344). -/
def execMarker (port : Nat) (payload : BitVec 192) (offset : Int) (s : State) : Host.Outcome State Fault Refusal :=
  .next (doMarker port payload offset s)

/-! ## J_FOLIO_IN (R359) -/

/-- An accepted edge starts the next folio. -/
def tickEdge (s : State) : State :=
  let s := settle folioBegin (onFsu (fun f => { f with missed := 0 }) s)
  onFsu (fun f => { f with edgeFolio := f.folio, lastGood := none, good := 0 }) s

/-- J_FOLIO_IN is in use again: the folio that the edge cuts short is degraded, and FSU_TICK_RESTORED is raised in the
folio that begins. -/
def tickRestored (t : Nat) (s : State) : State :=
  let s := if t < periodNow s then degrade dcTick s else s
  let s := tickEdge s
  post0 evFsuTickRestored 0 (odGet s odFsuTickIgnored % 2 ^ 32) s

/-- An edge while the local timer has taken over: the run of good edges goes on or ends. An edge too early leaves the
previous good edge in place, one too late begins anew with itself (log 62). -/
def watchEdge (t : Nat) (s : State) : State :=
  let p := periodNow s
  let isGood : Bool := match s.fsu.lastGood with
    | none => false
    | some g => decide ((p : Int) ≤ 2 * ((t : Int) - g)) && decide (4 * ((t : Int) - g) ≤ 5 * (p : Int))
  if isGood ∧ 4 ≤ s.fsu.good ∧ p ≤ 2 * t then tickRestored t s
  else
    let early : Bool := match s.fsu.lastGood with | none => false | some g => decide (2 * ((t : Int) - g) < (p : Int))
    onFsu (fun f => { f with
      good := if isGood then f.good + 1 else 0, lastGood := if early then f.lastGood else some (t : Int) }) s

/-- An edge of J_FOLIO_IN, t after the last folio start, on an engine that takes its boundaries from it. -/
def edgeAt (t : Nat) (s : State) : State :=
  if !tickInUse s then watchEdge t s
  else if 2 * t < periodNow s then odCount odFsuTickIgnored 1 s
  else if 4 * t ≤ 5 * periodNow s then tickEdge s
  else s

/-- J_FOLIO_IN_EDGE: t is the time since the last folio start, × 10 ns. -/
def doJFolioInEdge (t : Nat) (s : State) : State :=
  if !folioRuns s ∨ !startsOwn s ∨ odGet s odFsuTickSrc ≠ 1 then s else edgeAt t (timePassed t s)

/-- J_FOLIO_IN_EDGE (R359). -/
def execJFolioInEdge (t10ns : Nat) (s : State) : Host.Outcome State Fault Refusal := .next (doJFolioInEdge t10ns s)

/-- TICK_MISSED: the local timer starts the folio at 1.25 P, and the folio is degraded with cause TICK; after two in a
row the local timer takes over. -/
def doTickMissed (s : State) : State :=
  if !folioRuns s ∨ !tickInUse s then s
  else
    let s := odCount odFsuTickMissed 1 s
    let s := onFsu (fun f => { f with missed := f.missed + 1, good := 0, lastGood := none, causeNext := f.causeNext ||| dcTick }) s
    let s := settle folioBegin s
    if s.fsu.missed = 2 then post0 evFsuTickLost 0 (s.fsu.edgeFolio % 2 ^ 48) s else s

/-- TICK_MISSED (R359). -/
def execTickMissed (s : State) : Host.Outcome State Fault Refusal := .next (doTickMissed s)

end Sys2Proof.Machine
end

