-- ==== Sys2Proof/Machine/Streams.lean ====
section
/-! DEFINITION. Data that sprout streams read (R111, R117, R195) and the window boundary of the memory ports (R114 to
R116, R288). -/

namespace Sys2Proof.Machine

/-! ## STREAM_READ_RETURN (R117) -/

/-- The first fault of a test over the bags of a task on a Pod. -/
def firstFault (bags : List Nat) (f : Nat → Option Flt) : Option Flt := bags.findSome? f

/-- The fault that a result carries. -/
def errOf {α : Type} : Except Flt α → Option Flt
  | .error f => some f
  | .ok _ => none

/-- The first fault among the n elements of a bag. -/
def elementFault (n : Nat) (f : Nat → Option Flt) : Option Flt := (List.range n).findSome? f

/-- The fault that a task's stream of a kind meets in the data of its bags on a Pod: the
offsets, indices, weights, fused tensor or gradients of each bag. What an output or a copy stream meets
is met by the step that runs it. -/
def streamFault (s : State) (k : Task) (pod kind : Nat) : Option Flt :=
  let bags := (k.deals.filter (fun x => x.pod == pod)).map (·.bag)
  let perBag (f : Nat → Nat → Nat → Option Flt) : Option Flt :=
    firstFault bags (fun b =>
      match bagSpan s k pod b with
      | .error e => if kind = 0 then some e else none
      | .ok sp => elementFault sp.2 (fun j => f b sp.1 j))
  if dInline k.desc ≠ 0 ∧ kind < 2 then none
  else
    match kind with
    | 0 => perBag (fun b base j => errOf (bagIndex s k pod b base j))
    | 1 => perBag (fun _ base j => errOf (bagWeight s k pod base j))
    | 2 => if dFuseOp k.desc = 0 then none
      else firstFault bags (fun b => errOf (fusedRow s k pod (dFuseAddr k.desc) (dFuseFmt k.desc) b (sdDim k.shard0)))
    | 8 => perBag (fun b base j => errOf (gradRow s k pod b base j))
    | _ => none

/-- What the system sprout of a task's stream of a kind reads for its bags on a Pod: address words and bytes. -/
def streamHost (s : State) (k : Task) (pod kind : Nat) : List (Nat × Nat) :=
  let d := k.desc
  (k.deals.filter (fun x => x.pod == pod)).flatMap (fun x =>
    let c := match bagSpan s k pod x.bag with | .ok c => c | .error _ => (0, 0)
    let g := sdDim k.shard0 * fuseBytes (dGradFmt d)
    let f := sdDim k.shard0 * fuseBytes (dFuseFmt d)
    match kind with
    | 0 => [(dOffsetAddr d + x.bag * dOffBytes d, 2 * dOffBytes d), (dIndexAddr d + c.1 * dIdxBytes d, c.2 * dIdxBytes d)]
    | 1 => [(dWeightAddr d + 4 * c.1, 4 * c.2)]
    | 2 => [(dFuseAddr d + x.bag * f, f)]
    | 8 => if dPool d = 6 then [(dOutAddr d + c.1 * g, c.2 * g)] else [(dOutAddr d + x.bag * g, g)]
    | _ => [])

/-- STREAM_READ_RETURN: the data of a stream stands in its buffer on a Pod, or the task ends with the fault that the
stream met. The data of a weight load that has begun goes into the halves that it fills, and that of a scale load into the
scale store (R178, R181). -/
def doStreamReadReturn (pod t kind : Nat) (s : State) : State :=
  match getTask s t with
  | none => s
  | some k =>
    if k.phase != .admitted || k.err.isSome || !k.deals.any (fun x => x.pod == pod) || wordsHeld s k.desc ||
        gated s 3 || s.gau.streams.contains (t * 16 + pod, kind) || decide (8 < kind) then s
    else if kind = 4 then
      (if dOp k.desc = opFold ∧ !k.wLoaded ∧ podNums.any (fun p => filling (getPod s p) k) then endLoad k s else s)
    else if kind = 5 then (if dOp k.desc = opFold then loadScales k pod s else s)
    else
      match streamFault s k pod kind with
      | some f => taskFault t pod kind f s
      | none =>
        let rs := if dInline k.desc ≠ 0 ∧ kind < 2 then [] else streamHost s k pod kind
        let s := forEach (fun r s => hptRead (queueAsid s k.queue) r.1 r.2 s) rs s
        onGau (fun g => { g with streams := g.streams ++ [(t * 16 + pod, kind)] }) s

/-- STREAM_READ_RETURN (R117). -/
def execStreamReadReturn (pod t kind : Nat) (s : State) : Host.Outcome State Fault Refusal :=
  .next (doStreamReadReturn pod t kind s)

/-! ## ARB_WINDOW_BOUNDARY (R116, R288) -/

/-- The sharing mode that holds now: 1 until the engine is ready, 3 in recovery, 0 in normal service. -/
def arbMode (s : State) : Nat := if s.cru.run ≠ .ready then 1 else if inRecovery s then 3 else 0

/-- GAU_ARB_STATE follows the mode, with GAU_ARB_MODE. -/
def switchArb (s : State) : State :=
  let m := arbMode s
  if odGet s odGauArbState = m then s else post0 evGauArbMode 0 m (odSet odGauArbState m s)

/-- Hub cycles with a throttled channel count, 4,096 to a window. -/
def countThrottled (s : State) : State :=
  if odGet s odMssThrottleState = 0 then s else onMss (fun m => { m with throttled := m.throttled + 4096 }) s

/-- ARB_WINDOW_BOUNDARY: the mode of the ports and the throttle levels of the channels change. -/
def doArbWindowBoundary (s : State) : State := applyThrottle (switchArb (countThrottled s))

/-- ARB_WINDOW_BOUNDARY (R116, R288). -/
def execArbWindowBoundary (s : State) : Host.Outcome State Fault Refusal :=
  .next (whenS (folioRuns s) doArbWindowBoundary s)

end Sys2Proof.Machine
end

