-- ==== Sys2Proof/Machine/Host.lean ====
section
/-! DEFINITION. The Host Port (12): acknowledgements, the state of the coherent link and lost dies, inbound accesses
through apertures, translation and the path fence. -/

namespace Sys2Proof.Machine

/-! ## WRITE_ACK (R313, R314) -/

/-- A line of a record has been acknowledged: the entry of the host apply log whose every line has been is free (R220). -/
def logAcked (w : OutWrite) (s : State) : State :=
  let meets (v : OutWrite) (e : Nat × List Byte) : Bool :=
    v.kind == .hostlog && overlaps v.addr v.data.length e.1 e.2.length
  onUpu (fun u => { u with hostlog := u.hostlog.filter (fun e => !meets w e || s.hpt.outq.any (fun v => meets v e)) }) s

/-- What follows when a write of a kind is visible at its target. -/
def afterWrite (w : OutWrite) (s : State) : State :=
  match w.kind with
  | .output => s
  | .record _ => match w.task with | some t => recordVisible t s | none => s
  | .oldRecord => match w.task with | some t => recordGone t s | none => s
  | .event i => evqAcked i s
  | .telemetry j => telAcked j s
  | .hostlog => logAcked w s

/-- WRITE_ACK: the oldest write of a path lands at its target and is acknowledged. Nothing is acknowledged on a path that
is down or whose die is lost. -/
def doWriteAck (path : Nat) (s : State) : State :=
  match s.hpt.outq.find? (fun w => w.path == path) with
  | none => s
  | some w =>
    if (path = 0 ∧ s.hpt.link ≠ .up) ∨ (path = 1 ∧ s.hpt.accelLost) then s
    else
      let s := onHpt (fun h => { h with outq := h.outq.erase w }) s
      afterWrite w (onMem (fun m => { m with host := memStore w.addr w.data m.host }) s)

/-- WRITE_ACK (R313). -/
def execWriteAck (path : Nat) (s : State) : Host.Outcome State Fault Refusal := .next (doWriteAck path s)

/-! ## ENG_PATH_FENCE (R316) -/

/-- ENG_PATH_FENCE: the read returns once no write is unacknowledged, with LOST, which it clears, and the folio. -/
def doEngPathFence (s : State) : State :=
  if !windowUp s then onOut (fun o => { o with read := List.replicate 8 0xFF }) s
  else if !s.hpt.outq.isEmpty then s
  else
    let v := folio s % 2 ^ 48 + (bit s.hpt.lost) <<< 63
    onHpt (fun h => { h with lost := false }) (onOut (fun o => { o with read := leBytes 8 v }) s)

/-- ENG_PATH_FENCE (R316). -/
def execEngPathFence (s : State) : Host.Outcome State Fault Refusal := .next (doEngPathFence s)

/-! ## The coherent link (R318 to R321) -/

/-- The queues in use that are bound to the host. -/
def hostQueues (s : State) : List Nat :=
  (s.cfe.queues.filter (fun x => qHostBound x.2 && x.2.state != .disabled)).map (·.1)

/-- A queue is PAUSED, and keeps the state it had. -/
def pauseQueue (r : Queue) : Queue :=
  if r.state = .halted ∨ r.state = .paused ∨ r.state = .disabled then r else { r with state := .paused, before := r.state }

/-- A paused queue goes on in the state it had. -/
def resumeQueue (r : Queue) : Queue := if r.state = .paused then { r with state := r.before } else r

/-- Writes of a path that are not acknowledged. -/
def unacked (s : State) (path : Nat) : List OutWrite := s.hpt.outq.filter (fun w => w.path == path)

/-- HPT_LINK_DOWN: the coherent link stops; host-bound queues are PAUSED, and what is retained stays. -/
def doHptLinkDown (s : State) : State :=
  if s.hpt.link = .up then
    let now := folio s
    let n := (unacked s 0).length
    let s := onHpt (fun h => { h with link := .down, downFolio := now }) s
    let s := forEach (fun q s => modQ q pauseQueue s) (hostQueues s) s
    post0 evHptLinkDown 0 (s.hpt.epoch % 2 ^ 32 + n <<< 32) s
  else s

/-- HPT_LINK_DOWN (R319). -/
def execHptLinkDown (s : State) : Host.Outcome State Fault Refusal := .next (doHptLinkDown s)

/-- The host-bound queues go on. -/
def resumeQueues (s : State) : State :=
  forEach (fun q s => drainDone q (modQ q resumeQueue s)) (hostQueues s) s

/-- HPT_LINK_UP_SAME_EPOCH: retained writes are replayed in their order, the host apply log is rewritten, and streams and
queues go on. -/
def doHptLinkUpSameEpoch (s : State) : State :=
  if s.hpt.link = .down then
    let n := (unacked s 0).length
    let s := odCount odHptReplayed n (onHpt (fun h => { h with link := .up }) s)
    let s := if s.hpt.tierHeld then s else rewriteHostlog s
    post0 evHptLinkUp 0 (s.hpt.epoch % 2 ^ 32 + n <<< 64) (resumeQueues s)
  else s

/-- HPT_LINK_UP_SAME_EPOCH (R320). -/
def execHptLinkUpSameEpoch (s : State) : Host.Outcome State Fault Refusal := .next (doHptLinkUpSameEpoch s)

/-- Discards the writes of a path: they are counted, and LOST is set for the next ENG_PATH_FENCE. -/
def discardWrites (path : Nat) (s : State) : State :=
  let n := (unacked s path).length
  if n = 0 then s
  else
    odCount odHptDiscarded n (onHpt (fun h => { h with
      outq := h.outq.filter (fun w => w.path != path), lost := true }) s)

/-- A task has an input or output at an address word of package memory on a path, or a write of its own discarded. -/
def touchesPath (path : Nat) (dropped : List OutWrite) (k : Task) : Bool :=
  (addrWords k.desc).any (fun w => w.1 != 0 && awSpace w.1 == 0 && awPath w.1 == path) ||
  dropped.any (fun w => w.task == some k.id)

/-- A task ends by a fault of the Host Port. -/
def endAtHost (f : Flt) (t : Nat) (s : State) : State :=
  match getTask s t with
  | none => s
  | some k => endByFault t (faultPod k) 0 f s

/-- Ends a task without a record: its ring, or the path to it, is taken away (R65). -/
def endUnrecorded (f : Flt) (t : Nat) (s : State) : State :=
  handlingTaskDone t (dropTask t (endTask t f.st f.kind f.val s))

/-- The tasks of a queue end without a record. -/
def endQueue (f : Flt) (q : Nat) (s : State) : State :=
  modQ q (fun r => { r with resetDue := none }) (forEach (endUnrecorded f) ((qTasks s q).map (·.id)) s)

/-- Step 3 of R321: a host-bound queue is HALTED with its pointers 0, and its tasks end without a record. -/
def epochQueue (q : Nat) (s : State) : State :=
  let s := dropQueueGroups q (endQueue ⟨stHostEpoch, 0, 0⟩ q s)
  modQ q (fun r => { r with tail := 0, head := ptr 0, cplTail := ptr 0, cplHead := 0, cplNext := ptr 0,
                            state := .halted, before := .halted, resetDue := none }) s

/-- A ring whose base lies in host memory is disabled with its pointers 0. -/
def epochRing (r : Ring) : Ring :=
  if ringOn r ∧ awCoherent r.base then ringZero { r with ctl := setBit r.ctl 0 false } else r

/-- Step 4 of R321. -/
def epochRings (s : State) : State :=
  onCfe (fun c => { c with evqs := c.evqs.map (fun x => (x.1, epochRing x.2)),
                           tels := c.tels.map (fun x => (x.1, epochRing x.2)) }) s

/-- HPT_LINK_UP_NEW_EPOCH: the six steps of R321. -/
def doHptLinkUpNewEpoch (epoch : Nat) (s : State) : State :=
  if s.hpt.link = .up then s
  else
    let dropped := unacked s 0
    let qs := hostQueues s
    let mine (k : Task) : Bool := qs.contains k.queue
    let others := (s.cfe.tasks.filter (fun k => !mine k && canEnd k && touchesPath 0 dropped k)).map (·.id)
    let ended := (s.cfe.tasks.filter mine).length + others.length
    let s := discardWrites 0 s
    let s := writePreserved 1 (epoch % 2 ^ 32) dropped.length ended (fun q => qs.contains q) s
    let s := epochRings (forEach epochQueue qs s)
    let s := forEach (endAtHost ⟨stHostEpoch, 0, 0⟩) others s
    let s := onHpt (fun h => { h with link := .up, epoch := epoch % 2 ^ 32, tierHeld := true }) s
    let s := odSet odHptHostEpoch (epoch % 2 ^ 32) s
    post0 evHptLinkUp 0 (epoch % 2 ^ 32 + 2 ^ 32 + dropped.length <<< 64) s

/-- HPT_LINK_UP_NEW_EPOCH (R321). -/
def execHptLinkUpNewEpoch (epoch : Nat) (s : State) : Host.Outcome State Fault Refusal := .next (doHptLinkUpNewEpoch epoch s)

/-! ## HPT_DIE_LOST (R323) -/

/-- The queues in use with a ring on the die: 0 the host die, on the coherent path, and 1 the accelerator, on the mesh. -/
def dieQueues (s : State) (die : Nat) : List Nat :=
  (s.cfe.queues.filter (fun x => x.2.state != .disabled &&
    [x.2.ringBase, x.2.cplBase].any (fun b => awSpace b == 0 && awPath b == die))).map (·.1)

/-- The queues in use whose completion ring lies on the die. -/
def dieRecordQueues (s : State) (die : Nat) : List Nat :=
  (s.cfe.queues.filter (fun x => x.2.state != .disabled && awSpace x.2.cplBase == 0 && awPath x.2.cplBase == die)).map (·.1)

/-- HPT_DIE_LOST: writes bound for the die are discarded, tasks that use it end with DEST_LOST, those whose completion ring
lay on it end without a record (R65), and queues whose rings lie on it are HALTED. -/
def doHptDieLost (die : Nat) (s : State) : State :=
  if 2 ≤ die ∨ (die = 0 ∧ s.hpt.link = .lost) ∨ (die = 1 ∧ s.hpt.accelLost) then s
  else
    let dropped := unacked s die
    let ts := (s.cfe.tasks.filter (fun k => canEnd k && touchesPath die dropped k)).map (·.id)
    let qs := dieRecordQueues s die
    let n := (s.cfe.tasks.filter (fun k => canEnd k && (touchesPath die dropped k || qs.contains k.queue))).length
    let s := if die = 0 then onHpt (fun h => { h with link := .lost }) s else onHpt (fun h => { h with accelLost := true }) s
    let s := discardWrites die s
    let s := raiseErr { cause := 9, level := 2, tasks := ts, ev := evHptDieLost, source := die, detail := n,
                        st := stDestLost, dKind := 12, dVal := die } s
    let s := forEach (endAtHost ⟨stDestLost, 12, die⟩) ts s
    let s := forEach (endQueue ⟨stDestLost, 12, die⟩) qs s
    let s := forEach haltQueue (dieQueues s die) s
    post0 evHptDieLost die n s

/-- HPT_DIE_LOST (R323). -/
def execHptDieLost (die : Nat) (s : State) : Host.Outcome State Fault Refusal := .next (doHptDieLost die s)

/-! ## HPT_ENGINE_ASID (R321) -/

/-- HPT_ENGINE_ASID takes a value: TIER_HELD clears, and the host apply log is rewritten before host-tier traffic goes
on. -/
def asidApply (v : Nat) (s : State) : Option State :=
  if 2 ^ 20 ≤ v then none
  else
    let s := odSet odHptEngineAsid v s
    if s.hpt.tierHeld then some (rewriteHostlog (onHpt (fun h => { h with tierHeld := false }) s)) else some s

/-- HPT_ENGINE_ASID_WRITE (R321). -/
def execHptEngineAsidWrite (v : Nat) (role : Role) (s : State) : Host.Outcome State Fault Refusal :=
  .next (odTry odHptEngineAsid .operator role v (asidApply v) s)

/-! ## Apertures (R309, Table 12.2) -/

/-- ENABLE. -/
def apOn (v : Nat) : Bool := bitOf v 0
/-- READ. -/
def apRead (v : Nat) : Bool := bitOf v 1
/-- WRITE. -/
def apWrite (v : Nat) : Bool := bitOf v 2
/-- COHERENT (path 0) or MESH (path 1). -/
def apPath (v path : Nat) : Bool := bitOf v (3 + path)
/-- First window byte. -/
def apFirst (v : Nat) : Nat := bitsOf v 84 64 * 65536
/-- Bytes. -/
def apBytes (v : Nat) : Nat := bitsOf v 153 128 * 65536
/-- TARGET. -/
def apTarget (v : Nat) : Nat := bitsOf v 255 192

/-- Aperture k as its entry holds it. -/
def aperture (s : State) (k : Nat) : Nat := odGet s (odHptAperture + k)

/-- TARGET names GDDR7 or scratch, and the mapped range stays in it. -/
def apTargetOk (s : State) (v : Nat) : Bool :=
  let w := apTarget v
  let a := awAddr w
  awOk w && awPath w == 0 &&
  (if awSpace w = 1 then decide (a + apBytes v ≤ usable s)
   else awSpace w == 2 && decide (a < 2 ^ 28) && decide (a % 2 ^ 24 + apBytes v ≤ (scratchWays s).length * 2 ^ 20))

/-- The window bytes of an aperture meet another enabled one. -/
def apOverlaps (s : State) (k v : Nat) : Bool :=
  (List.range 16).any (fun j => j != k && apOn (aperture s j) &&
    overlaps (apFirst v) (apBytes v) (apFirst (aperture s j)) (apBytes (aperture s j)))

/-- A value of HPT_APERTURE_k is taken, or refused in the cases of R309. -/
def apertureApply (k v : Nat) (s : State) : Option State :=
  let old := aperture s k
  let reserved := bitsOf v 63 5 ≠ 0 || bitsOf v 127 85 ≠ 0 || bitsOf v 191 154 ≠ 0
  let size := bitsOf v 153 128
  if 16 ≤ k ∨ 2 ^ 256 ≤ v ∨ reserved ∨ size = 0 ∨ 1572864 < size then none
  else if apOn old ∧ v / 2 ≠ old / 2 then none
  else if !apTargetOk s v then none
  else if apOn v ∧ apOverlaps s k v then none
  else some (odSet (odHptAperture + k) v s)

/-- In confidential mode no aperture may be enabled for reads (R394). -/
def apertureLocked (s : State) (v : Nat) : Bool := confidential s && apOn v && apRead v

/-- HPT_APERTURE_WRITE: an Owner's write. -/
def doHptApertureWrite (k v : Nat) (role : Role) (s : State) : State :=
  if roleOk .owner role ∧ apertureLocked s v then odAnswer osLocked s
  else odTry (odHptAperture + k) .owner role v (apertureApply k v) s

/-- HPT_APERTURE_WRITE (R309). -/
def execHptApertureWrite (k v : Nat) (role : Role) (s : State) : Host.Outcome State Fault Refusal :=
  .next (doHptApertureWrite k v role s)

/-! ## Inbound accesses (R307, R310, R311) -/

/-- The address word that an inbound access of n bytes at an offset of the window reaches: through an enabled aperture
that holds all of it and takes its path and direction, into memory that is there. -/
def inboundTarget (s : State) (path off n : Nat) (write : Bool) : Option Nat :=
  let hit := (List.range 16).find? (fun k =>
    let v := aperture s k
    apOn v && decide (apFirst v ≤ off) && decide (off + n ≤ apFirst v + apBytes v))
  match hit with
  | none => none
  | some k =>
    let v := aperture s k
    let w := apTarget v + (off - apFirst v)
    if apPath v path && decide (path < 2) && (if write then apWrite v else apRead v) &&
        (awSpace w == 1 || (scratchFault s (awAddr w) n).isNone) then some w else none

/-- An inbound access is refused: counted, and HPT_INBOUND_REJECT is raised at most once in a folio. -/
def inboundReject (path req off : Nat) (write : Bool) (s : State) : State :=
  let s := odCount odHptInboundRejects 1 s
  if s.hpt.rejected then s
  else
    post0 evHptInboundReject (req % 65536)
      ((odGet s odHptInboundBase + off) % 2 ^ 64 + (bit write) <<< 64 + (bit (path == 1)) <<< 65)
      (onHpt (fun h => { h with rejected := true }) s)

/-- The engine answers inbound accesses: it is out of reset and its memory is up. -/
def inboundOn (s : State) : Bool := s.cru.run == .ready || s.cru.run == .bringup

/-- INBOUND_WRITE: the bytes commit, with their Stacks copies, in the order of arrival; or the write is dropped. -/
def doInboundWrite (path req off : Nat) (bytes : List Byte) (s : State) : State :=
  if !inboundOn s then s
  else
    match inboundTarget s path off bytes.length true with
    | none => inboundReject path req off true s
    | some w => storeAw w bytes none s

/-- INBOUND_WRITE (R311). -/
def execInboundWrite (path req off : Nat) (bytes : List Byte) (s : State) : Host.Outcome State Fault Refusal :=
  .next (doInboundWrite path req off bytes s)

/-- A host cache holds a line of GDDR7: the snoop filter tracks it, and when it is full the oldest line is recalled
(R307). -/
def snoopAdd (line : Nat) (s : State) : State :=
  if s.hpt.snoop.contains line then s
  else if s.hpt.snoop.length < 262144 then onHpt (fun h => { h with snoop := h.snoop ++ [line] }) s
  else odCount odHptSnoopRecalls 1 (onHpt (fun h => { h with snoop := h.snoop.drop 1 ++ [line] }) s)

/-- Bytes of GDDR7 read for the package under class HOST, each line through the slice of its Pod; a coherent access
leaves the lines in a host cache. An uncorrectable atom returns free bytes (log 4). -/
def inboundGddr (path a n : Nat) (s : State) : List Byte × State :=
  let s := if path = 0 then forEach snoopAdd ((linesOf a n).map (· / 128)) s else s
  if gddrBad s a n then
    ((List.range n).map (fun i => Config.freeByte s.gau.free i), drawn s)
  else
    let x := (linesOf a n).foldl (fun (y : List Byte × State) la =>
      let z := readLine (hubSlice s la) 3 0 la y.2
      (y.1 ++ z.1, z.2)) (([] : List Byte), s)
    ((x.1.drop (a % 128)).take n, x.2)

/-- INBOUND_READ: the bytes are returned, or bytes of 0xFF for a refused read. -/
def doInboundRead (path req off len : Nat) (s : State) : State :=
  if !inboundOn s then onOut (fun o => { o with read := List.replicate len 0xFF }) s
  else
    match inboundTarget s path off len false with
    | none => onOut (fun o => { o with read := List.replicate len 0xFF }) (inboundReject path req off false s)
    | some w =>
      if awSpace w = 1 then
        let x := inboundGddr path (awAddr w) len s
        onOut (fun o => { o with read := x.1 }) x.2
      else
        let bs := loadAw s w len
        onOut (fun o => { o with read := bs }) s

/-- INBOUND_READ (R310). -/
def execInboundRead (path req off len : Nat) (s : State) : Host.Outcome State Fault Refusal :=
  .next (doInboundRead path req off len s)

/-! ## TRANSLATION_INVALIDATE (R305) -/

/-- An access that uses a translation of a package range is under way: a write not acknowledged, or a read issued. -/
def rangeInUse (s : State) (base len : Nat) : Bool :=
  s.hpt.outq.any (fun w => overlaps w.addr w.data.length base len) ||
  podNums.any (fun p => (getPod s p).reads.any (fun r => r.issued && r.space == 0 && overlaps r.addr r.len base len))

/-- TRANSLATION_INVALIDATE: the request completes once every access that uses the range has ended, and the translation cache
holds no page of it any more. Whether the package
then translates the range is a free value (log 6). -/
def doTranslationInvalidate (base len : Nat) (s : State) : State :=
  if rangeInUse s base len then s
  else
    let gone := (freeNow s).toNat % 2 == 1
    let s := onHpt (fun h => { h with
      tlb := h.tlb.filter (fun e => !overlaps (e.2.2 <<< e.2.1) (2 ^ e.2.1) base len)
      unmapped := (h.unmapped.filter (fun r => !(decide (base ≤ r.1) && decide (r.1 + r.2 ≤ base + len)))) ++
        (if gone then [(base, len)] else []) }) s
    drawn (onOut (fun o => { o with invalidated := (base, len) :: o.invalidated }) s)

/-- TRANSLATION_INVALIDATE (R305). -/
def execTranslationInvalidate (base len : Nat) (s : State) : Host.Outcome State Fault Refusal :=
  .next (doTranslationInvalidate base len s)

end Sys2Proof.Machine
end

