-- ==== Sys2Proof/Machine/FabricReads.lean ====
section
/-! DEFINITION. Reads over the fabric (13): READ_REQ with the protection of its cell (R341, R342, R335), READ_RSP, the
timeout of a remote read (R336), and the copy of a shard after a twin mismatch (R437). -/

namespace Sys2Proof.Machine

/-! ## The cell of a READ_REQ (Tables 13.2 and 13.3) -/

/-- Why a cell is not delivered: it fails its protection, it was delivered before, or it comes from no member. -/
inductive CellRes where
  | ok
  | auth
  | replay
  | bad
  deriving DecidableEq, Repr

/-- K_link of a slot: derived from its job secret with the Collection ID and the slot's generation (R340). -/
def linkKey (s : State) (slot : KeySlot) : Option (List Byte) :=
  slot.secret.map (fun key => Config.kdf key (asciiBytes "JKR-LINK") (leBytes 4 s.sfp.collId ++ leBytes 4 slot.gen))

/-- The IV of a cell: SRC, DST, CSEQ and two zero bytes (R341). -/
def cellIv (h : Nat) : List Byte :=
  leBytes 2 (bitsOf h 53 44) ++ leBytes 2 (bitsOf h 63 54) ++ leBytes 6 (bitsOf h 127 80) ++ [0, 0]

/-- The body of a cell in clear, if its tag or CRC-32 holds and is of a kind the engine accepts (R341). The last 16 of the 240
bytes after the header are the tag, and the first LEN bytes are covered by it. -/
def cellPlain (s : State) (hdr : BitVec 128) (body : List Byte) : Option (List Byte) :=
  let h := hdr.toNat
  let head := leBytes 16 h
  if bitOf h 37 then
    if odGet s odSfpAllowPlain == 1 && !confidential s &&
        leNat ((body.drop 224).take 4) == (Config.crc32 (head ++ sliceBytes 0 224 body)).toNat then some body else none
  else
    (linkKey s (getKey s (bitsOf h 79 78))).bind (fun key =>
      Config.gcmOpen key (cellIv h) head (body.take (bitsOf h 71 64)) (sliceBytes 224 16 body))

/-- A CSEQ is below the window of its source and slot, or marked in it (R335). -/
def cellReplayed (s : State) (hdr : BitVec 128) : Bool :=
  let h := hdr.toNat
  let w := tabGet (bitsOf h 53 44 * 4 + bitsOf h 79 78) (0, []) s.sfp.replayWin
  let c := bitsOf h 127 80
  decide (c + 4096 < w.1) || w.2.contains c

/-- Marks a CSEQ as accepted. -/
def markCell (hdr : BitVec 128) (s : State) : State :=
  let h := hdr.toNat
  let c := bitsOf h 127 80
  onSfp (fun f => { f with
    cellsRecv := f.cellsRecv + 1,
    replayWin := tabMod (bitsOf h 53 44 * 4 + bitsOf h 79 78) (0, []) (fun w =>
      let top := max w.1 c
      (top, (w.2.filter (fun x => decide (top < x + 4097))) ++ [c])) f.replayWin }) s

/-- A cell that fails its protection: dropped, counted, and raised at most once for a source in a folio (R341). -/
def authFail (src slot : Nat) (s : State) : State :=
  let s := odCount odSfpAuthFails 1 s
  if s.sfp.authRaised.contains src then s
  else post0 evSfpAuthFail src (slot + 1 <<< 8) (onSfp (fun f => { f with authRaised := f.authRaised ++ [src] }) s)

/-- What becomes of an end-to-end cell. -/
def cellCheck (s : State) (hdr : BitVec 128) (body : List Byte) : CellRes :=
  if (cellPlain s hdr body).isNone then .auth
  else if cellReplayed s hdr then .replay
  else if !isMember s (bitsOf hdr.toNat 53 44) then .bad
  else .ok

/-! ## Serving a read (R240, R251, R333) -/

/-- What a served read answers. -/
inductive Served where
  /-- The row and its side list, with what is read for them: tier, address and length of each. -/
  | row (data side : List Byte) (reads : List (Nat × Nat × Nat))
  | absent
  | status (v : Nat)
  | pass (engine : Nat)
  | wait
  deriving DecidableEq, Repr

/-- The row at a place, with its side list in a tier, as the slice of a Pod delivers them; a row that is malformed goes out as it
is, and its reader finds it so (R333). -/
def servePlace (s : State) (pod : Nat) (x : BitVec 512) (side tier a : Nat) : Served :=
  if tier = 1 ∧ hostHeld s then .wait
  else if (tierFlt s tier a (rowS x)).isSome then .status 1
  else
    let r := stkRead pod 0 tier a (rowS x) s
    let row := (tier, a, rowS x)
    if rowMalformed x r.1 ∨ rowEscapes x r.1 = 0 then .row r.1 [] [row]
    else if side = 1 ∧ hostHeld s then .wait
    else
      let b := sideAddr x (hkSlot (rowHusk x r.1))
      if (tierFlt s side b (slotSize x)).isSome then .status 1
      else .row r.1 (stkRead pod 0 side b (slotSize x) r.2).1 [row, (side, b, slotSize x)]

/-- The reads that a served row makes in the slice of a Pod. -/
def doServedReads (pod : Nat) (rs : List (Nat × Nat × Nat)) (s : State) : State :=
  forEach (fun r s => (stkRead pod 0 r.1 r.2.1 r.2.2 s).2) rs s

/-- The shards that this engine serves reads of (Table 13.7): its own, and its partner's as a twin, but a copy that is
being repaired is served by its primary alone (R437). -/
def servesShard (s : State) (idx : Nat) (x : BitVec 512) : Bool :=
  isHome s x || (homedHere s x && !s.sfp.recopy.any (fun c => c.1 == idx))

/-- Resolves a READ_REQ (Table 9.3). -/
def serveRead (s : State) (row t : Nat) (pin dflt : Bool) (pinEpoch : Nat) : Served :=
  let e := dirAt s t
  if twinState s = 4 then .wait
  else if dflt then
    servePlace s (homePod s row) (shard0Of s t) 0 0 (32 * sdDefAddr (shard0Of s t))
  else if deRows e ≤ row then .status 3
  else
    let idx := shardIndex e (shardOf e row)
    let x := descAt s idx
    if sdTable x = t ∧ servesShard s idx x then
      match pinBase s pin pinEpoch idx x with
      | .error _ => .status 2
      | .ok base =>
        if sdShelved x ∧ sdTier x = 1 ∧ hostHeld s then .wait
        else match resolveRow s idx x base (posOf e row) with
          | .bad _ => .status 1
          | .absent => .absent
          | .place tier a => servePlace s (homePod s row) x (sdTier x) tier a
    else if sdTable x = t ∧ homedHere s x then .pass (sdHome x)
    else match fwdOf s idx with
      | some f => .pass (fwEngine f.2)
      | none => .status 3

/-- Answers a READ_REQ with a READ_RSP under its transfer identifier (Table 13.3). -/
def sendRsp (src xid status : Nat) (absent : Bool) (data side : List Byte) (s : State) : State :=
  sendAs xid ctReadRsp src (8 + data.length + side.length)
    ((bit absent + status <<< 8) :: (data ++ side).map (·.toNat)) s

/-- The shard of a row, by its descriptor index. -/
def idxOfRow (s : State) (t row : Nat) : Nat := let e := dirAt s t; shardIndex e (shardOf e row)

/-- The third word of a READ_REQ that has been passed on names its reader; the manual's READ_REQ has none (R251; log 43). -/
def readerWord (reader : Nat) : Nat := reader % 1024 + 2 ^ 10

/-- The engine that a READ_REQ is answered to: its source, or the reader that it was passed on for. -/
def readerOf (src word : Nat) : Nat := if bitOf word 10 then word % 1024 else src

/-- A delivered READ_REQ is served, passed on, or answered with its status. -/
def answerRead (src xid row t : Nat) (pin dflt holds : Bool) (pinEpoch epoch : Nat) (r : Served) (s : State) : State :=
  let idx := idxOfRow s t row
  match r with
  | .wait => s
  | .status v => sendRsp src xid v false [] [] s
  | .absent => sendRsp src xid 0 true [] [] s
  | .pass e =>
    odCount odCatReadsPassed 1
      (sendAs xid ctReadReq e 24 (readReqWords row t pin dflt holds pinEpoch epoch ++ [readerWord src]) s)
  | .row data side reads =>
    let s := doServedReads (homePod s row) reads s
    if holds && decide (65536 ≤ s.cat.repdir.length) && !s.cat.repdir.contains (t, row, src) then
      sendRsp src xid 3 false [] [] s
    else
      let s := if holds && !dflt then addHolder src t row s else s
      let s := if dflt then s else countServed (useDesc idx s) idx (descAt s idx) true
      sendRsp src xid 0 false data side s

/-- READ_REQ: the cell is checked, then served. A read that cannot be served yet (its tier is held, or the engine is
itself a resync target) is not taken. -/
def doReadReq (hdr : BitVec 128) (body : List Byte) (s : State) : State :=
  let h := hdr.toNat
  let src := bitsOf h 53 44
  let plain := (cellPlain s hdr body).getD []
  let w := leNat (sliceBytes 0 8 plain)
  let row := bitsOf w 39 0
  let t := bitsOf w 55 40
  let pe := leNat (sliceBytes 8 2 plain)
  let ep := leNat (sliceBytes 12 4 plain)
  if bitsOf h 75 72 ≠ ctReadReq ∨ gated s 11 ∨ !windowUp s then s
  else
    match cellCheck s hdr body with
    | .auth => authFail src (bitsOf h 79 78) s
    | .replay => odCount odSfpReplayDrops 1 s
    | .bad => odCount odSfpBadCells 1 s
    | .ok =>
      let r := serveRead s row t (bitOf w 56) (bitOf w 57) pe
      if r = .wait then s
      else answerRead (readerOf src (leNat (sliceBytes 16 8 plain))) (bitsOf h 35 13) row t (bitOf w 56) (bitOf w 57) (bitOf w 58) pe ep r
        (hear src (markCell hdr s))

/-- READ_REQ (R333). -/
def execReadReq (hdr : BitVec 128) (body : List Byte) (s : State) : Host.Outcome State Fault Refusal :=
  .next (doReadReq hdr body s)

/-! ## READ_RSP (R240, R251, R336) -/

/-- ABORTED_FAULT of a remote read (DETAIL_KIND 4): the engine and the cause. -/
def remoteFlt (engine cause : Nat) : Flt := ⟨stAbortedFault, 4, engine % 1024 + cause <<< 10⟩

/-- The read that waits for a transfer, with its Pod. -/
def readOfXid (s : State) (xid : Nat) : Option (Nat × ReadRec) :=
  podNums.findSome? (fun p => ((getPod s p).reads.find? (fun r => r.issued && r.space == 4 && r.xid == xid && r.got.isEmpty)).map (fun r => (p, r)))

/-- The read whose twin check waits for a transfer, with its Pod. -/
def twinOfXid (s : State) (xid : Nat) : Option (Nat × ReadRec) :=
  podNums.findSome? (fun p => ((getPod s p).reads.find? (fun r => r.twin == some xid)).map (fun r => (p, r)))

/-- The REPLICATE_ROW that waits for a transfer. -/
def replicateOfXid (s : State) (xid : Nat) : Option Task :=
  s.cfe.tasks.find? (fun k => dOp k.desc == opReloc && rlOp k.desc == 2 && k.ctlSeq == some xid && !isOver k)

/-- The engine that a remote read goes to. -/
def readHomeOf (s : State) (k : Task) (r : ReadRec) (l : Leaf) : Nat :=
  if r.kind = 3 then defaultHome s (dTable k.desc) else sdHome l.desc

/-- A remote read has its answer. A pin mismatch at the home does not say the home's REPLACE_EPOCH: what DETAIL_VALUE holds of it
is a free value (R240; log 99). -/
def rspRead (pod : Nat) (r : ReadRec) (status : Nat) (absent : Bool) (row side : List Byte) (s : State) : State :=
  match bagTask s r.task, readLeaf s pod r with
  | some k, some l =>
    let idx := idxOfRow s (dTable k.desc) (l.row.getD 0)
    if status = 1 then taskFault k.id pod 0 (remoteFlt (readHomeOf s k r l) 2) (dropRead pod r.id s)
    else if status = 2 then
      taskFault k.id pod 0 (pinFlt idx ((freeNow s).toNat % 65536)) (drawn (dropRead pod r.id s))
    else if status ≠ 0 then taskFault k.id pod 0 ⟨stAbortedFault, 0, 0⟩ (dropRead pod r.id s)
    else if absent then leafAbsent k pod r l (dropRead pod r.id s)
    else modRead pod r.id (fun r => { r with got := [(0, row), (1, side)] }) s
  | _, _ => dropRead pod r.id s

/-- The second read of a twin check has its answer; one that brings no row ends the check with no comparison. -/
def rspTwin (pod : Nat) (r : ReadRec) (status : Nat) (absent : Bool) (row : List Byte) (s : State) : State :=
  modRead pod r.id (fun r => { r with twin := none, other := if status = 0 && !absent then row else [] }) s

/-- A REPLICATE_ROW has its answer. -/
def rspReplicate (k : Task) (status : Nat) (absent : Bool) (row side : List Byte) (s : State) : State :=
  let x := descAt s (rlIndex s k.desc)
  if status = 1 then taskFault k.id (faultPod k) 0 (remoteFlt (sdHome x) 2) s
  else if status ≠ 0 ∨ absent ∨ replicaRoom s < replicaUsed s + replicaLines row side then refuseCtl k.id s
  else finishTask k.id (holdReplica { table := dTable k.desc, row := rlRow k.desc, home := sdHome x, data := row, side := side } s)

/-- READ_RSP: the answer goes to whatever waits for its transfer; an answer that nothing waits for is dropped. -/
def doReadRsp (xid status : Nat) (absent : Bool) (row side : List Byte) (s : State) : State :=
  if gated s 11 ∨ !windowUp s then s
  else
    let s := onSfp (fun f => { f with cellsRecv := f.cellsRecv + cellsFor (8 + row.length + side.length) }) s
    match readOfXid s xid with
    | some c => rspRead c.1 c.2 status absent row side s
    | none =>
      match twinOfXid s xid with
      | some c => rspTwin c.1 c.2 status absent row s
      | none =>
        match replicateOfXid s xid with
        | some k => rspReplicate k status absent row side s
        | none => s

/-- READ_RSP (R336). -/
def execReadRsp (xid status : Nat) (absent : Bool) (row side : List Byte) (s : State) :
    Host.Outcome State Fault Refusal := .next (doReadRsp xid status absent row side s)

/-! ## READ_TIMEOUT (R336) -/

/-- The cause of a lost read: 0 a timeout, 1 an engine without a usable port. -/
def lostCause (s : State) (engine : Nat) : Nat := if reachable s engine then 0 else 1

/-- A remote read fails: it goes out again under a new transfer, twice at most, and then ends its task. -/
def readAgain (pod : Nat) (r : ReadRec) (s : State) : State :=
  match bagTask s r.task, readLeaf s pod r with
  | some k, some l =>
    let dst := readHomeOf s k r l
    if 2 ≤ r.tries then taskFault k.id pod 0 (remoteFlt dst (lostCause s dst)) (dropRead pod r.id s)
    else
      let xid := s.sfp.xid
      let s := odCount odSfpReadReissues 1 s
      let s := sendCell ctReadReq dst 16
        (readReqWords (if r.kind = 3 then 0 else r.addr) (dTable k.desc) (dPin k.desc) (r.kind == 3) false
          (dPinEpoch k.desc) s.sfp.epoch) s
      modRead pod r.id (fun r => { r with xid := xid, epoch := s.sfp.epoch, tries := r.tries + 1 }) s
  | _, _ => dropRead pod r.id s

/-- READ_TIMEOUT: the transfer's answer has not come within SFP_READ_TIMEOUT, or its engine has no usable port. The
read of a REPLICATE_ROW is sent again in the same way while its task counts its tries. -/
def doReadTimeout (xid : Nat) (s : State) : State :=
  match readOfXid s xid with
  | some c => readAgain c.1 c.2 s
  | none =>
    match twinOfXid s xid with
    | some c => rspTwin c.1 c.2 1 false [] s
    | none =>
      match replicateOfXid s xid with
      | none => s
      | some k =>
        let dst := sdHome (descAt s (rlIndex s k.desc))
        if 2 ≤ k.copyPos then taskFault k.id (faultPod k) 0 (remoteFlt dst (lostCause s dst)) s
        else
          let s := modTask k.id (fun k => { k with
            ctlSeq := some s.sfp.xid, copyPos := k.copyPos + 1, moveMark := s.sfp.epoch }) (odCount odSfpReadReissues 1 s)
          sendCell ctReadReq dst 16 (readReqWords (rlRow k.desc) (dTable k.desc) false false true 0 s.sfp.epoch) s

/-- READ_TIMEOUT (R336). -/
def execReadTimeout (xid : Nat) (s : State) : Host.Outcome State Fault Refusal := .next (doReadTimeout xid s)

/-! ## TWIN_RECOPY (R437) -/

/-- The copy of a shard has drained: reads go to both twins again, and the handling of cause 8 ends. -/
def recopyDone (idx : Nat) (s : State) : State :=
  let s := onSfp (fun f => { f with recopy := f.recopy.filter (fun c => c.1 != idx) }) s
  if s.sfp.recopy.isEmpty then closeHandlings (fun h => h.cause == 8 && h.level == 2) s else s

/-- TWIN_RECOPY: the primary streams the shard to its partner; presented again, the stream has drained. On the partner
the stream arrives as COPY transfers, and the step tells that it has drained. -/
def doTwinRecopy (idx : Nat) (s : State) : State :=
  match s.sfp.recopy.find? (fun c => c.1 == idx) with
  | none => s
  | some c =>
    let d := descAt s idx
    if c.2 ∨ !isHome s d then recopyDone idx s
    else
      copyTwin idx (onSfp (fun f => { f with recopy := f.recopy.map (fun c => if c.1 = idx then (idx, true) else c) }) s)

/-- TWIN_RECOPY (R437). -/
def execTwinRecopy (idx : Nat) (s : State) : Host.Outcome State Fault Refusal := .next (doTwinRecopy idx s)

/-! ## Copy streams and the return of a twin (R249, R350) -/

/-- COPY: a chunk lands here and is acknowledged; one that finds no slot for its row waits, and those of its source behind
it. -/
def doCopy (src mseq addr : Nat) (bytes : List Byte) (s : State) : State :=
  if !isMember s src || decide (!bitOf addr 60 ∧ !bitOf addr 61 ∧ !bitOf addr 62 ∧ !bitOf addr 63 ∧ usable s < addr + bytes.length) then s
  else
    let s := hear src s
    if bitOf addr 60 then sendAck src mseq false (landLedger bytes s)
    else
      let wait (s : State) : State := onCat (fun c => { c with copyWait := c.copyWait ++ [(src, mseq, addr, bytes)] }) s
      if s.cat.copyWait.any (fun c => c.1 == src) then wait s
      else match landChunk addr bytes s with
        | none => wait (chunkWaits addr bytes s)
        | some s => sendAck src mseq false s

/-- COPY (R249). -/
def execCopy (src mseq addr : Nat) (bytes : List Byte) (s : State) : Host.Outcome State Fault Refusal :=
  .next (doCopy src mseq addr bytes s)

/-- TWIN_RESYNC: the returning twin is the target, whose Ledger contexts come with the stream; its partner, found ALONE, is the
source and streams. -/
def doTwinResync (s : State) : State :=
  if s.sfp.partner < 1024 then
    if twinState s = 2 then
      streamLedger (streamShards (setTwin 3 s))
    else if twinState s = 1 ∨ twinState s = 0 then emptyLedger (setTwin 4 s)
    else s
  else s

/-- TWIN_RESYNC (R350). -/
def execTwinResync (s : State) : Host.Outcome State Fault Refusal := .next (doTwinResync s)

/-- TWIN_RESTORED: once the stream has been acknowledged, between two parcels, both twins go PAIRED; the Registrar tells the
members, and the returned twin sends LEDGER_READY under its own number. -/
def doTwinRestored (s : State) : State :=
  if twinState s = 3 ∧ s.upu.applying.isNone ∧ copiesAcked s s.sfp.partner then
    let s := onUpu (fun u => { u with
      twinRing := u.twinRing ++ u.ring.filter (fun r => 1024 ≤ r.1), ring := u.ring.filter (fun r => r.1 < 1024) }) s
    let s := onSfp (fun f => { f with twinQuiet := 0, redirect := tabDrop f.partner f.redirect }) (setTwin 1 s)
    if s.sfp.registrar then
      forEach (fun m s => if m = s.sfp.engineId then s else sendCtl ctControl m [8, s.sfp.partner, 1024] none s) (members s) s
    else s
  else if twinState s = 4 then
    let s := onSfp (fun f => { f with twinQuiet := 0 }) (setTwin 1 s)
    sendLedgerReady s.sfp.engineId false s
  else s

/-- TWIN_RESTORED (R350). -/
def execTwinRestored (s : State) : Host.Outcome State Fault Refusal := .next (doTwinRestored s)

end Sys2Proof.Machine
end

