-- ==== Sys2Proof/Machine/OdWrites.lean ====
section
/-! DEFINITION. What a write of an object dictionary entry does outside management itself: the range of each value, the
rules that single entries name (R104, R106, R113, R155, R207, R208, R225, R292, R339, R345, R375, R408), the writes held
while a subsystem is gated, and CRU_GATE (R407). -/

namespace Sys2Proof.Machine

/-! ## Ranges (Tables 18.1 to 18.7) -/

/-- An F32 is at least 2.0 and at most 64.0. -/
def f32Ratio (v : Nat) : Bool := decide (0x40000000 ≤ v) && decide (v ≤ 0x42800000)

/-- A scalar's value is allowed by its type and by the bounds of its row (R460). -/
def scalarOk (e : OdEnt) (v : Nat) : Bool :=
  match e.ty with
  | .bool => decide (v ≤ 1)
  | .blob | .str => true
  | _ => decide (e.lo ≤ v) && decide (v ≤ e.hi) && v % e.step == 0

/-- An F32 that is 0 or more and below 1. -/
def f32Beta (v : Nat) : Bool := decide (v < 0x3F800000) || v == 0x80000000
/-- An F32 that is finite. -/
def f32Finite (v : Nat) : Bool := !fNonFinite (BitVec.ofNat 32 v)

/-- A value of optimiser slot k (Table 8.3). -/
def optValueOk (k v : Nat) : Bool :=
  bitsOf v 255 160 == 0 && bitsOf v 31 10 == 0 && bitsOf v 7 3 == 0 && decide (bitsOf v 2 0 ≤ 4) &&
  (k != 0 || bitsOf v 2 0 == 0) && f32Finite (bitsOf v 159 128) &&
  f32Finite (bitsOf v 127 96) && (!bitOf v 127 || bitsOf v 127 96 == 2 ^ 31) &&
  f32Beta (bitsOf v 95 64) && f32Beta (bitsOf v 63 32)

/-- GAU_SHARES: three shares of 5 to 90 % that sum to 100. -/
def sharesOk (v : Nat) : Bool :=
  let a := bitsOf v 7 0
  let b := bitsOf v 15 8
  let c := bitsOf v 23 16
  decide (v < 2 ^ 24) && [a, b, c].all (fun x => decide (5 ≤ x) && decide (x ≤ 90)) && a + b + c == 100

/-- FSU_PCT: three shares of 10 to 100 %. -/
def pctOk (v : Nat) : Bool :=
  decide (v < 2 ^ 24) && [bitsOf v 7 0, bitsOf v 15 8, bitsOf v 23 16].all (fun x => decide (10 ≤ x) && decide (x ≤ 100))

/-- The sum of the read slot budgets with one of them written (R104). -/
def budgetsOk (s : State) (key v : Nat) : Bool :=
  decide (sumOf (fun i => if odGauBudgetStacks + i = key then v else odGet s (odGauBudgetStacks + i)) (List.range 5) ≤ 8192)

/-- CRU_CLKMON: a source of Table 16.11, and no reserved bit. -/
def clkmonOk (v : Nat) : Bool := decide (v < 2 ^ 12) && (decide (v % 256 ≤ 20) || v % 256 == 0xFF)

/-- A shard of a table that is not OFFLINE, among the descriptors of this engine. -/
def tableLive (s : State) (test : Nat → Bool) : Bool :=
  (liveDescs s).any (fun i => let d := descAt s i; sdState d != 0 && test (sdTable d))

/-- The engine owes the Ledger something: a retained parcel or a RECEIVED entry (R225, R393). -/
def ledgerOwes (s : State) : Bool := !s.upu.ring.isEmpty || s.upu.journal.any (fun j => j.st == .received)

/-! ## Entries with rules of their own -/

/-- IXU_HASH_SLOT takes a value (R113). -/
def hashSlotApply (v : Nat) (s : State) : Option State :=
  if 3 < v ∨ tableLive s (fun t => deHashed (dirAt s t)) then none
  else if v ≠ 0 ∧ (activePods s).any (fun p => !(getPod s p).hashes.any (fun h => h.1 == v)) then none
  else some (odSet odIxuHashSlot v s)

/-- GAU_SPROUT_BIND_k takes a value: for each queue the kind's system slot or a user slot (R106). -/
def bindApply (k v : Nat) (s : State) : Option State :=
  let ok := (List.range 512).all (fun q => let x := bitsOf v (8 * q + 7) (8 * q); x == k || (decide (16 ≤ x) && decide (x ≤ 63)))
  if 8 < k ∨ 2 ^ 4096 ≤ v ∨ !ok then none else some (odSet (odGauSproutBind + k) v s)

/-- QNT_RESID_k takes a value: no table has two enabled slots (R155). It is in effect from the next folio boundary. -/
def residApply (k v : Nat) (s : State) : Option State :=
  let other := (List.range 16).any (fun j =>
    let w := odGet s (odQntResid + j)
    j != k && bitOf w 16 && w % 65536 == v % 65536)
  if 16 ≤ k ∨ 2 ^ 128 ≤ v ∨ bitsOf v 63 17 ≠ 0 ∨ v >>> 64 % 64 ≠ 0 ∨ (bitOf v 16 ∧ other) then none
  else some (odSet (odQntResid + k) v s)

/-- UPU_TRAIN_ENTRY takes a value for the selected table (R208): only HUSK_LR may change while a shard is in use. -/
def trainApply (v : Nat) (s : State) : Option State :=
  let t := odGet s odUpuTrainSelect
  let old := (tabGet t 0 s.upu.train).toNat
  if 2 ^ 128 ≤ v ∨ bitsOf v 95 93 ≠ 0 ∨ bitsOf v 88 50 ≠ 0 then none
  else if v % 2 ^ 96 ≠ old % 2 ^ 96 ∧ tableLive s (· == t) then none
  else
    some (onUpu (fun u => { u with train := if v = 0 then tabDrop t u.train else tabPut t (BitVec.ofNat 128 v) u.train })
      (gddrStore (trainAddr s t) (leBytes 16 v) s))

/-- FSU_NOTIFY_k takes a value whose reserved bits are 0 (R375). -/
def notifyApply (k v : Nat) (s : State) : Option State :=
  if 64 ≤ k ∨ 2 ^ 128 ≤ v ∨ bitsOf v 14 13 ≠ 0 ∨ bitsOf v 63 22 ≠ 0 then none else some (odSet (odFsuNotify + k) v s)

/-- SFP_REF_PORT takes a value: the nomination follows, and a new nominee is qualified (R345, R402). -/
def refPortApply (v : Nat) (s : State) : Option State :=
  if v < 8 ∨ v = 0xFF then
    some (renominate (odSet odSfpRefPort v s))
  else none

/-- SFP_SUCCESSION takes a value: the Owner makes the engine that stands first the Registrar (R338, R339). An engine that
was not it raises the term, so that its messages are followed. -/
def successionApply (v : Nat) (s : State) : Option State :=
  let ids := (List.range 4).map (fun k => bitsOf v (16 * k + 15) (16 * k))
  if 2 ^ 64 ≤ v ∨ !ids.all (fun x => decide (x < 1024) || x == 0xFFFF) then none
  else
    let s := odSet odSfpSuccession v s
    let me := s.sfp.engineId
    if ids.head? = some me ∧ s.sfp.collId ≠ 0 then
      if s.sfp.registrar then some s
      else
        let old := odGet s odSfpRegistrar
        let term := odGet s odSfpTerm + (if old = 0xFFFF then 0 else 1)
        some (odSet odSfpRegistrar me (odSet odSfpTerm (term % 65536)
          (onSfp (fun f => { f with registrar := true, adopted := [], reports := [], silent := [] }) s)))
    else some (onSfp (fun f => { f with registrar := false }) s)

/-- MSS_CHAN_MAP takes a value: at most one channel is mapped out (R292). -/
def chanMapOk (v : Nat) : Bool := decide (v < 2 ^ 24) && decide (23 ≤ popCount 24 v)

/-- Every U32 of HPT_ASID has its reserved bits 0. -/
def asidsOk (v : Nat) : Bool := (List.range 512).all (fun q => bitsOf v (32 * q + 31) (32 * q + 20) == 0)

/-- Every entry of SEC_Q_ACL has its reserved bits 0 (Table 15.8). -/
def aclsOk (v : Nat) : Bool :=
  (List.range 512).all (fun q => bitsOf v (128 * q + 103) (128 * q + 70) == 0 && bitsOf v (128 * q + 39) (128 * q + 32) == 0)

/-- The bases and sizes of the regions of Table 8.9 that stay while the engine owes the Ledger something. -/
def ledgerKeys : List Nat :=
  [odUpuLedgerBase, odUpuRetainBase, odUpuRetainSize, odUpuInboxBase, odUpuInboxSize, odUpuHostlogBase]

/-- What a single entry's rule asks of a value that its row's bounds allow. -/
def ruleOk (s : State) (key v : Nat) : Bool :=
  if key = odCruClkmon then clkmonOk v
  else if odGauBudgetStacks ≤ key ∧ key ≤ odGauBudgetRemote then budgetsOk s key v
  else if key = odGauShares then sharesOk v
  else if key = odQntEscRatio then f32Ratio v
  else if ledgerKeys.contains key then !ledgerOwes s
  else if key = odUpuTaskLimit then decide (1 ≤ v) && decide (v ≤ odGet s odUpuRetainSize)
  else if odUpuOpt ≤ key ∧ key < odUpuOpt + 16 then optValueOk (key - odUpuOpt) v
  else if key = odHptAsid then asidsOk v
  else if key = odMssPinRate then List.contains [28, 30, 32, 34, 36] v
  else if key = odMssChanMap then chanMapOk v
  else if key = odMssThrottleT1 then decide (v < odGet s odMssThrottleT2)
  else if key = odMssThrottleT2 then decide (odGet s odMssThrottleT1 < v)
  else if key = odSfpTwinPartner then decide (v < 1024) || v == 0xFFFF
  else if key = odSfpTwinCheck then decide (v ≤ 15) || v == 0xFF
  else if key = odFsuPct then pctOk v
  else if key = odSecQAcl then aclsOk v
  else true

/-- What else a stored value does at once: FSU_TICK_SRC starts anew with no tick missed (R359), and J_FOLIO_OUT is low while
FSU_OUT_ENABLE is 0 (R360). -/
def storeSide (key v : Nat) (s : State) : State :=
  if key = odFsuTickSrc then onFsu (fun f => { f with missed := 0, good := 0, lastGood := none }) s
  else if key = odFsuOutEnable ∧ v = 0 then onCru (fun c => { c with folioOut := false }) s
  else s

/-- Stores a value that its row and its own rule allow. -/
def storeApply (e : OdEnt) (v : Nat) (s : State) : Option State :=
  if v < 2 ^ (8 * e.size) ∧ scalarOk e v ∧ ruleOk s e.key v then
    some (storeSide e.key v (odSet e.key v s))
  else none

/-- A value of an entry outside management (15, 17, and Service resets of 16) is applied, or refused. -/
def odEffect (e : OdEnt) (v : Nat) (s : State) : Option State :=
  let key := e.key
  if odCatSlotring ≤ key ∧ key < odCatSlotring + 8 then slotringApply (key - odCatSlotring) v s
  else if key = odIxuHashSlot then hashSlotApply v s
  else if key = odIxuHeatQuery then heatQueryApply v s
  else if odGauSproutBind ≤ key ∧ key < odGauSproutBind + 9 then bindApply (key - odGauSproutBind) v s
  else if odQntResid ≤ key ∧ key < odQntResid + 16 then residApply (key - odQntResid) v s
  else if key = odUpuTrainEntry then trainApply v s
  else if key = odHptEngineAsid then asidApply v s
  else if odHptAperture ≤ key ∧ key < odHptAperture + 16 then apertureApply (key - odHptAperture) v s
  else if odStkPart ≤ key ∧ key < odStkPart + 8 then partWrite (key - odStkPart) v s
  else if odStkPin ≤ key ∧ key < odStkPin + 16 then pinWrite (key - odStkPin) v s
  else if key = odMssRetrain then retrainWrite v s
  else if key = odSfpSuccession then successionApply v s
  else if key = odSfpRefPort then refPortApply v s
  else if odFsuNotify ≤ key ∧ key < odFsuNotify + 64 then notifyApply (key - odFsuNotify) v s
  else storeApply e v s

/-! ## The commands of single entries -/

/-- UPU_TRAIN_ENTRY_WRITE (R208). -/
def execUpuTrainEntryWrite (role : Role) (v : Nat) (s : State) : Host.Outcome State Fault Refusal :=
  .next (odTry odUpuTrainEntry .operator role v (trainApply v) s)

/-- IXU_HASH_SLOT_WRITE (R113): an Owner's write. -/
def execIxuHashSlotWrite (v : Nat) (role : Role) (s : State) : Host.Outcome State Fault Refusal :=
  .next (odTry odIxuHashSlot .owner role v (hashSlotApply v) s)

/-- GAU_SPROUT_BIND_WRITE (R106). -/
def execGauSproutBindWrite (k v : Nat) (role : Role) (s : State) : Host.Outcome State Fault Refusal :=
  .next (if 8 < k then odAnswer osNoEntry s else odTry (odGauSproutBind + k) .operator role v (bindApply k v) s)

/-- QNT_RESID_WRITE (R155). -/
def execQntResidWrite (k v : Nat) (role : Role) (s : State) : Host.Outcome State Fault Refusal :=
  .next (if 15 < k then odAnswer osNoEntry s else odTry (odQntResid + k) .operator role v (residApply k v) s)

/-- FSU_NOTIFY_WRITE (R375). -/
def execFsuNotifyWrite (k v : Nat) (role : Role) (s : State) : Host.Outcome State Fault Refusal :=
  .next (if 63 < k then odAnswer osNoEntry s else odTry (odFsuNotify + k) .operator role v (notifyApply k v) s)

/-- SFP_REF_PORT_WRITE (R345): an Owner's write. -/
def execSfpRefPortWrite (v : Nat) (role : Role) (s : State) : Host.Outcome State Fault Refusal :=
  .next (odTry odSfpRefPort .owner role v (refPortApply v) s)

/-! ## CRU_GATE (R407) -/

/-- A write of an entry, held while its subsystem was gated, is applied; one that its rule now refuses changes nothing. -/
def applyHeldWrite (w : Nat × Nat) (s : State) : State :=
  match odFind w.1 with
  | none => s
  | some e => (odEffect e w.2 s).getD s

/-- The held writes whose subsystem runs again are applied, oldest first. -/
def applyHeld (s : State) : State :=
  let ready := s.cru.heldWrites.filter (fun w => !gated s (odSub w.1))
  let s := onCru (fun c => { c with heldWrites := c.heldWrites.filter (fun w => gated s (odSub w.1)) }) s
  forEach applyHeldWrite ready s

/-- The bits of EN that read 1 and ignore writes: HPT, FSU, MSC, CRU and PEU. -/
def gateFixed : Nat := 0xF400

/-- EN takes a value. Gating the MSS places its devices in self-refresh first; ungating it brings them back. -/
def gateWrite (v : Nat) (s : State) : State :=
  let en := (v % 65536) ||| gateFixed
  let was := bitOf s.cru.gate.toNat 5
  let s := onCru (fun c => { c with gate := BitVec.ofNat 16 en }) s
  let s := if was && !bitOf en 5 then onMss (fun m => { m with selfRefresh := true }) s
    else if !was && bitOf en 5 && windowUp s && !s.cru.holdover then onMss (fun m => { m with selfRefresh := false }) s
    else s
  applyHeld s

/-- CRU_GATE_WRITE (R407): EN is RWL, so the write is ignored in confidential mode (R5). -/
def execCruGateWrite (v : Nat) (s : State) : Host.Outcome State Fault Refusal :=
  .next (whenS (windowUp s && !confidential s) (gateWrite v) s)

end Sys2Proof.Machine
end

