-- ==== Sys2Proof/Machine/Resets.lean ====
section
/-! DEFINITION. Power-on and engine resets and the way out of them (16, R412, R415 to R419; 17, R444; 11, R282), with the
training of the Cafofold links and the start of service (R222, R417). -/

namespace Sys2Proof.Machine

/-! ## Into engine reset (R415, R416) -/

/-- Writes already issued are commits in progress: those on a path that works reach memory (R219, R416). -/
def landWrites (s : State) : State :=
  let ws := s.hpt.outq.filter (fun w => if w.path = 0 then s.hpt.link == .up else !s.hpt.accelLost)
  onMem (fun m => { m with host := ws.foldl (fun h w => memStore w.addr w.data h) m.host }) s

/-- The engine enters engine reset once the commits in progress have ended. Its tasks are gone, so the handlings at task
level end; writes of entries that a gate held are applied, since every clock is enabled again (R407). Outside confidential
operation debug is enabled again where the fuse allows it (R396). -/
def enterReset (s : State) : State :=
  let s := onMsc (fun m => { m with debug := m.debug || (m.mode == .open && !m.debugKill) }) s
  applyHeld (engineReset (closeHandlings (fun h => h.level == 2) (landWrites s)))

/-- Leaves reset where nothing holds the engine there: J_RST_N, the rails, a containment. J_REFCLK is to qualify
(R417, R430, R432). Without firmware start-up has failed already (R386). -/
def leaveReset (s : State) : State :=
  if s.cru.run == .reset && s.cru.rstN && s.cru.pwrgd && !s.msc.packageHeld && !s.msc.waitRelease then
    onCru (fun c => { c with run := .starting, qualifying := true, stuck := s.msc.startCause == 2 }) s
  else s

/-- Start-up fails: the engine stays in start-up, ALERT is set, and MSC_START_FAIL goes out as a Garwa EVENT only
(R443, R444). -/
def startFail (cause : Nat) (s : State) : State :=
  let s := onMsc (fun m => { m with startCause := cause, alert := true }) s
  garwaSend (eventEntry evMscStartFail cause 0 (folio s) 0) (onCru (fun c => { c with stuck := true }) s)

/-! ## Power-on reset (R412, Table 16.9) -/

/-- The whole engine after power-on reset. What lies outside it stays: package memory and translations, the pins, the
devices on the board, what has been sent; and inside it the RWS entries, the count of generations, the fuses, the
firmware slots and which of them is active (R384, R386, R450). -/
def powerOn (s : State) : State :=
  let z : State := { od := odAfterPowerOn s.od }
  let z := odSet odMscFwActive (odGet s odMscFwActive) (odSet odMssGeneration (odGet s odMssGeneration) z)
  { z with
    cat := catAfterReset z, upu := upuAfterReset z,
    gau := { free := s.gau.free, statsBase := odGet z odQntStatsBase, window := odGet z odQntWindow },
    stk := { retired := retiredInForce z },
    mss := { chans := s.mss.chans.map (fun c => (c.1, { failed := c.2.failed, density := c.2.density })),
             chanMap := odGet z odMssChanMap, pinRate := odGet z odMssPinRate },
    hpt := { unmapped := s.hpt.unmapped },
    sfp := { engineId := odGet z odSfpEngineId, collId := odGet z odSfpCollId, partner := odGet z odSfpTwinPartner },
    msc := { slotA := s.msc.slotA, slotB := s.msc.slotB, svn := s.msc.svn, debugKill := s.msc.debugKill,
             debug := !s.msc.debugKill },
    cru := { rstN := s.cru.rstN, podKhz := odGet z odCruPodKhz, hubKhz := odGet z odCruHubKhz,
             fabKhz := odGet z odCruFabKhz },
    mem := { host := s.mem.host }, out := s.out, pending := s.pending }

/-- INPUT_LOSS: J_PWRGD falls and then every rail; all that they held is lost (R410, R412). -/
def doInputLoss (s : State) : State :=
  if s.cru.run = .off then s
  else onCru (fun c => { c with run := .off, pwrgd := false, input := false }) (powerOn s)

/-- INPUT_LOSS (R412). -/
def execInputLoss (s : State) : Host.Outcome State Fault Refusal := .next (doInputLoss s)

/-- POWER_UP: the rails come up in order from a state without power good, J_PWRGD rises, and power-on reset is over; with
J_RST_N high the engine goes on out of reset. -/
def doPowerUp (s : State) : State := if s.cru.pwrgd then s else leaveReset (powerOn s)

/-- POWER_UP (R412). -/
def execPowerUp (s : State) : Host.Outcome State Fault Refusal := .next (doPowerUp s)

/-! ## J_RST_N (R416, R417) -/

/-- A low of a number of ns is recognised: below 1.0 µs never, from 1.2 µs always, in between as a free value says. -/
def lowSeen (ns : Nat) (s : State) : Bool := decide (1200 ≤ ns) || (decide (1000 ≤ ns) && bitOf (freeNow s).toNat 0)

/-- J_RST_N_LOW: a low that has lasted so many ns; once recognised, the engine enters engine reset. -/
def doJRstNLow (ns : Nat) (s : State) : State :=
  if s.cru.run = .off ∨ !s.cru.rstN then s
  else
    let seen := lowSeen ns s
    let s := if 1000 ≤ ns ∧ ns < 1200 then drawn s else s
    if seen then
      let s := onCru (fun c => { c with rstN := false }) s
      if s.cru.run = .reset then s else enterReset s
    else s

/-- J_RST_N_LOW (R416). -/
def execJRstNLow (ns : Nat) (s : State) : Host.Outcome State Fault Refusal := .next (doJRstNLow ns s)

/-- J_RST_N_RISE (R417). -/
def execJRstNRise (s : State) : Host.Outcome State Fault Refusal :=
  .next (leaveReset (onCru (fun c => { c with rstN := true }) s))

/-- REFCLK_QUALIFY_TIMEOUT: J_REFCLK has not qualified within 100 ms of J_RST_N rising. -/
def doRefclkQualifyTimeout (s : State) : State :=
  if s.cru.run = .starting ∧ !s.cru.stuck then startFail 1 s else s

/-- REFCLK_QUALIFY_TIMEOUT (R444). -/
def execRefclkQualifyTimeout (s : State) : Host.Outcome State Fault Refusal := .next (doRefclkQualifyTimeout s)

/-! ## GDDR7 at bring-up (R282, R283) -/

/-- Active channels that fail to train. -/
def failedChans (s : State) : List Nat := (activeChans s).filter (fun c => (getChan s c).failed)

/-- The density that the devices of the active channels report, if all report one that the engine supports (R282, Table
11.3). -/
def oneDensity (s : State) : Option Nat :=
  [16, 24, 32].find? (fun g => (activeChans s).all (fun c => (getChan s c).density == g))

/-- The readings of memory of a density once it is up. -/
def memoryUp (g : Nat) (s : State) : State :=
  let n := (activeChans s).length
  let s := odSet odMssDensity g (odSet odMssChannels n s)
  let s := odSet odMssUsable (usableBytes n g s.mss.tags) s
  onMss (fun m => { m with selfRefresh := gated s 5 }) s

/-- MEMORY_BRINGUP: with 23 channels or more and one density the channels leave self-refresh; a single channel that fails
is mapped out, which overwrites GDDR7; otherwise start-up fails. -/
def memoryBringup (s : State) : State :=
  let bad := failedChans s
  match oneDensity s with
  | none => startFail 3 (odSet odMssDensity 0xFF s)
  | some g =>
    if (activeChans s).length < 23 + bad.length then startFail 3 (odSet odMssDensity 0xFF s)
    else
      match bad with
      | [] => memoryUp g s
      | ch :: _ =>
        let s := retireChan ch false (post0 evMssChanDown ch 1 s)
        let m := odGet s odMssChanMap
        memoryUp g (onMss (fun x => { x with chanMap := m, overwriteDue := true })
          (onUpu (fun u => { u with fresh := u.fresh || odGet s odSfpTwinState != 1 }) s))

/-! ## The links of the Pod dies (R418, R419, R441) -/

/-- The dies that train when the engine leaves reset: those mapped, and a spare that is being mapped in. -/
def startDies (s : State) : List Nat :=
  (List.range 18).filter (fun d => decide (s.msc.podMap.getD d 0xFF < 16) || s.msc.sparing.any (fun x => x.1 == d))

/-- The reference has qualified and the PLLs have locked: the Pod dies leave reset and their links train. -/
def startLinks (s : State) : State :=
  let ds := startDies s
  onCru (fun c => { c with
    run := .linking, locked := true, qualifying := false, refPort := none,
    d2d := ds.foldl (fun t d => tabPut d .training t) c.d2d, d2dTries := [] }) s

/-- The link of a die. -/
def linkOf (s : State) (d : Nat) : D2d := tabGet d .down s.cru.d2d

/-- Once every link that trains at start-up is up or lost, memory comes up; with fewer than 16 Pods and no spare start-up
fails (R417, R444). -/
def linksSettled (s : State) : State :=
  if s.cru.run ≠ .linking ∨ s.cru.stuck ∨ s.cru.d2d.any (fun x => x.2 == .training) then s
  else if (activePods s).length < 16 ∧ (spareDies s).isEmpty then startFail 4 s
  else memoryBringup (onCru (fun c => { c with run := .bringup }) s)

/-- A training attempt succeeds. A mapped die's Pod joins; a spare is ready for the next folio boundary, or at start-up
takes its number at once. -/
def linkUp (d : Nat) (s : State) : State :=
  let s := onCru (fun c => { c with d2d := tabPut d .up c.d2d, d2dTries := tabDrop d c.d2dTries }) s
  match s.msc.sparing with
  | some (d', p, _) =>
    if d' = d then
      let s := onMsc (fun m => { m with sparing := some (d, p, true) }) s
      if s.cru.run = .linking then spareBoundary s else s
    else joinDie d s
  | none => joinDie d s
where
  /-- The Pod of a mapped die joins. -/
  joinDie (d : Nat) (s : State) : State :=
    let p := s.msc.podMap.getD d 0xFF
    if p < 16 then joinPod p s else s

/-- A third failed attempt holds the link at D2D_FAULT (R418): the die is retired, and the next spare is tried (R439,
R441). -/
def linkFault (d cause : Nat) (s : State) : State :=
  let s := onCru (fun c => { c with d2d := tabPut d .fault c.d2d, d2dTries := tabDrop d c.d2dTries }) s
  let s := post0 evCruD2dFault d cause s
  match s.msc.sparing with
  | some (d', p, _) =>
    if d' = d then
      let s := onMsc (fun m => { m with retiredDies := m.retiredDies ++ [d], sparing := none }) s
      podHandlingsOver p (mapNextSpare p (post0 evMscRetired 2 p s))
    else loseDie s
  | none => loseDie s
where
  /-- The Pod of the die is lost and retired. -/
  loseDie (s : State) : State :=
    let p := s.msc.podMap.getD d 0xFF
    if p < 16 then
      let ts := tasksOnPod s p
      let s := raiseErr { cause := 11, level := 3, tasks := ts, pod := some p, ev := evCruD2dFault, source := d,
                          detail := cause } s
      let lost : Flt := ⟨stPodLost, 9, containVal s 3 11⟩
      retirePod p (forEach (fun t s => endByFault t p 0 lost s) ts s)
    else s

/-- A failed training attempt: 1 lane, 2 disagreement, 3 no record, 4 RESYNC limit. -/
def attemptFails (d cause : Nat) (s : State) : State :=
  let s := odCount odCruD2dFails 1 s
  let n := (tabGet d (0, 0) s.cru.d2dTries).1 + 1
  if 3 ≤ n then linkFault d cause s
  else onCru (fun c => { c with d2dTries := tabPut d (n, 0) c.d2dTries }) s

/-- D2D_TRAINING_ATTEMPT: an attempt on a link that trains ends, with success (0) or a cause of failure. -/
def doD2dTrainingAttempt (die cause : Nat) (s : State) : State :=
  if linkOf s die = .training ∧ !s.cru.stuck ∧ cause ≤ 3 then
    linksSettled (if cause = 0 then linkUp die s else attemptFails die cause s)
  else s

/-- D2D_TRAINING_ATTEMPT (R418). -/
def execD2dTrainingAttempt (die cause : Nat) (s : State) : Host.Outcome State Fault Refusal :=
  .next (settle (doD2dTrainingAttempt die cause) s)

/-- RESYNC: a link that is up trains anew, with both dies kept (Table 16.9). The attempt that runs starts again; more than eight
in one sequence count as a failed attempt. -/
def doResync (die : Nat) (s : State) : State :=
  if linkOf s die = .up ∧ folioRuns s ∧ !s.cru.stuck then
    onCru (fun c => { c with d2d := tabPut die .training c.d2d, d2dTries := tabDrop die c.d2dTries }) s
  else if linkOf s die = .training ∧ !s.cru.stuck then
    let x := tabGet die (0, 0) s.cru.d2dTries
    if 8 ≤ x.2 then linksSettled (attemptFails die 4 s)
    else onCru (fun c => { c with d2dTries := tabPut die (x.1, x.2 + 1) c.d2dTries }) s
  else s

/-- RESYNC (R419). -/
def execResync (die : Nat) (s : State) : Host.Outcome State Fault Refusal := .next (settle (doResync die) s)

/-! ## ENGINE_READY (R222, R417) -/

/-- The twin state that an engine takes up service with: SINGLE without a partner, and PAIRED for a pair that has not
been apart (R346, log 49). -/
def startTwin (s : State) : State :=
  if 1024 ≤ s.sfp.partner then setTwin 0 s else if twinState s = 0 then setTwin 1 s else s

/-- LEDGER_RESTART as the engine leaves reset: UPU_LEDGER_READY says what it found; with FRESH, MSC_STATE_LOST is raised
(R436). -/
def ledgerStart (s : State) : State :=
  let fresh := s.upu.fresh
  let found := (s.upu.journal.filter (fun j => j.st == .received)).length
  let s := onUpu (fun u => { u with recovering := true, recoverTo := u.intake, fresh := false }) s
  let s := post0 evUpuLedgerReady s.sfp.engineId (found % 2 ^ 32 + (s.upu.ring.length % 2 ^ 32) <<< 32) s
  let s := if fresh then post0 evMscStateLost 0 (odGet s odMssGeneration) s else s
  ledgerRestart fresh s

/-- A move that a reset has cut off is abandoned where it had not switched: the shard is ONLINE again, and its rows in the new
place go, here or at the other engine. A local move that had switched ends (R255). A move to another engine that had switched
goes on with its forwarding entry. -/
def endMove (m : Nat × Nat × Bool × Bool) (s : State) : State :=
  let i := m.1
  let x := descAt s i
  let close (s : State) : State := setDesc i (sdSet (sdSet x 45 44 1) 241 192 0) s
  if m.2.2.2 then
    if m.2.2.1 then
      freeArray x (shardRows (dirAt s (sdTable x)) (sdShard x)) (1 - sdTier x) (sdAlt x) (sdTier x) (sdBase x) (close s)
    else s
  else if m.2.2.1 then dropCopied i (close s)
  else sendCopy (moveDst s i).1 (2 ^ 61) (leBytes 8 i) (close s)

/-- The moves that a reset has cut off end, but for those that go on in their forwarding entries (R255). -/
def endMoves (s : State) : State :=
  onCat (fun c => { c with moves := c.moves.filter (fun m => m.2.2.2 && !m.2.2.1) }) (forEach endMove s.cat.moves s)

/-- ENGINE_READY: reference, links, memory and ports are up, no overwrite is left to do, and the MSC declares the engine
ready. -/
def doEngineReady (s : State) : State :=
  if s.cru.run = .bringup ∧ !s.cru.stuck ∧ !s.mss.overwriteDue ∧ !s.mss.overwriting ∧ s.msc.booted ∧ !s.msc.restarting then
    let s := onMsc (fun m => { m with startCause := 0 }) (onCru (fun c => { c with run := .ready }) s)
    leaveRecovery (ledgerStart (startTwin (endMoves (odSet odCatRepdirUsed s.cat.repdir.length s))))
  else s

/-- ENGINE_READY (R417). -/
def execEngineReady (s : State) : Host.Outcome State Fault Refusal := .next (doEngineReady s)

end Sys2Proof.Machine
end

