-- ==== Sys2Proof/Machine/Power.lean ====
section
/-! DEFINITION. The reference of the clocks (16, R400 to R404), the Power Entry Unit's pressure and faults (R410 to R414), the
resets of a Pod die (R406, R420, R421, R442), spares (R441), and containment of the engine and the package (17, R428 to
R433). -/

namespace Sys2Proof.Machine

/-! ## The reference (R401 to R403) -/

/-- REF of CRU_STATUS (Table 16.10). -/
def refNum (s : State) : Nat := if s.cru.coast then 2 else if s.cru.refPort.isSome then 1 else 0

/-- DETAIL of CRU_REF_LOST and CRU_RELOCKED, but for their upper fields: REF and REF_PORT. -/
def refDetail (s : State) : Nat := refNum s <<< 4 + (s.cru.refPort.getD 0) <<< 8

/-- CRU_REF_LOST: the links are held, the core clocks coast, the interface PLLs hold over, and every candidate is
qualified. Folios are degraded with cause COAST. -/
def doCruRefLost (freq : Bool) (s : State) : State :=
  if s.cru.locked ∧ !s.cru.coast then
    let d := refDetail s + (bit freq) <<< 16
    let s := onCru (fun c => { c with locked := false, coast := true, holdover := true, qualifying := true }) s
    let s := post0 evCruRefLost 0 d (odCount odCruCoasts 1 s)
    if folioRuns s then degrade dcCoast s else s
  else s

/-- CRU_REF_LOST (R401). -/
def execCruRefLost (freq : Bool) (s : State) : Host.Outcome State Fault Refusal := .next (doCruRefLost freq s)

/-- A candidate that may be locked to: J_REFCLK, or in automatic mode the nominated port; while coasting, one nominated
since the loss (R402). -/
def refCandidate (port : Option Nat) (s : State) : Bool :=
  match port with
  | none => true
  | some k => odGet s odCruRefMode == 0 && s.sfp.refPort == some k && (!s.cru.coast || s.cru.refPort != some k)

/-- The PLLs lock to the winner, and the clocks return to their configured frequencies: ports may retrain, channels
resume, and CRU_RELOCKED is raised. The time of the coast in µs is a free value (log 4). -/
def relock (port : Option Nat) (s : State) : State :=
  let s := onCru (fun c => { c with locked := true, coast := false, holdover := false, refPort := port }) s
  let s := if windowUp s && !gated s 5 then onMss (fun m => { m with selfRefresh := false }) s else s
  let us := (freeNow s).toNat % 2 ^ 32
  requalify (post0 evCruRelocked 0 (refDetail s + us <<< 32) (drawn s))

/-- REF_QUALIFIED: at start-up J_REFCLK lets the links train; after a loss the first candidate is locked to; while locked,
the engine moves to a nominated port, or back to J_REFCLK where CRU_REF_MODE allows nothing else. -/
def doRefQualified (port : Option Nat) (s : State) : State :=
  if s.cru.stuck ∨ !refCandidate port s then s
  else if s.cru.run = .starting then (if port = none then startLinks s else s)
  else if s.cru.coast then relock port s
  else if s.cru.locked ∧ (port.isSome ∨ odGet s odCruRefMode = 1) then requalify (onCru (fun c => { c with refPort := port }) s)
  else s

/-- REF_QUALIFIED (R402). -/
def execRefQualified (port : Option Nat) (s : State) : Host.Outcome State Fault Refusal := .next (doRefQualified port s)

/-- CRU_HOLDOVER_LOST: every port goes down with cause 1, the GDDR7 devices go to self-refresh. -/
def doCruHoldoverLost (s : State) : State :=
  if s.cru.coast ∧ s.cru.holdover then
    let s := onCru (fun c => { c with holdover := false }) s
    let s := forEach (fun k s => portDown k 1 s) (List.range 8) s
    post0 evCruHoldoverLost 0 0 (onMss (fun m => { m with selfRefresh := true }) s)
  else s

/-- CRU_HOLDOVER_LOST (R403). -/
def execCruHoldoverLost (s : State) : Host.Outcome State Fault Refusal := .next (doCruHoldoverLost s)

/-! ## Power self-management (R413) -/

/-- The mean of a list of numbers, rounded down, or 0 for none. -/
def meanOf (xs : List Nat) : Nat := if xs.isEmpty then 0 else xs.foldl (· + ·) 0 / xs.length

/-- T := min(PEU_PDESIGN, V × PEU_ILIMIT) in W, V in mV over the last 1 ms and the limit in 0.1 A. -/
def powerTarget (s : State) (vin : Nat) : Nat := min (odGet s odPeuPdesign) (vin * odGet s odPeuIlimit / 10000)

/-- The pressure after a period of mean power w against a target, and how many periods in a row lie below T − 20 W. Ten such
periods lower it by 1, and their count then begins again (log 98). -/
def nextPressure (p below w t : Nat) : Nat × Nat :=
  if 900 < w then (16, 0)
  else if t < w then (min 16 (p + 1), 0)
  else if w + 20 < t then (if 9 ≤ below then (p - 1, 0) else (p, below + 1))
  else (p, 0)

/-- Pod cycles that the pressure removes in 10 µs, over the Pods that are up (R406). -/
def skippedCycles (s : State) (p : Nat) : Nat :=
  (activePods s).length * ((if s.cru.coast then 250000 else s.cru.podKhz) / 100) * (16 - podSixteenths p) / 16

/-- The reading of the last 10 ms window, and the present one with a period more (R395). -/
def readWindow (w i v : Nat) (c : Cru) : Cru :=
  let x := c.window
  let n := x.1 + 1
  let sw := x.2.1 + w
  let si := x.2.2.1 + i
  let sv := x.2.2.2 + v
  if 1000 ≤ n then { c with window := (0, 0, 0, 0), mean := (sw / n, si / n, sv / n) }
  else { c with window := (n, sw, si, sv) }

/-- PRESSURE_UPDATE: one 10 µs period with mean input power, current and voltage. -/
def doPressureUpdate (w i v : Nat) (s : State) : State :=
  if s.cru.run = .off then s
  else
    let old := s.cru.pressure
    let hist := v :: s.cru.vinHist.take 99
    let t := powerTarget s (meanOf hist)
    let x := nextPressure old s.cru.below w t
    let skip := skippedCycles s x.1
    let s := onCru (fun c => readWindow w i v { c with
      pressure := x.1, below := x.2, pin := w % 65536, iin := i % 65536, vin := v, vinHist := hist, target := t,
      energy := c.energy + w, limited := c.limited || decide (0 < x.1), skipped := c.skipped + skip,
      folioPin := (c.folioPin.1 + w, c.folioPin.2 + 1) }) s
    let s := onCfe (fun c => { c with tels := c.tels.map (fun r => (r.1, { r.2 with peaks := some (match r.2.peaks with
      | none => (x.1, v, i)
      | some q => (max q.1 x.1, min q.2.1 v, max q.2.2 i)) })) }) s
    let s := odSet odPeuVin (v % 2 ^ 32) (odSet odPeuIin (10 * i % 2 ^ 32) (odSet odPeuTarget t s))
    if (old = 0) ≠ (x.1 = 0) then post0 evPeuLimiting 0 (x.1 + (t % 65536) <<< 16) s else s

/-- PRESSURE_UPDATE (R413). -/
def execPressureUpdate (pinW iin10mA vinmV : Nat) (s : State) : Host.Outcome State Fault Refusal :=
  .next (doPressureUpdate pinW iin10mA vinmV s)

/-! ## A Pod die that resets (R420, R421, R442) -/

/-- A Pod that is mapped to a die. -/
def podMapped (s : State) (p : Nat) : Bool := decide (p < 16) && decide (dieOf s p < 18) && !(getPod s p).retired

/-- A Pod is lost by an error: cause 10 at Pod level, its tasks end with POD_LOST, and it resets (R421). -/
def podFails (p cause : Nat) (ev : EvKind) (source detail : Nat) (s : State) : State :=
  if podMapped s p ∧ !(getPod s p).inReset then
    let s := raiseErr { cause := 10, level := 3, tasks := tasksOnPod s p, pod := some p, ev := ev, source := source,
                        detail := detail } s
    podResetCore p cause (some 10) s
  else s

/-- CRU_POD_RESET takes a logical Pod that is mapped. -/
def podResetApply (p : Nat) (s : State) : Option State := if podMapped s p then some (podResetCore p 1 none s) else none

/-- CRU_POD_RESET (R420): a Service write. -/
def execCruPodReset (pod : Nat) (role : Role) (s : State) : Host.Outcome State Fault Refusal :=
  .next (odTry odCruPodReset .service role pod (podResetApply pod) s)

/-- POD_RESET: a Pod resets by CRU_POD_RESET (1), its PLL (2) or its rail (3). -/
def doPodReset (pod cause : Nat) (s : State) : State :=
  if cause = 1 then (podResetApply pod s).getD s
  else if cause = 2 ∨ cause = 3 then podFails pod cause evCruPodReset pod cause s
  else s

/-- POD_RESET (R421). -/
def execPodReset (pod cause : Nat) (s : State) : Host.Outcome State Fault Refusal := .next (settle (doPodReset pod cause) s)

/-- POD_PLL_UNLOCK: while the reference holds. -/
def execPodPllUnlock (pod : Nat) (s : State) : Host.Outcome State Fault Refusal :=
  .next (settle (whenS (s.cru.locked && !s.cru.coast) (podFails pod 2 evCruPodReset pod 2)) s)

/-- POD_RESET_EXIT: the die leaves reset and sends RESYNC; its link trains. It rejoins, with its sprouts and microcode
loaded, once training succeeds. -/
def doPodResetExit (pod : Nat) (s : State) : State :=
  let d := dieOf s pod
  if folioRuns s ∧ !s.cru.stuck ∧ podMapped s pod ∧ (getPod s pod).inReset ∧ linkOf s d = .down then
    onCru (fun c => { c with d2d := tabPut d .training c.d2d, d2dTries := tabDrop d c.d2dTries }) s
  else s

/-- POD_RESET_EXIT (R420). -/
def execPodResetExit (pod : Nat) (s : State) : Host.Outcome State Fault Refusal := .next (doPodResetExit pod s)

/-- Every unit of a Pod stands idle. -/
def podIdle (p : Pod) : Bool :=
  p.up && p.bags.isEmpty && p.reads.isEmpty && p.hq0.items.isEmpty && p.hq1.items.isEmpty && p.hq2.items.isEmpty &&
  p.uwin.isEmpty && p.combIn.isEmpty && p.flu.idle

/-- POD_IDLE_VOLTAGE: a Pod that has been idle for 10 µs lowers its rail. -/
def execPodIdleVoltage (pod : Nat) (s : State) : Host.Outcome State Fault Refusal :=
  .next (whenS (decide (pod < 16) && podIdle (getPod s pod)) (modPod pod (fun p => { p with lowVolt := true })) s)

/-- MSC_POD_RETIRE names a Pod that is mapped. -/
def podRetireApply (p : Nat) (s : State) : Option State :=
  if podMapped s p then some (modPod p (fun q => { q with retiring := true }) s) else none

/-- MSC_POD_RETIRE (R442): a Service write. -/
def execMscPodRetire (pod : Nat) (role : Role) (s : State) : Host.Outcome State Fault Refusal :=
  .next (odTry odMscPodRetire .service role pod (podRetireApply pod) s)

/-- MSC_SPARE_MAP: [7:0] a spare die, [15:8] a logical Pod that is down; its rail comes up and its link trains (R441). -/
def spareMapApply (v : Nat) (s : State) : Option State :=
  let d := v % 256
  let p := v / 256
  if p < 16 ∧ (spareDies s).contains d ∧ (getPod s p).retired ∧ s.msc.sparing.isNone then
    some (onCru (fun c => { c with d2d := if folioRuns s then tabPut d .training c.d2d else c.d2d,
                                   d2dTries := tabDrop d c.d2dTries })
      (onMsc (fun m => { m with sparing := some (d, p, false) }) s))
  else none

/-- MSC_SPARE_MAP (R441): a Service write. -/
def execMscSpareMap (die pod : Nat) (role : Role) (s : State) : Host.Outcome State Fault Refusal :=
  .next (odTry odMscSpareMap .service role (die % 256 + 256 * pod) (spareMapApply (die % 256 + 256 * pod)) s)

/-! ## Faults of power and clocks (R414, R427) -/

/-- Keeps a reading of a rail in PEU_RAILS. -/
def railReading (rail mv : Nat) (s : State) : State :=
  odSet odPeuRails (setBits (odGet s odPeuRails) (32 * rail + 15) (32 * rail) (mv % 65536)) s

/-- PEU_RAIL_FAULT: a rail of Table 16.5, VDD_POD by physical die, has left its window for 10 µs. -/
def doPeuRailFault (rail mv : Nat) (s : State) : State :=
  if 23 ≤ rail ∨ !s.cru.pwrgd then s
  else
    let p := s.msc.podMap.getD rail 0xFF
    if rail < 18 ∧ 16 ≤ p then s
    else
      let ev := if rail < 18 then evPeuPodRailFault else evPeuRailFault
      let s := post0 ev rail (mv % 65536) (railReading rail mv s)
      if rail < 18 then podFails p 3 ev rail (mv % 65536) s
      else
        let s := raiseErr { cause := 14, level := 4, ev := evPeuRailFault, source := rail, detail := mv % 65536 } s
        onCru (fun c => { c with pwrgd := false }) s

/-- PEU_RAIL_FAULT (R414). -/
def execPeuRailFault (rail mv : Nat) (s : State) : Host.Outcome State Fault Refusal := .next (settle (doPeuRailFault rail mv) s)

/-- INPUT_CURRENT_TRIP: the first stage stops at once; the error is contained at engine level. The event's SOURCE is a free
value, since no rail is named (log 4). -/
def doInputCurrentTrip (mv : Nat) (s : State) : State :=
  if !s.cru.input then s
  else
    let src := (freeNow s).toNat % 65536
    let d := mv % 65536 + 2 ^ 16
    let s := post0 evPeuRailFault src d (drawn s)
    let s := raiseErr { cause := 14, level := 4, ev := evPeuRailFault, source := src, detail := d } s
    onCru (fun c => { c with input := false, pwrgd := false }) s

/-- INPUT_CURRENT_TRIP (R414). -/
def execInputCurrentTrip (mv : Nat) (s : State) : Host.Outcome State Fault Refusal := .next (doInputCurrentTrip mv s)

/-- HUB_PLL_UNLOCK: a hub or fabric core PLL, while the reference holds. -/
def execHubPllUnlock (s : State) : Host.Outcome State Fault Refusal :=
  .next (whenS (s.cru.locked && !s.cru.coast) (raiseErr { cause := 15, level := 4, ev := ⟨14, 0, 0⟩ }) s)

/-! ## Engine and package containment (R430 to R433) -/

/-- The engine is out of reset, so that an error can be detected in it. -/
def running (s : State) : Bool := s.cru.run != .off && s.cru.run != .reset

/-- ENGINE_CONTAINMENT: an error of cause 12 to 15, with what reported it. -/
def execEngineContainment (cause subsys event source : Nat) (s : State) : Host.Outcome State Fault Refusal :=
  .next (whenS (running s && decide (12 ≤ cause) && decide (cause ≤ 15))
    (raiseErr { cause := cause, level := 4, ev := ⟨subsys, event, 0⟩, source := source }) s)

/-- PACKAGE_CONTAINMENT: an error of cause 16 to 18. -/
def execPackageContainment (cause : Nat) (s : State) : Host.Outcome State Fault Refusal :=
  .next (whenS (running s && decide (16 ≤ cause) && decide (cause ≤ 18))
    (raiseErr { cause := cause, level := 5, ev := ⟨13, 0, 0⟩ }) s)

/-- The open handling of the highest level. -/
def topHandling (s : State) : Option Handling := s.msc.open_.find? (fun h => h.level == openLevel s)

/-- CONTAINMENT_FLUSH_END: MSC_FLUSH_TIME is over. The preserved region is written, MSC_CONTAINED raised with ALERT, and the
engine enters reset; it stays there for a package handling, or for a channel that is not retired. -/
def doContainmentFlushEnd (s : State) : State :=
  if !s.msc.flushing then s
  else
    let s := onMsc (fun m => { m with alert := true }) s
    let s := if s.hpt.link = .up then writePreserved 2 s.hpt.epoch 0 0 (fun _ => false) s else s
    let top := topHandling s
    let s := match top with
      | some h => containedEvent h.cause h.detected h.level h.nested none h.dVal s
      | none => s
    let hold := top.any (fun h => h.cause == 13) && odGet s odMscAutoChanRetire == 0
    leaveReset (onMsc (fun m => { m with waitRelease := hold }) (enterReset s))

/-- CONTAINMENT_FLUSH_END (R430). -/
def execContainmentFlushEnd (s : State) : Host.Outcome State Fault Refusal := .next (doContainmentFlushEnd s)

/-- MSC_CONTAIN_RELEASE: ALERT clears, and the engine leaves package containment, but not after the loss of its hub die. -/
def releaseApply (s : State) : Option State :=
  if s.msc.hubLost then none
  else
    let s := onMsc (fun m => { m with alert := false, packageHeld := false, waitRelease := false }) s
    some (leaveReset (closeHandlings (fun h => h.level == 5) s))

/-- MSC_CONTAIN_RELEASE (R433): a Service write. -/
def execMscContainRelease (role : Role) (s : State) : Host.Outcome State Fault Refusal :=
  .next (odTry odMscContainRelease .service role 1 releaseApply s)

end Sys2Proof.Machine
end

