-- ==== Sys2Proof/Machine/Management.lean ====
section
/-! DEFINITION. Management (15, 18): Garwa and the mailbox (R379 to R383), reads and writes of the object dictionary (R448 to
R452, R460), firmware (R386, R387), attestation (R388), key envelopes (R389 to R391) and the modes of security (R393 to
R396). -/

namespace Sys2Proof.Machine

/-! ## What an entry reads (R395, R407, R460) -/

/-- SEC_MODE (Table 15.10). -/
def modeNum (m : SecMode) : Nat :=
  match m with | .open => 0 | .entering => 1 | .confidential => 2 | .exiting => 3

/-- The number of a link's state (Table 16.11). -/
def d2dNum (d : D2d) : Nat := match d with | .down => 0 | .training => 1 | .up => 2 | .fault => 3

/-- A number made of the values of n places of w bytes each. -/
def fieldsNum (w n : Nat) (f : Nat → Nat) : Nat :=
  ((List.range n).map (fun i => (f i % 2 ^ (8 * w)) <<< (8 * w * i))).foldl (· + ·) 0

/-- SEC_TABLE_KEYS: the Table IDs that hold a key, ascending. -/
def tableKeyIds (s : State) : Nat :=
  let ks := s.msc.tableKeys.map (·.1)
  fieldsNum 2 256 (fun i => ks.getD i 0xFFFF)

/-- The firmware slot with a number: 0 A, 1 B. -/
def fwSlot (s : State) (k : Nat) : FwSlot := if k = 0 then s.msc.slotA else s.msc.slotB

/-- MSC_FW_ACTIVE. -/
def fwActive (s : State) : Nat := odGet s odMscFwActive

/-- MSC_FW_VERSIONS. -/
def fwVersions (s : State) : Nat :=
  let one (f : FwSlot) : Nat := f.version % 2 ^ 32 + (f.svn % 256) <<< 32
  one s.msc.slotA + (one s.msc.slotB) <<< 40

/-- FSU_REMAINING: R of each budget, 0 for a Pod whose die is retired and not replaced (R440). -/
def remainingNum (s : State) : Nat :=
  fieldsNum 4 49 (fun i =>
    if i < 48 ∧ (getPod s (i / 3)).retired then 0
    else ofSigned 32 ((tabFind i s.fsu.remaining).getD (budgetAt s i)))

/-- FLU_HALF_STATE of half h: 0 empty, 1 loading, 2 resident. -/
def halfState (h : Half) : Nat := if !h.loading.isEmpty then 1 else if h.tag.isNone then 0 else 2

/-- FLU_HALF_STATE: byte 2p + h is half h of Pod p. -/
def halvesNum (s : State) : Nat :=
  fieldsNum 1 32 (fun i => let f := (getPod s (i / 2)).flu; halfState (if i % 2 = 0 then f.h0 else f.h1))

/-- CAT_SLOTRING_k, with HEAD and HELD. -/
def slotringNum (s : State) (k : Nat) : Nat :=
  let r := slotRing s k
  slotCtl s k + (r.head % 2 ^ 32) <<< 160 + (r.ret.length % 2 ^ 32) <<< 192

/-- ID_AGREE_PUB: the public half of the agreement key (R385). -/
def agreePub : List Byte := sliceBytes 0 97 (Config.manufactured odIdAgreePub)

/-- The clock that a source of CRU_CLKMON gives, kHz at its nominal rate: a Pod's PLL while its die is out of reset, the hub,
the fabric core, the reference in use, J_REFCLK, the coast oscillator (R401, R405, R408). None for an absent clock. -/
def clockOf (s : State) (src : Nat) : Option Nat :=
  let core (f : Nat) : Option Nat := if s.cru.coast then some 250000 else if s.cru.locked then some f else none
  if src < 16 then (if (getPod s src).up && !(getPod s src).inReset then core s.cru.podKhz else none)
  else if src = 16 then core s.cru.hubKhz
  else if src = 17 then core s.cru.fabKhz
  else if src = 18 then (if s.cru.locked then some 156250 else none)
  else if src = 19 then some 156250
  else if src = 20 then some 250000
  else none

/-- What J_CLKMON drives: a clock of some kHz before the division by 2^k, and k; none where the pin is low: no source, an absent
clock, and every selection in confidential mode (R408). Above 400 MHz after the division its amplitude is undefined. -/
def clockMonitor (s : State) : Option (Nat × Nat) :=
  if confidential s then none
  else (clockOf s (odGet s odCruClkmon % 256)).map (fun f => (f, bitsOf (odGet s odCruClkmon) 11 8))

/-- The value of an entry that the engine works out as it is read; none for one that is kept. -/
def odComputed (s : State) (key : Nat) : Option Nat :=
  if key = odCruD2dState then some (fieldsNum 1 18 (fun d => d2dNum (linkOf s d)))
  else if key = odPodMap then some (fieldsNum 1 18 (fun d => s.msc.podMap.getD d 0xFF))
  else if key = odPluGroupsOpen then some (fieldsNum 2 16 (fun p => (openGroups (getPod s p)).length))
  else if key = odQntStatsEntry then some (leNat (gddrLoad s (statsAddr s (odGet s odQntStatsSelect)) 16))
  else if key = odFluHalfState then some (halvesNum s)
  else if odCatSlotring ≤ key ∧ key < odCatSlotring + 8 then some (slotringNum s (key - odCatSlotring))
  else if odStkPin ≤ key ∧ key < odStkPin + 16 then some (pinRead s (key - odStkPin))
  else if key = odUpuTrainEntry then some (tabGet (odGet s odUpuTrainSelect) 0 s.upu.train).toNat
  else if key = odHptHostEpoch then some s.hpt.epoch
  else if key = odHptInboundBase then some (leNat (Config.manufactured key) % 2 ^ 64)
  else if key = odFsuTickActive then some (bit (tickInUse s))
  else if key = odFsuRemaining then some (remainingNum s)
  else if key = odSecMode then some (modeNum s.msc.mode)
  else if key = odSecTableKeys then some (tableKeyIds s)
  else if key = odMscErrPrimary then some (errNum s.msc.primary)
  else if key = odMscErrSecondary then some (errNum s.msc.secondary)
  else if key = odMscFwVersions then some (fwVersions s)
  else if key = odIdAgreePub then some (leNat agreePub)
  else if key = odIdMgmtMac then some (leNat (Config.manufactured key) % 2 ^ 48)
  else if key = odSfpAllowPlain ∧ confidential s then some 0
  else if key = odMssTags ∧ confidential s then some 1
  else if key = odPeuVin ∧ confidential s then some (peuReading s).2.2
  else if key = odPeuIin ∧ confidential s then some (10 * (peuReading s).2.1)
  else if key = odPeuPin ∧ confidential s then some (1000 * (peuReading s).1)
  else none

/-- A counter as it reads: in confidential mode as latched at the last boundary and coarse, each U64 of a BLOB by itself. -/
def counterNum (s : State) (e : OdEnt) : Nat :=
  if confidential s then
    let v := tabGet e.key 0 s.msc.latched
    if e.ty == .blob then fieldsNum 8 (e.size / 8) (fun i => coarse (bitsOf v (64 * i + 63) (64 * i))) else coarse v
  else if e.key = odHptTransMisses then s.hpt.transMisses
  else odGet s e.key

/-- The number that an entry of fixed size reads. -/
def odValue (s : State) (e : OdEnt) : Nat :=
  if e.acc == .wo || (e.acc == .ro && gated s (odSub e.key)) then 0
  else
    match odComputed s e.key with
    | some v => v
    | none => if e.count != .none then counterNum s e else odGet s e.key

/-- The bytes of a value that is a string: up to the first zero byte. -/
def strBytes (bs : List Byte) : List Byte := bs.takeWhile (· != 0)

/-- len bytes of an entry's value from an offset: zeros for a WO entry, and no more than the value has. -/
def odRead (s : State) (e : OdEnt) (off len : Nat) : List Byte :=
  if e.acc == .wo then List.replicate (min len (e.size - off)) 0
  else if e.key = odIdSerial then (((strBytes (Config.manufactured e.key)).take 32).drop off).take len
  else if e.key = odIdCert then ((Config.manufactured e.key).take 8192).drop off |>.take len
  else (leBytes (min len (e.size - off)) (odValue s e >>> (8 * off)))

/-! ## Sessions and answers (R379, R380, R383) -/

/-- A message reaches the MSC from the mailbox (session 0, Operator) while the window answers and the mailbox is not busy, or
from an open session with its role. -/
def sessionOk (s : State) (session : Nat) (role : Role) : Bool :=
  if session = 0 then role == .operator && windowUp s && !s.msc.mbBusy && !s.msc.restarting
  else s.msc.sessions.contains (session, role)

/-- The header of a RESPONSE in MSC_MB_RSP: REQ_ID is that of the request. INDEX, SUBINDEX and OFFSET of a response are free
values (log 4). -/
def responseHeader (s : State) (st len : Nat) : Nat :=
  let req := leNat (memLoad s.msc.mbReq 0 16)
  1 + 3 <<< 4 + (bitsOf req 39 8) <<< 8 + (st % 2 ^ 16) <<< 40 + ((freeNow s).toNat % 2 ^ 24) <<< 56 +
  (len % 2 ^ 16) <<< 80 + ((freeNow s).toNat / 2 ^ 24 % 2 ^ 32) <<< 96

/-- The MSC answers a message with a status and a payload. The mailbox's answer goes into MSC_MB_RSP and sets DONE. -/
def respond (session st : Nat) (payload : List Byte) (s : State) : State :=
  let s := onOut (fun o => { o with read := payload, status := st }) s
  if session = 0 then
    let h := responseHeader s st payload.length
    let id := bitsOf h 39 8
    drawn (onMsc (fun m => { m with
      mbRsp := memStore 0 (leBytes 16 h ++ payload) m.mbRsp, mbDone := true, mbReqId := id,
      mbAnswered := m.mbAnswered + 1 }) s)
  else onMsc (fun m => { m with answered := m.answered + 1 }) s

/-- The key of index:subindex, or none for numbers that fit no header. -/
def odKey (index sub : Nat) : Option Nat := if index < 65536 ∧ sub < 256 then some (256 * index + sub) else none

/-- The entry that a message names. -/
def odNamed (index sub : Nat) : Option OdEnt := (odKey index sub).bind odFind

/-- GARWA_READ: up to LENGTH bytes of the value from OFFSET. -/
def doGarwaRead (session : Nat) (role : Role) (index sub off len : Nat) (s : State) : State :=
  if !sessionOk s session role then s
  else if 1024 < len ∨ 2 ^ 32 ≤ off ∨ (odKey index sub).isNone then respond session osBadMessage [] s
  else
    match odNamed index sub with
    | none => respond session osNoEntry [] s
    | some e => respond session osOk (odRead s e off len) s

/-- GARWA_READ (R381). -/
def execGarwaRead (session : Nat) (role : Role) (index sub offset len : Nat) (s : State) : Host.Outcome State Fault Refusal :=
  .next (doGarwaRead session role index sub offset len s)

/-- The roles that may write an entry: the anchors have rules of their own (R380), and STK_PART's depends on the value. -/
def mayWrite (s : State) (e : OdEnt) (role : Role) (v : Nat) : Bool :=
  if e.key = odSecAnchorOwner then (if odGet s e.key = 0 then role == .service else roleOk .owner role)
  else if e.key = odSecAnchorOperator then role == .owner
  else if odStkPart ≤ e.key ∧ e.key < odStkPart + 8 then roleOk (partRole s (e.key - odStkPart) v) role
  else roleOk e.role role

/-- The present mode locks a write of a value: an entry that is locked whatever is written, or an aperture that would let the
host read (Table 15.9). -/
def writeLocked (s : State) (e : OdEnt) (v : Nat) : Bool :=
  odLocked s e.key ||
  (decide (odHptAperture ≤ e.key) && decide (e.key < odHptAperture + 16) && apertureLocked s v)

/-- The entry holds one value and is written in one segment (R382). -/
def isScalar (e : OdEnt) : Bool := e.ty != .blob && e.ty != .str

/-- A value of this entry is staged by another session. -/
def stagedElsewhere (s : State) (key session : Nat) : Bool :=
  s.msc.staged.any (fun x => x.key == key && x.session != session)

/-- What this session has staged of an entry. -/
def stagedBytes (s : State) (key session : Nat) : List Byte :=
  ((s.msc.staged.find? (fun x => x.key == key && x.session == session)).map (·.bytes)).getD []

/-- Forgets what is staged of an entry. -/
def unstage (key : Nat) (s : State) : State := onMsc (fun m => { m with staged := m.staged.filter (fun x => x.key != key) }) s

/-- The checks of R451 up to BUSY for a write segment; v is the value where it is whole. -/
def writeBlock (s : State) (session : Nat) (role : Role) (e : OdEnt) (last : Bool) (off len v : Nat) : Option Nat :=
  if isScalar e && !(last && off == 0 && len == e.size) then some osBadMessage
  else if e.acc == .ro then some osReadOnly
  else if !mayWrite s e role v then some osDenied
  else if writeLocked s e v then some osLocked
  else if mscBusy s || stagedElsewhere s e.key session then some osBusy
  else none

/-- GARWA_WRITE_SEGMENT: a segment that is not the last is staged. -/
def doGarwaWriteSegment (session : Nat) (role : Role) (index sub off : Nat) (bytes : List Byte) (s : State) : State :=
  if !sessionOk s session role then s
  else if 1024 < bytes.length ∨ 2 ^ 32 ≤ off ∨ (odKey index sub).isNone then respond session osBadMessage [] s
  else
    match odNamed index sub with
    | none => respond session osNoEntry [] s
    | some e =>
      let old := stagedBytes s e.key session
      match writeBlock s session role e false off bytes.length (leNat (old ++ bytes)) with
      | some st => respond session st [] s
      | none =>
        if off ≠ old.length then respond session osSequence [] (unstage e.key s)
        else
          let s := unstage e.key s
          respond session osOk [] (onMsc (fun m => { m with staged := m.staged ++ [⟨e.key, session, old ++ bytes⟩] }) s)

/-- GARWA_WRITE_SEGMENT (R382). -/
def execGarwaWriteSegment (session : Nat) (role : Role) (index sub offset : Nat) (bytes : List Byte) (s : State) :
    Host.Outcome State Fault Refusal := .next (doGarwaWriteSegment session role index sub offset bytes s)

/-- STAGED_VALUE_DISCARD: no segment has come for 2 s. -/
def execStagedValueDiscard (index sub : Nat) (s : State) : Host.Outcome State Fault Refusal :=
  .next (match odKey index sub with | none => s | some k => unstage k s)

/-! ## Key envelopes (R389 to R391) -/

/-- n of an envelope. -/
def envCount (bs : List Byte) : Nat := leNat (sliceBytes 6 2 bs)
/-- The key slot or Table ID of an envelope. -/
def envName (bs : List Byte) : Nat := leNat (sliceBytes 8 2 bs)

/-- An envelope of a kind in the form of Table 15.6. -/
def envOk (kind : Nat) (bs : List Byte) : Bool :=
  let n := envCount bs
  leNat (sliceBytes 0 4 bs) == 0x56454B4A && leNat (sliceBytes 4 2 bs) == kind &&
  decide (1 ≤ n) && decide (n ≤ 1024) && bs.length == 120 + 56 * n &&
  (sliceBytes 14 2 bs).all (· == 0) && (sliceBytes 113 7 bs).all (· == 0) &&
  (if kind = 1 then decide (envName bs < 4) else (sliceBytes 10 4 bs).all (· == 0))

/-- The ID that names this engine in an envelope: the first 16 bytes of the SHA-384 of ID_AGREE_PUB. -/
def envId : List Byte := sliceBytes 0 16 (Config.sha384 agreePub)

/-- The KEK of an envelope: the KDF keyed by Z, with bytes 0 to 15 as context. -/
def envKek (bs : List Byte) : List Byte :=
  Config.kdf (Config.agree (sliceBytes 16 97 bs)) (asciiBytes "JKR-WRAP") (sliceBytes 0 16 bs)

/-- The key that an envelope holds for this engine, or the cause of its refusal: 1 no entry, 2 the unwrap fails. -/
def envOpen (bs : List Byte) : Except Nat (List Byte) :=
  match (List.range (envCount bs)).find? (fun k => sliceBytes (120 + 56 * k) 16 bs == envId) with
  | none => .error 1
  | some k =>
    match Config.keyUnwrap (envKek bs) (sliceBytes (136 + 56 * k) 40 bs) with
    | none => .error 2
    | some z => .ok z

/-- MSC_ENVELOPE_REFUSED: nothing changes but that the event is raised. -/
def envRefused (name cause : Nat) (s : State) : Nat × State := (osRefused, post0 evMscEnvelopeRefused name cause s)

/-- Installs a job secret in a link key slot: its cell sequences start anew (R340, R342). -/
def installKey (k gen : Nat) (z : List Byte) (s : State) : State :=
  showKeys (onSfp (fun f => { f with
    keys := tabPut k { secret := some z, gen := gen } f.keys,
    cseq := f.cseq.filter (fun c => c.1 % 4 != k), replayWin := f.replayWin.filter (fun c => c.1 % 4 != k) }) s)

/-- A KIND 1 envelope. -/
def jobEnvelope (bs : List Byte) (s : State) : Nat × State :=
  if !envOk 1 bs ∨ s.sfp.sending = some (envName bs) then (osRefused, s)
  else
    match envOpen bs with
    | .error c => envRefused (envName bs) c s
    | .ok z => (osOk, installKey (envName bs) (leNat (sliceBytes 10 4 bs)) z s)

/-- A KIND 2 envelope. -/
def tableEnvelope (bs : List Byte) (s : State) : Nat × State :=
  let t := envName bs
  if !envOk 2 bs then (osRefused, s)
  else
    match envOpen bs with
    | .error c => envRefused t c s
    | .ok z =>
      if 256 ≤ s.msc.tableKeys.length ∧ (tabFind t s.msc.tableKeys).isNone then envRefused t 3 s
      else (osOk, onMsc (fun m => { m with tableKeys := tabPut t z m.tableKeys }) s)

/-- SEC_TABLE_UNBIND. -/
def tableUnbind (t : Nat) (s : State) : Option State :=
  if t < 65536 then some (onMsc (fun m => { m with tableKeys := tabDrop t m.tableKeys }) s) else none

/-! ## Modes of security (R393 to R396) -/

/-- What a change of mode or a job end asks of this engine (R393). -/
def secQuiet (s : State) : Bool :=
  s.cfe.queues.all (fun q => q.2.state == .disabled) && !ledgerOwes s &&
  podNums.all (fun p => (getPod s p).groups.isEmpty) &&
  (liveDescs s).all (fun i => decide (sdState (descAt s i) < 2)) &&
  !s.mss.overwriteDue && !s.mss.overwriting && s.msc.step == .idle

/-- A paired twin's partner must meet the same conditions; whether it does is a free value (log 4). -/
def partnerQuiet (s : State) : Bool := twinState s != 1 || bitOf (freeNow s).toNat 0

/-- Every link key slot and table key is erased. -/
def eraseKeys (s : State) : State :=
  let s := showKeys (onSfp (fun f => { f with
    keys := [], sending := none, switchTo := none, oldSlot := none, cseq := [], replayWin := [] }) s)
  onMsc (fun m => { m with tableKeys := [] }) s

/-- Apertures that let the host read are disabled (Table 15.9). -/
def closeApertures (s : State) : State :=
  forEach (fun k s =>
    let v := odGet s (odHptAperture + k)
    if apOn v ∧ apRead v then (apertureApply k (setBit v 0 false) s).getD s else s) (List.range 16) s

/-- The data path is reset with an overwrite due, and leaves reset; the request goes on at the end of the overwrite. -/
def secReset (step : SecStep) (s : State) : State :=
  let s := onMss (fun m => { m with overwriteDue := true }) (onMsc (fun m => { m with step := step }) s)
  leaveReset (enterReset (if twinState s = 1 then drawn s else s))

/-- SEC_MODE_REQ: 1 enters confidential mode, 0 leaves it. A request for the mode that holds changes nothing. -/
def secModeReq (v : Nat) (s : State) : Option State :=
  if 1 < v then none
  else if !secQuiet s ∨ !partnerQuiet s then none
  else if v = 1 then
    if s.msc.mode == .open then
      let s := onMsc (fun m => { m with mode := .entering, debug := false }) s
      some (secReset .enter (eraseKeys (closeApertures s)))
    else some s
  else if s.msc.mode == .confidential then
    some (secReset .exit (eraseKeys (onMsc (fun m => { m with mode := .exiting }) s)))
  else some s

/-- SEC_JOB_END: keys are erased and GDDR7 is overwritten; SEC_MODE stays. -/
def secJobEnd (v : Nat) (s : State) : Option State :=
  if v = 0 then some s
  else if v ≠ 1 ∨ !secQuiet s ∨ !partnerQuiet s then none
  else some (secReset .jobEnd (eraseKeys s))

/-- MSC_MODE. -/
def modeEvent (new old : SecMode) (job : Bool) (s : State) : State :=
  post0 evMscMode 0 (modeNum new + modeNum old <<< 8 + (bit job) <<< 16) s

/-- The last step of a change of mode or a job end, at the end of its overwrite. -/
def secFinish (s : State) : State :=
  let old := s.msc.mode
  match s.msc.step with
  | .idle => s
  | .enter => modeEvent .confidential old false (onMsc (fun m => { m with mode := .confidential, step := .idle }) s)
  | .exit => modeEvent .open old false (onMsc (fun m => { m with mode := .open, step := .idle }) s)
  | .jobEnd => modeEvent old old true (onMsc (fun m => { m with step := .idle }) s)

/-- MSS_OVERWRITE_DONE: the overwrite has ended after so many µs. -/
def doMssOverwriteDone (us : Nat) (s : State) : State :=
  if s.mss.overwriting then secFinish (overwriteEnd us s) else s

/-- MSS_OVERWRITE_DONE (R300). -/
def execMssOverwriteDone (us : Nat) (s : State) : Host.Outcome State Fault Refusal := .next (doMssOverwriteDone us s)

/-! ## Firmware (R386, R387) -/

/-- Changes the firmware slot with a number. -/
def setFwSlot (k : Nat) (f : FwSlot) (s : State) : State :=
  onMsc (fun m => if k = 0 then { m with slotA := f } else { m with slotB := f }) s

/-- A complete image goes into the inactive slot when it passes. -/
def fwImage (bs : List Byte) (s : State) : Option State :=
  let v := Config.fwSvn bs
  if Config.fwSigned bs ∧ s.msc.svn ≤ v ∧ bs.length ≤ 4194304 then
    some (setFwSlot (1 - fwActive s) { version := Config.fwVersion bs, svn := v, passes := true, image := bs } s)
  else none

/-- MSC_FW_SWITCH: the switch follows at the next folio boundary. -/
def fwSwitch (v : Nat) (s : State) : Option State :=
  if v = 1 then some (onMsc (fun m => { m with fwPending := true }) s) else if v = 0 then some s else none

/-- MSC_FW_COMMIT burns the SVN fuses up to the active image's SVN. -/
def fwCommit (v : Nat) (s : State) : Option State :=
  if v = 1 then some (onMsc (fun m => { m with svn := max m.svn (min 64 (fwSlot s (fwActive s)).svn) }) s)
  else if v = 0 then some s else none

/-- The MSC restarts from slot k: sessions close, staged values are lost and the mailbox stays BUSY. -/
def restartFrom (k : Nat) (s : State) : State :=
  odSet odMscFwActive k (onMsc (fun m => { m with
    restarting := true, sessions := [], staged := [], mbBusy := true, fwPending := false }) s)

/-- FW_RESTART: at the folio boundary the other slot becomes active. MSC_FW_SWITCH is held until the MSC runs again. -/
def doFwRestart (s : State) : State :=
  if s.msc.fwPending ∧ !s.msc.restarting then
    let k := 1 - fwActive s
    let v := (fwSlot s k).version
    post0 evMscFwSwitch 0 (k + (v % 2 ^ 32) <<< 32) (onMsc (fun m => { m with unhealthy := true }) (restartFrom k s))
  else s

/-- FW_RESTART (R387). -/
def execFwRestart (s : State) : Host.Outcome State Fault Refusal := .next (doFwRestart s)

/-- FW_HEALTH_TIMEOUT: new firmware has not reported itself healthy within 10 s. -/
def doFwHealthTimeout (s : State) : State :=
  if s.msc.unhealthy then
    let k := 1 - fwActive s
    post0 evMscFwFallback 0 (k + 3 <<< 8) (onMsc (fun m => { m with unhealthy := false }) (restartFrom k s))
  else s

/-- FW_HEALTH_TIMEOUT (R387). -/
def execFwHealthTimeout (s : State) : Host.Outcome State Fault Refusal := .next (doFwHealthTimeout s)

/-- MSC_RESTART_DONE: BUSY clears, and the events raised meanwhile are posted, oldest first (R399). -/
def doMscRestartDone (s : State) : State :=
  if s.msc.restarting then
    let held := s.msc.held
    let s := onMsc (fun m => { m with restarting := false, mbBusy := false, held := [] }) s
    forEach (fun e s => postEntry e.1 e.2 s) held s
  else s

/-- MSC_RESTART_DONE (R387). -/
def execMscRestartDone (s : State) : Host.Outcome State Fault Refusal := .next (doMscRestartDone s)

/-- What a slot fails its check by: 1 signature, 2 SVN; 0 when it passes. -/
def slotFault (s : State) (k : Nat) : Nat :=
  let f := fwSlot s k
  if !f.passes then 1 else if f.svn < s.msc.svn then 2 else 0

/-- MSC_BOOT: the active slot is booted, or the other with MSC_FW_FALLBACK; with neither start-up fails with cause 2. -/
def doMscBoot (s : State) : State :=
  if s.cru.run = .off ∨ s.msc.booted then s
  else
    let a := fwActive s
    let up (s : State) : State := onMsc (fun m => { m with booted := true }) s
    if slotFault s a = 0 then up s
    else if slotFault s (1 - a) = 0 then
      post0 evMscFwFallback 0 (1 - a + (slotFault s a) <<< 8) (up (odSet odMscFwActive (1 - a) s))
    else startFail 2 s

/-- MSC_BOOT (R386). -/
def execMscBoot (s : State) : Host.Outcome State Fault Refusal := .next (doMscBoot s)

/-! ## Writes of the object dictionary (R451) -/

/-- The status of a value that is applied or refused. -/
def applied (s : State) (r : Option State) : Nat × State :=
  match r with | some t => (osOk, t) | none => (osRefused, s)

/-- A BOOL that acts when it is 1. -/
def onOne (v : Nat) (f : State → Option State) (s : State) : Option State :=
  if v = 1 then f s else if v = 0 then some s else none

/-- A whole value of the right length is applied to its entry, or refused. -/
def odApplyNow (e : OdEnt) (bs : List Byte) (s : State) : Nat × State :=
  let v := leNat bs
  let key := e.key
  if key = odSecModeReq then applied s (secModeReq v s)
  else if key = odSecJobEnd then applied s (secJobEnd v s)
  else if key = odSecJobEnvelope then jobEnvelope bs s
  else if key = odSecTableEnvelope then tableEnvelope bs s
  else if key = odSecTableUnbind then applied s (tableUnbind v s)
  else if key = odMscFwImage then applied s (fwImage bs s)
  else if key = odMscFwSwitch then applied s (fwSwitch v s)
  else if key = odMscFwCommit then applied s (fwCommit v s)
  else if key = odMscPodRetire then applied s (podRetireApply v s)
  else if key = odMscSpareMap then applied s (spareMapApply v s)
  else if key = odMscContainRelease then applied s (onOne v releaseApply s)
  else if key = odCruPodReset then applied s (podResetApply v s)
  else applied s (odEffect e v s)

/-- A whole value is applied to its entry, or refused. An entry of a gated subsystem holds a value that is not refused until
its clock runs. -/
def odApply (e : OdEnt) (bs : List Byte) (s : State) : Nat × State :=
  if (if e.varLen then decide (e.size < bs.length) else bs.length != e.size) then (osRefused, s)
  else
    let x := odApplyNow e bs s
    if x.1 = osOk ∧ gated s (odSub e.key) then (osOk, holdWrite e.key (leNat bs) s) else x

/-- OD_WRITE: the last segment of a value; the whole value is checked and applied in one step. -/
def doOdWrite (session : Nat) (role : Role) (index sub off : Nat) (bytes : List Byte) (s : State) : State :=
  if !sessionOk s session role then s
  else if 1024 < bytes.length ∨ 2 ^ 32 ≤ off ∨ (odKey index sub).isNone then respond session osBadMessage [] s
  else
    match odNamed index sub with
    | none => respond session osNoEntry [] s
    | some e =>
      let old := stagedBytes s e.key session
      let all := old ++ bytes
      match writeBlock s session role e true off bytes.length (leNat all) with
      | some st => respond session st [] s
      | none =>
        if off ≠ old.length then respond session osSequence [] (unstage e.key s)
        else
          let r := odApply e all (unstage e.key s)
          respond session r.1 [] r.2

/-- OD_WRITE (R451). -/
def execOdWrite (session : Nat) (role : Role) (index sub offset : Nat) (bytes : List Byte) (s : State) :
    Host.Outcome State Fault Refusal := .next (doOdWrite session role index sub offset bytes s)

/-- A write of bytes to an entry with a row of its own, after the checks of R451. -/
def odBytes (key : Nat) (need role : Role) (f : State → Nat × State) (s : State) : State :=
  if !roleOk need role then odAnswer osDenied s
  else if odLocked s key then odAnswer osLocked s
  else if mscBusy s || s.msc.staged.any (fun x => x.key == key) then odAnswer osBusy s
  else let r := f s; odAnswer r.1 r.2

/-- SEC_MODE_REQ_ENTER (R394): an Owner's write of 1. -/
def execSecModeReqEnter (role : Role) (s : State) : Host.Outcome State Fault Refusal :=
  .next (odTry odSecModeReq .owner role 1 (secModeReq 1) s)

/-- SEC_MODE_REQ_EXIT (R396): an Owner's write of 0. -/
def execSecModeReqExit (role : Role) (s : State) : Host.Outcome State Fault Refusal :=
  .next (odTry odSecModeReq .owner role 0 (secModeReq 0) s)

/-- SEC_JOB_END (R396): an Owner's write of 1. -/
def execSecJobEnd (role : Role) (s : State) : Host.Outcome State Fault Refusal :=
  .next (odTry odSecJobEnd .owner role 1 (secJobEnd 1) s)

/-- SEC_JOB_ENVELOPE (R390): an Owner's write. -/
def execSecJobEnvelope (role : Role) (bytes : List Byte) (s : State) : Host.Outcome State Fault Refusal :=
  .next (odBytes odSecJobEnvelope .owner role (jobEnvelope bytes) s)

/-- SEC_TABLE_ENVELOPE (R391): an Owner's write. -/
def execSecTableEnvelope (role : Role) (bytes : List Byte) (s : State) : Host.Outcome State Fault Refusal :=
  .next (odBytes odSecTableEnvelope .owner role (tableEnvelope bytes) s)

/-- SEC_TABLE_UNBIND (R391): an Owner's write. -/
def execSecTableUnbind (role : Role) (table : Nat) (s : State) : Host.Outcome State Fault Refusal :=
  .next (odTry odSecTableUnbind .owner role table (tableUnbind table) s)

/-- MSC_FW_IMAGE (R387): a Service write. -/
def execMscFwImage (role : Role) (bytes : List Byte) (s : State) : Host.Outcome State Fault Refusal :=
  .next (odBytes odMscFwImage .service role (fun s => applied s (fwImage bytes s)) s)

/-- MSC_FW_SWITCH (R387): a Service write of 1. -/
def execMscFwSwitch (role : Role) (s : State) : Host.Outcome State Fault Refusal :=
  .next (odTry odMscFwSwitch .service role 1 (fwSwitch 1) s)

/-- MSC_FW_COMMIT (R387): a Service write of 1. -/
def execMscFwCommit (role : Role) (s : State) : Host.Outcome State Fault Refusal :=
  .next (odTry odMscFwCommit .service role 1 (fwCommit 1) s)

/-! ## Sessions and attestation (R379, R380, R388) -/

/-- The role that a client's chain gets: the highest whose anchor validates it; an empty anchor validates none. -/
def chainRole (s : State) (chain : List Byte) : Option Role :=
  let o := odGet s odSecAnchorOwner
  let p := odGet s odSecAnchorOperator
  if Config.chainValid chain (leNat Config.serviceAnchor) then some .service
  else if o ≠ 0 ∧ Config.chainValid chain o then some .owner
  else if p ≠ 0 ∧ Config.chainValid chain p then some .operator
  else none

/-- MSC_AUTH_FAIL, at most once per folio. -/
def loginFail (cause peer : Nat) (s : State) : State :=
  if s.msc.authRaised then s
  else post0 evMscAuthFail 0 (cause + (peer % 2 ^ 64) <<< 64) (onMsc (fun m => { m with authRaised := true }) s)

/-- DTLS_HANDSHAKE: a session with the chain's role, unless no anchor validates it or eight are open. -/
def doDtlsHandshake (chain : List Byte) (peer : Nat) (s : State) : State :=
  if s.cru.run = .off ∨ s.msc.restarting ∨ (!s.msc.booted ∧ s.msc.startCause ≠ 2) then s
  else
    match chainRole s chain with
    | none => loginFail 1 peer s
    | some r =>
      if 8 ≤ s.msc.sessions.length then loginFail 3 peer s
      else onMsc (fun m => { m with nextSession := m.nextSession + 1, sessions := m.sessions ++ [(m.nextSession + 1, r)] }) s

/-- DTLS_HANDSHAKE (R380). -/
def execDtlsHandshake (chain : List Byte) (peer : Nat) (s : State) : Host.Outcome State Fault Refusal :=
  .next (doDtlsHandshake chain peer s)

/-- SESSION_IDLE_CLOSE: no message for 60 s. -/
def execSessionIdleClose (session : Nat) (s : State) : Host.Outcome State Fault Refusal :=
  .next (onMsc (fun m => { m with sessions := m.sessions.filter (fun x => x.1 != session) }) s)

/-- Measurement block 3: the active image's version and SVN, and the fused SVN. -/
def block3 (s : State) : List Byte :=
  let f := fwSlot s (fwActive s)
  leBytes 4 f.version ++ leBytes 1 f.svn ++ leBytes 1 s.msc.svn ++ [0, 0]

/-- Measurement block 5: user sprouts and hash microcode of the Pods in order, then IXU_HASH_SLOT. -/
def block5 (s : State) : List Byte :=
  let code (ws : List Word) : List Byte := ws.flatMap (fun w => leBytes 8 w.toNat)
  let sprouts := podNums.flatMap (fun p => (List.range 48).flatMap (fun k => code (tabGet (16 + k) [] (getPod s p).sprouts)))
  let hashes := podNums.flatMap (fun p => (List.range 3).flatMap (fun k => code (tabGet (1 + k) [] (getPod s p).hashes)))
  Config.sha384 (sprouts ++ hashes ++ leBytes 1 (odGet s odIxuHashSlot))

/-- Measurement block 6: fuses and debug. -/
def block6 (s : State) : List Byte :=
  leBytes 1 (bit s.msc.debugKill + 2 * bit s.msc.debug + 4 * bit s.msc.debug) ++ leBytes 1 s.msc.svn ++
  List.replicate 6 0 ++ sliceBytes 0 48 Config.firmwareKey ++ sliceBytes 0 48 Config.serviceAnchor

/-- Measurement block 7: partition layout. -/
def block7 (s : State) : List Byte :=
  (List.range 18).flatMap (fun d => leBytes 1 (s.msc.podMap.getD d 0xFF)) ++ leBytes 36 (odGet s odStkRetired) ++
  (List.range 8).flatMap (fun k => leBytes 8 (partVal s k)) ++ leBytes 4 (odGet s odMssChanMap) ++
  leBytes 1 (bit s.mss.tags) ++ leBytes 1 (odGet s odMssChannels) ++ leBytes 2 s.sfp.partner ++
  leBytes 1 (twinState s) ++ [0]

/-- Measurement block 8: security configuration. -/
def block8 (s : State) : List Byte :=
  leBytes 1 (modeNum s.msc.mode) ++ [0, 0, 0] ++ leBytes 4 s.sfp.collId ++ leBytes 4 (keyStateNum s) ++
  List.replicate 4 0 ++ Config.sha384 (leBytes 512 (tableKeyIds s)) ++ Config.sha384 (leBytes 8192 (odGet s odSecQAcl))

/-- The blocks of Table 15.5, 1 to 9, one after the other. -/
def measurements (s : State) : List Byte :=
  Config.bootRom ++ Config.sha384 (fwSlot s (fwActive s)).image ++ block3 s ++ Config.systemSprouts ++ block5 s ++
  block6 s ++ block7 s ++ block8 s ++ agreePub

/-- The request codes that the MSC supports, as SPDM numbers them: GET_DIGESTS, GET_CERTIFICATE, CHALLENGE, GET_VERSION,
GET_MEASUREMENTS, GET_CAPABILITIES and NEGOTIATE_ALGORITHMS (log 104). -/
def spdmRequests : List Byte := [0x81, 0x82, 0x83, 0x84, 0xE0, 0xE1, 0xE3]

/-- The answer to an SPDM message: ERROR UnsupportedRequest for every request but those (log 104). -/
def spdmReply (s : State) (msg : List Byte) : List Byte :=
  let code := msg.getD 1 0
  if spdmRequests.contains code then (Config.spdmAnswer msg (measurements s)).take 1024 else [0x13, 0x7F, 0x07, code]

/-- SPDM: the MSC answers a message of at most 1,024 bytes from what it measures. What the bytes of an answer are, SPDM itself
says (log 4). -/
def doSpdm (session : Nat) (msg : List Byte) (s : State) : State :=
  let role := ((s.msc.sessions.find? (fun x => x.1 == session)).map (·.2)).getD .operator
  if !sessionOk s session role then s
  else if 1024 < msg.length then respond session osBadMessage [] s
  else respond session osOk (spdmReply s msg) s

/-- SPDM (R388). -/
def execSpdm (session : Nat) (msg : List Byte) (s : State) : Host.Outcome State Fault Refusal := .next (doSpdm session msg s)

end Sys2Proof.Machine
end

