-- ==== Sys2Proof/Machine/Sync.lean ====
section
/-! DEFINITION. NOP, FENCE and SYNC_OP (03, R76, R77), and the sync counters with their waits, doorbells and notify
slots (14, R370 to R375). -/

namespace Sys2Proof.Machine

/-! ## Counters -/

/-- The value of sync counter c. -/
def counter (s : State) (c : Nat) : Nat := tabGet c 0 s.fsu.counters

/-- Bits of a notify slot (R375): the counter, the condition (true: EQ), ENABLE, the event ring and VALUE. -/
def nsCounter (v : Nat) : Nat := bitsOf v 11 0
/-- The condition is EQ. -/
def nsEq (v : Nat) : Bool := bitOf v 12
/-- ENABLE. -/
def nsOn (v : Nat) : Bool := bitOf v 15
/-- The event ring. -/
def nsRing (v : Nat) : Nat := bitsOf v 23 16
/-- VALUE. -/
def nsValue (v : Nat) : Nat := bitsOf v 127 64

/-- A wait's condition on a value (R76). -/
def waitMet (d : Desc) (v : Nat) : Bool := if syOp d = 3 then v == syValue d else decide (syValue d ≤ v)

/-- The waits that a new value of counter c satisfies. -/
def metWaits (s : State) (c v : Nat) : List Nat :=
  (s.cfe.tasks.filter (fun k => k.waiting && syCounter k.desc == c && waitMet k.desc v && !isOver k)).map (·.id)

/-- Notify slot n posts FSU_COUNTER_NOTIFY and clears its ENABLE, where its condition holds of counter c's new value. -/
def notifySlot (c v n : Nat) (s : State) : State :=
  let x := odGet s (odFsuNotify + n)
  if nsOn x && nsCounter x == c && (if nsEq x then v == nsValue x else decide (nsValue x ≤ v)) then
    postEvent (nsRing x) evFsuCounterNotify c 0 (v + n <<< 64) (odSet (odFsuNotify + n) (setBit x 15 false) s)
  else s

/-- One update of counter c to value v: every wait, doorbell and notify slot on it is evaluated (R76, R63, R375). -/
def setCounter (c v : Nat) (s : State) : State :=
  let s := onFsu (fun f => { f with counters := tabKeep c 0 v f.counters, applied := f.applied + 1 }) s
  let s := forEach finishTask (metWaits s c v) s
  forEach (notifySlot c v) (List.range 64) (lzBells c v s)

/-- Applies a SET or an ADD to counter c (R370). -/
def applyCounter (c : Nat) (add : Bool) (v : Nat) (s : State) : State :=
  setCounter c (if add then (counter s c + v) % 2 ^ 64 else v % 2 ^ 64) s

/-- The next queued update of counter c: fabric updates come before MMIO ones (R370). -/
def nextUpdate (s : State) (c : Nat) : Option CUpd :=
  match s.fsu.updates.find? (fun u => u.ctr == c && u.fabric) with
  | some u => some u
  | none => s.fsu.updates.find? (fun u => u.ctr == c)

/-- COUNTER_UPDATE_APPLY: one queued update of counter c. -/
def doCounterUpdateApply (c : Nat) (s : State) : State :=
  match nextUpdate s c with
  | none => s
  | some u => applyCounter c u.add u.v (onFsu (fun f => { f with updates := f.updates.erase u }) s)

/-- COUNTER_UPDATE_APPLY (R370). -/
def execCounterUpdateApply (c : Nat) (s : State) : Host.Outcome State Fault Refusal := .next (doCounterUpdateApply c s)

/-- Queues an update of counter c. -/
def queueUpdate (c : Nat) (fabric add : Bool) (v : Nat) (s : State) : State :=
  onFsu (fun f => { f with updates := f.updates ++ [⟨c, fabric, add, v % 2 ^ 64⟩] }) s

/-- FSU_SYNC_VALUE_WRITE (R371): a SET of counter c is queued. -/
def execFsuSyncValueWrite (c v : Nat) (s : State) : Host.Outcome State Fault Refusal :=
  .next (whenS (decide (c < 4096) && windowUp s) (queueUpdate c false false v) s)

/-- FSU_SYNC_ADD_WRITE (R371): an ADD to counter c is queued. -/
def execFsuSyncAddWrite (c v : Nat) (s : State) : Host.Outcome State Fault Refusal :=
  .next (whenS (decide (c < 4096) && windowUp s) (queueUpdate c false true v) s)

/-! ## NOP and FENCE (R77) -/

/-- NOP: completes with OK. -/
def doNop (t : Nat) (s : State) : State := if (liveTask s t opNop).isSome then finishTask t s else s

/-- NOP (R77). -/
def execNop (t : Nat) (s : State) : Host.Outcome State Fault Refusal := .next (doNop t s)

/-- The drain that a FENCE with XPATH waits for has ended (R315). -/
def drainEnded (s : State) (k : Task) : Bool :=
  match k.drainTo with
  | none => !dXpath k.desc
  | some n => !s.hpt.outq.any (fun w => decide (w.seq ≤ n))

/-- The drain of a FENCE with XPATH begins. -/
def beginDrain (t : Nat) (s : State) : State :=
  modTask t (fun k => if dXpath k.desc && k.drainTo.isNone then { k with drainTo := some s.hpt.issued } else k) s

/-- FENCE: the queue stalls until every earlier task has written its record; where all have, and no drain is due, the
FENCE completes. -/
def doFence (t : Nat) (s : State) : State :=
  match liveTask s t opFence with
  | none => s
  | some k =>
    if earlierOpen s k then stallTask t s
    else if dXpath k.desc then stallTask t (beginDrain t s)
    else finishTask t s

/-- FENCE (R77). -/
def execFence (t : Nat) (s : State) : Host.Outcome State Fault Refusal := .next (doFence t s)

/-- FENCE_RELEASE: with the earlier records written, the drain of XPATH begins, and once it has ended the FENCE
completes and the queue goes on. -/
def doFenceRelease (t : Nat) (s : State) : State :=
  match liveTask s t opFence with
  | none => s
  | some k =>
    if k.phase != .stalled || earlierOpen s k then s
    else
      let s := beginDrain t s
      match getTask s t with
      | none => s
      | some k => if drainEnded s k then finishTask t s else s

/-- FENCE_RELEASE (R77). -/
def execFenceRelease (t : Nat) (s : State) : Host.Outcome State Fault Refusal := .next (doFenceRelease t s)

/-! ## SYNC_OP (R76, R372, R373) -/

/-- Task t, if it is a live SYNC_OP with an OP. -/
def syncTask (s : State) (t op : Nat) : Option Task :=
  match liveTask s t opSync with
  | some k => if syOp k.desc == op then some k else none
  | none => none

/-- With AFTER = 1 the queue stalls while an earlier task has written no record (R76). -/
def syncHeld (s : State) (k : Task) : Bool := syAfter k.desc && earlierOpen s k

/-- A SET or ADD of a local counter, at once or after the earlier tasks. -/
def syncLocal (t : Nat) (k : Task) (add : Bool) (s : State) : State :=
  if syncHeld s k then stallTask t s
  else finishTask t (applyCounter (syCounter k.desc) add (syValue k.desc) s)

/-- SET. -/
def doSet (t : Nat) (s : State) : State :=
  match syncTask s t 0 with
  | none => s
  | some k => syncLocal t k false s

/-- SET (R76). -/
def execSet (t : Nat) (s : State) : Host.Outcome State Fault Refusal := .next (doSet t s)

/-- ADD. -/
def doAdd (t : Nat) (s : State) : State :=
  match syncTask s t 1 with
  | none => s
  | some k => syncLocal t k true s

/-- ADD (R76). -/
def execAdd (t : Nat) (s : State) : Host.Outcome State Fault Refusal := .next (doAdd t s)

/-- A wait: it completes at once where its condition holds, and otherwise its queue is WAITING. -/
def syncWait (t : Nat) (k : Task) (s : State) : State :=
  if k.waiting then s
  else if syncHeld s k then stallTask t s
  else if waitMet k.desc (counter s (syCounter k.desc)) then finishTask t s
  else modTask t (fun k => { k with
      waiting := true, waitLeft := if syTimeout k.desc = 0 then none else some (syTimeout k.desc) }) (stallTask t s)

/-- WAIT_GE. -/
def doWaitGe (t : Nat) (s : State) : State :=
  match syncTask s t 2 with
  | none => s
  | some k => syncWait t k s

/-- WAIT_GE (R76). -/
def execWaitGe (t : Nat) (s : State) : Host.Outcome State Fault Refusal := .next (doWaitGe t s)

/-- WAIT_EQ. -/
def doWaitEq (t : Nat) (s : State) : State :=
  match syncTask s t 3 with
  | none => s
  | some k => syncWait t k s

/-- WAIT_EQ (R76). -/
def execWaitEq (t : Nat) (s : State) : Host.Outcome State Fault Refusal := .next (doWaitEq t s)

/-- WAIT_TIMEOUT: a wait whose TIMEOUT boundaries have passed ends, and the queue goes on (R372). -/
def doWaitTimeout (t : Nat) (s : State) : State :=
  match getTask s t with
  | none => s
  | some k => if k.waiting && k.waitLeft == some 0 then endTask t stWaitTimeout 0 0 s else s

/-- WAIT_TIMEOUT (R372). -/
def execWaitTimeout (t : Nat) (s : State) : Host.Outcome State Fault Refusal := .next (doWaitTimeout t s)

/-- A remote operation: local where ENGINE is this engine, else a SYNC cell whose acknowledgement completes it. -/
def syncRemote (t : Nat) (k : Task) (add : Bool) (s : State) : State :=
  let e := syEngine k.desc
  if e = s.sfp.engineId then syncLocal t k add s
  else if k.ctlSeq.isSome then s
  else if syncHeld s k then stallTask t s
  else
    let m := nextCtl s e
    let s := sendCtl ctSync e [syCounter k.desc, 4 + bit add, syValue k.desc] (some t) s
    modQ k.queue unstallQueue (modTask t (fun k => { k with ctlSeq := some m, phase := .admitted }) s)

/-- REMOTE_SET. -/
def doRemoteSet (t : Nat) (s : State) : State :=
  match syncTask s t 4 with
  | none => s
  | some k => syncRemote t k false s

/-- REMOTE_SET (R373). -/
def execRemoteSet (t : Nat) (s : State) : Host.Outcome State Fault Refusal := .next (doRemoteSet t s)

/-- REMOTE_ADD. -/
def doRemoteAdd (t : Nat) (s : State) : State :=
  match syncTask s t 5 with
  | none => s
  | some k => syncRemote t k true s

/-- REMOTE_ADD (R373). -/
def execRemoteAdd (t : Nat) (s : State) : Host.Outcome State Fault Refusal := .next (doRemoteAdd t s)

/-- SYNC_ACK_TIMEOUT: the operation ends with ABORTED_FAULT, naming the engine and cause 1; the message stays in its
sequence and may still apply (R373). The error has cause 5. -/
def doSyncAckTimeout (t : Nat) (s : State) : State :=
  match liveTask s t opSync with
  | none => s
  | some k =>
    if k.ctlSeq.isNone then s
    else
      let v := syEngine k.desc + 1 <<< 10
      let s := onSfp (fun f => { f with
        ctlOut := f.ctlOut.map (fun m => if m.task = some t then { m with task := none } else m) }) s
      endTask t stAbortedFault 4 v
        (raiseErr { cause := 5, level := 2, tasks := [t], source := k.queue, st := stAbortedFault, dKind := 4, dVal := v } s)

/-- SYNC_ACK_TIMEOUT (R373). -/
def execSyncAckTimeout (t : Nat) (s : State) : Host.Outcome State Fault Refusal := .next (doSyncAckTimeout t s)

/-- FSU_REMOTE_ALLOW lets the fabric update counter c. -/
def remoteAllowed (s : State) (c : Nat) : Bool := bitOf (odGet s odFsuRemoteAllow) c

/-- SYNC: a remote SET (4) or ADD (5) is queued for its counter, or refused where FSU_REMOTE_ALLOW forbids it. Another OP,
which no engine sends, is refused too (log 103). -/
def doSync (src ctr op v mseq : Nat) (s : State) : State :=
  let ok := decide (ctr < 4096) && remoteAllowed s ctr && (op == 4 || op == 5)
  deliverAck src mseq (!ok) (fun s =>
    if ok then queueUpdate ctr true (op == 5) v s else odCount odFsuRemoteDenied 1 s) s

/-- SYNC (R373). -/
def execSync (src ctr op v mseq : Nat) (s : State) : Host.Outcome State Fault Refusal := .next (doSync src ctr op v mseq s)

end Sys2Proof.Machine
end

