-- ==== Sys2Proof/Machine/Mmio.lean ====
section
/-! DEFINITION. The host registers (19): what each register of the MMIO window reads, and what a write to it does (R453 to
R459), with CLEAR (R429), ENG_RESET (R458) and the mailbox (R383). -/

namespace Sys2Proof.Machine

/-! ## CLEAR and ENG_RESET -/

/-- CLEAR of ENG_ERR_STATUS: with no handling open and no failed start-up, both records are emptied. ALERT falls with
them (R443). -/
def doErrClear (s : State) : State :=
  if windowUp s ∧ openLevel s = 0 ∧ s.msc.startCause = 0 then
    onMsc (fun m => { m with primary := {}, secondary := {}, unrecorded := 0, alert := false }) s
  else s

/-- ERR_CLEAR (R429). -/
def execErrClear (s : State) : Host.Outcome State Fault Refusal := .next (doErrClear s)

/-- The key of ENG_RESET. -/
def resetKey : Nat := 0xA5C3

/-- ENG_RESET: with its key, and unless the mode is changing, a package containment holds the engine or J_RST_N is low, the
engine goes through an engine reset. -/
def doEngReset (key : Nat) (s : State) : State :=
  if windowUp s ∧ key % 65536 = resetKey ∧ !modeChanging s ∧ !s.msc.packageHeld ∧ s.cru.rstN then
    leaveReset (enterReset s)
  else s

/-- ENG_RESET (R458). -/
def execEngReset (key : Nat) (s : State) : Host.Outcome State Fault Refusal := .next (doEngReset key s)

/-! ## The mailbox (R381, R383) -/

/-- The MSC performs the request in MSC_MB_REQ: its header is that of Table 15.2. A type that a client does not send, another
VERSION and an SPDM message with an entry's numbers are malformed. -/
def mailboxGo (s : State) : State :=
  if s.msc.mbBusy ∨ s.msc.restarting then s
  else
    let bs := memLoad s.msc.mbReq 0 1040
    let h := leNat (bs.take 16)
    let type := bitsOf h 7 4
    let len := bitsOf h 95 80
    let index := bitsOf h 71 56
    let sub := bitsOf h 79 72
    let off := bitsOf h 127 96
    let payload := (bs.drop 16).take len
    if bitsOf h 2 0 ≠ 1 ∨ 1024 < len ∨ bitsOf h 55 40 ≠ 0 then respond 0 osBadMessage [] s
    else if type = 1 then doGarwaRead 0 .operator index sub off len s
    else if type = 2 then
      (if bitOf h 3 then doOdWrite 0 .operator index sub off payload s
       else doGarwaWriteSegment 0 .operator index sub off payload s)
    else if type = 4 ∧ index = 0 ∧ sub = 0 ∧ off = 0 then doSpdm 0 payload s
    else respond 0 osBadMessage [] s

/-! ## Writes of plain registers -/

/-- A write of a pointer register keeps the n + 1 bits that are used (Table 3.3). -/
def ptrBits (n v : Nat) : Nat := v % 2 ^ (n + 1)

/-- CFE_Q_CTL (R59, R60, R392): ENABLE is ignored while the mode changes; the other fields are taken only while the queue is
DISABLED. -/
def qCtlWrite (q v : Nat) (s : State) : State :=
  let r := getQ s q
  if qOn r ∨ r.state = .halted then (if bitOf v 0 then s else doQueueDisable q v s)
  else if r.state ≠ .disabled then s
  else if bitOf v 0 ∧ !modeChanging s then doQueueEnable q v s
  else modQ q (fun r => { r with ctl := setBit (v &&& qCtlMask) 0 false }) s

/-- The reserved bits of an address word (Table 3.2) stay zero in a register. -/
def awKeep (v : Nat) : Nat := setBits (v % 2 ^ 64) 59 57 0

/-- A write at an offset of the page of queue q (Table 19.4). -/
def qPageWrite (q o v : Nat) (s : State) : State :=
  if o = 0 then doCfeQTailDoorbell q (v % 2 ^ 32) s
  else if o = 0x18 then modQ q (fun r => { r with cplHead := ptrBits (qLog r) (v % 2 ^ 32) }) s
  else if o = 0x40 then qCtlWrite q v s
  else if o = 0x48 then
    (if (getQ s q).state = .disabled then modQ q (fun r => { r with ringBase := awKeep v }) s else s)
  else if o = 0x50 then
    (if (getQ s q).state = .disabled then modQ q (fun r => { r with cplBase := awKeep v }) s else s)
  else s

/-- A write at an offset of the block of event ring i (Tables 3.20, 3.21). A head that moves lets a gap marker in (R85), and
one that empties the ring lets the next interrupt out (R317). -/
def evqBlockWrite (i o v : Nat) (s : State) : State :=
  let r := getEvq s i
  if o = 0 then modEvq i (fun r => { r with base := awKeep v }) s
  else if o = 0x08 then
    (if bitOf v 0 ∧ !ringOn r then doEvqEnable i v s else modEvq i (fun r => { r with ctl := v &&& evqCtlMask }) s)
  else if o = 0x18 ∧ !bitOf r.ctl 1 then
    let h := ptrBits (evqLog r) (v % 2 ^ 32)
    let s := evqCheck i s
    evqGap i (modEvq i (fun r => { r with head := ptr h, notified := r.notified && decide (h ≠ r.tail.val) }) s)
  else s

/-- A write at an offset of the block of telemetry ring j (R459, Table 19.5). -/
def telBlockWrite (j o v : Nat) (s : State) : State :=
  let r := getTel s j
  if o = 0 then (if ringOn r then s else modTel j (fun r => { r with base := awKeep v }) s)
  else if o = 0x08 then doTelemetryEnable j v s
  else if o = 0x18 then telGap j (modTel j (fun r => { r with head := ptr (ptrBits (telLog r) (v % 2 ^ 32)) }) (telCheck j s))
  else s

/-- A write of 8 bytes to a global register (Table 19.2). -/
def globalWrite (off v : Nat) (s : State) : State :=
  if off = 0x68 then (if confidential s then s else gateWrite v s)
  else if off = 0x80 then (if bitOf v 16 then doErrClear s else s)
  else if off = 0x88 then doEngReset (v % 65536) s
  else if 0x10000 ≤ off ∧ off < 0x11000 ∧ !gated s 0 then
    evqBlockWrite ((off - 0x10000) / 64) (off % 64) v s
  else if 0x11000 ≤ off ∧ off < 0x11200 ∧ !gated s 0 then
    telBlockWrite ((off - 0x11000) / 64) (off % 64) v s
  else s

/-- A write of the sync counter window: an aligned 8-byte write queues a SET or an ADD, every other access is dropped and
counted (R371). -/
def syncWrite (off width v : Nat) (s : State) : State :=
  if width ≠ 8 ∨ off % 8 ≠ 0 then odCount odFsuMmioDrops 1 s
  else if off < 0x408000 then queueUpdate ((off - 0x400000) / 8) false false v s
  else if 0x410000 ≤ off ∧ off < 0x418000 then queueUpdate ((off - 0x410000) / 8) false true v s
  else s

/-- A write of the mailbox registers (Table 15.4a). -/
def mailboxWrite (off width v : Nat) (s : State) : State :=
  if off + width ≤ 0x800000 + 1040 then
    onMsc (fun m => { m with mbReq := memStore (off - 0x800000) (leBytes width v) m.mbReq }) s
  else if width ≠ 8 then s
  else if off = 0x802000 then (if bitOf v 0 then mailboxGo s else s)
  else if off = 0x802008 then (if bitOf v 1 then onMsc (fun m => { m with mbDone := false }) s else s)
  else s

/-- MMIO_REGISTER_WRITE: a write of width bytes at an offset of the window. One of a width that its region does not take, or
not aligned, is dropped; so are writes of RO registers and of offsets that no table assigns (R5, R453). -/
def doMmioRegisterWrite (off width v : Nat) (s : State) : State :=
  let v := v % 2 ^ (8 * width)
  if !windowUp s then s
  else if 0x400000 ≤ off ∧ off < 0x800000 then syncWrite off width v s
  else if (width ≠ 4 ∧ width ≠ 8) ∨ off % width ≠ 0 then s
  else if 0x1000000 ≤ off ∧ off < 0x4000000 then doTileWindowWrite off width v s
  else if 0x800000 ≤ off ∧ off < 0x1000000 then mailboxWrite off width v s
  else if width ≠ 8 then s
  else if off < 0x100000 then globalWrite off v s
  else if off < 0x300000 ∧ !gated s 0 then qPageWrite ((off - 0x100000) / 0x1000) (off % 0x1000) v s
  else s

/-- MMIO_REGISTER_WRITE (R453). -/
def execMmioRegisterWrite (off width v : Nat) (s : State) : Host.Outcome State Fault Refusal :=
  .next (doMmioRegisterWrite off width v s)

/-! ## What a register reads

The table has no row for a plain read of a register: these definitions say what one returns, and statements may use them. -/

/-- CRU_STATUS (Table 16.10). -/
def cruStatus (s : State) : Nat :=
  bit s.cru.locked + (bit s.cru.coast) <<< 1 + (bit s.cru.holdover) <<< 2 + (bit s.cru.qualifying) <<< 3 +
  (refNum s) <<< 4 + ((s.cru.refPort.getD 0) % 8) <<< 8 +
  (podNums.foldl (fun n p => n + (bit (decide (p ∈ activePods s) && linkOf s (dieOf s p) == .up)) <<< p) 0) <<< 16

/-- PEU_STATUS (Table 16.10). -/
def peuStatus (s : State) : Nat :=
  let r := peuReading s
  r.2.1 % 65536 + (r.1 % 65536) <<< 16 + (s.cru.pressure % 32) <<< 32

/-- ENG_ERR_STATUS (Table 17.4). -/
def errStatus (s : State) : Nat :=
  bit s.msc.alert + (bit s.msc.primary.valid) <<< 1 + (bit s.msc.secondary.valid) <<< 2 + (openLevel s % 8) <<< 8 +
  (s.msc.startCause % 256) <<< 24 + (s.msc.unrecorded % 2 ^ 32) <<< 32

/-- HPT_LINK (Table 12.6). -/
def hptLink (s : State) : Nat :=
  (match s.hpt.link with | .up => 0 | .down => 1 | .lost => 2) + (bit s.hpt.tierHeld) <<< 8 + (bit s.hpt.accelLost) <<< 9 +
  (s.hpt.epoch % 2 ^ 32) <<< 32

/-- A global register outside the ring blocks (Table 19.2). -/
def globalRead (s : State) (off : Nat) : Nat :=
  if off = 0 then s.sfp.engineId % 1024 + (0x00A1) <<< 32
  else if off = 0x48 then hptLink s
  else if off = 0x50 then folio s % 2 ^ 48 + (bit (s.fsu.cause != 0)) <<< 48 + (s.fsu.cause % 32) <<< 51
  else if off = 0x58 then timeNow s % 2 ^ 24
  else if off = 0x60 then cruStatus s
  else if off = 0x68 then s.cru.gate.toNat
  else if off = 0x70 then peuStatus s
  else if off = 0x78 then s.sfp.epoch % 2 ^ 32
  else if off = 0x80 then errStatus s
  else if 0x100 ≤ off ∧ off < 0x160 then bitsOf (errNum s.msc.primary) (8 * (off - 0x100) + 63) (8 * (off - 0x100))
  else if 0x160 ≤ off ∧ off < 0x1C0 then bitsOf (errNum s.msc.secondary) (8 * (off - 0x160) + 63) (8 * (off - 0x160))
  else 0

/-- A register of the page of queue q (Table 19.4). -/
def qPageRead (s : State) (q o : Nat) : Nat :=
  let r := getQ s q
  if o = 0 then r.tail
  else if o = 0x08 then r.head.val
  else if o = 0x10 then r.cplTail.val
  else if o = 0x18 then r.cplHead
  else if o = 0x20 then qStateNum r.state + ((qTasks s q).length % 2 ^ 17) <<< 8 + (r.lastTag % 2 ^ 32) <<< 32
  else if o = 0x28 then r.cost % 2 ^ 32
  else if o = 0x40 then r.ctl + (bit (qHostBound r)) <<< 28
  else if o = 0x48 then r.ringBase
  else if o = 0x50 then r.cplBase
  else 0

/-- A register of the block of event ring i but for CFE_EVQ_POP, whose read has a row of its own (Table 3.20). -/
def evqBlockRead (s : State) (i o : Nat) : Nat :=
  let r := getEvq s i
  if o = 0 then r.base
  else if o = 0x08 then r.ctl
  else if o = 0x10 then r.tail.val
  else if o = 0x18 then r.head.val
  else if 0x28 ≤ o ∧ o < 0x40 then bitsOf r.data (8 * (o - 0x28) + 63) (8 * (o - 0x28))
  else 0

/-- A register of the block of telemetry ring j (Table 19.5). -/
def telBlockRead (s : State) (j o : Nat) : Nat :=
  let r := getTel s j
  if o = 0 then r.base
  else if o = 0x08 then r.ctl
  else if o = 0x10 then r.tail.val
  else if o = 0x18 then r.head.val
  else 0

/-- MSC_MB_STATUS (Table 15.4a). -/
def mailboxStatus (s : State) : Nat :=
  bit (s.msc.mbBusy || s.msc.restarting) + (bit s.msc.mbDone) <<< 1 + (s.msc.mbReqId % 2 ^ 32) <<< 32

/-- What a read of width bytes of the tile window returns (R139, R394). -/
def tileRead (s : State) (off width : Nat) : Nat :=
  if confidential s then 0
  else
    match windowTile off with
    | some (pod, kind, tile, b) => if gated s (tileSub kind) then 0 else leNat (loadAw s (tileWord pod kind tile + b) width)
    | none => 0

/-- The n bytes at an offset of the two mailbox buffers (Table 15.4a). -/
def mailboxRead (s : State) (o n : Nat) : Nat :=
  if o + n ≤ 1040 then leNat (memLoad s.msc.mbReq o n)
  else if 0x1000 ≤ o ∧ o + n ≤ 0x1000 + 1040 then leNat (memLoad s.msc.mbRsp (o - 0x1000) n)
  else 0

/-- The value that an aligned read of width bytes of a register returns. All ones while the window does not answer (R456);
zero while its subsystem is gated (R407, R455), at offsets that no table assigns (R4), and where the region does not take
the width (R453). -/
def regValue (s : State) (off width : Nat) : Nat :=
  if !windowUp s then 2 ^ (8 * width) - 1
  else if (width ≠ 4 ∧ width ≠ 8) ∨ off % width ≠ 0 then 0
  else if 0x1000000 ≤ off ∧ off < 0x4000000 then tileRead s off width
  else if 0x800000 ≤ off ∧ off < 0x802000 then mailboxRead s (off - 0x800000) width
  else if width ≠ 8 then 0
  else if 0x10000 ≤ off ∧ off < 0x11000 then
    (if gated s 0 then 0 else evqBlockRead s ((off - 0x10000) / 64) (off % 64))
  else if 0x11000 ≤ off ∧ off < 0x11200 then
    (if gated s 0 then 0 else telBlockRead s ((off - 0x11000) / 64) (off % 64))
  else if off < 0x100000 then globalRead s off
  else if off < 0x300000 then
    (if gated s 0 then 0 else qPageRead s ((off - 0x100000) / 0x1000) (off % 0x1000))
  else if 0x400000 ≤ off ∧ off < 0x408000 then counter s ((off - 0x400000) / 8)
  else if 0x410000 ≤ off ∧ off < 0x418000 then counter s ((off - 0x410000) / 8)
  else if off = 0x802008 then mailboxStatus s
  else 0

end Sys2Proof.Machine
end

