-- ==== Sys2Proof/Machine/Runs.lean ====
section
/-! DEFINITION. LOOKUP, LOOKUP_FOLD and UPDATE as one command each: the engine goes on with its own steps, stage by stage and
Pod by Pod, until the task no longer goes on, or until every step waits for something from outside (R16, R19, R362). -/

namespace Sys2Proof.Machine

/-! ## The steps of the pipeline -/

/-- The effect of a step that the engine takes by itself while it works on tasks; none for any other command. -/
def pipeStep : Instr → Option (State → State)
  | .streamReadReturn pod t kind => some (doStreamReadReturn pod t kind)
  | .bagStart pod => some (doBagStart pod)
  | .indexProcess pod t bag => some (doIndexProcess pod t bag)
  | .descriptorFill idx => some (doDescriptorFill idx)
  | .segmentRelease pod t bag => some (doSegmentRelease pod t bag)
  | .readIssue pod tier err => some (doReadIssue pod tier err)
  | .callSlipFill pod slip => some (doCallSlipFill pod slip)
  | .weedAck pod => some (fun s => whenS (!(getSlice s pod).weed.isEmpty) (ackWeed pod) s)
  | .rowReturn rid err => some (doRowReturn rid err)
  | .codebookLoad pod kind aux size => some (doCodebookLoad pod kind aux size)
  | .leafPool pod t bag => some (doLeafPool pod t bag)
  | .exportRow pod => some (exportNext pod false)
  | .tileAdd pod => some (exportNext pod true)
  | .abortedHandleFree pod q => some (doAbortedHandleFree pod q)
  | .foldWeightLoad t => some (doFoldWeightLoad t)
  | .latchRowFill pod => some (doLatchRowFill pod)
  | .foldPassStart pod => some (doFoldPassStart pod)
  | .foldFillWaitExpiry pod => some (doFoldFillWaitExpiry pod)
  | .foldCapture pod => some (doFoldCapture pod)
  | .updateWindowClose pod t => some (doUpdateWindowClose pod t)
  | .deepCombine pod t => some (doDeepCombine pod t)
  | .rowGradientPack t => some (packOne t)
  | .parcelRelease t => some (doParcelRelease t)
  | .parcelSend owner => some (doParcelSend owner)
  | _ => none

/-- Takes one step of the pipeline. -/
def pipeExec (i : Instr) (s : State) : State :=
  match pipeStep i with
  | some f => f s
  | none => s

/-- Takes steps of the pipeline in order. -/
def runSteps (is : List Instr) (s : State) : State := forEach pipeExec is s

/-! ## One round: every step of every stage that may be enabled -/

/-- Steps of a stage on each active Pod. -/
def onEachPod (s : State) (f : Nat → Pod → List Instr) : List Instr := (activePods s).flatMap (fun p => f p (getPod s p))

/-- The tasks that go on with bags. -/
def bagTasks (s : State) : List Task := s.cfe.tasks.filter (fun k => goesOn s k.id && dIsIndexed k.desc)

/-- The kinds of the streams whose data a task waits for on its Pods (R106). -/
def kindsOf (k : Task) : List Nat :=
  let d := k.desc
  let own := dInline d != 0
  (if own then [] else if dPool d = 3 then [0, 1] else [0]) ++
  (if dOp d = opUpdate then [8] else (if dFuseOp d = 0 then [] else [2]) ++ (if dOp d = opFold then [5] else []))

/-- Streams return, and weight loads begin and end. -/
def streamSteps (s : State) : List Instr :=
  (bagTasks s).flatMap (fun k =>
    ((taskPods k).flatMap (fun p =>
      ((kindsOf k).filter (fun n => !s.gau.streams.contains (k.id * 16 + p, n))).map (fun n => Instr.streamReadReturn p k.id n))) ++
    (if dOp k.desc = opFold ∧ !k.wLoaded then [Instr.foldWeightLoad k.id, Instr.foldWeightLoad k.id] else []))

/-- Bags start. -/
def startSteps (s : State) : List Instr := onEachPod s (fun p _ => List.replicate (startList s p).length (Instr.bagStart p))

/-- Indices are taken, to the end of the open segment of each bag. -/
def indexSteps (s : State) : List Instr :=
  onEachPod s (fun p x => x.bags.flatMap (fun b => List.replicate (min segmentLen (b.n - b.taken)) (Instr.indexProcess p b.task b.bag)))

/-- Missing descriptors enter the cache, and segments are released. -/
def releaseSteps (s : State) : List Instr :=
  s.cat.misses.map Instr.descriptorFill ++ onEachPod s (fun p x => x.bags.map (fun b => Instr.segmentRelease p b.task b.bag))

/-- Reads issue in each tier. -/
def issueSteps (s : State) : List Instr :=
  onEachPod s (fun p x => (List.range 5).flatMap (fun t =>
    List.replicate (x.reads.filter (fun r => !r.issued && r.tier == t)).length (Instr.readIssue p t 0)))

/-- Lines fill, and whole reads return. -/
def returnSteps (s : State) : List Instr :=
  onEachPod s (fun p x =>
    (if 512 ≤ x.slice.weed.length then [Instr.weedAck p] else []) ++ x.slice.slips.map (fun c => Instr.callSlipFill p c.n))

/-- Whole reads return, and codebook entries load. -/
def arriveSteps (s : State) : List Instr :=
  onEachPod s (fun p x =>
    (x.reads.filter readWhole).map (fun r => Instr.rowReturn r.id 0) ++
    ((cbInUse s p ++ x.cbAsk.map (·.1)).eraseDups.filter (fun c => !cbHeld x (some c))).map
      (fun c => Instr.codebookLoad p c.1 c.2.1 c.2.2))

/-- Leaves are pooled, and bags end. -/
def poolSteps (s : State) : List Instr :=
  onEachPod s (fun p x => x.bags.flatMap (fun b => List.replicate (b.leaves.length - b.pooled + 1) (Instr.leafPool p b.task b.bag)))

/-- Finished rows leave, or step through the Fold Unit. -/
def outSteps (s : State) : List Instr :=
  onEachPod s (fun p x =>
    let n := x.hq1.items.length + x.hq2.items.length
    [List.replicate x.hq0.items.length (Instr.abortedHandleFree p 0), List.replicate n (Instr.exportRow p),
     List.replicate n (Instr.tileAdd p), List.replicate x.hq1.items.length (Instr.abortedHandleFree p 1),
     List.replicate x.hq2.items.length (Instr.abortedHandleFree p 2), List.replicate x.hq1.items.length (Instr.latchRowFill p),
     [Instr.foldPassStart p, Instr.foldCapture p]].flatten)

/-- Update windows close. -/
def windowSteps (s : State) : List Instr :=
  ((bagTasks s).filter (fun k => dOp k.desc == opUpdate)).flatMap (fun k => (taskPods k).map (fun p => Instr.updateWindowClose p k.id))

/-- Row gradients meet. -/
def combineSteps (s : State) : List Instr := onEachPod s (fun p x => x.combIn.map (fun c => Instr.deepCombine p c.1))

/-- Row gradients are packed and released. -/
def packSteps (s : State) : List Instr :=
  ((bagTasks s).filter (fun k => dOp k.desc == opUpdate)).flatMap (fun k =>
    List.replicate k.grads.length (Instr.rowGradientPack k.id) ++ [Instr.parcelRelease k.id])

/-- Parcels go out. -/
def sendSteps (s : State) : List Instr :=
  (((s.upu.ring.filter (fun r => !r.2.sent)).map (fun r => r.1 % 1024)).eraseDups).map Instr.parcelSend

/-- The stages of a round, in order. -/
def stages : List (State → List Instr) :=
  [streamSteps, startSteps, indexSteps, releaseSteps, issueSteps, returnSteps, arriveSteps, poolSteps, outSteps,
   windowSteps, combineSteps, packSteps, sendSteps]

/-- One round: each stage in turn takes the steps that stand before it. -/
def runRound (s : State) : State := stages.foldl (fun s f => runSteps (f s) s) s

/-- The fill wait of a latch set ends (R185). -/
def expirySteps (s : State) : List Instr := onEachPod s (fun p x => if x.flu.shadow.isEmpty then [] else [Instr.foldFillWaitExpiry p])

/-- Two states agree in what the steps of the pipeline work on: nothing but counts has changed. -/
def sameWork (s t : State) : Bool :=
  decide (s.pods = t.pods) && decide (s.cfe = t.cfe) && decide (s.cat = t.cat) && decide (s.upu = t.upu) &&
  decide (s.gau.streams = t.gau.streams)

/-- A task still has work for the pipeline. -/
def stillRuns (s : State) (t : Nat) : Bool := (getTask s t).any (fun k => goesOn s t && !k.released)

/-- Rounds, until the task no longer goes on or a round changes nothing, even after a fill wait has ended. -/
def drive (t : Nat) : Nat → State → State
  | 0, s => s
  | n + 1, s =>
    if !stillRuns s t then s
    else
      let s1 := runRound s
      if !sameWork s s1 then drive t n s1
      else
        let s2 := runSteps (expirySteps s1) s1
        if sameWork s1 s2 then s1 else drive t n s2

/-- Works on a task as far as it can go without anything from outside, unless a path that it needs holds its traffic back. -/
def runTask (t op : Nat) (s : State) : State :=
  match liveTask s t op with
  | none => s
  | some k => if wordsHeld s k.desc then s else drive t (2 ^ 64) s

/-- LOOKUP: the task's bags are gathered, pooled and exported. -/
def execLookup (t : Nat) (s : State) : Host.Outcome State Fault Refusal := .next (runTask t opLookup s)

/-- LOOKUP_FOLD: the task's bags are gathered, pooled, projected and exported. -/
def execLookupFold (t : Nat) (s : State) : Host.Outcome State Fault Refusal := .next (runTask t opFold s)

/-- UPDATE: the task's gradients are pooled into windows, combined, packed and released. -/
def execUpdate (t : Nat) (s : State) : Host.Outcome State Fault Refusal := .next (runTask t opUpdate s)

end Sys2Proof.Machine
end

