-- ==== Sys2Proof/Machine/TableCtl.lean ====
section
/-! DEFINITION. TABLE_CTL (03, R72, R462): the directory and the shard descriptors, written, read and set in service. -/

namespace Sys2Proof.Machine

/-- Task t, if it is an admitted TABLE_CTL of an operation. -/
def ctlTask (s : State) (t op : Nat) : Option Task :=
  match liveTask s t opCtl with
  | some k => if tcOp k.desc == op then some k else none
  | none => none

/-- No TABLE_CTL admitted earlier is still to apply: they apply in admission order (R462). -/
def ctlTurn (s : State) (k : Task) : Bool :=
  !s.cfe.tasks.any (fun j => j.phase == .admitted && dOp j.desc == opCtl && decide (j.seq < k.seq))

/-- The data of a write: inline, or n bytes read at DATA_ADDR; a fault of the read. -/
def ctlData (s : State) (d : Desc) (n : Nat) : Flt ⊕ Nat :=
  if tcInline d then .inr (df d (256 + 8 * n - 1) 256)
  else
    match accessFlt s (tcAddr d) n with
    | some f => .inl f
    | none => .inr (leNat (loadAw s (tcAddr d) n))

/-- The Host Port has read the data of a write that is not inline. -/
def ctlRead (k : Task) (n : Nat) (s : State) : State :=
  if tcInline k.desc then s else hptRead (queueAsid s k.queue) (tcAddr k.desc) n s

/-- WRITE_DIR: checked again as it applies (R462). -/
def doWriteDir (t : Nat) (s : State) : State :=
  match ctlTask s t 1 with
  | none => s
  | some k =>
    if !ctlTurn s k then s
    else
      match ctlData s k.desc 16 with
      | .inl f => taskFault t (faultPod k) 0 f s
      | .inr v =>
        let e := BitVec.ofNat 128 v
        let s := ctlRead k 16 s
        if writeDirOk s (tcTable k.desc) e then finishTask t (setDir (tcTable k.desc) e s)
        else endTask t stCtlRefused 0 0 s

/-- WRITE_DIR (R72). -/
def execWriteDir (t : Nat) (s : State) : Host.Outcome State Fault Refusal := .next (doWriteDir t s)

/-- A shard set ONLINE is preloaded into the cache where CAT_PRELOAD is 1 (R53). -/
def preload (i : Nat) (d : BitVec 512) (s : State) : State :=
  if sdState d = 1 ∧ odGet s odCatPreload = 1 then cacheLoad i s else s

/-- The counters that a shard's descriptor carries start from zero: its entry of the statistics array (R170). -/
def zeroStats (i : Nat) (s : State) : State := gddrStore (statsAddr s i) (List.replicate 16 0) s

/-- WRITE_DESC: checked again as it applies; the fields that the engine maintains are kept (R46, R54). -/
def doWriteDesc (t : Nat) (s : State) : State :=
  match ctlTask s t 2 with
  | none => s
  | some k =>
    if !ctlTurn s k then s
    else
      match ctlData s k.desc 64 with
      | .inl f => taskFault t (faultPod k) 0 f s
      | .inr v =>
        let i := tcIndex k.desc
        let d := BitVec.ofNat 512 v
        let s := ctlRead k 64 s
        if inRange (dirAt s (tcTable k.desc)) i && writeDescOk s (tcTable k.desc) i d then
          let new := withHeld (descAt s i) d
          finishTask t (preload i new (zeroStats i (setDesc i new s)))
        else endTask t stCtlRefused 0 0 s

/-- WRITE_DESC (R72). -/
def execWriteDesc (t : Nat) (s : State) : Host.Outcome State Fault Refusal := .next (doWriteDesc t s)

/-- SET_STATE: OFFLINE or ONLINE, checked again as it applies (R48, R53). Pinned copies of a shard that goes off are
dropped (R270). -/
def doSetState (t : Nat) (s : State) : State :=
  match ctlTask s t 3 with
  | none => s
  | some k =>
    if !ctlTurn s k then s
    else
      let i := tcIndex k.desc
      if setStateOk s (tcTable k.desc) i (tcState k.desc) then
        let new := sdSet (descAt s i) 45 44 (tcState k.desc)
        let s := preload i new (setDesc i new s)
        let s := if tcState k.desc = 0 then onStk (fun u => { u with pinned := u.pinned.filter (fun p => p.idx != i) }) s else s
        finishTask t s
      else endTask t stCtlRefused 0 0 s

/-- SET_STATE (R72). -/
def execSetState (t : Nat) (s : State) : Host.Outcome State Fault Refusal := .next (doSetState t s)

/-- Copies what a READ_DESC or READ_DIR has read to DATA_ADDR, or ends the task with the fault of the write. -/
def ctlAnswer (t : Nat) (k : Task) (bs : List Byte) (s : State) : State :=
  match accessFlt s (tcAddr k.desc) bs.length with
  | some f => taskFault t (faultPod k) 0 f s
  | none => finishTask t (storeAw (tcAddr k.desc) bs (some t) s)

/-- READ_DESC: copies a descriptor to DATA_ADDR. -/
def doReadDesc (t : Nat) (s : State) : State :=
  match ctlTask s t 4 with
  | none => s
  | some k =>
    if !ctlTurn s k then s
    else if readDescOk s (tcTable k.desc) (tcIndex k.desc) then
      ctlAnswer t k (leBytes 64 (descAt s (tcIndex k.desc)).toNat) s
    else endTask t stCtlRefused 0 0 s

/-- READ_DESC (R72). -/
def execReadDesc (t : Nat) (s : State) : Host.Outcome State Fault Refusal := .next (doReadDesc t s)

/-- READ_DIR: copies a directory entry to DATA_ADDR. -/
def doReadDir (t : Nat) (s : State) : State :=
  match ctlTask s t 5 with
  | none => s
  | some k =>
    if !ctlTurn s k then s else ctlAnswer t k (leBytes 16 (dirAt s (tcTable k.desc)).toNat) s

/-- READ_DIR (R72). -/
def execReadDir (t : Nat) (s : State) : Host.Outcome State Fault Refusal := .next (doReadDir t s)

end Sys2Proof.Machine
end

