-- ==== Sys2Proof/Machine/Dispatch.lean ====
section
/-! DEFINITION. The effect of each command on everything but the queue of commands: one arm per row of the table. -/

namespace Sys2Proof.Machine

open Sys2Proof

/-- The effect of a command (95): one call of its meaning. -/
def exec (i : Instr) (s : State) : Host.Outcome State Fault Refusal :=
  match i with
  | .nop t => Sys2Proof.Machine.execNop t s
  | .fence t => Sys2Proof.Machine.execFence t s
  | .fenceRelease t => Sys2Proof.Machine.execFenceRelease t s
  | .set t => Sys2Proof.Machine.execSet t s
  | .add t => Sys2Proof.Machine.execAdd t s
  | .waitGe t => Sys2Proof.Machine.execWaitGe t s
  | .waitEq t => Sys2Proof.Machine.execWaitEq t s
  | .remoteSet t => Sys2Proof.Machine.execRemoteSet t s
  | .remoteAdd t => Sys2Proof.Machine.execRemoteAdd t s
  | .syncAckTimeout t => Sys2Proof.Machine.execSyncAckTimeout t s
  | .counterUpdateApply c => Sys2Proof.Machine.execCounterUpdateApply c s
  | .waitTimeout t => Sys2Proof.Machine.execWaitTimeout t s
  | .lookup t => Sys2Proof.Machine.execLookup t s
  | .lookupFold t => Sys2Proof.Machine.execLookupFold t s
  | .update t => Sys2Proof.Machine.execUpdate t s
  | .rowWrite t => Sys2Proof.Machine.execRowWrite t s
  | .writeDir t => Sys2Proof.Machine.execWriteDir t s
  | .writeDesc t => Sys2Proof.Machine.execWriteDesc t s
  | .setState t => Sys2Proof.Machine.execSetState t s
  | .readDesc t => Sys2Proof.Machine.execReadDesc t s
  | .readDir t => Sys2Proof.Machine.execReadDir t s
  | .moveShard t => Sys2Proof.Machine.execMoveShard t s
  | .shardSwitch t => Sys2Proof.Machine.execShardSwitch t s
  | .moveRow t => Sys2Proof.Machine.execMoveRow t s
  | .moveRowCommit t => Sys2Proof.Machine.execMoveRowCommit t s
  | .replicateRow t => Sys2Proof.Machine.execReplicateRow t s
  | .dropReplica t => Sys2Proof.Machine.execDropReplica t s
  | .drainFence t => Sys2Proof.Machine.execDrainFence t s
  | .drainFenceComplete t => Sys2Proof.Machine.execDrainFenceComplete t s
  | .replaceBegin t => Sys2Proof.Machine.execReplaceBegin t s
  | .replaceCopyDone t => Sys2Proof.Machine.execReplaceCopyDone t s
  | .replaceCommit t => Sys2Proof.Machine.execReplaceCommit t s
  | .groupOpen t => Sys2Proof.Machine.execGroupOpen t s
  | .groupOpenComplete t => Sys2Proof.Machine.execGroupOpenComplete t s
  | .groupClose t => Sys2Proof.Machine.execGroupClose t s
  | .tileRead t => Sys2Proof.Machine.execTileRead t s
  | .tileWrite t => Sys2Proof.Machine.execTileWrite t s
  | .zero t => Sys2Proof.Machine.execZero t s
  | .sproutLoad t => Sys2Proof.Machine.execSproutLoad t s
  | .descriptorFetch => Sys2Proof.Machine.execDescriptorFetch s
  | .admission => Sys2Proof.Machine.execAdmission s
  | .bagStart pod => Sys2Proof.Machine.execBagStart pod s
  | .indexProcess pod t bag => Sys2Proof.Machine.execIndexProcess pod t bag s
  | .descriptorFill idx => Sys2Proof.Machine.execDescriptorFill idx s
  | .segmentRelease pod t bag => Sys2Proof.Machine.execSegmentRelease pod t bag s
  | .readIssue pod tier err => Sys2Proof.Machine.execReadIssue pod tier err s
  | .callSlipFill pod slip => Sys2Proof.Machine.execCallSlipFill pod slip s
  | .weedAck pod => Sys2Proof.Machine.execWeedAck pod s
  | .rowReturn rid err => Sys2Proof.Machine.execRowReturn rid err s
  | .leafPool pod t bag => Sys2Proof.Machine.execLeafPool pod t bag s
  | .exportRow pod => Sys2Proof.Machine.execExportRow pod s
  | .tileAdd pod => Sys2Proof.Machine.execTileAdd pod s
  | .abortedHandleFree pod q => Sys2Proof.Machine.execAbortedHandleFree pod q s
  | .latchRowFill pod => Sys2Proof.Machine.execLatchRowFill pod s
  | .foldPassStart pod => Sys2Proof.Machine.execFoldPassStart pod s
  | .foldFillWaitExpiry pod => Sys2Proof.Machine.execFoldFillWaitExpiry pod s
  | .foldCapture pod => Sys2Proof.Machine.execFoldCapture pod s
  | .foldWeightLoad t => Sys2Proof.Machine.execFoldWeightLoad t s
  | .codebookLoad pod kind aux size => Sys2Proof.Machine.execCodebookLoad pod kind aux size s
  | .completionRecordWrite t => Sys2Proof.Machine.execCompletionRecordWrite t s
  | .updateWindowClose pod t => Sys2Proof.Machine.execUpdateWindowClose pod t s
  | .deepCombine pod t => Sys2Proof.Machine.execDeepCombine pod t s
  | .rowGradientPack t => Sys2Proof.Machine.execRowGradientPack t s
  | .parcelRelease t => Sys2Proof.Machine.execParcelRelease t s
  | .parcelSend owner => Sys2Proof.Machine.execParcelSend owner s
  | .parcelResendTimeout owner => Sys2Proof.Machine.execParcelResendTimeout owner s
  | .parcelArrival src bytes => Sys2Proof.Machine.execParcelArrival src bytes s
  | .earlyParcelJournal src => Sys2Proof.Machine.execEarlyParcelJournal src s
  | .parcelApply => Sys2Proof.Machine.execParcelApply s
  | .parcelAckReceived owner source seq intake => Sys2Proof.Machine.execParcelAckReceived owner source seq intake s
  | .receivedAbandon source seq => Sys2Proof.Machine.execReceivedAbandon source seq s
  | .applyFaultRepair t => Sys2Proof.Machine.execApplyFaultRepair t s
  | .shelvedRowCommit w => Sys2Proof.Machine.execShelvedRowCommit w s
  | .slotQuarantineEnd ring => Sys2Proof.Machine.execSlotQuarantineEnd ring s
  | .catSlotringWrite k v role => Sys2Proof.Machine.execCatSlotringWrite k v role s
  | .invalRx home table row => Sys2Proof.Machine.execInvalRx home table row s
  | .invalAckRx holder table row => Sys2Proof.Machine.execInvalAckRx holder table row s
  | .catInvalTimeout holder table row => Sys2Proof.Machine.execCatInvalTimeout holder table row s
  | .holderReplicaExpiry home => Sys2Proof.Machine.execHolderReplicaExpiry home s
  | .heatWindowBoundary => Sys2Proof.Machine.execHeatWindowBoundary s
  | .ixuHeatQuery key role => Sys2Proof.Machine.execIxuHeatQuery key role s
  | .folioBoundary => Sys2Proof.Machine.execFolioBoundary s
  | .noMarker => Sys2Proof.Machine.execNoMarker s
  | .marker port payload offset => Sys2Proof.Machine.execMarker port payload offset s
  | .jFolioInEdge t10ns => Sys2Proof.Machine.execJFolioInEdge t10ns s
  | .tickMissed => Sys2Proof.Machine.execTickMissed s
  | .cfeQTailDoorbell q v => Sys2Proof.Machine.execCfeQTailDoorbell q v s
  | .queueEnable q ctl => Sys2Proof.Machine.execQueueEnable q ctl s
  | .queueDisable q ctl => Sys2Proof.Machine.execQueueDisable q ctl s
  | .evqEnable ring ctl => Sys2Proof.Machine.execEvqEnable ring ctl s
  | .cfeEvqPop ring => Sys2Proof.Machine.execCfeEvqPop ring s
  | .cfeEvqGap ring => Sys2Proof.Machine.execCfeEvqGap ring s
  | .telemetryEnable j ctl => Sys2Proof.Machine.execTelemetryEnable j ctl s
  | .tileWindowWrite off width v => Sys2Proof.Machine.execTileWindowWrite off width v s
  | .engPathFence => Sys2Proof.Machine.execEngPathFence s
  | .engReset key => Sys2Proof.Machine.execEngReset key s
  | .errClear => Sys2Proof.Machine.execErrClear s
  | .fsuSyncValueWrite c v => Sys2Proof.Machine.execFsuSyncValueWrite c v s
  | .fsuSyncAddWrite c v => Sys2Proof.Machine.execFsuSyncAddWrite c v s
  | .invalidate k role => Sys2Proof.Machine.execInvalidate k role s
  | .invalidateDone k => Sys2Proof.Machine.execInvalidateDone k s
  | .mmioRegisterWrite off width v => Sys2Proof.Machine.execMmioRegisterWrite off width v s
  | .inboundWrite path req off bytes => Sys2Proof.Machine.execInboundWrite path req off bytes s
  | .inboundRead path req off len => Sys2Proof.Machine.execInboundRead path req off len s
  | .translationInvalidate base len => Sys2Proof.Machine.execTranslationInvalidate base len s
  | .writeAck path => Sys2Proof.Machine.execWriteAck path s
  | .hptLinkDown => Sys2Proof.Machine.execHptLinkDown s
  | .hptLinkUpSameEpoch => Sys2Proof.Machine.execHptLinkUpSameEpoch s
  | .hptLinkUpNewEpoch epoch => Sys2Proof.Machine.execHptLinkUpNewEpoch epoch s
  | .hptDieLost die => Sys2Proof.Machine.execHptDieLost die s
  | .hptEngineAsidWrite v role => Sys2Proof.Machine.execHptEngineAsidWrite v role s
  | .hptApertureWrite k v role => Sys2Proof.Machine.execHptApertureWrite k v role s
  | .tempRead ch reading => Sys2Proof.Machine.execTempRead ch reading s
  | .channelRetrain ch hold10ns => Sys2Proof.Machine.execChannelRetrain ch hold10ns s
  | .mssRetrain ch role => Sys2Proof.Machine.execMssRetrain ch role s
  | .retrainTimeout => Sys2Proof.Machine.execRetrainTimeout s
  | .scrubStep atom err => Sys2Proof.Machine.execScrubStep atom err s
  | .overwrite => Sys2Proof.Machine.execOverwrite s
  | .mssOverwriteDone us => Sys2Proof.Machine.execMssOverwriteDone us s
  | .portTrain port lanes => Sys2Proof.Machine.execPortTrain port lanes s
  | .sfpPortDown port cause => Sys2Proof.Machine.execSfpPortDown port cause s
  | .link port credits ack nak delay => Sys2Proof.Machine.execLink port credits ack nak delay s
  | .linkCellSend port => Sys2Proof.Machine.execLinkCellSend port s
  | .readReq hdr body => Sys2Proof.Machine.execReadReq hdr body s
  | .readRsp xid status absent row side => Sys2Proof.Machine.execReadRsp xid status absent row side s
  | .readTimeout xid => Sys2Proof.Machine.execReadTimeout xid s
  | .sync src ctr op v mseq => Sys2Proof.Machine.execSync src ctr op v mseq s
  | .copy src mseq addr bytes => Sys2Proof.Machine.execCopy src mseq addr bytes s
  | .controlResend dst mseq => Sys2Proof.Machine.execControlResend dst mseq s
  | .descUpdate src term mseq epoch descs => Sys2Proof.Machine.execDescUpdate src term mseq epoch descs s
  | .epochAdopted member epoch => Sys2Proof.Machine.execEpochAdopted member epoch s
  | .floors src term mseq epochFloor admFloor => Sys2Proof.Machine.execFloors src term mseq epochFloor admFloor s
  | .floorReport member epoch adm folio => Sys2Proof.Machine.execFloorReport member epoch adm folio s
  | .sfpMemberSilent member => Sys2Proof.Machine.execSfpMemberSilent member s
  | .mapMirror src term mseq epoch ack => Sys2Proof.Machine.execMapMirror src term mseq epoch ack s
  | .registrarTakeover => Sys2Proof.Machine.execRegistrarTakeover s
  | .ledgerReady owner fresh => Sys2Proof.Machine.execLedgerReady owner fresh s
  | .keySwitch src term slot folio => Sys2Proof.Machine.execKeySwitch src term slot folio s
  | .keySwitchFolio => Sys2Proof.Machine.execKeySwitchFolio s
  | .oldKeyErase => Sys2Proof.Machine.execOldKeyErase s
  | .twinHeartbeat src => Sys2Proof.Machine.execTwinHeartbeat src s
  | .twinTimeout hubLost => Sys2Proof.Machine.execTwinTimeout hubLost s
  | .twinFailover lost partner => Sys2Proof.Machine.execTwinFailover lost partner s
  | .twinResync => Sys2Proof.Machine.execTwinResync s
  | .twinRestored => Sys2Proof.Machine.execTwinRestored s
  | .twinRecopy idx => Sys2Proof.Machine.execTwinRecopy idx s
  | .garwaRead session role index sub offset len => Sys2Proof.Machine.execGarwaRead session role index sub offset len s
  | .garwaWriteSegment session role index sub offset bytes => Sys2Proof.Machine.execGarwaWriteSegment session role index sub offset bytes s
  | .odWrite session role index sub offset bytes => Sys2Proof.Machine.execOdWrite session role index sub offset bytes s
  | .stagedValueDiscard index sub => Sys2Proof.Machine.execStagedValueDiscard index sub s
  | .spdm session msg => Sys2Proof.Machine.execSpdm session msg s
  | .dtlsHandshake chain peer => Sys2Proof.Machine.execDtlsHandshake chain peer s
  | .sessionIdleClose session => Sys2Proof.Machine.execSessionIdleClose session s
  | .secModeReqEnter role => Sys2Proof.Machine.execSecModeReqEnter role s
  | .secModeReqExit role => Sys2Proof.Machine.execSecModeReqExit role s
  | .secJobEnd role => Sys2Proof.Machine.execSecJobEnd role s
  | .secJobEnvelope role bytes => Sys2Proof.Machine.execSecJobEnvelope role bytes s
  | .secTableEnvelope role bytes => Sys2Proof.Machine.execSecTableEnvelope role bytes s
  | .secTableUnbind role table => Sys2Proof.Machine.execSecTableUnbind role table s
  | .mscFwImage role bytes => Sys2Proof.Machine.execMscFwImage role bytes s
  | .mscFwSwitch role => Sys2Proof.Machine.execMscFwSwitch role s
  | .fwRestart => Sys2Proof.Machine.execFwRestart s
  | .fwHealthTimeout => Sys2Proof.Machine.execFwHealthTimeout s
  | .mscFwCommit role => Sys2Proof.Machine.execMscFwCommit role s
  | .mscBoot => Sys2Proof.Machine.execMscBoot s
  | .upuTrainEntryWrite role v => Sys2Proof.Machine.execUpuTrainEntryWrite role v s
  | .stkPartWrite k v role => Sys2Proof.Machine.execStkPartWrite k v role s
  | .stkPinWrite k v role => Sys2Proof.Machine.execStkPinWrite k v role s
  | .pinShardLoad k idx => Sys2Proof.Machine.execPinShardLoad k idx s
  | .ixuHashSlotWrite v role => Sys2Proof.Machine.execIxuHashSlotWrite v role s
  | .gauSproutBindWrite k v role => Sys2Proof.Machine.execGauSproutBindWrite k v role s
  | .qntResidWrite k v role => Sys2Proof.Machine.execQntResidWrite k v role s
  | .fsuNotifyWrite k v role => Sys2Proof.Machine.execFsuNotifyWrite k v role s
  | .cruPodReset pod role => Sys2Proof.Machine.execCruPodReset pod role s
  | .podReset pod cause => Sys2Proof.Machine.execPodReset pod cause s
  | .podResetExit pod => Sys2Proof.Machine.execPodResetExit pod s
  | .podPllUnlock pod => Sys2Proof.Machine.execPodPllUnlock pod s
  | .podIdleVoltage pod => Sys2Proof.Machine.execPodIdleVoltage pod s
  | .d2dTrainingAttempt die cause => Sys2Proof.Machine.execD2dTrainingAttempt die cause s
  | .resync die => Sys2Proof.Machine.execResync die s
  | .cruRefLost freq => Sys2Proof.Machine.execCruRefLost freq s
  | .refQualified port => Sys2Proof.Machine.execRefQualified port s
  | .cruHoldoverLost => Sys2Proof.Machine.execCruHoldoverLost s
  | .pressureUpdate pinW iin10mA vinmV => Sys2Proof.Machine.execPressureUpdate pinW iin10mA vinmV s
  | .inputCurrentTrip mv => Sys2Proof.Machine.execInputCurrentTrip mv s
  | .peuRailFault rail mv => Sys2Proof.Machine.execPeuRailFault rail mv s
  | .inputLoss => Sys2Proof.Machine.execInputLoss s
  | .powerUp => Sys2Proof.Machine.execPowerUp s
  | .jRstNLow ns => Sys2Proof.Machine.execJRstNLow ns s
  | .jRstNRise => Sys2Proof.Machine.execJRstNRise s
  | .engineReady => Sys2Proof.Machine.execEngineReady s
  | .hubPllUnlock => Sys2Proof.Machine.execHubPllUnlock s
  | .engineContainment cause subsys event source => Sys2Proof.Machine.execEngineContainment cause subsys event source s
  | .packageContainment cause => Sys2Proof.Machine.execPackageContainment cause s
  | .mscContainRelease role => Sys2Proof.Machine.execMscContainRelease role s
  | .mscPodRetire pod role => Sys2Proof.Machine.execMscPodRetire pod role s
  | .mscSpareMap die pod role => Sys2Proof.Machine.execMscSpareMap die pod role s
  | .cruGateWrite v => Sys2Proof.Machine.execCruGateWrite v s
  | .sfpRefPortWrite v role => Sys2Proof.Machine.execSfpRefPortWrite v role s
  | .streamReadReturn pod t kind => Sys2Proof.Machine.execStreamReadReturn pod t kind s
  | .arbWindowBoundary => Sys2Proof.Machine.execArbWindowBoundary s
  | .controlAck src mseq refused => Sys2Proof.Machine.execControlAck src mseq refused s
  | .badCell type coll src => Sys2Proof.Machine.execBadCell type coll src s
  | .uncorrectableCodeword port num => Sys2Proof.Machine.execUncorrectableCodeword port num s
  | .twinMirroredParcel src intake bytes => Sys2Proof.Machine.execTwinMirroredParcel src intake bytes s
  | .twinPartnerReport source seq applied => Sys2Proof.Machine.execTwinPartnerReport source seq applied s
  | .twinRestoredNotice twin => Sys2Proof.Machine.execTwinRestoredNotice twin s
  | .mscRestartDone => Sys2Proof.Machine.execMscRestartDone s
  | .containmentFlushEnd => Sys2Proof.Machine.execContainmentFlushEnd s
  | .refclkQualifyTimeout => Sys2Proof.Machine.execRefclkQualifyTimeout s

end Sys2Proof.Machine
end

