-- ==== Sys2Proof/Safety.lean ====
section
/-! DEFINITION. What counts as a safe step: it answers a next state; the form that the four memories keep; and what it
means that a step finishes, stalls or ends one task and leaves the rest of the machine alone. -/

namespace Sys2Proof

/-- The step from a state neither faults nor refuses. -/
def StepsOn (s : Machine.State) : Prop := ∃ t, Machine.step s = .next t

/-- The four memories are in canonical form: addresses rise strictly, and no entry holds the byte zero that an unlisted
address reads as. -/
def Machine.memsWf (s : Machine.State) : Prop :=
  Machine.memWf s.mem.host ∧ Machine.memWf s.mem.gddr ∧ Machine.memWf s.mem.scratch ∧ Machine.memWf s.mem.tiles

/-- No task but n and no queue but q has changed, and nothing outside the Command Front End. -/
def Machine.onlyTask (n q : Nat) (s t : Machine.State) : Prop :=
  (∀ j, j ≠ n → Machine.getTask t j = Machine.getTask s j) ∧ (∀ p, p ≠ q → Machine.getQ t p = Machine.getQ s p) ∧
  { t with cfe := s.cfe } = s

/-- Task n, which was k, passes its finish point, the queue that it stalled goes on, and nothing else changes (R60,
Table 14.3). -/
def Machine.finishes (n : Nat) (k : Machine.Task) (s t : Machine.State) : Prop :=
  Machine.getTask t n = some (Machine.finishedTask (Machine.folio s) k) ∧
  Machine.getQ t k.queue = Machine.unstallQueue (Machine.getQ s k.queue) ∧ Machine.onlyTask n k.queue s t

/-- Task n, which was k, stalls its queue as the task k', and nothing else changes (R60). -/
def Machine.stallsAs (n : Nat) (k k' : Machine.Task) (s t : Machine.State) : Prop :=
  Machine.getTask t n = some k' ∧ Machine.getQ t k.queue = Machine.stallQueue (Machine.getQ s k.queue) ∧
  Machine.onlyTask n k.queue s t

/-- Task n, which was k, has ended with an error and its detail (R19, R117). -/
def Machine.endedAs (n : Nat) (k : Machine.Task) (st kind val : Nat) (s t : Machine.State) : Prop :=
  Machine.getTask t n = some (Machine.endedTask (Machine.folio s) st kind val k)

/-- A transfer of a type has been sent as the only new one, to the engine that cells for dst go to, under the next XID, the
slot in use and the next cell sequence of its destination (R330, R341, R342, R348). -/
def Machine.sentOne (type dst : Nat) (fields : List Nat) (s t : Machine.State) : Prop :=
  ∃ c : Machine.SentCell, t.sfp.sentCells = c :: s.sfp.sentCells ∧ c.type = type ∧ c.dst = Machine.cellDst s dst ∧
    c.xid = s.sfp.xid ∧ c.payload = fields ∧ c.cseq = Machine.cseqUsed s c.dst + 1 ∧ c.slot = s.sfp.sending

/-- As `sentOne`, under the transfer identifier of a request: its answer, or the request passed on (R251, R333). -/
def Machine.sentUnder (xid type dst : Nat) (fields : List Nat) (s t : Machine.State) : Prop :=
  ∃ c : Machine.SentCell, t.sfp.sentCells = c :: s.sfp.sentCells ∧ c.type = type ∧ c.dst = Machine.cellDst s dst ∧
    c.xid = xid ∧ c.payload = fields ∧ c.cseq = Machine.cseqUsed s c.dst + 1 ∧ c.slot = s.sfp.sending

/-- A READ_REQ cell that the engine takes: authentic, with the body pl in clear, not delivered before, and of a member
(R335, R341). -/
def Machine.newReadReq (s : Machine.State) (hdr : BitVec 128) (body pl : List Byte) : Prop :=
  Machine.bitsOf hdr.toNat 75 72 = Machine.ctReadReq ∧ Machine.gated s 11 = false ∧ Machine.windowUp s = true ∧
  Machine.cellPlain s hdr body = some pl ∧ Machine.cellReplayed s hdr = false ∧
  Machine.isMember s (Machine.bitsOf hdr.toNat 53 44) = true

/-- A transfer of n cells to an engine can go out: a port of its route is up (R334), and the sending slot has room (R342). -/
def Machine.cellRoom (s : Machine.State) (dst n : Nat) : Prop :=
  Machine.linked s (Machine.cellDst s dst) = true ∧ Machine.cseqUsed s (Machine.cellDst s dst) + n < 2 ^ 48

/-- A READ_REQ to an engine can go out: its port also has a credit of VC 0 (R332, R333). -/
def Machine.readRoom (s : Machine.State) (dst : Nat) : Prop :=
  Machine.cellRoom s dst 1 ∧ Machine.credited s (Machine.cellDst s dst) s.sfp.xid = true

/-- Task n, which was k, has sent a remote operation: a SYNC cell with the counter, the operation (SET is 4 and ADD 5) and
the value, where a port toward the engine is up, and none where no port is; the message is kept under its sequence until it is
acknowledged and the task is tied to it, its queue goes on, and no other task and no counter changes (R335, R373). -/
def Machine.remoteSent (op n : Nat) (k : Machine.Task) (s t : Machine.State) : Prop :=
  (Machine.cellRoom s (syEngine k.desc) 1 → Machine.sentOne Machine.ctSync (syEngine k.desc)
    [Machine.nextCtl s (syEngine k.desc), syCounter k.desc, op, syValue k.desc] s t) ∧
  (Machine.linked s (Machine.cellDst s (syEngine k.desc)) = false → t.sfp.sentCells = s.sfp.sentCells) ∧
  t.sfp.ctlOut = s.sfp.ctlOut ++ [{
    dst := syEngine k.desc, mseq := Machine.nextCtl s (syEngine k.desc), type := Machine.ctSync,
    payload := [syCounter k.desc, op, syValue k.desc], task := some n }] ∧
  Machine.nextCtl t (syEngine k.desc) = (Machine.nextCtl s (syEngine k.desc) + 1) % 2 ^ 32 ∧
  (∀ d, d ≠ syEngine k.desc → Machine.nextCtl t d = Machine.nextCtl s d) ∧
  Machine.getTask t n = some { k with ctlSeq := some (Machine.nextCtl s (syEngine k.desc)), phase := .admitted } ∧
  (∀ j, j ≠ n → Machine.getTask t j = Machine.getTask s j) ∧
  Machine.getQ t k.queue = Machine.unstallQueue (Machine.getQ s k.queue) ∧
  (∀ q, q ≠ k.queue → Machine.getQ t q = Machine.getQ s q) ∧ t.fsu = s.fsu ∧ t.mem.host = s.mem.host

/-- No queue but q has changed, no task, and nothing outside the Command Front End. -/
def Machine.onlyQueue (q : Nat) (s t : Machine.State) : Prop :=
  (∀ p, p ≠ q → Machine.getQ t p = Machine.getQ s p) ∧ t.cfe.tasks = s.cfe.tasks ∧ { t with cfe := s.cfe } = s

/-- No event ring but i has changed, no queue and no task. -/
def Machine.onlyRing (i : Nat) (s t : Machine.State) : Prop :=
  (∀ j, j ≠ i → Machine.getEvq t j = Machine.getEvq s j) ∧ t.cfe.queues = s.cfe.queues ∧ t.cfe.tasks = s.cfe.tasks

/-- A memory holds the bytes bs from address a on, and every other byte as before. -/
def Machine.stored (a : Nat) (bs : List Byte) (m m' : List Host.Cell) : Prop :=
  Machine.memLoad m' a bs.length = bs ∧ ∀ b, b < a ∨ a + bs.length ≤ b → Machine.memByte m' b = Machine.memByte m b

/-- A write of an object dictionary entry is neither locked, nor held back by the MSC, nor staged by another session, and
the entry's subsystem has its clock (R407, R451). -/
def Machine.odReady (key : Nat) (s : Machine.State) : Prop :=
  Machine.odLocked s key = false ∧ Machine.mscBusy s = false ∧ (∀ x ∈ s.msc.staged, x.key ≠ key) ∧
  Machine.gated s (Machine.odSub key) = false

/-- A Pod in reset: it is out of the deal, and no bag, no read and no row stands in it (R420). -/
def Machine.podOut (p : Machine.Pod) : Prop :=
  p.up = false ∧ p.inReset = true ∧ p.bags = [] ∧ p.reads = [] ∧ p.hq0.items = [] ∧ p.hq1.items = [] ∧ p.hq2.items = []

/-- The engine has been through an engine reset: its front end and its counters are as after reset, but for the folio number, no
Pod holds a bag, a read, a row or a group, no write and no message is under way, no row is pinned; GDDR7, the scratch bytes and
the tiles are as they were (R397, R412). -/
def Machine.engineCleared (s t : Machine.State) : Prop :=
  t.cfe = {} ∧ t.fsu = { folio := s.fsu.folio } ∧ t.hpt.outq = [] ∧ t.sfp.ctlOut = [] ∧ t.stk.pinned = [] ∧
  (∀ p, (Machine.getPod t p).bags = [] ∧ (Machine.getPod t p).reads = [] ∧ (Machine.getPod t p).hq0.items = [] ∧
    (Machine.getPod t p).hq1.items = [] ∧ (Machine.getPod t p).hq2.items = [] ∧ (Machine.getPod t p).groups = []) ∧
  t.mem.gddr = s.mem.gddr ∧ t.mem.scratch = s.mem.scratch ∧ t.mem.tiles = s.mem.tiles

/-- Every link key slot is empty and no table has a key (R396). -/
def Machine.keysErased (t : Machine.State) : Prop :=
  (∀ k, (Machine.getKey t k).secret = none) ∧ t.sfp.sending = none ∧ t.msc.tableKeys = []

/-- The Pods without their Stacks slices. -/
def Machine.podsBare (s : Machine.State) : List (Nat × Machine.Pod) := s.pods.map (fun p => (p.1, { p.2 with slice := {} }))

/-- No GDDR7 channel is down: a store reaches every atom (R292). -/
def Machine.chansUp (s : Machine.State) : Prop := ∀ c ∈ s.mss.chans, c.2.down = false

/-- Scratch holds the bytes bs from an address on, each at its place in the ways of the SCRATCH partition (where two have one
place, the later), and every other byte as before (R269). -/
def Machine.storedScratch (a : Nat) (bs : List Byte) (s : Machine.State) (m' : List Host.Cell) : Prop :=
  (∀ i, i < bs.length → (∀ j, i < j → j < bs.length → Machine.scratchKey s (a + j) ≠ Machine.scratchKey s (a + i)) →
    Machine.memByte m' (Machine.scratchKey s (a + i)) = bs.getD i 0) ∧
  ∀ b, (∀ i, i < bs.length → b ≠ Machine.scratchKey s (a + i)) → Machine.memByte m' b = Machine.memByte s.mem.scratch b

/-- Bytes written at an address word: a posted write to package memory, or stored at once in the memory that it names, with
every other byte as before (Table 12.3). -/
def Machine.storedAt (w : Nat) (bs : List Byte) (task : Option Nat) (s t : Machine.State) : Prop :=
  t.mem.host = s.mem.host ∧
  t.hpt.outq = (if Machine.awSpace w = 0 then s.hpt.outq ++ [{
    seq := s.hpt.issued + 1, path := Machine.awPath w, addr := Machine.awAddr w, data := bs, task := task, kind := .output }]
    else s.hpt.outq) ∧
  (if Machine.awSpace w = 1 then Machine.stored (Machine.awAddr w) bs s.mem.gddr t.mem.gddr else t.mem.gddr = s.mem.gddr) ∧
  (if Machine.awSpace w = 2 then Machine.storedScratch (Machine.awAddr w) bs s t.mem.scratch
    else t.mem.scratch = s.mem.scratch) ∧
  (if Machine.awSpace w = 3 then Machine.stored (Machine.tileKey (Machine.awAddr w)) bs s.mem.tiles t.mem.tiles
    else t.mem.tiles = s.mem.tiles)

/-- Bytes written in a tier of this engine: stored in GDDR7, or a posted write to host DRAM. -/
def Machine.storedTier (tier a : Nat) (bs : List Byte) (s t : Machine.State) : Prop :=
  t.mem.host = s.mem.host ∧
  (if tier = 0 then Machine.stored a bs s.mem.gddr t.mem.gddr ∧ t.hpt.outq = s.hpt.outq
    else t.mem.gddr = s.mem.gddr ∧ t.hpt.outq = s.hpt.outq ++ [{
      seq := s.hpt.issued + 1, path := 0, addr := a, data := bs, task := none, kind := .output }])

/-- The next index of a bag of a lookup can be taken: the streams have brought it, and the window, the issue queues and the
park buffer have room (R93, R97, R105, R117). -/
def Machine.indexTurn (s : Machine.State) (pod n bag : Nat) (k : Machine.Task) (b : Machine.Bag) : Prop :=
  Machine.bagTask s n = some k ∧ Machine.getBag s pod n bag = some b ∧ b.taken < b.n ∧
  Machine.podOn s pod [1, 2, 3] = true ∧ Machine.dOp k.desc ≠ Machine.opUpdate ∧ Machine.streamReady s k pod 0 = true ∧
  (Machine.dPool k.desc = 3 → Machine.streamReady s k pod 1 = true) ∧
  (b.taken % Machine.segmentLen = 0 → b.window = [] ∧ (∀ l ∈ b.leaves, l.stage ≠ 0) ∧
    Machine.windowUse (Machine.getPod s pod) + Machine.segSize b.n b.taken ≤ Machine.segmentLen) ∧
  Machine.queueFull (Machine.getPod s pod) = false ∧ Machine.parkUse (Machine.getPod s pod) < 1024

/-- The next index of a bag of an UPDATE can be taken into the window of its task on a Pod (R117, R197). -/
def Machine.gradTurn (s : Machine.State) (pod n bag : Nat) (k : Machine.Task) (b : Machine.Bag) : Prop :=
  Machine.bagTask s n = some k ∧ Machine.getBag s pod n bag = some b ∧ b.taken < b.n ∧
  Machine.podOn s pod [1, 2, 3, 9] = true ∧ Machine.dOp k.desc = Machine.opUpdate ∧ Machine.streamReady s k pod 0 = true ∧
  (Machine.dPool k.desc = 3 → Machine.streamReady s k pod 1 = true) ∧ (n * 16 + pod, 8) ∈ s.gau.streams ∧
  Machine.windowUse (Machine.getPod s pod) < Machine.segmentLen ∧ Machine.queueFull (Machine.getPod s pod) = false ∧
  Machine.updateTurn s pod n bag = true

/-- READ_ISSUE of a tier on a Pod comes to read r of task k: it issues next, its subsystems have their clocks and host DRAM
can be read, and it is resolved now as the read w of a row under descriptor x (R104, R239). -/
def Machine.issueTurn (s : Machine.State) (pod tier : Nat) (k : Machine.Task) (r : Machine.ReadRec) (w : Machine.Want)
    (x : BitVec 512) : Prop :=
  Machine.nextIssue (Machine.getPod s pod) tier = some r ∧ Machine.bagTask s r.task = some k ∧
  Machine.podOn s pod [3, 4] = true ∧ (tier = 3 → Machine.hostHeld s = false) ∧
  ∃ l dflt, Machine.readLeaf s pod r = some l ∧ Machine.placedRead s k pod r l = .read w x dflt ∧ (dflt = true → l.dflt = true)

/-- Read r of a Pod stands as it has been resolved: what it reads, and the descriptor of its leaf. -/
def Machine.placed (pod : Nat) (r : Machine.ReadRec) (w : Machine.Want) (x : BitVec 512) (s : Machine.State) : Machine.State :=
  Machine.modLeaf pod r.task r.bag r.leaf (fun l => { l with desc := x })
    (Machine.modRead pod r.id (Machine.wantRead w (Machine.sdPrefetch x)) s)

/-- As `issueTurn`, and the read stays in its tier, whose budget has its slots: v is the state with the read resolved (R104). -/
def Machine.issues (s v : Machine.State) (pod tier : Nat) (k : Machine.Task) (r : Machine.ReadRec) (w : Machine.Want)
    (x : BitVec 512) : Prop :=
  Machine.issueTurn s pod tier k r w x ∧ v = Machine.placed pod r w x s ∧ w.tier = r.tier ∧
  Machine.slotUse (Machine.getPod v pod) w.tier + Machine.cdiv w.len (Machine.tierGrain w.tier) ≤
    Machine.odGet s (Machine.odGauBudgetStacks + w.tier)

/-- No Pod has a bag, a read, a handle, a slip, a latched row or a row gradient, but for the handle queues of the Pods that a
test excepts; and the copies of every handle queue's pointers agree. -/
def Machine.podsIdleBut (f : Nat → Prop) (s : Machine.State) : Prop :=
  ∀ p, (Machine.getPod s p).bags = [] ∧ (Machine.getPod s p).reads = [] ∧ (Machine.getPod s p).slice.slips = [] ∧
    (Machine.getPod s p).slice.weed.length < 512 ∧ (Machine.getPod s p).combIn = [] ∧ (Machine.getPod s p).cbAsk = [] ∧
    (Machine.getPod s p).flu.shadow = [] ∧ (Machine.getPod s p).flu.running = false ∧ (Machine.getPod s p).hq0.items = [] ∧
    Machine.hqOk (Machine.getPod s p).hq0 = true ∧ Machine.hqOk (Machine.getPod s p).hq1 = true ∧
    Machine.hqOk (Machine.getPod s p).hq2 = true ∧
    (¬ f p → (Machine.getPod s p).hq1.items = [] ∧ (Machine.getPod s p).hq2.items = [])

/-- No Pod has any such work. -/
def Machine.podsIdle (s : Machine.State) : Prop := Machine.podsIdleBut (fun _ => False) s

/-- The one piece of work left in the machine is a handle of task k on an active Pod, of the task's one bag: its streams have
returned, its bag has started, and nothing waits to be sent. -/
def Machine.lastWork (s : Machine.State) (k : Machine.Task) (pod : Nat) (h : Machine.Handle) : Prop :=
  Machine.podsIdleBut (fun p => p = pod) s ∧ pod ∈ Machine.activePods s ∧ Machine.podOn s pod [8] = true ∧
  (∃ x, k.deals = [x] ∧ x.pod = pod ∧ x.bag = 0 ∧ x.started = true) ∧ Machine.streamSteps s = [] ∧
  s.cat.misses = [] ∧ s.upu.ring = [] ∧ h.task = k.id

/-- The pieces of the machine for the frame of a command. -/
inductive Machine.Piece where
  | front | queues | cat | replicas | pods | gau | stk | pinned | mss | upu | hpt | sfp | fsu | msc | cru | od | out | host | gddr | scratch | tiles
  deriving DecidableEq, Repr

/-- A piece is as it was, but for what posting an event and storing bytes change beside it: the event rings, the Stacks
copies of stored bytes, the queues and the counters of writes, the translation cache, the corrected atoms, ALERT with the
primary error record, MSC_ERR_COUNTS and HPT_RETAIN_STALLS. -/
def Machine.samePiece (p : Machine.Piece) (s t : Machine.State) : Prop :=
  match p with
  | .front => { t.cfe with queues := s.cfe.queues, evqs := s.cfe.evqs, dropped := s.cfe.dropped } = s.cfe
  | .queues => t.cfe.queues = s.cfe.queues
  | .cat => { t.cat with replicas := s.cat.replicas } = s.cat
  | .replicas => t.cat.replicas = s.cat.replicas
  | .pods => Machine.podsBare t = Machine.podsBare s
  | .gau => t.gau = s.gau
  | .stk => { t.stk with pinned := s.stk.pinned } = s.stk
  | .pinned => t.stk.pinned = s.stk.pinned
  | .mss => { t.mss with
      atomsRead := s.mss.atomsRead, atomsWritten := s.mss.atomsWritten, badAtoms := s.mss.badAtoms, writeq := s.mss.writeq } = s.mss
  | .upu => t.upu = s.upu
  | .hpt => { t.hpt with
      outq := s.hpt.outq, issued := s.hpt.issued, bytesWritten := s.hpt.bytesWritten, snoop := s.hpt.snoop,
      tlb := s.hpt.tlb, transMisses := s.hpt.transMisses } = s.hpt
  | .sfp => t.sfp = s.sfp
  | .fsu => t.fsu = s.fsu
  | .msc => { t.msc with
      alert := s.msc.alert, held := s.msc.held, primary := s.msc.primary, unrecorded := s.msc.unrecorded } = s.msc
  | .cru => t.cru = s.cru
  | .od => ∀ k, k ≠ Machine.odMscErrCounts → k ≠ Machine.odHptRetainStalls → Machine.odGet t k = Machine.odGet s k
  | .out => t.out = s.out
  | .host => t.mem.host = s.mem.host
  | .gddr => t.mem.gddr = s.mem.gddr
  | .scratch => t.mem.scratch = s.mem.scratch
  | .tiles => t.mem.tiles = s.mem.tiles

/-- The pieces that a command may change; every other one it leaves. -/
def Machine.mayChange (c : Instr) : List Machine.Piece :=
  match c with
  | .nop .. | .fence .. | .fenceRelease .. | .waitGe .. | .waitEq .. | .groupOpen .. | .groupOpenComplete .. => [.front,
    .queues]
  | .set .. | .add .. | .counterUpdateApply .. => [.front, .queues, .cat, .replicas, .pods, .gau, .stk, .pinned, .hpt,
    .fsu, .msc, .cru, .od, .out, .gddr, .scratch, .tiles]
  | .remoteSet .. | .remoteAdd .. => [.front, .queues, .cat, .replicas, .pods, .gau, .stk, .pinned, .hpt, .sfp, .fsu,
    .msc, .cru, .od, .out, .gddr, .scratch, .tiles]
  | .syncAckTimeout .. | .replicateRow .. | .replaceBegin .. | .readIssue .. | .readRsp .. | .readTimeout .. => [.front,
    .queues, .cat, .replicas, .pods, .gau, .stk, .pinned, .sfp, .msc, .cru, .od, .out, .gddr, .scratch, .tiles]
  | .waitTimeout .. | .queueDisable .. => [.front, .queues, .cat, .replicas, .pods, .pinned, .out, .gddr, .scratch,
    .tiles]
  | .lookup .. | .lookupFold .. | .update .. | .rowWrite .. | .parcelSend .. | .parcelResendTimeout .. |
    .parcelArrival .. | .parcelApply .. | .receivedAbandon .. | .applyFaultRepair .. | .ledgerReady .. | .podReset .. |
    .podPllUnlock .. | .d2dTrainingAttempt .. | .resync .. | .peuRailFault .. | .engineReady .. => [.front, .queues, .cat,
    .replicas, .pods, .gau, .stk, .pinned, .mss, .upu, .hpt, .sfp, .msc, .cru, .od, .out, .gddr, .scratch, .tiles]
  | .writeDir .. | .writeDesc .. | .groupClose .. | .tileRead .. | .tileWrite .. | .sproutLoad .. | .descriptorFetch ..
    | .exportRow .. | .tileAdd .. | .completionRecordWrite .. | .cfeQTailDoorbell .. | .hptDieLost .. => [.front, .queues,
    .cat, .replicas, .pods, .gau, .stk, .pinned, .hpt, .msc, .cru, .od, .out, .gddr, .scratch, .tiles]
  | .setState .. => [.front, .queues, .cat, .replicas, .pods, .stk, .pinned, .out, .gddr, .scratch, .tiles]
  | .readDesc .. | .readDir .. | .bagStart .. | .indexProcess .. | .descriptorFill .. | .segmentRelease .. |
    .leafPool .. | .abortedHandleFree .. | .latchRowFill .. | .foldCapture .. | .codebookLoad .. | .updateWindowClose .. |
    .rowGradientPack .. | .cruPodReset .. | .inputCurrentTrip .. | .hubPllUnlock .. | .engineContainment .. |
    .packageContainment .. => [.front, .queues, .cat, .replicas, .pods, .gau, .stk, .pinned, .msc, .cru, .od, .out, .gddr,
    .scratch, .tiles]
  | .moveShard .. | .dropReplica .. | .invalRx .. => [.front, .queues, .cat, .replicas, .pods, .pinned, .sfp, .od, .out,
    .gddr, .scratch, .tiles]
  | .shardSwitch .. | .moveRowCommit .. | .replaceCommit .. | .shelvedRowCommit .. => [.front, .queues, .cat, .replicas,
    .pods, .stk, .pinned, .sfp, .od, .out, .gddr, .scratch, .tiles]
  | .moveRow .. | .drainFence .. => [.front, .queues, .cat, .replicas, .pods, .pinned, .od, .out, .gddr, .scratch,
    .tiles]
  | .drainFenceComplete .. => [.front, .queues, .cat, .replicas, .od, .gddr]
  | .replaceCopyDone .. => [.front, .queues, .cat, .replicas, .gddr]
  | .zero .. | .callSlipFill .. | .foldWeightLoad .. | .inboundRead .. | .streamReadReturn .. => [.front, .queues, .cat,
    .replicas, .pods, .gau, .stk, .pinned, .mss, .hpt, .msc, .cru, .od, .out, .gddr, .scratch, .tiles]
  | .admission .. => [.front, .queues, .cat, .replicas, .pods, .gau, .stk, .pinned, .fsu, .msc, .cru, .od, .out, .gddr,
    .scratch, .tiles]
  | .weedAck .. | .podIdleVoltage .. => [.pods]
  | .rowReturn .. => [.front, .queues, .cat, .replicas, .pods, .gau, .stk, .pinned, .mss, .sfp, .msc, .cru, .od, .out,
    .gddr, .scratch, .tiles]
  | .foldPassStart .. | .foldFillWaitExpiry .. | .heatWindowBoundary .. => [.pods, .od]
  | .deepCombine .. => [.front, .queues, .pods, .od]
  | .parcelRelease .. => [.front, .queues, .replicas, .pinned, .upu, .sfp, .od, .out, .gddr, .scratch, .tiles]
  | .earlyParcelJournal .. => [.cat, .replicas, .pinned, .upu, .sfp, .out, .gddr, .scratch, .tiles]
  | .parcelAckReceived .. | .twinPartnerReport .. => [.front, .queues, .cat, .replicas, .pinned, .upu, .sfp, .od, .out,
    .gddr, .scratch, .tiles]
  | .slotQuarantineEnd .. => [.cat, .replicas, .pods, .pinned, .sfp, .od, .out, .gddr, .scratch, .tiles]
  | .catSlotringWrite .. => [.cat, .replicas, .pods, .pinned, .sfp, .cru, .od, .out, .gddr, .scratch, .tiles]
  | .invalAckRx .. => [.cat, .replicas, .sfp, .od, .gddr]
  | .catInvalTimeout .. => [.cat, .replicas, .pinned, .od, .out, .gddr, .scratch, .tiles]
  | .holderReplicaExpiry .. => [.cat, .replicas, .od]
  | .ixuHeatQuery .. | .hptApertureWrite .. | .ixuHashSlotWrite .. | .gauSproutBindWrite .. | .qntResidWrite .. |
    .fsuNotifyWrite .. => [.cru, .od, .out]
  | .folioBoundary .. | .jFolioInEdge .. | .tickMissed .. => [.front, .queues, .cat, .replicas, .pods, .gau, .stk,
    .pinned, .mss, .upu, .hpt, .sfp, .fsu, .msc, .cru, .od, .out, .gddr, .scratch, .tiles]
  | .noMarker .. | .cruRefLost .. => [.replicas, .pinned, .fsu, .cru, .od, .out, .gddr, .scratch, .tiles]
  | .marker .. => [.cat, .replicas, .pinned, .sfp, .fsu, .cru, .od, .out, .gddr, .scratch, .tiles]
  | .queueEnable .. => [.queues]
  | .evqEnable .. | .telemetryEnable .. => [.front, .queues, .hpt]
  | .cfeEvqPop .. | .cfeEvqGap .. | .mscRestartDone .. => [.front, .queues, .replicas, .pods, .pinned, .hpt, .msc, .od,
    .out, .gddr, .scratch, .tiles]
  | .tileWindowWrite .. => [.replicas, .pods, .pinned, .od, .gddr, .scratch, .tiles]
  | .engPathFence .. => [.hpt, .out]
  | .engReset .. | .mmioRegisterWrite .. | .odWrite .. | .secModeReqEnter .. | .secModeReqExit .. | .secJobEnd .. |
    .inputLoss .. | .powerUp .. | .jRstNLow .. | .containmentFlushEnd .. => [.front, .queues, .cat, .replicas, .pods,
    .gau, .stk, .pinned, .mss, .upu, .hpt, .sfp, .fsu, .msc, .cru, .od, .out, .host, .gddr, .scratch, .tiles]
  | .errClear .. | .stagedValueDiscard .. | .sessionIdleClose .. => [.msc]
  | .fsuSyncValueWrite .. | .fsuSyncAddWrite .. => [.fsu]
  | .invalidate .. | .stkPartWrite .. => [.cat, .replicas, .pods, .stk, .pinned, .cru, .od, .out, .gddr, .scratch,
    .tiles]
  | .invalidateDone .. => [.pods, .stk, .pinned, .od]
  | .inboundWrite .. => [.replicas, .pods, .pinned, .hpt, .od, .out, .gddr, .scratch, .tiles]
  | .translationInvalidate .. => [.gau, .hpt, .out]
  | .writeAck .. => [.front, .queues, .cat, .replicas, .pods, .gau, .stk, .pinned, .upu, .hpt, .msc, .cru, .od, .out,
    .host, .gddr, .scratch, .tiles]
  | .hptLinkDown .. => [.queues, .replicas, .pinned, .hpt, .out, .gddr, .scratch, .tiles]
  | .hptLinkUpSameEpoch .. => [.front, .queues, .cat, .replicas, .pods, .pinned, .hpt, .od, .out, .gddr, .scratch,
    .tiles]
  | .hptLinkUpNewEpoch .. => [.front, .queues, .cat, .replicas, .pods, .gau, .pinned, .hpt, .msc, .od, .out, .host,
    .gddr, .scratch, .tiles]
  | .hptEngineAsidWrite .. => [.pods, .hpt, .cru, .od, .out, .gddr]
  | .tempRead .. | .arbWindowBoundary .. => [.replicas, .pinned, .mss, .od, .out, .gddr, .scratch, .tiles]
  | .channelRetrain .. | .retrainTimeout .. | .scrubStep .. => [.front, .queues, .cat, .replicas, .pods, .gau, .stk,
    .pinned, .mss, .msc, .cru, .od, .out, .gddr, .scratch, .tiles]
  | .mssRetrain .. => [.mss, .cru, .out]
  | .overwrite .. => [.cat, .replicas, .pods, .mss, .upu, .od, .gddr]
  | .mssOverwriteDone .. => [.replicas, .pinned, .mss, .msc, .out, .gddr, .scratch, .tiles]
  | .portTrain .. | .sfpPortDown .. | .link .. => [.replicas, .pinned, .sfp, .cru, .od, .out, .gddr, .scratch, .tiles]
  | .linkCellSend .. | .twinFailover .. | .uncorrectableCodeword .. | .twinRestoredNotice .. => [.sfp]
  | .readReq .. => [.front, .queues, .cat, .replicas, .pods, .gau, .stk, .pinned, .mss, .hpt, .sfp, .msc, .cru, .od,
    .out, .gddr, .scratch, .tiles]
  | .sync .. => [.cat, .replicas, .pinned, .sfp, .fsu, .od, .out, .gddr, .scratch, .tiles]
  | .copy .. => [.cat, .replicas, .pods, .pinned, .upu, .sfp, .od, .out, .gddr, .scratch, .tiles]
  | .controlResend .. | .sfpMemberSilent .. => [.replicas, .pinned, .sfp, .out, .gddr, .scratch, .tiles]
  | .descUpdate .. | .floors .. | .mapMirror .. | .keySwitch .. => [.cat, .replicas, .pinned, .sfp, .od, .out, .gddr,
    .scratch, .tiles]
  | .epochAdopted .. | .floorReport .. | .twinHeartbeat .. => [.cat, .replicas, .sfp]
  | .registrarTakeover .. | .secJobEnvelope .. => [.replicas, .pinned, .sfp, .od, .out, .gddr, .scratch, .tiles]
  | .keySwitchFolio .. | .oldKeyErase .. => [.sfp, .od]
  | .twinTimeout .. | .twinResync .. | .twinRestored .. => [.replicas, .pinned, .upu, .sfp, .od, .out, .gddr, .scratch,
    .tiles]
  | .twinRecopy .. => [.replicas, .pinned, .sfp, .msc, .out, .gddr, .scratch, .tiles]
  | .garwaRead .. | .garwaWriteSegment .. | .spdm .. => [.gau, .msc, .out]
  | .dtlsHandshake .. | .secTableEnvelope .. => [.replicas, .pinned, .msc, .out, .gddr, .scratch, .tiles]
  | .secTableUnbind .. | .mscFwSwitch .. | .mscFwCommit .. | .mscContainRelease .. | .mscSpareMap .. |
    .refclkQualifyTimeout .. => [.msc, .cru, .out]
  | .mscFwImage .. => [.msc, .out]
  | .fwRestart .. | .fwHealthTimeout .. => [.replicas, .pinned, .msc, .od, .out, .gddr, .scratch, .tiles]
  | .mscBoot .. => [.replicas, .pinned, .msc, .cru, .od, .out, .gddr, .scratch, .tiles]
  | .upuTrainEntryWrite .. => [.upu, .cru, .out, .gddr]
  | .stkPinWrite .. => [.replicas, .stk, .pinned, .cru, .od, .out, .gddr, .scratch, .tiles]
  | .pinShardLoad .. => [.replicas, .stk, .pinned, .hpt, .out, .gddr, .scratch, .tiles]
  | .podResetExit .. | .jRstNRise .. => [.cru]
  | .refQualified .. => [.replicas, .gau, .pinned, .mss, .cru, .out, .gddr, .scratch, .tiles]
  | .cruHoldoverLost .. => [.replicas, .pinned, .mss, .sfp, .cru, .od, .out, .gddr, .scratch, .tiles]
  | .pressureUpdate .. => [.front, .queues, .replicas, .pinned, .cru, .od, .out, .gddr, .scratch, .tiles]
  | .mscPodRetire .. => [.pods, .cru, .out]
  | .cruGateWrite .. => [.cat, .replicas, .pods, .stk, .pinned, .mss, .upu, .hpt, .sfp, .fsu, .cru, .od, .out, .gddr,
    .scratch, .tiles]
  | .sfpRefPortWrite .. => [.sfp, .cru, .od, .out]
  | .controlAck .. => [.front, .queues, .cat, .replicas, .pods, .pinned, .sfp, .out, .gddr, .scratch, .tiles]
  | .badCell .. => [.od]
  | .twinMirroredParcel .. => [.replicas, .pinned, .upu, .sfp, .out, .gddr, .scratch, .tiles]

end Sys2Proof
end

