-- ==== Sys2Proof/Certificates/Slice0/Obligations.lean ====
section
/-! DEFINITION. The statements for the provers. -/

open Sys2Proof Sys2Proof.Machine

/-! ## The whole machine -/

/-- A step takes the command at the front of the queue: it is that command's effect on the state with the queue's rest. -/
def Obligations.StepRunsFrontCommand : Prop :=
  ∀ (c : Instr) (rest : List Instr) (s : State), s.pending = c :: rest → step s = exec c { s with pending := rest }

/-- Every command runs to a next state in every state, and leaves the queue of waiting commands as it was. A command whose
step is not enabled leaves the state as it is by the model's choice, log 1. -/
def Obligations.EveryCommandRunsAndKeepsQueue : Prop :=
  ∀ (c : Instr) (s : State), ∃ t, exec c s = .next t ∧ t.pending = s.pending

/-- Every step keeps the canonical form of the four memories, from every state that has it. -/
def Obligations.StepKeepsMemoriesCanonical : Prop :=
  ∀ s t : State, memsWf s → step s = .next t → memsWf t

/-- The memories have their canonical form after reset. That an unlisted byte reads 0 is the model's choice, log 5. -/
def Obligations.ResetMemoriesCanonical : Prop := memsWf State.reset

/-! ## NOP, FENCE and SYNC_OP (R76, R77, R370 to R373) -/

/-- NOP, FENCE and FENCE_RELEASE complete the task: NOP at once; FENCE once every earlier task of its queue has written
its record, and until then it stalls the queue; FENCE_RELEASE in place of the stalled FENCE, with XPATH only after every
write that the drain waits for is acknowledged. Nothing but the task and its queue changes. -/
def Obligations.ControlTasksFinish : Prop :=
  (∀ s n k, liveTask s n opNop = some k → ∃ t, exec (.nop n) s = .next t ∧ finishes n k s t) ∧
  (∀ s n k, liveTask s n opFence = some k → earlierOpen s k = false → dXpath k.desc = false →
    ∃ t, exec (.fence n) s = .next t ∧ finishes n k s t) ∧
  (∀ s n k, liveTask s n opFence = some k → earlierOpen s k = true →
    ∃ t, exec (.fence n) s = .next t ∧ stallsAs n k { k with phase := .stalled } s t) ∧
  (∀ s n k, liveTask s n opFence = some k → k.phase = .stalled → earlierOpen s k = false → dXpath k.desc = false →
    k.drainTo = none → ∃ t, exec (.fenceRelease n) s = .next t ∧ finishes n k s t) ∧
  (∀ s n k m, liveTask s n opFence = some k → k.phase = .stalled → earlierOpen s k = false → k.drainTo = some m →
    (∀ w ∈ s.hpt.outq, m < w.seq) → ∃ t, exec (.fenceRelease n) s = .next t ∧ finishes n k s t)

/-- WAIT_GE completes at once where the counter is at least VALUE, WAIT_EQ where it is VALUE; otherwise either stalls its
queue as a wait with the folios of TIMEOUT before it. Nothing but the task and its queue changes. -/
def Obligations.WaitsFinishOrStall : Prop :=
  (∀ s n k, syncTask s n 2 = some k → k.waiting = false → syncHeld s k = false →
    syValue k.desc ≤ counter s (syCounter k.desc) → ∃ t, exec (.waitGe n) s = .next t ∧ finishes n k s t) ∧
  (∀ s n k, syncTask s n 2 = some k → k.waiting = false → syncHeld s k = false →
    counter s (syCounter k.desc) < syValue k.desc → ∃ t, exec (.waitGe n) s = .next t ∧
      stallsAs n k { k with
        phase := .stalled, waiting := true,
        waitLeft := if syTimeout k.desc = 0 then none else some (syTimeout k.desc) } s t) ∧
  (∀ s n k, syncTask s n 3 = some k → k.waiting = false → syncHeld s k = false →
    counter s (syCounter k.desc) = syValue k.desc → ∃ t, exec (.waitEq n) s = .next t ∧ finishes n k s t) ∧
  (∀ s n k, syncTask s n 3 = some k → k.waiting = false → syncHeld s k = false →
    counter s (syCounter k.desc) ≠ syValue k.desc → ∃ t, exec (.waitEq n) s = .next t ∧
      stallsAs n k { k with
        phase := .stalled, waiting := true,
        waitLeft := if syTimeout k.desc = 0 then none else some (syTimeout k.desc) } s t)

/-- SET replaces the value of the counter and ADD adds modulo 2^64; COUNTER_UPDATE_APPLY does the same for the oldest queued
update of the counter, a fabric one first, and takes it from the queue. Every other counter stays, and so do the host's
memory, the fabric port and the queue of updates of every other counter. That a descriptor's SET or ADD changes the counter
at once is the model's choice, log 20. -/
def Obligations.CounterUpdates : Prop :=
  (∀ s n k, syncTask s n 0 = some k → syncHeld s k = false → ∃ t, exec (.set n) s = .next t ∧
    counter t (syCounter k.desc) = syValue k.desc % 2 ^ 64 ∧
    (∀ c, c ≠ syCounter k.desc → counter t c = counter s c) ∧ t.fsu.updates = s.fsu.updates ∧
    t.mem.host = s.mem.host ∧ t.sfp = s.sfp) ∧
  (∀ s n k, syncTask s n 1 = some k → syncHeld s k = false → ∃ t, exec (.add n) s = .next t ∧
    counter t (syCounter k.desc) = (counter s (syCounter k.desc) + syValue k.desc) % 2 ^ 64 ∧
    (∀ c, c ≠ syCounter k.desc → counter t c = counter s c) ∧ t.fsu.updates = s.fsu.updates ∧
    t.mem.host = s.mem.host ∧ t.sfp = s.sfp) ∧
  (∀ s c u, nextUpdate s c = some u → ∃ t, exec (.counterUpdateApply c) s = .next t ∧
    counter t c = (if u.add then (counter s c + u.v) % 2 ^ 64 else u.v % 2 ^ 64) ∧
    (∀ d, d ≠ c → counter t d = counter s d) ∧ t.fsu.updates = s.fsu.updates.erase u ∧
    t.mem.host = s.mem.host ∧ t.sfp = s.sfp)

/-- An MMIO write of FSU_SYNC_VALUE_c queues a SET and one of FSU_SYNC_ADD_c an ADD of counter c; a SYNC cell that
FSU_REMOTE_ALLOW lets in and that is the next of its source queues its SET or ADD as a fabric update. No counter changes
before the update is applied. -/
def Obligations.CounterUpdatesQueued : Prop :=
  (∀ s c v, c < 4096 → windowUp s = true → exec (.fsuSyncValueWrite c v) s =
    .next { s with fsu := { s.fsu with updates := s.fsu.updates ++ [⟨c, false, false, v % 2 ^ 64⟩] } }) ∧
  (∀ s c v, c < 4096 → windowUp s = true → exec (.fsuSyncAddWrite c v) s =
    .next { s with fsu := { s.fsu with updates := s.fsu.updates ++ [⟨c, false, true, v % 2 ^ 64⟩] } }) ∧
  (∀ s src ctr op v m, ctr < 4096 → remoteAllowed s ctr = true → isMember s src = true → m < 2 ^ 32 →
    tabGet src 0 s.sfp.ctlIn = m → (op = 4 ∨ op = 5) → ∃ t, exec (.sync src ctr op v m) s = .next t ∧
      t.fsu = { s.fsu with updates := s.fsu.updates ++ [⟨ctr, true, op == 5, v % 2 ^ 64⟩] } ∧
      tabGet src 0 t.sfp.ctlIn = (m + 1) % 2 ^ 32 ∧ t.cfe.tasks = s.cfe.tasks ∧ t.mem.host = s.mem.host)

/-- REMOTE_SET and REMOTE_ADD on a counter of another engine send one SYNC cell that carries the counter, the operation and
the value under the next message sequence of that engine, keep the message until it is acknowledged, and tie the task to
it; while no port of the route is up no cell goes out, and the message stays. The acknowledgement takes the message away and
completes the task, or ends it with ACCESS_DENIED where the other engine refuses. On a counter of this engine they act as
SET and ADD. With AFTER they stall their queue while an earlier task of it has written no record. -/
def Obligations.RemoteOperationsSendSync : Prop :=
  (∀ s n k, syncTask s n 4 = some k → syEngine k.desc ≠ s.sfp.engineId → k.ctlSeq = none → syncHeld s k = false →
    ∃ t, exec (.remoteSet n) s = .next t ∧ remoteSent 4 n k s t) ∧
  (∀ s n k, syncTask s n 5 = some k → syEngine k.desc ≠ s.sfp.engineId → k.ctlSeq = none → syncHeld s k = false →
    ∃ t, exec (.remoteAdd n) s = .next t ∧ remoteSent 5 n k s t) ∧
  (∀ s n k, syncTask s n 4 = some k → syEngine k.desc = s.sfp.engineId → syncHeld s k = false →
    ∃ t, exec (.remoteSet n) s = .next t ∧ counter t (syCounter k.desc) = syValue k.desc % 2 ^ 64 ∧
      (∀ c, c ≠ syCounter k.desc → counter t c = counter s c) ∧ t.sfp = s.sfp ∧ t.mem.host = s.mem.host) ∧
  (∀ s n k, syncTask s n 5 = some k → syEngine k.desc = s.sfp.engineId → syncHeld s k = false →
    ∃ t, exec (.remoteAdd n) s = .next t ∧
      counter t (syCounter k.desc) = (counter s (syCounter k.desc) + syValue k.desc) % 2 ^ 64 ∧
      (∀ c, c ≠ syCounter k.desc → counter t c = counter s c) ∧ t.sfp = s.sfp ∧ t.mem.host = s.mem.host) ∧
  (∀ s n k, syncTask s n 4 = some k → k.ctlSeq = none → syncHeld s k = true → ∃ t, exec (.remoteSet n) s = .next t ∧
    stallsAs n k { k with phase := .stalled } s t) ∧
  (∀ s n k, syncTask s n 5 = some k → k.ctlSeq = none → syncHeld s k = true → ∃ t, exec (.remoteAdd n) s = .next t ∧
    stallsAs n k { k with phase := .stalled } s t) ∧
  (∀ s src m x n k, s.sfp.ctlOut.find? (fun y => y.dst == src && y.mseq == m) = some x → x.task = some n →
    getTask s n = some k → ∃ t, exec (.controlAck src m false) s = .next t ∧
      getTask t n = some (finishedTask (folio s) k) ∧ getQ t k.queue = unstallQueue (getQ s k.queue) ∧
      (∀ j, j ≠ n → getTask t j = getTask s j) ∧
      t.sfp.ctlOut = s.sfp.ctlOut.filter (fun y => !(y.dst == src && y.mseq == m)) ∧ t.fsu = s.fsu ∧ t.mem = s.mem) ∧
  (∀ s src m x n k, s.sfp.ctlOut.find? (fun y => y.dst == src && y.mseq == m) = some x → x.task = some n →
    getTask s n = some k → canEnd k = true → ∃ t, exec (.controlAck src m true) s = .next t ∧
      endedAs n k stAccessDenied 0 0 s t ∧ getQ t k.queue = unstallQueue (getQ s k.queue) ∧
      (∀ j, j ≠ n → getTask t j = getTask s j) ∧
      t.sfp.ctlOut = s.sfp.ctlOut.filter (fun y => !(y.dst == src && y.mseq == m)) ∧ t.fsu = s.fsu ∧ t.mem = s.mem) ∧
  (∀ s src m x, s.sfp.ctlOut.find? (fun y => y.dst == src && y.mseq == m) = some x → x.task = none →
    ∀ refused, ∃ t, exec (.controlAck src m refused) s = .next t ∧
      t.sfp.ctlOut = s.sfp.ctlOut.filter (fun y => !(y.dst == src && y.mseq == m)) ∧ t.cfe = s.cfe ∧ t.fsu = s.fsu ∧
      t.mem = s.mem)

/-- A wait whose TIMEOUT folios have passed ends with WAIT_TIMEOUT, and its queue goes on; a remote operation without
an acknowledgement ends, while no other error is being handled, with ABORTED_FAULT that names the engine, and its message
keeps its place in the sequence. No counter changes. -/
def Obligations.SyncTimeouts : Prop :=
  (∀ s n k, getTask s n = some k → k.waiting = true → k.waitLeft = some 0 → canEnd k = true →
    ∃ t, exec (.waitTimeout n) s = .next t ∧ endedAs n k stWaitTimeout 0 0 s t ∧
      getQ t k.queue = unstallQueue (getQ s k.queue) ∧ t.fsu = s.fsu ∧ t.mem = s.mem) ∧
  (∀ s n k m, liveTask s n opSync = some k → k.ctlSeq = some m → k.err = none → s.msc.open_ = [] →
    ∃ t, exec (.syncAckTimeout n) s = .next t ∧ endedAs n k stAbortedFault 4 (syEngine k.desc + 1 <<< 10) s t ∧
      t.fsu = s.fsu ∧ t.sfp.ctlSeq = s.sfp.ctlSeq ∧ t.mem.host = s.mem.host ∧
      t.sfp.ctlOut = s.sfp.ctlOut.map (fun x => if x.task = some n then { x with task := none } else x))

/-! ## Queues and rings (R59 to R65, R80 to R86, R459) -/

/-- An accepted doorbell moves the tail of its queue and nothing else; a bad one keeps every queue and is counted. ENABLE
makes a DISABLED queue ACTIVE, or PAUSED while it is bound to a host that is not up, with every pointer at 0; clearing ENABLE
makes one that is enabled or HALTED DRAINING while tasks are out, and DISABLED once none is. -/
def Obligations.QueueControl : Prop :=
  (∀ s q v, regOn s 0 = true → q < 512 → takesBell (getQ s q) = true → bitOf (getQ s q).ctl 1 = false →
    queueBroken (getQ s q) = false → doorbellOk (getQ s q) (v % 2 ^ (qLog (getQ s q) + 1)) = true →
    ∃ t, exec (.cfeQTailDoorbell q v) s = .next t ∧
      getQ t q = { getQ s q with tail := v % 2 ^ (qLog (getQ s q) + 1) } ∧ onlyQueue q s t) ∧
  (∀ s q v, regOn s 0 = true → q < 512 → takesBell (getQ s q) = true → bitOf (getQ s q).ctl 1 = false →
    queueBroken (getQ s q) = false → doorbellOk (getQ s q) (v % 2 ^ (qLog (getQ s q) + 1)) = false →
    ∃ t, exec (.cfeQTailDoorbell q v) s = .next t ∧ t.cfe.queues = s.cfe.queues ∧ t.cfe.tasks = s.cfe.tasks ∧
      t.cfe.badBells = s.cfe.badBells + 1) ∧
  (∀ s q ctl, regOn s 0 = true → q < 512 → bitOf ctl 0 = true → qOn (getQ s q) = false → (getQ s q).state = .disabled →
    lzAllowed s q ctl = true → modeChanging s = false →
    ∃ t, exec (.queueEnable q ctl) s = .next t ∧
      getQ t q = { getQ s q with
        ctl := ctl &&& 0x0FFF3FF3, head := ptr 0, cplTail := ptr 0, cplHead := 0, cplNext := ptr 0, before := .active, tail := 0,
        state := if qHostBound (getQ s q) && s.hpt.link != .up then .paused else .active } ∧ onlyQueue q s t) ∧
  (∀ s q ctl, regOn s 0 = true → q < 512 → bitOf ctl 0 = false → qOn (getQ s q) = true ∨ (getQ s q).state = .halted →
    modeChanging s = false → qTasks s q ≠ [] → ∃ t, exec (.queueDisable q ctl) s = .next t ∧
      getQ t q = { getQ s q with ctl := setBit (getQ s q).ctl 0 false, state := .draining } ∧ onlyQueue q s t) ∧
  (∀ s q ctl, regOn s 0 = true → q < 512 → bitOf ctl 0 = false → qOn (getQ s q) = true ∨ (getQ s q).state = .halted →
    modeChanging s = false → qTasks s q = [] → (∀ p < 16, ∀ g ∈ (getPod s p).groups, g.queue ≠ q) →
    ∃ t, exec (.queueDisable q ctl) s = .next t ∧
      getQ t q = { getQ s q with ctl := setBit (getQ s q).ctl 0 false, state := .disabled } ∧ onlyQueue q s t)

/-- Enabling an event or telemetry ring zeroes its pointers. On a ring whose pointer copies agree a pop returns bytes 0 to 7 of the head entry, keeps bytes 8 to
31 for CFE_EVQ_DATA and advances the head; on an empty ring it returns the last value with UNDERRUN. Once a slot is free
the gap marker goes into it and the ring's drops are 0. No queue and no task changes. -/
def Obligations.Rings : Prop :=
  (∀ s i ctl, regOn s 0 = true → i < 64 → bitOf ctl 0 = true → ringOn (getEvq s i) = false →
    ∃ t, exec (.evqEnable i ctl) s = .next t ∧
      getEvq t i = ringZero { getEvq s i with ctl := ctl &&& 0xFFFF013F } ∧ onlyRing i s t) ∧
  (∀ s j ctl, regOn s 0 = true → j < 8 → bitOf ctl 0 = true → ringOn (getTel s j) = false → bitsOf ctl 15 8 ≠ 0 →
    ∃ t, exec (.telemetryEnable j ctl) s = .next t ∧
      getTel t j = { ringZero { getTel s j with ctl := ctl &&& 0xFFFFFF1F } with count := 0, latched := [], ctlNow := 0 } ∧
      (∀ i, i ≠ j → getTel t i = getTel s i) ∧ { t with cfe := s.cfe, hpt := s.hpt } = s) ∧
  (∀ s i, regOn s 0 = true → i < 64 → ringOn (getEvq s i) = true → ringBroken (getEvq s i) = false →
    bitOf (getEvq s i).ctl 1 = true → (getEvq s i).head.val ≠ (getEvq s i).tail.val → (getEvq s i).drops = 0 →
    ∃ t e, exec (.cfeEvqPop i) s = .next t ∧
      e = loadAw s ((getEvq s i).base + 32 * ((getEvq s i).head.val % 2 ^ evqLog (getEvq s i))) 32 ∧
      t.out.read = leBytes 8 (numAt 0 8 e) ∧ (getEvq t i).data = numAt 8 24 e ∧ (getEvq t i).lastPop = numAt 0 8 e ∧
      (getEvq t i).head = ptr ((((getEvq s i).head.val + 1)) % 2 ^ (evqLog (getEvq s i) + 1)) ∧
      (getEvq t i).tail = (getEvq s i).tail ∧ onlyRing i s t ∧ t.mem = s.mem) ∧
  (∀ s i, regOn s 0 = true → i < 64 → ringOn (getEvq s i) = true → ringBroken (getEvq s i) = false →
    bitOf (getEvq s i).ctl 1 = true → (getEvq s i).head.val = (getEvq s i).tail.val →
    ∃ t, exec (.cfeEvqPop i) s = .next t ∧ t.out.read = leBytes 8 (setBit (getEvq s i).lastPop 16 true) ∧
      getEvq t i = { getEvq s i with notified := false } ∧ onlyRing i s t ∧ t.mem = s.mem) ∧
  (∀ s i, ringOn (getEvq s i) = true → ringBroken (getEvq s i) = false → 0 < (getEvq s i).drops →
    ringFull (evqLog (getEvq s i)) (getEvq s i).next.val (getEvq s i).head.val = false → awSpace (getEvq s i).base = 0 →
    ∃ t w, exec (.cfeEvqGap i) s = .next t ∧ t.hpt.outq = s.hpt.outq ++ [w] ∧ w.kind = .event i ∧
      w.path = awPath ((getEvq s i).base + 32 * ((getEvq s i).next.val % 2 ^ evqLog (getEvq s i))) ∧
      w.addr = awAddr ((getEvq s i).base + 32 * ((getEvq s i).next.val % 2 ^ evqLog (getEvq s i))) ∧
      w.data.length = 32 ∧ (getEvq t i).drops = 0 ∧ (getEvq t i).totalDrops = (getEvq s i).totalDrops ∧ onlyRing i s t)

/-- A fetch takes the 128 bytes at the head of the queue that the round-robin visits next as a new task, advances the head
and turns the round-robin to the queue after it; a refused descriptor's task carries its error. A settled task's record
goes out to the next completion slot, and the task is recorded. No memory and no other queue changes. -/
def Obligations.FetchAndRecord : Prop :=
  (∀ s q, fetching s = true → nextQueue s = some q → queueBroken (getQ s q) = false →
    accessFault s ((getQ s q).ringBase + 128 * ((getQ s q).head.val % 2 ^ qLog (getQ s q))) 128 = none →
    ∃ t k, exec .descriptorFetch s = .next t ∧ t.cfe.tasks = s.cfe.tasks ++ [k] ∧ k.id = s.cfe.nextTask ∧ k.queue = q ∧
      k.desc = BitVec.ofNat 1024 (leNat (loadAw s ((getQ s q).ringBase + 128 * ((getQ s q).head.val % 2 ^ qLog (getQ s q))) 128)) ∧
      k.err = refusal s q k.desc ∧ t.cfe.nextTask = s.cfe.nextTask + 1 ∧ t.cfe.rr = (q + 1) % 512 ∧
      getQ t q = { getQ s q with
        head := ptr (((getQ s q).head.val + 1) % 2 ^ (qLog (getQ s q) + 1)), lastTag := dTag k.desc,
        lastTask := some k.id } ∧
      (∀ p, p ≠ q → getQ t p = getQ s p) ∧ { t with cfe := s.cfe, hpt := s.hpt } = s) ∧
  (∀ s n k, getTask s n = some k → taskSettled s k = true → queueBroken (getQ s k.queue) = false →
    dXpath k.desc = false → writesDone s k = true → awSpace (getQ s k.queue).cplBase = 0 →
    ∃ t w, exec (.completionRecordWrite n) s = .next t ∧ t.hpt.outq = s.hpt.outq ++ [w] ∧ w.task = some n ∧
      w.path = awPath ((getQ s k.queue).cplBase + 32 * ((getQ s k.queue).cplNext.val % 2 ^ qLog (getQ s k.queue))) ∧
      w.addr = awAddr ((getQ s k.queue).cplBase + 32 * ((getQ s k.queue).cplNext.val % 2 ^ qLog (getQ s k.queue))) ∧
      w.data = leBytes 32 (recordOf k (folio s) (phaseOf (qLog (getQ s k.queue)) (getQ s k.queue).cplNext.val)) ∧
      w.kind = .record k.queue ∧
      getTask t n = some { k with phase := .recorded, finishFolio := some (finishedIn k (folio s)) } ∧
      (getQ t k.queue).cplNext = ptr (((getQ s k.queue).cplNext.val + 1) % 2 ^ (qLog (getQ s k.queue) + 1)) ∧
      (∀ p, p ≠ k.queue → getQ t p = getQ s p) ∧ t.mem = s.mem)

/-! ## The Host Port (R305 to R323) -/

/-- The oldest write of a path whose target is there lands: its bytes stand in package memory, every other byte stays, and
it is no longer outstanding. A record's landing makes the record visible: the queue's completion tail advances and the task
is forgotten, where the copies of the queue's pointers agree. Landing and acknowledgement in one step are the model's choice, log 11. -/
def Obligations.WritesLand : Prop :=
  (∀ s path w, s.hpt.outq.find? (fun w => w.path == path) = some w → (path = 0 → s.hpt.link = .up) →
    (path = 1 → s.hpt.accelLost = false) → ∃ t, exec (.writeAck path) s = .next t ∧
      stored w.addr w.data s.mem.host t.mem.host ∧ (w.kind = .output → t.hpt.outq = s.hpt.outq.erase w)) ∧
  (∀ s path w n k q, s.hpt.outq.find? (fun w => w.path == path) = some w → (path = 0 → s.hpt.link = .up) →
    (path = 1 → s.hpt.accelLost = false) → w.kind = .record q → w.task = some n → getTask s n = some k →
    (getQ s k.queue).state ≠ .draining → queueBroken (getQ s k.queue) = false →
    ∃ t, exec (.writeAck path) s = .next t ∧
      (∀ j ∈ t.cfe.tasks, j.id ≠ n) ∧
      (getQ t k.queue).cplTail = ptr (((getQ s k.queue).cplTail.val + 1) % 2 ^ (qLog (getQ s k.queue) + 1)))

/-- While the coherent link is up its stop makes it DOWN, notes the folio, pauses the host-bound queues and keeps every
write. A return with the same epoch brings it UP, and each queue to the state before; one with a new epoch takes the epoch
and sets TIER_HELD. A lost die makes the link LOST or sets ACCEL_LOST. The model's readings: log 67. -/
def Obligations.HostLink : Prop :=
  (∀ s, s.hpt.link = .up → ∃ t, exec .hptLinkDown s = .next t ∧ t.hpt.link = .down ∧ t.hpt.downFolio = folio s ∧
    (∀ q, getQ t q = if q ∈ hostQueues s then pauseQueue (getQ s q) else getQ s q) ∧ t.cfe.tasks = s.cfe.tasks ∧
    t.mem.host = s.mem.host) ∧
  (∀ s, s.hpt.link = .down → (∀ q ∈ hostQueues s, (getQ s q).state = .paused ∧ (getQ s q).before ≠ .draining) →
    ∃ t, exec .hptLinkUpSameEpoch s = .next t ∧ t.hpt.link = .up ∧ t.hpt.epoch = s.hpt.epoch ∧
      (∀ q, getQ t q = if q ∈ hostQueues s then { getQ s q with state := (getQ s q).before } else getQ s q) ∧
      t.cfe.tasks = s.cfe.tasks ∧ t.mem.host = s.mem.host) ∧
  (∀ s e, s.hpt.link ≠ .up → ∃ t, exec (.hptLinkUpNewEpoch e) s = .next t ∧ t.hpt.link = .up ∧
    t.hpt.epoch = e % 2 ^ 32 ∧ t.hpt.tierHeld = true ∧ t.fsu = s.fsu ∧ t.sfp = s.sfp) ∧
  (∀ s, s.hpt.link ≠ .lost → ∃ t, exec (.hptDieLost 0) s = .next t ∧ t.hpt.link = .lost ∧
    t.hpt.accelLost = s.hpt.accelLost ∧ t.mem.host = s.mem.host) ∧
  (∀ s, s.hpt.accelLost = false → ∃ t, exec (.hptDieLost 1) s = .next t ∧ t.hpt.accelLost = true ∧
    t.hpt.link = s.hpt.link ∧ t.mem.host = s.mem.host)

/-- A write of the engine's address space identifier clears TIER_HELD. An allowed aperture takes its value, and one that
names no memory keeps it. An accepted inbound write stores its bytes in scratch and nothing else; a refused read returns
bytes of 0xFF and a refused write stores nothing. The path fence returns the folio and LOST, and clears LOST. The model's
readings: log 69. -/
def Obligations.InboundAccesses : Prop :=
  (∀ s v, v < 2 ^ 20 → odReady odHptEngineAsid s → s.hpt.tierHeld = true → s.upu.hostlog = [] →
    ∃ t, exec (.hptEngineAsidWrite v .operator) s = .next t ∧ odGet t odHptEngineAsid = v ∧ t.hpt.tierHeld = false ∧
      t.out.status = osOk ∧ (∀ j, j ≠ odHptEngineAsid → odGet t j = odGet s j)) ∧
  (∀ s k v t, apertureLocked s v = false → odReady (odHptAperture + k) s → apertureApply k v s = some t →
    exec (.hptApertureWrite k v .owner) s = .next { t with out := { t.out with status := osOk } } ∧
    odGet t (odHptAperture + k) = v ∧ ∀ j, j ≠ odHptAperture + k → odGet t j = odGet s j) ∧
  (∀ s k v, apertureLocked s v = false → odReady (odHptAperture + k) s → apTargetOk s v = false →
    exec (.hptApertureWrite k v .owner) s = .next { s with out := { s.out with status := osRefused } }) ∧
  (∀ s path req off bs w, inboundOn s = true → inboundTarget s path off bs.length true = some w → awSpace w = 2 →
    ∃ t, exec (.inboundWrite path req off bs) s = .next t ∧
      storedScratch (awAddr w) bs s t.mem.scratch ∧ { t with mem := s.mem } = s ∧
      { t.mem with scratch := s.mem.scratch } = s.mem) ∧
  (∀ s path req off bs, inboundOn s = true → inboundTarget s path off bs.length true = none →
    ∃ t, exec (.inboundWrite path req off bs) s = .next t ∧ t.hpt.rejected = true ∧ t.mem.host = s.mem.host ∧
      t.cfe.queues = s.cfe.queues) ∧
  (∀ s path req off n w, inboundOn s = true → inboundTarget s path off n false = some w → awSpace w = 2 →
    exec (.inboundRead path req off n) s =
      .next { s with out := { s.out with read := scratchLoad s (awAddr w) n } }) ∧
  (∀ s path req off n, inboundOn s = true → inboundTarget s path off n false = none →
    ∃ t, exec (.inboundRead path req off n) s = .next t ∧ t.out.read = List.replicate n 0xFF ∧ t.hpt.rejected = true ∧
      t.mem.host = s.mem.host) ∧
  (∀ s, windowUp s = true → s.hpt.outq = [] → exec .engPathFence s =
    .next { s with
      out := { s.out with read := leBytes 8 (folio s % 2 ^ 48 + bit s.hpt.lost <<< 63) },
      hpt := { s.hpt with lost := false } }) ∧
  (∀ s b n, rangeInUse s b n = false → ∃ t, exec (.translationInvalidate b n) s = .next t ∧
    t.out.invalidated = (b, n) :: s.out.invalidated ∧ t.mem = s.mem ∧ t.cfe = s.cfe ∧
    (∀ r ∈ s.hpt.unmapped, ¬ (b ≤ r.1 ∧ r.1 + r.2 ≤ b + n) → r ∈ t.hpt.unmapped))

/-! ## The Shard Fabric Port (R328 to R350) -/

/-- A port trains at 16 or 8 lanes and is up with its numbers at 0, or stays down; a port that goes down retrains with an
empty replay buffer. A LINK cell takes the partner's credits and acknowledgement, and the cells that it acknowledges
leave the replay buffer; a read request that waited for a credit goes out; a NAK counts every cell sent again. The port's own LINK cell carries its receive number and NAK,
which it clears. An uncorrectable codeword sets both. A cell of a reserved type, of another Collection or from no member
is only counted. -/
def Obligations.PortsAndLinks : Prop :=
  (∀ s p lanes, p < 8 → s.cru.run ≠ .off → s.cru.run ≠ .reset → portUp s p = false →
    ∃ t, exec (.portTrain p lanes) s = .next t ∧ getPort t p = {} ∧
      portState t p = (if lanes = 16 then 2 else if lanes = 8 then 3 else 0) ∧
      (∀ k, k ≠ p → getPort t k = getPort s k) ∧ t.mem.host = s.mem.host ∧ t.cfe.tasks = s.cfe.tasks) ∧
  (∀ s p c, p < 8 → portUp s p = true → (c = 1 ∨ c = 2) → ∃ t, exec (.sfpPortDown p c) s = .next t ∧
    portState t p = 1 ∧ (getPort t p).replay = [] ∧ (getPort t p).retries = 0 ∧ t.sfp.ctlOut = s.sfp.ctlOut ∧
    t.cfe.tasks = s.cfe.tasks) ∧
  (∀ s p cr ack d, portUp s p = true → s.sfp.held = [] → exec (.link p cr ack none d) s =
    .next (modPort p (fun x => { x with
      credits := cr.take 4, delay := d % 2 ^ 32, replay := x.replay.filter (fun c => !cellUpTo c.num ack) }) s)) ∧
  (∀ s u p cr ack d c, portUp s p = true → s.sfp.held = [c] → c.len ≤ 224 → u = modPort p (fun x => { x with
      credits := cr.take 4, delay := d % 2 ^ 32, replay := x.replay.filter (fun c => !cellUpTo c.num ack) }) s →
    credited u c.dst c.xid = true → cseqUsed s c.dst + 1 < 2 ^ 48 → ∃ t, exec (.link p cr ack none d) s = .next t ∧
      t.sfp.held = [] ∧ t.sfp.sentCells =
        { c with cseq := cseqUsed s c.dst + 1, slot := s.sfp.sending } :: s.sfp.sentCells ∧
      t.cfe.tasks = s.cfe.tasks ∧ t.mem.host = s.mem.host) ∧
  (∀ s p cr ack n d again, portUp s p = true → s.sfp.held = [] →
    again = ((getPort s p).replay.filter (fun c => !cellUpTo c.num ack && cellUpTo n c.num)).length →
    (getPort s p).retries + again < odGet s odSfpRetryLimit → ∃ t, exec (.link p cr ack (some n) d) s = .next t ∧
      getPort t p = { getPort s p with
        credits := cr.take 4, delay := d % 2 ^ 32, replay := (getPort s p).replay.filter (fun c => !cellUpTo c.num ack),
        retries := (getPort s p).retries + again } ∧ (∀ k, k ≠ p → getPort t k = getPort s k) ∧ t.cfe = s.cfe) ∧
  (∀ s p, portUp s p = true → ∃ t, exec (.linkCellSend p) s = .next t ∧
    t.sfp.sentCells = {
      type := ctLink, dst := 0x3FF, xid := 0,
      payload := [p, (getPort s p).rxNum, ((getPort s p).nak.map (· + 1)).getD 0] } :: s.sfp.sentCells ∧
    getPort t p = { getPort s p with sinceLink := 0, nak := none } ∧ { t with sfp := s.sfp } = s) ∧
  (∀ s p n, portUp s p = true → exec (.uncorrectableCodeword p n) s =
    .next (modPort p (fun x => { x with rxNum := n % 65536, nak := some (n % 65536) }) s)) ∧
  (∀ s ty c src, (typeReserved ty || c != s.sfp.collId || !isMember s src) = true →
    odGet s odSfpBadCells + 1 < 2 ^ 32 → ∃ t, exec (.badCell ty c src) s = .next t ∧
      odGet t odSfpBadCells = odGet s odSfpBadCells + 1 ∧ (∀ k, k ≠ odSfpBadCells → odGet t k = odGet s k) ∧
      { t with od := s.od } = s)

/-- A message still unacknowledged goes out again under its sequence. The next message of a member is taken: a member adopts
the epoch, and the floors; the Registrar takes a map report, a member's adoption of its epoch, and its floors. No task and
no memory of the host changes. The model's readings: log 35. -/
def Obligations.ControlMessages : Prop :=
  (∀ s d m x, s.sfp.ctlOut.find? (fun y => y.dst == d && y.mseq == m) = some x → x.type ≠ ctReadReq → cellRoom s d 1 →
    ∃ t, exec (.controlResend d m) s = .next t ∧ sentOne x.type d (x.mseq :: x.payload) s t ∧
      t.sfp.ctlOut = s.sfp.ctlOut ∧ t.sfp.ctlSeq = s.sfp.ctlSeq ∧ t.cfe.tasks = s.cfe.tasks ∧ t.mem.host = s.mem.host) ∧
  (∀ s src term m e ds, isMember s src = true → tabGet src 0 s.sfp.ctlIn = m → m < 2 ^ 32 → s.sfp.registrar = false →
    odGet s odSfpTerm ≤ term → ∃ t, exec (.descUpdate src term m e ds) s = .next t ∧ t.sfp.epoch = e % 2 ^ 32 ∧
      tabGet src 0 t.sfp.ctlIn = (m + 1) % 2 ^ 32 ∧ t.cfe.tasks = s.cfe.tasks ∧ t.mem.host = s.mem.host) ∧
  (∀ s src term m e ds d, isMember s src = true → tabGet src 0 s.sfp.ctlIn = m → m < 2 ^ 32 → s.sfp.registrar = true →
    term ≤ odGet s odSfpTerm → firstDeputy (hear src s) = some d →
    ∃ t, exec (.descUpdate src term m e ds) s = .next t ∧
      t.sfp.mapEpoch = (if epochOlder e s.sfp.mapEpoch then s.sfp.mapEpoch else e % 2 ^ 32) ∧
      t.sfp.mapPending = s.sfp.mapPending ++ ds ∧ t.sfp.epoch = s.sfp.epoch ∧ t.cfe.tasks = s.cfe.tasks) ∧
  (∀ s src term m e a, isMember s src = true → tabGet src 0 s.sfp.ctlIn = m → m < 2 ^ 32 → odGet s odSfpTerm ≤ term →
    ∃ t, exec (.floors src term m e a) s = .next t ∧ t.sfp.epochFloor = e % 2 ^ 32 ∧ t.sfp.admFloor = a % 2 ^ 48 ∧
      tabGet src 0 t.sfp.ctlIn = (m + 1) % 2 ^ 32 ∧ t.cfe.tasks = s.cfe.tasks ∧ t.mem.host = s.mem.host) ∧
  (∀ s m e, s.sfp.registrar = true → isMember s m = true → e = s.sfp.mapEpoch → m ∉ s.sfp.adopted →
    ∃ t, exec (.epochAdopted m e) s = .next t ∧ t.sfp.adopted = s.sfp.adopted ++ [m] ∧ t.cfe = s.cfe ∧ t.mem = s.mem) ∧
  (∀ s m e a f, s.sfp.registrar = true → isMember s m = true → ∃ t, exec (.floorReport m e a f) s = .next t ∧
    tabGet m (0, 0, 0) t.sfp.reports = (e, a, folio s) ∧ m ∉ t.sfp.silent ∧ t.cfe = s.cfe ∧ t.mem = s.mem)

/-- A deputy keeps a mirrored map epoch and acknowledges it; with the acknowledgement the Registrar adopts its map. A
deputy whose Registrar, and every engine ahead of it, has been silent long enough becomes Registrar under the next term;
the Registrar leaves a silent member out. A member switches to an installed key from the folio named, and erases the old
one after its overlap. -/
def Obligations.RegistrarAndKeys : Prop :=
  (∀ s src term m e, isMember s src = true → tabGet src 0 s.sfp.ctlIn = m → m < 2 ^ 32 → odGet s odSfpTerm ≤ term →
    ∃ t, exec (.mapMirror src term m e false) s = .next t ∧ t.sfp.mapEpoch = e % 2 ^ 32 ∧
      (∃ x ∈ t.sfp.ctlOut, x.dst = src ∧ x.type = ctControl ∧ x.payload = [5, e, 1]) ∧ t.cfe.tasks = s.cfe.tasks) ∧
  (∀ s src term m e, isMember s src = true → tabGet src 0 s.sfp.ctlIn = m → m < 2 ^ 32 → s.sfp.registrar = true →
    e = s.sfp.mapEpoch → ∃ t, exec (.mapMirror src term m e true) s = .next t ∧ t.sfp.mapPending = [] ∧
      t.sfp.adopted = [s.sfp.engineId] ∧ t.sfp.epoch = e % 2 ^ 32 ∧ t.cfe.tasks = s.cfe.tasks) ∧
  (∀ s, mayTakeOver s = true → ∃ t, exec .registrarTakeover s = .next t ∧ t.sfp.registrar = true ∧
    odGet t odSfpTerm = (odGet s odSfpTerm + 1) % 65536 ∧ odGet t odSfpRegistrar = s.sfp.engineId ∧
    t.sfp.adopted = [] ∧ t.cfe.tasks = s.cfe.tasks) ∧
  (∀ s m, s.sfp.registrar = true → isMember s m = true → m ≠ s.sfp.engineId → m ∉ s.sfp.silent →
    (tabGet m (0, 0, 0) s.sfp.reports).2.2 + odGet s odSfpTakeoverFolios ≤ folio s →
    ∃ t, exec (.sfpMemberSilent m) s = .next t ∧ t.sfp = { s.sfp with silent := s.sfp.silent ++ [m] } ∧
      t.cfe.tasks = s.cfe.tasks) ∧
  (∀ s src term k f, isMember s src = true → odGet s odSfpTerm ≤ term → src ∈ succession s →
    (getKey s k).secret.isSome = true → ∃ t, exec (.keySwitch src term k f) s = .next t ∧
      t.sfp.switchTo = some (k, f) ∧ t.sfp.sending = s.sfp.sending ∧ t.sfp.keys = s.sfp.keys) ∧
  (∀ s k f, s.sfp.switchTo = some (k, f) → f ≤ folio s → ∃ t, exec .keySwitchFolio s = .next t ∧
    t.sfp.sending = some k ∧ t.sfp.switchTo = none ∧ t.sfp.keys = s.sfp.keys ∧
    (∀ o, s.sfp.sending = some o → o ≠ k → t.sfp.oldSlot = some (o, f + odGet s odSfpKeyOverlap)) ∧
    odGet t odSfpKeyState = keyStateNum t ∧ { t with sfp := s.sfp, od := s.od } = s) ∧
  (∀ s k f, s.sfp.oldSlot = some (k, f) → f < folio s → ∃ t, exec .oldKeyErase s = .next t ∧
    (getKey t k).secret = none ∧ t.sfp.oldSlot = none ∧ (∀ j, j ≠ k → getKey t j = getKey s j) ∧
    odGet t odSfpKeyState = keyStateNum t ∧ { t with sfp := s.sfp, od := s.od } = s)

/-- An invalidation drops the holder's replica of the row and is acknowledged; an acknowledgement, or the end of the wait
for one, takes the holder off the directory, which is written to GDDR7 at CAT_REPDIR_BASE; a home that has been silent loses
its replicas here. The form of a directory entry is the model's choice, log 94. -/
def Obligations.ReplicasInvalidated : Prop :=
  (∀ s h t r, isMember s h = true → cellRoom s h 1 → ∃ u, exec (.invalRx h t r) s = .next u ∧
    (∀ x ∈ u.cat.replicas, ¬ (x.table = t ∧ x.row = r)) ∧
    (∀ x ∈ s.cat.replicas, ¬ (x.table = t ∧ x.row = r) → ∃ y ∈ u.cat.replicas, { y with data := x.data } = x) ∧
    sentOne ctInvalAck h [nextCtl s h, t, r] s u ∧ u.mem.host = s.mem.host) ∧
  (∀ s h t r, isMember s h = true → ∃ u, exec (.invalAckRx h t r) s = .next u ∧ (t, r, h) ∉ u.cat.repdir ∧
    (∀ c ∈ s.cat.repdir, c ≠ (t, r, h) → c ∈ u.cat.repdir) ∧ odGet u odCatRepdirUsed = u.cat.repdir.length ∧
    (chansUp s → u.cat.repdir.length < 65536 → stored s.cat.repdirBase
      (u.cat.repdir.flatMap (fun e => leBytes 16 (repdirNum e)) ++ List.replicate 16 0) s.mem.gddr u.mem.gddr) ∧
    { u.mem with gddr := s.mem.gddr } = s.mem ∧ u.cfe = s.cfe) ∧
  (∀ s h t r v, v ∈ s.cat.invals → v.table = t → v.row = r → h ∈ v.holders →
    v.folio + odGet s odCatInvalFolios ≤ folio s → ∃ u, exec (.catInvalTimeout h t r) s = .next u ∧
      (t, r, h) ∉ u.cat.repdir ∧ (∀ w ∈ u.cat.invals, w.table = t → w.row = r → h ∉ w.holders) ∧
      u.cfe.tasks = s.cfe.tasks) ∧
  (∀ s h, h ≠ s.sfp.engineId → tabGet h 0 s.cat.heard + odGet s odCatInvalFolios - 1 ≤ folio s →
    ∃ u, exec (.holderReplicaExpiry h) s = .next u ∧ u.cat.replicas = s.cat.replicas.filter (fun x => !(x.home == h)) ∧
      odGet u odCatReplicas = u.cat.replicas.length ∧ u.cfe = s.cfe ∧ u.mem = s.mem)

/-- A copied chunk lands in GDDR7. A lost partner's twin goes ALONE, takes cells for it and its retained parcels, and tells
the members; the others redirect their cells, until the twin is restored. The resync source goes RESYNC_SOURCE and the
target RESYNC_TARGET, and both end PAIRED. The model's readings: log 49. -/
def Obligations.TwinPairs : Prop :=
  (∀ s src m a bs, isMember s src = true → a < 2 ^ 57 → a + bs.length ≤ usable s → (∀ c ∈ s.mss.chans, c.2.down = false) →
    s.cat.copyWait = [] → cseqUsed s (cellDst s src) + 1 < 2 ^ 47 →
    ∃ t, exec (.copy src m a bs) s = .next t ∧ stored a bs s.mem.gddr t.mem.gddr ∧ t.mem.host = s.mem.host ∧
      t.cfe.tasks = s.cfe.tasks) ∧
  (∀ s, ∃ t, exec (.twinHeartbeat s.sfp.partner) s = .next t ∧ t.sfp.twinQuiet = 0 ∧ t.cfe = s.cfe ∧ t.mem = s.mem) ∧
  (∀ s hub, s.sfp.partner < 1024 → twinState s = 1 → (hub = true ∨ odGet s odSfpTwinTimeout ≤ s.sfp.twinQuiet) →
    ∃ t, exec (.twinTimeout hub) s = .next t ∧ twinState t = 2 ∧
      cellDst t s.sfp.partner = s.sfp.engineId ∧ t.upu.ring = s.upu.ring ++ s.upu.twinRing ∧ t.upu.twinRing = [] ∧
      t.cfe.tasks = s.cfe.tasks) ∧
  (∀ s a b, isMember s a = true → isMember s b = true → exec (.twinFailover a b) s =
    .next { s with sfp := { s.sfp with redirect := tabPut a b s.sfp.redirect } }) ∧
  (∀ s a, ∃ t, exec (.twinRestoredNotice a) s = .next t ∧ cellDst t a = a ∧
    (∀ b, b ≠ a → cellDst t b = cellDst s b) ∧ { t with sfp := s.sfp } = s) ∧
  (∀ s, s.sfp.partner < 1024 → twinState s = 2 → ∃ t, exec .twinResync s = .next t ∧ twinState t = 3) ∧
  (∀ s, s.sfp.partner < 1024 → twinState s = 1 ∨ twinState s = 0 → ∃ t, exec .twinResync s = .next t ∧
    twinState t = 4 ∧ t.sfp = s.sfp ∧ t.cfe.tasks = s.cfe.tasks ∧ t.upu.journal = [] ∧ t.upu.hwm = [] ∧ t.upu.ring = []) ∧
  (∀ s, twinState s = 3 → s.upu.applying = none → copiesAcked s s.sfp.partner = true → ∃ t, exec .twinRestored s = .next t ∧ twinState t = 1 ∧
    cellDst t s.sfp.partner = s.sfp.partner ∧ t.sfp.twinQuiet = 0) ∧
  (∀ s, twinState s = 4 → ∃ t, exec .twinRestored s = .next t ∧ twinState t = 1 ∧ t.sfp.twinQuiet = 0) ∧
  (∀ s i, (i, true) ∈ s.sfp.recopy → (∀ c ∈ s.sfp.recopy, c.1 = i → c.2 = true) →
    ∃ t, exec (.twinRecopy i) s = .next t ∧ t.sfp.recopy = s.sfp.recopy.filter (fun c => c.1 != i))

/-- A read request in an authentic new cell of a member is answered under its transfer identifier with the row and its side
list, with ABSENT, or with its status, and the row of a shard homed here is counted as served; a reader that will hold the
row is entered as its holder; one for a shard that has moved away is passed on under its identifier. A cell that fails its
protection, or that was delivered before, changes no replay window and answers nothing. An answer gives the waiting read, the
twin check or the REPLICATE_ROW its bytes, or ends the task where the home could not read the row. A read without one goes
out again under the next transfer, and after the second time its task ends. Service in one step is the model's reading,
log 71. -/
def Obligations.FabricReads : Prop :=
  (∀ s hdr body pl w e row side reads idx, newReadReq s hdr body pl → w = leNat (sliceBytes 0 8 pl) →
    e = readerOf (bitsOf hdr.toNat 53 44) (leNat (sliceBytes 16 8 pl)) →
    serveRead s (bitsOf w 39 0) (bitsOf w 55 40) (bitOf w 56) (bitOf w 57) (leNat (sliceBytes 8 2 pl)) = .row row side reads →
    (bitOf w 58 = true → s.cat.repdir.length < 65536) → cellRoom s e (cellsFor (8 + row.length + side.length)) →
    idx = idxOfRow s (bitsOf w 55 40) (bitsOf w 39 0) → ∃ t, exec (.readReq hdr body) s = .next t ∧
      sentUnder (bitsOf hdr.toNat 35 13) ctReadRsp e (0 :: (row ++ side).map (·.toNat)) s t ∧
      (bitOf w 58 = true → bitOf w 57 = false → (bitsOf w 55 40, bitsOf w 39 0, e) ∈ t.cat.repdir) ∧
      (bitOf w 57 = false → bitOf w 58 = false → sdHome (descAt s idx) = s.sfp.engineId →
        tabGet idx (0, 0, 0, 0) t.cat.circ = ((tabGet idx (0, 0, 0, 0) s.cat.circ).1 + 1,
          (tabGet idx (0, 0, 0, 0) s.cat.circ).2.1 + 1, (tabGet idx (0, 0, 0, 0) s.cat.circ).2.2.1 + rowS (descAt s idx),
          (tabGet idx (0, 0, 0, 0) s.cat.circ).2.2.2)) ∧
      cellReplayed t hdr = true ∧ t.cfe.tasks = s.cfe.tasks ∧ t.mem.host = s.mem.host) ∧
  (∀ s hdr body pl w e r a, newReadReq s hdr body pl → w = leNat (sliceBytes 0 8 pl) →
    e = readerOf (bitsOf hdr.toNat 53 44) (leNat (sliceBytes 16 8 pl)) →
    serveRead s (bitsOf w 39 0) (bitsOf w 55 40) (bitOf w 56) (bitOf w 57) (leNat (sliceBytes 8 2 pl)) = r →
    (r = .absent ∧ a = 1 ∨ ∃ v, r = .status v ∧ a = v <<< 8) → cellRoom s e 1 → ∃ t, exec (.readReq hdr body) s = .next t ∧
      sentUnder (bitsOf hdr.toNat 35 13) ctReadRsp e [a] s t ∧ cellReplayed t hdr = true ∧ t.cfe.tasks = s.cfe.tasks ∧
      t.mem.host = s.mem.host) ∧
  (∀ s hdr body pl w e h, newReadReq s hdr body pl → w = leNat (sliceBytes 0 8 pl) →
    e = readerOf (bitsOf hdr.toNat 53 44) (leNat (sliceBytes 16 8 pl)) →
    serveRead s (bitsOf w 39 0) (bitsOf w 55 40) (bitOf w 56) (bitOf w 57) (leNat (sliceBytes 8 2 pl)) = .pass h →
    cellRoom s h 1 → credited s (cellDst s h) (bitsOf hdr.toNat 35 13) = true → ∃ t, exec (.readReq hdr body) s = .next t ∧
      sentUnder (bitsOf hdr.toNat 35 13) ctReadReq h
        (readReqWords (bitsOf w 39 0) (bitsOf w 55 40) (bitOf w 56) (bitOf w 57) (bitOf w 58) (leNat (sliceBytes 8 2 pl))
          (leNat (sliceBytes 12 4 pl)) ++ [readerWord e]) s t ∧
      cellReplayed t hdr = true ∧ t.cfe.tasks = s.cfe.tasks ∧ t.mem.host = s.mem.host) ∧
  (∀ s hdr body, bitsOf hdr.toNat 75 72 = ctReadReq → gated s 11 = false → windowUp s = true →
    cellPlain s hdr body = none → ∃ t, exec (.readReq hdr body) s = .next t ∧
      t.sfp.replayWin = s.sfp.replayWin ∧ t.sfp.sentCells = s.sfp.sentCells ∧
      bitsOf hdr.toNat 53 44 ∈ t.sfp.authRaised ∧ t.cfe.tasks = s.cfe.tasks ∧ t.mem.host = s.mem.host) ∧
  (∀ s hdr body pl, bitsOf hdr.toNat 75 72 = ctReadReq → gated s 11 = false → windowUp s = true →
    cellPlain s hdr body = some pl → cellReplayed s hdr = true → exec (.readReq hdr body) s =
      .next (odCount odSfpReplayDrops 1 s)) ∧
  (∀ s xid p r row side k l, gated s 11 = false → windowUp s = true → readOfXid s xid = some (p, r) →
    bagTask s r.task = some k → readLeaf s p r = some l → ∃ t, exec (.readRsp xid 0 false row side) s = .next t ∧
      (getPod t p).reads = (getPod s p).reads.map (fun x => if x.id = r.id then { x with got := [(0, row), (1, side)] } else x) ∧
      (∀ q, q ≠ p → getPod t q = getPod s q) ∧ t.cfe = s.cfe ∧ t.mem = s.mem) ∧
  (∀ s xid p r row side k l, gated s 11 = false → windowUp s = true → readOfXid s xid = some (p, r) →
    bagTask s r.task = some k → readLeaf s p r = some l → s.msc.open_ = [] →
    ∃ t, exec (.readRsp xid 1 false row side) s = .next t ∧
      endedAs r.task k stAbortedFault 4 (readHomeOf s k r l % 1024 + 2 <<< 10) s t ∧
      (∀ x ∈ (getPod t p).reads, x.id ≠ r.id) ∧ t.mem.host = s.mem.host) ∧
  (∀ s xid p r row side, gated s 11 = false → windowUp s = true → readOfXid s xid = none → twinOfXid s xid = some (p, r) →
    ∃ t, exec (.readRsp xid 0 false row side) s = .next t ∧
      (getPod t p).reads = (getPod s p).reads.map (fun x => if x.id = r.id then { x with twin := none, other := row } else x) ∧
      (∀ q, q ≠ p → getPod t q = getPod s q) ∧ t.cfe = s.cfe ∧ t.mem = s.mem) ∧
  (∀ s xid row side k, gated s 11 = false → windowUp s = true → readOfXid s xid = none → twinOfXid s xid = none →
    replicateOfXid s xid = some k → getTask s k.id = some k → replicaUsed s + replicaLines row side ≤ replicaRoom s →
    ∃ t, exec (.readRsp xid 0 false row side) s = .next t ∧ getTask t k.id = some (finishedTask (folio s) k) ∧
      { table := dTable k.desc, row := rlRow k.desc, home := sdHome (descAt s (rlIndex s k.desc)), data := row, side := side } ∈
        t.cat.replicas ∧ t.mem = s.mem) ∧
  (∀ s xid status absent row side, gated s 11 = false → windowUp s = true → readOfXid s xid = none → twinOfXid s xid = none →
    replicateOfXid s xid = none → ∃ t, exec (.readRsp xid status absent row side) s = .next t ∧ { t with sfp := s.sfp } = s) ∧
  (∀ s xid p r k l, readOfXid s xid = some (p, r) → bagTask s r.task = some k → readLeaf s p r = some l → r.tries < 2 →
    readRoom s (readHomeOf s k r l) → ∃ t, exec (.readTimeout xid) s = .next t ∧
      sentOne ctReadReq (readHomeOf s k r l)
        (readReqWords (if r.kind = 3 then 0 else r.addr) (dTable k.desc) (dPin k.desc) (r.kind == 3) false (dPinEpoch k.desc)
          s.sfp.epoch) s t ∧
      (getPod t p).reads = (getPod s p).reads.map (fun x => if x.id = r.id then
        { x with xid := s.sfp.xid, epoch := s.sfp.epoch, tries := x.tries + 1 } else x) ∧
      t.cfe.tasks = s.cfe.tasks ∧ t.mem.host = s.mem.host) ∧
  (∀ s xid p r k l, readOfXid s xid = some (p, r) → bagTask s r.task = some k → readLeaf s p r = some l → 2 ≤ r.tries →
    s.msc.open_ = [] → ∃ t, exec (.readTimeout xid) s = .next t ∧
      endedAs r.task k stAbortedFault 4
        (readHomeOf s k r l % 1024 + (if reachable s (readHomeOf s k r l) then 0 else 1) <<< 10) s t ∧
      (∀ x ∈ (getPod t p).reads, x.id ≠ r.id) ∧ t.mem.host = s.mem.host) ∧
  (∀ s xid k, readOfXid s xid = none → twinOfXid s xid = none → replicateOfXid s xid = some k → k.copyPos < 2 →
    getTask s k.id = some k → readRoom s (sdHome (descAt s (rlIndex s k.desc))) →
    ∃ t, exec (.readTimeout xid) s = .next t ∧
      sentOne ctReadReq (sdHome (descAt s (rlIndex s k.desc)))
        (readReqWords (rlRow k.desc) (dTable k.desc) false false true 0 s.sfp.epoch) s t ∧
      getTask t k.id = some { k with ctlSeq := some s.sfp.xid, copyPos := k.copyPos + 1, moveMark := s.sfp.epoch } ∧
      t.mem.host = s.mem.host) ∧
  (∀ s xid, readOfXid s xid = none → twinOfXid s xid = none → replicateOfXid s xid = none →
    exec (.readTimeout xid) s = .next s)

/-! ## The Memory Subsystem (R288 to R300) -/

/-- A valid temperature sets a channel's byte, refresh and throttle level, and starts its count of bad readings again; an
invalid one sets 0x80, and the third in a row throttles fully. An Owner's retrain joins the requests; the oldest request
starts alone, and its end records the temperature and the folio; one that runs too long takes its channel down. With no request
there, a write that failed its CRC after four retries starts one (cause 4). The scrub
moves to the next atom, and marks one that it finds bad. An overwrite leaves every byte of GDDR7 zero under the next
generation, until it is done. Start and end of a retrain as two commands are the model's choice, log 54, and so is the command of cause 4, log 100. -/
def Obligations.GddrService : Prop :=
  (∀ s ch r, ch < 24 → s.mss.selfRefresh = false → gated s 5 = false → -127 ≤ r → r ≤ 127 →
    ∃ t, exec (.tempRead ch (some r)) s = .next t ∧ odByte t odMssTemp ch = ofSigned 8 r ∧
      getChan t ch = { getChan s ch with
        bad := 0, hotRefresh := decide (85 < r), level := throttleLevel s (getChan s ch).level r,
        trainTemp := some ((getChan s ch).trainTemp.getD r) } ∧
      (∀ c, c ≠ ch → getChan t c = getChan s c) ∧ t.cfe = s.cfe ∧ t.mem = s.mem) ∧
  (∀ s ch, ch < 24 → s.mss.selfRefresh = false → gated s 5 = false → ∃ t, exec (.tempRead ch none) s = .next t ∧
    odByte t odMssTemp ch = 0x80 ∧ (getChan t ch).bad = (getChan s ch).bad + 1 ∧
    ((getChan s ch).bad + 1 = 3 → (getChan t ch).level = 2 ∧ (getChan t ch).hotRefresh = true) ∧
    (∀ c, c ≠ ch → getChan t c = getChan s c) ∧ t.cfe.tasks = s.cfe.tasks) ∧
  (∀ s ch, ch < 24 → odReady odMssRetrain s → (getChan s ch).down = false → bitOf s.mss.chanMap ch = true →
    (∀ r ∈ s.mss.retrainQ, r.1 ≠ ch) → s.mss.retraining = none → exec (.mssRetrain ch .owner) s =
      .next { s with
        mss := { s.mss with retrainQ := s.mss.retrainQ ++ [(ch, 3)] }, out := { s.out with status := osOk } }) ∧
  (∀ s r rest, s.mss.retraining = none → s.mss.retrainQ = r :: rest → s.mss.overwriting = false →
    s.mss.selfRefresh = false → ∀ hold, exec (.channelRetrain r.1 hold) s =
      .next { s with mss := { s.mss with retraining := some r, retrainQ := rest } }) ∧
  (∀ s ch hold, ch < 24 → s.mss.retraining = none → s.mss.retrainQ = [] → bitOf s.mss.chanMap ch = true →
    (getChan s ch).down = false → s.mss.overwriting = false → s.mss.selfRefresh = false →
    ∃ t, exec (.channelRetrain ch hold) s = .next t ∧ t.mss.retraining = some (ch, 4) ∧ t.mss.retrainQ = [] ∧
      getChan t ch = { getChan s ch with crc := (getChan s ch).crc + 4 } ∧ (∀ c, c ≠ ch → getChan t c = getChan s c) ∧
      t.cfe = s.cfe ∧ t.mem = s.mem) ∧
  (∀ s ch cause hold, s.mss.retraining = some (ch, cause) → hold ≤ 4000 →
    ∃ t, exec (.channelRetrain ch hold) s = .next t ∧ t.mss.retraining = none ∧
      (getChan t ch).lastRetrain = (if cause ≤ 2 then some (folio s) else (getChan s ch).lastRetrain) ∧
      (getChan t ch).crc = 0 ∧ (∀ c, c ≠ ch → getChan t c = getChan s c) ∧ t.mem.host = s.mem.host) ∧
  (∀ s ch cause, s.mss.retraining = some (ch, cause) → ∃ t, exec .retrainTimeout s = .next t ∧
    t.mss.retraining = none ∧ (getChan t ch).down = true ∧ (∀ r ∈ t.mss.retrainQ, r.1 ≠ ch) ∧ t.mem.host = s.mem.host) ∧
  (∀ s a, a = s.mss.scrub → 64 * a < usable s → gddrHeld s (64 * a) = false → (getChan s (chanOf s (64 * a))).down = false →
    gated s 5 = false → exec (.scrubStep a 0) s =
      .next { s with mss := { s.mss with scrub := (a + 1) % (usable s / 64), atomsRead := s.mss.atomsRead + 1 } }) ∧
  (∀ s a, a = s.mss.scrub → 64 * a < usable s → gddrHeld s (64 * a) = false → (getChan s (chanOf s (64 * a))).down = false →
    gated s 5 = false → s.mss.tags = true → (∀ b ∈ s.mss.badAtoms, b.1 ≠ a) → ∃ t, exec (.scrubStep a 6) s = .next t ∧
      (∃ b ∈ t.mss.badAtoms, b.1 = a) ∧ t.mss.scrub = (a + 1) % (usable s / 64) ∧ t.mem.host = s.mem.host) ∧
  (∀ s, s.mss.overwriteDue = true → s.mss.selfRefresh = false → s.mss.overwriting = false →
    ∃ t, exec .overwrite s = .next t ∧ (∀ a, memByte t.mem.gddr a = 0) ∧
      odGet t odMssGeneration = odGet s odMssGeneration + 1 ∧ t.mss.keyGen = odGet s odMssGeneration + 1 ∧
      t.mss.overwriting = true ∧ t.mss.badAtoms = [] ∧ { t.mem with gddr := s.mem.gddr } = s.mem ∧ t.cfe = s.cfe) ∧
  (∀ s us, s.mss.overwriting = true → ∃ t, exec (.mssOverwriteDone us) s = .next t ∧ t.mss.overwriting = false ∧
    t.mss.overwriteDue = false ∧ t.mem.host = s.mem.host ∧ t.cfe.tasks = s.cfe.tasks)

/-! ## Reset, clocks and power (R400 to R421) -/

/-- J_RST_N low for 1.2 µs puts the engine into reset: its front end, its counters, its Pods and its queues are as after reset,
and GDDR7, the scratch bytes, the tiles and the folio number as they were; its rise lets start-up begin, unless something holds the engine. The loss of the
input loses GDDR7 and leaves package memory; power-up begins anew. A reference that does not qualify stops start-up with
cause 1; once all is up and the firmware has booted, the engine is ready (here: with no parcel retained that it sends again). The model's readings: logs 10, 77 and 92. -/
def Obligations.ResetAndStart : Prop :=
  (∀ s ns, s.cru.run ≠ .off → s.cru.run ≠ .reset → s.cru.rstN = true → 1200 ≤ ns → s.cru.heldWrites = [] →
    ∃ t, exec (.jRstNLow ns) s = .next t ∧ t.cru.run = .reset ∧ t.cru.rstN = false ∧
      engineCleared s t) ∧
  (∀ s, s.cru.run = .reset → s.cru.pwrgd = true → s.msc.packageHeld = false → s.msc.waitRelease = false →
    exec .jRstNRise s = .next { s with cru := { s.cru with
      rstN := true, run := .starting, qualifying := true, stuck := s.msc.startCause == 2 } }) ∧
  (∀ s, s.cru.run ≠ .off → ∃ t, exec .inputLoss s = .next t ∧ t.cru.run = .off ∧ t.cru.pwrgd = false ∧ t.cfe = {} ∧
    t.fsu = {} ∧ t.mem.gddr = [] ∧ t.mem.scratch = [] ∧ t.mem.tiles = [] ∧ t.mem.host = s.mem.host) ∧
  (∀ s, s.cru.pwrgd = false → ∃ t, exec .powerUp s = .next t ∧
    t.cru.run = (if s.cru.rstN then .starting else .reset) ∧ t.cru.pwrgd = true ∧ t.cfe = {} ∧ t.fsu = {} ∧
    t.mem.gddr = [] ∧ t.mem.host = s.mem.host) ∧
  (∀ s, s.cru.run = .starting → s.cru.stuck = false → ∃ t, exec .refclkQualifyTimeout s = .next t ∧
    t.msc.startCause = 1 ∧ t.msc.alert = true ∧ t.cru = { s.cru with stuck := true } ∧ t.mem = s.mem) ∧
  (∀ s, s.cru.run = .bringup → s.cru.stuck = false → s.mss.overwriteDue = false → s.mss.overwriting = false →
    s.msc.booted = true → s.msc.restarting = false → s.upu.ring = [] → ∃ t, exec .engineReady s = .next t ∧
      t.cru = { s.cru with run := .ready } ∧ t.msc.startCause = 0 ∧ t.mem.host = s.mem.host)

/-- The loss of the reference lets the clocks coast and qualifies every candidate; J_REFCLK that qualifies ends the coast,
at start-up lets the links train, and in mode 1 is gone back to; with the holdover lost the GDDR7 devices refresh themselves. A Pod die that leaves
reset trains its link: with success its Pod is up, a failure is counted, and a RESYNC starts the attempt again. A RESYNC of a
link that is up trains it anew. Where a command ends the recovery of the engine, its Ledger restarts in it; in no recovery
nothing more is done. -/
def Obligations.ClocksAndLinks : Prop :=
  (∀ s f, s.cru.locked = true → s.cru.coast = false → ∃ t, exec (.cruRefLost f) s = .next t ∧
    t.cru = { s.cru with locked := false, coast := true, holdover := true, qualifying := true } ∧
    t.mem.host = s.mem.host ∧ t.cfe.tasks = s.cfe.tasks) ∧
  (∀ s, s.cru.stuck = false → s.cru.run = .starting → ∃ t, exec (.refQualified none) s = .next t ∧
    t.cru.run = .linking ∧ t.cru.locked = true ∧ (∀ d ∈ startDies s, linkOf t d = .training) ∧ { t with cru := s.cru } = s) ∧
  (∀ s, s.cru.stuck = false → s.cru.run = .ready → s.cru.coast = true → ∃ t, exec (.refQualified none) s = .next t ∧
    t.cru.locked = true ∧ t.cru.coast = false ∧ t.cru.holdover = false ∧ t.cru.refPort = none ∧ t.mem.host = s.mem.host) ∧
  (∀ s, s.cru.stuck = false → s.cru.run ≠ .starting → s.cru.coast = false → s.cru.locked = true → odGet s odCruRefMode = 1 →
    exec (.refQualified none) s = .next { s with cru := { s.cru with refPort := none, qualifying := false } }) ∧
  (∀ s, s.cru.coast = true → s.cru.holdover = true → ∃ t, exec .cruHoldoverLost s = .next t ∧
    t.mss.selfRefresh = true ∧ t.cru.holdover = false ∧ t.cfe.tasks = s.cfe.tasks ∧ t.mem.host = s.mem.host) ∧
  (∀ s p, folioRuns s = true → s.cru.stuck = false → podMapped s p = true → (getPod s p).inReset = true →
    linkOf s (dieOf s p) = .down → ∃ t, exec (.podResetExit p) s = .next t ∧ linkOf t (dieOf s p) = .training ∧
      (∀ d, d ≠ dieOf s p → linkOf t d = linkOf s d) ∧ { t with cru := s.cru } = s) ∧
  (∀ s d p, linkOf s d = .training → s.cru.stuck = false → s.cru.run = .ready → s.msc.sparing = none →
    s.msc.podMap.getD d 0xFF = p → p < 16 → ∃ t, exec (.d2dTrainingAttempt d 0) s = .next t ∧ t.mem.host = s.mem.host ∧
      (inRecovery s = false → linkOf t d = .up ∧ (getPod t p).up = true ∧ (getPod t p).inReset = false)) ∧
  (∀ s d c, linkOf s d = .training → s.cru.stuck = false → s.cru.run = .ready → 1 ≤ c → c ≤ 3 →
    (tabGet d (0, 0) s.cru.d2dTries).1 < 2 → ∃ t, exec (.d2dTrainingAttempt d c) s = .next t ∧ t.mem.host = s.mem.host ∧
      (inRecovery s = false → tabGet d (0, 0) t.cru.d2dTries = ((tabGet d (0, 0) s.cru.d2dTries).1 + 1, 0) ∧
        linkOf t d = .training ∧ podsBare t = podsBare s)) ∧
  (∀ s d, linkOf s d = .training → s.cru.stuck = false → (tabGet d (0, 0) s.cru.d2dTries).2 < 8 →
    exec (.resync d) s = .next (settle (onCru (fun c => { c with
      d2dTries := tabPut d ((tabGet d (0, 0) c.d2dTries).1, (tabGet d (0, 0) c.d2dTries).2 + 1) c.d2dTries })) s)) ∧
  (∀ s d, linkOf s d = .up → folioRuns s = true → s.cru.stuck = false → exec (.resync d) s =
    .next (settle (onCru (fun c => { c with d2d := tabPut d .training c.d2d, d2dTries := tabDrop d c.d2dTries })) s)) ∧
  (∀ f s, inRecovery s = false → (f s).upu.recovering = s.upu.recovering → settle f s = f s)

/-- A Pod whose reset is commanded, or whose PLL or rail fails, is in reset with nothing in it; Service may retire it at the
next boundary and map a spare die in for it. A Pod that is idle lowers its voltage. What a command does on an engine in recovery may
end that recovery as well. The model's readings: log 74. -/
def Obligations.PodResets : Prop :=
  (∀ s p, podMapped s p = true → ∃ t, exec (.podReset p 1) s = .next t ∧ t.mem.host = s.mem.host ∧
    (inRecovery s = false → podOut (getPod t p))) ∧
  (∀ s p c, podMapped s p = true → (getPod s p).inReset = false → (c = 2 ∨ c = 3) →
    ∃ t, exec (.podReset p c) s = .next t ∧ t.mem.host = s.mem.host ∧ (inRecovery s = false → podOut (getPod t p))) ∧
  (∀ s p, odReady odCruPodReset s → podMapped s p = true → ∃ t, exec (.cruPodReset p .service) s = .next t ∧
    podOut (getPod t p) ∧ t.out.status = osOk ∧ t.mem.host = s.mem.host) ∧
  (∀ s p, s.cru.locked = true → s.cru.coast = false → podMapped s p = true → (getPod s p).inReset = false →
    ∃ t, exec (.podPllUnlock p) s = .next t ∧ t.mem.host = s.mem.host ∧ (inRecovery s = false → podOut (getPod t p))) ∧
  (∀ s p, p < 16 → podIdle (getPod s p) = true →
    exec (.podIdleVoltage p) s = .next (modPod p (fun q => { q with lowVolt := true }) s)) ∧
  (∀ s p, odReady odMscPodRetire s → podMapped s p = true → ∃ t, exec (.mscPodRetire p .service) s = .next t ∧
    getPod t p = { getPod s p with retiring := true } ∧ (∀ q, q ≠ p → getPod t q = getPod s q) ∧ t.cfe = s.cfe ∧
    t.out.status = osOk) ∧
  (∀ s d p, odReady odMscSpareMap s → p < 16 → d ∈ spareDies s → (getPod s p).retired = true → s.msc.sparing = none →
    ∃ t, exec (.mscSpareMap d p .service) s = .next t ∧ t.msc.sparing = some (d, p, false) ∧
      (folioRuns s = true → linkOf t d = .training) ∧ t.pods = s.pods ∧ t.out.status = osOk)

/-- A pressure update takes the readings and the pressure of R413. A fault of the input stage or of an engine rail takes
power good away and contains the engine; one of a mapped Pod's rail resets the Pod. Errors at engine level begin
containment, and so do those at package level, which hold the engine; when the flush ends the engine enters reset, and
Service releases what holds it there. The model's readings: log 79. -/
def Obligations.PowerAndContainment : Prop :=
  (∀ s w i v, s.cru.run ≠ .off → ∃ t, exec (.pressureUpdate w i v) s = .next t ∧
    t.cru.pressure = (nextPressure s.cru.pressure s.cru.below w (powerTarget s (meanOf (v :: s.cru.vinHist.take 99)))).1 ∧
    t.cru.below = (nextPressure s.cru.pressure s.cru.below w (powerTarget s (meanOf (v :: s.cru.vinHist.take 99)))).2 ∧
    t.cru.vin = v ∧ odGet t odPeuVin = v % 2 ^ 32 ∧ odGet t odPeuIin = 10 * i % 2 ^ 32 ∧ t.cfe.tasks = s.cfe.tasks ∧
    t.mem.host = s.mem.host) ∧
  (∀ s mv, s.cru.input = true → ∃ t, exec (.inputCurrentTrip mv) s = .next t ∧ t.cru.input = false ∧
    t.cru.pwrgd = false ∧ t.msc.flushing = true ∧ t.mem.host = s.mem.host) ∧
  (∀ s rail mv, 18 ≤ rail → rail < 23 → s.cru.pwrgd = true → ∃ t, exec (.peuRailFault rail mv) s = .next t ∧
    t.cru.pwrgd = false ∧ t.msc.flushing = true ∧ t.mem.host = s.mem.host) ∧
  (∀ s rail p mv, rail < 18 → s.cru.pwrgd = true → s.msc.podMap.getD rail 0xFF = p → podMapped s p = true →
    (getPod s p).inReset = false → ∃ t, exec (.peuRailFault rail mv) s = .next t ∧ t.mem.host = s.mem.host ∧
      (inRecovery s = false → podOut (getPod t p))) ∧
  (∀ s, s.cru.locked = true → s.cru.coast = false → ∃ t, exec .hubPllUnlock s = .next t ∧ t.msc.flushing = true ∧
    fetching t = false ∧ t.mem.host = s.mem.host) ∧
  (∀ s c sub ev src, running s = true → 12 ≤ c → c ≤ 15 → ∃ t, exec (.engineContainment c sub ev src) s = .next t ∧
    t.msc.flushing = true ∧ fetching t = false ∧ t.mem.host = s.mem.host) ∧
  (∀ s c, running s = true → 16 ≤ c → c ≤ 18 → ∃ t, exec (.packageContainment c) s = .next t ∧ t.msc.flushing = true ∧
    t.msc.packageHeld = true ∧ (c = 18 → t.msc.hubLost = true) ∧ fetching t = false ∧ t.mem.host = s.mem.host) ∧
  (∀ s, s.msc.flushing = true → s.cru.heldWrites = [] → ∃ t, exec .containmentFlushEnd s = .next t ∧
    (t.cru.run = .reset ∨ t.cru.run = .starting) ∧ (s.msc.packageHeld = true → t.cru.run = .reset) ∧
    t.msc.flushing = false ∧ engineCleared s t) ∧
  (∀ s, odReady odMscContainRelease s → s.msc.hubLost = false → ∃ t, exec (.mscContainRelease .service) s = .next t ∧
    t.msc.alert = false ∧ t.msc.packageHeld = false ∧ t.msc.waitRelease = false ∧ (∀ h ∈ t.msc.open_, h.level ≠ 5) ∧
    t.cru.run = (if s.cru.run == .reset && s.cru.rstN && s.cru.pwrgd then .starting else s.cru.run) ∧
    t.out.status = osOk ∧ t.mem = s.mem)

/-! ## Folios, markers and the folio pins (R344, R353 to R361; 4, R116) -/

/-- A folio boundary, an accepted edge of J_FOLIO_IN and a missed tick each begin the next folio: its number is one more, or
on a Registrar one more than the greatest that a member has reported and that is no less than its own; no sync counter
changes. An edge before half a period is ignored and counted. A member with no marker has a degraded folio. An accepted
marker gives the folio its number, which never goes back, and the engine its period; an old one is dropped and counted. A window boundary turns the
ports to the sharing mode that holds. The model's readings: logs 62 and 63. -/
def Obligations.FoliosBegin : Prop :=
  (∀ s, folioRuns s = true → tickInUse s = false → ∃ t, exec .folioBoundary s = .next t ∧
    folio t = (if s.sfp.registrar = true ∧ s.sfp.collId ≠ 0 ∧ folio s ≤ s.sfp.reported then (s.sfp.reported + 1) % 2 ^ 48
      else (folio s + 1) % 2 ^ 48) ∧
    t.fsu.elapsed = 0 ∧ t.fsu.counters = s.fsu.counters ∧ t.fsu.updates = s.fsu.updates ∧ t.mem.host = s.mem.host) ∧
  (∀ s n, folioRuns s = true → tickInUse s = true → periodNow s ≤ 2 * n → 4 * n ≤ 5 * periodNow s →
    ∃ t, exec (.jFolioInEdge n) s = .next t ∧ folio t = (nextFolio s).1 ∧ t.fsu.edgeFolio = (nextFolio s).1 ∧
      t.fsu.missed = 0 ∧ t.fsu.elapsed = 0 ∧ t.fsu.counters = s.fsu.counters ∧ t.mem.host = s.mem.host) ∧
  (∀ s n, folioRuns s = true → tickInUse s = true → 2 * n < periodNow s →
    exec (.jFolioInEdge n) s = .next (odCount odFsuTickIgnored 1 (timePassed n s))) ∧
  (∀ s, folioRuns s = true → tickInUse s = true → ∃ t, exec .tickMissed s = .next t ∧ folio t = (nextFolio s).1 ∧
    t.fsu.missed = s.fsu.missed + 1 ∧ t.fsu.elapsed = 0 ∧ t.fsu.counters = s.fsu.counters ∧ t.mem.host = s.mem.host) ∧
  (∀ s, folioRuns s = true → startsOwn s = false → s.sfp.markedNow = false → ∃ t, exec .noMarker s = .next t ∧
    t.fsu.cause = s.fsu.cause ||| 1 ∧ folio t = folio s ∧ t.fsu.counters = s.fsu.counters ∧ t.cfe.tasks = s.cfe.tasks ∧
    t.mem.host = s.mem.host) ∧
  (∀ s port m e, portUp s port = true → folioRuns s = true → markerFrom s m.toNat = true → markerNew s m.toNat = true →
    ∃ t, exec (.marker port m e) s = .next t ∧ folio t = max (folio s) (mkFolio m.toNat) ∧ t.sfp.marked = true ∧
      t.sfp.markFolio = mkFolio m.toNat ∧
      (400 ≤ mkPeriod m.toNat → mkPeriod m.toNat ≤ 25000 → odGet t odFsuPeriodNow = mkPeriod m.toNat) ∧
      odGet t odFsuAlignErr = ofSigned 32 e ∧ t.fsu.counters = s.fsu.counters ∧ t.cfe.tasks = s.cfe.tasks ∧
      t.mem.host = s.mem.host) ∧
  (∀ s port m e, portUp s port = true → folioRuns s = true → markerFrom s m.toNat = true → markerNew s m.toNat = false →
    s.sfp.markedNow = false → mkTerm m.toNat = odGet s odSfpTerm →
    exec (.marker port m e) s = .next (odCount odSfpMarkerDrops 1 s)) ∧
  (∀ s, folioRuns s = true → ∃ t, exec .arbWindowBoundary s = .next t ∧ odGet t odGauArbState = arbMode s ∧
    t.fsu = s.fsu ∧ t.cfe.tasks = s.cfe.tasks ∧ t.mem.host = s.mem.host)

/-! ## Slot rings and heat (R232, R234, R244, R245) -/

/-- Enabling a slot ring whose size and tier no other ring serves puts its pointers at 0. Slots freed two folios ago leave
quarantine. A heat query gives the estimate summed over the Pods; at a window boundary the counters are halved and the
candidates begin anew. That a window starts with no candidates is the model's choice, log 39. -/
def Obligations.SlotsAndHeat : Prop :=
  (∀ s k v r, k < 8 → odReady (odCatSlotring + k) s → roleOk (odNeed (odCatSlotring + k)) r = true →
    bitOf (slotCtl s k) 76 = false → bitOf v 76 = true → bitsOf v 255 224 = 0 → bitsOf v 127 85 = 0 → bitsOf v 79 77 = 0 →
    10 ≤ srLog v → srLog v ≤ 24 → 32 ≤ srSize v → srTier v < 2 → srBase v % 4096 = 0 →
    ringFor s (srSize v) (srTier v) = none → ∃ t, exec (.catSlotringWrite k v r) s = .next t ∧
      slotCtl t k = setBits (setBits v 223 160 0) 159 128 0 ∧ slotRing t k = {} ∧
      (∀ j, j ≠ k → slotRing t j = slotRing s j ∧ slotCtl t j = slotCtl s j) ∧ t.out.status = osOk ∧ t.mem = s.mem ∧
      t.cfe = s.cfe) ∧
  (∀ s k, k < 8 → gated s 1 = false → s.cat.copyWait = [] → ∃ t, exec (.slotQuarantineEnd k) s = .next t ∧
    slotRing t k = { slotRing s k with
      ret := (slotRing s k).ret.map (fun f => if f.folio + 2 ≤ folio s then { f with ready := true } else f) } ∧
    (∀ j, j ≠ k → slotRing t j = slotRing s j) ∧ { t with cat := s.cat } = s) ∧
  (∀ s key r, odReady odIxuHeatQuery s → roleOk (odNeed odIxuHeatQuery) r = true → key < 2 ^ 56 →
    ∃ t, exec (.ixuHeatQuery key r) s = .next t ∧ odGet t odIxuHeatEstimate = min (2 ^ 32 - 1) (heatSum s key) ∧
      odGet t odIxuHeatQuery = key ∧ t.out.status = osOk ∧ t.pods = s.pods ∧ t.cfe = s.cfe ∧ t.mem = s.mem) ∧
  (∀ s, folio s % odGet s odIxuHeatWindow = 0 → gated s 2 = false → ∃ t, exec .heatWindowBoundary s = .next t ∧
    (∀ p, getPod t p = { getPod s p with
      cand := [], sketch := ((getPod s p).sketch.map (fun c => (c.1, c.2 / 2))).filter (fun c => c.2 != 0) }) ∧
    t.cfe = s.cfe ∧ t.mem = s.mem)

/-! ## Writes of single entries (R106, R113, R155, R208, R345, R375, R407) -/

/-- A write of one of these entries by a role that may write it, with a value that its rule allows, is applied and answered
OK: IXU_HASH_SLOT, GAU_SPROUT_BIND_k, QNT_RESID_k, FSU_NOTIFY_k and SFP_REF_PORT hold the value, and the training entry of
the selected table, in the engine and in GDDR7. CRU_GATE takes EN with the fixed bits set. -/
def Obligations.EntryWrites : Prop :=
  (∀ s v r, odReady odIxuHashSlot s → roleOk .owner r = true → v ≤ 3 → tableLive s (fun t => deHashed (dirAt s t)) = false →
    (∀ p ∈ activePods s, v = 0 ∨ ∃ h ∈ (getPod s p).hashes, h.1 = v) →
    exec (.ixuHashSlotWrite v r) s = .next (odAnswer osOk (odSet odIxuHashSlot v s))) ∧
  (∀ s k v r, k ≤ 8 → odReady (odGauSproutBind + k) s → roleOk .operator r = true → v < 2 ^ 4096 →
    (∀ q < 512, bitsOf v (8 * q + 7) (8 * q) = k ∨ (16 ≤ bitsOf v (8 * q + 7) (8 * q) ∧ bitsOf v (8 * q + 7) (8 * q) ≤ 63)) →
    exec (.gauSproutBindWrite k v r) s = .next (odAnswer osOk (odSet (odGauSproutBind + k) v s))) ∧
  (∀ s k v r, k ≤ 15 → odReady (odQntResid + k) s → roleOk .operator r = true → v < 2 ^ 128 → bitsOf v 63 17 = 0 →
    v / 2 ^ 64 % 64 = 0 →
    (bitOf v 16 = true → ∀ j < 16, j ≠ k → bitOf (odGet s (odQntResid + j)) 16 = true →
      odGet s (odQntResid + j) % 65536 ≠ v % 65536) →
    exec (.qntResidWrite k v r) s = .next (odAnswer osOk (odSet (odQntResid + k) v s))) ∧
  (∀ s k v r, k ≤ 63 → odReady (odFsuNotify + k) s → roleOk .operator r = true → v < 2 ^ 128 → bitsOf v 14 13 = 0 →
    bitsOf v 63 22 = 0 → exec (.fsuNotifyWrite k v r) s = .next (odAnswer osOk (odSet (odFsuNotify + k) v s))) ∧
  (∀ s v r, odReady odSfpRefPort s → roleOk .owner r = true → (v < 8 ∨ v = 0xFF) →
    ∃ t, exec (.sfpRefPortWrite v r) s = .next t ∧ odGet t odSfpRefPort = v ∧ t.out.status = osOk ∧
      (v < 8 → t.sfp.refPort = if portUp s v then some v else none) ∧ t.cfe = s.cfe ∧ t.mem = s.mem) ∧
  (∀ s v r, odReady odUpuTrainEntry s → roleOk .operator r = true → v < 2 ^ 128 → bitsOf v 95 93 = 0 → bitsOf v 88 50 = 0 →
    tableLive s (· == odGet s odUpuTrainSelect) = false → (∀ c ∈ s.mss.chans, c.2.down = false) →
    ∃ t, exec (.upuTrainEntryWrite r v) s = .next t ∧
      tabGet (odGet s odUpuTrainSelect) 0 t.upu.train = BitVec.ofNat 128 v ∧
      (∀ i, i ≠ odGet s odUpuTrainSelect → tabGet i 0 t.upu.train = tabGet i 0 s.upu.train) ∧
      stored (trainAddr s (odGet s odUpuTrainSelect)) (leBytes 16 v) s.mem.gddr t.mem.gddr ∧
      { t.mem with gddr := s.mem.gddr } = s.mem ∧ t.out.status = osOk ∧ t.cfe = s.cfe) ∧
  (∀ s v, windowUp s = true → confidential s = false → s.cru.heldWrites = [] → ∃ t, exec (.cruGateWrite v) s = .next t ∧
    t.cru.gate = BitVec.ofNat 16 (v % 65536 ||| 0xF400) ∧
    (bitOf s.cru.gate.toNat 5 = true → bitOf (v % 65536 ||| 0xF400) 5 = false → t.mss.selfRefresh = true) ∧
    t.cfe = s.cfe ∧ t.mem = s.mem)

/-! ## Partitions and pinned shards of the Stacks (R260, R270, R271, R274 to R277) -/

/-- A write of STK_PART_k that the rules allow sets its fields and keeps INV_BUSY and INV_DONE, but that disabling clears
INV_DONE; one that they do not allow is refused and changes nothing. A write of STK_PIN_k enables or disables an entry, and a
disabled one holds no copy. A load places a shard's rows where its copy
stood, or at the first place that is free; where they do not fit the entry becomes SHORT. An invalidate begins a sweep at set 0;
its end leaves no line of the sets not yet swept in the ways of its partition, with INV_BUSY clear and INV_DONE set. -/
def Obligations.StacksPartitions : Prop :=
  (∀ s k v r, odReady (odStkPart + k) s → roleOk (partRole s k v) r = true → partRefused s k v = false → bitOf v 17 = false →
    partOn (partVal s k) = false → ∃ t, exec (.stkPartWrite k v r) s = .next t ∧
      partVal t k = partFields v + (bitsOf (partVal s k) 33 32) <<< 32 ∧ (∀ j, j ≠ k → partVal t j = partVal s j) ∧
      t.out.status = osOk ∧ t.cfe = s.cfe ∧ t.mem = s.mem) ∧
  (∀ s k v r, odReady (odStkPart + k) s → roleOk (partRole s k v) r = true → partRefused s k v = false → bitOf v 17 = false →
    partOn (partVal s k) = true → partOn v = false → ∃ t, exec (.stkPartWrite k v r) s = .next t ∧
      partVal t k = partFields v + (bitsOf (setBit (partVal s k) 33 false) 33 32) <<< 32 ∧ t.out.status = osOk ∧
      t.cfe.tasks = s.cfe.tasks ∧ t.mem.host = s.mem.host) ∧
  (∀ s k v r, odReady (odStkPart + k) s → roleOk (partRole s k v) r = true → partRefused s k v = true →
    exec (.stkPartWrite k v r) s = .next (odAnswer osRefused s)) ∧
  (∀ s k n r, k < 16 → odReady (odStkPin + k) s → roleOk .operator r = true → n < 65536 → pinOn (pinVal s k) = false →
    pinPartOn s = true → (∀ j < 16, j ≠ k → pinOn (pinVal s j) = true → pinTable (pinVal s j) ≠ n) →
    exec (.stkPinWrite k (n + 2 ^ 16) r) s = .next (odAnswer osOk (odSet (odStkPin + k) (n + 2 ^ 16) s))) ∧
  (∀ s k r, k < 16 → odReady (odStkPin + k) s → roleOk .operator r = true → pinOn (pinVal s k) = true →
    ∃ t, exec (.stkPinWrite k (pinTable (pinVal s k)) r) s = .next t ∧ pinVal t k = pinTable (pinVal s k) ∧
      t.stk = { s.stk with
        pinned := s.stk.pinned.filter (fun c => c.k != k), short := s.stk.short.filter (· != k) } ∧
      t.out.status = osOk ∧ t.cfe = s.cfe ∧ t.mem = s.mem) ∧
  (∀ s k idx a, k < 16 → pinOn (pinVal s k) = true → idx ∈ pinShards s k → pinComplete s idx = false → gated s 4 = false →
    pinBlocked s idx = false → pinSharesFit s (sumOf (·.lines) (pinOthers s idx) + shardPinLines s idx) = true →
    ((pinnedCopy s idx).map (·.first) = some a ∨ pinnedCopy s idx = none ∧
      firstFit (pinRoom s) (shardPinLines s idx) ((pinOthers s idx).map (fun c => (c.first, c.lines))) = some a) →
    ∃ t, exec (.pinShardLoad k idx) s = .next t ∧
      t.stk = { s.stk with
        pinned := pinOthers s idx ++
          [{ k := k, idx := idx, first := a, lines := shardPinLines s idx, rows := pinRows s idx, homes := pinHomes s idx }] } ∧
      t.cfe = s.cfe ∧ t.mem = s.mem) ∧
  (∀ s k idx, k < 16 → pinOn (pinVal s k) = true → idx ∈ pinShards s k → pinComplete s idx = false → gated s 4 = false →
    pinBlocked s idx = false → (pinSharesFit s (sumOf (·.lines) (pinOthers s idx) + shardPinLines s idx) = false ∨
      pinnedCopy s idx = none ∧
        firstFit (pinRoom s) (shardPinLines s idx) ((pinOthers s idx).map (fun c => (c.first, c.lines))) = none) →
    ∃ t, exec (.pinShardLoad k idx) s = .next t ∧ k ∈ t.stk.short ∧
      t.stk.pinned.map (·.idx) = s.stk.pinned.map (·.idx) ∧ t.cfe.tasks = s.cfe.tasks ∧ t.mem.host = s.mem.host) ∧
  (∀ s k r, odReady (odStkPart + k) s → roleOk .owner r = true →
    partRefused s k (partFields (partVal s k) + 2 ^ 17) = false → ∃ t, exec (.invalidate k r) s = .next t ∧
      bitOf (partVal t k) 32 = true ∧ t.stk = { s.stk with sweeps := tabPut k 0 s.stk.sweeps } ∧ t.pods = s.pods ∧
      t.out.status = osOk ∧ t.cfe = s.cfe ∧ t.mem = s.mem) ∧
  (∀ s k p, tabFind k s.stk.sweeps = some p → ∃ t, exec (.invalidateDone k) s = .next t ∧
    partVal t k = setBits (partVal s k) 33 32 2 ∧ tabFind k t.stk.sweeps = none ∧ (∀ j, j ≠ k → partVal t j = partVal s j) ∧
    (∀ q l, l ∈ (getSlice t q).lines ↔ l ∈ (getSlice s q).lines ∧
      (bitOf (partVal s k % 65536) (l.1 / 8192) = false ∨ l.1 % 8192 < p)) ∧
    { t with od := s.od, stk := s.stk, pods := s.pods } = s)

/-! ## Registers and resets by register (R139, R429, R453, R458) -/

/-- ENG_RESET with its key puts the engine through an engine reset; another value does nothing. CLEAR empties the error
records while no handling is open. A register write of a width or an alignment that its region does not take is dropped, and
one of CFE_Q_RING_BASE sets the base of a DISABLED queue. A write of the tile window stores in a free tile, and is dropped
and counted in one that a group or a bag holds. The model's readings: log 86. -/
def Obligations.HostRegisters : Prop :=
  (∀ s key, windowUp s = true → key % 65536 = 0xA5C3 → modeChanging s = false → s.msc.packageHeld = false →
    s.cru.rstN = true → s.cru.heldWrites = [] → ∃ t, exec (.engReset key) s = .next t ∧
      (t.cru.run = .reset ∨ t.cru.run = .starting) ∧ engineCleared s t) ∧
  (∀ s key, key % 65536 ≠ 0xA5C3 → exec (.engReset key) s = .next s) ∧
  (∀ s, windowUp s = true → openLevel s = 0 → s.msc.startCause = 0 → exec .errClear s =
    .next { s with msc := { s.msc with primary := {}, secondary := {}, unrecorded := 0, alert := false } }) ∧
  (∀ s off width v, off < 0x400000 → (width ≠ 4 ∧ width ≠ 8) ∨ off % width ≠ 0 → exec (.mmioRegisterWrite off width v) s = .next s) ∧
  (∀ s q v, q < 512 → regOn s 0 = true → (getQ s q).state = .disabled →
    ∃ t, exec (.mmioRegisterWrite (0x100000 + 0x1000 * q + 0x48) 8 v) s = .next t ∧
      getQ t q = { getQ s q with ringBase := setBits (v % 2 ^ 64) 59 57 0 } ∧ onlyQueue q s t) ∧
  (∀ s off width v pod kind tile b, (width = 4 ∨ width = 8) → off % width = 0 → windowUp s = true → confidential s = false →
    windowTile off = some (pod, kind, tile, b) → gated s (tileSub kind) = false → windowOpen s pod kind tile = true →
    ∃ t, exec (.tileWindowWrite off width v) s = .next t ∧
      stored (tileKey (awAddr (tileWord pod kind tile + b))) (leBytes width v) s.mem.tiles t.mem.tiles ∧
      { t.mem with tiles := s.mem.tiles } = s.mem ∧ { t with mem := s.mem } = s) ∧
  (∀ s off width v pod kind tile b, (width = 4 ∨ width = 8) → off % width = 0 → windowUp s = true → confidential s = false →
    windowTile off = some (pod, kind, tile, b) → gated s (tileSub kind) = false → windowOpen s pod kind tile = false →
    exec (.tileWindowWrite off width v) s = .next (odCount odPluWindowDrops 1 s))

/-! ## Management (R379 to R383, R388, R451) -/

/-- A read answers the bytes asked for, and NO_ENTRY where no entry has the number. A segment that is not the last is
staged, and nothing else changes. A whole value that the checks of R451 turn away is answered with the first that fails and
changes no entry; one of an entry without rules of its own, within its bounds, is applied. SPDM answers from the
measurements. A client whose chain an anchor validates gets a session; a session without messages closes. The model's
choices: logs 81 and 82. -/
def Obligations.ManagementMessages : Prop :=
  (∀ s ss r i j off len e, sessionOk s ss r = true → len ≤ 1024 → off < 2 ^ 32 → odNamed i j = some e →
    ∃ t, exec (.garwaRead ss r i j off len) s = .next t ∧ t.out.read = odRead s e off len ∧ t.out.status = osOk ∧
      t.od = s.od ∧ t.cfe = s.cfe ∧ t.mem = s.mem) ∧
  (∀ s ss r i j off len, sessionOk s ss r = true → len ≤ 1024 → off < 2 ^ 32 → i < 65536 → j < 256 → odNamed i j = none →
    ∃ t, exec (.garwaRead ss r i j off len) s = .next t ∧ t.out.read = [] ∧ t.out.status = osNoEntry ∧ t.od = s.od) ∧
  (∀ s ss r i j off bs e, sessionOk s ss r = true → bs.length ≤ 1024 → off < 2 ^ 32 → odNamed i j = some e →
    off = (stagedBytes s e.key ss).length →
    writeBlock s ss r e false off bs.length (leNat (stagedBytes s e.key ss ++ bs)) = none →
    ∃ t, exec (.garwaWriteSegment ss r i j off bs) s = .next t ∧ stagedBytes t e.key ss = stagedBytes s e.key ss ++ bs ∧
      t.out.status = osOk ∧ t.od = s.od ∧ t.cfe = s.cfe ∧ t.mem = s.mem) ∧
  (∀ s ss r i j off bs e st, sessionOk s ss r = true → bs.length ≤ 1024 → off < 2 ^ 32 → odNamed i j = some e →
    writeBlock s ss r e true off bs.length (leNat (stagedBytes s e.key ss ++ bs)) = some st →
    ∃ t, exec (.odWrite ss r i j off bs) s = .next t ∧ t.out.status = st ∧ t.od = s.od ∧ t.cfe = s.cfe ∧ t.mem = s.mem) ∧
  (∀ s ss r i j bs e, sessionOk s ss r = true → bs.length ≤ 1024 → odNamed i j = some e →
    e.key ∈ [odFsuPeriod, odCatHotReads, odMscFlushTime] → e.varLen = false → bs.length = e.size → stagedBytes s e.key ss = [] →
    writeBlock s ss r e true 0 bs.length (leNat bs) = none → gated s (odSub e.key) = false → scalarOk e (leNat bs) = true →
    ∃ t, exec (.odWrite ss r i j 0 bs) s = .next t ∧ odGet t e.key = leNat bs ∧
      (∀ k, k ≠ e.key → odGet t k = odGet s k) ∧ t.out.status = osOk ∧ t.cfe = s.cfe ∧ t.mem = s.mem) ∧
  (∀ s i j, i < 65536 → j < 256 → ∃ t, exec (.stagedValueDiscard i j) s = .next t ∧
    t.msc.staged = s.msc.staged.filter (fun x => x.key != 256 * i + j) ∧ { t with msc := s.msc } = s) ∧
  (∀ s ss m, sessionOk s ss (((s.msc.sessions.find? (fun x => x.1 == ss)).map (·.2)).getD .operator) = true → m.length ≤ 1024 →
    ∃ t, exec (.spdm ss m) s = .next t ∧ t.out.read = spdmReply s m ∧
      t.out.status = osOk ∧ t.od = s.od ∧ t.cfe = s.cfe ∧ t.mem = s.mem) ∧
  (∀ s chain peer r, s.cru.run ≠ .off → s.msc.restarting = false → s.msc.booted = true → chainRole s chain = some r →
    s.msc.sessions.length < 8 → exec (.dtlsHandshake chain peer) s = .next { s with msc := { s.msc with
      nextSession := s.msc.nextSession + 1, sessions := s.msc.sessions ++ [(s.msc.nextSession + 1, r)] } }) ∧
  (∀ s chain peer, chainRole s chain = none → ∃ t, exec (.dtlsHandshake chain peer) s = .next t ∧
    t.msc.sessions = s.msc.sessions ∧ t.cfe.tasks = s.cfe.tasks ∧ t.mem.host = s.mem.host) ∧
  (∀ s ss, ∃ t, exec (.sessionIdleClose ss) s = .next t ∧ (∀ x ∈ t.msc.sessions, x.1 ≠ ss) ∧
    (∀ x ∈ s.msc.sessions, x.1 ≠ ss → x ∈ t.msc.sessions) ∧ { t with msc := s.msc } = s)

/-! ## Keys, modes of security and firmware (R386, R387, R389 to R396) -/

/-- A request for the other mode or a job end, in an engine that meets every condition of R393, erases every link key and every
table key, makes an overwrite of GDDR7 due and resets the whole engine; entry takes debug away, and a request for the mode that
holds changes nothing. One unmet condition refuses each of the three. A KIND 1 envelope that opens installs its secret in its
slot, and not in the slot that sends; a KIND 2 one binds its table, or replaces its key, up to 256 tables; one that does not
open is refused with its event. Unbinding erases the table's key and no other. The model's readings: log 83. -/
def Obligations.SecurityModes : Prop :=
  (∀ s r, odReady odSecModeReq s → roleOk .owner r = true → secQuiet s = true → partnerQuiet s = true → s.msc.mode = .open →
    s.cru.heldWrites = [] → ∃ t, exec (.secModeReqEnter r) s = .next t ∧ t.msc.mode = .entering ∧ t.msc.step = .enter ∧
      t.msc.debug = false ∧ keysErased t ∧ t.mss.overwriteDue = true ∧ engineCleared s t ∧ t.out.status = osOk) ∧
  (∀ s r, odReady odSecModeReq s → roleOk .owner r = true → secQuiet s = true → partnerQuiet s = true →
    s.msc.mode = .confidential → s.cru.heldWrites = [] → ∃ t, exec (.secModeReqExit r) s = .next t ∧
      t.msc.mode = .exiting ∧ t.msc.step = .exit ∧ keysErased t ∧ t.mss.overwriteDue = true ∧ engineCleared s t ∧
      t.out.status = osOk) ∧
  (∀ s r, odReady odSecJobEnd s → roleOk .owner r = true → secQuiet s = true → partnerQuiet s = true → s.cru.heldWrites = [] →
    ∃ t, exec (.secJobEnd r) s = .next t ∧ t.msc.mode = s.msc.mode ∧ t.msc.step = .jobEnd ∧ keysErased t ∧
      t.mss.overwriteDue = true ∧ engineCleared s t ∧ t.out.status = osOk) ∧
  (∀ s r, odReady odSecModeReq s → roleOk .owner r = true → secQuiet s = true → partnerQuiet s = true →
    (s.msc.mode = .confidential → exec (.secModeReqEnter r) s = .next (odAnswer osOk s)) ∧
    (s.msc.mode = .open → exec (.secModeReqExit r) s = .next (odAnswer osOk s))) ∧
  (∀ s r, roleOk .owner r = true → ((∃ q ∈ s.cfe.queues, q.2.state ≠ .disabled) ∨ ledgerOwes s = true ∨
      (∃ p < 16, (getPod s p).groups ≠ []) ∨ (∃ i ∈ liveDescs s, 2 ≤ sdState (descAt s i)) ∨ s.mss.overwriteDue = true ∨
      s.mss.overwriting = true ∨ s.msc.step ≠ .idle ∨ partnerQuiet s = false) →
    (odReady odSecModeReq s → exec (.secModeReqEnter r) s = .next (odAnswer osRefused s) ∧
      exec (.secModeReqExit r) s = .next (odAnswer osRefused s)) ∧
    (odReady odSecJobEnd s → exec (.secJobEnd r) s = .next (odAnswer osRefused s))) ∧
  (∀ s r bs z, odReady odSecJobEnvelope s → roleOk .owner r = true → envOk 1 bs = true → s.sfp.sending ≠ some (envName bs) →
    envOpen bs = .ok z → ∃ t, exec (.secJobEnvelope r bs) s = .next t ∧
      getKey t (envName bs) = { secret := some z, gen := leNat (sliceBytes 10 4 bs) } ∧
      (∀ k, k ≠ envName bs → getKey t k = getKey s k) ∧ t.out.status = osOk ∧ t.cfe = s.cfe ∧ t.mem = s.mem ∧
      t.msc = s.msc) ∧
  (∀ s r bs, odReady odSecJobEnvelope s → roleOk .owner r = true →
    ((envOk 1 bs = false ∨ s.sfp.sending = some (envName bs)) →
      exec (.secJobEnvelope r bs) s = .next (odAnswer osRefused s)) ∧
    (∀ c, envOk 1 bs = true → s.sfp.sending ≠ some (envName bs) → envOpen bs = .error c →
      exec (.secJobEnvelope r bs) s = .next (odAnswer osRefused (post0 evMscEnvelopeRefused (envName bs) c s)))) ∧
  (∀ s r bs z, odReady odSecTableEnvelope s → roleOk .owner r = true → envOk 2 bs = true → envOpen bs = .ok z →
    (s.msc.tableKeys.length < 256 ∨ (tabFind (envName bs) s.msc.tableKeys).isSome = true) →
    ∃ t, exec (.secTableEnvelope r bs) s = .next t ∧ tabFind (envName bs) t.msc.tableKeys = some z ∧
      (∀ k, k ≠ envName bs → tabFind k t.msc.tableKeys = tabFind k s.msc.tableKeys) ∧ t.out.status = osOk ∧
      { t with msc := { t.msc with tableKeys := s.msc.tableKeys }, out := s.out } = s) ∧
  (∀ s r bs, odReady odSecTableEnvelope s → roleOk .owner r = true →
    (envOk 2 bs = false → exec (.secTableEnvelope r bs) s = .next (odAnswer osRefused s)) ∧
    (∀ c, envOk 2 bs = true → envOpen bs = .error c → exec (.secTableEnvelope r bs) s =
      .next (odAnswer osRefused (post0 evMscEnvelopeRefused (envName bs) c s))) ∧
    (∀ z, envOk 2 bs = true → envOpen bs = .ok z → 256 ≤ s.msc.tableKeys.length →
      tabFind (envName bs) s.msc.tableKeys = none → exec (.secTableEnvelope r bs) s =
        .next (odAnswer osRefused (post0 evMscEnvelopeRefused (envName bs) 3 s)))) ∧
  (∀ s r n, odReady odSecTableUnbind s → roleOk .owner r = true → n < 65536 → ∃ t, exec (.secTableUnbind r n) s = .next t ∧
    tabFind n t.msc.tableKeys = none ∧ (∀ k, k ≠ n → tabFind k t.msc.tableKeys = tabFind k s.msc.tableKeys) ∧
    t.out.status = osOk ∧ { t with msc := { t.msc with tableKeys := s.msc.tableKeys }, out := s.out } = s)

/-- An image that is signed and no older than the fuses goes into the inactive slot; another is refused. A switch is carried
out by a restart from the other slot, which closes every session; firmware that stays unhealthy falls back. A commit burns
the fuses up to the active image's number, and never down. The MSC boots the active slot when it passes, and the mailbox is
free again once a restart is done. The model's choices: log 8. -/
def Obligations.Firmware : Prop :=
  (∀ s r bs, odReady odMscFwImage s → roleOk .service r = true → Config.fwSigned bs = true → s.msc.svn ≤ Config.fwSvn bs →
    bs.length ≤ 4194304 → ∃ t, exec (.mscFwImage r bs) s = .next t ∧
      fwSlot t (1 - fwActive s) = { version := Config.fwVersion bs, svn := Config.fwSvn bs, passes := true, image := bs } ∧
      (fwActive s ≤ 1 → fwSlot t (fwActive s) = fwSlot s (fwActive s)) ∧ fwActive t = fwActive s ∧ t.out.status = osOk ∧
      t.cfe = s.cfe ∧ t.mem = s.mem) ∧
  (∀ s r bs, odReady odMscFwImage s → roleOk .service r = true → (Config.fwSigned bs = false ∨ Config.fwSvn bs < s.msc.svn) →
    exec (.mscFwImage r bs) s = .next (odAnswer osRefused s)) ∧
  (∀ s r, odReady odMscFwSwitch s → roleOk .service r = true → exec (.mscFwSwitch r) s =
    .next (odAnswer osOk { s with msc := { s.msc with fwPending := true } })) ∧
  (∀ s, s.msc.fwPending = true → s.msc.restarting = false → ∃ t, exec .fwRestart s = .next t ∧ fwActive t = 1 - fwActive s ∧
    t.msc.restarting = true ∧ t.msc.sessions = [] ∧ t.msc.staged = [] ∧ t.msc.fwPending = false ∧ t.msc.unhealthy = true ∧
    t.cfe.tasks = s.cfe.tasks ∧ t.mem.host = s.mem.host) ∧
  (∀ s, s.msc.unhealthy = true → ∃ t, exec .fwHealthTimeout s = .next t ∧ fwActive t = 1 - fwActive s ∧
    t.msc.restarting = true ∧ t.msc.sessions = [] ∧ t.msc.unhealthy = false ∧ t.cfe.tasks = s.cfe.tasks ∧
    t.mem.host = s.mem.host) ∧
  (∀ s, s.msc.restarting = true → ∃ t, exec .mscRestartDone s = .next t ∧ t.msc.restarting = false ∧ t.msc.mbBusy = false ∧
    t.cfe.tasks = s.cfe.tasks ∧ t.mem.host = s.mem.host) ∧
  (∀ s r, odReady odMscFwCommit s → roleOk .service r = true → ∃ t, exec (.mscFwCommit r) s = .next t ∧
    t.msc.svn = max s.msc.svn (min 64 (fwSlot s (fwActive s)).svn) ∧ t.out.status = osOk ∧ t.cfe = s.cfe ∧ t.mem = s.mem) ∧
  (∀ s, s.cru.run ≠ .off → s.msc.booted = false → slotFault s (fwActive s) = 0 →
    exec .mscBoot s = .next { s with msc := { s.msc with booted := true } }) ∧
  (∀ s, s.cru.run ≠ .off → s.msc.booted = false → slotFault s (fwActive s) ≠ 0 → slotFault s (1 - fwActive s) ≠ 0 →
    ∃ t, exec .mscBoot s = .next t ∧ t.msc.startCause = 2 ∧ t.msc.alert = true ∧ t.msc.booted = false ∧ t.cru.stuck = true ∧
      t.mem = s.mem)

/-! ## TABLE_CTL (R51, R54, R72, R462) -/

/-- An admitted TABLE_CTL whose turn has come: WRITE_DIR replaces the directory entry, WRITE_DESC the descriptor but for the
fields that the engine maintains, and SET_STATE its STATE; READ_DESC and READ_DIR write what they read at DATA_ADDR. The
task finishes. One that its checks refuse ends with CTL_REFUSED. The model's readings: logs 27 and 28. -/
def Obligations.TableControl : Prop :=
  (∀ s n k v, ctlTask s n 1 = some k → ctlTurn s k = true → ctlData s k.desc 16 = .inr v →
    writeDirOk s (tcTable k.desc) (BitVec.ofNat 128 v) = true → ∃ t, exec (.writeDir n) s = .next t ∧
      dirAt t (tcTable k.desc) = BitVec.ofNat 128 v ∧ (∀ j, j ≠ tcTable k.desc → dirAt t j = dirAt s j) ∧
      getTask t n = some (finishedTask (folio s) k) ∧ t.mem.host = s.mem.host) ∧
  (∀ s n k v, ctlTask s n 2 = some k → ctlTurn s k = true → ctlData s k.desc 64 = .inr v → chansUp s →
    inRange (dirAt s (tcTable k.desc)) (tcIndex k.desc) = true →
    writeDescOk s (tcTable k.desc) (tcIndex k.desc) (BitVec.ofNat 512 v) = true →
    overlaps (descAddr s (tcIndex k.desc)) 64 (statsAddr s (tcIndex k.desc)) 16 = false →
    ∃ t, exec (.writeDesc n) s = .next t ∧
      descAt t (tcIndex k.desc) = withHeld (descAt s (tcIndex k.desc)) (BitVec.ofNat 512 v) ∧
      gddrLoad t (statsAddr s (tcIndex k.desc)) 16 = List.replicate 16 0 ∧
      getTask t n = some (finishedTask (folio s) k) ∧ t.cat.dir = s.cat.dir ∧ t.mem.host = s.mem.host) ∧
  (∀ s n k, ctlTask s n 3 = some k → ctlTurn s k = true → chansUp s →
    setStateOk s (tcTable k.desc) (tcIndex k.desc) (tcState k.desc) = true → ∃ t, exec (.setState n) s = .next t ∧
      descAt t (tcIndex k.desc) = sdSet (descAt s (tcIndex k.desc)) 45 44 (tcState k.desc) ∧
      (tcState k.desc = 0 → ∀ c ∈ t.stk.pinned, c.idx ≠ tcIndex k.desc) ∧
      getTask t n = some (finishedTask (folio s) k) ∧ t.cat.dir = s.cat.dir ∧ t.mem.host = s.mem.host) ∧
  (∀ s n k, ctlTask s n 4 = some k → ctlTurn s k = true → chansUp s → readDescOk s (tcTable k.desc) (tcIndex k.desc) = true →
    accessFlt s (tcAddr k.desc) 64 = none → ∃ t, exec (.readDesc n) s = .next t ∧
      storedAt (tcAddr k.desc) (leBytes 64 (descAt s (tcIndex k.desc)).toNat) (some n) s t ∧
      getTask t n = some (finishedTask (folio s) k) ∧ t.cat.dir = s.cat.dir ∧ t.cat.cache = s.cat.cache) ∧
  (∀ s n k, ctlTask s n 5 = some k → ctlTurn s k = true → chansUp s → accessFlt s (tcAddr k.desc) 16 = none →
    ∃ t, exec (.readDir n) s = .next t ∧
      storedAt (tcAddr k.desc) (leBytes 16 (dirAt s (tcTable k.desc)).toNat) (some n) s t ∧
      getTask t n = some (finishedTask (folio s) k) ∧ t.cat.dir = s.cat.dir ∧ t.cat.cache = s.cat.cache) ∧
  (∀ s n k v, ctlTask s n 1 = some k → ctlTurn s k = true → ctlData s k.desc 16 = .inr v → canEnd k = true →
    writeDirOk s (tcTable k.desc) (BitVec.ofNat 128 v) = false → ∃ t, exec (.writeDir n) s = .next t ∧
      endedAs n k stCtlRefused 0 0 s t ∧ t.cat.dir = s.cat.dir) ∧
  (∀ s n k, ctlTask s n 3 = some k → ctlTurn s k = true → canEnd k = true →
    setStateOk s (tcTable k.desc) (tcIndex k.desc) (tcState k.desc) = false → ∃ t, exec (.setState n) s = .next t ∧
      endedAs n k stCtlRefused 0 0 s t ∧ t.cat.dir = s.cat.dir) ∧
  (∀ s n k, ctlTask s n 4 = some k → ctlTurn s k = true → canEnd k = true →
    readDescOk s (tcTable k.desc) (tcIndex k.desc) = false → ∃ t, exec (.readDesc n) s = .next t ∧
      endedAs n k stCtlRefused 0 0 s t ∧ t.cat.dir = s.cat.dir)

/-! ## RELOCATE (R236, R237, R239, R246, R248 to R250, R254) -/

/-- MOVE_SHARD of a direct shard, or to another engine, makes the shard RELOCATING with ALT_BASE its new base and copies
every position, to another engine a row of a direct shard in one COPY transfer that names its new place; SHARD_SWITCH then
switches the shard, once it is copied with its mirror and no parcel is being applied, to its new home or place, drops its
pinned copy, finishes the task, and reports a change of home to the new home and to the Registrar. A MOVE_SHARD that its
conditions turn away ends with CTL_REFUSED. -/
def Obligations.ShardMoves : Prop :=
  (∀ s n k, relocTask s n 0 = some k → relocOk s k.desc = true → moveOf s (rlIndex s k.desc) = none → k.copyPos = 0 →
    (∀ o ∈ s.cat.owed, o.1 ≠ rlIndex s k.desc) → (cached s (rlIndex s k.desc)).isSome = true → (rlEngine k.desc = s.sfp.engineId →
      sdShelved (sdSet (sdSet (descAt s (rlIndex s k.desc)) 45 44 3) 241 192 (rlBase k.desc)) = false) →
    ∃ t, exec (.moveShard n) s = .next t ∧
      descAt t (rlIndex s k.desc) = sdSet (sdSet (descAt s (rlIndex s k.desc)) 45 44 3) 241 192 (rlBase k.desc) ∧
      moveOf t (rlIndex s k.desc) = some (n, rlEngine k.desc == s.sfp.engineId, false) ∧
      getTask t n = some { k with
        copyPos := shardRows (dirAt s (dTable k.desc)) (sdShard (descAt s (rlIndex s k.desc))) } ∧
      t.mem.host = s.mem.host) ∧
  (∀ s n k x row, relocTask s n 0 = some k → relocOk s k.desc = true → moveOf s (rlIndex s k.desc) = none → k.copyPos = 0 →
    (∀ o ∈ s.cat.owed, o.1 ≠ rlIndex s k.desc) → (cached s (rlIndex s k.desc)).isSome = true →
    rlEngine k.desc ≠ s.sfp.engineId → x = sdSet (sdSet (descAt s (rlIndex s k.desc)) 45 44 3) 241 192 (rlBase k.desc) →
    shardRows (dirAt s (dTable k.desc)) (sdShard (descAt s (rlIndex s k.desc))) = 1 → sdShelved x = false →
    compSize (tabGet (sdTable x) 0 s.upu.train) (sdDim x) = 0 → row = tierLoad s (sdTier x) (rowAddr x (sdBase x) 0) (rowS x) →
    (sdTier x = 0 → overlaps (rowAddr x (sdBase x) 0) (rowS x) (descAddr s (rlIndex s k.desc)) 64 = false) →
    rowEscapes x row = 0 → cellRoom s (rlEngine k.desc) (cellsFor (8 + row.length)) → ∃ t, exec (.moveShard n) s = .next t ∧
      sentOne ctCopy (rlEngine k.desc) (copyWord (rlTier k.desc) (rowAddr x (rlBase k.desc) 0) :: row.map (·.toNat)) s t) ∧
  (∀ s n k, relocTask s n 0 = some k → moveOf s (rlIndex s k.desc) = some (n, true, false) →
    (∀ o ∈ s.cat.owed, o.1 ≠ rlIndex s k.desc) → mirrorAcked s (rlIndex s k.desc) true = true →
    shardRows (dirAt s (dTable k.desc)) (sdShard (descAt s (rlIndex s k.desc))) ≤ k.copyPos → s.upu.applying = none →
    shardHolders s (dTable k.desc) (sdShard (descAt s (rlIndex s k.desc))) = [] → (cached s (rlIndex s k.desc)).isSome = true →
    ∃ t, exec (.shardSwitch n) s = .next t ∧
      descAt t (rlIndex s k.desc) = switchedDesc (descAt s (rlIndex s k.desc)) k.desc true ∧
      moveOf t (rlIndex s k.desc) = some (n, true, true) ∧ (∀ c ∈ t.stk.pinned, c.idx ≠ rlIndex s k.desc) ∧
      getTask t n = some (finishedTask (folio s) k) ∧ t.sfp = s.sfp ∧ t.mem.host = s.mem.host) ∧
  (∀ s n k, relocTask s n 0 = some k → moveOf s (rlIndex s k.desc) = some (n, false, false) →
    (∀ o ∈ s.cat.owed, o.1 ≠ rlIndex s k.desc) → mirrorAcked s (rlIndex s k.desc) false = true →
    (s.sfp.registrar = true → (firstDeputy s).isSome = true) →
    shardRows (dirAt s (dTable k.desc)) (sdShard (descAt s (rlIndex s k.desc))) ≤ k.copyPos → s.upu.applying = none →
    shardHolders s (dTable k.desc) (sdShard (descAt s (rlIndex s k.desc))) = [] → (cached s (rlIndex s k.desc)).isSome = true →
    ∃ t z, exec (.shardSwitch n) s = .next t ∧
      descAt t (rlIndex s k.desc) = switchedDesc (descAt s (rlIndex s k.desc)) k.desc false ∧
      z = sdSet (sdSet (switchedDesc (descAt s (rlIndex s k.desc)) k.desc false) 45 44 1) 241 192 0 ∧
      { dst := rlEngine k.desc, mseq := nextCtl s (rlEngine k.desc), type := ctControl, task := none,
        payload := [1, rlEpoch k.desc, rlIndex s k.desc, z.toNat] } ∈ t.sfp.ctlOut ∧
      (s.sfp.registrar = true → t.sfp.mapPending = s.sfp.mapPending ++ [(rlIndex s k.desc, z)]) ∧
      (s.sfp.registrar = false → odGet s odSfpRegistrar < 1024 → odGet s odSfpRegistrar ≠ s.sfp.engineId → ∃ m, {
        dst := odGet s odSfpRegistrar, mseq := m, type := ctControl, task := none,
        payload := [1, rlEpoch k.desc, rlIndex s k.desc, z.toNat] } ∈ t.sfp.ctlOut) ∧
      moveOf t (rlIndex s k.desc) = some (n, false, true) ∧ (∀ c ∈ t.stk.pinned, c.idx ≠ rlIndex s k.desc) ∧
      getTask t n = some (finishedTask (folio s) k) ∧ t.mem.host = s.mem.host) ∧
  (∀ s n k, relocTask s n 0 = some k → relocOk s k.desc = false → (∀ m ∈ moveOf s (rlIndex s k.desc), m.1 ≠ n) →
    canEnd k = true → ∃ t, exec (.moveShard n) s = .next t ∧ endedAs n k stCtlRefused 0 0 s t ∧ t.cat.dir = s.cat.dir)

/-- MOVE_ROW copies the row to NEW_BASE or to a fresh slot of the new tier and keeps the shelfmark that it read;
MOVE_ROW_COMMIT commits the new shelfmark where the current one is still what was read and the copy has ended, and the old
slot goes into its return ring; else it ends the task with CTL_REFUSED. REPLICATE_ROW holds a row of this engine as a replica, or asks its home for it; DROP_REPLICA drops it. -/
def Obligations.RowMoves : Prop :=
  (∀ s n k m, relocTask s n 1 = some k → k.copyPos = 0 → relocOk s k.desc = true → rlBase k.desc ≠ 0 → chansUp s →
    m = shelfmark s (descAt s (rlIndex s k.desc)) (posOf (dirAt s (dTable k.desc)) (rlRow k.desc)) →
    ∃ t, exec (.moveRow n) s = .next t ∧
      storedTier (rlTier k.desc) (32 * rlBase k.desc)
        (tierLoad s (smTier m) (32 * smLoc m) (rowS (descAt s (rlIndex s k.desc)))) s t ∧
      getTask t n = some { k with copyPos := 1 + folio s, moveMark := m, moveSlot := rlBase k.desc } ∧ t.cat = s.cat) ∧
  (∀ s n k m r loc f, relocTask s n 1 = some k → k.copyPos = 0 → relocOk s k.desc = true → rlBase k.desc = 0 → chansUp s →
    m = shelfmark s (descAt s (rlIndex s k.desc)) (posOf (dirAt s (dTable k.desc)) (rlRow k.desc)) →
    ringFor s (rowS (descAt s (rlIndex s k.desc))) (rlTier k.desc) = some r → nextSlot s r = some (loc, f) →
    ∃ t, exec (.moveRow n) s = .next t ∧
      storedTier (rlTier k.desc) (32 * loc)
        (tierLoad s (smTier m) (32 * smLoc m) (rowS (descAt s (rlIndex s k.desc)))) s t ∧
      getTask t n = some { k with copyPos := 1 + folio s, moveMark := m, moveSlot := loc } ∧
      t.cat = (takeSlot r f s).cat) ∧
  (∀ s n k x m, relocTask s n 1 = some k → k.copyPos ≠ 0 → x = descAt s (rlIndex s k.desc) →
    m = shelfmark s x (posOf (dirAt s (dTable k.desc)) (rlRow k.desc)) → smAccession m = smAccession k.moveMark →
    smLoc m = smLoc k.moveMark → folio s ≤ k.copyPos →
    (rlTier k.desc = 1 → hostPending s (32 * k.moveSlot) (rowS x) = false) → twinOpen s = false → chansUp s →
    ringFor s (rowS x) (smTier m) = none →
    ∃ t, exec (.moveRowCommit n) s = .next t ∧
      storedTier (sdTier x) (rowAddr x (sdBase x) (posOf (dirAt s (dTable k.desc)) (rlRow k.desc)))
        (leBytes 8 (smMake (rlTier k.desc) ((smAccession m + 1) % 4096) k.moveSlot)) s t ∧
      getTask t n = some (finishedTask (folio s) k) ∧ { t.cat with replicas := s.cat.replicas } = s.cat) ∧
  (∀ s n k x m r, relocTask s n 1 = some k → k.copyPos ≠ 0 → x = descAt s (rlIndex s k.desc) →
    m = shelfmark s x (posOf (dirAt s (dTable k.desc)) (rlRow k.desc)) → smAccession m = smAccession k.moveMark →
    smLoc m = smLoc k.moveMark → folio s ≤ k.copyPos →
    (rlTier k.desc = 1 → hostPending s (32 * k.moveSlot) (rowS x) = false) → ringFor s (rowS x) (smTier m) = some r →
    (slotRing s r).ret.length < 2 ^ srLog (slotCtl s r) → ∃ t, exec (.moveRowCommit n) s = .next t ∧
      slotRing t r = { slotRing s r with
        ret := (slotRing s r).ret ++ [{ loc := smLoc m, folio := folio s }],
        retNext := ((slotRing s r).retNext + 1) % 2 ^ srLog (slotCtl s r) } ∧
      getTask t n = some (finishedTask (folio s) k) ∧ t.mem.host = s.mem.host) ∧
  (∀ s n k m, relocTask s n 1 = some k → k.copyPos ≠ 0 → canEnd k = true →
    m = shelfmark s (descAt s (rlIndex s k.desc)) (posOf (dirAt s (dTable k.desc)) (rlRow k.desc)) →
    (smAccession m ≠ smAccession k.moveMark ∨ smLoc m ≠ smLoc k.moveMark ∨ k.copyPos < folio s) →
    ∃ t, exec (.moveRowCommit n) s = .next t ∧ endedAs n k stCtlRefused 0 0 s t ∧ t.cat.dir = s.cat.dir) ∧
  (∀ s n k x tier a row side, relocTask s n 2 = some k → k.ctlSeq = none → relocOk s k.desc = true →
    x = descAt s (rlIndex s k.desc) → isHome s x = true →
    rowPlace s x (posOf (dirAt s (dTable k.desc)) (rlRow k.desc)) = some (tier, a) → tierFlt s tier a (rowS x) = none →
    row = tierLoad s tier a (rowS x) →
    side = (if rowEscapes x row = 0 then [] else tierLoad s (sdTier x) (sideAddr x (hkSlot (rowHusk x row))) (slotSize x)) →
    replicaUsed s + replicaLines row side ≤ replicaRoom s →
    ∃ t, exec (.replicateRow n) s = .next t ∧
      { table := dTable k.desc, row := rlRow k.desc, home := sdHome x, data := row, side := side, place := some (tier, a) } ∈
        t.cat.replicas ∧
      odGet t odCatReplicas = t.cat.replicas.length ∧ getTask t n = some (finishedTask (folio s) k) ∧ t.mem = s.mem) ∧
  (∀ s n k x, relocTask s n 2 = some k → k.ctlSeq = none → relocOk s k.desc = true → x = descAt s (rlIndex s k.desc) →
    isHome s x = false → readRoom s (sdHome x) → ∃ t, exec (.replicateRow n) s = .next t ∧
      sentOne ctReadReq (sdHome x) (readReqWords (rlRow k.desc) (dTable k.desc) false false true 0 s.sfp.epoch) s t ∧
      getTask t n = some { k with ctlSeq := some s.sfp.xid, moveMark := s.sfp.epoch } ∧
      t.cat.replicas.map (fun r => (r.table, r.row)) = s.cat.replicas.map (fun r => (r.table, r.row))) ∧
  (∀ s n k, relocTask s n 3 = some k → relocOk s k.desc = true → ∃ t, exec (.dropReplica n) s = .next t ∧
    t.cat.replicas.map (fun r => (r.table, r.row)) =
      (s.cat.replicas.filter (fun r => !(r.table == dTable k.desc && r.row == rlRow k.desc))).map (fun r => (r.table, r.row)) ∧
    getTask t n = some (finishedTask (folio s) k) ∧ t.mem.host = s.mem.host)

/-- REPLACE_BEGIN copies the live array to NEW_BASE, and REPLACE_COPY_DONE makes the shard REPLACING with ALT_BASE NEW_BASE.
REPLACE_COMMIT swaps the bases, raises REPLACE_EPOCH and reports the changed descriptor to the Registrar. DRAIN_FENCE before the commit makes the shard ONLINE again with its
old array; after it, and for a shard that has moved, DRAIN_FENCE_COMPLETE ends the second copy once its conditions hold. The
model's readings: log 47. -/
def Obligations.Replacements : Prop :=
  (∀ s n k x, relocTask s n 5 = some k → k.copyPos = 0 → relocOk s k.desc = true → x = descAt s (rlIndex s k.desc) →
    twinOpen s = false → chansUp s → tierFlt s (sdTier x) (32 * sdBase x) (arrayBytes (dirAt s (dTable k.desc)) x) = none →
    tierFlt s (sdTier x) (32 * rlBase k.desc) (arrayBytes (dirAt s (dTable k.desc)) x) = none →
    ∃ t, exec (.replaceBegin n) s = .next t ∧
      storedTier (sdTier x) (32 * rlBase k.desc)
        (tierLoad s (sdTier x) (32 * sdBase x) (arrayBytes (dirAt s (dTable k.desc)) x)) s t ∧
      getTask t n = some { k with copyPos := 1 } ∧ t.cat = s.cat) ∧
  (∀ s n k, relocTask s n 5 = some k → k.copyPos ≠ 0 → (cached s (rlIndex s k.desc)).isSome = true →
    ∃ t, exec (.replaceCopyDone n) s = .next t ∧
      descAt t (rlIndex s k.desc) = sdSet (sdSet (descAt s (rlIndex s k.desc)) 45 44 2) 241 192 (rlBase k.desc) ∧
      getTask t n = some (finishedTask (folio s) k) ∧ t.mem.host = s.mem.host) ∧
  (∀ s n k z, relocTask s n 6 = some k → relocOk s k.desc = true → (cached s (rlIndex s k.desc)).isSome = true →
    shardHolders s (dTable k.desc) (sdShard (descAt s (rlIndex s k.desc))) = [] →
    (s.sfp.registrar = true → (firstDeputy s).isSome = true) →
    z = sdSet (sdSet (committedDesc (descAt s (rlIndex s k.desc))) 45 44 1) 241 192 0 →
    ∃ t, exec (.replaceCommit n) s = .next t ∧
      (s.sfp.registrar = true → t.sfp.mapPending = s.sfp.mapPending ++ [(rlIndex s k.desc, z)]) ∧
      (s.sfp.registrar = false → odGet s odSfpRegistrar < 1024 → odGet s odSfpRegistrar ≠ s.sfp.engineId → ∃ m, {
        dst := odGet s odSfpRegistrar, mseq := m, type := ctControl, task := none,
        payload := [1, s.sfp.epoch, rlIndex s k.desc, z.toNat] } ∈ t.sfp.ctlOut) ∧
      descAt t (rlIndex s k.desc) = committedDesc (descAt s (rlIndex s k.desc)) ∧
      t.cat.committed = s.cat.committed ++ [rlIndex s k.desc] ∧
      (∀ r ∈ t.cat.replicas, ¬ (r.table = dTable k.desc ∧
        shardOf (dirAt s (dTable k.desc)) r.row = sdShard (descAt s (rlIndex s k.desc)))) ∧
      (∀ c ∈ t.stk.pinned, c.idx ≠ rlIndex s k.desc) ∧
      getTask t n = some (finishedTask (folio s) k) ∧ t.mem.host = s.mem.host) ∧
  (∀ s n k, relocTask s n 4 = some k → relocOk s k.desc = true → sdState (descAt s (rlIndex s k.desc)) = 2 →
    rlIndex s k.desc ∉ s.cat.committed → (cached s (rlIndex s k.desc)).isSome = true →
    ∃ t, exec (.drainFence n) s = .next t ∧
      descAt t (rlIndex s k.desc) = sdSet (sdSet (descAt s (rlIndex s k.desc)) 45 44 1) 241 192 0 ∧
      getTask t n = some (finishedTask (folio s) k) ∧ t.mem.host = s.mem.host) ∧
  (∀ s n k, relocTask s n 4 = some k → relocOk s k.desc = false → canEnd k = true →
    ∃ t, exec (.drainFence n) s = .next t ∧ endedAs n k stCtlRefused 0 0 s t ∧ t.cat.dir = s.cat.dir) ∧
  (∀ s n k, relocTask s n 4 = some k → sdState (descAt s (rlIndex s k.desc)) = 2 → rlIndex s k.desc ∈ s.cat.committed →
    k.admitFolio < admFloorNow s → (cached s (rlIndex s k.desc)).isSome = true →
    ∃ t, exec (.drainFenceComplete n) s = .next t ∧
      descAt t (rlIndex s k.desc) = sdSet (sdSet (descAt s (rlIndex s k.desc)) 45 44 1) 241 192 0 ∧
      rlIndex s k.desc ∉ t.cat.committed ∧ moveOf t (rlIndex s k.desc) = none ∧
      getTask t n = some (finishedTask (folio s) k) ∧ t.mem.host = s.mem.host) ∧
  (∀ s n k slot f, relocTask s n 4 = some k → sdState (descAt s (rlIndex s k.desc)) = 3 →
    fwdOf s (rlIndex s k.desc) = some (slot, f) → shardReads s (rlIndex s k.desc) = false →
    epochFloorAt s (fwEpoch f) = true → forwardsDone s (fwEngine f) = true → (cached s (rlIndex s k.desc)).isSome = true →
    ∃ t, exec (.drainFenceComplete n) s = .next t ∧
      descAt t (rlIndex s k.desc) = sdSet (sdSet (descAt s (rlIndex s k.desc)) 45 44 1) 241 192 0 ∧
      moveOf t (rlIndex s k.desc) = none ∧ getTask t n = some (finishedTask (folio s) k) ∧ t.mem.host = s.mem.host) ∧
  (∀ s n k m, relocTask s n 4 = some k → sdState (descAt s (rlIndex s k.desc)) = 3 → fwdOf s (rlIndex s k.desc) = none →
    moveOf s (rlIndex s k.desc) = some (m, true, true) → m ≠ n → shardReads s (rlIndex s k.desc) = false →
    (cached s (rlIndex s k.desc)).isSome = true → ∃ t, exec (.drainFenceComplete n) s = .next t ∧
      descAt t (rlIndex s k.desc) = sdSet (sdSet (descAt s (rlIndex s k.desc)) 45 44 1) 241 192 0 ∧
      moveOf t (rlIndex s k.desc) = none ∧ getTask t n = some (finishedTask (folio s) k) ∧ t.mem.host = s.mem.host)

/-! ## Groups, tiles and sprouts (R75, R78, R109, R140 to R143) -/

/-- GROUP_OPEN finishes once the tiles are idle, and until then waits. GROUP_CLOSE without OUT_ADDR releases the group and
writes nothing; with it each tile is exported, by the system sprout at OUT_ADDR, and the group released. The model's
choices: logs 31 and 32. -/
def Obligations.Groups : Prop :=
  (∀ s n k, liveTask s n opGOpen = some k → openDone s k = true → ∃ t, exec (.groupOpen n) s = .next t ∧ finishes n k s t) ∧
  (∀ s n k, liveTask s n opGOpen = some k → openDone s k = false → ∃ t, exec (.groupOpen n) s = .next t ∧
    getTask t n = some { k with waitTiles := true } ∧ onlyTask n k.queue s t ∧ t.cfe.queues = s.cfe.queues) ∧
  (∀ s n k, liveTask s n opGOpen = some k → k.waitTiles = true → openDone s k = true →
    ∃ t, exec (.groupOpenComplete n) s = .next t ∧ finishes n k s t) ∧
  (∀ s n k g, liveTask s n opGClose = some k → closingGroup s k = some g → tileTurn s k = true → gpOutAddr k.desc = 0 →
    ∃ t, exec (.groupClose n) s = .next t ∧ getTask t n = some (finishedTask (folio s) k) ∧
      getPod t (gpPod k.desc) = { getPod s (gpPod k.desc) with
        groups := (getPod s (gpPod k.desc)).groups.filter (fun x => x != g) } ∧
      (∀ p, p ≠ gpPod k.desc → getPod t p = getPod s p) ∧ t.mem = s.mem ∧ t.hpt = s.hpt) ∧
  (∀ s n k g, liveTask s n opGClose = some k → closingGroup s k = some g → tileTurn s k = true → gpOutAddr k.desc ≠ 0 →
    (closeTiles k g g.count 0 s).2 = none → ∃ t, exec (.groupClose n) s = .next t ∧ g ∉ (getPod t (gpPod k.desc)).groups ∧
      (∃ j, getTask t n = some (finishedTask (folio s) j) ∧ j.desc = k.desc ∧ k.sats ≤ j.sats) ∧
      t.mem.host = s.mem.host) ∧
  (∀ s n k g bs, liveTask s n opGClose = some k → closingGroup s k = some g → tileTurn s k = true → gpOutAddr k.desc ≠ 0 →
    g.count = 1 → gpFuseOp k.desc = 0 → streamSlot s k (gpPod k.desc) 3 = .system → chansUp s →
    bs = (exportRow (gpOutFmt k.desc) (tileVec s (gpPod k.desc) g.kind g.first)).bytes →
    accessFlt s (gpOutAddr k.desc) bs.length = none →
    ∃ t, exec (.groupClose n) s = .next t ∧ storedAt (gpOutAddr k.desc) bs (some n) s t ∧
      g ∉ (getPod t (gpPod k.desc)).groups)

/-- TILE_READ and TILE_WRITE of a tile in their turn copy its 1,024 bytes to memory and back by the system sprout, and
finish with any sprout whose accesses meet no fault. ZERO sets its tiles, or its bytes of GDDR7 or scratch, to zero and
leaves every other byte. SPROUT_LOAD puts an image into its slot of each Pod named that is not in reset, and ends with
SPROUT_INVALID where its length is none of 1 to 64. The accesses of a system sprout are the model's choice, log 31. -/
def Obligations.TilesAndSprouts : Prop :=
  (∀ s n k, liveTask s n opTRead = some k → tileTurn s k = true → gpCount k.desc = 1 →
    streamSlot s k (tilePod (gpFirst k.desc)) 6 = .system → chansUp s → accessFlt s (firstWord k.desc) 1024 = none →
    accessFlt s (tlAddr k.desc) 1024 = none → ∃ t, exec (.tileRead n) s = .next t ∧
      storedAt (tlAddr k.desc) (loadAw s (firstWord k.desc) 1024) (some n) s t ∧
      getTask t n = some (finishedTask (folio s) k) ∧ t.pods.map (·.1) = s.pods.map (·.1)) ∧
  (∀ s n k, liveTask s n opTWrite = some k → tileTurn s k = true → gpCount k.desc = 1 →
    streamSlot s k (tilePod (gpFirst k.desc)) 6 = .system → chansUp s → accessFlt s (firstWord k.desc) 1024 = none →
    accessFlt s (tlAddr k.desc) 1024 = none → ∃ t, exec (.tileWrite n) s = .next t ∧
      storedAt (firstWord k.desc) (loadAw s (tlAddr k.desc) 1024) (some n) s t ∧
      getTask t n = some (finishedTask (folio s) k)) ∧
  (∀ s n k, liveTask s n opTRead = some k → tileTurn s k = true →
    (copyStream k (tilePod (gpFirst k.desc)) 6 (firstWord k.desc) (tlAddr k.desc) (gpCount k.desc) 1024 1024 s).2 = none →
    ∃ t, exec (.tileRead n) s = .next t ∧ getTask t n = some (finishedTask (folio s) k) ∧ t.mem.host = s.mem.host) ∧
  (∀ s n k, liveTask s n opTWrite = some k → tileTurn s k = true →
    (copyStream k (tilePod (gpFirst k.desc)) 6 (tlAddr k.desc) (firstWord k.desc) (gpCount k.desc) 1024 1024 s).2 = none →
    ∃ t, exec (.tileWrite n) s = .next t ∧ getTask t n = some (finishedTask (folio s) k) ∧ t.mem.host = s.mem.host) ∧
  (∀ s n k a, liveTask s n opZero = some k → gpCount k.desc ≠ 0 → tileTurn s k = true →
    a = tileKey (awAddr (firstWord k.desc)) → ∃ t, exec (.zero n) s = .next t ∧
      (∀ b, memByte t.mem.tiles b = if a ≤ b ∧ b < a + 1024 * gpCount k.desc then 0 else memByte s.mem.tiles b) ∧
      { t.mem with tiles := s.mem.tiles } = s.mem ∧ finishes n k { s with mem := t.mem } t) ∧
  (∀ s n k a, liveTask s n opZero = some k → gpCount k.desc = 0 → awSpace (tlAddr k.desc) = 1 → chansUp s →
    accessFlt s (tlAddr k.desc) (tlLength k.desc) = none → a = awAddr (tlAddr k.desc) → ∃ t, exec (.zero n) s = .next t ∧
      (∀ b, memByte t.mem.gddr b = if a ≤ b ∧ b < a + tlLength k.desc then 0 else memByte s.mem.gddr b) ∧
      { t.mem with gddr := s.mem.gddr } = s.mem ∧ getTask t n = some (finishedTask (folio s) k)) ∧
  (∀ s n k, liveTask s n opZero = some k → gpCount k.desc = 0 → awSpace (tlAddr k.desc) = 2 →
    accessFlt s (tlAddr k.desc) (tlLength k.desc) = none → ∃ t, exec (.zero n) s = .next t ∧
      storedScratch (awAddr (tlAddr k.desc)) (List.replicate (tlLength k.desc) 0) s t.mem.scratch ∧
      { t.mem with scratch := s.mem.scratch } = s.mem ∧ finishes n k { s with mem := t.mem } t) ∧
  (∀ s n k ws, liveTask s n opSprout = some k → 1 ≤ spLength k.desc → spLength k.desc ≤ 64 →
    accessFlt s (spSrc k.desc) (8 * spLength k.desc) = none →
    ws = imageWords (spLength k.desc) (loadAw s (spSrc k.desc) (8 * spLength k.desc)) →
    imageOk (spHash k.desc) (spAll k.desc) (spSlot k.desc) ws = true → slotRunning s n (spHash k.desc) (spSlot k.desc) = false →
    ∃ t, exec (.sproutLoad n) s = .next t ∧ getTask t n = some (finishedTask (folio s) k) ∧
      (∀ p, (spAll k.desc = true ∧ p ∈ podNums) ∨ (spAll k.desc = false ∧ p = spPod k.desc) → (getPod s p).inReset = false →
        getPod t p = loadSlot (spHash k.desc) (spSlot k.desc) ws (getPod s p)) ∧
      (∀ p, ¬ ((spAll k.desc = true ∧ p ∈ podNums) ∨ (spAll k.desc = false ∧ p = spPod k.desc)) → getPod t p = getPod s p) ∧
      t.mem = s.mem) ∧
  (∀ s n k, liveTask s n opSprout = some k → (spLength k.desc = 0 ∨ 64 < spLength k.desc) → canEnd k = true →
    ∃ t, exec (.sproutLoad n) s = .next t ∧ endedAs n k stSproutInvalid 0 0 s t ∧ t.mem.host = s.mem.host)

/-! ## Admission (R140, R141, R364, R365) -/

/-- ADMISSION, at the time that it settles, admits the first candidate, in the order of due folio, priority and fetch, that is not passed over: it takes
its folio, its place in the order of admissions, its phases and its deal, and each share is charged against its budget.
GROUP_OPEN opens its group, and a task of a group joins it. An oversized STRICT task ends with BUDGET_ABORT, and a task
whose group is not open with NO_GROUP, charged nothing. Where every candidate is passed over the pass at the folio start
ends. The model's readings: logs 19, 34 and 45. -/
def Obligations.Admissions : Prop :=
  (∀ s u k, u = settleTime s → admitting s = true → (inOrder (candidates u)).find? (fun k => verdict u k != .pass) = some k →
    verdict u k = .enter → tileCheck u k = none → trainFlt u k = none → dOp k.desc ≠ opGOpen → groupOfTask k.desc = none → pairOf u k = none →
    getTask u k.id = some k → ∃ t, exec .admission s = .next t ∧
      (∃ j, getTask t k.id = some j ∧ j.phase = .admitted ∧ j.admitFolio = folio s ∧ j.seq = s.fsu.admitted ∧
        j.phases = phasesOf u k ∧ j.deals = dealOf u k.desc ∧ j.shard0 = shard0Of u (dTable k.desc) ∧ j.desc = k.desc) ∧
      t.fsu.admitted = s.fsu.admitted + 1 ∧ (getQ t k.queue).cost = k.cost ∧
      (((sharesOf u k (phasesOf u k)).map (·.1)).Nodup → ∀ x ∈ sharesOf u k (phasesOf u k), x.2 ≠ 0 →
        remaining t x.1 = if fullBudget u x.1 < (x.2 : Int) then 0 else remaining u x.1 - x.2) ∧
      (∀ j, j ≠ k.id → getTask t j = getTask s j) ∧ t.mem = s.mem ∧ t.hpt = s.hpt ∧ t.od = s.od) ∧
  (∀ s u k, u = settleTime s → admitting s = true → (inOrder (candidates u)).find? (fun k => verdict u k != .pass) = some k →
    verdict u k = .enter → tileCheck u k = none → trainFlt u k = none → dOp k.desc = opGOpen → pairOf u k = none →
    ∃ t, exec .admission s = .next t ∧ (getPod t (namedRun k.desc).pod).groups =
      (getPod s (namedRun k.desc).pod).groups ++ [{
        g := gpGroup k.desc, queue := k.queue, kind := (namedRun k.desc).kind, first := (namedRun k.desc).first,
        count := (namedRun k.desc).count, tasks := [k.id] }]) ∧
  (∀ s u k pod n, u = settleTime s → admitting s = true → (inOrder (candidates u)).find? (fun k => verdict u k != .pass) = some k →
    verdict u k = .enter → tileCheck u k = none → trainFlt u k = none → dOp k.desc ≠ opGOpen → groupOfTask k.desc = some (pod, n) → pairOf u k = none →
    ∃ t, exec .admission s = .next t ∧ (getPod t pod).groups = (getPod s pod).groups.map (fun x =>
      if x.closer.isNone ∧ x.g = n then
        { x with tasks := x.tasks ++ [k.id], closer := if dOp k.desc = opGClose then some k.id else none }
      else x)) ∧
  (∀ s u k, u = settleTime s → admitting s = true → (inOrder (candidates u)).find? (fun k => verdict u k != .pass) = some k →
    verdict u k = .abort → getTask u k.id = some k → canEnd k = true → ∃ t, exec .admission s = .next t ∧
      endedAs k.id k stBudgetAbort 0 0 s t ∧ t.fsu = u.fsu) ∧
  (∀ s u k, u = settleTime s → admitting s = true → (inOrder (candidates u)).find? (fun k => verdict u k != .pass) = some k →
    verdict u k = .noGroup → getTask u k.id = some k → canEnd k = true → ∃ t, exec .admission s = .next t ∧
      endedAs k.id k stNoGroup 0 0 s t ∧ t.fsu = u.fsu) ∧
  (∀ s u, u = settleTime s → admitting s = true → (∀ k ∈ candidates u, verdict u k = .pass) →
    exec .admission s = .next { u with fsu := { u.fsu with pass := false } })

/-! ## Bags and their indices (R16, R52, R91, R93, R97, R98, R129) -/

/-- BAG_START starts the next bag of a Pod: it takes the first run of free carrels and its tree-store entries and its OPEN
handle is pushed; a bag of an UPDATE takes neither. INDEX_PROCESS takes the bag's next index into the window: out of range it
stands under shard 0's descriptor, one whose descriptor is in the cache under that, and a descriptor that is missing is asked
for and the index parked. An index of an UPDATE goes into its window with its gradient, or is discarded. DESCRIPTOR_FILL
brings the descriptor and the parked indices resume. SEGMENT_RELEASE folds the full window into leaves and releases what
reads it can. The model's readings: logs 52 and 98. -/
def Obligations.BagsTakeIndices : Prop :=
  (∀ s pod k x base n c, podOn s pod [3, 6] = true → nextStart s pod = some (k, x) → streamReady s k pod 0 = true →
    bagSpan s k pod x.bag = .ok (base, n) → dOp k.desc ≠ opUpdate → hqOk (getPod s pod).hq0 = true →
    carrelRun (getPod s pod) (bagCarrels (sdDim k.shard0)) = some c → hqFull (getPod s pod).hq0 = false →
    treeUse (getPod s pod) + bagTree (dPool k.desc) (sdDim k.shard0) n ≤ 4096 → ∃ t, exec (.bagStart pod) s = .next t ∧
      (getPod t pod).bags = (getPod s pod).bags ++ [{
        task := k.id, bag := x.bag, base := base, n := n, carrel := c, carrels := bagCarrels (sdDim k.shard0),
        tree := bagTree (dPool k.desc) (sdDim k.shard0) n }] ∧
      (getPod t pod).carrels = (getPod s pod).carrels ++
        (List.range (bagCarrels (sdDim k.shard0))).map (fun i => (c + i, k.id)) ∧
      (getPod t pod).hq0.items = (getPod s pod).hq0.items ++ [{
        st := .open, task := k.id, bag := x.bag, fold := dOp k.desc == opFold, carrel := c,
        carrels := bagCarrels (sdDim k.shard0) }] ∧
      (∀ p, p ≠ pod → getPod t p = getPod s p) ∧ t.mem = s.mem ∧ t.hpt = s.hpt) ∧
  (∀ s pod k x base n, podOn s pod [3, 6] = true → nextStart s pod = some (k, x) → streamReady s k pod 0 = true →
    bagSpan s k pod x.bag = .ok (base, n) → dOp k.desc = opUpdate → ∃ t, exec (.bagStart pod) s = .next t ∧
      getPod t pod = { getPod s pod with
        bags := (getPod s pod).bags ++ [{ task := k.id, bag := x.bag, base := base, n := n, carrel := 0, carrels := 0, tree := 0 }] } ∧
      (∀ p, p ≠ pod → getPod t p = getPod s p) ∧ t.mem = s.mem ∧ t.hpt = s.hpt) ∧
  (∀ s pod n bag k b e, indexTurn s pod n bag k b → bagEntry s k pod bag b.base b.taken = .ok e → e.row = none →
    ∃ t, exec (.indexProcess pod n bag) s = .next t ∧
      getBag t pod n bag = some { b with
        taken := b.taken + 1, window := b.window ++ [{ e with desc := shard0Of s (dTable k.desc) }] } ∧
      t.gau.taken = s.gau.taken + 1 ∧ t.mem.host = s.mem.host) ∧
  (∀ s pod n bag k b e row x, indexTurn s pod n bag k b → bagEntry s k pod bag b.base b.taken = .ok e → e.row = some row →
    cached s (shardIndex (dirAt s (dTable k.desc)) (shardOf (dirAt s (dTable k.desc)) row)) = some x →
    shardFlt k (dTable k.desc) x = none → ∃ t, exec (.indexProcess pod n bag) s = .next t ∧
      getBag t pod n bag = some { b with
        taken := b.taken + 1
        window := (b.window ++ [e]).map (fun y => if y.pos = b.taken then { y with desc := x } else y) } ∧
      t.gau.taken = s.gau.taken + 1 ∧ t.mem = s.mem ∧ t.cfe = s.cfe) ∧
  (∀ s pod n bag k b e row i, indexTurn s pod n bag k b → bagEntry s k pod bag b.base b.taken = .ok e → e.row = some row →
    i = shardIndex (dirAt s (dTable k.desc)) (shardOf (dirAt s (dTable k.desc)) row) → cached s i = none →
    s.cat.misses.length < 512 → ∃ t, exec (.indexProcess pod n bag) s = .next t ∧
      getBag t pod n bag = some { b with
        taken := b.taken + 1, window := b.window ++ [{ e with desc := shard0Of s (dTable k.desc) }],
        parked := b.parked ++ [(i, b.taken)] } ∧
      i ∈ t.cat.misses ∧ t.mem = s.mem ∧ t.cfe = s.cfe) ∧
  (∀ s pod n bag k b e g, gradTurn s pod n bag k b → bagEntry s k pod bag b.base b.taken = .ok e →
    (e.row = none → sdDefault k.shard0 = 2) → gradRow s k pod bag b.base b.taken = .ok g →
    ∃ t, exec (.indexProcess pod n bag) s = .next t ∧ getBag t pod n bag = some { b with taken := b.taken + 1 } ∧
      tabGet k.id [] (getPod t pod).uwin = tabGet k.id [] (getPod s pod).uwin ++ [{ e with
        grad := indexGrad (dPool k.desc) b.n e.weight g }] ∧
      t.mem = s.mem ∧ t.cfe = s.cfe) ∧
  (∀ s pod n bag k b e g, gradTurn s pod n bag k b → bagEntry s k pod bag b.base b.taken = .ok e → e.row = none →
    sdDefault k.shard0 ≠ 2 → gradRow s k pod bag b.base b.taken = .ok g →
    ∃ t, exec (.indexProcess pod n bag) s = .next t ∧ getBag t pod n bag = some { b with taken := b.taken + 1 } ∧
      tabGet k.id [] (getPod t pod).uwin = tabGet k.id [] (getPod s pod).uwin ++ [{ e with grad := [], discard := true }] ∧
      t.mem = s.mem ∧ t.cfe = s.cfe) ∧
  (∀ s i x, i ∈ s.cat.misses → gated s 1 = false → gddrHeld s (descAddr s i) = false →
    x = BitVec.ofNat 512 (leNat (gddrLoad s (descAddr s i) 64)) →
    (∀ b k, bagTask s b = some k → shardFlt k (dTable k.desc) x = none) → ∃ t, exec (.descriptorFill i) s = .next t ∧
      i ∉ t.cat.misses ∧ cached t i = some x ∧
      (∀ pod ∈ podNums, ∀ b ∈ (getPod t pod).bags, ∀ q ∈ b.parked, q.1 ≠ i) ∧ t.mem = s.mem ∧ t.cfe = s.cfe) ∧
  (∀ s pod n bag k b, bagTask s n = some k → getBag s pod n bag = some b → b.window ≠ [] →
    segSize b.n (b.taken - 1) ≤ b.window.length → b.parked = [] → podOn s pod [2, 3] = true → dOp k.desc ≠ opUpdate →
    ∃ u, exec (.segmentRelease pod n bag) s = .next (feed pod u) ∧
      getBag u pod n bag = some { b with
        window := [], leaves := b.leaves ++ foldSegment (dPool k.desc) segmentLen b.window } ∧
      (∀ p, p ≠ pod → getPod u p = getPod s p) ∧ u.cfe = s.cfe ∧ u.cat = s.cat ∧ u.mem = s.mem)

/-! ## Reads, lines and leaves (R98, R103, R104, R126, R128, R264 to R267) -/

/-- READ_ISSUE resolves the next read of a tier, under its shard's descriptor as it stands, and issues it where the tier's
budget has its slots: a pinned copy or a replica answers at once, another engine gets a READ_REQ, a line held in a way is
returned, and a line that is not opens a call slip. A read resolved in another tier waits there, and one without slots waits
and counts. CALL_SLIP_FILL serves the reads of the slip and closes it, and installs the line of one that is not stale.
WEED_ACK takes the oldest eviction notice. The model's readings: logs 50, 55 and 98. -/
def Obligations.ReadsIssue : Prop :=
  (∀ s v pod tier k r w x idx, issues s v pod tier k r w x → w.space = 2 →
    idx = shardIndex (dirAt s (dTable k.desc)) (sdShard x) → ∃ u, exec (.readIssue pod tier 0) s = .next (feed pod u) ∧
      getPod u pod = { getPod v pod with reads := (getPod v pod).reads.map (fun q => if q.id = r.id then { q with
        got := [(0, (((pinnedCopy s idx).bind (fun p => tabFind w.addr p.rows)).getD none).getD [])], issued := true } else q) } ∧
      (∀ p, p ≠ pod → getPod u p = getPod s p) ∧ u.mem = s.mem ∧ u.cfe = s.cfe) ∧
  (∀ s v pod tier k r w x, issues s v pod tier k r w x → w.space = 3 →
    ∃ u, exec (.readIssue pod tier 0) s = .next (feed pod u) ∧
      getPod u pod = { getPod v pod with reads := (getPod v pod).reads.map (fun q => if q.id = r.id then { q with
        got := [(0, ((replicaOf s (dTable k.desc) w.addr).map (·.data)).getD [])], issued := true } else q) } ∧
      (∀ p, p ≠ pod → getPod u p = getPod s p) ∧ u.mem = s.mem ∧ u.cfe = s.cfe) ∧
  (∀ s v pod tier err k r w x dst, issues s v pod tier k r w x → w.space = 4 →
    dst = (if w.kind = 3 then defaultHome s (dTable k.desc) else sdHome x) → readRoom s dst →
    ∃ u, exec (.readIssue pod tier err) s = .next (feed pod u) ∧
      sentOne ctReadReq dst (readReqWords (if w.kind = 3 then 0 else w.addr) (dTable k.desc) (dPin k.desc) (w.kind == 3) false
        (dPinEpoch k.desc) s.sfp.epoch) s u ∧
      (getPod u pod).reads = (getPod v pod).reads.map (fun q => if q.id = r.id then { q with
        xid := s.sfp.xid, epoch := s.sfp.epoch, issued := true } else q) ∧
      (getPod u pod).bags = (getPod v pod).bags ∧ u.cfe.tasks = s.cfe.tasks ∧ u.mem.host = s.mem.host) ∧
  (∀ s v pod tier k r w x la y c, issues s v pod tier k r w x → w.space < 2 → linesOf w.addr w.len = [la] →
    s.stk.sweeps = [] → findLine s pod (searchWays s pod 0) (if w.space = 1 then 0 else 1) la = some (y, c) →
    ∃ u, exec (.readIssue pod tier 0) s = .next (feed pod u) ∧
      (getPod u pod).reads = (getPod v pod).reads.map (fun q => if q.id = r.id then { q with
        got := q.got ++ [(la, c.data)], issued := true } else q) ∧
      (∀ p, p ≠ pod → getPod u p = getPod s p) ∧ u.mem = s.mem ∧ u.cfe = s.cfe) ∧
  (∀ s v pod tier k r w x la m, issues s v pod tier k r w x → w.space < 2 → linesOf w.addr w.len = [la] →
    s.stk.sweeps = [] → m = (if w.space = 1 then 0 else 1) → findLine s pod (searchWays s pod 0) m la = none →
    weedLine s pod m la = none → slipFor s pod m la = none → (getSlice s pod).slips.length < 1024 → chanFull s m la = false →
    sdPrefetch x = false → ∃ u, exec (.readIssue pod tier 0) s = .next (feed pod u) ∧
      (getPod u pod).reads = (getPod v pod).reads.map (fun q => if q.id = r.id then { q with
        need := q.need ++ [(getSlice s pod).nextSlip], issued := true } else q) ∧
      (getSlice u pod).slips = (getSlice s pod).slips ++ [{
        n := (getSlice s pod).nextSlip, tier := m, addr := la, cls := 0, prefetch := false, before := [r.id] }] ∧
      (∀ p, p ≠ pod → getPod u p = getPod s p) ∧ u.mem = s.mem ∧ u.cfe = s.cfe) ∧
  (∀ s pod tier err k r w x, issueTurn s pod tier k r w x → w.tier ≠ r.tier →
    exec (.readIssue pod tier err) s = .next (placed pod r w x s)) ∧
  (∀ s v pod tier err k r w x, issueTurn s pod tier k r w x → v = placed pod r w x s → w.tier = r.tier →
    odGet s (odGauBudgetStacks + w.tier) < slotUse (getPod v pod) w.tier + cdiv w.len (tierGrain w.tier) →
    exec (.readIssue pod tier err) s = .next (odCount odGauSlotWaits 1 v)) ∧
  (∀ s pod n c, (getSlice s pod).slips.find? (fun c => c.n == n) = some c → (c.tier = 1 → hostHeld s = false) →
    (c.tier = 0 → gddrHeld s c.addr = false) → gated s 4 = false → (∀ p, ∀ r ∈ (getPod s p).reads, r.hold = []) →
    c.stale = true → c.after = [] → ∃ t, exec (.callSlipFill pod n) s = .next t ∧
      (getPod t pod).reads = (getPod s pod).reads.map (fun r =>
        if c.before.contains r.id then feedRead n c.addr c.old r else r) ∧
      getSlice t pod = { getSlice s pod with slips := (getSlice s pod).slips.filter (fun x => x.n != n) } ∧
      (∀ p, p ≠ pod → getPod t p = getPod s p) ∧ t.mem = s.mem ∧ t.cfe = s.cfe) ∧
  (∀ s pod n c w, (getSlice s pod).slips.find? (fun c => c.n == n) = some c → (c.tier = 1 → hostHeld s = false) →
    (c.tier = 0 → gddrHeld s c.addr = false) → gated s 4 = false → (∀ p, ∀ r ∈ (getPod s p).reads, r.hold = []) →
    s.stk.sweeps = [] → c.stale = false → weedFull s pod c.cls c.addr = false →
    victimWay s pod (lineSet c.addr) (fillWays s pod c.cls) = some w → ∃ t, exec (.callSlipFill pod n) s = .next t ∧
      (getPod t pod).reads = (getPod s pod).reads.map (fun r =>
        if c.before.contains r.id then feedRead n c.addr (lineBytes s c.tier c.addr) r else r) ∧
      tabFind (lineKey w (lineSet c.addr)) (getSlice t pod).lines = some {
        tier := c.tier, addr := c.addr, data := lineBytes s c.tier c.addr, prefetched := c.prefetch, used := s.stk.clock + 1 } ∧
      ((dirLines s).length < 16 → (getSlice t pod).weed =
        (getSlice s pod).weed.filter (fun l => !(l.tier == c.tier && l.addr == c.addr)) ++
          (tabFind (lineKey w (lineSet c.addr)) (getSlice s pod).lines).toList) ∧
      (getSlice t pod).slips = (getSlice s pod).slips.filter (fun x => x.n != n) ∧
      (∀ p, p ≠ pod → { getPod t p with slice := {} } = { getPod s p with slice := {} }) ∧ t.mem = s.mem ∧ t.cfe = s.cfe) ∧
  (∀ s pod, ∃ t, exec (.weedAck pod) s = .next t ∧
    getSlice t pod = { getSlice s pod with weed := (getSlice s pod).weed.tail } ∧
    (∀ p, p ≠ pod → getPod t p = getPod s p) ∧ t.mem = s.mem ∧ t.cfe = s.cfe ∧ t.cat = s.cat)

/-- ROW_RETURN puts the row of a whole read into its leaf; a shelfmark queues the read of its row, which waits for slots
alone; what returns for a task that has gone only frees its slots. LEAF_POOL pools the next leaf of a bag whose row is there,
and finishes the row of a bag whose last leaf is pooled, or of an index of a GATHER: the row stands in the carrels of its bag
and its POOLED handle is pushed. -/
def Obligations.RowsArriveAndPool : Prop :=
  (∀ s n pod r, findRead s n = some (pod, r) → readWhole r = true → bagTask s r.task = none →
    ∃ t, exec (.rowReturn n 0) s = .next t ∧
      getPod t pod = { getPod s pod with reads := (getPod s pod).reads.filter (fun q => q.id != n) } ∧
      (∀ p, p ≠ pod → getPod t p = getPod s p) ∧ { t with pods := s.pods } = s) ∧
  (∀ s n pod r k b l, findRead s n = some (pod, r) → readWhole r = true → bagTask s r.task = some k →
    getBag s pod r.task r.bag = some b → b.leaves[r.leaf]? = some l →
    (r.space < 2 → tierFlt s (if r.space = 1 then 0 else 1) r.addr r.len = none) →
    pairRead s (leafPlace s k l).1 r l = false → r.kind = 1 → (sdShelved l.desc = true → folio s ≤ l.markFolio + 1) →
    rowMalformed l.desc (readBytes r) = false → rowEscapes l.desc (readBytes r) = 0 →
    ∃ u, exec (.rowReturn n 0) s = .next (feed pod u) ∧
      getBag u pod r.task r.bag = some { b with leaves := b.leaves.modify r.leaf (fun l => { l with
        stage := 2, data := readBytes r, side := [] }) } ∧
      (getPod u pod).reads = (getPod s pod).reads.filter (fun q => q.id != n) ∧
      u.gau.bytes = s.gau.bytes + (readBytes r).length ∧
      (∀ p, p ≠ pod → getPod u p = getPod s p) ∧ u.mem = s.mem) ∧
  (∀ s n pod r k b l, findRead s n = some (pod, r) → readWhole r = true → bagTask s r.task = some k →
    getBag s pod r.task r.bag = some b → b.leaves[r.leaf]? = some l →
    (r.space < 2 → tierFlt s (if r.space = 1 then 0 else 1) r.addr r.len = none) → r.kind = 0 →
    smTier (leNat (readBytes r)) < 2 → ∃ u, exec (.rowReturn n 0) s = .next (feed pod u) ∧
      getBag u pod r.task r.bag = some { b with leaves := b.leaves.modify r.leaf (fun l => { l with markFolio := folio s }) } ∧
      (getPod u pod).reads = (getPod s pod).reads.filter (fun q => q.id != n) ++ [{
        id := s.gau.nextRead, task := r.task, bag := r.bag, leaf := r.leaf, kind := 1,
        tier := slotTier (smTier (leNat (readBytes r))), space := readSpace (smTier (leNat (readBytes r))),
        addr := 32 * smLoc (leNat (readBytes r)), len := rowS l.desc,
        slots := cdiv (rowS l.desc) (tierGrain (slotTier (smTier (leNat (readBytes r))))), dep := true }] ∧
      (∀ p, p ≠ pod → getPod u p = getPod s p) ∧ u.mem = s.mem ∧ u.cfe = s.cfe) ∧
  (∀ s pod n k b l b', bagTask s n = some k → getBag s pod n b.bag = some b → podOn s pod [6, 8] = true →
    dOp k.desc ≠ opUpdate → hqOk (getPod s pod).hq0 = true → hqOk (getPod s pod).hq1 = true →
    (∀ h ∈ (getPod s pod).hq0.items, h.st ≠ .aborted) → b.leaves[b.pooled]? = some l → l.stage = 2 →
    cbHeld (getPod s pod) (cbNeed l.desc) = true →
    b' = poolInto (dPool k.desc) l (poolVec (getPod s pod) l) b → dPool k.desc ≠ 6 → bagEnds b' = false →
    ∃ u, exec (.leafPool pod n b.bag) s = .next (feed pod u) ∧ getBag u pod n b.bag = some b' ∧
      (∀ p, p ≠ pod → getPod u p = getPod s p) ∧ u.mem = s.mem ∧ u.cfe = s.cfe) ∧
  (∀ s u pod n k b r, bagTask s n = some k → getBag s pod n b.bag = some b → podOn s pod [6, 8] = true →
    dOp k.desc ≠ opUpdate → hqOk (getPod s pod).hq0 = true → hqOk (getPod s pod).hq1 = true →
    bagEnds b = true → mayFinish s k pod b = true → dPool k.desc ≠ 6 → takeOpen pod n b.bag s = some u →
    finishFuse u k pod b.bag (bagRow (getPod s pod) k b) = .ok r →
    ∃ t, exec (.leafPool pod n b.bag) s = .next t ∧
      (getPod t pod).hq1.items = (getPod s pod).hq1.items ++ [{
        st := .pooled, task := n, bag := b.bag, fold := dOp k.desc == opFold, carrel := b.carrel, carrels := b.carrels,
        block := b.bag }] ∧
      stored (carrelKey pod b.carrel) (r.flatMap (fun x => leBytes 4 x.toNat)) s.mem.tiles t.mem.tiles ∧
      (∀ c ∈ (getPod t pod).bags, ¬ (c.task = n ∧ c.bag = b.bag)) ∧
      (∀ p, p ≠ pod → getPod t p = getPod s p) ∧ { t.mem with tiles := s.mem.tiles } = s.mem) ∧
  (∀ s pod n k b l b', bagTask s n = some k → getBag s pod n b.bag = some b → podOn s pod [6, 8] = true →
    dOp k.desc ≠ opUpdate → hqOk (getPod s pod).hq0 = true → hqOk (getPod s pod).hq1 = true →
    (∀ h ∈ (getPod s pod).hq0.items, h.st ≠ .aborted) → b.leaves[b.pooled]? = some l → l.stage = 2 →
    cbHeld (getPod s pod) (cbNeed l.desc) = true → dPool k.desc = 6 → b.n ≠ 0 →
    b' = poolInto 6 l (poolVec (getPod s pod) l) b → mayFinish s k pod b' = true →
    ∃ u, exec (.leafPool pod n b.bag) s = .next (feed pod u) ∧
      (getPod u pod).hq1.items = (getPod s pod).hq1.items ++ [{
        st := .pooled, task := n, bag := b.base + l.pos, fold := dOp k.desc == opFold, carrel := b.carrel,
        carrels := if bagEnds b' then b.carrels else 0, block := b.bag }] ∧
      stored (carrelKey pod b.carrel) ((bagRow (getPod s pod) k b').flatMap (fun x => leBytes 4 x.toNat)) s.mem.tiles u.mem.tiles ∧
      (∀ p, p ≠ pod → getPod u p = getPod s p) ∧ { u.mem with tiles := s.mem.tiles } = s.mem)

/-! ## Finished rows, aborted handles and codebooks (R19, R142, R150, R167) -/

/-- EXPORT takes the oldest finished row from its carrels and writes it in OUT_FMT at its place after OUT_ADDR, by the system
sprout, and frees them; it takes a FOLDED handle first, whose block it scales by the row's and the columns' scales. TILE_ADD
adds the row into the tiles of its group, in its turn. ABORTED_HANDLE_FREE takes an aborted handle and frees what it holds.
CODEBOOK_LOAD reads an entry that work needs from GDDR7 into the Pod's codebook memory. The accesses of a system sprout are
the model's choice, log 31, and so is the order of the adds, log 98. -/
def Obligations.RowsLeave : Prop :=
  (∀ s pod h rest k w bs, podOn s pod [8] = true → hqOk (getPod s pod).hq1 = true → hqOk (getPod s pod).hq2 = true →
    (getPod s pod).hq2.items = [] → (getPod s pod).hq1.items = h :: rest → h.st = .pooled → h.fold = false →
    getTask s h.task = some k → dToTiles k.desc = false → streamSlot s k pod 3 = .system → chansUp s →
    w = dOutAddr k.desc + h.bag * outPitch k.desc (sdDim k.shard0) →
    bs = (exportRow (dOutFmt k.desc) (carrelRow s pod h.carrel (sdDim k.shard0))).bytes →
    accessFlt s w bs.length = none → ∃ t, exec (.exportRow pod) s = .next t ∧ storedAt w bs (some h.task) s t ∧
      (getPod t pod).hq1.items = rest ∧ t.gau.exported = s.gau.exported + 1 ∧
      (getPod t pod).carrels = (getPod s pod).carrels.filter (fun c =>
        !(decide (h.carrel ≤ c.1) && decide (c.1 < h.carrel + h.carrels)))) ∧
  (∀ s pod h rest k y w bs, podOn s pod [8] = true → hqOk (getPod s pod).hq1 = true → hqOk (getPod s pod).hq2 = true →
    (getPod s pod).hq2.items = h :: rest → h.st = .folded → getTask s h.task = some k → dToTiles k.desc = false →
    streamSlot s k pod 3 = .system → chansUp s →
    y = foldScaled h.scale h.cols (capturedAcc s pod h.latch (blockWidth (dFoldN k.desc) h.block)) →
    w = dOutAddr k.desc + (h.bag * outPitch k.desc (sdDim k.shard0) +
      (if outNarrow (dOutFmt k.desc) then h.block * outSize (dOutFmt k.desc) 1024
        else h.block * 1024 * outBits (dOutFmt k.desc) / 8)) →
    bs = (exportRow (dOutFmt k.desc) y).bytes → accessFlt s w bs.length = none →
    ∃ t, exec (.exportRow pod) s = .next t ∧ storedAt w bs (some h.task) s t ∧ (getPod t pod).hq2.items = rest ∧
      (getPod t pod).flu.unread = (getPod s pod).flu.unread - 1) ∧
  (∀ s pod h rest k g r lin w bs, podOn s pod [6] = true → hqOk (getPod s pod).hq1 = true → hqOk (getPod s pod).hq2 = true →
    (getPod s pod).hq2.items = [] → (getPod s pod).hq1.items = h :: rest → h.st = .pooled → h.fold = false →
    getTask s h.task = some k → dToTiles k.desc = true → addTurn s k h.block none = true → addGroup s k = some g → chansUp s →
    r = carrelRow s pod h.carrel (sdDim k.shard0) →
    lin = (outTile k.desc).first * 1024 + dOutTileAddr k.desc % 1024 + h.block * outPitch k.desc (sdDim k.shard0) →
    g.first * 1024 ≤ lin → lin + 4 * r.length ≤ (g.first + g.count) * 1024 → w = tileWord (outTile k.desc).pod 0 0 + lin →
    bs = (vAdd false (fuseVec 0 r.length (loadAw s w (4 * r.length))) r).flatMap (fun v => leBytes 4 v.toNat) →
    ∃ t, exec (.tileAdd pod) s = .next t ∧ storedAt w bs (some h.task) s t ∧ (getPod t pod).hq1.items = rest ∧
      (getPod t pod).carrels = (getPod s pod).carrels.filter (fun c =>
        !(decide (h.carrel ≤ c.1) && decide (c.1 < h.carrel + h.carrels)))) ∧
  (∀ s pod q h rest, q < 2 → hqOk (hqOf (getPod s pod) q) = true → (hqOf (getPod s pod) q).items = h :: rest → h.st = .aborted →
    ∃ t, exec (.abortedHandleFree pod q) s = .next t ∧ (hqOf (getPod t pod) q).items = rest ∧
      (getPod t pod).carrels = (getPod s pod).carrels.filter (fun c =>
        !(decide (h.carrel ≤ c.1) && decide (c.1 < h.carrel + h.carrels))) ∧
      (∀ p, p ≠ pod → getPod t p = getPod s p) ∧ { t with pods := s.pods } = s) ∧
  (∀ s pod h rest, hqOk (getPod s pod).hq2 = true → (getPod s pod).hq2.items = h :: rest → h.st = .aborted →
    ∃ t, exec (.abortedHandleFree pod 2) s = .next t ∧ (getPod t pod).hq2.items = rest ∧
      (getPod t pod).flu = { (getPod s pod).flu with unread := (getPod s pod).flu.unread - 1 } ∧
      (∀ p, p ≠ pod → getPod t p = getPod s p) ∧ { t with pods := s.pods } = s) ∧
  (∀ s pod kind aux size es, podOn s pod [8] = true → cbHeld (getPod s pod) (some (kind, aux, size)) = false →
    cbWanted s pod (kind, aux, size) = true → gddrHeld s (32 * aux) = false →
    cbRoom (cbLines size) (fun e => !(cbInUse s pod).contains (e.kind, e.aux, e.size)) ((getPod s pod).cb.length + 1)
      (getPod s pod).cb = some es → tierFlt s 0 (32 * aux) size = none →
    ∃ t, exec (.codebookLoad pod kind aux size) s = .next t ∧ (∃ m, getPod t pod = { getPod s pod with
        cbAsk := (getPod s pod).cbAsk.filter (fun a => a.1 != (kind, aux, size)),
        cb := es ++ [{ kind := kind, aux := aux, size := size, used := m, data := gddrLoad s (32 * aux) size }] } ∧
        ∀ e ∈ (getPod s pod).cb, e.used < m) ∧
      (∀ p, p ≠ pod → getPod t p = getPod s p) ∧ t.mem = s.mem ∧ t.cfe = s.cfe)

/-! ## The Fold Unit (R177, R181, R183, R185, R186) -/

/-- LATCH_ROW_FILL makes the oldest pooled bag a row of the shadow set and frees its carrels. FOLD_PASS_START makes the
shadow set the active one, and FOLD_FILL_WAIT_EXPIRY does so with the rows filled once the array is free. FOLD_CAPTURE puts
the accumulators of a column pass into the Fold tiles and pushes a handle for each row, FOLDED or ABORTED; after the last
block the set is done. FOLD_WEIGHT_LOAD begins the load of a task's half of every Pod that needs it, and with the data of a
load that has begun every half being filled holds the task's weights. The model's choices: logs 23 and 31. -/
def Obligations.FoldPasses : Prop :=
  (∀ s pod h rest k y, podOn s pod [7, 8] = true → hqOk (getPod s pod).hq1 = true → (getPod s pod).hq1.items = h :: rest →
    getTask s h.task = some k → h.st = .pooled → h.fold = true → (getPod s pod).flu.shadow.length < 160 →
    foldOwned (getPod s pod) = false → joinsSet s k (getPod s pod).flu.shadow = true →
    y = latchRow (dInBits k.desc) (carrelRow s pod h.carrel (sdDim k.shard0)) → ∃ t, exec (.latchRowFill pod) s = .next t ∧
      (getPod t pod).flu.shadow = (getPod s pod).flu.shadow ++ [{ task := h.task, bag := h.bag, a := y.1, codes := y.2.1 }] ∧
      (getPod t pod).hq1.items = rest ∧
      (getPod t pod).carrels = (getPod s pod).carrels.filter (fun c =>
        !(decide (h.carrel ≤ c.1) && decide (c.1 < h.carrel + h.carrels))) ∧
      getTask t h.task = some { k with sats := k.sats + y.2.2 } ∧
      (∀ p, p ≠ pod → getPod t p = getPod s p) ∧ t.mem = s.mem) ∧
  (∀ s pod, podOn s pod [7] = true → (getPod s pod).flu.running = false → (getPod s pod).flu.active = [] →
    passReady s pod = true → ∃ t, exec (.foldPassStart pod) s = .next t ∧
      getPod t pod = { getPod s pod with flu := { (getPod s pod).flu with
        active := (getPod s pod).flu.shadow, shadow := [], running := true, block := 0,
        cfg := setCfg s pod (getPod s pod).flu.shadow, expired := false, idle := false } } ∧
      (∀ p, p ≠ pod → getPod t p = getPod s p) ∧ t.mem = s.mem ∧ t.cfe = s.cfe) ∧
  (∀ s pod, podOn s pod [7] = true → (getPod s pod).flu.running = false → (getPod s pod).flu.active = [] →
    (getPod s pod).flu.shadow ≠ [] → foldOwned (getPod s pod) = false →
    (∀ k ∈ setTasks s (getPod s pod).flu.shadow, k.err.isSome = true ∨
      (k.wLoaded = true ∧ (halfOf (getPod s pod) (dBufHalf k.desc)).tag = some (foldTag k))) →
    ∃ t, exec (.foldFillWaitExpiry pod) s = .next t ∧
      getPod t pod = { getPod s pod with flu := { (getPod s pod).flu with
        active := (getPod s pod).flu.shadow, shadow := [], running := true, block := 0,
        cfg := setCfg s pod (getPod s pod).flu.shadow, expired := false, idle := false } } ∧
      (∀ p, p ≠ pod → getPod t p = getPod s p) ∧ t.mem = s.mem ∧ t.cfe = s.cfe) ∧
  (∀ s pod, (getPod s pod).flu.running = true → (getPod s pod).flu.shadow ≠ [] →
    ∃ t, exec (.foldFillWaitExpiry pod) s = .next t ∧
      getPod t pod = { getPod s pod with flu := { (getPod s pod).flu with expired := true } } ∧
      (∀ p, p ≠ pod → getPod t p = getPod s p) ∧ { t with pods := s.pods } = s) ∧
  (∀ s pod f half hs, f = (getPod s pod).flu → half = halfOf (getPod s pod) ((f.cfg.map (·.1)).getD 0) →
    hs = foldedHandles s pod f.block f.active → hqOk (getPod s pod).hq2 = true → f.running = true → f.unread = 0 →
    scalesHere s pod f.active = true →
    (getPod s pod).hq2.items.length + hs.length ≤ 256 → podOn s pod [7] = true →
    ∃ t, exec (.foldCapture pod) s = .next t ∧
      t.mem = (captureTiles pod (f.active.map (fun l => foldAcc f.block l.codes half.w)) s).mem ∧
      (getPod t pod).hq2.items = (getPod s pod).hq2.items ++ hs ∧ (getPod t pod).flu.unread = hs.length ∧
      (getPod t pod).flu.block = f.block + 1 ∧
      (f.block + 1 < foldBlocks (layerCols f) → (getPod t pod).flu.active = f.active ∧ (getPod t pod).flu.running = true) ∧
      (foldBlocks (layerCols f) ≤ f.block + 1 → (getPod t pod).flu.active = [] ∧ (getPod t pod).flu.running = false) ∧
      (∀ p, p ≠ pod → getPod t p = getPod s p) ∧ t.hpt = s.hpt) ∧
  (∀ s n k, liveTask s n opFold = some k → k.wLoaded = false → wordsHeld s k.desc = false →
    (∀ p ∈ podNums, filling (getPod s p) k = false) → loadWaits s k = false → loadPods s k ≠ [] →
    ∃ t, exec (.foldWeightLoad n) s = .next t ∧
      (∀ p ∈ loadPods s k, halfOf (getPod t p) (dBufHalf k.desc) = { tag := none, loading := [n], w := [] }) ∧
      (∀ p, p ∉ loadPods s k → (getPod t p).flu = (getPod s p).flu) ∧ getTask t n = some k ∧ t.mem.host = s.mem.host) ∧
  (∀ s n k, liveTask s n opFold = some k → k.wLoaded = false → wordsHeld s k.desc = false →
    (∀ p ∈ podNums, filling (getPod s p) k = false) → loadWaits s k = false → loadPods s k = [] →
    ∃ t, exec (.foldWeightLoad n) s = .next t ∧ getTask t n = some { k with wLoaded := true } ∧
      onlyTask n k.queue s t ∧ t.cfe.queues = s.cfe.queues) ∧
  (∀ s n k q r, liveTask s n opFold = some k → k.wLoaded = false → wordsHeld s k.desc = false → q ∈ podNums →
    filling (getPod s q) k = true → r = runLoad k ((taskPods k).headD 0) 4 (weightActs s k ((taskPods k).headD 0)) s →
    r.flt = none → ∃ t, exec (.foldWeightLoad n) s = .next t ∧
      (∀ p ∈ podNums, filling (getPod s p) k = true →
        halfOf (getPod t p) (dBufHalf k.desc) = { tag := some (foldTag k), loading := [], w := weightRows r.s k r.chunks }) ∧
      (∀ p ∈ podNums, filling (getPod s p) k = false → (getPod t p).flu = (getPod s p).flu) ∧
      getTask t n = some { k with wLoaded := true, wBytes := r.bytes } ∧ t.mem.host = s.mem.host)

/-! ## UPDATE at the sender (R198 to R206) -/

/-- UPDATE_WINDOW_CLOSE combines the entries of a row into one row gradient for the row's home. DEEP_COMBINE opens a set for
an arriving row gradient, or adds it into the set of its row. ROW_GRADIENT_PACK puts the next row gradient into its owner's
parcel, with the residual carry of a narrow format. PARCEL_RELEASE gives a task's parcels their sequence, puts them into the
retention ring in GDDR7 and writes the sender state and the ring's pointers through; a task without parcels finishes.
PARCEL_SEND sends the owner's next retained parcel, and PARCEL_RESEND_TIMEOUT sends again one for which no acknowledgement
has come long enough. The model's choices: logs 57, 58 and 99. -/
def Obligations.UpdateSends : Prop :=
  (∀ s pod n k e es r d, liveTask s n opUpdate = some k → k.phase = .admitted → k.err = none → dDeep k.desc = false →
    windowOf s pod n = e :: es → (∀ x ∈ es, x.row = e.row) → (∀ x ∈ e :: es, x.discard = false) →
    es.length < segmentLen → e.row = some r →
    podTaken s k pod = true → windowTurn s k pod = true → (∀ p, ∀ c ∈ (getPod s p).comb, c.1 ≠ n) →
    d = descAt s (shardIndex (dirAt s (dTable k.desc)) (shardOf (dirAt s (dTable k.desc)) r)) →
    shardFlt k (dTable k.desc) d = none → ∃ t, exec (.updateWindowClose pod n) s = .next t ∧ windowOf t pod n = [] ∧
      (∃ k', getTask t n = some k' ∧ k'.windows = tabMod pod 0 (· + 1) k.windows ∧ k'.grads = k.grads ++ [{
        row := r, dflt := false, owner := sdHome d,
        g := treeGo false (sdDim k.shard0) [] none (e.grad :: es.map (·.grad)) }]) ∧
      (∀ p, p ≠ pod → getPod t p = getPod s p) ∧ t.mem = s.mem) ∧
  (∀ s pod n k g c, liveTask s n opUpdate = some k → k.err = none → (getPod s pod).up = true → windowsDone s k = false →
    (getPod s pod).combIn.find? (fun c => c.1 == n) = some (n, g) →
    (∀ x ∈ (getPod s pod).comb, ¬ (x.1 = n ∧ x.2.row = g.row ∧ x.2.dflt = g.dflt)) →
    carrelRun (getPod s pod) (bagCarrels (sdDim k.shard0)) = some c → ∃ t, exec (.deepCombine pod n) s = .next t ∧
      getPod t pod = { getPod s pod with
        combIn := (getPod s pod).combIn.eraseP (fun c => c.1 == n), comb := (getPod s pod).comb ++ [(n, g)],
        carrels := (getPod s pod).carrels ++ (List.range (bagCarrels (sdDim k.shard0))).map (fun i => (c + i, n)) } ∧
      (∀ p, p ≠ pod → getPod t p = getPod s p) ∧ { t with pods := s.pods } = s) ∧
  (∀ s pod n k g x, liveTask s n opUpdate = some k → k.err = none → (getPod s pod).up = true → windowsDone s k = false →
    (getPod s pod).combIn.find? (fun c => c.1 == n) = some (n, g) → x ∈ (getPod s pod).comb → x.1 = n → x.2.row = g.row →
    x.2.dflt = g.dflt → ∃ t, exec (.deepCombine pod n) s = .next t ∧
      getPod t pod = { getPod s pod with
        combIn := (getPod s pod).combIn.eraseP (fun c => c.1 == n),
        comb := (getPod s pod).comb.map (fun c => if c.1 = n ∧ c.2.row = g.row ∧ c.2.dflt = g.dflt then
          (c.1, { c.2 with g := vAdd false c.2.g g.g }) else c) } ∧
      (∀ p, p ≠ pod → getPod t p = getPod s p) ∧ t.mem = s.mem ∧ t.cfe = s.cfe) ∧
  (∀ s n k g rest ps, liveTask s n opUpdate = some k → k.err = none → k.grads = g :: rest → mayPack s k = true →
    phFmt (entryHdr s k g.owner g.row g.dflt) = 0 →
    ps = packEntry s k g.owner { row := g.row, dflt := g.dflt, data := g.g.flatMap (fun x => leBytes 4 x.toNat) } k.pendingParcels →
    sumOf parcelSize ps ≤ odGet s odUpuTaskLimit * 2 ^ 20 → ∃ t, exec (.rowGradientPack n) s = .next t ∧
      getTask t n = some { k with grads := rest, pendingParcels := ps } ∧
      (∀ j, j ≠ n → getTask t j = getTask s j) ∧ { t with cfe := s.cfe } = s) ∧
  (∀ s n k g rest a v e ps, liveTask s n opUpdate = some k → k.err = none → k.grads = g :: rest → mayPack s k = true →
    phFmt (entryHdr s k g.owner g.row g.dflt) = 2 → residPlace s k g = some a → residWaits s k g = false →
    v = List.zipWith (fAdd true) g.g (residAt s k a (sdDim k.shard0)) → e = exportRow 5 v →
    ps = packEntry s k g.owner { row := g.row, dflt := g.dflt, data := e.bytes.take (4 + sdDim k.shard0) } k.pendingParcels →
    sumOf parcelSize ps ≤ odGet s odUpuTaskLimit * 2 ^ 20 → ∃ t j, exec (.rowGradientPack n) s = .next t ∧
      getTask t n = some j ∧ j.grads = rest ∧ j.pendingParcels = ps ∧ j.resids = k.resids.filter (fun x => x.1 != a) ++
        [(a, List.zipWith (fun x c => fSub true x (fMul true e.scale c)) v e.codes)] ∧ t.mem = s.mem ∧ t.upu = s.upu) ∧
  (∀ s n k, getTask s n = some k → k.phase = .admitted → k.err = none → k.released = false → viaLedger k = true →
    packed s k = true → gated s 9 = false → k.pendingParcels = [] → k.resids = [] → ringRoom s k = true →
    ∃ t, exec (.parcelRelease n) s = .next t ∧
      getTask t n = some (finishedTask (folio s) { k with released := true, unacked := 0, finishFolio := some (folio s) }) ∧
      t.upu = s.upu ∧ t.mem = s.mem ∧ t.pods = s.pods) ∧
  (∀ s n k p o q bs room m, getTask s n = some k → k.phase = .admitted → k.err = none → k.released = false →
    viaLedger k = true → packed s k = true → gated s 9 = false → k.pendingParcels = [p] → k.resids = [] →
    epochsClear s k = true → ringRoom s k = true → chansUp s → twinOpen s = false → o = phOwner p.hdr → q = nextSeq s o →
    bs = parcelBytes { p with hdr := phSet p.hdr 47 0 q } → room = ringSize s - s.upu.ringTail →
    m = (s.upu.ringTail + bs.length) % ringSize s → ∃ t, exec (.parcelRelease n) s = .next t ∧
      getTask t n = some { k with released := true, unacked := 1, pendingParcels := [], finishFolio := some (folio s) } ∧
      t.upu = { s.upu with
        sent := tabPut o q s.upu.sent, ringTail := m,
        ring := s.upu.ring ++ [(o, {
          seq := q, task := n, pos := s.upu.ringTail, parcel := { p with hdr := phSet p.hdr 47 0 q } })] } ∧
      { t.mem with gddr := s.mem.gddr } = s.mem ∧
      t.mem.gddr = memStore (s.upu.ledgerBase + 0x408000)
          (leBytes 8 ((s.upu.ring.head?.map (·.2.pos)).getD s.upu.ringTail) ++
            leBytes 8 ((s.upu.ring.head?.map (·.2.pos)).getD s.upu.ringTail) ++ leBytes 8 m ++ leBytes 8 m)
        (memStore (senderAddr s o) (leBytes 8 (q + 1) ++ leBytes 8 (((retainedOf s o).map (·.seq)).headD q))
        (memStore s.upu.retainBase (bs.drop room)
        (memStore (s.upu.retainBase + s.upu.ringTail) (bs.take room) s.mem.gddr))) ∧
      podsBare t = podsBare s) ∧
  (∀ s owner r, owner < 1024 → (retainedOf s owner).find? (fun r => !r.sent) = some r → gated s 9 = false →
    (∀ x ∈ retainedOf s owner, r.seq < x.seq + 256) → epochTurn s r.parcel = true → cellDst s owner ≠ s.sfp.engineId →
    reachable s (cellDst s owner) = true → twinState s ≠ 1 → phOwner r.parcel.hdr = owner →
    cellRoom s owner (cellsFor (parcelSize r.parcel)) → ∃ t, exec (.parcelSend owner) s = .next t ∧
      sentOne ctParcel owner ((parcelBytes r.parcel).map (·.toNat)) s t ∧
      t.upu = { s.upu with
        ring := s.upu.ring.map (fun x => if x.1 = owner ∧ x.2.seq = r.seq then (x.1, { x.2 with sent := true }) else x)
        waiting := if (tabFind owner s.upu.waiting).isSome then s.upu.waiting else tabPut owner (folio s) s.upu.waiting } ∧
      t.cfe.tasks = s.cfe.tasks ∧ t.mem.host = s.mem.host) ∧
  (∀ s owner r f, retainedOf s owner = [r] → r.sent = true → tabFind owner s.upu.waiting = some f →
    f + odGet s odUpuResendFolios ≤ folio s → tabFind (owner + 1024) s.upu.waiting = none →
    cellDst s owner ≠ s.sfp.engineId → twinState s ≠ 1 → phOwner r.parcel.hdr = owner →
    cellRoom s owner (cellsFor (parcelSize r.parcel)) → ∃ t, exec (.parcelResendTimeout owner) s = .next t ∧
      sentOne ctParcel owner ((parcelBytes r.parcel).map (·.toNat)) s t ∧
      t.upu = { s.upu with waiting := tabPut owner (folio s) s.upu.waiting } ∧
      t.cfe.tasks = s.cfe.tasks ∧ t.mem.host = s.mem.host)

/-! ## Parcels at the owner (R204 to R206, R216, R222, R347) -/

/-- PARCEL_ARRIVAL puts a parcel into the inbox and journals the next one of its source; one that comes early only waits,
and one that was applied before is acknowledged again. EARLY_PARCEL_JOURNAL journals the next parcel that waits.
PARCEL_ACK_RECEIVED frees the parcel from the retention ring, and the last one of a task finishes it; with SEQ 0 it says that
a row written outside the Ledger is in place, the last of which finishes a ROW_WRITE (log 41). RECEIVED_ABANDON ends
the wait for a resend. LEDGER_READY sends again what is retained for an engine, or with FRESH discards it.
TWIN_MIRRORED_PARCEL journals a parcel of the twin and reports it, and TWIN_PARTNER_REPORT notes that in the journal. The
model's choices: logs 57 and 60. -/
def Obligations.ParcelsArrive : Prop :=
  (∀ s src bs p, p = readParcel s bs → gated s 9 = false → isMember s src = true → phSource p.hdr = src → p.entries ≠ [] →
    bs.length = parcelSize p → phOwner p.hdr = s.sfp.engineId → phSeq p.hdr = hwmOf s src + 1 →
    inboxOf s src (phSeq p.hdr) = none → inboxBytes s + parcelSize p ≤ s.upu.inboxSize * 2 ^ 20 → twinState s ≠ 1 →
    ∃ t, exec (.parcelArrival src bs) s = .next t ∧ inboxOf t src (phSeq p.hdr) = some p ∧
      getJournal t src (phSeq p.hdr) = some {
        table := phTable p.hdr, seq := phSeq p.hdr, st := .received, source := src, intake := s.upu.intake,
        since := folio s, mirrored := true, partnerApplied := true } ∧
      hwmOf t src = hwmOf s src + 1 ∧ t.upu.intake = s.upu.intake + 1 ∧ t.upu.ring = s.upu.ring ∧
      t.cfe.tasks = s.cfe.tasks ∧ t.mem.host = s.mem.host) ∧
  (∀ s src bs p, p = readParcel s bs → gated s 9 = false → isMember s src = true → phSource p.hdr = src → p.entries ≠ [] →
    bs.length = parcelSize p → phOwner p.hdr = s.sfp.engineId → hwmOf s src + 1 < phSeq p.hdr →
    phSeq p.hdr ≤ hwmOf s src + 256 → inboxOf s src (phSeq p.hdr) = none →
    inboxBytes s + parcelSize p ≤ s.upu.inboxSize * 2 ^ 20 → ∃ t, exec (.parcelArrival src bs) s = .next t ∧
      t.upu = { s.upu with inbox := s.upu.inbox ++ [(src, phSeq p.hdr, p)] } ∧ t.cfe = s.cfe ∧ t.mem = s.mem) ∧
  (∀ s src bs p j, p = readParcel s bs → gated s 9 = false → isMember s src = true → phSource p.hdr = src → p.entries ≠ [] →
    bs.length = parcelSize p → phOwner p.hdr = s.sfp.engineId → src ≠ s.sfp.engineId → phSeq p.hdr ≤ hwmOf s src →
    hwmOf s src < phSeq p.hdr + 256 → getJournal s src (phSeq p.hdr) = some j → j.st = .applied → cellRoom s src 1 →
    ∃ t, exec (.parcelArrival src bs) s = .next t ∧
      sentOne ctParcelAck src [s.sfp.engineId, src, phSeq p.hdr, j.intake] s t ∧
      t.upu = s.upu ∧ t.cfe.tasks = s.cfe.tasks ∧ t.mem.host = s.mem.host) ∧
  (∀ s src p, inboxOf s src (hwmOf s src + 1) = some p → phSeq p.hdr = hwmOf s src + 1 → twinState s ≠ 1 →
    ∃ t, exec (.earlyParcelJournal src) s = .next t ∧ t.upu.inbox = s.upu.inbox ∧
      getJournal t src (phSeq p.hdr) = some {
        table := phTable p.hdr, seq := phSeq p.hdr, st := .received, source := src, intake := s.upu.intake,
        since := folio s, mirrored := true, partnerApplied := true } ∧
      hwmOf t src = hwmOf s src + 1 ∧ t.upu.intake = s.upu.intake + 1 ∧
      t.cfe.tasks = s.cfe.tasks ∧ t.mem.host = s.mem.host) ∧
  (∀ s owner q i r k, q ≠ 0 → s.upu.ring.find? (fun r => r.1 == owner && r.2.seq == q) = some r → r.2.fwd = none →
    getTask s r.2.task = some k → k.phase = .admitted → k.err = none → k.released = true → k.unacked = 1 →
    (∀ j ∈ s.upu.journal, j.st ≠ .forwarded) → ∃ t, exec (.parcelAckReceived owner s.sfp.engineId q i) s = .next t ∧
      t.upu.ring = s.upu.ring.filter (fun x => !(x.1 == owner && x.2.seq == q)) ∧ t.upu.journal = s.upu.journal ∧
      getTask t r.2.task = some (finishedTask (folio s) { k with unacked := 0 }) ∧
      getQ t k.queue = unstallQueue (getQ s k.queue) ∧ t.mem.host = s.mem.host) ∧
  (∀ s owner i k, getTask s i = some k → dOp k.desc = opRowWrite → viaLedger k = false → k.phase = .admitted →
    k.err = none → k.copyPos = rwCount k.desc → k.unacked = 1 → (∀ p ∈ s.cat.pend, p.task ≠ some i) →
    ∃ t, exec (.parcelAckReceived owner s.sfp.engineId 0 i) s = .next t ∧
      getTask t i = some (finishedTask (folio s) { k with unacked := 0 }) ∧
      getQ t k.queue = unstallQueue (getQ s k.queue) ∧ t.upu = s.upu ∧ t.mem = s.mem) ∧
  (∀ s src q j, getJournal s src q = some j → j.st = .received → inboxOf s src q = none →
    j.since + odGet s odUpuRecoveryFolios ≤ folio s → inRecovery s = false →
    ∃ t, exec (.receivedAbandon src q) s = .next t ∧ getJournal t src q = some { j with st := .abandoned } ∧
      t.upu.hwm = s.upu.hwm ∧ t.upu.inbox = s.upu.inbox ∧ t.upu.ring = s.upu.ring ∧
      t.cfe.tasks = s.cfe.tasks ∧ t.mem.host = s.mem.host) ∧
  (∀ s owner r, retainedOf s owner = [r] → retainedOf s (owner + 1024) = [] → r.sent = true → inRecovery s = false →
    cellDst s owner ≠ s.sfp.engineId → twinState s ≠ 1 → phOwner r.parcel.hdr = owner →
    cellRoom s owner (cellsFor (parcelSize r.parcel)) → ∃ t, exec (.ledgerReady owner false) s = .next t ∧
      sentOne ctParcel owner ((parcelBytes r.parcel).map (·.toNat)) s t ∧
      t.upu = { s.upu with waiting := tabDrop (owner + 1024) (tabPut owner (folio s) s.upu.waiting) } ∧
      t.cfe.tasks = s.cfe.tasks ∧ t.mem.host = s.mem.host) ∧
  (∀ s owner, inRecovery s = false → ∃ t, exec (.ledgerReady owner true) s = .next t ∧ hwmOf t owner = 0 ∧
      nextSeq t owner = 1 ∧ t.upu.ring = s.upu.ring.filter (fun r => r.1 != owner) ∧
      (∀ j ∈ t.upu.journal, j.source = owner → j.st ≠ .received) ∧ t.mem.host = s.mem.host) ∧
  (∀ s src i bs p, p = readParcel s bs → twinState s = 1 → p.entries ≠ [] → phOwner p.hdr = s.sfp.partner →
    (phSource p.hdr = s.sfp.partner → i ≠ 0) → cellRoom s s.sfp.partner 1 →
    ∃ t, exec (.twinMirroredParcel src i bs) s = .next t ∧
      sentOne ctControl s.sfp.partner (nextCtl s s.sfp.partner :: [9, src, phSeq p.hdr, 0]) s t ∧
      getJournal t (src + 1024) (phSeq p.hdr) = some {
        table := phTable p.hdr, seq := phSeq p.hdr, st := .received, source := src + 1024, intake := i,
        since := folio s, mirrored := true, partnerApplied := true } ∧
      t.upu.inbox = s.upu.inbox ++ [(src + 1024, phSeq p.hdr, p)] ∧ hwmOf t (src + 1024) = phSeq p.hdr ∧
      t.cfe.tasks = s.cfe.tasks ∧ t.mem.host = s.mem.host) ∧
  (∀ s src q j, getJournal s src q = some j → twinState s = 1 → ∃ t, exec (.twinPartnerReport src q false) s = .next t ∧
      getJournal t src q = some { j with mirrored := true } ∧ t.upu.inbox = s.upu.inbox ∧ t.upu.ring = s.upu.ring ∧
      t.cfe = s.cfe ∧ t.mem.host = s.mem.host) ∧
  (∀ s src q j, getJournal s src q = some j → twinState s = 1 → j.st = .applied → j.partnerApplied = false → src < 1024 →
    src ≠ s.sfp.engineId → cellRoom s src 1 → ∃ t, exec (.twinPartnerReport src q true) s = .next t ∧
      sentOne ctParcelAck src [s.sfp.engineId, src, q, j.intake] s t ∧
      getJournal t src q = some { j with mirrored := true, partnerApplied := true } ∧
      t.cfe.tasks = s.cfe.tasks ∧ t.mem.host = s.mem.host)

/-! ## The commits of parcels and of shelved rows (R117, R211, R212, R218, R233, R435) -/

/-- PARCEL_APPLY of an update entry for a direct row in GDDR7, of a table without companions, writes the row that the
optimiser gives with the intake number as its stamp, makes the journal entry APPLIED, takes the parcel out of the inbox and
says so to its source. APPLY_FAULT_REPAIR ends the fault once the row reads again. SHELVED_ROW_COMMIT writes the new
shelfmark over that of an absent row, or puts the slot of the row before it into the return ring, and finishes a ROW_WRITE
that has no other row waiting. STREAM_READ_RETURN puts the data of a stream into its buffer, and column scales into the
Pod's scale store. The model's readings: logs 57 to 59. -/
def Obligations.RowsCommit : Prop :=
  (∀ s j p e c a n d x row, nextReceived s = some j → inboxOf s j.source j.seq = some p → gated s 9 = false →
    s.upu.rowIn = [] → s.upu.fault = none → j.mirrored = true → s.upu.applying = none → switchWaits s = false →
    p.entries = [e] → phWrite p.hdr = false → n = j.intake → entryAt s (phTable p.hdr) e = .here c →
    cached s c.idx = some c.x → e.dflt = false → c.dflt = false → x = c.x → d = sdDim x → sdTier x = 0 → sdShelved x = false →
    sdEsc x = false → a = rowAddr x (sdBase x) c.pos → holdersOf s (phTable p.hdr) c.row = [] → moveOf s c.idx = none →
    entryDrops s p.hdr (trainAt s (phTable p.hdr)) x = false → teMaster (trainAt s (phTable p.hdr)) = false →
    cbReady s (homePod s c.row) x = true → compSize (trainAt s (phTable p.hdr)) d = 0 → trainBad s (phTable p.hdr) = false →
    tierFlt s 0 a (rowS x) = none →
    row = (stkRead (homePod s c.row) 1 0 a (rowS x) (privRead (trainAddr s (phTable p.hdr)) 16 s)).1 →
    stampIntake (numAt 0 8 row) < n → inRecovery s = false → j.source < 1024 → j.source ≠ s.sfp.engineId → twinState s ≠ 1 →
    twinOpen s = false → cellRoom s j.source 1 → chansUp s →
    (a + rowS x ≤ s.upu.ledgerBase ∨ s.upu.ledgerBase + 0x400000 ≤ a) →
    ∃ t, exec .parcelApply s = .next t ∧
      gddrLoad t a (rowS x) = wideRow x n (rowStep (optOf s p.hdr).1 (optOf s p.hdr).2 (phLr p.hdr) (phStep p.hdr)
        (entryGrad p.hdr d e.data) (rowVals s c row []) (compVals [] 0 (stateLen (teKind (trainAt s (phTable p.hdr))) d))) ∧
      getJournal t j.source j.seq = some { j with st := .applied } ∧ inboxOf t j.source j.seq = none ∧
      sentOne ctParcelAck j.source [s.sfp.engineId, j.source, j.seq, j.intake] s t ∧
      t.cfe.tasks = s.cfe.tasks ∧ t.mem.host = s.mem.host) ∧
  (∀ s n table row m, s.upu.fault = some (table, row, m) → repairOf s table row = none → rowMended s table row = true →
    inRecovery s = false → ∃ t, exec (.applyFaultRepair n) s = .next t ∧ t.upu = { s.upu with fault := none } ∧
      t.msc.open_ = s.msc.open_.filter (fun h => h.cause != 7) ∧ { t with upu := s.upu, msc := s.msc } = s) ∧
  (∀ s n p x task, s.cat.pend.find? (fun p => p.w == n) = some p → x = descAt s p.idx → gated s 1 = false →
    p.task = some task → pendVisible s p (sdTier x) = true →
    (∀ q ∈ s.cat.pend, ¬ (q.idx = p.idx ∧ q.pos = p.pos ∧ q.w < p.w)) →
    (p.mark = rowAddr x (sdBase x) p.pos → holdersOf s (sdTable x) (rowOf (dirAt s (sdTable x)) (sdShard x) p.pos) = []) →
    moveOf s p.idx = none → smTier (leNat (tierLoad s (sdTier x) p.mark 8)) = 3 → twinOpen s = false → chansUp s →
    ∃ t, exec (.shelvedRowCommit n) s = .next t ∧
      storedTier (sdTier x) p.mark (leBytes 8 (smMake p.tier
        ((smAccession (leNat (tierLoad s (sdTier x) p.mark 8)) + 1) % 4096) (pendLoc p))) s t ∧
      t.cat.pend = s.cat.pend.filter (fun q => q.w != n) ∧ t.cat.rings = s.cat.rings ∧
      (∀ k, getTask s task = some k → k.phase = .admitted → k.err = none → k.copyPos = rwCount k.desc → viaLedger k = false →
        k.unacked = 0 →
        (∀ q ∈ s.cat.pend, q.task = some task → q.w = n) → getTask t task = some (finishedTask (folio s) k))) ∧
  (∀ s n p x task k m, s.cat.pend.find? (fun p => p.w == n) = some p → x = descAt s p.idx → gated s 1 = false →
    p.task = some task → pendVisible s p (sdTier x) = true →
    (∀ q ∈ s.cat.pend, ¬ (q.idx = p.idx ∧ q.pos = p.pos ∧ q.w < p.w)) → p.mark = rowAddr x (sdBase x) p.pos →
    holdersOf s (sdTable x) (rowOf (dirAt s (sdTable x)) (sdShard x) p.pos) = [] → moveOf s p.idx = none →
    m = leNat (tierLoad s (sdTier x) p.mark 8) → smTier m < 2 → ringFor s (rowS x) (smTier m) = some k →
    (slotRing s k).ret.length < 2 ^ srLog (slotCtl s k) → ∃ t, exec (.shelvedRowCommit n) s = .next t ∧
      slotRing t k = { slotRing s k with
        ret := (slotRing s k).ret ++ [{ loc := smLoc m, folio := folio s }],
        retNext := ((slotRing s k).retNext + 1) % 2 ^ srLog (slotCtl s k) } ∧
      t.cat.pend = s.cat.pend.filter (fun q => q.w != n) ∧ t.mem.host = s.mem.host) ∧
  (∀ s pod n kind k, getTask s n = some k → k.phase = .admitted → k.err = none → (∃ x ∈ k.deals, x.pod = pod) →
    wordsHeld s k.desc = false → gated s 3 = false → (n * 16 + pod, kind) ∉ s.gau.streams → kind ≤ 8 → kind ≠ 4 → kind ≠ 5 →
    streamFault s k pod kind = none → ∃ t, exec (.streamReadReturn pod n kind) s = .next t ∧
      t.gau = { s.gau with streams := s.gau.streams ++ [(n * 16 + pod, kind)] } ∧
      t.mem = s.mem ∧ t.cfe = s.cfe ∧ t.pods = s.pods) ∧
  (∀ s pod n k r, getTask s n = some k → k.phase = .admitted → k.err = none → (∃ x ∈ k.deals, x.pod = pod) →
    wordsHeld s k.desc = false → gated s 3 = false → (n * 16 + pod, 5) ∉ s.gau.streams → dOp k.desc = opFold →
    scaleRoom s (getPod s pod) (dFoldN k.desc) = true → r = runLoad k pod 5 (scaleActs s k pod) s → r.flt = none →
    ∃ t, exec (.streamReadReturn pod n 5) s = .next t ∧
      storedScales (getPod t pod) n = some (fuseVec 0 (dFoldN k.desc) (delivered r.s (4 * dFoldN k.desc) r.chunks)) ∧
      t.gau.streams = s.gau.streams ++ [(n * 16 + pod, 5)] ∧ t.mem = s.mem ∧ t.cfe = s.cfe)

/-! ## Whole tasks (R68, R70, R71) -/

/-- LOOKUP, LOOKUP_FOLD and UPDATE are each a run of the pipeline's own commands, and end where the task no longer goes on, or
where a further round changes nothing. With one finished row, or one block, left to leave, a LOOKUP or LOOKUP_FOLD writes it
and finishes; an UPDATE with its one parcel packed releases and sends it. ROW_WRITE of one row of a direct shard homed here
writes the row in its place and finishes the task, and sends one homed elsewhere there. A whole task in one command and the
accesses of a system sprout are the model's choices, logs 17 and 31, and so is the transfer of the row, log 41. -/
def Obligations.WholeTasks : Prop :=
  (∀ i f s, pipeStep i = some f → exec i s = .next (f s)) ∧
  (∀ s n op c k, (c, op) ∈ [(Instr.lookup n, opLookup), (.lookupFold n, opFold), (.update n, opUpdate)] →
    liveTask s n op = some k → wordsHeld s k.desc = false → ∃ is t, exec c s = .next t ∧ t = runSteps is s ∧
      (∀ i ∈ is, (pipeStep i).isSome = true) ∧ (stillRuns t n = false ∨ 2 ^ 64 ≤ is.length ∨
        ∃ u, runRound u = t ∧ sameWork u t = true ∧ sameWork t (runSteps (expirySteps t) t) = true)) ∧
  (∀ s n k pod h w bs, k.phase = .admitted → k.err = none → k.released = false → s.cfe.tasks = [k] → k.id = n →
    liveTask s n opLookup = some k → wordsHeld s k.desc = false → lastWork s k pod h → h.carrels ≠ 0 → h.block = 0 →
    (getPod s pod).hq1.items = [h] → (getPod s pod).hq2.items = [] → h.st = .pooled → h.fold = false →
    dToTiles k.desc = false → streamSlot s k pod 3 = .system → chansUp s →
    w = dOutAddr k.desc + h.bag * outPitch k.desc (sdDim k.shard0) →
    bs = (exportRow (dOutFmt k.desc) (carrelRow s pod h.carrel (sdDim k.shard0))).bytes → accessFlt s w bs.length = none →
    ∃ t, exec (.lookup n) s = .next t ∧ storedAt w bs (some n) s t ∧
      (∃ j, getTask t n = some j ∧ j.phase = .finished ∧ j.err = none) ∧ t.gau.exported = s.gau.exported + 1) ∧
  (∀ s n k pod h y w bs, k.phase = .admitted → k.err = none → k.released = false → s.cfe.tasks = [k] → k.id = n →
    liveTask s n opFold = some k → wordsHeld s k.desc = false → lastWork s k pod h → h.bag = 0 → k.wLoaded = true →
    (getPod s pod).hq1.items = [] → (getPod s pod).hq2.items = [h] → h.st = .folded →
    h.block + 1 = foldBlocks (dFoldN k.desc) → dToTiles k.desc = false → streamSlot s k pod 3 = .system → chansUp s →
    y = foldScaled h.scale h.cols (capturedAcc s pod h.latch (blockWidth (dFoldN k.desc) h.block)) →
    w = dOutAddr k.desc + (h.bag * outPitch k.desc (sdDim k.shard0) +
      (if outNarrow (dOutFmt k.desc) then h.block * outSize (dOutFmt k.desc) 1024
        else h.block * 1024 * outBits (dOutFmt k.desc) / 8)) →
    bs = (exportRow (dOutFmt k.desc) y).bytes → accessFlt s w bs.length = none →
    ∃ t, exec (.lookupFold n) s = .next t ∧ storedAt w bs (some n) s t ∧
      (∃ j, getTask t n = some j ∧ j.phase = .finished ∧ j.err = none)) ∧
  (∀ s n k p o q, k.phase = .admitted → k.err = none → k.released = false → s.cfe.tasks = [k] → k.id = n →
    liveTask s n opUpdate = some k → wordsHeld s k.desc = false → podsIdle s → streamSteps s = [] → s.cat.misses = [] →
    (∀ x ∈ k.deals, x = dealDone x) → packed s k = true → gated s 9 = false → k.pendingParcels = [p] → k.resids = [] →
    epochsClear s k = true → ringRoom s k = true → s.upu.ring = [] → s.upu.waiting = [] → o = phOwner p.hdr →
    q = nextSeq s o → cellDst s o ≠ s.sfp.engineId → reachable s (cellDst s o) = true → twinState s ≠ 1 →
    twinOpen s = false → cellRoom s o (cellsFor (parcelSize p)) → ∃ t, exec (.update n) s = .next t ∧
      sentOne ctParcel o ((parcelBytes { p with hdr := phSet p.hdr 47 0 q }).map (·.toNat)) s t ∧
      t.upu = { s.upu with
        sent := tabPut o q s.upu.sent, waiting := [(o, folio s)],
        ringTail := (s.upu.ringTail + parcelSize p) % ringSize s,
        ring := [(o, {
          seq := q, task := n, pos := s.upu.ringTail, sent := true, parcel := { p with hdr := phSet p.hdr 47 0 q } })] } ∧
      getTask t n = some { k with released := true, unacked := 1, pendingParcels := [], finishFolio := some (folio s) } ∧
      t.mem.host = s.mem.host) ∧
  (∀ s n k e x c bs, liveTask s n opRowWrite = some k → k.phase = .admitted → k.err = none → k.released = false →
    wordsHeld s k.desc = false → k.unacked = 0 → k.copyPos = 0 → rwCount k.desc = 1 → rwQuant k.desc = false →
    (∀ i ∈ rowShards s k.desc, shardRefuses s i = false) → tableKey s (dTable k.desc) = none → e = dirAt s (dTable k.desc) →
    c = shardIndex e (shardOf e (rwRow k.desc)) → x = descAt s c → deValid e = true → sdTable x = dTable k.desc →
    sdTableLevel x = sdTableLevel k.shard0 → sdTrain k.shard0 = false → sdTrain x = false → sdEsc x = false →
    rowOfTask s k 0 = .row bs → homedHere s x = true → sdShelved x = false → sdState x ≠ 2 →
    (sdTier x = 1 → hostHeld s = false) → holdersOf s (sdTable x) (rwRow k.desc) = [] → moveOf s c = none →
    (∀ q ∈ s.cat.pend, q.task ≠ some n) → twinOpen s = false → chansUp s → ∃ t, exec (.rowWrite n) s = .next t ∧
      storedTier (sdTier x) (rowAddr x (sdBase x) (posOf e (rwRow k.desc))) bs s t ∧
      getTask t n = some (finishedTask (folio s) { k with copyPos := 1 })) ∧
  (∀ s n k e x c bs p, liveTask s n opRowWrite = some k → k.phase = .admitted → k.err = none → k.released = false →
    wordsHeld s k.desc = false → k.copyPos = 0 → rwCount k.desc = 1 → rwQuant k.desc = false →
    (∀ i ∈ rowShards s k.desc, shardRefuses s i = false) → tableKey s (dTable k.desc) = none → e = dirAt s (dTable k.desc) →
    c = shardIndex e (shardOf e (rwRow k.desc)) → x = descAt s c → deValid e = true → sdTable x = dTable k.desc →
    sdTableLevel x = sdTableLevel k.shard0 → sdTrain k.shard0 = false → sdTrain x = false → sdEsc x = false →
    rowOfTask s k 0 = .row bs → homedHere s x = false →
    p = parcelAdd { row := rwRow k.desc, dflt := false, data := bs }
      { hdr := phSet (headerFor s k (sdHome x)) 223 192 n, entries := [] } →
    cellRoom s (sdHome x) (cellsFor (parcelSize p)) → ∃ t, exec (.rowWrite n) s = .next t ∧
      sentOne ctParcel (sdHome x) ((parcelBytes p).map (·.toNat)) s t ∧
      getTask t n = some { k with copyPos := 1, unacked := k.unacked + 1 } ∧ t.mem.host = s.mem.host)

/-! ## What every command leaves alone -/

/-- A command leaves every piece of the machine alone that the list of its pieces does not name, in every state: the front
end's tasks, its queues, the Catalogue, the Pods, each unit's registers, the object dictionary, package memory, GDDR7, the
scratch bytes and the tiles. -/
def Obligations.CommandsKeepTheRest : Prop :=
  ∀ (c : Instr) (s t : State) (p : Piece), exec c s = .next t → p ∉ mayChange c → samePiece p s t

/-! ## Rules stated whole -/

/-- R61: a doorbell value V is accepted where, modulo 2^(n+1), V − H is at least T − H and at most 2^n; else T stays and
CFE_DOORBELL_BAD goes to the queue's event ring. It is ignored while LZ_DOORBELL is 1 or the queue is not ACTIVE, WAITING or
PAUSED, and doorbells take effect in the order in which they wait. A queue whose head copies disagree is as R56 says. -/
def Obligations.Doorbells : Prop :=
  (∀ s q v n (h : Int), regOn s 0 = true → q < 512 → ((getQ s q).state = .active ∨ (getQ s q).state = .waiting ∨
    (getQ s q).state = .paused) → bitOf (getQ s q).ctl 1 = false → queueBroken (getQ s q) = false → n = qLog (getQ s q) →
    h = (getQ s q).head.val → exec (.cfeQTailDoorbell q v) s = .next (
      if ((getQ s q).tail - h) % 2 ^ (n + 1) ≤ ((v : Int) - h) % 2 ^ (n + 1) ∧ ((v : Int) - h) % 2 ^ (n + 1) ≤ 2 ^ n then
        modQ q (fun r => { r with tail := v % 2 ^ (n + 1) }) s
      else postEvent (qEvq s q) evCfeDoorbellBad q 0 0 (onCfe (fun c => { c with badBells := c.badBells + 1 }) s))) ∧
  (∀ s q v, bitOf (getQ s q).ctl 1 = true ∨ ((getQ s q).state ≠ .active ∧ (getQ s q).state ≠ .waiting ∧
    (getQ s q).state ≠ .paused) → exec (.cfeQTailDoorbell q v) s = .next s) ∧
  (∀ s q v p w rest, s.pending = .cfeQTailDoorbell q v :: .cfeQTailDoorbell p w :: rest → ∃ t u, step s = .next t ∧
    step t = .next u ∧ exec (.cfeQTailDoorbell q v) { s with pending := .cfeQTailDoorbell p w :: rest } = .next t ∧
    exec (.cfeQTailDoorbell p w) { t with pending := rest } = .next u)

/-- R77: a FENCE stalls its queue while an earlier task of it has written no record, and its release waits for that; with
XPATH also for every write issued before; then it completes. NOP completes and does nothing else. Both complete with OK
where the record comes within the folio of the task. -/
def Obligations.FencesAndNops : Prop :=
  (∀ s n k, liveTask s n opFence = some k → earlierOpen s k = true →
    ∃ t, exec (.fence n) s = .next t ∧ stallsAs n k { k with phase := .stalled } s t) ∧
  (∀ s n k, liveTask s n opFence = some k → earlierOpen s k = true → exec (.fenceRelease n) s = .next s) ∧
  (∀ s n k, liveTask s n opFence = some k → earlierOpen s k = false → dXpath k.desc = false →
    ∃ t, exec (.fence n) s = .next t ∧ finishes n k s t) ∧
  (∀ s n k, liveTask s n opFence = some k → k.phase = .stalled → earlierOpen s k = false → dXpath k.desc = false →
    k.drainTo = none → ∃ t, exec (.fenceRelease n) s = .next t ∧ finishes n k s t) ∧
  (∀ s n k, liveTask s n opFence = some k → earlierOpen s k = false → dXpath k.desc = true → k.drainTo = none →
    ∃ t, exec (.fence n) s = .next t ∧ stallsAs n k { k with phase := .stalled, drainTo := some s.hpt.issued } s t) ∧
  (∀ s n k m, liveTask s n opFence = some k → k.phase = .stalled → k.drainTo = some m → (∃ w ∈ s.hpt.outq, w.seq ≤ m) →
    ∃ t, exec (.fenceRelease n) s = .next t ∧ getTask t n = some k ∧ getQ t k.queue = getQ s k.queue ∧
      onlyTask n k.queue s t) ∧
  (∀ s n k m, liveTask s n opFence = some k → k.phase = .stalled → earlierOpen s k = false → k.drainTo = some m →
    (∀ w ∈ s.hpt.outq, m < w.seq) → ∃ t, exec (.fenceRelease n) s = .next t ∧ finishes n k s t) ∧
  (∀ s n k, liveTask s n opNop = some k → ∃ t, exec (.nop n) s = .next t ∧ finishes n k s t) ∧
  (∀ k now, dOp k.desc = opNop ∨ dOp k.desc = opFence → k.err = none → k.defaults = 0 → k.sats = 0 → k.bagLong = false →
    now ≤ k.admitFolio → now ≤ dueFolio k → taskStatus (finishedTask now k) now = stOk)

/-- R26: the row at position p of a direct shard starts at byte address BASE × 32 + p × STRIDE × 32 in the shard's home
tier, with BASE in bits 177 to 128 of the descriptor and STRIDE in bits 318 to 309. -/
def Obligations.DirectRowAddress : Prop :=
  ∀ (s : State) (x : BitVec 512) (i p a : Nat), sdShelved x = false →
    a = bitsOf x.toNat 177 128 * 32 + p * bitsOf x.toNat 318 309 * 32 →
    rowPlace s x p = some (sdTier x, a) ∧ resolveRow s i x (sdBase x) p = .place (sdTier x) a

/-- R9: ID_STEPPING is entry 0x1000:03, a U16 that is read only and takes the Operator role, and a GARWA_READ of it answers
0x00A1 to any open session. -/
def Obligations.SteppingEntry : Prop :=
  (∃ e, odNamed 0x1000 3 = some e ∧ e.ty = .u16 ∧ e.acc = .ro ∧ e.role = .operator ∧ e.size = 2) ∧
  (∀ s session role, sessionOk s session role = true → gated s (odSub odIdStepping) = false →
    tabFind odIdStepping s.od = none → exec (.garwaRead session role 0x1000 3 0 2) s =
      .next (respond session osOk [0xA1, 0x00] s))

/-! ## The interleave of GDDR7 -/

/-- With at least one active channel, every byte address has one place: the channel and the offset that R284 compute for it give
the address back, so no two addresses share a place, and the channel is active. Addresses N × 256 bytes apart lie in neighbouring
active channels. -/
def Obligations.GddrInterleave : Prop :=
  (∀ s a, activeChans s ≠ [] → ∃ k, (activeChans s)[k]? = some (chanOf s a) ∧ chanAddr s k (chanOffset s a) = a) ∧
  (∀ s a b, activeChans s ≠ [] → chanOf s a = chanOf s b → chanOffset s a = chanOffset s b → a = b) ∧
  (∀ s a k, k < (activeChans s).length → (activeChans s)[k]? = some (chanOf s a) →
    (activeChans s)[(k + 1) % (activeChans s).length]? = some (chanOf s (a + (activeChans s).length * 256)))

/-! ## Reset, and the same row from any Pod -/

/-- After power-on reset every sync counter is 0, the folio number is 1, every queue and every ring is disabled with its
pointers at 0, no task is there, every clock is enabled, nothing is listed in a memory, and every entry of the object
dictionary holds its default. The memories and the state of the pins are the model's choices, logs 5 and 10. -/
def Obligations.ResetLeaves : Prop :=
  (∀ c, counter State.reset c = 0) ∧ folio State.reset = 1 ∧
  (∀ q, (getQ State.reset q).state = .disabled ∧ qOn (getQ State.reset q) = false ∧ (getQ State.reset q).tail = 0 ∧
    (getQ State.reset q).head.val = 0) ∧
  (∀ i, ringOn (getEvq State.reset i) = false ∧ ringOn (getTel State.reset i) = false) ∧
  State.reset.cfe.tasks = [] ∧ (∀ u, u < 16 → gated State.reset u = false) ∧ State.reset.mem = {} ∧
  (∀ key e, odFind key = some e → odGet State.reset key = e.dflt)

/-- What a bag gives does not depend on the Pod that pools it: its indices, rows and fused tensor are the same, where the same
sprouts drive its streams and the same hash function is loaded; and its leaves, pooled one after the other in LEAF_POOL on a
Pod, give the row of the tree over their decoded rows by their weights, scaled for the mode and rotated (R127, R131, R132). -/
def Obligations.BagsSameOnAnyPod : Prop :=
  (∀ (s : State) (k : Machine.Task) (p q bag : Nat), (∀ kind, streamSlot s k p kind = streamSlot s k q kind) →
    tabFind k.hashSlot (getPod s p).hashes = tabFind k.hashSlot (getPod s q).hashes →
    bagSpan s k p bag = bagSpan s k q bag ∧ (∀ base j, bagEntry s k p bag base j = bagEntry s k q bag base j) ∧
    (∀ r, finishFuse s k p bag r = finishFuse s k q bag r)) ∧
  (∀ (p : Pod) (k : Machine.Task) (b : Bag) (ls : List Leaf) (r : List F32), dPool k.desc ≤ 5 → b.acc = none →
    b.stack = [] → b.lin = none →
    r = scaleBag (dPool k.desc) b.n (poolLeaves (dPool k.desc) (sdDim k.shard0) (ls.map (fun l => (l.weight, poolVec p l)))) →
    bagRow p k (ls.foldl (fun b l => poolInto (dPool k.desc) l (poolVec p l) b) b) =
      if sdRot k.shard0 then rotateInv (sdBlock k.shard0) (cbBytes p (signNeed k.shard0)) r else r)
end

