-- ==== Sys2Proof/Laws/State.lean ====
section
/-! SUPPORT. What a change of one part of the state leaves of every field: one lemma per field and change, true by
computation, so that no proof unfolds a record update. -/

namespace Sys2Proof.Machine

variable (s : State)

@[simp] theorem onCfe_cfe (f) : (onCfe f s).cfe = f s.cfe := rfl
@[simp] theorem onCfe_cat (f) : (onCfe f s).cat = s.cat := rfl
@[simp] theorem onCfe_pods (f) : (onCfe f s).pods = s.pods := rfl
@[simp] theorem onCfe_gau (f) : (onCfe f s).gau = s.gau := rfl
@[simp] theorem onCfe_stk (f) : (onCfe f s).stk = s.stk := rfl
@[simp] theorem onCfe_mss (f) : (onCfe f s).mss = s.mss := rfl
@[simp] theorem onCfe_upu (f) : (onCfe f s).upu = s.upu := rfl
@[simp] theorem onCfe_hpt (f) : (onCfe f s).hpt = s.hpt := rfl
@[simp] theorem onCfe_sfp (f) : (onCfe f s).sfp = s.sfp := rfl
@[simp] theorem onCfe_fsu (f) : (onCfe f s).fsu = s.fsu := rfl
@[simp] theorem onCfe_msc (f) : (onCfe f s).msc = s.msc := rfl
@[simp] theorem onCfe_cru (f) : (onCfe f s).cru = s.cru := rfl
@[simp] theorem onCfe_od (f) : (onCfe f s).od = s.od := rfl
@[simp] theorem onCfe_mem (f) : (onCfe f s).mem = s.mem := rfl
@[simp] theorem onCfe_out (f) : (onCfe f s).out = s.out := rfl
@[simp] theorem onCfe_pending (f) : (onCfe f s).pending = s.pending := rfl
@[simp] theorem onCfe_onCfe (f g) : onCfe f (onCfe g s) = onCfe (fun x => f (g x)) s := rfl

@[simp] theorem onCat_cfe (f) : (onCat f s).cfe = s.cfe := rfl
@[simp] theorem onCat_cat (f) : (onCat f s).cat = f s.cat := rfl
@[simp] theorem onCat_pods (f) : (onCat f s).pods = s.pods := rfl
@[simp] theorem onCat_gau (f) : (onCat f s).gau = s.gau := rfl
@[simp] theorem onCat_stk (f) : (onCat f s).stk = s.stk := rfl
@[simp] theorem onCat_mss (f) : (onCat f s).mss = s.mss := rfl
@[simp] theorem onCat_upu (f) : (onCat f s).upu = s.upu := rfl
@[simp] theorem onCat_hpt (f) : (onCat f s).hpt = s.hpt := rfl
@[simp] theorem onCat_sfp (f) : (onCat f s).sfp = s.sfp := rfl
@[simp] theorem onCat_fsu (f) : (onCat f s).fsu = s.fsu := rfl
@[simp] theorem onCat_msc (f) : (onCat f s).msc = s.msc := rfl
@[simp] theorem onCat_cru (f) : (onCat f s).cru = s.cru := rfl
@[simp] theorem onCat_od (f) : (onCat f s).od = s.od := rfl
@[simp] theorem onCat_mem (f) : (onCat f s).mem = s.mem := rfl
@[simp] theorem onCat_out (f) : (onCat f s).out = s.out := rfl
@[simp] theorem onCat_pending (f) : (onCat f s).pending = s.pending := rfl
@[simp] theorem onCat_onCat (f g) : onCat f (onCat g s) = onCat (fun x => f (g x)) s := rfl

@[simp] theorem onPods_cfe (f) : (onPods f s).cfe = s.cfe := rfl
@[simp] theorem onPods_cat (f) : (onPods f s).cat = s.cat := rfl
@[simp] theorem onPods_pods (f) : (onPods f s).pods = f s.pods := rfl
@[simp] theorem onPods_gau (f) : (onPods f s).gau = s.gau := rfl
@[simp] theorem onPods_stk (f) : (onPods f s).stk = s.stk := rfl
@[simp] theorem onPods_mss (f) : (onPods f s).mss = s.mss := rfl
@[simp] theorem onPods_upu (f) : (onPods f s).upu = s.upu := rfl
@[simp] theorem onPods_hpt (f) : (onPods f s).hpt = s.hpt := rfl
@[simp] theorem onPods_sfp (f) : (onPods f s).sfp = s.sfp := rfl
@[simp] theorem onPods_fsu (f) : (onPods f s).fsu = s.fsu := rfl
@[simp] theorem onPods_msc (f) : (onPods f s).msc = s.msc := rfl
@[simp] theorem onPods_cru (f) : (onPods f s).cru = s.cru := rfl
@[simp] theorem onPods_od (f) : (onPods f s).od = s.od := rfl
@[simp] theorem onPods_mem (f) : (onPods f s).mem = s.mem := rfl
@[simp] theorem onPods_out (f) : (onPods f s).out = s.out := rfl
@[simp] theorem onPods_pending (f) : (onPods f s).pending = s.pending := rfl
@[simp] theorem onPods_onPods (f g) : onPods f (onPods g s) = onPods (fun x => f (g x)) s := rfl

@[simp] theorem onGau_cfe (f) : (onGau f s).cfe = s.cfe := rfl
@[simp] theorem onGau_cat (f) : (onGau f s).cat = s.cat := rfl
@[simp] theorem onGau_pods (f) : (onGau f s).pods = s.pods := rfl
@[simp] theorem onGau_gau (f) : (onGau f s).gau = f s.gau := rfl
@[simp] theorem onGau_stk (f) : (onGau f s).stk = s.stk := rfl
@[simp] theorem onGau_mss (f) : (onGau f s).mss = s.mss := rfl
@[simp] theorem onGau_upu (f) : (onGau f s).upu = s.upu := rfl
@[simp] theorem onGau_hpt (f) : (onGau f s).hpt = s.hpt := rfl
@[simp] theorem onGau_sfp (f) : (onGau f s).sfp = s.sfp := rfl
@[simp] theorem onGau_fsu (f) : (onGau f s).fsu = s.fsu := rfl
@[simp] theorem onGau_msc (f) : (onGau f s).msc = s.msc := rfl
@[simp] theorem onGau_cru (f) : (onGau f s).cru = s.cru := rfl
@[simp] theorem onGau_od (f) : (onGau f s).od = s.od := rfl
@[simp] theorem onGau_mem (f) : (onGau f s).mem = s.mem := rfl
@[simp] theorem onGau_out (f) : (onGau f s).out = s.out := rfl
@[simp] theorem onGau_pending (f) : (onGau f s).pending = s.pending := rfl
@[simp] theorem onGau_onGau (f g) : onGau f (onGau g s) = onGau (fun x => f (g x)) s := rfl

@[simp] theorem onStk_cfe (f) : (onStk f s).cfe = s.cfe := rfl
@[simp] theorem onStk_cat (f) : (onStk f s).cat = s.cat := rfl
@[simp] theorem onStk_pods (f) : (onStk f s).pods = s.pods := rfl
@[simp] theorem onStk_gau (f) : (onStk f s).gau = s.gau := rfl
@[simp] theorem onStk_stk (f) : (onStk f s).stk = f s.stk := rfl
@[simp] theorem onStk_mss (f) : (onStk f s).mss = s.mss := rfl
@[simp] theorem onStk_upu (f) : (onStk f s).upu = s.upu := rfl
@[simp] theorem onStk_hpt (f) : (onStk f s).hpt = s.hpt := rfl
@[simp] theorem onStk_sfp (f) : (onStk f s).sfp = s.sfp := rfl
@[simp] theorem onStk_fsu (f) : (onStk f s).fsu = s.fsu := rfl
@[simp] theorem onStk_msc (f) : (onStk f s).msc = s.msc := rfl
@[simp] theorem onStk_cru (f) : (onStk f s).cru = s.cru := rfl
@[simp] theorem onStk_od (f) : (onStk f s).od = s.od := rfl
@[simp] theorem onStk_mem (f) : (onStk f s).mem = s.mem := rfl
@[simp] theorem onStk_out (f) : (onStk f s).out = s.out := rfl
@[simp] theorem onStk_pending (f) : (onStk f s).pending = s.pending := rfl
@[simp] theorem onStk_onStk (f g) : onStk f (onStk g s) = onStk (fun x => f (g x)) s := rfl

@[simp] theorem onMss_cfe (f) : (onMss f s).cfe = s.cfe := rfl
@[simp] theorem onMss_cat (f) : (onMss f s).cat = s.cat := rfl
@[simp] theorem onMss_pods (f) : (onMss f s).pods = s.pods := rfl
@[simp] theorem onMss_gau (f) : (onMss f s).gau = s.gau := rfl
@[simp] theorem onMss_stk (f) : (onMss f s).stk = s.stk := rfl
@[simp] theorem onMss_mss (f) : (onMss f s).mss = f s.mss := rfl
@[simp] theorem onMss_upu (f) : (onMss f s).upu = s.upu := rfl
@[simp] theorem onMss_hpt (f) : (onMss f s).hpt = s.hpt := rfl
@[simp] theorem onMss_sfp (f) : (onMss f s).sfp = s.sfp := rfl
@[simp] theorem onMss_fsu (f) : (onMss f s).fsu = s.fsu := rfl
@[simp] theorem onMss_msc (f) : (onMss f s).msc = s.msc := rfl
@[simp] theorem onMss_cru (f) : (onMss f s).cru = s.cru := rfl
@[simp] theorem onMss_od (f) : (onMss f s).od = s.od := rfl
@[simp] theorem onMss_mem (f) : (onMss f s).mem = s.mem := rfl
@[simp] theorem onMss_out (f) : (onMss f s).out = s.out := rfl
@[simp] theorem onMss_pending (f) : (onMss f s).pending = s.pending := rfl
@[simp] theorem onMss_onMss (f g) : onMss f (onMss g s) = onMss (fun x => f (g x)) s := rfl

@[simp] theorem onUpu_cfe (f) : (onUpu f s).cfe = s.cfe := rfl
@[simp] theorem onUpu_cat (f) : (onUpu f s).cat = s.cat := rfl
@[simp] theorem onUpu_pods (f) : (onUpu f s).pods = s.pods := rfl
@[simp] theorem onUpu_gau (f) : (onUpu f s).gau = s.gau := rfl
@[simp] theorem onUpu_stk (f) : (onUpu f s).stk = s.stk := rfl
@[simp] theorem onUpu_mss (f) : (onUpu f s).mss = s.mss := rfl
@[simp] theorem onUpu_upu (f) : (onUpu f s).upu = f s.upu := rfl
@[simp] theorem onUpu_hpt (f) : (onUpu f s).hpt = s.hpt := rfl
@[simp] theorem onUpu_sfp (f) : (onUpu f s).sfp = s.sfp := rfl
@[simp] theorem onUpu_fsu (f) : (onUpu f s).fsu = s.fsu := rfl
@[simp] theorem onUpu_msc (f) : (onUpu f s).msc = s.msc := rfl
@[simp] theorem onUpu_cru (f) : (onUpu f s).cru = s.cru := rfl
@[simp] theorem onUpu_od (f) : (onUpu f s).od = s.od := rfl
@[simp] theorem onUpu_mem (f) : (onUpu f s).mem = s.mem := rfl
@[simp] theorem onUpu_out (f) : (onUpu f s).out = s.out := rfl
@[simp] theorem onUpu_pending (f) : (onUpu f s).pending = s.pending := rfl
@[simp] theorem onUpu_onUpu (f g) : onUpu f (onUpu g s) = onUpu (fun x => f (g x)) s := rfl

@[simp] theorem onHpt_cfe (f) : (onHpt f s).cfe = s.cfe := rfl
@[simp] theorem onHpt_cat (f) : (onHpt f s).cat = s.cat := rfl
@[simp] theorem onHpt_pods (f) : (onHpt f s).pods = s.pods := rfl
@[simp] theorem onHpt_gau (f) : (onHpt f s).gau = s.gau := rfl
@[simp] theorem onHpt_stk (f) : (onHpt f s).stk = s.stk := rfl
@[simp] theorem onHpt_mss (f) : (onHpt f s).mss = s.mss := rfl
@[simp] theorem onHpt_upu (f) : (onHpt f s).upu = s.upu := rfl
@[simp] theorem onHpt_hpt (f) : (onHpt f s).hpt = f s.hpt := rfl
@[simp] theorem onHpt_sfp (f) : (onHpt f s).sfp = s.sfp := rfl
@[simp] theorem onHpt_fsu (f) : (onHpt f s).fsu = s.fsu := rfl
@[simp] theorem onHpt_msc (f) : (onHpt f s).msc = s.msc := rfl
@[simp] theorem onHpt_cru (f) : (onHpt f s).cru = s.cru := rfl
@[simp] theorem onHpt_od (f) : (onHpt f s).od = s.od := rfl
@[simp] theorem onHpt_mem (f) : (onHpt f s).mem = s.mem := rfl
@[simp] theorem onHpt_out (f) : (onHpt f s).out = s.out := rfl
@[simp] theorem onHpt_pending (f) : (onHpt f s).pending = s.pending := rfl
@[simp] theorem onHpt_onHpt (f g) : onHpt f (onHpt g s) = onHpt (fun x => f (g x)) s := rfl

@[simp] theorem onSfp_cfe (f) : (onSfp f s).cfe = s.cfe := rfl
@[simp] theorem onSfp_cat (f) : (onSfp f s).cat = s.cat := rfl
@[simp] theorem onSfp_pods (f) : (onSfp f s).pods = s.pods := rfl
@[simp] theorem onSfp_gau (f) : (onSfp f s).gau = s.gau := rfl
@[simp] theorem onSfp_stk (f) : (onSfp f s).stk = s.stk := rfl
@[simp] theorem onSfp_mss (f) : (onSfp f s).mss = s.mss := rfl
@[simp] theorem onSfp_upu (f) : (onSfp f s).upu = s.upu := rfl
@[simp] theorem onSfp_hpt (f) : (onSfp f s).hpt = s.hpt := rfl
@[simp] theorem onSfp_sfp (f) : (onSfp f s).sfp = f s.sfp := rfl
@[simp] theorem onSfp_fsu (f) : (onSfp f s).fsu = s.fsu := rfl
@[simp] theorem onSfp_msc (f) : (onSfp f s).msc = s.msc := rfl
@[simp] theorem onSfp_cru (f) : (onSfp f s).cru = s.cru := rfl
@[simp] theorem onSfp_od (f) : (onSfp f s).od = s.od := rfl
@[simp] theorem onSfp_mem (f) : (onSfp f s).mem = s.mem := rfl
@[simp] theorem onSfp_out (f) : (onSfp f s).out = s.out := rfl
@[simp] theorem onSfp_pending (f) : (onSfp f s).pending = s.pending := rfl
@[simp] theorem onSfp_onSfp (f g) : onSfp f (onSfp g s) = onSfp (fun x => f (g x)) s := rfl

@[simp] theorem onFsu_cfe (f) : (onFsu f s).cfe = s.cfe := rfl
@[simp] theorem onFsu_cat (f) : (onFsu f s).cat = s.cat := rfl
@[simp] theorem onFsu_pods (f) : (onFsu f s).pods = s.pods := rfl
@[simp] theorem onFsu_gau (f) : (onFsu f s).gau = s.gau := rfl
@[simp] theorem onFsu_stk (f) : (onFsu f s).stk = s.stk := rfl
@[simp] theorem onFsu_mss (f) : (onFsu f s).mss = s.mss := rfl
@[simp] theorem onFsu_upu (f) : (onFsu f s).upu = s.upu := rfl
@[simp] theorem onFsu_hpt (f) : (onFsu f s).hpt = s.hpt := rfl
@[simp] theorem onFsu_sfp (f) : (onFsu f s).sfp = s.sfp := rfl
@[simp] theorem onFsu_fsu (f) : (onFsu f s).fsu = f s.fsu := rfl
@[simp] theorem onFsu_msc (f) : (onFsu f s).msc = s.msc := rfl
@[simp] theorem onFsu_cru (f) : (onFsu f s).cru = s.cru := rfl
@[simp] theorem onFsu_od (f) : (onFsu f s).od = s.od := rfl
@[simp] theorem onFsu_mem (f) : (onFsu f s).mem = s.mem := rfl
@[simp] theorem onFsu_out (f) : (onFsu f s).out = s.out := rfl
@[simp] theorem onFsu_pending (f) : (onFsu f s).pending = s.pending := rfl
@[simp] theorem onFsu_onFsu (f g) : onFsu f (onFsu g s) = onFsu (fun x => f (g x)) s := rfl

@[simp] theorem onMsc_cfe (f) : (onMsc f s).cfe = s.cfe := rfl
@[simp] theorem onMsc_cat (f) : (onMsc f s).cat = s.cat := rfl
@[simp] theorem onMsc_pods (f) : (onMsc f s).pods = s.pods := rfl
@[simp] theorem onMsc_gau (f) : (onMsc f s).gau = s.gau := rfl
@[simp] theorem onMsc_stk (f) : (onMsc f s).stk = s.stk := rfl
@[simp] theorem onMsc_mss (f) : (onMsc f s).mss = s.mss := rfl
@[simp] theorem onMsc_upu (f) : (onMsc f s).upu = s.upu := rfl
@[simp] theorem onMsc_hpt (f) : (onMsc f s).hpt = s.hpt := rfl
@[simp] theorem onMsc_sfp (f) : (onMsc f s).sfp = s.sfp := rfl
@[simp] theorem onMsc_fsu (f) : (onMsc f s).fsu = s.fsu := rfl
@[simp] theorem onMsc_msc (f) : (onMsc f s).msc = f s.msc := rfl
@[simp] theorem onMsc_cru (f) : (onMsc f s).cru = s.cru := rfl
@[simp] theorem onMsc_od (f) : (onMsc f s).od = s.od := rfl
@[simp] theorem onMsc_mem (f) : (onMsc f s).mem = s.mem := rfl
@[simp] theorem onMsc_out (f) : (onMsc f s).out = s.out := rfl
@[simp] theorem onMsc_pending (f) : (onMsc f s).pending = s.pending := rfl
@[simp] theorem onMsc_onMsc (f g) : onMsc f (onMsc g s) = onMsc (fun x => f (g x)) s := rfl

@[simp] theorem onCru_cfe (f) : (onCru f s).cfe = s.cfe := rfl
@[simp] theorem onCru_cat (f) : (onCru f s).cat = s.cat := rfl
@[simp] theorem onCru_pods (f) : (onCru f s).pods = s.pods := rfl
@[simp] theorem onCru_gau (f) : (onCru f s).gau = s.gau := rfl
@[simp] theorem onCru_stk (f) : (onCru f s).stk = s.stk := rfl
@[simp] theorem onCru_mss (f) : (onCru f s).mss = s.mss := rfl
@[simp] theorem onCru_upu (f) : (onCru f s).upu = s.upu := rfl
@[simp] theorem onCru_hpt (f) : (onCru f s).hpt = s.hpt := rfl
@[simp] theorem onCru_sfp (f) : (onCru f s).sfp = s.sfp := rfl
@[simp] theorem onCru_fsu (f) : (onCru f s).fsu = s.fsu := rfl
@[simp] theorem onCru_msc (f) : (onCru f s).msc = s.msc := rfl
@[simp] theorem onCru_cru (f) : (onCru f s).cru = f s.cru := rfl
@[simp] theorem onCru_od (f) : (onCru f s).od = s.od := rfl
@[simp] theorem onCru_mem (f) : (onCru f s).mem = s.mem := rfl
@[simp] theorem onCru_out (f) : (onCru f s).out = s.out := rfl
@[simp] theorem onCru_pending (f) : (onCru f s).pending = s.pending := rfl
@[simp] theorem onCru_onCru (f g) : onCru f (onCru g s) = onCru (fun x => f (g x)) s := rfl

@[simp] theorem onOd_cfe (f) : (onOd f s).cfe = s.cfe := rfl
@[simp] theorem onOd_cat (f) : (onOd f s).cat = s.cat := rfl
@[simp] theorem onOd_pods (f) : (onOd f s).pods = s.pods := rfl
@[simp] theorem onOd_gau (f) : (onOd f s).gau = s.gau := rfl
@[simp] theorem onOd_stk (f) : (onOd f s).stk = s.stk := rfl
@[simp] theorem onOd_mss (f) : (onOd f s).mss = s.mss := rfl
@[simp] theorem onOd_upu (f) : (onOd f s).upu = s.upu := rfl
@[simp] theorem onOd_hpt (f) : (onOd f s).hpt = s.hpt := rfl
@[simp] theorem onOd_sfp (f) : (onOd f s).sfp = s.sfp := rfl
@[simp] theorem onOd_fsu (f) : (onOd f s).fsu = s.fsu := rfl
@[simp] theorem onOd_msc (f) : (onOd f s).msc = s.msc := rfl
@[simp] theorem onOd_cru (f) : (onOd f s).cru = s.cru := rfl
@[simp] theorem onOd_od (f) : (onOd f s).od = f s.od := rfl
@[simp] theorem onOd_mem (f) : (onOd f s).mem = s.mem := rfl
@[simp] theorem onOd_out (f) : (onOd f s).out = s.out := rfl
@[simp] theorem onOd_pending (f) : (onOd f s).pending = s.pending := rfl
@[simp] theorem onOd_onOd (f g) : onOd f (onOd g s) = onOd (fun x => f (g x)) s := rfl

@[simp] theorem onMem_cfe (f) : (onMem f s).cfe = s.cfe := rfl
@[simp] theorem onMem_cat (f) : (onMem f s).cat = s.cat := rfl
@[simp] theorem onMem_pods (f) : (onMem f s).pods = s.pods := rfl
@[simp] theorem onMem_gau (f) : (onMem f s).gau = s.gau := rfl
@[simp] theorem onMem_stk (f) : (onMem f s).stk = s.stk := rfl
@[simp] theorem onMem_mss (f) : (onMem f s).mss = s.mss := rfl
@[simp] theorem onMem_upu (f) : (onMem f s).upu = s.upu := rfl
@[simp] theorem onMem_hpt (f) : (onMem f s).hpt = s.hpt := rfl
@[simp] theorem onMem_sfp (f) : (onMem f s).sfp = s.sfp := rfl
@[simp] theorem onMem_fsu (f) : (onMem f s).fsu = s.fsu := rfl
@[simp] theorem onMem_msc (f) : (onMem f s).msc = s.msc := rfl
@[simp] theorem onMem_cru (f) : (onMem f s).cru = s.cru := rfl
@[simp] theorem onMem_od (f) : (onMem f s).od = s.od := rfl
@[simp] theorem onMem_mem (f) : (onMem f s).mem = f s.mem := rfl
@[simp] theorem onMem_out (f) : (onMem f s).out = s.out := rfl
@[simp] theorem onMem_pending (f) : (onMem f s).pending = s.pending := rfl
@[simp] theorem onMem_onMem (f g) : onMem f (onMem g s) = onMem (fun x => f (g x)) s := rfl

@[simp] theorem onOut_cfe (f) : (onOut f s).cfe = s.cfe := rfl
@[simp] theorem onOut_cat (f) : (onOut f s).cat = s.cat := rfl
@[simp] theorem onOut_pods (f) : (onOut f s).pods = s.pods := rfl
@[simp] theorem onOut_gau (f) : (onOut f s).gau = s.gau := rfl
@[simp] theorem onOut_stk (f) : (onOut f s).stk = s.stk := rfl
@[simp] theorem onOut_mss (f) : (onOut f s).mss = s.mss := rfl
@[simp] theorem onOut_upu (f) : (onOut f s).upu = s.upu := rfl
@[simp] theorem onOut_hpt (f) : (onOut f s).hpt = s.hpt := rfl
@[simp] theorem onOut_sfp (f) : (onOut f s).sfp = s.sfp := rfl
@[simp] theorem onOut_fsu (f) : (onOut f s).fsu = s.fsu := rfl
@[simp] theorem onOut_msc (f) : (onOut f s).msc = s.msc := rfl
@[simp] theorem onOut_cru (f) : (onOut f s).cru = s.cru := rfl
@[simp] theorem onOut_od (f) : (onOut f s).od = s.od := rfl
@[simp] theorem onOut_mem (f) : (onOut f s).mem = s.mem := rfl
@[simp] theorem onOut_out (f) : (onOut f s).out = f s.out := rfl
@[simp] theorem onOut_pending (f) : (onOut f s).pending = s.pending := rfl
@[simp] theorem onOut_onOut (f g) : onOut f (onOut g s) = onOut (fun x => f (g x)) s := rfl

end Sys2Proof.Machine
end

