-- ==== Sys2Proof/Laws/Keep.lean ====
section
/-! SUPPORT. Which parts of the machine's state a function can change, said once for each function: a predicate on states
that is stable under changes of those parts holds after the function if it held before. -/

namespace Sys2Proof.Machine

/-- What functions change: the parts of State, with the four memories apart, and five operations that change a little of
several parts: a change of a queue (mq), a posted write (pw), a write laid over pinned rows and replicas (po), a store to
GDDR7 (st) and the posting of an event (ev). -/
inductive Part where
  | cfe | cat | pods | gau | stk | mss | upu | hpt | sfp | fsu | msc | cru | od | out | host | gddr | scratch | tiles
  | mq | pw | po | st | ev
  deriving DecidableEq, Repr

/-- A predicate that no change of a part makes false; a memory changes only to memories in canonical form. -/
def Stable (P : State → Prop) : Part → Prop
  | .cfe => ∀ f s, P s → P (onCfe f s)
  | .cat => ∀ f s, P s → P (onCat f s)
  | .pods => ∀ f s, P s → P (onPods f s)
  | .gau => ∀ f s, P s → P (onGau f s)
  | .stk => ∀ f s, P s → P (onStk f s)
  | .mss => ∀ f s, P s → P (onMss f s)
  | .upu => ∀ f s, P s → P (onUpu f s)
  | .hpt => ∀ f s, P s → P (onHpt f s)
  | .sfp => ∀ f s, P s → P (onSfp f s)
  | .fsu => ∀ f s, P s → P (onFsu f s)
  | .msc => ∀ f s, P s → P (onMsc f s)
  | .cru => ∀ f s, P s → P (onCru f s)
  | .od => ∀ f s, P s → P (onOd f s)
  | .out => ∀ f s, P s → P (onOut f s)
  | .host => ∀ (f : List Host.Cell → List Host.Cell) s, (∀ m, memWf m → memWf (f m)) → P s → P (onMem (fun m => { m with host := f m.host }) s)
  | .gddr => ∀ (f : List Host.Cell → List Host.Cell) s, (∀ m, memWf m → memWf (f m)) → P s → P (onMem (fun m => { m with gddr := f m.gddr }) s)
  | .scratch => ∀ (f : List Host.Cell → List Host.Cell) s, (∀ m, memWf m → memWf (f m)) → P s → P (onMem (fun m => { m with scratch := f m.scratch }) s)
  | .tiles => ∀ (f : List Host.Cell → List Host.Cell) s, (∀ m, memWf m → memWf (f m)) → P s → P (onMem (fun m => { m with tiles := f m.tiles }) s)
  | .mq => ∀ q f s, P s → P (modQ q f s)
  | .pw => ∀ path a bs t kind s, P s → P (postWrite path a bs t kind s)
  | .po => ∀ tier a bs s, P s → P (pinOverlay tier a bs s)
  | .st => ∀ a bs s, P s → P (gddrStore a bs s)
  | .ev => ∀ i e n c d s, P s → P (postEvent i e n c d s)

/-- P holds of a state. -/
def Holds (P : State → Prop) (s : State) : Prop := P s
/-- P holds of the state that a function answers, if it answers one. -/
def HoldsO (P : State → Prop) (o : Option State) : Prop := ∀ t, o = some t → Holds P t
/-- P holds of the first of a pair. -/
def HoldsF {α : Type} (P : State → Prop) (x : State × α) : Prop := Holds P x.1
/-- P holds of the second of a pair. -/
def HoldsG {α : Type} (P : State → Prop) (x : α × State) : Prop := Holds P x.2
/-- P holds of the next state of an outcome. -/
def HoldsR (P : State → Prop) (r : Host.Outcome State Fault Refusal) : Prop := ∀ t, r = .next t → Holds P t
/-- P holds of the state that a function answers beside a number, if it answers one. -/
def HoldsQ (P : State → Prop) (o : Option (Nat × State)) : Prop := ∀ n t, o = some (n, t) → Holds P t

variable {P : State → Prop} {s : State}

theorem HoldsR.next {t : State} (h : Holds P t) : HoldsR P (.next t) := by
  intro u hu; cases hu; exact h
theorem ofO {o : Option State} {t : State} (e : o = some t) (h : HoldsO P o) : Holds P t := h t e
theorem ofF {α : Type} {x : State × α} {t : State} {y : α} (e : x = (t, y)) (h : HoldsF P x) : Holds P t := by
  subst e; exact h
theorem ofG {α : Type} {x : α × State} {t : State} {y : α} (e : x = (y, t)) (h : HoldsG P x) : Holds P t := by
  subst e; exact h

@[simp ↓] theorem holdsO_none : HoldsO P none := by intro t h; cases h
@[simp ↓] theorem holdsO_some {t : State} (h : Holds P t) : HoldsO P (some t) := by intro u e; cases e; exact h
@[simp ↓] theorem holdsQ_none : HoldsQ P none := by intro n t h; cases h
@[simp ↓] theorem holdsQ_some {n : Nat} {t : State} (h : Holds P t) : HoldsQ P (some (n, t)) := by intro m u e; cases e; exact h
theorem ofQ {o : Option (Nat × State)} {n : Nat} {t : State} (e : o = some (n, t)) (h : HoldsQ P o) : Holds P t := h n t e
@[simp ↓] theorem getD_holds {o : Option State} (ho : HoldsO P o) (hs : Holds P s) : Holds P (o.getD s) := by
  cases o with
  | none => exact hs
  | some t => exact ho t rfl
@[simp ↓] theorem holdsO_ite {c : Prop} [Decidable c] {a b : Option State} (ha : HoldsO P a) (hb : HoldsO P b) :
    HoldsO P (if c then a else b) := by split <;> assumption
@[simp ↓] theorem map_holds {o : Option State} {f : State → State} (hf : ∀ t, Holds P t → Holds P (f t)) (ho : HoldsO P o) :
    HoldsO P (o.map f) := by
  cases o with
  | none => exact holdsO_none
  | some t => exact holdsO_some (hf t (ho t rfl))
@[simp ↓] theorem foldlG_holds {α β : Type} (f : β × State → α → β × State) (hf : ∀ y a, HoldsG P y → HoldsG P (f y a))
    (xs : List α) (y : β × State) (hy : HoldsG P y) : HoldsG P (xs.foldl f y) := by
  induction xs generalizing y with
  | nil => exact hy
  | cons x xs ih => exact ih _ (hf _ _ hy)
@[simp ↓] theorem holdsF_mk {α : Type} {t : State} {y : α} (h : Holds P t) : HoldsF P (t, y) := h
@[simp ↓] theorem holdsG_mk {α : Type} {t : State} {y : α} (h : Holds P t) : HoldsG P (y, t) := h
@[simp ↓] theorem holdsF_fst {α : Type} {x : State × α} (h : HoldsF P x) : Holds P x.1 := h
@[simp ↓] theorem holdsG_snd {α : Type} {x : α × State} (h : HoldsG P x) : Holds P x.2 := h
theorem holdsG_ite {α : Type} {c : Prop} [Decidable c] {a b : α × State} (ha : HoldsG P a) (hb : HoldsG P b) :
    HoldsG P (if c then a else b) := by split <;> assumption
@[simp ↓] theorem holds_ite {c : Prop} [Decidable c] {a b : State} (ha : Holds P a) (hb : Holds P b) :
    Holds P (if c then a else b) := by split <;> assumption

@[simp ↓] theorem onCfe_holds (h : Stable P .cfe) (f) (hs : Holds P s) : Holds P (onCfe f s) := h f s hs
@[simp ↓] theorem onCat_holds (h : Stable P .cat) (f) (hs : Holds P s) : Holds P (onCat f s) := h f s hs
@[simp ↓] theorem onPods_holds (h : Stable P .pods) (f) (hs : Holds P s) : Holds P (onPods f s) := h f s hs
@[simp ↓] theorem onGau_holds (h : Stable P .gau) (f) (hs : Holds P s) : Holds P (onGau f s) := h f s hs
@[simp ↓] theorem onStk_holds (h : Stable P .stk) (f) (hs : Holds P s) : Holds P (onStk f s) := h f s hs
@[simp ↓] theorem onMss_holds (h : Stable P .mss) (f) (hs : Holds P s) : Holds P (onMss f s) := h f s hs
@[simp ↓] theorem onUpu_holds (h : Stable P .upu) (f) (hs : Holds P s) : Holds P (onUpu f s) := h f s hs
@[simp ↓] theorem onHpt_holds (h : Stable P .hpt) (f) (hs : Holds P s) : Holds P (onHpt f s) := h f s hs
@[simp ↓] theorem onSfp_holds (h : Stable P .sfp) (f) (hs : Holds P s) : Holds P (onSfp f s) := h f s hs
@[simp ↓] theorem onFsu_holds (h : Stable P .fsu) (f) (hs : Holds P s) : Holds P (onFsu f s) := h f s hs
@[simp ↓] theorem onMsc_holds (h : Stable P .msc) (f) (hs : Holds P s) : Holds P (onMsc f s) := h f s hs
@[simp ↓] theorem onCru_holds (h : Stable P .cru) (f) (hs : Holds P s) : Holds P (onCru f s) := h f s hs
@[simp ↓] theorem onOd_holds (h : Stable P .od) (f) (hs : Holds P s) : Holds P (onOd f s) := h f s hs
@[simp ↓] theorem onOut_holds (h : Stable P .out) (f) (hs : Holds P s) : Holds P (onOut f s) := h f s hs

@[simp ↓] theorem modQ_holds (h : Stable P .mq) (q) (f) (hs : Holds P s) : Holds P (modQ q f s) := h q f s hs
@[simp ↓] theorem postWrite_holds (h : Stable P .pw) (path a bs t kind) (hs : Holds P s) : Holds P (postWrite path a bs t kind s) :=
  h path a bs t kind s hs
@[simp ↓] theorem pinOverlay_holds (h : Stable P .po) (tier a bs) (hs : Holds P s) : Holds P (pinOverlay tier a bs s) :=
  h tier a bs s hs
@[simp ↓] theorem gddrStore_holds (h : Stable P .st) (a bs) (hs : Holds P s) : Holds P (gddrStore a bs s) := h a bs s hs
@[simp ↓] theorem postEvent_holds (h : Stable P .ev) (i e n c d) (hs : Holds P s) : Holds P (postEvent i e n c d s) :=
  h i e n c d s hs

/-! ## The memories stay in canonical form -/

theorem tabRising_tail {α : Type} {x : Nat × α} {t : List (Nat × α)} (h : tabRising (x :: t)) : tabRising t := by
  cases t with
  | nil => rfl
  | cons y t => obtain ⟨k, v⟩ := y; obtain ⟨j, w⟩ := x; simp only [tabRising, Bool.and_eq_true] at h; exact h.2

/-- The numbers of a rising table lie above the head's. -/
theorem tabRising_head {α : Type} {j : Nat} {w : α} {t : List (Nat × α)} (h : tabRising ((j, w) :: t)) :
    ∀ x ∈ t, j < x.1 := by
  induction t generalizing j w with
  | nil => intro x hx; cases hx
  | cons y t ih =>
    obtain ⟨k, v⟩ := y
    simp only [tabRising, Bool.and_eq_true, decide_eq_true_eq] at h
    intro x hx
    cases hx with
    | head => exact h.1
    | tail _ hx => exact Nat.lt_trans h.1 (ih h.2 x hx)

theorem tabRising_cons {α : Type} {j : Nat} {w : α} {t : List (Nat × α)} (hj : ∀ x ∈ t, j < x.1) (h : tabRising t) :
    tabRising ((j, w) :: t) := by
  cases t with
  | nil => rfl
  | cons y t =>
    obtain ⟨k, v⟩ := y
    simp only [tabRising, Bool.and_eq_true, decide_eq_true_eq]
    exact ⟨hj (k, v) (List.mem_cons_self ..), h⟩

theorem tabPut_mem {α : Type} {k : Nat} {v : α} {t : List (Nat × α)} {x : Nat × α} (h : x ∈ tabPut k v t) :
    x = (k, v) ∨ x ∈ t := by
  induction t with
  | nil => simp only [tabPut, List.mem_singleton] at h; exact .inl h
  | cons y t ih =>
    obtain ⟨j, w⟩ := y
    unfold tabPut at h
    split at h
    · cases h with
      | head => exact .inl rfl
      | tail _ h => exact .inr (.tail _ h)
    · split at h
      · cases h with
        | head => exact .inl rfl
        | tail _ h => exact .inr h
      · cases h with
        | head => exact .inr (.head _)
        | tail _ h => exact (ih h).imp_right (.tail _)

theorem tabPut_rising {α : Type} (k : Nat) (v : α) {t : List (Nat × α)} (h : tabRising t) : tabRising (tabPut k v t) := by
  induction t with
  | nil => rfl
  | cons y t ih =>
    obtain ⟨j, w⟩ := y
    have hd := tabRising_head h
    unfold tabPut
    split
    · next e => subst e; exact tabRising_cons hd (tabRising_tail h)
    · split
      · next _ l => exact tabRising_cons (by
          intro x hx
          cases hx with
          | head => exact l
          | tail _ hx => exact Nat.lt_trans l (hd x hx)) h
      · next e l => exact tabRising_cons (by
          intro x hx
          cases tabPut_mem hx with
          | inl q => subst q; show j < k; omega
          | inr q => exact hd x q) (ih (tabRising_tail h))

theorem filter_rising {α : Type} (p : Nat × α → Bool) {t : List (Nat × α)} (h : tabRising t) : tabRising (t.filter p) := by
  induction t with
  | nil => rfl
  | cons y t ih =>
    obtain ⟨j, w⟩ := y
    simp only [List.filter_cons]
    split
    · exact tabRising_cons (fun x hx => tabRising_head h x (List.mem_filter.1 hx).1) (ih (tabRising_tail h))
    · exact ih (tabRising_tail h)

theorem tabDrop_mem {α : Type} {k : Nat} {t : List (Nat × α)} {x : Nat × α} (h : x ∈ tabDrop k t) : x ∈ t :=
  (List.mem_filter.1 h).1

theorem tabDrop_rising {α : Type} (k : Nat) {t : List (Nat × α)} (h : tabRising t) : tabRising (tabDrop k t) :=
  filter_rising _ h

theorem memWf_iff (m : List Host.Cell) : memWf m ↔ tabRising m ∧ ∀ c ∈ m, c.2 ≠ 0 := by
  simp only [memWf, Bool.and_eq_true, List.all_eq_true, decide_eq_true_eq]

theorem memPut_wf (a : Nat) (b : Byte) {m : List Host.Cell} (h : memWf m) : memWf (memPut a b m) := by
  rw [memWf_iff] at *
  unfold memPut
  split
  · exact ⟨tabDrop_rising a h.1, fun c hc => h.2 c (tabDrop_mem hc)⟩
  · next hb => exact ⟨tabPut_rising a b h.1, fun c hc => (tabPut_mem hc).elim (fun e => e ▸ hb) (h.2 c)⟩

theorem memStore_wf (a : Nat) (bs : List Byte) {m : List Host.Cell} (h : memWf m) : memWf (memStore a bs m) := by
  induction bs generalizing a m with
  | nil => exact h
  | cons b bs ih => exact ih _ (memPut_wf a b h)

theorem filter_wf (p : Host.Cell → Bool) {m : List Host.Cell} (h : memWf m) : memWf (m.filter p) := by
  rw [memWf_iff] at *
  exact ⟨filter_rising p h.1, fun c hc => h.2 c (List.mem_filter.1 hc).1⟩

theorem memClear_wf (a n : Nat) {m : List Host.Cell} (h : memWf m) : memWf (memClear a n m) := filter_wf _ h

theorem foldl_wf {α : Type} (f : List Host.Cell → α → List Host.Cell) (hf : ∀ m x, memWf m → memWf (f m x)) (xs : List α)
    {m : List Host.Cell} (h : memWf m) : memWf (xs.foldl f m) := by
  induction xs generalizing m with
  | nil => exact h
  | cons x xs ih => exact ih (hf _ _ h)

@[simp ↓] theorem onHost_holds (h : Stable P .host) (f : List Host.Cell → List Host.Cell) (hf : ∀ m, memWf m → memWf (f m))
    (hs : Holds P s) : Holds P (onMem (fun m => { m with host := f m.host }) s) := h f s hf hs
@[simp ↓] theorem onGddr_holds (h : Stable P .gddr) (f : List Host.Cell → List Host.Cell) (hf : ∀ m, memWf m → memWf (f m))
    (hs : Holds P s) : Holds P (onMem (fun m => { m with gddr := f m.gddr }) s) := h f s hf hs
@[simp ↓] theorem onScratch_holds (h : Stable P .scratch) (f : List Host.Cell → List Host.Cell)
    (hf : ∀ m, memWf m → memWf (f m)) (hs : Holds P s) : Holds P (onMem (fun m => { m with scratch := f m.scratch }) s) :=
  h f s hf hs
@[simp ↓] theorem onTiles_holds (h : Stable P .tiles) (f : List Host.Cell → List Host.Cell) (hf : ∀ m, memWf m → memWf (f m))
    (hs : Holds P s) : Holds P (onMem (fun m => { m with tiles := f m.tiles }) s) := h f s hf hs

/-- A predicate stable under changes of every part holds of any state with the same queue whose memories are canonical where
the old ones were. -/
theorem all_holds (hcfe : Stable P .cfe) (hcat : Stable P .cat) (hpods : Stable P .pods) (hgau : Stable P .gau)
    (hstk : Stable P .stk) (hmss : Stable P .mss) (hupu : Stable P .upu) (hhpt : Stable P .hpt) (hsfp : Stable P .sfp)
    (hfsu : Stable P .fsu) (hmsc : Stable P .msc) (hcru : Stable P .cru) (hod : Stable P .od) (hout : Stable P .out)
    (hhost : Stable P .host) (hgddr : Stable P .gddr) (hscratch : Stable P .scratch) (htiles : Stable P .tiles)
    (t : State) (hp : t.pending = s.pending) (h1 : memWf s.mem.host → memWf t.mem.host)
    (h2 : memWf s.mem.gddr → memWf t.mem.gddr) (h3 : memWf s.mem.scratch → memWf t.mem.scratch)
    (h4 : memWf s.mem.tiles → memWf t.mem.tiles) (hs : Holds P s) : Holds P t := by
  have key (o n : List Host.Cell) (h : memWf o → memWf n) :
      ∀ m, memWf m → memWf ((fun m => if m = o then n else m) m) := by
    intro m hm
    show memWf (if m = o then n else m)
    split
    · next e => subst e; exact h hm
    · exact hm
  have a1 := hhost _ _ (key _ _ h1) hs
  have a2 := hgddr _ _ (key _ _ h2) a1
  have a3 := hscratch _ _ (key _ _ h3) a2
  have a4 := htiles _ _ (key _ _ h4) a3
  have a5 := hout (fun _ => t.out) _ (hod (fun _ => t.od) _ (hcru (fun _ => t.cru) _ (hmsc (fun _ => t.msc) _ (hfsu (fun _ => t.fsu) _
    (hsfp (fun _ => t.sfp) _ (hhpt (fun _ => t.hpt) _ (hupu (fun _ => t.upu) _ (hmss (fun _ => t.mss) _ (hstk (fun _ => t.stk) _
    (hgau (fun _ => t.gau) _ (hpods (fun _ => t.pods) _ (hcat (fun _ => t.cat) _ (hcfe (fun _ => t.cfe) _ a4)))))))))))))
  have e : (onOut (fun _ => t.out) (onOd (fun _ => t.od) (onCru (fun _ => t.cru) (onMsc (fun _ => t.msc) (onFsu (fun _ => t.fsu)
    (onSfp (fun _ => t.sfp) (onHpt (fun _ => t.hpt) (onUpu (fun _ => t.upu) (onMss (fun _ => t.mss) (onStk (fun _ => t.stk)
    (onGau (fun _ => t.gau) (onPods (fun _ => t.pods) (onCat (fun _ => t.cat) (onCfe (fun _ => t.cfe)
    (onMem (fun m => { m with tiles := if m.tiles = s.mem.tiles then t.mem.tiles else m.tiles })
    (onMem (fun m => { m with scratch := if m.scratch = s.mem.scratch then t.mem.scratch else m.scratch })
    (onMem (fun m => { m with gddr := if m.gddr = s.mem.gddr then t.mem.gddr else m.gddr })
    (onMem (fun m => { m with host := if m.host = s.mem.host then t.mem.host else m.host }) s)))))))))))))))))) = t := by
    obtain ⟨_, _, _, _, _, _, _, _, _, _, _, _, _, _, _, _⟩ := t
    subst hp
    simp [onOut, onOd, onCru, onMsc, onFsu, onSfp, onHpt, onUpu, onMss, onStk, onGau, onPods, onCat, onCfe, onMem]
  exact e ▸ a5

@[simp ↓] theorem forEach_holds {α : Type} (f : α → State → State) (hf : ∀ x t, Holds P t → Holds P (f x t)) (xs : List α)
    (hs : Holds P s) : Holds P (forEach f xs s) := by
  induction xs generalizing s with
  | nil => exact hs
  | cons x xs ih => exact ih (hf _ _ hs)
@[simp ↓] theorem whenS_holds (b : Bool) (f : State → State) (hf : ∀ t, Holds P t → Holds P (f t)) (hs : Holds P s) :
    Holds P (whenS b f s) := by
  unfold whenS; split
  · exact hf _ hs
  · exact hs

end Sys2Proof.Machine
end

