-- ==== Sys2Proof/Laws/KeepOps.lean ====
section
/-! SUPPORT. What the functions of Machine/Ops.lean keep: one lemma each, for every predicate on states that
is stable under changes of the parts the function can reach. -/

namespace Sys2Proof.Machine

variable {P : State → Prop} {s : State}

/-- A store to scratch leaves it in canonical form. -/
theorem scratchStore_holds (hscratch : Stable P .scratch) (a : Nat) (bs : List Byte) (hs : Holds P s) :
    Holds P (onMem (fun m => { m with scratch := scratchStore s a bs }) s) := by
  have h := hscratch (fun m => bs.zipIdx.foldl (fun m c => memPut (scratchKey s (a + c.2)) c.1 m) m) s
    (fun m h => foldl_wf _ (fun m c h => memPut_wf _ _ h) _ h) hs
  simp only [onMem, scratchStore] at h ⊢
  exact h

@[simp ↓] theorem modEvq_holds (hcfe : Stable P .cfe) (a1 : Ring → Ring) (a0) (hs : Holds P s) : Holds P (modEvq a0 a1 s) := by
  unfold modEvq
  simp +contextual (maxDischargeDepth := 99) [*]

@[simp ↓] theorem modTel_holds (hcfe : Stable P .cfe) (a1 : Ring → Ring) (a0) (hs : Holds P s) : Holds P (modTel a0 a1 s) := by
  unfold modTel
  simp +contextual (maxDischargeDepth := 99) [*]

@[simp ↓] theorem modPod_holds (hpods : Stable P .pods) (a1 : Pod → Pod) (a0) (hs : Holds P s) : Holds P (modPod a0 a1 s) := by
  unfold modPod
  simp +contextual (maxDischargeDepth := 99) [*]

@[simp ↓] theorem modTask_holds (hcfe : Stable P .cfe) (a1 : Task → Task) (a0) (hs : Holds P s) : Holds P (modTask a0 a1 s) := by
  unfold modTask
  simp +contextual (maxDischargeDepth := 99) [*]

@[simp ↓] theorem dropTask_holds (hcfe : Stable P .cfe) (a0) (hs : Holds P s) : Holds P (dropTask a0 s) := by
  unfold dropTask
  simp +contextual (maxDischargeDepth := 99) [*]

@[simp ↓] theorem modChan_holds (hmss : Stable P .mss) (a1 : Chan → Chan) (a0) (hs : Holds P s) : Holds P (modChan a0 a1 s) := by
  unfold modChan
  simp +contextual (maxDischargeDepth := 99) [*]

@[simp ↓] theorem modPort_holds (hsfp : Stable P .sfp) (a1 : Port → Port) (a0) (hs : Holds P s) : Holds P (modPort a0 a1 s) := by
  unfold modPort
  simp +contextual (maxDischargeDepth := 99) [*]

@[simp ↓] theorem odSet_holds (hod : Stable P .od) (a0) (a1) (hs : Holds P s) : Holds P (odSet a0 a1 s) := by
  unfold odSet
  simp +contextual (maxDischargeDepth := 99) [*]

@[simp ↓] theorem odCount_holds (hod : Stable P .od) (a0) (a1) (hs : Holds P s) : Holds P (odCount a0 a1 s) := by
  unfold odCount
  simp +contextual (maxDischargeDepth := 99) [*]

@[simp ↓] theorem drawn_holds (hgau : Stable P .gau) (hs : Holds P s) : Holds P (drawn s) := by
  unfold drawn
  simp +contextual (maxDischargeDepth := 99) [*]

@[simp ↓] theorem stacksWrite_holds (hpods : Stable P .pods) (a0) (a1) (a2) (hs : Holds P s) : Holds P (stacksWrite a0 a1 a2 s) := by
  unfold stacksWrite
  simp +contextual (maxDischargeDepth := 99) [*]

@[simp ↓] theorem serveWrites_holds (hmss : Stable P .mss) (hs : Holds P s) : Holds P (serveWrites s) := by
  unfold serveWrites
  simp +contextual (maxDischargeDepth := 99) [*]

@[simp ↓] theorem translate_holds (hhpt : Stable P .hpt) (a0) (a1) (a2) (hs : Holds P s) : Holds P (translate a0 a1 a2 s) := by
  unfold translate
  simp +contextual (maxDischargeDepth := 99) [*]

@[simp ↓] theorem hptRead_holds (hhpt : Stable P .hpt) (a0) (a1) (a2) (hs : Holds P s) : Holds P (hptRead a0 a1 a2 s) := by
  unfold hptRead
  simp +contextual (maxDischargeDepth := 99) [*]

@[simp ↓] theorem storeAw_holds (hpods : Stable P .pods) (hscratch : Stable P .scratch) (htiles : Stable P .tiles) (hpw : Stable P .pw) (hpo : Stable P .po) (hst : Stable P .st) (a0) (a1) (a2) (hs : Holds P s) : Holds P (storeAw a0 a1 a2 s) := by
  unfold storeAw
  split
  · split <;> simp +contextual (maxDischargeDepth := 99) [*]
  · simp +contextual (maxDischargeDepth := 99) [*]
  · exact scratchStore_holds hscratch _ _ hs
  · exact htiles (memStore (tileKey (awAddr a0)) a1) _ (fun m h => memStore_wf _ _ h) hs

@[simp ↓] theorem forgetWrites_holds (hhpt : Stable P .hpt) (a0) (hs : Holds P s) : Holds P (forgetWrites a0 s) := by
  unfold forgetWrites
  simp +contextual (maxDischargeDepth := 99) [*]

@[simp ↓] theorem notifyEvq_holds (hcfe : Stable P .cfe) (hout : Stable P .out) (a0) (hs : Holds P s) : Holds P (notifyEvq a0 s) := by
  unfold notifyEvq
  simp +contextual (maxDischargeDepth := 99) [*]

@[simp ↓] theorem evqVisible_holds (hcfe : Stable P .cfe) (hout : Stable P .out) (a0) (hs : Holds P s) : Holds P (evqVisible a0 s) := by
  unfold evqVisible
  simp +contextual (maxDischargeDepth := 99) [*]

@[simp ↓] theorem evqWrite_holds (hcfe : Stable P .cfe) (hpods : Stable P .pods) (hout : Stable P .out) (hscratch : Stable P .scratch) (htiles : Stable P .tiles) (hpw : Stable P .pw) (hpo : Stable P .po) (hst : Stable P .st) (a0) (a1) (hs : Holds P s) : Holds P (evqWrite a0 a1 s) := by
  unfold evqWrite
  simp +contextual (maxDischargeDepth := 99) [*]

@[simp ↓] theorem evqGap_holds (hcfe : Stable P .cfe) (hpods : Stable P .pods) (hout : Stable P .out) (hscratch : Stable P .scratch) (htiles : Stable P .tiles) (hpw : Stable P .pw) (hpo : Stable P .po) (hst : Stable P .st) (a0) (hs : Holds P s) : Holds P (evqGap a0 s) := by
  unfold evqGap
  simp +contextual (maxDischargeDepth := 99) [*]

@[simp ↓] theorem evqDrop_holds (hcfe : Stable P .cfe) (a0) (hs : Holds P s) : Holds P (evqDrop a0 s) := by
  unfold evqDrop
  simp +contextual (maxDischargeDepth := 99) [*]

@[simp ↓] theorem garwaSend_holds (hout : Stable P .out) (a0) (hs : Holds P s) : Holds P (garwaSend a0 s) := by
  unfold garwaSend
  simp +contextual (maxDischargeDepth := 99) [*]

@[simp ↓] theorem setAlert_holds (hmsc : Stable P .msc) (hs : Holds P s) : Holds P (setAlert s) := by
  unfold setAlert
  simp +contextual (maxDischargeDepth := 99) [*]

@[simp ↓] theorem countCause_holds (hod : Stable P .od) (a0) (hs : Holds P s) : Holds P (countCause a0 s) := by
  unfold countCause
  simp +contextual (maxDischargeDepth := 99) [*]

@[simp ↓] theorem ringResetErr_holds (hmsc : Stable P .msc) (hod : Stable P .od) (a0) (a1) (hs : Holds P s) : Holds P (ringResetErr a0 a1 s) := by
  unfold ringResetErr
  simp +contextual (maxDischargeDepth := 99) [*]

@[simp ↓] theorem evqReset_holds (hcfe : Stable P .cfe) (hpods : Stable P .pods) (hhpt : Stable P .hpt) (hmsc : Stable P .msc) (hod : Stable P .od) (hout : Stable P .out) (hscratch : Stable P .scratch) (htiles : Stable P .tiles) (hpw : Stable P .pw) (hpo : Stable P .po) (hst : Stable P .st) (a0) (hs : Holds P s) : Holds P (evqReset a0 s) := by
  unfold evqReset
  simp +contextual (maxDischargeDepth := 99) [*]

@[simp ↓] theorem evqCheck_holds (hcfe : Stable P .cfe) (hpods : Stable P .pods) (hhpt : Stable P .hpt) (hmsc : Stable P .msc) (hod : Stable P .od) (hout : Stable P .out) (hscratch : Stable P .scratch) (htiles : Stable P .tiles) (hpw : Stable P .pw) (hpo : Stable P .po) (hst : Stable P .st) (a0) (hs : Holds P s) : Holds P (evqCheck a0 s) := by
  unfold evqCheck
  simp +contextual (maxDischargeDepth := 99) [*]

@[simp ↓] theorem evqAcked_holds (hcfe : Stable P .cfe) (hpods : Stable P .pods) (hhpt : Stable P .hpt) (hmsc : Stable P .msc) (hod : Stable P .od) (hout : Stable P .out) (hscratch : Stable P .scratch) (htiles : Stable P .tiles) (hpw : Stable P .pw) (hpo : Stable P .po) (hst : Stable P .st) (a0) (hs : Holds P s) : Holds P (evqAcked a0 s) := by
  unfold evqAcked
  simp +contextual (maxDischargeDepth := 99) [*]

@[simp ↓] theorem postEntry_holds (hcfe : Stable P .cfe) (hpods : Stable P .pods) (hhpt : Stable P .hpt) (hmsc : Stable P .msc) (hod : Stable P .od) (hout : Stable P .out) (hscratch : Stable P .scratch) (htiles : Stable P .tiles) (hpw : Stable P .pw) (hpo : Stable P .po) (hst : Stable P .st) (a0) (a1) (hs : Holds P s) : Holds P (postEntry a0 a1 s) := by
  unfold postEntry
  simp +contextual (maxDischargeDepth := 99) [*]

@[simp ↓] theorem post0_holds (hev : Stable P .ev) (a0) (a1) (a2) (hs : Holds P s) : Holds P (post0 a0 a1 a2 s) := by
  unfold post0
  simp +contextual (maxDischargeDepth := 99) [*]

@[simp ↓] theorem postQ_holds (hev : Stable P .ev) (a0) (a1) (a2) (hs : Holds P s) : Holds P (postQ a0 a1 a2 s) := by
  unfold postQ
  simp +contextual (maxDischargeDepth := 99) [*]


/-! ## The five operations from the parts that they change -/

theorem stable_mq (hcfe : Stable P .cfe) : Stable P .mq := by
  intro q f s hs
  unfold modQ
  exact hcfe _ _ hs

theorem stable_pw (hhpt : Stable P .hpt) (hod : Stable P .od) : Stable P .pw := by
  intro path a bs t kind s hs
  unfold postWrite
  exact hhpt _ _ (translate_holds hhpt _ _ _ (odCount_holds hod _ _ hs))

theorem stable_po (hcat : Stable P .cat) (hstk : Stable P .stk) : Stable P .po := by
  intro tier a bs s hs
  unfold pinOverlay
  exact hcat _ _ (hstk _ _ hs)

theorem stable_st (hpods : Stable P .pods) (hmss : Stable P .mss) (hhpt : Stable P .hpt) (hgddr : Stable P .gddr) : Stable P .st := by
  intro a bs s hs
  unfold gddrStore
  extract_lets kept s1 s2 q s3
  have h1 : Holds P s1 := stacksWrite_holds hpods _ _ _ hs
  have h2 : Holds P s2 := hhpt _ _ h1
  have h3 : Holds P s3 := hmss _ _ h2
  exact hgddr (memStore a kept) _ (fun m h => memStore_wf _ _ h) h3

theorem stable_ev (hcfe : Stable P .cfe) (hpods : Stable P .pods) (hmss : Stable P .mss) (hhpt : Stable P .hpt) (hmsc : Stable P .msc) (hod : Stable P .od) (hout : Stable P .out) (hgddr : Stable P .gddr) (hscratch : Stable P .scratch) (htiles : Stable P .tiles) (hpo : Stable P .po) : Stable P .ev := by
  have hpw := stable_pw hhpt hod
  have hst := stable_st hpods hmss hhpt hgddr
  intro i e n c d s hs
  replace hs : Holds P s := hs
  show Holds P _
  unfold postEvent
  simp +contextual (maxDischargeDepth := 99) [*]

end Sys2Proof.Machine
end

