-- ==== Sys2Proof/Laws/KeepTasks.lean ====
section
/-! SUPPORT. What the functions of Machine/Tasks.lean keep: one lemma each, for every predicate on states that
is stable under changes of the parts the function can reach. -/

namespace Sys2Proof.Machine

variable {P : State → Prop} {s : State}

@[simp ↓] theorem finishTask_holds (hcfe : Stable P .cfe) (hmq : Stable P .mq) (a0) (hs : Holds P s) : Holds P (finishTask a0 s) := by
  unfold finishTask
  (repeat' split) <;> simp +contextual (maxDischargeDepth := 99) [*]

@[simp ↓] theorem stallTask_holds (hcfe : Stable P .cfe) (hmq : Stable P .mq) (a0) (hs : Holds P s) : Holds P (stallTask a0 s) := by
  unfold stallTask
  (repeat' split) <;> simp +contextual (maxDischargeDepth := 99) [*]

@[simp ↓] theorem endTaskCore_holds (hcfe : Stable P .cfe) (hcat : Stable P .cat) (hpods : Stable P .pods) (hmq : Stable P .mq) (a0) (a1) (a2) (a3) (hs : Holds P s) : Holds P (endTaskCore a0 a1 a2 a3 s) := by
  unfold endTaskCore
  (repeat' split) <;> simp +contextual (maxDischargeDepth := 99) [*]

@[simp ↓] theorem groupDropEvent_holds (hev : Stable P .ev) (a0) (a1) (a2) (hs : Holds P s) : Holds P (groupDropEvent a0 a1 a2 s) := by
  unfold groupDropEvent
  simp +contextual (maxDischargeDepth := 99) [*]

@[simp ↓] theorem dropGroup_holds (hcfe : Stable P .cfe) (hcat : Stable P .cat) (hpods : Stable P .pods) (hmq : Stable P .mq) (hev : Stable P .ev) (a0) (a1) (a2) (a3) (hs : Holds P s) : Holds P (dropGroup a0 a1 a2 a3 s) := by
  unfold dropGroup
  simp +contextual (maxDischargeDepth := 99) [*]

@[simp ↓] theorem endTask_holds (hcfe : Stable P .cfe) (hcat : Stable P .cat) (hpods : Stable P .pods) (hmq : Stable P .mq) (hev : Stable P .ev) (a0) (a1) (a2) (a3) (hs : Holds P s) : Holds P (endTask a0 a1 a2 a3 s) := by
  unfold endTask
  (repeat' split) <;> simp +contextual (maxDischargeDepth := 99) [*]

@[simp ↓] theorem dropQueueGroups_holds (hcfe : Stable P .cfe) (hcat : Stable P .cat) (hpods : Stable P .pods) (hmq : Stable P .mq) (hev : Stable P .ev) (a0) (hs : Holds P s) : Holds P (dropQueueGroups a0 s) := by
  unfold dropQueueGroups
  simp +contextual (maxDischargeDepth := 99) [*]

@[simp ↓] theorem dropPodGroups_holds (hcfe : Stable P .cfe) (hcat : Stable P .cat) (hpods : Stable P .pods) (hmq : Stable P .mq) (hev : Stable P .ev) (a0) (hs : Holds P s) : Holds P (dropPodGroups a0 s) := by
  unfold dropPodGroups
  simp +contextual (maxDischargeDepth := 99) [*]

@[simp ↓] theorem oldRecords_holds (hhpt : Stable P .hpt) (a0) (hs : Holds P s) : Holds P (oldRecords a0 s) := by
  unfold oldRecords
  simp +contextual (maxDischargeDepth := 99) [*]

@[simp ↓] theorem resetQueue_holds (hcfe : Stable P .cfe) (hcat : Stable P .cat) (hpods : Stable P .pods) (hhpt : Stable P .hpt) (hmq : Stable P .mq) (hev : Stable P .ev) (a0) (hs : Holds P s) : Holds P (resetQueue a0 s) := by
  unfold resetQueue
  simp +contextual (maxDischargeDepth := 99) [*]

@[simp ↓] theorem resetNotice_holds (hmq : Stable P .mq) (hev : Stable P .ev) (a0) (hs : Holds P s) : Holds P (resetNotice a0 s) := by
  unfold resetNotice
  (repeat' split) <;> simp +contextual (maxDischargeDepth := 99) [*]

@[simp ↓] theorem drainDone_holds (hcfe : Stable P .cfe) (hcat : Stable P .cat) (hpods : Stable P .pods) (hmq : Stable P .mq) (hev : Stable P .ev) (a0) (hs : Holds P s) : Holds P (drainDone a0 s) := by
  unfold drainDone
  simp +contextual (maxDischargeDepth := 99) [*]

end Sys2Proof.Machine
end

