-- ==== Sys2Proof/Laws/KeepRecovery.lean ====
section
/-! SUPPORT. What the functions of Machine/Recovery.lean keep: one lemma each, for every predicate on states that
is stable under changes of the parts the function can reach. -/

namespace Sys2Proof.Machine

variable {P : State → Prop} {s : State}

@[simp ↓] theorem partsReset_holds (hod : Stable P .od) (hs : Holds P s) : Holds P (partsReset s) := by
  unfold partsReset
  simp +contextual (maxDischargeDepth := 99) [*]

@[simp ↓] theorem engineReset_holds (hcfe : Stable P .cfe) (hcat : Stable P .cat) (hpods : Stable P .pods) (hgau : Stable P .gau) (hstk : Stable P .stk) (hmss : Stable P .mss) (hupu : Stable P .upu) (hhpt : Stable P .hpt) (hsfp : Stable P .sfp) (hfsu : Stable P .fsu) (hmsc : Stable P .msc) (hcru : Stable P .cru) (hod : Stable P .od) (hout : Stable P .out) (hhost : Stable P .host) (hgddr : Stable P .gddr) (hscratch : Stable P .scratch) (htiles : Stable P .tiles) (hs : Holds P s) : Holds P (engineReset s) := by
  unfold engineReset
  extract_lets s1 tags due
  have h1 : Holds P s1 := by simp only [s1]; simp +contextual (maxDischargeDepth := 99) [*]
  clear_value s1
  exact all_holds (s := s1) hcfe hcat hpods hgau hstk hmss hupu hhpt hsfp hfsu hmsc hcru hod hout hhost hgddr hscratch htiles _ rfl id id
    id id h1

@[simp ↓] theorem podClear_holds (hpods : Stable P .pods) (hstk : Stable P .stk) (hcru : Stable P .cru) (hscratch : Stable P .scratch) (htiles : Stable P .tiles) (a0) (hs : Holds P s) : Holds P (podClear a0 s) := by
  unfold podClear
  extract_lets d s1 s2 s3
  have h0 : Holds P s1 := htiles (cellsBut 21 a0) _ (fun m h => filter_wf _ h) (hscratch (cellsBut 24 a0) _ (fun m h => filter_wf _ h) hs)
  have h2 : Holds P s2 := by simp only [s2]; simp +contextual (maxDischargeDepth := 99) [*]
  have h3 : Holds P s3 := by simp only [s3]; simp +contextual (maxDischargeDepth := 99) [*]
  simp +contextual (maxDischargeDepth := 99) [*]

@[simp ↓] theorem mapNextSpare_holds (hmsc : Stable P .msc) (hcru : Stable P .cru) (a0) (hs : Holds P s) : Holds P (mapNextSpare a0 s) := by
  unfold mapNextSpare
  (repeat' split) <;> simp +contextual (maxDischargeDepth := 99) [*]

@[simp ↓] theorem autoSpare_holds (hmsc : Stable P .msc) (hcru : Stable P .cru) (a0) (hs : Holds P s) : Holds P (autoSpare a0 s) := by
  unfold autoSpare
  simp +contextual (maxDischargeDepth := 99) [*]

@[simp ↓] theorem streamFaultEvent_holds (hgau : Stable P .gau) (hev : Stable P .ev) (a0) (a1) (a2) (a3) (hs : Holds P s) : Holds P (streamFaultEvent a0 a1 a2 a3 s) := by
  unfold streamFaultEvent
  (repeat' split) <;> simp +contextual (maxDischargeDepth := 99) [*]

@[simp ↓] theorem endByFault_holds (hcfe : Stable P .cfe) (hcat : Stable P .cat) (hpods : Stable P .pods) (hgau : Stable P .gau) (hmq : Stable P .mq) (hev : Stable P .ev) (a0) (a1) (a2) (a3) (hs : Holds P s) : Holds P (endByFault a0 a1 a2 a3 s) := by
  unfold endByFault
  (repeat' split) <;> simp +contextual (maxDischargeDepth := 99) [*]

@[simp ↓] theorem wloadFault_holds (hev : Stable P .ev) (a0) (a1) (a2) (a3) (hs : Holds P s) : Holds P (wloadFault a0 a1 a2 a3 s) := by
  unfold wloadFault
  simp +contextual (maxDischargeDepth := 99) [*]

@[simp ↓] theorem loadLost_holds (hgau : Stable P .gau) (hod : Stable P .od) (hev : Stable P .ev) (a0) (a1) (hs : Holds P s) : Holds P (loadLost a0 a1 s) := by
  unfold loadLost
  (repeat' split) <;> simp +contextual (maxDischargeDepth := 99) [*]

@[simp ↓] theorem closeRecords_holds (hmsc : Stable P .msc) (a0) (hs : Holds P s) : Holds P (closeRecords a0 s) := by
  unfold closeRecords
  simp +contextual (maxDischargeDepth := 99) [*]

@[simp ↓] theorem closeHandlings_holds (hmsc : Stable P .msc) (a0 : Handling → Bool) (hs : Holds P s) : Holds P (closeHandlings a0 s) := by
  unfold closeHandlings
  simp +contextual (maxDischargeDepth := 99) [*]

@[simp ↓] theorem podHandlingsOver_holds (hmsc : Stable P .msc) (a0) (hs : Holds P s) : Holds P (podHandlingsOver a0 s) := by
  unfold podHandlingsOver
  simp +contextual (maxDischargeDepth := 99) [*]

@[simp ↓] theorem leaveRecovery_holds (hupu : Stable P .upu) (hmsc : Stable P .msc) (hs : Holds P s) : Holds P (leaveRecovery s) := by
  unfold leaveRecovery
  simp +contextual (maxDischargeDepth := 99) [*]

@[simp ↓] theorem retirePod_holds (hpods : Stable P .pods) (hmsc : Stable P .msc) (hcru : Stable P .cru) (hev : Stable P .ev) (a0) (hs : Holds P s) : Holds P (retirePod a0 s) := by
  unfold retirePod
  simp +contextual (maxDischargeDepth := 99) [*]

@[simp ↓] theorem countPodReset_holds (hpods : Stable P .pods) (hmsc : Stable P .msc) (hcru : Stable P .cru) (hev : Stable P .ev) (a0) (hs : Holds P s) : Holds P (countPodReset a0 s) := by
  unfold countPodReset
  simp +contextual (maxDischargeDepth := 99) [*]

@[simp ↓] theorem podResetCore_holds (hcfe : Stable P .cfe) (hcat : Stable P .cat) (hpods : Stable P .pods) (hgau : Stable P .gau) (hstk : Stable P .stk) (hmsc : Stable P .msc) (hcru : Stable P .cru) (hod : Stable P .od) (hscratch : Stable P .scratch) (htiles : Stable P .tiles) (hmq : Stable P .mq) (hev : Stable P .ev) (a0) (a1) (a2) (hs : Holds P s) : Holds P (podResetCore a0 a1 a2 s) := by
  unfold podResetCore
  simp +contextual (maxDischargeDepth := 99) [*]

@[simp ↓] theorem writePreserved_holds (hhpt : Stable P .hpt) (hhost : Stable P .host) (hev : Stable P .ev) (a4 : Nat → Bool) (a0) (a1) (a2) (a3) (hs : Holds P s) : Holds P (writePreserved a0 a1 a2 a3 a4 s) := by
  unfold writePreserved
  extract_lets a
  split
  · exact hs
  · rename_i body all s1 s2 hne
    have h1 : Holds P s1 := hhost (memStore a all) _ (fun m h => memStore_wf _ _ h) hs
    have h2 : Holds P s2 := by simp only [s2]; simp +contextual (maxDischargeDepth := 99) [*]
    simp +contextual (maxDischargeDepth := 99) [*]

@[simp ↓] theorem openHandling_holds (hmsc : Stable P .msc) (a0) (a1) (a2) (hs : Holds P s) : Holds P (openHandling a0 a1 a2 s) := by
  unfold openHandling
  simp +contextual (maxDischargeDepth := 99) [*]

@[simp ↓] theorem containedEvent_holds (hev : Stable P .ev) (a0) (a1) (a2) (a3) (a4) (a5) (hs : Holds P s) : Holds P (containedEvent a0 a1 a2 a3 a4 a5 s) := by
  unfold containedEvent
  simp +contextual (maxDischargeDepth := 99) [*]

@[simp ↓] theorem closeEmptied_holds (hmsc : Stable P .msc) (hs : Holds P s) : Holds P (closeEmptied s) := by
  unfold closeEmptied
  simp +contextual (maxDischargeDepth := 99) [*]

@[simp ↓] theorem handlingTaskDone_holds (hmsc : Stable P .msc) (a0) (hs : Holds P s) : Holds P (handlingTaskDone a0 s) := by
  unfold handlingTaskDone
  simp +contextual (maxDischargeDepth := 99) [*]

@[simp ↓] theorem beginContainment_holds (hcfe : Stable P .cfe) (hcat : Stable P .cat) (hpods : Stable P .pods) (hmsc : Stable P .msc) (hmq : Stable P .mq) (hev : Stable P .ev) (a0) (a1) (hs : Holds P s) : Holds P (beginContainment a0 a1 s) := by
  unfold beginContainment
  simp +contextual (maxDischargeDepth := 99) [*]

@[simp ↓] theorem raiseErr_holds (hcfe : Stable P .cfe) (hcat : Stable P .cat) (hpods : Stable P .pods) (hgau : Stable P .gau) (hstk : Stable P .stk) (hmsc : Stable P .msc) (hcru : Stable P .cru) (hod : Stable P .od) (hscratch : Stable P .scratch) (htiles : Stable P .tiles) (hmq : Stable P .mq) (hev : Stable P .ev) (a0) (hs : Holds P s) : Holds P (raiseErr a0 s) := by
  unfold raiseErr
  (repeat' split) <;> simp +contextual (maxDischargeDepth := 99) [*]

@[simp ↓] theorem taskFault_holds (hcfe : Stable P .cfe) (hcat : Stable P .cat) (hpods : Stable P .pods) (hgau : Stable P .gau) (hstk : Stable P .stk) (hmsc : Stable P .msc) (hcru : Stable P .cru) (hod : Stable P .od) (hscratch : Stable P .scratch) (htiles : Stable P .tiles) (hmq : Stable P .mq) (hev : Stable P .ev) (a0) (a1) (a2) (a3) (hs : Holds P s) : Holds P (taskFault a0 a1 a2 a3 s) := by
  unfold taskFault
  (repeat' split) <;> simp +contextual (maxDischargeDepth := 99) [*]

@[simp ↓] theorem queueMismatch_holds (hcfe : Stable P .cfe) (hcat : Stable P .cat) (hpods : Stable P .pods) (hgau : Stable P .gau) (hstk : Stable P .stk) (hhpt : Stable P .hpt) (hmsc : Stable P .msc) (hcru : Stable P .cru) (hod : Stable P .od) (hscratch : Stable P .scratch) (htiles : Stable P .tiles) (hmq : Stable P .mq) (hev : Stable P .ev) (a0) (hs : Holds P s) : Holds P (queueMismatch a0 s) := by
  unfold queueMismatch
  simp +contextual (maxDischargeDepth := 99) [*]

@[simp ↓] theorem handleQueueMismatch_holds (hcfe : Stable P .cfe) (hcat : Stable P .cat) (hpods : Stable P .pods) (hgau : Stable P .gau) (hstk : Stable P .stk) (hmsc : Stable P .msc) (hcru : Stable P .cru) (hod : Stable P .od) (hscratch : Stable P .scratch) (htiles : Stable P .tiles) (hmq : Stable P .mq) (hev : Stable P .ev) (a2 : Pod → Pod) (a0) (a1) (hs : Holds P s) : Holds P (handleQueueMismatch a0 a1 a2 s) := by
  unfold handleQueueMismatch
  simp +contextual (maxDischargeDepth := 99) [*]

@[simp ↓] theorem haltQueue_holds (hcfe : Stable P .cfe) (hcat : Stable P .cat) (hpods : Stable P .pods) (hmq : Stable P .mq) (hev : Stable P .ev) (a0) (hs : Holds P s) : Holds P (haltQueue a0 s) := by
  unfold haltQueue
  simp +contextual (maxDischargeDepth := 99) [*]

end Sys2Proof.Machine
end

