-- ==== Sys2Proof/Laws/KeepCatalogue.lean ====
section
/-! SUPPORT. What the functions of Machine/Catalogue.lean keep: one lemma each, for every predicate on states that
is stable under changes of the parts the function can reach. -/

namespace Sys2Proof.Machine

variable {P : State → Prop} {s : State}

@[simp ↓] theorem setDesc_holds (hcat : Stable P .cat) (hst : Stable P .st) (a0) (a1) (hs : Holds P s) : Holds P (setDesc a0 a1 s) := by
  unfold setDesc
  simp +contextual (maxDischargeDepth := 99) [*]

@[simp ↓] theorem cacheLoad_holds (hcat : Stable P .cat) (a0) (hs : Holds P s) : Holds P (cacheLoad a0 s) := by
  unfold cacheLoad
  simp +contextual (maxDischargeDepth := 99) [*]

@[simp ↓] theorem cacheHit_holds (hcat : Stable P .cat) (hod : Stable P .od) (a0) (a1) (hs : Holds P s) : Holds P (cacheHit a0 a1 s) := by
  unfold cacheHit
  simp +contextual (maxDischargeDepth := 99) [*]

@[simp ↓] theorem cacheMiss_holds (hcat : Stable P .cat) (hod : Stable P .od) (a0) (hs : Holds P s) : Holds P (cacheMiss a0 s) := by
  unfold cacheMiss
  simp +contextual (maxDischargeDepth := 99) [*]

@[simp ↓] theorem useDesc_holds (hcat : Stable P .cat) (hod : Stable P .od) (a0) (hs : Holds P s) : Holds P (useDesc a0 s) := by
  unfold useDesc
  (repeat' split) <;> simp +contextual (maxDischargeDepth := 99) [*]

@[simp ↓] theorem setDir_holds (hcat : Stable P .cat) (hst : Stable P .st) (a0) (a1) (hs : Holds P s) : Holds P (setDir a0 a1 s) := by
  unfold setDir
  simp +contextual (maxDischargeDepth := 99) [*]

end Sys2Proof.Machine
end

