-- ==== Sys2Proof/Laws/KeepCells.lean ====
section
/-! SUPPORT. What the functions of Machine/Cells.lean keep: one lemma each, for every predicate on states that
is stable under changes of the parts the function can reach. -/

namespace Sys2Proof.Machine

variable {P : State → Prop} {s : State}

@[simp ↓] theorem countCells_holds (hsfp : Stable P .sfp) (hev : Stable P .ev) (a0) (a1) (hs : Holds P s) : Holds P (countCells a0 a1 s) := by
  unfold countCells
  (repeat' split) <;> simp +contextual (maxDischargeDepth := 99) [*]

@[simp ↓] theorem laneCell_holds (hsfp : Stable P .sfp) (a0) (a1) (a2) (hs : Holds P s) : Holds P (laneCell a0 a1 a2 s) := by
  unfold laneCell
  (repeat' split) <;> simp +contextual (maxDischargeDepth := 99) [*]

@[simp ↓] theorem laneCells_holds (hsfp : Stable P .sfp) (a0) (a1) (a2) (hs : Holds P s) : Holds P (laneCells a0 a1 a2 s) := by
  unfold laneCells
  repeat' first
    | assumption
    | with_reducible apply withHq_holds
    | with_reducible apply stageEnd_holds
    | with_reducible apply forEach_holds
    | with_reducible apply whenS_holds
    | (intro y; intros)
    | (extract_lets +onlyGivenNames x
       first
       | (have hx : Holds P x := by (simp only [x]; repeat' split) <;> simp +contextual (maxDischargeDepth := 99) [*]
          clear_value x)
       | (have hx : HoldsF P x := by (simp only [x]; repeat' split) <;> simp +contextual (maxDischargeDepth := 99) [*]
          clear_value x)
       | (have hx : HoldsG P x := by (simp only [x]; repeat' split) <;> simp +contextual (maxDischargeDepth := 99) [*]
          clear_value x)
       | (have hx : HoldsO P x := by (simp only [x]; repeat' split) <;> simp +contextual (maxDischargeDepth := 99) [*]
          clear_value x)
       | (have hx : HoldsL P x := by (simp only [x]; repeat' split) <;> simp +contextual (maxDischargeDepth := 99) [*]
          clear_value x)
       | (have hx : ∀ t, Holds P t → Holds P (x t) := by intro t ht; (simp only [x]; repeat' split) <;> simp +contextual (maxDischargeDepth := 99) [*]
          clear_value x)
       | (have hx : ∀ a t, Holds P t → Holds P (x a t) := by intro a t ht; (simp only [x]; repeat' split) <;> simp +contextual (maxDischargeDepth := 99) [*]
          clear_value x)
       | clear_value x)
    | split
  all_goals first
    | simp +contextual (maxDischargeDepth := 99) [*]
    | (have ht := ofO (P := P) ‹(_ : Option State) = some _›; simp +contextual (maxDischargeDepth := 99) [*])
    | (have ht := ofF (P := P) ‹(_ : State × _) = (_, _)›; simp +contextual (maxDischargeDepth := 99) [*])
    | (have ht := ofG (P := P) ‹(_ : _ × State) = (_, _)›; simp +contextual (maxDischargeDepth := 99) [*])
    | (have ht := ofV_ready (P := P) ‹(_ : PrepRes) = .ready _ _›; simp +contextual (maxDischargeDepth := 99) [*])
    | (have ht := ofV_wait (P := P) ‹(_ : PrepRes) = .wait _›; simp +contextual (maxDischargeDepth := 99) [*])
    | (have ht := ofV_fault (P := P) ‹(_ : PrepRes) = .fault _ _›; simp +contextual (maxDischargeDepth := 99) [*])
    | (have ht := ofU_done (P := P) ‹(_ : PutRes) = .done _›; simp +contextual (maxDischargeDepth := 99) [*])
    | (have ht := ofU_wait (P := P) ‹(_ : PutRes) = .wait _›; simp +contextual (maxDischargeDepth := 99) [*])
    | (have ht := ofU_pend (P := P) ‹(_ : PutRes) = .pend _ _›; simp +contextual (maxDischargeDepth := 99) [*])

@[simp ↓] theorem useCredit_holds (hsfp : Stable P .sfp) (a0) (hs : Holds P s) : Holds P (useCredit a0 s) := by
  unfold useCredit
  (repeat' split) <;> simp +contextual (maxDischargeDepth := 99) [*]

@[simp ↓] theorem transmit_holds (hsfp : Stable P .sfp) (hev : Stable P .ev) (a0) (hs : Holds P s) : Holds P (transmit a0 s) := by
  unfold transmit
  simp +contextual (maxDischargeDepth := 99) [*]

@[simp ↓] theorem sendCell_holds (hsfp : Stable P .sfp) (hev : Stable P .ev) (a0) (a1) (a2) (a3) (hs : Holds P s) : Holds P (sendCell a0 a1 a2 a3 s) := by
  unfold sendCell
  simp +contextual (maxDischargeDepth := 99) [*]

@[simp ↓] theorem releaseHeld_holds (hsfp : Stable P .sfp) (hev : Stable P .ev) (hs : Holds P s) : Holds P (releaseHeld s) := by
  unfold releaseHeld
  simp +contextual (maxDischargeDepth := 99) [*]

@[simp ↓] theorem sendAs_holds (hsfp : Stable P .sfp) (hev : Stable P .ev) (a0) (a1) (a2) (a3) (a4) (hs : Holds P s) : Holds P (sendAs a0 a1 a2 a3 a4 s) := by
  unfold sendAs
  simp +contextual (maxDischargeDepth := 99) [*]

@[simp ↓] theorem sendCtl_holds (hsfp : Stable P .sfp) (hev : Stable P .ev) (a0) (a1) (a2) (a3) (hs : Holds P s) : Holds P (sendCtl a0 a1 a2 a3 s) := by
  unfold sendCtl
  simp +contextual (maxDischargeDepth := 99) [*]

@[simp ↓] theorem sendAck_holds (hsfp : Stable P .sfp) (hev : Stable P .ev) (a0) (a1) (a2) (hs : Holds P s) : Holds P (sendAck a0 a1 a2 s) := by
  unfold sendAck
  simp +contextual (maxDischargeDepth := 99) [*]

@[simp ↓] theorem hear_holds (hcat : Stable P .cat) (hsfp : Stable P .sfp) (a0) (hs : Holds P s) : Holds P (hear a0 s) := by
  unfold hear
  simp +contextual (maxDischargeDepth := 99) [*]

@[simp ↓] theorem deliverAck_holds (hcat : Stable P .cat) (hsfp : Stable P .sfp) (hod : Stable P .od) (hev : Stable P .ev) (a3 : State → State) (hf3 : ∀ t, Holds P t → Holds P (a3 t)) (a0) (a1) (a2) (hs : Holds P s) : Holds P (deliverAck a0 a1 a2 a3 s) := by
  unfold deliverAck
  simp +contextual (maxDischargeDepth := 99) [*]

@[simp ↓] theorem deliver_holds (hcat : Stable P .cat) (hsfp : Stable P .sfp) (hod : Stable P .od) (hev : Stable P .ev) (a2 : State → State) (hf2 : ∀ t, Holds P t → Holds P (a2 t)) (a0) (a1) (hs : Holds P s) : Holds P (deliver a0 a1 a2 s) := by
  unfold deliver
  simp +contextual (maxDischargeDepth := 99) [*]

end Sys2Proof.Machine
end

