-- ==== Sys2Proof/Laws/KeepRows.lean ====
section
/-! SUPPORT. What the functions of Machine/Rows.lean keep: one lemma each, for every predicate on states that
is stable under changes of the parts the function can reach. -/

namespace Sys2Proof.Machine

variable {P : State → Prop} {s : State}

@[simp ↓] theorem modSlotRing_holds (hcat : Stable P .cat) (a1 : SlotRing → SlotRing) (a0) (hs : Holds P s) : Holds P (modSlotRing a0 a1 s) := by
  unfold modSlotRing
  simp +contextual (maxDischargeDepth := 99) [*]

@[simp ↓] theorem takeSlot_holds (hcat : Stable P .cat) (a0) (a1) (hs : Holds P s) : Holds P (takeSlot a0 a1 s) := by
  unfold takeSlot
  simp +contextual (maxDischargeDepth := 99) [*]

@[simp ↓] theorem slotsEmpty_holds (hcat : Stable P .cat) (hod : Stable P .od) (hev : Stable P .ev) (a0) (hs : Holds P s) : Holds P (slotsEmpty a0 s) := by
  unfold slotsEmpty
  simp +contextual (maxDischargeDepth := 99) [*]

@[simp ↓] theorem freeSlot_holds (hcat : Stable P .cat) (hod : Stable P .od) (hst : Stable P .st) (a0) (a1) (a2) (a3) (hs : Holds P s) : Holds P (freeSlot a0 a1 a2 a3 s) := by
  unfold freeSlot
  (repeat' split) <;> simp +contextual (maxDischargeDepth := 99) [*]

@[simp ↓] theorem tierStore_holds (hpods : Stable P .pods) (hpw : Stable P .pw) (hst : Stable P .st) (a0) (a1) (a2) (a3) (hs : Holds P s) : Holds P (tierStore a0 a1 a2 a3 s) := by
  unfold tierStore
  simp +contextual (maxDischargeDepth := 99) [*]

@[simp ↓] theorem replicaWrite_holds (hcat : Stable P .cat) (a0) (a1) (a2) (a3) (hs : Holds P s) : Holds P (replicaWrite a0 a1 a2 a3 s) := by
  unfold replicaWrite
  simp +contextual (maxDischargeDepth := 99) [*]

@[simp ↓] theorem pinnedWrite_holds (hstk : Stable P .stk) (a0) (a1) (a2) (hs : Holds P s) : Holds P (pinnedWrite a0 a1 a2 s) := by
  unfold pinnedWrite
  simp +contextual (maxDischargeDepth := 99) [*]

@[simp ↓] theorem rowPlaced_holds (hcat : Stable P .cat) (hstk : Stable P .stk) (a0) (a1) (a2) (a3) (a4) (a5) (hs : Holds P s) : Holds P (rowPlaced a0 a1 a2 a3 a4 a5 s) := by
  unfold rowPlaced
  simp +contextual (maxDischargeDepth := 99) [*]

@[simp ↓] theorem askInval_holds (hcat : Stable P .cat) (hsfp : Stable P .sfp) (hev : Stable P .ev) (a0) (a1) (hs : Holds P s) : Holds P (askInval a0 a1 s) := by
  unfold askInval
  simp +contextual (maxDischargeDepth := 99) [*]

@[simp ↓] theorem putRepdir_holds (hod : Stable P .od) (hst : Stable P .st) (hs : Holds P s) : Holds P (putRepdir s) := by
  unfold putRepdir
  simp +contextual (maxDischargeDepth := 99) [*]

@[simp ↓] theorem addHolder_holds (hcat : Stable P .cat) (hod : Stable P .od) (hst : Stable P .st) (a0) (a1) (a2) (hs : Holds P s) : Holds P (addHolder a0 a1 a2 s) := by
  unfold addHolder
  simp +contextual (maxDischargeDepth := 99) [*]

@[simp ↓] theorem dropHolder_holds (hcat : Stable P .cat) (hod : Stable P .od) (hst : Stable P .st) (a0) (a1) (a2) (hs : Holds P s) : Holds P (dropHolder a0 a1 a2 s) := by
  unfold dropHolder
  simp +contextual (maxDischargeDepth := 99) [*]

@[simp ↓] theorem sendCopy_holds (hsfp : Stable P .sfp) (hev : Stable P .ev) (a0) (a1) (a2) (hs : Holds P s) : Holds P (sendCopy a0 a1 a2 s) := by
  unfold sendCopy
  simp +contextual (maxDischargeDepth := 99) [*]

@[simp ↓] theorem toTwin_holds (hsfp : Stable P .sfp) (hev : Stable P .ev) (a0) (a1) (a2) (hs : Holds P s) : Holds P (toTwin a0 a1 a2 s) := by
  unfold toTwin
  simp +contextual (maxDischargeDepth := 99) [*]

@[simp ↓] theorem sayTwin_holds (hsfp : Stable P .sfp) (hev : Stable P .ev) (a0) (a1) (hs : Holds P s) : Holds P (sayTwin a0 a1 s) := by
  unfold sayTwin
  simp +contextual (maxDischargeDepth := 99) [*]

@[simp ↓] theorem landRow_holds (hcat : Stable P .cat) (hpods : Stable P .pods) (hpw : Stable P .pw) (hst : Stable P .st) (a0) (a1) (a2) (a3) (hs : Holds P s) : HoldsO P (landRow a0 a1 a2 a3 s) := by
  unfold landRow
  extract_lets tier put
  have hput : ∀ l t, Holds P t → Holds P (put l t) := by
    intro l t ht; simp only [put]; simp +contextual (maxDischargeDepth := 99) [*]
  clear_value put
  split
  · exact holdsO_some (hput _ _ hs)
  · split
    · exact holdsO_none
    · cases nextSlot s _ with
      | none => exact holdsO_none
      | some n => exact holdsO_some (hput _ _ (by simp +contextual (maxDischargeDepth := 99) [*]))

@[simp ↓] theorem carryRow_holds (hcat : Stable P .cat) (hpods : Stable P .pods) (hsfp : Stable P .sfp) (hpw : Stable P .pw) (hst : Stable P .st) (hev : Stable P .ev) (a0) (a1) (a2) (a3) (a4) (hs : Holds P s) : HoldsO P (carryRow a0 a1 a2 a3 a4 s) := by
  unfold carryRow
  simp +contextual (maxDischargeDepth := 99) [*]

@[simp ↓] theorem carryBytes_holds (hpods : Stable P .pods) (hsfp : Stable P .sfp) (hpw : Stable P .pw) (hst : Stable P .st) (hev : Stable P .ev) (a0) (a1) (a2) (a3) (hs : Holds P s) : Holds P (carryBytes a0 a1 a2 a3 s) := by
  unfold carryBytes
  simp +contextual (maxDischargeDepth := 99) [*]

@[simp ↓] theorem mirrorRow_holds (hcat : Stable P .cat) (hpods : Stable P .pods) (hsfp : Stable P .sfp) (hpw : Stable P .pw) (hst : Stable P .st) (hev : Stable P .ev) (a0) (a1) (a2) (a3) (a4) (hs : Holds P s) : Holds P (mirrorRow a0 a1 a2 a3 a4 s) := by
  unfold mirrorRow
  (repeat' split) <;> simp +contextual (maxDischargeDepth := 99) [*]

@[simp ↓] theorem commitDirect_holds (hcat : Stable P .cat) (hpods : Stable P .pods) (hstk : Stable P .stk) (hsfp : Stable P .sfp) (hpw : Stable P .pw) (hst : Stable P .st) (hev : Stable P .ev) (a0) (a1) (a2) (a3) (a4) (a5) (a6) (a7) (a8) (hs : Holds P s) : Holds P (commitDirect a0 a1 a2 a3 a4 a5 a6 a7 a8 s) := by
  unfold commitDirect
  (repeat' split) <;> simp +contextual (maxDischargeDepth := 99) [*]

@[simp ↓] theorem sideFree_holds (hcat : Stable P .cat) (a0) (a1) (hs : Holds P s) : Holds P (sideFree a0 a1 s) := by
  unfold sideFree
  simp +contextual (maxDischargeDepth := 99) [*]

@[simp ↓] theorem beginShelved_holds (hcat : Stable P .cat) (hpods : Stable P .pods) (hpw : Stable P .pw) (hst : Stable P .st) (a0) (a1) (a2) (a3) (a4) (a5) (a6) (a7) (hs : Holds P s) : HoldsQ P (beginShelved a0 a1 a2 a3 a4 a5 a6 a7 s) := by
  unfold beginShelved
  repeat' first
    | (extract_lets +onlyGivenNames x
       first
       | (have hx : Holds P x := by (simp only [x]; repeat' split) <;> simp +contextual (maxDischargeDepth := 99) [*]
          clear_value x)
       | (have hx : HoldsF P x := by (simp only [x]; repeat' split) <;> simp +contextual (maxDischargeDepth := 99) [*]
          clear_value x)
       | (have hx : HoldsG P x := by (simp only [x]; repeat' split) <;> simp +contextual (maxDischargeDepth := 99) [*]
          clear_value x)
       | (have hx : HoldsO P x := by (simp only [x]; repeat' split) <;> simp +contextual (maxDischargeDepth := 99) [*]
          clear_value x)
       | (have hx : HoldsL P x := by (simp only [x]; repeat' split) <;> simp +contextual (maxDischargeDepth := 99) [*]
          clear_value x)
       | (have hx : ∀ t, Holds P t → Holds P (x t) := by intro t ht; (simp only [x]; repeat' split) <;> simp +contextual (maxDischargeDepth := 99) [*]
          clear_value x)
       | (have hx : ∀ a t, Holds P t → Holds P (x a t) := by intro a t ht; (simp only [x]; repeat' split) <;> simp +contextual (maxDischargeDepth := 99) [*]
          clear_value x)
       | clear_value x)
    | split
  all_goals first
    | simp +contextual (maxDischargeDepth := 99) [*]
    | (have ht := ofO (P := P) ‹(_ : Option State) = some _›; simp +contextual (maxDischargeDepth := 99) [*])
    | (have ht := ofF (P := P) ‹(_ : State × _) = (_, _)›; simp +contextual (maxDischargeDepth := 99) [*])
    | (have ht := ofG (P := P) ‹(_ : _ × State) = (_, _)›; simp +contextual (maxDischargeDepth := 99) [*])
    | (have ht := ofV_ready (P := P) ‹(_ : PrepRes) = .ready _ _›; simp +contextual (maxDischargeDepth := 99) [*])
    | (have ht := ofV_wait (P := P) ‹(_ : PrepRes) = .wait _›; simp +contextual (maxDischargeDepth := 99) [*])
    | (have ht := ofV_fault (P := P) ‹(_ : PrepRes) = .fault _ _›; simp +contextual (maxDischargeDepth := 99) [*])
    | (have ht := ofU_done (P := P) ‹(_ : PutRes) = .done _›; simp +contextual (maxDischargeDepth := 99) [*])
    | (have ht := ofU_wait (P := P) ‹(_ : PutRes) = .wait _›; simp +contextual (maxDischargeDepth := 99) [*])
    | (have ht := ofU_pend (P := P) ‹(_ : PutRes) = .pend _ _›; simp +contextual (maxDischargeDepth := 99) [*])

@[simp ↓] theorem sideLeft_holds (hcat : Stable P .cat) (a0) (a1) (a2) (hs : Holds P s) : Holds P (sideLeft a0 a1 a2 s) := by
  unfold sideLeft
  simp +contextual (maxDischargeDepth := 99) [*]

@[simp ↓] theorem commitShelved_holds (hcat : Stable P .cat) (hpods : Stable P .pods) (hstk : Stable P .stk) (hsfp : Stable P .sfp) (hod : Stable P .od) (hpw : Stable P .pw) (hst : Stable P .st) (hev : Stable P .ev) (a0) (hs : Holds P s) : Holds P (commitShelved a0 s) := by
  unfold commitShelved
  (repeat' split) <;> simp +contextual (maxDischargeDepth := 99) [*]

end Sys2Proof.Machine
end

