-- ==== Sys2Proof/Laws/KeepPlacement.lean ====
section
/-! SUPPORT. What the functions of Machine/Placement.lean keep: one lemma each, for every predicate on states that
is stable under changes of the parts the function can reach. -/

namespace Sys2Proof.Machine

variable {P : State → Prop} {s : State}

@[simp ↓] theorem seeTerm_holds (hsfp : Stable P .sfp) (hod : Stable P .od) (hev : Stable P .ev) (a0) (a1) (hs : Holds P s) : Holds P (seeTerm a0 a1 s) := by
  unfold seeTerm
  simp +contextual (maxDischargeDepth := 99) [*]

@[simp ↓] theorem adoptEpoch_holds (hcat : Stable P .cat) (hsfp : Stable P .sfp) (hst : Stable P .st) (hev : Stable P .ev) (a0) (a1) (hs : Holds P s) : Holds P (adoptEpoch a0 a1 s) := by
  unfold adoptEpoch
  simp +contextual (maxDischargeDepth := 99) [*]

@[simp ↓] theorem distribute_holds (hcat : Stable P .cat) (hsfp : Stable P .sfp) (hst : Stable P .st) (hev : Stable P .ev) (hs : Holds P s) : Holds P (distribute s) := by
  unfold distribute
  simp +contextual (maxDischargeDepth := 99) [*]

@[simp ↓] theorem mapChange_holds (hcat : Stable P .cat) (hsfp : Stable P .sfp) (hst : Stable P .st) (hev : Stable P .ev) (a0) (a1) (hs : Holds P s) : Holds P (mapChange a0 a1 s) := by
  unfold mapChange
  repeat' first
    | (extract_lets +onlyGivenNames x
       first
       | (have hx : Holds P x := by (simp only [x]; repeat' split) <;> simp +contextual (maxDischargeDepth := 99) [*]
          clear_value x)
       | clear_value x)
    | split
  all_goals simp +contextual (maxDischargeDepth := 99) [*]

@[simp ↓] theorem reportMove_holds (hcat : Stable P .cat) (hsfp : Stable P .sfp) (hst : Stable P .st) (hev : Stable P .ev) (a0) (a1) (a2) (hs : Holds P s) : Holds P (reportMove a0 a1 a2 s) := by
  unfold reportMove
  simp +contextual (maxDischargeDepth := 99) [*]

end Sys2Proof.Machine
end

