-- ==== Sys2Proof/Laws/KeepRelocate.lean ====
section
/-! SUPPORT. What the functions of Machine/Relocate.lean keep: one lemma each, for every predicate on states that
is stable under changes of the parts the function can reach. -/

namespace Sys2Proof.Machine

variable {P : State → Prop} {s : State}

@[simp ↓] theorem refuseCtl_holds (hcfe : Stable P .cfe) (hcat : Stable P .cat) (hpods : Stable P .pods) (hmq : Stable P .mq) (hev : Stable P .ev) (a0) (hs : Holds P s) : Holds P (refuseCtl a0 s) := by
  unfold refuseCtl
  simp +contextual (maxDischargeDepth := 99) [*]

@[simp ↓] theorem dropShardReplicas_holds (hcat : Stable P .cat) (hod : Stable P .od) (a0) (a1) (hs : Holds P s) : Holds P (dropShardReplicas a0 a1 s) := by
  unfold dropShardReplicas
  simp +contextual (maxDischargeDepth := 99) [*]

@[simp ↓] theorem freeArray_holds (hcat : Stable P .cat) (hod : Stable P .od) (hst : Stable P .st) (a0) (a1) (a2) (a3) (a4) (a5) (hs : Holds P s) : Holds P (freeArray a0 a1 a2 a3 a4 a5 s) := by
  unfold freeArray
  simp +contextual (maxDischargeDepth := 99) [*]

@[simp ↓] theorem markReads_holds (hpods : Stable P .pods) (a0) (hs : Holds P s) : Holds P (markReads a0 s) := by
  unfold markReads
  simp +contextual (maxDischargeDepth := 99) [*]

@[simp ↓] theorem copyComp_holds (hpods : Stable P .pods) (hsfp : Stable P .sfp) (hpw : Stable P .pw) (hst : Stable P .st) (hev : Stable P .ev) (a0) (a1) (a2) (a3) (a4) (hs : Holds P s) : Holds P (copyComp a0 a1 a2 a3 a4 s) := by
  unfold copyComp
  simp +contextual (maxDischargeDepth := 99) [*]

@[simp ↓] theorem copySide_holds (hpods : Stable P .pods) (hsfp : Stable P .sfp) (hpw : Stable P .pw) (hst : Stable P .st) (hev : Stable P .ev) (a0) (a1) (a2) (a3) (hs : Holds P s) : Holds P (copySide a0 a1 a2 a3 s) := by
  unfold copySide
  simp +contextual (maxDischargeDepth := 99) [*]

@[simp ↓] theorem copyPosition_holds (hcat : Stable P .cat) (hpods : Stable P .pods) (hsfp : Stable P .sfp) (hpw : Stable P .pw) (hst : Stable P .st) (hev : Stable P .ev) (a0) (a1) (a2) (a3) (a4) (hs : Holds P s) : HoldsO P (copyPosition a0 a1 a2 a3 a4 s) := by
  unfold copyPosition
  (repeat' split) <;> simp +contextual (maxDischargeDepth := 99) [*]

@[simp ↓] theorem copyWaits_holds (hcat : Stable P .cat) (hod : Stable P .od) (hev : Stable P .ev) (a0) (a1) (hs : Holds P s) : Holds P (copyWaits a0 a1 s) := by
  unfold copyWaits
  (repeat' split) <;> simp +contextual (maxDischargeDepth := 99) [*]

@[simp ↓] theorem copyFrom_holds (hcfe : Stable P .cfe) (hcat : Stable P .cat) (hpods : Stable P .pods) (hsfp : Stable P .sfp) (hod : Stable P .od) (hpw : Stable P .pw) (hst : Stable P .st) (hev : Stable P .ev) (a0) (a1) (a2) (a3) (a4) (a5) (a6) (hs : Holds P s) : Holds P (copyFrom a0 a1 a2 a3 a4 a5 a6 s) := by
  induction a5 generalizing a6 s with
  | zero => unfold copyFrom; exact hs
  | succ n ih =>
    unfold copyFrom
    have ho : HoldsO P (copyPosition a1 a2 a3 a4 a6 s) := by simp +contextual (maxDischargeDepth := 99) [*]
    generalize copyPosition _ _ _ _ _ _ = o at ho ⊢
    cases o with
    | none => simp +contextual (maxDischargeDepth := 99) [*]
    | some t => exact ih _ (by have ht := ho _ rfl; simp +contextual (maxDischargeDepth := 99) [*])

@[simp ↓] theorem mirrorOwed_holds (hcat : Stable P .cat) (hpods : Stable P .pods) (hsfp : Stable P .sfp) (hod : Stable P .od) (hpw : Stable P .pw) (hst : Stable P .st) (hev : Stable P .ev) (a0) (a1) (hs : Holds P s) : Holds P (mirrorOwed a0 a1 s) := by
  unfold mirrorOwed
  repeat' first
    | assumption
    | with_reducible apply withHq_holds
    | with_reducible apply stageEnd_holds
    | with_reducible apply forEach_holds
    | with_reducible apply whenS_holds
    | (intro y; intros)
    | (extract_lets +onlyGivenNames x
       first
       | (have hx : Holds P x := by (simp only [x]; repeat' split) <;> simp +contextual (maxDischargeDepth := 99) [*]
          clear_value x)
       | (have hx : HoldsF P x := by (simp only [x]; repeat' split) <;> simp +contextual (maxDischargeDepth := 99) [*]
          clear_value x)
       | (have hx : HoldsG P x := by (simp only [x]; repeat' split) <;> simp +contextual (maxDischargeDepth := 99) [*]
          clear_value x)
       | (have hx : HoldsO P x := by (simp only [x]; repeat' split) <;> simp +contextual (maxDischargeDepth := 99) [*]
          clear_value x)
       | (have hx : HoldsL P x := by (simp only [x]; repeat' split) <;> simp +contextual (maxDischargeDepth := 99) [*]
          clear_value x)
       | (have hx : ∀ t, Holds P t → Holds P (x t) := by intro t ht; (simp only [x]; repeat' split) <;> simp +contextual (maxDischargeDepth := 99) [*]
          clear_value x)
       | (have hx : ∀ a t, Holds P t → Holds P (x a t) := by intro a t ht; (simp only [x]; repeat' split) <;> simp +contextual (maxDischargeDepth := 99) [*]
          clear_value x)
       | clear_value x)
    | split
  all_goals first
    | simp +contextual (maxDischargeDepth := 99) [*]
    | (have ht := ofO (P := P) ‹(_ : Option State) = some _›; simp +contextual (maxDischargeDepth := 99) [*])
    | (have ht := ofF (P := P) ‹(_ : State × _) = (_, _)›; simp +contextual (maxDischargeDepth := 99) [*])
    | (have ht := ofG (P := P) ‹(_ : _ × State) = (_, _)›; simp +contextual (maxDischargeDepth := 99) [*])
    | (have ht := ofV_ready (P := P) ‹(_ : PrepRes) = .ready _ _›; simp +contextual (maxDischargeDepth := 99) [*])
    | (have ht := ofV_wait (P := P) ‹(_ : PrepRes) = .wait _›; simp +contextual (maxDischargeDepth := 99) [*])
    | (have ht := ofV_fault (P := P) ‹(_ : PrepRes) = .fault _ _›; simp +contextual (maxDischargeDepth := 99) [*])
    | (have ht := ofU_done (P := P) ‹(_ : PutRes) = .done _›; simp +contextual (maxDischargeDepth := 99) [*])
    | (have ht := ofU_wait (P := P) ‹(_ : PutRes) = .wait _›; simp +contextual (maxDischargeDepth := 99) [*])
    | (have ht := ofU_pend (P := P) ‹(_ : PutRes) = .pend _ _›; simp +contextual (maxDischargeDepth := 99) [*])

@[simp ↓] theorem doMoveShard_holds (hcfe : Stable P .cfe) (hcat : Stable P .cat) (hpods : Stable P .pods) (hsfp : Stable P .sfp) (hod : Stable P .od) (hmq : Stable P .mq) (hpw : Stable P .pw) (hst : Stable P .st) (hev : Stable P .ev) (a0) (hs : Holds P s) : Holds P (doMoveShard a0 s) := by
  unfold doMoveShard
  (repeat' split) <;> simp +contextual (maxDischargeDepth := 99) [*]

@[simp ↓] theorem execMoveShard_holds (hcfe : Stable P .cfe) (hcat : Stable P .cat) (hpods : Stable P .pods) (hsfp : Stable P .sfp) (hod : Stable P .od) (hmq : Stable P .mq) (hpw : Stable P .pw) (hst : Stable P .st) (hev : Stable P .ev) (a0) (hs : Holds P s) : HoldsR P (execMoveShard a0 s) := by
  unfold execMoveShard
  refine HoldsR.next ?_
  simp +contextual (maxDischargeDepth := 99) [*]

@[simp ↓] theorem moveSwitched_holds (hcat : Stable P .cat) (a0) (hs : Holds P s) : Holds P (moveSwitched a0 s) := by
  unfold moveSwitched
  simp +contextual (maxDischargeDepth := 99) [*]

@[simp ↓] theorem switchReplicas_holds (hcat : Stable P .cat) (hod : Stable P .od) (a0) (a1) (a2) (a3) (hs : Holds P s) : Holds P (switchReplicas a0 a1 a2 a3 s) := by
  unfold switchReplicas
  simp +contextual (maxDischargeDepth := 99) [*]

@[simp ↓] theorem writeForward_holds (hst : Stable P .st) (a0) (a1) (a2) (hs : Holds P s) : Holds P (writeForward a0 a1 a2 s) := by
  unfold writeForward
  (repeat' split) <;> simp +contextual (maxDischargeDepth := 99) [*]

@[simp ↓] theorem doShardSwitch_holds (hcfe : Stable P .cfe) (hcat : Stable P .cat) (hpods : Stable P .pods) (hstk : Stable P .stk) (hsfp : Stable P .sfp) (hod : Stable P .od) (hmq : Stable P .mq) (hpw : Stable P .pw) (hst : Stable P .st) (hev : Stable P .ev) (a0) (hs : Holds P s) : Holds P (doShardSwitch a0 s) := by
  unfold doShardSwitch
  repeat' first
    | (extract_lets +onlyGivenNames x
       first
       | (have hx : Holds P x := by (simp only [x]; repeat' split) <;> simp +contextual (maxDischargeDepth := 99) [*]
          clear_value x)
       | clear_value x)
    | split
  all_goals simp +contextual (maxDischargeDepth := 99) [*]

@[simp ↓] theorem execShardSwitch_holds (hcfe : Stable P .cfe) (hcat : Stable P .cat) (hpods : Stable P .pods) (hstk : Stable P .stk) (hsfp : Stable P .sfp) (hod : Stable P .od) (hmq : Stable P .mq) (hpw : Stable P .pw) (hst : Stable P .st) (hev : Stable P .ev) (a0) (hs : Holds P s) : HoldsR P (execShardSwitch a0 s) := by
  unfold execShardSwitch
  refine HoldsR.next ?_
  simp +contextual (maxDischargeDepth := 99) [*]

@[simp ↓] theorem doMoveRow_holds (hcfe : Stable P .cfe) (hcat : Stable P .cat) (hpods : Stable P .pods) (hod : Stable P .od) (hmq : Stable P .mq) (hpw : Stable P .pw) (hst : Stable P .st) (hev : Stable P .ev) (a0) (hs : Holds P s) : Holds P (doMoveRow a0 s) := by
  unfold doMoveRow
  repeat' first
    | (extract_lets +onlyGivenNames x
       first
       | (have hx : Holds P x := by (simp only [x]; repeat' split) <;> simp +contextual (maxDischargeDepth := 99) [*]
          clear_value x)
       | (have hx : HoldsF P x := by (simp only [x]; repeat' split) <;> simp +contextual (maxDischargeDepth := 99) [*]
          clear_value x)
       | (have hx : HoldsG P x := by (simp only [x]; repeat' split) <;> simp +contextual (maxDischargeDepth := 99) [*]
          clear_value x)
       | (have hx : HoldsO P x := by (simp only [x]; repeat' split) <;> simp +contextual (maxDischargeDepth := 99) [*]
          clear_value x)
       | (have hx : HoldsL P x := by (simp only [x]; repeat' split) <;> simp +contextual (maxDischargeDepth := 99) [*]
          clear_value x)
       | (have hx : ∀ t, Holds P t → Holds P (x t) := by intro t ht; (simp only [x]; repeat' split) <;> simp +contextual (maxDischargeDepth := 99) [*]
          clear_value x)
       | (have hx : ∀ a t, Holds P t → Holds P (x a t) := by intro a t ht; (simp only [x]; repeat' split) <;> simp +contextual (maxDischargeDepth := 99) [*]
          clear_value x)
       | clear_value x)
    | split
  all_goals first
    | simp +contextual (maxDischargeDepth := 99) [*]
    | (have ht := ofO (P := P) ‹(_ : Option State) = some _›; simp +contextual (maxDischargeDepth := 99) [*])
    | (have ht := ofF (P := P) ‹(_ : State × _) = (_, _)›; simp +contextual (maxDischargeDepth := 99) [*])
    | (have ht := ofG (P := P) ‹(_ : _ × State) = (_, _)›; simp +contextual (maxDischargeDepth := 99) [*])
    | (have ht := ofV_ready (P := P) ‹(_ : PrepRes) = .ready _ _›; simp +contextual (maxDischargeDepth := 99) [*])
    | (have ht := ofV_wait (P := P) ‹(_ : PrepRes) = .wait _›; simp +contextual (maxDischargeDepth := 99) [*])
    | (have ht := ofV_fault (P := P) ‹(_ : PrepRes) = .fault _ _›; simp +contextual (maxDischargeDepth := 99) [*])
    | (have ht := ofU_done (P := P) ‹(_ : PutRes) = .done _›; simp +contextual (maxDischargeDepth := 99) [*])
    | (have ht := ofU_wait (P := P) ‹(_ : PutRes) = .wait _›; simp +contextual (maxDischargeDepth := 99) [*])
    | (have ht := ofU_pend (P := P) ‹(_ : PutRes) = .pend _ _›; simp +contextual (maxDischargeDepth := 99) [*])

@[simp ↓] theorem execMoveRow_holds (hcfe : Stable P .cfe) (hcat : Stable P .cat) (hpods : Stable P .pods) (hod : Stable P .od) (hmq : Stable P .mq) (hpw : Stable P .pw) (hst : Stable P .st) (hev : Stable P .ev) (a0) (hs : Holds P s) : HoldsR P (execMoveRow a0 s) := by
  unfold execMoveRow
  refine HoldsR.next ?_
  simp +contextual (maxDischargeDepth := 99) [*]

@[simp ↓] theorem doMoveRowCommit_holds (hcfe : Stable P .cfe) (hcat : Stable P .cat) (hpods : Stable P .pods) (hstk : Stable P .stk) (hsfp : Stable P .sfp) (hod : Stable P .od) (hmq : Stable P .mq) (hpw : Stable P .pw) (hst : Stable P .st) (hev : Stable P .ev) (a0) (hs : Holds P s) : Holds P (doMoveRowCommit a0 s) := by
  unfold doMoveRowCommit
  (repeat' split) <;> simp +contextual (maxDischargeDepth := 99) [*]

@[simp ↓] theorem execMoveRowCommit_holds (hcfe : Stable P .cfe) (hcat : Stable P .cat) (hpods : Stable P .pods) (hstk : Stable P .stk) (hsfp : Stable P .sfp) (hod : Stable P .od) (hmq : Stable P .mq) (hpw : Stable P .pw) (hst : Stable P .st) (hev : Stable P .ev) (a0) (hs : Holds P s) : HoldsR P (execMoveRowCommit a0 s) := by
  unfold execMoveRowCommit
  refine HoldsR.next ?_
  simp +contextual (maxDischargeDepth := 99) [*]

@[simp ↓] theorem holdReplica_holds (hcat : Stable P .cat) (hod : Stable P .od) (a0) (hs : Holds P s) : Holds P (holdReplica a0 s) := by
  unfold holdReplica
  simp +contextual (maxDischargeDepth := 99) [*]

@[simp ↓] theorem doReplicateRow_holds (hcfe : Stable P .cfe) (hcat : Stable P .cat) (hpods : Stable P .pods) (hgau : Stable P .gau) (hstk : Stable P .stk) (hsfp : Stable P .sfp) (hmsc : Stable P .msc) (hcru : Stable P .cru) (hod : Stable P .od) (hscratch : Stable P .scratch) (htiles : Stable P .tiles) (hmq : Stable P .mq) (hev : Stable P .ev) (a0) (hs : Holds P s) : Holds P (doReplicateRow a0 s) := by
  unfold doReplicateRow
  repeat' first
    | (extract_lets +onlyGivenNames x
       first
       | (have hx : Holds P x := by (simp only [x]; repeat' split) <;> simp +contextual (maxDischargeDepth := 99) [*]
          clear_value x)
       | clear_value x)
    | split
  all_goals simp +contextual (maxDischargeDepth := 99) [*]

@[simp ↓] theorem execReplicateRow_holds (hcfe : Stable P .cfe) (hcat : Stable P .cat) (hpods : Stable P .pods) (hgau : Stable P .gau) (hstk : Stable P .stk) (hsfp : Stable P .sfp) (hmsc : Stable P .msc) (hcru : Stable P .cru) (hod : Stable P .od) (hscratch : Stable P .scratch) (htiles : Stable P .tiles) (hmq : Stable P .mq) (hev : Stable P .ev) (a0) (hs : Holds P s) : HoldsR P (execReplicateRow a0 s) := by
  unfold execReplicateRow
  refine HoldsR.next ?_
  simp +contextual (maxDischargeDepth := 99) [*]

@[simp ↓] theorem doDropReplica_holds (hcfe : Stable P .cfe) (hcat : Stable P .cat) (hpods : Stable P .pods) (hsfp : Stable P .sfp) (hod : Stable P .od) (hmq : Stable P .mq) (hev : Stable P .ev) (a0) (hs : Holds P s) : Holds P (doDropReplica a0 s) := by
  unfold doDropReplica
  (repeat' split) <;> simp +contextual (maxDischargeDepth := 99) [*]

@[simp ↓] theorem execDropReplica_holds (hcfe : Stable P .cfe) (hcat : Stable P .cat) (hpods : Stable P .pods) (hsfp : Stable P .sfp) (hod : Stable P .od) (hmq : Stable P .mq) (hev : Stable P .ev) (a0) (hs : Holds P s) : HoldsR P (execDropReplica a0 s) := by
  unfold execDropReplica
  refine HoldsR.next ?_
  simp +contextual (maxDischargeDepth := 99) [*]

@[simp ↓] theorem doDrainFence_holds (hcfe : Stable P .cfe) (hcat : Stable P .cat) (hpods : Stable P .pods) (hod : Stable P .od) (hmq : Stable P .mq) (hst : Stable P .st) (hev : Stable P .ev) (a0) (hs : Holds P s) : Holds P (doDrainFence a0 s) := by
  unfold doDrainFence
  (repeat' split) <;> simp +contextual (maxDischargeDepth := 99) [*]

@[simp ↓] theorem execDrainFence_holds (hcfe : Stable P .cfe) (hcat : Stable P .cat) (hpods : Stable P .pods) (hod : Stable P .od) (hmq : Stable P .mq) (hst : Stable P .st) (hev : Stable P .ev) (a0) (hs : Holds P s) : HoldsR P (execDrainFence a0 s) := by
  unfold execDrainFence
  refine HoldsR.next ?_
  simp +contextual (maxDischargeDepth := 99) [*]

@[simp ↓] theorem doDrainFenceComplete_holds (hcfe : Stable P .cfe) (hcat : Stable P .cat) (hod : Stable P .od) (hmq : Stable P .mq) (hst : Stable P .st) (a0) (hs : Holds P s) : Holds P (doDrainFenceComplete a0 s) := by
  unfold doDrainFenceComplete
  repeat' first
    | (extract_lets +onlyGivenNames x
       first
       | (have hx : Holds P x := by (simp only [x]; repeat' split) <;> simp +contextual (maxDischargeDepth := 99) [*]
          clear_value x)
       | (have hx : HoldsF P x := by (simp only [x]; repeat' split) <;> simp +contextual (maxDischargeDepth := 99) [*]
          clear_value x)
       | (have hx : HoldsG P x := by (simp only [x]; repeat' split) <;> simp +contextual (maxDischargeDepth := 99) [*]
          clear_value x)
       | (have hx : HoldsO P x := by (simp only [x]; repeat' split) <;> simp +contextual (maxDischargeDepth := 99) [*]
          clear_value x)
       | (have hx : HoldsL P x := by (simp only [x]; repeat' split) <;> simp +contextual (maxDischargeDepth := 99) [*]
          clear_value x)
       | (have hx : ∀ t, Holds P t → Holds P (x t) := by intro t ht; (simp only [x]; repeat' split) <;> simp +contextual (maxDischargeDepth := 99) [*]
          clear_value x)
       | (have hx : ∀ a t, Holds P t → Holds P (x a t) := by intro a t ht; (simp only [x]; repeat' split) <;> simp +contextual (maxDischargeDepth := 99) [*]
          clear_value x)
       | clear_value x)
    | split
  all_goals first
    | simp +contextual (maxDischargeDepth := 99) [*]
    | (have ht := ofO (P := P) ‹(_ : Option State) = some _›; simp +contextual (maxDischargeDepth := 99) [*])
    | (have ht := ofF (P := P) ‹(_ : State × _) = (_, _)›; simp +contextual (maxDischargeDepth := 99) [*])
    | (have ht := ofG (P := P) ‹(_ : _ × State) = (_, _)›; simp +contextual (maxDischargeDepth := 99) [*])
    | (have ht := ofV_ready (P := P) ‹(_ : PrepRes) = .ready _ _›; simp +contextual (maxDischargeDepth := 99) [*])
    | (have ht := ofV_wait (P := P) ‹(_ : PrepRes) = .wait _›; simp +contextual (maxDischargeDepth := 99) [*])
    | (have ht := ofV_fault (P := P) ‹(_ : PrepRes) = .fault _ _›; simp +contextual (maxDischargeDepth := 99) [*])
    | (have ht := ofU_done (P := P) ‹(_ : PutRes) = .done _›; simp +contextual (maxDischargeDepth := 99) [*])
    | (have ht := ofU_wait (P := P) ‹(_ : PutRes) = .wait _›; simp +contextual (maxDischargeDepth := 99) [*])
    | (have ht := ofU_pend (P := P) ‹(_ : PutRes) = .pend _ _›; simp +contextual (maxDischargeDepth := 99) [*])

@[simp ↓] theorem execDrainFenceComplete_holds (hcfe : Stable P .cfe) (hcat : Stable P .cat) (hod : Stable P .od) (hmq : Stable P .mq) (hst : Stable P .st) (a0) (hs : Holds P s) : HoldsR P (execDrainFenceComplete a0 s) := by
  unfold execDrainFenceComplete
  refine HoldsR.next ?_
  simp +contextual (maxDischargeDepth := 99) [*]

@[simp ↓] theorem doReplaceBegin_holds (hcfe : Stable P .cfe) (hcat : Stable P .cat) (hpods : Stable P .pods) (hgau : Stable P .gau) (hstk : Stable P .stk) (hsfp : Stable P .sfp) (hmsc : Stable P .msc) (hcru : Stable P .cru) (hod : Stable P .od) (hscratch : Stable P .scratch) (htiles : Stable P .tiles) (hmq : Stable P .mq) (hpw : Stable P .pw) (hst : Stable P .st) (hev : Stable P .ev) (a0) (hs : Holds P s) : Holds P (doReplaceBegin a0 s) := by
  unfold doReplaceBegin
  repeat' first
    | (extract_lets +onlyGivenNames x
       first
       | (have hx : Holds P x := by (simp only [x]; repeat' split) <;> simp +contextual (maxDischargeDepth := 99) [*]
          clear_value x)
       | clear_value x)
    | split
  all_goals simp +contextual (maxDischargeDepth := 99) [*]

@[simp ↓] theorem execReplaceBegin_holds (hcfe : Stable P .cfe) (hcat : Stable P .cat) (hpods : Stable P .pods) (hgau : Stable P .gau) (hstk : Stable P .stk) (hsfp : Stable P .sfp) (hmsc : Stable P .msc) (hcru : Stable P .cru) (hod : Stable P .od) (hscratch : Stable P .scratch) (htiles : Stable P .tiles) (hmq : Stable P .mq) (hpw : Stable P .pw) (hst : Stable P .st) (hev : Stable P .ev) (a0) (hs : Holds P s) : HoldsR P (execReplaceBegin a0 s) := by
  unfold execReplaceBegin
  refine HoldsR.next ?_
  simp +contextual (maxDischargeDepth := 99) [*]

@[simp ↓] theorem doReplaceCopyDone_holds (hcfe : Stable P .cfe) (hcat : Stable P .cat) (hmq : Stable P .mq) (hst : Stable P .st) (a0) (hs : Holds P s) : Holds P (doReplaceCopyDone a0 s) := by
  unfold doReplaceCopyDone
  (repeat' split) <;> simp +contextual (maxDischargeDepth := 99) [*]

@[simp ↓] theorem execReplaceCopyDone_holds (hcfe : Stable P .cfe) (hcat : Stable P .cat) (hmq : Stable P .mq) (hst : Stable P .st) (a0) (hs : Holds P s) : HoldsR P (execReplaceCopyDone a0 s) := by
  unfold execReplaceCopyDone
  refine HoldsR.next ?_
  simp +contextual (maxDischargeDepth := 99) [*]

@[simp ↓] theorem doReplaceCommit_holds (hcfe : Stable P .cfe) (hcat : Stable P .cat) (hpods : Stable P .pods) (hstk : Stable P .stk) (hsfp : Stable P .sfp) (hod : Stable P .od) (hmq : Stable P .mq) (hst : Stable P .st) (hev : Stable P .ev) (a0) (hs : Holds P s) : Holds P (doReplaceCommit a0 s) := by
  unfold doReplaceCommit
  (repeat' split) <;> simp +contextual (maxDischargeDepth := 99) [*]

@[simp ↓] theorem execReplaceCommit_holds (hcfe : Stable P .cfe) (hcat : Stable P .cat) (hpods : Stable P .pods) (hstk : Stable P .stk) (hsfp : Stable P .sfp) (hod : Stable P .od) (hmq : Stable P .mq) (hst : Stable P .st) (hev : Stable P .ev) (a0) (hs : Holds P s) : HoldsR P (execReplaceCommit a0 s) := by
  unfold execReplaceCommit
  refine HoldsR.next ?_
  simp +contextual (maxDischargeDepth := 99) [*]

end Sys2Proof.Machine
end

