-- ==== Sys2Proof/Laws/KeepAdmission.lean ====
section
/-! SUPPORT. What the functions of Machine/Admission.lean keep: one lemma each, for every predicate on states that
is stable under changes of the parts the function can reach. -/

namespace Sys2Proof.Machine

variable {P : State → Prop} {s : State}

@[simp ↓] theorem timePassed_holds (hfsu : Stable P .fsu) (hcru : Stable P .cru) (a0) (hs : Holds P s) : Holds P (timePassed a0 s) := by
  unfold timePassed
  simp +contextual (maxDischargeDepth := 99) [*]

@[simp ↓] theorem settleTime_holds (hgau : Stable P .gau) (hfsu : Stable P .fsu) (hcru : Stable P .cru) (hs : Holds P s) : Holds P (settleTime s) := by
  unfold settleTime
  simp +contextual (maxDischargeDepth := 99) [*]

@[simp ↓] theorem admitGroup_holds (hpods : Stable P .pods) (a0) (a1) (hs : Holds P s) : Holds P (admitGroup a0 a1 s) := by
  unfold admitGroup
  repeat' first
    | (extract_lets +onlyGivenNames x
       first
       | (have hx : Holds P x := by (simp only [x]; repeat' split) <;> simp +contextual (maxDischargeDepth := 99) [*]
          clear_value x)
       | clear_value x)
    | split
  all_goals simp +contextual (maxDischargeDepth := 99) [*]

@[simp ↓] theorem charge_holds (hfsu : Stable P .fsu) (a0) (hs : Holds P s) : Holds P (charge a0 s) := by
  unfold charge
  simp +contextual (maxDischargeDepth := 99) [*]

@[simp ↓] theorem dealPair_holds (hcfe : Stable P .cfe) (a0) (a1) (hs : Holds P s) : Holds P (dealPair a0 a1 s) := by
  unfold dealPair
  simp +contextual (maxDischargeDepth := 99) [*]

@[simp ↓] theorem wakePods_holds (hpods : Stable P .pods) (a0) (hs : Holds P s) : Holds P (wakePods a0 s) := by
  unfold wakePods
  simp +contextual (maxDischargeDepth := 99) [*]

@[simp ↓] theorem beginTask_holds (hcfe : Stable P .cfe) (hpods : Stable P .pods) (hfsu : Stable P .fsu) (hmq : Stable P .mq) (a0) (hs : Holds P s) : Holds P (beginTask a0 s) := by
  unfold beginTask
  repeat' first
    | (extract_lets +onlyGivenNames x
       first
       | (have hx : Holds P x := by (simp only [x]; repeat' split) <;> simp +contextual (maxDischargeDepth := 99) [*]
          clear_value x)
       | clear_value x)
    | split
  all_goals simp +contextual (maxDischargeDepth := 99) [*]

@[simp ↓] theorem dropNamedGroup_holds (hcfe : Stable P .cfe) (hcat : Stable P .cat) (hpods : Stable P .pods) (hmq : Stable P .mq) (hev : Stable P .ev) (a0) (a1) (hs : Holds P s) : Holds P (dropNamedGroup a0 a1 s) := by
  unfold dropNamedGroup
  (repeat' split) <;> simp +contextual (maxDischargeDepth := 99) [*]

@[simp ↓] theorem entryFault_holds (hcfe : Stable P .cfe) (hcat : Stable P .cat) (hpods : Stable P .pods) (hgau : Stable P .gau) (hstk : Stable P .stk) (hmsc : Stable P .msc) (hcru : Stable P .cru) (hod : Stable P .od) (hscratch : Stable P .scratch) (htiles : Stable P .tiles) (hmq : Stable P .mq) (hev : Stable P .ev) (a0) (a1) (hs : Holds P s) : Holds P (entryFault a0 a1 s) := by
  unfold entryFault
  simp +contextual (maxDischargeDepth := 99) [*]

@[simp ↓] theorem admitTask_holds (hcfe : Stable P .cfe) (hcat : Stable P .cat) (hpods : Stable P .pods) (hgau : Stable P .gau) (hstk : Stable P .stk) (hfsu : Stable P .fsu) (hmsc : Stable P .msc) (hcru : Stable P .cru) (hod : Stable P .od) (hscratch : Stable P .scratch) (htiles : Stable P .tiles) (hmq : Stable P .mq) (hev : Stable P .ev) (a0) (hs : Holds P s) : Holds P (admitTask a0 s) := by
  unfold admitTask
  repeat' first
    | (extract_lets +onlyGivenNames x
       first
       | (have hx : Holds P x := by (simp only [x]; repeat' split) <;> simp +contextual (maxDischargeDepth := 99) [*]
          clear_value x)
       | clear_value x)
    | split
  all_goals simp +contextual (maxDischargeDepth := 99) [*]

@[simp ↓] theorem refuseGroup_holds (hcfe : Stable P .cfe) (hcat : Stable P .cat) (hpods : Stable P .pods) (hmq : Stable P .mq) (hev : Stable P .ev) (a0) (hs : Holds P s) : Holds P (refuseGroup a0 s) := by
  unfold refuseGroup
  simp +contextual (maxDischargeDepth := 99) [*]

@[simp ↓] theorem admitOne_holds (hcfe : Stable P .cfe) (hcat : Stable P .cat) (hpods : Stable P .pods) (hgau : Stable P .gau) (hstk : Stable P .stk) (hfsu : Stable P .fsu) (hmsc : Stable P .msc) (hcru : Stable P .cru) (hod : Stable P .od) (hscratch : Stable P .scratch) (htiles : Stable P .tiles) (hmq : Stable P .mq) (hev : Stable P .ev) (hs : Holds P s) : Holds P (admitOne s) := by
  unfold admitOne
  (repeat' split) <;> simp +contextual (maxDischargeDepth := 99) [*]

@[simp ↓] theorem doAdmission_holds (hcfe : Stable P .cfe) (hcat : Stable P .cat) (hpods : Stable P .pods) (hgau : Stable P .gau) (hstk : Stable P .stk) (hfsu : Stable P .fsu) (hmsc : Stable P .msc) (hcru : Stable P .cru) (hod : Stable P .od) (hscratch : Stable P .scratch) (htiles : Stable P .tiles) (hmq : Stable P .mq) (hev : Stable P .ev) (hs : Holds P s) : Holds P (doAdmission s) := by
  unfold doAdmission
  (repeat' split) <;> simp +contextual (maxDischargeDepth := 99) [*]

@[simp ↓] theorem execAdmission_holds (hcfe : Stable P .cfe) (hcat : Stable P .cat) (hpods : Stable P .pods) (hgau : Stable P .gau) (hstk : Stable P .stk) (hfsu : Stable P .fsu) (hmsc : Stable P .msc) (hcru : Stable P .cru) (hod : Stable P .od) (hscratch : Stable P .scratch) (htiles : Stable P .tiles) (hmq : Stable P .mq) (hev : Stable P .ev) (hs : Holds P s) : HoldsR P (execAdmission s) := by
  unfold execAdmission
  refine HoldsR.next ?_
  simp +contextual (maxDischargeDepth := 99) [*]

end Sys2Proof.Machine
end

