-- ==== Sys2Proof/Laws/KeepSprouts.lean ====
section
/-! SUPPORT. What the functions of Machine/Sprouts.lean keep: one lemma each, for every predicate on states that
is stable under changes of the parts the function can reach. -/

namespace Sys2Proof.Machine

variable {P : State → Prop} {s : State}

@[simp ↓] theorem runActs_holds (hpods : Stable P .pods) (hhpt : Stable P .hpt) (hscratch : Stable P .scratch) (htiles : Stable P .tiles) (hpw : Stable P .pw) (hpo : Stable P .po) (hst : Stable P .st) (a0) (a1) (a2) (hs : Holds P s) : HoldsF P (runActs a0 a1 a2 s) := by
  induction a1 generalizing a2 s with
  | nil => unfold runActs; exact hs
  | cons x xs ih =>
    cases x <;> unfold runActs <;> split <;> first
      | exact hs
      | exact ih _ hs
      | exact ih _ (by simp +contextual (maxDischargeDepth := 99) [*])

@[simp ↓] theorem outputStream_holds (hpods : Stable P .pods) (hgau : Stable P .gau) (hhpt : Stable P .hpt) (hscratch : Stable P .scratch) (htiles : Stable P .tiles) (hpw : Stable P .pw) (hpo : Stable P .po) (hst : Stable P .st) (a0) (a1) (a2) (a3) (a4) (a5) (a6) (hs : Holds P s) : HoldsF P (outputStream a0 a1 a2 a3 a4 a5 a6 s) := by
  unfold outputStream
  (repeat' split) <;> simp +contextual (maxDischargeDepth := 99) [*]

@[simp ↓] theorem copyStream_holds (hpods : Stable P .pods) (hgau : Stable P .gau) (hhpt : Stable P .hpt) (hscratch : Stable P .scratch) (htiles : Stable P .tiles) (hpw : Stable P .pw) (hpo : Stable P .po) (hst : Stable P .st) (a0) (a1) (a2) (a3) (a4) (a5) (a6) (a7) (hs : Holds P s) : HoldsF P (copyStream a0 a1 a2 a3 a4 a5 a6 a7 s) := by
  unfold copyStream
  (repeat' split) <;> simp +contextual (maxDischargeDepth := 99) [*]

end Sys2Proof.Machine
end

