-- ==== Sys2Proof/Laws/KeepGroups.lean ====
section
/-! SUPPORT. What the functions of Machine/Groups.lean keep: one lemma each, for every predicate on states that
is stable under changes of the parts the function can reach. -/

namespace Sys2Proof.Machine

variable {P : State → Prop} {s : State}

@[simp ↓] theorem pushHandle_holds (hpods : Stable P .pods) (a0) (a1) (a2) (hs : Holds P s) : Holds P (pushHandle a0 a1 a2 s) := by
  unfold pushHandle
  simp +contextual (maxDischargeDepth := 99) [*]

@[simp ↓] theorem popHandle_holds (hpods : Stable P .pods) (a0) (a1) (hs : Holds P s) : Holds P (popHandle a0 a1 s) := by
  unfold popHandle
  simp +contextual (maxDischargeDepth := 99) [*]

@[simp ↓] theorem withHq_holds (hcfe : Stable P .cfe) (hcat : Stable P .cat) (hpods : Stable P .pods) (hgau : Stable P .gau) (hstk : Stable P .stk) (hmsc : Stable P .msc) (hcru : Stable P .cru) (hod : Stable P .od) (hscratch : Stable P .scratch) (htiles : Stable P .tiles) (hmq : Stable P .mq) (hev : Stable P .ev) (a2 : State → State) (hf2 : ∀ t, Holds P t → Holds P (a2 t)) (a0) (a1) (hs : Holds P s) : Holds P (withHq a0 a1 a2 s) := by
  unfold withHq
  simp +contextual (maxDischargeDepth := 99) [*]

@[simp ↓] theorem freeCarrels_holds (hpods : Stable P .pods) (a0) (a1) (a2) (hs : Holds P s) : Holds P (freeCarrels a0 a1 a2 s) := by
  unfold freeCarrels
  simp +contextual (maxDischargeDepth := 99) [*]

@[simp ↓] theorem doAbortedHandleFree_holds (hcfe : Stable P .cfe) (hcat : Stable P .cat) (hpods : Stable P .pods) (hgau : Stable P .gau) (hstk : Stable P .stk) (hmsc : Stable P .msc) (hcru : Stable P .cru) (hod : Stable P .od) (hscratch : Stable P .scratch) (htiles : Stable P .tiles) (hmq : Stable P .mq) (hev : Stable P .ev) (a0) (a1) (hs : Holds P s) : Holds P (doAbortedHandleFree a0 a1 s) := by
  unfold doAbortedHandleFree
  repeat' first
    | assumption
    | with_reducible apply withHq_holds
    | with_reducible apply stageEnd_holds
    | with_reducible apply forEach_holds
    | with_reducible apply whenS_holds
    | (intro y; intros)
    | (extract_lets +onlyGivenNames x
       first
       | (have hx : Holds P x := by (simp only [x]; repeat' split) <;> simp +contextual (maxDischargeDepth := 99) [*]
          clear_value x)
       | (have hx : HoldsF P x := by (simp only [x]; repeat' split) <;> simp +contextual (maxDischargeDepth := 99) [*]
          clear_value x)
       | (have hx : HoldsG P x := by (simp only [x]; repeat' split) <;> simp +contextual (maxDischargeDepth := 99) [*]
          clear_value x)
       | (have hx : HoldsO P x := by (simp only [x]; repeat' split) <;> simp +contextual (maxDischargeDepth := 99) [*]
          clear_value x)
       | (have hx : HoldsL P x := by (simp only [x]; repeat' split) <;> simp +contextual (maxDischargeDepth := 99) [*]
          clear_value x)
       | (have hx : ∀ t, Holds P t → Holds P (x t) := by intro t ht; (simp only [x]; repeat' split) <;> simp +contextual (maxDischargeDepth := 99) [*]
          clear_value x)
       | (have hx : ∀ a t, Holds P t → Holds P (x a t) := by intro a t ht; (simp only [x]; repeat' split) <;> simp +contextual (maxDischargeDepth := 99) [*]
          clear_value x)
       | clear_value x)
    | split
  all_goals first
    | simp +contextual (maxDischargeDepth := 99) [*]
    | (have ht := ofO (P := P) ‹(_ : Option State) = some _›; simp +contextual (maxDischargeDepth := 99) [*])
    | (have ht := ofF (P := P) ‹(_ : State × _) = (_, _)›; simp +contextual (maxDischargeDepth := 99) [*])
    | (have ht := ofG (P := P) ‹(_ : _ × State) = (_, _)›; simp +contextual (maxDischargeDepth := 99) [*])
    | (have ht := ofV_ready (P := P) ‹(_ : PrepRes) = .ready _ _›; simp +contextual (maxDischargeDepth := 99) [*])
    | (have ht := ofV_wait (P := P) ‹(_ : PrepRes) = .wait _›; simp +contextual (maxDischargeDepth := 99) [*])
    | (have ht := ofV_fault (P := P) ‹(_ : PrepRes) = .fault _ _›; simp +contextual (maxDischargeDepth := 99) [*])
    | (have ht := ofU_done (P := P) ‹(_ : PutRes) = .done _›; simp +contextual (maxDischargeDepth := 99) [*])
    | (have ht := ofU_wait (P := P) ‹(_ : PutRes) = .wait _›; simp +contextual (maxDischargeDepth := 99) [*])
    | (have ht := ofU_pend (P := P) ‹(_ : PutRes) = .pend _ _›; simp +contextual (maxDischargeDepth := 99) [*])

@[simp ↓] theorem execAbortedHandleFree_holds (hcfe : Stable P .cfe) (hcat : Stable P .cat) (hpods : Stable P .pods) (hgau : Stable P .gau) (hstk : Stable P .stk) (hmsc : Stable P .msc) (hcru : Stable P .cru) (hod : Stable P .od) (hscratch : Stable P .scratch) (htiles : Stable P .tiles) (hmq : Stable P .mq) (hev : Stable P .ev) (a0) (a1) (hs : Holds P s) : HoldsR P (execAbortedHandleFree a0 a1 s) := by
  unfold execAbortedHandleFree
  refine HoldsR.next ?_
  simp +contextual (maxDischargeDepth := 99) [*]

@[simp ↓] theorem doGroupOpen_holds (hcfe : Stable P .cfe) (hmq : Stable P .mq) (a0) (hs : Holds P s) : Holds P (doGroupOpen a0 s) := by
  unfold doGroupOpen
  (repeat' split) <;> simp +contextual (maxDischargeDepth := 99) [*]

@[simp ↓] theorem execGroupOpen_holds (hcfe : Stable P .cfe) (hmq : Stable P .mq) (a0) (hs : Holds P s) : HoldsR P (execGroupOpen a0 s) := by
  unfold execGroupOpen
  refine HoldsR.next ?_
  simp +contextual (maxDischargeDepth := 99) [*]

@[simp ↓] theorem doGroupOpenComplete_holds (hcfe : Stable P .cfe) (hmq : Stable P .mq) (a0) (hs : Holds P s) : Holds P (doGroupOpenComplete a0 s) := by
  unfold doGroupOpenComplete
  (repeat' split) <;> simp +contextual (maxDischargeDepth := 99) [*]

@[simp ↓] theorem execGroupOpenComplete_holds (hcfe : Stable P .cfe) (hmq : Stable P .mq) (a0) (hs : Holds P s) : HoldsR P (execGroupOpenComplete a0 s) := by
  unfold execGroupOpenComplete
  refine HoldsR.next ?_
  simp +contextual (maxDischargeDepth := 99) [*]

@[simp ↓] theorem countExport_holds (hcfe : Stable P .cfe) (hgau : Stable P .gau) (hod : Stable P .od) (a0) (a1) (a2) (hs : Holds P s) : Holds P (countExport a0 a1 a2 s) := by
  unfold countExport
  simp +contextual (maxDischargeDepth := 99) [*]

@[simp ↓] theorem releaseGroup_holds (hpods : Stable P .pods) (a0) (a1) (hs : Holds P s) : Holds P (releaseGroup a0 a1 s) := by
  unfold releaseGroup
  simp +contextual (maxDischargeDepth := 99) [*]

@[simp ↓] theorem closeTile_holds (hcfe : Stable P .cfe) (hpods : Stable P .pods) (hgau : Stable P .gau) (hhpt : Stable P .hpt) (hod : Stable P .od) (hscratch : Stable P .scratch) (htiles : Stable P .tiles) (hpw : Stable P .pw) (hpo : Stable P .po) (hst : Stable P .st) (a0) (a1) (a2) (hs : Holds P s) : HoldsF P (closeTile a0 a1 a2 s) := by
  unfold closeTile
  repeat' first
    | (extract_lets +onlyGivenNames x
       first
       | (have hx : Holds P x := by (simp only [x]; repeat' split) <;> simp +contextual (maxDischargeDepth := 99) [*]
          clear_value x)
       | (have hx : HoldsF P x := by (simp only [x]; repeat' split) <;> simp +contextual (maxDischargeDepth := 99) [*]
          clear_value x)
       | (have hx : HoldsG P x := by (simp only [x]; repeat' split) <;> simp +contextual (maxDischargeDepth := 99) [*]
          clear_value x)
       | (have hx : HoldsO P x := by (simp only [x]; repeat' split) <;> simp +contextual (maxDischargeDepth := 99) [*]
          clear_value x)
       | (have hx : HoldsL P x := by (simp only [x]; repeat' split) <;> simp +contextual (maxDischargeDepth := 99) [*]
          clear_value x)
       | (have hx : ∀ t, Holds P t → Holds P (x t) := by intro t ht; (simp only [x]; repeat' split) <;> simp +contextual (maxDischargeDepth := 99) [*]
          clear_value x)
       | (have hx : ∀ a t, Holds P t → Holds P (x a t) := by intro a t ht; (simp only [x]; repeat' split) <;> simp +contextual (maxDischargeDepth := 99) [*]
          clear_value x)
       | clear_value x)
    | split
  all_goals first
    | simp +contextual (maxDischargeDepth := 99) [*]
    | (have ht := ofO (P := P) ‹(_ : Option State) = some _›; simp +contextual (maxDischargeDepth := 99) [*])
    | (have ht := ofF (P := P) ‹(_ : State × _) = (_, _)›; simp +contextual (maxDischargeDepth := 99) [*])
    | (have ht := ofG (P := P) ‹(_ : _ × State) = (_, _)›; simp +contextual (maxDischargeDepth := 99) [*])
    | (have ht := ofV_ready (P := P) ‹(_ : PrepRes) = .ready _ _›; simp +contextual (maxDischargeDepth := 99) [*])
    | (have ht := ofV_wait (P := P) ‹(_ : PrepRes) = .wait _›; simp +contextual (maxDischargeDepth := 99) [*])
    | (have ht := ofV_fault (P := P) ‹(_ : PrepRes) = .fault _ _›; simp +contextual (maxDischargeDepth := 99) [*])
    | (have ht := ofU_done (P := P) ‹(_ : PutRes) = .done _›; simp +contextual (maxDischargeDepth := 99) [*])
    | (have ht := ofU_wait (P := P) ‹(_ : PutRes) = .wait _›; simp +contextual (maxDischargeDepth := 99) [*])
    | (have ht := ofU_pend (P := P) ‹(_ : PutRes) = .pend _ _›; simp +contextual (maxDischargeDepth := 99) [*])

@[simp ↓] theorem closeTiles_holds (hcfe : Stable P .cfe) (hpods : Stable P .pods) (hgau : Stable P .gau) (hhpt : Stable P .hpt) (hod : Stable P .od) (hscratch : Stable P .scratch) (htiles : Stable P .tiles) (hpw : Stable P .pw) (hpo : Stable P .po) (hst : Stable P .st) (a0) (a1) (a2) (a3) (hs : Holds P s) : HoldsF P (closeTiles a0 a1 a2 a3 s) := by
  induction a2 generalizing a3 s with
  | zero => unfold closeTiles; exact hs
  | succ n ih =>
    unfold closeTiles
    extract_lets x
    have hx : HoldsF P x := by simp +contextual (maxDischargeDepth := 99) [x, *]
    clear_value x
    split
    · exact hx
    · exact ih _ hx

@[simp ↓] theorem doGroupClose_holds (hcfe : Stable P .cfe) (hcat : Stable P .cat) (hpods : Stable P .pods) (hgau : Stable P .gau) (hstk : Stable P .stk) (hhpt : Stable P .hpt) (hmsc : Stable P .msc) (hcru : Stable P .cru) (hod : Stable P .od) (hscratch : Stable P .scratch) (htiles : Stable P .tiles) (hmq : Stable P .mq) (hpw : Stable P .pw) (hpo : Stable P .po) (hst : Stable P .st) (hev : Stable P .ev) (a0) (hs : Holds P s) : Holds P (doGroupClose a0 s) := by
  unfold doGroupClose
  repeat' first
    | (extract_lets +onlyGivenNames x
       first
       | (have hx : Holds P x := by (simp only [x]; repeat' split) <;> simp +contextual (maxDischargeDepth := 99) [*]
          clear_value x)
       | (have hx : HoldsF P x := by (simp only [x]; repeat' split) <;> simp +contextual (maxDischargeDepth := 99) [*]
          clear_value x)
       | (have hx : HoldsG P x := by (simp only [x]; repeat' split) <;> simp +contextual (maxDischargeDepth := 99) [*]
          clear_value x)
       | (have hx : HoldsO P x := by (simp only [x]; repeat' split) <;> simp +contextual (maxDischargeDepth := 99) [*]
          clear_value x)
       | (have hx : HoldsL P x := by (simp only [x]; repeat' split) <;> simp +contextual (maxDischargeDepth := 99) [*]
          clear_value x)
       | (have hx : ∀ t, Holds P t → Holds P (x t) := by intro t ht; (simp only [x]; repeat' split) <;> simp +contextual (maxDischargeDepth := 99) [*]
          clear_value x)
       | (have hx : ∀ a t, Holds P t → Holds P (x a t) := by intro a t ht; (simp only [x]; repeat' split) <;> simp +contextual (maxDischargeDepth := 99) [*]
          clear_value x)
       | clear_value x)
    | split
  all_goals first
    | simp +contextual (maxDischargeDepth := 99) [*]
    | (have ht := ofO (P := P) ‹(_ : Option State) = some _›; simp +contextual (maxDischargeDepth := 99) [*])
    | (have ht := ofF (P := P) ‹(_ : State × _) = (_, _)›; simp +contextual (maxDischargeDepth := 99) [*])
    | (have ht := ofG (P := P) ‹(_ : _ × State) = (_, _)›; simp +contextual (maxDischargeDepth := 99) [*])
    | (have ht := ofV_ready (P := P) ‹(_ : PrepRes) = .ready _ _›; simp +contextual (maxDischargeDepth := 99) [*])
    | (have ht := ofV_wait (P := P) ‹(_ : PrepRes) = .wait _›; simp +contextual (maxDischargeDepth := 99) [*])
    | (have ht := ofV_fault (P := P) ‹(_ : PrepRes) = .fault _ _›; simp +contextual (maxDischargeDepth := 99) [*])
    | (have ht := ofU_done (P := P) ‹(_ : PutRes) = .done _›; simp +contextual (maxDischargeDepth := 99) [*])
    | (have ht := ofU_wait (P := P) ‹(_ : PutRes) = .wait _›; simp +contextual (maxDischargeDepth := 99) [*])
    | (have ht := ofU_pend (P := P) ‹(_ : PutRes) = .pend _ _›; simp +contextual (maxDischargeDepth := 99) [*])

@[simp ↓] theorem execGroupClose_holds (hcfe : Stable P .cfe) (hcat : Stable P .cat) (hpods : Stable P .pods) (hgau : Stable P .gau) (hstk : Stable P .stk) (hhpt : Stable P .hpt) (hmsc : Stable P .msc) (hcru : Stable P .cru) (hod : Stable P .od) (hscratch : Stable P .scratch) (htiles : Stable P .tiles) (hmq : Stable P .mq) (hpw : Stable P .pw) (hpo : Stable P .po) (hst : Stable P .st) (hev : Stable P .ev) (a0) (hs : Holds P s) : HoldsR P (execGroupClose a0 s) := by
  unfold execGroupClose
  refine HoldsR.next ?_
  simp +contextual (maxDischargeDepth := 99) [*]

@[simp ↓] theorem tileCopy_holds (hcfe : Stable P .cfe) (hcat : Stable P .cat) (hpods : Stable P .pods) (hgau : Stable P .gau) (hstk : Stable P .stk) (hhpt : Stable P .hpt) (hmsc : Stable P .msc) (hcru : Stable P .cru) (hod : Stable P .od) (hscratch : Stable P .scratch) (htiles : Stable P .tiles) (hmq : Stable P .mq) (hpw : Stable P .pw) (hpo : Stable P .po) (hst : Stable P .st) (hev : Stable P .ev) (a0) (a1) (a2) (a3) (hs : Holds P s) : Holds P (tileCopy a0 a1 a2 a3 s) := by
  unfold tileCopy
  repeat' first
    | (extract_lets +onlyGivenNames x
       first
       | (have hx : Holds P x := by (simp only [x]; repeat' split) <;> simp +contextual (maxDischargeDepth := 99) [*]
          clear_value x)
       | (have hx : HoldsF P x := by (simp only [x]; repeat' split) <;> simp +contextual (maxDischargeDepth := 99) [*]
          clear_value x)
       | (have hx : HoldsG P x := by (simp only [x]; repeat' split) <;> simp +contextual (maxDischargeDepth := 99) [*]
          clear_value x)
       | (have hx : HoldsO P x := by (simp only [x]; repeat' split) <;> simp +contextual (maxDischargeDepth := 99) [*]
          clear_value x)
       | (have hx : HoldsL P x := by (simp only [x]; repeat' split) <;> simp +contextual (maxDischargeDepth := 99) [*]
          clear_value x)
       | (have hx : ∀ t, Holds P t → Holds P (x t) := by intro t ht; (simp only [x]; repeat' split) <;> simp +contextual (maxDischargeDepth := 99) [*]
          clear_value x)
       | (have hx : ∀ a t, Holds P t → Holds P (x a t) := by intro a t ht; (simp only [x]; repeat' split) <;> simp +contextual (maxDischargeDepth := 99) [*]
          clear_value x)
       | clear_value x)
    | split
  all_goals first
    | simp +contextual (maxDischargeDepth := 99) [*]
    | (have ht := ofO (P := P) ‹(_ : Option State) = some _›; simp +contextual (maxDischargeDepth := 99) [*])
    | (have ht := ofF (P := P) ‹(_ : State × _) = (_, _)›; simp +contextual (maxDischargeDepth := 99) [*])
    | (have ht := ofG (P := P) ‹(_ : _ × State) = (_, _)›; simp +contextual (maxDischargeDepth := 99) [*])
    | (have ht := ofV_ready (P := P) ‹(_ : PrepRes) = .ready _ _›; simp +contextual (maxDischargeDepth := 99) [*])
    | (have ht := ofV_wait (P := P) ‹(_ : PrepRes) = .wait _›; simp +contextual (maxDischargeDepth := 99) [*])
    | (have ht := ofV_fault (P := P) ‹(_ : PrepRes) = .fault _ _›; simp +contextual (maxDischargeDepth := 99) [*])
    | (have ht := ofU_done (P := P) ‹(_ : PutRes) = .done _›; simp +contextual (maxDischargeDepth := 99) [*])
    | (have ht := ofU_wait (P := P) ‹(_ : PutRes) = .wait _›; simp +contextual (maxDischargeDepth := 99) [*])
    | (have ht := ofU_pend (P := P) ‹(_ : PutRes) = .pend _ _›; simp +contextual (maxDischargeDepth := 99) [*])

@[simp ↓] theorem doTileRead_holds (hcfe : Stable P .cfe) (hcat : Stable P .cat) (hpods : Stable P .pods) (hgau : Stable P .gau) (hstk : Stable P .stk) (hhpt : Stable P .hpt) (hmsc : Stable P .msc) (hcru : Stable P .cru) (hod : Stable P .od) (hscratch : Stable P .scratch) (htiles : Stable P .tiles) (hmq : Stable P .mq) (hpw : Stable P .pw) (hpo : Stable P .po) (hst : Stable P .st) (hev : Stable P .ev) (a0) (hs : Holds P s) : Holds P (doTileRead a0 s) := by
  unfold doTileRead
  (repeat' split) <;> simp +contextual (maxDischargeDepth := 99) [*]

@[simp ↓] theorem execTileRead_holds (hcfe : Stable P .cfe) (hcat : Stable P .cat) (hpods : Stable P .pods) (hgau : Stable P .gau) (hstk : Stable P .stk) (hhpt : Stable P .hpt) (hmsc : Stable P .msc) (hcru : Stable P .cru) (hod : Stable P .od) (hscratch : Stable P .scratch) (htiles : Stable P .tiles) (hmq : Stable P .mq) (hpw : Stable P .pw) (hpo : Stable P .po) (hst : Stable P .st) (hev : Stable P .ev) (a0) (hs : Holds P s) : HoldsR P (execTileRead a0 s) := by
  unfold execTileRead
  refine HoldsR.next ?_
  simp +contextual (maxDischargeDepth := 99) [*]

@[simp ↓] theorem doTileWrite_holds (hcfe : Stable P .cfe) (hcat : Stable P .cat) (hpods : Stable P .pods) (hgau : Stable P .gau) (hstk : Stable P .stk) (hhpt : Stable P .hpt) (hmsc : Stable P .msc) (hcru : Stable P .cru) (hod : Stable P .od) (hscratch : Stable P .scratch) (htiles : Stable P .tiles) (hmq : Stable P .mq) (hpw : Stable P .pw) (hpo : Stable P .po) (hst : Stable P .st) (hev : Stable P .ev) (a0) (hs : Holds P s) : Holds P (doTileWrite a0 s) := by
  unfold doTileWrite
  (repeat' split) <;> simp +contextual (maxDischargeDepth := 99) [*]

@[simp ↓] theorem execTileWrite_holds (hcfe : Stable P .cfe) (hcat : Stable P .cat) (hpods : Stable P .pods) (hgau : Stable P .gau) (hstk : Stable P .stk) (hhpt : Stable P .hpt) (hmsc : Stable P .msc) (hcru : Stable P .cru) (hod : Stable P .od) (hscratch : Stable P .scratch) (htiles : Stable P .tiles) (hmq : Stable P .mq) (hpw : Stable P .pw) (hpo : Stable P .po) (hst : Stable P .st) (hev : Stable P .ev) (a0) (hs : Holds P s) : HoldsR P (execTileWrite a0 s) := by
  unfold execTileWrite
  refine HoldsR.next ?_
  simp +contextual (maxDischargeDepth := 99) [*]

@[simp ↓] theorem gddrZero_holds (hpods : Stable P .pods) (hmss : Stable P .mss) (hhpt : Stable P .hpt) (hgddr : Stable P .gddr) (a0) (a1) (hs : Holds P s) : Holds P (gddrZero a0 a1 s) := by
  unfold gddrZero
  extract_lets down lost old one s1 s2 s3
  have h1 : Holds P s1 := by simp only [s1]; simp +contextual (maxDischargeDepth := 99) [*]
  have h2 : Holds P s2 := by simp only [s2]; simp +contextual (maxDischargeDepth := 99) [*]
  have h3 : Holds P s3 := by simp only [s3]; simp +contextual (maxDischargeDepth := 99) [*]
  exact hgddr (fun m => m.filter _) _ (fun m h => filter_wf _ h) h3

@[simp ↓] theorem zeroAw_holds (hpods : Stable P .pods) (hmss : Stable P .mss) (hhpt : Stable P .hpt) (hgddr : Stable P .gddr) (hscratch : Stable P .scratch) (htiles : Stable P .tiles) (hpo : Stable P .po) (a0) (a1) (hs : Holds P s) : Holds P (zeroAw a0 a1 s) := by
  unfold zeroAw
  split
  · simp +contextual (maxDischargeDepth := 99) [*]
  · exact scratchStore_holds hscratch _ _ hs
  · exact htiles (memClear (tileKey (awAddr a0)) a1) _ (fun m h => memClear_wf _ _ h) hs
  · simp +contextual (maxDischargeDepth := 99) [*]

@[simp ↓] theorem doZero_holds (hcfe : Stable P .cfe) (hcat : Stable P .cat) (hpods : Stable P .pods) (hgau : Stable P .gau) (hstk : Stable P .stk) (hmss : Stable P .mss) (hhpt : Stable P .hpt) (hmsc : Stable P .msc) (hcru : Stable P .cru) (hod : Stable P .od) (hgddr : Stable P .gddr) (hscratch : Stable P .scratch) (htiles : Stable P .tiles) (hmq : Stable P .mq) (hpo : Stable P .po) (hev : Stable P .ev) (a0) (hs : Holds P s) : Holds P (doZero a0 s) := by
  unfold doZero
  repeat' first
    | (extract_lets +onlyGivenNames x
       first
       | (have hx : Holds P x := by (simp only [x]; repeat' split) <;> simp +contextual (maxDischargeDepth := 99) [*]
          clear_value x)
       | clear_value x)
    | split
  all_goals simp +contextual (maxDischargeDepth := 99) [*]

@[simp ↓] theorem execZero_holds (hcfe : Stable P .cfe) (hcat : Stable P .cat) (hpods : Stable P .pods) (hgau : Stable P .gau) (hstk : Stable P .stk) (hmss : Stable P .mss) (hhpt : Stable P .hpt) (hmsc : Stable P .msc) (hcru : Stable P .cru) (hod : Stable P .od) (hgddr : Stable P .gddr) (hscratch : Stable P .scratch) (htiles : Stable P .tiles) (hmq : Stable P .mq) (hpo : Stable P .po) (hev : Stable P .ev) (a0) (hs : Holds P s) : HoldsR P (execZero a0 s) := by
  unfold execZero
  refine HoldsR.next ?_
  simp +contextual (maxDischargeDepth := 99) [*]

@[simp ↓] theorem loadImage_holds (hpods : Stable P .pods) (hmsc : Stable P .msc) (a0) (a1) (a2) (a3) (hs : Holds P s) : Holds P (loadImage a0 a1 a2 a3 s) := by
  unfold loadImage
  simp +contextual (maxDischargeDepth := 99) [*]

@[simp ↓] theorem doSproutLoad_holds (hcfe : Stable P .cfe) (hcat : Stable P .cat) (hpods : Stable P .pods) (hgau : Stable P .gau) (hstk : Stable P .stk) (hhpt : Stable P .hpt) (hmsc : Stable P .msc) (hcru : Stable P .cru) (hod : Stable P .od) (hscratch : Stable P .scratch) (htiles : Stable P .tiles) (hmq : Stable P .mq) (hev : Stable P .ev) (a0) (hs : Holds P s) : Holds P (doSproutLoad a0 s) := by
  unfold doSproutLoad
  repeat' first
    | (extract_lets +onlyGivenNames x
       first
       | (have hx : Holds P x := by (simp only [x]; repeat' split) <;> simp +contextual (maxDischargeDepth := 99) [*]
          clear_value x)
       | clear_value x)
    | split
  all_goals simp +contextual (maxDischargeDepth := 99) [*]

@[simp ↓] theorem execSproutLoad_holds (hcfe : Stable P .cfe) (hcat : Stable P .cat) (hpods : Stable P .pods) (hgau : Stable P .gau) (hstk : Stable P .stk) (hhpt : Stable P .hpt) (hmsc : Stable P .msc) (hcru : Stable P .cru) (hod : Stable P .od) (hscratch : Stable P .scratch) (htiles : Stable P .tiles) (hmq : Stable P .mq) (hev : Stable P .ev) (a0) (hs : Holds P s) : HoldsR P (execSproutLoad a0 s) := by
  unfold execSproutLoad
  refine HoldsR.next ?_
  simp +contextual (maxDischargeDepth := 99) [*]

@[simp ↓] theorem doTileWindowWrite_holds (hpods : Stable P .pods) (hod : Stable P .od) (hscratch : Stable P .scratch) (htiles : Stable P .tiles) (hpw : Stable P .pw) (hpo : Stable P .po) (hst : Stable P .st) (a0) (a1) (a2) (hs : Holds P s) : Holds P (doTileWindowWrite a0 a1 a2 s) := by
  unfold doTileWindowWrite
  (repeat' split) <;> simp +contextual (maxDischargeDepth := 99) [*]

@[simp ↓] theorem execTileWindowWrite_holds (hpods : Stable P .pods) (hod : Stable P .od) (hscratch : Stable P .scratch) (htiles : Stable P .tiles) (hpw : Stable P .pw) (hpo : Stable P .po) (hst : Stable P .st) (a0) (a1) (a2) (hs : Holds P s) : HoldsR P (execTileWindowWrite a0 a1 a2 s) := by
  unfold execTileWindowWrite
  refine HoldsR.next ?_
  simp +contextual (maxDischargeDepth := 99) [*]

end Sys2Proof.Machine
end

