-- ==== Sys2Proof/Laws/KeepBags.lean ====
section
/-! SUPPORT. What the functions of Machine/Bags.lean keep: one lemma each, for every predicate on states that
is stable under changes of the parts the function can reach. -/

namespace Sys2Proof.Machine

variable {P : State → Prop} {s : State}

@[simp ↓] theorem heatHit_holds (hpods : Stable P .pods) (a0) (a1) (a2) (hs : Holds P s) : Holds P (heatHit a0 a1 a2 s) := by
  unfold heatHit
  simp +contextual (maxDischargeDepth := 99) [*]

@[simp ↓] theorem countSubst_holds (hcfe : Stable P .cfe) (hgau : Stable P .gau) (hod : Stable P .od) (hev : Stable P .ev) (a0) (a1) (a2) (a3) (hs : Holds P s) : Holds P (countSubst a0 a1 a2 a3 s) := by
  unfold countSubst
  simp +contextual (maxDischargeDepth := 99) [*]

@[simp ↓] theorem countServed_holds (hcat : Stable P .cat) (a1) (a2) (a3) (hs : Holds P s) : Holds P (countServed s a1 a2 a3) := by
  unfold countServed
  simp +contextual (maxDischargeDepth := 99) [*]

@[simp ↓] theorem countBag_holds (hcfe : Stable P .cfe) (hgau : Stable P .gau) (hod : Stable P .od) (a0) (a1) (a2) (hs : Holds P s) : Holds P (countBag a0 a1 a2 s) := by
  unfold countBag
  simp +contextual (maxDischargeDepth := 99) [*]

end Sys2Proof.Machine
end

