-- ==== Sys2Proof/Laws/KeepFabric.lean ====
section
/-! SUPPORT. What the functions of Machine/Fabric.lean keep: one lemma each, for every predicate on states that
is stable under changes of the parts the function can reach. -/

namespace Sys2Proof.Machine

variable {P : State → Prop} {s : State}

@[simp ↓] theorem setPortState_holds (hod : Stable P .od) (a0) (a1) (hs : Holds P s) : Holds P (setPortState a0 a1 s) := by
  unfold setPortState
  simp +contextual (maxDischargeDepth := 99) [*]

@[simp ↓] theorem requalify_holds (hcru : Stable P .cru) (hs : Holds P s) : Holds P (requalify s) := by
  unfold requalify
  simp +contextual (maxDischargeDepth := 99) [*]

@[simp ↓] theorem renominate_holds (hsfp : Stable P .sfp) (hcru : Stable P .cru) (hs : Holds P s) : Holds P (renominate s) := by
  unfold renominate
  simp +contextual (maxDischargeDepth := 99) [*]

@[simp ↓] theorem forgetRef_holds (hcru : Stable P .cru) (a0) (hs : Holds P s) : Holds P (forgetRef a0 s) := by
  unfold forgetRef
  simp +contextual (maxDischargeDepth := 99) [*]

@[simp ↓] theorem doPortTrain_holds (hsfp : Stable P .sfp) (hcru : Stable P .cru) (hod : Stable P .od) (hev : Stable P .ev) (a0) (a1) (hs : Holds P s) : Holds P (doPortTrain a0 a1 s) := by
  unfold doPortTrain
  simp +contextual (maxDischargeDepth := 99) [*]

@[simp ↓] theorem execPortTrain_holds (hsfp : Stable P .sfp) (hcru : Stable P .cru) (hod : Stable P .od) (hev : Stable P .ev) (a0) (a1) (hs : Holds P s) : HoldsR P (execPortTrain a0 a1 s) := by
  unfold execPortTrain
  refine HoldsR.next ?_
  simp +contextual (maxDischargeDepth := 99) [*]

@[simp ↓] theorem portDown_holds (hsfp : Stable P .sfp) (hcru : Stable P .cru) (hod : Stable P .od) (hev : Stable P .ev) (a0) (a1) (hs : Holds P s) : Holds P (portDown a0 a1 s) := by
  unfold portDown
  simp +contextual (maxDischargeDepth := 99) [*]

@[simp ↓] theorem execSfpPortDown_holds (hsfp : Stable P .sfp) (hcru : Stable P .cru) (hod : Stable P .od) (hev : Stable P .ev) (a0) (a1) (hs : Holds P s) : HoldsR P (execSfpPortDown a0 a1 s) := by
  unfold execSfpPortDown
  refine HoldsR.next ?_
  simp +contextual (maxDischargeDepth := 99) [*]

@[simp ↓] theorem doLink_holds (hsfp : Stable P .sfp) (hcru : Stable P .cru) (hod : Stable P .od) (hev : Stable P .ev) (a0) (a1) (a2) (a3) (a4) (hs : Holds P s) : Holds P (doLink a0 a1 a2 a3 a4 s) := by
  unfold doLink
  (repeat' split) <;> simp +contextual (maxDischargeDepth := 99) [*]

@[simp ↓] theorem execLink_holds (hsfp : Stable P .sfp) (hcru : Stable P .cru) (hod : Stable P .od) (hev : Stable P .ev) (a0) (a1) (a2) (a3) (a4) (hs : Holds P s) : HoldsR P (execLink a0 a1 a2 a3 a4 s) := by
  unfold execLink
  refine HoldsR.next ?_
  simp +contextual (maxDischargeDepth := 99) [*]

@[simp ↓] theorem doLinkCellSend_holds (hsfp : Stable P .sfp) (a0) (hs : Holds P s) : Holds P (doLinkCellSend a0 s) := by
  unfold doLinkCellSend
  simp +contextual (maxDischargeDepth := 99) [*]

@[simp ↓] theorem execLinkCellSend_holds (hsfp : Stable P .sfp) (a0) (hs : Holds P s) : HoldsR P (execLinkCellSend a0 s) := by
  unfold execLinkCellSend
  refine HoldsR.next ?_
  simp +contextual (maxDischargeDepth := 99) [*]

@[simp ↓] theorem doUncorrectableCodeword_holds (hsfp : Stable P .sfp) (a0) (a1) (hs : Holds P s) : Holds P (doUncorrectableCodeword a0 a1 s) := by
  unfold doUncorrectableCodeword
  simp +contextual (maxDischargeDepth := 99) [*]

@[simp ↓] theorem execUncorrectableCodeword_holds (hsfp : Stable P .sfp) (a0) (a1) (hs : Holds P s) : HoldsR P (execUncorrectableCodeword a0 a1 s) := by
  unfold execUncorrectableCodeword
  refine HoldsR.next ?_
  simp +contextual (maxDischargeDepth := 99) [*]

@[simp ↓] theorem execBadCell_holds (hod : Stable P .od) (a0) (a1) (a2) (hs : Holds P s) : HoldsR P (execBadCell a0 a1 a2 s) := by
  unfold execBadCell
  refine HoldsR.next ?_
  simp +contextual (maxDischargeDepth := 99) [*]

@[simp ↓] theorem doControlResend_holds (hsfp : Stable P .sfp) (hev : Stable P .ev) (a0) (a1) (hs : Holds P s) : Holds P (doControlResend a0 a1 s) := by
  unfold doControlResend
  (repeat' split) <;> simp +contextual (maxDischargeDepth := 99) [*]

@[simp ↓] theorem execControlResend_holds (hsfp : Stable P .sfp) (hev : Stable P .ev) (a0) (a1) (hs : Holds P s) : HoldsR P (execControlResend a0 a1 s) := by
  unfold execControlResend
  refine HoldsR.next ?_
  simp +contextual (maxDischargeDepth := 99) [*]

@[simp ↓] theorem doControlAck_holds (hcfe : Stable P .cfe) (hcat : Stable P .cat) (hpods : Stable P .pods) (hsfp : Stable P .sfp) (hmq : Stable P .mq) (hev : Stable P .ev) (a0) (a1) (a2) (hs : Holds P s) : Holds P (doControlAck a0 a1 a2 s) := by
  unfold doControlAck
  (repeat' split) <;> simp +contextual (maxDischargeDepth := 99) [*]

@[simp ↓] theorem execControlAck_holds (hcfe : Stable P .cfe) (hcat : Stable P .cat) (hpods : Stable P .pods) (hsfp : Stable P .sfp) (hmq : Stable P .mq) (hev : Stable P .ev) (a0) (a1) (a2) (hs : Holds P s) : HoldsR P (execControlAck a0 a1 a2 s) := by
  unfold execControlAck
  refine HoldsR.next ?_
  simp +contextual (maxDischargeDepth := 99) [*]

@[simp ↓] theorem doDescUpdate_holds (hcat : Stable P .cat) (hsfp : Stable P .sfp) (hod : Stable P .od) (hst : Stable P .st) (hev : Stable P .ev) (a0) (a1) (a2) (a3) (a4) (hs : Holds P s) : Holds P (doDescUpdate a0 a1 a2 a3 a4 s) := by
  unfold doDescUpdate
  simp +contextual (maxDischargeDepth := 99) [*]

@[simp ↓] theorem execDescUpdate_holds (hcat : Stable P .cat) (hsfp : Stable P .sfp) (hod : Stable P .od) (hst : Stable P .st) (hev : Stable P .ev) (a0) (a1) (a2) (a3) (a4) (hs : Holds P s) : HoldsR P (execDescUpdate a0 a1 a2 a3 a4 s) := by
  unfold execDescUpdate
  refine HoldsR.next ?_
  simp +contextual (maxDischargeDepth := 99) [*]

@[simp ↓] theorem doEpochAdopted_holds (hcat : Stable P .cat) (hsfp : Stable P .sfp) (a0) (a1) (hs : Holds P s) : Holds P (doEpochAdopted a0 a1 s) := by
  unfold doEpochAdopted
  simp +contextual (maxDischargeDepth := 99) [*]

@[simp ↓] theorem execEpochAdopted_holds (hcat : Stable P .cat) (hsfp : Stable P .sfp) (a0) (a1) (hs : Holds P s) : HoldsR P (execEpochAdopted a0 a1 s) := by
  unfold execEpochAdopted
  refine HoldsR.next ?_
  simp +contextual (maxDischargeDepth := 99) [*]

@[simp ↓] theorem doFloors_holds (hcat : Stable P .cat) (hsfp : Stable P .sfp) (hod : Stable P .od) (hev : Stable P .ev) (a0) (a1) (a2) (a3) (a4) (hs : Holds P s) : Holds P (doFloors a0 a1 a2 a3 a4 s) := by
  unfold doFloors
  simp +contextual (maxDischargeDepth := 99) [*]

@[simp ↓] theorem execFloors_holds (hcat : Stable P .cat) (hsfp : Stable P .sfp) (hod : Stable P .od) (hev : Stable P .ev) (a0) (a1) (a2) (a3) (a4) (hs : Holds P s) : HoldsR P (execFloors a0 a1 a2 a3 a4 s) := by
  unfold execFloors
  refine HoldsR.next ?_
  simp +contextual (maxDischargeDepth := 99) [*]

@[simp ↓] theorem doFloorReport_holds (hcat : Stable P .cat) (hsfp : Stable P .sfp) (a0) (a1) (a2) (a3) (hs : Holds P s) : Holds P (doFloorReport a0 a1 a2 a3 s) := by
  unfold doFloorReport
  simp +contextual (maxDischargeDepth := 99) [*]

@[simp ↓] theorem execFloorReport_holds (hcat : Stable P .cat) (hsfp : Stable P .sfp) (a0) (a1) (a2) (a3) (hs : Holds P s) : HoldsR P (execFloorReport a0 a1 a2 a3 s) := by
  unfold execFloorReport
  refine HoldsR.next ?_
  simp +contextual (maxDischargeDepth := 99) [*]

@[simp ↓] theorem doSfpMemberSilent_holds (hsfp : Stable P .sfp) (hev : Stable P .ev) (a0) (hs : Holds P s) : Holds P (doSfpMemberSilent a0 s) := by
  unfold doSfpMemberSilent
  simp +contextual (maxDischargeDepth := 99) [*]

@[simp ↓] theorem execSfpMemberSilent_holds (hsfp : Stable P .sfp) (hev : Stable P .ev) (a0) (hs : Holds P s) : HoldsR P (execSfpMemberSilent a0 s) := by
  unfold execSfpMemberSilent
  refine HoldsR.next ?_
  simp +contextual (maxDischargeDepth := 99) [*]

@[simp ↓] theorem doMapMirror_holds (hcat : Stable P .cat) (hsfp : Stable P .sfp) (hod : Stable P .od) (hst : Stable P .st) (hev : Stable P .ev) (a0) (a1) (a2) (a3) (a4) (hs : Holds P s) : Holds P (doMapMirror a0 a1 a2 a3 a4 s) := by
  unfold doMapMirror
  simp +contextual (maxDischargeDepth := 99) [*]

@[simp ↓] theorem execMapMirror_holds (hcat : Stable P .cat) (hsfp : Stable P .sfp) (hod : Stable P .od) (hst : Stable P .st) (hev : Stable P .ev) (a0) (a1) (a2) (a3) (a4) (hs : Holds P s) : HoldsR P (execMapMirror a0 a1 a2 a3 a4 s) := by
  unfold execMapMirror
  refine HoldsR.next ?_
  simp +contextual (maxDischargeDepth := 99) [*]

@[simp ↓] theorem doRegistrarTakeover_holds (hsfp : Stable P .sfp) (hod : Stable P .od) (hev : Stable P .ev) (hs : Holds P s) : Holds P (doRegistrarTakeover s) := by
  unfold doRegistrarTakeover
  simp +contextual (maxDischargeDepth := 99) [*]

@[simp ↓] theorem execRegistrarTakeover_holds (hsfp : Stable P .sfp) (hod : Stable P .od) (hev : Stable P .ev) (hs : Holds P s) : HoldsR P (execRegistrarTakeover s) := by
  unfold execRegistrarTakeover
  refine HoldsR.next ?_
  simp +contextual (maxDischargeDepth := 99) [*]

@[simp ↓] theorem showKeys_holds (hod : Stable P .od) (hs : Holds P s) : Holds P (showKeys s) := by
  unfold showKeys
  simp +contextual (maxDischargeDepth := 99) [*]

@[simp ↓] theorem doKeySwitch_holds (hcat : Stable P .cat) (hsfp : Stable P .sfp) (hod : Stable P .od) (hev : Stable P .ev) (a0) (a1) (a2) (a3) (hs : Holds P s) : Holds P (doKeySwitch a0 a1 a2 a3 s) := by
  unfold doKeySwitch
  simp +contextual (maxDischargeDepth := 99) [*]

@[simp ↓] theorem execKeySwitch_holds (hcat : Stable P .cat) (hsfp : Stable P .sfp) (hod : Stable P .od) (hev : Stable P .ev) (a0) (a1) (a2) (a3) (hs : Holds P s) : HoldsR P (execKeySwitch a0 a1 a2 a3 s) := by
  unfold execKeySwitch
  refine HoldsR.next ?_
  simp +contextual (maxDischargeDepth := 99) [*]

@[simp ↓] theorem doKeySwitchFolio_holds (hsfp : Stable P .sfp) (hod : Stable P .od) (hs : Holds P s) : Holds P (doKeySwitchFolio s) := by
  unfold doKeySwitchFolio
  (repeat' split) <;> simp +contextual (maxDischargeDepth := 99) [*]

@[simp ↓] theorem execKeySwitchFolio_holds (hsfp : Stable P .sfp) (hod : Stable P .od) (hs : Holds P s) : HoldsR P (execKeySwitchFolio s) := by
  unfold execKeySwitchFolio
  refine HoldsR.next ?_
  simp +contextual (maxDischargeDepth := 99) [*]

@[simp ↓] theorem eraseKey_holds (hsfp : Stable P .sfp) (hod : Stable P .od) (a0) (hs : Holds P s) : Holds P (eraseKey a0 s) := by
  unfold eraseKey
  simp +contextual (maxDischargeDepth := 99) [*]

@[simp ↓] theorem doOldKeyErase_holds (hsfp : Stable P .sfp) (hod : Stable P .od) (hs : Holds P s) : Holds P (doOldKeyErase s) := by
  unfold doOldKeyErase
  (repeat' split) <;> simp +contextual (maxDischargeDepth := 99) [*]

@[simp ↓] theorem execOldKeyErase_holds (hsfp : Stable P .sfp) (hod : Stable P .od) (hs : Holds P s) : HoldsR P (execOldKeyErase s) := by
  unfold execOldKeyErase
  refine HoldsR.next ?_
  simp +contextual (maxDischargeDepth := 99) [*]

@[simp ↓] theorem loseReplicas_holds (hcat : Stable P .cat) (hod : Stable P .od) (a0 : Nat → Nat → Nat → Bool) (hs : Holds P s) : Holds P (loseReplicas a0 s) := by
  unfold loseReplicas
  simp +contextual (maxDischargeDepth := 99) [*]

@[simp ↓] theorem doInvalRx_holds (hcfe : Stable P .cfe) (hcat : Stable P .cat) (hpods : Stable P .pods) (hsfp : Stable P .sfp) (hod : Stable P .od) (hmq : Stable P .mq) (hev : Stable P .ev) (a0) (a1) (a2) (hs : Holds P s) : Holds P (doInvalRx a0 a1 a2 s) := by
  unfold doInvalRx
  simp +contextual (maxDischargeDepth := 99) [*]

@[simp ↓] theorem execInvalRx_holds (hcfe : Stable P .cfe) (hcat : Stable P .cat) (hpods : Stable P .pods) (hsfp : Stable P .sfp) (hod : Stable P .od) (hmq : Stable P .mq) (hev : Stable P .ev) (a0) (a1) (a2) (hs : Holds P s) : HoldsR P (execInvalRx a0 a1 a2 s) := by
  unfold execInvalRx
  refine HoldsR.next ?_
  simp +contextual (maxDischargeDepth := 99) [*]

@[simp ↓] theorem execInvalAckRx_holds (hcat : Stable P .cat) (hsfp : Stable P .sfp) (hod : Stable P .od) (hst : Stable P .st) (a0) (a1) (a2) (hs : Holds P s) : HoldsR P (execInvalAckRx a0 a1 a2 s) := by
  unfold execInvalAckRx
  refine HoldsR.next ?_
  simp +contextual (maxDischargeDepth := 99) [*]

@[simp ↓] theorem doCatInvalTimeout_holds (hcat : Stable P .cat) (hod : Stable P .od) (hst : Stable P .st) (hev : Stable P .ev) (a0) (a1) (a2) (hs : Holds P s) : Holds P (doCatInvalTimeout a0 a1 a2 s) := by
  unfold doCatInvalTimeout
  simp +contextual (maxDischargeDepth := 99) [*]

@[simp ↓] theorem execCatInvalTimeout_holds (hcat : Stable P .cat) (hod : Stable P .od) (hst : Stable P .st) (hev : Stable P .ev) (a0) (a1) (a2) (hs : Holds P s) : HoldsR P (execCatInvalTimeout a0 a1 a2 s) := by
  unfold execCatInvalTimeout
  refine HoldsR.next ?_
  simp +contextual (maxDischargeDepth := 99) [*]

@[simp ↓] theorem doHolderReplicaExpiry_holds (hcat : Stable P .cat) (hod : Stable P .od) (a0) (hs : Holds P s) : Holds P (doHolderReplicaExpiry a0 s) := by
  unfold doHolderReplicaExpiry
  simp +contextual (maxDischargeDepth := 99) [*]

@[simp ↓] theorem execHolderReplicaExpiry_holds (hcat : Stable P .cat) (hod : Stable P .od) (a0) (hs : Holds P s) : HoldsR P (execHolderReplicaExpiry a0 s) := by
  unfold execHolderReplicaExpiry
  refine HoldsR.next ?_
  simp +contextual (maxDischargeDepth := 99) [*]

@[simp ↓] theorem dropCopied_holds (hcat : Stable P .cat) (hod : Stable P .od) (hst : Stable P .st) (a0) (hs : Holds P s) : Holds P (dropCopied a0 s) := by
  unfold dropCopied
  simp +contextual (maxDischargeDepth := 99) [*]

@[simp ↓] theorem landChunk_holds (hcat : Stable P .cat) (hpods : Stable P .pods) (hod : Stable P .od) (hpw : Stable P .pw) (hst : Stable P .st) (a0) (a1) (hs : Holds P s) : HoldsO P (landChunk a0 a1 s) := by
  unfold landChunk
  simp +contextual (maxDischargeDepth := 99) [*]

@[simp ↓] theorem chunkWaits_holds (hcat : Stable P .cat) (hod : Stable P .od) (hev : Stable P .ev) (a0) (a1) (hs : Holds P s) : Holds P (chunkWaits a0 a1 s) := by
  unfold chunkWaits
  (repeat' split) <;> simp +contextual (maxDischargeDepth := 99) [*]

@[simp ↓] theorem copyRetry_holds (hcat : Stable P .cat) (hpods : Stable P .pods) (hsfp : Stable P .sfp) (hod : Stable P .od) (hpw : Stable P .pw) (hst : Stable P .st) (hev : Stable P .ev) (hs : Holds P s) : Holds P (copyRetry s) := by
  unfold copyRetry
  extract_lets r
  have hr : HoldsG P r := by
    refine foldlG_holds _ (fun y c hy => ?_) _ _ (holdsG_mk hs)
    split
    · exact hy
    · split
      · exact hy
      · have ht := ofO (P := P) ‹_ = some _› (by simp +contextual (maxDischargeDepth := 99) [*]); simp +contextual (maxDischargeDepth := 99) [*]
  simp +contextual (maxDischargeDepth := 99) [*]

@[simp ↓] theorem setTwin_holds (hod : Stable P .od) (hev : Stable P .ev) (a0) (hs : Holds P s) : Holds P (setTwin a0 s) := by
  unfold setTwin
  simp +contextual (maxDischargeDepth := 99) [*]

@[simp ↓] theorem execTwinHeartbeat_holds (hcat : Stable P .cat) (hsfp : Stable P .sfp) (a0) (hs : Holds P s) : HoldsR P (execTwinHeartbeat a0 s) := by
  unfold execTwinHeartbeat
  refine HoldsR.next ?_
  simp +contextual (maxDischargeDepth := 99) [*]

@[simp ↓] theorem sendLedgerReady_holds (hsfp : Stable P .sfp) (hev : Stable P .ev) (a0) (a1) (hs : Holds P s) : Holds P (sendLedgerReady a0 a1 s) := by
  unfold sendLedgerReady
  simp +contextual (maxDischargeDepth := 99) [*]

@[simp ↓] theorem doTwinTimeout_holds (hupu : Stable P .upu) (hsfp : Stable P .sfp) (hod : Stable P .od) (hev : Stable P .ev) (a0) (hs : Holds P s) : Holds P (doTwinTimeout a0 s) := by
  unfold doTwinTimeout
  simp +contextual (maxDischargeDepth := 99) [*]

@[simp ↓] theorem execTwinTimeout_holds (hupu : Stable P .upu) (hsfp : Stable P .sfp) (hod : Stable P .od) (hev : Stable P .ev) (a0) (hs : Holds P s) : HoldsR P (execTwinTimeout a0 s) := by
  unfold execTwinTimeout
  refine HoldsR.next ?_
  simp +contextual (maxDischargeDepth := 99) [*]

@[simp ↓] theorem execTwinFailover_holds (hsfp : Stable P .sfp) (a0) (a1) (hs : Holds P s) : HoldsR P (execTwinFailover a0 a1 s) := by
  unfold execTwinFailover
  refine HoldsR.next ?_
  simp +contextual (maxDischargeDepth := 99) [*]

@[simp ↓] theorem execTwinRestoredNotice_holds (hsfp : Stable P .sfp) (a0) (hs : Holds P s) : HoldsR P (execTwinRestoredNotice a0 s) := by
  unfold execTwinRestoredNotice
  refine HoldsR.next ?_
  simp +contextual (maxDischargeDepth := 99) [*]

@[simp ↓] theorem copyTwinRow_holds (hsfp : Stable P .sfp) (hev : Stable P .ev) (a0) (a1) (hs : Holds P s) : Holds P (copyTwinRow a0 a1 s) := by
  unfold copyTwinRow
  (repeat' split) <;> simp +contextual (maxDischargeDepth := 99) [*]

@[simp ↓] theorem copyTwin_holds (hsfp : Stable P .sfp) (hev : Stable P .ev) (a0) (hs : Holds P s) : Holds P (copyTwin a0 s) := by
  unfold copyTwin
  simp +contextual (maxDischargeDepth := 99) [*]

@[simp ↓] theorem streamShards_holds (hsfp : Stable P .sfp) (hev : Stable P .ev) (hs : Holds P s) : Holds P (streamShards s) := by
  unfold streamShards
  simp +contextual (maxDischargeDepth := 99) [*]

end Sys2Proof.Machine
end

