-- ==== Sys2Proof/Laws/KeepCfe.lean ====
section
/-! SUPPORT. What the functions of Machine/Cfe.lean keep: one lemma each, for every predicate on states that
is stable under changes of the parts the function can reach. -/

namespace Sys2Proof.Machine

variable {P : State → Prop} {s : State}

@[simp ↓] theorem ringBell_holds (hcfe : Stable P .cfe) (hcat : Stable P .cat) (hpods : Stable P .pods) (hgau : Stable P .gau) (hstk : Stable P .stk) (hhpt : Stable P .hpt) (hmsc : Stable P .msc) (hcru : Stable P .cru) (hod : Stable P .od) (hscratch : Stable P .scratch) (htiles : Stable P .tiles) (hmq : Stable P .mq) (hev : Stable P .ev) (a0) (a1) (hs : Holds P s) : Holds P (ringBell a0 a1 s) := by
  unfold ringBell
  simp +contextual (maxDischargeDepth := 99) [*]

@[simp ↓] theorem doCfeQTailDoorbell_holds (hcfe : Stable P .cfe) (hcat : Stable P .cat) (hpods : Stable P .pods) (hgau : Stable P .gau) (hstk : Stable P .stk) (hhpt : Stable P .hpt) (hmsc : Stable P .msc) (hcru : Stable P .cru) (hod : Stable P .od) (hscratch : Stable P .scratch) (htiles : Stable P .tiles) (hmq : Stable P .mq) (hev : Stable P .ev) (a0) (a1) (hs : Holds P s) : Holds P (doCfeQTailDoorbell a0 a1 s) := by
  unfold doCfeQTailDoorbell
  simp +contextual (maxDischargeDepth := 99) [*]

@[simp ↓] theorem execCfeQTailDoorbell_holds (hcfe : Stable P .cfe) (hcat : Stable P .cat) (hpods : Stable P .pods) (hgau : Stable P .gau) (hstk : Stable P .stk) (hhpt : Stable P .hpt) (hmsc : Stable P .msc) (hcru : Stable P .cru) (hod : Stable P .od) (hscratch : Stable P .scratch) (htiles : Stable P .tiles) (hmq : Stable P .mq) (hev : Stable P .ev) (a0) (a1) (hs : Holds P s) : HoldsR P (execCfeQTailDoorbell a0 a1 s) := by
  unfold execCfeQTailDoorbell
  refine HoldsR.next ?_
  simp +contextual (maxDischargeDepth := 99) [*]

@[simp ↓] theorem lzBells_holds (hcfe : Stable P .cfe) (hcat : Stable P .cat) (hpods : Stable P .pods) (hgau : Stable P .gau) (hstk : Stable P .stk) (hhpt : Stable P .hpt) (hmsc : Stable P .msc) (hcru : Stable P .cru) (hod : Stable P .od) (hscratch : Stable P .scratch) (htiles : Stable P .tiles) (hmq : Stable P .mq) (hev : Stable P .ev) (a0) (a1) (hs : Holds P s) : Holds P (lzBells a0 a1 s) := by
  unfold lzBells
  simp +contextual (maxDischargeDepth := 99) [*]

@[simp ↓] theorem doQueueEnable_holds (hmq : Stable P .mq) (a0) (a1) (hs : Holds P s) : Holds P (doQueueEnable a0 a1 s) := by
  unfold doQueueEnable
  simp +contextual (maxDischargeDepth := 99) [*]

@[simp ↓] theorem execQueueEnable_holds (hmq : Stable P .mq) (a0) (a1) (hs : Holds P s) : HoldsR P (execQueueEnable a0 a1 s) := by
  unfold execQueueEnable
  refine HoldsR.next ?_
  simp +contextual (maxDischargeDepth := 99) [*]

@[simp ↓] theorem doQueueDisable_holds (hcfe : Stable P .cfe) (hcat : Stable P .cat) (hpods : Stable P .pods) (hmq : Stable P .mq) (hev : Stable P .ev) (a0) (a1) (hs : Holds P s) : Holds P (doQueueDisable a0 a1 s) := by
  unfold doQueueDisable
  simp +contextual (maxDischargeDepth := 99) [*]

@[simp ↓] theorem execQueueDisable_holds (hcfe : Stable P .cfe) (hcat : Stable P .cat) (hpods : Stable P .pods) (hmq : Stable P .mq) (hev : Stable P .ev) (a0) (a1) (hs : Holds P s) : HoldsR P (execQueueDisable a0 a1 s) := by
  unfold execQueueDisable
  refine HoldsR.next ?_
  simp +contextual (maxDischargeDepth := 99) [*]

@[simp ↓] theorem doEvqEnable_holds (hcfe : Stable P .cfe) (hhpt : Stable P .hpt) (a0) (a1) (hs : Holds P s) : Holds P (doEvqEnable a0 a1 s) := by
  unfold doEvqEnable
  simp +contextual (maxDischargeDepth := 99) [*]

@[simp ↓] theorem execEvqEnable_holds (hcfe : Stable P .cfe) (hhpt : Stable P .hpt) (a0) (a1) (hs : Holds P s) : HoldsR P (execEvqEnable a0 a1 s) := by
  unfold execEvqEnable
  refine HoldsR.next ?_
  simp +contextual (maxDischargeDepth := 99) [*]

@[simp ↓] theorem doCfeEvqPop_holds (hcfe : Stable P .cfe) (hpods : Stable P .pods) (hhpt : Stable P .hpt) (hmsc : Stable P .msc) (hod : Stable P .od) (hout : Stable P .out) (hscratch : Stable P .scratch) (htiles : Stable P .tiles) (hpw : Stable P .pw) (hpo : Stable P .po) (hst : Stable P .st) (a0) (hs : Holds P s) : Holds P (doCfeEvqPop a0 s) := by
  unfold doCfeEvqPop
  simp +contextual (maxDischargeDepth := 99) [*]

@[simp ↓] theorem execCfeEvqPop_holds (hcfe : Stable P .cfe) (hpods : Stable P .pods) (hhpt : Stable P .hpt) (hmsc : Stable P .msc) (hod : Stable P .od) (hout : Stable P .out) (hscratch : Stable P .scratch) (htiles : Stable P .tiles) (hpw : Stable P .pw) (hpo : Stable P .po) (hst : Stable P .st) (a0) (hs : Holds P s) : HoldsR P (execCfeEvqPop a0 s) := by
  unfold execCfeEvqPop
  refine HoldsR.next ?_
  simp +contextual (maxDischargeDepth := 99) [*]

@[simp ↓] theorem execCfeEvqGap_holds (hcfe : Stable P .cfe) (hpods : Stable P .pods) (hhpt : Stable P .hpt) (hmsc : Stable P .msc) (hod : Stable P .od) (hout : Stable P .out) (hscratch : Stable P .scratch) (htiles : Stable P .tiles) (hpw : Stable P .pw) (hpo : Stable P .po) (hst : Stable P .st) (a0) (hs : Holds P s) : HoldsR P (execCfeEvqGap a0 s) := by
  unfold execCfeEvqGap
  refine HoldsR.next ?_
  simp +contextual (maxDischargeDepth := 99) [*]

@[simp ↓] theorem doTelemetryEnable_holds (hcfe : Stable P .cfe) (hhpt : Stable P .hpt) (a0) (a1) (hs : Holds P s) : Holds P (doTelemetryEnable a0 a1 s) := by
  unfold doTelemetryEnable
  simp +contextual (maxDischargeDepth := 99) [*]

@[simp ↓] theorem execTelemetryEnable_holds (hcfe : Stable P .cfe) (hhpt : Stable P .hpt) (a0) (a1) (hs : Holds P s) : HoldsR P (execTelemetryEnable a0 a1 s) := by
  unfold execTelemetryEnable
  refine HoldsR.next ?_
  simp +contextual (maxDischargeDepth := 99) [*]

@[simp ↓] theorem fetchFrom_holds (hcfe : Stable P .cfe) (hcat : Stable P .cat) (hpods : Stable P .pods) (hgau : Stable P .gau) (hstk : Stable P .stk) (hhpt : Stable P .hpt) (hmsc : Stable P .msc) (hcru : Stable P .cru) (hod : Stable P .od) (hscratch : Stable P .scratch) (htiles : Stable P .tiles) (hmq : Stable P .mq) (hev : Stable P .ev) (a0) (hs : Holds P s) : Holds P (fetchFrom a0 s) := by
  unfold fetchFrom
  simp +contextual (maxDischargeDepth := 99) [*]

@[simp ↓] theorem doDescriptorFetch_holds (hcfe : Stable P .cfe) (hcat : Stable P .cat) (hpods : Stable P .pods) (hgau : Stable P .gau) (hstk : Stable P .stk) (hhpt : Stable P .hpt) (hmsc : Stable P .msc) (hcru : Stable P .cru) (hod : Stable P .od) (hscratch : Stable P .scratch) (htiles : Stable P .tiles) (hmq : Stable P .mq) (hev : Stable P .ev) (hs : Holds P s) : Holds P (doDescriptorFetch s) := by
  unfold doDescriptorFetch
  (repeat' split) <;> simp +contextual (maxDischargeDepth := 99) [*]

@[simp ↓] theorem execDescriptorFetch_holds (hcfe : Stable P .cfe) (hcat : Stable P .cat) (hpods : Stable P .pods) (hgau : Stable P .gau) (hstk : Stable P .stk) (hhpt : Stable P .hpt) (hmsc : Stable P .msc) (hcru : Stable P .cru) (hod : Stable P .od) (hscratch : Stable P .scratch) (htiles : Stable P .tiles) (hmq : Stable P .mq) (hev : Stable P .ev) (hs : Holds P s) : HoldsR P (execDescriptorFetch s) := by
  unfold execDescriptorFetch
  refine HoldsR.next ?_
  simp +contextual (maxDischargeDepth := 99) [*]

@[simp ↓] theorem recordGone_holds (hcfe : Stable P .cfe) (hcat : Stable P .cat) (hpods : Stable P .pods) (hmsc : Stable P .msc) (hmq : Stable P .mq) (hev : Stable P .ev) (a0) (hs : Holds P s) : Holds P (recordGone a0 s) := by
  unfold recordGone
  (repeat' split) <;> simp +contextual (maxDischargeDepth := 99) [*]

@[simp ↓] theorem recordVisible_holds (hcfe : Stable P .cfe) (hcat : Stable P .cat) (hpods : Stable P .pods) (hgau : Stable P .gau) (hstk : Stable P .stk) (hhpt : Stable P .hpt) (hmsc : Stable P .msc) (hcru : Stable P .cru) (hod : Stable P .od) (hscratch : Stable P .scratch) (htiles : Stable P .tiles) (hmq : Stable P .mq) (hev : Stable P .ev) (a0) (hs : Holds P s) : Holds P (recordVisible a0 s) := by
  unfold recordVisible
  (repeat' split) <;> simp +contextual (maxDischargeDepth := 99) [*]

@[simp ↓] theorem issueRecord_holds (hcfe : Stable P .cfe) (hcat : Stable P .cat) (hpods : Stable P .pods) (hgau : Stable P .gau) (hstk : Stable P .stk) (hhpt : Stable P .hpt) (hmsc : Stable P .msc) (hcru : Stable P .cru) (hod : Stable P .od) (hscratch : Stable P .scratch) (htiles : Stable P .tiles) (hmq : Stable P .mq) (hpw : Stable P .pw) (hpo : Stable P .po) (hst : Stable P .st) (hev : Stable P .ev) (a0) (hs : Holds P s) : Holds P (issueRecord a0 s) := by
  unfold issueRecord
  repeat' first
    | (extract_lets +onlyGivenNames x
       first
       | (have hx : Holds P x := by (simp only [x]; repeat' split) <;> simp +contextual (maxDischargeDepth := 99) [*]
          clear_value x)
       | (have hx : HoldsF P x := by (simp only [x]; repeat' split) <;> simp +contextual (maxDischargeDepth := 99) [*]
          clear_value x)
       | (have hx : HoldsG P x := by (simp only [x]; repeat' split) <;> simp +contextual (maxDischargeDepth := 99) [*]
          clear_value x)
       | (have hx : HoldsO P x := by (simp only [x]; repeat' split) <;> simp +contextual (maxDischargeDepth := 99) [*]
          clear_value x)
       | (have hx : HoldsL P x := by (simp only [x]; repeat' split) <;> simp +contextual (maxDischargeDepth := 99) [*]
          clear_value x)
       | (have hx : ∀ t, Holds P t → Holds P (x t) := by intro t ht; (simp only [x]; repeat' split) <;> simp +contextual (maxDischargeDepth := 99) [*]
          clear_value x)
       | (have hx : ∀ a t, Holds P t → Holds P (x a t) := by intro a t ht; (simp only [x]; repeat' split) <;> simp +contextual (maxDischargeDepth := 99) [*]
          clear_value x)
       | clear_value x)
    | split
  all_goals first
    | simp +contextual (maxDischargeDepth := 99) [*]
    | (have ht := ofO (P := P) ‹(_ : Option State) = some _›; simp +contextual (maxDischargeDepth := 99) [*])
    | (have ht := ofF (P := P) ‹(_ : State × _) = (_, _)›; simp +contextual (maxDischargeDepth := 99) [*])
    | (have ht := ofG (P := P) ‹(_ : _ × State) = (_, _)›; simp +contextual (maxDischargeDepth := 99) [*])
    | (have ht := ofV_ready (P := P) ‹(_ : PrepRes) = .ready _ _›; simp +contextual (maxDischargeDepth := 99) [*])
    | (have ht := ofV_wait (P := P) ‹(_ : PrepRes) = .wait _›; simp +contextual (maxDischargeDepth := 99) [*])
    | (have ht := ofV_fault (P := P) ‹(_ : PrepRes) = .fault _ _›; simp +contextual (maxDischargeDepth := 99) [*])
    | (have ht := ofU_done (P := P) ‹(_ : PutRes) = .done _›; simp +contextual (maxDischargeDepth := 99) [*])
    | (have ht := ofU_wait (P := P) ‹(_ : PutRes) = .wait _›; simp +contextual (maxDischargeDepth := 99) [*])
    | (have ht := ofU_pend (P := P) ‹(_ : PutRes) = .pend _ _›; simp +contextual (maxDischargeDepth := 99) [*])

@[simp ↓] theorem doCompletionRecordWrite_holds (hcfe : Stable P .cfe) (hcat : Stable P .cat) (hpods : Stable P .pods) (hgau : Stable P .gau) (hstk : Stable P .stk) (hhpt : Stable P .hpt) (hmsc : Stable P .msc) (hcru : Stable P .cru) (hod : Stable P .od) (hscratch : Stable P .scratch) (htiles : Stable P .tiles) (hmq : Stable P .mq) (hpw : Stable P .pw) (hpo : Stable P .po) (hst : Stable P .st) (hev : Stable P .ev) (a0) (hs : Holds P s) : Holds P (doCompletionRecordWrite a0 s) := by
  unfold doCompletionRecordWrite
  repeat' first
    | (extract_lets +onlyGivenNames x
       first
       | (have hx : Holds P x := by (simp only [x]; repeat' split) <;> simp +contextual (maxDischargeDepth := 99) [*]
          clear_value x)
       | clear_value x)
    | split
  all_goals simp +contextual (maxDischargeDepth := 99) [*]

@[simp ↓] theorem execCompletionRecordWrite_holds (hcfe : Stable P .cfe) (hcat : Stable P .cat) (hpods : Stable P .pods) (hgau : Stable P .gau) (hstk : Stable P .stk) (hhpt : Stable P .hpt) (hmsc : Stable P .msc) (hcru : Stable P .cru) (hod : Stable P .od) (hscratch : Stable P .scratch) (htiles : Stable P .tiles) (hmq : Stable P .mq) (hpw : Stable P .pw) (hpo : Stable P .po) (hst : Stable P .st) (hev : Stable P .ev) (a0) (hs : Holds P s) : HoldsR P (execCompletionRecordWrite a0 s) := by
  unfold execCompletionRecordWrite
  refine HoldsR.next ?_
  simp +contextual (maxDischargeDepth := 99) [*]

end Sys2Proof.Machine
end

