-- ==== Sys2Proof/Laws/KeepLookup.lean ====
section
/-! SUPPORT. What the functions of Machine/Lookup.lean keep: one lemma each, for every predicate on states that
is stable under changes of the parts the function can reach. -/

namespace Sys2Proof.Machine

variable {P : State → Prop} {s : State}

@[simp ↓] theorem exportOut_holds (hcfe : Stable P .cfe) (hpods : Stable P .pods) (hgau : Stable P .gau) (hhpt : Stable P .hpt) (hod : Stable P .od) (hscratch : Stable P .scratch) (htiles : Stable P .tiles) (hpw : Stable P .pw) (hpo : Stable P .po) (hst : Stable P .st) (a0) (a1) (a2) (a3) (hs : Holds P s) : HoldsF P (exportOut a0 a1 a2 a3 s) := by
  unfold exportOut
  simp +contextual (maxDischargeDepth := 99) [*]

@[simp ↓] theorem addTiles_holds (hpods : Stable P .pods) (hscratch : Stable P .scratch) (htiles : Stable P .tiles) (hpw : Stable P .pw) (hpo : Stable P .po) (hst : Stable P .st) (a0) (a1) (a2) (a3) (hs : Holds P s) : HoldsF P (addTiles a0 a1 a2 a3 s) := by
  unfold addTiles
  repeat' first
    | (extract_lets +onlyGivenNames x
       first
       | (have hx : Holds P x := by (simp only [x]; repeat' split) <;> simp +contextual (maxDischargeDepth := 99) [*]
          clear_value x)
       | clear_value x)
    | split
  all_goals simp +contextual (maxDischargeDepth := 99) [*]

@[simp ↓] theorem emitRow_holds (hcfe : Stable P .cfe) (hpods : Stable P .pods) (hgau : Stable P .gau) (hhpt : Stable P .hpt) (hod : Stable P .od) (hscratch : Stable P .scratch) (htiles : Stable P .tiles) (hpw : Stable P .pw) (hpo : Stable P .po) (hst : Stable P .st) (a0) (a1) (a2) (a3) (a4) (hs : Holds P s) : HoldsF P (emitRow a0 a1 a2 a3 a4 s) := by
  unfold emitRow
  (repeat' split) <;> simp +contextual (maxDischargeDepth := 99) [*]

@[simp ↓] theorem modDeal_holds (hcfe : Stable P .cfe) (a2 : Deal → Deal) (a0) (a1) (hs : Holds P s) : Holds P (modDeal a0 a1 a2 s) := by
  unfold modDeal
  simp +contextual (maxDischargeDepth := 99) [*]

@[simp ↓] theorem finishIfDone_holds (hcfe : Stable P .cfe) (hmq : Stable P .mq) (a0) (hs : Holds P s) : Holds P (finishIfDone a0 s) := by
  unfold finishIfDone
  (repeat' split) <;> simp +contextual (maxDischargeDepth := 99) [*]

@[simp ↓] theorem captureTiles_holds (htiles : Stable P .tiles) (a0) (a1) (hs : Holds P s) : Holds P (captureTiles a0 a1 s) := by
  unfold captureTiles
  extract_lets base row
  exact htiles (fun m => List.foldl _ (memClear base (640 * 1024) m) _) _
    (fun m h => foldl_wf _ (fun m x h => memStore_wf _ _ h) _ (memClear_wf _ _ h)) hs

@[simp ↓] theorem emitBlock_holds (hcfe : Stable P .cfe) (hpods : Stable P .pods) (hgau : Stable P .gau) (hhpt : Stable P .hpt) (hod : Stable P .od) (hscratch : Stable P .scratch) (htiles : Stable P .tiles) (hpw : Stable P .pw) (hpo : Stable P .po) (hst : Stable P .st) (a0) (a1) (a2) (a3) (a4) (hs : Holds P s) : HoldsF P (emitBlock a0 a1 a2 a3 a4 s) := by
  unfold emitBlock
  repeat' first
    | (extract_lets +onlyGivenNames x
       first
       | (have hx : Holds P x := by (simp only [x]; repeat' split) <;> simp +contextual (maxDischargeDepth := 99) [*]
          clear_value x)
       | (have hx : HoldsF P x := by (simp only [x]; repeat' split) <;> simp +contextual (maxDischargeDepth := 99) [*]
          clear_value x)
       | (have hx : HoldsG P x := by (simp only [x]; repeat' split) <;> simp +contextual (maxDischargeDepth := 99) [*]
          clear_value x)
       | (have hx : HoldsO P x := by (simp only [x]; repeat' split) <;> simp +contextual (maxDischargeDepth := 99) [*]
          clear_value x)
       | (have hx : HoldsL P x := by (simp only [x]; repeat' split) <;> simp +contextual (maxDischargeDepth := 99) [*]
          clear_value x)
       | (have hx : ∀ t, Holds P t → Holds P (x t) := by intro t ht; (simp only [x]; repeat' split) <;> simp +contextual (maxDischargeDepth := 99) [*]
          clear_value x)
       | (have hx : ∀ a t, Holds P t → Holds P (x a t) := by intro a t ht; (simp only [x]; repeat' split) <;> simp +contextual (maxDischargeDepth := 99) [*]
          clear_value x)
       | clear_value x)
    | split
  all_goals first
    | simp +contextual (maxDischargeDepth := 99) [*]
    | (have ht := ofO (P := P) ‹(_ : Option State) = some _›; simp +contextual (maxDischargeDepth := 99) [*])
    | (have ht := ofF (P := P) ‹(_ : State × _) = (_, _)›; simp +contextual (maxDischargeDepth := 99) [*])
    | (have ht := ofG (P := P) ‹(_ : _ × State) = (_, _)›; simp +contextual (maxDischargeDepth := 99) [*])
    | (have ht := ofV_ready (P := P) ‹(_ : PrepRes) = .ready _ _›; simp +contextual (maxDischargeDepth := 99) [*])
    | (have ht := ofV_wait (P := P) ‹(_ : PrepRes) = .wait _›; simp +contextual (maxDischargeDepth := 99) [*])
    | (have ht := ofV_fault (P := P) ‹(_ : PrepRes) = .fault _ _›; simp +contextual (maxDischargeDepth := 99) [*])
    | (have ht := ofU_done (P := P) ‹(_ : PutRes) = .done _›; simp +contextual (maxDischargeDepth := 99) [*])
    | (have ht := ofU_wait (P := P) ‹(_ : PutRes) = .wait _›; simp +contextual (maxDischargeDepth := 99) [*])
    | (have ht := ofU_pend (P := P) ‹(_ : PutRes) = .pend _ _›; simp +contextual (maxDischargeDepth := 99) [*])

@[simp ↓] theorem sendBlock_holds (hcfe : Stable P .cfe) (hpods : Stable P .pods) (hgau : Stable P .gau) (hhpt : Stable P .hpt) (hod : Stable P .od) (hscratch : Stable P .scratch) (htiles : Stable P .tiles) (hpw : Stable P .pw) (hpo : Stable P .po) (hst : Stable P .st) (a0) (a1) (a2) (a3) (a4) (a5) (a6) (hs : Holds P s) : HoldsF P (sendBlock a0 a1 a2 a3 a4 a5 a6 s) := by
  unfold sendBlock
  (repeat' split) <;> simp +contextual (maxDischargeDepth := 99) [*]

@[simp ↓] theorem putCarrels_holds (htiles : Stable P .tiles) (a0) (a1) (a2) (hs : Holds P s) : Holds P (putCarrels a0 a1 a2 s) := by
  unfold putCarrels
  exact htiles (memStore _ _) _ (fun m h => memStore_wf _ _ h) hs

end Sys2Proof.Machine
end

