-- ==== Sys2Proof/Laws/KeepOdAccess.lean ====
section
/-! SUPPORT. What the functions of Machine/OdAccess.lean keep: one lemma each, for every predicate on states that
is stable under changes of the parts the function can reach. -/

namespace Sys2Proof.Machine

variable {P : State → Prop} {s : State}

@[simp ↓] theorem odAnswer_holds (hout : Stable P .out) (a0) (hs : Holds P s) : Holds P (odAnswer a0 s) := by
  unfold odAnswer
  simp +contextual (maxDischargeDepth := 99) [*]

@[simp ↓] theorem holdWrite_holds (hcru : Stable P .cru) (a0) (a1) (hs : Holds P s) : Holds P (holdWrite a0 a1 s) := by
  unfold holdWrite
  simp +contextual (maxDischargeDepth := 99) [*]

@[simp ↓] theorem odTry_holds (hcru : Stable P .cru) (hout : Stable P .out) (a4 : State → Option State) (hf4 : ∀ t, Holds P t → HoldsO P (a4 t)) (a0) (a1) (a2) (a3) (hs : Holds P s) : Holds P (odTry a0 a1 a2 a3 a4 s) := by
  unfold odTry
  (repeat' split) <;> first
    | simp +contextual (maxDischargeDepth := 99) [*]
    | (have ht := ofO (P := P) ‹(_ : Option State) = some _› (hf4 _ hs); simp +contextual (maxDischargeDepth := 99) [*])

end Sys2Proof.Machine
end

