-- ==== Sys2Proof/Laws/KeepStacks.lean ====
section
/-! SUPPORT. What the functions of Machine/Stacks.lean keep: one lemma each, for every predicate on states that
is stable under changes of the parts the function can reach. -/

namespace Sys2Proof.Machine

variable {P : State → Prop} {s : State}

@[simp ↓] theorem modSlice_holds (hpods : Stable P .pods) (a1 : Slice → Slice) (a0) (hs : Holds P s) : Holds P (modSlice a0 a1 s) := by
  unfold modSlice
  simp +contextual (maxDischargeDepth := 99) [*]

@[simp ↓] theorem touchLine_holds (hpods : Stable P .pods) (hstk : Stable P .stk) (hod : Stable P .od) (a0) (a1) (a2) (hs : Holds P s) : Holds P (touchLine a0 a1 a2 s) := by
  unfold touchLine
  simp +contextual (maxDischargeDepth := 99) [*]

@[simp ↓] theorem backInvalidate_holds (hpods : Stable P .pods) (a0) (a1) (hs : Holds P s) : Holds P (backInvalidate a0 a1 s) := by
  unfold backInvalidate
  simp +contextual (maxDischargeDepth := 99) [*]

@[simp ↓] theorem allocDir_holds (hpods : Stable P .pods) (hgau : Stable P .gau) (hod : Stable P .od) (a0) (a1) (hs : Holds P s) : Holds P (allocDir a0 a1 s) := by
  unfold allocDir
  simp +contextual (maxDischargeDepth := 99) [*]

@[simp ↓] theorem clearSets_holds (hpods : Stable P .pods) (a0) (a1) (a2) (hs : Holds P s) : Holds P (clearSets a0 a1 a2 s) := by
  unfold clearSets
  simp +contextual (maxDischargeDepth := 99) [*]

@[simp ↓] theorem sweepOn_holds (hpods : Stable P .pods) (hgau : Stable P .gau) (hstk : Stable P .stk) (a0) (hs : Holds P s) : Holds P (sweepOn a0 s) := by
  unfold sweepOn
  (repeat' split) <;> simp +contextual (maxDischargeDepth := 99) [*]

@[simp ↓] theorem sweepAll_holds (hpods : Stable P .pods) (hgau : Stable P .gau) (hstk : Stable P .stk) (hs : Holds P s) : Holds P (sweepAll s) := by
  unfold sweepAll
  simp +contextual (maxDischargeDepth := 99) [*]

@[simp ↓] theorem installLine_holds (hpods : Stable P .pods) (hgau : Stable P .gau) (hstk : Stable P .stk) (hod : Stable P .od) (a0) (a1) (a2) (a3) (a4) (a5) (hs : Holds P s) : Holds P (installLine a0 a1 a2 a3 a4 a5 s) := by
  unfold installLine
  repeat' first
    | (extract_lets +onlyGivenNames x
       first
       | (have hx : Holds P x := by (simp only [x]; repeat' split) <;> simp +contextual (maxDischargeDepth := 99) [*]
          clear_value x)
       | clear_value x)
    | split
  all_goals simp +contextual (maxDischargeDepth := 99) [*]

@[simp ↓] theorem pinLoseWay_holds (hstk : Stable P .stk) (a0) (a1) (hs : Holds P s) : Holds P (pinLoseWay a0 a1 s) := by
  unfold pinLoseWay
  simp +contextual (maxDischargeDepth := 99) [*]

@[simp ↓] theorem replicaLoseWay_holds (hcat : Stable P .cat) (hod : Stable P .od) (a0) (a1) (hs : Holds P s) : Holds P (replicaLoseWay a0 a1 s) := by
  unfold replicaLoseWay
  simp +contextual (maxDischargeDepth := 99) [*]

@[simp ↓] theorem retireWay_holds (hcfe : Stable P .cfe) (hcat : Stable P .cat) (hpods : Stable P .pods) (hgau : Stable P .gau) (hstk : Stable P .stk) (hmsc : Stable P .msc) (hcru : Stable P .cru) (hod : Stable P .od) (hscratch : Stable P .scratch) (htiles : Stable P .tiles) (hmq : Stable P .mq) (hev : Stable P .ev) (a0) (a1) (a2) (hs : Holds P s) : Holds P (retireWay a0 a1 a2 s) := by
  unfold retireWay
  simp +contextual (maxDischargeDepth := 99) [*]

@[simp ↓] theorem wayError_holds (hcfe : Stable P .cfe) (hcat : Stable P .cat) (hpods : Stable P .pods) (hgau : Stable P .gau) (hstk : Stable P .stk) (hmsc : Stable P .msc) (hcru : Stable P .cru) (hod : Stable P .od) (hscratch : Stable P .scratch) (htiles : Stable P .tiles) (hmq : Stable P .mq) (hev : Stable P .ev) (a0) (a1) (hs : Holds P s) : Holds P (wayError a0 a1 s) := by
  unfold wayError
  simp +contextual (maxDischargeDepth := 99) [*]

@[simp ↓] theorem openSlip_holds (hpods : Stable P .pods) (a0) (a1) (a2) (a3) (a4) (a5) (hs : Holds P s) : HoldsG P (openSlip a0 a1 a2 a3 a4 a5 s) := by
  unfold openSlip
  simp +contextual (maxDischargeDepth := 99) [*]

@[simp ↓] theorem openPrefetch_holds (hpods : Stable P .pods) (a0) (a1) (a2) (hs : Holds P s) : Holds P (openPrefetch a0 a1 a2 s) := by
  unfold openPrefetch
  simp +contextual (maxDischargeDepth := 99) [*]

@[simp ↓] theorem joinSlip_holds (hpods : Stable P .pods) (hod : Stable P .od) (a0) (a1) (a2) (hs : Holds P s) : Holds P (joinSlip a0 a1 a2 s) := by
  unfold joinSlip
  simp +contextual (maxDischargeDepth := 99) [*]

@[simp ↓] theorem askMiss_holds (hpods : Stable P .pods) (hod : Stable P .od) (a0) (a1) (a2) (a3) (a4) (a5) (hs : Holds P s) : HoldsF P (askMiss a0 a1 a2 a3 a4 a5 s) := by
  unfold askMiss
  (repeat' split) <;> simp +contextual (maxDischargeDepth := 99) [*]

@[simp ↓] theorem askLine_holds (hcfe : Stable P .cfe) (hcat : Stable P .cat) (hpods : Stable P .pods) (hgau : Stable P .gau) (hstk : Stable P .stk) (hmsc : Stable P .msc) (hcru : Stable P .cru) (hod : Stable P .od) (hscratch : Stable P .scratch) (htiles : Stable P .tiles) (hmq : Stable P .mq) (hev : Stable P .ev) (a0) (a1) (a2) (a3) (a4) (a5) (a6) (hs : Holds P s) : HoldsF P (askLine a0 a1 a2 a3 a4 a5 a6 s) := by
  unfold askLine
  repeat' first
    | (extract_lets +onlyGivenNames x
       first
       | (have hx : Holds P x := by (simp only [x]; repeat' split) <;> simp +contextual (maxDischargeDepth := 99) [*]
          clear_value x)
       | clear_value x)
    | split
  all_goals simp +contextual (maxDischargeDepth := 99) [*]

@[simp ↓] theorem serveReads_holds (hpods : Stable P .pods) (a0) (a1) (a2) (a3) (a4) (hs : Holds P s) : Holds P (serveReads a0 a1 a2 a3 a4 s) := by
  unfold serveReads
  simp +contextual (maxDischargeDepth := 99) [*]

@[simp ↓] theorem closeSlip_holds (hpods : Stable P .pods) (hmss : Stable P .mss) (a0) (a1) (hs : Holds P s) : Holds P (closeSlip a0 a1 s) := by
  unfold closeSlip
  simp +contextual (maxDischargeDepth := 99) [*]

@[simp ↓] theorem reissue_holds (hpods : Stable P .pods) (hod : Stable P .od) (a0) (a1) (hs : Holds P s) : Holds P (reissue a0 a1 s) := by
  unfold reissue
  simp +contextual (maxDischargeDepth := 99) [*]

@[simp ↓] theorem modRead_holds (hpods : Stable P .pods) (a2 : ReadRec → ReadRec) (a0) (a1) (hs : Holds P s) : Holds P (modRead a0 a1 a2 s) := by
  unfold modRead
  simp +contextual (maxDischargeDepth := 99) [*]

@[simp ↓] theorem askFor_holds (hcfe : Stable P .cfe) (hcat : Stable P .cat) (hpods : Stable P .pods) (hgau : Stable P .gau) (hstk : Stable P .stk) (hmsc : Stable P .msc) (hcru : Stable P .cru) (hod : Stable P .od) (hscratch : Stable P .scratch) (htiles : Stable P .tiles) (hmq : Stable P .mq) (hev : Stable P .ev) (a0) (a1) (a2) (a3) (hs : Holds P s) : Holds P (askFor a0 a1 a2 a3 s) := by
  unfold askFor
  repeat' first
    | (extract_lets +onlyGivenNames x
       first
       | (have hx : Holds P x := by (simp only [x]; repeat' split) <;> simp +contextual (maxDischargeDepth := 99) [*]
          clear_value x)
       | (have hx : HoldsF P x := by (simp only [x]; repeat' split) <;> simp +contextual (maxDischargeDepth := 99) [*]
          clear_value x)
       | (have hx : HoldsG P x := by (simp only [x]; repeat' split) <;> simp +contextual (maxDischargeDepth := 99) [*]
          clear_value x)
       | (have hx : HoldsO P x := by (simp only [x]; repeat' split) <;> simp +contextual (maxDischargeDepth := 99) [*]
          clear_value x)
       | (have hx : HoldsL P x := by (simp only [x]; repeat' split) <;> simp +contextual (maxDischargeDepth := 99) [*]
          clear_value x)
       | (have hx : ∀ t, Holds P t → Holds P (x t) := by intro t ht; (simp only [x]; repeat' split) <;> simp +contextual (maxDischargeDepth := 99) [*]
          clear_value x)
       | (have hx : ∀ a t, Holds P t → Holds P (x a t) := by intro a t ht; (simp only [x]; repeat' split) <;> simp +contextual (maxDischargeDepth := 99) [*]
          clear_value x)
       | clear_value x)
    | split
  all_goals first
    | simp +contextual (maxDischargeDepth := 99) [*]
    | (have ht := ofO (P := P) ‹(_ : Option State) = some _›; simp +contextual (maxDischargeDepth := 99) [*])
    | (have ht := ofF (P := P) ‹(_ : State × _) = (_, _)›; simp +contextual (maxDischargeDepth := 99) [*])
    | (have ht := ofG (P := P) ‹(_ : _ × State) = (_, _)›; simp +contextual (maxDischargeDepth := 99) [*])
    | (have ht := ofV_ready (P := P) ‹(_ : PrepRes) = .ready _ _›; simp +contextual (maxDischargeDepth := 99) [*])
    | (have ht := ofV_wait (P := P) ‹(_ : PrepRes) = .wait _›; simp +contextual (maxDischargeDepth := 99) [*])
    | (have ht := ofV_fault (P := P) ‹(_ : PrepRes) = .fault _ _›; simp +contextual (maxDischargeDepth := 99) [*])
    | (have ht := ofU_done (P := P) ‹(_ : PutRes) = .done _›; simp +contextual (maxDischargeDepth := 99) [*])
    | (have ht := ofU_wait (P := P) ‹(_ : PutRes) = .wait _›; simp +contextual (maxDischargeDepth := 99) [*])
    | (have ht := ofU_pend (P := P) ‹(_ : PutRes) = .pend _ _›; simp +contextual (maxDischargeDepth := 99) [*])

@[simp ↓] theorem retryHeld_holds (hcfe : Stable P .cfe) (hcat : Stable P .cat) (hpods : Stable P .pods) (hgau : Stable P .gau) (hstk : Stable P .stk) (hmsc : Stable P .msc) (hcru : Stable P .cru) (hod : Stable P .od) (hscratch : Stable P .scratch) (htiles : Stable P .tiles) (hmq : Stable P .mq) (hev : Stable P .ev) (a0) (hs : Holds P s) : Holds P (retryHeld a0 s) := by
  unfold retryHeld
  simp +contextual (maxDischargeDepth := 99) [*]

@[simp ↓] theorem fillSlip_holds (hcfe : Stable P .cfe) (hcat : Stable P .cat) (hpods : Stable P .pods) (hgau : Stable P .gau) (hstk : Stable P .stk) (hmss : Stable P .mss) (hhpt : Stable P .hpt) (hmsc : Stable P .msc) (hcru : Stable P .cru) (hod : Stable P .od) (hscratch : Stable P .scratch) (htiles : Stable P .tiles) (hmq : Stable P .mq) (hev : Stable P .ev) (a0) (a1) (hs : Holds P s) : Holds P (fillSlip a0 a1 s) := by
  unfold fillSlip
  simp +contextual (maxDischargeDepth := 99) [*]

@[simp ↓] theorem doCallSlipFill_holds (hcfe : Stable P .cfe) (hcat : Stable P .cat) (hpods : Stable P .pods) (hgau : Stable P .gau) (hstk : Stable P .stk) (hmss : Stable P .mss) (hhpt : Stable P .hpt) (hmsc : Stable P .msc) (hcru : Stable P .cru) (hod : Stable P .od) (hscratch : Stable P .scratch) (htiles : Stable P .tiles) (hmq : Stable P .mq) (hev : Stable P .ev) (a0) (a1) (hs : Holds P s) : Holds P (doCallSlipFill a0 a1 s) := by
  unfold doCallSlipFill
  (repeat' split) <;> simp +contextual (maxDischargeDepth := 99) [*]

@[simp ↓] theorem execCallSlipFill_holds (hcfe : Stable P .cfe) (hcat : Stable P .cat) (hpods : Stable P .pods) (hgau : Stable P .gau) (hstk : Stable P .stk) (hmss : Stable P .mss) (hhpt : Stable P .hpt) (hmsc : Stable P .msc) (hcru : Stable P .cru) (hod : Stable P .od) (hscratch : Stable P .scratch) (htiles : Stable P .tiles) (hmq : Stable P .mq) (hev : Stable P .ev) (a0) (a1) (hs : Holds P s) : HoldsR P (execCallSlipFill a0 a1 s) := by
  unfold execCallSlipFill
  refine HoldsR.next ?_
  simp +contextual (maxDischargeDepth := 99) [*]

@[simp ↓] theorem ackWeed_holds (hpods : Stable P .pods) (a0) (hs : Holds P s) : Holds P (ackWeed a0 s) := by
  unfold ackWeed
  simp +contextual (maxDischargeDepth := 99) [*]

@[simp ↓] theorem fillNow_holds (hcfe : Stable P .cfe) (hcat : Stable P .cat) (hpods : Stable P .pods) (hgau : Stable P .gau) (hstk : Stable P .stk) (hmss : Stable P .mss) (hhpt : Stable P .hpt) (hmsc : Stable P .msc) (hcru : Stable P .cru) (hod : Stable P .od) (hscratch : Stable P .scratch) (htiles : Stable P .tiles) (hmq : Stable P .mq) (hev : Stable P .ev) (a0) (a1) (hs : Holds P s) : Holds P (fillNow a0 a1 s) := by
  unfold fillNow
  simp +contextual (maxDischargeDepth := 99) [*]

@[simp ↓] theorem missNow_holds (hcfe : Stable P .cfe) (hcat : Stable P .cat) (hpods : Stable P .pods) (hgau : Stable P .gau) (hstk : Stable P .stk) (hmss : Stable P .mss) (hhpt : Stable P .hpt) (hmsc : Stable P .msc) (hcru : Stable P .cru) (hod : Stable P .od) (hscratch : Stable P .scratch) (htiles : Stable P .tiles) (hmq : Stable P .mq) (hev : Stable P .ev) (a0) (a1) (a2) (a3) (hs : Holds P s) : Holds P (missNow a0 a1 a2 a3 s) := by
  unfold missNow
  repeat' first
    | (extract_lets +onlyGivenNames x
       first
       | (have hx : Holds P x := by (simp only [x]; repeat' split) <;> simp +contextual (maxDischargeDepth := 99) [*]
          clear_value x)
       | (have hx : HoldsF P x := by (simp only [x]; repeat' split) <;> simp +contextual (maxDischargeDepth := 99) [*]
          clear_value x)
       | (have hx : HoldsG P x := by (simp only [x]; repeat' split) <;> simp +contextual (maxDischargeDepth := 99) [*]
          clear_value x)
       | (have hx : HoldsO P x := by (simp only [x]; repeat' split) <;> simp +contextual (maxDischargeDepth := 99) [*]
          clear_value x)
       | (have hx : HoldsL P x := by (simp only [x]; repeat' split) <;> simp +contextual (maxDischargeDepth := 99) [*]
          clear_value x)
       | (have hx : ∀ t, Holds P t → Holds P (x t) := by intro t ht; (simp only [x]; repeat' split) <;> simp +contextual (maxDischargeDepth := 99) [*]
          clear_value x)
       | (have hx : ∀ a t, Holds P t → Holds P (x a t) := by intro a t ht; (simp only [x]; repeat' split) <;> simp +contextual (maxDischargeDepth := 99) [*]
          clear_value x)
       | clear_value x)
    | split
  all_goals first
    | simp +contextual (maxDischargeDepth := 99) [*]
    | (have ht := ofO (P := P) ‹(_ : Option State) = some _›; simp +contextual (maxDischargeDepth := 99) [*])
    | (have ht := ofF (P := P) ‹(_ : State × _) = (_, _)›; simp +contextual (maxDischargeDepth := 99) [*])
    | (have ht := ofG (P := P) ‹(_ : _ × State) = (_, _)›; simp +contextual (maxDischargeDepth := 99) [*])
    | (have ht := ofV_ready (P := P) ‹(_ : PrepRes) = .ready _ _›; simp +contextual (maxDischargeDepth := 99) [*])
    | (have ht := ofV_wait (P := P) ‹(_ : PrepRes) = .wait _›; simp +contextual (maxDischargeDepth := 99) [*])
    | (have ht := ofV_fault (P := P) ‹(_ : PrepRes) = .fault _ _›; simp +contextual (maxDischargeDepth := 99) [*])
    | (have ht := ofU_done (P := P) ‹(_ : PutRes) = .done _›; simp +contextual (maxDischargeDepth := 99) [*])
    | (have ht := ofU_wait (P := P) ‹(_ : PutRes) = .wait _›; simp +contextual (maxDischargeDepth := 99) [*])
    | (have ht := ofU_pend (P := P) ‹(_ : PutRes) = .pend _ _›; simp +contextual (maxDischargeDepth := 99) [*])

@[simp ↓] theorem readLine_holds (hcfe : Stable P .cfe) (hcat : Stable P .cat) (hpods : Stable P .pods) (hgau : Stable P .gau) (hstk : Stable P .stk) (hmss : Stable P .mss) (hhpt : Stable P .hpt) (hmsc : Stable P .msc) (hcru : Stable P .cru) (hod : Stable P .od) (hscratch : Stable P .scratch) (htiles : Stable P .tiles) (hmq : Stable P .mq) (hev : Stable P .ev) (a0) (a1) (a2) (a3) (hs : Holds P s) : HoldsG P (readLine a0 a1 a2 a3 s) := by
  unfold readLine
  repeat' first
    | (extract_lets +onlyGivenNames x
       first
       | (have hx : Holds P x := by (simp only [x]; repeat' split) <;> simp +contextual (maxDischargeDepth := 99) [*]
          clear_value x)
       | clear_value x)
    | split
  all_goals simp +contextual (maxDischargeDepth := 99) [*]

@[simp ↓] theorem stkRead_holds (hcfe : Stable P .cfe) (hcat : Stable P .cat) (hpods : Stable P .pods) (hgau : Stable P .gau) (hstk : Stable P .stk) (hmss : Stable P .mss) (hhpt : Stable P .hpt) (hmsc : Stable P .msc) (hcru : Stable P .cru) (hod : Stable P .od) (hscratch : Stable P .scratch) (htiles : Stable P .tiles) (hmq : Stable P .mq) (hev : Stable P .ev) (a0) (a1) (a2) (a3) (a4) (hs : Holds P s) : HoldsG P (stkRead a0 a1 a2 a3 a4 s) := by
  unfold stkRead
  repeat' first
    | (extract_lets +onlyGivenNames x
       first
       | (have hx : Holds P x := by (simp only [x]; repeat' split) <;> simp +contextual (maxDischargeDepth := 99) [*]
          clear_value x)
       | (have hx : HoldsF P x := by (simp only [x]; repeat' split) <;> simp +contextual (maxDischargeDepth := 99) [*]
          clear_value x)
       | (have hx : HoldsG P x := by (simp only [x]; repeat' split) <;> simp +contextual (maxDischargeDepth := 99) [*]
          clear_value x)
       | (have hx : HoldsO P x := by (simp only [x]; repeat' split) <;> simp +contextual (maxDischargeDepth := 99) [*]
          clear_value x)
       | (have hx : HoldsL P x := by (simp only [x]; repeat' split) <;> simp +contextual (maxDischargeDepth := 99) [*]
          clear_value x)
       | (have hx : ∀ t, Holds P t → Holds P (x t) := by intro t ht; (simp only [x]; repeat' split) <;> simp +contextual (maxDischargeDepth := 99) [*]
          clear_value x)
       | (have hx : ∀ a t, Holds P t → Holds P (x a t) := by intro a t ht; (simp only [x]; repeat' split) <;> simp +contextual (maxDischargeDepth := 99) [*]
          clear_value x)
       | clear_value x)
    | split
  all_goals first
    | simp +contextual (maxDischargeDepth := 99) [*]
    | (have ht := ofO (P := P) ‹(_ : Option State) = some _›; simp +contextual (maxDischargeDepth := 99) [*])
    | (have ht := ofF (P := P) ‹(_ : State × _) = (_, _)›; simp +contextual (maxDischargeDepth := 99) [*])
    | (have ht := ofG (P := P) ‹(_ : _ × State) = (_, _)›; simp +contextual (maxDischargeDepth := 99) [*])
    | (have ht := ofV_ready (P := P) ‹(_ : PrepRes) = .ready _ _›; simp +contextual (maxDischargeDepth := 99) [*])
    | (have ht := ofV_wait (P := P) ‹(_ : PrepRes) = .wait _›; simp +contextual (maxDischargeDepth := 99) [*])
    | (have ht := ofV_fault (P := P) ‹(_ : PrepRes) = .fault _ _›; simp +contextual (maxDischargeDepth := 99) [*])
    | (have ht := ofU_done (P := P) ‹(_ : PutRes) = .done _›; simp +contextual (maxDischargeDepth := 99) [*])
    | (have ht := ofU_wait (P := P) ‹(_ : PutRes) = .wait _›; simp +contextual (maxDischargeDepth := 99) [*])
    | (have ht := ofU_pend (P := P) ‹(_ : PutRes) = .pend _ _›; simp +contextual (maxDischargeDepth := 99) [*])

@[simp ↓] theorem execWeedAck_holds (hpods : Stable P .pods) (a0) (hs : Holds P s) : HoldsR P (execWeedAck a0 s) := by
  unfold execWeedAck
  refine HoldsR.next ?_
  simp +contextual (maxDischargeDepth := 99) [*]

@[simp ↓] theorem pinShort_holds (hstk : Stable P .stk) (hev : Stable P .ev) (a0) (a1) (a2) (hs : Holds P s) : Holds P (pinShort a0 a1 a2 s) := by
  unfold pinShort
  simp +contextual (maxDischargeDepth := 99) [*]

@[simp ↓] theorem doPinShardLoad_holds (hstk : Stable P .stk) (hhpt : Stable P .hpt) (hev : Stable P .ev) (a0) (a1) (hs : Holds P s) : Holds P (doPinShardLoad a0 a1 s) := by
  unfold doPinShardLoad
  repeat' first
    | (extract_lets +onlyGivenNames x
       first
       | (have hx : Holds P x := by (simp only [x]; repeat' split) <;> simp +contextual (maxDischargeDepth := 99) [*]
          clear_value x)
       | clear_value x)
    | split
  all_goals simp +contextual (maxDischargeDepth := 99) [*]

@[simp ↓] theorem execPinShardLoad_holds (hstk : Stable P .stk) (hhpt : Stable P .hpt) (hev : Stable P .ev) (a0) (a1) (hs : Holds P s) : HoldsR P (execPinShardLoad a0 a1 s) := by
  unfold execPinShardLoad
  refine HoldsR.next ?_
  simp +contextual (maxDischargeDepth := 99) [*]

@[simp ↓] theorem pinShortAll_holds (hstk : Stable P .stk) (hev : Stable P .ev) (hs : Holds P s) : Holds P (pinShortAll s) := by
  unfold pinShortAll
  simp +contextual (maxDischargeDepth := 99) [*]

@[simp ↓] theorem pinWrite_holds (hstk : Stable P .stk) (hod : Stable P .od) (hev : Stable P .ev) (a0) (a1) (hs : Holds P s) : HoldsO P (pinWrite a0 a1 s) := by
  unfold pinWrite
  repeat' first
    | (extract_lets +onlyGivenNames x
       first
       | (have hx : Holds P x := by (simp only [x]; repeat' split) <;> simp +contextual (maxDischargeDepth := 99) [*]
          clear_value x)
       | clear_value x)
    | split
  all_goals simp +contextual (maxDischargeDepth := 99) [*]

@[simp ↓] theorem execStkPinWrite_holds (hstk : Stable P .stk) (hcru : Stable P .cru) (hod : Stable P .od) (hout : Stable P .out) (hev : Stable P .ev) (a0) (a1) (a2) (hs : Holds P s) : HoldsR P (execStkPinWrite a0 a1 a2 s) := by
  unfold execStkPinWrite
  refine HoldsR.next ?_
  simp +contextual (maxDischargeDepth := 99) [*]

@[simp ↓] theorem modSlices_holds (hpods : Stable P .pods) (a0 : Slice → Slice) (hs : Holds P s) : Holds P (modSlices a0 s) := by
  unfold modSlices
  simp +contextual (maxDischargeDepth := 99) [*]

@[simp ↓] theorem dropReplicas_holds (hcat : Stable P .cat) (hod : Stable P .od) (hs : Holds P s) : Holds P (dropReplicas s) := by
  unfold dropReplicas
  simp +contextual (maxDischargeDepth := 99) [*]

@[simp ↓] theorem partDisable_holds (hcat : Stable P .cat) (hpods : Stable P .pods) (hstk : Stable P .stk) (hod : Stable P .od) (hev : Stable P .ev) (a0) (hs : Holds P s) : Holds P (partDisable a0 s) := by
  unfold partDisable
  simp +contextual (maxDischargeDepth := 99) [*]

@[simp ↓] theorem partEnable_holds (hpods : Stable P .pods) (hstk : Stable P .stk) (a0) (hs : Holds P s) : Holds P (partEnable a0 s) := by
  unfold partEnable
  simp +contextual (maxDischargeDepth := 99) [*]

@[simp ↓] theorem startInvalidate_holds (hstk : Stable P .stk) (hod : Stable P .od) (a0) (hs : Holds P s) : Holds P (startInvalidate a0 s) := by
  unfold startInvalidate
  simp +contextual (maxDischargeDepth := 99) [*]

@[simp ↓] theorem partWrite_holds (hcat : Stable P .cat) (hpods : Stable P .pods) (hstk : Stable P .stk) (hod : Stable P .od) (hev : Stable P .ev) (a0) (a1) (hs : Holds P s) : HoldsO P (partWrite a0 a1 s) := by
  unfold partWrite
  (repeat' split) <;> simp +contextual (maxDischargeDepth := 99) [*]

@[simp ↓] theorem execStkPartWrite_holds (hcat : Stable P .cat) (hpods : Stable P .pods) (hstk : Stable P .stk) (hcru : Stable P .cru) (hod : Stable P .od) (hout : Stable P .out) (hev : Stable P .ev) (a0) (a1) (a2) (hs : Holds P s) : HoldsR P (execStkPartWrite a0 a1 a2 s) := by
  unfold execStkPartWrite
  refine HoldsR.next ?_
  simp +contextual (maxDischargeDepth := 99) [*]

@[simp ↓] theorem execInvalidate_holds (hcat : Stable P .cat) (hpods : Stable P .pods) (hstk : Stable P .stk) (hcru : Stable P .cru) (hod : Stable P .od) (hout : Stable P .out) (hev : Stable P .ev) (a0) (a1) (hs : Holds P s) : HoldsR P (execInvalidate a0 a1 s) := by
  unfold execInvalidate
  refine HoldsR.next ?_
  simp +contextual (maxDischargeDepth := 99) [*]

@[simp ↓] theorem endSweep_holds (hpods : Stable P .pods) (hstk : Stable P .stk) (hod : Stable P .od) (a0) (hs : Holds P s) : Holds P (endSweep a0 s) := by
  unfold endSweep
  (repeat' split) <;> simp +contextual (maxDischargeDepth := 99) [*]

@[simp ↓] theorem execInvalidateDone_holds (hpods : Stable P .pods) (hstk : Stable P .stk) (hod : Stable P .od) (a0) (hs : Holds P s) : HoldsR P (execInvalidateDone a0 s) := by
  unfold execInvalidateDone
  refine HoldsR.next ?_
  simp +contextual (maxDischargeDepth := 99) [*]

end Sys2Proof.Machine
end

