-- ==== Sys2Proof/Laws/KeepMemory.lean ====
section
/-! SUPPORT. What the functions of Machine/Memory.lean keep: one lemma each, for every predicate on states that
is stable under changes of the parts the function can reach. -/

namespace Sys2Proof.Machine

variable {P : State → Prop} {s : State}

@[simp ↓] theorem retireChan_holds (hcfe : Stable P .cfe) (hcat : Stable P .cat) (hpods : Stable P .pods) (hgau : Stable P .gau) (hstk : Stable P .stk) (hmsc : Stable P .msc) (hcru : Stable P .cru) (hod : Stable P .od) (hscratch : Stable P .scratch) (htiles : Stable P .tiles) (hmq : Stable P .mq) (hev : Stable P .ev) (a0) (a1) (hs : Holds P s) : Holds P (retireChan a0 a1 s) := by
  unfold retireChan
  simp +contextual (maxDischargeDepth := 99) [*]

@[simp ↓] theorem chanDown_holds (hcfe : Stable P .cfe) (hcat : Stable P .cat) (hpods : Stable P .pods) (hgau : Stable P .gau) (hstk : Stable P .stk) (hmss : Stable P .mss) (hmsc : Stable P .msc) (hcru : Stable P .cru) (hod : Stable P .od) (hscratch : Stable P .scratch) (htiles : Stable P .tiles) (hmq : Stable P .mq) (hev : Stable P .ev) (a0) (a1) (hs : Holds P s) : Holds P (chanDown a0 a1 s) := by
  unfold chanDown
  simp +contextual (maxDischargeDepth := 99) [*]

@[simp ↓] theorem setTemp_holds (hod : Stable P .od) (a0) (a1) (hs : Holds P s) : Holds P (setTemp a0 a1 s) := by
  unfold setTemp
  simp +contextual (maxDischargeDepth := 99) [*]

@[simp ↓] theorem requestRetrain_holds (hmss : Stable P .mss) (a0) (a1) (hs : Holds P s) : Holds P (requestRetrain a0 a1 s) := by
  unfold requestRetrain
  simp +contextual (maxDischargeDepth := 99) [*]

@[simp ↓] theorem doTempRead_holds (hmss : Stable P .mss) (hod : Stable P .od) (hev : Stable P .ev) (a0) (a1) (hs : Holds P s) : Holds P (doTempRead a0 a1 s) := by
  unfold doTempRead
  (repeat' split) <;> simp +contextual (maxDischargeDepth := 99) [*]

@[simp ↓] theorem execTempRead_holds (hmss : Stable P .mss) (hod : Stable P .od) (hev : Stable P .ev) (a0) (a1) (hs : Holds P s) : HoldsR P (execTempRead a0 a1 s) := by
  unfold execTempRead
  refine HoldsR.next ?_
  simp +contextual (maxDischargeDepth := 99) [*]

@[simp ↓] theorem applyThrottle_holds (hod : Stable P .od) (hev : Stable P .ev) (hs : Holds P s) : Holds P (applyThrottle s) := by
  unfold applyThrottle
  simp +contextual (maxDischargeDepth := 99) [*]

@[simp ↓] theorem crcRetries_holds (hmss : Stable P .mss) (hod : Stable P .od) (a0) (a1) (hs : Holds P s) : Holds P (crcRetries a0 a1 s) := by
  unfold crcRetries
  simp +contextual (maxDischargeDepth := 99) [*]

@[simp ↓] theorem retrainWrite_holds (hmss : Stable P .mss) (a0) (hs : Holds P s) : HoldsO P (retrainWrite a0 s) := by
  unfold retrainWrite
  (repeat' split) <;> simp +contextual (maxDischargeDepth := 99) [*]

@[simp ↓] theorem execMssRetrain_holds (hmss : Stable P .mss) (hcru : Stable P .cru) (hout : Stable P .out) (a0) (a1) (hs : Holds P s) : HoldsR P (execMssRetrain a0 a1 s) := by
  unfold execMssRetrain
  refine HoldsR.next ?_
  simp +contextual (maxDischargeDepth := 99) [*]

@[simp ↓] theorem retrainDone_holds (hcfe : Stable P .cfe) (hcat : Stable P .cat) (hpods : Stable P .pods) (hgau : Stable P .gau) (hstk : Stable P .stk) (hmss : Stable P .mss) (hmsc : Stable P .msc) (hcru : Stable P .cru) (hod : Stable P .od) (hscratch : Stable P .scratch) (htiles : Stable P .tiles) (hmq : Stable P .mq) (hev : Stable P .ev) (a0) (a1) (a2) (hs : Holds P s) : Holds P (retrainDone a0 a1 a2 s) := by
  unfold retrainDone
  simp +contextual (maxDischargeDepth := 99) [*]

@[simp ↓] theorem doChannelRetrain_holds (hcfe : Stable P .cfe) (hcat : Stable P .cat) (hpods : Stable P .pods) (hgau : Stable P .gau) (hstk : Stable P .stk) (hmss : Stable P .mss) (hmsc : Stable P .msc) (hcru : Stable P .cru) (hod : Stable P .od) (hscratch : Stable P .scratch) (htiles : Stable P .tiles) (hmq : Stable P .mq) (hev : Stable P .ev) (a0) (a1) (hs : Holds P s) : Holds P (doChannelRetrain a0 a1 s) := by
  unfold doChannelRetrain
  (repeat' split) <;> simp +contextual (maxDischargeDepth := 99) [*]

@[simp ↓] theorem execChannelRetrain_holds (hcfe : Stable P .cfe) (hcat : Stable P .cat) (hpods : Stable P .pods) (hgau : Stable P .gau) (hstk : Stable P .stk) (hmss : Stable P .mss) (hmsc : Stable P .msc) (hcru : Stable P .cru) (hod : Stable P .od) (hscratch : Stable P .scratch) (htiles : Stable P .tiles) (hmq : Stable P .mq) (hev : Stable P .ev) (a0) (a1) (hs : Holds P s) : HoldsR P (execChannelRetrain a0 a1 s) := by
  unfold execChannelRetrain
  refine HoldsR.next ?_
  simp +contextual (maxDischargeDepth := 99) [*]

@[simp ↓] theorem doRetrainTimeout_holds (hcfe : Stable P .cfe) (hcat : Stable P .cat) (hpods : Stable P .pods) (hgau : Stable P .gau) (hstk : Stable P .stk) (hmss : Stable P .mss) (hmsc : Stable P .msc) (hcru : Stable P .cru) (hod : Stable P .od) (hscratch : Stable P .scratch) (htiles : Stable P .tiles) (hmq : Stable P .mq) (hev : Stable P .ev) (hs : Holds P s) : Holds P (doRetrainTimeout s) := by
  unfold doRetrainTimeout
  (repeat' split) <;> simp +contextual (maxDischargeDepth := 99) [*]

@[simp ↓] theorem execRetrainTimeout_holds (hcfe : Stable P .cfe) (hcat : Stable P .cat) (hpods : Stable P .pods) (hgau : Stable P .gau) (hstk : Stable P .stk) (hmss : Stable P .mss) (hmsc : Stable P .msc) (hcru : Stable P .cru) (hod : Stable P .od) (hscratch : Stable P .scratch) (htiles : Stable P .tiles) (hmq : Stable P .mq) (hev : Stable P .ev) (hs : Holds P s) : HoldsR P (execRetrainTimeout s) := by
  unfold execRetrainTimeout
  refine HoldsR.next ?_
  simp +contextual (maxDischargeDepth := 99) [*]

@[simp ↓] theorem chanUe_holds (hcfe : Stable P .cfe) (hcat : Stable P .cat) (hpods : Stable P .pods) (hgau : Stable P .gau) (hstk : Stable P .stk) (hmss : Stable P .mss) (hmsc : Stable P .msc) (hcru : Stable P .cru) (hod : Stable P .od) (hscratch : Stable P .scratch) (htiles : Stable P .tiles) (hmq : Stable P .mq) (hev : Stable P .ev) (a0) (hs : Holds P s) : Holds P (chanUe a0 s) := by
  unfold chanUe
  simp +contextual (maxDischargeDepth := 99) [*]

@[simp ↓] theorem atomError_holds (hcfe : Stable P .cfe) (hcat : Stable P .cat) (hpods : Stable P .pods) (hgau : Stable P .gau) (hstk : Stable P .stk) (hmss : Stable P .mss) (hmsc : Stable P .msc) (hcru : Stable P .cru) (hod : Stable P .od) (hscratch : Stable P .scratch) (htiles : Stable P .tiles) (hmq : Stable P .mq) (hev : Stable P .ev) (a0) (a1) (a2) (hs : Holds P s) : HoldsF P (atomError a0 a1 a2 s) := by
  unfold atomError
  (repeat' split) <;> simp +contextual (maxDischargeDepth := 99) [*]

@[simp ↓] theorem doScrubStep_holds (hcfe : Stable P .cfe) (hcat : Stable P .cat) (hpods : Stable P .pods) (hgau : Stable P .gau) (hstk : Stable P .stk) (hmss : Stable P .mss) (hmsc : Stable P .msc) (hcru : Stable P .cru) (hod : Stable P .od) (hscratch : Stable P .scratch) (htiles : Stable P .tiles) (hmq : Stable P .mq) (hev : Stable P .ev) (a0) (a1) (hs : Holds P s) : Holds P (doScrubStep a0 a1 s) := by
  unfold doScrubStep
  simp +contextual (maxDischargeDepth := 99) [*]

@[simp ↓] theorem execScrubStep_holds (hcfe : Stable P .cfe) (hcat : Stable P .cat) (hpods : Stable P .pods) (hgau : Stable P .gau) (hstk : Stable P .stk) (hmss : Stable P .mss) (hmsc : Stable P .msc) (hcru : Stable P .cru) (hod : Stable P .od) (hscratch : Stable P .scratch) (htiles : Stable P .tiles) (hmq : Stable P .mq) (hev : Stable P .ev) (a0) (a1) (hs : Holds P s) : HoldsR P (execScrubStep a0 a1 s) := by
  unfold execScrubStep
  refine HoldsR.next ?_
  simp +contextual (maxDischargeDepth := 99) [*]

@[simp ↓] theorem emptySlices_holds (hpods : Stable P .pods) (hs : Holds P s) : Holds P (emptySlices s) := by
  unfold emptySlices
  simp +contextual (maxDischargeDepth := 99) [*]

@[simp ↓] theorem doOverwrite_holds (hcat : Stable P .cat) (hpods : Stable P .pods) (hmss : Stable P .mss) (hupu : Stable P .upu) (hod : Stable P .od) (hgddr : Stable P .gddr) (hs : Holds P s) : Holds P (doOverwrite s) := by
  unfold doOverwrite
  split
  · extract_lets g on n s1 s2 s3 s4
    have h1 : Holds P s1 := by simp only [s1]; simp +contextual (maxDischargeDepth := 99) [*]
    have h2 : Holds P s2 := by simp only [s2]; simp +contextual (maxDischargeDepth := 99) [*]
    have h3 : Holds P s3 := by simp only [s3]; simp +contextual (maxDischargeDepth := 99) [*]
    have h4 : Holds P s4 := by simp only [s4]; simp +contextual (maxDischargeDepth := 99) [*]
    have h5 : Holds P (onMem (fun m => { m with gddr := [] }) s4) := hgddr (fun _ => []) _ (fun _ _ => rfl) h4
    simp +contextual (maxDischargeDepth := 99) [*]
  · exact hs

@[simp ↓] theorem execOverwrite_holds (hcat : Stable P .cat) (hpods : Stable P .pods) (hmss : Stable P .mss) (hupu : Stable P .upu) (hod : Stable P .od) (hgddr : Stable P .gddr) (hs : Holds P s) : HoldsR P (execOverwrite s) := by
  unfold execOverwrite
  refine HoldsR.next ?_
  simp +contextual (maxDischargeDepth := 99) [*]

@[simp ↓] theorem overwriteEnd_holds (hmss : Stable P .mss) (hev : Stable P .ev) (a0) (hs : Holds P s) : Holds P (overwriteEnd a0 s) := by
  unfold overwriteEnd
  simp +contextual (maxDischargeDepth := 99) [*]

end Sys2Proof.Machine
end

