-- ==== Sys2Proof/Laws/KeepGather.lean ====
section
/-! SUPPORT. What the functions of Machine/Gather.lean keep: one lemma each, for every predicate on states that
is stable under changes of the parts the function can reach. -/

namespace Sys2Proof.Machine

variable {P : State → Prop} {s : State}

@[simp ↓] theorem modBag_holds (hpods : Stable P .pods) (a3 : Bag → Bag) (a0) (a1) (a2) (hs : Holds P s) : Holds P (modBag a0 a1 a2 a3 s) := by
  unfold modBag
  simp +contextual (maxDischargeDepth := 99) [*]

@[simp ↓] theorem startBag_holds (hcfe : Stable P .cfe) (hpods : Stable P .pods) (a0) (a1) (a2) (a3) (a4) (a5) (hs : Holds P s) : Holds P (startBag a0 a1 a2 a3 a4 a5 s) := by
  unfold startBag
  simp +contextual (maxDischargeDepth := 99) [*]

@[simp ↓] theorem doBagStart_holds (hcfe : Stable P .cfe) (hcat : Stable P .cat) (hpods : Stable P .pods) (hgau : Stable P .gau) (hstk : Stable P .stk) (hmsc : Stable P .msc) (hcru : Stable P .cru) (hod : Stable P .od) (hscratch : Stable P .scratch) (htiles : Stable P .tiles) (hmq : Stable P .mq) (hev : Stable P .ev) (a0) (hs : Holds P s) : Holds P (doBagStart a0 s) := by
  unfold doBagStart
  split
  · exact hs
  · split
    · exact hs
    · split
      · exact hs
      · split
        · simp +contextual (maxDischargeDepth := 99) [*]
        · split
          · simp +contextual (maxDischargeDepth := 99) [*]
          · apply withHq_holds <;> try assumption
            intro t ht
            extract_lets p
            (repeat' split) <;> simp +contextual (maxDischargeDepth := 99) [*]

@[simp ↓] theorem execBagStart_holds (hcfe : Stable P .cfe) (hcat : Stable P .cat) (hpods : Stable P .pods) (hgau : Stable P .gau) (hstk : Stable P .stk) (hmsc : Stable P .msc) (hcru : Stable P .cru) (hod : Stable P .od) (hscratch : Stable P .scratch) (htiles : Stable P .tiles) (hmq : Stable P .mq) (hev : Stable P .ev) (a0) (hs : Holds P s) : HoldsR P (execBagStart a0 s) := by
  unfold execBagStart
  refine HoldsR.next ?_
  simp +contextual (maxDischargeDepth := 99) [*]

@[simp ↓] theorem gotDesc_holds (hpods : Stable P .pods) (a0) (a1) (a2) (a3) (a4) (hs : Holds P s) : Holds P (gotDesc a0 a1 a2 a3 a4 s) := by
  unfold gotDesc
  simp +contextual (maxDischargeDepth := 99) [*]

@[simp ↓] theorem askDescriptor_holds (hcfe : Stable P .cfe) (hcat : Stable P .cat) (hpods : Stable P .pods) (hgau : Stable P .gau) (hstk : Stable P .stk) (hmsc : Stable P .msc) (hcru : Stable P .cru) (hod : Stable P .od) (hscratch : Stable P .scratch) (htiles : Stable P .tiles) (hmq : Stable P .mq) (hev : Stable P .ev) (a0) (a1) (a2) (a3) (a4) (hs : Holds P s) : Holds P (askDescriptor a0 a1 a2 a3 a4 s) := by
  unfold askDescriptor
  repeat' first
    | (extract_lets +onlyGivenNames x
       first
       | (have hx : Holds P x := by (simp only [x]; repeat' split) <;> simp +contextual (maxDischargeDepth := 99) [*]
          clear_value x)
       | clear_value x)
    | split
  all_goals simp +contextual (maxDischargeDepth := 99) [*]

@[simp ↓] theorem takeLookup_holds (hcfe : Stable P .cfe) (hcat : Stable P .cat) (hpods : Stable P .pods) (hgau : Stable P .gau) (hstk : Stable P .stk) (hmsc : Stable P .msc) (hcru : Stable P .cru) (hod : Stable P .od) (hscratch : Stable P .scratch) (htiles : Stable P .tiles) (hmq : Stable P .mq) (hev : Stable P .ev) (a0) (a1) (a2) (a3) (hs : Holds P s) : Holds P (takeLookup a0 a1 a2 a3 s) := by
  unfold takeLookup
  repeat' first
    | (extract_lets +onlyGivenNames x
       first
       | (have hx : Holds P x := by (simp only [x]; repeat' split) <;> simp +contextual (maxDischargeDepth := 99) [*]
          clear_value x)
       | clear_value x)
    | split
  all_goals simp +contextual (maxDischargeDepth := 99) [*]

@[simp ↓] theorem takeUpdate_holds (hcfe : Stable P .cfe) (hcat : Stable P .cat) (hpods : Stable P .pods) (hgau : Stable P .gau) (hstk : Stable P .stk) (hmsc : Stable P .msc) (hcru : Stable P .cru) (hod : Stable P .od) (hscratch : Stable P .scratch) (htiles : Stable P .tiles) (hmq : Stable P .mq) (hev : Stable P .ev) (a0) (a1) (a2) (a3) (hs : Holds P s) : Holds P (takeUpdate a0 a1 a2 a3 s) := by
  unfold takeUpdate
  repeat' first
    | (extract_lets +onlyGivenNames x
       first
       | (have hx : Holds P x := by (simp only [x]; repeat' split) <;> simp +contextual (maxDischargeDepth := 99) [*]
          clear_value x)
       | clear_value x)
    | split
  all_goals simp +contextual (maxDischargeDepth := 99) [*]

@[simp ↓] theorem doIndexProcess_holds (hcfe : Stable P .cfe) (hcat : Stable P .cat) (hpods : Stable P .pods) (hgau : Stable P .gau) (hstk : Stable P .stk) (hmsc : Stable P .msc) (hcru : Stable P .cru) (hod : Stable P .od) (hscratch : Stable P .scratch) (htiles : Stable P .tiles) (hmq : Stable P .mq) (hev : Stable P .ev) (a0) (a1) (a2) (hs : Holds P s) : Holds P (doIndexProcess a0 a1 a2 s) := by
  unfold doIndexProcess
  repeat' first
    | (extract_lets +onlyGivenNames x
       first
       | (have hx : Holds P x := by (simp only [x]; repeat' split) <;> simp +contextual (maxDischargeDepth := 99) [*]
          clear_value x)
       | clear_value x)
    | split
  all_goals simp +contextual (maxDischargeDepth := 99) [*]

@[simp ↓] theorem execIndexProcess_holds (hcfe : Stable P .cfe) (hcat : Stable P .cat) (hpods : Stable P .pods) (hgau : Stable P .gau) (hstk : Stable P .stk) (hmsc : Stable P .msc) (hcru : Stable P .cru) (hod : Stable P .od) (hscratch : Stable P .scratch) (htiles : Stable P .tiles) (hmq : Stable P .mq) (hev : Stable P .ev) (a0) (a1) (a2) (hs : Holds P s) : HoldsR P (execIndexProcess a0 a1 a2 s) := by
  unfold execIndexProcess
  refine HoldsR.next ?_
  simp +contextual (maxDischargeDepth := 99) [*]

@[simp ↓] theorem resumeBag_holds (hcfe : Stable P .cfe) (hcat : Stable P .cat) (hpods : Stable P .pods) (hgau : Stable P .gau) (hstk : Stable P .stk) (hmsc : Stable P .msc) (hcru : Stable P .cru) (hod : Stable P .od) (hscratch : Stable P .scratch) (htiles : Stable P .tiles) (hmq : Stable P .mq) (hev : Stable P .ev) (a0) (a1) (a2) (a3) (hs : Holds P s) : Holds P (resumeBag a0 a1 a2 a3 s) := by
  unfold resumeBag
  repeat' first
    | (extract_lets +onlyGivenNames x
       first
       | (have hx : Holds P x := by (simp only [x]; repeat' split) <;> simp +contextual (maxDischargeDepth := 99) [*]
          clear_value x)
       | clear_value x)
    | split
  all_goals simp +contextual (maxDischargeDepth := 99) [*]

@[simp ↓] theorem doDescriptorFill_holds (hcfe : Stable P .cfe) (hcat : Stable P .cat) (hpods : Stable P .pods) (hgau : Stable P .gau) (hstk : Stable P .stk) (hmsc : Stable P .msc) (hcru : Stable P .cru) (hod : Stable P .od) (hscratch : Stable P .scratch) (htiles : Stable P .tiles) (hmq : Stable P .mq) (hev : Stable P .ev) (a0) (hs : Holds P s) : Holds P (doDescriptorFill a0 s) := by
  unfold doDescriptorFill
  simp +contextual (maxDischargeDepth := 99) [*]

@[simp ↓] theorem execDescriptorFill_holds (hcfe : Stable P .cfe) (hcat : Stable P .cat) (hpods : Stable P .pods) (hgau : Stable P .gau) (hstk : Stable P .stk) (hmsc : Stable P .msc) (hcru : Stable P .cru) (hod : Stable P .od) (hscratch : Stable P .scratch) (htiles : Stable P .tiles) (hmq : Stable P .mq) (hev : Stable P .ev) (a0) (hs : Holds P s) : HoldsR P (execDescriptorFill a0 s) := by
  unfold execDescriptorFill
  refine HoldsR.next ?_
  simp +contextual (maxDischargeDepth := 99) [*]

@[simp ↓] theorem queueRead_holds (hpods : Stable P .pods) (hgau : Stable P .gau) (a0) (a1) (a2) (a3) (a4) (a5) (hs : Holds P s) : Holds P (queueRead a0 a1 a2 a3 a4 a5 s) := by
  unfold queueRead
  simp +contextual (maxDischargeDepth := 99) [*]

@[simp ↓] theorem modLeaf_holds (hpods : Stable P .pods) (a4 : Leaf → Leaf) (a0) (a1) (a2) (a3) (hs : Holds P s) : Holds P (modLeaf a0 a1 a2 a3 a4 s) := by
  unfold modLeaf
  simp +contextual (maxDischargeDepth := 99) [*]

@[simp ↓] theorem substLeaf_holds (hcfe : Stable P .cfe) (hpods : Stable P .pods) (hgau : Stable P .gau) (hod : Stable P .od) (hev : Stable P .ev) (a0) (a1) (a2) (a3) (a4) (a5) (a6) (hs : Holds P s) : Holds P (substLeaf a0 a1 a2 a3 a4 a5 a6 s) := by
  unfold substLeaf
  simp +contextual (maxDischargeDepth := 99) [*]

@[simp ↓] theorem feedReads_holds (hcfe : Stable P .cfe) (hcat : Stable P .cat) (hpods : Stable P .pods) (hgau : Stable P .gau) (hstk : Stable P .stk) (hmsc : Stable P .msc) (hcru : Stable P .cru) (hod : Stable P .od) (hscratch : Stable P .scratch) (htiles : Stable P .tiles) (hmq : Stable P .mq) (hev : Stable P .ev) (a0) (a1) (hs : Holds P s) : Holds P (feedReads a0 a1 s) := by
  induction a1 generalizing s with
  | zero => unfold feedReads; exact hs
  | succ n ih =>
    unfold feedReads
    extract_lets p
    split
    · exact hs
    · split
      · exact hs
      · split
        · simp +contextual (maxDischargeDepth := 99) [*]
        · extract_lets s1
          have h1 : Holds P s1 := by simp only [s1]; simp +contextual (maxDischargeDepth := 99) [*]
          exact ih (by simp +contextual (maxDischargeDepth := 99) [*])
        · split
          · exact hs
          · split
            · simp +contextual (maxDischargeDepth := 99) [*]
            · extract_lets s1
              have h1 : Holds P s1 := by simp only [s1]; split <;> simp +contextual (maxDischargeDepth := 99) [*]
              exact ih (by simp +contextual (maxDischargeDepth := 99) [*])

@[simp ↓] theorem feed_holds (hcfe : Stable P .cfe) (hcat : Stable P .cat) (hpods : Stable P .pods) (hgau : Stable P .gau) (hstk : Stable P .stk) (hmsc : Stable P .msc) (hcru : Stable P .cru) (hod : Stable P .od) (hscratch : Stable P .scratch) (htiles : Stable P .tiles) (hmq : Stable P .mq) (hev : Stable P .ev) (a0) (hs : Holds P s) : Holds P (feed a0 s) := by
  unfold feed
  simp +contextual (maxDischargeDepth := 99) [*]

@[simp ↓] theorem doSegmentRelease_holds (hcfe : Stable P .cfe) (hcat : Stable P .cat) (hpods : Stable P .pods) (hgau : Stable P .gau) (hstk : Stable P .stk) (hmsc : Stable P .msc) (hcru : Stable P .cru) (hod : Stable P .od) (hscratch : Stable P .scratch) (htiles : Stable P .tiles) (hmq : Stable P .mq) (hev : Stable P .ev) (a0) (a1) (a2) (hs : Holds P s) : Holds P (doSegmentRelease a0 a1 a2 s) := by
  unfold doSegmentRelease
  (repeat' split) <;> simp +contextual (maxDischargeDepth := 99) [*]

@[simp ↓] theorem execSegmentRelease_holds (hcfe : Stable P .cfe) (hcat : Stable P .cat) (hpods : Stable P .pods) (hgau : Stable P .gau) (hstk : Stable P .stk) (hmsc : Stable P .msc) (hcru : Stable P .cru) (hod : Stable P .od) (hscratch : Stable P .scratch) (htiles : Stable P .tiles) (hmq : Stable P .mq) (hev : Stable P .ev) (a0) (a1) (a2) (hs : Holds P s) : HoldsR P (execSegmentRelease a0 a1 a2 s) := by
  unfold execSegmentRelease
  refine HoldsR.next ?_
  simp +contextual (maxDischargeDepth := 99) [*]

@[simp ↓] theorem dropRead_holds (hpods : Stable P .pods) (a0) (a1) (hs : Holds P s) : Holds P (dropRead a0 a1 s) := by
  unfold dropRead
  simp +contextual (maxDischargeDepth := 99) [*]

@[simp ↓] theorem readPinned_holds (hcfe : Stable P .cfe) (hcat : Stable P .cat) (hpods : Stable P .pods) (hgau : Stable P .gau) (hstk : Stable P .stk) (hmsc : Stable P .msc) (hcru : Stable P .cru) (hod : Stable P .od) (hscratch : Stable P .scratch) (htiles : Stable P .tiles) (hmq : Stable P .mq) (hev : Stable P .ev) (a0) (a1) (a2) (a3) (hs : Holds P s) : Holds P (readPinned a0 a1 a2 a3 s) := by
  unfold readPinned
  simp +contextual (maxDischargeDepth := 99) [*]

@[simp ↓] theorem readReplica_holds (hcfe : Stable P .cfe) (hcat : Stable P .cat) (hpods : Stable P .pods) (hgau : Stable P .gau) (hstk : Stable P .stk) (hmsc : Stable P .msc) (hcru : Stable P .cru) (hod : Stable P .od) (hscratch : Stable P .scratch) (htiles : Stable P .tiles) (hmq : Stable P .mq) (hev : Stable P .ev) (a0) (a1) (a2) (a3) (hs : Holds P s) : Holds P (readReplica a0 a1 a2 a3 s) := by
  unfold readReplica
  simp +contextual (maxDischargeDepth := 99) [*]

@[simp ↓] theorem sendRead_holds (hcfe : Stable P .cfe) (hcat : Stable P .cat) (hpods : Stable P .pods) (hgau : Stable P .gau) (hstk : Stable P .stk) (hsfp : Stable P .sfp) (hmsc : Stable P .msc) (hcru : Stable P .cru) (hod : Stable P .od) (hscratch : Stable P .scratch) (htiles : Stable P .tiles) (hmq : Stable P .mq) (hev : Stable P .ev) (a0) (a1) (a2) (a3) (a4) (hs : Holds P s) : Holds P (sendRead a0 a1 a2 a3 a4 s) := by
  unfold sendRead
  repeat' first
    | (extract_lets +onlyGivenNames x
       first
       | (have hx : Holds P x := by (simp only [x]; repeat' split) <;> simp +contextual (maxDischargeDepth := 99) [*]
          clear_value x)
       | (have hx : HoldsF P x := by (simp only [x]; repeat' split) <;> simp +contextual (maxDischargeDepth := 99) [*]
          clear_value x)
       | (have hx : HoldsG P x := by (simp only [x]; repeat' split) <;> simp +contextual (maxDischargeDepth := 99) [*]
          clear_value x)
       | (have hx : HoldsO P x := by (simp only [x]; repeat' split) <;> simp +contextual (maxDischargeDepth := 99) [*]
          clear_value x)
       | (have hx : HoldsL P x := by (simp only [x]; repeat' split) <;> simp +contextual (maxDischargeDepth := 99) [*]
          clear_value x)
       | (have hx : ∀ t, Holds P t → Holds P (x t) := by intro t ht; (simp only [x]; repeat' split) <;> simp +contextual (maxDischargeDepth := 99) [*]
          clear_value x)
       | (have hx : ∀ a t, Holds P t → Holds P (x a t) := by intro a t ht; (simp only [x]; repeat' split) <;> simp +contextual (maxDischargeDepth := 99) [*]
          clear_value x)
       | clear_value x)
    | split
  all_goals first
    | simp +contextual (maxDischargeDepth := 99) [*]
    | (have ht := ofO (P := P) ‹(_ : Option State) = some _›; simp +contextual (maxDischargeDepth := 99) [*])
    | (have ht := ofF (P := P) ‹(_ : State × _) = (_, _)›; simp +contextual (maxDischargeDepth := 99) [*])
    | (have ht := ofG (P := P) ‹(_ : _ × State) = (_, _)›; simp +contextual (maxDischargeDepth := 99) [*])
    | (have ht := ofV_ready (P := P) ‹(_ : PrepRes) = .ready _ _›; simp +contextual (maxDischargeDepth := 99) [*])
    | (have ht := ofV_wait (P := P) ‹(_ : PrepRes) = .wait _›; simp +contextual (maxDischargeDepth := 99) [*])
    | (have ht := ofV_fault (P := P) ‹(_ : PrepRes) = .fault _ _›; simp +contextual (maxDischargeDepth := 99) [*])
    | (have ht := ofU_done (P := P) ‹(_ : PutRes) = .done _›; simp +contextual (maxDischargeDepth := 99) [*])
    | (have ht := ofU_wait (P := P) ‹(_ : PutRes) = .wait _›; simp +contextual (maxDischargeDepth := 99) [*])
    | (have ht := ofU_pend (P := P) ‹(_ : PutRes) = .pend _ _›; simp +contextual (maxDischargeDepth := 99) [*])

@[simp ↓] theorem issueRead_holds (hcfe : Stable P .cfe) (hcat : Stable P .cat) (hpods : Stable P .pods) (hgau : Stable P .gau) (hstk : Stable P .stk) (hsfp : Stable P .sfp) (hmsc : Stable P .msc) (hcru : Stable P .cru) (hod : Stable P .od) (hscratch : Stable P .scratch) (htiles : Stable P .tiles) (hmq : Stable P .mq) (hev : Stable P .ev) (a0) (a1) (a2) (a3) (a4) (a5) (hs : Holds P s) : Holds P (issueRead a0 a1 a2 a3 a4 a5 s) := by
  unfold issueRead
  simp +contextual (maxDischargeDepth := 99) [*]

@[simp ↓] theorem doReadIssue_holds (hcfe : Stable P .cfe) (hcat : Stable P .cat) (hpods : Stable P .pods) (hgau : Stable P .gau) (hstk : Stable P .stk) (hsfp : Stable P .sfp) (hmsc : Stable P .msc) (hcru : Stable P .cru) (hod : Stable P .od) (hscratch : Stable P .scratch) (htiles : Stable P .tiles) (hmq : Stable P .mq) (hev : Stable P .ev) (a0) (a1) (a2) (hs : Holds P s) : Holds P (doReadIssue a0 a1 a2 s) := by
  unfold doReadIssue
  repeat' first
    | (extract_lets +onlyGivenNames x
       first
       | (have hx : Holds P x := by (simp only [x]; repeat' split) <;> simp +contextual (maxDischargeDepth := 99) [*]
          clear_value x)
       | (have hx : HoldsF P x := by (simp only [x]; repeat' split) <;> simp +contextual (maxDischargeDepth := 99) [*]
          clear_value x)
       | (have hx : HoldsG P x := by (simp only [x]; repeat' split) <;> simp +contextual (maxDischargeDepth := 99) [*]
          clear_value x)
       | (have hx : HoldsO P x := by (simp only [x]; repeat' split) <;> simp +contextual (maxDischargeDepth := 99) [*]
          clear_value x)
       | (have hx : HoldsL P x := by (simp only [x]; repeat' split) <;> simp +contextual (maxDischargeDepth := 99) [*]
          clear_value x)
       | (have hx : ∀ t, Holds P t → Holds P (x t) := by intro t ht; (simp only [x]; repeat' split) <;> simp +contextual (maxDischargeDepth := 99) [*]
          clear_value x)
       | (have hx : ∀ a t, Holds P t → Holds P (x a t) := by intro a t ht; (simp only [x]; repeat' split) <;> simp +contextual (maxDischargeDepth := 99) [*]
          clear_value x)
       | clear_value x)
    | split
  all_goals first
    | simp +contextual (maxDischargeDepth := 99) [*]
    | (have ht := ofO (P := P) ‹(_ : Option State) = some _›; simp +contextual (maxDischargeDepth := 99) [*])
    | (have ht := ofF (P := P) ‹(_ : State × _) = (_, _)›; simp +contextual (maxDischargeDepth := 99) [*])
    | (have ht := ofG (P := P) ‹(_ : _ × State) = (_, _)›; simp +contextual (maxDischargeDepth := 99) [*])
    | (have ht := ofV_ready (P := P) ‹(_ : PrepRes) = .ready _ _›; simp +contextual (maxDischargeDepth := 99) [*])
    | (have ht := ofV_wait (P := P) ‹(_ : PrepRes) = .wait _›; simp +contextual (maxDischargeDepth := 99) [*])
    | (have ht := ofV_fault (P := P) ‹(_ : PrepRes) = .fault _ _›; simp +contextual (maxDischargeDepth := 99) [*])
    | (have ht := ofU_done (P := P) ‹(_ : PutRes) = .done _›; simp +contextual (maxDischargeDepth := 99) [*])
    | (have ht := ofU_wait (P := P) ‹(_ : PutRes) = .wait _›; simp +contextual (maxDischargeDepth := 99) [*])
    | (have ht := ofU_pend (P := P) ‹(_ : PutRes) = .pend _ _›; simp +contextual (maxDischargeDepth := 99) [*])

@[simp ↓] theorem execReadIssue_holds (hcfe : Stable P .cfe) (hcat : Stable P .cat) (hpods : Stable P .pods) (hgau : Stable P .gau) (hstk : Stable P .stk) (hsfp : Stable P .sfp) (hmsc : Stable P .msc) (hcru : Stable P .cru) (hod : Stable P .od) (hscratch : Stable P .scratch) (htiles : Stable P .tiles) (hmq : Stable P .mq) (hev : Stable P .ev) (a0) (a1) (a2) (hs : Holds P s) : HoldsR P (execReadIssue a0 a1 a2 s) := by
  unfold execReadIssue
  refine HoldsR.next ?_
  simp +contextual (maxDischargeDepth := 99) [*]

@[simp ↓] theorem leafReady_holds (hcfe : Stable P .cfe) (hpods : Stable P .pods) (hgau : Stable P .gau) (a0) (a1) (a2) (a3) (a4) (hs : Holds P s) : Holds P (leafReady a0 a1 a2 a3 a4 s) := by
  unfold leafReady
  simp +contextual (maxDischargeDepth := 99) [*]

@[simp ↓] theorem leafAbsent_holds (hcfe : Stable P .cfe) (hcat : Stable P .cat) (hpods : Stable P .pods) (hgau : Stable P .gau) (hstk : Stable P .stk) (hmsc : Stable P .msc) (hcru : Stable P .cru) (hod : Stable P .od) (hscratch : Stable P .scratch) (htiles : Stable P .tiles) (hmq : Stable P .mq) (hev : Stable P .ev) (a0) (a1) (a2) (a3) (hs : Holds P s) : Holds P (leafAbsent a0 a1 a2 a3 s) := by
  unfold leafAbsent
  (repeat' split) <;> simp +contextual (maxDischargeDepth := 99) [*]

@[simp ↓] theorem reread_holds (hcfe : Stable P .cfe) (hcat : Stable P .cat) (hpods : Stable P .pods) (hgau : Stable P .gau) (hstk : Stable P .stk) (hmsc : Stable P .msc) (hcru : Stable P .cru) (hod : Stable P .od) (hscratch : Stable P .scratch) (htiles : Stable P .tiles) (hmq : Stable P .mq) (hev : Stable P .ev) (a0) (a1) (a2) (a3) (hs : Holds P s) : Holds P (reread a0 a1 a2 a3 s) := by
  unfold reread
  repeat' first
    | (extract_lets +onlyGivenNames x
       first
       | (have hx : Holds P x := by (simp only [x]; repeat' split) <;> simp +contextual (maxDischargeDepth := 99) [*]
          clear_value x)
       | clear_value x)
    | split
  all_goals simp +contextual (maxDischargeDepth := 99) [*]

@[simp ↓] theorem gotShelfmark_holds (hcfe : Stable P .cfe) (hcat : Stable P .cat) (hpods : Stable P .pods) (hgau : Stable P .gau) (hstk : Stable P .stk) (hmsc : Stable P .msc) (hcru : Stable P .cru) (hod : Stable P .od) (hscratch : Stable P .scratch) (htiles : Stable P .tiles) (hmq : Stable P .mq) (hev : Stable P .ev) (a0) (a1) (a2) (a3) (a4) (hs : Holds P s) : Holds P (gotShelfmark a0 a1 a2 a3 a4 s) := by
  unfold gotShelfmark
  simp +contextual (maxDischargeDepth := 99) [*]

@[simp ↓] theorem gotRow_holds (hcfe : Stable P .cfe) (hcat : Stable P .cat) (hpods : Stable P .pods) (hgau : Stable P .gau) (hstk : Stable P .stk) (hmsc : Stable P .msc) (hcru : Stable P .cru) (hod : Stable P .od) (hscratch : Stable P .scratch) (htiles : Stable P .tiles) (hmq : Stable P .mq) (hev : Stable P .ev) (a0) (a1) (a2) (a3) (a4) (hs : Holds P s) : Holds P (gotRow a0 a1 a2 a3 a4 s) := by
  unfold gotRow
  simp +contextual (maxDischargeDepth := 99) [*]

@[simp ↓] theorem gotSide_holds (hcfe : Stable P .cfe) (hcat : Stable P .cat) (hpods : Stable P .pods) (hgau : Stable P .gau) (hstk : Stable P .stk) (hmsc : Stable P .msc) (hcru : Stable P .cru) (hod : Stable P .od) (hscratch : Stable P .scratch) (htiles : Stable P .tiles) (hmq : Stable P .mq) (hev : Stable P .ev) (a0) (a1) (a2) (a3) (a4) (hs : Holds P s) : Holds P (gotSide a0 a1 a2 a3 a4 s) := by
  unfold gotSide
  (repeat' split) <;> simp +contextual (maxDischargeDepth := 99) [*]

@[simp ↓] theorem readDone_holds (hcfe : Stable P .cfe) (hcat : Stable P .cat) (hpods : Stable P .pods) (hgau : Stable P .gau) (hstk : Stable P .stk) (hmsc : Stable P .msc) (hcru : Stable P .cru) (hod : Stable P .od) (hscratch : Stable P .scratch) (htiles : Stable P .tiles) (hmq : Stable P .mq) (hev : Stable P .ev) (a0) (a1) (a2) (a3) (a4) (hs : Holds P s) : Holds P (readDone a0 a1 a2 a3 a4 s) := by
  unfold readDone
  simp +contextual (maxDischargeDepth := 99) [*]

@[simp ↓] theorem askTwin_holds (hpods : Stable P .pods) (hsfp : Stable P .sfp) (hev : Stable P .ev) (a0) (a1) (a2) (a3) (a4) (hs : Holds P s) : Holds P (askTwin a0 a1 a2 a3 a4 s) := by
  unfold askTwin
  simp +contextual (maxDischargeDepth := 99) [*]

@[simp ↓] theorem twinMismatch_holds (hcfe : Stable P .cfe) (hcat : Stable P .cat) (hpods : Stable P .pods) (hgau : Stable P .gau) (hstk : Stable P .stk) (hsfp : Stable P .sfp) (hmsc : Stable P .msc) (hcru : Stable P .cru) (hod : Stable P .od) (hscratch : Stable P .scratch) (htiles : Stable P .tiles) (hmq : Stable P .mq) (hev : Stable P .ev) (a0) (a1) (a2) (a3) (a4) (hs : Holds P s) : Holds P (twinMismatch a0 a1 a2 a3 a4 s) := by
  unfold twinMismatch
  simp +contextual (maxDischargeDepth := 99) [*]

@[simp ↓] theorem twinCompare_holds (hcfe : Stable P .cfe) (hcat : Stable P .cat) (hpods : Stable P .pods) (hgau : Stable P .gau) (hstk : Stable P .stk) (hsfp : Stable P .sfp) (hmsc : Stable P .msc) (hcru : Stable P .cru) (hod : Stable P .od) (hscratch : Stable P .scratch) (htiles : Stable P .tiles) (hmq : Stable P .mq) (hev : Stable P .ev) (a0) (a1) (a2) (a3) (a4) (a5) (a6) (hs : Holds P s) : HoldsG P (twinCompare a0 a1 a2 a3 a4 a5 a6 s) := by
  unfold twinCompare
  repeat' first
    | (extract_lets +onlyGivenNames x
       first
       | (have hx : Holds P x := by (simp only [x]; repeat' split) <;> simp +contextual (maxDischargeDepth := 99) [*]
          clear_value x)
       | clear_value x)
    | split
  all_goals simp +contextual (maxDischargeDepth := 99) [*]

@[simp ↓] theorem twinCheck_holds (hcfe : Stable P .cfe) (hcat : Stable P .cat) (hpods : Stable P .pods) (hgau : Stable P .gau) (hstk : Stable P .stk) (hsfp : Stable P .sfp) (hmsc : Stable P .msc) (hcru : Stable P .cru) (hod : Stable P .od) (hscratch : Stable P .scratch) (htiles : Stable P .tiles) (hmq : Stable P .mq) (hev : Stable P .ev) (a0) (a1) (a2) (a3) (hs : Holds P s) : HoldsG P (twinCheck a0 a1 a2 a3 s) := by
  unfold twinCheck
  repeat' first
    | (extract_lets +onlyGivenNames x
       first
       | (have hx : Holds P x := by (simp only [x]; repeat' split) <;> simp +contextual (maxDischargeDepth := 99) [*]
          clear_value x)
       | clear_value x)
    | split
  all_goals simp +contextual (maxDischargeDepth := 99) [*]

@[simp ↓] theorem doRowReturn_holds (hcfe : Stable P .cfe) (hcat : Stable P .cat) (hpods : Stable P .pods) (hgau : Stable P .gau) (hstk : Stable P .stk) (hmss : Stable P .mss) (hsfp : Stable P .sfp) (hmsc : Stable P .msc) (hcru : Stable P .cru) (hod : Stable P .od) (hscratch : Stable P .scratch) (htiles : Stable P .tiles) (hmq : Stable P .mq) (hev : Stable P .ev) (a0) (a1) (hs : Holds P s) : Holds P (doRowReturn a0 a1 s) := by
  unfold doRowReturn
  split
  · exact hs
  · split
    · exact hs
    · extract_lets x
      have hx : HoldsF P x := by
        simp only [x]
        split <;> simp +contextual (maxDischargeDepth := 99) [*]
      clear_value x
      split
      · split
        · simp +contextual (maxDischargeDepth := 99) [*]
        · split
          · next e => exact ofG (P := P) e (by clear e; apply twinCheck_holds <;> assumption)
          · next e => have ht := ofG (P := P) e (by clear e; apply twinCheck_holds <;> assumption); simp +contextual (maxDischargeDepth := 99) [*]
      · simp +contextual (maxDischargeDepth := 99) [*]

@[simp ↓] theorem execRowReturn_holds (hcfe : Stable P .cfe) (hcat : Stable P .cat) (hpods : Stable P .pods) (hgau : Stable P .gau) (hstk : Stable P .stk) (hmss : Stable P .mss) (hsfp : Stable P .sfp) (hmsc : Stable P .msc) (hcru : Stable P .cru) (hod : Stable P .od) (hscratch : Stable P .scratch) (htiles : Stable P .tiles) (hmq : Stable P .mq) (hev : Stable P .ev) (a0) (a1) (hs : Holds P s) : HoldsR P (execRowReturn a0 a1 s) := by
  unfold execRowReturn
  refine HoldsR.next ?_
  simp +contextual (maxDischargeDepth := 99) [*]

@[simp ↓] theorem cbTouch_holds (hpods : Stable P .pods) (a0) (a1) (hs : Holds P s) : Holds P (cbTouch a0 a1 s) := by
  unfold cbTouch
  (repeat' split) <;> simp +contextual (maxDischargeDepth := 99) [*]

@[simp ↓] theorem askCb_holds (hpods : Stable P .pods) (a0) (a1) (a2) (hs : Holds P s) : Holds P (askCb a0 a1 a2 s) := by
  unfold askCb
  simp +contextual (maxDischargeDepth := 99) [*]

@[simp ↓] theorem cbUsed_holds (hpods : Stable P .pods) (a0) (a1) (hs : Holds P s) : Holds P (cbUsed a0 a1 s) := by
  unfold cbUsed
  simp +contextual (maxDischargeDepth := 99) [*]

@[simp ↓] theorem cbFill_holds (hcfe : Stable P .cfe) (hcat : Stable P .cat) (hpods : Stable P .pods) (hgau : Stable P .gau) (hstk : Stable P .stk) (hmsc : Stable P .msc) (hcru : Stable P .cru) (hod : Stable P .od) (hscratch : Stable P .scratch) (htiles : Stable P .tiles) (hmq : Stable P .mq) (hev : Stable P .ev) (a0) (a1) (a2) (a3) (a4) (hs : Holds P s) : Holds P (cbFill a0 a1 a2 a3 a4 s) := by
  unfold cbFill
  (repeat' split) <;> simp +contextual (maxDischargeDepth := 99) [*]

@[simp ↓] theorem doCodebookLoad_holds (hcfe : Stable P .cfe) (hcat : Stable P .cat) (hpods : Stable P .pods) (hgau : Stable P .gau) (hstk : Stable P .stk) (hmsc : Stable P .msc) (hcru : Stable P .cru) (hod : Stable P .od) (hscratch : Stable P .scratch) (htiles : Stable P .tiles) (hmq : Stable P .mq) (hev : Stable P .ev) (a0) (a1) (a2) (a3) (hs : Holds P s) : Holds P (doCodebookLoad a0 a1 a2 a3 s) := by
  unfold doCodebookLoad
  repeat' first
    | (extract_lets +onlyGivenNames x
       first
       | (have hx : Holds P x := by (simp only [x]; repeat' split) <;> simp +contextual (maxDischargeDepth := 99) [*]
          clear_value x)
       | clear_value x)
    | split
  all_goals simp +contextual (maxDischargeDepth := 99) [*]

@[simp ↓] theorem execCodebookLoad_holds (hcfe : Stable P .cfe) (hcat : Stable P .cat) (hpods : Stable P .pods) (hgau : Stable P .gau) (hstk : Stable P .stk) (hmsc : Stable P .msc) (hcru : Stable P .cru) (hod : Stable P .od) (hscratch : Stable P .scratch) (htiles : Stable P .tiles) (hmq : Stable P .mq) (hev : Stable P .ev) (a0) (a1) (a2) (a3) (hs : Holds P s) : HoldsR P (execCodebookLoad a0 a1 a2 a3 s) := by
  unfold execCodebookLoad
  refine HoldsR.next ?_
  simp +contextual (maxDischargeDepth := 99) [*]

@[simp ↓] theorem takeOpen_holds (hpods : Stable P .pods) (a0) (a1) (a2) (hs : Holds P s) : HoldsO P (takeOpen a0 a1 a2 s) := by
  unfold takeOpen
  repeat' first
    | (extract_lets +onlyGivenNames x
       first
       | (have hx : Holds P x := by (simp only [x]; repeat' split) <;> simp +contextual (maxDischargeDepth := 99) [*]
          clear_value x)
       | clear_value x)
    | split
  all_goals simp +contextual (maxDischargeDepth := 99) [*]

@[simp ↓] theorem pushPooled_holds (hcfe : Stable P .cfe) (hpods : Stable P .pods) (htiles : Stable P .tiles) (a0) (a1) (a2) (a3) (a4) (a5) (hs : Holds P s) : Holds P (pushPooled a0 a1 a2 a3 a4 a5 s) := by
  unfold pushPooled
  simp +contextual (maxDischargeDepth := 99) [*]

@[simp ↓] theorem finishBag_holds (hcfe : Stable P .cfe) (hcat : Stable P .cat) (hpods : Stable P .pods) (hgau : Stable P .gau) (hstk : Stable P .stk) (hmsc : Stable P .msc) (hcru : Stable P .cru) (hod : Stable P .od) (hscratch : Stable P .scratch) (htiles : Stable P .tiles) (hmq : Stable P .mq) (hev : Stable P .ev) (a0) (a1) (a2) (hs : Holds P s) : Holds P (finishBag a0 a1 a2 s) := by
  unfold finishBag
  repeat' first
    | (extract_lets +onlyGivenNames x
       first
       | (have hx : Holds P x := by (simp only [x]; repeat' split) <;> simp +contextual (maxDischargeDepth := 99) [*]
          clear_value x)
       | clear_value x)
    | split
  all_goals simp +contextual (maxDischargeDepth := 99) [*]

@[simp ↓] theorem passAborted_holds (hcfe : Stable P .cfe) (hcat : Stable P .cat) (hpods : Stable P .pods) (hgau : Stable P .gau) (hstk : Stable P .stk) (hmsc : Stable P .msc) (hcru : Stable P .cru) (hod : Stable P .od) (hscratch : Stable P .scratch) (htiles : Stable P .tiles) (hmq : Stable P .mq) (hev : Stable P .ev) (a0) (a1) (a2) (hs : Holds P s) : Holds P (passAborted a0 a1 a2 s) := by
  unfold passAborted
  simp +contextual (maxDischargeDepth := 99) [*]

@[simp ↓] theorem doLeafPool_holds (hcfe : Stable P .cfe) (hcat : Stable P .cat) (hpods : Stable P .pods) (hgau : Stable P .gau) (hstk : Stable P .stk) (hmsc : Stable P .msc) (hcru : Stable P .cru) (hod : Stable P .od) (hscratch : Stable P .scratch) (htiles : Stable P .tiles) (hmq : Stable P .mq) (hev : Stable P .ev) (a0) (a1) (a2) (hs : Holds P s) : Holds P (doLeafPool a0 a1 a2 s) := by
  unfold doLeafPool
  split
  · simp +contextual (maxDischargeDepth := 99) [*]
  · split
    · exact hs
    · apply withHq_holds <;> try assumption
      intro s0 h0
      apply withHq_holds <;> try assumption
      intro s h
      split
      · exact h
      · next e =>
        have h1 := ofO (P := P) e (by simp +contextual (maxDischargeDepth := 99) [*])
        extract_lets p
        split
        · split <;> simp +contextual (maxDischargeDepth := 99) [*]
        · extract_lets b' ends s2
          have h2 : Holds P s2 := by simp only [s2]; simp +contextual (maxDischargeDepth := 99) [*]
          split
          · exact h
          · split <;> simp +contextual (maxDischargeDepth := 99) [*]
  · exact hs

@[simp ↓] theorem execLeafPool_holds (hcfe : Stable P .cfe) (hcat : Stable P .cat) (hpods : Stable P .pods) (hgau : Stable P .gau) (hstk : Stable P .stk) (hmsc : Stable P .msc) (hcru : Stable P .cru) (hod : Stable P .od) (hscratch : Stable P .scratch) (htiles : Stable P .tiles) (hmq : Stable P .mq) (hev : Stable P .ev) (a0) (a1) (a2) (hs : Holds P s) : HoldsR P (execLeafPool a0 a1 a2 s) := by
  unfold execLeafPool
  refine HoldsR.next ?_
  simp +contextual (maxDischargeDepth := 99) [*]

end Sys2Proof.Machine
end

