-- ==== Sys2Proof/Laws/KeepUpdate.lean ====
section
/-! SUPPORT. What the functions of Machine/Update.lean keep: one lemma each, for every predicate on states that
is stable under changes of the parts the function can reach. -/

namespace Sys2Proof.Machine

variable {P : State → Prop} {s : State}

@[simp ↓] theorem putRing_holds (hst : Stable P .st) (hs : Holds P s) : Holds P (putRing s) := by
  unfold putRing
  simp +contextual (maxDischargeDepth := 99) [*]

@[simp ↓] theorem putSender_holds (hst : Stable P .st) (a0) (hs : Holds P s) : Holds P (putSender a0 s) := by
  unfold putSender
  simp +contextual (maxDischargeDepth := 99) [*]

@[simp ↓] theorem intoRing_holds (hupu : Stable P .upu) (hst : Stable P .st) (a0) (hs : Holds P s) : Holds P (intoRing a0 s) := by
  unfold intoRing
  simp +contextual (maxDischargeDepth := 99) [*]

@[simp ↓] theorem showRing_holds (hod : Stable P .od) (hs : Holds P s) : Holds P (showRing s) := by
  unfold showRing
  simp +contextual (maxDischargeDepth := 99) [*]

@[simp ↓] theorem sendGrad_holds (hcfe : Stable P .cfe) (hpods : Stable P .pods) (a0) (a1) (hs : Holds P s) : Holds P (sendGrad a0 a1 s) := by
  unfold sendGrad
  simp +contextual (maxDischargeDepth := 99) [*]

@[simp ↓] theorem askUpdate_holds (hcat : Stable P .cat) (hod : Stable P .od) (a0) (a1) (hs : Holds P s) : Holds P (askUpdate a0 a1 s) := by
  unfold askUpdate
  repeat' first
    | (extract_lets +onlyGivenNames x
       first
       | (have hx : Holds P x := by (simp only [x]; repeat' split) <;> simp +contextual (maxDischargeDepth := 99) [*]
          clear_value x)
       | clear_value x)
    | split
  all_goals simp +contextual (maxDischargeDepth := 99) [*]

@[simp ↓] theorem windowRow_holds (hcfe : Stable P .cfe) (hcat : Stable P .cat) (hpods : Stable P .pods) (hgau : Stable P .gau) (hstk : Stable P .stk) (hmsc : Stable P .msc) (hcru : Stable P .cru) (hod : Stable P .od) (hscratch : Stable P .scratch) (htiles : Stable P .tiles) (hmq : Stable P .mq) (hev : Stable P .ev) (a0) (a1) (a2) (hs : Holds P s) : Holds P (windowRow a0 a1 a2 s) := by
  unfold windowRow
  repeat' first
    | (extract_lets +onlyGivenNames x
       first
       | (have hx : Holds P x := by (simp only [x]; repeat' split) <;> simp +contextual (maxDischargeDepth := 99) [*]
          clear_value x)
       | clear_value x)
    | split
  all_goals simp +contextual (maxDischargeDepth := 99) [*]

@[simp ↓] theorem flushDeep_holds (hcfe : Stable P .cfe) (hpods : Stable P .pods) (a0) (hs : Holds P s) : Holds P (flushDeep a0 s) := by
  unfold flushDeep
  (repeat' split) <;> simp +contextual (maxDischargeDepth := 99) [*]

@[simp ↓] theorem retirePodBags_holds (hcfe : Stable P .cfe) (hpods : Stable P .pods) (a0) (a1) (hs : Holds P s) : Holds P (retirePodBags a0 a1 s) := by
  unfold retirePodBags
  (repeat' split) <;> simp +contextual (maxDischargeDepth := 99) [*]

@[simp ↓] theorem closeWindow_holds (hcfe : Stable P .cfe) (hcat : Stable P .cat) (hpods : Stable P .pods) (hgau : Stable P .gau) (hstk : Stable P .stk) (hmsc : Stable P .msc) (hcru : Stable P .cru) (hod : Stable P .od) (hscratch : Stable P .scratch) (htiles : Stable P .tiles) (hmq : Stable P .mq) (hev : Stable P .ev) (a0) (a1) (hs : Holds P s) : Holds P (closeWindow a0 a1 s) := by
  unfold closeWindow
  simp +contextual (maxDischargeDepth := 99) [*]

@[simp ↓] theorem doUpdateWindowClose_holds (hcfe : Stable P .cfe) (hcat : Stable P .cat) (hpods : Stable P .pods) (hgau : Stable P .gau) (hstk : Stable P .stk) (hmsc : Stable P .msc) (hcru : Stable P .cru) (hod : Stable P .od) (hscratch : Stable P .scratch) (htiles : Stable P .tiles) (hmq : Stable P .mq) (hev : Stable P .ev) (a0) (a1) (hs : Holds P s) : Holds P (doUpdateWindowClose a0 a1 s) := by
  unfold doUpdateWindowClose
  (repeat' split) <;> simp +contextual (maxDischargeDepth := 99) [*]

@[simp ↓] theorem execUpdateWindowClose_holds (hcfe : Stable P .cfe) (hcat : Stable P .cat) (hpods : Stable P .pods) (hgau : Stable P .gau) (hstk : Stable P .stk) (hmsc : Stable P .msc) (hcru : Stable P .cru) (hod : Stable P .od) (hscratch : Stable P .scratch) (htiles : Stable P .tiles) (hmq : Stable P .mq) (hev : Stable P .ev) (a0) (a1) (hs : Holds P s) : HoldsR P (execUpdateWindowClose a0 a1 s) := by
  unfold execUpdateWindowClose
  refine HoldsR.next ?_
  simp +contextual (maxDischargeDepth := 99) [*]

@[simp ↓] theorem combineOne_holds (hcfe : Stable P .cfe) (hpods : Stable P .pods) (hod : Stable P .od) (a0) (a1) (hs : Holds P s) : Holds P (combineOne a0 a1 s) := by
  unfold combineOne
  repeat' first
    | (extract_lets +onlyGivenNames x
       first
       | (have hx : Holds P x := by (simp only [x]; repeat' split) <;> simp +contextual (maxDischargeDepth := 99) [*]
          clear_value x)
       | clear_value x)
    | split
  all_goals simp +contextual (maxDischargeDepth := 99) [*]

@[simp ↓] theorem doDeepCombine_holds (hcfe : Stable P .cfe) (hpods : Stable P .pods) (hod : Stable P .od) (a0) (a1) (hs : Holds P s) : Holds P (doDeepCombine a0 a1 s) := by
  unfold doDeepCombine
  (repeat' split) <;> simp +contextual (maxDischargeDepth := 99) [*]

@[simp ↓] theorem execDeepCombine_holds (hcfe : Stable P .cfe) (hpods : Stable P .pods) (hod : Stable P .od) (a0) (a1) (hs : Holds P s) : HoldsR P (execDeepCombine a0 a1 s) := by
  unfold execDeepCombine
  refine HoldsR.next ?_
  simp +contextual (maxDischargeDepth := 99) [*]

@[simp ↓] theorem rowsDone_holds (hcfe : Stable P .cfe) (hmq : Stable P .mq) (a0) (hs : Holds P s) : Holds P (rowsDone a0 s) := by
  unfold rowsDone
  (repeat' split) <;> simp +contextual (maxDischargeDepth := 99) [*]

@[simp ↓] theorem packFor_holds (hcfe : Stable P .cfe) (hcat : Stable P .cat) (hpods : Stable P .pods) (hgau : Stable P .gau) (hstk : Stable P .stk) (hmsc : Stable P .msc) (hcru : Stable P .cru) (hod : Stable P .od) (hscratch : Stable P .scratch) (htiles : Stable P .tiles) (hmq : Stable P .mq) (hev : Stable P .ev) (a0) (a1) (a2) (a3) (hs : Holds P s) : Holds P (packFor a0 a1 a2 a3 s) := by
  unfold packFor
  simp +contextual (maxDischargeDepth := 99) [*]

@[simp ↓] theorem packGrad_holds (hcfe : Stable P .cfe) (hcat : Stable P .cat) (hpods : Stable P .pods) (hgau : Stable P .gau) (hstk : Stable P .stk) (hmsc : Stable P .msc) (hcru : Stable P .cru) (hod : Stable P .od) (hscratch : Stable P .scratch) (htiles : Stable P .tiles) (hmq : Stable P .mq) (hev : Stable P .ev) (a0) (a1) (hs : Holds P s) : Holds P (packGrad a0 a1 s) := by
  unfold packGrad
  simp +contextual (maxDischargeDepth := 99) [*]

@[simp ↓] theorem packOne_holds (hcfe : Stable P .cfe) (hcat : Stable P .cat) (hpods : Stable P .pods) (hgau : Stable P .gau) (hstk : Stable P .stk) (hmsc : Stable P .msc) (hcru : Stable P .cru) (hod : Stable P .od) (hscratch : Stable P .scratch) (htiles : Stable P .tiles) (hmq : Stable P .mq) (hev : Stable P .ev) (a0) (hs : Holds P s) : Holds P (packOne a0 s) := by
  unfold packOne
  (repeat' split) <;> simp +contextual (maxDischargeDepth := 99) [*]

@[simp ↓] theorem execRowGradientPack_holds (hcfe : Stable P .cfe) (hcat : Stable P .cat) (hpods : Stable P .pods) (hgau : Stable P .gau) (hstk : Stable P .stk) (hmsc : Stable P .msc) (hcru : Stable P .cru) (hod : Stable P .od) (hscratch : Stable P .scratch) (htiles : Stable P .tiles) (hmq : Stable P .mq) (hev : Stable P .ev) (a0) (hs : Holds P s) : HoldsR P (execRowGradientPack a0 s) := by
  unfold execRowGradientPack
  refine HoldsR.next ?_
  simp +contextual (maxDischargeDepth := 99) [*]

@[simp ↓] theorem retain_holds (hupu : Stable P .upu) (hsfp : Stable P .sfp) (hst : Stable P .st) (hev : Stable P .ev) (a0) (a1) (a2) (hs : Holds P s) : Holds P (retain a0 a1 a2 s) := by
  unfold retain
  simp +contextual (maxDischargeDepth := 99) [*]

@[simp ↓] theorem releaseTask_holds (hcfe : Stable P .cfe) (hupu : Stable P .upu) (hsfp : Stable P .sfp) (hod : Stable P .od) (hmq : Stable P .mq) (hst : Stable P .st) (hev : Stable P .ev) (a0) (hs : Holds P s) : Holds P (releaseTask a0 s) := by
  unfold releaseTask
  simp +contextual (maxDischargeDepth := 99) [*]

@[simp ↓] theorem doParcelRelease_holds (hcfe : Stable P .cfe) (hupu : Stable P .upu) (hsfp : Stable P .sfp) (hod : Stable P .od) (hmq : Stable P .mq) (hst : Stable P .st) (hev : Stable P .ev) (a0) (hs : Holds P s) : Holds P (doParcelRelease a0 s) := by
  unfold doParcelRelease
  (repeat' split) <;> simp +contextual (maxDischargeDepth := 99) [*]

@[simp ↓] theorem execParcelRelease_holds (hcfe : Stable P .cfe) (hupu : Stable P .upu) (hsfp : Stable P .sfp) (hod : Stable P .od) (hmq : Stable P .mq) (hst : Stable P .st) (hev : Stable P .ev) (a0) (hs : Holds P s) : HoldsR P (execParcelRelease a0 s) := by
  unfold execParcelRelease
  refine HoldsR.next ?_
  simp +contextual (maxDischargeDepth := 99) [*]

end Sys2Proof.Machine
end

