-- ==== Sys2Proof/Laws/KeepQuantise.lean ====
section
/-! SUPPORT. What the functions of Machine/Quantise.lean keep: one lemma each, for every predicate on states that
is stable under changes of the parts the function can reach. -/

namespace Sys2Proof.Machine

variable {P : State → Prop} {s : State}

/-- P holds of the state in the outcome of putting a row. -/
def HoldsU (P : State → Prop) : PutRes → Prop
  | .done t => Holds P t
  | .wait t => Holds P t
  | .pend _ t => Holds P t

@[simp ↓] theorem holdsU_done {t : State} (h : Holds P t) : HoldsU P (.done t) := h
@[simp ↓] theorem holdsU_wait {t : State} (h : Holds P t) : HoldsU P (.wait t) := h
@[simp ↓] theorem holdsU_pend {t : State} (w : Nat) (h : Holds P t) : HoldsU P (.pend w t) := h
theorem ofU_done {r : PutRes} {t : State} (e : r = .done t) (h : HoldsU P r) : Holds P t := by subst e; exact h
theorem ofU_wait {r : PutRes} {t : State} (e : r = .wait t) (h : HoldsU P r) : Holds P t := by subst e; exact h
theorem ofU_pend {r : PutRes} {t : State} {w : Nat} (e : r = .pend w t) (h : HoldsU P r) : Holds P t := by subst e; exact h

/-- P holds of the state in the outcome of preparing a row. -/
def HoldsV (P : State → Prop) : PrepRes → Prop
  | .ready _ t => Holds P t
  | .wait t => Holds P t
  | .fault _ t => Holds P t

@[simp ↓] theorem holdsV_ready {t : State} (r : RowImage) (h : Holds P t) : HoldsV P (.ready r t) := h
@[simp ↓] theorem holdsV_wait {t : State} (h : Holds P t) : HoldsV P (.wait t) := h
@[simp ↓] theorem holdsV_fault {t : State} (f : Flt) (h : Holds P t) : HoldsV P (.fault f t) := h
theorem ofV_ready {r : PrepRes} {i : RowImage} {t : State} (e : r = .ready i t) (h : HoldsV P r) : Holds P t := by subst e; exact h
theorem ofV_wait {r : PrepRes} {t : State} (e : r = .wait t) (h : HoldsV P r) : Holds P t := by subst e; exact h
theorem ofV_fault {r : PrepRes} {f : Flt} {t : State} (e : r = .fault f t) (h : HoldsV P r) : Holds P t := by subst e; exact h

@[simp ↓] theorem countFor_holds (hcfe : Stable P .cfe) (a0) (a1) (a2) (hs : Holds P s) : Holds P (countFor a0 a1 a2 s) := by
  unfold countFor
  (repeat' split) <;> simp +contextual (maxDischargeDepth := 99) [*]

@[simp ↓] theorem countStored_holds (hpods : Stable P .pods) (hgau : Stable P .gau) (hod : Stable P .od) (a0) (a1) (a2) (hs : Holds P s) : Holds P (countStored a0 a1 a2 s) := by
  unfold countStored
  simp +contextual (maxDischargeDepth := 99) [*]

@[simp ↓] theorem readRow_holds (hcfe : Stable P .cfe) (hcat : Stable P .cat) (hpods : Stable P .pods) (hgau : Stable P .gau) (hstk : Stable P .stk) (hmss : Stable P .mss) (hhpt : Stable P .hpt) (hmsc : Stable P .msc) (hcru : Stable P .cru) (hod : Stable P .od) (hscratch : Stable P .scratch) (htiles : Stable P .tiles) (hmq : Stable P .mq) (hev : Stable P .ev) (a0) (a1) (a2) (a3) (hs : Holds P s) : HoldsG P (readRow a0 a1 a2 a3 s) := by
  unfold readRow
  repeat' first
    | (extract_lets +onlyGivenNames x
       first
       | (have hx : Holds P x := by (simp only [x]; repeat' split) <;> simp +contextual (maxDischargeDepth := 99) [*]
          clear_value x)
       | (have hx : HoldsF P x := by (simp only [x]; repeat' split) <;> simp +contextual (maxDischargeDepth := 99) [*]
          clear_value x)
       | (have hx : HoldsG P x := by (simp only [x]; repeat' split) <;> simp +contextual (maxDischargeDepth := 99) [*]
          clear_value x)
       | (have hx : HoldsO P x := by (simp only [x]; repeat' split) <;> simp +contextual (maxDischargeDepth := 99) [*]
          clear_value x)
       | (have hx : HoldsL P x := by (simp only [x]; repeat' split) <;> simp +contextual (maxDischargeDepth := 99) [*]
          clear_value x)
       | (have hx : ∀ t, Holds P t → Holds P (x t) := by intro t ht; (simp only [x]; repeat' split) <;> simp +contextual (maxDischargeDepth := 99) [*]
          clear_value x)
       | (have hx : ∀ a t, Holds P t → Holds P (x a t) := by intro a t ht; (simp only [x]; repeat' split) <;> simp +contextual (maxDischargeDepth := 99) [*]
          clear_value x)
       | clear_value x)
    | split
  all_goals first
    | simp +contextual (maxDischargeDepth := 99) [*]
    | (have ht := ofO (P := P) ‹(_ : Option State) = some _›; simp +contextual (maxDischargeDepth := 99) [*])
    | (have ht := ofF (P := P) ‹(_ : State × _) = (_, _)›; simp +contextual (maxDischargeDepth := 99) [*])
    | (have ht := ofG (P := P) ‹(_ : _ × State) = (_, _)›; simp +contextual (maxDischargeDepth := 99) [*])
    | (have ht := ofV_ready (P := P) ‹(_ : PrepRes) = .ready _ _›; simp +contextual (maxDischargeDepth := 99) [*])
    | (have ht := ofV_wait (P := P) ‹(_ : PrepRes) = .wait _›; simp +contextual (maxDischargeDepth := 99) [*])
    | (have ht := ofV_fault (P := P) ‹(_ : PrepRes) = .fault _ _›; simp +contextual (maxDischargeDepth := 99) [*])
    | (have ht := ofU_done (P := P) ‹(_ : PutRes) = .done _›; simp +contextual (maxDischargeDepth := 99) [*])
    | (have ht := ofU_wait (P := P) ‹(_ : PutRes) = .wait _›; simp +contextual (maxDischargeDepth := 99) [*])
    | (have ht := ofU_pend (P := P) ‹(_ : PutRes) = .pend _ _›; simp +contextual (maxDischargeDepth := 99) [*])

@[simp ↓] theorem putRow_holds (hcat : Stable P .cat) (hpods : Stable P .pods) (hstk : Stable P .stk) (hsfp : Stable P .sfp) (hod : Stable P .od) (hpw : Stable P .pw) (hst : Stable P .st) (hev : Stable P .ev) (a0) (a1) (a2) (a3) (a4) (hs : Holds P s) : HoldsU P (putRow a0 a1 a2 a3 a4 s) := by
  unfold putRow
  extract_lets x t base live sideOk old put m tier
  have hput : ∀ t, Holds P t → Holds P (put t) := by
    intro t ht
    simp only [put]
    split <;> simp +contextual (maxDischargeDepth := 99) [*]
  clear_value put
  split
  · simp +contextual (maxDischargeDepth := 99) [*]
  · split
    · simp +contextual (maxDischargeDepth := 99) [*]
    · split
      · simp +contextual (maxDischargeDepth := 99) [*]
      · split
        · split <;> simp +contextual (maxDischargeDepth := 99) [*]
        · have ho : HoldsQ P (beginShelved a0.idx x base a0.pos tier a1 a2 a4 s) := by simp +contextual (maxDischargeDepth := 99) [*]
          generalize beginShelved _ _ _ _ _ _ _ _ _ = o at ho ⊢
          cases o with
          | none => dsimp only; split <;> simp +contextual (maxDischargeDepth := 99) [*]
          | some w => exact ho _ _ rfl

@[simp ↓] theorem prepRow_holds (hcfe : Stable P .cfe) (hcat : Stable P .cat) (hpods : Stable P .pods) (hgau : Stable P .gau) (hstk : Stable P .stk) (hmss : Stable P .mss) (hhpt : Stable P .hpt) (hmsc : Stable P .msc) (hcru : Stable P .cru) (hod : Stable P .od) (hscratch : Stable P .scratch) (htiles : Stable P .tiles) (hmq : Stable P .mq) (hev : Stable P .ev) (a0) (a1) (a2) (a3) (a4) (a5) (hs : Holds P s) : HoldsV P (prepRow a0 a1 a2 a3 a4 a5 s) := by
  unfold prepRow
  repeat' first
    | (extract_lets +onlyGivenNames x
       first
       | (have hx : Holds P x := by (simp only [x]; repeat' split) <;> simp +contextual (maxDischargeDepth := 99) [*]
          clear_value x)
       | (have hx : HoldsF P x := by (simp only [x]; repeat' split) <;> simp +contextual (maxDischargeDepth := 99) [*]
          clear_value x)
       | (have hx : HoldsG P x := by (simp only [x]; repeat' split) <;> simp +contextual (maxDischargeDepth := 99) [*]
          clear_value x)
       | (have hx : HoldsO P x := by (simp only [x]; repeat' split) <;> simp +contextual (maxDischargeDepth := 99) [*]
          clear_value x)
       | (have hx : HoldsL P x := by (simp only [x]; repeat' split) <;> simp +contextual (maxDischargeDepth := 99) [*]
          clear_value x)
       | (have hx : ∀ t, Holds P t → Holds P (x t) := by intro t ht; (simp only [x]; repeat' split) <;> simp +contextual (maxDischargeDepth := 99) [*]
          clear_value x)
       | (have hx : ∀ a t, Holds P t → Holds P (x a t) := by intro a t ht; (simp only [x]; repeat' split) <;> simp +contextual (maxDischargeDepth := 99) [*]
          clear_value x)
       | clear_value x)
    | split
  all_goals first
    | simp +contextual (maxDischargeDepth := 99) [*]
    | (have ht := ofO (P := P) ‹(_ : Option State) = some _›; simp +contextual (maxDischargeDepth := 99) [*])
    | (have ht := ofF (P := P) ‹(_ : State × _) = (_, _)›; simp +contextual (maxDischargeDepth := 99) [*])
    | (have ht := ofG (P := P) ‹(_ : _ × State) = (_, _)›; simp +contextual (maxDischargeDepth := 99) [*])
    | (have ht := ofV_ready (P := P) ‹(_ : PrepRes) = .ready _ _›; simp +contextual (maxDischargeDepth := 99) [*])
    | (have ht := ofV_wait (P := P) ‹(_ : PrepRes) = .wait _›; simp +contextual (maxDischargeDepth := 99) [*])
    | (have ht := ofV_fault (P := P) ‹(_ : PrepRes) = .fault _ _›; simp +contextual (maxDischargeDepth := 99) [*])
    | (have ht := ofU_done (P := P) ‹(_ : PutRes) = .done _›; simp +contextual (maxDischargeDepth := 99) [*])
    | (have ht := ofU_wait (P := P) ‹(_ : PutRes) = .wait _›; simp +contextual (maxDischargeDepth := 99) [*])
    | (have ht := ofU_pend (P := P) ‹(_ : PutRes) = .pend _ _›; simp +contextual (maxDischargeDepth := 99) [*])

end Sys2Proof.Machine
end

