-- ==== Sys2Proof/Laws/KeepLedger.lean ====
section
/-! SUPPORT. What the functions of Machine/Ledger.lean keep: one lemma each, for every predicate on states that
is stable under changes of the parts the function can reach. -/

namespace Sys2Proof.Machine

variable {P : State → Prop} {s : State}

/-- P holds of the state in the outcome of an entry. -/
def HoldsA (P : State → Prop) : ApplyRes → Prop
  | .done t => Holds P t
  | .wait t => Holds P t
  | .fault t => Holds P t

@[simp ↓] theorem holdsA_done {t : State} (h : Holds P t) : HoldsA P (.done t) := h
@[simp ↓] theorem holdsA_wait {t : State} (h : Holds P t) : HoldsA P (.wait t) := h
@[simp ↓] theorem holdsA_fault {t : State} (h : Holds P t) : HoldsA P (.fault t) := h
theorem ofA_done {r : ApplyRes} {t : State} (e : r = .done t) (h : HoldsA P r) : Holds P t := by subst e; exact h
theorem ofA_wait {r : ApplyRes} {t : State} (e : r = .wait t) (h : HoldsA P r) : Holds P t := by subst e; exact h
theorem ofA_fault {r : ApplyRes} {t : State} (e : r = .fault t) (h : HoldsA P r) : Holds P t := by subst e; exact h

@[simp ↓] theorem rowAcked_holds (hcfe : Stable P .cfe) (hmq : Stable P .mq) (a0) (hs : Holds P s) : Holds P (rowAcked a0 s) := by
  unfold rowAcked
  (repeat' split) <;> simp +contextual (maxDischargeDepth := 99) [*]

@[simp ↓] theorem taskAcked_holds (hcfe : Stable P .cfe) (hmq : Stable P .mq) (a0) (hs : Holds P s) : Holds P (taskAcked a0 s) := by
  unfold taskAcked
  repeat' first
    | (extract_lets +onlyGivenNames x
       first
       | (have hx : Holds P x := by (simp only [x]; repeat' split) <;> simp +contextual (maxDischargeDepth := 99) [*]
          clear_value x)
       | clear_value x)
    | split
  all_goals simp +contextual (maxDischargeDepth := 99) [*]

@[simp ↓] theorem waitFrom_holds (hupu : Stable P .upu) (a0) (hs : Holds P s) : Holds P (waitFrom a0 s) := by
  unfold waitFrom
  simp +contextual (maxDischargeDepth := 99) [*]

@[simp ↓] theorem ackRing_holds (hcfe : Stable P .cfe) (hupu : Stable P .upu) (hsfp : Stable P .sfp) (hod : Stable P .od) (hmq : Stable P .mq) (hst : Stable P .st) (hev : Stable P .ev) (a0) (a1) (hs : Holds P s) : Holds P (ackRing a0 a1 s) := by
  unfold ackRing
  (repeat' split) <;> simp +contextual (maxDischargeDepth := 99) [*]

@[simp ↓] theorem sayApplied_holds (hcfe : Stable P .cfe) (hupu : Stable P .upu) (hsfp : Stable P .sfp) (hod : Stable P .od) (hmq : Stable P .mq) (hst : Stable P .st) (hev : Stable P .ev) (a0) (hs : Holds P s) : Holds P (sayApplied a0 s) := by
  unfold sayApplied
  simp +contextual (maxDischargeDepth := 99) [*]

@[simp ↓] theorem journalTwin_holds (hsfp : Stable P .sfp) (hev : Stable P .ev) (a0) (hs : Holds P s) : Holds P (journalTwin a0 s) := by
  unfold journalTwin
  simp +contextual (maxDischargeDepth := 99) [*]

@[simp ↓] theorem putJournal_holds (hupu : Stable P .upu) (hsfp : Stable P .sfp) (hst : Stable P .st) (hev : Stable P .ev) (a0) (hs : Holds P s) : Holds P (putJournal a0 s) := by
  unfold putJournal
  simp +contextual (maxDischargeDepth := 99) [*]

@[simp ↓] theorem setHwm_holds (hupu : Stable P .upu) (hsfp : Stable P .sfp) (hst : Stable P .st) (hev : Stable P .ev) (a0) (a1) (hs : Holds P s) : Holds P (setHwm a0 a1 s) := by
  unfold setHwm
  simp +contextual (maxDischargeDepth := 99) [*]

@[simp ↓] theorem setIntake_holds (hupu : Stable P .upu) (hsfp : Stable P .sfp) (hst : Stable P .st) (hev : Stable P .ev) (a0) (hs : Holds P s) : Holds P (setIntake a0 s) := by
  unfold setIntake
  simp +contextual (maxDischargeDepth := 99) [*]

@[simp ↓] theorem tellForwarded_holds (hcfe : Stable P .cfe) (hupu : Stable P .upu) (hsfp : Stable P .sfp) (hod : Stable P .od) (hmq : Stable P .mq) (hst : Stable P .st) (hev : Stable P .ev) (hs : Holds P s) : Holds P (tellForwarded s) := by
  unfold tellForwarded
  simp +contextual (maxDischargeDepth := 99) [*]

@[simp ↓] theorem doParcelAckReceived_holds (hcfe : Stable P .cfe) (hcat : Stable P .cat) (hupu : Stable P .upu) (hsfp : Stable P .sfp) (hod : Stable P .od) (hmq : Stable P .mq) (hst : Stable P .st) (hev : Stable P .ev) (a0) (a1) (a2) (a3) (hs : Holds P s) : Holds P (doParcelAckReceived a0 a1 a2 a3 s) := by
  unfold doParcelAckReceived
  simp +contextual (maxDischargeDepth := 99) [*]

@[simp ↓] theorem execParcelAckReceived_holds (hcfe : Stable P .cfe) (hcat : Stable P .cat) (hupu : Stable P .upu) (hsfp : Stable P .sfp) (hod : Stable P .od) (hmq : Stable P .mq) (hst : Stable P .st) (hev : Stable P .ev) (a0) (a1) (a2) (a3) (hs : Holds P s) : HoldsR P (execParcelAckReceived a0 a1 a2 a3 s) := by
  unfold execParcelAckReceived
  refine HoldsR.next ?_
  simp +contextual (maxDischargeDepth := 99) [*]

@[simp ↓] theorem intoInbox_holds (hupu : Stable P .upu) (hod : Stable P .od) (a2 : State → State) (hf2 : ∀ t, Holds P t → Holds P (a2 t)) (a0) (a1) (hs : Holds P s) : Holds P (intoInbox a0 a1 a2 s) := by
  unfold intoInbox
  simp +contextual (maxDischargeDepth := 99) [*]

@[simp ↓] theorem countEntries_holds (hcat : Stable P .cat) (a0) (hs : Holds P s) : Holds P (countEntries a0 s) := by
  unfold countEntries
  simp +contextual (maxDischargeDepth := 99) [*]

@[simp ↓] theorem journalParcel_holds (hcat : Stable P .cat) (hupu : Stable P .upu) (hsfp : Stable P .sfp) (hst : Stable P .st) (hev : Stable P .ev) (a0) (a1) (hs : Holds P s) : Holds P (journalParcel a0 a1 s) := by
  unfold journalParcel
  simp +contextual (maxDischargeDepth := 99) [*]

@[simp ↓] theorem privRead_holds (hcfe : Stable P .cfe) (hcat : Stable P .cat) (hpods : Stable P .pods) (hgau : Stable P .gau) (hstk : Stable P .stk) (hmss : Stable P .mss) (hhpt : Stable P .hpt) (hmsc : Stable P .msc) (hcru : Stable P .cru) (hod : Stable P .od) (hscratch : Stable P .scratch) (htiles : Stable P .tiles) (hmq : Stable P .mq) (hev : Stable P .ev) (a0) (a1) (hs : Holds P s) : Holds P (privRead a0 a1 s) := by
  unfold privRead
  simp +contextual (maxDischargeDepth := 99) [*]

@[simp ↓] theorem readLedger_holds (hcfe : Stable P .cfe) (hcat : Stable P .cat) (hpods : Stable P .pods) (hgau : Stable P .gau) (hstk : Stable P .stk) (hmss : Stable P .mss) (hhpt : Stable P .hpt) (hmsc : Stable P .msc) (hcru : Stable P .cru) (hod : Stable P .od) (hscratch : Stable P .scratch) (htiles : Stable P .tiles) (hmq : Stable P .mq) (hev : Stable P .ev) (a0) (a1) (hs : Holds P s) : Holds P (readLedger a0 a1 s) := by
  unfold readLedger
  simp +contextual (maxDischargeDepth := 99) [*]

@[simp ↓] theorem holdRow_holds (hupu : Stable P .upu) (a0) (hs : Holds P s) : Holds P (holdRow a0 s) := by
  unfold holdRow
  simp +contextual (maxDischargeDepth := 99) [*]

@[simp ↓] theorem arriveSeq_holds (hcfe : Stable P .cfe) (hcat : Stable P .cat) (hpods : Stable P .pods) (hgau : Stable P .gau) (hstk : Stable P .stk) (hmss : Stable P .mss) (hupu : Stable P .upu) (hhpt : Stable P .hpt) (hsfp : Stable P .sfp) (hmsc : Stable P .msc) (hcru : Stable P .cru) (hod : Stable P .od) (hscratch : Stable P .scratch) (htiles : Stable P .tiles) (hmq : Stable P .mq) (hst : Stable P .st) (hev : Stable P .ev) (a0) (a1) (hs : Holds P s) : Holds P (arriveSeq a0 a1 s) := by
  unfold arriveSeq
  repeat' first
    | (extract_lets +onlyGivenNames x
       first
       | (have hx : Holds P x := by (simp only [x]; repeat' split) <;> simp +contextual (maxDischargeDepth := 99) [*]
          clear_value x)
       | clear_value x)
    | split
  all_goals simp +contextual (maxDischargeDepth := 99) [*]

@[simp ↓] theorem arrive_holds (hcfe : Stable P .cfe) (hcat : Stable P .cat) (hpods : Stable P .pods) (hgau : Stable P .gau) (hstk : Stable P .stk) (hmss : Stable P .mss) (hupu : Stable P .upu) (hhpt : Stable P .hpt) (hsfp : Stable P .sfp) (hmsc : Stable P .msc) (hcru : Stable P .cru) (hod : Stable P .od) (hscratch : Stable P .scratch) (htiles : Stable P .tiles) (hmq : Stable P .mq) (hst : Stable P .st) (hev : Stable P .ev) (a0) (hs : Holds P s) : Holds P (arrive a0 s) := by
  unfold arrive
  repeat' first
    | (extract_lets +onlyGivenNames x
       first
       | (have hx : Holds P x := by (simp only [x]; repeat' split) <;> simp +contextual (maxDischargeDepth := 99) [*]
          clear_value x)
       | clear_value x)
    | split
  all_goals simp +contextual (maxDischargeDepth := 99) [*]

@[simp ↓] theorem doParcelArrival_holds (hcfe : Stable P .cfe) (hcat : Stable P .cat) (hpods : Stable P .pods) (hgau : Stable P .gau) (hstk : Stable P .stk) (hmss : Stable P .mss) (hupu : Stable P .upu) (hhpt : Stable P .hpt) (hsfp : Stable P .sfp) (hmsc : Stable P .msc) (hcru : Stable P .cru) (hod : Stable P .od) (hscratch : Stable P .scratch) (htiles : Stable P .tiles) (hmq : Stable P .mq) (hst : Stable P .st) (hev : Stable P .ev) (a0) (a1) (hs : Holds P s) : Holds P (doParcelArrival a0 a1 s) := by
  unfold doParcelArrival
  simp +contextual (maxDischargeDepth := 99) [*]

@[simp ↓] theorem execParcelArrival_holds (hcfe : Stable P .cfe) (hcat : Stable P .cat) (hpods : Stable P .pods) (hgau : Stable P .gau) (hstk : Stable P .stk) (hmss : Stable P .mss) (hupu : Stable P .upu) (hhpt : Stable P .hpt) (hsfp : Stable P .sfp) (hmsc : Stable P .msc) (hcru : Stable P .cru) (hod : Stable P .od) (hscratch : Stable P .scratch) (htiles : Stable P .tiles) (hmq : Stable P .mq) (hst : Stable P .st) (hev : Stable P .ev) (a0) (a1) (hs : Holds P s) : HoldsR P (execParcelArrival a0 a1 s) := by
  unfold execParcelArrival
  refine HoldsR.next ?_
  simp +contextual (maxDischargeDepth := 99) [*]

@[simp ↓] theorem doEarlyParcelJournal_holds (hcat : Stable P .cat) (hupu : Stable P .upu) (hsfp : Stable P .sfp) (hst : Stable P .st) (hev : Stable P .ev) (a0) (hs : Holds P s) : Holds P (doEarlyParcelJournal a0 s) := by
  unfold doEarlyParcelJournal
  repeat' first
    | (extract_lets +onlyGivenNames x
       first
       | (have hx : Holds P x := by (simp only [x]; repeat' split) <;> simp +contextual (maxDischargeDepth := 99) [*]
          clear_value x)
       | clear_value x)
    | split
  all_goals simp +contextual (maxDischargeDepth := 99) [*]

@[simp ↓] theorem execEarlyParcelJournal_holds (hcat : Stable P .cat) (hupu : Stable P .upu) (hsfp : Stable P .sfp) (hst : Stable P .st) (hev : Stable P .ev) (a0) (hs : Holds P s) : HoldsR P (execEarlyParcelJournal a0 s) := by
  unfold execEarlyParcelJournal
  refine HoldsR.next ?_
  simp +contextual (maxDischargeDepth := 99) [*]

@[simp ↓] theorem doReceivedAbandon_holds (hupu : Stable P .upu) (hsfp : Stable P .sfp) (hst : Stable P .st) (hev : Stable P .ev) (a0) (a1) (hs : Holds P s) : Holds P (doReceivedAbandon a0 a1 s) := by
  unfold doReceivedAbandon
  (repeat' split) <;> simp +contextual (maxDischargeDepth := 99) [*]

@[simp ↓] theorem emitParcel_holds (hcfe : Stable P .cfe) (hcat : Stable P .cat) (hpods : Stable P .pods) (hgau : Stable P .gau) (hstk : Stable P .stk) (hmss : Stable P .mss) (hupu : Stable P .upu) (hhpt : Stable P .hpt) (hsfp : Stable P .sfp) (hmsc : Stable P .msc) (hcru : Stable P .cru) (hod : Stable P .od) (hscratch : Stable P .scratch) (htiles : Stable P .tiles) (hmq : Stable P .mq) (hst : Stable P .st) (hev : Stable P .ev) (a0) (hs : Holds P s) : Holds P (emitParcel a0 s) := by
  unfold emitParcel
  simp +contextual (maxDischargeDepth := 99) [*]

@[simp ↓] theorem markSent_holds (hupu : Stable P .upu) (a0) (a1) (hs : Holds P s) : Holds P (markSent a0 a1 s) := by
  unfold markSent
  simp +contextual (maxDischargeDepth := 99) [*]

@[simp ↓] theorem sendNext_holds (hcfe : Stable P .cfe) (hcat : Stable P .cat) (hpods : Stable P .pods) (hgau : Stable P .gau) (hstk : Stable P .stk) (hmss : Stable P .mss) (hupu : Stable P .upu) (hhpt : Stable P .hpt) (hsfp : Stable P .sfp) (hmsc : Stable P .msc) (hcru : Stable P .cru) (hod : Stable P .od) (hscratch : Stable P .scratch) (htiles : Stable P .tiles) (hmq : Stable P .mq) (hst : Stable P .st) (hev : Stable P .ev) (a0) (hs : Holds P s) : Holds P (sendNext a0 s) := by
  unfold sendNext
  (repeat' split) <;> simp +contextual (maxDischargeDepth := 99) [*]

@[simp ↓] theorem doParcelSend_holds (hcfe : Stable P .cfe) (hcat : Stable P .cat) (hpods : Stable P .pods) (hgau : Stable P .gau) (hstk : Stable P .stk) (hmss : Stable P .mss) (hupu : Stable P .upu) (hhpt : Stable P .hpt) (hsfp : Stable P .sfp) (hmsc : Stable P .msc) (hcru : Stable P .cru) (hod : Stable P .od) (hscratch : Stable P .scratch) (htiles : Stable P .tiles) (hmq : Stable P .mq) (hst : Stable P .st) (hev : Stable P .ev) (a0) (hs : Holds P s) : Holds P (doParcelSend a0 s) := by
  unfold doParcelSend
  simp +contextual (maxDischargeDepth := 99) [*]

@[simp ↓] theorem execParcelSend_holds (hcfe : Stable P .cfe) (hcat : Stable P .cat) (hpods : Stable P .pods) (hgau : Stable P .gau) (hstk : Stable P .stk) (hmss : Stable P .mss) (hupu : Stable P .upu) (hhpt : Stable P .hpt) (hsfp : Stable P .sfp) (hmsc : Stable P .msc) (hcru : Stable P .cru) (hod : Stable P .od) (hscratch : Stable P .scratch) (htiles : Stable P .tiles) (hmq : Stable P .mq) (hst : Stable P .st) (hev : Stable P .ev) (a0) (hs : Holds P s) : HoldsR P (execParcelSend a0 s) := by
  unfold execParcelSend
  refine HoldsR.next ?_
  simp +contextual (maxDischargeDepth := 99) [*]

@[simp ↓] theorem resendKey_holds (hcfe : Stable P .cfe) (hcat : Stable P .cat) (hpods : Stable P .pods) (hgau : Stable P .gau) (hstk : Stable P .stk) (hmss : Stable P .mss) (hupu : Stable P .upu) (hhpt : Stable P .hpt) (hsfp : Stable P .sfp) (hmsc : Stable P .msc) (hcru : Stable P .cru) (hod : Stable P .od) (hscratch : Stable P .scratch) (htiles : Stable P .tiles) (hmq : Stable P .mq) (hst : Stable P .st) (hev : Stable P .ev) (a0) (hs : Holds P s) : Holds P (resendKey a0 s) := by
  unfold resendKey
  simp +contextual (maxDischargeDepth := 99) [*]

@[simp ↓] theorem resendOwner_holds (hcfe : Stable P .cfe) (hcat : Stable P .cat) (hpods : Stable P .pods) (hgau : Stable P .gau) (hstk : Stable P .stk) (hmss : Stable P .mss) (hupu : Stable P .upu) (hhpt : Stable P .hpt) (hsfp : Stable P .sfp) (hmsc : Stable P .msc) (hcru : Stable P .cru) (hod : Stable P .od) (hscratch : Stable P .scratch) (htiles : Stable P .tiles) (hmq : Stable P .mq) (hst : Stable P .st) (hev : Stable P .ev) (a0) (hs : Holds P s) : Holds P (resendOwner a0 s) := by
  unfold resendOwner
  simp +contextual (maxDischargeDepth := 99) [*]

@[simp ↓] theorem doParcelResendTimeout_holds (hcfe : Stable P .cfe) (hcat : Stable P .cat) (hpods : Stable P .pods) (hgau : Stable P .gau) (hstk : Stable P .stk) (hmss : Stable P .mss) (hupu : Stable P .upu) (hhpt : Stable P .hpt) (hsfp : Stable P .sfp) (hmsc : Stable P .msc) (hcru : Stable P .cru) (hod : Stable P .od) (hscratch : Stable P .scratch) (htiles : Stable P .tiles) (hmq : Stable P .mq) (hst : Stable P .st) (hev : Stable P .ev) (a0) (hs : Holds P s) : Holds P (doParcelResendTimeout a0 s) := by
  unfold doParcelResendTimeout
  simp +contextual (maxDischargeDepth := 99) [*]

@[simp ↓] theorem execParcelResendTimeout_holds (hcfe : Stable P .cfe) (hcat : Stable P .cat) (hpods : Stable P .pods) (hgau : Stable P .gau) (hstk : Stable P .stk) (hmss : Stable P .mss) (hupu : Stable P .upu) (hhpt : Stable P .hpt) (hsfp : Stable P .sfp) (hmsc : Stable P .msc) (hcru : Stable P .cru) (hod : Stable P .od) (hscratch : Stable P .scratch) (htiles : Stable P .tiles) (hmq : Stable P .mq) (hst : Stable P .st) (hev : Stable P .ev) (a0) (hs : Holds P s) : HoldsR P (execParcelResendTimeout a0 s) := by
  unfold execParcelResendTimeout
  refine HoldsR.next ?_
  simp +contextual (maxDischargeDepth := 99) [*]

@[simp ↓] theorem logHost_holds (hupu : Stable P .upu) (hst : Stable P .st) (a0) (a1) (a2) (hs : Holds P s) : Holds P (logHost a0 a1 a2 s) := by
  unfold logHost
  simp +contextual (maxDischargeDepth := 99) [*]

@[simp ↓] theorem ledgerStore_holds (hpods : Stable P .pods) (hupu : Stable P .upu) (hpw : Stable P .pw) (hst : Stable P .st) (a0) (a1) (a2) (hs : Holds P s) : Holds P (ledgerStore a0 a1 a2 s) := by
  unfold ledgerStore
  simp +contextual (maxDischargeDepth := 99) [*]

@[simp ↓] theorem rewriteHostlog_holds (hpods : Stable P .pods) (hpw : Stable P .pw) (hst : Stable P .st) (hs : Holds P s) : Holds P (rewriteHostlog s) := by
  unfold rewriteHostlog
  simp +contextual (maxDischargeDepth := 99) [*]

@[simp ↓] theorem commitComp_holds (hpods : Stable P .pods) (hupu : Stable P .upu) (hsfp : Stable P .sfp) (hpw : Stable P .pw) (hst : Stable P .st) (hev : Stable P .ev) (a0) (a1) (a2) (hs : Holds P s) : Holds P (commitComp a0 a1 a2 s) := by
  unfold commitComp
  repeat' first
    | (extract_lets +onlyGivenNames x
       first
       | (have hx : Holds P x := by (simp only [x]; repeat' split) <;> simp +contextual (maxDischargeDepth := 99) [*]
          clear_value x)
       | clear_value x)
    | split
  all_goals simp +contextual (maxDischargeDepth := 99) [*]

@[simp ↓] theorem commitRow_holds (hcat : Stable P .cat) (hpods : Stable P .pods) (hstk : Stable P .stk) (hupu : Stable P .upu) (hsfp : Stable P .sfp) (hpw : Stable P .pw) (hst : Stable P .st) (hev : Stable P .ev) (a0) (a1) (a2) (hs : Holds P s) : Holds P (commitRow a0 a1 a2 s) := by
  unfold commitRow
  (repeat' split) <;> simp +contextual (maxDischargeDepth := 99) [*]

@[simp ↓] theorem serve_holds (hcfe : Stable P .cfe) (hcat : Stable P .cat) (hpods : Stable P .pods) (hgau : Stable P .gau) (hstk : Stable P .stk) (hupu : Stable P .upu) (hsfp : Stable P .sfp) (hod : Stable P .od) (hpw : Stable P .pw) (hst : Stable P .st) (hev : Stable P .ev) (a0) (a1) (a2) (a3) (a4) (hs : Holds P s) : Holds P (serve a0 a1 a2 a3 a4 s) := by
  unfold serve
  repeat' first
    | (extract_lets +onlyGivenNames x
       first
       | (have hx : Holds P x := by (simp only [x]; repeat' split) <;> simp +contextual (maxDischargeDepth := 99) [*]
          clear_value x)
       | clear_value x)
    | split
  all_goals simp +contextual (maxDischargeDepth := 99) [*]

@[simp ↓] theorem updateEntry_holds (hcfe : Stable P .cfe) (hcat : Stable P .cat) (hpods : Stable P .pods) (hgau : Stable P .gau) (hstk : Stable P .stk) (hupu : Stable P .upu) (hsfp : Stable P .sfp) (hod : Stable P .od) (hpw : Stable P .pw) (hst : Stable P .st) (hev : Stable P .ev) (a0) (a1) (a2) (a3) (a4) (a5) (a6) (hs : Holds P s) : HoldsA P (updateEntry a0 a1 a2 a3 a4 a5 a6 s) := by
  unfold updateEntry
  repeat' first
    | (extract_lets +onlyGivenNames x
       first
       | (have hx : Holds P x := by (simp only [x]; repeat' split) <;> simp +contextual (maxDischargeDepth := 99) [*]
          clear_value x)
       | (have hx : HoldsF P x := by (simp only [x]; repeat' split) <;> simp +contextual (maxDischargeDepth := 99) [*]
          clear_value x)
       | (have hx : HoldsG P x := by (simp only [x]; repeat' split) <;> simp +contextual (maxDischargeDepth := 99) [*]
          clear_value x)
       | (have hx : HoldsO P x := by (simp only [x]; repeat' split) <;> simp +contextual (maxDischargeDepth := 99) [*]
          clear_value x)
       | (have hx : HoldsL P x := by (simp only [x]; repeat' split) <;> simp +contextual (maxDischargeDepth := 99) [*]
          clear_value x)
       | (have hx : ∀ t, Holds P t → Holds P (x t) := by intro t ht; (simp only [x]; repeat' split) <;> simp +contextual (maxDischargeDepth := 99) [*]
          clear_value x)
       | (have hx : ∀ a t, Holds P t → Holds P (x a t) := by intro a t ht; (simp only [x]; repeat' split) <;> simp +contextual (maxDischargeDepth := 99) [*]
          clear_value x)
       | clear_value x)
    | split
  all_goals first
    | simp +contextual (maxDischargeDepth := 99) [*]
    | (have ht := ofO (P := P) ‹(_ : Option State) = some _›; simp +contextual (maxDischargeDepth := 99) [*])
    | (have ht := ofF (P := P) ‹(_ : State × _) = (_, _)›; simp +contextual (maxDischargeDepth := 99) [*])
    | (have ht := ofG (P := P) ‹(_ : _ × State) = (_, _)›; simp +contextual (maxDischargeDepth := 99) [*])
    | (have ht := ofV_ready (P := P) ‹(_ : PrepRes) = .ready _ _›; simp +contextual (maxDischargeDepth := 99) [*])
    | (have ht := ofV_wait (P := P) ‹(_ : PrepRes) = .wait _›; simp +contextual (maxDischargeDepth := 99) [*])
    | (have ht := ofV_fault (P := P) ‹(_ : PrepRes) = .fault _ _›; simp +contextual (maxDischargeDepth := 99) [*])
    | (have ht := ofU_done (P := P) ‹(_ : PutRes) = .done _›; simp +contextual (maxDischargeDepth := 99) [*])
    | (have ht := ofU_wait (P := P) ‹(_ : PutRes) = .wait _›; simp +contextual (maxDischargeDepth := 99) [*])
    | (have ht := ofU_pend (P := P) ‹(_ : PutRes) = .pend _ _›; simp +contextual (maxDischargeDepth := 99) [*])

@[simp ↓] theorem writeEntry_holds (hcfe : Stable P .cfe) (hcat : Stable P .cat) (hpods : Stable P .pods) (hgau : Stable P .gau) (hstk : Stable P .stk) (hmss : Stable P .mss) (hupu : Stable P .upu) (hhpt : Stable P .hpt) (hsfp : Stable P .sfp) (hmsc : Stable P .msc) (hcru : Stable P .cru) (hod : Stable P .od) (hscratch : Stable P .scratch) (htiles : Stable P .tiles) (hmq : Stable P .mq) (hpw : Stable P .pw) (hst : Stable P .st) (hev : Stable P .ev) (a0) (a1) (a2) (a3) (a4) (a5) (a6) (a7) (hs : Holds P s) : HoldsA P (writeEntry a0 a1 a2 a3 a4 a5 a6 a7 s) := by
  unfold writeEntry
  extract_lets x d n size hasC ms cOld rOld src sa esc pod y s1 master st0 st state enc new count shelve direct log kind
  have hy : HoldsG P y := by simp only [y]; split <;> simp +contextual (maxDischargeDepth := 99) [*]
  have h1 : Holds P s1 := holdsG_snd hy
  clear_value s1 y new
  have hstate : ∀ t, Holds P t → Holds P (state t) := by
    intro t ht
    simp only [state]
    split <;> simp +contextual (maxDischargeDepth := 99) [*]
  clear_value state
  have hcount : ∀ t, Holds P t → Holds P (count t) := by
    intro t ht
    simp only [count]
    have h2 : Holds P (if cOld = true then odCount odUpuRowsFinished 1 t else t) := by split <;> simp +contextual (maxDischargeDepth := 99) [*]
    generalize (if cOld = true then odCount odUpuRowsFinished 1 t else t) = t1 at h2 ⊢
    cases enc <;> simp +contextual (maxDischargeDepth := 99) [*]
  clear_value count enc
  have hshelve : ∀ p t, Holds P t → HoldsA P (shelve p t) := by
    intro p t ht
    simp only [shelve]
    split <;> simp +contextual (maxDischargeDepth := 99) [*]
  clear_value shelve
  have hlog : ∀ t, Holds P t → Holds P (log t) := by
    intro t ht
    simp only [log]
    split <;> simp +contextual (maxDischargeDepth := 99) [*]
  clear_value log
  split
  · simp +contextual (maxDischargeDepth := 99) [*]
  · split
    · simp +contextual (maxDischargeDepth := 99) [*]
    · split
      · exact holdsA_done (hstate _ h1)
      · split
        · exact hshelve _ _ h1
        · have hu : HoldsU P (putRow a1 new.1 new.2 kind none s1) := by simp +contextual (maxDischargeDepth := 99) [*]
          generalize putRow a1 new.1 new.2 kind none s1 = p at hu ⊢
          cases p with
          | wait t => exact holdsA_wait hu
          | pend w t =>
            have ht : Holds P t := hu
            dsimp only
            split
            · exact holdsA_wait ht
            · exact hshelve _ _ ht
          | done t =>
            have hv : HoldsU P (putRow a1 new.1 new.2 kind none (log (state s1))) := by
              have := hlog _ (hstate _ h1)
              simp +contextual (maxDischargeDepth := 99) [*]
            dsimp only
            generalize putRow a1 new.1 new.2 kind none (log (state s1)) = q at hv ⊢
            cases q with
            | done u => exact holdsA_done (hcount _ hv)
            | wait u => exact holdsA_wait h1
            | pend w u => exact holdsA_wait h1

@[simp ↓] theorem strayEntry_holds (hod : Stable P .od) (hev : Stable P .ev) (a0) (a1) (a2) (hs : Holds P s) : Holds P (strayEntry a0 a1 a2 s) := by
  unfold strayEntry
  simp +contextual (maxDischargeDepth := 99) [*]

@[simp ↓] theorem useEntry_holds (hcat : Stable P .cat) (hod : Stable P .od) (a0) (a1) (hs : Holds P s) : Holds P (useEntry a0 a1 s) := by
  unfold useEntry
  simp +contextual (maxDischargeDepth := 99) [*]

@[simp ↓] theorem applyEntry_holds (hcfe : Stable P .cfe) (hcat : Stable P .cat) (hpods : Stable P .pods) (hgau : Stable P .gau) (hstk : Stable P .stk) (hmss : Stable P .mss) (hupu : Stable P .upu) (hhpt : Stable P .hpt) (hsfp : Stable P .sfp) (hmsc : Stable P .msc) (hcru : Stable P .cru) (hod : Stable P .od) (hscratch : Stable P .scratch) (htiles : Stable P .tiles) (hmq : Stable P .mq) (hpw : Stable P .pw) (hst : Stable P .st) (hev : Stable P .ev) (a0) (a1) (a2) (a3) (hs : Holds P s) : HoldsA P (applyEntry a0 a1 a2 a3 s) := by
  unfold applyEntry
  extract_lets t te s1
  have h1 : Holds P s1 := by simp only [s1]; simp +contextual (maxDischargeDepth := 99) [*]
  clear_value s1 te
  split
  · simp +contextual (maxDischargeDepth := 99) [*]
  · simp +contextual (maxDischargeDepth := 99) [*]
  · rename_i cx hc
    extract_lets rd size y
    have hrd : ∀ sp n t, Holds P t → HoldsG P (rd sp n t) := by
      intro sp n t ht
      simp only [rd]
      simp +contextual (maxDischargeDepth := 99) [*]
    clear_value rd
    have hy : HoldsG P y := hrd _ _ _ h1
    clear_value y
    split
    · simp +contextual (maxDischargeDepth := 99) [*]
    · split
      · simp +contextual (maxDischargeDepth := 99) [*]
      · split
        · simp +contextual (maxDischargeDepth := 99) [*]
        · split
          · simp +contextual (maxDischargeDepth := 99) [*]
          · split
            · simp +contextual (maxDischargeDepth := 99) [*]
            · split
              · simp +contextual (maxDischargeDepth := 99) [*]
              · have hb : ∀ r, cbHere cx s = some r → HoldsA P r := by
                  intro r e
                  simp only [cbHere] at e
                  split at e
                  · cases e
                  · generalize (if fmtIsCb (sdFmt cx.x) = true then cbSize cx.x else sdDim cx.x / 8) = n at e
                    split at e <;> cases e <;> simp +contextual (maxDischargeDepth := 99) [*]
                generalize cbHere cx s = o at hb ⊢
                cases o with
                | some r => exact hb _ rfl
                | none =>
                  dsimp only
                  split
                  · split
                    · simp +contextual (maxDischargeDepth := 99) [*]
                    · split
                      · simp +contextual (maxDischargeDepth := 99) [*]
                      · simp +contextual (maxDischargeDepth := 99) [*]
                  · rename_i spot hsp
                    split
                    · simp +contextual (maxDischargeDepth := 99) [*]
                    · have h2 := hrd spot (rowS cx.x) s1 h1
                      have h3 := hrd (compSpot te cx) size _ (holdsG_snd h2)
                      split <;> simp +contextual (maxDischargeDepth := 99) [*]
                    · split <;> simp +contextual (maxDischargeDepth := 99) [*]

@[simp ↓] theorem endParcel_holds (hupu : Stable P .upu) (hsfp : Stable P .sfp) (hst : Stable P .st) (hev : Stable P .ev) (a0) (hs : Holds P s) : Holds P (endParcel a0 s) := by
  unfold endParcel
  simp +contextual (maxDischargeDepth := 99) [*]

@[simp ↓] theorem parcelDone_holds (hcfe : Stable P .cfe) (hupu : Stable P .upu) (hsfp : Stable P .sfp) (hod : Stable P .od) (hmq : Stable P .mq) (hst : Stable P .st) (hev : Stable P .ev) (a0) (a1) (hs : Holds P s) : Holds P (parcelDone a0 a1 s) := by
  unfold parcelDone
  simp +contextual (maxDischargeDepth := 99) [*]

@[simp ↓] theorem applyFault_holds (hcfe : Stable P .cfe) (hcat : Stable P .cat) (hpods : Stable P .pods) (hgau : Stable P .gau) (hstk : Stable P .stk) (hupu : Stable P .upu) (hmsc : Stable P .msc) (hcru : Stable P .cru) (hod : Stable P .od) (hscratch : Stable P .scratch) (htiles : Stable P .tiles) (hmq : Stable P .mq) (hev : Stable P .ev) (a0) (a1) (hs : Holds P s) : Holds P (applyFault a0 a1 s) := by
  unfold applyFault
  simp +contextual (maxDischargeDepth := 99) [*]

@[simp ↓] theorem applyFrom_holds (hcfe : Stable P .cfe) (hcat : Stable P .cat) (hpods : Stable P .pods) (hgau : Stable P .gau) (hstk : Stable P .stk) (hmss : Stable P .mss) (hupu : Stable P .upu) (hhpt : Stable P .hpt) (hsfp : Stable P .sfp) (hmsc : Stable P .msc) (hcru : Stable P .cru) (hod : Stable P .od) (hscratch : Stable P .scratch) (htiles : Stable P .tiles) (hmq : Stable P .mq) (hpw : Stable P .pw) (hst : Stable P .st) (hev : Stable P .ev) (a0) (a1) (a2) (a3) (hs : Holds P s) : Holds P (applyFrom a0 a1 a2 a3 s) := by
  induction a2 generalizing a3 s with
  | nil => unfold applyFrom; simp +contextual (maxDischargeDepth := 99) [*]
  | cons e es ih =>
    unfold applyFrom
    extract_lets hold stamp
    have hhold : ∀ t, Holds P t → Holds P (hold t) := by
      intro t ht
      simp only [hold]
      simp +contextual (maxDischargeDepth := 99) [*]
    clear_value hold
    have ha : HoldsA P (applyEntry false a1.hdr stamp e s) := by simp +contextual (maxDischargeDepth := 99) [*]
    generalize applyEntry _ _ _ _ _ = o at ha ⊢
    cases o with
    | done t => have ht : Holds P t := ha; exact ih _ (by simp +contextual (maxDischargeDepth := 99) [*])
    | wait t => exact hhold _ ha
    | fault t => have ht : Holds P t := ha; simp +contextual (maxDischargeDepth := 99) [*]

@[simp ↓] theorem sayRow_holds (hsfp : Stable P .sfp) (hev : Stable P .ev) (a0) (hs : Holds P s) : Holds P (sayRow a0 s) := by
  unfold sayRow
  simp +contextual (maxDischargeDepth := 99) [*]

@[simp ↓] theorem runRow_holds (hcfe : Stable P .cfe) (hcat : Stable P .cat) (hpods : Stable P .pods) (hgau : Stable P .gau) (hstk : Stable P .stk) (hmss : Stable P .mss) (hhpt : Stable P .hpt) (hsfp : Stable P .sfp) (hmsc : Stable P .msc) (hcru : Stable P .cru) (hod : Stable P .od) (hscratch : Stable P .scratch) (htiles : Stable P .tiles) (hmq : Stable P .mq) (hpw : Stable P .pw) (hst : Stable P .st) (hev : Stable P .ev) (a0) (hs : Holds P s) : HoldsG P (runRow a0 s) := by
  unfold runRow
  extract_lets p h
  clear_value p h
  split
  · exact holdsG_mk hs
  · split
    · exact holdsG_mk (by simp +contextual (maxDischargeDepth := 99) [*])
    · exact holdsG_mk (by simp +contextual (maxDischargeDepth := 99) [*])
    · split
      · split
        · exact holdsG_mk hs
        · split <;> exact holdsG_mk (by simp +contextual (maxDischargeDepth := 99) [*])
      · extract_lets pod _
        split
        · exact holdsG_mk hs
        · generalize hq : prepRow _ _ _ _ _ _ _ = o
          have hv : HoldsV P o := by rw [← hq]; simp +contextual (maxDischargeDepth := 99) [*]
          cases o with
          | wait t => exact holdsG_mk hv
          | fault f t => exact holdsG_mk hv
          | ready r t =>
            have ht : Holds P t := hv
            dsimp only
            generalize hw : putRow _ _ _ _ _ _ = q
            have hu : HoldsU P q := by rw [← hw]; simp +contextual (maxDischargeDepth := 99) [*]
            cases q with
            | wait u => exact holdsG_mk hu
            | done u =>
              have hu' : Holds P u := hu
              cases r.enc <;> exact holdsG_mk (by simp +contextual (maxDischargeDepth := 99) [*])
            | pend w u =>
              have hu' : Holds P u := hu
              cases r.enc <;> exact holdsG_mk (by simp +contextual (maxDischargeDepth := 99) [*])

@[simp ↓] theorem runRows_holds (hcfe : Stable P .cfe) (hcat : Stable P .cat) (hpods : Stable P .pods) (hgau : Stable P .gau) (hstk : Stable P .stk) (hmss : Stable P .mss) (hupu : Stable P .upu) (hhpt : Stable P .hpt) (hsfp : Stable P .sfp) (hmsc : Stable P .msc) (hcru : Stable P .cru) (hod : Stable P .od) (hscratch : Stable P .scratch) (htiles : Stable P .tiles) (hmq : Stable P .mq) (hpw : Stable P .pw) (hst : Stable P .st) (hev : Stable P .ev) (hs : Holds P s) : Holds P (runRows s) := by
  unfold runRows
  extract_lets same r
  have hr : HoldsG P r := by
    refine foldlG_holds _ (fun y x hy => ?_) _ _ (holdsG_mk hs)
    split
    · exact hy
    · exact holdsG_mk (holdsG_snd (by simp +contextual (maxDischargeDepth := 99) [*]))
  simp +contextual (maxDischargeDepth := 99) [*]

@[simp ↓] theorem doParcelApply_holds (hcfe : Stable P .cfe) (hcat : Stable P .cat) (hpods : Stable P .pods) (hgau : Stable P .gau) (hstk : Stable P .stk) (hmss : Stable P .mss) (hupu : Stable P .upu) (hhpt : Stable P .hpt) (hsfp : Stable P .sfp) (hmsc : Stable P .msc) (hcru : Stable P .cru) (hod : Stable P .od) (hscratch : Stable P .scratch) (htiles : Stable P .tiles) (hmq : Stable P .mq) (hpw : Stable P .pw) (hst : Stable P .st) (hev : Stable P .ev) (hs : Holds P s) : Holds P (doParcelApply s) := by
  unfold doParcelApply
  repeat' first
    | (extract_lets +onlyGivenNames x
       first
       | (have hx : Holds P x := by (simp only [x]; repeat' split) <;> simp +contextual (maxDischargeDepth := 99) [*]
          clear_value x)
       | clear_value x)
    | split
  all_goals simp +contextual (maxDischargeDepth := 99) [*]

@[simp ↓] theorem faultOver_holds (hupu : Stable P .upu) (hmsc : Stable P .msc) (hs : Holds P s) : Holds P (faultOver s) := by
  unfold faultOver
  simp +contextual (maxDischargeDepth := 99) [*]

@[simp ↓] theorem doApplyFaultRepair_apply_holds (hcfe : Stable P .cfe) (hcat : Stable P .cat) (hpods : Stable P .pods) (hgau : Stable P .gau) (hstk : Stable P .stk) (hmss : Stable P .mss) (hupu : Stable P .upu) (hhpt : Stable P .hpt) (hsfp : Stable P .sfp) (hmsc : Stable P .msc) (hcru : Stable P .cru) (hod : Stable P .od) (hscratch : Stable P .scratch) (htiles : Stable P .tiles) (hmq : Stable P .mq) (hpw : Stable P .pw) (hst : Stable P .st) (hev : Stable P .ev) (a0) (a1) (a2) (hs : Holds P s) : Holds P (doApplyFaultRepair.apply a0 a1 a2 s) := by
  unfold doApplyFaultRepair.apply
  split
  · exact hs
  · split
    · next e =>
      have ht := ofA_done (P := P) e (by simp +contextual (maxDischargeDepth := 99) [*])
      simp +contextual (maxDischargeDepth := 99) [*]
    · next e => exact ofA_wait (P := P) e (by simp +contextual (maxDischargeDepth := 99) [*])
    · next e => exact ofA_fault (P := P) e (by simp +contextual (maxDischargeDepth := 99) [*])

@[simp ↓] theorem doApplyFaultRepair_holds (hcfe : Stable P .cfe) (hcat : Stable P .cat) (hpods : Stable P .pods) (hgau : Stable P .gau) (hstk : Stable P .stk) (hmss : Stable P .mss) (hupu : Stable P .upu) (hhpt : Stable P .hpt) (hsfp : Stable P .sfp) (hmsc : Stable P .msc) (hcru : Stable P .cru) (hod : Stable P .od) (hscratch : Stable P .scratch) (htiles : Stable P .tiles) (hmq : Stable P .mq) (hpw : Stable P .pw) (hst : Stable P .st) (hev : Stable P .ev) (a0) (hs : Holds P s) : Holds P (doApplyFaultRepair a0 s) := by
  unfold doApplyFaultRepair
  (repeat' split) <;> simp +contextual (maxDischargeDepth := 99) [*]

@[simp ↓] theorem doTwinMirroredParcel_holds (hupu : Stable P .upu) (hsfp : Stable P .sfp) (hst : Stable P .st) (hev : Stable P .ev) (a0) (a1) (a2) (hs : Holds P s) : Holds P (doTwinMirroredParcel a0 a1 a2 s) := by
  unfold doTwinMirroredParcel
  simp +contextual (maxDischargeDepth := 99) [*]

@[simp ↓] theorem execTwinMirroredParcel_holds (hupu : Stable P .upu) (hsfp : Stable P .sfp) (hst : Stable P .st) (hev : Stable P .ev) (a0) (a1) (a2) (hs : Holds P s) : HoldsR P (execTwinMirroredParcel a0 a1 a2 s) := by
  unfold execTwinMirroredParcel
  refine HoldsR.next ?_
  simp +contextual (maxDischargeDepth := 99) [*]

@[simp ↓] theorem doTwinPartnerReport_holds (hcfe : Stable P .cfe) (hcat : Stable P .cat) (hupu : Stable P .upu) (hsfp : Stable P .sfp) (hod : Stable P .od) (hmq : Stable P .mq) (hst : Stable P .st) (hev : Stable P .ev) (a0) (a1) (a2) (hs : Holds P s) : Holds P (doTwinPartnerReport a0 a1 a2 s) := by
  unfold doTwinPartnerReport
  (repeat' split) <;> simp +contextual (maxDischargeDepth := 99) [*]

@[simp ↓] theorem execTwinPartnerReport_holds (hcfe : Stable P .cfe) (hcat : Stable P .cat) (hupu : Stable P .upu) (hsfp : Stable P .sfp) (hod : Stable P .od) (hmq : Stable P .mq) (hst : Stable P .st) (hev : Stable P .ev) (a0) (a1) (a2) (hs : Holds P s) : HoldsR P (execTwinPartnerReport a0 a1 a2 s) := by
  unfold execTwinPartnerReport
  refine HoldsR.next ?_
  simp +contextual (maxDischargeDepth := 99) [*]

@[simp ↓] theorem doLedgerReady_holds (hcfe : Stable P .cfe) (hcat : Stable P .cat) (hpods : Stable P .pods) (hgau : Stable P .gau) (hstk : Stable P .stk) (hmss : Stable P .mss) (hupu : Stable P .upu) (hhpt : Stable P .hpt) (hsfp : Stable P .sfp) (hmsc : Stable P .msc) (hcru : Stable P .cru) (hod : Stable P .od) (hscratch : Stable P .scratch) (htiles : Stable P .tiles) (hmq : Stable P .mq) (hst : Stable P .st) (hev : Stable P .ev) (a0) (a1) (hs : Holds P s) : Holds P (doLedgerReady a0 a1 s) := by
  unfold doLedgerReady
  simp +contextual (maxDischargeDepth := 99) [*]

@[simp ↓] theorem streamLedger_holds (hsfp : Stable P .sfp) (hev : Stable P .ev) (hs : Holds P s) : Holds P (streamLedger s) := by
  unfold streamLedger
  simp +contextual (maxDischargeDepth := 99) [*]

@[simp ↓] theorem landLedger_holds (hupu : Stable P .upu) (hsfp : Stable P .sfp) (hod : Stable P .od) (hst : Stable P .st) (hev : Stable P .ev) (a0) (hs : Holds P s) : Holds P (landLedger a0 s) := by
  unfold landLedger
  repeat' first
    | (extract_lets +onlyGivenNames x
       first
       | (have hx : Holds P x := by (simp only [x]; repeat' split) <;> simp +contextual (maxDischargeDepth := 99) [*]
          clear_value x)
       | clear_value x)
    | split
  all_goals simp +contextual (maxDischargeDepth := 99) [*]

@[simp ↓] theorem emptyLedger_holds (hupu : Stable P .upu) (hs : Holds P s) : Holds P (emptyLedger s) := by
  unfold emptyLedger
  simp +contextual (maxDischargeDepth := 99) [*]

@[simp ↓] theorem ledgerRestart_holds (hcfe : Stable P .cfe) (hcat : Stable P .cat) (hpods : Stable P .pods) (hgau : Stable P .gau) (hstk : Stable P .stk) (hmss : Stable P .mss) (hupu : Stable P .upu) (hhpt : Stable P .hpt) (hsfp : Stable P .sfp) (hmsc : Stable P .msc) (hcru : Stable P .cru) (hod : Stable P .od) (hscratch : Stable P .scratch) (htiles : Stable P .tiles) (hmq : Stable P .mq) (hpw : Stable P .pw) (hst : Stable P .st) (hev : Stable P .ev) (a0) (hs : Holds P s) : Holds P (ledgerRestart a0 s) := by
  unfold ledgerRestart
  simp +contextual (maxDischargeDepth := 99) [*]

@[simp ↓] theorem dropStaging_holds (hcfe : Stable P .cfe) (hcat : Stable P .cat) (hpods : Stable P .pods) (hmq : Stable P .mq) (hev : Stable P .ev) (a0) (hs : Holds P s) : Holds P (dropStaging a0 s) := by
  unfold dropStaging
  simp +contextual (maxDischargeDepth := 99) [*]

@[simp ↓] theorem settle_holds (hcfe : Stable P .cfe) (hcat : Stable P .cat) (hpods : Stable P .pods) (hgau : Stable P .gau) (hstk : Stable P .stk) (hmss : Stable P .mss) (hupu : Stable P .upu) (hhpt : Stable P .hpt) (hsfp : Stable P .sfp) (hmsc : Stable P .msc) (hcru : Stable P .cru) (hod : Stable P .od) (hscratch : Stable P .scratch) (htiles : Stable P .tiles) (hmq : Stable P .mq) (hpw : Stable P .pw) (hst : Stable P .st) (hev : Stable P .ev) (a0 : State → State) (hf0 : ∀ t, Holds P t → Holds P (a0 t)) (hs : Holds P s) : Holds P (settle a0 s) := by
  unfold settle
  simp +contextual (maxDischargeDepth := 99) [*]

@[simp ↓] theorem execReceivedAbandon_holds (hcfe : Stable P .cfe) (hcat : Stable P .cat) (hpods : Stable P .pods) (hgau : Stable P .gau) (hstk : Stable P .stk) (hmss : Stable P .mss) (hupu : Stable P .upu) (hhpt : Stable P .hpt) (hsfp : Stable P .sfp) (hmsc : Stable P .msc) (hcru : Stable P .cru) (hod : Stable P .od) (hscratch : Stable P .scratch) (htiles : Stable P .tiles) (hmq : Stable P .mq) (hpw : Stable P .pw) (hst : Stable P .st) (hev : Stable P .ev) (a0) (a1) (hs : Holds P s) : HoldsR P (execReceivedAbandon a0 a1 s) := by
  unfold execReceivedAbandon
  refine HoldsR.next ?_
  simp +contextual (maxDischargeDepth := 99) [*]

@[simp ↓] theorem execParcelApply_holds (hcfe : Stable P .cfe) (hcat : Stable P .cat) (hpods : Stable P .pods) (hgau : Stable P .gau) (hstk : Stable P .stk) (hmss : Stable P .mss) (hupu : Stable P .upu) (hhpt : Stable P .hpt) (hsfp : Stable P .sfp) (hmsc : Stable P .msc) (hcru : Stable P .cru) (hod : Stable P .od) (hscratch : Stable P .scratch) (htiles : Stable P .tiles) (hmq : Stable P .mq) (hpw : Stable P .pw) (hst : Stable P .st) (hev : Stable P .ev) (hs : Holds P s) : HoldsR P (execParcelApply s) := by
  unfold execParcelApply
  refine HoldsR.next ?_
  simp +contextual (maxDischargeDepth := 99) [*]

@[simp ↓] theorem execApplyFaultRepair_holds (hcfe : Stable P .cfe) (hcat : Stable P .cat) (hpods : Stable P .pods) (hgau : Stable P .gau) (hstk : Stable P .stk) (hmss : Stable P .mss) (hupu : Stable P .upu) (hhpt : Stable P .hpt) (hsfp : Stable P .sfp) (hmsc : Stable P .msc) (hcru : Stable P .cru) (hod : Stable P .od) (hscratch : Stable P .scratch) (htiles : Stable P .tiles) (hmq : Stable P .mq) (hpw : Stable P .pw) (hst : Stable P .st) (hev : Stable P .ev) (a0) (hs : Holds P s) : HoldsR P (execApplyFaultRepair a0 s) := by
  unfold execApplyFaultRepair
  refine HoldsR.next ?_
  simp +contextual (maxDischargeDepth := 99) [*]

@[simp ↓] theorem execLedgerReady_holds (hcfe : Stable P .cfe) (hcat : Stable P .cat) (hpods : Stable P .pods) (hgau : Stable P .gau) (hstk : Stable P .stk) (hmss : Stable P .mss) (hupu : Stable P .upu) (hhpt : Stable P .hpt) (hsfp : Stable P .sfp) (hmsc : Stable P .msc) (hcru : Stable P .cru) (hod : Stable P .od) (hscratch : Stable P .scratch) (htiles : Stable P .tiles) (hmq : Stable P .mq) (hpw : Stable P .pw) (hst : Stable P .st) (hev : Stable P .ev) (a0) (a1) (hs : Holds P s) : HoldsR P (execLedgerReady a0 a1 s) := by
  unfold execLedgerReady
  refine HoldsR.next ?_
  simp +contextual (maxDischargeDepth := 99) [*]

end Sys2Proof.Machine
end

