-- ==== Sys2Proof/Laws/KeepRowWrite.lean ====
section
/-! SUPPORT. What the functions of Machine/RowWrite.lean keep: one lemma each, for every predicate on states that
is stable under changes of the parts the function can reach. -/

namespace Sys2Proof.Machine

variable {P : State → Prop} {s : State}

@[simp ↓] theorem nextRow_holds (hcfe : Stable P .cfe) (a0) (hs : Holds P s) : Holds P (nextRow a0 s) := by
  unfold nextRow
  simp +contextual (maxDischargeDepth := 99) [*]

@[simp ↓] theorem countRow_holds (hcfe : Stable P .cfe) (hpods : Stable P .pods) (hgau : Stable P .gau) (hod : Stable P .od) (a0) (a1) (a2) (a3) (hs : Holds P s) : Holds P (countRow a0 a1 a2 a3 s) := by
  unfold countRow
  (repeat' split) <;> simp +contextual (maxDischargeDepth := 99) [*]

@[simp ↓] theorem writeHere_holds (hcfe : Stable P .cfe) (hcat : Stable P .cat) (hpods : Stable P .pods) (hgau : Stable P .gau) (hstk : Stable P .stk) (hmss : Stable P .mss) (hhpt : Stable P .hpt) (hsfp : Stable P .sfp) (hmsc : Stable P .msc) (hcru : Stable P .cru) (hod : Stable P .od) (hscratch : Stable P .scratch) (htiles : Stable P .tiles) (hmq : Stable P .mq) (hpw : Stable P .pw) (hst : Stable P .st) (hev : Stable P .ev) (a0) (a1) (a2) (a3) (hs : Holds P s) : HoldsF P (writeHere a0 a1 a2 a3 s) := by
  unfold writeHere
  extract_lets pod
  have hv : HoldsV P (prepRow pod a2 (rwQuant a0.desc) (rwReplace a0.desc || a0.rescale) a3 (some a0.id) s) := by simp +contextual (maxDischargeDepth := 99) [*]
  generalize prepRow _ _ _ _ _ _ _ = o at hv ⊢
  cases o with
  | wait t => exact holdsF_mk hv
  | fault f t => have ht : Holds P t := hv; exact holdsF_mk (by simp +contextual (maxDischargeDepth := 99) [*])
  | ready r t =>
    have ht : Holds P t := hv
    have hu : HoldsU P (putRow a2 r.bytes r.side .output (some a0.id) t) := by simp +contextual (maxDischargeDepth := 99) [*]
    dsimp only
    generalize putRow _ _ _ _ _ _ = p at hu ⊢
    cases p with
    | done u => have hu' : Holds P u := hu; exact holdsF_mk (by simp +contextual (maxDischargeDepth := 99) [*])
    | pend w u => have hu' : Holds P u := hu; exact holdsF_mk (by simp +contextual (maxDischargeDepth := 99) [*])
    | wait u => exact holdsF_mk hu

@[simp ↓] theorem writeThere_holds (hcfe : Stable P .cfe) (hsfp : Stable P .sfp) (hev : Stable P .ev) (a0) (a1) (a2) (hs : Holds P s) : Holds P (writeThere a0 a1 a2 s) := by
  unfold writeThere
  repeat' first
    | (extract_lets +onlyGivenNames x
       first
       | (have hx : Holds P x := by (simp only [x]; repeat' split) <;> simp +contextual (maxDischargeDepth := 99) [*]
          clear_value x)
       | clear_value x)
    | split
  all_goals simp +contextual (maxDischargeDepth := 99) [*]

@[simp ↓] theorem writeRow_holds (hcfe : Stable P .cfe) (hcat : Stable P .cat) (hpods : Stable P .pods) (hgau : Stable P .gau) (hstk : Stable P .stk) (hmss : Stable P .mss) (hhpt : Stable P .hpt) (hsfp : Stable P .sfp) (hmsc : Stable P .msc) (hcru : Stable P .cru) (hod : Stable P .od) (hscratch : Stable P .scratch) (htiles : Stable P .tiles) (hmq : Stable P .mq) (hpw : Stable P .pw) (hst : Stable P .st) (hev : Stable P .ev) (a0) (a1) (hs : Holds P s) : HoldsF P (writeRow a0 a1 s) := by
  unfold writeRow
  repeat' first
    | (extract_lets +onlyGivenNames x
       first
       | (have hx : Holds P x := by (simp only [x]; repeat' split) <;> simp +contextual (maxDischargeDepth := 99) [*]
          clear_value x)
       | clear_value x)
    | split
  all_goals simp +contextual (maxDischargeDepth := 99) [*]

@[simp ↓] theorem writeRows_holds (hcfe : Stable P .cfe) (hcat : Stable P .cat) (hpods : Stable P .pods) (hgau : Stable P .gau) (hstk : Stable P .stk) (hmss : Stable P .mss) (hhpt : Stable P .hpt) (hsfp : Stable P .sfp) (hmsc : Stable P .msc) (hcru : Stable P .cru) (hod : Stable P .od) (hscratch : Stable P .scratch) (htiles : Stable P .tiles) (hmq : Stable P .mq) (hpw : Stable P .pw) (hst : Stable P .st) (hev : Stable P .ev) (a0) (a1) (hs : Holds P s) : Holds P (writeRows a0 a1 s) := by
  induction a1 generalizing s with
  | zero => unfold writeRows; exact hs
  | succ n ih =>
    unfold writeRows
    split
    · exact hs
    · extract_lets x
      have hx : HoldsF P x := by simp only [x]; simp +contextual (maxDischargeDepth := 99) [*]
      clear_value x
      split
      · exact hs
      · split
        · exact ih (by simp +contextual (maxDischargeDepth := 99) [*])
        · exact hx

@[simp ↓] theorem sendAll_holds (hcfe : Stable P .cfe) (hcat : Stable P .cat) (hpods : Stable P .pods) (hgau : Stable P .gau) (hstk : Stable P .stk) (hmss : Stable P .mss) (hupu : Stable P .upu) (hhpt : Stable P .hpt) (hsfp : Stable P .sfp) (hmsc : Stable P .msc) (hcru : Stable P .cru) (hod : Stable P .od) (hscratch : Stable P .scratch) (htiles : Stable P .tiles) (hmq : Stable P .mq) (hst : Stable P .st) (hev : Stable P .ev) (a0) (hs : Holds P s) : Holds P (sendAll a0 s) := by
  induction a0 generalizing s with
  | zero => unfold sendAll; exact hs
  | succ n ih => unfold sendAll; exact ih (by simp +contextual (maxDischargeDepth := 99) [*])

@[simp ↓] theorem doRowWrite_holds (hcfe : Stable P .cfe) (hcat : Stable P .cat) (hpods : Stable P .pods) (hgau : Stable P .gau) (hstk : Stable P .stk) (hmss : Stable P .mss) (hupu : Stable P .upu) (hhpt : Stable P .hpt) (hsfp : Stable P .sfp) (hmsc : Stable P .msc) (hcru : Stable P .cru) (hod : Stable P .od) (hscratch : Stable P .scratch) (htiles : Stable P .tiles) (hmq : Stable P .mq) (hpw : Stable P .pw) (hst : Stable P .st) (hev : Stable P .ev) (a0) (hs : Holds P s) : Holds P (doRowWrite a0 s) := by
  unfold doRowWrite
  (repeat' split) <;> simp +contextual (maxDischargeDepth := 99) [*]

@[simp ↓] theorem execRowWrite_holds (hcfe : Stable P .cfe) (hcat : Stable P .cat) (hpods : Stable P .pods) (hgau : Stable P .gau) (hstk : Stable P .stk) (hmss : Stable P .mss) (hupu : Stable P .upu) (hhpt : Stable P .hpt) (hsfp : Stable P .sfp) (hmsc : Stable P .msc) (hcru : Stable P .cru) (hod : Stable P .od) (hscratch : Stable P .scratch) (htiles : Stable P .tiles) (hmq : Stable P .mq) (hpw : Stable P .pw) (hst : Stable P .st) (hev : Stable P .ev) (a0) (hs : Holds P s) : HoldsR P (execRowWrite a0 s) := by
  unfold execRowWrite
  refine HoldsR.next ?_
  simp +contextual (maxDischargeDepth := 99) [*]

@[simp ↓] theorem doShelvedRowCommit_holds (hcfe : Stable P .cfe) (hcat : Stable P .cat) (hpods : Stable P .pods) (hstk : Stable P .stk) (hsfp : Stable P .sfp) (hod : Stable P .od) (hmq : Stable P .mq) (hpw : Stable P .pw) (hst : Stable P .st) (hev : Stable P .ev) (a0) (hs : Holds P s) : Holds P (doShelvedRowCommit a0 s) := by
  unfold doShelvedRowCommit
  (repeat' split) <;> simp +contextual (maxDischargeDepth := 99) [*]

@[simp ↓] theorem execShelvedRowCommit_holds (hcfe : Stable P .cfe) (hcat : Stable P .cat) (hpods : Stable P .pods) (hstk : Stable P .stk) (hsfp : Stable P .sfp) (hod : Stable P .od) (hmq : Stable P .mq) (hpw : Stable P .pw) (hst : Stable P .st) (hev : Stable P .ev) (a0) (hs : Holds P s) : HoldsR P (execShelvedRowCommit a0 s) := by
  unfold execShelvedRowCommit
  refine HoldsR.next ?_
  simp +contextual (maxDischargeDepth := 99) [*]

@[simp ↓] theorem doSlotQuarantineEnd_holds (hcat : Stable P .cat) (hpods : Stable P .pods) (hsfp : Stable P .sfp) (hod : Stable P .od) (hpw : Stable P .pw) (hst : Stable P .st) (hev : Stable P .ev) (a0) (hs : Holds P s) : Holds P (doSlotQuarantineEnd a0 s) := by
  unfold doSlotQuarantineEnd
  simp +contextual (maxDischargeDepth := 99) [*]

@[simp ↓] theorem execSlotQuarantineEnd_holds (hcat : Stable P .cat) (hpods : Stable P .pods) (hsfp : Stable P .sfp) (hod : Stable P .od) (hpw : Stable P .pw) (hst : Stable P .st) (hev : Stable P .ev) (a0) (hs : Holds P s) : HoldsR P (execSlotQuarantineEnd a0 s) := by
  unfold execSlotQuarantineEnd
  refine HoldsR.next ?_
  simp +contextual (maxDischargeDepth := 99) [*]

@[simp ↓] theorem slotringApply_holds (hcat : Stable P .cat) (hpods : Stable P .pods) (hsfp : Stable P .sfp) (hod : Stable P .od) (hpw : Stable P .pw) (hst : Stable P .st) (hev : Stable P .ev) (a0) (a1) (hs : Holds P s) : HoldsO P (slotringApply a0 a1 s) := by
  unfold slotringApply
  repeat' first
    | (extract_lets +onlyGivenNames x
       first
       | (have hx : Holds P x := by (simp only [x]; repeat' split) <;> simp +contextual (maxDischargeDepth := 99) [*]
          clear_value x)
       | clear_value x)
    | split
  all_goals simp +contextual (maxDischargeDepth := 99) [*]

@[simp ↓] theorem doCatSlotringWrite_holds (hcat : Stable P .cat) (hpods : Stable P .pods) (hsfp : Stable P .sfp) (hcru : Stable P .cru) (hod : Stable P .od) (hout : Stable P .out) (hpw : Stable P .pw) (hst : Stable P .st) (hev : Stable P .ev) (a0) (a1) (a2) (hs : Holds P s) : Holds P (doCatSlotringWrite a0 a1 a2 s) := by
  unfold doCatSlotringWrite
  simp +contextual (maxDischargeDepth := 99) [*]

@[simp ↓] theorem execCatSlotringWrite_holds (hcat : Stable P .cat) (hpods : Stable P .pods) (hsfp : Stable P .sfp) (hcru : Stable P .cru) (hod : Stable P .od) (hout : Stable P .out) (hpw : Stable P .pw) (hst : Stable P .st) (hev : Stable P .ev) (a0) (a1) (a2) (hs : Holds P s) : HoldsR P (execCatSlotringWrite a0 a1 a2 s) := by
  unfold execCatSlotringWrite
  refine HoldsR.next ?_
  simp +contextual (maxDischargeDepth := 99) [*]

@[simp ↓] theorem doHeatWindowBoundary_holds (hpods : Stable P .pods) (hod : Stable P .od) (hs : Holds P s) : Holds P (doHeatWindowBoundary s) := by
  unfold doHeatWindowBoundary
  simp +contextual (maxDischargeDepth := 99) [*]

@[simp ↓] theorem execHeatWindowBoundary_holds (hpods : Stable P .pods) (hod : Stable P .od) (hs : Holds P s) : HoldsR P (execHeatWindowBoundary s) := by
  unfold execHeatWindowBoundary
  refine HoldsR.next ?_
  simp +contextual (maxDischargeDepth := 99) [*]

@[simp ↓] theorem heatQueryApply_holds (hod : Stable P .od) (a0) (hs : Holds P s) : HoldsO P (heatQueryApply a0 s) := by
  unfold heatQueryApply
  (repeat' split) <;> simp +contextual (maxDischargeDepth := 99) [*]

@[simp ↓] theorem execIxuHeatQuery_holds (hcru : Stable P .cru) (hod : Stable P .od) (hout : Stable P .out) (a0) (a1) (hs : Holds P s) : HoldsR P (execIxuHeatQuery a0 a1 s) := by
  unfold execIxuHeatQuery
  refine HoldsR.next ?_
  simp +contextual (maxDischargeDepth := 99) [*]

end Sys2Proof.Machine
end

