-- ==== Sys2Proof/Laws/KeepTelemetry.lean ====
section
/-! SUPPORT. What the functions of Machine/Telemetry.lean keep: one lemma each, for every predicate on states that
is stable under changes of the parts the function can reach. -/

namespace Sys2Proof.Machine

variable {P : State → Prop} {s : State}

@[simp ↓] theorem telVisible_holds (hcfe : Stable P .cfe) (a0) (hs : Holds P s) : Holds P (telVisible a0 s) := by
  unfold telVisible
  simp +contextual (maxDischargeDepth := 99) [*]

@[simp ↓] theorem telWrite_holds (hcfe : Stable P .cfe) (hpods : Stable P .pods) (hscratch : Stable P .scratch) (htiles : Stable P .tiles) (hpw : Stable P .pw) (hpo : Stable P .po) (hst : Stable P .st) (a0) (a1) (a2) (hs : Holds P s) : Holds P (telWrite a0 a1 a2 s) := by
  unfold telWrite
  simp +contextual (maxDischargeDepth := 99) [*]

@[simp ↓] theorem telReset_holds (hcfe : Stable P .cfe) (hhpt : Stable P .hpt) (hmsc : Stable P .msc) (hod : Stable P .od) (hev : Stable P .ev) (a0) (hs : Holds P s) : Holds P (telReset a0 s) := by
  unfold telReset
  simp +contextual (maxDischargeDepth := 99) [*]

@[simp ↓] theorem telCheck_holds (hcfe : Stable P .cfe) (hhpt : Stable P .hpt) (hmsc : Stable P .msc) (hod : Stable P .od) (hev : Stable P .ev) (a0) (hs : Holds P s) : Holds P (telCheck a0 s) := by
  unfold telCheck
  simp +contextual (maxDischargeDepth := 99) [*]

@[simp ↓] theorem telAcked_holds (hcfe : Stable P .cfe) (hhpt : Stable P .hpt) (hmsc : Stable P .msc) (hod : Stable P .od) (hev : Stable P .ev) (a0) (hs : Holds P s) : Holds P (telAcked a0 s) := by
  unfold telAcked
  simp +contextual (maxDischargeDepth := 99) [*]

@[simp ↓] theorem telGap_holds (hcfe : Stable P .cfe) (hpods : Stable P .pods) (hhpt : Stable P .hpt) (hmsc : Stable P .msc) (hod : Stable P .od) (hscratch : Stable P .scratch) (htiles : Stable P .tiles) (hpw : Stable P .pw) (hpo : Stable P .po) (hst : Stable P .st) (hev : Stable P .ev) (a0) (hs : Holds P s) : Holds P (telGap a0 s) := by
  unfold telGap
  simp +contextual (maxDischargeDepth := 99) [*]

@[simp ↓] theorem telEntry_holds (hcfe : Stable P .cfe) (hpods : Stable P .pods) (hhpt : Stable P .hpt) (hmsc : Stable P .msc) (hod : Stable P .od) (hscratch : Stable P .scratch) (htiles : Stable P .tiles) (hpw : Stable P .pw) (hpo : Stable P .po) (hst : Stable P .st) (hev : Stable P .ev) (a0) (a1) (hs : Holds P s) : Holds P (telEntry a0 a1 s) := by
  unfold telEntry
  simp +contextual (maxDischargeDepth := 99) [*]

@[simp ↓] theorem telBoundary_holds (hcfe : Stable P .cfe) (hpods : Stable P .pods) (hhpt : Stable P .hpt) (hmsc : Stable P .msc) (hod : Stable P .od) (hscratch : Stable P .scratch) (htiles : Stable P .tiles) (hpw : Stable P .pw) (hpo : Stable P .po) (hst : Stable P .st) (hev : Stable P .ev) (a0) (hs : Holds P s) : Holds P (telBoundary a0 s) := by
  unfold telBoundary
  simp +contextual (maxDischargeDepth := 99) [*]

@[simp ↓] theorem telemetry_holds (hcfe : Stable P .cfe) (hpods : Stable P .pods) (hhpt : Stable P .hpt) (hmsc : Stable P .msc) (hod : Stable P .od) (hscratch : Stable P .scratch) (htiles : Stable P .tiles) (hpw : Stable P .pw) (hpo : Stable P .po) (hst : Stable P .st) (hev : Stable P .ev) (hs : Holds P s) : Holds P (telemetry s) := by
  unfold telemetry
  simp +contextual (maxDischargeDepth := 99) [*]

end Sys2Proof.Machine
end

