-- ==== Sys2Proof/Laws/KeepFolio.lean ====
section
/-! SUPPORT. What the functions of Machine/Folio.lean keep: one lemma each, for every predicate on states that
is stable under changes of the parts the function can reach. -/

namespace Sys2Proof.Machine

variable {P : State → Prop} {s : State}

@[simp ↓] theorem enterDegraded_holds (hfsu : Stable P .fsu) (hod : Stable P .od) (hev : Stable P .ev) (a0) (hs : Holds P s) : Holds P (enterDegraded a0 s) := by
  unfold enterDegraded
  simp +contextual (maxDischargeDepth := 99) [*]

@[simp ↓] theorem degrade_holds (hfsu : Stable P .fsu) (hod : Stable P .od) (hev : Stable P .ev) (a0) (hs : Holds P s) : Holds P (degrade a0 s) := by
  unfold degrade
  simp +contextual (maxDischargeDepth := 99) [*]

@[simp ↓] theorem endRun_holds (hfsu : Stable P .fsu) (hev : Stable P .ev) (hs : Holds P s) : Holds P (endRun s) := by
  unfold endRun
  simp +contextual (maxDischargeDepth := 99) [*]

@[simp ↓] theorem setCauses_holds (hfsu : Stable P .fsu) (hod : Stable P .od) (hev : Stable P .ev) (hs : Holds P s) : Holds P (setCauses s) := by
  unfold setCauses
  simp +contextual (maxDischargeDepth := 99) [*]

@[simp ↓] theorem mergeStats_holds (hst : Stable P .st) (hev : Stable P .ev) (a0) (a1) (a2) (a3) (hs : Holds P s) : Holds P (mergeStats a0 a1 a2 a3 s) := by
  unfold mergeStats
  simp +contextual (maxDischargeDepth := 99) [*]

@[simp ↓] theorem statsBoundary_holds (hpods : Stable P .pods) (hgau : Stable P .gau) (hst : Stable P .st) (hev : Stable P .ev) (a0) (hs : Holds P s) : Holds P (statsBoundary a0 s) := by
  unfold statsBoundary
  simp +contextual (maxDischargeDepth := 99) [*]

@[simp ↓] theorem residBoundary_holds (hgau : Stable P .gau) (hs : Holds P s) : Holds P (residBoundary s) := by
  unfold residBoundary
  simp +contextual (maxDischargeDepth := 99) [*]

@[simp ↓] theorem maxabsBoundary_holds (hgau : Stable P .gau) (hod : Stable P .od) (hs : Holds P s) : Holds P (maxabsBoundary s) := by
  unfold maxabsBoundary
  simp +contextual (maxDischargeDepth := 99) [*]

@[simp ↓] theorem mergeCirc_holds (hst : Stable P .st) (hev : Stable P .ev) (a0) (a1) (a2) (hs : Holds P s) : Holds P (mergeCirc a0 a1 a2 s) := by
  unfold mergeCirc
  simp +contextual (maxDischargeDepth := 99) [*]

@[simp ↓] theorem circBoundary_holds (hcat : Stable P .cat) (hst : Stable P .st) (hev : Stable P .ev) (a0) (hs : Holds P s) : Holds P (circBoundary a0 s) := by
  unfold circBoundary
  simp +contextual (maxDischargeDepth := 99) [*]

@[simp ↓] theorem strictAborts_holds (hcfe : Stable P .cfe) (hcat : Stable P .cat) (hpods : Stable P .pods) (hod : Stable P .od) (hmq : Stable P .mq) (hev : Stable P .ev) (hs : Holds P s) : Holds P (strictAborts s) := by
  unfold strictAborts
  simp +contextual (maxDischargeDepth := 99) [*]

@[simp ↓] theorem newBudgets_holds (hfsu : Stable P .fsu) (hod : Stable P .od) (hs : Holds P s) : Holds P (newBudgets s) := by
  unfold newBudgets
  simp +contextual (maxDischargeDepth := 99) [*]

@[simp ↓] theorem waitsTick_holds (hcfe : Stable P .cfe) (hs : Holds P s) : Holds P (waitsTick s) := by
  unfold waitsTick
  simp +contextual (maxDischargeDepth := 99) [*]

@[simp ↓] theorem sendMarkers_holds (hsfp : Stable P .sfp) (hs : Holds P s) : Holds P (sendMarkers s) := by
  unfold sendMarkers
  simp +contextual (maxDischargeDepth := 99) [*]

@[simp ↓] theorem sendFloors_holds (hsfp : Stable P .sfp) (hev : Stable P .ev) (hs : Holds P s) : Holds P (sendFloors s) := by
  unfold sendFloors
  (repeat' split) <;> simp +contextual (maxDischargeDepth := 99) [*]

@[simp ↓] theorem sendReport_holds (hsfp : Stable P .sfp) (hev : Stable P .ev) (hs : Holds P s) : Holds P (sendReport s) := by
  unfold sendReport
  simp +contextual (maxDischargeDepth := 99) [*]

@[simp ↓] theorem folioMessages_holds (hsfp : Stable P .sfp) (hev : Stable P .ev) (hs : Holds P s) : Holds P (folioMessages s) := by
  unfold folioMessages
  simp +contextual (maxDischargeDepth := 99) [*]

@[simp ↓] theorem countSilence_holds (hsfp : Stable P .sfp) (hs : Holds P s) : Holds P (countSilence s) := by
  unfold countSilence
  simp +contextual (maxDischargeDepth := 99) [*]

@[simp ↓] theorem clearOnce_holds (hcat : Stable P .cat) (hgau : Stable P .gau) (hmss : Stable P .mss) (hhpt : Stable P .hpt) (hsfp : Stable P .sfp) (hmsc : Stable P .msc) (hs : Holds P s) : Holds P (clearOnce s) := by
  unfold clearOnce
  simp +contextual (maxDischargeDepth := 99) [*]

@[simp ↓] theorem limitBoundary_holds (hcru : Stable P .cru) (hod : Stable P .od) (hs : Holds P s) : Holds P (limitBoundary s) := by
  unfold limitBoundary
  simp +contextual (maxDischargeDepth := 99) [*]

@[simp ↓] theorem retainBoundary_holds (hupu : Stable P .upu) (hev : Stable P .ev) (hs : Holds P s) : Holds P (retainBoundary s) := by
  unfold retainBoundary
  simp +contextual (maxDischargeDepth := 99) [*]

@[simp ↓] theorem joinPod_holds (hpods : Stable P .pods) (hmsc : Stable P .msc) (a0) (hs : Holds P s) : Holds P (joinPod a0 s) := by
  unfold joinPod
  simp +contextual (maxDischargeDepth := 99) [*]

@[simp ↓] theorem nextSpare_holds (hmsc : Stable P .msc) (hcru : Stable P .cru) (hs : Holds P s) : Holds P (nextSpare s) := by
  unfold nextSpare
  (repeat' split) <;> simp +contextual (maxDischargeDepth := 99) [*]

@[simp ↓] theorem spareBoundary_holds (hpods : Stable P .pods) (hmsc : Stable P .msc) (hcru : Stable P .cru) (hev : Stable P .ev) (hs : Holds P s) : Holds P (spareBoundary s) := by
  unfold spareBoundary
  (repeat' split) <;> simp +contextual (maxDischargeDepth := 99) [*]

@[simp ↓] theorem retireBoundary_holds (hcfe : Stable P .cfe) (hcat : Stable P .cat) (hpods : Stable P .pods) (hgau : Stable P .gau) (hstk : Stable P .stk) (hmsc : Stable P .msc) (hcru : Stable P .cru) (hod : Stable P .od) (hscratch : Stable P .scratch) (htiles : Stable P .tiles) (hmq : Stable P .mq) (hev : Stable P .ev) (hs : Holds P s) : Holds P (retireBoundary s) := by
  unfold retireBoundary
  simp +contextual (maxDischargeDepth := 99) [*]

@[simp ↓] theorem stepEvent_holds (hev : Stable P .ev) (a0) (a1) (a2) (hs : Holds P s) : Holds P (stepEvent a0 a1 a2 s) := by
  unfold stepEvent
  simp +contextual (maxDischargeDepth := 99) [*]

@[simp ↓] theorem periodBoundary_holds (hod : Stable P .od) (hs : Holds P s) : Holds P (periodBoundary s) := by
  unfold periodBoundary
  simp +contextual (maxDischargeDepth := 99) [*]

@[simp ↓] theorem beginFolio_holds (hfsu : Stable P .fsu) (hcru : Stable P .cru) (hod : Stable P .od) (hev : Stable P .ev) (hs : Holds P s) : Holds P (beginFolio s) := by
  unfold beginFolio
  simp +contextual (maxDischargeDepth := 99) [*]

@[simp ↓] theorem latchCounters_holds (hmsc : Stable P .msc) (hs : Holds P s) : Holds P (latchCounters s) := by
  unfold latchCounters
  simp +contextual (maxDischargeDepth := 99) [*]

@[simp ↓] theorem folioBegin_holds (hcfe : Stable P .cfe) (hcat : Stable P .cat) (hpods : Stable P .pods) (hgau : Stable P .gau) (hstk : Stable P .stk) (hmss : Stable P .mss) (hupu : Stable P .upu) (hhpt : Stable P .hpt) (hsfp : Stable P .sfp) (hfsu : Stable P .fsu) (hmsc : Stable P .msc) (hcru : Stable P .cru) (hod : Stable P .od) (hscratch : Stable P .scratch) (htiles : Stable P .tiles) (hmq : Stable P .mq) (hpw : Stable P .pw) (hpo : Stable P .po) (hst : Stable P .st) (hev : Stable P .ev) (hs : Holds P s) : Holds P (folioBegin s) := by
  unfold folioBegin
  simp +contextual (maxDischargeDepth := 99) [*]

@[simp ↓] theorem doFolioBoundary_holds (hcfe : Stable P .cfe) (hcat : Stable P .cat) (hpods : Stable P .pods) (hgau : Stable P .gau) (hstk : Stable P .stk) (hmss : Stable P .mss) (hupu : Stable P .upu) (hhpt : Stable P .hpt) (hsfp : Stable P .sfp) (hfsu : Stable P .fsu) (hmsc : Stable P .msc) (hcru : Stable P .cru) (hod : Stable P .od) (hscratch : Stable P .scratch) (htiles : Stable P .tiles) (hmq : Stable P .mq) (hpw : Stable P .pw) (hpo : Stable P .po) (hst : Stable P .st) (hev : Stable P .ev) (hs : Holds P s) : Holds P (doFolioBoundary s) := by
  unfold doFolioBoundary
  simp +contextual (maxDischargeDepth := 99) [*]

@[simp ↓] theorem execFolioBoundary_holds (hcfe : Stable P .cfe) (hcat : Stable P .cat) (hpods : Stable P .pods) (hgau : Stable P .gau) (hstk : Stable P .stk) (hmss : Stable P .mss) (hupu : Stable P .upu) (hhpt : Stable P .hpt) (hsfp : Stable P .sfp) (hfsu : Stable P .fsu) (hmsc : Stable P .msc) (hcru : Stable P .cru) (hod : Stable P .od) (hscratch : Stable P .scratch) (htiles : Stable P .tiles) (hmq : Stable P .mq) (hpw : Stable P .pw) (hpo : Stable P .po) (hst : Stable P .st) (hev : Stable P .ev) (hs : Holds P s) : HoldsR P (execFolioBoundary s) := by
  unfold execFolioBoundary
  refine HoldsR.next ?_
  simp +contextual (maxDischargeDepth := 99) [*]

@[simp ↓] theorem execNoMarker_holds (hfsu : Stable P .fsu) (hcru : Stable P .cru) (hod : Stable P .od) (hev : Stable P .ev) (hs : Holds P s) : HoldsR P (execNoMarker s) := by
  unfold execNoMarker
  refine HoldsR.next ?_
  simp +contextual (maxDischargeDepth := 99) [*]

@[simp ↓] theorem alignBy_holds (hfsu : Stable P .fsu) (hod : Stable P .od) (a0) (hs : Holds P s) : Holds P (alignBy a0 s) := by
  unfold alignBy
  simp +contextual (maxDischargeDepth := 99) [*]

@[simp ↓] theorem alignTo_holds (hfsu : Stable P .fsu) (hod : Stable P .od) (hev : Stable P .ev) (a0) (a1) (hs : Holds P s) : Holds P (alignTo a0 a1 s) := by
  unfold alignTo
  simp +contextual (maxDischargeDepth := 99) [*]

@[simp ↓] theorem acceptMarker_holds (hcat : Stable P .cat) (hsfp : Stable P .sfp) (hfsu : Stable P .fsu) (hod : Stable P .od) (hev : Stable P .ev) (a0) (a1) (a2) (hs : Holds P s) : Holds P (acceptMarker a0 a1 a2 s) := by
  unfold acceptMarker
  simp +contextual (maxDischargeDepth := 99) [*]

@[simp ↓] theorem doMarker_holds (hcat : Stable P .cat) (hsfp : Stable P .sfp) (hfsu : Stable P .fsu) (hcru : Stable P .cru) (hod : Stable P .od) (hev : Stable P .ev) (a0) (a1) (a2) (hs : Holds P s) : Holds P (doMarker a0 a1 a2 s) := by
  unfold doMarker
  simp +contextual (maxDischargeDepth := 99) [*]

@[simp ↓] theorem execMarker_holds (hcat : Stable P .cat) (hsfp : Stable P .sfp) (hfsu : Stable P .fsu) (hcru : Stable P .cru) (hod : Stable P .od) (hev : Stable P .ev) (a0) (a1) (a2) (hs : Holds P s) : HoldsR P (execMarker a0 a1 a2 s) := by
  unfold execMarker
  refine HoldsR.next ?_
  simp +contextual (maxDischargeDepth := 99) [*]

@[simp ↓] theorem tickEdge_holds (hcfe : Stable P .cfe) (hcat : Stable P .cat) (hpods : Stable P .pods) (hgau : Stable P .gau) (hstk : Stable P .stk) (hmss : Stable P .mss) (hupu : Stable P .upu) (hhpt : Stable P .hpt) (hsfp : Stable P .sfp) (hfsu : Stable P .fsu) (hmsc : Stable P .msc) (hcru : Stable P .cru) (hod : Stable P .od) (hscratch : Stable P .scratch) (htiles : Stable P .tiles) (hmq : Stable P .mq) (hpw : Stable P .pw) (hpo : Stable P .po) (hst : Stable P .st) (hev : Stable P .ev) (hs : Holds P s) : Holds P (tickEdge s) := by
  unfold tickEdge
  simp +contextual (maxDischargeDepth := 99) [*]

@[simp ↓] theorem tickRestored_holds (hcfe : Stable P .cfe) (hcat : Stable P .cat) (hpods : Stable P .pods) (hgau : Stable P .gau) (hstk : Stable P .stk) (hmss : Stable P .mss) (hupu : Stable P .upu) (hhpt : Stable P .hpt) (hsfp : Stable P .sfp) (hfsu : Stable P .fsu) (hmsc : Stable P .msc) (hcru : Stable P .cru) (hod : Stable P .od) (hscratch : Stable P .scratch) (htiles : Stable P .tiles) (hmq : Stable P .mq) (hpw : Stable P .pw) (hpo : Stable P .po) (hst : Stable P .st) (hev : Stable P .ev) (a0) (hs : Holds P s) : Holds P (tickRestored a0 s) := by
  unfold tickRestored
  simp +contextual (maxDischargeDepth := 99) [*]

@[simp ↓] theorem watchEdge_holds (hcfe : Stable P .cfe) (hcat : Stable P .cat) (hpods : Stable P .pods) (hgau : Stable P .gau) (hstk : Stable P .stk) (hmss : Stable P .mss) (hupu : Stable P .upu) (hhpt : Stable P .hpt) (hsfp : Stable P .sfp) (hfsu : Stable P .fsu) (hmsc : Stable P .msc) (hcru : Stable P .cru) (hod : Stable P .od) (hscratch : Stable P .scratch) (htiles : Stable P .tiles) (hmq : Stable P .mq) (hpw : Stable P .pw) (hpo : Stable P .po) (hst : Stable P .st) (hev : Stable P .ev) (a0) (hs : Holds P s) : Holds P (watchEdge a0 s) := by
  unfold watchEdge
  simp +contextual (maxDischargeDepth := 99) [*]

@[simp ↓] theorem edgeAt_holds (hcfe : Stable P .cfe) (hcat : Stable P .cat) (hpods : Stable P .pods) (hgau : Stable P .gau) (hstk : Stable P .stk) (hmss : Stable P .mss) (hupu : Stable P .upu) (hhpt : Stable P .hpt) (hsfp : Stable P .sfp) (hfsu : Stable P .fsu) (hmsc : Stable P .msc) (hcru : Stable P .cru) (hod : Stable P .od) (hscratch : Stable P .scratch) (htiles : Stable P .tiles) (hmq : Stable P .mq) (hpw : Stable P .pw) (hpo : Stable P .po) (hst : Stable P .st) (hev : Stable P .ev) (a0) (hs : Holds P s) : Holds P (edgeAt a0 s) := by
  unfold edgeAt
  simp +contextual (maxDischargeDepth := 99) [*]

@[simp ↓] theorem doJFolioInEdge_holds (hcfe : Stable P .cfe) (hcat : Stable P .cat) (hpods : Stable P .pods) (hgau : Stable P .gau) (hstk : Stable P .stk) (hmss : Stable P .mss) (hupu : Stable P .upu) (hhpt : Stable P .hpt) (hsfp : Stable P .sfp) (hfsu : Stable P .fsu) (hmsc : Stable P .msc) (hcru : Stable P .cru) (hod : Stable P .od) (hscratch : Stable P .scratch) (htiles : Stable P .tiles) (hmq : Stable P .mq) (hpw : Stable P .pw) (hpo : Stable P .po) (hst : Stable P .st) (hev : Stable P .ev) (a0) (hs : Holds P s) : Holds P (doJFolioInEdge a0 s) := by
  unfold doJFolioInEdge
  simp +contextual (maxDischargeDepth := 99) [*]

@[simp ↓] theorem execJFolioInEdge_holds (hcfe : Stable P .cfe) (hcat : Stable P .cat) (hpods : Stable P .pods) (hgau : Stable P .gau) (hstk : Stable P .stk) (hmss : Stable P .mss) (hupu : Stable P .upu) (hhpt : Stable P .hpt) (hsfp : Stable P .sfp) (hfsu : Stable P .fsu) (hmsc : Stable P .msc) (hcru : Stable P .cru) (hod : Stable P .od) (hscratch : Stable P .scratch) (htiles : Stable P .tiles) (hmq : Stable P .mq) (hpw : Stable P .pw) (hpo : Stable P .po) (hst : Stable P .st) (hev : Stable P .ev) (a0) (hs : Holds P s) : HoldsR P (execJFolioInEdge a0 s) := by
  unfold execJFolioInEdge
  refine HoldsR.next ?_
  simp +contextual (maxDischargeDepth := 99) [*]

@[simp ↓] theorem doTickMissed_holds (hcfe : Stable P .cfe) (hcat : Stable P .cat) (hpods : Stable P .pods) (hgau : Stable P .gau) (hstk : Stable P .stk) (hmss : Stable P .mss) (hupu : Stable P .upu) (hhpt : Stable P .hpt) (hsfp : Stable P .sfp) (hfsu : Stable P .fsu) (hmsc : Stable P .msc) (hcru : Stable P .cru) (hod : Stable P .od) (hscratch : Stable P .scratch) (htiles : Stable P .tiles) (hmq : Stable P .mq) (hpw : Stable P .pw) (hpo : Stable P .po) (hst : Stable P .st) (hev : Stable P .ev) (hs : Holds P s) : Holds P (doTickMissed s) := by
  unfold doTickMissed
  simp +contextual (maxDischargeDepth := 99) [*]

@[simp ↓] theorem execTickMissed_holds (hcfe : Stable P .cfe) (hcat : Stable P .cat) (hpods : Stable P .pods) (hgau : Stable P .gau) (hstk : Stable P .stk) (hmss : Stable P .mss) (hupu : Stable P .upu) (hhpt : Stable P .hpt) (hsfp : Stable P .sfp) (hfsu : Stable P .fsu) (hmsc : Stable P .msc) (hcru : Stable P .cru) (hod : Stable P .od) (hscratch : Stable P .scratch) (htiles : Stable P .tiles) (hmq : Stable P .mq) (hpw : Stable P .pw) (hpo : Stable P .po) (hst : Stable P .st) (hev : Stable P .ev) (hs : Holds P s) : HoldsR P (execTickMissed s) := by
  unfold execTickMissed
  refine HoldsR.next ?_
  simp +contextual (maxDischargeDepth := 99) [*]

end Sys2Proof.Machine
end

