-- ==== Sys2Proof/Laws/KeepStreams.lean ====
section
/-! SUPPORT. What the functions of Machine/Streams.lean keep: one lemma each, for every predicate on states that
is stable under changes of the parts the function can reach. -/

namespace Sys2Proof.Machine

variable {P : State → Prop} {s : State}

@[simp ↓] theorem doStreamReadReturn_holds (hcfe : Stable P .cfe) (hcat : Stable P .cat) (hpods : Stable P .pods) (hgau : Stable P .gau) (hstk : Stable P .stk) (hmss : Stable P .mss) (hhpt : Stable P .hpt) (hmsc : Stable P .msc) (hcru : Stable P .cru) (hod : Stable P .od) (hscratch : Stable P .scratch) (htiles : Stable P .tiles) (hmq : Stable P .mq) (hev : Stable P .ev) (a0) (a1) (a2) (hs : Holds P s) : Holds P (doStreamReadReturn a0 a1 a2 s) := by
  unfold doStreamReadReturn
  (repeat' split) <;> simp +contextual (maxDischargeDepth := 99) [*]

@[simp ↓] theorem execStreamReadReturn_holds (hcfe : Stable P .cfe) (hcat : Stable P .cat) (hpods : Stable P .pods) (hgau : Stable P .gau) (hstk : Stable P .stk) (hmss : Stable P .mss) (hhpt : Stable P .hpt) (hmsc : Stable P .msc) (hcru : Stable P .cru) (hod : Stable P .od) (hscratch : Stable P .scratch) (htiles : Stable P .tiles) (hmq : Stable P .mq) (hev : Stable P .ev) (a0) (a1) (a2) (hs : Holds P s) : HoldsR P (execStreamReadReturn a0 a1 a2 s) := by
  unfold execStreamReadReturn
  refine HoldsR.next ?_
  simp +contextual (maxDischargeDepth := 99) [*]

@[simp ↓] theorem switchArb_holds (hod : Stable P .od) (hev : Stable P .ev) (hs : Holds P s) : Holds P (switchArb s) := by
  unfold switchArb
  simp +contextual (maxDischargeDepth := 99) [*]

@[simp ↓] theorem countThrottled_holds (hmss : Stable P .mss) (hs : Holds P s) : Holds P (countThrottled s) := by
  unfold countThrottled
  simp +contextual (maxDischargeDepth := 99) [*]

@[simp ↓] theorem doArbWindowBoundary_holds (hmss : Stable P .mss) (hod : Stable P .od) (hev : Stable P .ev) (hs : Holds P s) : Holds P (doArbWindowBoundary s) := by
  unfold doArbWindowBoundary
  simp +contextual (maxDischargeDepth := 99) [*]

@[simp ↓] theorem execArbWindowBoundary_holds (hmss : Stable P .mss) (hod : Stable P .od) (hev : Stable P .ev) (hs : Holds P s) : HoldsR P (execArbWindowBoundary s) := by
  unfold execArbWindowBoundary
  refine HoldsR.next ?_
  simp +contextual (maxDischargeDepth := 99) [*]

end Sys2Proof.Machine
end

