-- ==== Sys2Proof/Laws/KeepHost.lean ====
section
/-! SUPPORT. What the functions of Machine/Host.lean keep: one lemma each, for every predicate on states that
is stable under changes of the parts the function can reach. -/

namespace Sys2Proof.Machine

variable {P : State → Prop} {s : State}

@[simp ↓] theorem logAcked_holds (hupu : Stable P .upu) (a0) (hs : Holds P s) : Holds P (logAcked a0 s) := by
  unfold logAcked
  simp +contextual (maxDischargeDepth := 99) [*]

@[simp ↓] theorem afterWrite_holds (hcfe : Stable P .cfe) (hcat : Stable P .cat) (hpods : Stable P .pods) (hgau : Stable P .gau) (hstk : Stable P .stk) (hupu : Stable P .upu) (hhpt : Stable P .hpt) (hmsc : Stable P .msc) (hcru : Stable P .cru) (hod : Stable P .od) (hout : Stable P .out) (hscratch : Stable P .scratch) (htiles : Stable P .tiles) (hmq : Stable P .mq) (hpw : Stable P .pw) (hpo : Stable P .po) (hst : Stable P .st) (hev : Stable P .ev) (a0) (hs : Holds P s) : Holds P (afterWrite a0 s) := by
  unfold afterWrite
  repeat' first
    | (extract_lets +onlyGivenNames x
       first
       | (have hx : Holds P x := by (simp only [x]; repeat' split) <;> simp +contextual (maxDischargeDepth := 99) [*]
          clear_value x)
       | (have hx : HoldsF P x := by (simp only [x]; repeat' split) <;> simp +contextual (maxDischargeDepth := 99) [*]
          clear_value x)
       | (have hx : HoldsG P x := by (simp only [x]; repeat' split) <;> simp +contextual (maxDischargeDepth := 99) [*]
          clear_value x)
       | (have hx : HoldsO P x := by (simp only [x]; repeat' split) <;> simp +contextual (maxDischargeDepth := 99) [*]
          clear_value x)
       | (have hx : HoldsL P x := by (simp only [x]; repeat' split) <;> simp +contextual (maxDischargeDepth := 99) [*]
          clear_value x)
       | (have hx : ∀ t, Holds P t → Holds P (x t) := by intro t ht; (simp only [x]; repeat' split) <;> simp +contextual (maxDischargeDepth := 99) [*]
          clear_value x)
       | (have hx : ∀ a t, Holds P t → Holds P (x a t) := by intro a t ht; (simp only [x]; repeat' split) <;> simp +contextual (maxDischargeDepth := 99) [*]
          clear_value x)
       | clear_value x)
    | split
  all_goals first
    | simp +contextual (maxDischargeDepth := 99) [*]
    | (have ht := ofO (P := P) ‹(_ : Option State) = some _›; simp +contextual (maxDischargeDepth := 99) [*])
    | (have ht := ofF (P := P) ‹(_ : State × _) = (_, _)›; simp +contextual (maxDischargeDepth := 99) [*])
    | (have ht := ofG (P := P) ‹(_ : _ × State) = (_, _)›; simp +contextual (maxDischargeDepth := 99) [*])
    | (have ht := ofV_ready (P := P) ‹(_ : PrepRes) = .ready _ _›; simp +contextual (maxDischargeDepth := 99) [*])
    | (have ht := ofV_wait (P := P) ‹(_ : PrepRes) = .wait _›; simp +contextual (maxDischargeDepth := 99) [*])
    | (have ht := ofV_fault (P := P) ‹(_ : PrepRes) = .fault _ _›; simp +contextual (maxDischargeDepth := 99) [*])
    | (have ht := ofU_done (P := P) ‹(_ : PutRes) = .done _›; simp +contextual (maxDischargeDepth := 99) [*])
    | (have ht := ofU_wait (P := P) ‹(_ : PutRes) = .wait _›; simp +contextual (maxDischargeDepth := 99) [*])
    | (have ht := ofU_pend (P := P) ‹(_ : PutRes) = .pend _ _›; simp +contextual (maxDischargeDepth := 99) [*])

@[simp ↓] theorem doWriteAck_holds (hcfe : Stable P .cfe) (hcat : Stable P .cat) (hpods : Stable P .pods) (hgau : Stable P .gau) (hstk : Stable P .stk) (hupu : Stable P .upu) (hhpt : Stable P .hpt) (hmsc : Stable P .msc) (hcru : Stable P .cru) (hod : Stable P .od) (hout : Stable P .out) (hhost : Stable P .host) (hscratch : Stable P .scratch) (htiles : Stable P .tiles) (hmq : Stable P .mq) (hpw : Stable P .pw) (hpo : Stable P .po) (hst : Stable P .st) (hev : Stable P .ev) (a0) (hs : Holds P s) : Holds P (doWriteAck a0 s) := by
  unfold doWriteAck
  split
  · exact hs
  · next w _ =>
    split
    · exact hs
    · extract_lets s1
      have h1 : Holds P s1 := by simp only [s1]; simp +contextual (maxDischargeDepth := 99) [*]
      have h2 := hhost (memStore w.addr w.data) _ (fun m h => memStore_wf _ _ h) h1
      apply afterWrite_holds <;> assumption

@[simp ↓] theorem execWriteAck_holds (hcfe : Stable P .cfe) (hcat : Stable P .cat) (hpods : Stable P .pods) (hgau : Stable P .gau) (hstk : Stable P .stk) (hupu : Stable P .upu) (hhpt : Stable P .hpt) (hmsc : Stable P .msc) (hcru : Stable P .cru) (hod : Stable P .od) (hout : Stable P .out) (hhost : Stable P .host) (hscratch : Stable P .scratch) (htiles : Stable P .tiles) (hmq : Stable P .mq) (hpw : Stable P .pw) (hpo : Stable P .po) (hst : Stable P .st) (hev : Stable P .ev) (a0) (hs : Holds P s) : HoldsR P (execWriteAck a0 s) := by
  unfold execWriteAck
  refine HoldsR.next ?_
  simp +contextual (maxDischargeDepth := 99) [*]

@[simp ↓] theorem doEngPathFence_holds (hhpt : Stable P .hpt) (hout : Stable P .out) (hs : Holds P s) : Holds P (doEngPathFence s) := by
  unfold doEngPathFence
  simp +contextual (maxDischargeDepth := 99) [*]

@[simp ↓] theorem execEngPathFence_holds (hhpt : Stable P .hpt) (hout : Stable P .out) (hs : Holds P s) : HoldsR P (execEngPathFence s) := by
  unfold execEngPathFence
  refine HoldsR.next ?_
  simp +contextual (maxDischargeDepth := 99) [*]

@[simp ↓] theorem doHptLinkDown_holds (hhpt : Stable P .hpt) (hmq : Stable P .mq) (hev : Stable P .ev) (hs : Holds P s) : Holds P (doHptLinkDown s) := by
  unfold doHptLinkDown
  simp +contextual (maxDischargeDepth := 99) [*]

@[simp ↓] theorem execHptLinkDown_holds (hhpt : Stable P .hpt) (hmq : Stable P .mq) (hev : Stable P .ev) (hs : Holds P s) : HoldsR P (execHptLinkDown s) := by
  unfold execHptLinkDown
  refine HoldsR.next ?_
  simp +contextual (maxDischargeDepth := 99) [*]

@[simp ↓] theorem resumeQueues_holds (hcfe : Stable P .cfe) (hcat : Stable P .cat) (hpods : Stable P .pods) (hmq : Stable P .mq) (hev : Stable P .ev) (hs : Holds P s) : Holds P (resumeQueues s) := by
  unfold resumeQueues
  simp +contextual (maxDischargeDepth := 99) [*]

@[simp ↓] theorem doHptLinkUpSameEpoch_holds (hcfe : Stable P .cfe) (hcat : Stable P .cat) (hpods : Stable P .pods) (hhpt : Stable P .hpt) (hod : Stable P .od) (hmq : Stable P .mq) (hpw : Stable P .pw) (hst : Stable P .st) (hev : Stable P .ev) (hs : Holds P s) : Holds P (doHptLinkUpSameEpoch s) := by
  unfold doHptLinkUpSameEpoch
  simp +contextual (maxDischargeDepth := 99) [*]

@[simp ↓] theorem execHptLinkUpSameEpoch_holds (hcfe : Stable P .cfe) (hcat : Stable P .cat) (hpods : Stable P .pods) (hhpt : Stable P .hpt) (hod : Stable P .od) (hmq : Stable P .mq) (hpw : Stable P .pw) (hst : Stable P .st) (hev : Stable P .ev) (hs : Holds P s) : HoldsR P (execHptLinkUpSameEpoch s) := by
  unfold execHptLinkUpSameEpoch
  refine HoldsR.next ?_
  simp +contextual (maxDischargeDepth := 99) [*]

@[simp ↓] theorem discardWrites_holds (hhpt : Stable P .hpt) (hod : Stable P .od) (a0) (hs : Holds P s) : Holds P (discardWrites a0 s) := by
  unfold discardWrites
  simp +contextual (maxDischargeDepth := 99) [*]

@[simp ↓] theorem endAtHost_holds (hcfe : Stable P .cfe) (hcat : Stable P .cat) (hpods : Stable P .pods) (hgau : Stable P .gau) (hmq : Stable P .mq) (hev : Stable P .ev) (a0) (a1) (hs : Holds P s) : Holds P (endAtHost a0 a1 s) := by
  unfold endAtHost
  (repeat' split) <;> simp +contextual (maxDischargeDepth := 99) [*]

@[simp ↓] theorem endUnrecorded_holds (hcfe : Stable P .cfe) (hcat : Stable P .cat) (hpods : Stable P .pods) (hmsc : Stable P .msc) (hmq : Stable P .mq) (hev : Stable P .ev) (a0) (a1) (hs : Holds P s) : Holds P (endUnrecorded a0 a1 s) := by
  unfold endUnrecorded
  simp +contextual (maxDischargeDepth := 99) [*]

@[simp ↓] theorem endQueue_holds (hcfe : Stable P .cfe) (hcat : Stable P .cat) (hpods : Stable P .pods) (hmsc : Stable P .msc) (hmq : Stable P .mq) (hev : Stable P .ev) (a0) (a1) (hs : Holds P s) : Holds P (endQueue a0 a1 s) := by
  unfold endQueue
  simp +contextual (maxDischargeDepth := 99) [*]

@[simp ↓] theorem epochQueue_holds (hcfe : Stable P .cfe) (hcat : Stable P .cat) (hpods : Stable P .pods) (hmsc : Stable P .msc) (hmq : Stable P .mq) (hev : Stable P .ev) (a0) (hs : Holds P s) : Holds P (epochQueue a0 s) := by
  unfold epochQueue
  simp +contextual (maxDischargeDepth := 99) [*]

@[simp ↓] theorem epochRings_holds (hcfe : Stable P .cfe) (hs : Holds P s) : Holds P (epochRings s) := by
  unfold epochRings
  simp +contextual (maxDischargeDepth := 99) [*]

@[simp ↓] theorem doHptLinkUpNewEpoch_holds (hcfe : Stable P .cfe) (hcat : Stable P .cat) (hpods : Stable P .pods) (hgau : Stable P .gau) (hhpt : Stable P .hpt) (hmsc : Stable P .msc) (hod : Stable P .od) (hhost : Stable P .host) (hmq : Stable P .mq) (hev : Stable P .ev) (a0) (hs : Holds P s) : Holds P (doHptLinkUpNewEpoch a0 s) := by
  unfold doHptLinkUpNewEpoch
  split
  · exact hs
  · extract_lets dropped qs mine others ended s1 s2 s3 s4 s5 s6
    have h1 : Holds P s1 := by simp only [s1]; simp +contextual (maxDischargeDepth := 99) [*]
    have h2 : Holds P s2 := by simp only [s2]; simp +contextual (maxDischargeDepth := 99) [*]
    have h3 : Holds P s3 := by simp only [s3]; simp +contextual (maxDischargeDepth := 99) [*]
    have h4 : Holds P s4 := by simp only [s4]; simp +contextual (maxDischargeDepth := 99) [*]
    have h5 : Holds P s5 := by simp only [s5]; simp +contextual (maxDischargeDepth := 99) [*]
    have h6 : Holds P s6 := by simp only [s6]; simp +contextual (maxDischargeDepth := 99) [*]
    simp +contextual (maxDischargeDepth := 99) [*]

@[simp ↓] theorem execHptLinkUpNewEpoch_holds (hcfe : Stable P .cfe) (hcat : Stable P .cat) (hpods : Stable P .pods) (hgau : Stable P .gau) (hhpt : Stable P .hpt) (hmsc : Stable P .msc) (hod : Stable P .od) (hhost : Stable P .host) (hmq : Stable P .mq) (hev : Stable P .ev) (a0) (hs : Holds P s) : HoldsR P (execHptLinkUpNewEpoch a0 s) := by
  unfold execHptLinkUpNewEpoch
  refine HoldsR.next ?_
  simp +contextual (maxDischargeDepth := 99) [*]

@[simp ↓] theorem doHptDieLost_holds (hcfe : Stable P .cfe) (hcat : Stable P .cat) (hpods : Stable P .pods) (hgau : Stable P .gau) (hstk : Stable P .stk) (hhpt : Stable P .hpt) (hmsc : Stable P .msc) (hcru : Stable P .cru) (hod : Stable P .od) (hscratch : Stable P .scratch) (htiles : Stable P .tiles) (hmq : Stable P .mq) (hev : Stable P .ev) (a0) (hs : Holds P s) : Holds P (doHptDieLost a0 s) := by
  unfold doHptDieLost
  repeat' first
    | (extract_lets +onlyGivenNames x
       first
       | (have hx : Holds P x := by (simp only [x]; repeat' split) <;> simp +contextual (maxDischargeDepth := 99) [*]
          clear_value x)
       | (have hx : HoldsF P x := by (simp only [x]; repeat' split) <;> simp +contextual (maxDischargeDepth := 99) [*]
          clear_value x)
       | (have hx : HoldsG P x := by (simp only [x]; repeat' split) <;> simp +contextual (maxDischargeDepth := 99) [*]
          clear_value x)
       | (have hx : HoldsO P x := by (simp only [x]; repeat' split) <;> simp +contextual (maxDischargeDepth := 99) [*]
          clear_value x)
       | (have hx : HoldsL P x := by (simp only [x]; repeat' split) <;> simp +contextual (maxDischargeDepth := 99) [*]
          clear_value x)
       | (have hx : ∀ t, Holds P t → Holds P (x t) := by intro t ht; (simp only [x]; repeat' split) <;> simp +contextual (maxDischargeDepth := 99) [*]
          clear_value x)
       | (have hx : ∀ a t, Holds P t → Holds P (x a t) := by intro a t ht; (simp only [x]; repeat' split) <;> simp +contextual (maxDischargeDepth := 99) [*]
          clear_value x)
       | clear_value x)
    | split
  all_goals first
    | simp +contextual (maxDischargeDepth := 99) [*]
    | (have ht := ofO (P := P) ‹(_ : Option State) = some _›; simp +contextual (maxDischargeDepth := 99) [*])
    | (have ht := ofF (P := P) ‹(_ : State × _) = (_, _)›; simp +contextual (maxDischargeDepth := 99) [*])
    | (have ht := ofG (P := P) ‹(_ : _ × State) = (_, _)›; simp +contextual (maxDischargeDepth := 99) [*])
    | (have ht := ofV_ready (P := P) ‹(_ : PrepRes) = .ready _ _›; simp +contextual (maxDischargeDepth := 99) [*])
    | (have ht := ofV_wait (P := P) ‹(_ : PrepRes) = .wait _›; simp +contextual (maxDischargeDepth := 99) [*])
    | (have ht := ofV_fault (P := P) ‹(_ : PrepRes) = .fault _ _›; simp +contextual (maxDischargeDepth := 99) [*])
    | (have ht := ofU_done (P := P) ‹(_ : PutRes) = .done _›; simp +contextual (maxDischargeDepth := 99) [*])
    | (have ht := ofU_wait (P := P) ‹(_ : PutRes) = .wait _›; simp +contextual (maxDischargeDepth := 99) [*])
    | (have ht := ofU_pend (P := P) ‹(_ : PutRes) = .pend _ _›; simp +contextual (maxDischargeDepth := 99) [*])

@[simp ↓] theorem execHptDieLost_holds (hcfe : Stable P .cfe) (hcat : Stable P .cat) (hpods : Stable P .pods) (hgau : Stable P .gau) (hstk : Stable P .stk) (hhpt : Stable P .hpt) (hmsc : Stable P .msc) (hcru : Stable P .cru) (hod : Stable P .od) (hscratch : Stable P .scratch) (htiles : Stable P .tiles) (hmq : Stable P .mq) (hev : Stable P .ev) (a0) (hs : Holds P s) : HoldsR P (execHptDieLost a0 s) := by
  unfold execHptDieLost
  refine HoldsR.next ?_
  simp +contextual (maxDischargeDepth := 99) [*]

@[simp ↓] theorem asidApply_holds (hpods : Stable P .pods) (hhpt : Stable P .hpt) (hod : Stable P .od) (hpw : Stable P .pw) (hst : Stable P .st) (a0) (hs : Holds P s) : HoldsO P (asidApply a0 s) := by
  unfold asidApply
  repeat' first
    | (extract_lets +onlyGivenNames x
       first
       | (have hx : Holds P x := by (simp only [x]; repeat' split) <;> simp +contextual (maxDischargeDepth := 99) [*]
          clear_value x)
       | clear_value x)
    | split
  all_goals simp +contextual (maxDischargeDepth := 99) [*]

@[simp ↓] theorem execHptEngineAsidWrite_holds (hpods : Stable P .pods) (hhpt : Stable P .hpt) (hcru : Stable P .cru) (hod : Stable P .od) (hout : Stable P .out) (hpw : Stable P .pw) (hst : Stable P .st) (a0) (a1) (hs : Holds P s) : HoldsR P (execHptEngineAsidWrite a0 a1 s) := by
  unfold execHptEngineAsidWrite
  refine HoldsR.next ?_
  simp +contextual (maxDischargeDepth := 99) [*]

@[simp ↓] theorem apertureApply_holds (hod : Stable P .od) (a0) (a1) (hs : Holds P s) : HoldsO P (apertureApply a0 a1 s) := by
  unfold apertureApply
  repeat' first
    | (extract_lets +onlyGivenNames x
       first
       | (have hx : Holds P x := by (simp only [x]; repeat' split) <;> simp +contextual (maxDischargeDepth := 99) [*]
          clear_value x)
       | clear_value x)
    | split
  all_goals simp +contextual (maxDischargeDepth := 99) [*]

@[simp ↓] theorem doHptApertureWrite_holds (hcru : Stable P .cru) (hod : Stable P .od) (hout : Stable P .out) (a0) (a1) (a2) (hs : Holds P s) : Holds P (doHptApertureWrite a0 a1 a2 s) := by
  unfold doHptApertureWrite
  simp +contextual (maxDischargeDepth := 99) [*]

@[simp ↓] theorem execHptApertureWrite_holds (hcru : Stable P .cru) (hod : Stable P .od) (hout : Stable P .out) (a0) (a1) (a2) (hs : Holds P s) : HoldsR P (execHptApertureWrite a0 a1 a2 s) := by
  unfold execHptApertureWrite
  refine HoldsR.next ?_
  simp +contextual (maxDischargeDepth := 99) [*]

@[simp ↓] theorem inboundReject_holds (hhpt : Stable P .hpt) (hod : Stable P .od) (hev : Stable P .ev) (a0) (a1) (a2) (a3) (hs : Holds P s) : Holds P (inboundReject a0 a1 a2 a3 s) := by
  unfold inboundReject
  simp +contextual (maxDischargeDepth := 99) [*]

@[simp ↓] theorem doInboundWrite_holds (hpods : Stable P .pods) (hhpt : Stable P .hpt) (hod : Stable P .od) (hscratch : Stable P .scratch) (htiles : Stable P .tiles) (hpw : Stable P .pw) (hpo : Stable P .po) (hst : Stable P .st) (hev : Stable P .ev) (a0) (a1) (a2) (a3) (hs : Holds P s) : Holds P (doInboundWrite a0 a1 a2 a3 s) := by
  unfold doInboundWrite
  (repeat' split) <;> simp +contextual (maxDischargeDepth := 99) [*]

@[simp ↓] theorem execInboundWrite_holds (hpods : Stable P .pods) (hhpt : Stable P .hpt) (hod : Stable P .od) (hscratch : Stable P .scratch) (htiles : Stable P .tiles) (hpw : Stable P .pw) (hpo : Stable P .po) (hst : Stable P .st) (hev : Stable P .ev) (a0) (a1) (a2) (a3) (hs : Holds P s) : HoldsR P (execInboundWrite a0 a1 a2 a3 s) := by
  unfold execInboundWrite
  refine HoldsR.next ?_
  simp +contextual (maxDischargeDepth := 99) [*]

@[simp ↓] theorem snoopAdd_holds (hhpt : Stable P .hpt) (hod : Stable P .od) (a0) (hs : Holds P s) : Holds P (snoopAdd a0 s) := by
  unfold snoopAdd
  simp +contextual (maxDischargeDepth := 99) [*]

@[simp ↓] theorem inboundGddr_holds (hcfe : Stable P .cfe) (hcat : Stable P .cat) (hpods : Stable P .pods) (hgau : Stable P .gau) (hstk : Stable P .stk) (hmss : Stable P .mss) (hhpt : Stable P .hpt) (hmsc : Stable P .msc) (hcru : Stable P .cru) (hod : Stable P .od) (hscratch : Stable P .scratch) (htiles : Stable P .tiles) (hmq : Stable P .mq) (hev : Stable P .ev) (a0) (a1) (a2) (hs : Holds P s) : HoldsG P (inboundGddr a0 a1 a2 s) := by
  unfold inboundGddr
  repeat' first
    | (extract_lets +onlyGivenNames x
       first
       | (have hx : Holds P x := by (simp only [x]; repeat' split) <;> simp +contextual (maxDischargeDepth := 99) [*]
          clear_value x)
       | (have hx : HoldsF P x := by (simp only [x]; repeat' split) <;> simp +contextual (maxDischargeDepth := 99) [*]
          clear_value x)
       | (have hx : HoldsG P x := by (simp only [x]; repeat' split) <;> simp +contextual (maxDischargeDepth := 99) [*]
          clear_value x)
       | (have hx : HoldsO P x := by (simp only [x]; repeat' split) <;> simp +contextual (maxDischargeDepth := 99) [*]
          clear_value x)
       | (have hx : HoldsL P x := by (simp only [x]; repeat' split) <;> simp +contextual (maxDischargeDepth := 99) [*]
          clear_value x)
       | (have hx : ∀ t, Holds P t → Holds P (x t) := by intro t ht; (simp only [x]; repeat' split) <;> simp +contextual (maxDischargeDepth := 99) [*]
          clear_value x)
       | (have hx : ∀ a t, Holds P t → Holds P (x a t) := by intro a t ht; (simp only [x]; repeat' split) <;> simp +contextual (maxDischargeDepth := 99) [*]
          clear_value x)
       | clear_value x)
    | split
  all_goals first
    | simp +contextual (maxDischargeDepth := 99) [*]
    | (have ht := ofO (P := P) ‹(_ : Option State) = some _›; simp +contextual (maxDischargeDepth := 99) [*])
    | (have ht := ofF (P := P) ‹(_ : State × _) = (_, _)›; simp +contextual (maxDischargeDepth := 99) [*])
    | (have ht := ofG (P := P) ‹(_ : _ × State) = (_, _)›; simp +contextual (maxDischargeDepth := 99) [*])
    | (have ht := ofV_ready (P := P) ‹(_ : PrepRes) = .ready _ _›; simp +contextual (maxDischargeDepth := 99) [*])
    | (have ht := ofV_wait (P := P) ‹(_ : PrepRes) = .wait _›; simp +contextual (maxDischargeDepth := 99) [*])
    | (have ht := ofV_fault (P := P) ‹(_ : PrepRes) = .fault _ _›; simp +contextual (maxDischargeDepth := 99) [*])
    | (have ht := ofU_done (P := P) ‹(_ : PutRes) = .done _›; simp +contextual (maxDischargeDepth := 99) [*])
    | (have ht := ofU_wait (P := P) ‹(_ : PutRes) = .wait _›; simp +contextual (maxDischargeDepth := 99) [*])
    | (have ht := ofU_pend (P := P) ‹(_ : PutRes) = .pend _ _›; simp +contextual (maxDischargeDepth := 99) [*])

@[simp ↓] theorem doInboundRead_holds (hcfe : Stable P .cfe) (hcat : Stable P .cat) (hpods : Stable P .pods) (hgau : Stable P .gau) (hstk : Stable P .stk) (hmss : Stable P .mss) (hhpt : Stable P .hpt) (hmsc : Stable P .msc) (hcru : Stable P .cru) (hod : Stable P .od) (hout : Stable P .out) (hscratch : Stable P .scratch) (htiles : Stable P .tiles) (hmq : Stable P .mq) (hev : Stable P .ev) (a0) (a1) (a2) (a3) (hs : Holds P s) : Holds P (doInboundRead a0 a1 a2 a3 s) := by
  unfold doInboundRead
  (repeat' split) <;> simp +contextual (maxDischargeDepth := 99) [*]

@[simp ↓] theorem execInboundRead_holds (hcfe : Stable P .cfe) (hcat : Stable P .cat) (hpods : Stable P .pods) (hgau : Stable P .gau) (hstk : Stable P .stk) (hmss : Stable P .mss) (hhpt : Stable P .hpt) (hmsc : Stable P .msc) (hcru : Stable P .cru) (hod : Stable P .od) (hout : Stable P .out) (hscratch : Stable P .scratch) (htiles : Stable P .tiles) (hmq : Stable P .mq) (hev : Stable P .ev) (a0) (a1) (a2) (a3) (hs : Holds P s) : HoldsR P (execInboundRead a0 a1 a2 a3 s) := by
  unfold execInboundRead
  refine HoldsR.next ?_
  simp +contextual (maxDischargeDepth := 99) [*]

@[simp ↓] theorem doTranslationInvalidate_holds (hgau : Stable P .gau) (hhpt : Stable P .hpt) (hout : Stable P .out) (a0) (a1) (hs : Holds P s) : Holds P (doTranslationInvalidate a0 a1 s) := by
  unfold doTranslationInvalidate
  simp +contextual (maxDischargeDepth := 99) [*]

@[simp ↓] theorem execTranslationInvalidate_holds (hgau : Stable P .gau) (hhpt : Stable P .hpt) (hout : Stable P .out) (a0) (a1) (hs : Holds P s) : HoldsR P (execTranslationInvalidate a0 a1 s) := by
  unfold execTranslationInvalidate
  refine HoldsR.next ?_
  simp +contextual (maxDischargeDepth := 99) [*]

end Sys2Proof.Machine
end

