-- ==== Sys2Proof/Laws/KeepResets.lean ====
section
/-! SUPPORT. What the functions of Machine/Resets.lean keep: one lemma each, for every predicate on states that
is stable under changes of the parts the function can reach. -/

namespace Sys2Proof.Machine

variable {P : State → Prop} {s : State}

@[simp ↓] theorem landWrites_holds (hhost : Stable P .host) (hs : Holds P s) : Holds P (landWrites s) := by
  unfold landWrites
  extract_lets ws
  exact hhost (fun m => List.foldl _ m ws) _ (fun m h => foldl_wf _ (fun m x h => memStore_wf _ _ h) _ h) hs

@[simp ↓] theorem enterReset_holds (hcfe : Stable P .cfe) (hcat : Stable P .cat) (hpods : Stable P .pods) (hgau : Stable P .gau) (hstk : Stable P .stk) (hmss : Stable P .mss) (hupu : Stable P .upu) (hhpt : Stable P .hpt) (hsfp : Stable P .sfp) (hfsu : Stable P .fsu) (hmsc : Stable P .msc) (hcru : Stable P .cru) (hod : Stable P .od) (hout : Stable P .out) (hhost : Stable P .host) (hgddr : Stable P .gddr) (hscratch : Stable P .scratch) (htiles : Stable P .tiles) (hpw : Stable P .pw) (hst : Stable P .st) (hev : Stable P .ev) (hs : Holds P s) : Holds P (enterReset s) := by
  unfold enterReset
  simp +contextual (maxDischargeDepth := 99) [*]

@[simp ↓] theorem leaveReset_holds (hcru : Stable P .cru) (hs : Holds P s) : Holds P (leaveReset s) := by
  unfold leaveReset
  simp +contextual (maxDischargeDepth := 99) [*]

@[simp ↓] theorem startFail_holds (hmsc : Stable P .msc) (hcru : Stable P .cru) (hout : Stable P .out) (a0) (hs : Holds P s) : Holds P (startFail a0 s) := by
  unfold startFail
  simp +contextual (maxDischargeDepth := 99) [*]

@[simp ↓] theorem powerOn_holds (hcfe : Stable P .cfe) (hcat : Stable P .cat) (hpods : Stable P .pods) (hgau : Stable P .gau) (hstk : Stable P .stk) (hmss : Stable P .mss) (hupu : Stable P .upu) (hhpt : Stable P .hpt) (hsfp : Stable P .sfp) (hfsu : Stable P .fsu) (hmsc : Stable P .msc) (hcru : Stable P .cru) (hod : Stable P .od) (hout : Stable P .out) (hhost : Stable P .host) (hgddr : Stable P .gddr) (hscratch : Stable P .scratch) (htiles : Stable P .tiles) (hs : Holds P s) : Holds P (powerOn s) := by
  exact all_holds (s := s) hcfe hcat hpods hgau hstk hmss hupu hhpt hsfp hfsu hmsc hcru hod hout hhost hgddr hscratch htiles _ rfl id
    (fun _ => rfl) (fun _ => rfl) (fun _ => rfl) hs

@[simp ↓] theorem doInputLoss_holds (hcfe : Stable P .cfe) (hcat : Stable P .cat) (hpods : Stable P .pods) (hgau : Stable P .gau) (hstk : Stable P .stk) (hmss : Stable P .mss) (hupu : Stable P .upu) (hhpt : Stable P .hpt) (hsfp : Stable P .sfp) (hfsu : Stable P .fsu) (hmsc : Stable P .msc) (hcru : Stable P .cru) (hod : Stable P .od) (hout : Stable P .out) (hhost : Stable P .host) (hgddr : Stable P .gddr) (hscratch : Stable P .scratch) (htiles : Stable P .tiles) (hs : Holds P s) : Holds P (doInputLoss s) := by
  unfold doInputLoss
  simp +contextual (maxDischargeDepth := 99) [*]

@[simp ↓] theorem execInputLoss_holds (hcfe : Stable P .cfe) (hcat : Stable P .cat) (hpods : Stable P .pods) (hgau : Stable P .gau) (hstk : Stable P .stk) (hmss : Stable P .mss) (hupu : Stable P .upu) (hhpt : Stable P .hpt) (hsfp : Stable P .sfp) (hfsu : Stable P .fsu) (hmsc : Stable P .msc) (hcru : Stable P .cru) (hod : Stable P .od) (hout : Stable P .out) (hhost : Stable P .host) (hgddr : Stable P .gddr) (hscratch : Stable P .scratch) (htiles : Stable P .tiles) (hs : Holds P s) : HoldsR P (execInputLoss s) := by
  unfold execInputLoss
  refine HoldsR.next ?_
  simp +contextual (maxDischargeDepth := 99) [*]

@[simp ↓] theorem doPowerUp_holds (hcfe : Stable P .cfe) (hcat : Stable P .cat) (hpods : Stable P .pods) (hgau : Stable P .gau) (hstk : Stable P .stk) (hmss : Stable P .mss) (hupu : Stable P .upu) (hhpt : Stable P .hpt) (hsfp : Stable P .sfp) (hfsu : Stable P .fsu) (hmsc : Stable P .msc) (hcru : Stable P .cru) (hod : Stable P .od) (hout : Stable P .out) (hhost : Stable P .host) (hgddr : Stable P .gddr) (hscratch : Stable P .scratch) (htiles : Stable P .tiles) (hs : Holds P s) : Holds P (doPowerUp s) := by
  unfold doPowerUp
  simp +contextual (maxDischargeDepth := 99) [*]

@[simp ↓] theorem execPowerUp_holds (hcfe : Stable P .cfe) (hcat : Stable P .cat) (hpods : Stable P .pods) (hgau : Stable P .gau) (hstk : Stable P .stk) (hmss : Stable P .mss) (hupu : Stable P .upu) (hhpt : Stable P .hpt) (hsfp : Stable P .sfp) (hfsu : Stable P .fsu) (hmsc : Stable P .msc) (hcru : Stable P .cru) (hod : Stable P .od) (hout : Stable P .out) (hhost : Stable P .host) (hgddr : Stable P .gddr) (hscratch : Stable P .scratch) (htiles : Stable P .tiles) (hs : Holds P s) : HoldsR P (execPowerUp s) := by
  unfold execPowerUp
  refine HoldsR.next ?_
  simp +contextual (maxDischargeDepth := 99) [*]

@[simp ↓] theorem doJRstNLow_holds (hcfe : Stable P .cfe) (hcat : Stable P .cat) (hpods : Stable P .pods) (hgau : Stable P .gau) (hstk : Stable P .stk) (hmss : Stable P .mss) (hupu : Stable P .upu) (hhpt : Stable P .hpt) (hsfp : Stable P .sfp) (hfsu : Stable P .fsu) (hmsc : Stable P .msc) (hcru : Stable P .cru) (hod : Stable P .od) (hout : Stable P .out) (hhost : Stable P .host) (hgddr : Stable P .gddr) (hscratch : Stable P .scratch) (htiles : Stable P .tiles) (hpw : Stable P .pw) (hst : Stable P .st) (hev : Stable P .ev) (a0) (hs : Holds P s) : Holds P (doJRstNLow a0 s) := by
  unfold doJRstNLow
  simp +contextual (maxDischargeDepth := 99) [*]

@[simp ↓] theorem execJRstNLow_holds (hcfe : Stable P .cfe) (hcat : Stable P .cat) (hpods : Stable P .pods) (hgau : Stable P .gau) (hstk : Stable P .stk) (hmss : Stable P .mss) (hupu : Stable P .upu) (hhpt : Stable P .hpt) (hsfp : Stable P .sfp) (hfsu : Stable P .fsu) (hmsc : Stable P .msc) (hcru : Stable P .cru) (hod : Stable P .od) (hout : Stable P .out) (hhost : Stable P .host) (hgddr : Stable P .gddr) (hscratch : Stable P .scratch) (htiles : Stable P .tiles) (hpw : Stable P .pw) (hst : Stable P .st) (hev : Stable P .ev) (a0) (hs : Holds P s) : HoldsR P (execJRstNLow a0 s) := by
  unfold execJRstNLow
  refine HoldsR.next ?_
  simp +contextual (maxDischargeDepth := 99) [*]

@[simp ↓] theorem execJRstNRise_holds (hcru : Stable P .cru) (hs : Holds P s) : HoldsR P (execJRstNRise s) := by
  unfold execJRstNRise
  refine HoldsR.next ?_
  simp +contextual (maxDischargeDepth := 99) [*]

@[simp ↓] theorem doRefclkQualifyTimeout_holds (hmsc : Stable P .msc) (hcru : Stable P .cru) (hout : Stable P .out) (hs : Holds P s) : Holds P (doRefclkQualifyTimeout s) := by
  unfold doRefclkQualifyTimeout
  simp +contextual (maxDischargeDepth := 99) [*]

@[simp ↓] theorem execRefclkQualifyTimeout_holds (hmsc : Stable P .msc) (hcru : Stable P .cru) (hout : Stable P .out) (hs : Holds P s) : HoldsR P (execRefclkQualifyTimeout s) := by
  unfold execRefclkQualifyTimeout
  refine HoldsR.next ?_
  simp +contextual (maxDischargeDepth := 99) [*]

@[simp ↓] theorem memoryUp_holds (hmss : Stable P .mss) (hod : Stable P .od) (a0) (hs : Holds P s) : Holds P (memoryUp a0 s) := by
  unfold memoryUp
  simp +contextual (maxDischargeDepth := 99) [*]

@[simp ↓] theorem memoryBringup_holds (hcfe : Stable P .cfe) (hcat : Stable P .cat) (hpods : Stable P .pods) (hgau : Stable P .gau) (hstk : Stable P .stk) (hmss : Stable P .mss) (hupu : Stable P .upu) (hmsc : Stable P .msc) (hcru : Stable P .cru) (hod : Stable P .od) (hout : Stable P .out) (hscratch : Stable P .scratch) (htiles : Stable P .tiles) (hmq : Stable P .mq) (hev : Stable P .ev) (hs : Holds P s) : Holds P (memoryBringup s) := by
  unfold memoryBringup
  repeat' first
    | (extract_lets +onlyGivenNames x
       first
       | (have hx : Holds P x := by (simp only [x]; repeat' split) <;> simp +contextual (maxDischargeDepth := 99) [*]
          clear_value x)
       | clear_value x)
    | split
  all_goals simp +contextual (maxDischargeDepth := 99) [*]

@[simp ↓] theorem startLinks_holds (hcru : Stable P .cru) (hs : Holds P s) : Holds P (startLinks s) := by
  unfold startLinks
  simp +contextual (maxDischargeDepth := 99) [*]

@[simp ↓] theorem linksSettled_holds (hcfe : Stable P .cfe) (hcat : Stable P .cat) (hpods : Stable P .pods) (hgau : Stable P .gau) (hstk : Stable P .stk) (hmss : Stable P .mss) (hupu : Stable P .upu) (hmsc : Stable P .msc) (hcru : Stable P .cru) (hod : Stable P .od) (hout : Stable P .out) (hscratch : Stable P .scratch) (htiles : Stable P .tiles) (hmq : Stable P .mq) (hev : Stable P .ev) (hs : Holds P s) : Holds P (linksSettled s) := by
  unfold linksSettled
  simp +contextual (maxDischargeDepth := 99) [*]

@[simp ↓] theorem linkUp_joinDie_holds (hpods : Stable P .pods) (hmsc : Stable P .msc) (a0) (hs : Holds P s) : Holds P (linkUp.joinDie a0 s) := by
  unfold linkUp.joinDie
  simp +contextual (maxDischargeDepth := 99) [*]

@[simp ↓] theorem linkUp_holds (hpods : Stable P .pods) (hmsc : Stable P .msc) (hcru : Stable P .cru) (hev : Stable P .ev) (a0) (hs : Holds P s) : Holds P (linkUp a0 s) := by
  unfold linkUp
  repeat' first
    | (extract_lets +onlyGivenNames x
       first
       | (have hx : Holds P x := by (simp only [x]; repeat' split) <;> simp +contextual (maxDischargeDepth := 99) [*]
          clear_value x)
       | clear_value x)
    | split
  all_goals simp +contextual (maxDischargeDepth := 99) [*]

@[simp ↓] theorem linkFault_loseDie_holds (hcfe : Stable P .cfe) (hcat : Stable P .cat) (hpods : Stable P .pods) (hgau : Stable P .gau) (hstk : Stable P .stk) (hmsc : Stable P .msc) (hcru : Stable P .cru) (hod : Stable P .od) (hscratch : Stable P .scratch) (htiles : Stable P .tiles) (hmq : Stable P .mq) (hev : Stable P .ev) (a0) (a1) (hs : Holds P s) : Holds P (linkFault.loseDie a0 a1 s) := by
  unfold linkFault.loseDie
  simp +contextual (maxDischargeDepth := 99) [*]

@[simp ↓] theorem linkFault_holds (hcfe : Stable P .cfe) (hcat : Stable P .cat) (hpods : Stable P .pods) (hgau : Stable P .gau) (hstk : Stable P .stk) (hmsc : Stable P .msc) (hcru : Stable P .cru) (hod : Stable P .od) (hscratch : Stable P .scratch) (htiles : Stable P .tiles) (hmq : Stable P .mq) (hev : Stable P .ev) (a0) (a1) (hs : Holds P s) : Holds P (linkFault a0 a1 s) := by
  unfold linkFault
  repeat' first
    | (extract_lets +onlyGivenNames x
       first
       | (have hx : Holds P x := by (simp only [x]; repeat' split) <;> simp +contextual (maxDischargeDepth := 99) [*]
          clear_value x)
       | clear_value x)
    | split
  all_goals simp +contextual (maxDischargeDepth := 99) [*]

@[simp ↓] theorem attemptFails_holds (hcfe : Stable P .cfe) (hcat : Stable P .cat) (hpods : Stable P .pods) (hgau : Stable P .gau) (hstk : Stable P .stk) (hmsc : Stable P .msc) (hcru : Stable P .cru) (hod : Stable P .od) (hscratch : Stable P .scratch) (htiles : Stable P .tiles) (hmq : Stable P .mq) (hev : Stable P .ev) (a0) (a1) (hs : Holds P s) : Holds P (attemptFails a0 a1 s) := by
  unfold attemptFails
  simp +contextual (maxDischargeDepth := 99) [*]

@[simp ↓] theorem doD2dTrainingAttempt_holds (hcfe : Stable P .cfe) (hcat : Stable P .cat) (hpods : Stable P .pods) (hgau : Stable P .gau) (hstk : Stable P .stk) (hmss : Stable P .mss) (hupu : Stable P .upu) (hmsc : Stable P .msc) (hcru : Stable P .cru) (hod : Stable P .od) (hout : Stable P .out) (hscratch : Stable P .scratch) (htiles : Stable P .tiles) (hmq : Stable P .mq) (hev : Stable P .ev) (a0) (a1) (hs : Holds P s) : Holds P (doD2dTrainingAttempt a0 a1 s) := by
  unfold doD2dTrainingAttempt
  simp +contextual (maxDischargeDepth := 99) [*]

@[simp ↓] theorem execD2dTrainingAttempt_holds (hcfe : Stable P .cfe) (hcat : Stable P .cat) (hpods : Stable P .pods) (hgau : Stable P .gau) (hstk : Stable P .stk) (hmss : Stable P .mss) (hupu : Stable P .upu) (hhpt : Stable P .hpt) (hsfp : Stable P .sfp) (hmsc : Stable P .msc) (hcru : Stable P .cru) (hod : Stable P .od) (hout : Stable P .out) (hscratch : Stable P .scratch) (htiles : Stable P .tiles) (hmq : Stable P .mq) (hpw : Stable P .pw) (hst : Stable P .st) (hev : Stable P .ev) (a0) (a1) (hs : Holds P s) : HoldsR P (execD2dTrainingAttempt a0 a1 s) := by
  unfold execD2dTrainingAttempt
  refine HoldsR.next ?_
  simp +contextual (maxDischargeDepth := 99) [*]

@[simp ↓] theorem doResync_holds (hcfe : Stable P .cfe) (hcat : Stable P .cat) (hpods : Stable P .pods) (hgau : Stable P .gau) (hstk : Stable P .stk) (hmss : Stable P .mss) (hupu : Stable P .upu) (hmsc : Stable P .msc) (hcru : Stable P .cru) (hod : Stable P .od) (hout : Stable P .out) (hscratch : Stable P .scratch) (htiles : Stable P .tiles) (hmq : Stable P .mq) (hev : Stable P .ev) (a0) (hs : Holds P s) : Holds P (doResync a0 s) := by
  unfold doResync
  simp +contextual (maxDischargeDepth := 99) [*]

@[simp ↓] theorem execResync_holds (hcfe : Stable P .cfe) (hcat : Stable P .cat) (hpods : Stable P .pods) (hgau : Stable P .gau) (hstk : Stable P .stk) (hmss : Stable P .mss) (hupu : Stable P .upu) (hhpt : Stable P .hpt) (hsfp : Stable P .sfp) (hmsc : Stable P .msc) (hcru : Stable P .cru) (hod : Stable P .od) (hout : Stable P .out) (hscratch : Stable P .scratch) (htiles : Stable P .tiles) (hmq : Stable P .mq) (hpw : Stable P .pw) (hst : Stable P .st) (hev : Stable P .ev) (a0) (hs : Holds P s) : HoldsR P (execResync a0 s) := by
  unfold execResync
  refine HoldsR.next ?_
  simp +contextual (maxDischargeDepth := 99) [*]

@[simp ↓] theorem startTwin_holds (hod : Stable P .od) (hev : Stable P .ev) (hs : Holds P s) : Holds P (startTwin s) := by
  unfold startTwin
  simp +contextual (maxDischargeDepth := 99) [*]

@[simp ↓] theorem ledgerStart_holds (hcfe : Stable P .cfe) (hcat : Stable P .cat) (hpods : Stable P .pods) (hgau : Stable P .gau) (hstk : Stable P .stk) (hmss : Stable P .mss) (hupu : Stable P .upu) (hhpt : Stable P .hpt) (hsfp : Stable P .sfp) (hmsc : Stable P .msc) (hcru : Stable P .cru) (hod : Stable P .od) (hscratch : Stable P .scratch) (htiles : Stable P .tiles) (hmq : Stable P .mq) (hpw : Stable P .pw) (hst : Stable P .st) (hev : Stable P .ev) (hs : Holds P s) : Holds P (ledgerStart s) := by
  unfold ledgerStart
  simp +contextual (maxDischargeDepth := 99) [*]

@[simp ↓] theorem endMove_holds (hcat : Stable P .cat) (hsfp : Stable P .sfp) (hod : Stable P .od) (hst : Stable P .st) (hev : Stable P .ev) (a0) (hs : Holds P s) : Holds P (endMove a0 s) := by
  unfold endMove
  simp +contextual (maxDischargeDepth := 99) [*]

@[simp ↓] theorem endMoves_holds (hcat : Stable P .cat) (hsfp : Stable P .sfp) (hod : Stable P .od) (hst : Stable P .st) (hev : Stable P .ev) (hs : Holds P s) : Holds P (endMoves s) := by
  unfold endMoves
  simp +contextual (maxDischargeDepth := 99) [*]

@[simp ↓] theorem doEngineReady_holds (hcfe : Stable P .cfe) (hcat : Stable P .cat) (hpods : Stable P .pods) (hgau : Stable P .gau) (hstk : Stable P .stk) (hmss : Stable P .mss) (hupu : Stable P .upu) (hhpt : Stable P .hpt) (hsfp : Stable P .sfp) (hmsc : Stable P .msc) (hcru : Stable P .cru) (hod : Stable P .od) (hscratch : Stable P .scratch) (htiles : Stable P .tiles) (hmq : Stable P .mq) (hpw : Stable P .pw) (hst : Stable P .st) (hev : Stable P .ev) (hs : Holds P s) : Holds P (doEngineReady s) := by
  unfold doEngineReady
  simp +contextual (maxDischargeDepth := 99) [*]

@[simp ↓] theorem execEngineReady_holds (hcfe : Stable P .cfe) (hcat : Stable P .cat) (hpods : Stable P .pods) (hgau : Stable P .gau) (hstk : Stable P .stk) (hmss : Stable P .mss) (hupu : Stable P .upu) (hhpt : Stable P .hpt) (hsfp : Stable P .sfp) (hmsc : Stable P .msc) (hcru : Stable P .cru) (hod : Stable P .od) (hscratch : Stable P .scratch) (htiles : Stable P .tiles) (hmq : Stable P .mq) (hpw : Stable P .pw) (hst : Stable P .st) (hev : Stable P .ev) (hs : Holds P s) : HoldsR P (execEngineReady s) := by
  unfold execEngineReady
  refine HoldsR.next ?_
  simp +contextual (maxDischargeDepth := 99) [*]

end Sys2Proof.Machine
end

