-- ==== Sys2Proof/Laws/KeepPower.lean ====
section
/-! SUPPORT. What the functions of Machine/Power.lean keep: one lemma each, for every predicate on states that
is stable under changes of the parts the function can reach. -/

namespace Sys2Proof.Machine

variable {P : State → Prop} {s : State}

@[simp ↓] theorem doCruRefLost_holds (hfsu : Stable P .fsu) (hcru : Stable P .cru) (hod : Stable P .od) (hev : Stable P .ev) (a0) (hs : Holds P s) : Holds P (doCruRefLost a0 s) := by
  unfold doCruRefLost
  simp +contextual (maxDischargeDepth := 99) [*]

@[simp ↓] theorem execCruRefLost_holds (hfsu : Stable P .fsu) (hcru : Stable P .cru) (hod : Stable P .od) (hev : Stable P .ev) (a0) (hs : Holds P s) : HoldsR P (execCruRefLost a0 s) := by
  unfold execCruRefLost
  refine HoldsR.next ?_
  simp +contextual (maxDischargeDepth := 99) [*]

@[simp ↓] theorem relock_holds (hgau : Stable P .gau) (hmss : Stable P .mss) (hcru : Stable P .cru) (hev : Stable P .ev) (a0) (hs : Holds P s) : Holds P (relock a0 s) := by
  unfold relock
  simp +contextual (maxDischargeDepth := 99) [*]

@[simp ↓] theorem doRefQualified_holds (hgau : Stable P .gau) (hmss : Stable P .mss) (hcru : Stable P .cru) (hev : Stable P .ev) (a0) (hs : Holds P s) : Holds P (doRefQualified a0 s) := by
  unfold doRefQualified
  simp +contextual (maxDischargeDepth := 99) [*]

@[simp ↓] theorem execRefQualified_holds (hgau : Stable P .gau) (hmss : Stable P .mss) (hcru : Stable P .cru) (hev : Stable P .ev) (a0) (hs : Holds P s) : HoldsR P (execRefQualified a0 s) := by
  unfold execRefQualified
  refine HoldsR.next ?_
  simp +contextual (maxDischargeDepth := 99) [*]

@[simp ↓] theorem doCruHoldoverLost_holds (hmss : Stable P .mss) (hsfp : Stable P .sfp) (hcru : Stable P .cru) (hod : Stable P .od) (hev : Stable P .ev) (hs : Holds P s) : Holds P (doCruHoldoverLost s) := by
  unfold doCruHoldoverLost
  simp +contextual (maxDischargeDepth := 99) [*]

@[simp ↓] theorem execCruHoldoverLost_holds (hmss : Stable P .mss) (hsfp : Stable P .sfp) (hcru : Stable P .cru) (hod : Stable P .od) (hev : Stable P .ev) (hs : Holds P s) : HoldsR P (execCruHoldoverLost s) := by
  unfold execCruHoldoverLost
  refine HoldsR.next ?_
  simp +contextual (maxDischargeDepth := 99) [*]

@[simp ↓] theorem doPressureUpdate_holds (hcfe : Stable P .cfe) (hcru : Stable P .cru) (hod : Stable P .od) (hev : Stable P .ev) (a0) (a1) (a2) (hs : Holds P s) : Holds P (doPressureUpdate a0 a1 a2 s) := by
  unfold doPressureUpdate
  simp +contextual (maxDischargeDepth := 99) [*]

@[simp ↓] theorem execPressureUpdate_holds (hcfe : Stable P .cfe) (hcru : Stable P .cru) (hod : Stable P .od) (hev : Stable P .ev) (a0) (a1) (a2) (hs : Holds P s) : HoldsR P (execPressureUpdate a0 a1 a2 s) := by
  unfold execPressureUpdate
  refine HoldsR.next ?_
  simp +contextual (maxDischargeDepth := 99) [*]

@[simp ↓] theorem podFails_holds (hcfe : Stable P .cfe) (hcat : Stable P .cat) (hpods : Stable P .pods) (hgau : Stable P .gau) (hstk : Stable P .stk) (hmsc : Stable P .msc) (hcru : Stable P .cru) (hod : Stable P .od) (hscratch : Stable P .scratch) (htiles : Stable P .tiles) (hmq : Stable P .mq) (hev : Stable P .ev) (a0) (a1) (a2) (a3) (a4) (hs : Holds P s) : Holds P (podFails a0 a1 a2 a3 a4 s) := by
  unfold podFails
  simp +contextual (maxDischargeDepth := 99) [*]

@[simp ↓] theorem podResetApply_holds (hcfe : Stable P .cfe) (hcat : Stable P .cat) (hpods : Stable P .pods) (hgau : Stable P .gau) (hstk : Stable P .stk) (hmsc : Stable P .msc) (hcru : Stable P .cru) (hod : Stable P .od) (hscratch : Stable P .scratch) (htiles : Stable P .tiles) (hmq : Stable P .mq) (hev : Stable P .ev) (a0) (hs : Holds P s) : HoldsO P (podResetApply a0 s) := by
  unfold podResetApply
  (repeat' split) <;> simp +contextual (maxDischargeDepth := 99) [*]

@[simp ↓] theorem execCruPodReset_holds (hcfe : Stable P .cfe) (hcat : Stable P .cat) (hpods : Stable P .pods) (hgau : Stable P .gau) (hstk : Stable P .stk) (hmsc : Stable P .msc) (hcru : Stable P .cru) (hod : Stable P .od) (hout : Stable P .out) (hscratch : Stable P .scratch) (htiles : Stable P .tiles) (hmq : Stable P .mq) (hev : Stable P .ev) (a0) (a1) (hs : Holds P s) : HoldsR P (execCruPodReset a0 a1 s) := by
  unfold execCruPodReset
  refine HoldsR.next ?_
  simp +contextual (maxDischargeDepth := 99) [*]

@[simp ↓] theorem doPodReset_holds (hcfe : Stable P .cfe) (hcat : Stable P .cat) (hpods : Stable P .pods) (hgau : Stable P .gau) (hstk : Stable P .stk) (hmsc : Stable P .msc) (hcru : Stable P .cru) (hod : Stable P .od) (hscratch : Stable P .scratch) (htiles : Stable P .tiles) (hmq : Stable P .mq) (hev : Stable P .ev) (a0) (a1) (hs : Holds P s) : Holds P (doPodReset a0 a1 s) := by
  unfold doPodReset
  repeat' first
    | (extract_lets +onlyGivenNames x
       first
       | (have hx : Holds P x := by (simp only [x]; repeat' split) <;> simp +contextual (maxDischargeDepth := 99) [*]
          clear_value x)
       | (have hx : HoldsF P x := by (simp only [x]; repeat' split) <;> simp +contextual (maxDischargeDepth := 99) [*]
          clear_value x)
       | (have hx : HoldsG P x := by (simp only [x]; repeat' split) <;> simp +contextual (maxDischargeDepth := 99) [*]
          clear_value x)
       | (have hx : HoldsO P x := by (simp only [x]; repeat' split) <;> simp +contextual (maxDischargeDepth := 99) [*]
          clear_value x)
       | (have hx : HoldsL P x := by (simp only [x]; repeat' split) <;> simp +contextual (maxDischargeDepth := 99) [*]
          clear_value x)
       | (have hx : ∀ t, Holds P t → Holds P (x t) := by intro t ht; (simp only [x]; repeat' split) <;> simp +contextual (maxDischargeDepth := 99) [*]
          clear_value x)
       | (have hx : ∀ a t, Holds P t → Holds P (x a t) := by intro a t ht; (simp only [x]; repeat' split) <;> simp +contextual (maxDischargeDepth := 99) [*]
          clear_value x)
       | clear_value x)
    | split
  all_goals first
    | simp +contextual (maxDischargeDepth := 99) [*]
    | (have ht := ofO (P := P) ‹(_ : Option State) = some _›; simp +contextual (maxDischargeDepth := 99) [*])
    | (have ht := ofF (P := P) ‹(_ : State × _) = (_, _)›; simp +contextual (maxDischargeDepth := 99) [*])
    | (have ht := ofG (P := P) ‹(_ : _ × State) = (_, _)›; simp +contextual (maxDischargeDepth := 99) [*])
    | (have ht := ofV_ready (P := P) ‹(_ : PrepRes) = .ready _ _›; simp +contextual (maxDischargeDepth := 99) [*])
    | (have ht := ofV_wait (P := P) ‹(_ : PrepRes) = .wait _›; simp +contextual (maxDischargeDepth := 99) [*])
    | (have ht := ofV_fault (P := P) ‹(_ : PrepRes) = .fault _ _›; simp +contextual (maxDischargeDepth := 99) [*])
    | (have ht := ofU_done (P := P) ‹(_ : PutRes) = .done _›; simp +contextual (maxDischargeDepth := 99) [*])
    | (have ht := ofU_wait (P := P) ‹(_ : PutRes) = .wait _›; simp +contextual (maxDischargeDepth := 99) [*])
    | (have ht := ofU_pend (P := P) ‹(_ : PutRes) = .pend _ _›; simp +contextual (maxDischargeDepth := 99) [*])

@[simp ↓] theorem execPodReset_holds (hcfe : Stable P .cfe) (hcat : Stable P .cat) (hpods : Stable P .pods) (hgau : Stable P .gau) (hstk : Stable P .stk) (hmss : Stable P .mss) (hupu : Stable P .upu) (hhpt : Stable P .hpt) (hsfp : Stable P .sfp) (hmsc : Stable P .msc) (hcru : Stable P .cru) (hod : Stable P .od) (hscratch : Stable P .scratch) (htiles : Stable P .tiles) (hmq : Stable P .mq) (hpw : Stable P .pw) (hst : Stable P .st) (hev : Stable P .ev) (a0) (a1) (hs : Holds P s) : HoldsR P (execPodReset a0 a1 s) := by
  unfold execPodReset
  refine HoldsR.next ?_
  simp +contextual (maxDischargeDepth := 99) [*]

@[simp ↓] theorem execPodPllUnlock_holds (hcfe : Stable P .cfe) (hcat : Stable P .cat) (hpods : Stable P .pods) (hgau : Stable P .gau) (hstk : Stable P .stk) (hmss : Stable P .mss) (hupu : Stable P .upu) (hhpt : Stable P .hpt) (hsfp : Stable P .sfp) (hmsc : Stable P .msc) (hcru : Stable P .cru) (hod : Stable P .od) (hscratch : Stable P .scratch) (htiles : Stable P .tiles) (hmq : Stable P .mq) (hpw : Stable P .pw) (hst : Stable P .st) (hev : Stable P .ev) (a0) (hs : Holds P s) : HoldsR P (execPodPllUnlock a0 s) := by
  unfold execPodPllUnlock
  refine HoldsR.next ?_
  simp +contextual (maxDischargeDepth := 99) [*]

@[simp ↓] theorem doPodResetExit_holds (hcru : Stable P .cru) (a0) (hs : Holds P s) : Holds P (doPodResetExit a0 s) := by
  unfold doPodResetExit
  simp +contextual (maxDischargeDepth := 99) [*]

@[simp ↓] theorem execPodResetExit_holds (hcru : Stable P .cru) (a0) (hs : Holds P s) : HoldsR P (execPodResetExit a0 s) := by
  unfold execPodResetExit
  refine HoldsR.next ?_
  simp +contextual (maxDischargeDepth := 99) [*]

@[simp ↓] theorem execPodIdleVoltage_holds (hpods : Stable P .pods) (a0) (hs : Holds P s) : HoldsR P (execPodIdleVoltage a0 s) := by
  unfold execPodIdleVoltage
  refine HoldsR.next ?_
  simp +contextual (maxDischargeDepth := 99) [*]

@[simp ↓] theorem podRetireApply_holds (hpods : Stable P .pods) (a0) (hs : Holds P s) : HoldsO P (podRetireApply a0 s) := by
  unfold podRetireApply
  (repeat' split) <;> simp +contextual (maxDischargeDepth := 99) [*]

@[simp ↓] theorem execMscPodRetire_holds (hpods : Stable P .pods) (hcru : Stable P .cru) (hout : Stable P .out) (a0) (a1) (hs : Holds P s) : HoldsR P (execMscPodRetire a0 a1 s) := by
  unfold execMscPodRetire
  refine HoldsR.next ?_
  simp +contextual (maxDischargeDepth := 99) [*]

@[simp ↓] theorem spareMapApply_holds (hmsc : Stable P .msc) (hcru : Stable P .cru) (a0) (hs : Holds P s) : HoldsO P (spareMapApply a0 s) := by
  unfold spareMapApply
  repeat' first
    | (extract_lets +onlyGivenNames x
       first
       | (have hx : Holds P x := by (simp only [x]; repeat' split) <;> simp +contextual (maxDischargeDepth := 99) [*]
          clear_value x)
       | clear_value x)
    | split
  all_goals simp +contextual (maxDischargeDepth := 99) [*]

@[simp ↓] theorem execMscSpareMap_holds (hmsc : Stable P .msc) (hcru : Stable P .cru) (hout : Stable P .out) (a0) (a1) (a2) (hs : Holds P s) : HoldsR P (execMscSpareMap a0 a1 a2 s) := by
  unfold execMscSpareMap
  refine HoldsR.next ?_
  simp +contextual (maxDischargeDepth := 99) [*]

@[simp ↓] theorem railReading_holds (hod : Stable P .od) (a0) (a1) (hs : Holds P s) : Holds P (railReading a0 a1 s) := by
  unfold railReading
  simp +contextual (maxDischargeDepth := 99) [*]

@[simp ↓] theorem doPeuRailFault_holds (hcfe : Stable P .cfe) (hcat : Stable P .cat) (hpods : Stable P .pods) (hgau : Stable P .gau) (hstk : Stable P .stk) (hmsc : Stable P .msc) (hcru : Stable P .cru) (hod : Stable P .od) (hscratch : Stable P .scratch) (htiles : Stable P .tiles) (hmq : Stable P .mq) (hev : Stable P .ev) (a0) (a1) (hs : Holds P s) : Holds P (doPeuRailFault a0 a1 s) := by
  unfold doPeuRailFault
  simp +contextual (maxDischargeDepth := 99) [*]

@[simp ↓] theorem execPeuRailFault_holds (hcfe : Stable P .cfe) (hcat : Stable P .cat) (hpods : Stable P .pods) (hgau : Stable P .gau) (hstk : Stable P .stk) (hmss : Stable P .mss) (hupu : Stable P .upu) (hhpt : Stable P .hpt) (hsfp : Stable P .sfp) (hmsc : Stable P .msc) (hcru : Stable P .cru) (hod : Stable P .od) (hscratch : Stable P .scratch) (htiles : Stable P .tiles) (hmq : Stable P .mq) (hpw : Stable P .pw) (hst : Stable P .st) (hev : Stable P .ev) (a0) (a1) (hs : Holds P s) : HoldsR P (execPeuRailFault a0 a1 s) := by
  unfold execPeuRailFault
  refine HoldsR.next ?_
  simp +contextual (maxDischargeDepth := 99) [*]

@[simp ↓] theorem doInputCurrentTrip_holds (hcfe : Stable P .cfe) (hcat : Stable P .cat) (hpods : Stable P .pods) (hgau : Stable P .gau) (hstk : Stable P .stk) (hmsc : Stable P .msc) (hcru : Stable P .cru) (hod : Stable P .od) (hscratch : Stable P .scratch) (htiles : Stable P .tiles) (hmq : Stable P .mq) (hev : Stable P .ev) (a0) (hs : Holds P s) : Holds P (doInputCurrentTrip a0 s) := by
  unfold doInputCurrentTrip
  simp +contextual (maxDischargeDepth := 99) [*]

@[simp ↓] theorem execInputCurrentTrip_holds (hcfe : Stable P .cfe) (hcat : Stable P .cat) (hpods : Stable P .pods) (hgau : Stable P .gau) (hstk : Stable P .stk) (hmsc : Stable P .msc) (hcru : Stable P .cru) (hod : Stable P .od) (hscratch : Stable P .scratch) (htiles : Stable P .tiles) (hmq : Stable P .mq) (hev : Stable P .ev) (a0) (hs : Holds P s) : HoldsR P (execInputCurrentTrip a0 s) := by
  unfold execInputCurrentTrip
  refine HoldsR.next ?_
  simp +contextual (maxDischargeDepth := 99) [*]

@[simp ↓] theorem execHubPllUnlock_holds (hcfe : Stable P .cfe) (hcat : Stable P .cat) (hpods : Stable P .pods) (hgau : Stable P .gau) (hstk : Stable P .stk) (hmsc : Stable P .msc) (hcru : Stable P .cru) (hod : Stable P .od) (hscratch : Stable P .scratch) (htiles : Stable P .tiles) (hmq : Stable P .mq) (hev : Stable P .ev) (hs : Holds P s) : HoldsR P (execHubPllUnlock s) := by
  unfold execHubPllUnlock
  refine HoldsR.next ?_
  simp +contextual (maxDischargeDepth := 99) [*]

@[simp ↓] theorem execEngineContainment_holds (hcfe : Stable P .cfe) (hcat : Stable P .cat) (hpods : Stable P .pods) (hgau : Stable P .gau) (hstk : Stable P .stk) (hmsc : Stable P .msc) (hcru : Stable P .cru) (hod : Stable P .od) (hscratch : Stable P .scratch) (htiles : Stable P .tiles) (hmq : Stable P .mq) (hev : Stable P .ev) (a0) (a1) (a2) (a3) (hs : Holds P s) : HoldsR P (execEngineContainment a0 a1 a2 a3 s) := by
  unfold execEngineContainment
  refine HoldsR.next ?_
  simp +contextual (maxDischargeDepth := 99) [*]

@[simp ↓] theorem execPackageContainment_holds (hcfe : Stable P .cfe) (hcat : Stable P .cat) (hpods : Stable P .pods) (hgau : Stable P .gau) (hstk : Stable P .stk) (hmsc : Stable P .msc) (hcru : Stable P .cru) (hod : Stable P .od) (hscratch : Stable P .scratch) (htiles : Stable P .tiles) (hmq : Stable P .mq) (hev : Stable P .ev) (a0) (hs : Holds P s) : HoldsR P (execPackageContainment a0 s) := by
  unfold execPackageContainment
  refine HoldsR.next ?_
  simp +contextual (maxDischargeDepth := 99) [*]

@[simp ↓] theorem doContainmentFlushEnd_holds (hcfe : Stable P .cfe) (hcat : Stable P .cat) (hpods : Stable P .pods) (hgau : Stable P .gau) (hstk : Stable P .stk) (hmss : Stable P .mss) (hupu : Stable P .upu) (hhpt : Stable P .hpt) (hsfp : Stable P .sfp) (hfsu : Stable P .fsu) (hmsc : Stable P .msc) (hcru : Stable P .cru) (hod : Stable P .od) (hout : Stable P .out) (hhost : Stable P .host) (hgddr : Stable P .gddr) (hscratch : Stable P .scratch) (htiles : Stable P .tiles) (hpw : Stable P .pw) (hst : Stable P .st) (hev : Stable P .ev) (hs : Holds P s) : Holds P (doContainmentFlushEnd s) := by
  unfold doContainmentFlushEnd
  repeat' first
    | (extract_lets +onlyGivenNames x
       first
       | (have hx : Holds P x := by (simp only [x]; repeat' split) <;> simp +contextual (maxDischargeDepth := 99) [*]
          clear_value x)
       | clear_value x)
    | split
  all_goals simp +contextual (maxDischargeDepth := 99) [*]

@[simp ↓] theorem execContainmentFlushEnd_holds (hcfe : Stable P .cfe) (hcat : Stable P .cat) (hpods : Stable P .pods) (hgau : Stable P .gau) (hstk : Stable P .stk) (hmss : Stable P .mss) (hupu : Stable P .upu) (hhpt : Stable P .hpt) (hsfp : Stable P .sfp) (hfsu : Stable P .fsu) (hmsc : Stable P .msc) (hcru : Stable P .cru) (hod : Stable P .od) (hout : Stable P .out) (hhost : Stable P .host) (hgddr : Stable P .gddr) (hscratch : Stable P .scratch) (htiles : Stable P .tiles) (hpw : Stable P .pw) (hst : Stable P .st) (hev : Stable P .ev) (hs : Holds P s) : HoldsR P (execContainmentFlushEnd s) := by
  unfold execContainmentFlushEnd
  refine HoldsR.next ?_
  simp +contextual (maxDischargeDepth := 99) [*]

@[simp ↓] theorem releaseApply_holds (hmsc : Stable P .msc) (hcru : Stable P .cru) (hs : Holds P s) : HoldsO P (releaseApply s) := by
  unfold releaseApply
  (repeat' split) <;> simp +contextual (maxDischargeDepth := 99) [*]

@[simp ↓] theorem execMscContainRelease_holds (hmsc : Stable P .msc) (hcru : Stable P .cru) (hout : Stable P .out) (a0) (hs : Holds P s) : HoldsR P (execMscContainRelease a0 s) := by
  unfold execMscContainRelease
  refine HoldsR.next ?_
  simp +contextual (maxDischargeDepth := 99) [*]

end Sys2Proof.Machine
end

