-- ==== Sys2Proof/Laws/KeepManagement.lean ====
section
/-! SUPPORT. What the functions of Machine/Management.lean keep: one lemma each, for every predicate on states that
is stable under changes of the parts the function can reach. -/

namespace Sys2Proof.Machine

variable {P : State → Prop} {s : State}

@[simp ↓] theorem respond_holds (hgau : Stable P .gau) (hmsc : Stable P .msc) (hout : Stable P .out) (a0) (a1) (a2) (hs : Holds P s) : Holds P (respond a0 a1 a2 s) := by
  unfold respond
  simp +contextual (maxDischargeDepth := 99) [*]

@[simp ↓] theorem doGarwaRead_holds (hgau : Stable P .gau) (hmsc : Stable P .msc) (hout : Stable P .out) (a0) (a1) (a2) (a3) (a4) (a5) (hs : Holds P s) : Holds P (doGarwaRead a0 a1 a2 a3 a4 a5 s) := by
  unfold doGarwaRead
  (repeat' split) <;> simp +contextual (maxDischargeDepth := 99) [*]

@[simp ↓] theorem execGarwaRead_holds (hgau : Stable P .gau) (hmsc : Stable P .msc) (hout : Stable P .out) (a0) (a1) (a2) (a3) (a4) (a5) (hs : Holds P s) : HoldsR P (execGarwaRead a0 a1 a2 a3 a4 a5 s) := by
  unfold execGarwaRead
  refine HoldsR.next ?_
  simp +contextual (maxDischargeDepth := 99) [*]

@[simp ↓] theorem unstage_holds (hmsc : Stable P .msc) (a0) (hs : Holds P s) : Holds P (unstage a0 s) := by
  unfold unstage
  simp +contextual (maxDischargeDepth := 99) [*]

@[simp ↓] theorem doGarwaWriteSegment_holds (hgau : Stable P .gau) (hmsc : Stable P .msc) (hout : Stable P .out) (a0) (a1) (a2) (a3) (a4) (a5) (hs : Holds P s) : Holds P (doGarwaWriteSegment a0 a1 a2 a3 a4 a5 s) := by
  unfold doGarwaWriteSegment
  repeat' first
    | (extract_lets +onlyGivenNames x
       first
       | (have hx : Holds P x := by (simp only [x]; repeat' split) <;> simp +contextual (maxDischargeDepth := 99) [*]
          clear_value x)
       | clear_value x)
    | split
  all_goals simp +contextual (maxDischargeDepth := 99) [*]

@[simp ↓] theorem execGarwaWriteSegment_holds (hgau : Stable P .gau) (hmsc : Stable P .msc) (hout : Stable P .out) (a0) (a1) (a2) (a3) (a4) (a5) (hs : Holds P s) : HoldsR P (execGarwaWriteSegment a0 a1 a2 a3 a4 a5 s) := by
  unfold execGarwaWriteSegment
  refine HoldsR.next ?_
  simp +contextual (maxDischargeDepth := 99) [*]

@[simp ↓] theorem execStagedValueDiscard_holds (hmsc : Stable P .msc) (a0) (a1) (hs : Holds P s) : HoldsR P (execStagedValueDiscard a0 a1 s) := by
  unfold execStagedValueDiscard
  refine HoldsR.next ?_
  (repeat' split) <;> simp +contextual (maxDischargeDepth := 99) [*]

@[simp ↓] theorem envRefused_holds (hev : Stable P .ev) (a0) (a1) (hs : Holds P s) : HoldsG P (envRefused a0 a1 s) := by
  unfold envRefused
  simp +contextual (maxDischargeDepth := 99) [*]

@[simp ↓] theorem installKey_holds (hsfp : Stable P .sfp) (hod : Stable P .od) (a0) (a1) (a2) (hs : Holds P s) : Holds P (installKey a0 a1 a2 s) := by
  unfold installKey
  simp +contextual (maxDischargeDepth := 99) [*]

@[simp ↓] theorem jobEnvelope_holds (hsfp : Stable P .sfp) (hod : Stable P .od) (hev : Stable P .ev) (a0) (hs : Holds P s) : HoldsG P (jobEnvelope a0 s) := by
  unfold jobEnvelope
  (repeat' split) <;> simp +contextual (maxDischargeDepth := 99) [*]

@[simp ↓] theorem tableEnvelope_holds (hmsc : Stable P .msc) (hev : Stable P .ev) (a0) (hs : Holds P s) : HoldsG P (tableEnvelope a0 s) := by
  unfold tableEnvelope
  repeat' first
    | (extract_lets +onlyGivenNames x
       first
       | (have hx : Holds P x := by (simp only [x]; repeat' split) <;> simp +contextual (maxDischargeDepth := 99) [*]
          clear_value x)
       | clear_value x)
    | split
  all_goals simp +contextual (maxDischargeDepth := 99) [*]

@[simp ↓] theorem tableUnbind_holds (hmsc : Stable P .msc) (a0) (hs : Holds P s) : HoldsO P (tableUnbind a0 s) := by
  unfold tableUnbind
  (repeat' split) <;> simp +contextual (maxDischargeDepth := 99) [*]

@[simp ↓] theorem eraseKeys_holds (hsfp : Stable P .sfp) (hmsc : Stable P .msc) (hod : Stable P .od) (hs : Holds P s) : Holds P (eraseKeys s) := by
  unfold eraseKeys
  simp +contextual (maxDischargeDepth := 99) [*]

@[simp ↓] theorem closeApertures_holds (hod : Stable P .od) (hs : Holds P s) : Holds P (closeApertures s) := by
  unfold closeApertures
  repeat' first
    | (extract_lets +onlyGivenNames x
       first
       | (have hx : Holds P x := by (simp only [x]; repeat' split) <;> simp +contextual (maxDischargeDepth := 99) [*]
          clear_value x)
       | (have hx : HoldsF P x := by (simp only [x]; repeat' split) <;> simp +contextual (maxDischargeDepth := 99) [*]
          clear_value x)
       | (have hx : HoldsG P x := by (simp only [x]; repeat' split) <;> simp +contextual (maxDischargeDepth := 99) [*]
          clear_value x)
       | (have hx : HoldsO P x := by (simp only [x]; repeat' split) <;> simp +contextual (maxDischargeDepth := 99) [*]
          clear_value x)
       | (have hx : HoldsL P x := by (simp only [x]; repeat' split) <;> simp +contextual (maxDischargeDepth := 99) [*]
          clear_value x)
       | (have hx : ∀ t, Holds P t → Holds P (x t) := by intro t ht; (simp only [x]; repeat' split) <;> simp +contextual (maxDischargeDepth := 99) [*]
          clear_value x)
       | (have hx : ∀ a t, Holds P t → Holds P (x a t) := by intro a t ht; (simp only [x]; repeat' split) <;> simp +contextual (maxDischargeDepth := 99) [*]
          clear_value x)
       | clear_value x)
    | split
  all_goals first
    | simp +contextual (maxDischargeDepth := 99) [*]
    | (have ht := ofO (P := P) ‹(_ : Option State) = some _›; simp +contextual (maxDischargeDepth := 99) [*])
    | (have ht := ofF (P := P) ‹(_ : State × _) = (_, _)›; simp +contextual (maxDischargeDepth := 99) [*])
    | (have ht := ofG (P := P) ‹(_ : _ × State) = (_, _)›; simp +contextual (maxDischargeDepth := 99) [*])
    | (have ht := ofV_ready (P := P) ‹(_ : PrepRes) = .ready _ _›; simp +contextual (maxDischargeDepth := 99) [*])
    | (have ht := ofV_wait (P := P) ‹(_ : PrepRes) = .wait _›; simp +contextual (maxDischargeDepth := 99) [*])
    | (have ht := ofV_fault (P := P) ‹(_ : PrepRes) = .fault _ _›; simp +contextual (maxDischargeDepth := 99) [*])
    | (have ht := ofU_done (P := P) ‹(_ : PutRes) = .done _›; simp +contextual (maxDischargeDepth := 99) [*])
    | (have ht := ofU_wait (P := P) ‹(_ : PutRes) = .wait _›; simp +contextual (maxDischargeDepth := 99) [*])
    | (have ht := ofU_pend (P := P) ‹(_ : PutRes) = .pend _ _›; simp +contextual (maxDischargeDepth := 99) [*])

@[simp ↓] theorem secReset_holds (hcfe : Stable P .cfe) (hcat : Stable P .cat) (hpods : Stable P .pods) (hgau : Stable P .gau) (hstk : Stable P .stk) (hmss : Stable P .mss) (hupu : Stable P .upu) (hhpt : Stable P .hpt) (hsfp : Stable P .sfp) (hfsu : Stable P .fsu) (hmsc : Stable P .msc) (hcru : Stable P .cru) (hod : Stable P .od) (hout : Stable P .out) (hhost : Stable P .host) (hgddr : Stable P .gddr) (hscratch : Stable P .scratch) (htiles : Stable P .tiles) (hpw : Stable P .pw) (hst : Stable P .st) (hev : Stable P .ev) (a0) (hs : Holds P s) : Holds P (secReset a0 s) := by
  unfold secReset
  simp +contextual (maxDischargeDepth := 99) [*]

@[simp ↓] theorem secModeReq_holds (hcfe : Stable P .cfe) (hcat : Stable P .cat) (hpods : Stable P .pods) (hgau : Stable P .gau) (hstk : Stable P .stk) (hmss : Stable P .mss) (hupu : Stable P .upu) (hhpt : Stable P .hpt) (hsfp : Stable P .sfp) (hfsu : Stable P .fsu) (hmsc : Stable P .msc) (hcru : Stable P .cru) (hod : Stable P .od) (hout : Stable P .out) (hhost : Stable P .host) (hgddr : Stable P .gddr) (hscratch : Stable P .scratch) (htiles : Stable P .tiles) (hpw : Stable P .pw) (hst : Stable P .st) (hev : Stable P .ev) (a0) (hs : Holds P s) : HoldsO P (secModeReq a0 s) := by
  unfold secModeReq
  (repeat' split) <;> simp +contextual (maxDischargeDepth := 99) [*]

@[simp ↓] theorem secJobEnd_holds (hcfe : Stable P .cfe) (hcat : Stable P .cat) (hpods : Stable P .pods) (hgau : Stable P .gau) (hstk : Stable P .stk) (hmss : Stable P .mss) (hupu : Stable P .upu) (hhpt : Stable P .hpt) (hsfp : Stable P .sfp) (hfsu : Stable P .fsu) (hmsc : Stable P .msc) (hcru : Stable P .cru) (hod : Stable P .od) (hout : Stable P .out) (hhost : Stable P .host) (hgddr : Stable P .gddr) (hscratch : Stable P .scratch) (htiles : Stable P .tiles) (hpw : Stable P .pw) (hst : Stable P .st) (hev : Stable P .ev) (a0) (hs : Holds P s) : HoldsO P (secJobEnd a0 s) := by
  unfold secJobEnd
  (repeat' split) <;> simp +contextual (maxDischargeDepth := 99) [*]

@[simp ↓] theorem modeEvent_holds (hev : Stable P .ev) (a0) (a1) (a2) (hs : Holds P s) : Holds P (modeEvent a0 a1 a2 s) := by
  unfold modeEvent
  simp +contextual (maxDischargeDepth := 99) [*]

@[simp ↓] theorem secFinish_holds (hmsc : Stable P .msc) (hev : Stable P .ev) (hs : Holds P s) : Holds P (secFinish s) := by
  unfold secFinish
  (repeat' split) <;> simp +contextual (maxDischargeDepth := 99) [*]

@[simp ↓] theorem doMssOverwriteDone_holds (hmss : Stable P .mss) (hmsc : Stable P .msc) (hev : Stable P .ev) (a0) (hs : Holds P s) : Holds P (doMssOverwriteDone a0 s) := by
  unfold doMssOverwriteDone
  simp +contextual (maxDischargeDepth := 99) [*]

@[simp ↓] theorem execMssOverwriteDone_holds (hmss : Stable P .mss) (hmsc : Stable P .msc) (hev : Stable P .ev) (a0) (hs : Holds P s) : HoldsR P (execMssOverwriteDone a0 s) := by
  unfold execMssOverwriteDone
  refine HoldsR.next ?_
  simp +contextual (maxDischargeDepth := 99) [*]

@[simp ↓] theorem setFwSlot_holds (hmsc : Stable P .msc) (a0) (a1) (hs : Holds P s) : Holds P (setFwSlot a0 a1 s) := by
  unfold setFwSlot
  simp +contextual (maxDischargeDepth := 99) [*]

@[simp ↓] theorem fwImage_holds (hmsc : Stable P .msc) (a0) (hs : Holds P s) : HoldsO P (fwImage a0 s) := by
  unfold fwImage
  repeat' first
    | (extract_lets +onlyGivenNames x
       first
       | (have hx : Holds P x := by (simp only [x]; repeat' split) <;> simp +contextual (maxDischargeDepth := 99) [*]
          clear_value x)
       | clear_value x)
    | split
  all_goals simp +contextual (maxDischargeDepth := 99) [*]

@[simp ↓] theorem fwSwitch_holds (hmsc : Stable P .msc) (a0) (hs : Holds P s) : HoldsO P (fwSwitch a0 s) := by
  unfold fwSwitch
  (repeat' split) <;> simp +contextual (maxDischargeDepth := 99) [*]

@[simp ↓] theorem fwCommit_holds (hmsc : Stable P .msc) (a0) (hs : Holds P s) : HoldsO P (fwCommit a0 s) := by
  unfold fwCommit
  (repeat' split) <;> simp +contextual (maxDischargeDepth := 99) [*]

@[simp ↓] theorem restartFrom_holds (hmsc : Stable P .msc) (hod : Stable P .od) (a0) (hs : Holds P s) : Holds P (restartFrom a0 s) := by
  unfold restartFrom
  simp +contextual (maxDischargeDepth := 99) [*]

@[simp ↓] theorem doFwRestart_holds (hmsc : Stable P .msc) (hod : Stable P .od) (hev : Stable P .ev) (hs : Holds P s) : Holds P (doFwRestart s) := by
  unfold doFwRestart
  simp +contextual (maxDischargeDepth := 99) [*]

@[simp ↓] theorem execFwRestart_holds (hmsc : Stable P .msc) (hod : Stable P .od) (hev : Stable P .ev) (hs : Holds P s) : HoldsR P (execFwRestart s) := by
  unfold execFwRestart
  refine HoldsR.next ?_
  simp +contextual (maxDischargeDepth := 99) [*]

@[simp ↓] theorem doFwHealthTimeout_holds (hmsc : Stable P .msc) (hod : Stable P .od) (hev : Stable P .ev) (hs : Holds P s) : Holds P (doFwHealthTimeout s) := by
  unfold doFwHealthTimeout
  simp +contextual (maxDischargeDepth := 99) [*]

@[simp ↓] theorem execFwHealthTimeout_holds (hmsc : Stable P .msc) (hod : Stable P .od) (hev : Stable P .ev) (hs : Holds P s) : HoldsR P (execFwHealthTimeout s) := by
  unfold execFwHealthTimeout
  refine HoldsR.next ?_
  simp +contextual (maxDischargeDepth := 99) [*]

@[simp ↓] theorem doMscRestartDone_holds (hcfe : Stable P .cfe) (hpods : Stable P .pods) (hhpt : Stable P .hpt) (hmsc : Stable P .msc) (hod : Stable P .od) (hout : Stable P .out) (hscratch : Stable P .scratch) (htiles : Stable P .tiles) (hpw : Stable P .pw) (hpo : Stable P .po) (hst : Stable P .st) (hs : Holds P s) : Holds P (doMscRestartDone s) := by
  unfold doMscRestartDone
  simp +contextual (maxDischargeDepth := 99) [*]

@[simp ↓] theorem execMscRestartDone_holds (hcfe : Stable P .cfe) (hpods : Stable P .pods) (hhpt : Stable P .hpt) (hmsc : Stable P .msc) (hod : Stable P .od) (hout : Stable P .out) (hscratch : Stable P .scratch) (htiles : Stable P .tiles) (hpw : Stable P .pw) (hpo : Stable P .po) (hst : Stable P .st) (hs : Holds P s) : HoldsR P (execMscRestartDone s) := by
  unfold execMscRestartDone
  refine HoldsR.next ?_
  simp +contextual (maxDischargeDepth := 99) [*]

@[simp ↓] theorem doMscBoot_holds (hmsc : Stable P .msc) (hcru : Stable P .cru) (hod : Stable P .od) (hout : Stable P .out) (hev : Stable P .ev) (hs : Holds P s) : Holds P (doMscBoot s) := by
  unfold doMscBoot
  simp +contextual (maxDischargeDepth := 99) [*]

@[simp ↓] theorem execMscBoot_holds (hmsc : Stable P .msc) (hcru : Stable P .cru) (hod : Stable P .od) (hout : Stable P .out) (hev : Stable P .ev) (hs : Holds P s) : HoldsR P (execMscBoot s) := by
  unfold execMscBoot
  refine HoldsR.next ?_
  simp +contextual (maxDischargeDepth := 99) [*]

@[simp ↓] theorem applied_holds (r : Option State) (hs : Holds P s) (hr : HoldsO P r) : HoldsG P (applied s r) := by
  unfold applied
  split
  · exact hr _ rfl
  · exact hs

@[simp ↓] theorem onOne_holds (a1 : State → Option State) (hf1 : ∀ t, Holds P t → HoldsO P (a1 t)) (a0) (hs : Holds P s) : HoldsO P (onOne a0 a1 s) := by
  unfold onOne
  (repeat' split) <;> simp +contextual (maxDischargeDepth := 99) [*]

@[simp ↓] theorem odApplyNow_holds (hcfe : Stable P .cfe) (hcat : Stable P .cat) (hpods : Stable P .pods) (hgau : Stable P .gau) (hstk : Stable P .stk) (hmss : Stable P .mss) (hupu : Stable P .upu) (hhpt : Stable P .hpt) (hsfp : Stable P .sfp) (hfsu : Stable P .fsu) (hmsc : Stable P .msc) (hcru : Stable P .cru) (hod : Stable P .od) (hout : Stable P .out) (hhost : Stable P .host) (hgddr : Stable P .gddr) (hscratch : Stable P .scratch) (htiles : Stable P .tiles) (hmq : Stable P .mq) (hpw : Stable P .pw) (hst : Stable P .st) (hev : Stable P .ev) (a0) (a1) (hs : Holds P s) : HoldsG P (odApplyNow a0 a1 s) := by
  unfold odApplyNow
  extract_lets v key
  clear_value v key
  repeat' first
    | (refine applied_holds _ hs ?_; simp +contextual (maxDischargeDepth := 99) [*])
    | simp +contextual (maxDischargeDepth := 99) [*]
    | refine holdsG_ite ?_ ?_

@[simp ↓] theorem odApply_holds (hcfe : Stable P .cfe) (hcat : Stable P .cat) (hpods : Stable P .pods) (hgau : Stable P .gau) (hstk : Stable P .stk) (hmss : Stable P .mss) (hupu : Stable P .upu) (hhpt : Stable P .hpt) (hsfp : Stable P .sfp) (hfsu : Stable P .fsu) (hmsc : Stable P .msc) (hcru : Stable P .cru) (hod : Stable P .od) (hout : Stable P .out) (hhost : Stable P .host) (hgddr : Stable P .gddr) (hscratch : Stable P .scratch) (htiles : Stable P .tiles) (hmq : Stable P .mq) (hpw : Stable P .pw) (hst : Stable P .st) (hev : Stable P .ev) (a0) (a1) (hs : Holds P s) : HoldsG P (odApply a0 a1 s) := by
  unfold odApply
  repeat' first
    | (extract_lets +onlyGivenNames x
       first
       | (have hx : Holds P x := by (simp only [x]; repeat' split) <;> simp +contextual (maxDischargeDepth := 99) [*]
          clear_value x)
       | (have hx : HoldsF P x := by (simp only [x]; repeat' split) <;> simp +contextual (maxDischargeDepth := 99) [*]
          clear_value x)
       | (have hx : HoldsG P x := by (simp only [x]; repeat' split) <;> simp +contextual (maxDischargeDepth := 99) [*]
          clear_value x)
       | (have hx : HoldsO P x := by (simp only [x]; repeat' split) <;> simp +contextual (maxDischargeDepth := 99) [*]
          clear_value x)
       | (have hx : HoldsL P x := by (simp only [x]; repeat' split) <;> simp +contextual (maxDischargeDepth := 99) [*]
          clear_value x)
       | (have hx : ∀ t, Holds P t → Holds P (x t) := by intro t ht; (simp only [x]; repeat' split) <;> simp +contextual (maxDischargeDepth := 99) [*]
          clear_value x)
       | (have hx : ∀ a t, Holds P t → Holds P (x a t) := by intro a t ht; (simp only [x]; repeat' split) <;> simp +contextual (maxDischargeDepth := 99) [*]
          clear_value x)
       | clear_value x)
    | split
  all_goals first
    | simp +contextual (maxDischargeDepth := 99) [*]
    | (have ht := ofO (P := P) ‹(_ : Option State) = some _›; simp +contextual (maxDischargeDepth := 99) [*])
    | (have ht := ofF (P := P) ‹(_ : State × _) = (_, _)›; simp +contextual (maxDischargeDepth := 99) [*])
    | (have ht := ofG (P := P) ‹(_ : _ × State) = (_, _)›; simp +contextual (maxDischargeDepth := 99) [*])
    | (have ht := ofV_ready (P := P) ‹(_ : PrepRes) = .ready _ _›; simp +contextual (maxDischargeDepth := 99) [*])
    | (have ht := ofV_wait (P := P) ‹(_ : PrepRes) = .wait _›; simp +contextual (maxDischargeDepth := 99) [*])
    | (have ht := ofV_fault (P := P) ‹(_ : PrepRes) = .fault _ _›; simp +contextual (maxDischargeDepth := 99) [*])
    | (have ht := ofU_done (P := P) ‹(_ : PutRes) = .done _›; simp +contextual (maxDischargeDepth := 99) [*])
    | (have ht := ofU_wait (P := P) ‹(_ : PutRes) = .wait _›; simp +contextual (maxDischargeDepth := 99) [*])
    | (have ht := ofU_pend (P := P) ‹(_ : PutRes) = .pend _ _›; simp +contextual (maxDischargeDepth := 99) [*])

@[simp ↓] theorem doOdWrite_holds (hcfe : Stable P .cfe) (hcat : Stable P .cat) (hpods : Stable P .pods) (hgau : Stable P .gau) (hstk : Stable P .stk) (hmss : Stable P .mss) (hupu : Stable P .upu) (hhpt : Stable P .hpt) (hsfp : Stable P .sfp) (hfsu : Stable P .fsu) (hmsc : Stable P .msc) (hcru : Stable P .cru) (hod : Stable P .od) (hout : Stable P .out) (hhost : Stable P .host) (hgddr : Stable P .gddr) (hscratch : Stable P .scratch) (htiles : Stable P .tiles) (hmq : Stable P .mq) (hpw : Stable P .pw) (hst : Stable P .st) (hev : Stable P .ev) (a0) (a1) (a2) (a3) (a4) (a5) (hs : Holds P s) : Holds P (doOdWrite a0 a1 a2 a3 a4 a5 s) := by
  unfold doOdWrite
  repeat' first
    | (extract_lets +onlyGivenNames x
       first
       | (have hx : Holds P x := by (simp only [x]; repeat' split) <;> simp +contextual (maxDischargeDepth := 99) [*]
          clear_value x)
       | (have hx : HoldsF P x := by (simp only [x]; repeat' split) <;> simp +contextual (maxDischargeDepth := 99) [*]
          clear_value x)
       | (have hx : HoldsG P x := by (simp only [x]; repeat' split) <;> simp +contextual (maxDischargeDepth := 99) [*]
          clear_value x)
       | (have hx : HoldsO P x := by (simp only [x]; repeat' split) <;> simp +contextual (maxDischargeDepth := 99) [*]
          clear_value x)
       | (have hx : HoldsL P x := by (simp only [x]; repeat' split) <;> simp +contextual (maxDischargeDepth := 99) [*]
          clear_value x)
       | (have hx : ∀ t, Holds P t → Holds P (x t) := by intro t ht; (simp only [x]; repeat' split) <;> simp +contextual (maxDischargeDepth := 99) [*]
          clear_value x)
       | (have hx : ∀ a t, Holds P t → Holds P (x a t) := by intro a t ht; (simp only [x]; repeat' split) <;> simp +contextual (maxDischargeDepth := 99) [*]
          clear_value x)
       | clear_value x)
    | split
  all_goals first
    | simp +contextual (maxDischargeDepth := 99) [*]
    | (have ht := ofO (P := P) ‹(_ : Option State) = some _›; simp +contextual (maxDischargeDepth := 99) [*])
    | (have ht := ofF (P := P) ‹(_ : State × _) = (_, _)›; simp +contextual (maxDischargeDepth := 99) [*])
    | (have ht := ofG (P := P) ‹(_ : _ × State) = (_, _)›; simp +contextual (maxDischargeDepth := 99) [*])
    | (have ht := ofV_ready (P := P) ‹(_ : PrepRes) = .ready _ _›; simp +contextual (maxDischargeDepth := 99) [*])
    | (have ht := ofV_wait (P := P) ‹(_ : PrepRes) = .wait _›; simp +contextual (maxDischargeDepth := 99) [*])
    | (have ht := ofV_fault (P := P) ‹(_ : PrepRes) = .fault _ _›; simp +contextual (maxDischargeDepth := 99) [*])
    | (have ht := ofU_done (P := P) ‹(_ : PutRes) = .done _›; simp +contextual (maxDischargeDepth := 99) [*])
    | (have ht := ofU_wait (P := P) ‹(_ : PutRes) = .wait _›; simp +contextual (maxDischargeDepth := 99) [*])
    | (have ht := ofU_pend (P := P) ‹(_ : PutRes) = .pend _ _›; simp +contextual (maxDischargeDepth := 99) [*])

@[simp ↓] theorem execOdWrite_holds (hcfe : Stable P .cfe) (hcat : Stable P .cat) (hpods : Stable P .pods) (hgau : Stable P .gau) (hstk : Stable P .stk) (hmss : Stable P .mss) (hupu : Stable P .upu) (hhpt : Stable P .hpt) (hsfp : Stable P .sfp) (hfsu : Stable P .fsu) (hmsc : Stable P .msc) (hcru : Stable P .cru) (hod : Stable P .od) (hout : Stable P .out) (hhost : Stable P .host) (hgddr : Stable P .gddr) (hscratch : Stable P .scratch) (htiles : Stable P .tiles) (hmq : Stable P .mq) (hpw : Stable P .pw) (hst : Stable P .st) (hev : Stable P .ev) (a0) (a1) (a2) (a3) (a4) (a5) (hs : Holds P s) : HoldsR P (execOdWrite a0 a1 a2 a3 a4 a5 s) := by
  unfold execOdWrite
  refine HoldsR.next ?_
  simp +contextual (maxDischargeDepth := 99) [*]

@[simp ↓] theorem odBytes_holds (hout : Stable P .out) (a3 : State → Nat × State) (hf3 : ∀ t, Holds P t → HoldsG P (a3 t)) (a0) (a1) (a2) (hs : Holds P s) : Holds P (odBytes a0 a1 a2 a3 s) := by
  unfold odBytes
  simp +contextual (maxDischargeDepth := 99) [*]

@[simp ↓] theorem execSecModeReqEnter_holds (hcfe : Stable P .cfe) (hcat : Stable P .cat) (hpods : Stable P .pods) (hgau : Stable P .gau) (hstk : Stable P .stk) (hmss : Stable P .mss) (hupu : Stable P .upu) (hhpt : Stable P .hpt) (hsfp : Stable P .sfp) (hfsu : Stable P .fsu) (hmsc : Stable P .msc) (hcru : Stable P .cru) (hod : Stable P .od) (hout : Stable P .out) (hhost : Stable P .host) (hgddr : Stable P .gddr) (hscratch : Stable P .scratch) (htiles : Stable P .tiles) (hpw : Stable P .pw) (hst : Stable P .st) (hev : Stable P .ev) (a0) (hs : Holds P s) : HoldsR P (execSecModeReqEnter a0 s) := by
  unfold execSecModeReqEnter
  refine HoldsR.next ?_
  simp +contextual (maxDischargeDepth := 99) [*]

@[simp ↓] theorem execSecModeReqExit_holds (hcfe : Stable P .cfe) (hcat : Stable P .cat) (hpods : Stable P .pods) (hgau : Stable P .gau) (hstk : Stable P .stk) (hmss : Stable P .mss) (hupu : Stable P .upu) (hhpt : Stable P .hpt) (hsfp : Stable P .sfp) (hfsu : Stable P .fsu) (hmsc : Stable P .msc) (hcru : Stable P .cru) (hod : Stable P .od) (hout : Stable P .out) (hhost : Stable P .host) (hgddr : Stable P .gddr) (hscratch : Stable P .scratch) (htiles : Stable P .tiles) (hpw : Stable P .pw) (hst : Stable P .st) (hev : Stable P .ev) (a0) (hs : Holds P s) : HoldsR P (execSecModeReqExit a0 s) := by
  unfold execSecModeReqExit
  refine HoldsR.next ?_
  simp +contextual (maxDischargeDepth := 99) [*]

@[simp ↓] theorem execSecJobEnd_holds (hcfe : Stable P .cfe) (hcat : Stable P .cat) (hpods : Stable P .pods) (hgau : Stable P .gau) (hstk : Stable P .stk) (hmss : Stable P .mss) (hupu : Stable P .upu) (hhpt : Stable P .hpt) (hsfp : Stable P .sfp) (hfsu : Stable P .fsu) (hmsc : Stable P .msc) (hcru : Stable P .cru) (hod : Stable P .od) (hout : Stable P .out) (hhost : Stable P .host) (hgddr : Stable P .gddr) (hscratch : Stable P .scratch) (htiles : Stable P .tiles) (hpw : Stable P .pw) (hst : Stable P .st) (hev : Stable P .ev) (a0) (hs : Holds P s) : HoldsR P (execSecJobEnd a0 s) := by
  unfold execSecJobEnd
  refine HoldsR.next ?_
  simp +contextual (maxDischargeDepth := 99) [*]

@[simp ↓] theorem execSecJobEnvelope_holds (hsfp : Stable P .sfp) (hod : Stable P .od) (hout : Stable P .out) (hev : Stable P .ev) (a0) (a1) (hs : Holds P s) : HoldsR P (execSecJobEnvelope a0 a1 s) := by
  unfold execSecJobEnvelope
  refine HoldsR.next ?_
  simp +contextual (maxDischargeDepth := 99) [*]

@[simp ↓] theorem execSecTableEnvelope_holds (hmsc : Stable P .msc) (hout : Stable P .out) (hev : Stable P .ev) (a0) (a1) (hs : Holds P s) : HoldsR P (execSecTableEnvelope a0 a1 s) := by
  unfold execSecTableEnvelope
  refine HoldsR.next ?_
  simp +contextual (maxDischargeDepth := 99) [*]

@[simp ↓] theorem execSecTableUnbind_holds (hmsc : Stable P .msc) (hcru : Stable P .cru) (hout : Stable P .out) (a0) (a1) (hs : Holds P s) : HoldsR P (execSecTableUnbind a0 a1 s) := by
  unfold execSecTableUnbind
  refine HoldsR.next ?_
  simp +contextual (maxDischargeDepth := 99) [*]

@[simp ↓] theorem execMscFwImage_holds (hmsc : Stable P .msc) (hout : Stable P .out) (a0) (a1) (hs : Holds P s) : HoldsR P (execMscFwImage a0 a1 s) := by
  unfold execMscFwImage
  refine HoldsR.next ?_
  simp +contextual (maxDischargeDepth := 99) [*]

@[simp ↓] theorem execMscFwSwitch_holds (hmsc : Stable P .msc) (hcru : Stable P .cru) (hout : Stable P .out) (a0) (hs : Holds P s) : HoldsR P (execMscFwSwitch a0 s) := by
  unfold execMscFwSwitch
  refine HoldsR.next ?_
  simp +contextual (maxDischargeDepth := 99) [*]

@[simp ↓] theorem execMscFwCommit_holds (hmsc : Stable P .msc) (hcru : Stable P .cru) (hout : Stable P .out) (a0) (hs : Holds P s) : HoldsR P (execMscFwCommit a0 s) := by
  unfold execMscFwCommit
  refine HoldsR.next ?_
  simp +contextual (maxDischargeDepth := 99) [*]

@[simp ↓] theorem loginFail_holds (hmsc : Stable P .msc) (hev : Stable P .ev) (a0) (a1) (hs : Holds P s) : Holds P (loginFail a0 a1 s) := by
  unfold loginFail
  simp +contextual (maxDischargeDepth := 99) [*]

@[simp ↓] theorem doDtlsHandshake_holds (hmsc : Stable P .msc) (hev : Stable P .ev) (a0) (a1) (hs : Holds P s) : Holds P (doDtlsHandshake a0 a1 s) := by
  unfold doDtlsHandshake
  (repeat' split) <;> simp +contextual (maxDischargeDepth := 99) [*]

@[simp ↓] theorem execDtlsHandshake_holds (hmsc : Stable P .msc) (hev : Stable P .ev) (a0) (a1) (hs : Holds P s) : HoldsR P (execDtlsHandshake a0 a1 s) := by
  unfold execDtlsHandshake
  refine HoldsR.next ?_
  simp +contextual (maxDischargeDepth := 99) [*]

@[simp ↓] theorem execSessionIdleClose_holds (hmsc : Stable P .msc) (a0) (hs : Holds P s) : HoldsR P (execSessionIdleClose a0 s) := by
  unfold execSessionIdleClose
  refine HoldsR.next ?_
  simp +contextual (maxDischargeDepth := 99) [*]

@[simp ↓] theorem doSpdm_holds (hgau : Stable P .gau) (hmsc : Stable P .msc) (hout : Stable P .out) (a0) (a1) (hs : Holds P s) : Holds P (doSpdm a0 a1 s) := by
  unfold doSpdm
  simp +contextual (maxDischargeDepth := 99) [*]

@[simp ↓] theorem execSpdm_holds (hgau : Stable P .gau) (hmsc : Stable P .msc) (hout : Stable P .out) (a0) (a1) (hs : Holds P s) : HoldsR P (execSpdm a0 a1 s) := by
  unfold execSpdm
  refine HoldsR.next ?_
  simp +contextual (maxDischargeDepth := 99) [*]

end Sys2Proof.Machine
end

