-- ==== Sys2Proof/Laws/Step.lean ====
section
/-! SUPPORT. The commands together: a predicate that no change of any part makes false holds after every command and
every step if it held before, and the stock of such predicates: each part as it was, each memory in canonical form. -/

namespace Sys2Proof.Machine

variable {P : State → Prop} {s : State}

/-- The parts that a command's meaning can change. -/
def partsOf (c : Instr) : List Part :=
  match c with
  | .nop .. | .fence .. | .fenceRelease .. | .waitGe .. | .waitEq .. | .groupOpen .. | .groupOpenComplete .. => [.cfe,
    .mq]
  | .set .. | .add .. | .counterUpdateApply .. => [.cfe, .cat, .pods, .gau, .stk, .hpt, .fsu, .msc, .cru, .od, .scratch,
    .tiles, .mq, .ev]
  | .remoteSet .. | .remoteAdd .. => [.cfe, .cat, .pods, .gau, .stk, .hpt, .sfp, .fsu, .msc, .cru, .od, .scratch,
    .tiles, .mq, .ev]
  | .syncAckTimeout .. | .replicateRow .. | .readIssue .. | .readRsp .. | .readTimeout .. => [.cfe, .cat, .pods, .gau,
    .stk, .sfp, .msc, .cru, .od, .scratch, .tiles, .mq, .ev]
  | .waitTimeout .. | .queueDisable .. => [.cfe, .cat, .pods, .mq, .ev]
  | .lookup .. | .lookupFold .. | .update .. => [.cfe, .cat, .pods, .gau, .stk, .mss, .upu, .hpt, .sfp, .msc, .cru, .od,
    .scratch, .tiles, .mq, .pw, .po, .st, .ev]
  | .rowWrite .. | .parcelApply .. | .receivedAbandon .. | .applyFaultRepair .. | .ledgerReady .. | .podReset .. |
    .podPllUnlock .. | .peuRailFault .. | .engineReady .. => [.cfe, .cat, .pods, .gau, .stk, .mss, .upu, .hpt, .sfp, .msc,
    .cru, .od, .scratch, .tiles, .mq, .pw, .st, .ev]
  | .writeDir .. | .writeDesc .. => [.cfe, .cat, .pods, .gau, .stk, .hpt, .msc, .cru, .od, .scratch, .tiles, .mq, .st,
    .ev]
  | .setState .. => [.cfe, .cat, .pods, .stk, .mq, .st, .ev]
  | .readDesc .. | .readDir .. => [.cfe, .cat, .pods, .gau, .stk, .msc, .cru, .od, .scratch, .tiles, .mq, .pw, .po, .st,
    .ev]
  | .moveShard .. => [.cfe, .cat, .pods, .sfp, .od, .mq, .pw, .st, .ev]
  | .shardSwitch .. | .moveRowCommit .. | .shelvedRowCommit .. => [.cfe, .cat, .pods, .stk, .sfp, .od, .mq, .pw, .st,
    .ev]
  | .moveRow .. => [.cfe, .cat, .pods, .od, .mq, .pw, .st, .ev]
  | .dropReplica .. | .invalRx .. => [.cfe, .cat, .pods, .sfp, .od, .mq, .ev]
  | .drainFence .. => [.cfe, .cat, .pods, .od, .mq, .st, .ev]
  | .drainFenceComplete .. => [.cfe, .cat, .od, .mq, .st]
  | .replaceBegin .. => [.cfe, .cat, .pods, .gau, .stk, .sfp, .msc, .cru, .od, .scratch, .tiles, .mq, .pw, .st, .ev]
  | .replaceCopyDone .. => [.cfe, .cat, .mq, .st]
  | .replaceCommit .. => [.cfe, .cat, .pods, .stk, .sfp, .od, .mq, .st, .ev]
  | .groupClose .. | .tileRead .. | .tileWrite .. | .exportRow .. | .tileAdd .. | .completionRecordWrite .. => [.cfe,
    .cat, .pods, .gau, .stk, .hpt, .msc, .cru, .od, .scratch, .tiles, .mq, .pw, .po, .st, .ev]
  | .zero .. => [.cfe, .cat, .pods, .gau, .stk, .mss, .hpt, .msc, .cru, .od, .gddr, .scratch, .tiles, .mq, .po, .ev]
  | .sproutLoad .. | .descriptorFetch .. | .cfeQTailDoorbell .. | .hptDieLost .. => [.cfe, .cat, .pods, .gau, .stk,
    .hpt, .msc, .cru, .od, .scratch, .tiles, .mq, .ev]
  | .admission .. => [.cfe, .cat, .pods, .gau, .stk, .fsu, .msc, .cru, .od, .scratch, .tiles, .mq, .ev]
  | .bagStart .. | .indexProcess .. | .descriptorFill .. | .segmentRelease .. | .leafPool .. | .abortedHandleFree .. |
    .latchRowFill .. | .foldCapture .. | .codebookLoad .. | .updateWindowClose .. | .rowGradientPack .. |
    .inputCurrentTrip .. | .hubPllUnlock .. | .engineContainment .. | .packageContainment .. => [.cfe, .cat, .pods, .gau,
    .stk, .msc, .cru, .od, .scratch, .tiles, .mq, .ev]
  | .callSlipFill .. | .foldWeightLoad .. | .streamReadReturn .. => [.cfe, .cat, .pods, .gau, .stk, .mss, .hpt, .msc,
    .cru, .od, .scratch, .tiles, .mq, .ev]
  | .weedAck .. | .podIdleVoltage .. => [.pods]
  | .rowReturn .. => [.cfe, .cat, .pods, .gau, .stk, .mss, .sfp, .msc, .cru, .od, .scratch, .tiles, .mq, .ev]
  | .foldPassStart .. | .foldFillWaitExpiry .. | .heatWindowBoundary .. => [.pods, .od]
  | .deepCombine .. => [.cfe, .pods, .od]
  | .parcelRelease .. => [.cfe, .upu, .sfp, .od, .mq, .st, .ev]
  | .parcelSend .. | .parcelResendTimeout .. | .parcelArrival .. => [.cfe, .cat, .pods, .gau, .stk, .mss, .upu, .hpt,
    .sfp, .msc, .cru, .od, .scratch, .tiles, .mq, .st, .ev]
  | .earlyParcelJournal .. => [.cat, .upu, .sfp, .st, .ev]
  | .parcelAckReceived .. | .twinPartnerReport .. => [.cfe, .cat, .upu, .sfp, .od, .mq, .st, .ev]
  | .slotQuarantineEnd .. => [.cat, .pods, .sfp, .od, .pw, .st, .ev]
  | .catSlotringWrite .. => [.cat, .pods, .sfp, .cru, .od, .out, .pw, .st, .ev]
  | .invalAckRx .. => [.cat, .sfp, .od, .st]
  | .catInvalTimeout .. => [.cat, .od, .st, .ev]
  | .holderReplicaExpiry .. => [.cat, .od]
  | .ixuHeatQuery .. | .hptApertureWrite .. | .ixuHashSlotWrite .. | .gauSproutBindWrite .. | .qntResidWrite .. |
    .fsuNotifyWrite .. => [.cru, .od, .out]
  | .folioBoundary .. | .jFolioInEdge .. | .tickMissed .. => [.cfe, .cat, .pods, .gau, .stk, .mss, .upu, .hpt, .sfp,
    .fsu, .msc, .cru, .od, .scratch, .tiles, .mq, .pw, .po, .st, .ev]
  | .noMarker .. | .cruRefLost .. => [.fsu, .cru, .od, .ev]
  | .marker .. => [.cat, .sfp, .fsu, .cru, .od, .ev]
  | .queueEnable .. => [.mq]
  | .evqEnable .. | .telemetryEnable .. => [.cfe, .hpt]
  | .cfeEvqPop .. | .cfeEvqGap .. | .mscRestartDone .. => [.cfe, .pods, .hpt, .msc, .od, .out, .scratch, .tiles, .pw,
    .po, .st]
  | .tileWindowWrite .. => [.pods, .od, .scratch, .tiles, .pw, .po, .st]
  | .engPathFence .. => [.hpt, .out]
  | .engReset .. | .secModeReqEnter .. | .secModeReqExit .. | .secJobEnd .. | .jRstNLow .. | .containmentFlushEnd .. =>
    [.cfe, .cat, .pods, .gau, .stk, .mss, .upu, .hpt, .sfp, .fsu, .msc, .cru, .od, .out, .host, .gddr, .scratch, .tiles,
    .pw, .st, .ev]
  | .errClear .. | .stagedValueDiscard .. | .sessionIdleClose .. => [.msc]
  | .fsuSyncValueWrite .. | .fsuSyncAddWrite .. => [.fsu]
  | .invalidate .. | .stkPartWrite .. => [.cat, .pods, .stk, .cru, .od, .out, .ev]
  | .invalidateDone .. => [.pods, .stk, .od]
  | .mmioRegisterWrite .. => [.cfe, .cat, .pods, .gau, .stk, .mss, .upu, .hpt, .sfp, .fsu, .msc, .cru, .od, .out, .host,
    .gddr, .scratch, .tiles, .mq, .pw, .po, .st, .ev]
  | .inboundWrite .. => [.pods, .hpt, .od, .scratch, .tiles, .pw, .po, .st, .ev]
  | .inboundRead .. => [.cfe, .cat, .pods, .gau, .stk, .mss, .hpt, .msc, .cru, .od, .out, .scratch, .tiles, .mq, .ev]
  | .translationInvalidate .. => [.gau, .hpt, .out]
  | .writeAck .. => [.cfe, .cat, .pods, .gau, .stk, .upu, .hpt, .msc, .cru, .od, .out, .host, .scratch, .tiles, .mq,
    .pw, .po, .st, .ev]
  | .hptLinkDown .. => [.hpt, .mq, .ev]
  | .hptLinkUpSameEpoch .. => [.cfe, .cat, .pods, .hpt, .od, .mq, .pw, .st, .ev]
  | .hptLinkUpNewEpoch .. => [.cfe, .cat, .pods, .gau, .hpt, .msc, .od, .host, .mq, .ev]
  | .hptEngineAsidWrite .. => [.pods, .hpt, .cru, .od, .out, .pw, .st]
  | .tempRead .. | .arbWindowBoundary .. => [.mss, .od, .ev]
  | .channelRetrain .. | .retrainTimeout .. | .scrubStep .. => [.cfe, .cat, .pods, .gau, .stk, .mss, .msc, .cru, .od,
    .scratch, .tiles, .mq, .ev]
  | .mssRetrain .. => [.mss, .cru, .out]
  | .overwrite .. => [.cat, .pods, .mss, .upu, .od, .gddr]
  | .mssOverwriteDone .. => [.mss, .msc, .ev]
  | .portTrain .. | .sfpPortDown .. | .link .. => [.sfp, .cru, .od, .ev]
  | .linkCellSend .. | .twinFailover .. | .uncorrectableCodeword .. | .twinRestoredNotice .. => [.sfp]
  | .readReq .. => [.cfe, .cat, .pods, .gau, .stk, .mss, .hpt, .sfp, .msc, .cru, .od, .scratch, .tiles, .mq, .st, .ev]
  | .sync .. => [.cat, .sfp, .fsu, .od, .ev]
  | .copy .. => [.cat, .pods, .upu, .sfp, .od, .pw, .st, .ev]
  | .controlResend .. | .sfpMemberSilent .. => [.sfp, .ev]
  | .descUpdate .. | .mapMirror .. => [.cat, .sfp, .od, .st, .ev]
  | .epochAdopted .. | .floorReport .. | .twinHeartbeat .. => [.cat, .sfp]
  | .floors .. | .keySwitch .. => [.cat, .sfp, .od, .ev]
  | .registrarTakeover .. => [.sfp, .od, .ev]
  | .keySwitchFolio .. | .oldKeyErase .. => [.sfp, .od]
  | .twinTimeout .. | .twinResync .. | .twinRestored .. => [.upu, .sfp, .od, .ev]
  | .twinRecopy .. => [.sfp, .msc, .ev]
  | .garwaRead .. | .garwaWriteSegment .. | .spdm .. => [.gau, .msc, .out]
  | .odWrite .. => [.cfe, .cat, .pods, .gau, .stk, .mss, .upu, .hpt, .sfp, .fsu, .msc, .cru, .od, .out, .host, .gddr,
    .scratch, .tiles, .mq, .pw, .st, .ev]
  | .dtlsHandshake .. => [.msc, .ev]
  | .secJobEnvelope .. => [.sfp, .od, .out, .ev]
  | .secTableEnvelope .. => [.msc, .out, .ev]
  | .secTableUnbind .. | .mscFwSwitch .. | .mscFwCommit .. | .mscContainRelease .. | .mscSpareMap .. |
    .refclkQualifyTimeout .. => [.msc, .cru, .out]
  | .mscFwImage .. => [.msc, .out]
  | .fwRestart .. | .fwHealthTimeout .. => [.msc, .od, .ev]
  | .mscBoot .. => [.msc, .cru, .od, .out, .ev]
  | .upuTrainEntryWrite .. => [.upu, .cru, .out, .st]
  | .stkPinWrite .. => [.stk, .cru, .od, .out, .ev]
  | .pinShardLoad .. => [.stk, .hpt, .ev]
  | .cruPodReset .. => [.cfe, .cat, .pods, .gau, .stk, .msc, .cru, .od, .out, .scratch, .tiles, .mq, .ev]
  | .podResetExit .. | .jRstNRise .. => [.cru]
  | .d2dTrainingAttempt .. | .resync .. => [.cfe, .cat, .pods, .gau, .stk, .mss, .upu, .hpt, .sfp, .msc, .cru, .od,
    .out, .scratch, .tiles, .mq, .pw, .st, .ev]
  | .refQualified .. => [.gau, .mss, .cru, .ev]
  | .cruHoldoverLost .. => [.mss, .sfp, .cru, .od, .ev]
  | .pressureUpdate .. => [.cfe, .cru, .od, .ev]
  | .inputLoss .. | .powerUp .. => [.cfe, .cat, .pods, .gau, .stk, .mss, .upu, .hpt, .sfp, .fsu, .msc, .cru, .od, .out,
    .host, .gddr, .scratch, .tiles]
  | .mscPodRetire .. => [.pods, .cru, .out]
  | .cruGateWrite .. => [.cat, .pods, .stk, .mss, .upu, .hpt, .sfp, .fsu, .cru, .od, .pw, .st, .ev]
  | .sfpRefPortWrite .. => [.sfp, .cru, .od, .out]
  | .controlAck .. => [.cfe, .cat, .pods, .sfp, .mq, .ev]
  | .badCell .. => [.od]
  | .twinMirroredParcel .. => [.upu, .sfp, .st, .ev]

theorem ofParts {c : Instr} (h : ∀ p ∈ partsOf c, Stable P p) (p : Part) (e : (partsOf c).elem p = true) : Stable P p :=
  h p (List.elem_iff.1 e)

/-- A predicate that no change of the parts of a command makes false holds after the command. -/
theorem exec_parts (c : Instr) (h : ∀ p ∈ partsOf c, Stable P p) (hs : P s) : HoldsR P (exec c s) := by
  replace hs : Holds P s := hs
  cases c <;> unfold exec
  case nop => exact execNop_holds (ofParts h .cfe rfl) (ofParts h .mq rfl) _ hs
  case fence => exact execFence_holds (ofParts h .cfe rfl) (ofParts h .mq rfl) _ hs
  case fenceRelease => exact execFenceRelease_holds (ofParts h .cfe rfl) (ofParts h .mq rfl) _ hs
  case set =>
    exact execSet_holds (ofParts h .cfe rfl) (ofParts h .cat rfl) (ofParts h .pods rfl) (ofParts h .gau rfl)
      (ofParts h .stk rfl) (ofParts h .hpt rfl) (ofParts h .fsu rfl) (ofParts h .msc rfl) (ofParts h .cru rfl)
      (ofParts h .od rfl) (ofParts h .scratch rfl) (ofParts h .tiles rfl) (ofParts h .mq rfl) (ofParts h .ev rfl) _ hs
  case add =>
    exact execAdd_holds (ofParts h .cfe rfl) (ofParts h .cat rfl) (ofParts h .pods rfl) (ofParts h .gau rfl)
      (ofParts h .stk rfl) (ofParts h .hpt rfl) (ofParts h .fsu rfl) (ofParts h .msc rfl) (ofParts h .cru rfl)
      (ofParts h .od rfl) (ofParts h .scratch rfl) (ofParts h .tiles rfl) (ofParts h .mq rfl) (ofParts h .ev rfl) _ hs
  case waitGe => exact execWaitGe_holds (ofParts h .cfe rfl) (ofParts h .mq rfl) _ hs
  case waitEq => exact execWaitEq_holds (ofParts h .cfe rfl) (ofParts h .mq rfl) _ hs
  case remoteSet =>
    exact execRemoteSet_holds (ofParts h .cfe rfl) (ofParts h .cat rfl) (ofParts h .pods rfl) (ofParts h .gau rfl)
      (ofParts h .stk rfl) (ofParts h .hpt rfl) (ofParts h .sfp rfl) (ofParts h .fsu rfl) (ofParts h .msc rfl)
      (ofParts h .cru rfl) (ofParts h .od rfl) (ofParts h .scratch rfl) (ofParts h .tiles rfl) (ofParts h .mq rfl)
      (ofParts h .ev rfl) _ hs
  case remoteAdd =>
    exact execRemoteAdd_holds (ofParts h .cfe rfl) (ofParts h .cat rfl) (ofParts h .pods rfl) (ofParts h .gau rfl)
      (ofParts h .stk rfl) (ofParts h .hpt rfl) (ofParts h .sfp rfl) (ofParts h .fsu rfl) (ofParts h .msc rfl)
      (ofParts h .cru rfl) (ofParts h .od rfl) (ofParts h .scratch rfl) (ofParts h .tiles rfl) (ofParts h .mq rfl)
      (ofParts h .ev rfl) _ hs
  case syncAckTimeout =>
    exact execSyncAckTimeout_holds (ofParts h .cfe rfl) (ofParts h .cat rfl) (ofParts h .pods rfl)
      (ofParts h .gau rfl) (ofParts h .stk rfl) (ofParts h .sfp rfl) (ofParts h .msc rfl) (ofParts h .cru rfl)
      (ofParts h .od rfl) (ofParts h .scratch rfl) (ofParts h .tiles rfl) (ofParts h .mq rfl) (ofParts h .ev rfl) _ hs
  case counterUpdateApply =>
    exact execCounterUpdateApply_holds (ofParts h .cfe rfl) (ofParts h .cat rfl) (ofParts h .pods rfl)
      (ofParts h .gau rfl) (ofParts h .stk rfl) (ofParts h .hpt rfl) (ofParts h .fsu rfl) (ofParts h .msc rfl)
      (ofParts h .cru rfl) (ofParts h .od rfl) (ofParts h .scratch rfl) (ofParts h .tiles rfl) (ofParts h .mq rfl)
      (ofParts h .ev rfl) _ hs
  case waitTimeout =>
    exact execWaitTimeout_holds (ofParts h .cfe rfl) (ofParts h .cat rfl) (ofParts h .pods rfl) (ofParts h .mq rfl)
      (ofParts h .ev rfl) _ hs
  case lookup =>
    exact execLookup_holds (ofParts h .cfe rfl) (ofParts h .cat rfl) (ofParts h .pods rfl) (ofParts h .gau rfl)
      (ofParts h .stk rfl) (ofParts h .mss rfl) (ofParts h .upu rfl) (ofParts h .hpt rfl) (ofParts h .sfp rfl)
      (ofParts h .msc rfl) (ofParts h .cru rfl) (ofParts h .od rfl) (ofParts h .scratch rfl) (ofParts h .tiles rfl)
      (ofParts h .mq rfl) (ofParts h .pw rfl) (ofParts h .po rfl) (ofParts h .st rfl) (ofParts h .ev rfl) _ hs
  case lookupFold =>
    exact execLookupFold_holds (ofParts h .cfe rfl) (ofParts h .cat rfl) (ofParts h .pods rfl) (ofParts h .gau rfl)
      (ofParts h .stk rfl) (ofParts h .mss rfl) (ofParts h .upu rfl) (ofParts h .hpt rfl) (ofParts h .sfp rfl)
      (ofParts h .msc rfl) (ofParts h .cru rfl) (ofParts h .od rfl) (ofParts h .scratch rfl) (ofParts h .tiles rfl)
      (ofParts h .mq rfl) (ofParts h .pw rfl) (ofParts h .po rfl) (ofParts h .st rfl) (ofParts h .ev rfl) _ hs
  case update =>
    exact execUpdate_holds (ofParts h .cfe rfl) (ofParts h .cat rfl) (ofParts h .pods rfl) (ofParts h .gau rfl)
      (ofParts h .stk rfl) (ofParts h .mss rfl) (ofParts h .upu rfl) (ofParts h .hpt rfl) (ofParts h .sfp rfl)
      (ofParts h .msc rfl) (ofParts h .cru rfl) (ofParts h .od rfl) (ofParts h .scratch rfl) (ofParts h .tiles rfl)
      (ofParts h .mq rfl) (ofParts h .pw rfl) (ofParts h .po rfl) (ofParts h .st rfl) (ofParts h .ev rfl) _ hs
  case rowWrite =>
    exact execRowWrite_holds (ofParts h .cfe rfl) (ofParts h .cat rfl) (ofParts h .pods rfl) (ofParts h .gau rfl)
      (ofParts h .stk rfl) (ofParts h .mss rfl) (ofParts h .upu rfl) (ofParts h .hpt rfl) (ofParts h .sfp rfl)
      (ofParts h .msc rfl) (ofParts h .cru rfl) (ofParts h .od rfl) (ofParts h .scratch rfl) (ofParts h .tiles rfl)
      (ofParts h .mq rfl) (ofParts h .pw rfl) (ofParts h .st rfl) (ofParts h .ev rfl) _ hs
  case writeDir =>
    exact execWriteDir_holds (ofParts h .cfe rfl) (ofParts h .cat rfl) (ofParts h .pods rfl) (ofParts h .gau rfl)
      (ofParts h .stk rfl) (ofParts h .hpt rfl) (ofParts h .msc rfl) (ofParts h .cru rfl) (ofParts h .od rfl)
      (ofParts h .scratch rfl) (ofParts h .tiles rfl) (ofParts h .mq rfl) (ofParts h .st rfl) (ofParts h .ev rfl) _ hs
  case writeDesc =>
    exact execWriteDesc_holds (ofParts h .cfe rfl) (ofParts h .cat rfl) (ofParts h .pods rfl) (ofParts h .gau rfl)
      (ofParts h .stk rfl) (ofParts h .hpt rfl) (ofParts h .msc rfl) (ofParts h .cru rfl) (ofParts h .od rfl)
      (ofParts h .scratch rfl) (ofParts h .tiles rfl) (ofParts h .mq rfl) (ofParts h .st rfl) (ofParts h .ev rfl) _ hs
  case setState =>
    exact execSetState_holds (ofParts h .cfe rfl) (ofParts h .cat rfl) (ofParts h .pods rfl) (ofParts h .stk rfl)
      (ofParts h .mq rfl) (ofParts h .st rfl) (ofParts h .ev rfl) _ hs
  case readDesc =>
    exact execReadDesc_holds (ofParts h .cfe rfl) (ofParts h .cat rfl) (ofParts h .pods rfl) (ofParts h .gau rfl)
      (ofParts h .stk rfl) (ofParts h .msc rfl) (ofParts h .cru rfl) (ofParts h .od rfl) (ofParts h .scratch rfl)
      (ofParts h .tiles rfl) (ofParts h .mq rfl) (ofParts h .pw rfl) (ofParts h .po rfl) (ofParts h .st rfl)
      (ofParts h .ev rfl) _ hs
  case readDir =>
    exact execReadDir_holds (ofParts h .cfe rfl) (ofParts h .cat rfl) (ofParts h .pods rfl) (ofParts h .gau rfl)
      (ofParts h .stk rfl) (ofParts h .msc rfl) (ofParts h .cru rfl) (ofParts h .od rfl) (ofParts h .scratch rfl)
      (ofParts h .tiles rfl) (ofParts h .mq rfl) (ofParts h .pw rfl) (ofParts h .po rfl) (ofParts h .st rfl)
      (ofParts h .ev rfl) _ hs
  case moveShard =>
    exact execMoveShard_holds (ofParts h .cfe rfl) (ofParts h .cat rfl) (ofParts h .pods rfl) (ofParts h .sfp rfl)
      (ofParts h .od rfl) (ofParts h .mq rfl) (ofParts h .pw rfl) (ofParts h .st rfl) (ofParts h .ev rfl) _ hs
  case shardSwitch =>
    exact execShardSwitch_holds (ofParts h .cfe rfl) (ofParts h .cat rfl) (ofParts h .pods rfl) (ofParts h .stk rfl)
      (ofParts h .sfp rfl) (ofParts h .od rfl) (ofParts h .mq rfl) (ofParts h .pw rfl) (ofParts h .st rfl)
      (ofParts h .ev rfl) _ hs
  case moveRow =>
    exact execMoveRow_holds (ofParts h .cfe rfl) (ofParts h .cat rfl) (ofParts h .pods rfl) (ofParts h .od rfl)
      (ofParts h .mq rfl) (ofParts h .pw rfl) (ofParts h .st rfl) (ofParts h .ev rfl) _ hs
  case moveRowCommit =>
    exact execMoveRowCommit_holds (ofParts h .cfe rfl) (ofParts h .cat rfl) (ofParts h .pods rfl) (ofParts h .stk rfl)
      (ofParts h .sfp rfl) (ofParts h .od rfl) (ofParts h .mq rfl) (ofParts h .pw rfl) (ofParts h .st rfl)
      (ofParts h .ev rfl) _ hs
  case replicateRow =>
    exact execReplicateRow_holds (ofParts h .cfe rfl) (ofParts h .cat rfl) (ofParts h .pods rfl) (ofParts h .gau rfl)
      (ofParts h .stk rfl) (ofParts h .sfp rfl) (ofParts h .msc rfl) (ofParts h .cru rfl) (ofParts h .od rfl)
      (ofParts h .scratch rfl) (ofParts h .tiles rfl) (ofParts h .mq rfl) (ofParts h .ev rfl) _ hs
  case dropReplica =>
    exact execDropReplica_holds (ofParts h .cfe rfl) (ofParts h .cat rfl) (ofParts h .pods rfl) (ofParts h .sfp rfl)
      (ofParts h .od rfl) (ofParts h .mq rfl) (ofParts h .ev rfl) _ hs
  case drainFence =>
    exact execDrainFence_holds (ofParts h .cfe rfl) (ofParts h .cat rfl) (ofParts h .pods rfl) (ofParts h .od rfl)
      (ofParts h .mq rfl) (ofParts h .st rfl) (ofParts h .ev rfl) _ hs
  case drainFenceComplete =>
    exact execDrainFenceComplete_holds (ofParts h .cfe rfl) (ofParts h .cat rfl) (ofParts h .od rfl)
      (ofParts h .mq rfl) (ofParts h .st rfl) _ hs
  case replaceBegin =>
    exact execReplaceBegin_holds (ofParts h .cfe rfl) (ofParts h .cat rfl) (ofParts h .pods rfl) (ofParts h .gau rfl)
      (ofParts h .stk rfl) (ofParts h .sfp rfl) (ofParts h .msc rfl) (ofParts h .cru rfl) (ofParts h .od rfl)
      (ofParts h .scratch rfl) (ofParts h .tiles rfl) (ofParts h .mq rfl) (ofParts h .pw rfl) (ofParts h .st rfl)
      (ofParts h .ev rfl) _ hs
  case replaceCopyDone =>
    exact execReplaceCopyDone_holds (ofParts h .cfe rfl) (ofParts h .cat rfl) (ofParts h .mq rfl) (ofParts h .st rfl)
      _ hs
  case replaceCommit =>
    exact execReplaceCommit_holds (ofParts h .cfe rfl) (ofParts h .cat rfl) (ofParts h .pods rfl) (ofParts h .stk rfl)
      (ofParts h .sfp rfl) (ofParts h .od rfl) (ofParts h .mq rfl) (ofParts h .st rfl) (ofParts h .ev rfl) _ hs
  case groupOpen => exact execGroupOpen_holds (ofParts h .cfe rfl) (ofParts h .mq rfl) _ hs
  case groupOpenComplete => exact execGroupOpenComplete_holds (ofParts h .cfe rfl) (ofParts h .mq rfl) _ hs
  case groupClose =>
    exact execGroupClose_holds (ofParts h .cfe rfl) (ofParts h .cat rfl) (ofParts h .pods rfl) (ofParts h .gau rfl)
      (ofParts h .stk rfl) (ofParts h .hpt rfl) (ofParts h .msc rfl) (ofParts h .cru rfl) (ofParts h .od rfl)
      (ofParts h .scratch rfl) (ofParts h .tiles rfl) (ofParts h .mq rfl) (ofParts h .pw rfl) (ofParts h .po rfl)
      (ofParts h .st rfl) (ofParts h .ev rfl) _ hs
  case tileRead =>
    exact execTileRead_holds (ofParts h .cfe rfl) (ofParts h .cat rfl) (ofParts h .pods rfl) (ofParts h .gau rfl)
      (ofParts h .stk rfl) (ofParts h .hpt rfl) (ofParts h .msc rfl) (ofParts h .cru rfl) (ofParts h .od rfl)
      (ofParts h .scratch rfl) (ofParts h .tiles rfl) (ofParts h .mq rfl) (ofParts h .pw rfl) (ofParts h .po rfl)
      (ofParts h .st rfl) (ofParts h .ev rfl) _ hs
  case tileWrite =>
    exact execTileWrite_holds (ofParts h .cfe rfl) (ofParts h .cat rfl) (ofParts h .pods rfl) (ofParts h .gau rfl)
      (ofParts h .stk rfl) (ofParts h .hpt rfl) (ofParts h .msc rfl) (ofParts h .cru rfl) (ofParts h .od rfl)
      (ofParts h .scratch rfl) (ofParts h .tiles rfl) (ofParts h .mq rfl) (ofParts h .pw rfl) (ofParts h .po rfl)
      (ofParts h .st rfl) (ofParts h .ev rfl) _ hs
  case zero =>
    exact execZero_holds (ofParts h .cfe rfl) (ofParts h .cat rfl) (ofParts h .pods rfl) (ofParts h .gau rfl)
      (ofParts h .stk rfl) (ofParts h .mss rfl) (ofParts h .hpt rfl) (ofParts h .msc rfl) (ofParts h .cru rfl)
      (ofParts h .od rfl) (ofParts h .gddr rfl) (ofParts h .scratch rfl) (ofParts h .tiles rfl) (ofParts h .mq rfl)
      (ofParts h .po rfl) (ofParts h .ev rfl) _ hs
  case sproutLoad =>
    exact execSproutLoad_holds (ofParts h .cfe rfl) (ofParts h .cat rfl) (ofParts h .pods rfl) (ofParts h .gau rfl)
      (ofParts h .stk rfl) (ofParts h .hpt rfl) (ofParts h .msc rfl) (ofParts h .cru rfl) (ofParts h .od rfl)
      (ofParts h .scratch rfl) (ofParts h .tiles rfl) (ofParts h .mq rfl) (ofParts h .ev rfl) _ hs
  case descriptorFetch =>
    exact execDescriptorFetch_holds (ofParts h .cfe rfl) (ofParts h .cat rfl) (ofParts h .pods rfl)
      (ofParts h .gau rfl) (ofParts h .stk rfl) (ofParts h .hpt rfl) (ofParts h .msc rfl) (ofParts h .cru rfl)
      (ofParts h .od rfl) (ofParts h .scratch rfl) (ofParts h .tiles rfl) (ofParts h .mq rfl) (ofParts h .ev rfl) hs
  case admission =>
    exact execAdmission_holds (ofParts h .cfe rfl) (ofParts h .cat rfl) (ofParts h .pods rfl) (ofParts h .gau rfl)
      (ofParts h .stk rfl) (ofParts h .fsu rfl) (ofParts h .msc rfl) (ofParts h .cru rfl) (ofParts h .od rfl)
      (ofParts h .scratch rfl) (ofParts h .tiles rfl) (ofParts h .mq rfl) (ofParts h .ev rfl) hs
  case bagStart =>
    exact execBagStart_holds (ofParts h .cfe rfl) (ofParts h .cat rfl) (ofParts h .pods rfl) (ofParts h .gau rfl)
      (ofParts h .stk rfl) (ofParts h .msc rfl) (ofParts h .cru rfl) (ofParts h .od rfl) (ofParts h .scratch rfl)
      (ofParts h .tiles rfl) (ofParts h .mq rfl) (ofParts h .ev rfl) _ hs
  case indexProcess =>
    exact execIndexProcess_holds (ofParts h .cfe rfl) (ofParts h .cat rfl) (ofParts h .pods rfl) (ofParts h .gau rfl)
      (ofParts h .stk rfl) (ofParts h .msc rfl) (ofParts h .cru rfl) (ofParts h .od rfl) (ofParts h .scratch rfl)
      (ofParts h .tiles rfl) (ofParts h .mq rfl) (ofParts h .ev rfl) _ _ _ hs
  case descriptorFill =>
    exact execDescriptorFill_holds (ofParts h .cfe rfl) (ofParts h .cat rfl) (ofParts h .pods rfl)
      (ofParts h .gau rfl) (ofParts h .stk rfl) (ofParts h .msc rfl) (ofParts h .cru rfl) (ofParts h .od rfl)
      (ofParts h .scratch rfl) (ofParts h .tiles rfl) (ofParts h .mq rfl) (ofParts h .ev rfl) _ hs
  case segmentRelease =>
    exact execSegmentRelease_holds (ofParts h .cfe rfl) (ofParts h .cat rfl) (ofParts h .pods rfl)
      (ofParts h .gau rfl) (ofParts h .stk rfl) (ofParts h .msc rfl) (ofParts h .cru rfl) (ofParts h .od rfl)
      (ofParts h .scratch rfl) (ofParts h .tiles rfl) (ofParts h .mq rfl) (ofParts h .ev rfl) _ _ _ hs
  case readIssue =>
    exact execReadIssue_holds (ofParts h .cfe rfl) (ofParts h .cat rfl) (ofParts h .pods rfl) (ofParts h .gau rfl)
      (ofParts h .stk rfl) (ofParts h .sfp rfl) (ofParts h .msc rfl) (ofParts h .cru rfl) (ofParts h .od rfl)
      (ofParts h .scratch rfl) (ofParts h .tiles rfl) (ofParts h .mq rfl) (ofParts h .ev rfl) _ _ _ hs
  case callSlipFill =>
    exact execCallSlipFill_holds (ofParts h .cfe rfl) (ofParts h .cat rfl) (ofParts h .pods rfl) (ofParts h .gau rfl)
      (ofParts h .stk rfl) (ofParts h .mss rfl) (ofParts h .hpt rfl) (ofParts h .msc rfl) (ofParts h .cru rfl)
      (ofParts h .od rfl) (ofParts h .scratch rfl) (ofParts h .tiles rfl) (ofParts h .mq rfl) (ofParts h .ev rfl) _ _
      hs
  case weedAck => exact execWeedAck_holds (ofParts h .pods rfl) _ hs
  case rowReturn =>
    exact execRowReturn_holds (ofParts h .cfe rfl) (ofParts h .cat rfl) (ofParts h .pods rfl) (ofParts h .gau rfl)
      (ofParts h .stk rfl) (ofParts h .mss rfl) (ofParts h .sfp rfl) (ofParts h .msc rfl) (ofParts h .cru rfl)
      (ofParts h .od rfl) (ofParts h .scratch rfl) (ofParts h .tiles rfl) (ofParts h .mq rfl) (ofParts h .ev rfl) _ _
      hs
  case leafPool =>
    exact execLeafPool_holds (ofParts h .cfe rfl) (ofParts h .cat rfl) (ofParts h .pods rfl) (ofParts h .gau rfl)
      (ofParts h .stk rfl) (ofParts h .msc rfl) (ofParts h .cru rfl) (ofParts h .od rfl) (ofParts h .scratch rfl)
      (ofParts h .tiles rfl) (ofParts h .mq rfl) (ofParts h .ev rfl) _ _ _ hs
  case exportRow =>
    exact execExportRow_holds (ofParts h .cfe rfl) (ofParts h .cat rfl) (ofParts h .pods rfl) (ofParts h .gau rfl)
      (ofParts h .stk rfl) (ofParts h .hpt rfl) (ofParts h .msc rfl) (ofParts h .cru rfl) (ofParts h .od rfl)
      (ofParts h .scratch rfl) (ofParts h .tiles rfl) (ofParts h .mq rfl) (ofParts h .pw rfl) (ofParts h .po rfl)
      (ofParts h .st rfl) (ofParts h .ev rfl) _ hs
  case tileAdd =>
    exact execTileAdd_holds (ofParts h .cfe rfl) (ofParts h .cat rfl) (ofParts h .pods rfl) (ofParts h .gau rfl)
      (ofParts h .stk rfl) (ofParts h .hpt rfl) (ofParts h .msc rfl) (ofParts h .cru rfl) (ofParts h .od rfl)
      (ofParts h .scratch rfl) (ofParts h .tiles rfl) (ofParts h .mq rfl) (ofParts h .pw rfl) (ofParts h .po rfl)
      (ofParts h .st rfl) (ofParts h .ev rfl) _ hs
  case abortedHandleFree =>
    exact execAbortedHandleFree_holds (ofParts h .cfe rfl) (ofParts h .cat rfl) (ofParts h .pods rfl)
      (ofParts h .gau rfl) (ofParts h .stk rfl) (ofParts h .msc rfl) (ofParts h .cru rfl) (ofParts h .od rfl)
      (ofParts h .scratch rfl) (ofParts h .tiles rfl) (ofParts h .mq rfl) (ofParts h .ev rfl) _ _ hs
  case latchRowFill =>
    exact execLatchRowFill_holds (ofParts h .cfe rfl) (ofParts h .cat rfl) (ofParts h .pods rfl) (ofParts h .gau rfl)
      (ofParts h .stk rfl) (ofParts h .msc rfl) (ofParts h .cru rfl) (ofParts h .od rfl) (ofParts h .scratch rfl)
      (ofParts h .tiles rfl) (ofParts h .mq rfl) (ofParts h .ev rfl) _ hs
  case foldPassStart => exact execFoldPassStart_holds (ofParts h .pods rfl) (ofParts h .od rfl) _ hs
  case foldFillWaitExpiry => exact execFoldFillWaitExpiry_holds (ofParts h .pods rfl) (ofParts h .od rfl) _ hs
  case foldCapture =>
    exact execFoldCapture_holds (ofParts h .cfe rfl) (ofParts h .cat rfl) (ofParts h .pods rfl) (ofParts h .gau rfl)
      (ofParts h .stk rfl) (ofParts h .msc rfl) (ofParts h .cru rfl) (ofParts h .od rfl) (ofParts h .scratch rfl)
      (ofParts h .tiles rfl) (ofParts h .mq rfl) (ofParts h .ev rfl) _ hs
  case foldWeightLoad =>
    exact execFoldWeightLoad_holds (ofParts h .cfe rfl) (ofParts h .cat rfl) (ofParts h .pods rfl)
      (ofParts h .gau rfl) (ofParts h .stk rfl) (ofParts h .mss rfl) (ofParts h .hpt rfl) (ofParts h .msc rfl)
      (ofParts h .cru rfl) (ofParts h .od rfl) (ofParts h .scratch rfl) (ofParts h .tiles rfl) (ofParts h .mq rfl)
      (ofParts h .ev rfl) _ hs
  case codebookLoad =>
    exact execCodebookLoad_holds (ofParts h .cfe rfl) (ofParts h .cat rfl) (ofParts h .pods rfl) (ofParts h .gau rfl)
      (ofParts h .stk rfl) (ofParts h .msc rfl) (ofParts h .cru rfl) (ofParts h .od rfl) (ofParts h .scratch rfl)
      (ofParts h .tiles rfl) (ofParts h .mq rfl) (ofParts h .ev rfl) _ _ _ _ hs
  case completionRecordWrite =>
    exact execCompletionRecordWrite_holds (ofParts h .cfe rfl) (ofParts h .cat rfl) (ofParts h .pods rfl)
      (ofParts h .gau rfl) (ofParts h .stk rfl) (ofParts h .hpt rfl) (ofParts h .msc rfl) (ofParts h .cru rfl)
      (ofParts h .od rfl) (ofParts h .scratch rfl) (ofParts h .tiles rfl) (ofParts h .mq rfl) (ofParts h .pw rfl)
      (ofParts h .po rfl) (ofParts h .st rfl) (ofParts h .ev rfl) _ hs
  case updateWindowClose =>
    exact execUpdateWindowClose_holds (ofParts h .cfe rfl) (ofParts h .cat rfl) (ofParts h .pods rfl)
      (ofParts h .gau rfl) (ofParts h .stk rfl) (ofParts h .msc rfl) (ofParts h .cru rfl) (ofParts h .od rfl)
      (ofParts h .scratch rfl) (ofParts h .tiles rfl) (ofParts h .mq rfl) (ofParts h .ev rfl) _ _ hs
  case deepCombine => exact execDeepCombine_holds (ofParts h .cfe rfl) (ofParts h .pods rfl) (ofParts h .od rfl) _ _ hs
  case rowGradientPack =>
    exact execRowGradientPack_holds (ofParts h .cfe rfl) (ofParts h .cat rfl) (ofParts h .pods rfl)
      (ofParts h .gau rfl) (ofParts h .stk rfl) (ofParts h .msc rfl) (ofParts h .cru rfl) (ofParts h .od rfl)
      (ofParts h .scratch rfl) (ofParts h .tiles rfl) (ofParts h .mq rfl) (ofParts h .ev rfl) _ hs
  case parcelRelease =>
    exact execParcelRelease_holds (ofParts h .cfe rfl) (ofParts h .upu rfl) (ofParts h .sfp rfl) (ofParts h .od rfl)
      (ofParts h .mq rfl) (ofParts h .st rfl) (ofParts h .ev rfl) _ hs
  case parcelSend =>
    exact execParcelSend_holds (ofParts h .cfe rfl) (ofParts h .cat rfl) (ofParts h .pods rfl) (ofParts h .gau rfl)
      (ofParts h .stk rfl) (ofParts h .mss rfl) (ofParts h .upu rfl) (ofParts h .hpt rfl) (ofParts h .sfp rfl)
      (ofParts h .msc rfl) (ofParts h .cru rfl) (ofParts h .od rfl) (ofParts h .scratch rfl) (ofParts h .tiles rfl)
      (ofParts h .mq rfl) (ofParts h .st rfl) (ofParts h .ev rfl) _ hs
  case parcelResendTimeout =>
    exact execParcelResendTimeout_holds (ofParts h .cfe rfl) (ofParts h .cat rfl) (ofParts h .pods rfl)
      (ofParts h .gau rfl) (ofParts h .stk rfl) (ofParts h .mss rfl) (ofParts h .upu rfl) (ofParts h .hpt rfl)
      (ofParts h .sfp rfl) (ofParts h .msc rfl) (ofParts h .cru rfl) (ofParts h .od rfl) (ofParts h .scratch rfl)
      (ofParts h .tiles rfl) (ofParts h .mq rfl) (ofParts h .st rfl) (ofParts h .ev rfl) _ hs
  case parcelArrival =>
    exact execParcelArrival_holds (ofParts h .cfe rfl) (ofParts h .cat rfl) (ofParts h .pods rfl) (ofParts h .gau rfl)
      (ofParts h .stk rfl) (ofParts h .mss rfl) (ofParts h .upu rfl) (ofParts h .hpt rfl) (ofParts h .sfp rfl)
      (ofParts h .msc rfl) (ofParts h .cru rfl) (ofParts h .od rfl) (ofParts h .scratch rfl) (ofParts h .tiles rfl)
      (ofParts h .mq rfl) (ofParts h .st rfl) (ofParts h .ev rfl) _ _ hs
  case earlyParcelJournal =>
    exact execEarlyParcelJournal_holds (ofParts h .cat rfl) (ofParts h .upu rfl) (ofParts h .sfp rfl)
      (ofParts h .st rfl) (ofParts h .ev rfl) _ hs
  case parcelApply =>
    exact execParcelApply_holds (ofParts h .cfe rfl) (ofParts h .cat rfl) (ofParts h .pods rfl) (ofParts h .gau rfl)
      (ofParts h .stk rfl) (ofParts h .mss rfl) (ofParts h .upu rfl) (ofParts h .hpt rfl) (ofParts h .sfp rfl)
      (ofParts h .msc rfl) (ofParts h .cru rfl) (ofParts h .od rfl) (ofParts h .scratch rfl) (ofParts h .tiles rfl)
      (ofParts h .mq rfl) (ofParts h .pw rfl) (ofParts h .st rfl) (ofParts h .ev rfl) hs
  case parcelAckReceived =>
    exact execParcelAckReceived_holds (ofParts h .cfe rfl) (ofParts h .cat rfl) (ofParts h .upu rfl)
      (ofParts h .sfp rfl) (ofParts h .od rfl) (ofParts h .mq rfl) (ofParts h .st rfl) (ofParts h .ev rfl) _ _ _ _ hs
  case receivedAbandon =>
    exact execReceivedAbandon_holds (ofParts h .cfe rfl) (ofParts h .cat rfl) (ofParts h .pods rfl)
      (ofParts h .gau rfl) (ofParts h .stk rfl) (ofParts h .mss rfl) (ofParts h .upu rfl) (ofParts h .hpt rfl)
      (ofParts h .sfp rfl) (ofParts h .msc rfl) (ofParts h .cru rfl) (ofParts h .od rfl) (ofParts h .scratch rfl)
      (ofParts h .tiles rfl) (ofParts h .mq rfl) (ofParts h .pw rfl) (ofParts h .st rfl) (ofParts h .ev rfl) _ _ hs
  case applyFaultRepair =>
    exact execApplyFaultRepair_holds (ofParts h .cfe rfl) (ofParts h .cat rfl) (ofParts h .pods rfl)
      (ofParts h .gau rfl) (ofParts h .stk rfl) (ofParts h .mss rfl) (ofParts h .upu rfl) (ofParts h .hpt rfl)
      (ofParts h .sfp rfl) (ofParts h .msc rfl) (ofParts h .cru rfl) (ofParts h .od rfl) (ofParts h .scratch rfl)
      (ofParts h .tiles rfl) (ofParts h .mq rfl) (ofParts h .pw rfl) (ofParts h .st rfl) (ofParts h .ev rfl) _ hs
  case shelvedRowCommit =>
    exact execShelvedRowCommit_holds (ofParts h .cfe rfl) (ofParts h .cat rfl) (ofParts h .pods rfl)
      (ofParts h .stk rfl) (ofParts h .sfp rfl) (ofParts h .od rfl) (ofParts h .mq rfl) (ofParts h .pw rfl)
      (ofParts h .st rfl) (ofParts h .ev rfl) _ hs
  case slotQuarantineEnd =>
    exact execSlotQuarantineEnd_holds (ofParts h .cat rfl) (ofParts h .pods rfl) (ofParts h .sfp rfl)
      (ofParts h .od rfl) (ofParts h .pw rfl) (ofParts h .st rfl) (ofParts h .ev rfl) _ hs
  case catSlotringWrite =>
    exact execCatSlotringWrite_holds (ofParts h .cat rfl) (ofParts h .pods rfl) (ofParts h .sfp rfl)
      (ofParts h .cru rfl) (ofParts h .od rfl) (ofParts h .out rfl) (ofParts h .pw rfl) (ofParts h .st rfl)
      (ofParts h .ev rfl) _ _ _ hs
  case invalRx =>
    exact execInvalRx_holds (ofParts h .cfe rfl) (ofParts h .cat rfl) (ofParts h .pods rfl) (ofParts h .sfp rfl)
      (ofParts h .od rfl) (ofParts h .mq rfl) (ofParts h .ev rfl) _ _ _ hs
  case invalAckRx =>
    exact execInvalAckRx_holds (ofParts h .cat rfl) (ofParts h .sfp rfl) (ofParts h .od rfl) (ofParts h .st rfl) _ _ _
      hs
  case catInvalTimeout =>
    exact execCatInvalTimeout_holds (ofParts h .cat rfl) (ofParts h .od rfl) (ofParts h .st rfl) (ofParts h .ev rfl) _
      _ _ hs
  case holderReplicaExpiry => exact execHolderReplicaExpiry_holds (ofParts h .cat rfl) (ofParts h .od rfl) _ hs
  case heatWindowBoundary => exact execHeatWindowBoundary_holds (ofParts h .pods rfl) (ofParts h .od rfl) hs
  case ixuHeatQuery => exact execIxuHeatQuery_holds (ofParts h .cru rfl) (ofParts h .od rfl) (ofParts h .out rfl) _ _ hs
  case folioBoundary =>
    exact execFolioBoundary_holds (ofParts h .cfe rfl) (ofParts h .cat rfl) (ofParts h .pods rfl) (ofParts h .gau rfl)
      (ofParts h .stk rfl) (ofParts h .mss rfl) (ofParts h .upu rfl) (ofParts h .hpt rfl) (ofParts h .sfp rfl)
      (ofParts h .fsu rfl) (ofParts h .msc rfl) (ofParts h .cru rfl) (ofParts h .od rfl) (ofParts h .scratch rfl)
      (ofParts h .tiles rfl) (ofParts h .mq rfl) (ofParts h .pw rfl) (ofParts h .po rfl) (ofParts h .st rfl)
      (ofParts h .ev rfl) hs
  case noMarker =>
    exact execNoMarker_holds (ofParts h .fsu rfl) (ofParts h .cru rfl) (ofParts h .od rfl) (ofParts h .ev rfl) hs
  case marker =>
    exact execMarker_holds (ofParts h .cat rfl) (ofParts h .sfp rfl) (ofParts h .fsu rfl) (ofParts h .cru rfl)
      (ofParts h .od rfl) (ofParts h .ev rfl) _ _ _ hs
  case jFolioInEdge =>
    exact execJFolioInEdge_holds (ofParts h .cfe rfl) (ofParts h .cat rfl) (ofParts h .pods rfl) (ofParts h .gau rfl)
      (ofParts h .stk rfl) (ofParts h .mss rfl) (ofParts h .upu rfl) (ofParts h .hpt rfl) (ofParts h .sfp rfl)
      (ofParts h .fsu rfl) (ofParts h .msc rfl) (ofParts h .cru rfl) (ofParts h .od rfl) (ofParts h .scratch rfl)
      (ofParts h .tiles rfl) (ofParts h .mq rfl) (ofParts h .pw rfl) (ofParts h .po rfl) (ofParts h .st rfl)
      (ofParts h .ev rfl) _ hs
  case tickMissed =>
    exact execTickMissed_holds (ofParts h .cfe rfl) (ofParts h .cat rfl) (ofParts h .pods rfl) (ofParts h .gau rfl)
      (ofParts h .stk rfl) (ofParts h .mss rfl) (ofParts h .upu rfl) (ofParts h .hpt rfl) (ofParts h .sfp rfl)
      (ofParts h .fsu rfl) (ofParts h .msc rfl) (ofParts h .cru rfl) (ofParts h .od rfl) (ofParts h .scratch rfl)
      (ofParts h .tiles rfl) (ofParts h .mq rfl) (ofParts h .pw rfl) (ofParts h .po rfl) (ofParts h .st rfl)
      (ofParts h .ev rfl) hs
  case cfeQTailDoorbell =>
    exact execCfeQTailDoorbell_holds (ofParts h .cfe rfl) (ofParts h .cat rfl) (ofParts h .pods rfl)
      (ofParts h .gau rfl) (ofParts h .stk rfl) (ofParts h .hpt rfl) (ofParts h .msc rfl) (ofParts h .cru rfl)
      (ofParts h .od rfl) (ofParts h .scratch rfl) (ofParts h .tiles rfl) (ofParts h .mq rfl) (ofParts h .ev rfl) _ _
      hs
  case queueEnable => exact execQueueEnable_holds (ofParts h .mq rfl) _ _ hs
  case queueDisable =>
    exact execQueueDisable_holds (ofParts h .cfe rfl) (ofParts h .cat rfl) (ofParts h .pods rfl) (ofParts h .mq rfl)
      (ofParts h .ev rfl) _ _ hs
  case evqEnable => exact execEvqEnable_holds (ofParts h .cfe rfl) (ofParts h .hpt rfl) _ _ hs
  case cfeEvqPop =>
    exact execCfeEvqPop_holds (ofParts h .cfe rfl) (ofParts h .pods rfl) (ofParts h .hpt rfl) (ofParts h .msc rfl)
      (ofParts h .od rfl) (ofParts h .out rfl) (ofParts h .scratch rfl) (ofParts h .tiles rfl) (ofParts h .pw rfl)
      (ofParts h .po rfl) (ofParts h .st rfl) _ hs
  case cfeEvqGap =>
    exact execCfeEvqGap_holds (ofParts h .cfe rfl) (ofParts h .pods rfl) (ofParts h .hpt rfl) (ofParts h .msc rfl)
      (ofParts h .od rfl) (ofParts h .out rfl) (ofParts h .scratch rfl) (ofParts h .tiles rfl) (ofParts h .pw rfl)
      (ofParts h .po rfl) (ofParts h .st rfl) _ hs
  case telemetryEnable => exact execTelemetryEnable_holds (ofParts h .cfe rfl) (ofParts h .hpt rfl) _ _ hs
  case tileWindowWrite =>
    exact execTileWindowWrite_holds (ofParts h .pods rfl) (ofParts h .od rfl) (ofParts h .scratch rfl)
      (ofParts h .tiles rfl) (ofParts h .pw rfl) (ofParts h .po rfl) (ofParts h .st rfl) _ _ _ hs
  case engPathFence => exact execEngPathFence_holds (ofParts h .hpt rfl) (ofParts h .out rfl) hs
  case engReset =>
    exact execEngReset_holds (ofParts h .cfe rfl) (ofParts h .cat rfl) (ofParts h .pods rfl) (ofParts h .gau rfl)
      (ofParts h .stk rfl) (ofParts h .mss rfl) (ofParts h .upu rfl) (ofParts h .hpt rfl) (ofParts h .sfp rfl)
      (ofParts h .fsu rfl) (ofParts h .msc rfl) (ofParts h .cru rfl) (ofParts h .od rfl) (ofParts h .out rfl)
      (ofParts h .host rfl) (ofParts h .gddr rfl) (ofParts h .scratch rfl) (ofParts h .tiles rfl) (ofParts h .pw rfl)
      (ofParts h .st rfl) (ofParts h .ev rfl) _ hs
  case errClear => exact execErrClear_holds (ofParts h .msc rfl) hs
  case fsuSyncValueWrite => exact execFsuSyncValueWrite_holds (ofParts h .fsu rfl) _ _ hs
  case fsuSyncAddWrite => exact execFsuSyncAddWrite_holds (ofParts h .fsu rfl) _ _ hs
  case invalidate =>
    exact execInvalidate_holds (ofParts h .cat rfl) (ofParts h .pods rfl) (ofParts h .stk rfl) (ofParts h .cru rfl)
      (ofParts h .od rfl) (ofParts h .out rfl) (ofParts h .ev rfl) _ _ hs
  case invalidateDone =>
    exact execInvalidateDone_holds (ofParts h .pods rfl) (ofParts h .stk rfl) (ofParts h .od rfl) _ hs
  case mmioRegisterWrite =>
    exact execMmioRegisterWrite_holds (ofParts h .cfe rfl) (ofParts h .cat rfl) (ofParts h .pods rfl)
      (ofParts h .gau rfl) (ofParts h .stk rfl) (ofParts h .mss rfl) (ofParts h .upu rfl) (ofParts h .hpt rfl)
      (ofParts h .sfp rfl) (ofParts h .fsu rfl) (ofParts h .msc rfl) (ofParts h .cru rfl) (ofParts h .od rfl)
      (ofParts h .out rfl) (ofParts h .host rfl) (ofParts h .gddr rfl) (ofParts h .scratch rfl) (ofParts h .tiles rfl)
      (ofParts h .mq rfl) (ofParts h .pw rfl) (ofParts h .po rfl) (ofParts h .st rfl) (ofParts h .ev rfl) _ _ _ hs
  case inboundWrite =>
    exact execInboundWrite_holds (ofParts h .pods rfl) (ofParts h .hpt rfl) (ofParts h .od rfl)
      (ofParts h .scratch rfl) (ofParts h .tiles rfl) (ofParts h .pw rfl) (ofParts h .po rfl) (ofParts h .st rfl)
      (ofParts h .ev rfl) _ _ _ _ hs
  case inboundRead =>
    exact execInboundRead_holds (ofParts h .cfe rfl) (ofParts h .cat rfl) (ofParts h .pods rfl) (ofParts h .gau rfl)
      (ofParts h .stk rfl) (ofParts h .mss rfl) (ofParts h .hpt rfl) (ofParts h .msc rfl) (ofParts h .cru rfl)
      (ofParts h .od rfl) (ofParts h .out rfl) (ofParts h .scratch rfl) (ofParts h .tiles rfl) (ofParts h .mq rfl)
      (ofParts h .ev rfl) _ _ _ _ hs
  case translationInvalidate =>
    exact execTranslationInvalidate_holds (ofParts h .gau rfl) (ofParts h .hpt rfl) (ofParts h .out rfl) _ _ hs
  case writeAck =>
    exact execWriteAck_holds (ofParts h .cfe rfl) (ofParts h .cat rfl) (ofParts h .pods rfl) (ofParts h .gau rfl)
      (ofParts h .stk rfl) (ofParts h .upu rfl) (ofParts h .hpt rfl) (ofParts h .msc rfl) (ofParts h .cru rfl)
      (ofParts h .od rfl) (ofParts h .out rfl) (ofParts h .host rfl) (ofParts h .scratch rfl) (ofParts h .tiles rfl)
      (ofParts h .mq rfl) (ofParts h .pw rfl) (ofParts h .po rfl) (ofParts h .st rfl) (ofParts h .ev rfl) _ hs
  case hptLinkDown => exact execHptLinkDown_holds (ofParts h .hpt rfl) (ofParts h .mq rfl) (ofParts h .ev rfl) hs
  case hptLinkUpSameEpoch =>
    exact execHptLinkUpSameEpoch_holds (ofParts h .cfe rfl) (ofParts h .cat rfl) (ofParts h .pods rfl)
      (ofParts h .hpt rfl) (ofParts h .od rfl) (ofParts h .mq rfl) (ofParts h .pw rfl) (ofParts h .st rfl)
      (ofParts h .ev rfl) hs
  case hptLinkUpNewEpoch =>
    exact execHptLinkUpNewEpoch_holds (ofParts h .cfe rfl) (ofParts h .cat rfl) (ofParts h .pods rfl)
      (ofParts h .gau rfl) (ofParts h .hpt rfl) (ofParts h .msc rfl) (ofParts h .od rfl) (ofParts h .host rfl)
      (ofParts h .mq rfl) (ofParts h .ev rfl) _ hs
  case hptDieLost =>
    exact execHptDieLost_holds (ofParts h .cfe rfl) (ofParts h .cat rfl) (ofParts h .pods rfl) (ofParts h .gau rfl)
      (ofParts h .stk rfl) (ofParts h .hpt rfl) (ofParts h .msc rfl) (ofParts h .cru rfl) (ofParts h .od rfl)
      (ofParts h .scratch rfl) (ofParts h .tiles rfl) (ofParts h .mq rfl) (ofParts h .ev rfl) _ hs
  case hptEngineAsidWrite =>
    exact execHptEngineAsidWrite_holds (ofParts h .pods rfl) (ofParts h .hpt rfl) (ofParts h .cru rfl)
      (ofParts h .od rfl) (ofParts h .out rfl) (ofParts h .pw rfl) (ofParts h .st rfl) _ _ hs
  case hptApertureWrite =>
    exact execHptApertureWrite_holds (ofParts h .cru rfl) (ofParts h .od rfl) (ofParts h .out rfl) _ _ _ hs
  case tempRead => exact execTempRead_holds (ofParts h .mss rfl) (ofParts h .od rfl) (ofParts h .ev rfl) _ _ hs
  case channelRetrain =>
    exact execChannelRetrain_holds (ofParts h .cfe rfl) (ofParts h .cat rfl) (ofParts h .pods rfl)
      (ofParts h .gau rfl) (ofParts h .stk rfl) (ofParts h .mss rfl) (ofParts h .msc rfl) (ofParts h .cru rfl)
      (ofParts h .od rfl) (ofParts h .scratch rfl) (ofParts h .tiles rfl) (ofParts h .mq rfl) (ofParts h .ev rfl) _ _
      hs
  case mssRetrain => exact execMssRetrain_holds (ofParts h .mss rfl) (ofParts h .cru rfl) (ofParts h .out rfl) _ _ hs
  case retrainTimeout =>
    exact execRetrainTimeout_holds (ofParts h .cfe rfl) (ofParts h .cat rfl) (ofParts h .pods rfl)
      (ofParts h .gau rfl) (ofParts h .stk rfl) (ofParts h .mss rfl) (ofParts h .msc rfl) (ofParts h .cru rfl)
      (ofParts h .od rfl) (ofParts h .scratch rfl) (ofParts h .tiles rfl) (ofParts h .mq rfl) (ofParts h .ev rfl) hs
  case scrubStep =>
    exact execScrubStep_holds (ofParts h .cfe rfl) (ofParts h .cat rfl) (ofParts h .pods rfl) (ofParts h .gau rfl)
      (ofParts h .stk rfl) (ofParts h .mss rfl) (ofParts h .msc rfl) (ofParts h .cru rfl) (ofParts h .od rfl)
      (ofParts h .scratch rfl) (ofParts h .tiles rfl) (ofParts h .mq rfl) (ofParts h .ev rfl) _ _ hs
  case overwrite =>
    exact execOverwrite_holds (ofParts h .cat rfl) (ofParts h .pods rfl) (ofParts h .mss rfl) (ofParts h .upu rfl)
      (ofParts h .od rfl) (ofParts h .gddr rfl) hs
  case mssOverwriteDone =>
    exact execMssOverwriteDone_holds (ofParts h .mss rfl) (ofParts h .msc rfl) (ofParts h .ev rfl) _ hs
  case portTrain =>
    exact execPortTrain_holds (ofParts h .sfp rfl) (ofParts h .cru rfl) (ofParts h .od rfl) (ofParts h .ev rfl) _ _ hs
  case sfpPortDown =>
    exact execSfpPortDown_holds (ofParts h .sfp rfl) (ofParts h .cru rfl) (ofParts h .od rfl) (ofParts h .ev rfl) _ _
      hs
  case link =>
    exact execLink_holds (ofParts h .sfp rfl) (ofParts h .cru rfl) (ofParts h .od rfl) (ofParts h .ev rfl) _ _ _ _ _
      hs
  case linkCellSend => exact execLinkCellSend_holds (ofParts h .sfp rfl) _ hs
  case readReq =>
    exact execReadReq_holds (ofParts h .cfe rfl) (ofParts h .cat rfl) (ofParts h .pods rfl) (ofParts h .gau rfl)
      (ofParts h .stk rfl) (ofParts h .mss rfl) (ofParts h .hpt rfl) (ofParts h .sfp rfl) (ofParts h .msc rfl)
      (ofParts h .cru rfl) (ofParts h .od rfl) (ofParts h .scratch rfl) (ofParts h .tiles rfl) (ofParts h .mq rfl)
      (ofParts h .st rfl) (ofParts h .ev rfl) _ _ hs
  case readRsp =>
    exact execReadRsp_holds (ofParts h .cfe rfl) (ofParts h .cat rfl) (ofParts h .pods rfl) (ofParts h .gau rfl)
      (ofParts h .stk rfl) (ofParts h .sfp rfl) (ofParts h .msc rfl) (ofParts h .cru rfl) (ofParts h .od rfl)
      (ofParts h .scratch rfl) (ofParts h .tiles rfl) (ofParts h .mq rfl) (ofParts h .ev rfl) _ _ _ _ _ hs
  case readTimeout =>
    exact execReadTimeout_holds (ofParts h .cfe rfl) (ofParts h .cat rfl) (ofParts h .pods rfl) (ofParts h .gau rfl)
      (ofParts h .stk rfl) (ofParts h .sfp rfl) (ofParts h .msc rfl) (ofParts h .cru rfl) (ofParts h .od rfl)
      (ofParts h .scratch rfl) (ofParts h .tiles rfl) (ofParts h .mq rfl) (ofParts h .ev rfl) _ hs
  case sync =>
    exact execSync_holds (ofParts h .cat rfl) (ofParts h .sfp rfl) (ofParts h .fsu rfl) (ofParts h .od rfl)
      (ofParts h .ev rfl) _ _ _ _ _ hs
  case copy =>
    exact execCopy_holds (ofParts h .cat rfl) (ofParts h .pods rfl) (ofParts h .upu rfl) (ofParts h .sfp rfl)
      (ofParts h .od rfl) (ofParts h .pw rfl) (ofParts h .st rfl) (ofParts h .ev rfl) _ _ _ _ hs
  case controlResend => exact execControlResend_holds (ofParts h .sfp rfl) (ofParts h .ev rfl) _ _ hs
  case descUpdate =>
    exact execDescUpdate_holds (ofParts h .cat rfl) (ofParts h .sfp rfl) (ofParts h .od rfl) (ofParts h .st rfl)
      (ofParts h .ev rfl) _ _ _ _ _ hs
  case epochAdopted => exact execEpochAdopted_holds (ofParts h .cat rfl) (ofParts h .sfp rfl) _ _ hs
  case floors =>
    exact execFloors_holds (ofParts h .cat rfl) (ofParts h .sfp rfl) (ofParts h .od rfl) (ofParts h .ev rfl) _ _ _ _ _
      hs
  case floorReport => exact execFloorReport_holds (ofParts h .cat rfl) (ofParts h .sfp rfl) _ _ _ _ hs
  case sfpMemberSilent => exact execSfpMemberSilent_holds (ofParts h .sfp rfl) (ofParts h .ev rfl) _ hs
  case mapMirror =>
    exact execMapMirror_holds (ofParts h .cat rfl) (ofParts h .sfp rfl) (ofParts h .od rfl) (ofParts h .st rfl)
      (ofParts h .ev rfl) _ _ _ _ _ hs
  case registrarTakeover =>
    exact execRegistrarTakeover_holds (ofParts h .sfp rfl) (ofParts h .od rfl) (ofParts h .ev rfl) hs
  case ledgerReady =>
    exact execLedgerReady_holds (ofParts h .cfe rfl) (ofParts h .cat rfl) (ofParts h .pods rfl) (ofParts h .gau rfl)
      (ofParts h .stk rfl) (ofParts h .mss rfl) (ofParts h .upu rfl) (ofParts h .hpt rfl) (ofParts h .sfp rfl)
      (ofParts h .msc rfl) (ofParts h .cru rfl) (ofParts h .od rfl) (ofParts h .scratch rfl) (ofParts h .tiles rfl)
      (ofParts h .mq rfl) (ofParts h .pw rfl) (ofParts h .st rfl) (ofParts h .ev rfl) _ _ hs
  case keySwitch =>
    exact execKeySwitch_holds (ofParts h .cat rfl) (ofParts h .sfp rfl) (ofParts h .od rfl) (ofParts h .ev rfl) _ _ _
      _ hs
  case keySwitchFolio => exact execKeySwitchFolio_holds (ofParts h .sfp rfl) (ofParts h .od rfl) hs
  case oldKeyErase => exact execOldKeyErase_holds (ofParts h .sfp rfl) (ofParts h .od rfl) hs
  case twinHeartbeat => exact execTwinHeartbeat_holds (ofParts h .cat rfl) (ofParts h .sfp rfl) _ hs
  case twinTimeout =>
    exact execTwinTimeout_holds (ofParts h .upu rfl) (ofParts h .sfp rfl) (ofParts h .od rfl) (ofParts h .ev rfl) _ hs
  case twinFailover => exact execTwinFailover_holds (ofParts h .sfp rfl) _ _ hs
  case twinResync =>
    exact execTwinResync_holds (ofParts h .upu rfl) (ofParts h .sfp rfl) (ofParts h .od rfl) (ofParts h .ev rfl) hs
  case twinRestored =>
    exact execTwinRestored_holds (ofParts h .upu rfl) (ofParts h .sfp rfl) (ofParts h .od rfl) (ofParts h .ev rfl) hs
  case twinRecopy => exact execTwinRecopy_holds (ofParts h .sfp rfl) (ofParts h .msc rfl) (ofParts h .ev rfl) _ hs
  case garwaRead =>
    exact execGarwaRead_holds (ofParts h .gau rfl) (ofParts h .msc rfl) (ofParts h .out rfl) _ _ _ _ _ _ hs
  case garwaWriteSegment =>
    exact execGarwaWriteSegment_holds (ofParts h .gau rfl) (ofParts h .msc rfl) (ofParts h .out rfl) _ _ _ _ _ _ hs
  case odWrite =>
    exact execOdWrite_holds (ofParts h .cfe rfl) (ofParts h .cat rfl) (ofParts h .pods rfl) (ofParts h .gau rfl)
      (ofParts h .stk rfl) (ofParts h .mss rfl) (ofParts h .upu rfl) (ofParts h .hpt rfl) (ofParts h .sfp rfl)
      (ofParts h .fsu rfl) (ofParts h .msc rfl) (ofParts h .cru rfl) (ofParts h .od rfl) (ofParts h .out rfl)
      (ofParts h .host rfl) (ofParts h .gddr rfl) (ofParts h .scratch rfl) (ofParts h .tiles rfl) (ofParts h .mq rfl)
      (ofParts h .pw rfl) (ofParts h .st rfl) (ofParts h .ev rfl) _ _ _ _ _ _ hs
  case stagedValueDiscard => exact execStagedValueDiscard_holds (ofParts h .msc rfl) _ _ hs
  case spdm => exact execSpdm_holds (ofParts h .gau rfl) (ofParts h .msc rfl) (ofParts h .out rfl) _ _ hs
  case dtlsHandshake => exact execDtlsHandshake_holds (ofParts h .msc rfl) (ofParts h .ev rfl) _ _ hs
  case sessionIdleClose => exact execSessionIdleClose_holds (ofParts h .msc rfl) _ hs
  case secModeReqEnter =>
    exact execSecModeReqEnter_holds (ofParts h .cfe rfl) (ofParts h .cat rfl) (ofParts h .pods rfl)
      (ofParts h .gau rfl) (ofParts h .stk rfl) (ofParts h .mss rfl) (ofParts h .upu rfl) (ofParts h .hpt rfl)
      (ofParts h .sfp rfl) (ofParts h .fsu rfl) (ofParts h .msc rfl) (ofParts h .cru rfl) (ofParts h .od rfl)
      (ofParts h .out rfl) (ofParts h .host rfl) (ofParts h .gddr rfl) (ofParts h .scratch rfl) (ofParts h .tiles rfl)
      (ofParts h .pw rfl) (ofParts h .st rfl) (ofParts h .ev rfl) _ hs
  case secModeReqExit =>
    exact execSecModeReqExit_holds (ofParts h .cfe rfl) (ofParts h .cat rfl) (ofParts h .pods rfl)
      (ofParts h .gau rfl) (ofParts h .stk rfl) (ofParts h .mss rfl) (ofParts h .upu rfl) (ofParts h .hpt rfl)
      (ofParts h .sfp rfl) (ofParts h .fsu rfl) (ofParts h .msc rfl) (ofParts h .cru rfl) (ofParts h .od rfl)
      (ofParts h .out rfl) (ofParts h .host rfl) (ofParts h .gddr rfl) (ofParts h .scratch rfl) (ofParts h .tiles rfl)
      (ofParts h .pw rfl) (ofParts h .st rfl) (ofParts h .ev rfl) _ hs
  case secJobEnd =>
    exact execSecJobEnd_holds (ofParts h .cfe rfl) (ofParts h .cat rfl) (ofParts h .pods rfl) (ofParts h .gau rfl)
      (ofParts h .stk rfl) (ofParts h .mss rfl) (ofParts h .upu rfl) (ofParts h .hpt rfl) (ofParts h .sfp rfl)
      (ofParts h .fsu rfl) (ofParts h .msc rfl) (ofParts h .cru rfl) (ofParts h .od rfl) (ofParts h .out rfl)
      (ofParts h .host rfl) (ofParts h .gddr rfl) (ofParts h .scratch rfl) (ofParts h .tiles rfl) (ofParts h .pw rfl)
      (ofParts h .st rfl) (ofParts h .ev rfl) _ hs
  case secJobEnvelope =>
    exact execSecJobEnvelope_holds (ofParts h .sfp rfl) (ofParts h .od rfl) (ofParts h .out rfl) (ofParts h .ev rfl) _
      _ hs
  case secTableEnvelope =>
    exact execSecTableEnvelope_holds (ofParts h .msc rfl) (ofParts h .out rfl) (ofParts h .ev rfl) _ _ hs
  case secTableUnbind =>
    exact execSecTableUnbind_holds (ofParts h .msc rfl) (ofParts h .cru rfl) (ofParts h .out rfl) _ _ hs
  case mscFwImage => exact execMscFwImage_holds (ofParts h .msc rfl) (ofParts h .out rfl) _ _ hs
  case mscFwSwitch => exact execMscFwSwitch_holds (ofParts h .msc rfl) (ofParts h .cru rfl) (ofParts h .out rfl) _ hs
  case fwRestart => exact execFwRestart_holds (ofParts h .msc rfl) (ofParts h .od rfl) (ofParts h .ev rfl) hs
  case fwHealthTimeout =>
    exact execFwHealthTimeout_holds (ofParts h .msc rfl) (ofParts h .od rfl) (ofParts h .ev rfl) hs
  case mscFwCommit => exact execMscFwCommit_holds (ofParts h .msc rfl) (ofParts h .cru rfl) (ofParts h .out rfl) _ hs
  case mscBoot =>
    exact execMscBoot_holds (ofParts h .msc rfl) (ofParts h .cru rfl) (ofParts h .od rfl) (ofParts h .out rfl)
      (ofParts h .ev rfl) hs
  case upuTrainEntryWrite =>
    exact execUpuTrainEntryWrite_holds (ofParts h .upu rfl) (ofParts h .cru rfl) (ofParts h .out rfl)
      (ofParts h .st rfl) _ _ hs
  case stkPartWrite =>
    exact execStkPartWrite_holds (ofParts h .cat rfl) (ofParts h .pods rfl) (ofParts h .stk rfl) (ofParts h .cru rfl)
      (ofParts h .od rfl) (ofParts h .out rfl) (ofParts h .ev rfl) _ _ _ hs
  case stkPinWrite =>
    exact execStkPinWrite_holds (ofParts h .stk rfl) (ofParts h .cru rfl) (ofParts h .od rfl) (ofParts h .out rfl)
      (ofParts h .ev rfl) _ _ _ hs
  case pinShardLoad => exact execPinShardLoad_holds (ofParts h .stk rfl) (ofParts h .hpt rfl) (ofParts h .ev rfl) _ _ hs
  case ixuHashSlotWrite =>
    exact execIxuHashSlotWrite_holds (ofParts h .cru rfl) (ofParts h .od rfl) (ofParts h .out rfl) _ _ hs
  case gauSproutBindWrite =>
    exact execGauSproutBindWrite_holds (ofParts h .cru rfl) (ofParts h .od rfl) (ofParts h .out rfl) _ _ _ hs
  case qntResidWrite =>
    exact execQntResidWrite_holds (ofParts h .cru rfl) (ofParts h .od rfl) (ofParts h .out rfl) _ _ _ hs
  case fsuNotifyWrite =>
    exact execFsuNotifyWrite_holds (ofParts h .cru rfl) (ofParts h .od rfl) (ofParts h .out rfl) _ _ _ hs
  case cruPodReset =>
    exact execCruPodReset_holds (ofParts h .cfe rfl) (ofParts h .cat rfl) (ofParts h .pods rfl) (ofParts h .gau rfl)
      (ofParts h .stk rfl) (ofParts h .msc rfl) (ofParts h .cru rfl) (ofParts h .od rfl) (ofParts h .out rfl)
      (ofParts h .scratch rfl) (ofParts h .tiles rfl) (ofParts h .mq rfl) (ofParts h .ev rfl) _ _ hs
  case podReset =>
    exact execPodReset_holds (ofParts h .cfe rfl) (ofParts h .cat rfl) (ofParts h .pods rfl) (ofParts h .gau rfl)
      (ofParts h .stk rfl) (ofParts h .mss rfl) (ofParts h .upu rfl) (ofParts h .hpt rfl) (ofParts h .sfp rfl)
      (ofParts h .msc rfl) (ofParts h .cru rfl) (ofParts h .od rfl) (ofParts h .scratch rfl) (ofParts h .tiles rfl)
      (ofParts h .mq rfl) (ofParts h .pw rfl) (ofParts h .st rfl) (ofParts h .ev rfl) _ _ hs
  case podResetExit => exact execPodResetExit_holds (ofParts h .cru rfl) _ hs
  case podPllUnlock =>
    exact execPodPllUnlock_holds (ofParts h .cfe rfl) (ofParts h .cat rfl) (ofParts h .pods rfl) (ofParts h .gau rfl)
      (ofParts h .stk rfl) (ofParts h .mss rfl) (ofParts h .upu rfl) (ofParts h .hpt rfl) (ofParts h .sfp rfl)
      (ofParts h .msc rfl) (ofParts h .cru rfl) (ofParts h .od rfl) (ofParts h .scratch rfl) (ofParts h .tiles rfl)
      (ofParts h .mq rfl) (ofParts h .pw rfl) (ofParts h .st rfl) (ofParts h .ev rfl) _ hs
  case podIdleVoltage => exact execPodIdleVoltage_holds (ofParts h .pods rfl) _ hs
  case d2dTrainingAttempt =>
    exact execD2dTrainingAttempt_holds (ofParts h .cfe rfl) (ofParts h .cat rfl) (ofParts h .pods rfl)
      (ofParts h .gau rfl) (ofParts h .stk rfl) (ofParts h .mss rfl) (ofParts h .upu rfl) (ofParts h .hpt rfl)
      (ofParts h .sfp rfl) (ofParts h .msc rfl) (ofParts h .cru rfl) (ofParts h .od rfl) (ofParts h .out rfl)
      (ofParts h .scratch rfl) (ofParts h .tiles rfl) (ofParts h .mq rfl) (ofParts h .pw rfl) (ofParts h .st rfl)
      (ofParts h .ev rfl) _ _ hs
  case resync =>
    exact execResync_holds (ofParts h .cfe rfl) (ofParts h .cat rfl) (ofParts h .pods rfl) (ofParts h .gau rfl)
      (ofParts h .stk rfl) (ofParts h .mss rfl) (ofParts h .upu rfl) (ofParts h .hpt rfl) (ofParts h .sfp rfl)
      (ofParts h .msc rfl) (ofParts h .cru rfl) (ofParts h .od rfl) (ofParts h .out rfl) (ofParts h .scratch rfl)
      (ofParts h .tiles rfl) (ofParts h .mq rfl) (ofParts h .pw rfl) (ofParts h .st rfl) (ofParts h .ev rfl) _ hs
  case cruRefLost =>
    exact execCruRefLost_holds (ofParts h .fsu rfl) (ofParts h .cru rfl) (ofParts h .od rfl) (ofParts h .ev rfl) _ hs
  case refQualified =>
    exact execRefQualified_holds (ofParts h .gau rfl) (ofParts h .mss rfl) (ofParts h .cru rfl) (ofParts h .ev rfl) _
      hs
  case cruHoldoverLost =>
    exact execCruHoldoverLost_holds (ofParts h .mss rfl) (ofParts h .sfp rfl) (ofParts h .cru rfl) (ofParts h .od rfl)
      (ofParts h .ev rfl) hs
  case pressureUpdate =>
    exact execPressureUpdate_holds (ofParts h .cfe rfl) (ofParts h .cru rfl) (ofParts h .od rfl) (ofParts h .ev rfl) _
      _ _ hs
  case inputCurrentTrip =>
    exact execInputCurrentTrip_holds (ofParts h .cfe rfl) (ofParts h .cat rfl) (ofParts h .pods rfl)
      (ofParts h .gau rfl) (ofParts h .stk rfl) (ofParts h .msc rfl) (ofParts h .cru rfl) (ofParts h .od rfl)
      (ofParts h .scratch rfl) (ofParts h .tiles rfl) (ofParts h .mq rfl) (ofParts h .ev rfl) _ hs
  case peuRailFault =>
    exact execPeuRailFault_holds (ofParts h .cfe rfl) (ofParts h .cat rfl) (ofParts h .pods rfl) (ofParts h .gau rfl)
      (ofParts h .stk rfl) (ofParts h .mss rfl) (ofParts h .upu rfl) (ofParts h .hpt rfl) (ofParts h .sfp rfl)
      (ofParts h .msc rfl) (ofParts h .cru rfl) (ofParts h .od rfl) (ofParts h .scratch rfl) (ofParts h .tiles rfl)
      (ofParts h .mq rfl) (ofParts h .pw rfl) (ofParts h .st rfl) (ofParts h .ev rfl) _ _ hs
  case inputLoss =>
    exact execInputLoss_holds (ofParts h .cfe rfl) (ofParts h .cat rfl) (ofParts h .pods rfl) (ofParts h .gau rfl)
      (ofParts h .stk rfl) (ofParts h .mss rfl) (ofParts h .upu rfl) (ofParts h .hpt rfl) (ofParts h .sfp rfl)
      (ofParts h .fsu rfl) (ofParts h .msc rfl) (ofParts h .cru rfl) (ofParts h .od rfl) (ofParts h .out rfl)
      (ofParts h .host rfl) (ofParts h .gddr rfl) (ofParts h .scratch rfl) (ofParts h .tiles rfl) hs
  case powerUp =>
    exact execPowerUp_holds (ofParts h .cfe rfl) (ofParts h .cat rfl) (ofParts h .pods rfl) (ofParts h .gau rfl)
      (ofParts h .stk rfl) (ofParts h .mss rfl) (ofParts h .upu rfl) (ofParts h .hpt rfl) (ofParts h .sfp rfl)
      (ofParts h .fsu rfl) (ofParts h .msc rfl) (ofParts h .cru rfl) (ofParts h .od rfl) (ofParts h .out rfl)
      (ofParts h .host rfl) (ofParts h .gddr rfl) (ofParts h .scratch rfl) (ofParts h .tiles rfl) hs
  case jRstNLow =>
    exact execJRstNLow_holds (ofParts h .cfe rfl) (ofParts h .cat rfl) (ofParts h .pods rfl) (ofParts h .gau rfl)
      (ofParts h .stk rfl) (ofParts h .mss rfl) (ofParts h .upu rfl) (ofParts h .hpt rfl) (ofParts h .sfp rfl)
      (ofParts h .fsu rfl) (ofParts h .msc rfl) (ofParts h .cru rfl) (ofParts h .od rfl) (ofParts h .out rfl)
      (ofParts h .host rfl) (ofParts h .gddr rfl) (ofParts h .scratch rfl) (ofParts h .tiles rfl) (ofParts h .pw rfl)
      (ofParts h .st rfl) (ofParts h .ev rfl) _ hs
  case jRstNRise => exact execJRstNRise_holds (ofParts h .cru rfl) hs
  case engineReady =>
    exact execEngineReady_holds (ofParts h .cfe rfl) (ofParts h .cat rfl) (ofParts h .pods rfl) (ofParts h .gau rfl)
      (ofParts h .stk rfl) (ofParts h .mss rfl) (ofParts h .upu rfl) (ofParts h .hpt rfl) (ofParts h .sfp rfl)
      (ofParts h .msc rfl) (ofParts h .cru rfl) (ofParts h .od rfl) (ofParts h .scratch rfl) (ofParts h .tiles rfl)
      (ofParts h .mq rfl) (ofParts h .pw rfl) (ofParts h .st rfl) (ofParts h .ev rfl) hs
  case hubPllUnlock =>
    exact execHubPllUnlock_holds (ofParts h .cfe rfl) (ofParts h .cat rfl) (ofParts h .pods rfl) (ofParts h .gau rfl)
      (ofParts h .stk rfl) (ofParts h .msc rfl) (ofParts h .cru rfl) (ofParts h .od rfl) (ofParts h .scratch rfl)
      (ofParts h .tiles rfl) (ofParts h .mq rfl) (ofParts h .ev rfl) hs
  case engineContainment =>
    exact execEngineContainment_holds (ofParts h .cfe rfl) (ofParts h .cat rfl) (ofParts h .pods rfl)
      (ofParts h .gau rfl) (ofParts h .stk rfl) (ofParts h .msc rfl) (ofParts h .cru rfl) (ofParts h .od rfl)
      (ofParts h .scratch rfl) (ofParts h .tiles rfl) (ofParts h .mq rfl) (ofParts h .ev rfl) _ _ _ _ hs
  case packageContainment =>
    exact execPackageContainment_holds (ofParts h .cfe rfl) (ofParts h .cat rfl) (ofParts h .pods rfl)
      (ofParts h .gau rfl) (ofParts h .stk rfl) (ofParts h .msc rfl) (ofParts h .cru rfl) (ofParts h .od rfl)
      (ofParts h .scratch rfl) (ofParts h .tiles rfl) (ofParts h .mq rfl) (ofParts h .ev rfl) _ hs
  case mscContainRelease =>
    exact execMscContainRelease_holds (ofParts h .msc rfl) (ofParts h .cru rfl) (ofParts h .out rfl) _ hs
  case mscPodRetire =>
    exact execMscPodRetire_holds (ofParts h .pods rfl) (ofParts h .cru rfl) (ofParts h .out rfl) _ _ hs
  case mscSpareMap =>
    exact execMscSpareMap_holds (ofParts h .msc rfl) (ofParts h .cru rfl) (ofParts h .out rfl) _ _ _ hs
  case cruGateWrite =>
    exact execCruGateWrite_holds (ofParts h .cat rfl) (ofParts h .pods rfl) (ofParts h .stk rfl) (ofParts h .mss rfl)
      (ofParts h .upu rfl) (ofParts h .hpt rfl) (ofParts h .sfp rfl) (ofParts h .fsu rfl) (ofParts h .cru rfl)
      (ofParts h .od rfl) (ofParts h .pw rfl) (ofParts h .st rfl) (ofParts h .ev rfl) _ hs
  case sfpRefPortWrite =>
    exact execSfpRefPortWrite_holds (ofParts h .sfp rfl) (ofParts h .cru rfl) (ofParts h .od rfl) (ofParts h .out rfl)
      _ _ hs
  case streamReadReturn =>
    exact execStreamReadReturn_holds (ofParts h .cfe rfl) (ofParts h .cat rfl) (ofParts h .pods rfl)
      (ofParts h .gau rfl) (ofParts h .stk rfl) (ofParts h .mss rfl) (ofParts h .hpt rfl) (ofParts h .msc rfl)
      (ofParts h .cru rfl) (ofParts h .od rfl) (ofParts h .scratch rfl) (ofParts h .tiles rfl) (ofParts h .mq rfl)
      (ofParts h .ev rfl) _ _ _ hs
  case arbWindowBoundary =>
    exact execArbWindowBoundary_holds (ofParts h .mss rfl) (ofParts h .od rfl) (ofParts h .ev rfl) hs
  case controlAck =>
    exact execControlAck_holds (ofParts h .cfe rfl) (ofParts h .cat rfl) (ofParts h .pods rfl) (ofParts h .sfp rfl)
      (ofParts h .mq rfl) (ofParts h .ev rfl) _ _ _ hs
  case badCell => exact execBadCell_holds (ofParts h .od rfl) _ _ _ hs
  case uncorrectableCodeword => exact execUncorrectableCodeword_holds (ofParts h .sfp rfl) _ _ hs
  case twinMirroredParcel =>
    exact execTwinMirroredParcel_holds (ofParts h .upu rfl) (ofParts h .sfp rfl) (ofParts h .st rfl)
      (ofParts h .ev rfl) _ _ _ hs
  case twinPartnerReport =>
    exact execTwinPartnerReport_holds (ofParts h .cfe rfl) (ofParts h .cat rfl) (ofParts h .upu rfl)
      (ofParts h .sfp rfl) (ofParts h .od rfl) (ofParts h .mq rfl) (ofParts h .st rfl) (ofParts h .ev rfl) _ _ _ hs
  case twinRestoredNotice => exact execTwinRestoredNotice_holds (ofParts h .sfp rfl) _ hs
  case mscRestartDone =>
    exact execMscRestartDone_holds (ofParts h .cfe rfl) (ofParts h .pods rfl) (ofParts h .hpt rfl)
      (ofParts h .msc rfl) (ofParts h .od rfl) (ofParts h .out rfl) (ofParts h .scratch rfl) (ofParts h .tiles rfl)
      (ofParts h .pw rfl) (ofParts h .po rfl) (ofParts h .st rfl) hs
  case containmentFlushEnd =>
    exact execContainmentFlushEnd_holds (ofParts h .cfe rfl) (ofParts h .cat rfl) (ofParts h .pods rfl)
      (ofParts h .gau rfl) (ofParts h .stk rfl) (ofParts h .mss rfl) (ofParts h .upu rfl) (ofParts h .hpt rfl)
      (ofParts h .sfp rfl) (ofParts h .fsu rfl) (ofParts h .msc rfl) (ofParts h .cru rfl) (ofParts h .od rfl)
      (ofParts h .out rfl) (ofParts h .host rfl) (ofParts h .gddr rfl) (ofParts h .scratch rfl) (ofParts h .tiles rfl)
      (ofParts h .pw rfl) (ofParts h .st rfl) (ofParts h .ev rfl) hs
  case refclkQualifyTimeout =>
    exact execRefclkQualifyTimeout_holds (ofParts h .msc rfl) (ofParts h .cru rfl) (ofParts h .out rfl) hs

/-- A predicate that no change of any part makes false holds after every command. -/
theorem exec_holds (h : ∀ p, Stable P p) (c : Instr) (hs : P s) : HoldsR P (exec c s) := exec_parts c (fun p _ => h p) hs

/-- A predicate that no change of any part and no step through the queue makes false holds after every step. -/
theorem step_holds (h : ∀ p, Stable P p) (hq : ∀ s q, P s → P { s with pending := q }) (hs : P s) : HoldsR P (step s) := by
  unfold step
  split
  · exact HoldsR.next hs
  · exact exec_holds h _ (hq _ _ hs)

/-! ## Stable predicates -/

/-- The five small operations need nothing but the parts. -/
theorem stable_five (h : ∀ p, p ∉ [Part.mq, .pw, .po, .st, .ev] → Stable P p) (p : Part) : Stable P p := by
  have hcfe := h .cfe (by decide)
  have hcat := h .cat (by decide)
  have hpods := h .pods (by decide)
  have hstk := h .stk (by decide)
  have hmss := h .mss (by decide)
  have hhpt := h .hpt (by decide)
  have hgddr := h .gddr (by decide)
  have hod := h .od (by decide)
  have hpo := stable_po hcat hstk
  cases p
  case mq => exact stable_mq hcfe
  case pw => exact stable_pw hhpt hod
  case po => exact hpo
  case st => exact stable_st hpods hmss hhpt hgddr
  case ev =>
    exact stable_ev hcfe hpods hmss hhpt (h .msc (by decide)) hod (h .out (by decide)) hgddr (h .scratch (by decide))
      (h .tiles (by decide)) hpo
  all_goals exact h _ (by decide)

/-- The queue of waiting commands is as it was. -/
theorem stable_pending (q : List Instr) (p : Part) : Stable (fun s => s.pending = q) p := by
  refine stable_five (fun p hp => ?_) p
  cases p
  case mq | pw | po | st | ev => exact absurd hp (by decide)
  case host | gddr | scratch | tiles => exact fun f s _ h => h
  all_goals exact fun f s h => h

/-- What leaves cfe as it was. -/
theorem keeps_cfe (s : State) (p : Part) (h : p ∉ [Part.cfe, Part.mq, Part.ev] := by decide) :
    Stable (fun t => t.cfe = s.cfe) p := by
  cases p
  case cfe | mq | ev => exact absurd h (by decide)
  case host | gddr | scratch | tiles => exact fun f s _ h => h
  case pw => apply stable_pw <;> exact fun f s h => h
  case po => exact fun t a b s h => h
  case st => apply stable_st <;> first | exact fun f s h => h | exact fun f s _ h => h
  all_goals exact fun f s h => h
/-- What leaves cat as it was. -/
theorem keeps_cat (s : State) (p : Part) (h : p ∉ [Part.cat, Part.po, Part.ev] := by decide) :
    Stable (fun t => t.cat = s.cat) p := by
  cases p
  case cat | po | ev => exact absurd h (by decide)
  case host | gddr | scratch | tiles => exact fun f s _ h => h
  case mq => exact fun q f s h => h
  case pw => apply stable_pw <;> exact fun f s h => h
  case st => apply stable_st <;> first | exact fun f s h => h | exact fun f s _ h => h
  all_goals exact fun f s h => h
/-- What leaves pods as it was. -/
theorem keeps_pods (s : State) (p : Part) (h : p ∉ [Part.pods, Part.st, Part.ev] := by decide) :
    Stable (fun t => t.pods = s.pods) p := by
  cases p
  case pods | st | ev => exact absurd h (by decide)
  case host | gddr | scratch | tiles => exact fun f s _ h => h
  case mq => exact fun q f s h => h
  case pw => apply stable_pw <;> exact fun f s h => h
  case po => exact fun t a b s h => h
  all_goals exact fun f s h => h
/-- What leaves gau as it was. -/
theorem keeps_gau (s : State) (p : Part) (h : p ∉ [Part.gau] := by decide) :
    Stable (fun t => t.gau = s.gau) p := by
  cases p
  case gau => exact absurd h (by decide)
  case host | gddr | scratch | tiles => exact fun f s _ h => h
  case mq => exact fun q f s h => h
  case pw => apply stable_pw <;> exact fun f s h => h
  case po => exact fun t a b s h => h
  case st => apply stable_st <;> first | exact fun f s h => h | exact fun f s _ h => h
  case ev => apply stable_ev <;> first | exact fun f s h => h | exact fun f s _ h => h | exact fun t a b s h => h
  all_goals exact fun f s h => h
/-- What leaves stk as it was. -/
theorem keeps_stk (s : State) (p : Part) (h : p ∉ [Part.stk, Part.po, Part.ev] := by decide) :
    Stable (fun t => t.stk = s.stk) p := by
  cases p
  case stk | po | ev => exact absurd h (by decide)
  case host | gddr | scratch | tiles => exact fun f s _ h => h
  case mq => exact fun q f s h => h
  case pw => apply stable_pw <;> exact fun f s h => h
  case st => apply stable_st <;> first | exact fun f s h => h | exact fun f s _ h => h
  all_goals exact fun f s h => h
/-- What leaves mss as it was. -/
theorem keeps_mss (s : State) (p : Part) (h : p ∉ [Part.mss, Part.st, Part.ev] := by decide) :
    Stable (fun t => t.mss = s.mss) p := by
  cases p
  case mss | st | ev => exact absurd h (by decide)
  case host | gddr | scratch | tiles => exact fun f s _ h => h
  case mq => exact fun q f s h => h
  case pw => apply stable_pw <;> exact fun f s h => h
  case po => exact fun t a b s h => h
  all_goals exact fun f s h => h
/-- What leaves upu as it was. -/
theorem keeps_upu (s : State) (p : Part) (h : p ∉ [Part.upu] := by decide) :
    Stable (fun t => t.upu = s.upu) p := by
  cases p
  case upu => exact absurd h (by decide)
  case host | gddr | scratch | tiles => exact fun f s _ h => h
  case mq => exact fun q f s h => h
  case pw => apply stable_pw <;> exact fun f s h => h
  case po => exact fun t a b s h => h
  case st => apply stable_st <;> first | exact fun f s h => h | exact fun f s _ h => h
  case ev => apply stable_ev <;> first | exact fun f s h => h | exact fun f s _ h => h | exact fun t a b s h => h
  all_goals exact fun f s h => h
/-- What leaves hpt as it was. -/
theorem keeps_hpt (s : State) (p : Part) (h : p ∉ [Part.hpt, Part.pw, Part.st, Part.ev] := by decide) :
    Stable (fun t => t.hpt = s.hpt) p := by
  cases p
  case hpt | pw | st | ev => exact absurd h (by decide)
  case host | gddr | scratch | tiles => exact fun f s _ h => h
  case mq => exact fun q f s h => h
  case po => exact fun t a b s h => h
  all_goals exact fun f s h => h
/-- What leaves sfp as it was. -/
theorem keeps_sfp (s : State) (p : Part) (h : p ∉ [Part.sfp] := by decide) :
    Stable (fun t => t.sfp = s.sfp) p := by
  cases p
  case sfp => exact absurd h (by decide)
  case host | gddr | scratch | tiles => exact fun f s _ h => h
  case mq => exact fun q f s h => h
  case pw => apply stable_pw <;> exact fun f s h => h
  case po => exact fun t a b s h => h
  case st => apply stable_st <;> first | exact fun f s h => h | exact fun f s _ h => h
  case ev => apply stable_ev <;> first | exact fun f s h => h | exact fun f s _ h => h | exact fun t a b s h => h
  all_goals exact fun f s h => h
/-- What leaves fsu as it was. -/
theorem keeps_fsu (s : State) (p : Part) (h : p ∉ [Part.fsu] := by decide) :
    Stable (fun t => t.fsu = s.fsu) p := by
  cases p
  case fsu => exact absurd h (by decide)
  case host | gddr | scratch | tiles => exact fun f s _ h => h
  case mq => exact fun q f s h => h
  case pw => apply stable_pw <;> exact fun f s h => h
  case po => exact fun t a b s h => h
  case st => apply stable_st <;> first | exact fun f s h => h | exact fun f s _ h => h
  case ev => apply stable_ev <;> first | exact fun f s h => h | exact fun f s _ h => h | exact fun t a b s h => h
  all_goals exact fun f s h => h
/-- What leaves msc as it was. -/
theorem keeps_msc (s : State) (p : Part) (h : p ∉ [Part.msc, Part.ev] := by decide) :
    Stable (fun t => t.msc = s.msc) p := by
  cases p
  case msc | ev => exact absurd h (by decide)
  case host | gddr | scratch | tiles => exact fun f s _ h => h
  case mq => exact fun q f s h => h
  case pw => apply stable_pw <;> exact fun f s h => h
  case po => exact fun t a b s h => h
  case st => apply stable_st <;> first | exact fun f s h => h | exact fun f s _ h => h
  all_goals exact fun f s h => h
/-- What leaves cru as it was. -/
theorem keeps_cru (s : State) (p : Part) (h : p ∉ [Part.cru] := by decide) :
    Stable (fun t => t.cru = s.cru) p := by
  cases p
  case cru => exact absurd h (by decide)
  case host | gddr | scratch | tiles => exact fun f s _ h => h
  case mq => exact fun q f s h => h
  case pw => apply stable_pw <;> exact fun f s h => h
  case po => exact fun t a b s h => h
  case st => apply stable_st <;> first | exact fun f s h => h | exact fun f s _ h => h
  case ev => apply stable_ev <;> first | exact fun f s h => h | exact fun f s _ h => h | exact fun t a b s h => h
  all_goals exact fun f s h => h
/-- What leaves od as it was. -/
theorem keeps_od (s : State) (p : Part) (h : p ∉ [Part.od, Part.pw, Part.ev] := by decide) :
    Stable (fun t => t.od = s.od) p := by
  cases p
  case od | pw | ev => exact absurd h (by decide)
  case host | gddr | scratch | tiles => exact fun f s _ h => h
  case mq => exact fun q f s h => h
  case po => exact fun t a b s h => h
  case st => apply stable_st <;> first | exact fun f s h => h | exact fun f s _ h => h
  all_goals exact fun f s h => h
/-- What leaves out as it was. -/
theorem keeps_out (s : State) (p : Part) (h : p ∉ [Part.out, Part.ev] := by decide) :
    Stable (fun t => t.out = s.out) p := by
  cases p
  case out | ev => exact absurd h (by decide)
  case host | gddr | scratch | tiles => exact fun f s _ h => h
  case mq => exact fun q f s h => h
  case pw => apply stable_pw <;> exact fun f s h => h
  case po => exact fun t a b s h => h
  case st => apply stable_st <;> first | exact fun f s h => h | exact fun f s _ h => h
  all_goals exact fun f s h => h
/-- What leaves the memory of host as it was. -/
theorem keeps_host (s : State) (p : Part) (h : p ∉ [Part.host] := by decide) :
    Stable (fun t => t.mem.host = s.mem.host) p := by
  cases p
  case host => exact absurd h (by decide)
  case gddr | scratch | tiles => exact fun f s _ h => h
  case mq => exact fun q f s h => h
  case pw => apply stable_pw <;> exact fun f s h => h
  case po => exact fun t a b s h => h
  case st => apply stable_st <;> first | exact fun f s h => h | exact fun f s _ h => h
  case ev => apply stable_ev <;> first | exact fun f s h => h | exact fun f s _ h => h | exact fun t a b s h => h
  all_goals exact fun f s h => h
/-- What leaves the memory of gddr as it was. -/
theorem keeps_gddr (s : State) (p : Part) (h : p ∉ [Part.gddr, Part.st, Part.ev] := by decide) :
    Stable (fun t => t.mem.gddr = s.mem.gddr) p := by
  cases p
  case gddr | st | ev => exact absurd h (by decide)
  case host | scratch | tiles => exact fun f s _ h => h
  case mq => exact fun q f s h => h
  case pw => apply stable_pw <;> exact fun f s h => h
  case po => exact fun t a b s h => h
  all_goals exact fun f s h => h
/-- What leaves the memory of scratch as it was. -/
theorem keeps_scratch (s : State) (p : Part) (h : p ∉ [Part.scratch, Part.ev] := by decide) :
    Stable (fun t => t.mem.scratch = s.mem.scratch) p := by
  cases p
  case scratch | ev => exact absurd h (by decide)
  case host | gddr | tiles => exact fun f s _ h => h
  case mq => exact fun q f s h => h
  case pw => apply stable_pw <;> exact fun f s h => h
  case po => exact fun t a b s h => h
  case st => apply stable_st <;> first | exact fun f s h => h | exact fun f s _ h => h
  all_goals exact fun f s h => h
/-- What leaves the memory of tiles as it was. -/
theorem keeps_tiles (s : State) (p : Part) (h : p ∉ [Part.tiles, Part.ev] := by decide) :
    Stable (fun t => t.mem.tiles = s.mem.tiles) p := by
  cases p
  case tiles | ev => exact absurd h (by decide)
  case host | gddr | scratch => exact fun f s _ h => h
  case mq => exact fun q f s h => h
  case pw => apply stable_pw <;> exact fun f s h => h
  case po => exact fun t a b s h => h
  case st => apply stable_st <;> first | exact fun f s h => h | exact fun f s _ h => h
  all_goals exact fun f s h => h

/-- The memories in canonical form. -/
theorem stable_memsWf (p : Part) : Stable memsWf p := by
  refine stable_five (fun p hp => ?_) p
  cases p
  case mq | pw | po | st | ev => exact absurd hp (by decide)
  case host => exact fun f s hf h => ⟨hf _ h.1, h.2⟩
  case gddr => exact fun f s hf h => ⟨h.1, hf _ h.2.1, h.2.2⟩
  case scratch => exact fun f s hf h => ⟨h.1, h.2.1, hf _ h.2.2.1, h.2.2.2⟩
  case tiles => exact fun f s hf h => ⟨h.1, h.2.1, h.2.2.1, hf _ h.2.2.2⟩
  all_goals exact fun f s h => h

end Sys2Proof.Machine
end

