-- ==== Sys2Proof/Laws/Tables.lean ====
section
/-! SUPPORT. Read after write, and every other place left alone, for tables by number, for byte memories and for the
object dictionary. None of these needs the store to be in canonical form. -/

namespace Sys2Proof.Machine

theorem tabFind_put {α : Type} (k j : Nat) (v : α) (t : List (Nat × α)) :
    tabFind j (tabPut k v t) = if j = k then some v else tabFind j t := by
  induction t with
  | nil => rfl
  | cons y t ih =>
    obtain ⟨i, w⟩ := y
    unfold tabPut
    split
    · next e => subst e; simp only [tabFind]; split <;> rfl
    · split
      · simp only [tabFind]
      · next e _ =>
        simp only [tabFind, ih]
        split
        · next e' => subst e'; split
                     · next e'' => exact absurd e''.symm e
                     · rfl
        · rfl

theorem tabFind_drop {α : Type} (k j : Nat) (t : List (Nat × α)) :
    tabFind j (tabDrop k t) = if j = k then none else tabFind j t := by
  unfold tabDrop
  induction t with
  | nil => simp [tabFind]
  | cons y t ih =>
    obtain ⟨i, w⟩ := y
    simp only [List.filter_cons]
    split
    · next e =>
      simp only [bne_iff_ne, ne_eq] at e
      simp only [tabFind, ih]
      split
      · next e' => subst e'; simp [e]
      · rfl
    · next e =>
      simp only [bne_iff_ne, ne_eq, Decidable.not_not] at e
      subst e
      rw [ih]
      simp only [tabFind]
      split <;> rfl

@[simp] theorem tabGet_put_same {α : Type} (k : Nat) (d v : α) (t : List (Nat × α)) : tabGet k d (tabPut k v t) = v := by
  simp [tabGet, tabFind_put]
theorem tabGet_put_other {α : Type} {k j : Nat} (d v : α) (t : List (Nat × α)) (h : j ≠ k) :
    tabGet j d (tabPut k v t) = tabGet j d t := by
  simp [tabGet, tabFind_put, h]
@[simp] theorem tabGet_mod_same {α : Type} (k : Nat) (d : α) (f : α → α) (t : List (Nat × α)) :
    tabGet k d (tabMod k d f t) = f (tabGet k d t) := tabGet_put_same ..
theorem tabGet_mod_other {α : Type} {k j : Nat} (d : α) (f : α → α) (t : List (Nat × α)) (h : j ≠ k) :
    tabGet j d (tabMod k d f t) = tabGet j d t := tabGet_put_other _ _ _ h
theorem tabGet_drop {α : Type} (k j : Nat) (d : α) (t : List (Nat × α)) :
    tabGet j d (tabDrop k t) = if j = k then d else tabGet j d t := by
  simp only [tabGet, tabFind_drop]; split <;> rfl

/-- A number read from a table where a listed value never is the default. -/
theorem tabGet_keep (k j d v : Nat) (t : List (Nat × Nat)) : tabGet j d (tabKeep k d v t) = if j = k then v else tabGet j d t := by
  unfold tabKeep
  split
  · next e => rw [tabGet_drop]; split
              · exact e.symm
              · rfl
  · unfold tabGet; rw [tabFind_put]; split <;> rfl

/-- A read of one byte after a store of one byte. -/
theorem memByte_put (a b : Nat) (x : Byte) (m : List Host.Cell) :
    memByte (memPut a x m) b = if b = a then x else memByte m b := by
  unfold memPut memByte
  split
  · next e => rw [tabGet_drop]; split
              · exact e.symm
              · rfl
  · unfold tabGet; rw [tabFind_put]; split <;> rfl

/-- A read of one byte after a store of bytes: the byte stored there, or what was there. -/
theorem memByte_store (a b : Nat) (bs : List Byte) (m : List Host.Cell) :
    memByte (memStore a bs m) b = if a ≤ b ∧ b < a + bs.length then bs.getD (b - a) 0 else memByte m b := by
  induction bs generalizing a m with
  | nil => simp only [memStore, List.length_nil]; split <;> first | omega | rfl
  | cons x xs ih =>
    simp only [memStore, ih, memByte_put, List.length_cons]
    by_cases h : b = a
    · subst h
      simp only [Nat.le_refl, Nat.sub_self, List.getD_cons_zero, if_true, true_and]
      rw [if_neg (by omega), if_pos (by omega)]
    · simp only [h, if_false]
      by_cases h2 : a + 1 ≤ b ∧ b < a + 1 + xs.length
      · rw [if_pos h2, if_pos (by omega)]
        have e : b - a = (b - (a + 1)) + 1 := by omega
        rw [e, List.getD_cons_succ]
      · rw [if_neg h2, if_neg (by omega)]

theorem memLoad_length (m : List Host.Cell) (a n : Nat) : (memLoad m a n).length = n := by
  induction n generalizing a with
  | zero => rfl
  | succ n ih => simp only [memLoad, List.length_cons, ih]

theorem memLoad_getD (m : List Host.Cell) (a n i : Nat) (h : i < n) : (memLoad m a n).getD i 0 = memByte m (a + i) := by
  induction n generalizing a i with
  | zero => omega
  | succ n ih =>
    cases i with
    | zero => rfl
    | succ i =>
      simp only [memLoad, List.getD_cons_succ]
      rw [ih _ _ (by omega)]
      congr 1
      omega

/-- A load depends only on the bytes that it reads. -/
theorem memLoad_congr {m m' : List Host.Cell} (a n : Nat) (h : ∀ b, a ≤ b → b < a + n → memByte m b = memByte m' b) :
    memLoad m a n = memLoad m' a n := by
  induction n generalizing a with
  | zero => rfl
  | succ n ih =>
    simp only [memLoad]
    rw [h a (Nat.le_refl _) (by omega), ih _ (fun b h1 h2 => h b (by omega) (by omega))]

/-- A load of the bytes just stored gives them back. -/
theorem memLoad_store (a : Nat) (bs : List Byte) (m : List Host.Cell) : memLoad (memStore a bs m) a bs.length = bs := by
  induction bs generalizing a m with
  | nil => rfl
  | cons x xs ih =>
    simp only [List.length_cons, memLoad, memStore]
    rw [ih]
    congr 1
    rw [memByte_store, if_neg (by omega), memByte_put, if_pos rfl]

/-- A load that meets none of the bytes stored gives what it gave before. -/
theorem memLoad_store_other (a b n : Nat) (bs : List Byte) (m : List Host.Cell) (h : b + n ≤ a ∨ a + bs.length ≤ b) :
    memLoad (memStore a bs m) b n = memLoad m b n :=
  memLoad_congr b n (fun c h1 h2 => by rw [memByte_store, if_neg (by omega)])

/-- A read of one byte after a range of bytes is set to zero. -/
theorem memByte_clear (a n b : Nat) (m : List Host.Cell) :
    memByte (memClear a n m) b = if a ≤ b ∧ b < a + n then 0 else memByte m b := by
  unfold memByte memClear tabGet
  induction m with
  | nil => simp only [List.filter_nil, tabFind, Option.getD_none]; split <;> rfl
  | cons y t ih =>
    obtain ⟨i, w⟩ := y
    simp only [List.filter_cons]
    split
    · next e =>
      simp only [Bool.or_eq_true, decide_eq_true_eq] at e
      simp only [tabFind]
      split
      · next e' => subst e'; rw [if_neg (by omega)]
      · exact ih
    · next e =>
      simp only [Bool.or_eq_true, decide_eq_true_eq, not_or, Nat.not_lt, Nat.not_le] at e
      rw [ih]
      simp only [tabFind]
      split
      · rfl
      · split
        · next h e' => subst e'; omega
        · rfl

/-- An object dictionary entry just set reads as its value. -/
@[simp] theorem odGet_set_same (k v : Nat) (s : State) : odGet (odSet k v s) k = v := by
  unfold odGet odSet onOd tabKeep
  by_cases e : v = ((odFind k).map (·.dflt)).getD 0
  · simp only [e, if_true, tabFind_drop]
  · simp only [e, if_false, tabFind_put, if_true]

/-- Setting an object dictionary entry leaves every other entry as it was. -/
theorem odGet_set_other {k j : Nat} (v : Nat) (s : State) (h : j ≠ k) : odGet (odSet k v s) j = odGet s j := by
  unfold odGet odSet onOd tabKeep
  by_cases e : v = ((odFind k).map (·.dflt)).getD 0
  · simp only [e, if_true, tabFind_drop, h, if_false]
  · simp only [e, if_false, tabFind_put, h]

@[simp] theorem getQ_mod_same (q : Nat) (f : Queue → Queue) (s : State) : getQ (modQ q f s) q = f (getQ s q) :=
  tabGet_mod_same ..
theorem getQ_mod_other {q p : Nat} (f : Queue → Queue) (s : State) (h : p ≠ q) : getQ (modQ q f s) p = getQ s p :=
  tabGet_mod_other _ _ _ h
@[simp] theorem getEvq_mod_same (i : Nat) (f : Ring → Ring) (s : State) : getEvq (modEvq i f s) i = f (getEvq s i) :=
  tabGet_mod_same ..
theorem getEvq_mod_other {i j : Nat} (f : Ring → Ring) (s : State) (h : j ≠ i) : getEvq (modEvq i f s) j = getEvq s j :=
  tabGet_mod_other _ _ _ h
@[simp] theorem getPod_mod_same (p : Nat) (f : Pod → Pod) (s : State) : getPod (modPod p f s) p = f (getPod s p) :=
  tabGet_mod_same ..
theorem getPod_mod_other {p q : Nat} (f : Pod → Pod) (s : State) (h : q ≠ p) : getPod (modPod p f s) q = getPod s q :=
  tabGet_mod_other _ _ _ h
@[simp] theorem getChan_mod_same (c : Nat) (f : Chan → Chan) (s : State) : getChan (modChan c f s) c = f (getChan s c) :=
  tabGet_mod_same ..
@[simp] theorem getPort_mod_same (k : Nat) (f : Port → Port) (s : State) : getPort (modPort k f s) k = f (getPort s k) :=
  tabGet_mod_same ..

end Sys2Proof.Machine
end

