-- ==== Sys2Proof/Laws/Tasks.lean ====
section
/-! SUPPORT. A task and its queue after the operations that every control command shares. -/

namespace Sys2Proof.Machine

@[simp] theorem folio_onCfe (f) (s : State) : folio (onCfe f s) = folio s := rfl

/-- The task changed is found changed. -/
theorem getTask_mod_same {n : Nat} {k : Task} {s : State} (f : Task → Task) (h : getTask s n = some k) (hf : ∀ j, (f j).id = j.id) :
    getTask (modTask n f s) n = some (f k) := by
  unfold getTask modTask onCfe at *
  simp only
  generalize s.cfe.tasks = ts at h
  induction ts with
  | nil => cases h
  | cons j ts ih =>
    simp only [List.map_cons, List.find?_cons] at *
    by_cases e : j.id = n
    · simp only [e, beq_self_eq_true, if_true, hf] at *
      cases h
      rfl
    · have e' : (j.id == n) = false := beq_false_of_ne e
      simp only [e', Bool.false_eq_true, if_false] at *
      exact ih h

/-- Every other task is found as it was. -/
theorem getTask_mod_other {n j : Nat} (s : State) (f : Task → Task) (h : j ≠ n) (hf : ∀ j, (f j).id = j.id) :
    getTask (modTask n f s) j = getTask s j := by
  unfold getTask modTask onCfe
  simp only
  generalize s.cfe.tasks = ts
  induction ts with
  | nil => rfl
  | cons x ts ih =>
    simp only [List.map_cons, List.find?_cons, ih]
    by_cases e : x.id = n
    · have e2 : (x.id == j) = false := beq_false_of_ne (by omega)
      have e3 : ((f x).id == j) = false := by rw [hf]; exact e2
      simp only [e, beq_self_eq_true, if_true, e3, beq_false_of_ne (Ne.symm h)]
    · simp only [beq_false_of_ne e, Bool.false_eq_true, if_false]

@[simp] theorem getTask_modQ (q : Nat) (f) (s : State) (n : Nat) : getTask (modQ q f s) n = getTask s n := rfl
@[simp] theorem getQ_modTask (n : Nat) (f) (s : State) (q : Nat) : getQ (modTask n f s) q = getQ s q := rfl

/-- What a change of one task and one queue comes to. -/
theorem onlyTask_mod (n q : Nat) (f : Task → Task) (g : Queue → Queue) (s : State) (hf : ∀ j, (f j).id = j.id) :
    onlyTask n q s (modQ q g (modTask n f s)) :=
  ⟨fun j h => by rw [getTask_modQ, getTask_mod_other s f h hf],
   fun p h => by rw [getQ_mod_other g _ h, getQ_modTask], rfl⟩

theorem onlyTask_trans {n q : Nat} {s t u : State} (h : onlyTask n q s t) (h' : onlyTask n q t u) : onlyTask n q s u := by
  refine ⟨fun j e => (h'.1 j e).trans (h.1 j e), fun p e => (h'.2.1 p e).trans (h.2.1 p e), ?_⟩
  have a := h.2.2
  have b := h'.2.2
  rw [← a, ← b]

/-- FINISH: the operation does what it says. -/
theorem finishTask_finishes {n : Nat} {k : Task} {s : State} (h : getTask s n = some k) : finishes n k s (finishTask n s) := by
  unfold finishTask
  rw [h]
  refine ⟨?_, ?_, onlyTask_mod _ _ _ _ _ (fun _ => rfl)⟩
  · exact getTask_mod_same _ h (fun _ => rfl)
  · rw [getQ_mod_same, getQ_modTask]

/-- STALL: the operation does what it says. -/
theorem stallTask_stalls {n : Nat} {k : Task} {s : State} (h : getTask s n = some k) :
    stallsAs n k { k with phase := .stalled } s (stallTask n s) := by
  unfold stallTask
  rw [h]
  refine ⟨?_, ?_, onlyTask_mod _ _ _ _ _ (fun _ => rfl)⟩
  · exact getTask_mod_same _ h (fun _ => rfl)
  · rw [getQ_mod_same, getQ_modTask]

/-- What a live task is. -/
theorem liveTask_some {s : State} {t op : Nat} {k : Task} (h : liveTask s t op = some k) :
    getTask s t = some k ∧ dOp k.desc = op ∧ (k.phase = .admitted ∨ k.phase = .stalled) ∧ unitsOn s (opUnits op) = true := by
  unfold liveTask at h
  split at h
  · split at h
    · next e c =>
      cases h
      simp only [Bool.and_eq_true, Bool.or_eq_true, beq_iff_eq] at c
      exact ⟨e, c.1.1, c.1.2, c.2⟩
    · cases h
  · cases h

/-- What a live SYNC_OP is. -/
theorem syncTask_some {s : State} {t op : Nat} {k : Task} (h : syncTask s t op = some k) :
    liveTask s t opSync = some k ∧ syOp k.desc = op := by
  unfold syncTask at h
  split at h
  · next e =>
    split at h
    · next c => cases h; exact ⟨e, by simpa using c⟩
    · cases h
  · cases h

/-- Beginning a drain changes at most one task. -/
theorem beginDrain_only (n q : Nat) (s : State) : onlyTask n q s (beginDrain n s) :=
  ⟨fun j hj => getTask_mod_other (j := j) s _ hj (fun j => by show (if _ then _ else _ : Task).id = _; split <;> rfl), fun _ _ => rfl, rfl⟩

/-- A task for which no drain begins stays as it is. -/
theorem getTask_beginDrain {n : Nat} {s : State} {k : Task} (h : getTask s n = some k)
    (hk : (dXpath k.desc && k.drainTo.isNone) = false) : getTask (beginDrain n s) n = some k := by
  unfold beginDrain
  rw [getTask_mod_same _ h (fun j => by split <;> rfl), hk]
  rfl

/-- Closing handlings changes nothing but the MSC. -/
theorem closeHandlings_rest (f : Handling → Bool) (s : State) : { closeHandlings f s with msc := s.msc } = s := by
  unfold closeHandlings
  exact forEach_holds (P := fun t => { t with msc := s.msc } = s) closeRecords (fun _ _ h => h)
    (List.filter f s.msc.open_) (rfl : { onMsc (fun m => { m with open_ := m.open_.filter (fun h => !f h) }) s with msc := s.msc } = s)

/-- An error of task level, of no cause with a notice of its own, changes no task while no other error is handled. -/
theorem raiseErr_calm {e : ErrInfo} {s : State} (ho : s.msc.open_ = []) (hl : e.level = 2) (hc : e.cause ≠ 8) :
    raiseErr e s = closeEmptied (openHandling e 2 false (countCause e.cause s)) := by
  unfold raiseErr escalated
  simp [ho, hl, hc]

end Sys2Proof.Machine
end

