-- ==== Sys2Proof/Laws/Events.lean ====
section
/-! SUPPORT. What posting an event, a posted write and a store leave: a view of the state that the small changes under an
event leave alone is the same after any event. The views are each part of the machine without what an event may change. -/

namespace Sys2Proof.Machine

/-- A view of the state that none of the changes under the posting of an event alters. -/
structure Quiet {α : Type} (g : State → α) : Prop where
  ring : ∀ i f s, g (modEvq i f s) = g s
  drop : ∀ n s, g (onCfe (fun c => { c with dropped := n }) s) = g s
  write : ∀ p a bs t k s, g (postWrite p a bs t k s) = g s
  forget : ∀ (f : List OutWrite → List OutWrite) s, g (onHpt (fun h => { h with outq := f h.outq }) s) = g s
  store : ∀ a bs s, g (gddrStore a bs s) = g s
  lines : ∀ n a bs s, g (stacksWrite n a bs s) = g s
  lay : ∀ n a bs s, g (pinOverlay n a bs s) = g s
  small : ∀ m n s, g { s with mem := { s.mem with scratch := m, tiles := n } } = g s
  sent : ∀ f s, g (onOut f s) = g s
  err : ∀ k i s, g (ringResetErr k i s) = g s
  alert : ∀ s, g (setAlert s) = g s
  held : ∀ l s, g (onMsc (fun m => { m with held := l }) s) = g s

namespace Quiet

variable {α : Type} {g : State → α}

theorem storeAw (h : Quiet g) (w bs t) (s : State) : g (storeAw w bs t s) = g s := by
  unfold Machine.storeAw
  split
  · rw [h.write]; split
    · rw [h.lay, h.lines]
    · rfl
  · rw [h.store, h.lay]
  · exact h.small _ s.mem.tiles s
  · exact h.small s.mem.scratch _ s
theorem notify (h : Quiet g) (i) (s : State) : g (notifyEvq i s) = g s := by
  unfold notifyEvq; dsimp only; split
  · rw [h.sent, h.ring]
  · rfl
theorem visible (h : Quiet g) (i) (s : State) : g (evqVisible i s) = g s := by
  unfold evqVisible; dsimp only; rw [h.notify, h.ring]
theorem entry (h : Quiet g) (i e) (s : State) : g (evqWrite i e s) = g s := by
  unfold evqWrite; dsimp only; split
  · rw [h.write, h.ring]
  · rw [h.visible, h.storeAw, h.ring]
theorem gap (h : Quiet g) (i) (s : State) : g (evqGap i s) = g s := by
  unfold evqGap; dsimp only; split
  · rw [h.entry, h.ring]
  · rfl
theorem garwa (h : Quiet g) (e) (s : State) : g (garwaSend e s) = g s := by
  unfold garwaSend; split
  · exact h.sent _ s
  · rfl
theorem reset (h : Quiet g) (i) (s : State) : g (evqReset i s) = g s := by
  have e : ∀ x, g (evqWrite i x (modEvq i ringZero (forgetWrites (.event i) (ringResetErr 2 i s)))) = g s := by
    intro x
    rw [h.entry, h.ring]
    exact (h.forget _ _).trans (h.err ..)
  unfold evqReset; dsimp only; split
  · rw [h.garwa, e]
  · exact e _
theorem check (h : Quiet g) (i) (s : State) : g (evqCheck i s) = g s := by
  unfold evqCheck; split
  · exact h.reset i s
  · rfl
theorem post (h : Quiet g) (i e) (s : State) : g (postEntry i e s) = g s := by
  unfold postEntry
  extract_lets s1 r s2
  have h1 : g s1 = g s := by simp only [s1, h.gap, h.check]
  have h2 : g s2 = g s := by simp only [s2, h.entry, h1]
  split
  · exact h1
  · split
    · unfold evqDrop; exact (h.drop _ _).trans ((h.ring ..).trans h1)
    · split
      · rw [h.garwa, h2]
      · exact h2

/-- The posting of an event leaves the view alone. -/
theorem event (h : Quiet g) (i e n c d) (s : State) : g (postEvent i e n c d s) = g s := by
  unfold postEvent
  extract_lets s1 x
  have h1 : g s1 = g s := by
    simp only [s1]; split
    · exact h.alert s
    · rfl
  split
  · exact (h.held _ _).trans h1
  · rw [h.post, h1]

/-- A view that no change of the parts outside a list alters is kept by them. -/
theorem keeps (h : Quiet g) (s : State) (ps : List Part)
    (hp : ∀ p, p ∉ ps → p ∉ [Part.mq, .pw, .po, .st, .ev] → Stable (fun t => g t = g s) p) (hm : .mq ∈ ps ∨ ∀ q f t, g (modQ q f t) = g t)
    (p : Part) (hn : p ∉ ps) : Stable (fun t => g t = g s) p := by
  cases p
  case mq => exact hm.elim (fun m => absurd m hn) (fun m q f t e => (m q f t).trans e)
  case pw => exact fun p a bs t k u e => (h.write p a bs t k u).trans e
  case po => exact fun n a bs u e => (h.lay n a bs u).trans e
  case st => exact fun a bs u e => (h.store a bs u).trans e
  case ev => exact fun i e n c d u x => (h.event i e n c d u).trans x
  all_goals exact hp _ hn (by decide)

end Quiet

/-- A count changes at most the object dictionary. -/
theorem odCount_on (k n : Nat) (s : State) : ∃ f, odCount k n s = onOd f s := by
  unfold odCount
  split
  · exact ⟨id, rfl⟩
  · exact ⟨_, rfl⟩

/-- A posted write changes at most the object dictionary and the Host Port. -/
theorem postWrite_on (p a bs t k) (s : State) : ∃ f g h, postWrite p a bs t k s = onHpt h (onHpt g (onOd f s)) := by
  unfold postWrite
  obtain ⟨f, e⟩ := odCount_on odHptRetainStalls (bit (p == 0 && decide (4194304 < retained s + bs.length))) s
  rw [e]
  unfold translate
  dsimp only
  exact ⟨f, _, _, rfl⟩

/-- The error of a ring reset changes at most the object dictionary and the MSC. -/
theorem ringResetErr_on (k i) (s : State) : ∃ f g, ringResetErr k i s = onMsc g (onOd f s) := by
  unfold ringResetErr countCause odSet
  dsimp only
  exact ⟨_, _, rfl⟩

/-! ## The front end -/

/-- The front end without its event rings and the count of dropped events. -/
def bare (s : State) : Cfe := { s.cfe with evqs := [], dropped := 0 }

theorem quiet_bare : Quiet bare where
  ring _ _ _ := rfl
  drop _ _ := rfl
  write p a bs t k s := by obtain ⟨f, g, h, e⟩ := postWrite_on p a bs t k s; rw [e]; rfl
  forget _ _ := rfl
  store _ _ _ := rfl
  lines _ _ _ _ := rfl
  lay _ _ _ _ := rfl
  small _ _ _ := rfl
  sent _ _ := rfl
  err k i s := by obtain ⟨f, g, e⟩ := ringResetErr_on k i s; rw [e]; rfl
  alert _ := rfl
  held _ _ := rfl

/-- Posting an event changes of the front end nothing but event rings and the count of dropped events. -/
theorem bare_postEvent (i e n c d) (s : State) : bare (postEvent i e n c d s) = bare s := quiet_bare.event ..
theorem bare_postWrite (p a bs t k) (s : State) : bare (postWrite p a bs t k s) = bare s := quiet_bare.write ..
theorem bare_storeAw (w bs t) (s : State) : bare (storeAw w bs t s) = bare s := quiet_bare.storeAw ..

/-- The front end, but for its event rings, is as it was. -/
theorem keeps_bare (s : State) (p : Part) (h : p ∉ [Part.cfe, Part.mq] := by decide) : Stable (fun t => bare t = bare s) p := by
  refine quiet_bare.keeps s [.cfe, .mq] (fun p hp hn => ?_) (.inl (by decide)) p h
  cases p
  case cfe | mq | pw | po | st | ev => first | exact absurd hp (by decide) | exact absurd hn (by decide)
  case host | gddr | scratch | tiles => exact fun f s _ h => h
  all_goals exact fun f s h => h

/-- The tasks of the front end. -/
def tasksOf (s : State) : List Task := s.cfe.tasks
/-- The queues of the front end. -/
def queuesOf (s : State) : List (Nat × Queue) := s.cfe.queues

/-- A view of a quiet view is quiet. -/
theorem Quiet.of {α β : Type} {g : State → α} (h : Quiet g) (φ : α → β) : Quiet (fun s => φ (g s)) where
  ring i f s := congrArg φ (h.ring i f s)
  drop n s := congrArg φ (h.drop n s)
  write p a bs t k s := congrArg φ (h.write p a bs t k s)
  forget f s := congrArg φ (h.forget f s)
  store a bs s := congrArg φ (h.store a bs s)
  lines n a bs s := congrArg φ (h.lines n a bs s)
  lay n a bs s := congrArg φ (h.lay n a bs s)
  small m n s := congrArg φ (h.small m n s)
  sent f s := congrArg φ (h.sent f s)
  err k i s := congrArg φ (h.err k i s)
  alert s := congrArg φ (h.alert s)
  held l s := congrArg φ (h.held l s)

theorem quiet_tasksOf : Quiet tasksOf := quiet_bare.of Cfe.tasks
theorem quiet_queuesOf : Quiet queuesOf := quiet_bare.of Cfe.queues

/-- The tasks are as they were. -/
theorem keeps_tasks (s : State) (p : Part) (h : p ≠ .cfe := by decide) : Stable (fun t => t.cfe.tasks = s.cfe.tasks) p := by
  refine quiet_tasksOf.keeps s [.cfe] (fun p hp hn => ?_) (.inr (fun _ _ _ => rfl)) p (by simpa using h)
  cases p
  case cfe | mq | pw | po | st | ev => first | exact absurd hp (by decide) | exact absurd hn (by decide)
  case host | gddr | scratch | tiles => exact fun f s _ h => h
  all_goals exact fun f s h => h

/-- The queues are as they were. -/
theorem keeps_queues (s : State) (p : Part) (h : p ∉ [Part.cfe, Part.mq] := by decide) : Stable (fun t => t.cfe.queues = s.cfe.queues) p := by
  refine quiet_queuesOf.keeps s [.cfe, .mq] (fun p hp hn => ?_) (.inl (by decide)) p h
  cases p
  case cfe | mq | pw | po | st | ev => first | exact absurd hp (by decide) | exact absurd hn (by decide)
  case host | gddr | scratch | tiles => exact fun f s _ h => h
  all_goals exact fun f s h => h

/-! ## The Catalogue and Stacks -/

/-- The Catalogue without the bytes that the replicas hold. -/
def catBare (s : State) : Cat := { s.cat with replicas := s.cat.replicas.map (fun r => { r with data := [] }) }

theorem quiet_catBare : Quiet catBare where
  ring _ _ _ := rfl
  drop _ _ := rfl
  write p a bs t k s := by obtain ⟨f, g, h, e⟩ := postWrite_on p a bs t k s; rw [e]; rfl
  forget _ _ := rfl
  store _ _ _ := rfl
  lines _ _ _ _ := rfl
  lay _ _ _ _ := by unfold catBare pinOverlay; simp [Function.comp_def]
  small _ _ _ := rfl
  sent _ _ := rfl
  err k i s := by obtain ⟨f, g, e⟩ := ringResetErr_on k i s; rw [e]; rfl
  alert _ := rfl
  held _ _ := rfl

/-- The Catalogue, but for the bytes of the replicas, is as it was. -/
theorem keeps_catBare (s : State) (p : Part) (h : p ≠ .cat := by decide) : Stable (fun t => catBare t = catBare s) p := by
  refine quiet_catBare.keeps s [.cat] (fun p hp hn => ?_) (.inr (fun _ _ _ => rfl)) p (by simpa using h)
  cases p
  case cat | mq | pw | po | st | ev => first | exact absurd hp (by decide) | exact absurd hn (by decide)
  case host | gddr | scratch | tiles => exact fun f s _ h => h
  all_goals exact fun f s h => h

/-- Stacks without the rows that the pinned copies hold. -/
def stkBare (s : State) : Stk := { s.stk with pinned := s.stk.pinned.map (fun c => { c with rows := [] }) }

theorem quiet_stkBare : Quiet stkBare where
  ring _ _ _ := rfl
  drop _ _ := rfl
  write p a bs t k s := by obtain ⟨f, g, h, e⟩ := postWrite_on p a bs t k s; rw [e]; rfl
  forget _ _ := rfl
  store _ _ _ := rfl
  lines _ _ _ _ := rfl
  lay _ _ _ _ := by unfold stkBare pinOverlay; simp [Function.comp_def]
  small _ _ _ := rfl
  sent _ _ := rfl
  err k i s := by obtain ⟨f, g, e⟩ := ringResetErr_on k i s; rw [e]; rfl
  alert _ := rfl
  held _ _ := rfl

/-- Stacks, but for the rows of the pinned copies, is as it was. -/
theorem keeps_stkBare (s : State) (p : Part) (h : p ≠ .stk := by decide) : Stable (fun t => stkBare t = stkBare s) p := by
  refine quiet_stkBare.keeps s [.stk] (fun p hp hn => ?_) (.inr (fun _ _ _ => rfl)) p (by simpa using h)
  cases p
  case stk | mq | pw | po | st | ev => first | exact absurd hp (by decide) | exact absurd hn (by decide)
  case host | gddr | scratch | tiles => exact fun f s _ h => h
  all_goals exact fun f s h => h

/-! ## The Pods -/

theorem podsBare_stacksWrite (tier a bs) (s : State) : podsBare (stacksWrite tier a bs s) = podsBare s := by
  unfold podsBare stacksWrite onPods
  simp only [List.map_map]
  rfl

theorem quiet_podsBare : Quiet podsBare where
  ring _ _ _ := rfl
  drop _ _ := rfl
  write p a bs t k s := by obtain ⟨f, g, h, e⟩ := postWrite_on p a bs t k s; rw [e]; rfl
  forget _ _ := rfl
  store _ _ _ := podsBare_stacksWrite ..
  lines _ _ _ _ := podsBare_stacksWrite ..
  lay _ _ _ _ := rfl
  small _ _ _ := rfl
  sent _ _ := rfl
  err k i s := by obtain ⟨f, g, e⟩ := ringResetErr_on k i s; rw [e]; rfl
  alert _ := rfl
  held _ _ := rfl

/-- Posting an event changes of the Pods nothing but their Stacks slices. -/
theorem podsBare_postEvent (i e n c d) (s : State) : podsBare (postEvent i e n c d s) = podsBare s := quiet_podsBare.event ..

/-- The Pods, but for their Stacks slices, are as they were. -/
theorem keeps_podsBare (s : State) (p : Part) (h : p ≠ .pods := by decide) : Stable (fun t => podsBare t = podsBare s) p := by
  refine quiet_podsBare.keeps s [.pods] (fun p hp hn => ?_) (.inr (fun _ _ _ => rfl)) p (by simpa using h)
  cases p
  case pods | mq | pw | po | st | ev => first | exact absurd hp (by decide) | exact absurd hn (by decide)
  case host | gddr | scratch | tiles => exact fun f s _ h => h
  all_goals exact fun f s h => h

/-- A Pod found by its number, without its slice, depends only on the Pods without their slices. -/
theorem getPod_bare (s : State) (p : Nat) :
    { getPod s p with slice := ({} : Slice) } = tabGet p {} (podsBare s) := by
  unfold getPod podsBare tabGet
  generalize s.pods = ps
  induction ps with
  | nil => rfl
  | cons y t ih =>
    obtain ⟨j, v⟩ := y
    simp only [List.map_cons, tabFind]
    split
    · rfl
    · exact ih

/-! ## The Host Port -/

/-- The Host Port without its writes, its translations and the lines that host caches hold. -/
def hptBare (s : State) : Hpt :=
  { s.hpt with outq := [], issued := 0, bytesWritten := 0, snoop := [], tlb := [], transMisses := 0 }

theorem quiet_hptBare : Quiet hptBare where
  ring _ _ _ := rfl
  drop _ _ := rfl
  write p a bs t k s := by
    unfold postWrite
    obtain ⟨f, e⟩ := odCount_on odHptRetainStalls (bit (p == 0 && decide (4194304 < retained s + bs.length))) s
    rw [e]; rfl
  forget _ _ := rfl
  store _ _ _ := rfl
  lines _ _ _ _ := rfl
  lay _ _ _ _ := rfl
  small _ _ _ := rfl
  sent _ _ := rfl
  err k i s := by obtain ⟨f, g, e⟩ := ringResetErr_on k i s; rw [e]; rfl
  alert _ := rfl
  held _ _ := rfl

theorem hptBare_postEvent (i e n c d) (s : State) : hptBare (postEvent i e n c d s) = hptBare s := quiet_hptBare.event ..

/-- The state of the links, the epoch and the holds of the Host Port are as they were. -/
theorem keeps_hptBare (s : State) (p : Part) (h : p ≠ .hpt := by decide) : Stable (fun t => hptBare t = hptBare s) p := by
  refine quiet_hptBare.keeps s [.hpt] (fun p hp hn => ?_) (.inr (fun _ _ _ => rfl)) p (by simpa using h)
  cases p
  case hpt | mq | pw | po | st | ev => first | exact absurd hp (by decide) | exact absurd hn (by decide)
  case host | gddr | scratch | tiles => exact fun f s _ h => h
  all_goals exact fun f s h => h

/-! ## The object dictionary -/

/-- The entries of the object dictionary but MSC_ERR_COUNTS and HPT_RETAIN_STALLS. -/
def odBare (s : State) (k : Nat) : Nat := if k = odMscErrCounts ∨ k = odHptRetainStalls then 0 else odGet s k

theorem odBare_set {k : Nat} (v : Nat) (s : State) (h : k = odMscErrCounts ∨ k = odHptRetainStalls) :
    odBare (odSet k v s) = odBare s := by
  funext j
  unfold odBare
  split
  · rfl
  · next hj => exact odGet_set_other _ _ (fun e => hj (e ▸ h))
theorem odBare_postWrite (p a bs t k) (s : State) : odBare (postWrite p a bs t k s) = odBare s := by
  unfold postWrite odCount
  split
  · rfl
  · exact odBare_set _ s (.inr rfl)
theorem odBare_ringResetErr (k i) (s : State) : odBare (ringResetErr k i s) = odBare s := by
  have h : ∀ v w, odBare (onMsc v (odSet odMscErrCounts w s)) = odBare s := fun _ _ => odBare_set _ s (.inl rfl)
  unfold ringResetErr countCause
  dsimp only
  exact h _ _

theorem quiet_odBare : Quiet odBare where
  ring _ _ _ := rfl
  drop _ _ := rfl
  write _ _ _ _ _ _ := odBare_postWrite ..
  forget _ _ := rfl
  store _ _ _ := rfl
  lines _ _ _ _ := rfl
  lay _ _ _ _ := rfl
  small _ _ _ := rfl
  sent _ _ := rfl
  err _ _ _ := odBare_ringResetErr ..
  alert _ := rfl
  held _ _ := rfl

theorem odBare_postEvent (i e n c d) (s : State) : odBare (postEvent i e n c d s) = odBare s := quiet_odBare.event ..

/-- An entry that no event counts in reads the same. -/
theorem odGet_bare {s t : State} (h : odBare t = odBare s) {k : Nat} (hk : k ≠ odMscErrCounts := by decide)
    (hr : k ≠ odHptRetainStalls := by decide) : odGet t k = odGet s k := by
  have := congrFun h k; unfold odBare at this; rwa [if_neg (by simp [hk, hr]), if_neg (by simp [hk, hr])] at this

/-- The entries of the object dictionary but those that an event counts in are as they were. -/
theorem keeps_odBare (s : State) (p : Part) (h : p ≠ .od := by decide) : Stable (fun t => odBare t = odBare s) p := by
  refine quiet_odBare.keeps s [.od] (fun p hp hn => ?_) (.inr (fun _ _ _ => rfl)) p (by simpa using h)
  cases p
  case od | mq | pw | po | st | ev => first | exact absurd hp (by decide) | exact absurd hn (by decide)
  case host | gddr | scratch | tiles => exact fun f s _ h => h
  all_goals exact fun f s h => h

/-! ## The MSC -/

/-- The MSC without ALERT, held events and the primary record. -/
def mscBare (s : State) : Msc := { s.msc with alert := false, held := [], primary := {}, unrecorded := 0 }

theorem quiet_mscBare : Quiet mscBare where
  ring _ _ _ := rfl
  drop _ _ := rfl
  write p a bs t k s := by obtain ⟨f, g, h, e⟩ := postWrite_on p a bs t k s; rw [e]; rfl
  forget _ _ := rfl
  store _ _ _ := rfl
  lines _ _ _ _ := rfl
  lay _ _ _ _ := rfl
  small _ _ _ := rfl
  sent _ _ := rfl
  err k i s := by unfold mscBare ringResetErr; dsimp only [onMsc]; split <;> rfl
  alert _ := rfl
  held _ _ := rfl

theorem mscBare_postEvent (i e n c d) (s : State) : mscBare (postEvent i e n c d s) = mscBare s := quiet_mscBare.event ..

/-- The MSC but for ALERT, held events and the primary record is as it was. -/
theorem keeps_mscBare (s : State) (p : Part) (h : p ≠ .msc := by decide) : Stable (fun t => mscBare t = mscBare s) p := by
  refine quiet_mscBare.keeps s [.msc] (fun p hp hn => ?_) (.inr (fun _ _ _ => rfl)) p (by simpa using h)
  cases p
  case msc | mq | pw | po | st | ev => first | exact absurd hp (by decide) | exact absurd hn (by decide)
  case host | gddr | scratch | tiles => exact fun f s _ h => h
  all_goals exact fun f s h => h

/-! ## The Memory Subsystem -/

/-- The Memory Subsystem without the counts and queues of atoms and the uncorrectable atoms. -/
def mssBare (s : State) : Mss := { s.mss with atomsRead := 0, atomsWritten := 0, badAtoms := [], writeq := [] }

theorem quiet_mssBare : Quiet mssBare where
  ring _ _ _ := rfl
  drop _ _ := rfl
  write p a bs t k s := by obtain ⟨f, g, h, e⟩ := postWrite_on p a bs t k s; rw [e]; rfl
  forget _ _ := rfl
  store _ _ _ := rfl
  lines _ _ _ _ := rfl
  lay _ _ _ _ := rfl
  small _ _ _ := rfl
  sent _ _ := rfl
  err k i s := by obtain ⟨f, g, e⟩ := ringResetErr_on k i s; rw [e]; rfl
  alert _ := rfl
  held _ _ := rfl

theorem mssBare_postEvent (i e n c d) (s : State) : mssBare (postEvent i e n c d s) = mssBare s := quiet_mssBare.event ..

/-- The Memory Subsystem but for the counts and queues of atoms and the uncorrectable atoms is as it was. -/
theorem keeps_mssBare (s : State) (p : Part) (h : p ≠ .mss := by decide) : Stable (fun t => mssBare t = mssBare s) p := by
  refine quiet_mssBare.keeps s [.mss] (fun p hp hn => ?_) (.inr (fun _ _ _ => rfl)) p (by simpa using h)
  cases p
  case mss | mq | pw | po | st | ev => first | exact absurd hp (by decide) | exact absurd hn (by decide)
  case host | gddr | scratch | tiles => exact fun f s _ h => h
  all_goals exact fun f s h => h

end Sys2Proof.Machine
end

