-- ==== Sys2Proof/Laws/Cells.lean ====
section
/-! SUPPORT. What sending a cell does: of the fabric port only the transfer counts, the ports, the cell sequences and the
requests that wait for a credit change, and outside it only what an event changes. -/

namespace Sys2Proof.Machine

/-- The fabric port without what sending a cell changes. -/
def sfpBare (f : Sfp) : Sfp := { f with xid := 0, cellsSent := 0, sentCells := [], ports := [], cseq := [], held := [] }

/-- A cell that goes to its port changes at most the ports. -/
theorem laneCell_eq (dst xid i : Nat) (s : State) : ∃ ps, laneCell dst xid i s = onSfp (fun f => { f with ports := ps }) s := by
  unfold laneCell
  split
  · exact ⟨s.sfp.ports, rfl⟩
  · exact ⟨_, rfl⟩

theorem laneCells_eq (dst xid n : Nat) (s : State) : ∃ ps, laneCells dst xid n s = onSfp (fun f => { f with ports := ps }) s := by
  unfold laneCells
  generalize List.range n = xs
  induction xs generalizing s with
  | nil => exact ⟨s.sfp.ports, rfl⟩
  | cons x xs ih =>
    obtain ⟨ps, h⟩ := laneCell_eq dst xid x s
    obtain ⟨qs, e⟩ := ih (laneCell dst xid x s)
    refine ⟨qs, ?_⟩
    unfold forEach
    rw [e, h]
    rfl

theorem useCredit_eq (c : SentCell) (s : State) : ∃ ps, useCredit c s = onSfp (fun f => { f with ports := ps }) s := by
  unfold useCredit
  split
  · split
    · exact ⟨s.sfp.ports, rfl⟩
    · exact ⟨_, rfl⟩
  · exact ⟨s.sfp.ports, rfl⟩

theorem countCells_sfp (dst n : Nat) (s : State) : ∃ cs, (countCells dst n s).sfp = { s.sfp with cseq := cs } := by
  unfold countCells
  split
  · exact ⟨s.sfp.cseq, rfl⟩
  · extract_lets old s1
    split
    · refine ⟨s1.sfp.cseq, ?_⟩
      have h : Holds (fun t => t.sfp = s1.sfp) s1 := rfl
      exact post0_holds (P := fun t => t.sfp = s1.sfp) (keeps_sfp s1 _) _ _ _ h
    · exact ⟨_, rfl⟩

/-- What transmitting leaves of the fabric port: the transfer is recorded, if the slot has room. -/
theorem transmit_sfp (c : SentCell) (s : State) (h : cseqUsed s c.dst + cellsFor c.len < 2 ^ 48) : ∃ cs ps,
    (transmit c s).sfp = { s.sfp with
      cseq := cs, ports := ps, cellsSent := s.sfp.cellsSent + cellsFor c.len,
      sentCells := { c with cseq := cseqUsed s c.dst + 1, slot := s.sfp.sending } :: s.sfp.sentCells } := by
  unfold transmit
  extract_lets n c' s1
  have hn : ¬ 2 ^ 48 ≤ cseqUsed s c.dst + n := Nat.not_le.2 h
  rw [if_neg hn]
  obtain ⟨cs, h1⟩ := countCells_sfp c'.dst n s
  obtain ⟨ps, h2⟩ := laneCells_eq c'.dst c'.xid n (countCells c'.dst n s)
  obtain ⟨qs, h3⟩ := useCredit_eq c' (laneCells c'.dst c'.xid n (countCells c'.dst n s))
  refine ⟨cs, qs, ?_⟩
  have e : s1.sfp = { s.sfp with cseq := cs, ports := qs } := by
    show (useCredit c' (laneCells c'.dst c'.xid n (countCells c'.dst n s))).sfp = _
    rw [h3, h2]
    show { (countCells c'.dst n s).sfp with ports := qs } = _
    rw [h1]
  show { s1.sfp with cellsSent := s1.sfp.cellsSent + n, sentCells := c' :: s1.sfp.sentCells } = _
  rw [e]

/-- Transmitting leaves the rest of the fabric port as it was. -/
theorem transmit_bare (c : SentCell) (s : State) : sfpBare (transmit c s).sfp = sfpBare s.sfp := by
  by_cases h : cseqUsed s c.dst + cellsFor c.len < 2 ^ 48
  · obtain ⟨cs, ps, e⟩ := transmit_sfp c s h
    rw [e]
    rfl
  · unfold transmit
    dsimp only
    rw [if_pos (Nat.not_lt.1 h)]

/-- A cell sent leaves the rest of the fabric port as it was. -/
theorem sendCell_bare (type dst len : Nat) (fields : List Nat) (s : State) :
    sfpBare (sendCell type dst len fields s).sfp = sfpBare s.sfp := by
  unfold sendCell
  extract_lets c s1
  split
  · rfl
  · split
    · rfl
    · exact transmit_bare c s1

/-- A transfer that can go out is recorded with the next XID, its destination and its fields. -/
theorem sendCell_sent (type dst len : Nat) (fields : List Nat) (s : State) (h : cellRoom s dst (cellsFor len))
    (hc : type ≠ ctReadReq ∨ credited s (cellDst s dst) s.sfp.xid = true := by first | exact .inl (by decide) | exact .inr ‹_›) :
    sentOne type dst fields s (sendCell type dst len fields s) := by
  unfold sendCell
  extract_lets c s1
  have hl : linked s1 c.dst = true := h.1
  have hcr : ¬ (type = ctReadReq ∧ (!credited s1 c.dst c.xid) = true) := by
    rintro ⟨a, b⟩
    rcases hc with hc | hc
    · exact hc a
    · have e : credited s1 c.dst c.xid = true := hc
      rw [e] at b
      cases b
  rw [if_neg (by simp [hl]), if_neg hcr]
  obtain ⟨cs, ps, e⟩ := transmit_sfp c s1 h.2
  refine ⟨{ c with cseq := cseqUsed s1 c.dst + 1, slot := s1.sfp.sending }, congrArg Sfp.sentCells e, rfl, rfl, rfl, rfl, rfl, rfl⟩

theorem sendAck_bare (dst m : Nat) (r : Bool) (s : State) : sfpBare (sendAck dst m r s).sfp = sfpBare s.sfp := sendCell_bare ..

/-- A control message is kept under the next sequence of its destination. -/
theorem sendCtl_bare (type dst : Nat) (fields : List Nat) (task : Option Nat) (s : State) :
    sfpBare (sendCtl type dst fields task s).sfp = sfpBare { s.sfp with
      ctlSeq := tabPut dst ((nextCtl s dst + 1) % 2 ^ 32) s.sfp.ctlSeq,
      ctlOut := s.sfp.ctlOut ++ [{ dst := dst, mseq := nextCtl s dst, type := type, payload := fields, task := task }] } := by
  unfold sendCtl
  extract_lets m s1
  rw [sendCell_bare]
  rfl

theorem sendCtl_sent (type dst : Nat) (fields : List Nat) (task : Option Nat) (s : State) (h : cellRoom s dst 1)
    (ht : type ≠ ctReadReq := by decide) :
    sentOne type dst (nextCtl s dst :: fields) s (sendCtl type dst fields task s) := by
  unfold sendCtl
  extract_lets m s1
  exact sendCell_sent type dst 24 (m :: fields) s1 h (.inl ht)

end Sys2Proof.Machine
end

