-- ==== Sys2Proof/Laws/Ends.lean ====
section
/-! SUPPORT. What ends a task, and what leaves a task that has ended alone. -/

namespace Sys2Proof.Machine

/-- Posting an event changes no task. -/
theorem getTask_postEvent (i e n c d) (s : State) (m : Nat) : getTask (postEvent i e n c d s) m = getTask s m := by
  have h : (postEvent i e n c d s).cfe.tasks = s.cfe.tasks := by
    have b := congrArg Cfe.tasks (bare_postEvent i e n c d s)
    exact b
  unfold getTask
  rw [h]

/-- A task that cannot end any more is left as it is by the end of any task. -/
theorem endTaskCore_over {s : State} {n : Nat} {k : Task} (j st a b : Nat) (h : getTask s n = some k) (hk : canEnd k = false) :
    getTask (endTaskCore j st a b s) n = some k := by
  unfold endTaskCore
  split
  · exact h
  · next x e =>
    split
    · next c =>
      have hj : n ≠ j := by
        intro q; subst q; rw [h] at e; cases e; rw [hk] at c; cases c
      exact (getTask_mod_other s (endedTask (folio s) st a b) hj (fun _ => rfl)).trans h
    · exact h

theorem dropGroup_over {s : State} {n : Nat} {k : Task} (p : Nat) (g : Group) (a st : Nat) (h : getTask s n = some k)
    (hk : canEnd k = false) : getTask (dropGroup p g a st s) n = some k := by
  unfold dropGroup
  extract_lets s1 ends
  have h1 : getTask s1 n = some k := h
  have h2 : getTask (forEach (fun t s => endTaskCore t stNoGroup 0 0 s) ends s1) n = some k :=
    forEach_holds (P := fun t => getTask t n = some k) _ (fun x t ht => endTaskCore_over _ _ _ _ ht hk) _ h1
  unfold groupDropEvent
  extract_lets d s2
  have h3 : getTask s2 n = some k := (getTask_postEvent ..).trans h2
  split
  · exact h3
  · exact (getTask_postEvent ..).trans h3

theorem ended_over (now st a b : Nat) (k : Task) : canEnd (endedTask now st a b k) = false := by
  simp [canEnd, endedTask]

/-- ENDED: the end of a task that can end does what it says to it. -/
theorem endTask_ended {s : State} {n : Nat} {k : Task} (st a b : Nat) (h : getTask s n = some k) (hk : canEnd k = true) :
    endedAs n k st a b s (endTask n st a b s) := by
  unfold endedAs endTask
  rw [h]
  simp only [hk, if_true]
  have h1 : getTask (endTaskCore n st a b s) n = some (endedTask (folio s) st a b k) := by
    unfold endTaskCore
    rw [h]
    simp only [hk, if_true]
    exact getTask_mod_same (s := s) (endedTask (folio s) st a b) h (fun _ => rfl)
  split
  · exact forEach_holds (P := fun t => getTask t n = some (endedTask (folio s) st a b k)) _
      (fun x t ht => dropGroup_over _ _ _ _ ht (ended_over ..)) _ h1
  · exact h1

/-- Finishing a task changes nothing outside the front end. -/
theorem finishTask_rest (n : Nat) (s : State) : { finishTask n s with cfe := s.cfe } = s := by
  unfold finishTask; split <;> rfl

/-- A calm error changes the error records, and counts its cause. -/
theorem raiseErr_calm_rest {e : ErrInfo} {s : State} (ho : s.msc.open_ = []) (hl : e.level = 2) (hc : e.cause ≠ 8) :
    { raiseErr e s with msc := s.msc, od := s.od } = s := by
  rw [raiseErr_calm ho hl hc]
  have h := closeHandlings_rest (fun h => h.level == 2 && h.tasks.isEmpty && h.cause != 7 && h.cause != 8)
    (openHandling e 2 false (countCause e.cause s))
  exact congrArg (fun t : State => { t with msc := s.msc, od := s.od }) h

end Sys2Proof.Machine
end

