-- ==== Sys2Proof/Laws/Access.lean ====
section
/-! SUPPORT. What a write of an object dictionary entry does once its checks pass; what a store to a memory leaves; and
what the posting of an event leaves of the front end and the Host Port. -/

namespace Sys2Proof.Machine

/-- A store leaves the bytes stored, and every other byte. -/
theorem stored_memStore (a : Nat) (bs : List Byte) (m : List Host.Cell) : stored a bs m (memStore a bs m) := by
  refine ⟨memLoad_store .., ?_⟩
  intro b hb
  rw [memByte_store]
  have : ¬ (a ≤ b ∧ b < a + bs.length) := by omega
  simp [this]

/-- A write that is ready applies its value, and answers OK or REFUSED. -/
theorem odTry_ready {key : Nat} {need role : Role} {v : Nat} {f : State → Option State} {s : State}
    (hr : roleOk need role = true) (h : odReady key s) :
    odTry key need role v f s = match f s with | none => odAnswer osRefused s | some t => odAnswer osOk t := by
  obtain ⟨a, b, c, d⟩ := h
  have c' : s.msc.staged.any (fun x => x.key == key) = false := by
    rw [List.any_eq_false]; intro x hx; simpa using c x hx
  unfold odTry; simp only [hr, a, b, c', d, Bool.not_true, Bool.false_eq_true, if_false, or_self]
  all_goals (cases f s <;> rfl)

/-- A write that is ready, of a value that its entry takes. -/
theorem odTry_some {key : Nat} {need role : Role} {v : Nat} {f : State → Option State} {s t : State}
    (hr : roleOk need role = true) (h : odReady key s) (hf : f s = some t) : odTry key need role v f s = odAnswer osOk t := by
  rw [odTry_ready hr h, hf]
/-- A write that is ready, of a value that its entry refuses. -/
theorem odTry_none {key : Nat} {need role : Role} {v : Nat} {f : State → Option State} {s : State}
    (hr : roleOk need role = true) (h : odReady key s) (hf : f s = none) :
    odTry key need role v f s = odAnswer osRefused s := by
  rw [odTry_ready hr h, hf]

theorem postEvent_tasks (i e n c d) (s : State) : (postEvent i e n c d s).cfe.tasks = s.cfe.tasks :=
  (congrArg Cfe.tasks (bare_postEvent i e n c d s) :)
theorem postEvent_queues (i e n c d) (s : State) : (postEvent i e n c d s).cfe.queues = s.cfe.queues :=
  (congrArg Cfe.queues (bare_postEvent i e n c d s) :)

/-- The same queues read the same. -/
theorem getQ_congr {s t : State} (h : t.cfe.queues = s.cfe.queues) (q : Nat) : getQ t q = getQ s q := by
  unfold getQ; rw [h]
/-- The same tasks read the same. -/
theorem getTask_congr {s t : State} (h : t.cfe.tasks = s.cfe.tasks) (n : Nat) : getTask t n = getTask s n := by
  unfold getTask; rw [h]

/-- What a Host Port that is as it was, but for its writes and the lines that host caches hold, reads. -/
theorem hptBare_fields {s t : State} (h : hptBare t = hptBare s) :
    t.hpt.link = s.hpt.link ∧ t.hpt.epoch = s.hpt.epoch ∧ t.hpt.tierHeld = s.hpt.tierHeld ∧
    t.hpt.accelLost = s.hpt.accelLost ∧ t.hpt.downFolio = s.hpt.downFolio ∧ t.hpt.rejected = s.hpt.rejected ∧
    t.hpt.unmapped = s.hpt.unmapped :=
  ⟨(congrArg Hpt.link h :), (congrArg Hpt.epoch h :), (congrArg Hpt.tierHeld h :), (congrArg Hpt.accelLost h :),
   (congrArg Hpt.downFolio h :), (congrArg Hpt.rejected h :), (congrArg Hpt.unmapped h :)⟩

end Sys2Proof.Machine
end

