-- ==== Sys2Proof/Laws/Bits.lean ====
section
/-! SUPPORT. What the bits of a number with a field replaced are. -/

namespace Sys2Proof.Machine

/-- A bit as the library reads it. -/
theorem bitOf_testBit (v b : Nat) : bitOf v b = v.testBit b := by
  unfold bitOf
  rw [Nat.testBit_eq_decide_div_mod_eq, Nat.shiftRight_eq_div_pow]
  by_cases h : v / 2 ^ b % 2 = 1 <;> simp [h]

/-- The bits of a field. -/
theorem testBit_bitsOf (v hi lo j : Nat) : (bitsOf v hi lo).testBit j = (decide (j < hi + 1 - lo) && v.testBit (lo + j)) := by
  unfold bitsOf; rw [Nat.testBit_mod_two_pow, Nat.testBit_shiftRight]

/-- Every bit of a number with a field replaced. -/
theorem testBit_setBits (v hi lo x j : Nat) :
    (setBits v hi lo x).testBit j = if lo ≤ j ∧ j ≤ hi then x.testBit (j - lo) else v.testBit j := by
  by_cases hlo : lo ≤ hi + 1
  · have hw : lo + (hi + 1 - lo) = hi + 1 := by omega
    have e : setBits v hi lo x = 2 ^ lo * (2 ^ (hi + 1 - lo) * (v / 2 ^ (hi + 1)) + x % 2 ^ (hi + 1 - lo)) + v % 2 ^ lo := by
      unfold setBits bitsOf
      simp only [Nat.shiftRight_eq_div_pow, Nat.shiftLeft_eq]
      generalize hi + 1 - lo = w at *
      have d1 : v = 2 ^ lo * (v / 2 ^ lo) + v % 2 ^ lo := (Nat.div_add_mod ..).symm
      have d2 : v / 2 ^ lo = 2 ^ w * (v / 2 ^ lo / 2 ^ w) + v / 2 ^ lo % 2 ^ w := (Nat.div_add_mod ..).symm
      rw [← hw, Nat.pow_add, ← Nat.div_div_eq_div_mul]
      generalize hq : v / 2 ^ lo = q at *
      generalize v % 2 ^ lo = r at *
      generalize q / 2 ^ w = a at *
      generalize q % 2 ^ w = b at *
      generalize x % 2 ^ w = y
      rw [d1, d2]
      have : 2 ^ lo * (2 ^ w * a + b) + r - b * 2 ^ lo = 2 ^ lo * (2 ^ w * a) + r := by
        rw [Nat.mul_add, Nat.mul_comm b]; omega
      rw [this, Nat.mul_add, Nat.mul_comm y]; omega
    rw [e, Nat.testBit_two_pow_mul_add _ (Nat.mod_lt _ (Nat.two_pow_pos _))]
    by_cases h1 : j < lo
    · rw [if_pos h1, if_neg (by omega), Nat.testBit_mod_two_pow]; simp [h1]
    · rw [if_neg h1, Nat.testBit_two_pow_mul_add _ (Nat.mod_lt _ (Nat.two_pow_pos _))]
      by_cases h2 : j ≤ hi
      · rw [if_pos (by omega), if_pos ⟨by omega, h2⟩, Nat.testBit_mod_two_pow]
        have : j - lo < hi + 1 - lo := by omega
        simp [this]
      · rw [if_neg (by omega), if_neg (by omega), ← Nat.shiftRight_eq_div_pow, Nat.testBit_shiftRight]
        congr 1; omega
  · have h0 : hi + 1 - lo = 0 := by omega
    have : setBits v hi lo x = v := by unfold setBits bitsOf; rw [h0]; simp [Nat.mod_one]
    rw [this, if_neg (by omega)]

/-- A field that lies outside the one replaced. -/
theorem bitsOf_setBits_other {v hi lo x a b : Nat} (h : a < lo ∨ hi < b) : bitsOf (setBits v hi lo x) a b = bitsOf v a b := by
  apply Nat.eq_of_testBit_eq; intro j
  rw [testBit_bitsOf, testBit_bitsOf, testBit_setBits]
  by_cases hj : j < a + 1 - b
  · rw [if_neg (by omega)]
  · simp [hj]

/-- The field replaced. -/
theorem bitsOf_setBits_same (v hi lo x : Nat) : bitsOf (setBits v hi lo x) hi lo = x % 2 ^ (hi + 1 - lo) := by
  apply Nat.eq_of_testBit_eq; intro j
  rw [testBit_bitsOf, testBit_setBits, Nat.testBit_mod_two_pow]
  by_cases hj : j < hi + 1 - lo
  · rw [if_pos (by omega)]; simp [hj]
  · simp [hj]

/-- A bit that lies outside the field replaced. -/
theorem bitOf_setBits_other {v hi lo x b : Nat} (h : b < lo ∨ hi < b) : bitOf (setBits v hi lo x) b = bitOf v b := by
  rw [bitOf_testBit, bitOf_testBit, testBit_setBits, if_neg (by omega)]

/-- A bit that is set. -/
theorem bitOf_setBit_same (v b : Nat) (x : Bool) : bitOf (setBit v b x) b = x := by
  unfold setBit; rw [bitOf_testBit, testBit_setBits, if_pos (by omega)]
  cases x <;> simp

/-- A bit other than the one set. -/
theorem bitOf_setBit_other {v b c : Nat} (x : Bool) (h : c ≠ b) : bitOf (setBit v b x) c = bitOf v c := by
  unfold setBit; exact bitOf_setBits_other (by omega)

end Sys2Proof.Machine
end

