-- ==== Sys2Proof/WellFormed.lean ====
section
/-! DEFINITION. Which commands are well formed: the operands that name a part of the engine, or a value of a field, lie
in the ranges that the manual gives. A command that is not well formed names nothing that the engine has. -/

namespace Sys2Proof

/-- A logical Pod (R10). -/
def Instr.podOk (p : Nat) : Bool := decide (p < 16)
/-- A Pod die, mapped or spare (R10). -/
def Instr.dieOk (d : Nat) : Bool := decide (d < 18)
/-- A command queue (R59). -/
def Instr.queueOk (q : Nat) : Bool := decide (q < 512)
/-- A sync counter (R370). -/
def Instr.ctrOk (c : Nat) : Bool := decide (c < 4096)
/-- An Ifeop port (R328). -/
def Instr.portOk (p : Nat) : Bool := decide (p < 8)
/-- A GDDR7 channel (R281). -/
def Instr.chanOk (c : Nat) : Bool := decide (c < 24)
/-- An Engine ID (Table 13.2 and R337). -/
def Instr.engineOk (e : Nat) : Bool := decide (e < 1024)
/-- An owner or a source of parcels: an Engine ID, with 1,024 added for the other identity of a twin. -/
def Instr.pairOk (e : Nat) : Bool := decide (e < 2048)
/-- A path to the package: 0 coherent, 1 mesh (R5). -/
def Instr.pathOk (p : Nat) : Bool := decide (p < 2)
/-- A Table ID (R51). -/
def Instr.tableOk (t : Nat) : Bool := decide (t < 65536)
/-- A value of 64 bits. -/
def Instr.wordOk (v : Nat) : Bool := decide (v < 2 ^ 64)
/-- The width of an access to the window, in bytes (R452). -/
def Instr.widthOk (w : Nat) : Bool := w == 1 || w == 2 || w == 4 || w == 8

/-- The operands of a command lie in their ranges. -/
def Instr.wf : Instr → Bool
  | .counterUpdateApply c => Instr.ctrOk c
  | .bagStart pod => Instr.podOk pod
  | .indexProcess pod _ _ => Instr.podOk pod
  | .segmentRelease pod _ _ => Instr.podOk pod
  | .readIssue pod tier err => Instr.podOk pod && decide (tier < 5) && decide (err < 3)
  | .callSlipFill pod _ => Instr.podOk pod
  | .weedAck pod => Instr.podOk pod
  | .rowReturn _ err => decide (err < 7)
  | .leafPool pod _ _ => Instr.podOk pod
  | .exportRow pod => Instr.podOk pod
  | .tileAdd pod => Instr.podOk pod
  | .abortedHandleFree pod q => Instr.podOk pod && decide (q < 3)
  | .latchRowFill pod => Instr.podOk pod
  | .foldPassStart pod => Instr.podOk pod
  | .foldFillWaitExpiry pod => Instr.podOk pod
  | .foldCapture pod => Instr.podOk pod
  | .codebookLoad pod kind _ _ => Instr.podOk pod && decide (kind < 3)
  | .updateWindowClose pod _ => Instr.podOk pod
  | .deepCombine pod _ => Instr.podOk pod
  | .parcelSend owner => Instr.pairOk owner
  | .parcelResendTimeout owner => Instr.pairOk owner
  | .parcelArrival src _ => Instr.pairOk src
  | .earlyParcelJournal src => Instr.pairOk src
  | .parcelAckReceived owner source _ _ => Instr.pairOk owner && Instr.pairOk source
  | .receivedAbandon source _ => Instr.pairOk source
  | .slotQuarantineEnd ring => decide (ring < 8)
  | .catSlotringWrite k _ _ => decide (k < 8)
  | .invalRx home table _ => Instr.engineOk home && Instr.tableOk table
  | .invalAckRx holder table _ => Instr.engineOk holder && Instr.tableOk table
  | .catInvalTimeout holder table _ => Instr.engineOk holder && Instr.tableOk table
  | .holderReplicaExpiry home => Instr.engineOk home
  | .marker port _ _ => Instr.portOk port
  | .cfeQTailDoorbell q v => Instr.queueOk q && Instr.wordOk v
  | .queueEnable q ctl => Instr.queueOk q && Instr.wordOk ctl
  | .queueDisable q ctl => Instr.queueOk q && Instr.wordOk ctl
  | .evqEnable i ctl => decide (i < 64) && Instr.wordOk ctl
  | .cfeEvqPop i => decide (i < 64)
  | .cfeEvqGap i => decide (i < 64)
  | .telemetryEnable j ctl => decide (j < 8) && Instr.wordOk ctl
  | .tileWindowWrite _ width v => Instr.widthOk width && Instr.wordOk v
  | .fsuSyncValueWrite c v => Instr.ctrOk c && Instr.wordOk v
  | .fsuSyncAddWrite c v => Instr.ctrOk c && Instr.wordOk v
  | .invalidate k _ => decide (k < 8)
  | .invalidateDone k => decide (k < 8)
  | .mmioRegisterWrite _ width v => Instr.widthOk width && Instr.wordOk v
  | .inboundWrite path _ _ _ => Instr.pathOk path
  | .inboundRead path _ _ _ => Instr.pathOk path
  | .writeAck path => Instr.pathOk path
  | .hptDieLost die => decide (die < 2)
  | .hptApertureWrite k _ _ => decide (k < 16)
  | .tempRead ch _ => Instr.chanOk ch
  | .channelRetrain ch _ => Instr.chanOk ch
  | .scrubStep _ err => decide (err < 7)
  | .portTrain port lanes => Instr.portOk port && (lanes == 0 || lanes == 8 || lanes == 16)
  | .sfpPortDown port _ => Instr.portOk port
  | .link port _ _ _ _ => Instr.portOk port
  | .linkCellSend port => Instr.portOk port
  | .sync src ctr _ v _ => Instr.engineOk src && Instr.ctrOk ctr && Instr.wordOk v
  | .copy src _ _ _ => Instr.engineOk src
  | .controlResend dst _ => Instr.engineOk dst
  | .descUpdate src _ _ _ _ => Instr.engineOk src
  | .epochAdopted member _ => Instr.engineOk member
  | .floors src _ _ _ _ => Instr.engineOk src
  | .floorReport member _ _ _ => Instr.engineOk member
  | .sfpMemberSilent member => Instr.engineOk member
  | .mapMirror src _ _ _ _ => Instr.engineOk src
  | .ledgerReady owner _ => Instr.pairOk owner
  | .keySwitch src _ _ _ => Instr.engineOk src
  | .twinHeartbeat src => Instr.engineOk src
  | .twinFailover lost partner => Instr.engineOk lost && Instr.engineOk partner
  | .garwaRead _ _ index sub _ _ => decide (index < 65536) && decide (sub < 256)
  | .garwaWriteSegment _ _ index sub _ _ => decide (index < 65536) && decide (sub < 256)
  | .odWrite _ _ index sub _ _ => decide (index < 65536) && decide (sub < 256)
  | .stagedValueDiscard index sub => decide (index < 65536) && decide (sub < 256)
  | .stkPartWrite k _ _ => decide (k < 8)
  | .stkPinWrite k _ _ => decide (k < 16)
  | .pinShardLoad k _ => decide (k < 16)
  | .gauSproutBindWrite k _ _ => decide (k < 9)
  | .qntResidWrite k _ _ => decide (k < 16)
  | .fsuNotifyWrite k _ _ => decide (k < 64)
  | .podReset pod _ => Instr.podOk pod
  | .podResetExit pod => Instr.podOk pod
  | .podPllUnlock pod => Instr.podOk pod
  | .podIdleVoltage pod => Instr.podOk pod
  | .d2dTrainingAttempt die cause => Instr.dieOk die && decide (cause ≤ 3)
  | .resync die => Instr.dieOk die
  | .refQualified port => port.all Instr.portOk
  | .streamReadReturn pod _ kind => Instr.podOk pod && decide (kind < 9)
  | .controlAck src _ _ => Instr.engineOk src
  | .badCell _ _ src => Instr.engineOk src
  | .uncorrectableCodeword port _ => Instr.portOk port
  | .twinMirroredParcel src _ _ => Instr.pairOk src
  | .twinPartnerReport source _ _ => Instr.pairOk source
  | .twinRestoredNotice twin => Instr.engineOk twin
  | .nop .. | .fence .. | .fenceRelease .. | .set .. | .add .. | .waitGe .. | .waitEq .. | .remoteSet ..
  | .remoteAdd .. | .syncAckTimeout .. | .waitTimeout .. | .lookup .. | .lookupFold .. | .update .. | .rowWrite ..
  | .writeDir .. | .writeDesc .. | .setState .. | .readDesc .. | .readDir .. | .moveShard .. | .shardSwitch ..
  | .moveRow .. | .moveRowCommit .. | .replicateRow .. | .dropReplica .. | .drainFence .. | .drainFenceComplete ..
  | .replaceBegin .. | .replaceCopyDone .. | .replaceCommit .. | .groupOpen .. | .groupOpenComplete ..
  | .groupClose .. | .tileRead .. | .tileWrite .. | .zero .. | .sproutLoad .. | .descriptorFetch | .admission
  | .descriptorFill .. | .foldWeightLoad .. | .completionRecordWrite .. | .rowGradientPack .. | .parcelRelease ..
  | .parcelApply | .applyFaultRepair .. | .shelvedRowCommit .. | .heatWindowBoundary | .ixuHeatQuery ..
  | .folioBoundary | .noMarker | .jFolioInEdge .. | .tickMissed | .engPathFence | .engReset .. | .errClear
  | .translationInvalidate .. | .hptLinkDown | .hptLinkUpSameEpoch | .hptLinkUpNewEpoch .. | .hptEngineAsidWrite ..
  | .retrainTimeout | .overwrite | .mssOverwriteDone .. | .readReq .. | .readRsp .. | .readTimeout ..
  | .registrarTakeover | .keySwitchFolio | .oldKeyErase | .twinTimeout .. | .twinResync | .twinRestored
  | .twinRecopy .. | .spdm .. | .dtlsHandshake .. | .sessionIdleClose .. | .secModeReqEnter .. | .secModeReqExit ..
  | .secJobEnd .. | .secJobEnvelope .. | .secTableEnvelope .. | .mscFwImage .. | .mscFwSwitch .. | .fwRestart
  | .fwHealthTimeout | .mscFwCommit .. | .mscBoot | .upuTrainEntryWrite .. | .ixuHashSlotWrite .. | .cruRefLost ..
  | .cruHoldoverLost | .pressureUpdate .. | .inputCurrentTrip .. | .peuRailFault .. | .inputLoss | .powerUp
  | .jRstNLow .. | .jRstNRise | .engineReady | .hubPllUnlock | .packageContainment .. | .mscContainRelease ..
  | .cruGateWrite .. | .sfpRefPortWrite .. | .arbWindowBoundary | .mscRestartDone | .containmentFlushEnd
  | .refclkQualifyTimeout
  | .engineContainment .. | .mssRetrain .. | .mscPodRetire .. | .cruPodReset .. | .mscSpareMap .. | .secTableUnbind .. => true

end Sys2Proof
end

