-- ==== Sys2Proof/Tests/Slice0.lean ====
section
/-! SUPPORT. Tests of this package. For every clause of every statement that has hypotheses, a witness `wit_<statement>_<n>`
(n counts the clauses of the statement) shows a state and operands that meet all of them together; its values are hand-made
and lie at a boundary of the clause where it has one. After them stand the smoke tests of well-formedness, and tests
whose expected values are those of the manual's worked examples. -/

open Sys2Proof Sys2Proof.Machine

namespace Sys2Proof.Tests

set_option Elab.async false

/-! ## Small states -/

/-- A ready engine: clocks locked, the link to the host up, memory initialised, every Pod in service. -/
def up : State :=
  { cru := { run := .ready, rstN := true, locked := true, folioOut := true },
    mss := { overwriteDue := false, selfRefresh := false },
    hpt := { link := .up },
    msc := { booted := true },
    pods := (List.range 16).map (fun p => (p, { up := true, inReset := false })),
    od := [(odMssUsable, 2 ^ 34)] }

/-- A descriptor of one opcode: fields as (lowest bit, value). -/
def desc (op : Nat) (fs : List (Nat × Nat)) : Desc := BitVec.ofNat 1024 (fs.foldl (fun a f => a + f.2 <<< f.1) op)

/-- Task 7 of queue 3, admitted. -/
def task (op : Nat) (fs : List (Nat × Nat)) : Machine.Task := { id := 7, queue := 3, desc := desc op fs, phase := .admitted }

/-- An active queue of 16 entries. -/
def queue : Queue := { ctl := 1, state := .active, before := .active }

/-- A state with these tasks, in queue 3. -/
def withTasks (ks : List Machine.Task) (s : State := up) : State := { s with cfe := { tasks := ks, queues := [(3, queue)] } }

/-- A state with this entry of the object dictionary. -/
def withOd (k v : Nat) (s : State := up) : State := { s with od := tabPut k v s.od }

/-- Engine 0 of a collective, with engines 1 and 2. -/
def coll (s : State := up) : State :=
  { withOd odSfpMembers 7 s with sfp := { collId := 5 } }

/-- Aperture 15 of `withAp`: 65,536 bytes of the scratch of Pod 0, for reads and writes over both paths. -/
def ap : Nat := 31 + 1 <<< 128 + 2 ^ 61 <<< 192

/-- A scratch partition of one way, and aperture 15 on it. -/
def withAp : State := withOd (odHptAperture + 15) ap (withOd odStkPart (2 ^ 24 + 2 ^ 16 + 1))

/-- Engine 0 as the registrar of a collective, with engine 1 as its deputy. -/
def registrar : State :=
  { withOd odSfpRegistrar 0 (withOd odSfpSuccession 0xFFFFFFFF00010000 coll) with sfp := { collId := 5, registrar := true } }

/-- Engine 1 of the same collective, not the registrar. -/
def deputy : State := { registrar with sfp := { collId := 5, engineId := 1 } }

/-- Engine 0 with engine 1 as its twin, in twin state `v`. -/
def twin (v : Nat) (s : State := coll) : State := { withOd odSfpTwinState v s with sfp := { s.sfp with partner := 1 } }

/-- Port 7 up. -/
def withPort (p : Port) : State := { withOd odSfpPortState (2 <<< 56) with sfp := { ports := [(7, p)] } }

/-- The collective with engine 1 reachable through port 7, which has a credit of VC 0. -/
def reach (s : State := up) : State :=
  { withOd odSfpRoute (0x80 <<< 8) (withOd odSfpPortState (2 <<< 56) (coll s)) with
    sfp := { collId := 5, ports := [(7, { credits := [1, 0, 0, 0] })] } }

theorem credited_all (s : State) (e x : Nat) (h : ∀ k ∈ upPorts s e, (getPort s k).vc0 < (getPort s k).credits.getD 0 0) :
    credited s e x = true := by
  unfold credited
  cases p : portFor s e x 0 with
  | none => rfl
  | some k => exact decide_eq_true (h k (List.mem_of_getElem? p))

/-- A READ_REQ to engine 1 that waits for a credit, on a port that has used the last one of three. -/
def heldCell : SentCell := { type := ctReadReq, dst := 1, xid := 9, payload := [], len := 24 }
@[inherit_doc heldCell] def heldRead : State :=
  { reach with sfp := { collId := 5, held := [heldCell], ports := [(7, { vc0 := 3, credits := [3, 0, 0, 0] })] } }

/-- A leaf of a bag, whose reads are under way. -/
def leaf : Leaf := { pos := 0, row := some 9, weight := 0, count := 1, stage := 1 }

/-- A bag of task 7 with these leaves, and its task. -/
def bag (ls : List Leaf) : Machine.Bag := { task := 7, bag := 0, base := 0, n := 1, carrel := 0, carrels := 1, tree := 0, leaves := ls }

/-- Pod 0 replaced. -/
def withPod (p : Pod) (s : State := up) : State := { s with pods := tabPut 0 p s.pods }

/-- A read of the fabric, waiting for its answer. -/
def farRead : ReadRec :=
  { id := 3, task := 7, bag := 0, leaf := 0, kind := 0, tier := 4, space := 4, addr := 0, len := 64, issued := true, xid := 77 }

/-- A leaf whose row has its home on engine 1. -/
def farLeaf : Leaf := { leaf with desc := BitVec.ofNat 512 (6 + 1 <<< 32) }

/-- Task 7, a LOOKUP, with one bag on Pod 0 that waits for a read of the fabric. -/
def farBag (r : ReadRec) (s : State := up) : State :=
  withPod { up := true, inReset := false, bags := [bag [farLeaf]], reads := [r] } (withTasks [task opLookup []] s)

/-- A READ_REQ of engine 1 in plain form. -/
def plainHdr : BitVec 128 := BitVec.ofNat 128 (1 <<< 72 + 1 <<< 44 + 1 <<< 37)
/-- The body of a cell with these words, and its CRC. -/
def plainCell (w : Nat) : List Byte :=
  leBytes 224 w ++ leBytes 4 (Config.crc32 (leBytes 16 plainHdr.toNat ++ leBytes 224 w)).toNat

theorem leNat_leBytes (n v : Nat) : leNat (leBytes n v) = v % 256 ^ n := by
  induction n generalizing v with
  | zero => simp [leBytes, leNat, Nat.mod_one]
  | succ n ih => simp only [leBytes, leNat, ih, BitVec.toNat_ofNat]; rw [show 256 ^ (n + 1) = 256 * 256 ^ n from Nat.pow_succ', Nat.mod_mul]

theorem length_leBytes (n v : Nat) : (leBytes n v).length = n := by
  induction n generalizing v with
  | zero => rfl
  | succ n ih => simp [leBytes, ih]

theorem plainCell_plain (s : State) (w : Nat) (h : odGet s odSfpAllowPlain = 1) (c : confidential s = false) :
    cellPlain s plainHdr (plainCell w) = some (plainCell w) := by
  have b : sliceBytes 0 224 (plainCell w) = leBytes 224 w := by simp [sliceBytes, plainCell, List.take_append, length_leBytes]
  have l : leNat ((plainCell w).drop 224 |>.take 4) = (Config.crc32 (leBytes 16 plainHdr.toNat ++ leBytes 224 w)).toNat := by
    have := (Config.crc32 (leBytes 16 plainHdr.toNat ++ leBytes 224 w)).isLt
    rw [plainCell, List.drop_append_of_le_length (by simp [length_leBytes]), List.drop_of_length_le (by simp [length_leBytes]),
      List.nil_append, List.take_of_length_le (by simp [length_leBytes]), leNat_leBytes, Nat.mod_eq_of_lt (by omega)]
  have p : bitOf plainHdr.toNat 37 = true := by decide +kernel
  unfold cellPlain
  rw [if_pos p, if_pos]
  rw [h, c, b, l]; simp

/-- Plain cells are taken in `reach`. -/
def plainly (s : State := reach) : State := withOd odSfpAllowPlain 1 s

/-- A directory entry: valid, the first descriptor 0, one shard, 10 rows. -/
def dir : BitVec 128 := BitVec.ofNat 128 (1 + 40 <<< 37 + 9 <<< 44)

/-- Descriptor 0: shard 0 of table 6, active, at home, in GDDR7 at 4 GiB, 8 dimensions of BF16; `fs` adds fields. -/
def shard (fs : List (Nat × Nat) := []) : BitVec 512 :=
  BitVec.ofNat 512 (fs.foldl (fun a f => a + f.2 <<< f.1) (6 + 1 <<< 44 + 2 ^ 27 <<< 128 + 8 <<< 296 + 1 <<< 309))

/-- A state with table 6 of one shard. -/
def withTable (fs : List (Nat × Nat) := []) (s : State := up) : State :=
  { s with cat := { dir := [(6, dir)], cache := [(0, shard fs)] } }

/-- A state with a management session of this role. -/
def session (r : Role) : State := { up with msc := { booted := true, sessions := [(1, r)] } }

/-- Table 6 pinned by slot 15, with a pinning partition of `n` ways. -/
def withPin (n : Nat) : State :=
  withOd (odStkPin + 15) (2 ^ 16 + 6) (withOd odStkPart (2 ^ 25 + 2 ^ 16 + (2 ^ n - 1)) (withTable))

/-- A group of tile 0 of Pod 0, closed by task 7. -/
def group : Group := { g := 5, queue := 3, kind := 0, first := 0, count := 1, tasks := [7], closer := some 7 }

/-- Task 7, a LOOKUP of row 9 of table 6 with one inline index, dealt to Pod 0, output in GDDR7. -/
def look (op : Nat := opLookup) (fs : List (Nat × Nat) := []) : Machine.Task :=
  { task op ([(64, 6), (84, 1), (128, 2 ^ 60), (192, 1), (216, 1), (256, 9)] ++ fs) with
    shard0 := shard, deals := [{ bag := 0, pod := 0 }] }

/-- Pod 0 of a state with table 6 and one task. -/
def podTask (p : Pod) (k : Machine.Task) : State := withPod { p with up := true, inReset := false } (withTable [] (withTasks [k]))

/-- A read of the leaf of `bag`. -/
def read : ReadRec := { id := 3, task := 7, bag := 0, leaf := 0, kind := 1, tier := 0, space := 2, addr := 0, len := 32, slots := 1 }

/-- A dependent read of the leaf of `bag`, in a tier and a memory. -/
def depRead (tier space : Nat) : ReadRec := { read with dep := true, tier := tier, space := space }

/-- A leaf with its descriptor. -/
def leafAt : Leaf := { leaf with desc := shard }

/-- A call slip for line 0 of GDDR7. -/
def slip : Slip := { n := 4, tier := 0, addr := 0, cls := 0 }

/-- A pooled row of task 7. -/
def row7 : Handle :=
  { st := .pooled, task := 7, bag := 0, fold := false, carrel := 0, carrels := 1 }

/-- A latched row of task 7. -/
def latch7 : Latch := { task := 7, bag := 0, a := 0, codes := List.replicate 8 0 }

/-- Task 7, a LOOKUP_FOLD with 8 outputs of 2 bits, weights and scales in GDDR7. -/
def foldTask : Machine.Task :=
  { task opFold [(64, 6), (128, 2 ^ 60 + 2 ^ 20), (192, 1), (256, 2 ^ 60 + 2 ^ 21), (320, 2 ^ 60 + 2 ^ 22), (448, 1),
      (640, 2 ^ 60 + 2 ^ 23), (704, 7), (768, 2 ^ 60 + 2 ^ 24)] with shard0 := shard, deals := [{ bag := 0, pod := 0 }] }

/-- An UPDATE with all its bags taken. -/
def upd : Machine.Task := { look opUpdate with deals := [] }

/-- A parcel for engine 1. -/
def parcel : Parcel := { hdr := BitVec.ofNat 256 (1 <<< 58), entries := [] }

/-- The UPDATE with one parcel to release. -/
def ready : Machine.Task := { upd with pendingParcels := [parcel] }

/-- A retained parcel for engine 1. -/
def kept : Retained := { seq := 4, task := 7, parcel := parcel }

/-- A journal entry of engine 1. -/
def entry : Journal := { table := 6, seq := 1, st := .received, source := 1, intake := 1 }

/-- The bytes of a parcel of one entry for table 0, with `h` in its header. -/
def bytesOf (h : Nat) : List Byte := leBytes 72 (h + 1 <<< 112)

/-- A gradient for row 9 of an owner. -/
def grad : RowGrad := { row := 9, dflt := false, owner := 1, g := List.replicate 8 0 }

/-- A ROW_WRITE of row 9 with inline data. -/
def wr : Machine.Task := { task opRowWrite [(64, 6), (80, 1), (88, 9), (192, 1)] with shard0 := shard }

/-- An UPDATE with a gradient to pack. -/
def packing : Machine.Task := { upd with grads := [grad] }

/-- An UPDATE under optimiser slot 2, whose gradient has a residual. -/
def resid7 : Machine.Task := { packing with desc := packing.desc ||| BitVec.ofNat 1024 (2 <<< 92) }

/-- The parcel once sent. -/
def sent : Retained := { kept with sent := true }

/-- An entry for row 9. -/
def rowEntry : PEntry := { row := 9, dflt := false, data := List.replicate 32 0 }

/-- A parcel of engine 1 with that entry, for table 6. -/
def rowParcel : Parcel := { hdr := BitVec.ofNat 256 (1 + 1 <<< 48 + 6 <<< 128), entries := [rowEntry] }

/-- Row 9 of table 6, a trained table. -/
def rowCtx : RowCtx := { idx := 0, x := shard [(321, 1)], row := 9, pos := 9, dflt := false }

/-- A pending write of the shelfmark of row 9 at `mark`. -/
def pendAt (mark : Nat) : PendRow :=
  { w := 4, idx := 0, pos := 9, mark := mark, tier := 0, row := [], side := none, task := some 7 }

/-- A window entry for row 9. -/
def winEntry : WinEntry := { pos := 0, row := some 9, weight := 0 }

/-- The same with its weights loaded before. -/
def preFold : Machine.Task := { foldTask with desc := foldTask.desc ||| BitVec.ofNat 1024 (1 <<< 741) }

/-- A folded row of task 7. -/
def folded7 : Handle := { st := .folded, task := 7, bag := 0, fold := true, carrel := 0, carrels := 0 }

/-- Task 7 in an open pass of admission. -/
def opened (k : Machine.Task) : State := { withTasks [{ k with phase := .fetched }] with fsu := { pass := true } }

/-- The fold task with its weights loaded. -/
def loaded : Machine.Task := { foldTask with wLoaded := true }

/-- A deal of bag 0 to Pod 0. -/
def deal0 : Deal := { bag := 0, pod := 0 }

theorem all_pods {P : Nat → Pod → Bool} {s : State} (h0 : ∀ p, P p {} = true) (h : s.pods.all (fun x => P x.1 x.2) = true)
    (p : Nat) : P p (getPod s p) = true := by
  have go : ∀ ps : List (Nat × Pod), ps.all (fun x => P x.1 x.2) = true → P p (tabGet p {} ps) = true := by
    intro ps
    induction ps with
    | nil => intro _; exact h0 p
    | cons x ps ih =>
      intro h
      simp only [List.all_cons, Bool.and_eq_true] at h
      simp only [tabGet, tabFind]
      split
      · next e => rw [show p = x.1 by simpa using e]; exact h.1
      · exact ih h.2
  exact go _ h

theorem no_holds {s : State} (h : s.pods.all (fun x => x.2.reads.all (fun r => r.hold.isEmpty)) = true) :
    ∀ p, ∀ r ∈ (getPod s p).reads, r.hold = [] := fun p r hr =>
  List.isEmpty_iff.1 (List.all_eq_true.1 (all_pods (P := fun _ p => p.reads.all (fun r => r.hold.isEmpty)) (fun _ => rfl) h p) r hr)

theorem comb_nil {s : State} (h : s.pods.all (fun x => x.2.comb.isEmpty) = true) (p : Nat) : (getPod s p).comb = [] :=
  List.isEmpty_iff.1 (all_pods (P := fun _ p => p.comb.isEmpty) (fun _ => rfl) h p)

/-- A Pod has none of the work of `podsIdleBut`; `busy` excepts its handles for Quantiser, Fold Unit and export. -/
def idlePod (busy : Bool) (p : Pod) : Bool :=
  p.bags.isEmpty && p.reads.isEmpty && p.slice.slips.isEmpty && decide (p.slice.weed.length < 512) && p.combIn.isEmpty &&
  p.cbAsk.isEmpty && p.flu.shadow.isEmpty && !p.flu.running && p.hq0.items.isEmpty && hqOk p.hq0 && hqOk p.hq1 && hqOk p.hq2 &&
  (busy || (p.hq1.items.isEmpty && p.hq2.items.isEmpty))

theorem idle_but {s : State} (b : Option Nat) (f : Nat → Prop) (e : ∀ p, b = some p → f p)
    (h : s.pods.all (fun x => idlePod (b == some x.1) x.2) = true) : podsIdleBut f s := by
  intro p
  have w := all_pods (P := fun n x => idlePod (b == some n) x) (fun n => by cases b == some n <;> rfl) h p
  simp only [idlePod, Bool.and_eq_true, Bool.or_eq_true, List.isEmpty_iff, decide_eq_true_eq, Bool.not_eq_true'] at w
  obtain ⟨⟨⟨⟨⟨⟨⟨⟨⟨⟨⟨⟨a, b⟩, c⟩, d⟩, g⟩, i⟩, j⟩, k⟩, l⟩, m⟩, n⟩, o⟩, q⟩ := w
  exact ⟨a, b, c, d, g, i, j, k, l, m, n, o, fun x => q.resolve_left fun y => x (e p (by simpa using y))⟩

/-- The lookup whose one bag has become its one handle. -/
def lastLook : Machine.Task := { look with deals := [{ bag := 0, pod := 0, started := true, passedG := true }] }

/-- The fold task whose one block is left to leave. -/
def lastFold : Machine.Task := { loaded with deals := [{ bag := 0, pod := 0, started := true, passedG := true, passedF := true }] }

/-- A replacement of the row 9 that MOVE_ROW moves to GDDR7. -/
def moving : Machine.Task := { task opReloc [(64, 6), (108, 1), (106, 1), (128, 9), (192, 4)] with copyPos := 1 }

/-- A directory entry of one shard of one row, and the MOVE_SHARD of that shard to engine 1. -/
def dirOne : BitVec 128 := BitVec.ofNat 128 (1 + 40 <<< 37)
@[inherit_doc dirOne] def away : Machine.Task := task opReloc [(64, 6), (108, 0), (106, 1), (96, 1), (192, 4), (256, 1)]

/-! ### StepRunsFrontCommand -/

theorem wit_StepRunsFrontCommand_1 :
    ∃ c : Instr, ∃ rest : List Instr, ∃ s : State, s.pending = c :: rest :=
  ⟨.folioBoundary, [.tickMissed], { up with pending := [.folioBoundary, .tickMissed] }, by decide +kernel⟩

/-! ### StepKeepsMemoriesCanonical -/

theorem wit_StepKeepsMemoriesCanonical_1 :
    ∃ s : State, ∃ t : State, memsWf s ∧ step s = .next t :=
  ⟨up, up, by unfold memsWf; decide +kernel, rfl⟩

/-! ### ControlTasksFinish -/

theorem wit_ControlTasksFinish_1 :
    ∃ s : State, ∃ n k, liveTask s n opNop = some k :=
  ⟨withTasks [task opNop []], 7, task opNop [], by decide +kernel⟩

theorem wit_ControlTasksFinish_2 :
    ∃ s : State, ∃ n k, liveTask s n opFence = some k ∧ earlierOpen s k = false ∧ dXpath k.desc = false :=
  ⟨withTasks [task opFence []], 7, task opFence [], by decide +kernel⟩

theorem wit_ControlTasksFinish_3 :
    ∃ s : State, ∃ n k, liveTask s n opFence = some k ∧ earlierOpen s k = true :=
  ⟨withTasks [{ task opNop [] with id := 6 }, task opFence []], 7, task opFence [], by decide +kernel⟩

theorem wit_ControlTasksFinish_4 :
    ∃ s : State, ∃ n k, liveTask s n opFence = some k ∧ k.phase = .stalled ∧ earlierOpen s k = false ∧ dXpath k.desc =
    false ∧ k.drainTo = none :=
  ⟨withTasks [{ task opFence [] with phase := .stalled }], 7, { task opFence [] with phase := .stalled },
    by decide +kernel⟩

theorem wit_ControlTasksFinish_5 :
    ∃ s : State, ∃ n k m, liveTask s n opFence = some k ∧ k.phase = .stalled ∧ earlierOpen s k = false ∧ k.drainTo =
    some m ∧ (∀ w ∈ s.hpt.outq, m < w.seq) :=
  ⟨{ withTasks [{ task opFence [(16, 1)] with phase := .stalled, drainTo := some 4 }] with hpt := { link := .up, outq := [{ seq := 5, path := 0, addr := 0, data := [1], task := none, kind := .output }] } },
    7, { task opFence [(16, 1)] with phase := .stalled, drainTo := some 4 }, 4, by decide +kernel⟩

/-! ### WaitsFinishOrStall -/

theorem wit_WaitsFinishOrStall_1 :
    ∃ s : State, ∃ n k, syncTask s n 2 = some k ∧ k.waiting = false ∧ syncHeld s k = false ∧ syValue k.desc ≤ counter
    s (syCounter k.desc) :=
  ⟨{ withTasks [task opSync [(64, 2), (72, 9), (128, 5)]] with fsu := { counters := [(9, 5)] } }, 7,
    task opSync [(64, 2), (72, 9), (128, 5)], by decide +kernel⟩

theorem wit_WaitsFinishOrStall_2 :
    ∃ s : State, ∃ n k, syncTask s n 2 = some k ∧ k.waiting = false ∧ syncHeld s k = false ∧ counter s (syCounter
    k.desc) < syValue k.desc :=
  ⟨{ withTasks [task opSync [(64, 2), (72, 9), (128, 5)]] with fsu := { counters := [(9, 4)] } }, 7,
    task opSync [(64, 2), (72, 9), (128, 5)], by decide +kernel⟩

theorem wit_WaitsFinishOrStall_3 :
    ∃ s : State, ∃ n k, syncTask s n 3 = some k ∧ k.waiting = false ∧ syncHeld s k = false ∧ counter s (syCounter
    k.desc) = syValue k.desc :=
  ⟨{ withTasks [task opSync [(64, 3), (72, 9), (128, 5)]] with fsu := { counters := [(9, 5)] } }, 7,
    task opSync [(64, 3), (72, 9), (128, 5)], by decide +kernel⟩

theorem wit_WaitsFinishOrStall_4 :
    ∃ s : State, ∃ n k, syncTask s n 3 = some k ∧ k.waiting = false ∧ syncHeld s k = false ∧ counter s (syCounter
    k.desc) ≠ syValue k.desc :=
  ⟨{ withTasks [task opSync [(64, 3), (72, 9), (128, 5)]] with fsu := { counters := [(9, 6)] } }, 7,
    task opSync [(64, 3), (72, 9), (128, 5)], by decide +kernel⟩

/-! ### CounterUpdates -/

theorem wit_CounterUpdates_1 :
    ∃ s : State, ∃ n k, syncTask s n 0 = some k ∧ syncHeld s k = false :=
  ⟨withTasks [task opSync [(64, 0), (72, 4095), (128, 5)]], 7, task opSync [(64, 0), (72, 4095), (128, 5)],
    by decide +kernel⟩

theorem wit_CounterUpdates_2 :
    ∃ s : State, ∃ n k, syncTask s n 1 = some k ∧ syncHeld s k = false :=
  ⟨{ withTasks [task opSync [(64, 1), (72, 4095), (128, 5)]] with fsu := { counters := [(4095, 2 ^ 64 - 1)] } },
    7, task opSync [(64, 1), (72, 4095), (128, 5)], by decide +kernel⟩

theorem wit_CounterUpdates_3 :
    ∃ s : State, ∃ c, ∃ u : CUpd, nextUpdate s c = some u :=
  ⟨{ up with fsu := { updates := [⟨9, false, true, 1⟩, ⟨9, true, false, 2⟩] } }, 9, ⟨9, true, false, 2⟩,
    by decide +kernel⟩

/-! ### CounterUpdatesQueued -/

theorem wit_CounterUpdatesQueued_1 :
    ∃ s : State, ∃ c, c < 4096 ∧ windowUp s = true :=
  ⟨up, 4095, by decide +kernel⟩

theorem wit_CounterUpdatesQueued_2 :
    ∃ s : State, ∃ c, c < 4096 ∧ windowUp s = true :=
  ⟨up, 0, by decide +kernel⟩

theorem wit_CounterUpdatesQueued_3 :
    ∃ s : State, ∃ src ctr op m, ctr < 4096 ∧ remoteAllowed s ctr = true ∧ isMember s src = true ∧ m < 2 ^ 32 ∧ tabGet
    src 0 s.sfp.ctlIn = m ∧ (op = 4 ∨ op = 5) :=
  ⟨coll (withOd odFsuRemoteAllow (2 ^ 4095)), 1, 4095, 5, 0, by decide +kernel⟩

/-! ### RemoteOperationsSendSync -/

theorem wit_RemoteOperationsSendSync_1 :
    ∃ s : State, ∃ n k, syncTask s n 4 = some k ∧ syEngine k.desc ≠ s.sfp.engineId ∧ k.ctlSeq = none ∧ syncHeld s k =
    false :=
  ⟨coll (withTasks [task opSync [(64, 4), (84, 1), (128, 5)]]), 7, task opSync [(64, 4), (84, 1), (128, 5)],
    by decide +kernel⟩

theorem wit_RemoteOperationsSendSync_2 :
    ∃ s : State, ∃ n k, syncTask s n 5 = some k ∧ syEngine k.desc ≠ s.sfp.engineId ∧ k.ctlSeq = none ∧ syncHeld s k =
    false :=
  ⟨{ coll (withTasks [task opSync [(64, 5), (84, 1), (128, 5)]]) with sfp := { collId := 5, sending := some 1, cseq := [(5, 2 ^ 48 - 2)] } },
    7, task opSync [(64, 5), (84, 1), (128, 5)], by decide +kernel⟩

theorem wit_RemoteOperationsSendSync_3 :
    ∃ s : State, ∃ n k, syncTask s n 4 = some k ∧ syEngine k.desc = s.sfp.engineId ∧ syncHeld s k = false :=
  ⟨withTasks [task opSync [(64, 4), (72, 4095), (128, 5)]], 7, task opSync [(64, 4), (72, 4095), (128, 5)],
    by decide +kernel⟩

theorem wit_RemoteOperationsSendSync_4 :
    ∃ s : State, ∃ n k, syncTask s n 5 = some k ∧ syEngine k.desc = s.sfp.engineId ∧ syncHeld s k = false :=
  ⟨withTasks [task opSync [(64, 5), (72, 4095), (128, 5)]], 7, task opSync [(64, 5), (72, 4095), (128, 5)],
    by decide +kernel⟩

theorem wit_RemoteOperationsSendSync_5 :
    ∃ s : State, ∃ n k, syncTask s n 4 = some k ∧ k.ctlSeq = none ∧ syncHeld s k = true :=
  ⟨coll (withTasks [{ task opNop [] with id := 6 }, task opSync [(64, 4), (68, 1), (84, 1), (128, 5)]]), 7,
    task opSync [(64, 4), (68, 1), (84, 1), (128, 5)], by decide +kernel⟩

theorem wit_RemoteOperationsSendSync_6 :
    ∃ s : State, ∃ n k, syncTask s n 5 = some k ∧ k.ctlSeq = none ∧ syncHeld s k = true :=
  ⟨coll (withTasks [{ task opNop [] with id := 6 }, task opSync [(64, 5), (68, 1), (84, 1), (128, 5)]]), 7,
    task opSync [(64, 5), (68, 1), (84, 1), (128, 5)], by decide +kernel⟩

theorem wit_RemoteOperationsSendSync_7 :
    ∃ s : State, ∃ src m x n k, s.sfp.ctlOut.find? (fun y => y.dst == src && y.mseq == m) = some x ∧ x.task = some n ∧
    getTask s n = some k :=
  ⟨{ coll (withTasks [{ task opSync [(64, 5), (84, 1), (128, 5)] with ctlSeq := some 3 }]) with sfp := { collId := 5, ctlOut := [{ dst := 1, mseq := 3, type := ctSync, payload := [0, 1, 5], task := some 7 }] } },
    1, 3, { dst := 1, mseq := 3, type := ctSync, payload := [0, 1, 5], task := some 7 }, 7,
    { task opSync [(64, 5), (84, 1), (128, 5)] with ctlSeq := some 3 }, by decide +kernel⟩

theorem wit_RemoteOperationsSendSync_8 :
    ∃ s : State, ∃ src m x n k, s.sfp.ctlOut.find? (fun y => y.dst == src && y.mseq == m) = some x ∧ x.task = some n ∧
    getTask s n = some k ∧ canEnd k = true :=
  ⟨{ coll (withTasks [{ task opSync [(64, 5), (84, 1), (128, 5)] with ctlSeq := some 3 }]) with sfp := { collId := 5, ctlOut := [{ dst := 1, mseq := 3, type := ctSync, payload := [0, 1, 5], task := some 7 }] } },
    1, 3, { dst := 1, mseq := 3, type := ctSync, payload := [0, 1, 5], task := some 7 }, 7,
    { task opSync [(64, 5), (84, 1), (128, 5)] with ctlSeq := some 3 }, by decide +kernel⟩

theorem wit_RemoteOperationsSendSync_9 :
    ∃ s : State, ∃ src m x, s.sfp.ctlOut.find? (fun y => y.dst == src && y.mseq == m) = some x ∧ x.task = none :=
  ⟨{ coll with sfp := { collId := 5, ctlOut := [{ dst := 1, mseq := 3, type := ctControl, payload := [], task := none }] } },
    1, 3, { dst := 1, mseq := 3, type := ctControl, payload := [], task := none }, by decide +kernel⟩

/-! ### SyncTimeouts -/

theorem wit_SyncTimeouts_1 :
    ∃ s : State, ∃ n k, getTask s n = some k ∧ k.waiting = true ∧ k.waitLeft = some 0 ∧ canEnd k = true :=
  ⟨withTasks [{ task opSync [(64, 2), (72, 9), (96, 1), (128, 5)] with phase := .stalled, waiting := true, waitLeft := some 0 }],
    7,
    { task opSync [(64, 2), (72, 9), (96, 1), (128, 5)] with phase := .stalled, waiting := true, waitLeft := some 0 },
    by decide +kernel⟩

theorem wit_SyncTimeouts_2 :
    ∃ s : State, ∃ n k m, liveTask s n opSync = some k ∧ k.ctlSeq = some m ∧ k.err = none ∧ s.msc.open_ = [] :=
  ⟨{ coll (withTasks [{ task opSync [(64, 5), (84, 1), (128, 5)] with ctlSeq := some 3 }]) with sfp := { collId := 5, ctlOut := [{ dst := 1, mseq := 3, type := ctSync, payload := [0, 1, 5], task := some 7 }] } },
    7, { task opSync [(64, 5), (84, 1), (128, 5)] with ctlSeq := some 3 }, 3, by decide +kernel⟩

/-! ### QueueControl -/

theorem wit_QueueControl_1 :
    ∃ s : State, ∃ q v, regOn s 0 = true ∧ q < 512 ∧ takesBell (getQ s q) = true ∧ bitOf (getQ s q).ctl 1 = false ∧
    queueBroken (getQ s q) = false ∧ doorbellOk (getQ s q) (v % 2 ^ (qLog (getQ s q) + 1)) = true :=
  ⟨{ up with cfe := { queues := [(511, queue)] } }, 511, 16, by decide +kernel⟩

theorem wit_QueueControl_2 :
    ∃ s : State, ∃ q v, regOn s 0 = true ∧ q < 512 ∧ takesBell (getQ s q) = true ∧ bitOf (getQ s q).ctl 1 = false ∧
    queueBroken (getQ s q) = false ∧ doorbellOk (getQ s q) (v % 2 ^ (qLog (getQ s q) + 1)) = false :=
  ⟨{ up with cfe := { queues := [(511, queue)] } }, 511, 17, by decide +kernel⟩

theorem wit_QueueControl_3 :
    ∃ s : State, ∃ q ctl, regOn s 0 = true ∧ q < 512 ∧ bitOf ctl 0 = true ∧ qOn (getQ s q) = false ∧ (getQ s q).state
    = .disabled ∧ lzAllowed s q ctl = true ∧ modeChanging s = false :=
  ⟨up, 0, 1, by decide +kernel⟩

theorem wit_QueueControl_4 :
    ∃ s : State, ∃ q ctl, regOn s 0 = true ∧ q < 512 ∧ bitOf ctl 0 = false ∧ (qOn (getQ s q) = true ∨ (getQ s q).state
    = .halted) ∧ modeChanging s = false ∧ qTasks s q ≠ [] :=
  ⟨withTasks [task opNop []], 3, 0, by decide +kernel⟩

theorem wit_QueueControl_5 :
    ∃ s : State, ∃ q ctl, regOn s 0 = true ∧ q < 512 ∧ bitOf ctl 0 = false ∧ (qOn (getQ s q) = true ∨ (getQ s q).state
    = .halted) ∧ modeChanging s = false ∧ qTasks s q = [] ∧ (∀ p < 16, ∀ g ∈ (getPod s p).groups, g.queue ≠ q) :=
  ⟨withTasks [], 3, 0, by decide +kernel⟩

/-! ### Rings -/

theorem wit_Rings_1 :
    ∃ s : State, ∃ i ctl, regOn s 0 = true ∧ i < 64 ∧ bitOf ctl 0 = true ∧ ringOn (getEvq s i) = false :=
  ⟨up, 63, 1, by decide +kernel⟩

theorem wit_Rings_2 :
    ∃ s : State, ∃ j ctl, regOn s 0 = true ∧ j < 8 ∧ bitOf ctl 0 = true ∧ ringOn (getTel s j) = false ∧ bitsOf ctl 15
    8 ≠ 0 :=
  ⟨up, 7, 257, by decide +kernel⟩

theorem wit_Rings_3 :
    ∃ s : State, ∃ i, regOn s 0 = true ∧ i < 64 ∧ ringOn (getEvq s i) = true ∧ ringBroken (getEvq s i) = false ∧ bitOf
    (getEvq s i).ctl 1 = true ∧ (getEvq s i).head.val ≠ (getEvq s i).tail.val ∧ (getEvq s i).drops = 0 :=
  ⟨{ up with cfe := { evqs := [(63, { ctl := 3, tail := ptr 1, next := ptr 1 })] } }, 63, by decide +kernel⟩

theorem wit_Rings_4 :
    ∃ s : State, ∃ i, regOn s 0 = true ∧ i < 64 ∧ ringOn (getEvq s i) = true ∧ ringBroken (getEvq s i) = false ∧ bitOf
    (getEvq s i).ctl 1 = true ∧ (getEvq s i).head.val = (getEvq s i).tail.val :=
  ⟨{ up with cfe := { evqs := [(0, { ctl := 3 })] } }, 0, by decide +kernel⟩

theorem wit_Rings_5 :
    ∃ s : State, ∃ i, ringOn (getEvq s i) = true ∧ ringBroken (getEvq s i) = false ∧ 0 < (getEvq s i).drops ∧ ringFull
    (evqLog (getEvq s i)) (getEvq s i).next.val (getEvq s i).head.val = false ∧ awSpace (getEvq s i).base = 0 :=
  ⟨{ up with cfe := { evqs := [(0, { ctl := 1, drops := 1, tail := ptr 64, next := ptr 64, head := ptr 1 })] } },
    0, by decide +kernel⟩

/-! ### FetchAndRecord -/

theorem wit_FetchAndRecord_1 :
    ∃ s : State, ∃ q, fetching s = true ∧ nextQueue s = some q ∧ queueBroken (getQ s q) = false ∧ accessFault s ((getQ
    s q).ringBase + 128 * ((getQ s q).head.val % 2 ^ qLog (getQ s q))) 128 = none :=
  ⟨{ up with cfe := { queues := [(511, { queue with tail := 1, ringBase := 4096 })] } }, 511, by decide +kernel⟩

theorem wit_FetchAndRecord_2 :
    ∃ s : State, ∃ n k, getTask s n = some k ∧ taskSettled s k = true ∧ queueBroken (getQ s k.queue) = false ∧ dXpath
    k.desc = false ∧ writesDone s k = true ∧ awSpace (getQ s k.queue).cplBase = 0 :=
  ⟨withTasks [{ task opNop [] with phase := .finished }], 7, { task opNop [] with phase := .finished },
    by decide +kernel⟩

/-! ### WritesLand -/

theorem wit_WritesLand_1 :
    ∃ s : State, ∃ path w, s.hpt.outq.find? (fun w => w.path == path) = some w ∧ (path = 0 → s.hpt.link = .up) ∧ (path
    = 1 → s.hpt.accelLost = false) :=
  ⟨{ up with hpt := { link := .up, outq := [{ seq := 5, path := 0, addr := 0, data := [1], task := none, kind := .output }] } },
    0, { seq := 5, path := 0, addr := 0, data := [1], task := none, kind := .output }, by decide +kernel⟩

theorem wit_WritesLand_2 :
    ∃ s : State, ∃ path w n k q, s.hpt.outq.find? (fun w => w.path == path) = some w ∧ (path = 0 → s.hpt.link = .up) ∧
    (path = 1 → s.hpt.accelLost = false) ∧ w.kind = .record q ∧ w.task = some n ∧ getTask s n = some k ∧ (getQ s
    k.queue).state ≠ .draining ∧ queueBroken (getQ s k.queue) = false :=
  ⟨{ withTasks [{ task opNop [] with phase := .recorded }] with hpt := { link := .up, outq := [{ seq := 5, path := 1, addr := 64, data := [1], task := some 7, kind := .record 3 }] } },
    1, { seq := 5, path := 1, addr := 64, data := [1], task := some 7, kind := .record 3 }, 7,
    { task opNop [] with phase := .recorded }, 3, by decide +kernel⟩

/-! ### HostLink -/

theorem wit_HostLink_1 :
    ∃ s : State, s.hpt.link = .up :=
  ⟨up, by decide +kernel⟩

theorem wit_HostLink_2 :
    ∃ s : State, s.hpt.link = .down ∧ (∀ q ∈ hostQueues s, (getQ s q).state = .paused ∧ (getQ s q).before ≠ .draining)
    :=
  ⟨{ withTasks [] with cfe := { queues := [(3, { queue with ringBase := 4096, state := .paused })] }, hpt := { link := .down } },
    by decide +kernel⟩

theorem wit_HostLink_3 :
    ∃ s : State, s.hpt.link ≠ .up :=
  ⟨State.reset, by decide +kernel⟩

theorem wit_HostLink_4 :
    ∃ s : State, s.hpt.link ≠ .lost :=
  ⟨State.reset, by decide +kernel⟩

theorem wit_HostLink_5 :
    ∃ s : State, s.hpt.accelLost = false :=
  ⟨up, by decide +kernel⟩

/-! ### InboundAccesses -/

theorem wit_InboundAccesses_1 :
    ∃ s : State, ∃ v, v < 2 ^ 20 ∧ odReady odHptEngineAsid s ∧ s.hpt.tierHeld = true ∧ s.upu.hostlog = [] :=
  ⟨{ up with hpt := { link := .up, tierHeld := true } }, 2 ^ 20 - 1, by unfold odReady; decide +kernel⟩

theorem wit_InboundAccesses_2 :
    ∃ s : State, ∃ k v, ∃ t : State, apertureLocked s v = false ∧ odReady (odHptAperture + k) s ∧ apertureApply k v s
    = some t :=
  ⟨withOd odStkPart (2 ^ 24 + 2 ^ 16 + 1), 15, ap, withAp, by unfold odReady; decide +kernel⟩

theorem wit_InboundAccesses_3 :
    ∃ s : State, ∃ k v, apertureLocked s v = false ∧ odReady (odHptAperture + k) s ∧ apTargetOk s v = false :=
  ⟨up, 15, 31 + 1 <<< 128 + 2 ^ 62 <<< 192, by unfold odReady; decide +kernel⟩

theorem wit_InboundAccesses_4 :
    ∃ s : State, ∃ path off, ∃ bs : List Byte, ∃ w, inboundOn s = true ∧ inboundTarget s path off bs.length true =
    some w ∧ awSpace w = 2 :=
  ⟨withAp, 1, 65535, [1], 2 ^ 61 + 65535, by decide +kernel⟩

theorem wit_InboundAccesses_5 :
    ∃ s : State, ∃ path off, ∃ bs : List Byte, inboundOn s = true ∧ inboundTarget s path off bs.length true = none :=
  ⟨withAp, 1, 65535, [1, 2], by decide +kernel⟩

theorem wit_InboundAccesses_6 :
    ∃ s : State, ∃ path off n w, inboundOn s = true ∧ inboundTarget s path off n false = some w ∧ awSpace w = 2 :=
  ⟨withAp, 0, 65535, 1, 2 ^ 61 + 65535, by decide +kernel⟩

theorem wit_InboundAccesses_7 :
    ∃ s : State, ∃ path off n, inboundOn s = true ∧ inboundTarget s path off n false = none :=
  ⟨withAp, 0, 65535, 2, by decide +kernel⟩

theorem wit_InboundAccesses_8 :
    ∃ s : State, windowUp s = true ∧ s.hpt.outq = [] :=
  ⟨up, by decide +kernel⟩

theorem wit_InboundAccesses_9 :
    ∃ s : State, ∃ b n, rangeInUse s b n = false :=
  ⟨up, 0, 4096, by decide +kernel⟩

/-! ### PortsAndLinks -/

theorem wit_PortsAndLinks_1 :
    ∃ s : State, ∃ p, p < 8 ∧ s.cru.run ≠ .off ∧ s.cru.run ≠ .reset ∧ portUp s p = false :=
  ⟨up, 7, by decide +kernel⟩

theorem wit_PortsAndLinks_2 :
    ∃ s : State, ∃ p c, p < 8 ∧ portUp s p = true ∧ (c = 1 ∨ c = 2) :=
  ⟨withPort {}, 7, 2, by decide +kernel⟩

theorem wit_PortsAndLinks_3 :
    ∃ s : State, ∃ p, portUp s p = true ∧ s.sfp.held = [] :=
  ⟨withPort {}, 7, by decide +kernel⟩

theorem wit_PortsAndLinks_4 :
    ∃ s : State, ∃ u p, ∃ cr : List Nat, ∃ ack d, ∃ c : SentCell, portUp s p = true ∧ s.sfp.held = [c] ∧ c.len ≤ 224 ∧
    u = modPort p (fun x =>
    { x with credits := cr.take 4, delay := d % 2 ^ 32, replay := x.replay.filter (fun c => !cellUpTo c.num ack) }) s
    ∧ credited u c.dst c.xid = true ∧ cseqUsed s c.dst + 1 < 2 ^ 48 :=
  by
  refine ⟨heldRead, modPort 7 (fun x => { x with credits := [4, 1, 1, 1] }) heldRead, 7, [4, 1, 1, 1], 0, 0, heldCell,
    ?_, ?_, ?_, ?_, credited_all _ _ _ (by decide +kernel), ?_⟩ <;> decide +kernel

theorem wit_PortsAndLinks_5 :
    ∃ s : State, ∃ p ack n again, portUp s p = true ∧ s.sfp.held = [] ∧ again = ((getPort s p).replay.filter (fun c =>
    !cellUpTo c.num ack && cellUpTo n c.num)).length ∧ (getPort s p).retries + again < odGet s odSfpRetryLimit :=
  ⟨withPort { replay := [⟨9, 1, 0, 0⟩, ⟨10, 1, 1, 0⟩, ⟨11, 1, 2, 0⟩], retries := 4093 }, 7, 9, 10,
    ((getPort (withPort { replay := [⟨9, 1, 0, 0⟩, ⟨10, 1, 1, 0⟩, ⟨11, 1, 2, 0⟩], retries := 4093 }) 7).replay.filter (fun c => !cellUpTo c.num 9 && cellUpTo 10 c.num)).length,
    by decide +kernel⟩

theorem wit_PortsAndLinks_6 :
    ∃ s : State, ∃ p, portUp s p = true :=
  ⟨withPort {}, 7, by decide +kernel⟩

theorem wit_PortsAndLinks_7 :
    ∃ s : State, ∃ p, portUp s p = true :=
  ⟨withPort {}, 7, by decide +kernel⟩

theorem wit_PortsAndLinks_8 :
    ∃ s : State, ∃ ty c src, (typeReserved ty || c != s.sfp.collId || !isMember s src) = true ∧ odGet s odSfpBadCells
    + 1 < 2 ^ 32 :=
  ⟨withOd odSfpBadCells (2 ^ 32 - 2), 0, 0, 1, by decide +kernel⟩

/-! ### ControlMessages -/

theorem wit_ControlMessages_1 :
    ∃ s : State, ∃ d m x, s.sfp.ctlOut.find? (fun y => y.dst == d && y.mseq == m) = some x ∧ x.type ≠ ctReadReq ∧
    cellRoom s d 1 :=
  ⟨{ reach with sfp := { collId := 5, ctlOut := [{ dst := 1, mseq := 3, type := ctSync, payload := [0, 1, 5], task := some 7 }] } },
    1, 3, { dst := 1, mseq := 3, type := ctSync, payload := [0, 1, 5], task := some 7 },
    by unfold cellRoom; decide +kernel⟩

theorem wit_ControlMessages_2 :
    ∃ s : State, ∃ src term m, isMember s src = true ∧ tabGet src 0 s.sfp.ctlIn = m ∧ m < 2 ^ 32 ∧ s.sfp.registrar =
    false ∧ odGet s odSfpTerm ≤ term :=
  ⟨{ coll with sfp := { collId := 5, ctlIn := [(1, 2 ^ 32 - 1)] } }, 1, 0, 2 ^ 32 - 1, by decide +kernel⟩

theorem wit_ControlMessages_3 :
    ∃ s : State, ∃ src term m d, isMember s src = true ∧ tabGet src 0 s.sfp.ctlIn = m ∧ m < 2 ^ 32 ∧ s.sfp.registrar =
    true ∧ term ≤ odGet s odSfpTerm ∧ firstDeputy (hear src s) = some d :=
  ⟨registrar, 2, 0, 0, 1, by decide +kernel⟩

theorem wit_ControlMessages_4 :
    ∃ s : State, ∃ src term m, isMember s src = true ∧ tabGet src 0 s.sfp.ctlIn = m ∧ m < 2 ^ 32 ∧ odGet s odSfpTerm ≤
    term :=
  ⟨coll, 2, 0, 0, by decide +kernel⟩

theorem wit_ControlMessages_5 :
    ∃ s : State, ∃ m e, s.sfp.registrar = true ∧ isMember s m = true ∧ e = s.sfp.mapEpoch ∧ m ∉ s.sfp.adopted :=
  ⟨registrar, 2, 0, by decide +kernel⟩

theorem wit_ControlMessages_6 :
    ∃ s : State, ∃ m, s.sfp.registrar = true ∧ isMember s m = true :=
  ⟨registrar, 2, by decide +kernel⟩

/-! ### RegistrarAndKeys -/

theorem wit_RegistrarAndKeys_1 :
    ∃ s : State, ∃ src term m, isMember s src = true ∧ tabGet src 0 s.sfp.ctlIn = m ∧ m < 2 ^ 32 ∧ odGet s odSfpTerm ≤
    term :=
  ⟨coll, 1, 0, 0, by decide +kernel⟩

theorem wit_RegistrarAndKeys_2 :
    ∃ s : State, ∃ src m e, isMember s src = true ∧ tabGet src 0 s.sfp.ctlIn = m ∧ m < 2 ^ 32 ∧ s.sfp.registrar = true
    ∧ e = s.sfp.mapEpoch :=
  ⟨registrar, 1, 0, 0, by decide +kernel⟩

theorem wit_RegistrarAndKeys_3 :
    ∃ s : State, mayTakeOver s = true :=
  ⟨{ deputy with sfp := { collId := 5, engineId := 1, quiet := [(0, 4)] } }, by decide +kernel⟩

theorem wit_RegistrarAndKeys_4 :
    ∃ s : State, ∃ m, s.sfp.registrar = true ∧ isMember s m = true ∧ m ≠ s.sfp.engineId ∧ m ∉ s.sfp.silent ∧ (tabGet m
    (0, 0, 0) s.sfp.reports).2.2 + odGet s odSfpTakeoverFolios ≤ folio s :=
  ⟨{ registrar with fsu := { folio := 4 } }, 2, by decide +kernel⟩

theorem wit_RegistrarAndKeys_5 :
    ∃ s : State, ∃ src term k, isMember s src = true ∧ odGet s odSfpTerm ≤ term ∧ src ∈ succession s ∧ (getKey s
    k).secret.isSome = true :=
  ⟨{ registrar with sfp := { collId := 5, keys := [(3, { secret := some [1] })] } }, 1, 0, 3, by decide +kernel⟩

theorem wit_RegistrarAndKeys_6 :
    ∃ s : State, ∃ k f, s.sfp.switchTo = some (k, f) ∧ f ≤ folio s :=
  ⟨{ coll with sfp := { collId := 5, switchTo := some (3, 9) }, fsu := { folio := 9 } }, 3, 9, by decide +kernel⟩

theorem wit_RegistrarAndKeys_7 :
    ∃ s : State, ∃ k f, s.sfp.oldSlot = some (k, f) ∧ f < folio s :=
  ⟨{ coll with sfp := { collId := 5, oldSlot := some (3, 9) }, fsu := { folio := 10 } }, 3, 9, by decide +kernel⟩

/-! ### ReplicasInvalidated -/

theorem wit_ReplicasInvalidated_1 :
    ∃ s : State, ∃ h, isMember s h = true ∧ cellRoom s h 1 :=
  ⟨reach, 1, by unfold cellRoom; decide +kernel⟩

theorem wit_ReplicasInvalidated_2 :
    ∃ s : State, ∃ h, isMember s h = true :=
  ⟨coll, 2, by decide +kernel⟩

theorem wit_ReplicasInvalidated_3 :
    ∃ s : State, ∃ h, ∃ t : Nat, ∃ r, ∃ v : Inval, v ∈ s.cat.invals ∧ v.table = t ∧ v.row = r ∧ h ∈ v.holders ∧
    v.folio + odGet s odCatInvalFolios ≤ folio s :=
  ⟨{ coll with cat := { invals := [{ table := 6, row := 8, holders := [1, 2], folio := 10 }] }, fsu := { folio := 510 } },
    2, 6, 8, { table := 6, row := 8, holders := [1, 2], folio := 10 }, by decide +kernel⟩

theorem wit_ReplicasInvalidated_4 :
    ∃ s : State, ∃ h, h ≠ s.sfp.engineId ∧ tabGet h 0 s.cat.heard + odGet s odCatInvalFolios - 1 ≤ folio s :=
  ⟨{ coll with cat := { heard := [(1, 11)] }, fsu := { folio := 510 } }, 1, by decide +kernel⟩

/-! ### TwinPairs -/

theorem wit_TwinPairs_1 :
    ∃ s : State, ∃ src a, ∃ bs : List Byte, isMember s src = true ∧ a < 2 ^ 57 ∧ a + bs.length ≤ usable s ∧ (∀ c ∈
    s.mss.chans, c.2.down = false) ∧ s.cat.copyWait = [] ∧ cseqUsed s (cellDst s src) + 1 < 2 ^ 47 :=
  ⟨coll, 1, 2 ^ 34 - 1, [1], by decide +kernel⟩

theorem wit_TwinPairs_3 :
    ∃ s : State, ∃ hub, s.sfp.partner < 1024 ∧ twinState s = 1 ∧ (hub = true ∨ odGet s odSfpTwinTimeout ≤
    s.sfp.twinQuiet) :=
  ⟨{ twin 1 with sfp := { collId := 5, partner := 1, twinQuiet := 4 } }, false, by decide +kernel⟩

theorem wit_TwinPairs_4 :
    ∃ s : State, ∃ a b, isMember s a = true ∧ isMember s b = true :=
  ⟨coll, 1, 2, by decide +kernel⟩

theorem wit_TwinPairs_6 :
    ∃ s : State, s.sfp.partner < 1024 ∧ twinState s = 2 :=
  ⟨twin 2, by decide +kernel⟩

theorem wit_TwinPairs_7 :
    ∃ s : State, s.sfp.partner < 1024 ∧ (twinState s = 1 ∨ twinState s = 0) :=
  ⟨twin 0, by decide +kernel⟩

theorem wit_TwinPairs_8 :
    ∃ s : State, twinState s = 3 ∧ s.upu.applying = none ∧ copiesAcked s s.sfp.partner = true :=
  ⟨twin 3, by decide +kernel⟩

theorem wit_TwinPairs_9 :
    ∃ s : State, twinState s = 4 :=
  ⟨twin 4, by decide +kernel⟩

theorem wit_TwinPairs_10 :
    ∃ s : State, ∃ i, (i, true) ∈ s.sfp.recopy ∧ (∀ c ∈ s.sfp.recopy, c.1 = i → c.2 = true) :=
  ⟨{ twin 1 with sfp := { collId := 5, partner := 1, recopy := [(5, true)] } }, 5, by decide +kernel⟩

/-! ### FabricReads -/

theorem wit_FabricReads_1 :
    ∃ s : State, ∃ hdr : BitVec 128, ∃ body : List Byte, ∃ pl : List Byte, ∃ w : Nat, ∃ e row side reads idx,
    newReadReq s hdr body pl ∧ w = leNat (sliceBytes 0 8 pl) ∧ e = readerOf (bitsOf hdr.toNat 53 44) (leNat
    (sliceBytes 16 8 pl)) ∧ serveRead s (bitsOf w 39 0) (bitsOf w 55 40) (bitOf w 56) (bitOf w 57) (leNat (sliceBytes
    8 2 pl)) = .row row side reads ∧ (bitOf w 58 = true → s.cat.repdir.length < 65536) ∧ cellRoom s e (cellsFor (8 +
    row.length + side.length)) ∧ idx = idxOfRow s (bitsOf w 55 40) (bitsOf w 39 0) :=
  by
  refine ⟨plainly, plainHdr, plainCell (6 <<< 40 + 1 <<< 57), plainCell (6 <<< 40 + 1 <<< 57), 6 <<< 40 + 1 <<< 57, 1,
    List.replicate 32 0, [], [(0, 0, 32)], 0,
    ⟨?_, ?_, ?_, plainCell_plain _ _ (by decide +kernel) (by decide +kernel), ?_, ?_⟩, ?_, ?_, ?_, ?_, by unfold cellRoom; decide +kernel, ?_⟩ <;> decide +kernel

theorem wit_FabricReads_2 :
    ∃ s : State, ∃ hdr : BitVec 128, ∃ body : List Byte, ∃ pl : List Byte, ∃ w : Nat, ∃ e r a, newReadReq s hdr body
    pl ∧ w = leNat (sliceBytes 0 8 pl) ∧ e = readerOf (bitsOf hdr.toNat 53 44) (leNat (sliceBytes 16 8 pl)) ∧
    serveRead s (bitsOf w 39 0) (bitsOf w 55 40) (bitOf w 56) (bitOf w 57) (leNat (sliceBytes 8 2 pl)) = r ∧ (r =
    .absent ∧ a = 1 ∨ ∃ v, r = .status v ∧ a = v <<< 8) ∧ cellRoom s e 1 :=
  by
  refine ⟨plainly, plainHdr, plainCell (9 + 6 <<< 40), plainCell (9 + 6 <<< 40), 9 + 6 <<< 40, 1, .status 3, 3 <<< 8,
    ⟨?_, ?_, ?_, plainCell_plain _ _ (by decide +kernel) (by decide +kernel), ?_, ?_⟩, ?_, ?_, ?_, .inr ⟨3, rfl, rfl⟩, by unfold cellRoom; decide +kernel⟩ <;> decide +kernel

theorem wit_FabricReads_3 :
    ∃ s : State, ∃ hdr : BitVec 128, ∃ body : List Byte, ∃ pl : List Byte, ∃ w : Nat, ∃ e h, newReadReq s hdr body pl
    ∧ w = leNat (sliceBytes 0 8 pl) ∧ e = readerOf (bitsOf hdr.toNat 53 44) (leNat (sliceBytes 16 8 pl)) ∧ serveRead s
    (bitsOf w 39 0) (bitsOf w 55 40) (bitOf w 56) (bitOf w 57) (leNat (sliceBytes 8 2 pl)) = .pass h ∧ cellRoom s h 1
    ∧ credited s (cellDst s h) (bitsOf hdr.toNat 35 13) = true :=
  by
  refine ⟨{ twin 3 (withTable [(32, 1)] plainly) with sfp := { reach.sfp with partner := 1, recopy := [(0, true)] } },
    plainHdr, plainCell (9 + 6 <<< 40), plainCell (9 + 6 <<< 40), 9 + 6 <<< 40, 1, 1,
    ⟨?_, ?_, ?_, plainCell_plain _ _ (by decide +kernel) (by decide +kernel), ?_, ?_⟩, ?_, ?_, ?_, by unfold cellRoom; decide +kernel, credited_all _ _ _ (by decide +kernel)⟩ <;> decide +kernel

theorem wit_FabricReads_4 :
    ∃ s : State, ∃ hdr body, bitsOf hdr.toNat 75 72 = ctReadReq ∧ gated s 11 = false ∧ windowUp s = true ∧ cellPlain s
    hdr body = none :=
  ⟨coll, 1 <<< 72, [], by decide +kernel⟩

theorem wit_FabricReads_5 :
    ∃ s : State, ∃ hdr : BitVec 128, ∃ body : List Byte, ∃ pl : List Byte, bitsOf hdr.toNat 75 72 = ctReadReq ∧ gated
    s 11 = false ∧ windowUp s = true ∧ cellPlain s hdr body = some pl ∧ cellReplayed s hdr = true :=
  by
  refine ⟨{ plainly with sfp := { collId := 5, replayWin := [(4, (4096, [0]))] } }, plainHdr, plainCell 0, plainCell 0,
    ?_, ?_, ?_, plainCell_plain _ _ (by decide +kernel) (by decide +kernel), ?_⟩ <;> decide +kernel

theorem wit_FabricReads_6 :
    ∃ s : State, ∃ xid p r k l, gated s 11 = false ∧ windowUp s = true ∧ readOfXid s xid = some (p, r) ∧ bagTask s
    r.task = some k ∧ readLeaf s p r = some l :=
  ⟨farBag farRead, 77, 0, farRead, task opLookup [], farLeaf, by decide +kernel⟩

theorem wit_FabricReads_7 :
    ∃ s : State, ∃ xid p r k l, gated s 11 = false ∧ windowUp s = true ∧ readOfXid s xid = some (p, r) ∧ bagTask s
    r.task = some k ∧ readLeaf s p r = some l ∧ s.msc.open_ = [] :=
  ⟨farBag farRead, 77, 0, farRead, task opLookup [], farLeaf, by decide +kernel⟩

theorem wit_FabricReads_8 :
    ∃ s : State, ∃ xid p r, gated s 11 = false ∧ windowUp s = true ∧ readOfXid s xid = none ∧ twinOfXid s xid = some
    (p, r) :=
  ⟨farBag { farRead with twin := some 78 }, 78, 0, { farRead with twin := some 78 }, by decide +kernel⟩

theorem wit_FabricReads_9 :
    ∃ s : State, ∃ xid row side k, gated s 11 = false ∧ windowUp s = true ∧ readOfXid s xid = none ∧ twinOfXid s xid =
    none ∧ replicateOfXid s xid = some k ∧ getTask s k.id = some k ∧ replicaUsed s + replicaLines row side ≤
    replicaRoom s :=
  ⟨withTasks [{ task opReloc [(64, 6), (108, 2), (128, 9)] with ctlSeq := some 77 }] (withOd odStkPart (3 <<< 24 + 2 ^ 16 + 1)),
    77, List.replicate 128 0, List.replicate 64 0,
    { task opReloc [(64, 6), (108, 2), (128, 9)] with ctlSeq := some 77 }, by decide +kernel⟩

theorem wit_FabricReads_10 :
    ∃ s : State, ∃ xid, gated s 11 = false ∧ windowUp s = true ∧ readOfXid s xid = none ∧ twinOfXid s xid = none ∧
    replicateOfXid s xid = none :=
  ⟨farBag farRead, 78, by decide +kernel⟩

theorem wit_FabricReads_11 :
    ∃ s : State, ∃ xid p r k l, readOfXid s xid = some (p, r) ∧ bagTask s r.task = some k ∧ readLeaf s p r = some l ∧
    r.tries < 2 ∧ readRoom s (readHomeOf s k r l) :=
  by
  refine ⟨farBag { farRead with tries := 1 } reach, 77, 0, { farRead with tries := 1 }, task opLookup [], farLeaf,
    ?_, ?_, ?_, ?_, ⟨by unfold cellRoom; decide +kernel, credited_all _ _ _ (by decide +kernel)⟩⟩ <;> decide +kernel

theorem wit_FabricReads_12 :
    ∃ s : State, ∃ xid p r k l, readOfXid s xid = some (p, r) ∧ bagTask s r.task = some k ∧ readLeaf s p r = some l ∧
    2 ≤ r.tries ∧ s.msc.open_ = [] :=
  ⟨farBag { farRead with tries := 2 } reach, 77, 0, { farRead with tries := 2 }, task opLookup [], farLeaf,
    by decide +kernel⟩

theorem wit_FabricReads_13 :
    ∃ s : State, ∃ xid k, readOfXid s xid = none ∧ twinOfXid s xid = none ∧ replicateOfXid s xid = some k ∧ k.copyPos
    < 2 ∧ getTask s k.id = some k ∧ readRoom s (sdHome (descAt s (rlIndex s k.desc))) :=
  by
  refine ⟨withTasks [{ task opReloc [(64, 6), (108, 2), (128, 9)] with ctlSeq := some 77 }] (withTable [(32, 1)] reach),
    77, { task opReloc [(64, 6), (108, 2), (128, 9)] with ctlSeq := some 77 },
    ?_, ?_, ?_, ?_, ?_, ⟨by unfold cellRoom; decide +kernel, credited_all _ _ _ (by decide +kernel)⟩⟩ <;> decide +kernel

theorem wit_FabricReads_14 :
    ∃ s : State, ∃ xid, readOfXid s xid = none ∧ twinOfXid s xid = none ∧ replicateOfXid s xid = none :=
  ⟨farBag farRead, 78, by decide +kernel⟩

/-! ### GddrService -/

theorem wit_GddrService_1 :
    ∃ s : State, ∃ ch, ∃ r : Int, ch < 24 ∧ s.mss.selfRefresh = false ∧ gated s 5 = false ∧ -127 ≤ r ∧ r ≤ 127 :=
  ⟨up, 23, -127, by decide +kernel⟩

theorem wit_GddrService_2 :
    ∃ s : State, ∃ ch, ch < 24 ∧ s.mss.selfRefresh = false ∧ gated s 5 = false :=
  ⟨up, 0, by decide +kernel⟩

theorem wit_GddrService_3 :
    ∃ s : State, ∃ ch, ch < 24 ∧ odReady odMssRetrain s ∧ (getChan s ch).down = false ∧ bitOf s.mss.chanMap ch = true
    ∧ (∀ r ∈ s.mss.retrainQ, r.1 ≠ ch) ∧ s.mss.retraining = none :=
  ⟨up, 23, by unfold odReady; decide +kernel⟩

theorem wit_GddrService_4 :
    ∃ s : State, ∃ r rest, s.mss.retraining = none ∧ s.mss.retrainQ = r :: rest ∧ s.mss.overwriting = false ∧
    s.mss.selfRefresh = false :=
  ⟨{ up with mss := { selfRefresh := false, retrainQ := [(23, 2)] } }, (23, 2), [], by decide +kernel⟩

theorem wit_GddrService_5 :
    ∃ s : State, ∃ ch, ch < 24 ∧ s.mss.retraining = none ∧ s.mss.retrainQ = [] ∧ bitOf s.mss.chanMap ch = true ∧
    (getChan s ch).down = false ∧ s.mss.overwriting = false ∧ s.mss.selfRefresh = false :=
  ⟨{ up with mss := { overwriteDue := false, selfRefresh := false } }, 23, by decide +kernel⟩

theorem wit_GddrService_6 :
    ∃ s : State, ∃ ch cause hold, s.mss.retraining = some (ch, cause) ∧ hold ≤ 4000 :=
  ⟨{ up with mss := { selfRefresh := false, retraining := some (23, 2) } }, 23, 2, 4000, by decide +kernel⟩

theorem wit_GddrService_7 :
    ∃ s : State, ∃ ch cause, s.mss.retraining = some (ch, cause) :=
  ⟨{ up with mss := { selfRefresh := false, retraining := some (23, 2) } }, 23, 2, by decide +kernel⟩

theorem wit_GddrService_8 :
    ∃ s : State, ∃ a, a = s.mss.scrub ∧ 64 * a < usable s ∧ gddrHeld s (64 * a) = false ∧ (getChan s (chanOf s (64 *
    a))).down = false ∧ gated s 5 = false :=
  ⟨{ up with mss := { selfRefresh := false, scrub := 2 ^ 28 - 1 } },
    ({ up with mss := { selfRefresh := false, scrub := 2 ^ 28 - 1 } }).mss.scrub, by decide +kernel⟩

theorem wit_GddrService_9 :
    ∃ s : State, ∃ a, a = s.mss.scrub ∧ 64 * a < usable s ∧ gddrHeld s (64 * a) = false ∧ (getChan s (chanOf s (64 *
    a))).down = false ∧ gated s 5 = false ∧ s.mss.tags = true ∧ (∀ b ∈ s.mss.badAtoms, b.1 ≠ a) :=
  ⟨{ up with mss := { selfRefresh := false, tags := true, badAtoms := [(4, true)], scrub := 5 } },
    ({ up with mss := { selfRefresh := false, tags := true, badAtoms := [(4, true)], scrub := 5 } }).mss.scrub,
    by decide +kernel⟩

theorem wit_GddrService_10 :
    ∃ s : State, s.mss.overwriteDue = true ∧ s.mss.selfRefresh = false ∧ s.mss.overwriting = false :=
  ⟨{ up with mss := { selfRefresh := false } }, by decide +kernel⟩

theorem wit_GddrService_11 :
    ∃ s : State, s.mss.overwriting = true :=
  ⟨{ up with mss := { overwriting := true } }, by decide +kernel⟩

/-! ### ResetAndStart -/

theorem wit_ResetAndStart_1 :
    ∃ s : State, ∃ ns, s.cru.run ≠ .off ∧ s.cru.run ≠ .reset ∧ s.cru.rstN = true ∧ 1200 ≤ ns ∧ s.cru.heldWrites = []
    :=
  ⟨up, 1200, by decide +kernel⟩

theorem wit_ResetAndStart_2 :
    ∃ s : State, s.cru.run = .reset ∧ s.cru.pwrgd = true ∧ s.msc.packageHeld = false ∧ s.msc.waitRelease = false :=
  ⟨State.reset, by decide +kernel⟩

theorem wit_ResetAndStart_3 :
    ∃ s : State, s.cru.run ≠ .off :=
  ⟨State.reset, by decide +kernel⟩

theorem wit_ResetAndStart_4 :
    ∃ s : State, s.cru.pwrgd = false :=
  ⟨{ State.reset with cru := { pwrgd := false } }, by decide +kernel⟩

theorem wit_ResetAndStart_5 :
    ∃ s : State, s.cru.run = .starting ∧ s.cru.stuck = false :=
  ⟨{ State.reset with cru := { run := .starting } }, by decide +kernel⟩

theorem wit_ResetAndStart_6 :
    ∃ s : State, s.cru.run = .bringup ∧ s.cru.stuck = false ∧ s.mss.overwriteDue = false ∧ s.mss.overwriting = false ∧
    s.msc.booted = true ∧ s.msc.restarting = false ∧ s.upu.ring = [] :=
  ⟨{ up with cru := { run := .bringup } }, by decide +kernel⟩

/-! ### ClocksAndLinks -/

theorem wit_ClocksAndLinks_1 :
    ∃ s : State, s.cru.locked = true ∧ s.cru.coast = false :=
  ⟨up, by decide +kernel⟩

theorem wit_ClocksAndLinks_2 :
    ∃ s : State, s.cru.stuck = false ∧ s.cru.run = .starting :=
  ⟨{ State.reset with cru := { run := .starting } }, by decide +kernel⟩

theorem wit_ClocksAndLinks_3 :
    ∃ s : State, s.cru.stuck = false ∧ s.cru.run = .ready ∧ s.cru.coast = true :=
  ⟨{ up with cru := { run := .ready, coast := true } }, by decide +kernel⟩

theorem wit_ClocksAndLinks_4 :
    ∃ s : State, s.cru.stuck = false ∧ s.cru.run ≠ .starting ∧ s.cru.coast = false ∧ s.cru.locked = true ∧ odGet s
    odCruRefMode = 1 :=
  ⟨withOd odCruRefMode 1, by decide +kernel⟩

theorem wit_ClocksAndLinks_5 :
    ∃ s : State, s.cru.coast = true ∧ s.cru.holdover = true :=
  ⟨{ up with cru := { run := .ready, coast := true, holdover := true } }, by decide +kernel⟩

theorem wit_ClocksAndLinks_6 :
    ∃ s : State, ∃ p, folioRuns s = true ∧ s.cru.stuck = false ∧ podMapped s p = true ∧ (getPod s p).inReset = true ∧
    linkOf s (dieOf s p) = .down :=
  ⟨{ up with pods := [] }, 15, by decide +kernel⟩

theorem wit_ClocksAndLinks_7 :
    ∃ s : State, ∃ d p, linkOf s d = .training ∧ s.cru.stuck = false ∧ s.cru.run = .ready ∧ s.msc.sparing = none ∧
    s.msc.podMap.getD d 0xFF = p ∧ p < 16 :=
  ⟨{ up with cru := { run := .ready, d2d := [(15, .training)] } }, 15, 15, by decide +kernel⟩

theorem wit_ClocksAndLinks_8 :
    ∃ s : State, ∃ d c, linkOf s d = .training ∧ s.cru.stuck = false ∧ s.cru.run = .ready ∧ 1 ≤ c ∧ c ≤ 3 ∧ (tabGet d
    (0, 0) s.cru.d2dTries).1 < 2 :=
  ⟨{ up with cru := { run := .ready, d2d := [(17, .training)], d2dTries := [(17, (1, 0))] } }, 17, 3,
    by decide +kernel⟩

theorem wit_ClocksAndLinks_9 :
    ∃ s : State, ∃ d, linkOf s d = .training ∧ s.cru.stuck = false ∧ (tabGet d (0, 0) s.cru.d2dTries).2 < 8 :=
  ⟨{ up with cru := { run := .ready, d2d := [(17, .training)], d2dTries := [(17, (0, 7))] } }, 17, by decide +kernel⟩

theorem wit_ClocksAndLinks_10 :
    ∃ s : State, ∃ d, linkOf s d = .up ∧ folioRuns s = true ∧ s.cru.stuck = false :=
  ⟨{ up with cru := { run := .ready, d2d := [(17, .up)] } }, 17, by decide +kernel⟩

theorem wit_ClocksAndLinks_11 :
    ∃ f : State → State, ∃ s : State, inRecovery s = false ∧ (f s).upu.recovering = s.upu.recovering :=
  ⟨fun s => s, up, by decide +kernel⟩

/-! ### PodResets -/

theorem wit_PodResets_1 :
    ∃ s : State, ∃ p, podMapped s p = true :=
  ⟨up, 15, by decide +kernel⟩

theorem wit_PodResets_2 :
    ∃ s : State, ∃ p c, podMapped s p = true ∧ (getPod s p).inReset = false ∧ (c = 2 ∨ c = 3) :=
  ⟨up, 15, 3, by decide +kernel⟩

theorem wit_PodResets_3 :
    ∃ s : State, ∃ p, odReady odCruPodReset s ∧ podMapped s p = true :=
  ⟨up, 15, by unfold odReady; decide +kernel⟩

theorem wit_PodResets_4 :
    ∃ s : State, ∃ p, s.cru.locked = true ∧ s.cru.coast = false ∧ podMapped s p = true ∧ (getPod s p).inReset = false
    :=
  ⟨up, 15, by decide +kernel⟩

theorem wit_PodResets_5 :
    ∃ s : State, ∃ p, p < 16 ∧ podIdle (getPod s p) = true :=
  ⟨up, 15, by decide +kernel⟩

theorem wit_PodResets_6 :
    ∃ s : State, ∃ p, odReady odMscPodRetire s ∧ podMapped s p = true :=
  ⟨up, 15, by unfold odReady; decide +kernel⟩

theorem wit_PodResets_7 :
    ∃ s : State, ∃ d p, odReady odMscSpareMap s ∧ p < 16 ∧ d ∈ spareDies s ∧ (getPod s p).retired = true ∧
    s.msc.sparing = none :=
  ⟨withPod { retired := true }, 17, 0, by unfold odReady; decide +kernel⟩

/-! ### PowerAndContainment -/

theorem wit_PowerAndContainment_1 :
    ∃ s : State, s.cru.run ≠ .off :=
  ⟨up, by decide +kernel⟩

theorem wit_PowerAndContainment_2 :
    ∃ s : State, s.cru.input = true :=
  ⟨up, by decide +kernel⟩

theorem wit_PowerAndContainment_3 :
    ∃ s : State, ∃ rail, 18 ≤ rail ∧ rail < 23 ∧ s.cru.pwrgd = true :=
  ⟨up, 22, by decide +kernel⟩

theorem wit_PowerAndContainment_4 :
    ∃ s : State, ∃ rail p, rail < 18 ∧ s.cru.pwrgd = true ∧ s.msc.podMap.getD rail 0xFF = p ∧ podMapped s p = true ∧
    (getPod s p).inReset = false :=
  ⟨up, 15, 15, by decide +kernel⟩

theorem wit_PowerAndContainment_5 :
    ∃ s : State, s.cru.locked = true ∧ s.cru.coast = false :=
  ⟨up, by decide +kernel⟩

theorem wit_PowerAndContainment_6 :
    ∃ s : State, ∃ c, running s = true ∧ 12 ≤ c ∧ c ≤ 15 :=
  ⟨up, 15, by decide +kernel⟩

theorem wit_PowerAndContainment_7 :
    ∃ s : State, ∃ c, running s = true ∧ 16 ≤ c ∧ c ≤ 18 :=
  ⟨up, 18, by decide +kernel⟩

theorem wit_PowerAndContainment_8 :
    ∃ s : State, s.msc.flushing = true ∧ s.cru.heldWrites = [] :=
  ⟨{ up with msc := { flushing := true } }, by decide +kernel⟩

theorem wit_PowerAndContainment_9 :
    ∃ s : State, odReady odMscContainRelease s ∧ s.msc.hubLost = false :=
  ⟨up, by unfold odReady; decide +kernel⟩

/-! ### FoliosBegin -/

theorem wit_FoliosBegin_1 :
    ∃ s : State, folioRuns s = true ∧ tickInUse s = false :=
  ⟨up, by decide +kernel⟩

theorem wit_FoliosBegin_2 :
    ∃ s : State, ∃ n, folioRuns s = true ∧ tickInUse s = true ∧ periodNow s ≤ 2 * n ∧ 4 * n ≤ 5 * periodNow s :=
  ⟨withOd odFsuTickSrc 1, 2500, by decide +kernel⟩

theorem wit_FoliosBegin_3 :
    ∃ s : State, ∃ n, folioRuns s = true ∧ tickInUse s = true ∧ 2 * n < periodNow s :=
  ⟨withOd odFsuTickSrc 1, 999, by decide +kernel⟩

theorem wit_FoliosBegin_4 :
    ∃ s : State, folioRuns s = true ∧ tickInUse s = true :=
  ⟨withOd odFsuTickSrc 1, by decide +kernel⟩

theorem wit_FoliosBegin_5 :
    ∃ s : State, folioRuns s = true ∧ startsOwn s = false ∧ s.sfp.markedNow = false :=
  ⟨coll, by decide +kernel⟩

theorem wit_FoliosBegin_6 :
    ∃ s : State, ∃ port, ∃ m : BitVec 192, portUp s port = true ∧ folioRuns s = true ∧ markerFrom s m.toNat = true ∧
    markerNew s m.toNat = true :=
  ⟨{ withOd odSfpPortState (2 <<< 56) deputy with sfp := { collId := 5, engineId := 1, ports := [(7, {})] } }, 7,
    BitVec.ofNat 192 (1 + 5 <<< 160), by decide +kernel⟩

theorem wit_FoliosBegin_7 :
    ∃ s : State, ∃ port, ∃ m : BitVec 192, portUp s port = true ∧ folioRuns s = true ∧ markerFrom s m.toNat = true ∧
    markerNew s m.toNat = false ∧ s.sfp.markedNow = false ∧ mkTerm m.toNat = odGet s odSfpTerm :=
  ⟨{ withOd odSfpPortState (2 <<< 56) deputy with sfp := { collId := 5, engineId := 1, ports := [(7, {})], marked := true, markFolio := 1 } },
    7, BitVec.ofNat 192 (1 + 5 <<< 160), by decide +kernel⟩

theorem wit_FoliosBegin_8 :
    ∃ s : State, folioRuns s = true :=
  ⟨up, by decide +kernel⟩

/-! ### SlotsAndHeat -/

theorem wit_SlotsAndHeat_1 :
    ∃ s : State, ∃ k v r, k < 8 ∧ odReady (odCatSlotring + k) s ∧ roleOk (odNeed (odCatSlotring + k)) r = true ∧ bitOf
    (slotCtl s k) 76 = false ∧ bitOf v 76 = true ∧ bitsOf v 255 224 = 0 ∧ bitsOf v 127 85 = 0 ∧ bitsOf v 79 77 = 0 ∧
    10 ≤ srLog v ∧ srLog v ≤ 24 ∧ 32 ≤ srSize v ∧ srTier v < 2 ∧ srBase v % 4096 = 0 ∧ ringFor s (srSize v) (srTier v)
    = none :=
  ⟨up, 7, 24 <<< 80 + 2 ^ 76 + 2 ^ 74 + 1 <<< 64, .service, by unfold odReady; decide +kernel⟩

theorem wit_SlotsAndHeat_2 :
    ∃ s : State, ∃ k, k < 8 ∧ gated s 1 = false ∧ s.cat.copyWait = [] :=
  ⟨up, 7, by decide +kernel⟩

theorem wit_SlotsAndHeat_3 :
    ∃ s : State, ∃ key r, odReady odIxuHeatQuery s ∧ roleOk (odNeed odIxuHeatQuery) r = true ∧ key < 2 ^ 56 :=
  ⟨up, 2 ^ 56 - 1, .service, by unfold odReady; decide +kernel⟩

theorem wit_SlotsAndHeat_4 :
    ∃ s : State, folio s % odGet s odIxuHeatWindow = 0 ∧ gated s 2 = false :=
  ⟨{ up with fsu := { folio := 100 } }, by decide +kernel⟩

/-! ### EntryWrites -/

theorem wit_EntryWrites_1 :
    ∃ s : State, ∃ v r, odReady odIxuHashSlot s ∧ roleOk .owner r = true ∧ v ≤ 3 ∧ tableLive s (fun t => deHashed
    (dirAt s t)) = false ∧ (∀ p ∈ activePods s, v = 0 ∨ ∃ h ∈ (getPod s p).hashes, h.1 = v) :=
  ⟨{ up with pods := [(0, { up := true, inReset := false, hashes := [(3, [])] })] }, 3, .owner,
    by unfold odReady; decide +kernel⟩

theorem wit_EntryWrites_2 :
    ∃ s : State, ∃ k v r, k ≤ 8 ∧ odReady (odGauSproutBind + k) s ∧ roleOk .operator r = true ∧ v < 2 ^ 4096 ∧ (∀ q <
    512, bitsOf v (8 * q + 7) (8 * q) = k ∨ (16 ≤ bitsOf v (8 * q + 7) (8 * q) ∧ bitsOf v (8 * q + 7) (8 * q) ≤ 63))
    :=
  ⟨up, 8, 8 * ((2 ^ 4096 - 1) / 255), .operator, by unfold odReady; decide +kernel⟩

theorem wit_EntryWrites_3 :
    ∃ s : State, ∃ k v r, k ≤ 15 ∧ odReady (odQntResid + k) s ∧ roleOk .operator r = true ∧ v < 2 ^ 128 ∧ bitsOf v 63
    17 = 0 ∧ v / 2 ^ 64 % 64 = 0 ∧ (bitOf v 16 = true → ∀ j < 16, j ≠ k → bitOf (odGet s (odQntResid + j)) 16 = true →
    odGet s (odQntResid + j) % 65536 ≠ v % 65536) :=
  ⟨withOd odQntResid (2 ^ 16 + 65534), 15, 2 ^ 16 + 65535, .operator, by unfold odReady; decide +kernel⟩

theorem wit_EntryWrites_4 :
    ∃ s : State, ∃ k v r, k ≤ 63 ∧ odReady (odFsuNotify + k) s ∧ roleOk .operator r = true ∧ v < 2 ^ 128 ∧ bitsOf v 14
    13 = 0 ∧ bitsOf v 63 22 = 0 :=
  ⟨up, 63, 2 ^ 15 + 2 ^ 21, .operator, by unfold odReady; decide +kernel⟩

theorem wit_EntryWrites_5 :
    ∃ s : State, ∃ v r, odReady odSfpRefPort s ∧ roleOk .owner r = true ∧ (v < 8 ∨ v = 0xFF) :=
  ⟨up, 0xFF, .owner, by unfold odReady; decide +kernel⟩

theorem wit_EntryWrites_6 :
    ∃ s : State, ∃ v r, odReady odUpuTrainEntry s ∧ roleOk .operator r = true ∧ v < 2 ^ 128 ∧ bitsOf v 95 93 = 0 ∧
    bitsOf v 88 50 = 0 ∧ tableLive s (· == odGet s odUpuTrainSelect) = false ∧ (∀ c ∈ s.mss.chans, c.2.down = false)
    :=
  ⟨up, 2 ^ 92 + 2 ^ 89, .operator, by unfold odReady; decide +kernel⟩

theorem wit_EntryWrites_7 :
    ∃ s : State, windowUp s = true ∧ confidential s = false ∧ s.cru.heldWrites = [] :=
  ⟨up, by decide +kernel⟩

/-! ### StacksPartitions -/

theorem wit_StacksPartitions_1 :
    ∃ s : State, ∃ k v r, odReady (odStkPart + k) s ∧ roleOk (partRole s k v) r = true ∧ partRefused s k v = false ∧
    bitOf v 17 = false ∧ partOn (partVal s k) = false :=
  ⟨withOd (odStkPart + 7) 0 (withOd odStkPart 0), 7, 2 ^ 16 + 1, .owner, by unfold odReady; decide +kernel⟩

theorem wit_StacksPartitions_2 :
    ∃ s : State, ∃ k v r, odReady (odStkPart + k) s ∧ roleOk (partRole s k v) r = true ∧ partRefused s k v = false ∧
    bitOf v 17 = false ∧ partOn (partVal s k) = true ∧ partOn v = false :=
  ⟨withOd (odStkPart + 7) (2 ^ 16 + 1), 7, 1, .owner, by unfold odReady; decide +kernel⟩

theorem wit_StacksPartitions_3 :
    ∃ s : State, ∃ k v r, odReady (odStkPart + k) s ∧ roleOk (partRole s k v) r = true ∧ partRefused s k v = true :=
  ⟨up, 7, 2 ^ 64, .owner, by unfold odReady; decide +kernel⟩

theorem wit_StacksPartitions_4 :
    ∃ s : State, ∃ k n r, k < 16 ∧ odReady (odStkPin + k) s ∧ roleOk .operator r = true ∧ n < 65536 ∧ pinOn (pinVal s
    k) = false ∧ pinPartOn s = true ∧ (∀ j < 16, j ≠ k → pinOn (pinVal s j) = true → pinTable (pinVal s j) ≠ n) :=
  ⟨withOd odStkPart (2 ^ 25 + 2 ^ 16 + 1), 15, 65535, .operator, by unfold odReady; decide +kernel⟩

theorem wit_StacksPartitions_5 :
    ∃ s : State, ∃ k r, k < 16 ∧ odReady (odStkPin + k) s ∧ roleOk .operator r = true ∧ pinOn (pinVal s k) = true :=
  ⟨withPin 1, 15, .operator, by unfold odReady; decide +kernel⟩

theorem wit_StacksPartitions_6 :
    ∃ s : State, ∃ k idx a, k < 16 ∧ pinOn (pinVal s k) = true ∧ idx ∈ pinShards s k ∧ pinComplete s idx = false ∧
    gated s 4 = false ∧ pinBlocked s idx = false ∧ pinSharesFit s (sumOf (·.lines) (pinOthers s idx) + shardPinLines s
    idx) = true ∧ ((pinnedCopy s idx).map (·.first) = some a ∨ pinnedCopy s idx = none ∧ firstFit (pinRoom s)
    (shardPinLines s idx) ((pinOthers s idx).map (fun c => (c.first, c.lines))) = some a) :=
  ⟨withPin 1, 15, 0, 0, by decide +kernel⟩

theorem wit_StacksPartitions_7 :
    ∃ s : State, ∃ k idx, k < 16 ∧ pinOn (pinVal s k) = true ∧ idx ∈ pinShards s k ∧ pinComplete s idx = false ∧ gated
    s 4 = false ∧ pinBlocked s idx = false ∧ (pinSharesFit s (sumOf (·.lines) (pinOthers s idx) + shardPinLines s idx)
    = false ∨ pinnedCopy s idx = none ∧ firstFit (pinRoom s) (shardPinLines s idx) ((pinOthers s idx).map (fun c =>
    (c.first, c.lines))) = none) :=
  ⟨withPin 0, 15, 0, by decide +kernel⟩

theorem wit_StacksPartitions_8 :
    ∃ s : State, ∃ k r, odReady (odStkPart + k) s ∧ roleOk .owner r = true ∧ partRefused s k (partFields (partVal s k)
    + 2 ^ 17) = false :=
  ⟨up, 7, .owner, by unfold odReady; decide +kernel⟩

theorem wit_StacksPartitions_9 :
    ∃ s : State, ∃ k p, tabFind k s.stk.sweeps = some p :=
  ⟨{ up with stk := { sweeps := [(7, 1)] } }, 7, 1, by decide +kernel⟩

/-! ### HostRegisters -/

theorem wit_HostRegisters_1 :
    ∃ s : State, ∃ key, windowUp s = true ∧ key % 65536 = 0xA5C3 ∧ modeChanging s = false ∧ s.msc.packageHeld = false
    ∧ s.cru.rstN = true ∧ s.cru.heldWrites = [] :=
  ⟨up, 0xA5C3, by decide +kernel⟩

theorem wit_HostRegisters_2 :
    ∃ key, key % 65536 ≠ 0xA5C3 :=
  ⟨0xA5C2, by decide +kernel⟩

theorem wit_HostRegisters_3 :
    ∃ s : State, windowUp s = true ∧ openLevel s = 0 ∧ s.msc.startCause = 0 :=
  ⟨up, by decide +kernel⟩

theorem wit_HostRegisters_4 :
    ∃ off width, off < 0x400000 ∧ ((width ≠ 4 ∧ width ≠ 8) ∨ off % width ≠ 0) :=
  ⟨0x3FFFFE, 4, by decide +kernel⟩

theorem wit_HostRegisters_5 :
    ∃ s : State, ∃ q, q < 512 ∧ regOn s 0 = true ∧ (getQ s q).state = .disabled :=
  ⟨up, 511, by decide +kernel⟩

theorem wit_HostRegisters_6 :
    ∃ s : State, ∃ off width pod kind tile b, (width = 4 ∨ width = 8) ∧ off % width = 0 ∧ windowUp s = true ∧
    confidential s = false ∧ windowTile off = some (pod, kind, tile, b) ∧ gated s (tileSub kind) = false ∧ windowOpen
    s pod kind tile = true :=
  ⟨up, 0x0109FFF8 + 15 * 0x200000 + 0x100000, 8, 15, 1, 639, 1016, by decide +kernel⟩

theorem wit_HostRegisters_7 :
    ∃ s : State, ∃ off width pod kind tile b, (width = 4 ∨ width = 8) ∧ off % width = 0 ∧ windowUp s = true ∧
    confidential s = false ∧ windowTile off = some (pod, kind, tile, b) ∧ gated s (tileSub kind) = false ∧ windowOpen
    s pod kind tile = false :=
  ⟨withPod { up := true, inReset := false, carrels := [(1023, 7)] }, 0x010FFFF8, 8, 0, 0, 1023, 1016,
    by decide +kernel⟩

/-! ### ManagementMessages -/

theorem wit_ManagementMessages_1 :
    ∃ s : State, ∃ ss r i j off len e, sessionOk s ss r = true ∧ len ≤ 1024 ∧ off < 2 ^ 32 ∧ odNamed i j = some e :=
  ⟨up, 0, .operator, 0x7000, 1, 2 ^ 32 - 1, 1024, (odNamed 0x7000 1).get (by decide +kernel), by decide +kernel⟩

theorem wit_ManagementMessages_2 :
    ∃ s : State, ∃ ss r i j off len, sessionOk s ss r = true ∧ len ≤ 1024 ∧ off < 2 ^ 32 ∧ i < 65536 ∧ j < 256 ∧
    odNamed i j = none :=
  ⟨up, 0, .operator, 65535, 255, 2 ^ 32 - 1, 1024, by decide +kernel⟩

theorem wit_ManagementMessages_3 :
    ∃ s : State, ∃ ss r i j off, ∃ bs : List Byte, ∃ e, sessionOk s ss r = true ∧ bs.length ≤ 1024 ∧ off < 2 ^ 32 ∧
    odNamed i j = some e ∧ off = (stagedBytes s e.key ss).length ∧ writeBlock s ss r e false off bs.length (leNat
    (stagedBytes s e.key ss ++ bs)) = none :=
  ⟨session .owner, 1, .owner, odSecJobEnvelope / 256, odSecJobEnvelope % 256, 0, [1],
    (odNamed (odSecJobEnvelope / 256) (odSecJobEnvelope % 256)).get (by decide +kernel), by decide +kernel⟩

theorem wit_ManagementMessages_4 :
    ∃ s : State, ∃ ss r i j off, ∃ bs : List Byte, ∃ e st, sessionOk s ss r = true ∧ bs.length ≤ 1024 ∧ off < 2 ^ 32 ∧
    odNamed i j = some e ∧ writeBlock s ss r e true off bs.length (leNat (stagedBytes s e.key ss ++ bs)) = some st :=
  ⟨session .operator, 1, .operator, 0x7000, 1, 1, [1], (odNamed 0x7000 1).get (by decide +kernel), 7,
    by decide +kernel⟩

theorem wit_ManagementMessages_5 :
    ∃ s : State, ∃ ss r i j, ∃ bs : List Byte, ∃ e, sessionOk s ss r = true ∧ bs.length ≤ 1024 ∧ odNamed i j = some e
    ∧ e.key ∈ [odFsuPeriod, odCatHotReads, odMscFlushTime] ∧ e.varLen = false ∧ bs.length = e.size ∧ stagedBytes s
    e.key ss = [] ∧ writeBlock s ss r e true 0 bs.length (leNat bs) = none ∧ gated s (odSub e.key) = false ∧ scalarOk
    e (leNat bs) = true :=
  ⟨session .service, 1, .service, 0x7000, 1, leBytes 2 2000, (odNamed 0x7000 1).get (by decide +kernel),
    by decide +kernel⟩

theorem wit_ManagementMessages_6 :
    ∃ i j, i < 65536 ∧ j < 256 :=
  ⟨65535, 255, by decide +kernel⟩

theorem wit_ManagementMessages_7 :
    ∃ s : State, ∃ ss, ∃ m : List Byte, sessionOk s ss (((s.msc.sessions.find? (fun x => x.1 == ss)).map (·.2)).getD
    .operator) = true ∧ m.length ≤ 1024 :=
  ⟨session .owner, 1, [1], by decide +kernel⟩

/-! ### SecurityModes -/

theorem wit_SecurityModes_1 :
    ∃ s : State, ∃ r, odReady odSecModeReq s ∧ roleOk .owner r = true ∧ secQuiet s = true ∧ partnerQuiet s = true ∧
    s.msc.mode = .open ∧ s.cru.heldWrites = [] :=
  ⟨up, .owner, by unfold odReady; decide +kernel⟩

theorem wit_SecurityModes_2 :
    ∃ s : State, ∃ r, odReady odSecModeReq s ∧ roleOk .owner r = true ∧ secQuiet s = true ∧ partnerQuiet s = true ∧
    s.msc.mode = .confidential ∧ s.cru.heldWrites = [] :=
  ⟨{ up with msc := { mode := .confidential } }, .owner, by unfold odReady; decide +kernel⟩

theorem wit_SecurityModes_3 :
    ∃ s : State, ∃ r, odReady odSecJobEnd s ∧ roleOk .owner r = true ∧ secQuiet s = true ∧ partnerQuiet s = true ∧
    s.cru.heldWrites = [] :=
  ⟨up, .owner, by unfold odReady; decide +kernel⟩

theorem wit_SecurityModes_4 :
    ∃ s : State, ∃ r, odReady odSecModeReq s ∧ roleOk .owner r = true ∧ secQuiet s = true ∧ partnerQuiet s = true :=
  ⟨up, .owner, by unfold odReady; decide +kernel⟩

theorem wit_SecurityModes_5 :
    ∃ s : State, ∃ r, roleOk .owner r = true ∧ ((∃ q ∈ s.cfe.queues, q.2.state ≠ .disabled) ∨ ledgerOwes s = true ∨ (∃
    p < 16, (getPod s p).groups ≠ []) ∨ (∃ i ∈ liveDescs s, 2 ≤ sdState (descAt s i)) ∨ s.mss.overwriteDue = true ∨
    s.mss.overwriting = true ∨ s.msc.step ≠ .idle ∨ partnerQuiet s = false) :=
  ⟨withTasks [], .owner, by decide +kernel⟩

theorem wit_SecurityModes_7 :
    ∃ s : State, ∃ r, odReady odSecJobEnvelope s ∧ roleOk .owner r = true :=
  ⟨up, .owner, by unfold odReady; decide +kernel⟩

theorem wit_SecurityModes_9 :
    ∃ s : State, ∃ r, odReady odSecTableEnvelope s ∧ roleOk .owner r = true :=
  ⟨up, .owner, by unfold odReady; decide +kernel⟩

theorem wit_SecurityModes_10 :
    ∃ s : State, ∃ r n, odReady odSecTableUnbind s ∧ roleOk .owner r = true ∧ n < 65536 :=
  ⟨up, .owner, 65535, by unfold odReady; decide +kernel⟩

/-! ### Firmware -/

theorem wit_Firmware_3 :
    ∃ s : State, ∃ r, odReady odMscFwSwitch s ∧ roleOk .service r = true :=
  ⟨up, .service, by unfold odReady; decide +kernel⟩

theorem wit_Firmware_4 :
    ∃ s : State, s.msc.fwPending = true ∧ s.msc.restarting = false :=
  ⟨{ up with msc := { fwPending := true } }, by decide +kernel⟩

theorem wit_Firmware_5 :
    ∃ s : State, s.msc.unhealthy = true :=
  ⟨{ up with msc := { unhealthy := true } }, by decide +kernel⟩

theorem wit_Firmware_6 :
    ∃ s : State, s.msc.restarting = true :=
  ⟨{ up with msc := { restarting := true } }, by decide +kernel⟩

theorem wit_Firmware_7 :
    ∃ s : State, ∃ r, odReady odMscFwCommit s ∧ roleOk .service r = true :=
  ⟨up, .service, by unfold odReady; decide +kernel⟩

theorem wit_Firmware_8 :
    ∃ s : State, s.cru.run ≠ .off ∧ s.msc.booted = false ∧ slotFault s (fwActive s) = 0 :=
  ⟨State.reset, by decide +kernel⟩

theorem wit_Firmware_9 :
    ∃ s : State, s.cru.run ≠ .off ∧ s.msc.booted = false ∧ slotFault s (fwActive s) ≠ 0 ∧ slotFault s (1 - fwActive s)
    ≠ 0 :=
  ⟨{ State.reset with msc := { slotA := { passes := false }, slotB := { svn := 1 }, svn := 2 } }, by decide +kernel⟩

/-! ### TableControl -/

theorem wit_TableControl_1 :
    ∃ s : State, ∃ n k v, ctlTask s n 1 = some k ∧ ctlTurn s k = true ∧ ctlData s k.desc 16 = .inr v ∧ writeDirOk s
    (tcTable k.desc) (BitVec.ofNat 128 v) = true :=
  ⟨withTasks [task opCtl [(64, 1), (80, 6), (192, 1), (256, dir.toNat)]], 7,
    task opCtl [(64, 1), (80, 6), (192, 1), (256, dir.toNat)], dir.toNat, by decide +kernel⟩

theorem wit_TableControl_2 :
    ∃ s : State, ∃ n k v, ctlTask s n 2 = some k ∧ ctlTurn s k = true ∧ ctlData s k.desc 64 = .inr v ∧ chansUp s ∧
    inRange (dirAt s (tcTable k.desc)) (tcIndex k.desc) = true ∧ writeDescOk s (tcTable k.desc) (tcIndex k.desc)
    (BitVec.ofNat 512 v) = true ∧ overlaps (descAddr s (tcIndex k.desc)) 64 (statsAddr s (tcIndex k.desc)) 16 = false
    :=
  ⟨withTable [] (withTasks [task opCtl [(64, 2), (80, 6), (192, 1), (256, shard.toNat)]]), 7,
    task opCtl [(64, 2), (80, 6), (192, 1), (256, shard.toNat)], shard.toNat, by unfold chansUp; decide +kernel⟩

theorem wit_TableControl_3 :
    ∃ s : State, ∃ n k, ctlTask s n 3 = some k ∧ ctlTurn s k = true ∧ chansUp s ∧ setStateOk s (tcTable k.desc)
    (tcIndex k.desc) (tcState k.desc) = true :=
  ⟨withTable [] (withTasks [task opCtl [(64, 3), (80, 6), (116, 1)]]), 7,
    task opCtl [(64, 3), (80, 6), (116, 1)], by unfold chansUp; decide +kernel⟩

theorem wit_TableControl_4 :
    ∃ s : State, ∃ n k, ctlTask s n 4 = some k ∧ ctlTurn s k = true ∧ chansUp s ∧ readDescOk s (tcTable k.desc)
    (tcIndex k.desc) = true ∧ accessFlt s (tcAddr k.desc) 64 = none :=
  ⟨withTable [] (withTasks [task opCtl [(64, 4), (80, 6), (128, 2 ^ 60 + 2 ^ 34 - 64)]]), 7,
    task opCtl [(64, 4), (80, 6), (128, 2 ^ 60 + 2 ^ 34 - 64)], by unfold chansUp; decide +kernel⟩

theorem wit_TableControl_5 :
    ∃ s : State, ∃ n k, ctlTask s n 5 = some k ∧ ctlTurn s k = true ∧ chansUp s ∧ accessFlt s (tcAddr k.desc) 16 =
    none :=
  ⟨withTable [] (withTasks [task opCtl [(64, 5), (80, 6), (128, 2 ^ 60 + 2 ^ 34 - 16)]]), 7,
    task opCtl [(64, 5), (80, 6), (128, 2 ^ 60 + 2 ^ 34 - 16)], by unfold chansUp; decide +kernel⟩

theorem wit_TableControl_6 :
    ∃ s : State, ∃ n k v, ctlTask s n 1 = some k ∧ ctlTurn s k = true ∧ ctlData s k.desc 16 = .inr v ∧ canEnd k = true
    ∧ writeDirOk s (tcTable k.desc) (BitVec.ofNat 128 v) = false :=
  ⟨withTasks [task opCtl [(64, 1), (80, 6), (192, 1), (256, dir.toNat + 2 ^ 84)]], 7,
    task opCtl [(64, 1), (80, 6), (192, 1), (256, dir.toNat + 2 ^ 84)], dir.toNat + 2 ^ 84, by decide +kernel⟩

theorem wit_TableControl_7 :
    ∃ s : State, ∃ n k, ctlTask s n 3 = some k ∧ ctlTurn s k = true ∧ canEnd k = true ∧ setStateOk s (tcTable k.desc)
    (tcIndex k.desc) (tcState k.desc) = false :=
  ⟨withTable [] (withTasks [task opCtl [(64, 3), (80, 6), (116, 2)]]), 7,
    task opCtl [(64, 3), (80, 6), (116, 2)], by decide +kernel⟩

theorem wit_TableControl_8 :
    ∃ s : State, ∃ n k, ctlTask s n 4 = some k ∧ ctlTurn s k = true ∧ canEnd k = true ∧ readDescOk s (tcTable k.desc)
    (tcIndex k.desc) = false :=
  ⟨withTable [] (withTasks [task opCtl [(64, 4), (80, 6), (96, 1)]]), 7, task opCtl [(64, 4), (80, 6), (96, 1)],
    by decide +kernel⟩

/-! ### ShardMoves -/

theorem wit_ShardMoves_1 :
    ∃ s : State, ∃ n k, relocTask s n 0 = some k ∧ relocOk s k.desc = true ∧ moveOf s (rlIndex s k.desc) = none ∧
    k.copyPos = 0 ∧ (∀ o ∈ s.cat.owed, o.1 ≠ rlIndex s k.desc) ∧ (cached s (rlIndex s k.desc)).isSome = true ∧
    (rlEngine k.desc = s.sfp.engineId → sdShelved (sdSet (sdSet (descAt s (rlIndex s k.desc)) 45 44 3) 241 192 (rlBase
    k.desc)) = false) :=
  ⟨withTable [] (withTasks [task opReloc [(64, 6), (108, 0), (106, 1), (192, 4)]]), 7,
    task opReloc [(64, 6), (108, 0), (106, 1), (192, 4)], by decide +kernel⟩

theorem wit_ShardMoves_3 :
    ∃ s : State, ∃ n k, relocTask s n 0 = some k ∧ moveOf s (rlIndex s k.desc) = some (n, true, false) ∧ (∀ o ∈
    s.cat.owed, o.1 ≠ rlIndex s k.desc) ∧ mirrorAcked s (rlIndex s k.desc) true = true ∧ shardRows (dirAt s (dTable
    k.desc)) (sdShard (descAt s (rlIndex s k.desc))) ≤ k.copyPos ∧ s.upu.applying = none ∧ shardHolders s (dTable
    k.desc) (sdShard (descAt s (rlIndex s k.desc))) = [] ∧ (cached s (rlIndex s k.desc)).isSome = true :=
  ⟨{ withTasks [{ task opReloc [(64, 6), (108, 0), (106, 1), (192, 4)] with copyPos := 10 }] with cat := { dir := [(6, dir)], cache := [(0, shard)], moves := [(0, 7, true, false)] } },
    7, { task opReloc [(64, 6), (108, 0), (106, 1), (192, 4)] with copyPos := 10 }, by decide +kernel⟩

theorem wit_ShardMoves_4 :
    ∃ s : State, ∃ n k, relocTask s n 0 = some k ∧ moveOf s (rlIndex s k.desc) = some (n, false, false) ∧ (∀ o ∈
    s.cat.owed, o.1 ≠ rlIndex s k.desc) ∧ mirrorAcked s (rlIndex s k.desc) false = true ∧ (s.sfp.registrar = true →
    (firstDeputy s).isSome = true) ∧ shardRows (dirAt s (dTable k.desc)) (sdShard (descAt s (rlIndex s k.desc))) ≤
    k.copyPos ∧ s.upu.applying = none ∧ shardHolders s (dTable k.desc) (sdShard (descAt s (rlIndex s k.desc))) = [] ∧
    (cached s (rlIndex s k.desc)).isSome = true :=
  ⟨{ withTasks [{ task opReloc [(64, 6), (108, 0), (106, 1), (192, 4)] with copyPos := 10 }] with cat := { dir := [(6, dir)], cache := [(0, shard)], moves := [(0, 7, false, false)] } },
    7, { task opReloc [(64, 6), (108, 0), (106, 1), (192, 4)] with copyPos := 10 }, by decide +kernel⟩

theorem wit_ShardMoves_5 :
    ∃ s : State, ∃ n k, relocTask s n 0 = some k ∧ relocOk s k.desc = false ∧ (∀ m ∈ moveOf s (rlIndex s k.desc), m.1
    ≠ n) ∧ canEnd k = true :=
  ⟨withTable [] (withTasks [task opReloc [(64, 6), (108, 0), (192, 4)]]), 7,
    task opReloc [(64, 6), (108, 0), (192, 4)], by decide +kernel⟩

/-! ### RowMoves -/

theorem wit_RowMoves_1 :
    ∃ s : State, ∃ n k m, relocTask s n 1 = some k ∧ k.copyPos = 0 ∧ relocOk s k.desc = true ∧ rlBase k.desc ≠ 0 ∧
    chansUp s ∧ m = shelfmark s (descAt s (rlIndex s k.desc)) (posOf (dirAt s (dTable k.desc)) (rlRow k.desc)) :=
  ⟨withTable [(320, 1)] (withTasks [task opReloc [(64, 6), (108, 1), (106, 1), (128, 9), (192, 4)]]), 7,
    task opReloc [(64, 6), (108, 1), (106, 1), (128, 9), (192, 4)],
    shelfmark (withTable [(320, 1)] (withTasks [task opReloc [(64, 6), (108, 1), (106, 1), (128, 9), (192, 4)]])) (descAt (withTable [(320, 1)] (withTasks [task opReloc [(64, 6), (108, 1), (106, 1), (128, 9), (192, 4)]])) (rlIndex (withTable [(320, 1)] (withTasks [task opReloc [(64, 6), (108, 1), (106, 1), (128, 9), (192, 4)]])) (task opReloc [(64, 6), (108, 1), (106, 1), (128, 9), (192, 4)]).desc)) (posOf (dirAt (withTable [(320, 1)] (withTasks [task opReloc [(64, 6), (108, 1), (106, 1), (128, 9), (192, 4)]])) (dTable (task opReloc [(64, 6), (108, 1), (106, 1), (128, 9), (192, 4)]).desc)) (rlRow (task opReloc [(64, 6), (108, 1), (106, 1), (128, 9), (192, 4)]).desc)),
    by unfold chansUp; decide +kernel⟩

theorem wit_RowMoves_2 :
    ∃ s : State, ∃ n k m r loc f, relocTask s n 1 = some k ∧ k.copyPos = 0 ∧ relocOk s k.desc = true ∧ rlBase k.desc =
    0 ∧ chansUp s ∧ m = shelfmark s (descAt s (rlIndex s k.desc)) (posOf (dirAt s (dTable k.desc)) (rlRow k.desc)) ∧
    ringFor s (rowS (descAt s (rlIndex s k.desc))) (rlTier k.desc) = some r ∧ nextSlot s r = some (loc, f) :=
  ⟨withTable [(320, 1)] (withTasks [task opReloc [(64, 6), (108, 1), (106, 1), (128, 9)]] (withOd odCatSlotring (1 <<< 128 + 2 ^ 76 + 2 ^ 74 + 1 <<< 64 + 10 <<< 80))),
    7, task opReloc [(64, 6), (108, 1), (106, 1), (128, 9)],
    shelfmark (withTable [(320, 1)] (withTasks [task opReloc [(64, 6), (108, 1), (106, 1), (128, 9)]] (withOd odCatSlotring (1 <<< 128 + 2 ^ 76 + 2 ^ 74 + 1 <<< 64 + 10 <<< 80)))) (descAt (withTable [(320, 1)] (withTasks [task opReloc [(64, 6), (108, 1), (106, 1), (128, 9)]] (withOd odCatSlotring (1 <<< 128 + 2 ^ 76 + 2 ^ 74 + 1 <<< 64 + 10 <<< 80)))) (rlIndex (withTable [(320, 1)] (withTasks [task opReloc [(64, 6), (108, 1), (106, 1), (128, 9)]] (withOd odCatSlotring (1 <<< 128 + 2 ^ 76 + 2 ^ 74 + 1 <<< 64 + 10 <<< 80)))) (task opReloc [(64, 6), (108, 1), (106, 1), (128, 9)]).desc)) (posOf (dirAt (withTable [(320, 1)] (withTasks [task opReloc [(64, 6), (108, 1), (106, 1), (128, 9)]] (withOd odCatSlotring (1 <<< 128 + 2 ^ 76 + 2 ^ 74 + 1 <<< 64 + 10 <<< 80)))) (dTable (task opReloc [(64, 6), (108, 1), (106, 1), (128, 9)]).desc)) (rlRow (task opReloc [(64, 6), (108, 1), (106, 1), (128, 9)]).desc)),
    0, 0, false, by unfold chansUp; decide +kernel⟩

theorem wit_RowMoves_3 :
    ∃ s : State, ∃ n k x m, relocTask s n 1 = some k ∧ k.copyPos ≠ 0 ∧ x = descAt s (rlIndex s k.desc) ∧ m = shelfmark
    s x (posOf (dirAt s (dTable k.desc)) (rlRow k.desc)) ∧ smAccession m = smAccession k.moveMark ∧ smLoc m = smLoc
    k.moveMark ∧ folio s ≤ k.copyPos ∧ (rlTier k.desc = 1 → hostPending s (32 * k.moveSlot) (rowS x) = false) ∧
    twinOpen s = false ∧ chansUp s ∧ ringFor s (rowS x) (smTier m) = none :=
  ⟨withTable [(320, 1)] (withTasks [{ task opReloc [(64, 6), (108, 1), (106, 1), (128, 9), (192, 4)] with copyPos := 1 }]),
    7, { task opReloc [(64, 6), (108, 1), (106, 1), (128, 9), (192, 4)] with copyPos := 1 },
    descAt (withTable [(320, 1)] (withTasks [{ task opReloc [(64, 6), (108, 1), (106, 1), (128, 9), (192, 4)] with copyPos := 1 }])) (rlIndex (withTable [(320, 1)] (withTasks [{ task opReloc [(64, 6), (108, 1), (106, 1), (128, 9), (192, 4)] with copyPos := 1 }])) ({ task opReloc [(64, 6), (108, 1), (106, 1), (128, 9), (192, 4)] with copyPos := 1 }).desc),
    shelfmark (withTable [(320, 1)] (withTasks [{ task opReloc [(64, 6), (108, 1), (106, 1), (128, 9), (192, 4)] with copyPos := 1 }])) (descAt (withTable [(320, 1)] (withTasks [{ task opReloc [(64, 6), (108, 1), (106, 1), (128, 9), (192, 4)] with copyPos := 1 }])) (rlIndex (withTable [(320, 1)] (withTasks [{ task opReloc [(64, 6), (108, 1), (106, 1), (128, 9), (192, 4)] with copyPos := 1 }])) ({ task opReloc [(64, 6), (108, 1), (106, 1), (128, 9), (192, 4)] with copyPos := 1 }).desc)) (posOf (dirAt (withTable [(320, 1)] (withTasks [{ task opReloc [(64, 6), (108, 1), (106, 1), (128, 9), (192, 4)] with copyPos := 1 }])) (dTable ({ task opReloc [(64, 6), (108, 1), (106, 1), (128, 9), (192, 4)] with copyPos := 1 }).desc)) (rlRow ({ task opReloc [(64, 6), (108, 1), (106, 1), (128, 9), (192, 4)] with copyPos := 1 }).desc)),
    by unfold chansUp; decide +kernel⟩

theorem wit_RowMoves_4 :
    ∃ s : State, ∃ n k x m r, relocTask s n 1 = some k ∧ k.copyPos ≠ 0 ∧ x = descAt s (rlIndex s k.desc) ∧ m =
    shelfmark s x (posOf (dirAt s (dTable k.desc)) (rlRow k.desc)) ∧ smAccession m = smAccession k.moveMark ∧ smLoc m
    = smLoc k.moveMark ∧ folio s ≤ k.copyPos ∧ (rlTier k.desc = 1 → hostPending s (32 * k.moveSlot) (rowS x) = false)
    ∧ ringFor s (rowS x) (smTier m) = some r ∧ (slotRing s r).ret.length < 2 ^ srLog (slotCtl s r) :=
  ⟨withTable [(320, 1)] (withTasks [moving] (withOd odCatSlotring (1 <<< 128 + 2 ^ 76 + 1 <<< 64 + 10 <<< 80))),
    7, moving,
    descAt (withTable [(320, 1)] (withTasks [moving] (withOd odCatSlotring (1 <<< 128 + 2 ^ 76 + 1 <<< 64 + 10 <<< 80)))) (rlIndex (withTable [(320, 1)] (withTasks [moving] (withOd odCatSlotring (1 <<< 128 + 2 ^ 76 + 1 <<< 64 + 10 <<< 80)))) moving.desc),
    shelfmark (withTable [(320, 1)] (withTasks [moving] (withOd odCatSlotring (1 <<< 128 + 2 ^ 76 + 1 <<< 64 + 10 <<< 80)))) (descAt (withTable [(320, 1)] (withTasks [moving] (withOd odCatSlotring (1 <<< 128 + 2 ^ 76 + 1 <<< 64 + 10 <<< 80)))) (rlIndex (withTable [(320, 1)] (withTasks [moving] (withOd odCatSlotring (1 <<< 128 + 2 ^ 76 + 1 <<< 64 + 10 <<< 80)))) moving.desc)) (posOf (dirAt (withTable [(320, 1)] (withTasks [moving] (withOd odCatSlotring (1 <<< 128 + 2 ^ 76 + 1 <<< 64 + 10 <<< 80)))) (dTable moving.desc)) (rlRow moving.desc)),
    0, by decide +kernel⟩

theorem wit_RowMoves_5 :
    ∃ s : State, ∃ n k m, relocTask s n 1 = some k ∧ k.copyPos ≠ 0 ∧ canEnd k = true ∧ m = shelfmark s (descAt s
    (rlIndex s k.desc)) (posOf (dirAt s (dTable k.desc)) (rlRow k.desc)) ∧ (smAccession m ≠ smAccession k.moveMark ∨
    smLoc m ≠ smLoc k.moveMark ∨ k.copyPos < folio s) :=
  ⟨{ withTable [(320, 1)] (withTasks [{ task opReloc [(64, 6), (108, 1), (106, 1), (128, 9), (192, 4)] with copyPos := 1 }]) with fsu := { folio := 2 } },
    7, { task opReloc [(64, 6), (108, 1), (106, 1), (128, 9), (192, 4)] with copyPos := 1 },
    shelfmark ({ withTable [(320, 1)] (withTasks [{ task opReloc [(64, 6), (108, 1), (106, 1), (128, 9), (192, 4)] with copyPos := 1 }]) with fsu := { folio := 2 } }) (descAt ({ withTable [(320, 1)] (withTasks [{ task opReloc [(64, 6), (108, 1), (106, 1), (128, 9), (192, 4)] with copyPos := 1 }]) with fsu := { folio := 2 } }) (rlIndex ({ withTable [(320, 1)] (withTasks [{ task opReloc [(64, 6), (108, 1), (106, 1), (128, 9), (192, 4)] with copyPos := 1 }]) with fsu := { folio := 2 } }) ({ task opReloc [(64, 6), (108, 1), (106, 1), (128, 9), (192, 4)] with copyPos := 1 }).desc)) (posOf (dirAt ({ withTable [(320, 1)] (withTasks [{ task opReloc [(64, 6), (108, 1), (106, 1), (128, 9), (192, 4)] with copyPos := 1 }]) with fsu := { folio := 2 } }) (dTable ({ task opReloc [(64, 6), (108, 1), (106, 1), (128, 9), (192, 4)] with copyPos := 1 }).desc)) (rlRow ({ task opReloc [(64, 6), (108, 1), (106, 1), (128, 9), (192, 4)] with copyPos := 1 }).desc)),
    by decide +kernel⟩

theorem wit_RowMoves_6 :
    ∃ s : State, ∃ n k x tier a row side, relocTask s n 2 = some k ∧ k.ctlSeq = none ∧ relocOk s k.desc = true ∧ x =
    descAt s (rlIndex s k.desc) ∧ isHome s x = true ∧ rowPlace s x (posOf (dirAt s (dTable k.desc)) (rlRow k.desc)) =
    some (tier, a) ∧ tierFlt s tier a (rowS x) = none ∧ row = tierLoad s tier a (rowS x) ∧ side = (if rowEscapes x row
    = 0 then [] else tierLoad s (sdTier x) (sideAddr x (hkSlot (rowHusk x row))) (slotSize x)) ∧ replicaUsed s +
    replicaLines row side ≤ replicaRoom s :=
  ⟨withTable [] (withTasks [task opReloc [(64, 6), (108, 2), (128, 9)]]), 7,
    task opReloc [(64, 6), (108, 2), (128, 9)],
    descAt (withTable [] (withTasks [task opReloc [(64, 6), (108, 2), (128, 9)]])) (rlIndex (withTable [] (withTasks [task opReloc [(64, 6), (108, 2), (128, 9)]])) (task opReloc [(64, 6), (108, 2), (128, 9)]).desc),
    0, 2 ^ 32 + 288,
    tierLoad (withTable [] (withTasks [task opReloc [(64, 6), (108, 2), (128, 9)]])) 0 (2 ^ 32 + 288) (rowS (descAt (withTable [] (withTasks [task opReloc [(64, 6), (108, 2), (128, 9)]])) (rlIndex (withTable [] (withTasks [task opReloc [(64, 6), (108, 2), (128, 9)]])) (task opReloc [(64, 6), (108, 2), (128, 9)]).desc))),
    (if rowEscapes (descAt (withTable [] (withTasks [task opReloc [(64, 6), (108, 2), (128, 9)]])) (rlIndex (withTable [] (withTasks [task opReloc [(64, 6), (108, 2), (128, 9)]])) (task opReloc [(64, 6), (108, 2), (128, 9)]).desc)) (tierLoad (withTable [] (withTasks [task opReloc [(64, 6), (108, 2), (128, 9)]])) 0 (2 ^ 32 + 288) (rowS (descAt (withTable [] (withTasks [task opReloc [(64, 6), (108, 2), (128, 9)]])) (rlIndex (withTable [] (withTasks [task opReloc [(64, 6), (108, 2), (128, 9)]])) (task opReloc [(64, 6), (108, 2), (128, 9)]).desc)))) = 0 then [] else tierLoad (withTable [] (withTasks [task opReloc [(64, 6), (108, 2), (128, 9)]])) (sdTier (descAt (withTable [] (withTasks [task opReloc [(64, 6), (108, 2), (128, 9)]])) (rlIndex (withTable [] (withTasks [task opReloc [(64, 6), (108, 2), (128, 9)]])) (task opReloc [(64, 6), (108, 2), (128, 9)]).desc))) (sideAddr (descAt (withTable [] (withTasks [task opReloc [(64, 6), (108, 2), (128, 9)]])) (rlIndex (withTable [] (withTasks [task opReloc [(64, 6), (108, 2), (128, 9)]])) (task opReloc [(64, 6), (108, 2), (128, 9)]).desc)) (hkSlot (rowHusk (descAt (withTable [] (withTasks [task opReloc [(64, 6), (108, 2), (128, 9)]])) (rlIndex (withTable [] (withTasks [task opReloc [(64, 6), (108, 2), (128, 9)]])) (task opReloc [(64, 6), (108, 2), (128, 9)]).desc)) (tierLoad (withTable [] (withTasks [task opReloc [(64, 6), (108, 2), (128, 9)]])) 0 (2 ^ 32 + 288) (rowS (descAt (withTable [] (withTasks [task opReloc [(64, 6), (108, 2), (128, 9)]])) (rlIndex (withTable [] (withTasks [task opReloc [(64, 6), (108, 2), (128, 9)]])) (task opReloc [(64, 6), (108, 2), (128, 9)]).desc))))))) (slotSize (descAt (withTable [] (withTasks [task opReloc [(64, 6), (108, 2), (128, 9)]])) (rlIndex (withTable [] (withTasks [task opReloc [(64, 6), (108, 2), (128, 9)]])) (task opReloc [(64, 6), (108, 2), (128, 9)]).desc)))),
    by decide +kernel⟩

theorem wit_RowMoves_7 :
    ∃ s : State, ∃ n k x, relocTask s n 2 = some k ∧ k.ctlSeq = none ∧ relocOk s k.desc = true ∧ x = descAt s (rlIndex
    s k.desc) ∧ isHome s x = false ∧ readRoom s (sdHome x) :=
  by
  refine ⟨withTable [(32, 1)] (withTasks [task opReloc [(64, 6), (108, 2), (128, 9)]] reach), 7,
    task opReloc [(64, 6), (108, 2), (128, 9)],
    descAt (withTable [(32, 1)] (withTasks [task opReloc [(64, 6), (108, 2), (128, 9)]] reach)) (rlIndex (withTable [(32, 1)] (withTasks [task opReloc [(64, 6), (108, 2), (128, 9)]] reach)) (task opReloc [(64, 6), (108, 2), (128, 9)]).desc),
    ?_, ?_, ?_, ?_, ?_, ⟨by unfold cellRoom; decide +kernel, credited_all _ _ _ (by decide +kernel)⟩⟩ <;> decide +kernel

theorem wit_RowMoves_8 :
    ∃ s : State, ∃ n k, relocTask s n 3 = some k ∧ relocOk s k.desc = true :=
  ⟨withTable [] (withTasks [task opReloc [(64, 6), (108, 3), (128, 9)]]), 7,
    task opReloc [(64, 6), (108, 3), (128, 9)], by decide +kernel⟩

/-! ### Replacements -/

theorem wit_Replacements_1 :
    ∃ s : State, ∃ n k x, relocTask s n 5 = some k ∧ k.copyPos = 0 ∧ relocOk s k.desc = true ∧ x = descAt s (rlIndex s
    k.desc) ∧ twinOpen s = false ∧ chansUp s ∧ tierFlt s (sdTier x) (32 * sdBase x) (arrayBytes (dirAt s (dTable
    k.desc)) x) = none ∧ tierFlt s (sdTier x) (32 * rlBase k.desc) (arrayBytes (dirAt s (dTable k.desc)) x) = none :=
  ⟨withTable [] (withTasks [task opReloc [(64, 6), (108, 5), (192, 4)]]), 7,
    task opReloc [(64, 6), (108, 5), (192, 4)],
    descAt (withTable [] (withTasks [task opReloc [(64, 6), (108, 5), (192, 4)]])) (rlIndex (withTable [] (withTasks [task opReloc [(64, 6), (108, 5), (192, 4)]])) (task opReloc [(64, 6), (108, 5), (192, 4)]).desc),
    by unfold chansUp; decide +kernel⟩

theorem wit_Replacements_2 :
    ∃ s : State, ∃ n k, relocTask s n 5 = some k ∧ k.copyPos ≠ 0 ∧ (cached s (rlIndex s k.desc)).isSome = true :=
  ⟨withTable [] (withTasks [{ task opReloc [(64, 6), (108, 5), (192, 4)] with copyPos := 1 }]), 7,
    { task opReloc [(64, 6), (108, 5), (192, 4)] with copyPos := 1 }, by decide +kernel⟩

theorem wit_Replacements_3 :
    ∃ s : State, ∃ n k z, relocTask s n 6 = some k ∧ relocOk s k.desc = true ∧ (cached s (rlIndex s k.desc)).isSome =
    true ∧ shardHolders s (dTable k.desc) (sdShard (descAt s (rlIndex s k.desc))) = [] ∧ (s.sfp.registrar = true →
    (firstDeputy s).isSome = true) ∧ z = sdSet (sdSet (committedDesc (descAt s (rlIndex s k.desc))) 45 44 1) 241 192 0
    :=
  ⟨withTable [(44, 1)] (withTasks [task opReloc [(64, 6), (108, 6)]]), 7, task opReloc [(64, 6), (108, 6)],
    sdSet (sdSet (committedDesc (descAt (withTable [(44, 1)] (withTasks [task opReloc [(64, 6), (108, 6)]])) (rlIndex (withTable [(44, 1)] (withTasks [task opReloc [(64, 6), (108, 6)]])) (task opReloc [(64, 6), (108, 6)]).desc))) 45 44 1) 241 192 0,
    by decide +kernel⟩

theorem wit_Replacements_4 :
    ∃ s : State, ∃ n k, relocTask s n 4 = some k ∧ relocOk s k.desc = true ∧ sdState (descAt s (rlIndex s k.desc)) = 2
    ∧ rlIndex s k.desc ∉ s.cat.committed ∧ (cached s (rlIndex s k.desc)).isSome = true :=
  ⟨withTable [(44, 1)] (withTasks [task opReloc [(64, 6), (108, 4)]]), 7, task opReloc [(64, 6), (108, 4)],
    by decide +kernel⟩

theorem wit_Replacements_5 :
    ∃ s : State, ∃ n k, relocTask s n 4 = some k ∧ relocOk s k.desc = false ∧ canEnd k = true :=
  ⟨withTable [] (withTasks [task opReloc [(64, 6), (108, 4)]]), 7, task opReloc [(64, 6), (108, 4)],
    by decide +kernel⟩

theorem wit_Replacements_6 :
    ∃ s : State, ∃ n k, relocTask s n 4 = some k ∧ sdState (descAt s (rlIndex s k.desc)) = 2 ∧ rlIndex s k.desc ∈
    s.cat.committed ∧ k.admitFolio < admFloorNow s ∧ (cached s (rlIndex s k.desc)).isSome = true :=
  ⟨{ withTasks [task opReloc [(64, 6), (108, 4)]] with cat := { dir := [(6, dir)], cache := [(0, shard [(44, 1)])], committed := [0] } },
    7, task opReloc [(64, 6), (108, 4)], by decide +kernel⟩

theorem wit_Replacements_7 :
    ∃ s : State, ∃ n k slot f, relocTask s n 4 = some k ∧ sdState (descAt s (rlIndex s k.desc)) = 3 ∧ fwdOf s (rlIndex
    s k.desc) = some (slot, f) ∧ shardReads s (rlIndex s k.desc) = false ∧ epochFloorAt s (fwEpoch f) = true ∧
    forwardsDone s (fwEngine f) = true ∧ (cached s (rlIndex s k.desc)).isSome = true :=
  ⟨{ withTable [(44, 2)] (withTasks [task opReloc [(64, 6), (108, 4)]]) with mem := { gddr := [(0x04800002, 0x10)] } },
    7, task opReloc [(64, 6), (108, 4)], 0, 2 ^ 20, by decide +kernel⟩

theorem wit_Replacements_8 :
    ∃ s : State, ∃ n k m, relocTask s n 4 = some k ∧ sdState (descAt s (rlIndex s k.desc)) = 3 ∧ fwdOf s (rlIndex s
    k.desc) = none ∧ moveOf s (rlIndex s k.desc) = some (m, true, true) ∧ m ≠ n ∧ shardReads s (rlIndex s k.desc) =
    false ∧ (cached s (rlIndex s k.desc)).isSome = true :=
  ⟨{ withTasks [task opReloc [(64, 6), (108, 4)]] with cat := { dir := [(6, dir)], cache := [(0, shard [(44, 2)])], moves := [(0, 6, true, true)] } },
    7, task opReloc [(64, 6), (108, 4)], 6, by decide +kernel⟩

/-! ### Groups -/

theorem wit_Groups_1 :
    ∃ s : State, ∃ n k, liveTask s n opGOpen = some k ∧ openDone s k = true :=
  ⟨withTasks [task opGOpen [(104, 1)]], 7, task opGOpen [(104, 1)], by decide +kernel⟩

theorem wit_Groups_2 :
    ∃ s : State, ∃ n k, liveTask s n opGOpen = some k ∧ openDone s k = false :=
  ⟨withPod { up := true, inReset := false, carrels := [(0, 9)] } (withTasks [task opGOpen [(104, 1)]]), 7,
    task opGOpen [(104, 1)], by decide +kernel⟩

theorem wit_Groups_3 :
    ∃ s : State, ∃ n k, liveTask s n opGOpen = some k ∧ k.waitTiles = true ∧ openDone s k = true :=
  ⟨withTasks [{ task opGOpen [(104, 1)] with waitTiles := true }], 7,
    { task opGOpen [(104, 1)] with waitTiles := true }, by decide +kernel⟩

theorem wit_Groups_4 :
    ∃ s : State, ∃ n k g, liveTask s n opGClose = some k ∧ closingGroup s k = some g ∧ tileTurn s k = true ∧ gpOutAddr
    k.desc = 0 :=
  ⟨withPod { up := true, inReset := false, groups := [group] } (withTasks [task opGClose [(64, 5)]]), 7,
    task opGClose [(64, 5)], group, by decide +kernel⟩

theorem wit_Groups_5 :
    ∃ s : State, ∃ n k g, liveTask s n opGClose = some k ∧ closingGroup s k = some g ∧ tileTurn s k = true ∧ gpOutAddr
    k.desc ≠ 0 ∧ (closeTiles k g g.count 0 s).2 = none :=
  ⟨withPod { up := true, inReset := false, groups := [group] } (withTasks [task opGClose [(64, 5), (192, 2 ^ 60 + 2 ^ 34 - 1024)]]),
    7, task opGClose [(64, 5), (192, 2 ^ 60 + 2 ^ 34 - 1024)], group, by decide +kernel⟩

theorem wit_Groups_6 :
    ∃ s : State, ∃ n k g, ∃ bs : List Byte, liveTask s n opGClose = some k ∧ closingGroup s k = some g ∧ tileTurn s k
    = true ∧ gpOutAddr k.desc ≠ 0 ∧ g.count = 1 ∧ gpFuseOp k.desc = 0 ∧ streamSlot s k (gpPod k.desc) 3 = .system ∧
    chansUp s ∧ bs = (exportRow (gpOutFmt k.desc) (tileVec s (gpPod k.desc) g.kind g.first)).bytes ∧ accessFlt s
    (gpOutAddr k.desc) bs.length = none :=
  ⟨withPod { up := true, inReset := false, groups := [group] } (withTasks [task opGClose [(64, 5), (192, 2 ^ 60 + 2 ^ 34 - 1024)]]),
    7, task opGClose [(64, 5), (192, 2 ^ 60 + 2 ^ 34 - 1024)], group,
    (exportRow (gpOutFmt (task opGClose [(64, 5), (192, 2 ^ 60 + 2 ^ 34 - 1024)]).desc) (tileVec (withPod { up := true, inReset := false, groups := [group] } (withTasks [task opGClose [(64, 5), (192, 2 ^ 60 + 2 ^ 34 - 1024)]])) (gpPod (task opGClose [(64, 5), (192, 2 ^ 60 + 2 ^ 34 - 1024)]).desc) group.kind group.first)).bytes,
    by unfold chansUp; decide +kernel⟩

/-! ### TilesAndSprouts -/

theorem wit_TilesAndSprouts_1 :
    ∃ s : State, ∃ n k, liveTask s n opTRead = some k ∧ tileTurn s k = true ∧ gpCount k.desc = 1 ∧ streamSlot s k
    (tilePod (gpFirst k.desc)) 6 = .system ∧ chansUp s ∧ accessFlt s (firstWord k.desc) 1024 = none ∧ accessFlt s
    (tlAddr k.desc) 1024 = none :=
  ⟨withTasks [task opTRead [(104, 1), (128, 2 ^ 60 + 2 ^ 34 - 1024)]], 7,
    task opTRead [(104, 1), (128, 2 ^ 60 + 2 ^ 34 - 1024)], by unfold chansUp; decide +kernel⟩

theorem wit_TilesAndSprouts_2 :
    ∃ s : State, ∃ n k, liveTask s n opTWrite = some k ∧ tileTurn s k = true ∧ gpCount k.desc = 1 ∧ streamSlot s k
    (tilePod (gpFirst k.desc)) 6 = .system ∧ chansUp s ∧ accessFlt s (firstWord k.desc) 1024 = none ∧ accessFlt s
    (tlAddr k.desc) 1024 = none :=
  ⟨withTasks [task opTWrite [(104, 1), (128, 2 ^ 60 + 2 ^ 34 - 1024)]], 7,
    task opTWrite [(104, 1), (128, 2 ^ 60 + 2 ^ 34 - 1024)], by unfold chansUp; decide +kernel⟩

theorem wit_TilesAndSprouts_3 :
    ∃ s : State, ∃ n k, liveTask s n opTRead = some k ∧ tileTurn s k = true ∧ (copyStream k (tilePod (gpFirst k.desc))
    6 (firstWord k.desc) (tlAddr k.desc) (gpCount k.desc) 1024 1024 s).2 = none :=
  ⟨withTasks [task opTRead [(104, 1), (128, 2 ^ 60 + 2 ^ 34 - 1024)]], 7,
    task opTRead [(104, 1), (128, 2 ^ 60 + 2 ^ 34 - 1024)], by decide +kernel⟩

theorem wit_TilesAndSprouts_4 :
    ∃ s : State, ∃ n k, liveTask s n opTWrite = some k ∧ tileTurn s k = true ∧ (copyStream k (tilePod (gpFirst
    k.desc)) 6 (tlAddr k.desc) (firstWord k.desc) (gpCount k.desc) 1024 1024 s).2 = none :=
  ⟨withTasks [task opTWrite [(104, 1), (128, 2 ^ 60 + 2 ^ 34 - 1024)]], 7,
    task opTWrite [(104, 1), (128, 2 ^ 60 + 2 ^ 34 - 1024)], by decide +kernel⟩

theorem wit_TilesAndSprouts_5 :
    ∃ s : State, ∃ n k a, liveTask s n opZero = some k ∧ gpCount k.desc ≠ 0 ∧ tileTurn s k = true ∧ a = tileKey
    (awAddr (firstWord k.desc)) :=
  ⟨withTasks [task opZero [(104, 1)]], 7, task opZero [(104, 1)],
    tileKey (awAddr (firstWord (task opZero [(104, 1)]).desc)), by decide +kernel⟩

theorem wit_TilesAndSprouts_6 :
    ∃ s : State, ∃ n k a, liveTask s n opZero = some k ∧ gpCount k.desc = 0 ∧ awSpace (tlAddr k.desc) = 1 ∧ chansUp s
    ∧ accessFlt s (tlAddr k.desc) (tlLength k.desc) = none ∧ a = awAddr (tlAddr k.desc) :=
  ⟨withTasks [task opZero [(128, 2 ^ 60 + 2 ^ 34 - 64), (192, 64)]], 7,
    task opZero [(128, 2 ^ 60 + 2 ^ 34 - 64), (192, 64)],
    awAddr (tlAddr (task opZero [(128, 2 ^ 60 + 2 ^ 34 - 64), (192, 64)]).desc),
    by unfold chansUp; decide +kernel⟩

theorem wit_TilesAndSprouts_7 :
    ∃ s : State, ∃ n k, liveTask s n opZero = some k ∧ gpCount k.desc = 0 ∧ awSpace (tlAddr k.desc) = 2 ∧ accessFlt s
    (tlAddr k.desc) (tlLength k.desc) = none :=
  ⟨withTasks [task opZero [(128, 2 ^ 61 + 2 ^ 20 - 128), (192, 128)]], 7,
    task opZero [(128, 2 ^ 61 + 2 ^ 20 - 128), (192, 128)], by decide +kernel⟩

theorem wit_TilesAndSprouts_8 :
    ∃ s : State, ∃ n k ws, liveTask s n opSprout = some k ∧ 1 ≤ spLength k.desc ∧ spLength k.desc ≤ 64 ∧ accessFlt s
    (spSrc k.desc) (8 * spLength k.desc) = none ∧ ws = imageWords (spLength k.desc) (loadAw s (spSrc k.desc) (8 *
    spLength k.desc)) ∧ imageOk (spHash k.desc) (spAll k.desc) (spSlot k.desc) ws = true ∧ slotRunning s n (spHash
    k.desc) (spSlot k.desc) = false :=
  ⟨{ withTasks [task opSprout [(64, 63), (80, 1), (128, 2 ^ 60 + 4096)]] with mem := { gddr := [(4103, 0xFC)] } },
    7, task opSprout [(64, 63), (80, 1), (128, 2 ^ 60 + 4096)],
    imageWords (spLength (task opSprout [(64, 63), (80, 1), (128, 2 ^ 60 + 4096)]).desc) (loadAw ({ withTasks [task opSprout [(64, 63), (80, 1), (128, 2 ^ 60 + 4096)]] with mem := { gddr := [(4103, 0xFC)] } }) (spSrc (task opSprout [(64, 63), (80, 1), (128, 2 ^ 60 + 4096)]).desc) (8 * spLength (task opSprout [(64, 63), (80, 1), (128, 2 ^ 60 + 4096)]).desc)),
    by decide +kernel⟩

theorem wit_TilesAndSprouts_9 :
    ∃ s : State, ∃ n k, liveTask s n opSprout = some k ∧ (spLength k.desc = 0 ∨ 64 < spLength k.desc) ∧ canEnd k =
    true :=
  ⟨withTasks [task opSprout [(64, 63), (80, 65), (128, 2 ^ 60 + 4096)]], 7,
    task opSprout [(64, 63), (80, 65), (128, 2 ^ 60 + 4096)], by decide +kernel⟩

/-! ### Admissions -/

theorem wit_Admissions_1 :
    ∃ s : State, ∃ u : State, ∃ k, u = settleTime s ∧ admitting s = true ∧ (inOrder (candidates u)).find? (fun k =>
    verdict u k != .pass) = some k ∧ verdict u k = .enter ∧ tileCheck u k = none ∧ trainFlt u k = none ∧ dOp k.desc ≠
    opGOpen ∧ groupOfTask k.desc = none ∧ pairOf u k = none ∧ getTask u k.id = some k :=
  ⟨opened (task opNop []), opened (task opNop []), { task opNop [] with phase := .fetched }, by decide +kernel⟩

theorem wit_Admissions_2 :
    ∃ s : State, ∃ u : State, ∃ k, u = settleTime s ∧ admitting s = true ∧ (inOrder (candidates u)).find? (fun k =>
    verdict u k != .pass) = some k ∧ verdict u k = .enter ∧ tileCheck u k = none ∧ trainFlt u k = none ∧ dOp k.desc =
    opGOpen ∧ pairOf u k = none :=
  ⟨opened (task opGOpen [(104, 1)]), opened (task opGOpen [(104, 1)]),
    { task opGOpen [(104, 1)] with phase := .fetched }, by decide +kernel⟩

theorem wit_Admissions_3 :
    ∃ s : State, ∃ u : State, ∃ k pod n, u = settleTime s ∧ admitting s = true ∧ (inOrder (candidates u)).find? (fun k
    => verdict u k != .pass) = some k ∧ verdict u k = .enter ∧ tileCheck u k = none ∧ trainFlt u k = none ∧ dOp k.desc
    ≠ opGOpen ∧ groupOfTask k.desc = some (pod, n) ∧ pairOf u k = none :=
  ⟨withPod { up := true, inReset := false, groups := [{ group with closer := none }] } (opened (task opTRead [(64, 5), (72, 1), (104, 1)])),
    withPod { up := true, inReset := false, groups := [{ group with closer := none }] } (opened (task opTRead [(64, 5), (72, 1), (104, 1)])),
    { task opTRead [(64, 5), (72, 1), (104, 1)] with phase := .fetched }, 0, 5, by decide +kernel⟩

theorem wit_Admissions_4 :
    ∃ s : State, ∃ u : State, ∃ k, u = settleTime s ∧ admitting s = true ∧ (inOrder (candidates u)).find? (fun k =>
    verdict u k != .pass) = some k ∧ verdict u k = .abort ∧ getTask u k.id = some k ∧ canEnd k = true :=
  ⟨{ withTasks [{ task opNop [(18, 1)] with phase := .fetched, cost := 10 ^ 9 }] with fsu := { pass := true } },
    { withTasks [{ task opNop [(18, 1)] with phase := .fetched, cost := 10 ^ 9 }] with fsu := { pass := true } },
    { task opNop [(18, 1)] with phase := .fetched, cost := 10 ^ 9 }, by decide +kernel⟩

theorem wit_Admissions_5 :
    ∃ s : State, ∃ u : State, ∃ k, u = settleTime s ∧ admitting s = true ∧ (inOrder (candidates u)).find? (fun k =>
    verdict u k != .pass) = some k ∧ verdict u k = .noGroup ∧ getTask u k.id = some k ∧ canEnd k = true :=
  ⟨opened (task opGClose [(64, 5)]), opened (task opGClose [(64, 5)]),
    { task opGClose [(64, 5)] with phase := .fetched }, by decide +kernel⟩

theorem wit_Admissions_6 :
    ∃ s : State, ∃ u : State, u = settleTime s ∧ admitting s = true ∧ (∀ k ∈ candidates u, verdict u k = .pass) :=
  ⟨withPod { up := true, inReset := false } { withTasks [{ task opNop [] with phase := .fetched, cost := 10 ^ 9 }] with fsu := { pass := true, charged := List.range 49 } },
    withPod { up := true, inReset := false } { withTasks [{ task opNop [] with phase := .fetched, cost := 10 ^ 9 }] with fsu := { pass := true, charged := List.range 49 } },
    by decide +kernel⟩

/-! ### BagsTakeIndices -/

theorem wit_BagsTakeIndices_1 :
    ∃ s : State, ∃ pod k x base n c, podOn s pod [3, 6] = true ∧ nextStart s pod = some (k, x) ∧ streamReady s k pod 0
    = true ∧ bagSpan s k pod x.bag = .ok (base, n) ∧ dOp k.desc ≠ opUpdate ∧ hqOk (getPod s pod).hq0 = true ∧
    carrelRun (getPod s pod) (bagCarrels (sdDim k.shard0)) = some c ∧ hqFull (getPod s pod).hq0 = false ∧ treeUse
    (getPod s pod) + bagTree (dPool k.desc) (sdDim k.shard0) n ≤ 4096 :=
  ⟨podTask {} (look), 0, look, { bag := 0, pod := 0 }, 0, 1, 0, by decide +kernel⟩

theorem wit_BagsTakeIndices_2 :
    ∃ s : State, ∃ pod k x base n, podOn s pod [3, 6] = true ∧ nextStart s pod = some (k, x) ∧ streamReady s k pod 0 =
    true ∧ bagSpan s k pod x.bag = .ok (base, n) ∧ dOp k.desc = opUpdate :=
  ⟨podTask {} (look opUpdate), 0, look opUpdate, { bag := 0, pod := 0 }, 0, 1, by decide +kernel⟩

theorem wit_BagsTakeIndices_3 :
    ∃ s : State, ∃ pod n bag k b e, indexTurn s pod n bag k b ∧ bagEntry s k pod bag b.base b.taken = .ok e ∧ e.row =
    none :=
  ⟨podTask { bags := [bag []] } (look opLookup [(256, 1)]), 0, 7, 0, look opLookup [(256, 1)], bag [],
    { pos := 0, row := none, weight := 0x3F800000 }, by unfold indexTurn; decide +kernel⟩

theorem wit_BagsTakeIndices_4 :
    ∃ s : State, ∃ pod n bag k b e row x, indexTurn s pod n bag k b ∧ bagEntry s k pod bag b.base b.taken = .ok e ∧
    e.row = some row ∧ cached s (shardIndex (dirAt s (dTable k.desc)) (shardOf (dirAt s (dTable k.desc)) row)) = some
    x ∧ shardFlt k (dTable k.desc) x = none :=
  ⟨podTask { bags := [bag []] } look, 0, 7, 0, look, bag [], { pos := 0, row := some 9, weight := 0x3F800000 },
    9, shard, by unfold indexTurn; decide +kernel⟩

theorem wit_BagsTakeIndices_5 :
    ∃ s : State, ∃ pod n bag k b e row i, indexTurn s pod n bag k b ∧ bagEntry s k pod bag b.base b.taken = .ok e ∧
    e.row = some row ∧ i = shardIndex (dirAt s (dTable k.desc)) (shardOf (dirAt s (dTable k.desc)) row) ∧ cached s i =
    none ∧ s.cat.misses.length < 512 :=
  ⟨{ podTask { bags := [bag []] } look with cat := { dir := [(6, dir)], misses := List.range 511 } }, 0, 7, 0,
    look, bag [], { pos := 0, row := some 9, weight := 0x3F800000 }, 9,
    shardIndex (dirAt ({ podTask { bags := [bag []] } look with cat := { dir := [(6, dir)], misses := List.range 511 } }) (dTable look.desc)) (shardOf (dirAt ({ podTask { bags := [bag []] } look with cat := { dir := [(6, dir)], misses := List.range 511 } }) (dTable look.desc)) 9),
    by unfold indexTurn; decide +kernel⟩

theorem wit_BagsTakeIndices_6 :
    ∃ s : State, ∃ pod n bag k b e g, gradTurn s pod n bag k b ∧ bagEntry s k pod bag b.base b.taken = .ok e ∧ (e.row
    = none → sdDefault k.shard0 = 2) ∧ gradRow s k pod bag b.base b.taken = .ok g :=
  ⟨{ podTask { bags := [bag []] } (look opUpdate) with gau := { streams := [(112, 8)] } }, 0, 7, 0,
    look opUpdate, bag [], { pos := 0, row := some 9, weight := 0x3F800000 }, List.replicate 8 0,
    by unfold gradTurn; decide +kernel⟩

theorem wit_BagsTakeIndices_7 :
    ∃ s : State, ∃ pod n bag k, ∃ b : Machine.Bag, ∃ e : WinEntry, ∃ g : List F32, gradTurn s pod n bag k b ∧ bagEntry
    s k pod bag b.base b.taken = .ok e ∧ e.row = none ∧ sdDefault k.shard0 ≠ 2 ∧ gradRow s k pod bag b.base b.taken =
    .ok g :=
  ⟨{ withPod { up := true, inReset := false, bags := [bag []] } (withTable [] (withTasks [look opUpdate [(256, 10)]])) with gau := { streams := [(112, 8)] } },
    0, 7, 0, look opUpdate [(256, 10)], bag [], { pos := 0, row := none, weight := 0x3F800000 },
    List.replicate 8 0, by unfold gradTurn; decide +kernel⟩

theorem wit_BagsTakeIndices_8 :
    ∃ s : State, ∃ i x, i ∈ s.cat.misses ∧ gated s 1 = false ∧ gddrHeld s (descAddr s i) = false ∧ x = BitVec.ofNat
    512 (leNat (gddrLoad s (descAddr s i) 64)) ∧ (∀ b k, bagTask s b = some k → shardFlt k (dTable k.desc) x = none)
    :=
  by
  refine ⟨{ up with cat := { misses := [5] } }, 5,
    BitVec.ofNat 512 (leNat (gddrLoad ({ up with cat := { misses := [5] } }) (descAddr ({ up with cat := { misses := [5] } }) 5) 64)),
    ?_, ?_, ?_, rfl, fun b k h => by
      cases (show (none : Option Machine.Task) = some k from h)⟩ <;> decide +kernel

theorem wit_BagsTakeIndices_9 :
    ∃ s : State, ∃ pod n bag k b, bagTask s n = some k ∧ getBag s pod n bag = some b ∧ b.window ≠ [] ∧ segSize b.n
    (b.taken - 1) ≤ b.window.length ∧ b.parked = [] ∧ podOn s pod [2, 3] = true ∧ dOp k.desc ≠ opUpdate :=
  ⟨podTask { bags := [{ bag [] with taken := 1, window := [{ pos := 0, row := some 9, weight := 0x3F800000 }] }] } look,
    0, 7, 0, look, { bag [] with taken := 1, window := [{ pos := 0, row := some 9, weight := 0x3F800000 }] },
    by decide +kernel⟩

/-! ### ReadsIssue -/

theorem wit_ReadsIssue_1 :
    ∃ s : State, ∃ v : State, ∃ pod tier, ∃ k : Machine.Task, ∃ r : ReadRec, ∃ w : Want, ∃ x : BitVec 512, ∃ idx,
    issues s v pod tier k r w x ∧ w.space = 2 ∧ idx = shardIndex (dirAt s (dTable k.desc)) (sdShard x) :=
  by
  refine ⟨podTask { bags := [bag [leafAt]], reads := [depRead 0 2] } look,
    placed 0 (depRead 0 2) (⟨1, 0, 2, 0, 32⟩) (shard) (podTask { bags := [bag [leafAt]], reads := [depRead 0 2] } look),
    0, 0, look, depRead 0 2, ⟨1, 0, 2, 0, 32⟩, shard, 0,
    ⟨⟨?_, ?_, ?_, ?_, leafAt, false, ?_, ?_, by decide⟩, rfl, ?_, ?_⟩, rfl, ?_⟩ <;> decide +kernel

theorem wit_ReadsIssue_2 :
    ∃ s : State, ∃ v : State, ∃ pod tier, ∃ k : Machine.Task, ∃ r : ReadRec, ∃ w : Want, ∃ x : BitVec 512, issues s v
    pod tier k r w x ∧ w.space = 3 :=
  by
  refine ⟨podTask { bags := [bag [leafAt]], reads := [depRead 0 3] } look,
    placed 0 (depRead 0 3) (⟨1, 0, 3, 0, 32⟩) (shard) (podTask { bags := [bag [leafAt]], reads := [depRead 0 3] } look),
    0, 0, look, depRead 0 3, ⟨1, 0, 3, 0, 32⟩, shard,
    ⟨⟨?_, ?_, ?_, ?_, leafAt, false, ?_, ?_, by decide⟩, rfl, ?_, ?_⟩, rfl⟩ <;> decide +kernel

theorem wit_ReadsIssue_3 :
    ∃ s : State, ∃ v : State, ∃ pod tier, ∃ k : Machine.Task, ∃ r : ReadRec, ∃ w : Want, ∃ x : BitVec 512, ∃ dst,
    issues s v pod tier k r w x ∧ w.space = 4 ∧ dst = (if w.kind = 3 then defaultHome s (dTable k.desc) else sdHome x)
    ∧ readRoom s dst :=
  by
  refine ⟨withPod { up := true, inReset := false, bags := [bag [farLeaf]], reads := [depRead 4 4] } (withTable [] (withTasks [look] reach)),
    placed 0 (depRead 4 4) (⟨1, 4, 4, 0, 32⟩) (farLeaf.desc) (withPod { up := true, inReset := false, bags := [bag [farLeaf]], reads := [depRead 4 4] } (withTable [] (withTasks [look] reach))),
    0, 4, look, depRead 4 4, ⟨1, 4, 4, 0, 32⟩, farLeaf.desc, 1,
    ⟨⟨?_, ?_, ?_, ?_, farLeaf, false, ?_, ?_, by decide⟩, rfl, ?_, ?_⟩, rfl, ?_, ⟨by unfold cellRoom; decide +kernel, credited_all _ _ _ (by decide +kernel)⟩⟩ <;> decide +kernel

theorem wit_ReadsIssue_4 :
    ∃ s : State, ∃ v : State, ∃ pod tier, ∃ k : Machine.Task, ∃ r : ReadRec, ∃ w : Want, ∃ x : BitVec 512, ∃ la y, ∃ c
    : Line, issues s v pod tier k r w x ∧ w.space < 2 ∧ linesOf w.addr w.len = [la] ∧ s.stk.sweeps = [] ∧ findLine s
    pod (searchWays s pod 0) (if w.space = 1 then 0 else 1) la = some (y, c) :=
  by
  refine ⟨podTask { bags := [bag [leafAt]], reads := [depRead 2 1], slice := { lines := [(lineKey 9 0, { tier := 0, addr := 0, data := [] })] } } look,
    placed 0 (depRead 2 1) (⟨1, 2, 1, 0, 32⟩) (shard) (podTask { bags := [bag [leafAt]], reads := [depRead 2 1], slice := { lines := [(lineKey 9 0, { tier := 0, addr := 0, data := [] })] } } look),
    0, 2, look, depRead 2 1, ⟨1, 2, 1, 0, 32⟩, shard, 0, 9, { tier := 0, addr := 0, data := [] },
    ⟨⟨?_, ?_, ?_, ?_, leafAt, false, ?_, ?_, by decide⟩, rfl, ?_, ?_⟩, ?_, ?_, ?_, ?_⟩ <;> decide +kernel

theorem wit_ReadsIssue_5 :
    ∃ s : State, ∃ v : State, ∃ pod tier, ∃ k : Machine.Task, ∃ r : ReadRec, ∃ w : Want, ∃ x : BitVec 512, ∃ la m,
    issues s v pod tier k r w x ∧ w.space < 2 ∧ linesOf w.addr w.len = [la] ∧ s.stk.sweeps = [] ∧ m = (if w.space = 1
    then 0 else 1) ∧ findLine s pod (searchWays s pod 0) m la = none ∧ weedLine s pod m la = none ∧ slipFor s pod m la
    = none ∧ (getSlice s pod).slips.length < 1024 ∧ chanFull s m la = false ∧ sdPrefetch x = false :=
  by
  refine ⟨podTask { bags := [bag [leafAt]], reads := [depRead 2 1] } look,
    placed 0 (depRead 2 1) (⟨1, 2, 1, 0, 32⟩) (shard) (podTask { bags := [bag [leafAt]], reads := [depRead 2 1] } look),
    0, 2, look, depRead 2 1, ⟨1, 2, 1, 0, 32⟩, shard, 0, 0,
    ⟨⟨?_, ?_, ?_, ?_, leafAt, false, ?_, ?_, by decide⟩, rfl, ?_, ?_⟩, ?_, ?_, ?_, ?_, ?_, ?_, ?_, ?_, ?_, ?_⟩ <;> decide +kernel

theorem wit_ReadsIssue_6 :
    ∃ s : State, ∃ pod tier, ∃ k : Machine.Task, ∃ r : ReadRec, ∃ w : Want, ∃ x : BitVec 512, issueTurn s pod tier k r
    w x ∧ w.tier ≠ r.tier :=
  by
  refine ⟨podTask { bags := [bag [leafAt]], reads := [read] } look, 0, 0, look, read, ⟨1, 2, 1, 2 ^ 32 + 288, 32⟩,
    shard, ⟨?_, ?_, ?_, ?_, leafAt, false, ?_, ?_, by decide⟩, ?_⟩ <;> decide +kernel

theorem wit_ReadsIssue_7 :
    ∃ s : State, ∃ v : State, ∃ pod tier, ∃ k : Machine.Task, ∃ r : ReadRec, ∃ w : Want, ∃ x : BitVec 512, issueTurn s
    pod tier k r w x ∧ v = placed pod r w x s ∧ w.tier = r.tier ∧ odGet s (odGauBudgetStacks + w.tier) < slotUse
    (getPod v pod) w.tier + cdiv w.len (tierGrain w.tier) :=
  by
  refine ⟨podTask { bags := [bag [leafAt]], reads := [depRead 2 1, { read with id := 4, tier := 2, issued := true, slots := 2 ^ 32 }] } look,
    placed 0 (depRead 2 1) (⟨1, 2, 1, 0, 32⟩) (shard) (podTask { bags := [bag [leafAt]], reads := [depRead 2 1, { read with id := 4, tier := 2, issued := true, slots := 2 ^ 32 }] } look),
    0, 2, look, depRead 2 1, ⟨1, 2, 1, 0, 32⟩, shard,
    ⟨?_, ?_, ?_, ?_, leafAt, false, ?_, ?_, by decide⟩, rfl, ?_, ?_⟩ <;> decide +kernel

theorem wit_ReadsIssue_8 :
    ∃ s : State, ∃ pod n, ∃ c : Slip, (getSlice s pod).slips.find? (fun c => c.n == n) = some c ∧ (c.tier = 1 →
    hostHeld s = false) ∧ (c.tier = 0 → gddrHeld s c.addr = false) ∧ gated s 4 = false ∧ (∀ p, ∀ r ∈ (getPod s
    p).reads, r.hold = []) ∧ c.stale = true ∧ c.after = [] :=
  by
  refine ⟨withPod { up := true, inReset := false, slice := { slips := [{ slip with stale := true }] } }, 0, 4,
    { slip with stale := true }, ?_, ?_, ?_, ?_, no_holds (by decide +kernel), ?_, ?_⟩ <;> decide +kernel

theorem wit_ReadsIssue_9 :
    ∃ s : State, ∃ pod n c w, (getSlice s pod).slips.find? (fun c => c.n == n) = some c ∧ (c.tier = 1 → hostHeld s =
    false) ∧ (c.tier = 0 → gddrHeld s c.addr = false) ∧ gated s 4 = false ∧ (∀ p, ∀ r ∈ (getPod s p).reads, r.hold =
    []) ∧ s.stk.sweeps = [] ∧ c.stale = false ∧ weedFull s pod c.cls c.addr = false ∧ victimWay s pod (lineSet c.addr)
    (fillWays s pod c.cls) = some w :=
  by
  refine ⟨withPod { up := true, inReset := false, slice := { slips := [slip] } }, 0, 4, slip, 0,
    ?_, ?_, ?_, ?_, no_holds (by decide +kernel), ?_, ?_, ?_, ?_⟩ <;> decide +kernel

/-! ### RowsArriveAndPool -/

theorem wit_RowsArriveAndPool_1 :
    ∃ s : State, ∃ n pod r, findRead s n = some (pod, r) ∧ readWhole r = true ∧ bagTask s r.task = none :=
  ⟨withPod { up := true, inReset := false, reads := [{ read with issued := true, got := [(0, [])] }] }, 3, 0,
    { read with issued := true, got := [(0, [])] }, by decide +kernel⟩

theorem wit_RowsArriveAndPool_2 :
    ∃ s : State, ∃ n pod r k b l, findRead s n = some (pod, r) ∧ readWhole r = true ∧ bagTask s r.task = some k ∧
    getBag s pod r.task r.bag = some b ∧ b.leaves[r.leaf]? = some l ∧ (r.space < 2 → tierFlt s (if r.space = 1 then 0
    else 1) r.addr r.len = none) ∧ pairRead s (leafPlace s k l).1 r l = false ∧ r.kind = 1 ∧ (sdShelved l.desc = true
    → folio s ≤ l.markFolio + 1) ∧ rowMalformed l.desc (readBytes r) = false ∧ rowEscapes l.desc (readBytes r) = 0 :=
  ⟨podTask { bags := [bag [leafAt]], reads := [{ read with space := 3, issued := true, got := [(0, List.replicate 32 1)] }] } look,
    3, 0, { read with space := 3, issued := true, got := [(0, List.replicate 32 1)] }, look, bag [leafAt], leafAt,
    by decide +kernel⟩

theorem wit_RowsArriveAndPool_3 :
    ∃ s : State, ∃ n pod r k b l, findRead s n = some (pod, r) ∧ readWhole r = true ∧ bagTask s r.task = some k ∧
    getBag s pod r.task r.bag = some b ∧ b.leaves[r.leaf]? = some l ∧ (r.space < 2 → tierFlt s (if r.space = 1 then 0
    else 1) r.addr r.len = none) ∧ r.kind = 0 ∧ smTier (leNat (readBytes r)) < 2 :=
  ⟨podTask { bags := [bag [leafAt]], reads := [{ read with kind := 0, space := 1, len := 8, issued := true, got := [(0, List.replicate 128 0)] }] } look,
    3, 0, { read with kind := 0, space := 1, len := 8, issued := true, got := [(0, List.replicate 128 0)] }, look,
    bag [leafAt], leafAt, by decide +kernel⟩

theorem wit_RowsArriveAndPool_4 :
    ∃ s : State, ∃ pod n k b l b', bagTask s n = some k ∧ getBag s pod n b.bag = some b ∧ podOn s pod [6, 8] = true ∧
    dOp k.desc ≠ opUpdate ∧ hqOk (getPod s pod).hq0 = true ∧ hqOk (getPod s pod).hq1 = true ∧ (∀ h ∈ (getPod s
    pod).hq0.items, h.st ≠ .aborted) ∧ b.leaves[b.pooled]? = some l ∧ l.stage = 2 ∧ cbHeld (getPod s pod) (cbNeed
    l.desc) = true ∧ b' = poolInto (dPool k.desc) l (poolVec (getPod s pod) l) b ∧ dPool k.desc ≠ 6 ∧ bagEnds b' =
    false :=
  ⟨podTask { bags := [{ bag [{ leafAt with stage := 2, data := List.replicate 32 0 }] with n := 2, taken := 1 }] } look,
    0, 7, look, { bag [{ leafAt with stage := 2, data := List.replicate 32 0 }] with n := 2, taken := 1 },
    { leafAt with stage := 2, data := List.replicate 32 0 },
    poolInto (dPool look.desc) ({ leafAt with stage := 2, data := List.replicate 32 0 }) (poolVec (getPod (podTask { bags := [{ bag [{ leafAt with stage := 2, data := List.replicate 32 0 }] with n := 2, taken := 1 }] } look) 0) ({ leafAt with stage := 2, data := List.replicate 32 0 })) ({ bag [{ leafAt with stage := 2, data := List.replicate 32 0 }] with n := 2, taken := 1 }),
    by decide +kernel⟩

theorem wit_RowsArriveAndPool_5 :
    ∃ s : State, ∃ u : State, ∃ pod n k b r, bagTask s n = some k ∧ getBag s pod n b.bag = some b ∧ podOn s pod [6, 8]
    = true ∧ dOp k.desc ≠ opUpdate ∧ hqOk (getPod s pod).hq0 = true ∧ hqOk (getPod s pod).hq1 = true ∧ bagEnds b =
    true ∧ mayFinish s k pod b = true ∧ dPool k.desc ≠ 6 ∧ takeOpen pod n b.bag s = some u ∧ finishFuse u k pod b.bag
    (bagRow (getPod s pod) k b) = .ok r :=
  ⟨podTask { bags := [{ bag [leafAt] with taken := 1, pooled := 1 }] } look,
    podTask { bags := [{ bag [leafAt] with taken := 1, pooled := 1 }] } look, 0, 7, look,
    { bag [leafAt] with taken := 1, pooled := 1 }, List.replicate 8 0, by decide +kernel⟩

theorem wit_RowsArriveAndPool_6 :
    ∃ s : State, ∃ pod n k, ∃ b : Machine.Bag, ∃ l : Leaf, ∃ b' : Machine.Bag, bagTask s n = some k ∧ getBag s pod n
    b.bag = some b ∧ podOn s pod [6, 8] = true ∧ dOp k.desc ≠ opUpdate ∧ hqOk (getPod s pod).hq0 = true ∧ hqOk (getPod
    s pod).hq1 = true ∧ (∀ h ∈ (getPod s pod).hq0.items, h.st ≠ .aborted) ∧ b.leaves[b.pooled]? = some l ∧ l.stage = 2
    ∧ cbHeld (getPod s pod) (cbNeed l.desc) = true ∧ dPool k.desc = 6 ∧ b.n ≠ 0 ∧ b' = poolInto 6 l (poolVec (getPod s
    pod) l) b ∧ mayFinish s k pod b' = true :=
  ⟨podTask { bags := [{ bag [{ leafAt with stage := 2 }] with n := 2 }] } (look opLookup [(80, 6)]), 0, 7,
    look opLookup [(80, 6)], { bag [{ leafAt with stage := 2 }] with n := 2 }, { leafAt with stage := 2 },
    poolInto 6 ({ leafAt with stage := 2 }) (poolVec (getPod (podTask { bags := [{ bag [{ leafAt with stage := 2 }] with n := 2 }] } (look opLookup [(80, 6)])) 0) ({ leafAt with stage := 2 })) ({ bag [{ leafAt with stage := 2 }] with n := 2 }),
    by decide +kernel⟩

/-! ### RowsLeave -/

theorem wit_RowsLeave_1 :
    ∃ s : State, ∃ pod h rest k w, ∃ bs : List Byte, podOn s pod [8] = true ∧ hqOk (getPod s pod).hq1 = true ∧ hqOk
    (getPod s pod).hq2 = true ∧ (getPod s pod).hq2.items = [] ∧ (getPod s pod).hq1.items = h :: rest ∧ h.st = .pooled
    ∧ h.fold = false ∧ getTask s h.task = some k ∧ dToTiles k.desc = false ∧ streamSlot s k pod 3 = .system ∧ chansUp
    s ∧ w = dOutAddr k.desc + h.bag * outPitch k.desc (sdDim k.shard0) ∧ bs = (exportRow (dOutFmt k.desc) (carrelRow s
    pod h.carrel (sdDim k.shard0))).bytes ∧ accessFlt s w bs.length = none :=
  ⟨podTask { hq1 := { items := [row7] } } look, 0, row7, [], look,
    dOutAddr look.desc + row7.bag * outPitch look.desc (sdDim look.shard0),
    (exportRow (dOutFmt look.desc) (carrelRow (podTask { hq1 := { items := [row7] } } look) 0 row7.carrel (sdDim look.shard0))).bytes,
    by unfold chansUp; decide +kernel⟩

theorem wit_RowsLeave_2 :
    ∃ s : State, ∃ pod, ∃ h : Handle, ∃ rest : List Handle, ∃ k y w, ∃ bs : List Byte, podOn s pod [8] = true ∧ hqOk
    (getPod s pod).hq1 = true ∧ hqOk (getPod s pod).hq2 = true ∧ (getPod s pod).hq2.items = h :: rest ∧ h.st = .folded
    ∧ getTask s h.task = some k ∧ dToTiles k.desc = false ∧ streamSlot s k pod 3 = .system ∧ chansUp s ∧ y =
    foldScaled h.scale h.cols (capturedAcc s pod h.latch (blockWidth (dFoldN k.desc) h.block)) ∧ w = dOutAddr k.desc +
    (h.bag * outPitch k.desc (sdDim k.shard0) + (if outNarrow (dOutFmt k.desc) then h.block * outSize (dOutFmt k.desc)
    1024 else h.block * 1024 * outBits (dOutFmt k.desc) / 8)) ∧ bs = (exportRow (dOutFmt k.desc) y).bytes ∧ accessFlt
    s w bs.length = none :=
  ⟨podTask { hq2 := { items := [folded7] }, flu := { unread := 1 } } foldTask, 0, folded7, [], foldTask,
    foldScaled folded7.scale folded7.cols (capturedAcc (podTask { hq2 := { items := [folded7] }, flu := { unread := 1 } } foldTask) 0 folded7.latch (blockWidth (dFoldN foldTask.desc) folded7.block)),
    dOutAddr foldTask.desc + (folded7.bag * outPitch foldTask.desc (sdDim foldTask.shard0) + (if outNarrow (dOutFmt foldTask.desc) then folded7.block * outSize (dOutFmt foldTask.desc) 1024 else folded7.block * 1024 * outBits (dOutFmt foldTask.desc) / 8)),
    (exportRow (dOutFmt foldTask.desc) (foldScaled folded7.scale folded7.cols (capturedAcc (podTask { hq2 := { items := [folded7] }, flu := { unread := 1 } } foldTask) 0 folded7.latch (blockWidth (dFoldN foldTask.desc) folded7.block)))).bytes,
    by unfold chansUp; decide +kernel⟩

theorem wit_RowsLeave_3 :
    ∃ s : State, ∃ pod h rest k g r lin w, ∃ bs : List Byte, podOn s pod [6] = true ∧ hqOk (getPod s pod).hq1 = true ∧
    hqOk (getPod s pod).hq2 = true ∧ (getPod s pod).hq2.items = [] ∧ (getPod s pod).hq1.items = h :: rest ∧ h.st =
    .pooled ∧ h.fold = false ∧ getTask s h.task = some k ∧ dToTiles k.desc = true ∧ addTurn s k h.block none = true ∧
    addGroup s k = some g ∧ chansUp s ∧ r = carrelRow s pod h.carrel (sdDim k.shard0) ∧ lin = (outTile k.desc).first *
    1024 + dOutTileAddr k.desc % 1024 + h.block * outPitch k.desc (sdDim k.shard0) ∧ g.first * 1024 ≤ lin ∧ lin + 4 *
    r.length ≤ (g.first + g.count) * 1024 ∧ w = tileWord (outTile k.desc).pod 0 0 + lin ∧ bs = (vAdd false (fuseVec 0
    r.length (loadAw s w (4 * r.length))) r).flatMap (fun v => leBytes 4 v.toNat) :=
  ⟨podTask { hq1 := { items := [row7] }, groups := [{ group with closer := none }] } (look opLookup [(188, 2)]),
    0, row7, [], look opLookup [(188, 2)], { group with closer := none },
    carrelRow (podTask { hq1 := { items := [row7] }, groups := [{ group with closer := none }] } (look opLookup [(188, 2)])) 0 row7.carrel (sdDim (look opLookup [(188, 2)]).shard0),
    (outTile (look opLookup [(188, 2)]).desc).first * 1024 + dOutTileAddr (look opLookup [(188, 2)]).desc % 1024 + row7.block * outPitch (look opLookup [(188, 2)]).desc (sdDim (look opLookup [(188, 2)]).shard0),
    tileWord (outTile (look opLookup [(188, 2)]).desc).pod 0 0 + ((outTile (look opLookup [(188, 2)]).desc).first * 1024 + dOutTileAddr (look opLookup [(188, 2)]).desc % 1024 + row7.block * outPitch (look opLookup [(188, 2)]).desc (sdDim (look opLookup [(188, 2)]).shard0)),
    (vAdd false (fuseVec 0 (carrelRow (podTask { hq1 := { items := [row7] }, groups := [{ group with closer := none }] } (look opLookup [(188, 2)])) 0 row7.carrel (sdDim (look opLookup [(188, 2)]).shard0)).length (loadAw (podTask { hq1 := { items := [row7] }, groups := [{ group with closer := none }] } (look opLookup [(188, 2)])) (tileWord (outTile (look opLookup [(188, 2)]).desc).pod 0 0 + ((outTile (look opLookup [(188, 2)]).desc).first * 1024 + dOutTileAddr (look opLookup [(188, 2)]).desc % 1024 + row7.block * outPitch (look opLookup [(188, 2)]).desc (sdDim (look opLookup [(188, 2)]).shard0))) (4 * (carrelRow (podTask { hq1 := { items := [row7] }, groups := [{ group with closer := none }] } (look opLookup [(188, 2)])) 0 row7.carrel (sdDim (look opLookup [(188, 2)]).shard0)).length))) (carrelRow (podTask { hq1 := { items := [row7] }, groups := [{ group with closer := none }] } (look opLookup [(188, 2)])) 0 row7.carrel (sdDim (look opLookup [(188, 2)]).shard0))).flatMap (fun v => leBytes 4 v.toNat),
    by unfold chansUp; decide +kernel⟩

theorem wit_RowsLeave_4 :
    ∃ s : State, ∃ pod q h rest, q < 2 ∧ hqOk (hqOf (getPod s pod) q) = true ∧ (hqOf (getPod s pod) q).items = h ::
    rest ∧ h.st = .aborted :=
  ⟨podTask { hq1 := { items := [{ row7 with st := .aborted }] } } look, 0, 1, { row7 with st := .aborted }, [],
    by decide +kernel⟩

theorem wit_RowsLeave_5 :
    ∃ s : State, ∃ pod h rest, hqOk (getPod s pod).hq2 = true ∧ (getPod s pod).hq2.items = h :: rest ∧ h.st = .aborted
    :=
  ⟨podTask { hq2 := { items := [{ row7 with st := .aborted }] } } look, 0, { row7 with st := .aborted }, [],
    by decide +kernel⟩

theorem wit_RowsLeave_6 :
    ∃ s : State, ∃ pod kind aux size es, podOn s pod [8] = true ∧ cbHeld (getPod s pod) (some (kind, aux, size)) =
    false ∧ cbWanted s pod (kind, aux, size) = true ∧ gddrHeld s (32 * aux) = false ∧ cbRoom (cbLines size) (fun e =>
    !(cbInUse s pod).contains (e.kind, e.aux, e.size)) ((getPod s pod).cb.length + 1) (getPod s pod).cb = some es ∧
    tierFlt s 0 (32 * aux) size = none :=
  ⟨podTask { bags := [bag [{ leafAt with desc := shard [(296, 12), (436, 2 ^ 16)] }]] } look, 0, 0, 2 ^ 16, 32,
    [], by decide +kernel⟩

/-! ### FoldPasses -/

theorem wit_FoldPasses_1 :
    ∃ s : State, ∃ pod h rest k y, podOn s pod [7, 8] = true ∧ hqOk (getPod s pod).hq1 = true ∧ (getPod s
    pod).hq1.items = h :: rest ∧ getTask s h.task = some k ∧ h.st = .pooled ∧ h.fold = true ∧ (getPod s
    pod).flu.shadow.length < 160 ∧ foldOwned (getPod s pod) = false ∧ joinsSet s k (getPod s pod).flu.shadow = true ∧
    y = latchRow (dInBits k.desc) (carrelRow s pod h.carrel (sdDim k.shard0)) :=
  ⟨podTask { hq1 := { items := [{ row7 with fold := true }] } } foldTask, 0, { row7 with fold := true }, [],
    foldTask,
    latchRow (dInBits foldTask.desc) (carrelRow (podTask { hq1 := { items := [{ row7 with fold := true }] } } foldTask) 0 ({ row7 with fold := true }).carrel (sdDim foldTask.shard0)),
    by decide +kernel⟩

theorem wit_FoldPasses_2 :
    ∃ s : State, ∃ pod, podOn s pod [7] = true ∧ (getPod s pod).flu.running = false ∧ (getPod s pod).flu.active = [] ∧
    passReady s pod = true :=
  ⟨podTask { flu := { shadow := [latch7], h0 := { tag := some (foldTag foldTask) }, expired := true } } { foldTask with wLoaded := true },
    0, by decide +kernel⟩

theorem wit_FoldPasses_3 :
    ∃ s : State, ∃ pod, podOn s pod [7] = true ∧ (getPod s pod).flu.running = false ∧ (getPod s pod).flu.active = [] ∧
    (getPod s pod).flu.shadow ≠ [] ∧ foldOwned (getPod s pod) = false ∧ (∀ k ∈ setTasks s (getPod s pod).flu.shadow,
    k.err.isSome = true ∨ (k.wLoaded = true ∧ (halfOf (getPod s pod) (dBufHalf k.desc)).tag = some (foldTag k))) :=
  ⟨podTask { flu := { shadow := [latch7], h0 := { tag := some (foldTag foldTask) } } } { foldTask with wLoaded := true },
    0, by decide +kernel⟩

theorem wit_FoldPasses_4 :
    ∃ s : State, ∃ pod, (getPod s pod).flu.running = true ∧ (getPod s pod).flu.shadow ≠ [] :=
  ⟨podTask { flu := { running := true, shadow := [latch7] } } foldTask, 0, by decide +kernel⟩

theorem wit_FoldPasses_5 :
    ∃ s : State, ∃ pod f half hs, f = (getPod s pod).flu ∧ half = halfOf (getPod s pod) ((f.cfg.map (·.1)).getD 0) ∧
    hs = foldedHandles s pod f.block f.active ∧ hqOk (getPod s pod).hq2 = true ∧ f.running = true ∧ f.unread = 0 ∧
    scalesHere s pod f.active = true ∧ (getPod s pod).hq2.items.length + hs.length ≤ 256 ∧ podOn s pod [7] = true :=
  ⟨podTask { flu := { running := true, active := [latch7], cfg := some (0, (0, 2, 8, 8), 0, 0), scales := [(7, List.replicate 8 0)] } } foldTask,
    0,
    (getPod (podTask { flu := { running := true, active := [latch7], cfg := some (0, (0, 2, 8, 8), 0, 0), scales := [(7, List.replicate 8 0)] } } foldTask) 0).flu,
    halfOf (getPod (podTask { flu := { running := true, active := [latch7], cfg := some (0, (0, 2, 8, 8), 0, 0), scales := [(7, List.replicate 8 0)] } } foldTask) 0) ((((getPod (podTask { flu := { running := true, active := [latch7], cfg := some (0, (0, 2, 8, 8), 0, 0), scales := [(7, List.replicate 8 0)] } } foldTask) 0).flu).cfg.map (·.1)).getD 0),
    foldedHandles (podTask { flu := { running := true, active := [latch7], cfg := some (0, (0, 2, 8, 8), 0, 0), scales := [(7, List.replicate 8 0)] } } foldTask) 0 ((getPod (podTask { flu := { running := true, active := [latch7], cfg := some (0, (0, 2, 8, 8), 0, 0), scales := [(7, List.replicate 8 0)] } } foldTask) 0).flu).block ((getPod (podTask { flu := { running := true, active := [latch7], cfg := some (0, (0, 2, 8, 8), 0, 0), scales := [(7, List.replicate 8 0)] } } foldTask) 0).flu).active,
    by decide +kernel⟩

theorem wit_FoldPasses_6 :
    ∃ s : State, ∃ n k, liveTask s n opFold = some k ∧ k.wLoaded = false ∧ wordsHeld s k.desc = false ∧ (∀ p ∈
    podNums, filling (getPod s p) k = false) ∧ loadWaits s k = false ∧ loadPods s k ≠ [] :=
  ⟨podTask {} foldTask, 7, foldTask, by decide +kernel⟩

theorem wit_FoldPasses_7 :
    ∃ s : State, ∃ n k, liveTask s n opFold = some k ∧ k.wLoaded = false ∧ wordsHeld s k.desc = false ∧ (∀ p ∈
    podNums, filling (getPod s p) k = false) ∧ loadWaits s k = false ∧ loadPods s k = [] :=
  ⟨podTask { flu := { h0 := { tag := some (foldTag preFold) } } } preFold, 7, preFold, by decide +kernel⟩

theorem wit_FoldPasses_8 :
    ∃ s : State, ∃ n k q r, liveTask s n opFold = some k ∧ k.wLoaded = false ∧ wordsHeld s k.desc = false ∧ q ∈
    podNums ∧ filling (getPod s q) k = true ∧ r = runLoad k ((taskPods k).headD 0) 4 (weightActs s k ((taskPods
    k).headD 0)) s ∧ r.flt = none :=
  by
  refine ⟨podTask { flu := { h0 := { loading := [7] } } } foldTask, 7, foldTask, 0,
    runLoad foldTask ((taskPods foldTask).headD 0) 4 (weightActs (podTask { flu := { h0 := { loading := [7] } } } foldTask) foldTask ((taskPods foldTask).headD 0)) (podTask { flu := { h0 := { loading := [7] } } } foldTask),
    ?_, ?_, ?_, ?_, ?_, rfl, ?_⟩ <;> decide +kernel

/-! ### UpdateSends -/

theorem wit_UpdateSends_1 :
    ∃ s : State, ∃ pod n k e es r d, liveTask s n opUpdate = some k ∧ k.phase = .admitted ∧ k.err = none ∧ dDeep
    k.desc = false ∧ windowOf s pod n = e :: es ∧ (∀ x ∈ es, x.row = e.row) ∧ (∀ x ∈ e :: es, x.discard = false) ∧
    es.length < segmentLen ∧ e.row = some r ∧ podTaken s k pod = true ∧ windowTurn s k pod = true ∧ (∀ p, ∀ c ∈
    (getPod s p).comb, c.1 ≠ n) ∧ d = descAt s (shardIndex (dirAt s (dTable k.desc)) (shardOf (dirAt s (dTable
    k.desc)) r)) ∧ shardFlt k (dTable k.desc) d = none :=
  by
  refine ⟨podTask { uwin := [(7, [winEntry])] } upd, 0, 7, upd, winEntry, [], 9,
    descAt (podTask { uwin := [(7, [winEntry])] } upd) (shardIndex (dirAt (podTask { uwin := [(7, [winEntry])] } upd) (dTable upd.desc)) (shardOf (dirAt (podTask { uwin := [(7, [winEntry])] } upd) (dTable upd.desc)) 9)),
    ?_, ?_, ?_, ?_, ?_, ?_, ?_, ?_, ?_, ?_, ?_, (fun p c h => by rw [comb_nil (by decide +kernel)] at h; cases h), rfl, ?_⟩ <;> decide +kernel

theorem wit_UpdateSends_2 :
    ∃ s : State, ∃ pod n k g c, liveTask s n opUpdate = some k ∧ k.err = none ∧ (getPod s pod).up = true ∧ windowsDone
    s k = false ∧ (getPod s pod).combIn.find? (fun c => c.1 == n) = some (n, g) ∧ (∀ x ∈ (getPod s pod).comb, ¬ (x.1 =
    n ∧ x.2.row = g.row ∧ x.2.dflt = g.dflt)) ∧ carrelRun (getPod s pod) (bagCarrels (sdDim k.shard0)) = some c :=
  ⟨podTask { combIn := [(7, grad)] } (look opUpdate), 0, 7, look opUpdate, grad, 0, by decide +kernel⟩

theorem wit_UpdateSends_3 :
    ∃ s : State, ∃ pod n k g x, liveTask s n opUpdate = some k ∧ k.err = none ∧ (getPod s pod).up = true ∧ windowsDone
    s k = false ∧ (getPod s pod).combIn.find? (fun c => c.1 == n) = some (n, g) ∧ x ∈ (getPod s pod).comb ∧ x.1 = n ∧
    x.2.row = g.row ∧ x.2.dflt = g.dflt :=
  ⟨podTask { combIn := [(7, grad)], comb := [(7, grad)] } (look opUpdate), 0, 7, look opUpdate, grad, (7, grad),
    by decide +kernel⟩

theorem wit_UpdateSends_4 :
    ∃ s : State, ∃ n k g rest ps, liveTask s n opUpdate = some k ∧ k.err = none ∧ k.grads = g :: rest ∧ mayPack s k =
    true ∧ phFmt (entryHdr s k g.owner g.row g.dflt) = 0 ∧ ps = packEntry s k g.owner
    { row := g.row, dflt := g.dflt, data := g.g.flatMap (fun x => leBytes 4 x.toNat) } k.pendingParcels ∧ sumOf
    parcelSize ps ≤ odGet s odUpuTaskLimit * 2 ^ 20 :=
  ⟨podTask {} packing, 7, packing, grad, [],
    packEntry (podTask {} packing) packing grad.owner { row := grad.row, dflt := grad.dflt, data := grad.g.flatMap (fun x => leBytes 4 x.toNat) } packing.pendingParcels,
    by decide +kernel⟩

theorem wit_UpdateSends_5 :
    ∃ s : State, ∃ n k g rest a v e ps, liveTask s n opUpdate = some k ∧ k.err = none ∧ k.grads = g :: rest ∧ mayPack
    s k = true ∧ phFmt (entryHdr s k g.owner g.row g.dflt) = 2 ∧ residPlace s k g = some a ∧ residWaits s k g = false
    ∧ v = List.zipWith (fAdd true) g.g (residAt s k a (sdDim k.shard0)) ∧ e = exportRow 5 v ∧ ps = packEntry s k
    g.owner { row := g.row, dflt := g.dflt, data := e.bytes.take (4 + sdDim k.shard0) } k.pendingParcels ∧ sumOf
    parcelSize ps ≤ odGet s odUpuTaskLimit * 2 ^ 20 :=
  ⟨{ withOd (odUpuOpt + 2) (2 <<< 8) (podTask {} resid7) with gau := { resid := [(0, 6 + 1 <<< 16 + 2 ^ 33 <<< 64)] } },
    7, resid7, grad, [], 2 ^ 33 + 288,
    List.zipWith (fAdd true) grad.g (residAt ({ withOd (odUpuOpt + 2) (2 <<< 8) (podTask {} resid7) with gau := { resid := [(0, 6 + 1 <<< 16 + 2 ^ 33 <<< 64)] } }) resid7 (2 ^ 33 + 288) (sdDim resid7.shard0)),
    exportRow 5 (List.zipWith (fAdd true) grad.g (residAt ({ withOd (odUpuOpt + 2) (2 <<< 8) (podTask {} resid7) with gau := { resid := [(0, 6 + 1 <<< 16 + 2 ^ 33 <<< 64)] } }) resid7 (2 ^ 33 + 288) (sdDim resid7.shard0))),
    packEntry ({ withOd (odUpuOpt + 2) (2 <<< 8) (podTask {} resid7) with gau := { resid := [(0, 6 + 1 <<< 16 + 2 ^ 33 <<< 64)] } }) resid7 grad.owner { row := grad.row, dflt := grad.dflt, data := (exportRow 5 (List.zipWith (fAdd true) grad.g (residAt ({ withOd (odUpuOpt + 2) (2 <<< 8) (podTask {} resid7) with gau := { resid := [(0, 6 + 1 <<< 16 + 2 ^ 33 <<< 64)] } }) resid7 (2 ^ 33 + 288) (sdDim resid7.shard0)))).bytes.take (4 + sdDim resid7.shard0) } resid7.pendingParcels,
    by decide +kernel⟩

theorem wit_UpdateSends_6 :
    ∃ s : State, ∃ n k, getTask s n = some k ∧ k.phase = .admitted ∧ k.err = none ∧ k.released = false ∧ viaLedger k =
    true ∧ packed s k = true ∧ gated s 9 = false ∧ k.pendingParcels = [] ∧ k.resids = [] ∧ ringRoom s k = true :=
  ⟨podTask {} upd, 7, upd, by decide +kernel⟩

theorem wit_UpdateSends_7 :
    ∃ s : State, ∃ n k p o q, ∃ bs : List Byte, ∃ room m, getTask s n = some k ∧ k.phase = .admitted ∧ k.err = none ∧
    k.released = false ∧ viaLedger k = true ∧ packed s k = true ∧ gated s 9 = false ∧ k.pendingParcels = [p] ∧
    k.resids = [] ∧ epochsClear s k = true ∧ ringRoom s k = true ∧ chansUp s ∧ twinOpen s = false ∧ o = phOwner p.hdr
    ∧ q = nextSeq s o ∧ bs = parcelBytes { p with hdr := phSet p.hdr 47 0 q } ∧ room = ringSize s - s.upu.ringTail ∧ m
    = (s.upu.ringTail + bs.length) % ringSize s :=
  ⟨podTask {} ready, 7, ready, parcel, phOwner parcel.hdr, nextSeq (podTask {} ready) (phOwner parcel.hdr),
    parcelBytes { parcel with hdr := phSet parcel.hdr 47 0 (nextSeq (podTask {} ready) (phOwner parcel.hdr)) },
    ringSize (podTask {} ready) - (podTask {} ready).upu.ringTail,
    ((podTask {} ready).upu.ringTail + (parcelBytes { parcel with hdr := phSet parcel.hdr 47 0 (nextSeq (podTask {} ready) (phOwner parcel.hdr)) }).length) % ringSize (podTask {} ready),
    by unfold chansUp; decide +kernel⟩

theorem wit_UpdateSends_8 :
    ∃ s : State, ∃ owner r, owner < 1024 ∧ (retainedOf s owner).find? (fun r => !r.sent) = some r ∧ gated s 9 = false
    ∧ (∀ x ∈ retainedOf s owner, r.seq < x.seq + 256) ∧ epochTurn s r.parcel = true ∧ cellDst s owner ≠ s.sfp.engineId
    ∧ reachable s (cellDst s owner) = true ∧ twinState s ≠ 1 ∧ phOwner r.parcel.hdr = owner ∧ cellRoom s owner
    (cellsFor (parcelSize r.parcel)) :=
  ⟨{ reach with upu := { ring := [(1, kept)] } }, 1, kept, by unfold cellRoom; decide +kernel⟩

theorem wit_UpdateSends_9 :
    ∃ s : State, ∃ owner r f, retainedOf s owner = [r] ∧ r.sent = true ∧ tabFind owner s.upu.waiting = some f ∧ f +
    odGet s odUpuResendFolios ≤ folio s ∧ tabFind (owner + 1024) s.upu.waiting = none ∧ cellDst s owner ≠
    s.sfp.engineId ∧ twinState s ≠ 1 ∧ phOwner r.parcel.hdr = owner ∧ cellRoom s owner (cellsFor (parcelSize
    r.parcel)) :=
  ⟨{ reach with upu := { ring := [(1, sent)], waiting := [(1, 34)] }, fsu := { folio := 5000 } }, 1, sent, 34,
    by unfold cellRoom; decide +kernel⟩

/-! ### ParcelsArrive -/

theorem wit_ParcelsArrive_1 :
    ∃ s : State, ∃ src, ∃ bs : List Byte, ∃ p, p = readParcel s bs ∧ gated s 9 = false ∧ isMember s src = true ∧
    phSource p.hdr = src ∧ p.entries ≠ [] ∧ bs.length = parcelSize p ∧ phOwner p.hdr = s.sfp.engineId ∧ phSeq p.hdr =
    hwmOf s src + 1 ∧ inboxOf s src (phSeq p.hdr) = none ∧ inboxBytes s + parcelSize p ≤ s.upu.inboxSize * 2 ^ 20 ∧
    twinState s ≠ 1 :=
  ⟨coll, 1, bytesOf (1 + 1 <<< 48), readParcel coll (bytesOf (1 + 1 <<< 48)), by decide +kernel⟩

theorem wit_ParcelsArrive_2 :
    ∃ s : State, ∃ src, ∃ bs : List Byte, ∃ p, p = readParcel s bs ∧ gated s 9 = false ∧ isMember s src = true ∧
    phSource p.hdr = src ∧ p.entries ≠ [] ∧ bs.length = parcelSize p ∧ phOwner p.hdr = s.sfp.engineId ∧ hwmOf s src +
    1 < phSeq p.hdr ∧ phSeq p.hdr ≤ hwmOf s src + 256 ∧ inboxOf s src (phSeq p.hdr) = none ∧ inboxBytes s + parcelSize
    p ≤ s.upu.inboxSize * 2 ^ 20 :=
  ⟨coll, 1, bytesOf (256 + 1 <<< 48), readParcel coll (bytesOf (256 + 1 <<< 48)), by decide +kernel⟩

theorem wit_ParcelsArrive_3 :
    ∃ s : State, ∃ src, ∃ bs : List Byte, ∃ p j, p = readParcel s bs ∧ gated s 9 = false ∧ isMember s src = true ∧
    phSource p.hdr = src ∧ p.entries ≠ [] ∧ bs.length = parcelSize p ∧ phOwner p.hdr = s.sfp.engineId ∧ src ≠
    s.sfp.engineId ∧ phSeq p.hdr ≤ hwmOf s src ∧ hwmOf s src < phSeq p.hdr + 256 ∧ getJournal s src (phSeq p.hdr) =
    some j ∧ j.st = .applied ∧ cellRoom s src 1 :=
  ⟨{ reach with upu := { hwm := [(1, 1)], journal := [{ entry with st := .applied }] } }, 1,
    bytesOf (1 + 1 <<< 48),
    readParcel ({ reach with upu := { hwm := [(1, 1)], journal := [{ entry with st := .applied }] } }) (bytesOf (1 + 1 <<< 48)),
    { entry with st := .applied }, by unfold cellRoom; decide +kernel⟩

theorem wit_ParcelsArrive_4 :
    ∃ s : State, ∃ src p, inboxOf s src (hwmOf s src + 1) = some p ∧ phSeq p.hdr = hwmOf s src + 1 ∧ twinState s ≠ 1
    :=
  ⟨{ coll with upu := { inbox := [(1, 1, { parcel with hdr := 1 })] } }, 1, { parcel with hdr := 1 },
    by decide +kernel⟩

theorem wit_ParcelsArrive_5 :
    ∃ s : State, ∃ owner q r k, q ≠ 0 ∧ s.upu.ring.find? (fun r => r.1 == owner && r.2.seq == q) = some r ∧ r.2.fwd =
    none ∧ getTask s r.2.task = some k ∧ k.phase = .admitted ∧ k.err = none ∧ k.released = true ∧ k.unacked = 1 ∧ (∀ j
    ∈ s.upu.journal, j.st ≠ .forwarded) :=
  ⟨{ podTask {} { upd with released := true, unacked := 1 } with upu := { ring := [(1, kept)] } }, 1, 4,
    (1, kept), { upd with released := true, unacked := 1 }, by decide +kernel⟩

theorem wit_ParcelsArrive_6 :
    ∃ s : State, ∃ i k, getTask s i = some k ∧ dOp k.desc = opRowWrite ∧ viaLedger k = false ∧ k.phase = .admitted ∧
    k.err = none ∧ k.copyPos = rwCount k.desc ∧ k.unacked = 1 ∧ (∀ p ∈ s.cat.pend, p.task ≠ some i) :=
  ⟨withTasks [{ wr with copyPos := 1, unacked := 1 }], 7, { wr with copyPos := 1, unacked := 1 }, by decide +kernel⟩

theorem wit_ParcelsArrive_7 :
    ∃ s : State, ∃ src q j, getJournal s src q = some j ∧ j.st = .received ∧ inboxOf s src q = none ∧ j.since + odGet
    s odUpuRecoveryFolios ≤ folio s ∧ inRecovery s = false :=
  ⟨{ coll with upu := { journal := [entry] }, fsu := { folio := 5000 } }, 1, 1, entry, by decide +kernel⟩

theorem wit_ParcelsArrive_8 :
    ∃ s : State, ∃ owner r, retainedOf s owner = [r] ∧ retainedOf s (owner + 1024) = [] ∧ r.sent = true ∧ inRecovery s
    = false ∧ cellDst s owner ≠ s.sfp.engineId ∧ twinState s ≠ 1 ∧ phOwner r.parcel.hdr = owner ∧ cellRoom s owner
    (cellsFor (parcelSize r.parcel)) :=
  ⟨{ reach with upu := { ring := [(1, sent)] }, fsu := { folio := 50 } }, 1, sent, by unfold cellRoom; decide +kernel⟩

theorem wit_ParcelsArrive_9 :
    ∃ s : State, inRecovery s = false :=
  ⟨up, by decide +kernel⟩

theorem wit_ParcelsArrive_10 :
    ∃ s : State, ∃ i, ∃ bs : List Byte, ∃ p, p = readParcel s bs ∧ twinState s = 1 ∧ p.entries ≠ [] ∧ phOwner p.hdr =
    s.sfp.partner ∧ (phSource p.hdr = s.sfp.partner → i ≠ 0) ∧ cellRoom s s.sfp.partner 1 :=
  ⟨twin 1 reach, 0, bytesOf (1 + 2 <<< 48 + 1 <<< 58),
    readParcel (twin 1 reach) (bytesOf (1 + 2 <<< 48 + 1 <<< 58)), by unfold cellRoom; decide +kernel⟩

theorem wit_ParcelsArrive_11 :
    ∃ s : State, ∃ src q j, getJournal s src q = some j ∧ twinState s = 1 :=
  ⟨{ twin 1 with upu := { journal := [entry] } }, 1, 1, entry, by decide +kernel⟩

theorem wit_ParcelsArrive_12 :
    ∃ s : State, ∃ src q j, getJournal s src q = some j ∧ twinState s = 1 ∧ j.st = .applied ∧ j.partnerApplied = false
    ∧ src < 1024 ∧ src ≠ s.sfp.engineId ∧ cellRoom s src 1 :=
  ⟨{ twin 1 reach with upu := { journal := [{ entry with st := .applied }] } }, 1, 1,
    { entry with st := .applied }, by unfold cellRoom; decide +kernel⟩

/-! ### RowsCommit -/

theorem wit_RowsCommit_1 :
    ∃ s : State, ∃ j p e c a n d x row, nextReceived s = some j ∧ inboxOf s j.source j.seq = some p ∧ gated s 9 =
    false ∧ s.upu.rowIn = [] ∧ s.upu.fault = none ∧ j.mirrored = true ∧ s.upu.applying = none ∧ switchWaits s = false
    ∧ p.entries = [e] ∧ phWrite p.hdr = false ∧ n = j.intake ∧ entryAt s (phTable p.hdr) e = .here c ∧ cached s c.idx
    = some c.x ∧ e.dflt = false ∧ c.dflt = false ∧ x = c.x ∧ d = sdDim x ∧ sdTier x = 0 ∧ sdShelved x = false ∧ sdEsc
    x = false ∧ a = rowAddr x (sdBase x) c.pos ∧ holdersOf s (phTable p.hdr) c.row = [] ∧ moveOf s c.idx = none ∧
    entryDrops s p.hdr (trainAt s (phTable p.hdr)) x = false ∧ teMaster (trainAt s (phTable p.hdr)) = false ∧ cbReady
    s (homePod s c.row) x = true ∧ compSize (trainAt s (phTable p.hdr)) d = 0 ∧ trainBad s (phTable p.hdr) = false ∧
    tierFlt s 0 a (rowS x) = none ∧ row = (stkRead (homePod s c.row) 1 0 a (rowS x) (privRead (trainAddr s (phTable
    p.hdr)) 16 s)).1 ∧ stampIntake (numAt 0 8 row) < n ∧ inRecovery s = false ∧ j.source < 1024 ∧ j.source ≠
    s.sfp.engineId ∧ twinState s ≠ 1 ∧ twinOpen s = false ∧ cellRoom s j.source 1 ∧ chansUp s ∧ (a + rowS x ≤
    s.upu.ledgerBase ∨ s.upu.ledgerBase + 0x400000 ≤ a) :=
  ⟨{ withTable [(321, 1)] reach with upu := { journal := [{ entry with mirrored := true }], inbox := [(1, 1, rowParcel)] } },
    { entry with mirrored := true }, rowParcel, rowEntry, rowCtx, rowAddr rowCtx.x (sdBase rowCtx.x) rowCtx.pos,
    ({ entry with mirrored := true }).intake, sdDim rowCtx.x, rowCtx.x,
    (stkRead (homePod ({ withTable [(321, 1)] reach with upu := { journal := [{ entry with mirrored := true }], inbox := [(1, 1, rowParcel)] } }) rowCtx.row) 1 0 (rowAddr rowCtx.x (sdBase rowCtx.x) rowCtx.pos) (rowS rowCtx.x) (privRead (trainAddr ({ withTable [(321, 1)] reach with upu := { journal := [{ entry with mirrored := true }], inbox := [(1, 1, rowParcel)] } }) (phTable rowParcel.hdr)) 16 ({ withTable [(321, 1)] reach with upu := { journal := [{ entry with mirrored := true }], inbox := [(1, 1, rowParcel)] } }))).1,
    by unfold cellRoom chansUp; decide +kernel⟩

theorem wit_RowsCommit_2 :
    ∃ s : State, ∃ table row m, s.upu.fault = some (table, row, m) ∧ repairOf s table row = none ∧ rowMended s table
    row = true ∧ inRecovery s = false :=
  ⟨{ up with upu := { fault := some (6, 9, 3) } }, 6, 9, 3, by decide +kernel⟩

theorem wit_RowsCommit_3 :
    ∃ s : State, ∃ n p x task, s.cat.pend.find? (fun p => p.w == n) = some p ∧ x = descAt s p.idx ∧ gated s 1 = false
    ∧ p.task = some task ∧ pendVisible s p (sdTier x) = true ∧ (∀ q ∈ s.cat.pend, ¬ (q.idx = p.idx ∧ q.pos = p.pos ∧
    q.w < p.w)) ∧ (p.mark = rowAddr x (sdBase x) p.pos → holdersOf s (sdTable x) (rowOf (dirAt s (sdTable x)) (sdShard
    x) p.pos) = []) ∧ moveOf s p.idx = none ∧ smTier (leNat (tierLoad s (sdTier x) p.mark 8)) = 3 ∧ twinOpen s = false
    ∧ chansUp s :=
  ⟨{ up with cat := { dir := [(6, dir)], cache := [(0, shard [(320, 1)])], pend := [(pendAt (2 ^ 20))] }, mem := { gddr := [(2 ^ 20 + 7, 0xC0)] } },
    4, (pendAt (2 ^ 20)),
    descAt ({ up with cat := { dir := [(6, dir)], cache := [(0, shard [(320, 1)])], pend := [(pendAt (2 ^ 20))] }, mem := { gddr := [(2 ^ 20 + 7, 0xC0)] } }) ((pendAt (2 ^ 20))).idx,
    7, by unfold chansUp; decide +kernel⟩

theorem wit_RowsCommit_4 :
    ∃ s : State, ∃ n p x task k m, s.cat.pend.find? (fun p => p.w == n) = some p ∧ x = descAt s p.idx ∧ gated s 1 =
    false ∧ p.task = some task ∧ pendVisible s p (sdTier x) = true ∧ (∀ q ∈ s.cat.pend, ¬ (q.idx = p.idx ∧ q.pos =
    p.pos ∧ q.w < p.w)) ∧ p.mark = rowAddr x (sdBase x) p.pos ∧ holdersOf s (sdTable x) (rowOf (dirAt s (sdTable x))
    (sdShard x) p.pos) = [] ∧ moveOf s p.idx = none ∧ m = leNat (tierLoad s (sdTier x) p.mark 8) ∧ smTier m < 2 ∧
    ringFor s (rowS x) (smTier m) = some k ∧ (slotRing s k).ret.length < 2 ^ srLog (slotCtl s k) :=
  ⟨{ withOd odCatSlotring (2 ^ 76 + 1 <<< 64 + 10 <<< 80) with cat := { dir := [(6, dir)], cache := [(0, shard [(320, 1)])], pend := [(pendAt (2 ^ 32 + 72))] } },
    4, (pendAt (2 ^ 32 + 72)),
    descAt ({ withOd odCatSlotring (2 ^ 76 + 1 <<< 64 + 10 <<< 80) with cat := { dir := [(6, dir)], cache := [(0, shard [(320, 1)])], pend := [(pendAt (2 ^ 32 + 72))] } }) ((pendAt (2 ^ 32 + 72))).idx,
    7, 0,
    leNat (tierLoad ({ withOd odCatSlotring (2 ^ 76 + 1 <<< 64 + 10 <<< 80) with cat := { dir := [(6, dir)], cache := [(0, shard [(320, 1)])], pend := [(pendAt (2 ^ 32 + 72))] } }) (sdTier (descAt ({ withOd odCatSlotring (2 ^ 76 + 1 <<< 64 + 10 <<< 80) with cat := { dir := [(6, dir)], cache := [(0, shard [(320, 1)])], pend := [(pendAt (2 ^ 32 + 72))] } }) ((pendAt (2 ^ 32 + 72))).idx)) ((pendAt (2 ^ 32 + 72))).mark 8),
    by decide +kernel⟩

theorem wit_RowsCommit_5 :
    ∃ s : State, ∃ pod n kind k, getTask s n = some k ∧ k.phase = .admitted ∧ k.err = none ∧ (∃ x ∈ k.deals, x.pod =
    pod) ∧ wordsHeld s k.desc = false ∧ gated s 3 = false ∧ (n * 16 + pod, kind) ∉ s.gau.streams ∧ kind ≤ 8 ∧ kind ≠ 4
    ∧ kind ≠ 5 ∧ streamFault s k pod kind = none :=
  ⟨podTask {} look, 0, 7, 8, look, by decide +kernel⟩

theorem wit_RowsCommit_6 :
    ∃ s : State, ∃ pod n k r, getTask s n = some k ∧ k.phase = .admitted ∧ k.err = none ∧ (∃ x ∈ k.deals, x.pod = pod)
    ∧ wordsHeld s k.desc = false ∧ gated s 3 = false ∧ (n * 16 + pod, 5) ∉ s.gau.streams ∧ dOp k.desc = opFold ∧
    scaleRoom s (getPod s pod) (dFoldN k.desc) = true ∧ r = runLoad k pod 5 (scaleActs s k pod) s ∧ r.flt = none :=
  by
  refine ⟨podTask {} foldTask, 0, 7, foldTask,
    runLoad foldTask 0 5 (scaleActs (podTask {} foldTask) foldTask 0) (podTask {} foldTask),
    ?_, ?_, ?_, ?_, ?_, ?_, ?_, ?_, ?_, rfl, ?_⟩ <;> decide +kernel

/-! ### WholeTasks -/

theorem wit_WholeTasks_1 :
    ∃ i : Instr, ∃ f : State → State, pipeStep i = some f :=
  ⟨.weedAck 0, fun s => whenS (!(getSlice s 0).weed.isEmpty) (ackWeed 0) s, rfl⟩

theorem wit_WholeTasks_2 :
    ∃ s : State, ∃ n op, ∃ c : Instr, ∃ k, (c, op) ∈ [(Instr.lookup n, opLookup), (.lookupFold n, opFold), (.update n,
    opUpdate)] ∧ liveTask s n op = some k ∧ wordsHeld s k.desc = false :=
  ⟨podTask {} look, 7, opLookup, .lookup 7, look, by decide +kernel⟩

theorem wit_WholeTasks_3 :
    ∃ s : State, ∃ n k pod h w, ∃ bs : List Byte, k.phase = .admitted ∧ k.err = none ∧ k.released = false ∧
    s.cfe.tasks = [k] ∧ k.id = n ∧ liveTask s n opLookup = some k ∧ wordsHeld s k.desc = false ∧ lastWork s k pod h ∧
    h.carrels ≠ 0 ∧ h.block = 0 ∧ (getPod s pod).hq1.items = [h] ∧ (getPod s pod).hq2.items = [] ∧ h.st = .pooled ∧
    h.fold = false ∧ dToTiles k.desc = false ∧ streamSlot s k pod 3 = .system ∧ chansUp s ∧ w = dOutAddr k.desc +
    h.bag * outPitch k.desc (sdDim k.shard0) ∧ bs = (exportRow (dOutFmt k.desc) (carrelRow s pod h.carrel (sdDim
    k.shard0))).bytes ∧ accessFlt s w bs.length = none :=
  by
  refine ⟨podTask { hq1 := { items := [row7] } } lastLook, 7, lastLook, 0, row7,
    dOutAddr lastLook.desc + row7.bag * outPitch lastLook.desc (sdDim lastLook.shard0),
    (exportRow (dOutFmt lastLook.desc) (carrelRow (podTask { hq1 := { items := [row7] } } lastLook) 0 row7.carrel (sdDim lastLook.shard0))).bytes,
    ?_, ?_, ?_, ?_, ?_, ?_, ?_, ⟨idle_but (some 0) _ (fun _ e => by cases e; rfl) (by decide +kernel), ?_, ?_, ⟨_, rfl, ?_, ?_, ?_⟩, ?_, ?_, ?_, ?_⟩, ?_, ?_, ?_, ?_, ?_, ?_, ?_, ?_, by unfold chansUp; decide +kernel, rfl, rfl, ?_⟩ <;> decide +kernel

theorem wit_WholeTasks_4 :
    ∃ s : State, ∃ n k pod h y w, ∃ bs : List Byte, k.phase = .admitted ∧ k.err = none ∧ k.released = false ∧
    s.cfe.tasks = [k] ∧ k.id = n ∧ liveTask s n opFold = some k ∧ wordsHeld s k.desc = false ∧ lastWork s k pod h ∧
    h.bag = 0 ∧ k.wLoaded = true ∧ (getPod s pod).hq1.items = [] ∧ (getPod s pod).hq2.items = [h] ∧ h.st = .folded ∧
    h.block + 1 = foldBlocks (dFoldN k.desc) ∧ dToTiles k.desc = false ∧ streamSlot s k pod 3 = .system ∧ chansUp s ∧
    y = foldScaled h.scale h.cols (capturedAcc s pod h.latch (blockWidth (dFoldN k.desc) h.block)) ∧ w = dOutAddr
    k.desc + (h.bag * outPitch k.desc (sdDim k.shard0) + (if outNarrow (dOutFmt k.desc) then h.block * outSize
    (dOutFmt k.desc) 1024 else h.block * 1024 * outBits (dOutFmt k.desc) / 8)) ∧ bs = (exportRow (dOutFmt k.desc)
    y).bytes ∧ accessFlt s w bs.length = none :=
  by
  refine ⟨{ podTask { hq2 := { items := [folded7] }, flu := { unread := 1 } } lastFold with gau := { streams := [(112, 0), (112, 5)] } },
    7, lastFold, 0, folded7,
    foldScaled folded7.scale folded7.cols (capturedAcc ({ podTask { hq2 := { items := [folded7] }, flu := { unread := 1 } } lastFold with gau := { streams := [(112, 0), (112, 5)] } }) 0 folded7.latch (blockWidth (dFoldN lastFold.desc) folded7.block)),
    dOutAddr lastFold.desc + (folded7.bag * outPitch lastFold.desc (sdDim lastFold.shard0) + (if outNarrow (dOutFmt lastFold.desc) then folded7.block * outSize (dOutFmt lastFold.desc) 1024 else folded7.block * 1024 * outBits (dOutFmt lastFold.desc) / 8)),
    (exportRow (dOutFmt lastFold.desc) (foldScaled folded7.scale folded7.cols (capturedAcc ({ podTask { hq2 := { items := [folded7] }, flu := { unread := 1 } } lastFold with gau := { streams := [(112, 0), (112, 5)] } }) 0 folded7.latch (blockWidth (dFoldN lastFold.desc) folded7.block)))).bytes,
    ?_, ?_, ?_, ?_, ?_, ?_, ?_, ⟨idle_but (some 0) _ (fun _ e => by cases e; rfl) (by decide +kernel), ?_, ?_, ⟨_, rfl, ?_, ?_, ?_⟩, ?_, ?_, ?_, ?_⟩, ?_, ?_, ?_, ?_, ?_, ?_, ?_, ?_, by unfold chansUp; decide +kernel, rfl, rfl, rfl, ?_⟩ <;> decide +kernel

theorem wit_WholeTasks_5 :
    ∃ s : State, ∃ n k p o q, k.phase = .admitted ∧ k.err = none ∧ k.released = false ∧ s.cfe.tasks = [k] ∧ k.id = n ∧
    liveTask s n opUpdate = some k ∧ wordsHeld s k.desc = false ∧ podsIdle s ∧ streamSteps s = [] ∧ s.cat.misses = []
    ∧ (∀ x ∈ k.deals, x = dealDone x) ∧ packed s k = true ∧ gated s 9 = false ∧ k.pendingParcels = [p] ∧ k.resids = []
    ∧ epochsClear s k = true ∧ ringRoom s k = true ∧ s.upu.ring = [] ∧ s.upu.waiting = [] ∧ o = phOwner p.hdr ∧ q =
    nextSeq s o ∧ cellDst s o ≠ s.sfp.engineId ∧ reachable s (cellDst s o) = true ∧ twinState s ≠ 1 ∧ twinOpen s =
    false ∧ cellRoom s o (cellsFor (parcelSize p)) :=
  by
  refine ⟨reach (podTask {} ready), 7, ready, parcel, phOwner parcel.hdr,
    nextSeq (reach (podTask {} ready)) (phOwner parcel.hdr),
    ?_, ?_, ?_, ?_, ?_, ?_, ?_, idle_but none _ (fun _ e => by cases e) (by decide +kernel), ?_, ?_, ?_, ?_, ?_, ?_, ?_, ?_, ?_, ?_, ?_, ?_, ?_, ?_, ?_, ?_, ?_, by unfold cellRoom; decide +kernel⟩ <;> decide +kernel

theorem wit_WholeTasks_6 :
    ∃ s : State, ∃ n k e x c, ∃ bs : List Byte, liveTask s n opRowWrite = some k ∧ k.phase = .admitted ∧ k.err = none
    ∧ k.released = false ∧ wordsHeld s k.desc = false ∧ k.unacked = 0 ∧ k.copyPos = 0 ∧ rwCount k.desc = 1 ∧ rwQuant
    k.desc = false ∧ (∀ i ∈ rowShards s k.desc, shardRefuses s i = false) ∧ tableKey s (dTable k.desc) = none ∧ e =
    dirAt s (dTable k.desc) ∧ c = shardIndex e (shardOf e (rwRow k.desc)) ∧ x = descAt s c ∧ deValid e = true ∧
    sdTable x = dTable k.desc ∧ sdTableLevel x = sdTableLevel k.shard0 ∧ sdTrain k.shard0 = false ∧ sdTrain x = false
    ∧ sdEsc x = false ∧ rowOfTask s k 0 = .row bs ∧ homedHere s x = true ∧ sdShelved x = false ∧ sdState x ≠ 2 ∧
    (sdTier x = 1 → hostHeld s = false) ∧ holdersOf s (sdTable x) (rwRow k.desc) = [] ∧ moveOf s c = none ∧ (∀ q ∈
    s.cat.pend, q.task ≠ some n) ∧ twinOpen s = false ∧ chansUp s :=
  ⟨podTask {} wr, 7, wr, dirAt (podTask {} wr) (dTable wr.desc),
    descAt (podTask {} wr) (shardIndex (dirAt (podTask {} wr) (dTable wr.desc)) (shardOf (dirAt (podTask {} wr) (dTable wr.desc)) (rwRow wr.desc))),
    shardIndex (dirAt (podTask {} wr) (dTable wr.desc)) (shardOf (dirAt (podTask {} wr) (dTable wr.desc)) (rwRow wr.desc)),
    leBytes 32 0, by unfold chansUp; decide +kernel⟩

theorem wit_WholeTasks_7 :
    ∃ s : State, ∃ n k e x c, ∃ bs : List Byte, ∃ p, liveTask s n opRowWrite = some k ∧ k.phase = .admitted ∧ k.err =
    none ∧ k.released = false ∧ wordsHeld s k.desc = false ∧ k.copyPos = 0 ∧ rwCount k.desc = 1 ∧ rwQuant k.desc =
    false ∧ (∀ i ∈ rowShards s k.desc, shardRefuses s i = false) ∧ tableKey s (dTable k.desc) = none ∧ e = dirAt s
    (dTable k.desc) ∧ c = shardIndex e (shardOf e (rwRow k.desc)) ∧ x = descAt s c ∧ deValid e = true ∧ sdTable x =
    dTable k.desc ∧ sdTableLevel x = sdTableLevel k.shard0 ∧ sdTrain k.shard0 = false ∧ sdTrain x = false ∧ sdEsc x =
    false ∧ rowOfTask s k 0 = .row bs ∧ homedHere s x = false ∧ p = parcelAdd
    { row := rwRow k.desc, dflt := false, data := bs }
    { hdr := phSet (headerFor s k (sdHome x)) 223 192 n, entries := [] } ∧ cellRoom s (sdHome x) (cellsFor (parcelSize
    p)) :=
  ⟨withTable [(32, 1)] (reach (withTasks [wr])), 7, wr,
    dirAt (withTable [(32, 1)] (reach (withTasks [wr]))) (dTable wr.desc),
    descAt (withTable [(32, 1)] (reach (withTasks [wr]))) (shardIndex (dirAt (withTable [(32, 1)] (reach (withTasks [wr]))) (dTable wr.desc)) (shardOf (dirAt (withTable [(32, 1)] (reach (withTasks [wr]))) (dTable wr.desc)) (rwRow wr.desc))),
    shardIndex (dirAt (withTable [(32, 1)] (reach (withTasks [wr]))) (dTable wr.desc)) (shardOf (dirAt (withTable [(32, 1)] (reach (withTasks [wr]))) (dTable wr.desc)) (rwRow wr.desc)),
    leBytes 32 0,
    parcelAdd { row := rwRow wr.desc, dflt := false, data := (leBytes 32 0) } { hdr := phSet (headerFor (withTable [(32, 1)] (reach (withTasks [wr]))) wr (sdHome (descAt (withTable [(32, 1)] (reach (withTasks [wr]))) (shardIndex (dirAt (withTable [(32, 1)] (reach (withTasks [wr]))) (dTable wr.desc)) (shardOf (dirAt (withTable [(32, 1)] (reach (withTasks [wr]))) (dTable wr.desc)) (rwRow wr.desc)))))) 223 192 7, entries := [] },
    by unfold cellRoom; decide +kernel⟩

/-! ### CommandsKeepTheRest -/

theorem wit_CommandsKeepTheRest_1 :
    ∃ c : Instr, ∃ s : State, ∃ t : State, ∃ p : Piece, exec c s = .next t ∧ p ∉ mayChange c :=
  ⟨.nop 7, withTasks [task opNop []], doNop 7 (withTasks [task opNop []]), .hpt, rfl, by decide⟩

/-! ### Doorbells -/

theorem wit_Doorbells_1 :
    ∃ s : State, ∃ q n, ∃ h : Int, regOn s 0 = true ∧ q < 512 ∧ ((getQ s q).state = .active ∨ (getQ s q).state =
    .waiting ∨ (getQ s q).state = .paused) ∧ bitOf (getQ s q).ctl 1 = false ∧ queueBroken (getQ s q) = false ∧ n =
    qLog (getQ s q) ∧ h = (getQ s q).head.val :=
  ⟨{ up with cfe := { queues := [(511, { queue with tail := 3, head := ptr 3, state := .paused })] } }, 511,
    qLog (getQ ({ up with cfe := { queues := [(511, { queue with tail := 3, head := ptr 3, state := .paused })] } }) 511),
    (getQ ({ up with cfe := { queues := [(511, { queue with tail := 3, head := ptr 3, state := .paused })] } }) 511).head.val,
    by decide +kernel⟩

theorem wit_Doorbells_2 :
    ∃ s : State, ∃ q, (bitOf (getQ s q).ctl 1 = true ∨ ((getQ s q).state ≠ .active ∧ (getQ s q).state ≠ .waiting ∧
    (getQ s q).state ≠ .paused)) :=
  ⟨up, 511, by decide +kernel⟩

theorem wit_Doorbells_3 :
    ∃ s : State, ∃ q v p w rest, s.pending = .cfeQTailDoorbell q v :: .cfeQTailDoorbell p w :: rest :=
  ⟨{ up with pending := [.cfeQTailDoorbell 511 1, .cfeQTailDoorbell 0 2] }, 511, 1, 0, 2, [], by decide +kernel⟩

/-! ### FencesAndNops -/

theorem wit_FencesAndNops_1 :
    ∃ s : State, ∃ n k, liveTask s n opFence = some k ∧ earlierOpen s k = true :=
  ⟨withTasks [{ task opNop [] with id := 6 }, task opFence []], 7, task opFence [], by decide +kernel⟩

theorem wit_FencesAndNops_2 :
    ∃ s : State, ∃ n k, liveTask s n opFence = some k ∧ earlierOpen s k = true :=
  ⟨withTasks [{ task opNop [] with id := 6 }, task opFence []], 7, task opFence [], by decide +kernel⟩

theorem wit_FencesAndNops_3 :
    ∃ s : State, ∃ n k, liveTask s n opFence = some k ∧ earlierOpen s k = false ∧ dXpath k.desc = false :=
  ⟨withTasks [task opFence []], 7, task opFence [], by decide +kernel⟩

theorem wit_FencesAndNops_4 :
    ∃ s : State, ∃ n k, liveTask s n opFence = some k ∧ k.phase = .stalled ∧ earlierOpen s k = false ∧ dXpath k.desc =
    false ∧ k.drainTo = none :=
  ⟨withTasks [{ task opFence [] with phase := .stalled }], 7, { task opFence [] with phase := .stalled },
    by decide +kernel⟩

theorem wit_FencesAndNops_5 :
    ∃ s : State, ∃ n k, liveTask s n opFence = some k ∧ earlierOpen s k = false ∧ dXpath k.desc = true ∧ k.drainTo =
    none :=
  ⟨withTasks [task opFence [(16, 1)]], 7, task opFence [(16, 1)], by decide +kernel⟩

theorem wit_FencesAndNops_6 :
    ∃ s : State, ∃ n k m, liveTask s n opFence = some k ∧ k.phase = .stalled ∧ k.drainTo = some m ∧ (∃ w ∈ s.hpt.outq,
    w.seq ≤ m) :=
  ⟨{ withTasks [{ task opFence [(16, 1)] with phase := .stalled, drainTo := some 4 }] with hpt := { link := .up, outq := [{ seq := 4, path := 0, addr := 0, data := [1], task := none, kind := .output }] } },
    7, { task opFence [(16, 1)] with phase := .stalled, drainTo := some 4 }, 4, by decide +kernel⟩

theorem wit_FencesAndNops_7 :
    ∃ s : State, ∃ n k m, liveTask s n opFence = some k ∧ k.phase = .stalled ∧ earlierOpen s k = false ∧ k.drainTo =
    some m ∧ (∀ w ∈ s.hpt.outq, m < w.seq) :=
  ⟨{ withTasks [{ task opFence [(16, 1)] with phase := .stalled, drainTo := some 4 }] with hpt := { link := .up, outq := [{ seq := 5, path := 0, addr := 0, data := [1], task := none, kind := .output }] } },
    7, { task opFence [(16, 1)] with phase := .stalled, drainTo := some 4 }, 4, by decide +kernel⟩

theorem wit_FencesAndNops_8 :
    ∃ s : State, ∃ n k, liveTask s n opNop = some k :=
  ⟨withTasks [task opNop []], 7, task opNop [], by decide +kernel⟩

theorem wit_FencesAndNops_9 :
    ∃ k now, (dOp k.desc = opNop ∨ dOp k.desc = opFence) ∧ k.err = none ∧ k.defaults = 0 ∧ k.sats = 0 ∧ k.bagLong =
    false ∧ now ≤ k.admitFolio ∧ now ≤ dueFolio k :=
  ⟨{ task opNop [] with admitFolio := 2, fetchFolio := 1 }, 2, by decide +kernel⟩

/-! ### DirectRowAddress -/

theorem wit_DirectRowAddress_1 :
    ∃ x : BitVec 512, ∃ p : Nat, ∃ a : Nat, sdShelved x = false ∧ a = bitsOf x.toNat 177 128 * 32 + p * bitsOf x.toNat
    318 309 * 32 :=
  ⟨shard, 9, bitsOf shard.toNat 177 128 * 32 + 9 * bitsOf shard.toNat 318 309 * 32, by decide +kernel⟩

/-! ### SteppingEntry -/

theorem wit_SteppingEntry_2 :
    ∃ s : State, ∃ session role, sessionOk s session role = true ∧ gated s (odSub odIdStepping) = false ∧ tabFind
    odIdStepping s.od = none :=
  ⟨up, 0, .operator, by decide +kernel⟩

/-! ### GddrInterleave -/

theorem wit_GddrInterleave_1 :
    ∃ s : State, activeChans s ≠ [] :=
  ⟨up, by decide +kernel⟩

theorem wit_GddrInterleave_2 :
    ∃ s : State, ∃ a b, activeChans s ≠ [] ∧ chanOf s a = chanOf s b ∧ chanOffset s a = chanOffset s b :=
  ⟨up, 511, 511, by decide +kernel⟩

theorem wit_GddrInterleave_3 :
    ∃ s : State, ∃ a k, k < (activeChans s).length ∧ (activeChans s)[k]? = some (chanOf s a) :=
  ⟨up, 0, 0, by decide +kernel⟩

/-! ### ResetLeaves -/

theorem wit_ResetLeaves_6 :
    ∃ u, u < 16 :=
  ⟨15, by decide +kernel⟩

theorem wit_ResetLeaves_8 :
    ∃ key e, odFind key = some e :=
  ⟨odFsuPeriod, (odFind odFsuPeriod).get (by decide +kernel), by decide +kernel⟩

/-! ### BagsSameOnAnyPod -/

theorem wit_BagsSameOnAnyPod_1 :
    ∃ s : State, ∃ k : Machine.Task, ∃ p : Nat, ∃ q : Nat, (∀ kind, streamSlot s k p kind = streamSlot s k q kind) ∧
    tabFind k.hashSlot (getPod s p).hashes = tabFind k.hashSlot (getPod s q).hashes :=
  ⟨withTasks [look], look, 0, 15, (fun kind => by simp [streamSlot, look, task]), by decide +kernel⟩

theorem wit_BagsSameOnAnyPod_2 :
    ∃ p : Pod, ∃ k : Machine.Task, ∃ b : Bag, ∃ ls : List Leaf, ∃ r : List F32, dPool k.desc ≤ 5 ∧ b.acc = none ∧
    b.stack = [] ∧ b.lin = none ∧ r = scaleBag (dPool k.desc) b.n (poolLeaves (dPool k.desc) (sdDim k.shard0) (ls.map
    (fun l => (l.weight, poolVec p l)))) :=
  ⟨{}, look, bag [leafAt], [leafAt],
    scaleBag (dPool look.desc) (bag [leafAt]).n (poolLeaves (dPool look.desc) (sdDim look.shard0) (([leafAt]).map (fun l => (l.weight, poolVec ({}) l)))),
    by decide +kernel⟩

/-! ## Witnesses that rest on a function of `Config` with no body: they assume what it answers -/

theorem wit_Firmware_1 (bs : List Byte) (h : Config.fwSigned bs = true) (n : bs.length ≤ 4194304) :
    ∃ s : State, ∃ r, odReady odMscFwImage s ∧ roleOk .service r = true ∧ Config.fwSigned bs = true ∧
    s.msc.svn ≤ Config.fwSvn bs ∧ bs.length ≤ 4194304 :=
  ⟨up, .service, by unfold odReady; decide +kernel, by decide, h, Nat.zero_le _, n⟩

theorem wit_Firmware_2 (bs : List Byte) :
    ∃ s : State, ∃ r, odReady odMscFwImage s ∧ roleOk .service r = true ∧
    (Config.fwSigned bs = false ∨ Config.fwSvn bs < s.msc.svn) :=
  ⟨{ up with msc := { svn := Config.fwSvn bs + 1 } }, .service,
    ⟨rfl, rfl, (fun x h => by cases h), by show gated up _ = false; decide +kernel⟩, by decide, .inr (Nat.lt_succ_self _)⟩

theorem wit_SecurityModes_6 (bs z : List Byte) (h : envOk 1 bs = true) (o : envOpen bs = .ok z) :
    ∃ s : State, ∃ r, odReady odSecJobEnvelope s ∧ roleOk .owner r = true ∧ envOk 1 bs = true ∧
    s.sfp.sending ≠ some (envName bs) ∧ envOpen bs = .ok z :=
  ⟨up, .owner, by unfold odReady; decide +kernel, by decide, h, nofun, o⟩

theorem wit_SecurityModes_8 (bs z : List Byte) (h : envOk 2 bs = true) (o : envOpen bs = .ok z) :
    ∃ s : State, ∃ r, odReady odSecTableEnvelope s ∧ roleOk .owner r = true ∧ envOk 2 bs = true ∧
    envOpen bs = .ok z ∧ (s.msc.tableKeys.length < 256 ∨ (tabFind (envName bs) s.msc.tableKeys).isSome = true) :=
  ⟨up, .owner, by unfold odReady; decide +kernel, by decide, h, o, .inl (by decide)⟩

/-- An envelope of the right form: its magic number, its kind, one recipient, and zeros. -/
def envelope (kind : Nat) : List Byte := leBytes 176 (0x56454B4A + kind <<< 32 + 1 <<< 48)

theorem test_envelope_forms : envOk 1 (envelope 1) = true ∧ envOk 2 (envelope 2) = true ∧ envOk 1 (envelope 2) = false := by
  decide +kernel

theorem wit_ManagementMessages_8 (chain : List Byte) (h : Config.chainValid chain (leNat Config.serviceAnchor) = true) :
    ∃ s : State, ∃ r, s.cru.run ≠ .off ∧ s.msc.restarting = false ∧ s.msc.booted = true ∧ chainRole s chain = some r ∧
    s.msc.sessions.length < 8 :=
  ⟨up, .service, by decide, rfl, rfl, by simp [chainRole, h], by decide⟩

theorem wit_ManagementMessages_9 (chain : List Byte) (h : Config.chainValid chain (leNat Config.serviceAnchor) = false) :
    ∃ s : State, chainRole s chain = none :=
  ⟨up, by
    have a : odGet up odSecAnchorOwner = 0 := by decide +kernel
    have b : odGet up odSecAnchorOperator = 0 := by decide +kernel
    simp [chainRole, h, a, b]⟩

/-- The collective with the one shard of table 6, which MOVE_SHARD moves to engine 1. -/
def leaving : State := { withTasks [away] reach with cat := { dir := [(6, dirOne)], cache := [(0, shard)] } }

theorem wit_ShardMoves_2 (h : Config.peerTakes 1 0 1 4 = true) :
    ∃ s : State, ∃ n k x row, relocTask s n 0 = some k ∧ relocOk s k.desc = true ∧ moveOf s (rlIndex s k.desc) = none ∧
    k.copyPos = 0 ∧ (∀ o ∈ s.cat.owed, o.1 ≠ rlIndex s k.desc) ∧ (cached s (rlIndex s k.desc)).isSome = true ∧
    rlEngine k.desc ≠ s.sfp.engineId ∧ x = sdSet (sdSet (descAt s (rlIndex s k.desc)) 45 44 3) 241 192 (rlBase k.desc) ∧
    shardRows (dirAt s (dTable k.desc)) (sdShard (descAt s (rlIndex s k.desc))) = 1 ∧ sdShelved x = false ∧
    compSize (tabGet (sdTable x) 0 s.upu.train) (sdDim x) = 0 ∧
    row = tierLoad s (sdTier x) (rowAddr x (sdBase x) 0) (rowS x) ∧
    (sdTier x = 0 → overlaps (rowAddr x (sdBase x) 0) (rowS x) (descAddr s (rlIndex s k.desc)) 64 = false) ∧
    rowEscapes x row = 0 ∧ cellRoom s (rlEngine k.desc) (cellsFor (8 + row.length)) := by
  have ok : relocOk leaving away.desc = true := by
    have a : rlExists leaving away.desc = true := by decide +kernel
    have b : rlEngine away.desc = 1 ∧ rlIndex leaving away.desc = 0 ∧ rlTier away.desc = 1 ∧ rlBase away.desc = 4 ∧
      rlOp away.desc = 0 := by decide +kernel
    have c : (isHome leaving (descAt leaving 0) && sdState (descAt leaving 0) == 1 &&
      (sdShelved (descAt leaving 0) || 32 * 4 % 128 == 0)) = true := by decide +kernel
    have d : (1 == leaving.sfp.engineId) = false ∧ reachable leaving 1 = true ∧ (fwdFree leaving).isSome = true ∧
      epochOlder (sdPlaced (descAt leaving 0)) (rlEpoch away.desc) = true := by decide +kernel
    obtain ⟨b1, b2, b3, b4, b5⟩ := b
    obtain ⟨d1, d2, d3, d4⟩ := d
    unfold relocOk
    rw [a, b5]
    unfold moveShardOk
    simp only [b1, b2, b3, b4, c, d1, d2, d3, d4, h, Bool.true_and, Bool.false_eq_true, if_false]
  exact ⟨leaving, 7, away, _, _, by decide +kernel, ok, by decide +kernel, rfl, nofun, by decide +kernel, by decide +kernel, rfl,
    by decide +kernel, by decide +kernel, by decide +kernel, rfl, by decide +kernel, by decide +kernel,
    by unfold cellRoom; decide +kernel⟩

/-! ## Witnesses for the cases inside a clause -/

/-- In confidential mode the mode can be asked for again (SecurityModes, clause 4). -/
theorem wit_SecurityModes_4_confidential : ∃ s : State, ∃ r, odReady odSecModeReq s ∧ roleOk .owner r = true ∧
    secQuiet s = true ∧ partnerQuiet s = true ∧ s.msc.mode = .confidential :=
  ⟨{ up with msc := { booted := true, mode := .confidential } }, .owner, by unfold odReady; decide +kernel⟩

/-- An envelope of a wrong form, and the key slot in use (SecurityModes, clause 7). -/
theorem wit_SecurityModes_7_cases : envOk 1 (envelope 2) = false ∧
    ({ up with sfp := { sending := some 0 } } : State).sfp.sending = some (envName (envelope 1)) := by decide +kernel

/-- A full set of table keys (SecurityModes, clause 9). -/
theorem wit_SecurityModes_9_full : ∃ s : State, odReady odSecTableEnvelope s ∧ envOk 2 (envelope 2) = true ∧
    256 ≤ s.msc.tableKeys.length ∧ tabFind (envName (envelope 2)) s.msc.tableKeys = none :=
  ⟨{ up with msc := { booted := true, tableKeys := (List.range 256).map (fun n => (n + 1, [])) } },
    by unfold odReady; decide +kernel⟩


/-! ## Well-formedness: each check refuses a command whose operand lies just outside its range -/

/-- No seventeenth logical Pod (R10). -/
theorem wf_refuses_pod : (
    [.bagStart 16, .indexProcess 16 0 0, .segmentRelease 16 0 0, .readIssue 16 4 2, .callSlipFill 16 0, .weedAck 16,
      .leafPool 16 0 0, .exportRow 16, .tileAdd 16, .abortedHandleFree 16 2, .latchRowFill 16, .foldPassStart 16,
      .foldFillWaitExpiry 16, .foldCapture 16, .codebookLoad 16 2 0 0, .updateWindowClose 16 0, .deepCombine 16 0,
      .podReset 16 0, .podResetExit 16, .podPllUnlock 16, .podIdleVoltage 16, .streamReadReturn 16 0 8] : List Instr).all
      (fun c => !c.wf) = true := by decide +kernel

/-- No nineteenth Pod die (R10). -/
theorem wf_refuses_die : (
    [.d2dTrainingAttempt 18 3, .resync 18] : List Instr).all
      (fun c => !c.wf) = true := by decide +kernel

/-- No queue 512 (R59). -/
theorem wf_refuses_queue : (
    [.cfeQTailDoorbell 512 18446744073709551615, .queueEnable 512 18446744073709551615,
      .queueDisable 512 18446744073709551615] : List Instr).all
      (fun c => !c.wf) = true := by decide +kernel

/-- No sync counter 4,096 (R370). -/
theorem wf_refuses_counter : (
    [.counterUpdateApply 4096, .fsuSyncValueWrite 4096 18446744073709551615,
      .fsuSyncAddWrite 4096 18446744073709551615, .sync 1023 4096 0 18446744073709551615 0] : List Instr).all
      (fun c => !c.wf) = true := by decide +kernel

/-- No ninth port (R328). -/
theorem wf_refuses_port : (
    [.marker 8 0 0, .portTrain 8 16, .sfpPortDown 8 0, .link 8 [] 0 none 0, .linkCellSend 8, .refQualified (some 8),
      .uncorrectableCodeword 8 0] : List Instr).all
      (fun c => !c.wf) = true := by decide +kernel

/-- No 25th channel (R281). -/
theorem wf_refuses_channel : (
    [.tempRead 24 none, .channelRetrain 24 0] : List Instr).all
      (fun c => !c.wf) = true := by decide +kernel

/-- No Engine ID 1,024 (R337). -/
theorem wf_refuses_engine : (
    [.invalRx 1024 65535 0, .invalAckRx 1024 65535 0, .catInvalTimeout 1024 65535 0, .holderReplicaExpiry 1024,
      .sync 1024 4095 0 18446744073709551615 0, .copy 1024 0 0 [], .controlResend 1024 0, .descUpdate 1024 0 0 0 [],
      .epochAdopted 1024 0, .floors 1024 0 0 0 0, .floorReport 1024 0 0 0, .sfpMemberSilent 1024,
      .mapMirror 1024 0 0 0 false, .keySwitch 1024 0 0 0, .twinHeartbeat 1024, .twinFailover 1024 1023,
      .twinFailover 1023 1024, .controlAck 1024 0 false, .badCell 0 0 1024, .twinRestoredNotice 1024] : List Instr).all
      (fun c => !c.wf) = true := by decide +kernel

/-- No identity 2,048. -/
theorem wf_refuses_pair : (
    [.parcelSend 2048, .parcelResendTimeout 2048, .parcelArrival 2048 [], .earlyParcelJournal 2048,
      .parcelAckReceived 2048 2047 0 0, .parcelAckReceived 2047 2048 0 0, .receivedAbandon 2048 0,
      .ledgerReady 2048 false, .twinMirroredParcel 2048 0 [], .twinPartnerReport 2048 0 false] : List Instr).all
      (fun c => !c.wf) = true := by decide +kernel

/-- No third path (R5). -/
theorem wf_refuses_path : (
    [.inboundWrite 2 0 0 [], .inboundRead 2 0 0 0, .writeAck 2] : List Instr).all
      (fun c => !c.wf) = true := by decide +kernel

/-- No Table ID 65,536 (R51). -/
theorem wf_refuses_table : (
    [.invalRx 1023 65536 0, .invalAckRx 1023 65536 0, .catInvalTimeout 1023 65536 0] : List Instr).all
      (fun c => !c.wf) = true := by decide +kernel

/-- No value of more than 64 bits. -/
theorem wf_refuses_word : (
    [.cfeQTailDoorbell 511 18446744073709551616, .queueEnable 511 18446744073709551616,
      .queueDisable 511 18446744073709551616, .evqEnable 63 18446744073709551616,
      .telemetryEnable 7 18446744073709551616, .tileWindowWrite 0 8 18446744073709551616,
      .fsuSyncValueWrite 4095 18446744073709551616, .fsuSyncAddWrite 4095 18446744073709551616,
      .mmioRegisterWrite 0 8 18446744073709551616, .sync 1023 4095 0 18446744073709551616 0] : List Instr).all
      (fun c => !c.wf) = true := by decide +kernel

/-- No access of three bytes (R452). -/
theorem wf_refuses_width : (
    [.tileWindowWrite 0 3 18446744073709551615, .mmioRegisterWrite 0 3 18446744073709551615] : List Instr).all
      (fun c => !c.wf) = true := by decide +kernel

/-- A field of the command at the first value after its range. -/
theorem wf_refuses_field : (
    [.readIssue 15 5 2, .readIssue 15 4 3, .rowReturn 0 7, .abortedHandleFree 15 3, .codebookLoad 15 3 0 0,
      .slotQuarantineEnd 8, .catSlotringWrite 8 0 .service, .evqEnable 64 18446744073709551615, .cfeEvqPop 64,
      .cfeEvqGap 64, .telemetryEnable 8 18446744073709551615, .invalidate 8 .service, .invalidateDone 8,
      .hptDieLost 2, .hptApertureWrite 16 0 .service, .scrubStep 0 7, .portTrain 7 4,
      .garwaRead 0 .service 65536 255 0 0, .garwaRead 0 .service 65535 256 0 0,
      .garwaWriteSegment 0 .service 65536 255 0 [], .garwaWriteSegment 0 .service 65535 256 0 [],
      .odWrite 0 .service 65536 255 0 [], .odWrite 0 .service 65535 256 0 [], .stagedValueDiscard 65536 255,
      .stagedValueDiscard 65535 256, .stkPartWrite 8 0 .service, .stkPinWrite 16 0 .service, .pinShardLoad 16 0,
      .gauSproutBindWrite 9 0 .service, .qntResidWrite 16 0 .service, .fsuNotifyWrite 64 0 .service,
      .d2dTrainingAttempt 17 4, .streamReadReturn 15 0 9] : List Instr).all
      (fun c => !c.wf) = true := by decide +kernel

/-- The same commands with every operand at the last value of its range. -/
theorem wf_accepts_last_values : (
    [.counterUpdateApply 4095, .bagStart 15, .indexProcess 15 0 0, .segmentRelease 15 0 0, .readIssue 15 4 2,
      .callSlipFill 15 0, .weedAck 15, .rowReturn 0 6, .leafPool 15 0 0, .exportRow 15, .tileAdd 15,
      .abortedHandleFree 15 2, .latchRowFill 15, .foldPassStart 15, .foldFillWaitExpiry 15, .foldCapture 15,
      .codebookLoad 15 2 0 0, .updateWindowClose 15 0, .deepCombine 15 0, .parcelSend 2047,
      .parcelResendTimeout 2047, .parcelArrival 2047 [], .earlyParcelJournal 2047, .parcelAckReceived 2047 2047 0 0,
      .receivedAbandon 2047 0, .slotQuarantineEnd 7, .catSlotringWrite 7 0 .service, .invalRx 1023 65535 0,
      .invalAckRx 1023 65535 0, .catInvalTimeout 1023 65535 0, .holderReplicaExpiry 1023, .marker 7 0 0,
      .cfeQTailDoorbell 511 18446744073709551615, .queueEnable 511 18446744073709551615,
      .queueDisable 511 18446744073709551615, .evqEnable 63 18446744073709551615, .cfeEvqPop 63, .cfeEvqGap 63,
      .telemetryEnable 7 18446744073709551615, .tileWindowWrite 0 8 18446744073709551615,
      .fsuSyncValueWrite 4095 18446744073709551615, .fsuSyncAddWrite 4095 18446744073709551615,
      .invalidate 7 .service, .invalidateDone 7, .mmioRegisterWrite 0 8 18446744073709551615, .inboundWrite 1 0 0 [],
      .inboundRead 1 0 0 0, .writeAck 1, .hptDieLost 1, .hptApertureWrite 15 0 .service, .tempRead 23 none,
      .channelRetrain 23 0, .scrubStep 0 6, .portTrain 7 16, .sfpPortDown 7 0, .link 7 [] 0 none 0, .linkCellSend 7,
      .sync 1023 4095 0 18446744073709551615 0, .copy 1023 0 0 [], .controlResend 1023 0, .descUpdate 1023 0 0 0 [],
      .epochAdopted 1023 0, .floors 1023 0 0 0 0, .floorReport 1023 0 0 0, .sfpMemberSilent 1023,
      .mapMirror 1023 0 0 0 false, .ledgerReady 2047 false, .keySwitch 1023 0 0 0, .twinHeartbeat 1023,
      .twinFailover 1023 1023, .garwaRead 0 .service 65535 255 0 0, .garwaWriteSegment 0 .service 65535 255 0 [],
      .odWrite 0 .service 65535 255 0 [], .stagedValueDiscard 65535 255, .stkPartWrite 7 0 .service,
      .stkPinWrite 15 0 .service, .pinShardLoad 15 0, .gauSproutBindWrite 8 0 .service, .qntResidWrite 15 0 .service,
      .fsuNotifyWrite 63 0 .service, .podReset 15 0, .podResetExit 15, .podPllUnlock 15, .podIdleVoltage 15,
      .d2dTrainingAttempt 17 3, .resync 17, .refQualified (some 7), .streamReadReturn 15 0 8,
      .controlAck 1023 0 false, .badCell 0 0 1023, .uncorrectableCodeword 7 0, .twinMirroredParcel 2047 0 [],
      .twinPartnerReport 2047 0 false, .twinRestoredNotice 1023] : List Instr).all Instr.wf = true := by decide +kernel

/-! ## The worked examples of the manual: the values are those it prints -/

/-- An `INT4` shard of dimension 8, with escapes of 16 bits where `esc` is 1. -/
def int4 (esc : Nat) : BitVec 512 := BitVec.ofNat 512 (2 <<< 296 + 1 <<< 309 + esc <<< 322)

/-- The husk of the worked examples: SCALE 0.125, OFFSET 0.25. -/
def husk21 : Nat := 0x34003000

/-- The values of worked example 2.1. -/
def values21 : List F32 :=
  [0x3F000000, 0xBE800000, 0x3F666666, 0x00000000, 0xBF4CCCCD, 0x3F800000, 0x3E99999A, 0xBF19999A]

/-- The values of worked example 6.1. -/
def values61 : List F32 :=
  [0x3FC00000, 0xBE800000, 0x4039999A, 0x00000000, 0xBF4CCCCD, 0x40400000, 0x3E99999A, 0xBF19999A]

/-- An encoding of the Quantiser with the ratio 6.0 of QNT_ESC_RATIO. -/
def enc (esc : Nat) (derive : Bool) (xs : List F32) : Encoded := encodeRow (int4 esc) derive true husk21 0x40C00000 [] [] xs

/-- Worked example 2.1: the stored row. -/
theorem test_encode_int4 : buildRow (int4 0) 0 0 (enc 0 false values21) =
    [0x00, 0x30, 0x00, 0x34, 0xC2, 0xE5, 0x68, 0xA0] ++ List.replicate 24 0 := by decide +kernel

/-- Worked example 2.1: the decoded row. -/
theorem test_decode_int4 :
    decodeRow (int4 0) ([0x00, 0x30, 0x00, 0x34, 0xC2, 0xE5, 0x68, 0xA0] ++ List.replicate 24 0) [] [] =
    [0x3F000000, 0xBE800000, 0x3F600000, 0x00000000, 0xBF400000, 0x3F800000, 0x3E800000, 0xBF000000] := by
  decide +kernel

/-- Worked example 2.1 with ESC = 1: the row and its side list, with slot 5. -/
theorem test_encode_escape : buildRow (int4 1) 0 5 (enc 1 false values21) =
      [0x00, 0x30, 0x00, 0x34, 0x05, 0x00, 0x00, 0x08, 0xC2, 0xE5, 0x68, 0xA0] ++ List.replicate 20 0 ∧
    buildSide (int4 1) (enc 1 false values21).side = [0x66, 0xBA] ++ List.replicate 30 0 := by decide +kernel

/-- Worked example 2.1 with ESC = 1: element 4 decodes to its side-list value. -/
theorem test_decode_escape :
    decodeRow (int4 1) [0x00, 0x30, 0x00, 0x34, 0x05, 0x00, 0x00, 0x08, 0xC2, 0xE5, 0x68, 0xA0] [0x66, 0xBA] [] =
    [0x3F000000, 0xBE800000, 0x3F600000, 0x00000000, 0xBF4CC000, 0x3F800000, 0x3E800000, 0xBF000000] := by
  decide +kernel

/-- Worked example 6.1 under KEEP: three saturations, and these payload bytes. -/
theorem test_quantise_keep : (enc 0 false values61).sats = 3 ∧ leBytes 4 (enc 0 false values61).payload =
    [0xC7, 0xE7, 0x78, 0xA0] := by decide +kernel

/-- Worked example 6.1 under KEEP with ESC = 1: elements 0, 2, 4 and 5 are escaped, and none saturates. -/
theorem test_quantise_escapes : (enc 1 false values61).side = [0x3E00, 0x41CC, 0xBA66, 0x4200] ∧
    (enc 1 false values61).sats = 0 := by decide +kernel

/-- Worked example 6.1 under RESCALE: the stored row, without saturation or loss of resolution. -/
theorem test_quantise_rescale : buildRow (int4 0) 0 0 (enc 0 true values61) =
      [0x58, 0x34, 0x66, 0x3C, 0xC1, 0xC6, 0x7A, 0xAE] ++ List.replicate 24 0 ∧
    (enc 0 true values61).sats = 0 ∧ (enc 0 true values61).resLoss = false := by decide +kernel

/-- Worked example 6.1: the rescaled row decodes to the values of its table. -/
theorem test_decode_rescaled :
    decodeRow (int4 0) [0x58, 0x34, 0x66, 0x3C, 0xC1, 0xC6, 0x7A, 0xAE] [] [] =
    [0x3FAF8000, 0x3C600000, 0x402EA000, 0x3C600000, 0xBF078000, 0x40400000, 0x3F0E8000, 0xBF078000] := by
  decide +kernel

/-- Worked example 6.1, the drift the other way: every code is 0 and the row has lost its resolution. -/
theorem test_resolution_loss :
    (enc 0 false [0x3E99999A, 0x3E4CCCCD, 0x3E851EB8, 0x3E9EB852, 0x3E6147AE, 0x3E8F5C29, 0x3E75C28F, 0x3E99999A]).payload = 0 ∧
    (enc 0 false [0x3E99999A, 0x3E4CCCCD, 0x3E851EB8, 0x3E9EB852, 0x3E6147AE, 0x3E8F5C29, 0x3E75C28F, 0x3E99999A]).resLoss = true := by
  decide +kernel

/-- The bag of worked example 5.1: the rows A, B, A, C, D, A. -/
def bag51 : List WinEntry :=
  [0, 1, 0, 2, 3, 0].zipIdx.map (fun x => { pos := x.2, row := some x.1, weight := 0x3F800000 })

/-- Worked example 5.1: A folds to leaf 0 with weight 3, and B, C and D follow. -/
theorem test_fold_segment : (foldSegment 1 6 bag51).map (fun l => (l.row, l.weight, l.count)) =
    [(some 0, 0x40400000, 3), (some 1, 0x3F800000, 1), (some 2, 0x3F800000, 1), (some 3, 0x3F800000, 1)] := by decide +kernel

/-- Worked example 5.1: the tree sums to 3.25, MEAN gives 0x3F0A_AAAB, and the bag reserves one tree-store entry. -/
theorem test_mean_bag :
    poolLeaves 1 1 [(0x40400000, [0x3F600000]), (0x3F800000, [0xBE800000]), (0x3F800000, [0x3F800000]), (0x3F800000, [0xBE000000])] =
      [0x40500000] ∧
    scaleBag 1 6 [0x40500000] = [0x3F0AAAAB] ∧ bagTree 1 8 6 = 1 := by decide +kernel

/-- Worked example 7.1: the row scale and the codes as a latch takes them. -/
theorem test_latch_row :
    latchRow 4 [0x3F800000, 0xBFC00000, 0x3F000000, 0x40600000, 0x00000000, 0xBF800000, 0x40100000, 0xC0600000] =
    (0x3F000000, [2, -3, 1, 7, 0, -2, 4, -7], 0) := by decide +kernel

/-- Worked example 7.1: the accumulator is 98 and the output 0x3F44_0000. -/
theorem test_fold_output :
    foldAcc 0 [2, -3, 1, 7, 0, -2, 4, -7] [[10], [-3], [7], [1], [100], [-20], [2], [-1]] = [98] ∧
    foldScaled 0x3F000000 [0x3C800000] [98] = [0x3F440000] := by decide +kernel

/-- Worked example 4.2: the image of the transposing load is accepted for slot 20. -/
theorem test_sprout_image : imageOk false true 20
    [0x2000000000000020, 0x0680000000000000, 0x0E80000000000000, 0x2000000000000020, 0x6052000000000000,
      0x0A80000000000020, 0x2400000000000000, 0x0800000000008000, 0x2400000000000000, 0xFC00000000000000] = true := by
  decide +kernel

/-- Worked example 9.1: the fields of the shelfmark before the replacement, and the shelfmark after it. -/
theorem test_shelfmark : smTier 0x3FFC000010000040 = 0 ∧ smAccession 0x3FFC000010000040 = 0xFFF ∧
    smLoc 0x3FFC000010000040 = 0x10000040 ∧ smMake 0 (0xFFF + 1) 0x10000043 = 0x10000043 := by decide +kernel

/-- Worked example 13.1: the header of the read's one cell. -/
theorem test_cell_header : cellHeader { up with sfp := { engineId := 2 } }
    { type := ctReadReq, dst := 7, xid := 0x1234, payload := [], len := 16, cseq := 0x12345, slot := some 1 } 0 =
    0x000000012345411001C020C002468000 := by decide +kernel

/-! ## One step -/

/-- A step on an empty queue leaves the engine as it was. -/
theorem test_idle_step : step up = .next up := by rfl

/-- A step takes the command at the front of the queue and leaves the rest. -/
theorem test_step_takes_front :
    (match step { up with pending := [.noMarker, .tickMissed] } with
      | .next t => t.pending
      | _ => []) = [.tickMissed] := by decide +kernel

end Sys2Proof.Tests
end

section
/-! SUPPORT. How a GARWA_READ answers a named entry, and the entry ID_STEPPING of R9 (Tables 15.10 and 18.1). -/

namespace Sys2Proof.Machine

/-! ### Reading an entry of the object dictionary (R381, R448, R450) -/

theorem exec_garwaRead (session : Nat) (role : Role) (index sub off len : Nat) (s : State) :
    exec (.garwaRead session role index sub off len) s = .next (doGarwaRead session role index sub off len s) := rfl

/-- GARWA_READ of a named entry, within the bounds of R381, answers the bytes of its value. -/
theorem exec_garwaRead_named {s : State} {session index sub off len : Nat} {role : Role} {e : OdEnt}
    (hs : sessionOk s session role = true) (hlen : len ≤ 1024) (hoff : off < 2 ^ 32) (he : odNamed index sub = some e) :
    exec (.garwaRead session role index sub off len) s = .next (respond session osOk (odRead s e off len) s) := by
  have hkey : (odKey index sub).isNone = false := by
    cases hk : odKey index sub with
    | none => simp [odNamed, hk] at he
    | some k => rfl
  have hbounds : ¬ (1024 < len ∨ 2 ^ 32 ≤ off ∨ (odKey index sub).isNone = true) := by
    simp only [hkey, Bool.false_eq_true, or_false]
    omega
  rw [exec_garwaRead, doGarwaRead, if_neg (by simp [hs]), if_neg hbounds, he]

/-- An entry with no stored value holds its default (R450). -/
theorem odGet_default {s : State} {k : Nat} {e : OdEnt} (hod : tabFind k s.od = none) (he : odFind k = some e) :
    odGet s k = e.dflt := by
  simp [odGet, hod, he]

/-- An RO entry that the engine keeps, in a subsystem with its clock on, reads the value it holds. -/
theorem odValue_kept {s : State} {e : OdEnt} (hacc : e.acc = .ro) (hgate : gated s (odSub e.key) = false)
    (hcomp : odComputed s e.key = none) (hcount : e.count = .none) : odValue s e = odGet s e.key := by
  simp [odValue, hacc, hgate, hcomp, hcount]

/-- A readable entry other than the serial number and the certificate reads the low bytes of its value. -/
theorem odRead_fixed {s : State} {e : OdEnt} (hacc : e.acc ≠ .wo) (hserial : e.key ≠ odIdSerial) (hcert : e.key ≠ odIdCert)
    (off len : Nat) : odRead s e off len = leBytes (min len (e.size - off)) (odValue s e >>> (8 * off)) := by
  simp [odRead, hacc, hserial, hcert]

/-! ### ID_STEPPING (R9) -/

/-- The entry 0x1000:03 of Table 18.1. -/
def steppingEnt : OdEnt := { key := odIdStepping, ty := .u16, acc := .ro, role := .operator, size := 2, dflt := 0x00A1 }

theorem odFind_stepping : odFind odIdStepping = some steppingEnt := by decide

theorem odNamed_stepping : odNamed 0x1000 3 = some steppingEnt := odFind_stepping

/-- The engine keeps ID_STEPPING: its key is none of those whose values are worked out as they are read, so every
comparison of keys in `odComputed` comes out false, whatever the state. -/
theorem odComputed_stepping (s : State) : odComputed s odIdStepping = none := rfl

/-- With nothing stored in its place and the clock of the MSC on, ID_STEPPING reads its default. -/
theorem odRead_stepping {s : State} (hgate : gated s (odSub odIdStepping) = false) (hod : tabFind odIdStepping s.od = none) :
    odRead s steppingEnt 0 2 = [0xA1, 0x00] := by
  have hvalue : odValue s steppingEnt = 0x00A1 :=
    (odValue_kept rfl hgate (odComputed_stepping s) rfl).trans (odGet_default hod odFind_stepping)
  rw [odRead_fixed (by decide) (by decide) (by decide), hvalue]
  rfl

/-- Settles O56: the entry stands in the dictionary, and the general rule for a read of a named entry gives the answer. -/
theorem steppingEntry : Obligations.SteppingEntry := by
  unfold Obligations.SteppingEntry
  refine ⟨⟨steppingEnt, odNamed_stepping, rfl, rfl, rfl, rfl⟩, fun s session role hs hgate hod => ?_⟩
  rw [exec_garwaRead_named hs (by decide) (by decide) odNamed_stepping, odRead_stepping hgate hod]

end Sys2Proof.Machine
end

section
/-! SUPPORT. Where the Catalogue and the Pod find a row of a direct shard (R26). -/

namespace Sys2Proof.Machine

/-! ### Rows of a direct shard (R26) -/

/-- The places of a direct shard's rows are STRIDE × 32 bytes apart from BASE × 32 on. -/
theorem rowAddr_direct {x : BitVec 512} (hdirect : sdShelved x = false) (base p : Nat) :
    rowAddr x base p = base * 32 + p * sdStride x * 32 := by
  simp only [rowAddr, hdirect, Bool.false_eq_true, if_false]
  ring

/-- No shelfmark stands between a position and its row in a direct shard. -/
theorem rowPlace_direct {x : BitVec 512} (hdirect : sdShelved x = false) (s : State) (p : Nat) :
    rowPlace s x p = some (sdTier x, rowAddr x (sdBase x) p) := by
  simp [rowPlace, hdirect]

/-- The Pod finds a row of a direct shard in the home tier without a read before it, under any base. -/
theorem resolveRow_direct {x : BitVec 512} (hdirect : sdShelved x = false) (s : State) (i base p : Nat) :
    resolveRow s i x base p = .place (sdTier x) (rowAddr x base p) := by
  simp [resolveRow, hdirect]

/-- Settles O55: the Catalogue's place of a row and the Pod's are both `rowAddr`, which is R26's formula on the fields BASE
and STRIDE. -/
theorem directRowAddress : Obligations.DirectRowAddress := by
  unfold Obligations.DirectRowAddress
  intro s x i p a hdirect ha
  have haddr : rowAddr x (sdBase x) p = a := (rowAddr_direct hdirect (sdBase x) p).trans ha.symm
  rw [rowPlace_direct hdirect, resolveRow_direct hdirect, haddr]
  exact ⟨rfl, rfl⟩

end Sys2Proof.Machine
end

section
/-! SUPPORT. What a doorbell write does (R61): when the tail is taken, when it is turned away, and when the write is
ignored. -/

namespace Sys2Proof.Machine

/-! ### Doorbells (R61) -/

/-- The difference of two ring pointers, as a number modulo 2^(n+1) over the integers. -/
theorem ptrSub_cast (n a b : Nat) : (ptrSub n a b : Int) = ((a : Int) - b) % 2 ^ (n + 1) := by
  have hle : b % 2 ^ (n + 1) ≤ a + 2 ^ (n + 1) :=
    (Nat.mod_lt _ (Nat.two_pow_pos _)).le.trans (Nat.le_add_left _ _)
  calc (ptrSub n a b : Int)
      = ((a : Int) - b % 2 ^ (n + 1) + 2 ^ (n + 1)) % 2 ^ (n + 1) := by
        unfold ptrSub
        push_cast [Nat.cast_sub hle]
        ring_nf
    _ = ((a : Int) - b) % 2 ^ (n + 1) := by rw [Int.add_emod_right, Int.sub_emod_emod]

/-- A minuend may be reduced to n + 1 bits first. -/
theorem ptrSub_mod_left (n a b : Nat) : ptrSub n (a % 2 ^ (n + 1)) b = ptrSub n a b := by
  have h : (ptrSub n (a % 2 ^ (n + 1)) b : Int) = ptrSub n a b := by
    rw [ptrSub_cast, ptrSub_cast]
    push_cast
    exact Int.emod_sub_emod ..
  exact_mod_cast h

/-- The check of a doorbell, whose value counts modulo 2^(n+1), is R61's two bounds. -/
theorem doorbellOk_iff (r : Queue) (v : Nat) :
    doorbellOk r (v % 2 ^ (qLog r + 1)) = true ↔
      ((r.tail : Int) - r.head.val) % 2 ^ (qLog r + 1) ≤ ((v : Int) - r.head.val) % 2 ^ (qLog r + 1) ∧
        ((v : Int) - r.head.val) % 2 ^ (qLog r + 1) ≤ 2 ^ qLog r := by
  rw [← ptrSub_cast, ← ptrSub_cast]
  simp only [doorbellOk, ptrSub_mod_left, Bool.and_eq_true, decide_eq_true_eq]
  exact and_congr Nat.cast_le.symm (by exact_mod_cast Iff.rfl)

theorem takesBell_iff (r : Queue) : takesBell r = true ↔ r.state = .active ∨ r.state = .waiting ∨ r.state = .paused := by
  simp [takesBell, or_assoc]

theorem exec_cfeQTailDoorbell (q v : Nat) (s : State) :
    exec (.cfeQTailDoorbell q v) s = .next (whenS (regOn s 0) (doCfeQTailDoorbell q v) s) := rfl

/-- A queue whose pointers agree takes the new tail where R61's check passes, and else keeps its own and has the event
posted to its ring. -/
theorem ringBell_sound {q : Nat} {s : State} (v : Nat) (hsound : queueBroken (getQ s q) = false) :
    ringBell q v s = if doorbellOk (getQ s q) (v % 2 ^ (qLog (getQ s q) + 1)) then
        modQ q (fun r => { r with tail := v % 2 ^ (qLog (getQ s q) + 1) }) s
      else postEvent (qEvq s q) evCfeDoorbellBad q 0 0 (onCfe (fun c => { c with badBells := c.badBells + 1 }) s) := by
  simp only [ringBell, hsound, Bool.false_eq_true, if_false]
  rfl

/-- With the registers on, a queue that takes doorbells from MMIO has its bell rung. -/
theorem exec_doorbell_taken {q : Nat} {s : State} (v : Nat) (hon : regOn s 0 = true) (hq : q < 512)
    (htakes : takesBell (getQ s q) = true) (hlz : bitOf (getQ s q).ctl 1 = false) :
    exec (.cfeQTailDoorbell q v) s = .next (ringBell q v s) := by
  rw [exec_cfeQTailDoorbell, whenS, if_pos hon, doCfeQTailDoorbell, if_pos ⟨hq, htakes, by simp [hlz]⟩]

/-- A doorbell is ignored where a counter is the doorbell or the queue takes none. -/
theorem exec_doorbell_ignored {q : Nat} {s : State} (v : Nat)
    (hno : bitOf (getQ s q).ctl 1 = true ∨ takesBell (getQ s q) = false) :
    exec (.cfeQTailDoorbell q v) s = .next s := by
  have hnot : ¬ (q < 512 ∧ takesBell (getQ s q) = true ∧ (!bitOf (getQ s q).ctl 1) = true) := by
    rintro ⟨-, htakes, hlz⟩
    cases hno with
    | inl h => simp [h] at hlz
    | inr h => simp [h] at htakes
  rw [exec_cfeQTailDoorbell, whenS, doCfeQTailDoorbell, if_neg hnot, ite_self]

/-- A doorbell leaves the queue of waiting commands as it was. -/
theorem exec_doorbell_pending {q v : Nat} {s t : State} (h : exec (.cfeQTailDoorbell q v) s = .next t) :
    t.pending = s.pending :=
  exec_holds (stable_pending s.pending) (.cfeQTailDoorbell q v) rfl t h

theorem step_pending_cons {c : Instr} {rest : List Instr} {s : State} (h : s.pending = c :: rest) :
    step s = exec c { s with pending := rest } := by
  simp only [step, h]

/-- Settles O53: R61's bounds are the model's check read over the integers; the ignored cases leave the state alone; and
since a doorbell keeps the queue of commands, the next step takes the next one. -/
theorem doorbells : Obligations.Doorbells := by
  unfold Obligations.Doorbells
  refine ⟨?taken, ?ignored, ?order⟩
  case taken =>
    rintro s q v n h hon hq hstate hlz hsound rfl rfl
    rw [exec_doorbell_taken v hon hq ((takesBell_iff _).2 hstate) hlz, ringBell_sound v hsound]
    simp only [doorbellOk_iff]
  case ignored =>
    rintro s q v (hlz | ⟨hactive, hwaiting, hpaused⟩)
    · exact exec_doorbell_ignored v (.inl hlz)
    · exact exec_doorbell_ignored v (.inr (by simp [takesBell, hactive, hwaiting, hpaused]))
  case order =>
    intro s q v p w rest hs
    have hfirst := exec_cfeQTailDoorbell q v { s with pending := .cfeQTailDoorbell p w :: rest }
    have hpending := exec_doorbell_pending hfirst
    exact ⟨_, _, (step_pending_cons hs).trans hfirst, (step_pending_cons hpending).trans (exec_cfeQTailDoorbell ..),
      hfirst, exec_cfeQTailDoorbell ..⟩

end Sys2Proof.Machine
end

section
/-! SUPPORT. What FENCE, FENCE_RELEASE and NOP do to a live task (R77, R315), and the status of a task that finishes in
its folio (R82). -/

namespace Sys2Proof.Machine

/-! ### NOP and FENCE (R77) -/

theorem exec_nop (n : Nat) (s : State) : exec (.nop n) s = .next (doNop n s) := rfl
theorem exec_fence (n : Nat) (s : State) : exec (.fence n) s = .next (doFence n s) := rfl
theorem exec_fenceRelease (n : Nat) (s : State) : exec (.fenceRelease n) s = .next (doFenceRelease n s) := rfl

theorem doNop_live {n : Nat} {k : Task} {s : State} (h : liveTask s n opNop = some k) : doNop n s = finishTask n s := by
  simp [doNop, h]

/-- The three outcomes of a FENCE: it waits for earlier records, it begins its drain, or it completes. -/
theorem doFence_live {n : Nat} {k : Task} {s : State} (h : liveTask s n opFence = some k) :
    doFence n s = if earlierOpen s k then stallTask n s
      else if dXpath k.desc then stallTask n (beginDrain n s) else finishTask n s := by
  simp only [doFence, h]

/-- An earlier task without a record holds the release back. -/
theorem doFenceRelease_held {n : Nat} {k : Task} {s : State} (h : liveTask s n opFence = some k)
    (hopen : earlierOpen s k = true) : doFenceRelease n s = s := by
  simp [doFenceRelease, h, hopen]

/-- A stalled FENCE with no drain still to begin completes once its drain has ended. -/
theorem doFenceRelease_stalled {n : Nat} {k : Task} {s : State} (h : liveTask s n opFence = some k)
    (hphase : k.phase = .stalled) (hopen : earlierOpen s k = false) (hbegun : (dXpath k.desc && k.drainTo.isNone) = false) :
    doFenceRelease n s = if drainEnded s k then finishTask n (beginDrain n s) else beginDrain n s := by
  have htask := getTask_beginDrain (liveTask_some h).1 hbegun
  simp only [doFenceRelease, h, hphase, hopen, htask]
  rfl

/-! ### The drain of XPATH (R315) -/

/-- Without XPATH and without a drain there is nothing to wait for. -/
theorem drainEnded_none {s : State} {k : Task} (hx : dXpath k.desc = false) (hd : k.drainTo = none) : drainEnded s k = true := by
  simp [drainEnded, hx, hd]

/-- A drain has ended where every outstanding write was issued after it began. -/
theorem drainEnded_some {s : State} {k : Task} {m : Nat} (hd : k.drainTo = some m) :
    drainEnded s k = true ↔ ∀ w ∈ s.hpt.outq, m < w.seq := by
  simp [drainEnded, hd]

/-- With XPATH and no drain yet, the drain waits for every write issued so far. -/
theorem getTask_beginDrain_begun {n : Nat} {k : Task} {s : State} (h : getTask s n = some k) (hx : dXpath k.desc = true)
    (hd : k.drainTo = none) : getTask (beginDrain n s) n = some { k with drainTo := some s.hpt.issued } := by
  unfold beginDrain
  rw [getTask_mod_same _ h (fun j => by split <;> rfl)]
  simp [hx, hd]

/-- A FENCE that begins its drain stalls its queue. -/
theorem stallTask_beginDrain_stalls {n : Nat} {k : Task} {s : State} (h : getTask s n = some k) (hx : dXpath k.desc = true)
    (hd : k.drainTo = none) :
    stallsAs n k { k with phase := .stalled, drainTo := some s.hpt.issued } s (stallTask n (beginDrain n s)) := by
  obtain ⟨htask, hqueue, hrest⟩ := stallTask_stalls (getTask_beginDrain_begun h hx hd)
  exact ⟨htask, hqueue, onlyTask_trans (beginDrain_only n k.queue s) hrest⟩

/-- Looking for a drain that need not begin does not change how a task finishes. -/
theorem finishTask_beginDrain_finishes {n : Nat} {k : Task} {s : State} (h : getTask s n = some k)
    (hbegun : (dXpath k.desc && k.drainTo.isNone) = false) : finishes n k s (finishTask n (beginDrain n s)) := by
  obtain ⟨htask, hqueue, hrest⟩ := finishTask_finishes (getTask_beginDrain h hbegun)
  exact ⟨htask, hqueue, onlyTask_trans (beginDrain_only n k.queue s) hrest⟩

/-- FENCE_RELEASE completes a stalled FENCE whose earlier records are written and whose drain has ended. -/
theorem doFenceRelease_finishes {n : Nat} {k : Task} {s : State} (h : liveTask s n opFence = some k)
    (hphase : k.phase = .stalled) (hopen : earlierOpen s k = false) (hbegun : (dXpath k.desc && k.drainTo.isNone) = false)
    (hended : drainEnded s k = true) : finishes n k s (doFenceRelease n s) := by
  rw [doFenceRelease_stalled h hphase hopen hbegun, if_pos hended]
  exact finishTask_beginDrain_finishes (liveTask_some h).1 hbegun

/-- FENCE_RELEASE leaves a FENCE whose drain goes on as it is, and every other task and queue. -/
theorem doFenceRelease_draining {n : Nat} {k : Task} {s : State} (h : liveTask s n opFence = some k)
    (hphase : k.phase = .stalled) (hbegun : (dXpath k.desc && k.drainTo.isNone) = false) (hended : drainEnded s k = false) :
    getTask (doFenceRelease n s) n = some k ∧ getQ (doFenceRelease n s) k.queue = getQ s k.queue ∧
      onlyTask n k.queue s (doFenceRelease n s) := by
  have htask := (liveTask_some h).1
  cases hopen : earlierOpen s k with
  | true =>
    rw [doFenceRelease_held h hopen]
    exact ⟨htask, rfl, fun _ _ => rfl, fun _ _ => rfl, rfl⟩
  | false =>
    rw [doFenceRelease_stalled h hphase hopen hbegun, if_neg (by simp [hended])]
    exact ⟨getTask_beginDrain htask hbegun, rfl, beginDrain_only n k.queue s⟩

/-! ### The status of a task that finishes in its folio (R82, R366, R367) -/

/-- A task whose finish point is its record has not overrun while the record comes within the folio of its admission. -/
theorem overran_atRecord {k : Task} {now : Nat} (hfinish : k.finishFolio = none) (hnow : now ≤ k.admitFolio) :
    overran k now = false := by
  simp [overran, finishedIn, hfinish, hnow]

/-- The status is OK where no error stands and no flag is due. -/
theorem taskStatus_ok {k : Task} {now : Nat} (herr : k.err = none) (hdefaults : k.defaults = 0) (hsats : k.sats = 0)
    (hlong : k.bagLong = false) (hoverran : overran k now = false) (hdue : now ≤ dueFolio k) : taskStatus k now = stOk := by
  simp [taskStatus, statusFlags, herr, hdefaults, hsats, hlong, hoverran, Nat.not_lt.2 hdue, stOk]

/-- NOP and FENCE finish as their record is written, so passing the finish point notes no folio. -/
theorem finishedTask_finishFolio {k : Task} (now : Nat) (hop : dOp k.desc = opNop ∨ dOp k.desc = opFence) :
    (finishedTask now k).finishFolio = none := by
  have hrecord : finishAtRecord k.desc = true := by
    cases hop with
    | inl h => simp [finishAtRecord, h]
    | inr h => simp [finishAtRecord, h]
  simp [finishedTask, hrecord]

/-- Settles O54: each clause is one outcome of `doFence`, `doFenceRelease` or `doNop`, and the status follows as none of
its flags is due. -/
theorem fencesAndNops : Obligations.FencesAndNops := by
  unfold Obligations.FencesAndNops
  refine ⟨?stalls, ?held, ?completes, ?released, ?drains, ?draining, ?drained, ?nop, ?status⟩
  case stalls =>
    intro s n k h hopen
    refine ⟨_, exec_fence n s, ?_⟩
    rw [doFence_live h, if_pos hopen]
    exact stallTask_stalls (liveTask_some h).1
  case held =>
    intro s n k h hopen
    rw [exec_fenceRelease, doFenceRelease_held h hopen]
  case completes =>
    intro s n k h hopen hx
    refine ⟨_, exec_fence n s, ?_⟩
    rw [doFence_live h, if_neg (by simp [hopen]), if_neg (by simp [hx])]
    exact finishTask_finishes (liveTask_some h).1
  case released =>
    intro s n k h hphase hopen hx hd
    exact ⟨_, exec_fenceRelease n s, doFenceRelease_finishes h hphase hopen (by simp [hx]) (drainEnded_none hx hd)⟩
  case drains =>
    intro s n k h hopen hx hd
    refine ⟨_, exec_fence n s, ?_⟩
    rw [doFence_live h, if_neg (by simp [hopen]), if_pos hx]
    exact stallTask_beginDrain_stalls (liveTask_some h).1 hx hd
  case draining =>
    rintro s n k m h hphase hd ⟨w, hw, hseq⟩
    have hended : drainEnded s k = false :=
      Bool.eq_false_iff.2 fun hall => Nat.not_lt.2 hseq ((drainEnded_some hd).1 hall w hw)
    exact ⟨_, exec_fenceRelease n s, doFenceRelease_draining h hphase (by simp [hd]) hended⟩
  case drained =>
    intro s n k m h hphase hopen hd hall
    exact ⟨_, exec_fenceRelease n s,
      doFenceRelease_finishes h hphase hopen (by simp [hd]) ((drainEnded_some hd).2 hall)⟩
  case nop =>
    intro s n k h
    refine ⟨_, exec_nop n s, ?_⟩
    rw [doNop_live h]
    exact finishTask_finishes (liveTask_some h).1
  case status =>
    intro k now hop herr hdefaults hsats hlong hadmit hdue
    have hoverran : overran (finishedTask now k) now = false :=
      overran_atRecord (finishedTask_finishFolio now hop) hadmit
    exact taskStatus_ok herr hdefaults hsats hlong hoverran hdue

end Sys2Proof.Machine
end

section
/-! SUPPORT. The machine as a whole: every command answers a next state, keeps the queue of commands and the canonical form
of the memories, and leaves alone the pieces of the machine that its list does not name. -/

namespace Sys2Proof.Machine

/-! ### Every command answers a next state -/

/-- A command's meaning never faults and never refuses. -/
theorem exec_next (c : Instr) (s : State) : ∃ t, exec c s = .next t := by
  cases c <;> exact ⟨_, rfl⟩

/-- What no part of a command can make false holds of the state that it answers. -/
theorem exec_keeps {P : State → Prop} {c : Instr} {s t : State} (e : exec c s = .next t)
    (h : ∀ p ∈ partsOf c, Stable P p) (hs : P s) : P t := exec_parts c h hs t e

/-- Settles O1: an unfolding of `step`. -/
theorem stepRunsFrontCommand : Obligations.StepRunsFrontCommand := by
  intro c rest s h
  simp only [step, h]

/-- Settles O2: `exec_next`, and no part of a command reaches the queue of commands. -/
theorem everyCommandRunsAndKeepsQueue : Obligations.EveryCommandRunsAndKeepsQueue := by
  intro c s
  obtain ⟨t, e⟩ := exec_next c s
  exact ⟨t, e, exec_keeps e (fun p _ => stable_pending s.pending p) rfl⟩

/-- Settles O3: no part of a command breaks the canonical form (`stable_memsWf`), nor does taking a command from the queue. -/
theorem stepKeepsMemoriesCanonical : Obligations.StepKeepsMemoriesCanonical := by
  intro s t hs e
  exact step_holds stable_memsWf (fun _ _ h => h) hs t e

/-- Settles O4: every memory is empty after reset. -/
theorem resetMemoriesCanonical : Obligations.ResetMemoriesCanonical := by
  unfold Obligations.ResetMemoriesCanonical memsWf
  refine ⟨?_, ?_, ?_, ?_⟩ <;> rfl

/-! ### The pieces that the parts of a command reach -/

/-- The parts of a command that can change a piece. -/
def pieceParts : Piece → List Part
  | .front => [.cfe]
  | .queues => [.cfe, .mq]
  | .cat => [.cat]
  | .replicas => [.cat, .po, .ev]
  | .pods => [.pods]
  | .gau => [.gau]
  | .stk => [.stk]
  | .pinned => [.stk, .po, .ev]
  | .mss => [.mss]
  | .upu => [.upu]
  | .hpt => [.hpt]
  | .sfp => [.sfp]
  | .fsu => [.fsu]
  | .msc => [.msc]
  | .cru => [.cru]
  | .od => [.od]
  | .out => [.out, .ev]
  | .host => [.host]
  | .gddr => [.gddr, .st, .ev]
  | .scratch => [.scratch, .ev]
  | .tiles => [.tiles, .ev]

/-- The front end without its queues, its event rings and the count of dropped events. -/
def frontBare (s : State) : Cfe := { s.cfe with queues := [], evqs := [], dropped := 0 }

theorem quiet_frontBare : Quiet frontBare := quiet_bare.of (fun c => { c with queues := [] })

theorem keeps_frontBare (s : State) (p : Part) (h : p ≠ .cfe := by decide) : Stable (fun t => frontBare t = frontBare s) p := by
  refine quiet_frontBare.keeps s [.cfe] (fun p hp hn => ?_) (.inr (fun _ _ _ => rfl)) p (by simpa using h)
  cases p
  case cfe | mq | pw | po | st | ev => first | exact absurd hp (by decide) | exact absurd hn (by decide)
  case host | gddr | scratch | tiles => exact fun f s _ h => h
  all_goals exact fun f s h => h


/-- A piece that no part of a command can change is the same after it. -/
theorem samePiece_of_parts {c : Instr} {s t : State} (e : exec c s = .next t) (p : Piece)
    (h : ∀ q ∈ partsOf c, q ∉ pieceParts p) : samePiece p s t := by
  cases p
  case front =>
    have k := exec_keeps e (fun q hq => keeps_frontBare s q (by simpa [pieceParts] using h q hq)) rfl
    exact congrArg (fun x : Cfe => { x with queues := s.cfe.queues, evqs := s.cfe.evqs, dropped := s.cfe.dropped }) k
  case queues => exact exec_keeps e (fun q hq => keeps_queues s q (h q hq)) rfl
  case cat =>
    have k := exec_keeps e (fun q hq => keeps_catBare s q (by simpa [pieceParts] using h q hq)) rfl
    exact congrArg (fun x : Cat => { x with replicas := s.cat.replicas }) k
  case replicas => exact congrArg Cat.replicas (exec_keeps e (fun q hq => keeps_cat s q (h q hq)) rfl)
  case pods => exact exec_keeps e (fun q hq => keeps_podsBare s q (by simpa [pieceParts] using h q hq)) rfl
  case gau => exact exec_keeps e (fun q hq => keeps_gau s q (h q hq)) rfl
  case stk =>
    have k := exec_keeps e (fun q hq => keeps_stkBare s q (by simpa [pieceParts] using h q hq)) rfl
    exact congrArg (fun x : Stk => { x with pinned := s.stk.pinned }) k
  case pinned => exact congrArg Stk.pinned (exec_keeps e (fun q hq => keeps_stk s q (h q hq)) rfl)
  case mss =>
    have k := exec_keeps e (fun q hq => keeps_mssBare s q (by simpa [pieceParts] using h q hq)) rfl
    exact congrArg (fun x : Mss => { x with
      atomsRead := s.mss.atomsRead, atomsWritten := s.mss.atomsWritten, badAtoms := s.mss.badAtoms, writeq := s.mss.writeq }) k
  case upu => exact exec_keeps e (fun q hq => keeps_upu s q (h q hq)) rfl
  case hpt =>
    have k := exec_keeps e (fun q hq => keeps_hptBare s q (by simpa [pieceParts] using h q hq)) rfl
    exact congrArg (fun x : Hpt => { x with
      outq := s.hpt.outq, issued := s.hpt.issued, bytesWritten := s.hpt.bytesWritten, snoop := s.hpt.snoop,
      tlb := s.hpt.tlb, transMisses := s.hpt.transMisses }) k
  case sfp => exact exec_keeps e (fun q hq => keeps_sfp s q (h q hq)) rfl
  case fsu => exact exec_keeps e (fun q hq => keeps_fsu s q (h q hq)) rfl
  case msc =>
    have k := exec_keeps e (fun q hq => keeps_mscBare s q (by simpa [pieceParts] using h q hq)) rfl
    exact congrArg (fun x : Msc => { x with
      alert := s.msc.alert, held := s.msc.held, primary := s.msc.primary, unrecorded := s.msc.unrecorded }) k
  case cru => exact exec_keeps e (fun q hq => keeps_cru s q (h q hq)) rfl
  case od =>
    have k := exec_keeps e (fun q hq => keeps_odBare s q (by simpa [pieceParts] using h q hq)) rfl
    exact fun j hj hr => odGet_bare k hj hr
  case out => exact exec_keeps e (fun q hq => keeps_out s q (h q hq)) rfl
  case host => exact exec_keeps e (fun q hq => keeps_host s q (h q hq)) rfl
  case gddr => exact exec_keeps e (fun q hq => keeps_gddr s q (h q hq)) rfl
  case scratch => exact exec_keeps e (fun q hq => keeps_scratch s q (h q hq)) rfl
  case tiles => exact exec_keeps e (fun q hq => keeps_tiles s q (h q hq)) rfl

/-- Whether the list of a command's pieces names a piece, or no part of the command can change it. -/
def pieceNamed (c : Instr) (p : Piece) : Bool :=
  (mayChange c).elem p || (partsOf c).all (fun q => !(pieceParts p).elem q)

/-- The list of a command's pieces names each piece that one of its parts can change. -/
theorem pieceNamed_all (c : Instr) (p : Piece) : pieceNamed c p = true := by
  cases c <;> cases p <;> rfl

theorem parts_of_not_mayChange {c : Instr} {p : Piece} (hp : p ∉ mayChange c) : ∀ q ∈ partsOf c, q ∉ pieceParts p := by
  have h := pieceNamed_all c p
  unfold pieceNamed at h
  simpa [hp] using h

/-- Settles O52: a piece that the list does not name is one that no part of the command reaches. -/
theorem commandsKeepTheRest : Obligations.CommandsKeepTheRest := by
  intro c s t p e hp
  exact samePiece_of_parts e p (parts_of_not_mayChange hp)

end Sys2Proof.Machine
end

section
/-! SUPPORT. The control operations: NOP and FENCE, the waits, the sync counters with their queued updates, and the remote
operations with their acknowledgement and their timeouts (R76, R77, R370 to R373). -/

namespace Sys2Proof.Machine

/-- A piece of the machine that a command's list does not name is the same after it. -/
theorem exec_piece {c : Instr} {s t : State} (p : Piece) (e : exec c s = .next t) (h : (mayChange c).elem p = false := by rfl) :
    samePiece p s t := commandsKeepTheRest c s t p e (by simpa using h)

/-- The tasks are as they were after a command that does not reach the front end. -/
theorem exec_tasks {c : Instr} {s t : State} (e : exec c s = .next t) (h : (mayChange c).elem .front = false := by rfl) :
    t.cfe.tasks = s.cfe.tasks := (congrArg Cfe.tasks (exec_piece .front e h : _ = s.cfe) :)

/-! ### NOP and FENCE (R77) -/

/-- Settles O5: each clause is one outcome of `doNop`, `doFence` or `doFenceRelease`. -/
theorem controlTasksFinish : Obligations.ControlTasksFinish := by
  unfold Obligations.ControlTasksFinish
  refine ⟨?nop, ?completes, ?stalls, ?released, ?drained⟩
  case nop =>
    intro s n k h
    refine ⟨_, exec_nop n s, ?_⟩
    rw [doNop_live h]
    exact finishTask_finishes (liveTask_some h).1
  case completes =>
    intro s n k h hopen hx
    refine ⟨_, exec_fence n s, ?_⟩
    rw [doFence_live h, if_neg (by simp [hopen]), if_neg (by simp [hx])]
    exact finishTask_finishes (liveTask_some h).1
  case stalls =>
    intro s n k h hopen
    refine ⟨_, exec_fence n s, ?_⟩
    rw [doFence_live h, if_pos hopen]
    exact stallTask_stalls (liveTask_some h).1
  case released =>
    intro s n k h hphase hopen hx hd
    exact ⟨_, exec_fenceRelease n s, doFenceRelease_finishes h hphase hopen (by simp [hx]) (drainEnded_none hx hd)⟩
  case drained =>
    intro s n k m h hphase hopen hd hall
    exact ⟨_, exec_fenceRelease n s,
      doFenceRelease_finishes h hphase hopen (by simp [hd]) ((drainEnded_some hd).2 hall)⟩

/-! ### Waits (R76) -/

/-- A task that stalls its queue can be changed further. -/
theorem stallsAs_modTask {n : Nat} {k k' : Task} {s t : State} (f : Task → Task) (h : stallsAs n k k' s t)
    (hf : ∀ j, (f j).id = j.id) : stallsAs n k (f k') s (modTask n f t) := by
  obtain ⟨htask, hqueue, honly⟩ := h
  refine ⟨getTask_mod_same f htask hf, (getQ_modTask n f t k.queue).trans hqueue, onlyTask_trans honly ?_⟩
  exact ⟨fun j hj => getTask_mod_other t f hj hf, fun p _ => getQ_modTask n f t p, rfl⟩

/-- A wait whose condition holds completes. -/
theorem syncWait_met {n : Nat} {k : Task} {s : State} (h : getTask s n = some k) (hw : k.waiting = false)
    (hh : syncHeld s k = false) (hm : waitMet k.desc (counter s (syCounter k.desc)) = true) :
    finishes n k s (syncWait n k s) := by
  simp only [syncWait, hw, hh, hm, Bool.false_eq_true, if_false, if_true]
  exact finishTask_finishes h

/-- A wait whose condition does not hold stalls its queue and counts its folios. -/
theorem syncWait_unmet {n : Nat} {k : Task} {s : State} (h : getTask s n = some k) (hw : k.waiting = false)
    (hh : syncHeld s k = false) (hm : waitMet k.desc (counter s (syCounter k.desc)) = false) :
    stallsAs n k { k with
      phase := .stalled, waiting := true,
      waitLeft := if syTimeout k.desc = 0 then none else some (syTimeout k.desc) } s (syncWait n k s) := by
  simp only [syncWait, hw, hh, hm, Bool.false_eq_true, if_false]
  exact stallsAs_modTask _ (stallTask_stalls h) (fun _ => rfl)

/-- The task of a live SYNC_OP. -/
theorem getTask_syncTask {s : State} {n op : Nat} {k : Task} (h : syncTask s n op = some k) : getTask s n = some k :=
  (liveTask_some (syncTask_some h).1).1

theorem waitMet_ge {k : Task} (v : Nat) (h : syOp k.desc = 2) : waitMet k.desc v = decide (syValue k.desc ≤ v) := by
  simp [waitMet, h]
theorem waitMet_eq {k : Task} (v : Nat) (h : syOp k.desc = 3) : waitMet k.desc v = (v == syValue k.desc) := by
  simp [waitMet, h]

theorem exec_waitGe {n : Nat} {s : State} {k : Task} (h : syncTask s n 2 = some k) :
    exec (.waitGe n) s = .next (syncWait n k s) := by
  show Host.Outcome.next (doWaitGe n s) = _
  simp only [doWaitGe, h]
theorem exec_waitEq {n : Nat} {s : State} {k : Task} (h : syncTask s n 3 = some k) :
    exec (.waitEq n) s = .next (syncWait n k s) := by
  show Host.Outcome.next (doWaitEq n s) = _
  simp only [doWaitEq, h]

/-- Settles O6: the two outcomes of `syncWait` under the condition of each wait. -/
theorem waitsFinishOrStall : Obligations.WaitsFinishOrStall := by
  unfold Obligations.WaitsFinishOrStall
  refine ⟨?ge, ?lt, ?eq, ?ne⟩
  case ge =>
    intro s n k h hw hh hv
    refine ⟨_, exec_waitGe h, syncWait_met (getTask_syncTask h) hw hh ?_⟩
    rw [waitMet_ge _ (syncTask_some h).2]
    exact decide_eq_true hv
  case lt =>
    intro s n k h hw hh hv
    refine ⟨_, exec_waitGe h, syncWait_unmet (getTask_syncTask h) hw hh ?_⟩
    rw [waitMet_ge _ (syncTask_some h).2]
    exact decide_eq_false (Nat.not_le.2 hv)
  case eq =>
    intro s n k h hw hh hv
    refine ⟨_, exec_waitEq h, syncWait_met (getTask_syncTask h) hw hh ?_⟩
    rw [waitMet_eq _ (syncTask_some h).2]
    exact beq_iff_eq.2 hv
  case ne =>
    intro s n k h hw hh hv
    refine ⟨_, exec_waitEq h, syncWait_unmet (getTask_syncTask h) hw hh ?_⟩
    rw [waitMet_eq _ (syncTask_some h).2]
    exact beq_eq_false_iff_ne.2 hv

/-! ### Counters (R370) -/

/-- An update of a counter changes of the FSU that counter and the count of updates; the waits, doorbells and notify slots
that it meets lie outside. -/
theorem setCounter_fsu (c v : Nat) (s : State) : (setCounter c v s).fsu =
    { s.fsu with counters := tabKeep c 0 v s.fsu.counters, applied := s.fsu.applied + 1 } := by
  unfold setCounter
  extract_lets u w
  have hu : Holds (fun t => t.fsu = u.fsu) u := rfl
  show Holds (fun t => t.fsu = u.fsu) _
  simp +contextual (maxDischargeDepth := 99) [keeps_fsu, w, hu]

theorem setCounter_sfp (c v : Nat) (s : State) : (setCounter c v s).sfp = s.sfp := by
  have h : Holds (fun t => t.sfp = s.sfp) s := rfl
  show Holds (fun t => t.sfp = s.sfp) _
  simp +contextual (maxDischargeDepth := 99) [keeps_sfp, h]

theorem finishTask_fsu (n : Nat) (s : State) : (finishTask n s).fsu = s.fsu :=
  (congrArg State.fsu (finishTask_rest n s) :)

theorem counter_congr {s t : State} (h : t.fsu = s.fsu) (c : Nat) : counter t c = counter s c := by
  unfold counter; rw [h]

/-- The value that an update gives a counter. -/
theorem counter_applyCounter (c : Nat) (add : Bool) (v : Nat) (s : State) (d : Nat) : counter (applyCounter c add v s) d =
    if d = c then (if add then (counter s c + v) % 2 ^ 64 else v % 2 ^ 64) else counter s d := by
  unfold applyCounter counter
  rw [setCounter_fsu]
  exact tabGet_keep ..

theorem applyCounter_updates (c : Nat) (add : Bool) (v : Nat) (s : State) :
    (applyCounter c add v s).fsu.updates = s.fsu.updates := by
  unfold applyCounter
  rw [setCounter_fsu]

theorem applyCounter_sfp (c : Nat) (add : Bool) (v : Nat) (s : State) : (applyCounter c add v s).sfp = s.sfp :=
  setCounter_sfp ..

/-- A SET or ADD that is not held back applies its value and completes. -/
theorem syncLocal_free {n : Nat} {k : Task} {s : State} (add : Bool) (hh : syncHeld s k = false) :
    syncLocal n k add s = finishTask n (applyCounter (syCounter k.desc) add (syValue k.desc) s) := by
  simp only [syncLocal, hh, Bool.false_eq_true, if_false]

/-- What a SET or ADD that is not held back leaves of the counters, their updates and the fabric port. -/
theorem syncLocal_counters {n : Nat} {k : Task} {s : State} (add : Bool) (hh : syncHeld s k = false) :
    counter (syncLocal n k add s) (syCounter k.desc) =
      (if add then (counter s (syCounter k.desc) + syValue k.desc) % 2 ^ 64 else syValue k.desc % 2 ^ 64) ∧
    (∀ c, c ≠ syCounter k.desc → counter (syncLocal n k add s) c = counter s c) ∧
    (syncLocal n k add s).fsu.updates = s.fsu.updates ∧ (syncLocal n k add s).sfp = s.sfp := by
  rw [syncLocal_free add hh]
  refine ⟨?_, fun c hc => ?_, ?_, ?_⟩
  · rw [counter_congr (finishTask_fsu ..), counter_applyCounter, if_pos rfl]
  · rw [counter_congr (finishTask_fsu ..), counter_applyCounter, if_neg hc]
  · rw [finishTask_fsu, applyCounter_updates]
  · exact (congrArg State.sfp (finishTask_rest n _) :).trans (applyCounter_sfp ..)

theorem exec_set {n : Nat} {s : State} {k : Task} (h : syncTask s n 0 = some k) :
    exec (.set n) s = .next (syncLocal n k false s) := by
  show Host.Outcome.next (doSet n s) = _
  simp only [doSet, h]
theorem exec_add {n : Nat} {s : State} {k : Task} (h : syncTask s n 1 = some k) :
    exec (.add n) s = .next (syncLocal n k true s) := by
  show Host.Outcome.next (doAdd n s) = _
  simp only [doAdd, h]
theorem exec_counterUpdateApply {c : Nat} {s : State} {u : CUpd} (h : nextUpdate s c = some u) :
    exec (.counterUpdateApply c) s =
      .next (applyCounter c u.add u.v (onFsu (fun f => { f with updates := f.updates.erase u }) s)) := by
  show Host.Outcome.next (doCounterUpdateApply c s) = _
  simp only [doCounterUpdateApply, h]

/-- Settles O7: SET and ADD are `syncLocal`, and each update is one `applyCounter`. -/
theorem counterUpdates : Obligations.CounterUpdates := by
  unfold Obligations.CounterUpdates
  refine ⟨?set, ?add, ?apply⟩
  case set =>
    intro s n k h hh
    obtain ⟨hval, hother, hupd, hsfp⟩ := syncLocal_counters (n := n) false hh
    exact ⟨_, exec_set h, hval, hother, hupd, exec_piece .host (exec_set h), hsfp⟩
  case add =>
    intro s n k h hh
    obtain ⟨hval, hother, hupd, hsfp⟩ := syncLocal_counters (n := n) true hh
    exact ⟨_, exec_add h, hval, hother, hupd, exec_piece .host (exec_add h), hsfp⟩
  case apply =>
    intro s c u h
    have e := exec_counterUpdateApply h
    refine ⟨_, e, ?_, fun d hd => ?_, ?_, exec_piece .host e, ?_⟩
    · rw [counter_applyCounter, if_pos rfl]; rfl
    · rw [counter_applyCounter, if_neg hd]; rfl
    · rw [applyCounter_updates]; rfl
    · rw [applyCounter_sfp]; rfl

end Sys2Proof.Machine
end

section
/-! SUPPORT. Counter updates that MMIO and the fabric queue, the remote operations with their SYNC cell and its
acknowledgement, and the timeouts of waits and remote operations (R370 to R373). -/

namespace Sys2Proof.Machine

/-! ### Updates are queued (R371, R373) -/

/-- The next control message of a member is taken, and does what it does after its source is heard and acknowledged. -/
theorem deliverAck_next {src m : Nat} {s : State} (refused : Bool) (f : State → State) (hm : isMember s src = true)
    (_ : m < 2 ^ 32) (hin : tabGet src 0 s.sfp.ctlIn = m) : ∃ u, deliverAck src m refused f s = f u ∧
      (∀ (P : State → Prop), Stable P .cat → Stable P .sfp → Stable P .ev → P s → P u) ∧
      sfpBare u.sfp = sfpBare { s.sfp with
        quiet := tabPut src 0 s.sfp.quiet, ctlIn := tabPut src ((m + 1) % 2 ^ 32) s.sfp.ctlIn,
        ctlEarly := s.sfp.ctlEarly.filter (fun e => !(e.1 == src && e.2 == m)) } := by
  unfold deliverAck
  rw [if_neg (by simp [hm])]
  extract_lets s1 x d early s2
  have hx : x = m := hin
  have hd : d = 0 := by simp only [d, hx]; omega
  rw [if_pos hd]
  have hs2 : s2.sfp = { s.sfp with
      quiet := tabPut src 0 s.sfp.quiet, ctlIn := tabPut src ((m + 1) % 2 ^ 32) s.sfp.ctlIn,
      ctlEarly := s.sfp.ctlEarly.filter (fun e => !(e.1 == src && e.2 == m)) } := by
    simp only [s2, hx]; rfl
  refine ⟨_, rfl, fun P hcat hsfp hev hs => ?_, ?_⟩
  · have h1 : Holds P s := hs
    show Holds P _
    simp only [s2, s1]
    split <;> simp +contextual (maxDischargeDepth := 99) [hcat, hsfp, hev, h1]
  · split
    · rw [hs2]
    · rw [sendAck_bare, hs2]

theorem queueUpdate_fsu (c : Nat) (fabric add : Bool) (v : Nat) (s : State) : (queueUpdate c fabric add v s).fsu =
    { s.fsu with updates := s.fsu.updates ++ [⟨c, fabric, add, v % 2 ^ 64⟩] } := rfl

/-- Settles O8: an MMIO write is one `queueUpdate`, and a SYNC cell taken in its turn is one. -/
theorem counterUpdatesQueued : Obligations.CounterUpdatesQueued := by
  unfold Obligations.CounterUpdatesQueued
  refine ⟨?value, ?add, ?sync⟩
  case value =>
    intro s c v hc hw
    show Host.Outcome.next (whenS (decide (c < 4096) && windowUp s) (queueUpdate c false false v) s) = _
    simp only [whenS, hc, hw, decide_true, Bool.and_true, if_true]
    rfl
  case add =>
    intro s c v hc hw
    show Host.Outcome.next (whenS (decide (c < 4096) && windowUp s) (queueUpdate c false true v) s) = _
    simp only [whenS, hc, hw, decide_true, Bool.and_true, if_true]
    rfl
  case sync =>
    intro s src ctr op v m hctr hallow hmem hlt hin hop
    have hok : (decide (ctr < 4096) && remoteAllowed s ctr && (op == 4 || op == 5)) = true := by
      simp [hctr, hallow, hop]
    have e : exec (.sync src ctr op v m) s = .next (doSync src ctr op v m s) := rfl
    refine ⟨_, e, ?_, ?_, exec_tasks e, exec_piece .host e⟩
    all_goals
      simp only [doSync, hok, Bool.not_true, if_true]
      obtain ⟨u, hu, hkeep, hsfp⟩ := deliverAck_next false (fun s => queueUpdate ctr true (op == 5) v s) hmem hlt hin
      rw [hu]
    · have h : u.fsu = s.fsu := hkeep (fun t => t.fsu = s.fsu) (keeps_fsu s _) (keeps_fsu s _) (keeps_fsu s _) rfl
      rw [queueUpdate_fsu, h]
    · have h : u.sfp.ctlIn = tabPut src ((m + 1) % 2 ^ 32) s.sfp.ctlIn := (congrArg Sfp.ctlIn hsfp :)
      show tabGet src 0 u.sfp.ctlIn = _
      rw [h, tabGet_put_same]

/-! ### Remote operations (R373) -/

/-- No cell goes out toward an engine while no port of its route is up. -/
theorem sendCell_down (type dst len : Nat) (fields : List Nat) (s : State) (h : linked s (cellDst s dst) = false) :
    (sendCell type dst len fields s).sfp.sentCells = s.sfp.sentCells := by
  unfold sendCell
  extract_lets c s1
  have hl : linked s1 c.dst = false := h
  rw [if_pos (by simp [hl])]
  rfl

theorem sendCtl_down (type dst : Nat) (fields : List Nat) (task : Option Nat) (s : State) (h : linked s (cellDst s dst) = false) :
    (sendCtl type dst fields task s).sfp.sentCells = s.sfp.sentCells :=
  sendCell_down type dst 24 _ (onSfp _ s) h

/-- A remote operation that goes out: its message is sent and kept, its task is tied to it, and its queue goes on. -/
theorem syncRemote_sends {n : Nat} {k : Task} {s : State} (add : Bool) (hk : getTask s n = some k)
    (he : syEngine k.desc ≠ s.sfp.engineId) (hc : k.ctlSeq = none) (hh : syncHeld s k = false) :
    remoteSent (4 + bit add) n k s (syncRemote n k add s) := by
  have hgo : syncRemote n k add s = modQ k.queue unstallQueue (modTask n (fun k' => { k' with
      ctlSeq := some (nextCtl s (syEngine k.desc)), phase := .admitted })
      (sendCtl ctSync (syEngine k.desc) [syCounter k.desc, 4 + bit add, syValue k.desc] (some n) s)) := by
    simp only [syncRemote, he, hc, hh, if_false, Option.isSome_none, Bool.false_eq_true]
  rw [hgo]
  generalize hu : sendCtl ctSync (syEngine k.desc) [syCounter k.desc, 4 + bit add, syValue k.desc] (some n) s = u
  have hcfe : bare u = bare s := by
    have h : Holds (fun t => bare t = bare s) s := rfl
    have h' : Holds (fun t => bare t = bare s) u := by
      rw [← hu]; simp +contextual (maxDischargeDepth := 99) [keeps_bare, h]
    exact h'
  have htasks : u.cfe.tasks = s.cfe.tasks := (congrArg Cfe.tasks hcfe :)
  have hqueues : u.cfe.queues = s.cfe.queues := (congrArg Cfe.queues hcfe :)
  have hsfp := sendCtl_bare ctSync (syEngine k.desc) [syCounter k.desc, 4 + bit add, syValue k.desc] (some n) s
  rw [hu] at hsfp
  have hseq : u.sfp.ctlSeq = tabPut (syEngine k.desc) ((nextCtl s (syEngine k.desc) + 1) % 2 ^ 32) s.sfp.ctlSeq :=
    (congrArg Sfp.ctlSeq hsfp :)
  refine ⟨fun hroom => ?_, fun hdown => ?_, (congrArg Sfp.ctlOut hsfp :), ?_, fun d hd => ?_, ?_, fun j hj => ?_, ?_,
    fun q hq => ?_, ?_, ?_⟩
  · have := sendCtl_sent ctSync (syEngine k.desc) [syCounter k.desc, 4 + bit add, syValue k.desc] (some n) s hroom
    rw [hu] at this
    exact this
  · show u.sfp.sentCells = s.sfp.sentCells
    rw [← hu]
    exact sendCtl_down _ _ _ _ _ hdown
  · show tabGet (syEngine k.desc) 0 u.sfp.ctlSeq = _
    rw [hseq, tabGet_put_same]
  · show tabGet d 0 u.sfp.ctlSeq = tabGet d 0 s.sfp.ctlSeq
    rw [hseq, tabGet_put_other _ _ _ hd]
  · rw [getTask_modQ, getTask_mod_same _ ((getTask_congr htasks n).trans hk) (fun _ => by rfl)]
  · rw [getTask_modQ, getTask_mod_other _ _ hj (fun _ => by rfl), getTask_congr htasks]
  · rw [getQ_mod_same, getQ_modTask, getQ_congr hqueues]
  · rw [getQ_mod_other _ _ hq, getQ_modTask, getQ_congr hqueues]
  · have h : Holds (fun t => t.fsu = s.fsu) s := rfl
    show Holds (fun t => t.fsu = s.fsu) _
    rw [← hu]; simp +contextual (maxDischargeDepth := 99) [keeps_fsu, h]
  · have h : Holds (fun t => t.mem.host = s.mem.host) s := rfl
    show Holds (fun t => t.mem.host = s.mem.host) _
    rw [← hu]; simp +contextual (maxDischargeDepth := 99) [keeps_host, h]

/-! ### The end of a task whose status closes no group (R19, R144) -/

/-- A task that ends with a status that closes no group: what it held goes, and its queue goes on. -/
theorem endTask_plain (n st a b : Nat) (s : State) (hst : closesGroup st = false) : endTask n st a b s = endTaskCore n st a b s := by
  unfold endTask
  split
  · next h => simp [endTaskCore, h]
  · next k h =>
    split
    · rw [if_neg (by simp [hst])]
    · next hk => simp [endTaskCore, h, hk]

/-- The end of a task, its groups apart, changes that task, its queue, and what the Pods and the Catalogue hold of it. -/
theorem endTaskCore_only {n : Nat} {k : Task} {s : State} (st a b : Nat) (h : getTask s n = some k) (hk : canEnd k = true) :
    getQ (endTaskCore n st a b s) k.queue = unstallQueue (getQ s k.queue) ∧
    (∀ j, j ≠ n → getTask (endTaskCore n st a b s) j = getTask s j) ∧
    (∀ q, q ≠ k.queue → getQ (endTaskCore n st a b s) q = getQ s q) ∧
    { endTaskCore n st a b s with cfe := s.cfe, pods := s.pods, cat := s.cat } = s := by
  simp only [endTaskCore, h, hk, if_true]
  refine ⟨?_, fun j hj => ?_, fun q hq => ?_, rfl⟩
  · rw [getQ_mod_same]; rfl
  · exact getTask_mod_other s (endedTask (folio s) st a b) hj (fun _ => rfl)
  · rw [getQ_mod_other _ _ hq]; rfl

/-! ### The acknowledgement of a control message (R335, R373) -/

/-- The state in which an acknowledgement finds the task of its message. -/
def ackHeard (src m : Nat) (s : State) : State :=
  hear src (onSfp (fun f => { f with ctlOut := f.ctlOut.filter (fun x => !(x.dst == src && x.mseq == m)) }) s)

theorem exec_controlAck_found {src m : Nat} {x : CtlMsg} {s : State} (refused : Bool)
    (h : s.sfp.ctlOut.find? (fun y => y.dst == src && y.mseq == m) = some x) : exec (.controlAck src m refused) s =
      .next (match x.task with
        | none => ackHeard src m s
        | some t => if refused then endTask t stAccessDenied 0 0 (ackHeard src m s) else finishTask t (ackHeard src m s)) := by
  show Host.Outcome.next (doControlAck src m refused s) = _
  unfold doControlAck
  rw [h]
  rfl

/-- Settles O9: a remote operation sends (`syncRemote_sends`), acts here (`syncLocal_counters`) or stalls; and the
acknowledgement finishes or ends the task of its message. -/
theorem remoteOperationsSendSync : Obligations.RemoteOperationsSendSync := by
  unfold Obligations.RemoteOperationsSendSync
  have hset {s : State} {n : Nat} {k : Task} (h : syncTask s n 4 = some k) :
      exec (.remoteSet n) s = .next (syncRemote n k false s) := by
    show Host.Outcome.next (doRemoteSet n s) = _
    simp only [doRemoteSet, h]
  have hadd {s : State} {n : Nat} {k : Task} (h : syncTask s n 5 = some k) :
      exec (.remoteAdd n) s = .next (syncRemote n k true s) := by
    show Host.Outcome.next (doRemoteAdd n s) = _
    simp only [doRemoteAdd, h]
  have hheld {s : State} {n : Nat} {k : Task} (add : Bool) (hk : getTask s n = some k) (hc : k.ctlSeq = none)
      (hh : syncHeld s k = true) : stallsAs n k { k with phase := .stalled } s (syncRemote n k add s) := by
    have e : syncRemote n k add s = stallTask n s := by simp [syncRemote, syncLocal, hc, hh]
    rw [e]
    exact stallTask_stalls hk
  refine ⟨?sendSet, ?sendAdd, ?hereSet, ?hereAdd, ?stallSet, ?stallAdd, ?acked, ?refused, ?untied⟩
  case sendSet => exact fun s n k h he hc hh => ⟨_, hset h, syncRemote_sends false (getTask_syncTask h) he hc hh⟩
  case sendAdd => exact fun s n k h he hc hh => ⟨_, hadd h, syncRemote_sends true (getTask_syncTask h) he hc hh⟩
  case hereSet =>
    intro s n k h he hh
    obtain ⟨hval, hother, -, hsfp⟩ := syncLocal_counters (n := n) false hh
    have e : syncRemote n k false s = syncLocal n k false s := by simp only [syncRemote, he, if_true]
    rw [← e] at hval hother hsfp
    exact ⟨_, hset h, hval, hother, hsfp, exec_piece .host (hset h)⟩
  case hereAdd =>
    intro s n k h he hh
    obtain ⟨hval, hother, -, hsfp⟩ := syncLocal_counters (n := n) true hh
    have e : syncRemote n k true s = syncLocal n k true s := by simp only [syncRemote, he, if_true]
    rw [← e] at hval hother hsfp
    exact ⟨_, hadd h, hval, hother, hsfp, exec_piece .host (hadd h)⟩
  case stallSet => exact fun s n k h hc hh => ⟨_, hset h, hheld false (getTask_syncTask h) hc hh⟩
  case stallAdd => exact fun s n k h hc hh => ⟨_, hadd h, hheld true (getTask_syncTask h) hc hh⟩
  case acked =>
    intro s src m x n k hfind hx hk
    refine ⟨_, exec_controlAck_found false hfind, ?_⟩
    simp only [hx, Bool.false_eq_true, if_false]
    obtain ⟨htask, hqueue, hothers, -, hrest⟩ := finishTask_finishes (s := ackHeard src m s) hk
    exact ⟨htask, hqueue, hothers, (congrArg (fun t => t.sfp.ctlOut) hrest :), (congrArg State.fsu hrest :),
      (congrArg State.mem hrest :)⟩
  case refused =>
    intro s src m x n k hfind hx hk hend
    refine ⟨_, exec_controlAck_found true hfind, ?_⟩
    simp only [hx, if_true]
    have hended := endTask_ended (s := ackHeard src m s) stAccessDenied 0 0 hk hend
    rw [endTask_plain _ _ _ _ _ (by decide)] at hended ⊢
    obtain ⟨hqueue, hothers, -, hrest⟩ := endTaskCore_only (s := ackHeard src m s) stAccessDenied 0 0 hk hend
    exact ⟨hended, hqueue, hothers, (congrArg (fun t => t.sfp.ctlOut) hrest :), (congrArg State.fsu hrest :),
      (congrArg State.mem hrest :)⟩
  case untied =>
    intro s src m x hfind hx refused
    refine ⟨_, exec_controlAck_found refused hfind, ?_⟩
    simp only [hx]
    exact ⟨rfl, rfl, rfl, rfl⟩

/-! ### Timeouts (R372, R373) -/

/-- A live task that no error has ended can still end. -/
theorem canEnd_of_live {s : State} {n op : Nat} {k : Task} (h : liveTask s n op = some k) (he : k.err = none) :
    canEnd k = true := by
  obtain ⟨-, -, hphase, -⟩ := liveTask_some h
  rcases hphase with hp | hp <;> simp [canEnd, hp, he]

/-- The error that a remote operation without an acknowledgement raises (R373). -/
def ackTimeoutErr (n : Nat) (k : Task) : ErrInfo :=
  { cause := 5, level := 2, tasks := [n], source := k.queue, st := stAbortedFault, dKind := 4, dVal := syEngine k.desc + 1 <<< 10 }

/-- Settles O10: WAIT_TIMEOUT ends its task by a status that closes no group; SYNC_ACK_TIMEOUT unties the message, raises
an error that nothing else is nested in, and ends the task. -/
theorem syncTimeouts : Obligations.SyncTimeouts := by
  unfold Obligations.SyncTimeouts
  refine ⟨?wait, ?ack⟩
  case wait =>
    intro s n k hk hw hl hend
    have e : exec (.waitTimeout n) s = .next (endTask n stWaitTimeout 0 0 s) := by
      show Host.Outcome.next (doWaitTimeout n s) = _
      simp [doWaitTimeout, hk, hw, hl]
    refine ⟨_, e, endTask_ended _ _ _ hk hend, ?_⟩
    rw [endTask_plain _ _ _ _ _ (by decide)]
    obtain ⟨hqueue, -, -, hrest⟩ := endTaskCore_only stWaitTimeout 0 0 hk hend
    exact ⟨hqueue, (congrArg State.fsu hrest :), (congrArg State.mem hrest :)⟩
  case ack =>
    intro s n k m h hm he hopen
    generalize hu : onSfp (fun f => { f with
      ctlOut := f.ctlOut.map (fun x => if x.task = some n then { x with task := none } else x) }) s = u
    have e : exec (.syncAckTimeout n) s = .next (endTask n stAbortedFault 4 (syEngine k.desc + 1 <<< 10)
        (raiseErr (ackTimeoutErr n k) u)) := by
      show Host.Outcome.next (doSyncAckTimeout n s) = _
      simp [doSyncAckTimeout, h, hm, ← hu, ackTimeoutErr]
    generalize hw : raiseErr (ackTimeoutErr n k) u = w at e
    have hrest : { w with msc := u.msc, od := u.od } = u := by
      rw [← hw]
      exact raiseErr_calm_rest (by rw [← hu]; exact hopen) rfl (by decide : 5 ≠ 8)
    have hcfe : w.cfe = u.cfe := (congrArg State.cfe hrest :)
    have hfsu : w.fsu = u.fsu := (congrArg State.fsu hrest :)
    have hfolio : folio w = folio s := by unfold folio; rw [hfsu, ← hu]; rfl
    have hk : getTask w n = some k := by
      rw [getTask_congr (congrArg Cfe.tasks hcfe), ← hu]
      exact (liveTask_some h).1
    have hended := endTask_ended stAbortedFault 4 (syEngine k.desc + 1 <<< 10) hk (canEnd_of_live h he)
    have hsfp : (endTask n stAbortedFault 4 (syEngine k.desc + 1 <<< 10) w).sfp = u.sfp := by
      have h1 : Holds (fun t => t.sfp = u.sfp) w := (congrArg State.sfp hrest :)
      show Holds (fun t => t.sfp = u.sfp) _
      simp +contextual (maxDischargeDepth := 99) [keeps_sfp, h1]
    refine ⟨_, e, ?_, exec_piece .fsu e, ?_, exec_piece .host e, ?_⟩
    · rw [endedAs, hfolio] at hended
      exact hended
    · rw [hsfp, ← hu]; rfl
    · rw [hsfp, ← hu]; rfl

end Sys2Proof.Machine
end

section
/-! SUPPORT. The interleave of GDDR7 over the active channels (R284). -/

namespace Sys2Proof.Machine

/-! ### The interleave of GDDR7 (R284) -/

/-- The place among the active channels of the channel that holds a byte address. -/
def chanIndex (s : State) (a : Nat) : Nat :=
  (a / 256 + a / 256 / (activeChans s).length) % (activeChans s).length

theorem activeChans_nodup (s : State) : (activeChans s).Nodup := List.nodup_range.filter _

theorem chanIndex_lt {s : State} (a : Nat) (h : 0 < (activeChans s).length) : chanIndex s a < (activeChans s).length :=
  Nat.mod_lt _ h

/-- A byte address lies in an active channel. -/
theorem chanOf_eq {s : State} (a : Nat) (h : 0 < (activeChans s).length) : (activeChans s)[chanIndex s a]? = some (chanOf s a) := by
  have hlt := chanIndex_lt a h
  unfold chanOf
  simp only [Nat.shiftRight_eq_div_pow]
  show _ = some ((activeChans s).getD (chanIndex s a) 0)
  rw [List.getD_eq_getElem?_getD, List.getElem?_eq_getElem hlt, Option.getD_some]

/-- No active channel stands twice in the list. -/
theorem chanIndex_unique {s : State} {a k : Nat} (h : 0 < (activeChans s).length) (hk : (activeChans s)[k]? = some (chanOf s a)) :
    k = chanIndex s a := by
  have hlt : k < (activeChans s).length := (List.getElem?_eq_some_iff.1 hk).1
  exact (List.getElem?_inj hlt (activeChans_nodup s)).1 (hk.trans (chanOf_eq a h).symm)

/-- Stepping back what was stepped on. -/
theorem add_mod_sub_mod {n : Nat} (u q : Nat) (h : 0 < n) : ((u + q) % n + n - q % n) % n = u % n := by
  have hq := Nat.mod_lt q h
  have hu := Nat.mod_lt u h
  rw [Nat.add_mod u q n]
  by_cases hlt : u % n + q % n < n
  · rw [Nat.mod_eq_of_lt hlt, show u % n + q % n + n - q % n = u % n + n by omega, Nat.add_mod_right, Nat.mod_eq_of_lt hu]
  · rw [Nat.mod_eq_sub_mod (Nat.not_lt.1 hlt), Nat.mod_eq_of_lt (a := u % n + q % n - n) (by omega),
      show u % n + q % n - n + n - q % n = u % n by omega, Nat.mod_eq_of_lt hu]

/-- The channel and the offset of a byte address give it back. -/
theorem chanAddr_chanOffset {s : State} (a : Nat) (h : 0 < (activeChans s).length) :
    chanAddr s (chanIndex s a) (chanOffset s a) = a := by
  have hoff : chanOffset s a / 256 = a / 256 / (activeChans s).length ∧ chanOffset s a % 256 = a % 256 := by
    unfold chanOffset
    rw [Nat.shiftRight_eq_div_pow]
    generalize a / 2 ^ 8 / (activeChans s).length = q
    omega
  unfold chanAddr
  simp only [hoff]
  unfold chanIndex
  rw [add_mod_sub_mod _ _ h, Nat.div_add_mod']
  omega

/-- One round of the channels further lies in the next channel. -/
theorem chanIndex_next {s : State} (a : Nat) (h : 0 < (activeChans s).length) :
    chanIndex s (a + (activeChans s).length * 256) = (chanIndex s a + 1) % (activeChans s).length := by
  unfold chanIndex
  rw [Nat.add_mul_div_right _ _ (by decide), Nat.add_div_right _ h, Nat.mod_add_mod,
    show a / 256 + (activeChans s).length + (a / 256 / (activeChans s).length).succ =
      a / 256 + a / 256 / (activeChans s).length + 1 + (activeChans s).length by omega, Nat.add_mod_right]

/-- Settles O57: the interleave has `chanAddr` as its inverse, and a round of the channels steps `chanIndex` on by one. -/
theorem gddrInterleave : Obligations.GddrInterleave := by
  unfold Obligations.GddrInterleave
  refine ⟨?inverse, ?injective, ?steps⟩
  case inverse =>
    intro s a hne
    have h := List.length_pos_of_ne_nil hne
    exact ⟨chanIndex s a, chanOf_eq a h, chanAddr_chanOffset a h⟩
  case injective =>
    intro s a b hne hchan hoff
    have h := List.length_pos_of_ne_nil hne
    have hindex : chanIndex s a = chanIndex s b := chanIndex_unique h (hchan ▸ chanOf_eq a h)
    rw [← chanAddr_chanOffset a h, ← chanAddr_chanOffset b h, hindex, hoff]
  case steps =>
    intro s a k hk hchan
    have h : 0 < (activeChans s).length := Nat.zero_lt_of_lt hk
    rw [chanIndex_unique h hchan, ← chanIndex_next a h]
    exact chanOf_eq _ h

end Sys2Proof.Machine
end

section
/-! SUPPORT. What a bag gives does not depend on its Pod: its streams read through the slots that drive them, and its leaves
pooled one after the other give the row of the tree (R127, R128, R131, R132). -/

namespace Sys2Proof.Machine

/-! ### A bag read on two Pods (R127) -/

section
variable {s : State} {k : Task} {p q : Nat} (hslot : ∀ kind, streamSlot s k p kind = streamSlot s k q kind)
include hslot

/-- What a stream delivers depends on its Pod only through the slot that drives it. -/
theorem streamRead_pod (kind : Nat) (ws : SWords) (a0 a1 : SReg) (a2 a3 a4 : Nat) (sys : List (Nat × Nat)) :
    streamRead s k p kind ws a0 a1 a2 a3 a4 sys = streamRead s k q kind ws a0 a1 a2 a3 a4 sys := by
  unfold streamRead; rw [hslot kind]

theorem indexBytes_pod (bag off n sys : Nat) : indexBytes s k p bag off n sys = indexBytes s k q bag off n sys := by
  unfold indexBytes; rw [hslot 0]

theorem bagOffsets_pod (bag : Nat) : bagOffsets s k p bag = bagOffsets s k q bag := by
  simp only [bagOffsets, indexBytes_pod hslot]

theorem bagSpan_pod (bag : Nat) : bagSpan s k p bag = bagSpan s k q bag := by
  simp only [bagSpan, firstBadBag, bagOffsets_pod hslot]

theorem bagWeight_pod (base j : Nat) : bagWeight s k p base j = bagWeight s k q base j := by
  simp only [bagWeight, streamRead_pod hslot, hslot 1]

theorem finishFuse_pod (bag : Nat) (r : List F32) : finishFuse s k p bag r = finishFuse s k q bag r := by
  simp only [finishFuse, fusedRow, streamOne, streamRead_pod hslot]

theorem bagEntry_pod (hhash : tabFind k.hashSlot (getPod s p).hashes = tabFind k.hashSlot (getPod s q).hashes)
    (bag base j : Nat) : bagEntry s k p bag base j = bagEntry s k q bag base j := by
  simp only [bagEntry, bagIndex, indexRow, indexBytes_pod hslot, bagWeight_pod hslot, hhash]

end

/-! ### Leaves pooled one after the other (R128, R131, R132) -/

/-- The leaves of a bag pooled in their order. -/
def poolAll (p : Pod) (pool : Nat) (ls : List Leaf) (b : Bag) : Bag := ls.foldl (fun b l => poolInto pool l (poolVec p l) b) b

theorem poolInto_n (pool : Nat) (l : Leaf) (v : List F32) (b : Bag) : (poolInto pool l v b).n = b.n := by
  simp only [poolInto]
  split
  · rfl
  · split <;> rfl

theorem poolAll_n (p : Pod) (pool : Nat) (ls : List Leaf) (b : Bag) : (poolAll p pool ls b).n = b.n := by
  induction ls generalizing b with
  | nil => rfl
  | cons l ls ih => exact (ih _).trans (poolInto_n ..)

/-- With MAX or MIN the bag holds the largest or smallest elements so far. -/
theorem poolInto_extreme {pool : Nat} (l : Leaf) (v : List F32) (b : Bag) (h : pool = 4 ∨ pool = 5) :
    (poolInto pool l v b).acc = some (b.acc.elim (v.map (fun x => if fIsNan x then fNan else x))
      (fun a => List.zipWith (if pool = 4 then fMax else fMin) a v)) := by
  have h6 : pool ≠ 6 := by omega
  simp only [poolInto, h6, h, if_false, if_true]
  cases b.acc <;> rfl

theorem poolAll_extreme {p : Pod} {pool : Nat} (ls : List Leaf) (b : Bag) (a : List F32) (h : pool = 4 ∨ pool = 5)
    (ha : b.acc = some a) : (poolAll p pool ls b).acc = some ((ls.map (fun l => (l.weight, poolVec p l))).foldl
      (fun acc y => List.zipWith (if pool = 4 then fMax else fMin) acc y.2) a) := by
  induction ls generalizing b a with
  | nil => exact ha
  | cons l ls ih =>
    refine ih (poolInto pool l (poolVec p l) b) _ ?_
    rw [poolInto_extreme l _ b h, ha]
    rfl

/-- In the other modes a leaf enters the carry stack. -/
theorem poolInto_tree {pool : Nat} (l : Leaf) (v : List F32) (b : Bag) (h : pool < 4) :
    (poolInto pool l v b).stack = (treePush false b.lin b.stack 0 (v.map (fun x => fMul false l.weight x))).1 ∧
    (poolInto pool l v b).lin = (treePush false b.lin b.stack 0 (v.map (fun x => fMul false l.weight x))).2 := by
  have h6 : pool ≠ 6 := by omega
  have h45 : ¬ (pool = 4 ∨ pool = 5) := by omega
  simp only [poolInto, h6, h45, if_false]
  exact ⟨trivial, trivial⟩

theorem poolAll_tree {p : Pod} {pool d : Nat} (ls : List Leaf) (b : Bag) (h : pool < 4) :
    treeEnd false d (poolAll p pool ls b).lin (poolAll p pool ls b).stack =
      treeGo false d b.stack b.lin (ls.map (fun l => (poolVec p l).map (fun v => fMul false l.weight v))) := by
  induction ls generalizing b with
  | nil => rfl
  | cons l ls ih =>
    obtain ⟨hstack, hlin⟩ := poolInto_tree l (poolVec p l) b h
    refine (ih (poolInto pool l (poolVec p l) b)).trans ?_
    rw [hstack, hlin]
    rfl

/-- The leaves of a bag that has pooled none give what `poolLeaves` says. -/
theorem poolAll_leaves {p : Pod} {pool d : Nat} (ls : List Leaf) (b : Bag) (hpool : pool ≤ 5) (hacc : b.acc = none)
    (hstack : b.stack = []) (hlin : b.lin = none) :
    (if pool = 4 ∨ pool = 5 ∨ pool = 6 then (poolAll p pool ls b).acc.getD (List.replicate d 0)
      else treeEnd false d (poolAll p pool ls b).lin (poolAll p pool ls b).stack) =
    poolLeaves pool d (ls.map (fun l => (l.weight, poolVec p l))) := by
  by_cases h : pool = 4 ∨ pool = 5
  · rw [if_pos (by omega)]
    simp only [poolLeaves, h, if_true]
    cases ls with
    | nil => simp [poolAll, hacc]
    | cons l ls =>
      have hfirst : (poolInto pool l (poolVec p l) b).acc = some ((poolVec p l).map (fun x => if fIsNan x then fNan else x)) := by
        rw [poolInto_extreme l _ b h, hacc]
        rfl
      show (poolAll p pool ls (poolInto pool l (poolVec p l) b)).acc.getD _ = _
      rw [poolAll_extreme ls _ _ h hfirst, Option.getD_some]
      rfl
  · rw [if_neg (by omega), poolAll_tree ls b (by omega), hstack, hlin]
    simp only [poolLeaves, h, if_false, List.map_map]
    rfl

/-- Settles O59: the streams of a bag depend on the Pod only through the slots that drive them, and pooling leaf by leaf
is the fold that `poolLeaves` makes of them. -/
theorem bagsSameOnAnyPod : Obligations.BagsSameOnAnyPod := by
  unfold Obligations.BagsSameOnAnyPod
  refine ⟨?streams, ?pooled⟩
  case streams =>
    intro s k p q bag hslot hhash
    exact ⟨bagSpan_pod hslot bag, bagEntry_pod hslot hhash bag, finishFuse_pod hslot bag⟩
  case pooled =>
    intro p k b ls r hpool hacc hstack hlin hr
    have hleaves := poolAll_leaves (p := p) (d := sdDim k.shard0) ls b hpool hacc hstack hlin
    have hn := poolAll_n p (dPool k.desc) ls b
    show bagRow p k (poolAll p (dPool k.desc) ls b) = _
    simp only [bagRow, hleaves, hn]
    rw [hr]

end Sys2Proof.Machine
end

section
/-! SUPPORT. The front end: doorbells and ENABLE of command queues, event and telemetry rings, the fetch of descriptors and
the write of records (R59 to R65, R80 to R86, R459). -/

namespace Sys2Proof.Machine

/-! ### Queues (R59 to R61) -/

theorem onlyQueue_modQ (q : Nat) (f : Queue → Queue) (s : State) : onlyQueue q s (modQ q f s) :=
  ⟨fun _ hp => getQ_mod_other f s hp, rfl, rfl⟩

/-- Closing the groups of a queue that has none does nothing. -/
theorem dropQueueGroups_none {q : Nat} {s : State} (h : ∀ p < 16, ∀ g ∈ (getPod s p).groups, g.queue ≠ q) :
    dropQueueGroups q s = s := by
  have hnil : podNums.flatMap (fun p => ((getPod s p).groups.filter (fun g => g.queue == q)).map (fun g => (p, g))) = [] := by
    refine List.flatMap_eq_nil_iff.2 fun p hp => ?_
    rw [List.map_eq_nil_iff, List.filter_eq_nil_iff]
    intro g hg hgq
    exact h p (by simpa [podNums] using hp) g hg (beq_iff_eq.1 hgq)
  unfold dropQueueGroups
  rw [hnil]
  rfl

/-- With the registers on, clearing ENABLE of a queue begins its drain, which ends at once where no task is out. -/
theorem exec_queueDisable {q ctl : Nat} {s : State} (hon : regOn s 0 = true) (hq : q < 512) (hctl : bitOf ctl 0 = false)
    (hstate : qOn (getQ s q) = true ∨ (getQ s q).state = .halted) (hmode : modeChanging s = false) :
    exec (.queueDisable q ctl) s =
      .next (drainDone q (modQ q (fun r => { r with ctl := setBit r.ctl 0 false, state := .draining }) s)) := by
  show Host.Outcome.next (whenS (regOn s 0) (doQueueDisable q ctl) s) = _
  rw [whenS, if_pos hon, doQueueDisable, if_pos ⟨hq, by simp [hctl], hstate, by simp [hmode]⟩]

/-- Settles O11: doorbells as R61 says them (`ringBell_sound`), and each outcome of QUEUE_ENABLE and QUEUE_DISABLE. -/
theorem queueControl : Obligations.QueueControl := by
  unfold Obligations.QueueControl
  refine ⟨?accepted, ?bad, ?enable, ?drains, ?disables⟩
  case accepted =>
    intro s q v hon hq htakes hlz hsound hok
    refine ⟨_, exec_doorbell_taken v hon hq htakes hlz, ?_⟩
    rw [ringBell_sound v hsound, if_pos hok]
    exact ⟨getQ_mod_same .., onlyQueue_modQ ..⟩
  case bad =>
    intro s q v hon hq htakes hlz hsound hbad
    refine ⟨_, exec_doorbell_taken v hon hq htakes hlz, ?_⟩
    rw [ringBell_sound v hsound, if_neg (by simp [hbad])]
    have h := bare_postEvent (qEvq s q) evCfeDoorbellBad q 0 0 (onCfe (fun c => { c with badBells := c.badBells + 1 }) s)
    exact ⟨(congrArg Cfe.queues h :), (congrArg Cfe.tasks h :), (congrArg Cfe.badBells h :)⟩
  case enable =>
    intro s q ctl hon hq hctl hoff hstate hlz hmode
    have e : exec (.queueEnable q ctl) s = .next (doQueueEnable q ctl s) := by
      show Host.Outcome.next (whenS (regOn s 0) (doQueueEnable q ctl) s) = _
      rw [whenS, if_pos hon]
    refine ⟨_, e, ?_⟩
    rw [doQueueEnable, if_pos ⟨hq, hctl, by simp [hoff], hstate, hlz, by simp [hmode]⟩]
    refine ⟨?_, onlyQueue_modQ ..⟩
    rw [getQ_mod_same]
    show (if (qHostBound (getQ s q) && s.hpt.link != .up) = true then _ else _) = _
    split <;> rfl
  case drains =>
    intro s q ctl hon hq hctl hstate hmode htasks
    refine ⟨_, exec_queueDisable hon hq hctl hstate hmode, ?_⟩
    rw [drainDone, if_neg fun h => htasks (List.isEmpty_iff.1 h.2)]
    exact ⟨getQ_mod_same .., onlyQueue_modQ ..⟩
  case disables =>
    intro s q ctl hon hq hctl hstate hmode htasks hgroups
    refine ⟨_, exec_queueDisable hon hq hctl hstate hmode, ?_⟩
    rw [drainDone, if_pos ⟨by rw [getQ_mod_same], List.isEmpty_iff.2 htasks⟩, dropQueueGroups_none (by exact hgroups)]
    refine ⟨?_, fun p hp => ?_, rfl, rfl⟩
    · rw [getQ_mod_same, getQ_mod_same]
    · rw [getQ_mod_other _ _ hp, getQ_mod_other _ _ hp]

/-! ### Posted writes (R313) -/

theorem odCount_hpt (k n : Nat) (s : State) : (odCount k n s).hpt = s.hpt := by
  obtain ⟨f, h⟩ := odCount_on k n s
  rw [h]; rfl

/-- A posted write leaves the front end alone. -/
theorem postWrite_cfe (p a : Nat) (bs : List Byte) (t : Option Nat) (k : WKind) (s : State) :
    (postWrite p a bs t k s).cfe = s.cfe := by
  obtain ⟨f, g, h, e⟩ := postWrite_on p a bs t k s
  rw [e]; rfl

/-- A posted write waits behind the writes of every path. -/
theorem postWrite_outq (p a : Nat) (bs : List Byte) (t : Option Nat) (k : WKind) (s : State) :
    (postWrite p a bs t k s).hpt.outq = s.hpt.outq ++
      [{ seq := s.hpt.issued + 1, path := p, addr := a, data := bs, task := t, kind := k }] := by
  unfold postWrite translate
  extract_lets u
  have hu : u.hpt = s.hpt := odCount_hpt ..
  show u.hpt.outq ++ [{ seq := u.hpt.issued + 1, path := p, addr := a, data := bs, task := t, kind := k }] = _
  rw [hu]

@[simp] theorem getTel_mod_same (j : Nat) (f : Ring → Ring) (s : State) : getTel (modTel j f s) j = f (getTel s j) :=
  tabGet_mod_same ..
theorem getTel_mod_other {i j : Nat} (f : Ring → Ring) (s : State) (h : i ≠ j) : getTel (modTel j f s) i = getTel s i :=
  tabGet_mod_other _ _ _ h

/-! ### Event and telemetry rings (R83 to R86, R459) -/

theorem onlyRing_modEvq (i : Nat) (f : Ring → Ring) (s : State) : onlyRing i s (modEvq i f s) :=
  ⟨fun _ hj => getEvq_mod_other f s hj, rfl, rfl⟩

theorem onlyRing_trans {i : Nat} {s t u : State} (h : onlyRing i s t) (h' : onlyRing i t u) : onlyRing i s u := by
  obtain ⟨hevqs, hqueues, htasks⟩ := h
  obtain ⟨hevqs', hqueues', htasks'⟩ := h'
  exact ⟨fun j hj => (hevqs' j hj).trans (hevqs j hj), hqueues'.trans hqueues, htasks'.trans htasks⟩

/-- What the front end does to one ring, a later change of the rest may follow. -/
theorem onlyRing_congr {i : Nat} {s t u : State} (h : onlyRing i s t) (hu : u.cfe = t.cfe) : onlyRing i s u := by
  unfold onlyRing getEvq at *
  rw [hu]
  exact h

theorem evqCheck_sound {i : Nat} {s : State} (h : ringBroken (getEvq s i) = false) : evqCheck i s = s := by
  simp [evqCheck, h]

/-- A ring that has dropped nothing gets no gap marker. -/
theorem evqGap_none {i : Nat} {s : State} (h : (getEvq s i).drops = 0) : evqGap i s = s := by
  simp [evqGap, h]

/-- A read of the HPT leaves everything but the Host Port. -/
theorem hptRead_rest (asid w n : Nat) (s : State) : { hptRead asid w n s with hpt := s.hpt } = s := by
  unfold hptRead translate; split <;> rfl

theorem exec_cfeEvqPop {i : Nat} {s : State} (hon : regOn s 0 = true) : exec (.cfeEvqPop i) s = .next (doCfeEvqPop i s) := by
  have h : windowUp s = true ∧ gated s 0 = false := by simpa [regOn] using hon
  show Host.Outcome.next (if (!windowUp s) = true then _ else if gated s 0 = true then _ else _) = _
  simp [h]

/-- A pop of a ring in POP_MODE whose pointers agree: the last value with UNDERRUN, or the head entry. -/
theorem doCfeEvqPop_eq {i : Nat} {s : State} (hi : i < 64) (hsound : ringBroken (getEvq s i) = false)
    (hmode : bitOf (getEvq s i).ctl 1 = true) : doCfeEvqPop i s =
    if (getEvq s i).head.val = (getEvq s i).tail.val then
      onOut (fun o => { o with read := leBytes 8 (setBit (getEvq s i).lastPop 16 true) })
        (modEvq i (fun r => { r with notified := false }) s)
    else
      let a := (getEvq s i).base + 32 * ((getEvq s i).head.val % 2 ^ evqLog (getEvq s i))
      let e := loadAw s a 32
      evqGap i (onOut (fun o => { o with read := leBytes 8 (numAt 0 8 e) }) (modEvq i (fun r => { r with
        head := ptrStep (evqLog (getEvq s i)) r.head, lastPop := numAt 0 8 e, data := numAt 8 24 e,
        notified := r.notified && decide (ptrNext (evqLog (getEvq s i)) r.head.val ≠ r.tail.val) })
          (hptRead (engineAsid s) a 32 s))) := by
  unfold doCfeEvqPop
  rw [evqCheck_sound hsound]
  dsimp only
  rw [if_neg (by simp [hi, hmode])]

/-- An entry of a ring in package memory is 32 bytes of a posted write into its next slot. -/
theorem evqWrite_posts {i : Nat} {s : State} (e : Nat) (hspace : awSpace (getEvq s i).base = 0) : ∃ bs, bs.length = 32 ∧
    evqWrite i e s = postWrite
      (awPath ((getEvq s i).base + 32 * ((getEvq s i).next.val % 2 ^ evqLog (getEvq s i))))
      (awAddr ((getEvq s i).base + 32 * ((getEvq s i).next.val % 2 ^ evqLog (getEvq s i)))) bs none (.event i)
      (modEvq i (fun r => { r with next := ptrStep (evqLog (getEvq s i)) r.next }) s) := by
  refine ⟨leBytes 32 (setBits e 20 20 (phaseOf (evqLog (getEvq s i)) (getEvq s i).next.val)), Sys2Proof.Tests.length_leBytes .., ?_⟩
  simp only [evqWrite]
  rw [if_pos hspace]

/-- A gap marker with room for it, in a ring in package memory: its write is posted, and the ring's drops are 0. -/
theorem evqGap_posts {i : Nat} {s : State} (hon : ringOn (getEvq s i) = true) (hdrops : 0 < (getEvq s i).drops)
    (hroom : ringFull (evqLog (getEvq s i)) (getEvq s i).next.val (getEvq s i).head.val = false)
    (hspace : awSpace (getEvq s i).base = 0) : ∃ bs u, bs.length = 32 ∧ u.hpt = s.hpt ∧ onlyRing i s u ∧
    (getEvq u i).drops = 0 ∧ (getEvq u i).totalDrops = (getEvq s i).totalDrops ∧ evqGap i s = postWrite
      (awPath ((getEvq s i).base + 32 * ((getEvq s i).next.val % 2 ^ evqLog (getEvq s i))))
      (awAddr ((getEvq s i).base + 32 * ((getEvq s i).next.val % 2 ^ evqLog (getEvq s i)))) bs none (.event i) u := by
  have hcond : (ringOn (getEvq s i) && decide (0 < (getEvq s i).drops) &&
      !ringFull (evqLog (getEvq s i)) (getEvq s i).next.val (getEvq s i).head.val) = true := by
    simp [hon, hdrops, hroom]
  simp only [evqGap, hcond, if_true]
  generalize hv : modEvq i (fun r => { r with drops := 0, firstDrop := 0, lastDrop := 0 }) s = v
  have hevq : getEvq v i = { getEvq s i with drops := 0, firstDrop := 0, lastDrop := 0 } := hv ▸ getEvq_mod_same ..
  have honly : onlyRing i s v := hv ▸ onlyRing_modEvq ..
  have hhpt : v.hpt = s.hpt := hv ▸ rfl
  generalize setBit _ 17 true = e
  obtain ⟨bs, hlen, hwrite⟩ := evqWrite_posts (i := i) (s := v) e (by rw [hevq]; exact hspace)
  rw [hevq] at hwrite
  refine ⟨bs, _, hlen, ?_, ?_, ?_, ?_, hwrite⟩
  · exact hhpt
  · exact onlyRing_trans honly (onlyRing_modEvq ..)
  · rw [getEvq_mod_same, hevq]
  · rw [getEvq_mod_same, hevq]

/-- Settles O12: each clause is one outcome of EVQ_ENABLE, TELEMETRY_ENABLE, CFE_EVQ_POP or CFE_EVQ_GAP. -/
theorem rings : Obligations.Rings := by
  unfold Obligations.Rings
  refine ⟨?evq, ?tel, ?pop, ?underrun, ?gap⟩
  case evq =>
    intro s i ctl hon hi hctl hoff
    have e : exec (.evqEnable i ctl) s = .next (doEvqEnable i ctl s) := by
      show Host.Outcome.next (whenS (regOn s 0) (doEvqEnable i ctl) s) = _
      rw [whenS, if_pos hon]
    refine ⟨_, e, ?_⟩
    rw [doEvqEnable, if_pos ⟨hi, hctl, by simp [hoff]⟩]
    exact ⟨getEvq_mod_same .., onlyRing_modEvq i _ (forgetWrites (.event i) s)⟩
  case tel =>
    intro s j ctl hon hj hctl hoff hperiod
    have e : exec (.telemetryEnable j ctl) s = .next (doTelemetryEnable j ctl s) := by
      show Host.Outcome.next (whenS (regOn s 0) (doTelemetryEnable j ctl) s) = _
      rw [whenS, if_pos hon]
    refine ⟨_, e, ?_⟩
    simp only [doTelemetryEnable, hperiod, if_false]
    rw [if_neg (Nat.not_le.2 hj), if_pos ⟨hctl, by simp [hoff]⟩]
    exact ⟨getTel_mod_same j _ (forgetWrites (.telemetry j) s), fun i hi => getTel_mod_other _ (forgetWrites (.telemetry j) s) hi, rfl⟩
  case pop =>
    intro s i hon hi hring hsound hmode hne hdrops
    refine ⟨_, _, exec_cfeEvqPop hon, rfl, ?_⟩
    rw [doCfeEvqPop_eq hi hsound hmode, if_neg hne]
    extract_lets a e
    generalize hu : hptRead (engineAsid s) a 32 s = u
    have hrest : { u with hpt := s.hpt } = s := hu ▸ hptRead_rest ..
    have hcfe : u.cfe = s.cfe := (congrArg State.cfe hrest :)
    have hevq : getEvq u i = getEvq s i := by unfold getEvq; rw [hcfe]
    generalize hv : modEvq i (fun r => { r with
      head := ptrStep (evqLog (getEvq s i)) r.head, lastPop := numAt 0 8 e, data := numAt 8 24 e,
      notified := r.notified && decide (ptrNext (evqLog (getEvq s i)) r.head.val ≠ r.tail.val) }) u = v
    have hv' : getEvq v i = _ := hv ▸ getEvq_mod_same ..
    rw [hevq] at hv'
    have honly : onlyRing i u v := hv ▸ onlyRing_modEvq ..
    have hmem : v.mem = s.mem := hv ▸ (congrArg State.mem hrest :)
    generalize hw : onOut (fun o => { o with read := leBytes 8 (numAt 0 8 e) }) v = w
    have hwv : getEvq w i = getEvq v i := hw ▸ rfl
    rw [evqGap_none (by rw [hwv, hv']; exact hdrops), hwv, hv']
    refine ⟨hw ▸ rfl, rfl, rfl, rfl, rfl, onlyRing_trans (onlyRing_congr (t := s) ⟨fun _ _ => rfl, rfl, rfl⟩ hcfe) ?_, ?_⟩
    · exact onlyRing_congr honly (hw ▸ rfl)
    · rw [← hw]; exact hmem
  case underrun =>
    intro s i hon hi hring hsound hmode heq
    refine ⟨_, exec_cfeEvqPop hon, ?_⟩
    rw [doCfeEvqPop_eq hi hsound hmode, if_pos heq]
    exact ⟨rfl, getEvq_mod_same .., onlyRing_modEvq .., rfl⟩
  case gap =>
    intro s i hon hsound hdrops hroom hspace
    obtain ⟨bs, u, hlen, hhpt, honly, hzero, htotal, hgap⟩ := evqGap_posts hon hdrops hroom hspace
    have e : exec (.cfeEvqGap i) s = .next (evqGap i s) := by
      show Host.Outcome.next (evqGap i (evqCheck i s)) = _
      rw [evqCheck_sound hsound]
    have hcfe : (evqGap i s).cfe = u.cfe := by
      rw [hgap]
      exact postWrite_cfe ..
    have hevq : getEvq (evqGap i s) i = getEvq u i := by unfold getEvq; rw [hcfe]
    refine ⟨_, _, e, hgap ▸ (postWrite_outq ..).trans (by rw [hhpt]), rfl, rfl, rfl, hlen, hevq ▸ hzero, hevq ▸ htotal, onlyRing_congr honly hcfe⟩

end Sys2Proof.Machine
end

section
/-! SUPPORT. The fetch of a descriptor and the write of a record (R64, R65, R80, R81). -/

namespace Sys2Proof.Machine

/-! ### The fetch of descriptors (R64, R79) -/

/-- The round-robin's place is of no weight to the checks of a descriptor. -/
theorem refusal_rr (q : Nat) (d : Desc) (m : Nat) (s : State) :
    refusal (onCfe (fun c => { c with rr := m }) s) q d = refusal s q d := rfl

/-- A task just fetched carries its number, its queue, its descriptor and the error of a refused one. -/
theorem newTask_fields (s : State) (q : Nat) (d : Desc) : (newTask s q d).id = s.cfe.nextTask ∧ (newTask s q d).queue = q ∧
    (newTask s q d).desc = d ∧ (newTask s q d).err = refusal s q d := by
  unfold newTask
  dsimp only
  split
  · next h => exact ⟨rfl, rfl, rfl, h.symm⟩
  · next h => exact ⟨rfl, rfl, rfl, h.symm⟩

/-- The byte address word of the descriptor at the head of a queue. -/
def headWord (r : Queue) : Nat := r.ringBase + 128 * (r.head.val % 2 ^ qLog r)

/-- The state in which a fetch makes its task: the round-robin has gone on. -/
def rrNext (q : Nat) (s : State) : State := onCfe (fun c => { c with rr := (q + 1) % 512 }) s

/-- A fetch from a queue whose pointers agree and whose head can be read: the HPT reads the descriptor, the task joins the
tasks, and the head goes on. -/
theorem fetchFrom_reads {s : State} {q : Nat} (d : Desc) (hsound : queueBroken (getQ s q) = false)
    (hok : accessFault s (headWord (getQ s q)) 128 = none)
    (hd : d = BitVec.ofNat 1024 (leNat (loadAw s (headWord (getQ s q)) 128))) : fetchFrom q s =
    modQ q (fun r => { r with
        head := ptrStep (qLog r) r.head, lastTag := dTag d, lastTask := some (newTask (rrNext q s) q d).id })
      (onCfe (fun c => { c with
        tasks := c.tasks ++ [newTask (rrNext q s) q d], nextTask := c.nextTask + 1,
        fetched := c.fetched + 1, refused := c.refused + bit (newTask (rrNext q s) q d).err.isSome })
        (hptRead (queueAsid (rrNext q s) q) (headWord (getQ s q)) 128 (rrNext q s))) := by
  have hok' : (accessFault (rrNext q s) (headWord (getQ s q)) 128).isSome = false := by
    rw [show accessFault (rrNext q s) (headWord (getQ s q)) 128 = accessFault s (headWord (getQ s q)) 128 from rfl, hok]; rfl
  unfold fetchFrom
  simp only [hsound, Bool.false_eq_true, if_false]
  rw [if_neg (by rw [← Bool.not_eq_true] at hok'; exact hok'), hd]
  rfl

/-! ### The write of a record (R80, R81) -/

/-- A settled task whose earlier writes are acknowledged has its record posted to the next completion slot in package memory. -/
theorem issueRecord_posts {s : State} {k : Task} (hspace : awSpace (getQ s k.queue).cplBase = 0) : ∃ u,
    issueRecord k s = postWrite
      (awPath ((getQ s k.queue).cplBase + 32 * ((getQ s k.queue).cplNext.val % 2 ^ qLog (getQ s k.queue))))
      (awAddr ((getQ s k.queue).cplBase + 32 * ((getQ s k.queue).cplNext.val % 2 ^ qLog (getQ s k.queue))))
      (leBytes 32 (recordOf k (folio s) (phaseOf (qLog (getQ s k.queue)) (getQ s k.queue).cplNext.val)))
      (some k.id) (.record k.queue) u ∧
    u.hpt = s.hpt ∧ u.mem = s.mem ∧ u.cfe = (onCfe (fun c => { c with records := c.records + 1 })
      (modTask k.id (fun k => { k with phase := .recorded, finishFolio := some (finishedIn k (folio s)) })
        (modQ k.queue (fun r => { r with cplNext := ptrStep (qLog (getQ s k.queue)) r.cplNext }) s))).cfe := by
  unfold issueRecord
  dsimp only
  rw [if_pos hspace]
  refine ⟨_, rfl, ?_⟩
  split
  · obtain ⟨f, h⟩ := odCount_on odFsuOverruns 1 (onCfe (fun c => { c with records := c.records + 1 })
      (modTask k.id (fun k => { k with phase := .recorded, finishFolio := some (finishedIn k (folio s)) })
        (modQ k.queue (fun r => { r with cplNext := ptrStep (qLog (getQ s k.queue)) r.cplNext }) s)))
    exact ⟨(congrArg State.hpt h :), (congrArg State.mem h :), (congrArg State.cfe h :)⟩
  · exact ⟨rfl, rfl, rfl⟩

theorem postWrite_mem (p a : Nat) (bs : List Byte) (t : Option Nat) (k : WKind) (s : State) :
    (postWrite p a bs t k s).mem = s.mem := by
  obtain ⟨f, g, h, e⟩ := postWrite_on p a bs t k s
  rw [e]; rfl

/-- Without XPATH a task that is settled and whose writes are done writes its record. -/
theorem exec_completionRecordWrite {s : State} {n : Nat} {k : Task} (hk : getTask s n = some k) (hsettled : taskSettled s k = true)
    (hsound : queueBroken (getQ s k.queue) = false) (hx : dXpath k.desc = false) (hdone : writesDone s k = true) :
    exec (.completionRecordWrite n) s = .next (issueRecord k s) := by
  show Host.Outcome.next (doCompletionRecordWrite n s) = _
  simp only [doCompletionRecordWrite, hk, hsettled, hsound, hx, Bool.not_true, Bool.false_and, Bool.false_eq_true, if_false]
  rw [if_pos hdone]

/-- The number that a task is found by. -/
theorem getTask_id {s : State} {n : Nat} {k : Task} (h : getTask s n = some k) : k.id = n := by
  simpa using List.find?_some h

/-- Settles O13: the fetch is `fetchFrom_reads`, the record `issueRecord_posts`. -/
theorem fetchAndRecord : Obligations.FetchAndRecord := by
  unfold Obligations.FetchAndRecord
  refine ⟨?fetch, ?record⟩
  case fetch =>
    intro s q hon hq hsound hok
    generalize hd : BitVec.ofNat 1024 (leNat (loadAw s (headWord (getQ s q)) 128)) = d
    have e : exec .descriptorFetch s = .next (fetchFrom q s) := by
      show Host.Outcome.next (doDescriptorFetch s) = _
      simp only [doDescriptorFetch, hon, hq, if_true]
    obtain ⟨hid, hqueue, hdesc, herr⟩ := newTask_fields (rrNext q s) q d
    rw [fetchFrom_reads d hsound hok hd.symm] at e
    generalize hu : hptRead (queueAsid (rrNext q s) q) (headWord (getQ s q)) 128 (rrNext q s) = u at e
    have hrest : { u with hpt := (rrNext q s).hpt } = rrNext q s := hu ▸ hptRead_rest ..
    have hcfe : u.cfe = (rrNext q s).cfe := (congrArg State.cfe hrest :)
    have hget : ∀ p, getQ u p = getQ s p := fun p => by unfold getQ; rw [hcfe]; rfl
    refine ⟨_, newTask (rrNext q s) q d, e, ?_, hid, hqueue, hdesc.trans hd.symm, herr.trans (by rw [hdesc]; rfl), ?_, ?_, ?_,
      fun p hp => ?_, ?_⟩
    · show u.cfe.tasks ++ _ = _
      rw [hcfe]; rfl
    · show u.cfe.nextTask + 1 = _
      rw [hcfe]; rfl
    · show u.cfe.rr = _
      rw [hcfe]; rfl
    · rw [hdesc]
      refine (getQ_mod_same ..).trans ?_
      exact congrArg (fun r : Queue => { r with
        head := ptrStep (qLog r) r.head, lastTag := dTag d, lastTask := some (newTask (rrNext q s) q d).id }) (hget q)
    · rw [getQ_mod_other _ _ hp]
      exact hget p
    · exact (congrArg (fun t : State => { t with cfe := s.cfe }) hrest :)
  case record =>
    intro s n k hk hsettled hsound hx hdone hspace
    obtain ⟨u, hissue, hhpt, hmem, hcfe⟩ := issueRecord_posts hspace
    obtain rfl := getTask_id hk
    have hcfe' : (issueRecord k s).cfe = u.cfe := hissue ▸ postWrite_cfe ..
    refine ⟨_, _, exec_completionRecordWrite hk hsettled hsound hx hdone,
      hissue ▸ (postWrite_outq ..).trans (by rw [hhpt]), rfl, rfl, rfl, rfl, rfl, ?_, ?_, fun p hp => ?_, ?_⟩
    · rw [getTask_congr (congrArg Cfe.tasks (hcfe'.trans hcfe))]
      exact getTask_mod_same (s := modQ k.queue (fun r => { r with cplNext := ptrStep (qLog (getQ s k.queue)) r.cplNext }) s)
        (fun k => { k with phase := .recorded, finishFolio := some (finishedIn k (folio s)) }) hk (fun _ => rfl)
    · rw [getQ_congr (congrArg Cfe.queues (hcfe'.trans hcfe))]
      exact congrArg Queue.cplNext (getQ_mod_same k.queue (fun r => { r with cplNext := ptrStep (qLog (getQ s k.queue)) r.cplNext }) s)
    · rw [getQ_congr (congrArg Cfe.queues (hcfe'.trans hcfe))]
      exact getQ_mod_other (fun r => { r with cplNext := ptrStep (qLog (getQ s k.queue)) r.cplNext }) s hp
    · rw [hissue, postWrite_mem, hmem]

end Sys2Proof.Machine
end

section
/-! SUPPORT. The ports of Ifeop and their link cells (R328 to R334, R345). -/

namespace Sys2Proof.Machine

/-! ### Counters and bytes of the object dictionary (R449) -/

theorem odGet_count_other {k j : Nat} (n : Nat) (s : State) (h : j ≠ k) : odGet (odCount k n s) j = odGet s j := by
  unfold odCount
  split
  · rfl
  · exact odGet_set_other _ s h

/-- A count below the maximum of its type. -/
theorem odGet_count_same {k n w : Nat} {s : State} (hw : (odFind k).map (·.size) = some w) (h : odGet s k + n < 2 ^ (8 * w)) :
    odGet (odCount k n s) k = odGet s k + n := by
  unfold odCount
  split
  · next h0 => rw [h0]; rfl
  · simp only [hw, Option.getD_some, odGet_set_same]
    rw [satTo, if_pos (by omega)]

theorem odCount_rest (k n : Nat) (s : State) : { odCount k n s with od := s.od } = s := by
  obtain ⟨f, h⟩ := odCount_on k n s
  rw [h]; rfl

/-! ### The state of a port (Table 13.8) -/

theorem portState_set_same (k v : Nat) (s : State) : portState (setPortState k v s) k = v % 256 := by
  unfold portState odByte setPortState
  rw [odGet_set_same, bitsOf_setBits_same, show 8 * k + 7 + 1 - 8 * k = 8 by omega]; rfl

/-- What leaves the object dictionary but for the counts of events leaves the state of every port. -/
theorem portState_bare {s t : State} (h : odBare t = odBare s) (k : Nat) : portState t k = portState s k := by
  unfold portState odByte
  rw [odGet_bare h (k := odSfpPortState)]

theorem portState_congr {s t : State} (h : t.od = s.od) (k : Nat) : portState t k = portState s k := by
  unfold portState odByte odGet
  rw [h]

theorem portUp_eq {s : State} {k v : Nat} (h : portState s k = v) : portUp s k = decide (2 ≤ v) := by
  unfold portUp; rw [h]

theorem getPort_mod_other {k j : Nat} (f : Port → Port) (s : State) (h : j ≠ k) : getPort (modPort k f s) j = getPort s j :=
  tabGet_mod_other _ _ _ h
theorem getPort_congr {s t : State} (h : t.sfp.ports = s.sfp.ports) (k : Nat) : getPort t k = getPort s k := by
  unfold getPort; rw [h]

theorem odCount_sfp (k n : Nat) (s : State) : (odCount k n s).sfp = s.sfp :=
  (congrArg State.sfp (odCount_rest k n s) :)

theorem getPort_odCount (k n p : Nat) (s : State) : getPort (odCount k n s) p = getPort s p :=
  getPort_congr (congrArg Sfp.ports (odCount_sfp k n s)) p

theorem post0_sfp (e : EvKind) (n d : Nat) (s : State) : (post0 e n d s).sfp = s.sfp := by
  have h : Holds (fun t => t.sfp = s.sfp) s := rfl
  exact post0_holds (P := fun t => t.sfp = s.sfp) (keeps_sfp s _) _ _ _ h

theorem odBare_post0 (e : EvKind) (n d : Nat) (s : State) : odBare (post0 e n d s) = odBare s := odBare_postEvent ..

/-- A new nomination of the reference port changes no port. -/
theorem renominate_ports (s : State) : (renominate s).sfp.ports = s.sfp.ports := by
  unfold renominate requalify
  dsimp only
  split <;> rfl
theorem renominate_ctlOut (s : State) : (renominate s).sfp.ctlOut = s.sfp.ctlOut := by
  unfold renominate requalify
  dsimp only
  split <;> rfl
theorem forgetRef_od (p : Nat) (s : State) : (forgetRef p s).od = s.od := rfl
theorem forgetRef_sfp (p : Nat) (s : State) : (forgetRef p s).sfp = s.sfp := rfl
theorem renominate_od (s : State) : (renominate s).od = s.od := by
  unfold renominate requalify
  dsimp only
  split <;> rfl

/-! ### Training (R328) -/

/-- The port that trains has its numbers at 0, and its state is that of its lanes. -/
theorem doPortTrain_ports {p lanes : Nat} {s : State} (hp : p < 8) (hoff : s.cru.run ≠ .off) (hreset : s.cru.run ≠ .reset)
    (hdown : portUp s p = false) : (doPortTrain p lanes s).sfp.ports = (modPort p (fun _ => {}) s).sfp.ports ∧
    portState (doPortTrain p lanes s) p = (if lanes = 16 then 2 else if lanes = 8 then 3 else 0) := by
  unfold doPortTrain
  rw [if_neg (by simp [Nat.not_le.2 hp, hoff, hreset, hdown])]
  dsimp only
  by_cases h : lanes = 16 ∨ lanes = 8
  · rw [if_pos h]
    refine ⟨?_, ?_⟩
    · rw [renominate_ports, post0_sfp]; rfl
    · rw [portState_congr (renominate_od _), portState_bare (odBare_post0 ..), portState_set_same]
      rcases h with h | h <;> simp [h]
  · rw [if_neg h]
    refine ⟨?_, ?_⟩
    · rw [post0_sfp]; rfl
    · rw [portState_bare (odBare_post0 ..), portState_set_same, if_neg (by omega), if_neg (by omega)]

/-! ### A port goes down (R328, R334) -/

/-- A cell goes out on a port that is up. -/
theorem portFor_up {s : State} {dst xid i k : Nat} (h : portFor s dst xid i = some k) : portUp s k = true := by
  have hmem := List.mem_of_getElem? h
  simp only [upPorts, List.mem_filter, Bool.and_eq_true] at hmem
  exact hmem.2.2

/-- A cell that goes out leaves a port that is not up. -/
theorem laneCell_down {s : State} {p : Nat} (dst xid i : Nat) (h : portUp s p = false) :
    getPort (laneCell dst xid i s) p = getPort s p := by
  unfold laneCell
  split
  · rfl
  · next k hk =>
    have hne : p ≠ k := fun e => by rw [e, portFor_up hk] at h; cases h
    exact getPort_mod_other _ _ hne

/-- What the cells sent again on other ports leave of a port that is down, and of the rest. -/
structure DownKept (p : Nat) (s t : State) : Prop where
  od : t.od = s.od
  port : getPort t p = getPort s p
  ctl : t.sfp.ctlOut = s.sfp.ctlOut

theorem laneCells_again {s : State} {p : Nat} (h : portUp s p = false) (cells : List ReplayCell) :
    DownKept p s (forEach (fun c s => laneCell c.dst c.xid c.part s) cells s) := by
  refine forEach_holds (P := DownKept p s) _ (fun c t ht => ?_) cells (show DownKept p s s from ⟨rfl, rfl, rfl⟩)
  obtain ⟨hod, hport, hctl⟩ := ht
  have ht : portUp t p = false := (portUp_eq (portState_congr hod p)).trans (h ▸ (portUp_eq rfl).symm)
  obtain ⟨ps, e⟩ := laneCell_eq c.dst c.xid c.part t
  refine ⟨?_, (laneCell_down _ _ _ ht).trans hport, ?_⟩
  · rw [e]; exact hod
  · rw [e]; exact hctl

theorem portDown_port {p : Nat} (c : Nat) {s : State} (hup : portUp s p = true) : portState (portDown p c s) p = 1 ∧
    (getPort (portDown p c s) p).replay = [] ∧ (getPort (portDown p c s) p).retries = 0 ∧
    (portDown p c s).sfp.ctlOut = s.sfp.ctlOut := by
  unfold portDown
  rw [if_pos hup]
  extract_lets cells s1 s2
  have hs2 : s2 = renominate (forgetRef p (post0 evSfpPortDown p c (setPortState p 1 s1))) := rfl
  clear_value s2
  have hstate : portState s2 p = 1 := by
    rw [hs2, portState_congr (renominate_od _), portState_congr (forgetRef_od _ _), portState_bare (odBare_post0 ..),
      portState_set_same]
  have hports : s2.sfp.ports = s1.sfp.ports := by rw [hs2, renominate_ports, forgetRef_sfp, post0_sfp]; rfl
  have hctl : s2.sfp.ctlOut = s1.sfp.ctlOut := by rw [hs2, renominate_ctlOut, forgetRef_sfp, post0_sfp]; rfl
  have hport : getPort s2 p = { getPort s p with replay := [], retries := 0, nak := none } :=
    (getPort_congr hports p).trans (getPort_mod_same ..)
  obtain ⟨hod, hkept, hctl'⟩ := laneCells_again (p := p) (by rw [portUp_eq hstate]; rfl) cells
  refine ⟨(portState_congr hod p).trans hstate, ?_, ?_, ?_⟩
  · rw [hkept, hport]
  · rw [hkept, hport]
  · rw [hctl', hctl]; rfl

/-! ### Link cells (R331 to R333) -/

/-- What a LINK cell brings to its port: credits, the ingress delay, and the acknowledgement of cells. -/
def linkTaken (p : Nat) (cr : List Nat) (ack d : Nat) (s : State) : State :=
  modPort p (fun x => { x with
    credits := cr.take 4, delay := d % 2 ^ 32, replay := x.replay.filter (fun c => !cellUpTo c.num ack) }) s

theorem releaseHeld_none {s : State} (h : s.sfp.held = []) : releaseHeld s = s := by
  unfold releaseHeld
  rw [h]
  rfl

/-- The one request that waits for a credit goes out once its port has one. -/
theorem releaseHeld_one {s : State} {c : SentCell} (h : s.sfp.held = [c]) (hc : credited s c.dst c.xid = true) :
    releaseHeld s = transmit c (onSfp (fun f => { f with held := f.held.erase c }) s) := by
  unfold releaseHeld
  rw [h]
  show (if credited s c.dst c.xid then _ else _) = _
  rw [if_pos hc]

/-- A LINK cell to a port that is up: without a NAK its requests may go out; with one every cell sent again is counted. -/
theorem exec_link {p : Nat} {cr : List Nat} {ack d : Nat} {s : State} (hup : portUp s p = true) (nak : Option Nat) :
    exec (.link p cr ack nak d) s = .next (match nak with
      | none => releaseHeld (linkTaken p cr ack d s)
      | some n =>
        let u := releaseHeld (linkTaken p cr ack d s)
        let again := ((getPort u p).replay.filter (fun c => cellUpTo n c.num)).length
        let v := odCount odSfpLinkRetries again (modPort p (fun x => { x with retries := x.retries + again }) u)
        if odGet v odSfpRetryLimit ≤ (getPort v p).retries then portDown p 2 v else v) := by
  show Host.Outcome.next (doLink p cr ack nak d s) = _
  unfold doLink
  rw [if_pos hup]
  rfl

/-- A NAK below the limit of retries sends the cells that it asks for again and counts them. -/
theorem doLink_nak {p : Nat} {cr : List Nat} {ack n d again : Nat} {s : State} (hup : portUp s p = true) (hheld : s.sfp.held = [])
    (hagain : again = ((getPort s p).replay.filter (fun c => !cellUpTo c.num ack && cellUpTo n c.num)).length)
    (hlimit : (getPort s p).retries + again < odGet s odSfpRetryLimit) : exec (.link p cr ack (some n) d) s =
      .next (odCount odSfpLinkRetries again (modPort p (fun x => { x with retries := x.retries + again })
        (linkTaken p cr ack d s))) := by
  have hport : getPort (linkTaken p cr ack d s) p = { getPort s p with
      credits := cr.take 4, delay := d % 2 ^ 32, replay := (getPort s p).replay.filter (fun c => !cellUpTo c.num ack) } :=
    getPort_mod_same ..
  have hagain' : ((getPort (linkTaken p cr ack d s) p).replay.filter (fun c => cellUpTo n c.num)).length = again := by
    rw [hport, hagain, List.filter_filter]
    simp only [Bool.and_comm]
  rw [exec_link hup]
  dsimp only
  rw [releaseHeld_none (by exact hheld), hagain']
  generalize hv : odCount odSfpLinkRetries again (modPort p (fun x => { x with retries := x.retries + again })
    (linkTaken p cr ack d s)) = v
  have hretries : (getPort v p).retries = (getPort s p).retries + again := by
    rw [← hv, getPort_odCount, getPort_mod_same, hport]
  have hlim : odGet v odSfpRetryLimit = odGet s odSfpRetryLimit := by
    rw [← hv, odGet_count_other _ _ (by decide)]
    rfl
  rw [if_neg (by rw [hretries, hlim]; omega)]

/-- Settles O17: a port trains (`doPortTrain_ports`) and goes down (`portDown_port`); each LINK cell is `exec_link`. -/
theorem portsAndLinks : Obligations.PortsAndLinks := by
  unfold Obligations.PortsAndLinks
  refine ⟨?train, ?down, ?link, ?release, ?nak, ?send, ?codeword, ?bad⟩
  case train =>
    intro s p lanes hp hoff hreset hdown
    have e : exec (.portTrain p lanes) s = .next (doPortTrain p lanes s) := rfl
    obtain ⟨hports, hstate⟩ := doPortTrain_ports (lanes := lanes) hp hoff hreset hdown
    refine ⟨_, e, ?_, hstate, fun k hk => ?_, exec_piece .host e, exec_tasks e⟩
    · exact (getPort_congr hports p).trans (getPort_mod_same ..)
    · exact (getPort_congr hports k).trans (getPort_mod_other _ _ hk)
  case down =>
    intro s p c hp hup hc
    have e : exec (.sfpPortDown p c) s = .next (portDown p c s) := by
      show Host.Outcome.next (whenS (c == 1 || c == 2) (portDown p c) s) = _
      rw [whenS, if_pos (by simpa using hc)]
    obtain ⟨hstate, hreplay, hretries, hctl⟩ := portDown_port c hup
    exact ⟨_, e, hstate, hreplay, hretries, hctl, exec_tasks e⟩
  case link =>
    intro s p cr ack d hup hheld
    rw [exec_link hup]
    exact congrArg _ (releaseHeld_none hheld)
  case release =>
    rintro s u p cr ack d c hup hheld hlen rfl hcredit hseq
    have e := exec_link (cr := cr) (ack := ack) (d := d) hup none
    have hone := releaseHeld_one (s := linkTaken p cr ack d s) hheld hcredit
    have hcells : cellsFor c.len = 1 := by unfold cellsFor cdiv; omega
    obtain ⟨cs, ps, hsfp⟩ := transmit_sfp c (onSfp (fun f => { f with held := f.held.erase c }) (linkTaken p cr ack d s))
      (by rw [hcells]; exact hseq)
    refine ⟨_, e, ?_, ?_, exec_tasks e, exec_piece .host e⟩
    · show (releaseHeld (linkTaken p cr ack d s)).sfp.held = []
      rw [hone, hsfp]
      show s.sfp.held.erase c = []
      rw [hheld, List.erase_cons_head]
    · show (releaseHeld (linkTaken p cr ack d s)).sfp.sentCells = _
      rw [hone, hsfp]
      rfl
  case nak =>
    intro s p cr ack n d again hup hheld hagain hlimit
    have hrest := odCount_rest odSfpLinkRetries again (modPort p (fun x => { x with retries := x.retries + again })
        (linkTaken p cr ack d s))
    refine ⟨_, doLink_nak hup hheld hagain hlimit, ?_, fun k hk => ?_, (congrArg State.cfe hrest :)⟩
    · rw [getPort_odCount, getPort_mod_same, linkTaken, getPort_mod_same]
    · rw [getPort_odCount, getPort_mod_other _ _ hk, linkTaken, getPort_mod_other _ _ hk]
  case send =>
    intro s p hup
    refine ⟨_, rfl, ?_⟩
    rw [doLinkCellSend, if_pos hup]
    exact ⟨rfl, getPort_mod_same p (fun x => { x with sinceLink := 0, nak := none }) s, rfl⟩
  case codeword =>
    intro s p n hup
    show Host.Outcome.next (whenS (portUp s p) _ s) = _
    rw [whenS, if_pos hup]
  case bad =>
    intro s ty c src hbad hlt
    have e : exec (.badCell ty c src) s = .next (odCount odSfpBadCells 1 s) := by
      show Host.Outcome.next (whenS (typeReserved ty || c != s.sfp.collId || !isMember s src) (odCount odSfpBadCells 1) s) = _
      rw [whenS, if_pos hbad]
    refine ⟨_, e, odGet_count_same (w := 8) (by decide) (by omega), fun k hk => odGet_count_other _ _ hk, odCount_rest ..⟩

end Sys2Proof.Machine
end

section
/-! SUPPORT. Writes at an address word (Table 12.3), and the entries with rules of their own (R106, R113, R155, R208, R345,
R375, R407). -/

namespace Sys2Proof.Machine

/-! ### Bytes put at places that a function names -/

theorem memByte_puts_other (f : Nat → Nat) (bs : List Byte) (k b : Nat) (m : List Host.Cell)
    (h : ∀ i, i < bs.length → b ≠ f (k + i)) :
    memByte ((bs.zipIdx k).foldl (fun m c => memPut (f c.2) c.1 m) m) b = memByte m b := by
  induction bs generalizing k m with
  | nil => rfl
  | cons x bs ih =>
    rw [List.zipIdx_cons, List.foldl_cons, ih (k + 1) _ (fun i hi => ?later), memByte_put, if_neg (by exact h 0 (by simp))]
    case later => rw [show k + 1 + i = k + (i + 1) by omega]; exact h (i + 1) (by simpa using hi)

/-- A place holds the byte put last. -/
theorem memByte_puts_last (f : Nat → Nat) (bs : List Byte) (k i : Nat) (m : List Host.Cell) (hi : i < bs.length)
    (hlast : ∀ j, i < j → j < bs.length → f (k + j) ≠ f (k + i)) :
    memByte ((bs.zipIdx k).foldl (fun m c => memPut (f c.2) c.1 m) m) (f (k + i)) = bs.getD i 0 := by
  induction bs generalizing k i m with
  | nil => exact absurd hi (by simp)
  | cons x bs ih =>
    rw [List.zipIdx_cons, List.foldl_cons]
    cases i with
    | zero =>
      rw [memByte_puts_other f bs (k + 1) _ _ (fun j hj => ?ne), Nat.add_zero, memByte_put, if_pos rfl]
      · rfl
      case ne => rw [show k + 1 + j = k + (j + 1) by omega]; exact (hlast (j + 1) (by omega) (by simpa using hj)).symm
    | succ i =>
      rw [show k + (i + 1) = k + 1 + i by omega]
      refine ih (k + 1) i _ (by simpa using hi) (fun j hij hj => ?_)
      rw [show k + 1 + j = k + (j + 1) by omega, show k + 1 + i = k + (i + 1) by omega]
      exact hlast (j + 1) (by omega) (by simpa using hj)

theorem scratchStore_stored (a : Nat) (bs : List Byte) (s : State) : storedScratch a bs s (scratchStore s a bs) := by
  refine ⟨fun i hi hlast => ?_, fun b hb => ?_⟩
  · have h := memByte_puts_last (fun i => scratchKey s (a + i)) bs 0 i s.mem.scratch hi (by simpa using hlast)
    simpa [scratchStore] using h
  · exact memByte_puts_other (fun i => scratchKey s (a + i)) bs 0 b s.mem.scratch (by simpa using hb)

/-! ### GDDR7 with every channel up (R262, R285) -/

theorem gddrKeep_up {s : State} (a : Nat) (bs : List Byte) (h : chansUp s) : gddrKeep s a bs = bs := by
  rw [gddrKeep, if_neg]
  rw [List.any_eq_true]
  rintro ⟨c, hc, hdown⟩
  exact Bool.false_ne_true ((h c hc).symm.trans hdown)

theorem gddrStore_mem {s : State} (a : Nat) (bs : List Byte) (h : chansUp s) :
    (gddrStore a bs s).mem = { s.mem with gddr := memStore a bs s.mem.gddr } := by
  have hkept : (gddrStore a bs s).mem = { s.mem with gddr := memStore a (gddrKeep s a bs) s.mem.gddr } := rfl
  rw [hkept, gddrKeep_up a bs h]

theorem gddrStore_stored {s : State} (a : Nat) (bs : List Byte) (h : chansUp s) :
    stored a bs s.mem.gddr (gddrStore a bs s).mem.gddr := by
  rw [gddrStore_mem a bs h]
  exact stored_memStore ..

theorem gddrStore_chansUp {s : State} (a : Nat) (bs : List Byte) (h : chansUp s) : chansUp (gddrStore a bs s) := h

theorem gddrStore_frame (a : Nat) (bs : List Byte) (s : State) : (gddrStore a bs s).hpt.outq = s.hpt.outq ∧
    (gddrStore a bs s).hpt.issued = s.hpt.issued := ⟨rfl, rfl⟩

theorem awSpace_lt (w : Nat) : awSpace w < 4 := Nat.mod_lt _ (by decide)

theorem storeAw_package {w : Nat} (bs : List Byte) (task : Option Nat) (s : State) (h : awSpace w = 0) :
    storeAw w bs task s = postWrite (awPath w) (awAddr w) bs task .output
      (if awPath w = 0 then pinOverlay 1 (awAddr w) bs (stacksWrite 1 (awAddr w) bs s) else s) := by
  simp only [storeAw, h]

theorem storeAw_gddr {w : Nat} (bs : List Byte) (task : Option Nat) (s : State) (h : awSpace w = 1) :
    storeAw w bs task s = gddrStore (awAddr w) bs (pinOverlay 0 (awAddr w) bs s) := by
  simp only [storeAw, h]

theorem storeAw_scratch {w : Nat} (bs : List Byte) (task : Option Nat) (s : State) (h : awSpace w = 2) :
    storeAw w bs task s = onMem (fun m => { m with scratch := scratchStore s (awAddr w) bs }) s := by
  simp only [storeAw, h]

theorem storeAw_tiles {w : Nat} (bs : List Byte) (task : Option Nat) (s : State) (h : awSpace w = 3) :
    storeAw w bs task s = onMem (fun m => { m with tiles := memStore (tileKey (awAddr w)) bs m.tiles }) s := by
  simp only [storeAw, h]

/-- A write at an address word: posted to package memory, or stored in the memory that it names. -/
theorem storeAw_storedAt {s : State} (w : Nat) (bs : List Byte) (task : Option Nat) (h : chansUp s) :
    storedAt w bs task s (storeAw w bs task s) := by
  have hlt := awSpace_lt w
  unfold storedAt
  obtain hw | hw | hw | hw : awSpace w = 0 ∨ awSpace w = 1 ∨ awSpace w = 2 ∨ awSpace w = 3 := by omega
  · rw [storeAw_package bs task s hw, postWrite_mem, postWrite_outq, hw]
    split <;> exact ⟨rfl, rfl, rfl, rfl, rfl⟩
  · have hup : chansUp (pinOverlay 0 (awAddr w) bs s) := h
    rw [storeAw_gddr bs task s hw, hw]
    have hmem := gddrStore_mem (awAddr w) bs hup
    exact ⟨by rw [hmem]; rfl, rfl, gddrStore_stored (awAddr w) bs hup, by rw [hmem]; rfl, by rw [hmem]; rfl⟩
  · rw [storeAw_scratch bs task s hw, hw]
    exact ⟨rfl, rfl, rfl, scratchStore_stored _ _ s, rfl⟩
  · rw [storeAw_tiles bs task s hw, hw]
    exact ⟨rfl, rfl, rfl, rfl, stored_memStore ..⟩

/-! ### What a command leaves of the front end and of memory -/

theorem exec_cfe {c : Instr} {s t : State} (e : exec c s = .next t)
    (h : (partsOf c).all (fun p => !([Part.cfe, .mq, .ev].elem p)) = true := by rfl) : t.cfe = s.cfe := by
  refine exec_keeps (P := fun t => t.cfe = s.cfe) e (fun p hp => keeps_cfe s p ?_) rfl
  have hall := List.all_eq_true.mp h p hp
  simpa using hall

theorem exec_mem {c : Instr} {s t : State} (e : exec c s = .next t)
    (h : [Piece.host, .gddr, .scratch, .tiles].all (fun p => !((mayChange c).elem p)) = true := by rfl) : t.mem = s.mem := by
  have hpiece (p : Piece) (hp : p ∈ [Piece.host, .gddr, .scratch, .tiles]) : samePiece p s t :=
    exec_piece p e (by simpa using List.all_eq_true.mp h p hp)
  have hhost : t.mem.host = s.mem.host := hpiece .host (by decide)
  have hgddr : t.mem.gddr = s.mem.gddr := hpiece .gddr (by decide)
  have hscratch : t.mem.scratch = s.mem.scratch := hpiece .scratch (by decide)
  have htiles : t.mem.tiles = s.mem.tiles := hpiece .tiles (by decide)
  calc t.mem = ⟨t.mem.host, t.mem.gddr, t.mem.scratch, t.mem.tiles⟩ := rfl
    _ = s.mem := by rw [hhost, hgddr, hscratch, htiles]

/-! ### Entries with rules of their own -/

theorem hashSlotApply_some {v : Nat} {s : State} (hv : v ≤ 3) (hoff : tableLive s (fun t => deHashed (dirAt s t)) = false)
    (hload : ∀ p ∈ activePods s, v = 0 ∨ ∃ h ∈ (getPod s p).hashes, h.1 = v) :
    hashSlotApply v s = some (odSet odIxuHashSlot v s) := by
  rw [hashSlotApply, if_neg (by simp [hoff]; omega), if_neg]
  rintro ⟨h0, hany⟩
  rw [List.any_eq_true] at hany
  obtain ⟨p, hp, hno⟩ := hany
  obtain hv0 | ⟨x, hx, hxv⟩ := hload p hp
  · exact h0 hv0
  · have hmem : (getPod s p).hashes.any (fun h => h.1 == v) = true := List.any_eq_true.mpr ⟨x, hx, by simpa using hxv⟩
    rw [hmem] at hno
    exact absurd hno (by decide)

theorem bindApply_some {k v : Nat} {s : State} (hk : k ≤ 8) (hv : v < 2 ^ 4096) (hslots : ∀ q < 512,
    bitsOf v (8 * q + 7) (8 * q) = k ∨ (16 ≤ bitsOf v (8 * q + 7) (8 * q) ∧ bitsOf v (8 * q + 7) (8 * q) ≤ 63)) :
    bindApply k v s = some (odSet (odGauSproutBind + k) v s) := by
  have hall : (List.range 512).all (fun q => let x := bitsOf v (8 * q + 7) (8 * q);
      x == k || (decide (16 ≤ x) && decide (x ≤ 63))) = true := by
    refine List.all_eq_true.mpr fun q hq => ?_
    obtain h | ⟨h16, h63⟩ := hslots q (List.mem_range.mp hq)
    · simp [h]
    · simp [h16, h63]
  rw [bindApply, hall]
  exact if_neg (by rintro (h | h | h) <;> [omega; exact absurd h (by omega); exact absurd h (by decide)])

theorem residApply_some {k v : Nat} {s : State} (hk : k ≤ 15) (hv : v < 2 ^ 128) (h17 : bitsOf v 63 17 = 0)
    (h64 : v / 2 ^ 64 % 64 = 0) (hother : bitOf v 16 = true → ∀ j < 16, j ≠ k → bitOf (odGet s (odQntResid + j)) 16 = true →
      odGet s (odQntResid + j) % 65536 ≠ v % 65536) : residApply k v s = some (odSet (odQntResid + k) v s) := by
  refine if_neg ?_
  rintro (h | h | h | h | ⟨hbit, h⟩)
  · omega
  · omega
  · exact h h17
  · exact h (by rw [Nat.shiftRight_eq_div_pow]; exact h64)
  · obtain ⟨j, hj, hsame⟩ := List.any_eq_true.mp h
    simp only [Bool.and_eq_true, bne_iff_ne, beq_iff_eq] at hsame
    obtain ⟨⟨hjk, hj16⟩, hmod⟩ := hsame
    exact hother hbit j (List.mem_range.mp hj) hjk hj16 hmod

theorem notifyApply_some {k v : Nat} {s : State} (hk : k ≤ 63) (hv : v < 2 ^ 128) (h13 : bitsOf v 14 13 = 0)
    (h22 : bitsOf v 63 22 = 0) : notifyApply k v s = some (odSet (odFsuNotify + k) v s) := by
  refine if_neg ?_
  rintro (h | h | h | h)
  · omega
  · omega
  · exact h h13
  · exact h h22

/-- The training entries with one of them set; an entry of 0 is not listed. -/
def trainSet (i v : Nat) (t : List (Nat × BitVec 128)) : List (Nat × BitVec 128) :=
  if v = 0 then tabDrop i t else tabPut i (BitVec.ofNat 128 v) t

theorem tabGet_trainSet (i j v : Nat) (t : List (Nat × BitVec 128)) :
    tabGet j 0 (trainSet i v t) = if j = i then BitVec.ofNat 128 v else tabGet j 0 t := by
  unfold trainSet
  by_cases hv : v = 0
  · rw [if_pos hv, tabGet_drop, hv]; rfl
  · rw [if_neg hv]
    by_cases hj : j = i
    · rw [if_pos hj, hj, tabGet_put_same]
    · rw [if_neg hj, tabGet_put_other _ _ _ hj]

theorem trainApply_some {v : Nat} {s : State} (hv : v < 2 ^ 128) (h93 : bitsOf v 95 93 = 0) (h50 : bitsOf v 88 50 = 0)
    (hoff : tableLive s (· == odGet s odUpuTrainSelect) = false) :
    trainApply v s = some (onUpu (fun u => { u with train := trainSet (odGet s odUpuTrainSelect) v u.train })
      (gddrStore (trainAddr s (odGet s odUpuTrainSelect)) (leBytes 16 v) s)) := by
  refine (if_neg ?_).trans (if_neg ?_)
  · rintro (h | h | h)
    · omega
    · exact h h93
    · exact h h50
  · rintro ⟨-, hlive⟩
    exact absurd (hoff.symm.trans hlive) (by decide)

theorem nominee_fixed {s : State} (h : odGet s odSfpRefPort < 8) :
    nominee s = if portUp s (odGet s odSfpRefPort) then some (odGet s odSfpRefPort) else none := by
  unfold nominee
  exact if_pos h

theorem renominate_refPort (s : State) : (renominate s).sfp.refPort = nominee s := by
  unfold renominate requalify
  dsimp only
  split <;> rfl

theorem applyHeld_none {s : State} (h : s.cru.heldWrites = []) : applyHeld s = s := by
  have hcru : { s.cru with heldWrites := s.cru.heldWrites.filter (fun w => gated s (odSub w.1)) } = s.cru := by
    obtain ⟨cfe, cat, pods, gau, stk, mss, upu, hpt, sfp, fsu, msc, cru, od, mem, out, pending⟩ := s
    obtain ⟨⟩ := cru
    subst h
    rfl
  unfold applyHeld
  rw [h]
  exact congrArg (fun c => { s with cru := c }) hcru

/-- Settles O30: each entry's rule lets the value in (the `…Apply_some` lemmas), and `odTry` answers OK. -/
theorem entryWrites : Obligations.EntryWrites := by
  unfold Obligations.EntryWrites
  refine ⟨?hash, ?bind, ?resid, ?notify, ?refPort, ?train, ?gate⟩
  case hash =>
    intro s v r hready hr hv hoff hload
    exact congrArg _ (odTry_some hr hready (hashSlotApply_some hv hoff hload))
  case bind =>
    intro s k v r hk hready hr hv hslots
    show Host.Outcome.next (if 8 < k then _ else _) = _
    rw [if_neg (by omega), odTry_some hr hready (bindApply_some hk hv hslots)]
  case resid =>
    intro s k v r hk hready hr hv h17 h64 hother
    show Host.Outcome.next (if 15 < k then _ else _) = _
    rw [if_neg (by omega), odTry_some hr hready (residApply_some hk hv h17 h64 hother)]
  case notify =>
    intro s k v r hk hready hr hv h13 h22
    show Host.Outcome.next (if 63 < k then _ else _) = _
    rw [if_neg (by omega), odTry_some hr hready (notifyApply_some hk hv h13 h22)]
  case refPort =>
    intro s v r hready hr hv
    have e : exec (.sfpRefPortWrite v r) s = .next (odAnswer osOk (renominate (odSet odSfpRefPort v s))) :=
      congrArg _ (odTry_some hr hready (if_pos hv))
    have hget : odGet (odAnswer osOk (renominate (odSet odSfpRefPort v s))) odSfpRefPort = v := by
      unfold odGet
      rw [show (odAnswer osOk (renominate (odSet odSfpRefPort v s))).od = (odSet odSfpRefPort v s).od from renominate_od _]
      exact odGet_set_same ..
    refine ⟨_, e, hget, rfl, fun hlt => ?_, exec_cfe e, exec_mem e⟩
    have hup : portUp (odSet odSfpRefPort v s) v = portUp s v := by
      unfold portUp portState odByte
      rw [odGet_set_other _ _ (by decide)]
    show (renominate (odSet odSfpRefPort v s)).sfp.refPort = _
    rw [renominate_refPort, nominee_fixed (by rw [odGet_set_same]; exact hlt), odGet_set_same, hup]
  case train =>
    intro s v r hready hr hv h93 h50 hoff hup
    refine ⟨_, congrArg Host.Outcome.next (odTry_some hr hready (trainApply_some hv h93 h50 hoff)), (tabGet_trainSet ..).trans (if_pos rfl), fun i hi => (tabGet_trainSet ..).trans (if_neg hi), ?_, ?_, rfl, rfl⟩
    · exact gddrStore_stored _ _ hup
    · exact congrArg (fun m : Mem => { m with gddr := s.mem.gddr }) (gddrStore_mem _ _ hup)
  case gate =>
    intro s v hwin hconf hheld
    have e : exec (.cruGateWrite v) s = .next (gateWrite v s) := by
      show Host.Outcome.next (whenS (windowUp s && !confidential s) (gateWrite v) s) = _
      rw [whenS, hwin, hconf]; rfl
    refine ⟨_, e, ?_⟩
    unfold gateWrite
    dsimp only
    split
    · rw [applyHeld_none (by exact hheld)]
      exact ⟨rfl, fun _ _ => rfl, rfl, rfl⟩
    next hnot =>
      have hself : bitOf s.cru.gate.toNat 5 = true → bitOf (v % 65536 ||| 0xF400) 5 = false → False := fun hwas hnow =>
        hnot (by simp [hwas, gateFixed, hnow])
      split
      · rw [applyHeld_none (by exact hheld)]
        exact ⟨rfl, fun hwas hnow => absurd (hself hwas hnow) id, rfl, rfl⟩
      · rw [applyHeld_none (by exact hheld)]
        exact ⟨rfl, fun hwas hnow => absurd (hself hwas hnow) id, rfl, rfl⟩

end Sys2Proof.Machine
end

section
/-! SUPPORT. Slot rings and the heat sketch (R232, R234, R244, R245). -/

namespace Sys2Proof.Machine

theorem odGet_congr {s t : State} (h : t.od = s.od) (k : Nat) : odGet t k = odGet s k := by unfold odGet; rw [h]

/-! ### A change of every Pod -/

theorem tabGet_map {α : Type} (k : Nat) (d : α) (f : α → α) (t : List (Nat × α)) (h : f d = d) :
    tabGet k d (t.map (fun x => (x.1, f x.2))) = f (tabGet k d t) := by
  unfold tabGet
  induction t with
  | nil => exact h.symm
  | cons x t ih =>
    obtain ⟨j, v⟩ := x
    simp only [List.map_cons, tabFind]
    split
    · rfl
    · exact ih

/-- A change of every Pod that leaves a Pod as after reset. -/
theorem getPod_map (f : Pod → Pod) (s : State) (p : Nat) (h : f {} = {}) :
    getPod (onPods (fun ps => ps.map (fun x => (x.1, f x.2))) s) p = f (getPod s p) :=
  tabGet_map p ({} : Pod) f s.pods h

/-! ### Slot rings -/

theorem slotRing_mod_same (k : Nat) (f : SlotRing → SlotRing) (s : State) : slotRing (modSlotRing k f s) k = f (slotRing s k) :=
  tabGet_mod_same ..

theorem slotRing_mod_other {k j : Nat} (f : SlotRing → SlotRing) (s : State) (h : j ≠ k) :
    slotRing (modSlotRing k f s) j = slotRing s j := tabGet_mod_other _ _ _ h

/-- Where no chunk waits for a slot nothing lands. -/
theorem copyRetry_none {s : State} (h : s.cat.copyWait = []) : copyRetry s = s := by
  have hcat : { s.cat with copyWait := [] } = s.cat := by rw [← h]
  unfold copyRetry
  rw [h]
  exact congrArg (fun c => { s with cat := c }) hcat

/-- A DISABLED ring whose size and tier no ring serves is enabled with its pointers at 0. -/
theorem slotringApply_enables {k v : Nat} {s : State} (hoff : bitOf (slotCtl s k) 76 = false) (hon : bitOf v 76 = true)
    (h224 : bitsOf v 255 224 = 0) (h85 : bitsOf v 127 85 = 0) (h77 : bitsOf v 79 77 = 0) (hlow : 10 ≤ srLog v)
    (hhigh : srLog v ≤ 24) (hsize : 32 ≤ srSize v) (htier : srTier v < 2) (hbase : srBase v % 4096 = 0)
    (hfree : ringFor s (srSize v) (srTier v) = none) : slotringApply k v s =
      some (modSlotRing k (fun _ => {}) (odSet (odCatSlotring + k) (setBits (setBits v 223 160 0) 159 128 0) s)) := by
  have hnew : bitOf (setBits v 223 160 0) 76 = true := (bitOf_setBits_other (by omega)).trans hon
  have htwin : (List.range 8).any (fun j => j != k && bitOf (slotCtl s j) 76 && srSize (slotCtl s j) == srSize v &&
      srTier (slotCtl s j) == srTier v) = false := by
    rw [List.any_eq_false]
    intro j hj hserves
    have hnone := List.find?_eq_none.mp hfree j hj
    simp only [Bool.and_eq_true] at hserves hnone
    obtain ⟨⟨⟨-, hjon⟩, hjsize⟩, hjtier⟩ := hserves
    exact hnone ⟨⟨hjon, hjsize⟩, hjtier⟩
  unfold slotringApply
  simp only [hnew, hoff, h224, h85, h77, htwin, hlow, hhigh, hsize, htier, hbase]
  rfl

/-! ### The heat sketch -/

/-- What a window boundary does with the sketch of a Pod: every counter is halved, and no row is a candidate. -/
def heatHalved (p : Pod) : Pod :=
  { p with cand := [], sketch := (p.sketch.map (fun c => (c.1, c.2 / 2))).filter (fun c => c.2 != 0) }

/-- Settles O29: the pointers, the return ring and the sketches are set by one change of a ring or of every Pod. -/
theorem slotsAndHeat : Obligations.SlotsAndHeat := by
  unfold Obligations.SlotsAndHeat
  refine ⟨?enable, ?quarantine, ?query, ?window⟩
  case enable =>
    intro s k v r hk hready hr hoff hon h224 h85 h77 hlow hhigh hsize htier hbase hfree
    have happly := slotringApply_enables hoff hon h224 h85 h77 hlow hhigh hsize htier hbase hfree
    generalize setBits (setBits v 223 160 0) 159 128 0 = w at happly ⊢
    have e : exec (.catSlotringWrite k v r) s =
        .next (odAnswer osOk (modSlotRing k (fun _ => {}) (odSet (odCatSlotring + k) w s))) := by
      show Host.Outcome.next (doCatSlotringWrite k v r s) = _
      rw [doCatSlotringWrite, if_neg (by omega), odTry_some hr hready happly]
    have hod := odGet_congr (s := odSet (odCatSlotring + k) w s)
      (t := odAnswer osOk (modSlotRing k (fun _ => {}) (odSet (odCatSlotring + k) w s))) rfl
    refine ⟨_, e, ?_, slotRing_mod_same .., fun j hj => ⟨slotRing_mod_other _ _ hj, ?_⟩, rfl, rfl, rfl⟩
    · rw [slotCtl, hod, odGet_set_same]
    · rw [slotCtl, hod, odGet_set_other _ _ (by omega), slotCtl]
  case quarantine =>
    intro s k hk hgate hwait
    have e : exec (.slotQuarantineEnd k) s = .next (doSlotQuarantineEnd k s) := by
      show Host.Outcome.next (whenS (decide (k < 8) && !gated s 1) (doSlotQuarantineEnd k) s) = _
      rw [whenS, if_pos (by simp [hk, hgate])]
    refine ⟨_, e, ?_⟩
    unfold doSlotQuarantineEnd
    rw [copyRetry_none (by exact hwait)]
    exact ⟨slotRing_mod_same .., fun j hj => slotRing_mod_other _ _ hj, rfl⟩
  case query =>
    intro s key r hready hr hkey
    have happly : heatQueryApply key s =
        some (odSet odIxuHeatEstimate (satTo (2 ^ 32 - 1) (heatSum s key)) (odSet odIxuHeatQuery key s)) := if_neg (by omega)
    generalize hu : odSet odIxuHeatEstimate (satTo (2 ^ 32 - 1) (heatSum s key)) (odSet odIxuHeatQuery key s) = u at happly
    have e : exec (.ixuHeatQuery key r) s = .next (odAnswer osOk u) := congrArg Host.Outcome.next (odTry_some hr hready happly)
    have hod := odGet_congr (s := u) (t := odAnswer osOk u) rfl
    refine ⟨_, e, ?_, ?_, rfl, ?_, exec_cfe e, exec_mem e⟩
    · rw [hod, ← hu, odGet_set_same]
      unfold satTo
      split <;> omega
    · rw [hod, ← hu, odGet_set_other _ _ (by decide), odGet_set_same]
    · rw [← hu]; rfl
  case window =>
    intro s hfirst hgate
    have e : exec .heatWindowBoundary s = .next (doHeatWindowBoundary s) := rfl
    have hgo : ¬ (folio s % odGet s odIxuHeatWindow ≠ 0 ∨ gated s 2) := by simp [hfirst, hgate]
    refine ⟨_, e, fun p => ?_, exec_cfe e, exec_mem e⟩
    rw [doHeatWindowBoundary, if_neg hgo]
    exact getPod_map heatHalved _ p rfl

end Sys2Proof.Machine
end

section
/-! SUPPORT. Firmware (R386, R387). -/

namespace Sys2Proof.Machine

/-- A write of bytes to a ready entry is answered as its rule says. -/
theorem odBytes_ready {key : Nat} {need role : Role} {s : State} (f : State → Nat × State) (hr : roleOk need role = true)
    (h : odReady key s) : odBytes key need role f s = odAnswer (f s).1 (f s).2 := by
  obtain ⟨hlock, hbusy, hstaged, -⟩ := h
  have hany : s.msc.staged.any (fun x => x.key == key) = false := by
    rw [List.any_eq_false]
    exact fun x hx => by simpa using hstaged x hx
  simp only [odBytes, hr, hlock, hbusy, hany, Bool.not_true, Bool.or_self, Bool.false_eq_true, if_false]

/-! ### Slots -/

theorem fwSlot_set_same (k : Nat) (f : FwSlot) (s : State) : fwSlot (setFwSlot k f s) k = f := by
  simp only [fwSlot, setFwSlot, onMsc]
  split <;> rfl

theorem fwSlot_set_other {k j : Nat} (f : FwSlot) (s : State) (h : ¬ (k = 0 ↔ j = 0)) :
    fwSlot (setFwSlot k f s) j = fwSlot s j := by
  by_cases hk : k = 0
  · have hj : j ≠ 0 := fun hj => h (by simp [hk, hj])
    simp [fwSlot, setFwSlot, onMsc, hk, hj]
  · have hj : j = 0 := Decidable.byContradiction fun hj => h (by simp [hk, hj])
    simp [fwSlot, setFwSlot, onMsc, hk, hj]

theorem fwImage_some {bs : List Byte} {s : State} (hsigned : Config.fwSigned bs = true) (hsvn : s.msc.svn ≤ Config.fwSvn bs)
    (hlen : bs.length ≤ 4194304) : fwImage bs s = some (setFwSlot (1 - fwActive s)
      { version := Config.fwVersion bs, svn := Config.fwSvn bs, passes := true, image := bs } s) :=
  if_pos ⟨hsigned, hsvn, hlen⟩

theorem fwImage_none {bs : List Byte} {s : State} (h : Config.fwSigned bs = false ∨ Config.fwSvn bs < s.msc.svn) :
    fwImage bs s = none := by
  refine if_neg ?_
  rintro ⟨hsigned, hsvn, -⟩
  obtain h | h := h
  · exact absurd (h.symm.trans hsigned) (by decide)
  · omega

/-! ### Restarts -/

theorem fwActive_restart (k : Nat) (s : State) : fwActive (restartFrom k s) = k := odGet_set_same ..

/-- The MSC restarts from slot k, and an event goes out that waits until it runs again. -/
def restarted (e : EvKind) (d k : Nat) (bad : Bool) (s : State) : State :=
  post0 e 0 d (onMsc (fun m => { m with unhealthy := bad }) (restartFrom k s))

theorem fwActive_restarted (e : EvKind) (d k : Nat) (bad : Bool) (s : State) : fwActive (restarted e d k bad s) = k :=
  (odGet_bare (odBare_postEvent ..) (k := odMscFwActive)).trans (fwActive_restart k s)

theorem restarted_msc (e : EvKind) (d k : Nat) (bad : Bool) (s : State) : mscBare (restarted e d k bad s) =
    { mscBare s with restarting := true, sessions := [], staged := [], mbBusy := true, fwPending := false, unhealthy := bad } :=
  mscBare_postEvent ..

theorem forEach_quiet {α β : Type} {g : State → α} {f : β → State → State} (hf : ∀ x t, g (f x t) = g t) (xs : List β) (s : State) :
    g (forEach f xs s) = g s := by
  induction xs generalizing s with
  | nil => rfl
  | cons x xs ih => exact (ih _).trans (hf x s)

/-- Settles O35: each change of a slot, of the active slot or of the fuses, with its event posted after it. -/
theorem firmware : Obligations.Firmware := by
  unfold Obligations.Firmware
  refine ⟨?image, ?refused, ?switch, ?restart, ?unhealthy, ?done, ?commit, ?boots, ?neither⟩
  case image =>
    intro s r bs hready hr hsigned hsvn hlen
    have e : exec (.mscFwImage r bs) s = .next (odAnswer osOk (setFwSlot (1 - fwActive s)
        { version := Config.fwVersion bs, svn := Config.fwSvn bs, passes := true, image := bs } s)) := by
      show Host.Outcome.next (odBytes _ _ _ (fun s => applied s (fwImage bs s)) s) = _
      rw [odBytes_ready _ hr hready, fwImage_some hsigned hsvn hlen]
      rfl
    exact ⟨_, e, fwSlot_set_same .., fun ha => fwSlot_set_other _ s (by omega), rfl, rfl, rfl, rfl⟩
  case refused =>
    intro s r bs hready hr hbad
    show Host.Outcome.next (odBytes _ _ _ (fun s => applied s (fwImage bs s)) s) = _
    rw [odBytes_ready _ hr hready, fwImage_none hbad]
    rfl
  case switch =>
    intro s r hready hr
    exact congrArg Host.Outcome.next (odTry_some hr hready rfl)
  case restart =>
    intro s hpending hrunning
    have e : exec .fwRestart s = .next (restarted evMscFwSwitch
        (1 - fwActive s + ((fwSlot s (1 - fwActive s)).version % 2 ^ 32) <<< 32) (1 - fwActive s) true s) :=
      congrArg Host.Outcome.next (if_pos ⟨hpending, by simp [hrunning]⟩)
    generalize 1 - fwActive s + ((fwSlot s (1 - fwActive s)).version % 2 ^ 32) <<< 32 = d at e
    have hmsc := restarted_msc evMscFwSwitch d (1 - fwActive s) true s
    exact ⟨_, e, fwActive_restarted .., congrArg Msc.restarting hmsc, congrArg Msc.sessions hmsc, congrArg Msc.staged hmsc,
      congrArg Msc.fwPending hmsc, congrArg Msc.unhealthy hmsc, exec_tasks e, exec_piece .host e⟩
  case unhealthy =>
    intro s hbad
    have e : exec .fwHealthTimeout s = .next (restarted evMscFwFallback (1 - fwActive s + 3 <<< 8) (1 - fwActive s) false s) :=
      congrArg Host.Outcome.next (if_pos hbad)
    generalize 1 - fwActive s + 3 <<< 8 = d at e
    have hmsc := restarted_msc evMscFwFallback d (1 - fwActive s) false s
    exact ⟨_, e, fwActive_restarted .., congrArg Msc.restarting hmsc, congrArg Msc.sessions hmsc, congrArg Msc.unhealthy hmsc,
      exec_tasks e, exec_piece .host e⟩
  case done =>
    intro s hrestart
    have e : exec .mscRestartDone s = .next (forEach (fun e s => postEntry e.1 e.2 s) s.msc.held
        (onMsc (fun m => { m with restarting := false, mbBusy := false, held := [] }) s)) :=
      congrArg Host.Outcome.next (if_pos hrestart)
    have hmsc := forEach_quiet (g := mscBare) (f := fun (e : Nat × Nat) s => postEntry e.1 e.2 s)
      (fun x t => quiet_mscBare.post x.1 x.2 t) s.msc.held
      (onMsc (fun m => { m with restarting := false, mbBusy := false, held := [] }) s)
    have hfront := forEach_quiet (g := bare) (f := fun (e : Nat × Nat) s => postEntry e.1 e.2 s)
      (fun x t => quiet_bare.post x.1 x.2 t) s.msc.held
      (onMsc (fun m => { m with restarting := false, mbBusy := false, held := [] }) s)
    exact ⟨_, e, congrArg Msc.restarting hmsc, congrArg Msc.mbBusy hmsc, (congrArg Cfe.tasks hfront :), exec_piece .host e⟩
  case commit =>
    intro s r hready hr
    exact ⟨_, congrArg Host.Outcome.next (odTry_some hr hready rfl), rfl, rfl, rfl, rfl⟩
  case boots =>
    intro s hrun hboot hpass
    show Host.Outcome.next (doMscBoot s) = _
    rw [doMscBoot, if_neg (by simp [hrun, hboot])]
    exact congrArg Host.Outcome.next (if_pos hpass)
  case neither =>
    intro s hrun hboot hactive hother
    have e : exec .mscBoot s = .next (startFail 2 s) := by
      show Host.Outcome.next (doMscBoot s) = _
      rw [doMscBoot, if_neg (by simp [hrun, hboot])]
      exact congrArg Host.Outcome.next ((if_neg hactive).trans (if_neg hother))
    refine ⟨_, e, ?_⟩
    unfold startFail garwaSend
    dsimp only
    split <;> exact ⟨rfl, rfl, hboot, rfl, rfl⟩

end Sys2Proof.Machine
end

section
/-! SUPPORT. Accesses of a task at an address word (R117) and what leaves them as they are; streams under a system sprout
(R106, Table 4.5). -/

namespace Sys2Proof.Machine

/-! ### States that an access tells not apart -/

/-- Two states in which every access at an address word ends alike, reads the same bytes and writes the same places: t is s
but for the front end, the counts of reads, translations and exports. -/
structure sameAccess (s t : State) : Prop where
  link : t.hpt.link = s.hpt.link
  accelLost : t.hpt.accelLost = s.hpt.accelLost
  unmapped : t.hpt.unmapped = s.hpt.unmapped
  outq : t.hpt.outq = s.hpt.outq
  issued : t.hpt.issued = s.hpt.issued
  mss : t.mss = s.mss
  pods : t.pods = s.pods
  stk : t.stk = s.stk
  cat : t.cat = s.cat
  msc : t.msc = s.msc
  sfp : t.sfp = s.sfp
  fsu : t.fsu = s.fsu
  mem : t.mem = s.mem
  free : t.gau.free = s.gau.free
  od : ∀ k, k ≠ odQntExportSat → k ≠ odQntExportNonfinite → odGet t k = odGet s k

namespace sameAccess

variable {s t u : State}

theorem refl (s : State) : sameAccess s s := by constructor <;> intros <;> rfl

theorem trans (h : sameAccess s t) (h' : sameAccess t u) : sameAccess s u where
  link := h'.link.trans h.link
  accelLost := h'.accelLost.trans h.accelLost
  unmapped := h'.unmapped.trans h.unmapped
  outq := h'.outq.trans h.outq
  issued := h'.issued.trans h.issued
  mss := h'.mss.trans h.mss
  pods := h'.pods.trans h.pods
  stk := h'.stk.trans h.stk
  cat := h'.cat.trans h.cat
  msc := h'.msc.trans h.msc
  sfp := h'.sfp.trans h.sfp
  fsu := h'.fsu.trans h.fsu
  mem := h'.mem.trans h.mem
  free := h'.free.trans h.free
  od k h1 h2 := (h'.od k h1 h2).trans (h.od k h1 h2)

theorem getPod (h : sameAccess s t) : getPod t = getPod s := by
  funext p; unfold Machine.getPod; rw [h.pods]

theorem chansUp (h : sameAccess s t) (hs : chansUp s) : chansUp t := by unfold Machine.chansUp; rw [h.mss]; exact hs

theorem gddrBad (h : sameAccess s t) : gddrBad t = gddrBad s := by
  funext a n; unfold Machine.gddrBad chanOf activeChans getChan; rw [h.mss]

theorem scratchWays (h : sameAccess s t) : scratchWays t = scratchWays s := by
  unfold Machine.scratchWays
  have hpart : ∀ k ∈ List.range 8, odGet t (odStkPart + k) = odGet s (odStkPart + k) := fun k hk => by
    have hlt := List.mem_range.mp hk
    exact h.od _ (by unfold odStkPart odQntExportSat; omega) (by unfold odStkPart odQntExportNonfinite; omega)
  rw [List.filterMap_congr fun k hk => by rw [hpart k hk]]

theorem scratchKey (h : sameAccess s t) : scratchKey t = scratchKey s := by
  funext a; unfold Machine.scratchKey; rw [h.scratchWays]

theorem scratchFault (h : sameAccess s t) : scratchFault t = scratchFault s := by
  funext a n; unfold Machine.scratchFault retiredWays dieOf; rw [h.scratchWays, h.getPod, h.stk, h.msc]

/-- An access ends alike. -/
theorem accessFlt (h : sameAccess s t) (w n : Nat) : accessFlt t w n = accessFlt s w n := by
  have husable : usable t = usable s := h.od odMssUsable (by decide) (by decide)
  have hfolio : folio t = folio s := by unfold folio; rw [h.fsu]
  unfold Machine.accessFlt accessFault firstBadAtom containVal
  simp only [h.link, h.accelLost, h.unmapped, husable, h.gddrBad, h.scratchFault, h.sfp, hfolio]

/-- A read gives the same bytes. -/
theorem loadAw (h : sameAccess s t) (w n : Nat) : loadAw t w n = loadAw s w n := by
  unfold Machine.loadAw scratchLoad tileLoad tileByte carrelBusy
  rw [h.mem, h.scratchKey, h.getPod, h.free]

theorem delivered (h : sameAccess s t) (n : Nat) (cs : List (Bool × List Byte)) : delivered t n cs = delivered s n cs := by
  unfold Machine.delivered; rw [h.free]

theorem streamSlot (h : sameAccess s t) (k : Task) (pod kind : Nat) : streamSlot t k pod kind = streamSlot s k pod kind := by
  unfold Machine.streamSlot; rw [h.getPod]

/-- What is written from the one state on is written from the other on. -/
theorem storedAt {w : Nat} {bs : List Byte} {task : Option Nat} {u : State} (h : sameAccess s t)
    (hu : storedAt w bs task t u) : storedAt w bs task s u := by
  unfold Machine.storedAt storedScratch at *
  rwa [h.mem, h.outq, h.issued, h.scratchKey] at hu

end sameAccess

theorem sameAccess_hptRead (asid w n : Nat) (s : State) : sameAccess s (hptRead asid w n s) := by
  unfold hptRead translate
  split
  · constructor <;> intros <;> rfl
  · exact .refl s

theorem sameAccess_modTask (t : Nat) (f : Task → Task) (s : State) : sameAccess s (modTask t f s) := by
  constructor <;> intros <;> rfl

theorem sameAccess_countExport (t : Nat) (narrow : Bool) (e : Exported) (s : State) :
    sameAccess s (countExport t narrow e s) := by
  have hcount (k n : Nat) (h : k = odQntExportSat ∨ k = odQntExportNonfinite) (s : State) : sameAccess s (odCount k n s) := by
    obtain ⟨f, hf⟩ := odCount_on k n s
    have hod : ∀ j, j ≠ odQntExportSat → j ≠ odQntExportNonfinite → odGet (odCount k n s) j = odGet s j :=
      fun j h1 h2 => odGet_count_other n s (by rintro rfl; exact h.elim h1 h2)
    rw [hf] at hod ⊢
    exact ⟨rfl, rfl, rfl, rfl, rfl, rfl, rfl, rfl, rfl, rfl, rfl, rfl, rfl, rfl, hod⟩
  have hgau (f : Gau → Gau) (hf : ∀ g, (f g).free = g.free) (s : State) : sameAccess s (onGau f s) :=
    ⟨rfl, rfl, rfl, rfl, rfl, rfl, rfl, rfl, rfl, rfl, rfl, rfl, rfl, hf _, fun _ _ _ => rfl⟩
  unfold countExport
  exact (sameAccess_modTask ..).trans ((hcount _ _ (.inl rfl) _).trans ((hcount _ _ (.inr rfl) _).trans (hgau _ (fun _ => by rfl) _)))

/-! ### The bytes of a stream -/

theorem length_memLoad (m : List Host.Cell) (a n : Nat) : (memLoad m a n).length = n := by
  induction n generalizing a with
  | zero => rfl
  | succ n ih => exact congrArg (· + 1) (ih (a + 1))

theorem length_loadAw (s : State) (w n : Nat) : (loadAw s w n).length = n := by
  unfold loadAw scratchLoad tileLoad
  split <;> simp [length_memLoad]

/-- A stream delivers what its buffer holds. -/
theorem delivered_all (s : State) (bs : List Byte) : delivered s bs.length [(false, bs.take bs.length)] = bs := by
  simp [delivered]

/-! ### Streams under a system sprout -/

/-- The system sprout of kind 3 writes the row at its place after the address word. -/
theorem outputStream_system {k : Task} {pod base place : Nat} {bytes : List Byte} {s : State} (n stride : Nat)
    (hslot : streamSlot s k pod 3 = .system) (hok : accessFlt s (base + place) bytes.length = none) :
    outputStream k pod base place n stride bytes s = (storeAw (base + place) bytes (some k.id) s, none) := by
  unfold outputStream
  rw [hslot]
  show runActs k.id [.wr (some (base + place)) bytes.length] bytes s = _
  simp only [runActs, actFlt, hok, Option.getD_some, delivered_all]

/-- The system sprouts of kinds 6 and 7 copy one piece. -/
theorem copyStream_system {k : Task} {pod kind src dst len : Nat} {s : State} (step : Nat)
    (hslot : streamSlot s k pod kind = .system) (hsrc : accessFlt s src len = none) (hdst : accessFlt s dst len = none) :
    copyStream k pod kind src dst 1 len step s =
      (storeAw dst (loadAw s src len) (some k.id) (hptRead (taskAsid s (some k.id)) src len s), none) := by
  have hread := sameAccess_hptRead (taskAsid s (some k.id)) src len s
  have hall := delivered_all (hptRead (taskAsid s (some k.id)) src len s) (loadAw s src len)
  rw [length_loadAw] at hall
  unfold copyStream
  rw [hslot]
  show runActs k.id [.rd (some (src + 0 * len)) len, .wr (some (dst + 0 * step)) len] [] s = _
  simp only [runActs, actFlt, Nat.zero_mul, Nat.add_zero, hsrc, hread.accessFlt, hdst, Option.getD_some, List.nil_append, hall]

end Sys2Proof.Machine
end

section
/-! SUPPORT. GROUP_OPEN and GROUP_CLOSE (R140, R143). -/

namespace Sys2Proof.Machine

theorem storedAt_congr {w : Nat} {bs : List Byte} {task : Option Nat} {s t u : State} (h : storedAt w bs task s t)
    (hmem : u.mem = t.mem) (houtq : u.hpt.outq = t.hpt.outq) : storedAt w bs task s u := by
  unfold storedAt at *
  rwa [hmem, houtq]

/-! ### The end of a task after other changes -/

theorem finishTask_keeps (n : Nat) (s : State) : (finishTask n s).mem = s.mem ∧ (finishTask n s).hpt = s.hpt ∧
    (finishTask n s).pods = s.pods := by
  have h := finishTask_rest n s
  exact ⟨(congrArg State.mem h :), (congrArg State.hpt h :), (congrArg State.pods h :)⟩

theorem getPod_finishTask (n : Nat) (s : State) : getPod (finishTask n s) = getPod s := by
  funext p; unfold getPod; rw [(finishTask_keeps n s).2.2]

theorem getTask_finishTask {n now : Nat} {k : Task} {s : State} (h : getTask s n = some k) (hf : folio s = now) :
    getTask (finishTask n s) n = some (finishedTask now k) := hf ▸ (finishTask_finishes h).1

/-! ### Closing a group -/

theorem groups_release (p : Nat) (g : Group) (s : State) : g ∉ (getPod (releaseGroup p g s) p).groups := by
  unfold releaseGroup
  rw [getPod_mod_same]
  simp

/-- The task of a number has the descriptor of task k, and no fewer saturations (R150). -/
def keepsDesc (n : Nat) (k : Task) (s : State) : Prop := ∃ j, getTask s n = some j ∧ j.desc = k.desc ∧ k.sats ≤ j.sats

theorem keepsDesc_countExport {n : Nat} {k : Task} {s : State} (narrow : Bool) (e : Exported) (h : keepsDesc n k s) :
    keepsDesc n k (countExport n narrow e s) := by
  obtain ⟨j, hj, hdesc, hsats⟩ := h
  refine ⟨{ j with sats := j.sats + e.sats }, ?_, hdesc, Nat.le_trans hsats (Nat.le_add_right ..)⟩
  have htasks : (countExport n narrow e s).cfe.tasks =
      (modTask n (fun k => { k with sats := k.sats + e.sats }) s).cfe.tasks := by
    have h : Holds (fun t => t.cfe.tasks = (modTask n (fun k => { k with sats := k.sats + e.sats }) s).cfe.tasks)
      (modTask n (fun k => { k with sats := k.sats + e.sats }) s) := rfl
    show Holds (fun t => t.cfe.tasks = (modTask n (fun k => { k with sats := k.sats + e.sats }) s).cfe.tasks) _
    unfold countExport
    simp +contextual (maxDischargeDepth := 99) [keeps_tasks, h]
  rw [getTask_congr htasks]
  exact getTask_mod_same _ hj (fun _ => rfl)

theorem keepsDesc_congr {n : Nat} {k : Task} {s t : State} (h : keepsDesc n k s) (ht : t.cfe.tasks = s.cfe.tasks) :
    keepsDesc n k t := by
  unfold keepsDesc
  rw [getTask_congr ht]
  exact h

theorem outputStream_tasks (k : Task) (pod base place n stride : Nat) (bytes : List Byte) (s : State) :
    (outputStream k pod base place n stride bytes s).1.cfe.tasks = s.cfe.tasks :=
  outputStream_holds (P := fun t => t.cfe.tasks = s.cfe.tasks) (keeps_tasks s _) (keeps_tasks s _) (keeps_tasks s _)
    (keeps_tasks s _) (keeps_tasks s _) (keeps_tasks s _) (keeps_tasks s _) (keeps_tasks s _) _ _ _ _ _ _ _ rfl

theorem keepsDesc_closeTile {k₀ k : Task} (g : Group) (i : Nat) {s : State} (h : keepsDesc k.id k₀ s) :
    keepsDesc k.id k₀ (closeTile k g i s).1 := by
  unfold closeTile
  dsimp only
  split
  · exact h
  · next r _ =>
    have hread (a w b : Nat) : keepsDesc k.id k₀ (hptRead a w b s) :=
      keepsDesc_congr h (congrArg (fun s : State => s.cfe.tasks) (hptRead_rest a w b s) :)
    exact keepsDesc_congr (keepsDesc_countExport _ _ (hread _ _ _)) (outputStream_tasks ..)

theorem keepsDesc_closeTiles {k₀ k : Task} (g : Group) (n i : Nat) {s : State} (h : keepsDesc k.id k₀ s) :
    keepsDesc k.id k₀ (closeTiles k g n i s).1 := by
  induction n generalizing i s with
  | zero => exact h
  | succ n ih =>
    rw [closeTiles]
    split
    · exact keepsDesc_closeTile g i h
    · exact ih (i + 1) (keepsDesc_closeTile g i h)

theorem folio_closeTiles (k : Task) (g : Group) (n i : Nat) (s : State) : folio (closeTiles k g n i s).1 = folio s := by
  have h : Holds (fun t => t.fsu = s.fsu) s := rfl
  have hfsu : HoldsF (fun t => t.fsu = s.fsu) (closeTiles k g n i s) := by
    simp +contextual (maxDischargeDepth := 99) [keeps_fsu, h]
  exact congrArg (·.folio) hfsu

/-- A closing group of one tile without FUSE_OP, under a system sprout, writes the tile's row at OUT_ADDR. -/
theorem closeTiles_one {k : Task} {g : Group} {s : State} (hfuse : gpFuseOp k.desc = 0)
    (hslot : streamSlot s k (gpPod k.desc) 3 = .system) (hup : chansUp s) (hok : accessFlt s (gpOutAddr k.desc)
      (exportRow (gpOutFmt k.desc) (tileVec s (gpPod k.desc) g.kind g.first)).bytes.length = none) :
    ∃ t, closeTiles k g 1 0 s = (t, none) ∧ storedAt (gpOutAddr k.desc)
      (exportRow (gpOutFmt k.desc) (tileVec s (gpPod k.desc) g.kind g.first)).bytes (some k.id) s t := by
  generalize he : exportRow (gpOutFmt k.desc) (tileVec s (gpPod k.desc) g.kind g.first) = e at hok ⊢
  have hsame := (sameAccess_hptRead (queueAsid s k.queue) (gpFuseAddr k.desc + 0 * 0) 0 s).trans
    (sameAccess_countExport k.id (outNarrow (gpOutFmt k.desc)) e _)
  have hplace : gpOutAddr k.desc + 0 * e.bytes.length = gpOutAddr k.desc := by omega
  have hout := outputStream_system (k := k) (pod := gpPod k.desc) (base := gpOutAddr k.desc) (place := 0 * e.bytes.length) 0 0
    ((hsame.streamSlot ..).trans hslot) (by rw [hsame.accessFlt, hplace]; exact hok)
  rw [hplace] at hout
  refine ⟨_, ?_, hsame.storedAt (storeAw_storedAt _ e.bytes (some k.id) (hsame.chansUp hup))⟩
  simp only [closeTiles, closeTile, fuseTile, hfuse, if_true, Nat.add_zero, he]
  rw [hout]
  rfl

/-- Settles O40: GROUP_OPEN waits for `openDone`; GROUP_CLOSE exports tile by tile (`closeTiles`) and releases the group. -/
theorem groups : Obligations.Groups := by
  unfold Obligations.Groups
  refine ⟨?opens, ?waits, ?completes, ?releases, ?exports, ?one⟩
  case opens =>
    intro s n k hk hdone
    refine ⟨_, ?_, finishTask_finishes (liveTask_some hk).1⟩
    show Host.Outcome.next (doGroupOpen n s) = _
    simp only [doGroupOpen, hk, hdone, if_true]
  case waits =>
    intro s n k hk hdone
    have e : exec (.groupOpen n) s = .next (modTask n (fun k => { k with waitTiles := true }) s) := by
      show Host.Outcome.next (doGroupOpen n s) = _
      simp only [doGroupOpen, hk, hdone]
      rfl
    refine ⟨_, e, getTask_mod_same _ (liveTask_some hk).1 (fun _ => rfl), ⟨?_, ?_, rfl⟩, rfl⟩
    · exact fun j hj => getTask_mod_other s _ hj (fun _ => rfl)
    · exact fun p _ => rfl
  case completes =>
    intro s n k hk hwait hdone
    refine ⟨_, ?_, finishTask_finishes (liveTask_some hk).1⟩
    show Host.Outcome.next (doGroupOpenComplete n s) = _
    simp only [doGroupOpenComplete, hk, hwait, hdone, Bool.and_self, if_true]
  case releases =>
    intro s n k g hk hg hturn hout
    have e : exec (.groupClose n) s = .next (finishTask n (releaseGroup (gpPod k.desc) g s)) := by
      show Host.Outcome.next (doGroupClose n s) = _
      simp only [doGroupClose, hk, hg, hturn, hout]
      rfl
    obtain ⟨hmem, hhpt, -⟩ := finishTask_keeps n (releaseGroup (gpPod k.desc) g s)
    refine ⟨_, e, getTask_finishTask (s := releaseGroup (gpPod k.desc) g s) (liveTask_some hk).1 rfl, ?_, fun p hp => ?_, hmem, hhpt⟩
    · rw [getPod_finishTask, releaseGroup, getPod_mod_same]
    · rw [getPod_finishTask, releaseGroup, getPod_mod_other _ _ hp]
  case exports =>
    intro s n k g hk hg hturn hout hok
    have hid := getTask_id (liveTask_some hk).1
    have e : exec (.groupClose n) s = .next (finishTask n (releaseGroup (gpPod k.desc) g (closeTiles k g g.count 0 s).1)) := by
      show Host.Outcome.next (doGroupClose n s) = _
      simp only [doGroupClose, hk, hg, hturn, hout, hok]
      rfl
    obtain ⟨j, hj, hdesc, hsats⟩ := keepsDesc_closeTiles (k₀ := k) (k := k) (s := s) g g.count 0
      ⟨k, hid ▸ (liveTask_some hk).1, rfl, Nat.le_refl _⟩
    rw [hid] at hj
    refine ⟨_, e, ?_, ⟨j, getTask_finishTask (s := releaseGroup _ g _) hj (folio_closeTiles ..), hdesc, hsats⟩, exec_piece .host e⟩
    rw [getPod_finishTask]
    exact groups_release _ _ _
  case one =>
    intro s n k g bs hk hg hturn hout hcount hfuse hslot hup hbs hok
    subst hbs
    have hid := getTask_id (liveTask_some hk).1
    obtain ⟨t, ht, hstored⟩ := closeTiles_one (g := g) hfuse hslot hup hok
    have e : exec (.groupClose n) s = .next (finishTask n (releaseGroup (gpPod k.desc) g t)) := by
      show Host.Outcome.next (doGroupClose n s) = _
      simp only [doGroupClose, hk, hg, hturn, hout, hcount, ht]
      rfl
    obtain ⟨hmem, hhpt, -⟩ := finishTask_keeps n (releaseGroup (gpPod k.desc) g t)
    refine ⟨_, e, storedAt_congr (hid ▸ hstored) hmem (congrArg Hpt.outq hhpt), ?_⟩
    rw [getPod_finishTask]
    exact groups_release _ _ _

end Sys2Proof.Machine
end

section
/-! SUPPORT. TILE_READ, TILE_WRITE, ZERO and SPROUT_LOAD (R75, R78). -/

namespace Sys2Proof.Machine

/-! ### Copies between tiles and memory -/

theorem podNumbers_bare {s t : State} (h : podsBare t = podsBare s) : t.pods.map (·.1) = s.pods.map (·.1) := by
  have hmap := congrArg (List.map (·.1)) h
  simpa [podsBare, Function.comp_def] using hmap

theorem copyStream_tasks (k : Task) (pod kind src dst n len step : Nat) (s : State) :
    (copyStream k pod kind src dst n len step s).1.cfe.tasks = s.cfe.tasks :=
  copyStream_holds (P := fun t => t.cfe.tasks = s.cfe.tasks) (keeps_tasks s _) (keeps_tasks s _) (keeps_tasks s _)
    (keeps_tasks s _) (keeps_tasks s _) (keeps_tasks s _) (keeps_tasks s _) (keeps_tasks s _) _ _ _ _ _ _ _ _ rfl

theorem copyStream_fsu (k : Task) (pod kind src dst n len step : Nat) (s : State) :
    (copyStream k pod kind src dst n len step s).1.fsu = s.fsu :=
  copyStream_holds (P := fun t => t.fsu = s.fsu) (keeps_fsu s _) (keeps_fsu s _) (keeps_fsu s _)
    (keeps_fsu s _) (keeps_fsu s _) (keeps_fsu s _) (keeps_fsu s _) (keeps_fsu s _) _ _ _ _ _ _ _ _ rfl

/-- A copy whose stream meets no fault finishes its task. -/
theorem tileCopy_finishes {n src dst : Nat} {k : Task} {s : State} (hk : getTask s n = some k)
    (hok : (copyStream k (tilePod (gpFirst k.desc)) 6 src dst (gpCount k.desc) 1024 1024 s).2 = none) :
    tileCopy n k src dst s = finishTask n (copyStream k (tilePod (gpFirst k.desc)) 6 src dst (gpCount k.desc) 1024 1024 s).1 ∧
    getTask (tileCopy n k src dst s) n = some (finishedTask (folio s) k) := by
  have hcopy : tileCopy n k src dst s =
      finishTask n (copyStream k (tilePod (gpFirst k.desc)) 6 src dst (gpCount k.desc) 1024 1024 s).1 := by
    simp only [tileCopy, hok]
  refine ⟨hcopy, ?_⟩
  rw [hcopy]
  exact getTask_finishTask ((getTask_congr (copyStream_tasks ..) n).trans hk) (congrArg (·.folio) (copyStream_fsu ..))

/-- One tile in its turn, under a system sprout. -/
theorem tileCopy_one {n src dst : Nat} {k : Task} {s : State} (hk : getTask s n = some k) (hcount : gpCount k.desc = 1)
    (hslot : streamSlot s k (tilePod (gpFirst k.desc)) 6 = .system) (hup : chansUp s) (hsrc : accessFlt s src 1024 = none)
    (hdst : accessFlt s dst 1024 = none) : storedAt dst (loadAw s src 1024) (some n) s (tileCopy n k src dst s) ∧
    getTask (tileCopy n k src dst s) n = some (finishedTask (folio s) k) ∧
    (tileCopy n k src dst s).pods.map (·.1) = s.pods.map (·.1) := by
  have hread := sameAccess_hptRead (taskAsid s (some k.id)) src 1024 s
  have hcopy := copyStream_system 1024 hslot hsrc hdst
  rw [← hcount] at hcopy
  obtain ⟨heq, htask⟩ := tileCopy_finishes (src := src) (dst := dst) hk (by rw [hcopy])
  rw [hcopy] at heq
  refine ⟨?_, htask, ?_⟩
  · rw [heq, ← getTask_id hk]
    obtain ⟨hmem, hhpt, -⟩ := finishTask_keeps k.id
      (storeAw dst (loadAw s src 1024) (some k.id) (hptRead (taskAsid s (some k.id)) src 1024 s))
    exact storedAt_congr (hread.storedAt (storeAw_storedAt _ _ _ (hread.chansUp hup))) hmem (congrArg Hpt.outq hhpt)
  · rw [heq, (finishTask_keeps ..).2.2]
    exact (podNumbers_bare (quiet_podsBare.storeAw ..)).trans (by rw [hread.pods])

/-! ### Zeroing -/

theorem zeroAw_tiles {w : Nat} (n : Nat) (s : State) (h : awSpace w = 3) :
    zeroAw w n s = onMem (fun m => { m with tiles := memClear (tileKey (awAddr w)) n m.tiles }) s := by
  simp only [zeroAw, h]

theorem zeroAw_scratch {w : Nat} (n : Nat) (s : State) (h : awSpace w = 2) :
    zeroAw w n s = onMem (fun m => { m with scratch := scratchStore s (awAddr w) (List.replicate n 0) }) s := by
  simp only [zeroAw, h]

theorem zeroAw_gddr {w : Nat} (n : Nat) (s : State) (h : awSpace w = 1) :
    zeroAw w n s = gddrZero (awAddr w) n (pinOverlay 0 (awAddr w) (List.replicate n 0) s) := by
  simp only [zeroAw, h]

theorem gddrZero_mem {s : State} (a n : Nat) (h : chansUp s) :
    (gddrZero a n s).mem = { s.mem with gddr := memClear a n s.mem.gddr } := by
  have hdown : s.mss.chans.any (fun c => c.2.down) = false := by
    rw [List.any_eq_false]
    exact fun c hc => by rw [h c hc]; decide
  have hkept : (gddrZero a n s).mem = { s.mem with gddr := s.mem.gddr.filter (fun c => decide (c.1 < a) || decide (a + n ≤ c.1) ||
      (s.mss.chans.any (fun c => c.2.down) && (getChan s (chanOf s c.1)).down)) } := rfl
  rw [hkept, hdown]
  simp only [Bool.false_and, Bool.or_false]
  rfl

theorem awSpace_firstWord (d : Desc) : awSpace (firstWord d) = 3 := by
  unfold firstWord awSpace bitsOf
  have hfirst : gpFirst d < 2 ^ 24 := by unfold gpFirst; exact Nat.mod_lt _ (by decide)
  omega

/-- What finishes a task after a change of memory alone. -/
theorem finishTask_finishes_mem {n : Nat} {k : Task} {s u : State} (hk : getTask s n = some k) (hu : u = { s with mem := u.mem }) :
    finishes n k { s with mem := (finishTask n u).mem } (finishTask n u) := by
  rw [(finishTask_keeps n u).1, ← hu]
  have hku : getTask u n = some k := by rw [hu]; exact hk
  exact finishTask_finishes hku

/-! ### SPROUT_LOAD -/

theorem loadSlot_inReset (hash : Bool) (slot : Nat) (ws : List Word) (p : Pod) : (loadSlot hash slot ws p).inReset = p.inReset := by
  unfold loadSlot; split <;> rfl

/-- The hub's copy of an image for a Pod. -/
def noteImage (hash : Bool) (slot : Nat) (ws : List Word) (p : Nat) (s : State) : State :=
  onMsc (fun m => { m with images := tabPut (p * 128 + slot + (if hash then 64 else 0)) ws m.images }) s

/-- One Pod of a load. -/
def loadOne (hash : Bool) (slot : Nat) (ws : List Word) (p : Nat) (s : State) : State :=
  if (getPod s p).inReset then noteImage hash slot ws p s else modPod p (loadSlot hash slot ws) (noteImage hash slot ws p s)

theorem loadImage_eq (hash : Bool) (pods : List Nat) (slot : Nat) (ws : List Word) (s : State) :
    loadImage hash pods slot ws s = forEach (loadOne hash slot ws) pods s := rfl

theorem getPod_loadOne_same (hash : Bool) (slot : Nat) (ws : List Word) (p : Nat) (s : State) :
    getPod (loadOne hash slot ws p s) p =
      if (getPod s p).inReset = false then loadSlot hash slot ws (getPod s p) else getPod s p := by
  unfold loadOne
  split
  · next h => rw [if_neg (by simp [h])]; rfl
  · next h => rw [if_pos (by simpa using h), getPod_mod_same]; rfl

theorem getPod_loadOne_other {hash : Bool} {slot : Nat} {ws : List Word} {p q : Nat} {s : State} (h : p ≠ q) :
    getPod (loadOne hash slot ws q s) p = getPod s p := by
  unfold loadOne
  split
  · rfl
  · exact getPod_mod_other _ _ h

theorem loadOne_rest (hash : Bool) (slot : Nat) (ws : List Word) (p : Nat) (s : State) :
    { loadOne hash slot ws p s with msc := s.msc, pods := s.pods } = s := by
  unfold loadOne; split <;> rfl

/-- An image goes into the slot of each Pod named that is not in reset. -/
theorem getPod_loadImage {hash : Bool} {pods : List Nat} (slot : Nat) (ws : List Word) (s : State) (hpods : pods.Nodup) (p : Nat) :
    getPod (loadImage hash pods slot ws s) p =
      if p ∈ pods ∧ (getPod s p).inReset = false then loadSlot hash slot ws (getPod s p) else getPod s p := by
  rw [loadImage_eq]
  induction pods generalizing s with
  | nil => simp [forEach]
  | cons q pods ih =>
    obtain ⟨hq, hpods⟩ := List.nodup_cons.mp hpods
    rw [forEach, ih _ hpods]
    by_cases hp : p = q
    · subst hp
      rw [if_neg (fun h => hq h.1), getPod_loadOne_same]
      simp
    · rw [getPod_loadOne_other hp]
      simp [hp]

/-- A load changes nothing but Pods and the hub's copies. -/
theorem loadImage_rest (hash : Bool) (pods : List Nat) (slot : Nat) (ws : List Word) (s : State) :
    { loadImage hash pods slot ws s with msc := s.msc, pods := s.pods } = s := by
  have h := forEach_quiet (g := fun t : State => { t with msc := s.msc, pods := s.pods }) (f := loadOne hash slot ws)
    (fun p t => (congrArg (fun u : State => { u with msc := s.msc, pods := s.pods }) (loadOne_rest hash slot ws p t) :)) pods s
  exact h

/-- Settles O41: `tileCopy_one`, `zeroAw` in each memory, and `getPod_loadImage`. -/
theorem tilesAndSprouts : Obligations.TilesAndSprouts := by
  unfold Obligations.TilesAndSprouts
  have hread {s : State} {n : Nat} {k : Task} (hk : liveTask s n opTRead = some k) (hturn : tileTurn s k = true) :
      exec (.tileRead n) s = .next (tileCopy n k (firstWord k.desc) (tlAddr k.desc) s) := by
    show Host.Outcome.next (doTileRead n s) = _
    simp only [doTileRead, hk, hturn, if_true]
  have hwrite {s : State} {n : Nat} {k : Task} (hk : liveTask s n opTWrite = some k) (hturn : tileTurn s k = true) :
      exec (.tileWrite n) s = .next (tileCopy n k (tlAddr k.desc) (firstWord k.desc) s) := by
    show Host.Outcome.next (doTileWrite n s) = _
    simp only [doTileWrite, hk, hturn, if_true]
  have hzero {s : State} {n : Nat} {k : Task} (hk : liveTask s n opZero = some k) (hcount : gpCount k.desc = 0)
      (hok : accessFlt s (tlAddr k.desc) (tlLength k.desc) = none) :
      exec (.zero n) s = .next (finishTask n (zeroAw (tlAddr k.desc) (tlLength k.desc) s)) := by
    show Host.Outcome.next (doZero n s) = _
    simp only [doZero, hk, hcount, hok, ne_eq, not_true_eq_false, if_false]
  refine ⟨?read, ?write, ?readAny, ?writeAny, ?zeroTiles, ?zeroGddr, ?zeroScratch, ?load, ?badLength⟩
  case read =>
    intro s n k hk hturn hcount hslot hup hsrc hdst
    obtain ⟨hstored, htask, hpods⟩ := tileCopy_one (liveTask_some hk).1 hcount hslot hup hsrc hdst
    exact ⟨_, hread hk hturn, hstored, htask, hpods⟩
  case write =>
    intro s n k hk hturn hcount hslot hup hdst hsrc
    obtain ⟨hstored, htask, -⟩ := tileCopy_one (liveTask_some hk).1 hcount hslot hup hsrc hdst
    exact ⟨_, hwrite hk hturn, hstored, htask⟩
  case readAny =>
    intro s n k hk hturn hok
    exact ⟨_, hread hk hturn, (tileCopy_finishes (liveTask_some hk).1 hok).2, exec_piece .host (hread hk hturn)⟩
  case writeAny =>
    intro s n k hk hturn hok
    exact ⟨_, hwrite hk hturn, (tileCopy_finishes (liveTask_some hk).1 hok).2, exec_piece .host (hwrite hk hturn)⟩
  case zeroTiles =>
    intro s n k a hk hcount hturn ha
    have e : exec (.zero n) s = .next (finishTask n (zeroAw (firstWord k.desc) (1024 * gpCount k.desc) s)) := by
      show Host.Outcome.next (doZero n s) = _
      simp only [doZero, hk, hcount, hturn, ne_eq, not_false_eq_true, if_true]
    rw [zeroAw_tiles _ _ (awSpace_firstWord k.desc), ← ha] at e
    refine ⟨_, e, fun b => ?_, ?_, finishTask_finishes_mem (liveTask_some hk).1 rfl⟩
    · rw [(finishTask_keeps ..).1]
      exact memByte_clear ..
    · rw [(finishTask_keeps ..).1]
      rfl
  case zeroGddr =>
    intro s n k a hk hcount hspace hup hok ha
    have e := hzero hk hcount hok
    have hmem := gddrZero_mem a (tlLength k.desc) (s := pinOverlay 0 a (List.replicate (tlLength k.desc) 0) s) hup
    rw [zeroAw_gddr _ _ hspace, ← ha] at e
    refine ⟨_, e, fun b => ?_, ?_, ?_⟩
    · rw [(finishTask_keeps ..).1, hmem]
      exact memByte_clear ..
    · rw [(finishTask_keeps ..).1, hmem]
      rfl
    · exact getTask_finishTask (s := gddrZero a _ _) (liveTask_some hk).1 rfl
  case zeroScratch =>
    intro s n k hk hcount hspace hok
    have e := hzero hk hcount hok
    rw [zeroAw_scratch _ _ hspace] at e
    refine ⟨_, e, ?_, ?_, finishTask_finishes_mem (liveTask_some hk).1 rfl⟩
    · rw [(finishTask_keeps ..).1]
      exact scratchStore_stored ..
    · rw [(finishTask_keeps ..).1]
      rfl
  case load =>
    intro s n k ws hk hlow hhigh hok hws himage hidle
    generalize hpods : (if spAll k.desc then podNums else [spPod k.desc]) = pods
    have hnodup : pods.Nodup := by
      rw [← hpods]; split
      · decide
      · simp
    have hmem (p : Nat) : p ∈ pods ↔ (spAll k.desc = true ∧ p ∈ podNums) ∨ (spAll k.desc = false ∧ p = spPod k.desc) := by
      rw [← hpods]; cases spAll k.desc <;> simp
    generalize hu : hptRead (queueAsid s k.queue) (spSrc k.desc) (8 * spLength k.desc) s = u
    have hurest : { u with hpt := s.hpt } = s := hu ▸ hptRead_rest ..
    have e : exec (.sproutLoad n) s = .next (finishTask n (loadImage (spHash k.desc) pods (spSlot k.desc) ws u)) := by
      show Host.Outcome.next (doSproutLoad n s) = _
      have hlen : ¬ (spLength k.desc = 0 ∨ 64 < spLength k.desc) := by omega
      simp only [doSproutLoad, hk, hlen, hok, ← hws, himage, hidle, hpods, hu, if_false]
      rfl
    have hrest := loadImage_rest (spHash k.desc) pods (spSlot k.desc) ws u
    have hupods : ∀ p, getPod u p = getPod s p := fun p => by unfold getPod; rw [(congrArg State.pods hurest :)]
    refine ⟨_, e, ?_, fun p hp hreset => ?_, fun p hp => ?_, ?_⟩
    · have htasks : (loadImage (spHash k.desc) pods (spSlot k.desc) ws u).cfe.tasks = s.cfe.tasks :=
        (congrArg (fun s : State => s.cfe.tasks) hrest :).trans (congrArg (fun s : State => s.cfe.tasks) hurest :)
      have hfolio : folio (loadImage (spHash k.desc) pods (spSlot k.desc) ws u) = folio s :=
        (congrArg folio hrest :).trans (congrArg folio hurest :)
      exact getTask_finishTask ((getTask_congr htasks n).trans (liveTask_some hk).1) hfolio
    · rw [getPod_finishTask, getPod_loadImage _ _ _ hnodup, if_pos ⟨(hmem p).mpr hp, hupods p ▸ hreset⟩, hupods]
    · rw [getPod_finishTask, getPod_loadImage _ _ _ hnodup, if_neg (fun h => hp ((hmem p).mp h.1)), hupods]
    · rw [(finishTask_keeps ..).1]
      exact (congrArg State.mem hrest :).trans (congrArg State.mem hurest :)
  case badLength =>
    intro s n k hlive hlen hend
    have e : exec (.sproutLoad n) s = .next (endTask n stSproutInvalid 0 0 s) := by
      show Host.Outcome.next (doSproutLoad n s) = _
      simp only [doSproutLoad, hlive, hlen, if_true]
    exact ⟨_, e, endTask_ended stSproutInvalid 0 0 (liveTask_some hlive).1 hend, exec_piece .host e⟩

end Sys2Proof.Machine
end

section
/-! SUPPORT. The reference and the Pod links (R400 to R406, R418 to R420). -/

namespace Sys2Proof.Machine

/-! ### The end of a recovery (R222, R431) -/

theorem recovering_calm {s : State} (h : inRecovery s = false) : s.upu.recovering = false := by
  unfold inRecovery at h
  rw [Bool.or_eq_false_iff] at h
  exact h.1

theorem settle_calm {f : State → State} {s : State} (h : inRecovery s = false)
    (hf : (f s).upu.recovering = s.upu.recovering) : settle f s = f s := by
  have hrec := hf.trans (recovering_calm h)
  have hleave : leaveRecovery (f s) = f s := if_neg (by simp [hrec])
  have hover : recoveryOver s (f s) = false := by simp [recoveryOver, h]
  unfold settle
  rw [hleave]
  exact if_neg (by rw [hover]; decide)

theorem settle_congr {f g : State → State} {s : State} (h : f s = g s) : settle f s = settle g s := by
  unfold settle; rw [h]

/-! ### The reference -/

theorem requalify_cru (s : State) : ∃ q, requalify s = onCru (fun c => { c with qualifying := q }) s := by
  unfold requalify
  dsimp only
  split
  · exact ⟨_, rfl⟩
  · exact ⟨s.cru.qualifying, rfl⟩

theorem mssBare_post0 (e : EvKind) (n d : Nat) (s : State) : mssBare (post0 e n d s) = mssBare s := quiet_mssBare.event ..

theorem post0_cru (e : EvKind) (n d : Nat) (s : State) : (post0 e n d s).cru = s.cru :=
  post0_holds (P := fun t => t.cru = s.cru) (keeps_cru s _) _ _ _ rfl

/-- A clock that has locked again to a reference. -/
theorem relock_cru (port : Option Nat) (s : State) : ∃ q, (relock port s).cru =
    { s.cru with locked := true, coast := false, holdover := false, refPort := port, qualifying := q } := by
  unfold relock
  dsimp only
  generalize hw : post0 evCruRelocked 0 _ (drawn _) = w
  have hcru : w.cru = { s.cru with locked := true, coast := false, holdover := false, refPort := port } := by
    rw [← hw, post0_cru]
    show (if _ then _ else _ : State).cru = _
    split <;> rfl
  obtain ⟨q, hq⟩ := requalify_cru w
  rw [hq]
  exact ⟨q, congrArg (fun c => { c with qualifying := q }) hcru⟩

theorem portDown_holdover (k cause : Nat) (s : State) : (portDown k cause s).cru.holdover = s.cru.holdover := by
  have hforget (u : State) : (forgetRef k u).cru.holdover = u.cru.holdover := rfl
  have hren (u : State) : (renominate u).cru.holdover = u.cru.holdover := by
    obtain ⟨q, hq⟩ := requalify_cru (onSfp (fun f => { f with refPort := nominee u }) u)
    unfold renominate
    rw [hq]
    rfl
  unfold portDown
  split
  · refine (forEach_quiet (g := fun t : State => t.cru.holdover) (fun c t => ?lane) _ _).trans ((hren _).trans ?rest)
    case lane =>
      obtain ⟨ps, h⟩ := laneCell_eq c.dst c.xid c.part t
      rw [h]
      rfl
    case rest => rw [hforget, post0_cru]; rfl
  · rfl

/-! ### Links -/

theorem tabFind_puts {α : Type} (v : α) (ds : List Nat) (t : List (Nat × α)) (d : Nat) :
    tabFind d (ds.foldl (fun t d => tabPut d v t) t) = if d ∈ ds then some v else tabFind d t := by
  induction ds generalizing t with
  | nil => simp
  | cons e ds ih =>
    rw [List.foldl_cons, ih, tabFind_put]
    by_cases hd : d ∈ ds
    · simp [hd]
    · by_cases he : d = e <;> simp [hd, he]

theorem podHandlingsOver_rest (p : Nat) (s : State) : { podHandlingsOver p s with msc := s.msc } = s := closeHandlings_rest ..

/-- The Pod of a die joins with its images. -/
theorem getPod_join (p : Nat) (s : State) : (getPod (joinPod p s) p).up = true ∧ (getPod (joinPod p s) p).inReset = false := by
  have hpods : getPod (joinPod p s) p = withImages s.msc.images p
      { getPod s p with up := true, inReset := false, retired := false, retiring := false } := by
    have h : (joinPod p s).pods = _ := (congrArg State.pods (podHandlingsOver_rest ..) :)
    unfold getPod
    rw [h]
    exact getPod_mod_same ..
  rw [hpods]
  exact ⟨rfl, rfl⟩

theorem joinPod_cru (p : Nat) (s : State) : (joinPod p s).cru = s.cru := (congrArg State.cru (podHandlingsOver_rest ..) :)

/-- A failed attempt before the third is counted, and the link trains on. -/
theorem attemptFails_counts {d : Nat} (c : Nat) {s : State} (h : (tabGet d (0, 0) s.cru.d2dTries).1 < 2) :
    attemptFails d c s = onCru (fun x => { x with d2dTries := tabPut d ((tabGet d (0, 0) s.cru.d2dTries).1 + 1, 0) x.d2dTries })
      (odCount odCruD2dFails 1 s) := by
  have hcru : (odCount odCruD2dFails 1 s).cru = s.cru := (congrArg State.cru (odCount_rest odCruD2dFails 1 s) :)
  unfold attemptFails
  dsimp only
  rw [hcru]
  exact if_neg (by omega)

/-- In an engine that runs nothing waits for the links. -/
theorem linksSettled_ready {s : State} (h : s.cru.run = .ready) : linksSettled s = s := if_pos (.inl (by rw [h]; decide))

/-- Settles O25: each command by its own change of the clocks or of a link, and `settle_calm` outside recovery. -/
theorem clocksAndLinks : Obligations.ClocksAndLinks := by
  unfold Obligations.ClocksAndLinks
  refine ⟨?lost, ?start, ?relock, ?back, ?holdover, ?leaves, ?joins, ?fails, ?resync, ?again, ?calm⟩
  case lost =>
    intro s f hlocked hcoast
    generalize hu : onCru (fun c => { c with locked := false, coast := true, holdover := true, qualifying := true }) s = u
    have e : exec (.cruRefLost f) s = .next (doCruRefLost f s) := rfl
    refine ⟨_, e, ?_, exec_piece .host e, exec_tasks e⟩
    have hcru : u.cru = { s.cru with locked := false, coast := true, holdover := true, qualifying := true } := by
      rw [← hu]; rfl
    have h : Holds (fun t => t.cru = u.cru) u := rfl
    unfold doCruRefLost
    rw [if_pos ⟨hlocked, by simp [hcoast]⟩, ← hcru]
    simp only [hu]
    show Holds (fun t => t.cru = u.cru) _
    simp +contextual (maxDischargeDepth := 99) [keeps_cru, h]
  case start =>
    intro s hstuck hrun
    have e : exec (.refQualified none) s = .next (startLinks s) := by
      show Host.Outcome.next (doRefQualified none s) = _
      simp [doRefQualified, hstuck, hrun, refCandidate]
    refine ⟨_, e, rfl, rfl, fun d hd => ?_, rfl⟩
    show (tabFind d ((startDies s).foldl (fun t d => tabPut d D2d.training t) s.cru.d2d)).getD .down = _
    rw [tabFind_puts, if_pos hd]
    rfl
  case relock =>
    intro s hstuck hrun hcoast
    have e : exec (.refQualified none) s = .next (relock none s) := by
      show Host.Outcome.next (doRefQualified none s) = _
      simp [doRefQualified, hstuck, hrun, hcoast, refCandidate]
    obtain ⟨q, hq⟩ := relock_cru none s
    refine ⟨_, e, ?_, ?_, ?_, ?_, exec_piece .host e⟩ <;> rw [hq]
  case back =>
    intro s hstuck hrun hcoast hlocked hmode
    have e : exec (.refQualified none) s = .next (requalify (onCru (fun c => { c with refPort := none }) s)) := by
      show Host.Outcome.next (doRefQualified none s) = _
      simp [doRefQualified, hstuck, hrun, hcoast, hlocked, hmode, refCandidate]
    have hmode' : odGet (onCru (fun c => { c with refPort := none }) s) odCruRefMode = 1 := hmode
    rw [e]
    refine congrArg Host.Outcome.next ((if_pos hlocked).trans ?_)
    rw [hmode']
    rfl
  case holdover =>
    intro s hcoast hhold
    have e : exec .cruHoldoverLost s = .next (doCruHoldoverLost s) := rfl
    have hself (u : State) : (post0 evCruHoldoverLost 0 0 u).mss.selfRefresh = u.mss.selfRefresh :=
      (congrArg Mss.selfRefresh (mssBare_post0 evCruHoldoverLost 0 0 u) :)
    refine ⟨_, e, ?_, ?_, exec_tasks e, exec_piece .host e⟩
    · rw [doCruHoldoverLost, if_pos ⟨hcoast, hhold⟩, hself]
      rfl
    · rw [doCruHoldoverLost, if_pos ⟨hcoast, hhold⟩, post0_cru]
      exact forEach_quiet (g := fun t : State => t.cru.holdover) (fun k t => portDown_holdover k 1 t) (List.range 8)
        (onCru (fun c => { c with holdover := false }) s)
  case leaves =>
    intro s p hrun hstuck hmapped hreset hlink
    have e : exec (.podResetExit p) s = .next (onCru (fun c => { c with
        d2d := tabPut (dieOf s p) .training c.d2d, d2dTries := tabDrop (dieOf s p) c.d2dTries }) s) :=
      congrArg Host.Outcome.next (if_pos ⟨hrun, by simp [hstuck], hmapped, hreset, hlink⟩)
    exact ⟨_, e, tabGet_put_same .., fun d hd => tabGet_put_other _ _ _ hd, rfl⟩
  case joins =>
    intro s d p hlink hstuck hrun hspare hmap hp
    generalize hu : onCru (fun c => { c with d2d := tabPut d .up c.d2d, d2dTries := tabDrop d c.d2dTries }) s = u
    have hjoin : linkUp d s = joinPod p u := by
      have hnone : u.msc.sparing = none := by rw [← hu]; exact hspare
      have hpod : u.msc.podMap.getD d 0xFF = p := by rw [← hu]; exact hmap
      simp only [linkUp, hu, hnone, linkUp.joinDie, hpod, hp, if_true]
    have hready : (joinPod p u).cru.run = .ready := by rw [joinPod_cru, ← hu]; exact hrun
    have hattempt : doD2dTrainingAttempt d 0 s = joinPod p u := by
      unfold doD2dTrainingAttempt
      rw [if_pos ⟨hlink, by simp [hstuck], by decide⟩, if_pos rfl, hjoin, linksSettled_ready hready]
    have e : exec (.d2dTrainingAttempt d 0) s = .next (settle (doD2dTrainingAttempt d 0) s) := rfl
    refine ⟨_, e, exec_piece .host e, fun hcalm => ?_⟩
    have hupu : (joinPod p u).upu = s.upu := by
      rw [show (joinPod p u).upu = u.upu from (congrArg State.upu (podHandlingsOver_rest ..) :), ← hu]; rfl
    rw [settle_calm hcalm (by rw [hattempt, hupu]), hattempt]
    refine ⟨?_, getPod_join p u⟩
    unfold linkOf
    rw [joinPod_cru, ← hu]
    exact tabGet_put_same ..
  case fails =>
    intro s d c hlink hstuck hrun hc1 hc3 htries
    have hrest := odCount_rest odCruD2dFails 1 s
    have hattempt : doD2dTrainingAttempt d c s = attemptFails d c s := by
      unfold doD2dTrainingAttempt
      rw [if_pos ⟨hlink, by simp [hstuck], hc3⟩, if_neg (by omega), attemptFails_counts c htries]
      exact linksSettled_ready ((congrArg (fun s : State => s.cru.run) hrest :).trans hrun)
    have e : exec (.d2dTrainingAttempt d c) s = .next (settle (doD2dTrainingAttempt d c) s) := rfl
    refine ⟨_, e, exec_piece .host e, fun hcalm => ?_⟩
    rw [attemptFails_counts c htries] at hattempt
    rw [settle_calm hcalm (by rw [hattempt]; exact (congrArg (fun s : State => s.upu.recovering) hrest :)), hattempt]
    refine ⟨tabGet_put_same .., ?_, (congrArg podsBare hrest :)⟩
    exact (congrArg (fun s => linkOf s d) hrest :).trans hlink
  case resync =>
    intro s d hlink hstuck htries
    refine congrArg Host.Outcome.next (settle_congr ?_)
    unfold doResync
    rw [if_neg (by rw [hlink]; rintro ⟨h, -⟩; exact absurd h (by decide)), if_pos ⟨hlink, by simp [hstuck]⟩]
    exact if_neg (by omega)
  case again =>
    intro s d hlink hrun hstuck
    exact congrArg Host.Outcome.next (settle_congr (if_pos ⟨hlink, hrun, by simp [hstuck]⟩))
  case calm =>
    intro f s h hf
    exact settle_calm h hf

end Sys2Proof.Machine
end

section
/-! SUPPORT. Pods that reset, retire and are spared (R420, R421, R439 to R442). -/

namespace Sys2Proof.Machine

theorem getPod_odAnswer (st p : Nat) (s : State) : getPod (odAnswer st s) p = getPod s p := rfl

/-- A Pod in reset is seen so whatever its Stacks slice holds. -/
theorem podOut_congr {s t : State} {p : Nat} (h : podsBare t = podsBare s) (hs : podOut (getPod s p)) : podOut (getPod t p) := by
  have hbare : { getPod t p with slice := ({} : Slice) } = { getPod s p with slice := ({} : Slice) } := by
    rw [getPod_bare, getPod_bare, h]
  obtain ⟨hup, hreset, hbags, hreads, h0, h1, h2⟩ := hs
  exact ⟨(congrArg Pod.up hbare :).trans hup, (congrArg Pod.inReset hbare :).trans hreset,
    (congrArg Pod.bags hbare :).trans hbags, (congrArg Pod.reads hbare :).trans hreads,
    (congrArg (fun q : Pod => q.hq0.items) hbare :).trans h0, (congrArg (fun q : Pod => q.hq1.items) hbare :).trans h1,
    (congrArg (fun q : Pod => q.hq2.items) hbare :).trans h2⟩

theorem podOut_podClear (p : Nat) (s : State) : podOut (getPod (podClear p s) p) := by
  have hpod : getPod (podClear p s) p = podInReset (getPod s p) := getPod_mod_same ..
  rw [hpod]
  exact ⟨rfl, rfl, rfl, rfl, rfl, rfl, rfl⟩

theorem podOut_retirePod {p : Nat} {s : State} (h : podOut (getPod s p)) : podOut (getPod (retirePod p s) p) := by
  unfold retirePod
  dsimp only
  split
  · exact h
  · obtain ⟨hup, hreset, hrest⟩ := h
    generalize hu : modPod p (fun q => { q with retired := true, up := false, inReset := true, retiring := false, resets := [] }) s = u
    have hout : podOut (getPod u p) := by
      rw [← hu, getPod_mod_same]
      exact ⟨rfl, rfl, hrest⟩
    refine podOut_congr (s := u) ?_ hout
    have h : Holds (fun t => podsBare t = podsBare u) u := rfl
    show Holds (fun t => podsBare t = podsBare u) _
    simp +contextual (maxDischargeDepth := 99) [keeps_podsBare, h]

theorem podOut_countPodReset {p : Nat} {s : State} (h : podOut (getPod s p)) : podOut (getPod (countPodReset p s) p) := by
  unfold countPodReset
  dsimp only
  generalize hu : modPod p _ s = u
  have hout : podOut (getPod u p) := by
    rw [← hu, getPod_mod_same]
    exact h
  split
  · exact podOut_retirePod hout
  · exact hout

/-- A Pod that resets is out, whatever else its reset does. -/
theorem podOut_podResetCore (p cause : Nat) (contain : Option Nat) (s : State) :
    podOut (getPod (podResetCore p cause contain s) p) := by
  unfold podResetCore
  extract_lets lost ts s1 s2 s3 s4 s5 s6
  have hclear : podOut (getPod s4 p) := podOut_podClear ..
  have h5 : podsBare s5 = podsBare s4 := (congrArg podsBare (odCount_rest odCruPodResets 1 s4) :)
  have h6 : podsBare s6 = podsBare s5 := podsBare_postEvent ..
  have hout := podOut_congr (h6.trans h5) hclear
  split
  · exact podOut_countPodReset hout
  · exact hout

theorem podOut_podFails {p : Nat} (cause : Nat) (ev : EvKind) (source detail : Nat) {s : State} (hmapped : podMapped s p = true)
    (hin : (getPod s p).inReset = false) : podOut (getPod (podFails p cause ev source detail s) p) := by
  unfold podFails
  rw [if_pos ⟨hmapped, by simp [hin]⟩]
  exact podOut_podResetCore ..

theorem doPodReset_upu (p c : Nat) (s : State) : (doPodReset p c s).upu = s.upu := by
  have h : Holds (fun t => t.upu = s.upu) s := rfl
  show Holds (fun t => t.upu = s.upu) _
  simp +contextual (maxDischargeDepth := 99) [keeps_upu, h]

theorem podFails_upu (p c : Nat) (ev : EvKind) (n d : Nat) (s : State) : (podFails p c ev n d s).upu = s.upu := by
  have h : Holds (fun t => t.upu = s.upu) s := rfl
  show Holds (fun t => t.upu = s.upu) _
  simp +contextual (maxDischargeDepth := 99) [keeps_upu, h]

/-- Settles O26: every reset ends in `podResetCore`, which leaves the Pod out (`podOut_podResetCore`). -/
theorem podResets : Obligations.PodResets := by
  unfold Obligations.PodResets
  have hreset {s : State} {p c : Nat} (hout : podOut (getPod (doPodReset p c s) p)) :
      ∃ t, exec (.podReset p c) s = .next t ∧ t.mem.host = s.mem.host ∧ (inRecovery s = false → podOut (getPod t p)) := by
    have e : exec (.podReset p c) s = .next (settle (doPodReset p c) s) := rfl
    refine ⟨_, e, exec_piece .host e, fun hcalm => ?_⟩
    rw [settle_calm hcalm (congrArg Upu.recovering (doPodReset_upu ..))]
    exact hout
  refine ⟨?commanded, ?faulted, ?entry, ?pll, ?voltage, ?retire, ?spare⟩
  case commanded =>
    intro s p hmapped
    refine hreset ?_
    unfold doPodReset podResetApply
    rw [if_pos rfl, if_pos hmapped, Option.getD_some]
    exact podOut_podResetCore ..
  case faulted =>
    intro s p c hmapped hin hc
    refine hreset ?_
    unfold doPodReset
    rw [if_neg (by omega), if_pos hc]
    exact podOut_podFails _ _ _ _ hmapped hin
  case entry =>
    intro s p hready hmapped
    have e : exec (.cruPodReset p .service) s = .next (odAnswer osOk (podResetCore p 1 none s)) :=
      congrArg Host.Outcome.next (odTry_some rfl hready (if_pos hmapped))
    have hout := podOut_podResetCore p 1 none s
    have hhost := exec_piece .host e
    generalize podResetCore p 1 none s = u at e hout hhost
    exact ⟨_, e, hout, rfl, hhost⟩
  case pll =>
    intro s p hlocked hcoast hmapped hin
    have e : exec (.podPllUnlock p) s =
        .next (settle (whenS (s.cru.locked && !s.cru.coast) (podFails p 2 evCruPodReset p 2)) s) := rfl
    have hruns : whenS (s.cru.locked && !s.cru.coast) (podFails p 2 evCruPodReset p 2) s = podFails p 2 evCruPodReset p 2 s := by
      rw [whenS, if_pos (by simp [hlocked, hcoast])]
    refine ⟨_, e, exec_piece .host e, fun hcalm => ?_⟩
    rw [settle_calm hcalm (by rw [hruns, podFails_upu]), hruns]
    exact podOut_podFails _ _ _ _ hmapped hin
  case voltage =>
    intro s p hp hidle
    show Host.Outcome.next (whenS (decide (p < 16) && podIdle (getPod s p)) _ s) = _
    rw [whenS, if_pos (by simp [hp, hidle])]
  case retire =>
    intro s p hready hmapped
    refine ⟨_, congrArg Host.Outcome.next (odTry_some rfl hready (if_pos hmapped)), ?_, fun q hq => ?_, rfl, rfl⟩
    · rw [getPod_odAnswer, getPod_mod_same]
    · rw [getPod_odAnswer, getPod_mod_other _ _ hq]
  case spare =>
    intro s d p hready hp hd hretired hspare
    have hlt : d < 18 := List.mem_range.mp (List.mem_filter.mp hd).1
    have hdie : (d % 256 + 256 * p) % 256 = d := by omega
    have hpod : (d % 256 + 256 * p) / 256 = p := by omega
    have happly : spareMapApply (d % 256 + 256 * p) s = some (onCru (fun c => { c with
        d2d := if folioRuns s then tabPut d .training c.d2d else c.d2d, d2dTries := tabDrop d c.d2dTries })
        (onMsc (fun m => { m with sparing := some (d, p, false) }) s)) := by
      unfold spareMapApply
      rw [hdie, hpod]
      exact if_pos ⟨hp, List.contains_iff_mem.mpr hd, hretired, by rw [hspare]; rfl⟩
    refine ⟨_, congrArg Host.Outcome.next (odTry_some rfl hready happly), rfl, fun hrun => ?_, rfl, rfl⟩
    show tabGet d D2d.down (if folioRuns s = true then tabPut d D2d.training s.cru.d2d else s.cru.d2d) = _
    rw [if_pos hrun, tabGet_put_same]

end Sys2Proof.Machine
end

section
/-! SUPPORT. Engine reset, power and the way to ready (R410 to R417, R430 to R444). -/

namespace Sys2Proof.Machine

/-! ### Engine reset -/

/-- What of a state the object dictionary is no part of, the reset of the partition entries leaves. -/
theorem partsReset_quiet {α : Type} (g : State → α) (hg : ∀ k v t, g (odSet k v t) = g t) (s : State) : g (partsReset s) = g s := by
  unfold partsReset
  exact forEach_quiet (fun _ _ => hg _ _ _) (List.range 8) s

theorem partsReset_mem (s : State) : (partsReset s).mem = s.mem := partsReset_quiet State.mem (fun _ _ _ => rfl) s
theorem partsReset_fsu (s : State) : (partsReset s).fsu = s.fsu := partsReset_quiet State.fsu (fun _ _ _ => rfl) s
theorem partsReset_cru (s : State) : (partsReset s).cru = s.cru := partsReset_quiet State.cru (fun _ _ _ => rfl) s

theorem getPod_podsInReset (s : State) (p : Nat) : tabGet p {} (podsInReset s.pods) = podInReset (getPod s p) :=
  tabGet_map p ({} : Pod) podInReset s.pods rfl

/-- An engine reset, from any state. -/
theorem engineReset_cleared (s : State) : engineCleared s (engineReset s) := by
  have hmem := partsReset_mem s
  have hreset : (engineReset s).mem = (partsReset s).mem := by unfold engineReset; dsimp only
  have hpods (p : Nat) : getPod (engineReset s) p = podInReset (getPod (partsReset s) p) := getPod_podsInReset ..
  refine ⟨rfl, ?_, rfl, rfl, rfl, fun p => ?_, ?_, ?_, ?_⟩
  · show ({ folio := (partsReset s).fsu.folio } : Fsu) = _
    rw [partsReset_fsu]
  · rw [hpods]
    exact ⟨rfl, rfl, rfl, rfl, rfl, rfl⟩
  all_goals rw [hreset, hmem]

/-- What an engine reset clears from the one state on it clears from the other on. -/
theorem engineCleared_from {s u t : State} (h : engineCleared u t) (hfolio : u.fsu = s.fsu) (hgddr : u.mem.gddr = s.mem.gddr)
    (hscratch : u.mem.scratch = s.mem.scratch) (htiles : u.mem.tiles = s.mem.tiles) : engineCleared s t := by
  unfold engineCleared at *
  rwa [hfolio, hgddr, hscratch, htiles] at h

/-- A state that enters reset without a held write: it is in reset, and its engine is cleared. -/
theorem enterReset_cleared {s : State} (h : s.cru.heldWrites = []) : engineCleared s (enterReset s) ∧
    (enterReset s).cru.run = .reset ∧ (enterReset s).cru.rstN = s.cru.rstN := by
  unfold enterReset
  dsimp only
  generalize hu : closeHandlings (fun h => h.level == 2)
    (landWrites (onMsc (fun m => { m with debug := m.debug || (m.mode == .open && !m.debugKill) }) s)) = u
  have hrest : { u with msc := s.msc, mem := { u.mem with host := s.mem.host } } = s := by
    have hclose := closeHandlings_rest (fun h => h.level == 2)
      (landWrites (onMsc (fun m => { m with debug := m.debug || (m.mode == .open && !m.debugKill) }) s))
    rw [hu] at hclose
    exact (congrArg (fun t : State => { t with msc := s.msc, mem := { t.mem with host := s.mem.host } }) hclose :)
  have hcru : u.cru = s.cru := (congrArg State.cru hrest :)
  have hheld : (engineReset u).cru.heldWrites = [] := by
    show (partsReset u).cru.heldWrites = []
    rw [partsReset_cru, hcru, h]
  have hrst : (engineReset u).cru.rstN = s.cru.rstN := by
    show (partsReset u).cru.rstN = _
    rw [partsReset_cru, hcru]
  rw [applyHeld_none hheld]
  refine ⟨engineCleared_from (engineReset_cleared u) (congrArg State.fsu hrest :) ?_ ?_ ?_, rfl, hrst⟩
  · exact (congrArg (fun t : State => t.mem.gddr) hrest :)
  · exact (congrArg (fun t : State => t.mem.scratch) hrest :)
  · exact (congrArg (fun t : State => t.mem.tiles) hrest :)

/-! ### The way to ready -/

/-- The Ledger of an engine that retains nothing restarts: what none of its stores, messages and events changes stays. -/
theorem ledgerRestart_holds_none {P : State → Prop} {s : State} (fresh : Bool) (hring : s.upu.ring = [])
    (hP : ∀ p ∈ [Part.upu, .pods, .pw, .st, .sfp, .ev], Stable P p) (hs : Holds P s) : Holds P (ledgerRestart fresh s) := by
  have hupu := hP .upu (by decide)
  have hpods := hP .pods (by decide)
  have hpw := hP .pw (by decide)
  have hst := hP .st (by decide)
  have hsfp := hP .sfp (by decide)
  have hev := hP .ev (by decide)
  unfold ledgerRestart
  extract_lets now s1 s2 s3
  have h1 : Holds P s1 := onUpu_holds hupu _ hs
  have h2 : Holds P s2 := by
    simp +contextual (maxDischargeDepth := 99) [s2, hpods, hpw, hst, h1]
  have h3 : Holds P s3 := by
    simp +contextual (maxDischargeDepth := 99) [s3, hsfp, hev, h2]
  have hring3 : s3.upu.ring = [] := by
    have hr1 : Holds (fun t => t.upu = s1.upu) s1 := rfl
    have hr3 : Holds (fun t => t.upu = s1.upu) s3 := by
      simp +contextual (maxDischargeDepth := 99) [s3, s2, keeps_upu, hr1]
    rw [hr3]
    exact hring
  rw [hring3]
  exact h3

/-- So does what comes before: the moves that the reset has cut off end, and the twin state is taken up. -/
theorem ledgerStart_holds_none {P : State → Prop} {s : State} (n : Nat) (hring : s.upu.ring = [])
    (hP : ∀ p ∈ [Part.upu, .pods, .pw, .st, .sfp, .ev, .cat, .od], Stable P p) (hs : Holds P s) :
    Holds P (ledgerStart (startTwin (endMoves (odSet odCatRepdirUsed n s)))) := by
  have hupu := hP .upu (by decide)
  have hst := hP .st (by decide)
  have hsfp := hP .sfp (by decide)
  have hev := hP .ev (by decide)
  have hcat := hP .cat (by decide)
  have hod := hP .od (by decide)
  generalize hu : startTwin (endMoves (odSet odCatRepdirUsed n s)) = u
  have hPu : Holds P u := by
    simp +contextual (maxDischargeDepth := 99) [← hu, hst, hsfp, hev, hcat, hod, hs]
  have hupus : Holds (fun t => t.upu = s.upu) u := by
    have h : Holds (fun t => t.upu = s.upu) s := rfl
    simp +contextual (maxDischargeDepth := 99) [← hu, keeps_upu, h]
  unfold ledgerStart
  extract_lets fresh found u1 u2 u3
  have hring3 : u3.upu.ring = [] := by
    have h1 : Holds (fun t => t.upu = u1.upu) u1 := rfl
    have h3 : Holds (fun t => t.upu = u1.upu) u3 := by
      simp +contextual (maxDischargeDepth := 99) [u3, u2, keeps_upu, h1]
    rw [h3]
    exact (congrArg Upu.ring hupus).trans hring
  refine ledgerRestart_holds_none fresh hring3 (fun p hp => hP p (by revert p; decide)) ?_
  simp +contextual (maxDischargeDepth := 99) [u3, u2, u1, hupu, hev, hPu]

theorem leaveRecovery_cru (s : State) : (leaveRecovery s).cru = s.cru := by
  unfold leaveRecovery
  split
  · exact (congrArg State.cru (closeHandlings_rest (fun h => h.level == 4) (onUpu (fun u => { u with recovering := false }) s)) :)
  · rfl

theorem leaveRecovery_startCause (s : State) : (leaveRecovery s).msc.startCause = s.msc.startCause := by
  unfold leaveRecovery
  split
  · unfold closeHandlings
    exact forEach_quiet (g := fun t : State => t.msc.startCause) (f := closeRecords) (fun _ _ => rfl) _ _
  · rfl

/-- Settles O24: `enterReset_cleared`, power-on reset by its own record, and the last steps of start-up. -/
theorem resetAndStart : Obligations.ResetAndStart := by
  unfold Obligations.ResetAndStart
  refine ⟨?low, ?rise, ?loss, ?power, ?timeout, ?ready⟩
  case low =>
    intro s ns hoff hreset hrst hns hheld
    have e : exec (.jRstNLow ns) s = .next (enterReset (onCru (fun c => { c with rstN := false }) s)) := by
      show Host.Outcome.next (doJRstNLow ns s) = _
      have hseen : lowSeen ns s = true := by simp [lowSeen, hns]
      have hlong : ¬ (1000 ≤ ns ∧ ns < 1200) := by omega
      have hrun : (onCru (fun c => { c with rstN := false }) s).cru.run ≠ .reset := hreset
      simp [doJRstNLow, hoff, hrst, hseen, hlong, hreset]
    obtain ⟨hcleared, hrun, hrstN⟩ := enterReset_cleared (s := onCru (fun c => { c with rstN := false }) s) hheld
    exact ⟨_, e, hrun, hrstN, engineCleared_from hcleared rfl rfl rfl rfl⟩
  case rise =>
    intro s hreset hpwr hpackage hwait
    refine congrArg Host.Outcome.next (if_pos ?_)
    simp [hreset, hpwr, hpackage, hwait]
  case loss =>
    intro s hoff
    have e : exec .inputLoss s = .next (onCru (fun c => { c with run := .off, pwrgd := false, input := false }) (powerOn s)) :=
      congrArg Host.Outcome.next (if_neg hoff)
    exact ⟨_, e, rfl, rfl, rfl, rfl, rfl, rfl, rfl, rfl⟩
  case power =>
    intro s hpwr
    have e : exec .powerUp s = .next (leaveReset (powerOn s)) := congrArg Host.Outcome.next (if_neg (by simp [hpwr]))
    have hrun : (powerOn s).cru.run = .reset := rfl
    have hpwrgd : (powerOn s).cru.pwrgd = true := rfl
    have hpackage : (powerOn s).msc.packageHeld = false := rfl
    have hwait : (powerOn s).msc.waitRelease = false := rfl
    have hrst : (powerOn s).cru.rstN = s.cru.rstN := rfl
    refine ⟨_, e, ?_⟩
    unfold leaveReset
    rw [hrun, hpwrgd, hpackage, hwait, hrst]
    cases hs : s.cru.rstN
    · exact ⟨rfl, rfl, rfl, rfl, rfl, rfl⟩
    · exact ⟨rfl, rfl, rfl, rfl, rfl, rfl⟩
  case timeout =>
    intro s hrun hstuck
    have e : exec .refclkQualifyTimeout s = .next (startFail 1 s) :=
      congrArg Host.Outcome.next (if_pos ⟨hrun, by simp [hstuck]⟩)
    refine ⟨_, e, ?_⟩
    unfold startFail garwaSend
    dsimp only
    split <;> exact ⟨rfl, rfl, rfl, rfl⟩
  case ready =>
    intro s hrun hstuck hdue hover hboot hrestart hring
    have e : exec .engineReady s = .next (doEngineReady s) := rfl
    generalize hu : onMsc (fun m => { m with startCause := 0 }) (onCru (fun c => { c with run := .ready }) s) = u
    have hstart : doEngineReady s =
        leaveRecovery (ledgerStart (startTwin (endMoves (odSet odCatRepdirUsed s.cat.repdir.length u)))) := by
      unfold doEngineReady
      rw [if_pos ⟨hrun, by simp [hstuck], by simp [hdue], by simp [hover], hboot, by simp [hrestart]⟩, ← hu]
      rfl
    have hcru : u.cru = { s.cru with run := .ready } := by rw [← hu]; rfl
    have hcause : u.msc.startCause = 0 := by rw [← hu]; rfl
    have hring' : u.upu.ring = [] := by rw [← hu]; exact hring
    refine ⟨_, e, ?_, ?_, exec_piece .host e⟩
    · rw [hstart, leaveRecovery_cru, ← hcru]
      exact ledgerStart_holds_none (P := fun t => t.cru = u.cru) _ hring' (fun p hp => keeps_cru u p (by revert p; decide)) rfl
    · rw [hstart, leaveRecovery_startCause]
      have hmsc := ledgerStart_holds_none (P := fun t => mscBare t = mscBare u) s.cat.repdir.length hring'
        (fun p hp => keeps_mscBare u p (by revert p; decide)) rfl
      exact (congrArg Msc.startCause hmsc :).trans hcause

/-- Refutes O27: MSC_CONTAINED, which the end of the flush posts, goes into an event ring that may lie in GDDR7. Of an engine
whose event ring 0 is enabled at address 0 of GDDR7 the end of the flush of a handling at engine level changes GDDR7. -/
theorem not_powerAndContainment : ¬ Obligations.PowerAndContainment := by
  unfold Obligations.PowerAndContainment
  rintro ⟨-, -, -, -, -, -, -, hflush, -⟩
  obtain ⟨t, e, -, -, -, hcleared⟩ := hflush
    { cfe := { evqs := [(0, { ctl := 1, base := 2 ^ 60 })] }, msc := { flushing := true, open_ := [{ level := 4, cause := 14 }] } }
    rfl rfl
  obtain ⟨-, -, -, -, -, -, hgddr, -, -⟩ := hcleared
  obtain rfl := Host.Outcome.next.inj e
  exact absurd hgddr (by decide +kernel)

end Sys2Proof.Machine
end

section
/-! SUPPORT. Control messages, the Registrar and the link keys (R335 to R343). -/

namespace Sys2Proof.Machine

/-! ### Terms and epochs -/

theorem odBare_congr {s t : State} (h : t.od = s.od) : odBare t = odBare s := by
  funext k; unfold odBare; rw [odGet_congr h]

theorem odGet_termed {s u : State} (h : odBare u = odBare s) : odGet u odSfpTerm = odGet s odSfpTerm := odGet_bare h

/-- Seeing a term changes of the fabric port only whether the engine acts as Registrar. -/
theorem seeTerm_sfp (src term : Nat) (s : State) : ∃ b, (seeTerm src term s).sfp = { s.sfp with registrar := b } := by
  unfold seeTerm
  dsimp only
  split
  · refine ⟨false, ?_⟩
    split
    · rw [post0_sfp]; rfl
    · rfl
  · exact ⟨s.sfp.registrar, rfl⟩

/-- An adopted epoch: what else the fabric port holds, but for messages and cells, stays. -/
theorem adoptEpoch_sfp (e : Nat) (ds : List (Nat × BitVec 512)) (s : State) : ∃ sq out, sfpBare (adoptEpoch e ds s).sfp =
    sfpBare { s.sfp with epoch := e % 2 ^ 32, ctlSeq := sq, ctlOut := out } := by
  unfold adoptEpoch
  extract_lets s1 here s2 s3 r
  have h1 : Holds (fun t => t.sfp = s.sfp) s1 := by
    have h : Holds (fun t => t.sfp = s.sfp) s := rfl
    simp +contextual (maxDischargeDepth := 99) [s1, keeps_sfp, h]
  have h3 : s3.sfp = { s.sfp with epoch := e % 2 ^ 32 } := by
    show { s1.sfp with epoch := e % 2 ^ 32 } = _
    rw [show s1.sfp = s.sfp from h1]
  split
  · rw [sendCtl_bare, h3]
    exact ⟨_, _, rfl⟩
  · rw [h3]
    exact ⟨_, _, rfl⟩

/-! ### The map of the Registrar -/

/-- A message to every other engine of a list. -/
theorem sendCtls_sfp (ms : List Nat) (type : Nat) (fields : List Nat) (s : State) : ∃ sq out,
    sfpBare (forEach (fun m s => if m = s.sfp.engineId then s else sendCtl type m fields none s) ms s).sfp =
      sfpBare { s.sfp with ctlSeq := sq, ctlOut := out } := by
  induction ms generalizing s with
  | nil => exact ⟨_, _, rfl⟩
  | cons m ms ih =>
    rw [forEach]
    split
    · exact ih s
    · obtain ⟨sq, out, h⟩ := ih (sendCtl type m fields none s)
      refine ⟨sq, out, h.trans ?_⟩
      exact (congrArg (fun f : Sfp => { f with ctlSeq := sq, ctlOut := out }) (sendCtl_bare type m fields none s) :)

/-- The waiting change of the map goes to every other member, and is adopted. -/
theorem distribute_sfp (s : State) : ∃ sq out, sfpBare (distribute s).sfp = sfpBare { s.sfp with
    mapPending := [], adopted := [s.sfp.engineId], epoch := s.sfp.mapEpoch % 2 ^ 32, ctlSeq := sq, ctlOut := out } := by
  unfold distribute
  extract_lets ds e flat s1 s2
  obtain ⟨sq, out, h2⟩ := sendCtls_sfp (members s1) ctControl (1 :: e :: flat) s1
  change sfpBare s2.sfp = _ at h2
  clear_value s2
  obtain ⟨sq', out', h⟩ := adoptEpoch_sfp e ds s2
  refine ⟨sq', out', h.trans ?_⟩
  exact (congrArg (fun f : Sfp => { f with epoch := e % 2 ^ 32, ctlSeq := sq', ctlOut := out' }) h2 :)

theorem firstDeputy_congr {s t : State} (hod : odBare t = odBare s) (hid : t.sfp.engineId = s.sfp.engineId)
    (hquiet : t.sfp.quiet = s.sfp.quiet) : firstDeputy t = firstDeputy s := by
  unfold firstDeputy succession
  rw [odGet_bare hod (k := odSfpSuccession), odGet_bare hod (k := odSfpTakeoverFolios), hid, hquiet]

theorem firstDeputy_map (m : Nat) (ds : List (Nat × BitVec 512)) (s : State) :
    firstDeputy { s with sfp := { s.sfp with mapEpoch := m, mapPending := ds } } = firstDeputy s :=
  firstDeputy_congr (odBare_congr rfl) rfl rfl

/-- With a live deputy the Registrar takes a report into its map and mirrors it. -/
theorem mapChange_mirrors {d : Nat} (e : Nat) (ds : List (Nat × BitVec 512)) {s : State} (h : firstDeputy s = some d) :
    ∃ sq out, sfpBare (mapChange e ds s).sfp = sfpBare { s.sfp with
      mapEpoch := if epochOlder e s.sfp.mapEpoch then s.sfp.mapEpoch else e % 2 ^ 32, mapPending := s.sfp.mapPending ++ ds,
      ctlSeq := sq, ctlOut := out } := by
  have hdep : firstDeputy { s with sfp := { s.sfp with
      mapEpoch := if epochOlder e s.sfp.mapEpoch then s.sfp.mapEpoch else e % 2 ^ 32, mapPending := s.sfp.mapPending ++ ds } } =
      some d := (firstDeputy_map ..).trans h
  simp only [mapChange, onSfp, hdep]
  generalize (if epochOlder e s.sfp.mapEpoch then s.sfp.mapEpoch else e % 2 ^ 32) = m
  generalize hv : { s with sfp := { s.sfp with mapEpoch := m, mapPending := s.sfp.mapPending ++ ds } } = v
  have hsfp : v.sfp = { s.sfp with mapEpoch := m, mapPending := s.sfp.mapPending ++ ds } := by rw [← hv]
  clear hv
  refine ⟨tabPut d ((nextCtl v d + 1) % 2 ^ 32) v.sfp.ctlSeq,
    v.sfp.ctlOut ++ [{ dst := d, mseq := nextCtl v d, type := ctControl, payload := [5, m], task := none }], ?_⟩
  rw [sendCtl_bare, hsfp]

/-- Settles O18: the next message is taken by `deliverAck_next`, and each adoption by its own change of the fabric port. -/
theorem controlMessages : Obligations.ControlMessages := by
  unfold Obligations.ControlMessages
  refine ⟨?resend, ?member, ?registrar, ?floors, ?adopted, ?report⟩
  case resend =>
    intro s d m x hfind htype hroom
    have e : exec (.controlResend d m) s = .next (sendCell x.type d 24 (x.mseq :: x.payload) s) := by
      show Host.Outcome.next (doControlResend d m s) = _
      simp only [doControlResend, hfind]
    have hsfp := sendCell_bare x.type d 24 (x.mseq :: x.payload) s
    exact ⟨_, e, sendCell_sent _ _ _ _ s hroom (.inl htype), (congrArg Sfp.ctlOut hsfp :), (congrArg Sfp.ctlSeq hsfp :),
      exec_tasks e, exec_piece .host e⟩
  case member =>
    intro s src term m e ds hm hin hlt hreg hterm
    obtain ⟨u, hu, hkeep, hsfp⟩ := deliverAck_next false (fun s =>
      if s.sfp.registrar && !decide (odGet s odSfpTerm < term) then mapChange e ds s
      else if termOk s term then adoptEpoch e ds (seeTerm src term s) else s) hm hlt hin
    have hod : odBare u = odBare s := hkeep (fun t => odBare t = odBare s) (keeps_odBare s _) (keeps_odBare s _) (keeps_odBare s _) rfl
    have hregu : u.sfp.registrar = false := (congrArg Sfp.registrar hsfp :).trans hreg
    have hin' : tabGet src 0 u.sfp.ctlIn = (m + 1) % 2 ^ 32 := by
      have h : u.sfp.ctlIn = tabPut src ((m + 1) % 2 ^ 32) s.sfp.ctlIn := (congrArg Sfp.ctlIn hsfp :)
      rw [h, tabGet_put_same]
    have hok : termOk u term = true := by unfold termOk; rw [odGet_termed hod]; exact decide_eq_true hterm
    have ex : exec (.descUpdate src term m e ds) s = .next (adoptEpoch e ds (seeTerm src term u)) := by
      have hdo : doDescUpdate src term m e ds s = adoptEpoch e ds (seeTerm src term u) := by
        unfold doDescUpdate deliver
        rw [hu, hregu, hok, Bool.false_and, if_neg Bool.false_ne_true, if_pos rfl]
      exact congrArg Host.Outcome.next hdo
    obtain ⟨sq, out, hadopt⟩ := adoptEpoch_sfp e ds (seeTerm src term u)
    obtain ⟨b, hsee⟩ := seeTerm_sfp src term u
    refine ⟨_, ex, (congrArg Sfp.epoch hadopt :), ?_, exec_tasks ex, exec_piece .host ex⟩
    have hctl : (adoptEpoch e ds (seeTerm src term u)).sfp.ctlIn = (seeTerm src term u).sfp.ctlIn := (congrArg Sfp.ctlIn hadopt :)
    rw [hctl, hsee]
    exact hin'
  case registrar =>
    intro s src term m e ds d hm hin hlt hreg hterm hdep
    obtain ⟨u, hu, hkeep, hsfp⟩ := deliverAck_next false (fun s =>
      if s.sfp.registrar && !decide (odGet s odSfpTerm < term) then mapChange e ds s
      else if termOk s term then adoptEpoch e ds (seeTerm src term s) else s) hm hlt hin
    have hod : odBare u = odBare s := hkeep (fun t => odBare t = odBare s) (keeps_odBare s _) (keeps_odBare s _) (keeps_odBare s _) rfl
    have hregu : u.sfp.registrar = true := (congrArg Sfp.registrar hsfp :).trans hreg
    have hlow : decide (odGet u odSfpTerm < term) = false := by
      rw [odGet_termed hod]; exact decide_eq_false (Nat.not_lt.mpr hterm)
    have ex : exec (.descUpdate src term m e ds) s = .next (mapChange e ds u) := by
      have hdo : doDescUpdate src term m e ds s = mapChange e ds u := by
        unfold doDescUpdate deliver
        rw [hu, hregu, hlow, if_pos (by decide)]
      exact congrArg Host.Outcome.next hdo
    have hdepu : firstDeputy u = some d := by
      rw [← hdep]
      exact firstDeputy_congr hod (congrArg Sfp.engineId hsfp :) (congrArg Sfp.quiet hsfp :)
    obtain ⟨sq, out, hchange⟩ := mapChange_mirrors e ds hdepu
    have hmap : u.sfp.mapEpoch = s.sfp.mapEpoch := (congrArg Sfp.mapEpoch hsfp :)
    have hpending : u.sfp.mapPending = s.sfp.mapPending := (congrArg Sfp.mapPending hsfp :)
    have hepoch : u.sfp.epoch = s.sfp.epoch := (congrArg Sfp.epoch hsfp :)
    refine ⟨_, ex, ?_, ?_, (congrArg Sfp.epoch hchange :).trans hepoch, exec_tasks ex⟩
    · rw [← hmap]; exact (congrArg Sfp.mapEpoch hchange :)
    · rw [← hpending]; exact (congrArg Sfp.mapPending hchange :)
  case floors =>
    intro s src term m e a hm hin hlt hterm
    obtain ⟨u, hu, hkeep, hsfp⟩ := deliverAck_next false (fun s =>
      if termOk s term then
        onSfp (fun f => { f with epochFloor := e % 2 ^ 32, admFloor := a % 2 ^ 48 }) (seeTerm src term s)
      else s) hm hlt hin
    have hod : odBare u = odBare s := hkeep (fun t => odBare t = odBare s) (keeps_odBare s _) (keeps_odBare s _) (keeps_odBare s _) rfl
    have hin' : tabGet src 0 u.sfp.ctlIn = (m + 1) % 2 ^ 32 := by
      have h : u.sfp.ctlIn = tabPut src ((m + 1) % 2 ^ 32) s.sfp.ctlIn := (congrArg Sfp.ctlIn hsfp :)
      rw [h, tabGet_put_same]
    have hok : termOk u term = true := by unfold termOk; rw [odGet_termed hod]; exact decide_eq_true hterm
    have ex : exec (.floors src term m e a) s =
        .next (onSfp (fun f => { f with epochFloor := e % 2 ^ 32, admFloor := a % 2 ^ 48 }) (seeTerm src term u)) := by
      have hdo : doFloors src term m e a s =
          onSfp (fun f => { f with epochFloor := e % 2 ^ 32, admFloor := a % 2 ^ 48 }) (seeTerm src term u) := by
        unfold doFloors deliver
        rw [hu, hok, if_pos rfl]
      exact congrArg Host.Outcome.next hdo
    obtain ⟨b, hsee⟩ := seeTerm_sfp src term u
    refine ⟨_, ex, rfl, rfl, ?_, exec_tasks ex, exec_piece .host ex⟩
    show tabGet src 0 (seeTerm src term u).sfp.ctlIn = _
    rw [hsee]
    exact hin'
  case adopted =>
    intro s m e hreg hm he hnot
    have ex : exec (.epochAdopted m e) s = .next (onSfp (fun f => { f with adopted := f.adopted ++ [m] }) (hear m s)) := by
      show Host.Outcome.next (doEpochAdopted m e s) = _
      unfold doEpochAdopted
      rw [if_pos (by simp [hreg, hm])]
      refine congrArg Host.Outcome.next (if_pos ?_)
      have hmap : (hear m s).sfp.mapEpoch = s.sfp.mapEpoch := rfl
      have had : (hear m s).sfp.adopted = s.sfp.adopted := rfl
      simp [hmap, had, he, hnot]
    exact ⟨_, ex, rfl, rfl, rfl⟩
  case report =>
    intro s m e a f hreg hm
    have ex : exec (.floorReport m e a f) s = .next (doFloorReport m e a f s) := rfl
    refine ⟨_, ex, ?_, ?_, ?_, ?_⟩ <;> (unfold doFloorReport; rw [if_pos (by simp [hreg, hm])])
    · exact tabGet_put_same ..
    · show m ∉ s.sfp.silent.filter (· != m)
      simp
    · rfl
    · rfl

end Sys2Proof.Machine
end

section
/-! SUPPORT. The Registrar's mirror and takeover, and the link keys (R338 to R343). -/

namespace Sys2Proof.Machine

theorem getKey_congr {s t : State} (h : t.sfp.keys = s.sfp.keys) (k : Nat) : getKey t k = getKey s k := by
  unfold getKey; rw [h]

theorem keyStateNum_congr {s t : State} (h : t.sfp = s.sfp) : keyStateNum t = keyStateNum s := by
  unfold keyStateNum getKey; rw [h]

theorem odSet_sfp (k v : Nat) (s : State) : (odSet k v s).sfp = s.sfp := rfl

theorem odGet_showKeys (s : State) : odGet (showKeys s) odSfpKeyState = keyStateNum (showKeys s) := by
  unfold showKeys
  rw [odGet_set_same, keyStateNum_congr (odSet_sfp ..)]

theorem getKey_eraseKey_same (k : Nat) (s : State) : (getKey (eraseKey k s) k).secret = none := by
  have h : getKey (eraseKey k s) k = tabGet k {} (tabMod k {} (fun x => { x with secret := none }) s.sfp.keys) := rfl
  rw [h, tabGet_mod_same]

theorem getKey_eraseKey_other {k j : Nat} (s : State) (h : j ≠ k) : getKey (eraseKey k s) j = getKey s j := by
  have hkey : getKey (eraseKey k s) j = tabGet j {} (tabMod k {} (fun x => { x with secret := none }) s.sfp.keys) := rfl
  rw [hkey, tabGet_mod_other _ _ _ h]
  rfl

/-- Settles O19: each command by its own change of the fabric port (`distribute_sfp`, `seeTerm_sfp`). -/
theorem registrarAndKeys : Obligations.RegistrarAndKeys := by
  unfold Obligations.RegistrarAndKeys
  refine ⟨?mirror, ?distribute, ?takeover, ?silent, ?switch, ?switched, ?erase⟩
  case mirror =>
    intro s src term m e hm hin hlt hterm
    obtain ⟨u, hu, hkeep, hsfp⟩ := deliverAck_next false (fun s =>
      if false = true then (if s.sfp.registrar && e == s.sfp.mapEpoch then distribute s else s)
      else if termOk s term then
        sendCtl ctControl src [5, e, 1] none (onSfp (fun f => { f with mapEpoch := e % 2 ^ 32 }) (seeTerm src term s))
      else s) hm hlt hin
    have hod : odBare u = odBare s := hkeep (fun t => odBare t = odBare s) (keeps_odBare s _) (keeps_odBare s _) (keeps_odBare s _) rfl
    have hok : termOk u term = true := by unfold termOk; rw [odGet_termed hod]; exact decide_eq_true hterm
    generalize hv : onSfp (fun f => { f with mapEpoch := e % 2 ^ 32 }) (seeTerm src term u) = v
    have hmap : v.sfp.mapEpoch = e % 2 ^ 32 := by rw [← hv]; rfl
    have hdo : doMapMirror src term m e false s = sendCtl ctControl src [5, e, 1] none v := by
      unfold doMapMirror deliver
      rw [hu, if_neg Bool.false_ne_true, hok, if_pos rfl, hv]
    have ex : exec (.mapMirror src term m e false) s = .next (sendCtl ctControl src [5, e, 1] none v) := congrArg Host.Outcome.next hdo
    have hsend := sendCtl_bare ctControl src [5, e, 1] none v
    have hout : (sendCtl ctControl src [5, e, 1] none v).sfp.ctlOut = v.sfp.ctlOut ++ [{
        dst := src, mseq := nextCtl v src, type := ctControl, payload := [5, e, 1], task := none }] := (congrArg Sfp.ctlOut hsend :)
    refine ⟨_, ex, (congrArg Sfp.mapEpoch hsend :).trans hmap, ⟨{
      dst := src, mseq := nextCtl v src, type := ctControl, payload := [5, e, 1], task := none }, ?_, rfl, rfl, rfl⟩, exec_tasks ex⟩
    rw [hout]
    exact List.mem_append_right _ (List.mem_singleton.mpr rfl)
  case distribute =>
    intro s src term m e hm hin hlt hreg he
    obtain ⟨u, hu, hkeep, hsfp⟩ := deliverAck_next false (fun s =>
      if true = true then (if s.sfp.registrar && e == s.sfp.mapEpoch then distribute s else s)
      else if termOk s term then
        sendCtl ctControl src [5, e, 1] none (onSfp (fun f => { f with mapEpoch := e % 2 ^ 32 }) (seeTerm src term s))
      else s) hm hlt hin
    have hregu : u.sfp.registrar = true := (congrArg Sfp.registrar hsfp :).trans hreg
    have hmapu : u.sfp.mapEpoch = s.sfp.mapEpoch := (congrArg Sfp.mapEpoch hsfp :)
    have hidu : u.sfp.engineId = s.sfp.engineId := (congrArg Sfp.engineId hsfp :)
    have hdo : doMapMirror src term m e true s = distribute u := by
      unfold doMapMirror deliver
      rw [hu, if_pos rfl, hregu, hmapu, he, Bool.true_and, if_pos (by simp)]
    have ex : exec (.mapMirror src term m e true) s = .next (distribute u) := congrArg Host.Outcome.next hdo
    obtain ⟨sq, out, hdist⟩ := distribute_sfp u
    refine ⟨_, ex, (congrArg Sfp.mapPending hdist :), ?_, ?_, exec_tasks ex⟩
    · rw [← hidu]; exact (congrArg Sfp.adopted hdist :)
    · rw [he, ← hmapu]; exact (congrArg Sfp.epoch hdist :)
  case takeover =>
    intro s hmay
    generalize hu : odSet odSfpRegistrar s.sfp.engineId (odSet odSfpTerm ((odGet s odSfpTerm + 1) % 65536)
      (onSfp (fun f => { f with registrar := true, adopted := [], reports := [], silent := [] }) s)) = u
    have ex : exec .registrarTakeover s = .next (post0 evSfpRegistrarChange s.sfp.engineId
        ((odGet s odSfpTerm + 1) % 65536 + (odGet s odSfpRegistrar) <<< 16) u) := by
      show Host.Outcome.next (doRegistrarTakeover s) = _
      unfold doRegistrarTakeover
      rw [if_pos hmay, ← hu]
    have hod (k : Nat) (h1 : k ≠ odMscErrCounts) (h2 : k ≠ odHptRetainStalls) (d : Nat) :
        odGet (post0 evSfpRegistrarChange s.sfp.engineId d u) k = odGet u k := odGet_bare (odBare_post0 ..) h1 h2
    refine ⟨_, ex, ?_, ?_, ?_, ?_, exec_tasks ex⟩
    · rw [post0_sfp, ← hu]; rfl
    · rw [hod _ (by decide) (by decide), ← hu, odGet_set_other _ _ (by decide), odGet_set_same]
    · rw [hod _ (by decide) (by decide), ← hu, odGet_set_same]
    · rw [post0_sfp, ← hu]; rfl
  case silent =>
    intro s m hreg hm hne hnot hlate
    have ex : exec (.sfpMemberSilent m) s = .next (post0 evSfpMemberSilent m (tabGet m (0, 0, 0) s.sfp.reports).2.2
        (onSfp (fun f => { f with silent := f.silent ++ [m] }) s)) :=
      congrArg Host.Outcome.next (if_pos (by simp [hreg, hm, hne, hnot, hlate]))
    exact ⟨_, ex, post0_sfp .., exec_tasks ex⟩
  case switch =>
    intro s src term k f hm hterm hsucc hsecret
    have ex : exec (.keySwitch src term k f) s =
        .next (onSfp (fun g => { g with switchTo := some (k, f) }) (seeTerm src term (hear src s))) := by
      refine congrArg Host.Outcome.next (if_pos ?_)
      simp [hm, termOk, hterm, hsucc, hsecret]
    obtain ⟨b, hsee⟩ := seeTerm_sfp src term (hear src s)
    refine ⟨_, ex, rfl, ?_, ?_⟩
    · show (seeTerm src term (hear src s)).sfp.sending = _
      rw [hsee]; rfl
    · show (seeTerm src term (hear src s)).sfp.keys = _
      rw [hsee]; rfl
  case switched =>
    intro s k f hswitch hf
    have ex : exec .keySwitchFolio s = .next (doKeySwitchFolio s) := rfl
    refine ⟨_, ex, ?_⟩
    simp only [doKeySwitchFolio, hswitch, hf, if_true]
    refine ⟨rfl, rfl, rfl, fun o ho hne => ?_, odGet_showKeys _, rfl⟩
    show (match s.sfp.sending with
      | none => s.sfp.oldSlot
      | some o => if o = k then s.sfp.oldSlot else some (o, f + odGet s odSfpKeyOverlap)) = _
    rw [ho]
    exact if_neg hne
  case erase =>
    intro s k f hold hf
    have ex : exec .oldKeyErase s = .next (doOldKeyErase s) := rfl
    refine ⟨_, ex, ?_⟩
    simp only [doOldKeyErase, hold, hf, if_true]
    exact ⟨getKey_eraseKey_same .., rfl, fun j hj => getKey_eraseKey_other _ hj, odGet_showKeys _, rfl⟩

end Sys2Proof.Machine
end

section
/-! SUPPORT. Invalidation of replicas (R247). -/

namespace Sys2Proof.Machine

/-! ### A transfer after an engine has been heard -/

theorem linked_congr {s t : State} (hstate : odGet t odSfpPortState = odGet s odSfpPortState)
    (hroute : odGet t odSfpRoute = odGet s odSfpRoute) : linked t = linked s := by
  funext e
  unfold linked upPorts routePorts portUp portState odByte
  rw [hstate, hroute]

/-- There is room for a transfer whatever engines have been heard. -/
theorem cellRoom_heard {s t : State} {dst n : Nat} {q : List (Nat × Nat)} (hsfp : t.sfp = { s.sfp with quiet := q })
    (hlinked : linked t = linked s) (h : cellRoom s dst n) : cellRoom t dst n := by
  unfold cellRoom cellDst cseqUsed at *
  rw [hlinked, hsfp]
  exact h

theorem sentOne_heard {s t u : State} {type dst : Nat} {fields : List Nat} {q : List (Nat × Nat)}
    (hsfp : t.sfp = { s.sfp with quiet := q }) (h : sentOne type dst fields t u) : sentOne type dst fields s u := by
  unfold sentOne cellDst cseqUsed at *
  rw [hsfp] at h
  exact h

/-! ### The holder -/

/-- A refusal changes the front end, what the Pods hold of the task, and the writes that wait for it. -/
theorem refuseCtl_rest (n : Nat) (s : State) : ∃ f ps w, refuseCtl n s = { s with cfe := f, pods := ps, cat := { s.cat with pend := w } } := by
  unfold refuseCtl
  rw [endTask_plain _ _ _ _ _ (by decide)]
  unfold endTaskCore
  split
  · exact ⟨s.cfe, s.pods, s.cat.pend, rfl⟩
  · split
    · exact ⟨_, _, _, rfl⟩
    · exact ⟨s.cfe, s.pods, s.cat.pend, rfl⟩

theorem refuseCtls_rest (ns : List Nat) (s : State) : ∃ f ps w, forEach refuseCtl ns s = { s with cfe := f, pods := ps, cat := { s.cat with pend := w } } := by
  induction ns generalizing s with
  | nil => exact ⟨s.cfe, s.pods, s.cat.pend, rfl⟩
  | cons n ns ih =>
    obtain ⟨f, ps, w, h⟩ := refuseCtl_rest n s
    obtain ⟨f', ps', w', h'⟩ := ih (refuseCtl n s)
    exact ⟨f', ps', w', by rw [forEach, h', h]⟩

/-- Replicas with the same bytes apart are found in both Catalogues. -/
theorem replica_bare {s t : State} (h : catBare t = catBare s) {x : Replica} (hx : x ∈ t.cat.replicas) :
    ∃ y ∈ s.cat.replicas, { y with data := x.data } = x := by
  have hmap : t.cat.replicas.map (fun r => { r with data := [] }) = s.cat.replicas.map (fun r => { r with data := [] }) :=
    congrArg Cat.replicas h
  have hmem : { x with data := [] } ∈ t.cat.replicas.map (fun r => { r with data := [] }) := List.mem_map.mpr ⟨x, hx, rfl⟩
  rw [hmap] at hmem
  obtain ⟨y, hy, hyx⟩ := List.mem_map.mp hmem
  exact ⟨y, hy, (congrArg (fun r : Replica => { r with data := x.data }) hyx :)⟩

/-! ### The home -/

theorem catBare_post0 (e : EvKind) (n d : Nat) (s : State) : catBare (post0 e n d s) = catBare s := quiet_catBare.event ..

theorem repdir_putRepdir (s : State) : (putRepdir s).cat = s.cat := rfl

/-- The replica directory as it is written through. -/
theorem putRepdir_stored {s : State} (hup : chansUp s) (h : s.cat.repdir.length < 65536) : stored s.cat.repdirBase
    (s.cat.repdir.flatMap (fun e => leBytes 16 (repdirNum e)) ++ List.replicate 16 0) s.mem.gddr (putRepdir s).mem.gddr := by
  have hput : (putRepdir s).mem.gddr = (gddrStore s.cat.repdirBase (s.cat.repdir.flatMap (fun e => leBytes 16 (repdirNum e)) ++
      List.replicate 16 0) s).mem.gddr := by
    unfold putRepdir
    dsimp only
    rw [if_pos h]
    rfl
  rw [hput]
  exact gddrStore_stored _ _ hup

theorem putRepdir_used (s : State) : odGet (putRepdir s) odCatRepdirUsed = s.cat.repdir.length := odGet_set_same ..

theorem putRepdir_mem (s : State) : { (putRepdir s).mem with gddr := s.mem.gddr } = s.mem := rfl

theorem dropHolder_repdir (h t r : Nat) (s : State) : (dropHolder h t r s).cat.repdir =
    s.cat.repdir.filter (fun x => !(x.1 == t && x.2.1 == r && x.2.2 == h)) := rfl

theorem dropHolder_gone (h t r : Nat) (s : State) : (t, r, h) ∉ (dropHolder h t r s).cat.repdir := by
  rw [dropHolder_repdir]
  simp

theorem dropHolder_others {h t r : Nat} {s : State} {c : Nat × Nat × Nat} (hc : c ∈ s.cat.repdir) (hne : c ≠ (t, r, h)) :
    c ∈ (dropHolder h t r s).cat.repdir := by
  obtain ⟨t', r', h'⟩ := c
  rw [dropHolder_repdir, List.mem_filter]
  refine ⟨hc, ?_⟩
  simp only [Bool.not_eq_true', Bool.and_eq_false_iff, beq_eq_false_iff_ne]
  simp only [ne_eq, Prod.mk.injEq] at hne
  tauto

/-- The wait for the holder is over. -/
theorem dropHolder_invals {h t r : Nat} {s : State} {w : Inval} (hw : w ∈ (dropHolder h t r s).cat.invals) (ht : w.table = t)
    (hr : w.row = r) : h ∉ w.holders := by
  obtain ⟨hmem, -⟩ := List.mem_filter.mp hw
  obtain ⟨v, -, hv⟩ := List.mem_map.mp hmem
  by_cases hsame : v.table = t ∧ v.row = r
  · rw [if_pos hsame] at hv
    rw [← hv]
    simp
  · rw [if_neg hsame] at hv
    subst hv
    exact absurd ⟨ht, hr⟩ hsame

/-- Settles O20: the holder drops and acknowledges, the home takes the holder off and writes the directory (`putRepdir_stored`). -/
theorem replicasInvalidated : Obligations.ReplicasInvalidated := by
  unfold Obligations.ReplicasInvalidated
  refine ⟨?inval, ?ack, ?timeout, ?expiry⟩
  case inval =>
    intro s h t r hm hroom
    have e : exec (.invalRx h t r) s = .next (doInvalRx h t r s) := rfl
    generalize hv : loseReplicas (fun _ t' r' => t' == t && r' == r) (hear h s) = v
    generalize hfills : ((v.cfe.tasks.filter (fun k => dOp k.desc == opReloc && rlOp k.desc == 2 && dTable k.desc == t &&
      rlRow k.desc == r && k.ctlSeq.isSome && !isOver k)).map (·.id)) = fills
    obtain ⟨f, ps, w, hfe⟩ := refuseCtls_rest fills v
    generalize hx : ({ v with cfe := f, pods := ps, cat := { v.cat with pend := w } } : State) = x at hfe
    have hdo : doInvalRx h t r s = sendCtl ctInvalAck h [t, r] none x := by
      unfold doInvalRx
      rw [if_pos hm]
      simp only [hv, hfills, hfe]
    have hsfp : x.sfp = { s.sfp with quiet := tabPut h 0 s.sfp.quiet } := by rw [← hx, ← hv]; rfl
    have hod (k : Nat) (hk : k ≠ odCatReplicas) : odGet x k = odGet s k := by
      rw [odGet_congr (s := v) (by rw [← hx]) k, ← hv]
      exact odGet_set_other _ _ hk
    have hreps : x.cat.replicas = s.cat.replicas.filter (fun y => !(y.table == t && y.row == r)) := by rw [← hx, ← hv]; rfl
    have hcat : catBare (sendCtl ctInvalAck h [t, r] none x) = catBare x := by
      have h : Holds (fun y => catBare y = catBare x) x := rfl
      show Holds (fun y => catBare y = catBare x) _
      simp +contextual (maxDischargeDepth := 99) [keeps_catBare, h]
    refine ⟨_, e, ?_, ?_, ?_, exec_piece .host e⟩ <;> rw [hdo]
    · intro y hy hmatch
      obtain ⟨z, hz, hzy⟩ := replica_bare hcat hy
      rw [hreps] at hz
      obtain ⟨-, hno⟩ := List.mem_filter.mp hz
      have htable : z.table = y.table := (congrArg Replica.table hzy :)
      have hrow : z.row = y.row := (congrArg Replica.row hzy :)
      simp [htable, hrow, hmatch] at hno
    · intro y hy hno
      have hyx : y ∈ x.cat.replicas := by
        rw [hreps]
        exact List.mem_filter.mpr ⟨hy, by simpa [imp_iff_not_or] using hno⟩
      exact replica_bare hcat.symm hyx
    · have hroomx := cellRoom_heard hsfp (linked_congr (hod _ (by decide)) (hod _ (by decide))) hroom
      have hseq : nextCtl x h = nextCtl s h := by unfold nextCtl; rw [hsfp]
      have hsent := sendCtl_sent ctInvalAck h [t, r] none x hroomx
      rw [hseq] at hsent
      exact sentOne_heard hsfp hsent
  case ack =>
    intro s h t r hm
    have e : exec (.invalAckRx h t r) s = .next (dropHolder h t r (hear h s)) := by
      show Host.Outcome.next (whenS (isMember s h) _ s) = _
      rw [whenS, if_pos hm]
    refine ⟨_, e, dropHolder_gone _ _ _ _, fun c hc hne => dropHolder_others (s := hear h s) hc hne, putRepdir_used _, fun hup hlen => ?_,
      putRepdir_mem _, rfl⟩
    exact putRepdir_stored (s := onCat _ (hear h s)) hup hlen
  case timeout =>
    intro s h t r v hv ht hr hh hlate
    have e : exec (.catInvalTimeout h t r) s = .next (post0 evCatInvalTimeout h (t + r <<< 16) (dropHolder h t r s)) := by
      show Host.Outcome.next (doCatInvalTimeout h t r s) = _
      unfold doCatInvalTimeout
      rw [whenS, if_pos]
      exact List.any_eq_true.mpr ⟨v, hv, by simp [ht, hr, hh, hlate]⟩
    generalize t + r <<< 16 = d at e
    have hcat := catBare_post0 evCatInvalTimeout h d (dropHolder h t r s)
    have htasks := exec_tasks e
    generalize post0 evCatInvalTimeout h d (dropHolder h t r s) = u at e hcat htasks
    have hdir : u.cat.repdir = (dropHolder h t r s).cat.repdir := (congrArg Cat.repdir hcat :)
    have hinv : u.cat.invals = (dropHolder h t r s).cat.invals := (congrArg Cat.invals hcat :)
    refine ⟨u, e, ?_, fun w hw => ?_, htasks⟩
    · rw [hdir]
      exact dropHolder_gone _ _ _ _
    · rw [hinv] at hw
      exact dropHolder_invals hw
  case expiry =>
    intro s h hne hlate
    have e : exec (.holderReplicaExpiry h) s = .next (loseReplicas (fun x _ _ => x == h) s) := by
      show Host.Outcome.next (doHolderReplicaExpiry h s) = _
      unfold doHolderReplicaExpiry
      rw [whenS, if_pos (by simp [hne, hlate])]
    exact ⟨_, e, rfl, odGet_set_same .., rfl, rfl⟩

end Sys2Proof.Machine
end

section
/-! SUPPORT. The channels of GDDR7: temperature, retraining, scrubbing and the overwrite (R288 to R300). -/

namespace Sys2Proof.Machine

/-! ### The channels -/

theorem getChan_mod_other {c k : Nat} (f : Chan → Chan) (s : State) (h : k ≠ c) : getChan (modChan c f s) k = getChan s k :=
  tabGet_mod_other _ _ _ h

/-- What the Memory Subsystem keeps of its channels, its retrains, its patrol and its overwrite. -/
structure sameMss (s t : State) : Prop where
  chan : ∀ c, getChan t c = getChan s c
  retraining : t.mss.retraining = s.mss.retraining
  retrainQ : t.mss.retrainQ = s.mss.retrainQ
  overwriting : t.mss.overwriting = s.mss.overwriting
  overwriteDue : t.mss.overwriteDue = s.mss.overwriteDue
  scrub : t.mss.scrub = s.mss.scrub

theorem sameMss_of_bare {s t : State} (h : mssBare t = mssBare s) : sameMss s t where
  chan c := (congrArg (fun m : Mss => tabGet c {} m.chans) h :)
  retraining := (congrArg Mss.retraining h :)
  retrainQ := (congrArg Mss.retrainQ h :)
  overwriting := (congrArg Mss.overwriting h :)
  overwriteDue := (congrArg Mss.overwriteDue h :)
  scrub := (congrArg Mss.scrub h :)

theorem mssBare_raiseErr (e : ErrInfo) (s : State) : mssBare (raiseErr e s) = mssBare s := by
  have h : Holds (fun t => mssBare t = mssBare s) s := rfl
  show Holds (fun t => mssBare t = mssBare s) _
  simp +contextual (maxDischargeDepth := 99) [keeps_mssBare, h]

theorem mssBare_retireChan (ch : Nat) (pending : Bool) (s : State) : mssBare (retireChan ch pending s) = mssBare s := by
  have h : Holds (fun t => mssBare t = mssBare s) s := rfl
  show Holds (fun t => mssBare t = mssBare s) _
  simp +contextual (maxDischargeDepth := 99) [keeps_mssBare, h]

/-! ### Temperature -/

theorem odByte_setTemp (ch v : Nat) (s : State) : odByte (setTemp ch v s) odMssTemp ch = v % 2 ^ 8 := by
  unfold odByte setTemp
  rw [odGet_set_same, bitsOf_setBits_same]
  congr 2
  omega

theorem odGet_setTemp_other {k : Nat} (ch v : Nat) (s : State) (h : k ≠ odMssTemp) : odGet (setTemp ch v s) k = odGet s k :=
  odGet_set_other _ _ h

/-- A request for a retrain joins the requests, or there is none. -/
theorem requestRetrain_mss (ch cause : Nat) (s : State) : ∃ q, requestRetrain ch cause s = onMss (fun m => { m with retrainQ := q }) s := by
  unfold requestRetrain
  dsimp only
  cases (getChan s ch).lastRetrain with
  | none =>
    dsimp only
    split
    · exact ⟨s.mss.retrainQ, rfl⟩
    · exact ⟨_, rfl⟩
  | some f =>
    dsimp only
    split
    · exact ⟨s.mss.retrainQ, rfl⟩
    · exact ⟨_, rfl⟩

theorem ofSigned_lt (n : Nat) (i : Int) : ofSigned n i < 2 ^ n := by
  unfold ofSigned
  have hpos : (0 : Int) < ((2 ^ n : Nat) : Int) := by exact_mod_cast Nat.two_pow_pos n
  have := Int.emod_lt_of_pos i hpos
  have := Int.emod_nonneg i hpos.ne'
  omega

/-- The thresholds of a channel's throttle do not depend on its temperature byte. -/
theorem throttleLevel_setTemp (ch v cur : Nat) (r : Int) (s : State) : throttleLevel (setTemp ch v s) cur r = throttleLevel s cur r := by
  unfold throttleLevel
  rw [odGet_setTemp_other _ _ _ (by decide), odGet_setTemp_other _ _ _ (by decide)]

/-! ### Retrains -/

/-- A retrain of a channel that is requested already, or that is under way there, is not requested again. -/
theorem requestRetrain_busy {ch cause : Nat} {s : State} {r : Nat × Nat} (h : s.mss.retraining = some r) (hr : r.1 = ch) :
    requestRetrain ch cause s = s := by
  unfold requestRetrain
  dsimp only
  rw [if_pos]
  simp [h, hr]

theorem retrainWrite_owner {ch : Nat} {s : State} (hch : ch < 24) (hdown : (getChan s ch).down = false)
    (hmap : bitOf s.mss.chanMap ch = true) (hq : ∀ r ∈ s.mss.retrainQ, r.1 ≠ ch) (hnone : s.mss.retraining = none) :
    retrainWrite ch s = some (onMss (fun m => { m with retrainQ := m.retrainQ ++ [(ch, 3)] }) s) := by
  unfold retrainWrite
  rw [if_pos hch]
  congr 1
  unfold requestRetrain
  dsimp only
  rw [if_neg]
  have hany : s.mss.retrainQ.any (fun r => r.1 == ch) = false := by simpa using hq
  simp [hdown, hmap, hnone, hany]

/-- The state of the channels when a retrain has ended. -/
theorem retrainDone_mss (ch cause hold : Nat) (s : State) : (retrainDone ch cause hold s).mss.retraining = none ∧
    (getChan (retrainDone ch cause hold s) ch).lastRetrain = (if cause ≤ 2 then some (folio s) else (getChan s ch).lastRetrain) ∧
    (getChan (retrainDone ch cause hold s) ch).crc = 0 ∧
    ∀ c, c ≠ ch → getChan (retrainDone ch cause hold s) c = getChan s c := by
  unfold retrainDone
  dsimp only
  generalize (hold % 65536) <<< 16 = d
  generalize hf : (fun c : Chan => { c with
    trainTemp := if odByte s odMssTemp ch = 0x80 then none else some (toSigned 8 (odByte s odMssTemp ch)),
    lastRetrain := if cause ≤ 2 then some (folio s) else c.lastRetrain, crc := 0 }) = f
  generalize hv : modChan ch f (serveWrites (onMss (fun m => { m with retraining := none }) s)) = v
  have hvs : getChan v ch = f (getChan s ch) ∧ ∀ c, c ≠ ch → getChan v c = getChan s c := by
    rw [← hv]
    exact ⟨getChan_mod_same .., fun c hc => getChan_mod_other _ _ hc⟩
  have hvr : v.mss.retraining = none := by rw [← hv]; rfl
  have hw := sameMss_of_bare (mssBare_post0 evMssRetrain ch (cause + d) (odCount odMssRetrains 1 v))
  generalize post0 evMssRetrain ch (cause + d) (odCount odMssRetrains 1 v) = w at hw
  have hcount : sameMss v (odCount odMssRetrains 1 v) := sameMss_of_bare rfl
  have hwch (c : Nat) : getChan w c = getChan v c := (hw.chan c).trans (hcount.chan c)
  have hwr : w.mss.retraining = none := hw.retraining.trans (hcount.retraining.trans hvr)
  subst hf
  split
  · generalize hx : modChan ch (fun c => { c with retrains := inWindow w (getChan w ch).retrains }) w = x
    have hxs : getChan x ch = { getChan w ch with retrains := inWindow w (getChan w ch).retrains } := by
      rw [← hx]; exact getChan_mod_same ..
    have hxo (c : Nat) (hc : c ≠ ch) : getChan x c = getChan w c := by
      rw [← hx]; exact getChan_mod_other _ _ hc
    have hxr : x.mss.retraining = none := by rw [← hx]; exact hwr
    have hy : sameMss x (if odGet x odMscChanRetrainLimit ≤ (inWindow w (getChan w ch).retrains).length then retireChan ch true x
        else x) := by
      split
      · exact sameMss_of_bare (mssBare_retireChan ch true x)
      · exact sameMss_of_bare rfl
    refine ⟨hy.retraining.trans hxr, ?_, ?_, fun c hc => ?_⟩
    · rw [hy.chan, hxs, hwch, hvs.1]
    · rw [hy.chan, hxs, hwch, hvs.1]
    · rw [hy.chan, hxo c hc, hwch, hvs.2 c hc]
  · refine ⟨hwr, ?_, ?_, fun c hc => ?_⟩
    · rw [hwch, hvs.1]
    · rw [hwch, hvs.1]
    · rw [hwch, hvs.2 c hc]

/-- A channel that goes down is down, and no retrain of it is asked for any more. -/
theorem chanDown_mss (ch cause : Nat) (s : State) : (chanDown ch cause s).mss.retraining = s.mss.retraining ∧
    (getChan (chanDown ch cause s) ch).down = true ∧ ∀ r ∈ (chanDown ch cause s).mss.retrainQ, r.1 ≠ ch := by
  unfold chanDown
  dsimp only
  generalize hv : onMss (fun m => { m with retrainQ := m.retrainQ.filter (fun r => r.1 != ch), writeq := tabDrop ch m.writeq })
    (modChan ch (fun c => { c with down := true }) s) = v
  have hdown : (getChan v ch).down = true := by
    rw [← hv]
    exact (congrArg Chan.down (getChan_mod_same ch (fun c => { c with down := true }) s) :)
  have hq : ∀ r ∈ v.mss.retrainQ, r.1 ≠ ch := by
    rw [← hv]
    intro r hr
    simpa using (List.mem_filter.mp hr).2
  have hret : v.mss.retraining = s.mss.retraining := by rw [← hv]; rfl
  have hw := mssBare_post0 evMssChanDown ch cause v
  generalize post0 evMssChanDown ch cause v = w at hw
  suffices hsame : ∀ t : State, mssBare t = mssBare w → t.mss.retraining = s.mss.retraining ∧ (getChan t ch).down = true ∧
      ∀ r ∈ t.mss.retrainQ, r.1 ≠ ch by
    split
    · exact hsame _ (mssBare_raiseErr ..)
    · refine hsame _ ((mssBare_raiseErr ..).trans ?_)
      split
      · exact mssBare_retireChan ..
      · rfl
  intro t ht
  have hsm := sameMss_of_bare (ht.trans hw)
  refine ⟨hsm.retraining.trans hret, ?_, ?_⟩
  · rw [hsm.chan]; exact hdown
  · rw [hsm.retrainQ]; exact hq

/-! ### The patrol -/

theorem atomError_mssScrub (a err : Nat) (scrub : Bool) (s : State) : (atomError a err scrub s).1.mss.scrub = s.mss.scrub := by
  have hue (ch : Nat) (u : State) : (chanUe ch u).mss.scrub = u.mss.scrub := by
    unfold chanUe
    dsimp only
    split
    · exact (sameMss_of_bare (mssBare_retireChan ..)).scrub
    · rfl
  have hcrc (ch n : Nat) (u : State) : (crcRetries ch n u).mss.scrub = u.mss.scrub := by
    unfold crcRetries
    dsimp only
    split
    · obtain ⟨q, hq⟩ := requestRetrain_mss ch 1 (odCount odMssCrcRetries n (modChan ch (fun c => { c with crc := c.crc + n }) u))
      rw [hq]
      unfold odCount
      split <;> rfl
    · unfold odCount
      split <;> rfl
  have hpost (e : EvKind) (n d : Nat) (u : State) : (post0 e n d u).mss.scrub = u.mss.scrub :=
    (sameMss_of_bare (mssBare_post0 e n d u)).scrub
  have hcount (k n : Nat) (u : State) : (odCount k n u).mss.scrub = u.mss.scrub := by
    unfold odCount
    split <;> rfl
  unfold atomError
  dsimp only
  split
  · rfl
  · split
    · exact hcrc ..
    · split
      · split
        · rw [hpost, hue, hcrc]
        · rw [hue, hcrc]
      · split
        · rw [hue, hpost, hcount]
        · rfl

/-- Settles O23: what each command of the channels does to them (`retrainDone_mss`, `chanDown_mss`, `atomError_mssScrub`). -/
theorem gddrService : Obligations.GddrService := by
  unfold Obligations.GddrService
  refine ⟨?valid, ?invalid, ?owner, ?start, ?crc, ?done, ?late, ?step, ?bad, ?overwrite, ?overwritten⟩
  case valid =>
    intro s ch r hch hrefresh hgate hlow hhigh
    generalize hlvl : throttleLevel s (getChan s ch).level r = lvl
    generalize hbase : (getChan s ch).trainTemp.getD r = base
    generalize hv : modChan ch (fun c => { c with bad := 0, hotRefresh := decide (85 < r), level := lvl, trainTemp := some base })
      (setTemp ch (ofSigned 8 r) s) = v
    have hdo : doTempRead ch (some r) s = if 10 ≤ (r - base).natAbs then requestRetrain ch 2 v else v := by
      unfold doTempRead
      rw [if_neg (by simp [hrefresh, hgate]; omega)]
      dsimp only
      rw [if_neg (by omega), throttleLevel_setTemp, hbase, hlvl, hv]
    obtain ⟨q, hq⟩ : ∃ q, doTempRead ch (some r) s = onMss (fun m => { m with retrainQ := q }) v := by
      rw [hdo]
      split
      · exact requestRetrain_mss ch 2 v
      · exact ⟨v.mss.retrainQ, rfl⟩
    have e : exec (.tempRead ch (some r)) s = .next (onMss (fun m => { m with retrainQ := q }) v) := by
      rw [← hq]; rfl
    have hbyte : odByte v odMssTemp ch = ofSigned 8 r := by
      rw [← hv]
      exact (odByte_setTemp ..).trans (Nat.mod_eq_of_lt (ofSigned_lt 8 r))
    refine ⟨_, e, hbyte, ?_, fun c hc => ?_, ?_, ?_⟩
    · show getChan v ch = _
      rw [← hv]; exact getChan_mod_same ..
    · show getChan v c = _
      rw [← hv]; exact getChan_mod_other _ _ hc
    · rw [← hv]; rfl
    · rw [← hv]; rfl
  case invalid =>
    intro s ch hch hrefresh hgate
    generalize hn : (getChan s ch).bad + 1 = n
    generalize hv : setTemp ch 0x80 (modChan ch (fun c => { c with bad := n }) s) = v
    have hvch : getChan v ch = { getChan s ch with bad := n } := by rw [← hv]; exact getChan_mod_same ..
    have hvo (c : Nat) (hc : c ≠ ch) : getChan v c = getChan s c := by rw [← hv]; exact getChan_mod_other _ _ hc
    have hbyte : odByte v odMssTemp ch = 0x80 := by rw [← hv]; exact odByte_setTemp ..
    generalize hw : modChan ch (fun c => { c with level := 2, hotRefresh := true }) v = w
    have e : exec (.tempRead ch none) s = .next (if n = 3 then post0 evMssTempLost ch 0 w else v) := by
      show Host.Outcome.next (doTempRead ch none s) = _
      unfold doTempRead
      rw [if_neg (by simp [hrefresh, hgate]; omega)]
      dsimp only
      rw [hn, hv, hw]
    by_cases h3 : n = 3
    · rw [if_pos h3] at e
      have hx := mssBare_post0 evMssTempLost ch 0 w
      have hod : odByte (post0 evMssTempLost ch 0 w) odMssTemp ch = odByte w odMssTemp ch := by
        unfold odByte; rw [odGet_bare (odBare_post0 ..)]
      have htasks := exec_tasks e
      generalize post0 evMssTempLost ch 0 w = x at e hx hod htasks
      have hsame := sameMss_of_bare hx
      have hwch : getChan w ch = { getChan v ch with level := 2, hotRefresh := true } := by rw [← hw]; exact getChan_mod_same ..
      have hwo (c : Nat) (hc : c ≠ ch) : getChan w c = getChan v c := by rw [← hw]; exact getChan_mod_other _ _ hc
      refine ⟨x, e, ?_, ?_, fun _ => ?_, fun c hc => ?_, htasks⟩
      · rw [hod, ← hbyte, ← hw]; rfl
      · rw [hsame.chan, hwch, hvch]
      · rw [hsame.chan, hwch]
        exact ⟨rfl, rfl⟩
      · rw [hsame.chan, hwo c hc, hvo c hc]
    · rw [if_neg h3] at e
      refine ⟨v, e, hbyte, ?_, fun h => absurd h h3, hvo, ?_⟩
      · rw [hvch]
      · rw [← hv]; rfl
  case owner =>
    intro s ch hch hready hdown hmap hq hnone
    show Host.Outcome.next (odTry odMssRetrain .owner .owner ch (retrainWrite ch) s) = _
    rw [odTry_some rfl hready (retrainWrite_owner hch hdown hmap hq hnone)]
    rfl
  case start =>
    intro s r rest hnone hq hover hrefresh hold
    show Host.Outcome.next (doChannelRetrain r.1 hold s) = _
    unfold doChannelRetrain
    rw [hnone, hq]
    dsimp only
    rw [if_pos (by simp [hover, hrefresh])]
    rfl
  case crc =>
    intro s ch hold hch hnone hq hmap hdown hover hrefresh
    generalize hu : onMss (fun m => { m with retraining := some (ch, 4) }) s = u
    generalize hv : odCount odMssCrcRetries 4 (modChan ch (fun c => { c with crc := c.crc + 4 }) u) = v
    have hret : v.mss.retraining = some (ch, 4) := by rw [← hv, ← hu]; rfl
    have hdo : doChannelRetrain ch hold s = v := by
      unfold doChannelRetrain
      rw [hnone, hq]
      dsimp only
      rw [if_pos (by simp [hch, hmap, hdown, hover, hrefresh]), hu]
      unfold crcRetries
      dsimp only
      rw [hv, requestRetrain_busy hret rfl, ite_self]
    have e : exec (.channelRetrain ch hold) s = .next v := congrArg Host.Outcome.next hdo
    refine ⟨v, e, hret, ?_, ?_, fun c hc => ?_, ?_, ?_⟩
    · rw [← hv, ← hu]; exact hq
    · rw [← hv, ← hu]; exact getChan_mod_same ..
    · rw [← hv, ← hu]; exact getChan_mod_other _ _ hc
    · rw [← hv, ← hu]; rfl
    · rw [← hv, ← hu]; rfl
  case done =>
    intro s ch cause hold hret hhold
    have e : exec (.channelRetrain ch hold) s = .next (retrainDone ch cause hold s) := by
      show Host.Outcome.next (doChannelRetrain ch hold s) = _
      unfold doChannelRetrain
      rw [hret]
      dsimp only
      rw [if_pos ⟨rfl, hhold⟩]
    obtain ⟨hnone, hlast, hcrc, hothers⟩ := retrainDone_mss ch cause hold s
    exact ⟨_, e, hnone, hlast, hcrc, hothers, exec_piece .host e⟩
  case late =>
    intro s ch cause hret
    have e : exec .retrainTimeout s = .next (chanDown ch (if cause = 4 then 3 else 2) (onMss (fun m => { m with retraining := none }) s)) := by
      show Host.Outcome.next (doRetrainTimeout s) = _
      unfold doRetrainTimeout
      rw [hret]
    obtain ⟨hnone, hdown, hq⟩ := chanDown_mss ch (if cause = 4 then 3 else 2) (onMss (fun m => { m with retraining := none }) s)
    exact ⟨_, e, hnone, hdown, hq, exec_piece .host e⟩
  case step =>
    intro s a ha huse hheld hdown hgate
    show Host.Outcome.next (doScrubStep a 0 s) = _
    unfold doScrubStep
    rw [if_neg (by simp [ha.symm, hheld, hdown, hgate, huse])]
    rfl
  case bad =>
    intro s a ha huse hheld hdown hgate htags hnew
    generalize hu : onMss (fun m => { m with scrub := (a + 1) % (usable s / 64), atomsRead := m.atomsRead + 1 }) s = u
    have hlost : (atomError (64 * a) 6 true u).2 = true := by
      unfold atomError
      dsimp only
      rw [if_neg (by decide), if_neg (by decide), if_neg (by decide), if_pos (by rw [← hu]; exact htags)]
    have hany : u.mss.badAtoms.any (fun b => b.1 == a) = false := by
      rw [← hu]; simpa using hnew
    have e : exec (.scrubStep a 6) s = .next (onMss (fun m => { m with badAtoms := m.badAtoms ++ [(a, true)] }) (atomError (64 * a) 6 true u).1) := by
      show Host.Outcome.next (doScrubStep a 6 s) = _
      unfold doScrubStep
      rw [if_neg (by simp [ha.symm, hheld, hdown, hgate, huse])]
      dsimp only
      rw [hu, if_pos ⟨hlost, by rw [hany]; rfl⟩]
      rfl
    refine ⟨_, e, ⟨(a, true), List.mem_append_right _ List.mem_cons_self, rfl⟩, ?_, exec_piece .host e⟩
    exact (atomError_mssScrub (64 * a) 6 true u).trans (by rw [← hu]; rfl)
  case overwrite =>
    intro s hdue hrefresh hover
    generalize hg : odGet s odMssGeneration + 1 = g
    generalize hu : usableBytes (activeChans s).length (odGet s odMssDensity) (odGet s odMssTags == 1 || confidential s) = u
    generalize hv : odSet odMssUsable u (odSet odMssGeneration g s) = v
    have hgen : odGet v odMssGeneration = g := by
      rw [← hv, odGet_set_other _ _ (by decide), odGet_set_same]
    have hvs : v.mem = s.mem ∧ v.cfe = s.cfe := by rw [← hv]; exact ⟨rfl, rfl⟩
    have e : exec .overwrite s = .next (doOverwrite s) := rfl
    unfold doOverwrite at e
    rw [if_pos ⟨hdue, by simp [hrefresh], by simp [hover]⟩] at e
    dsimp only at e
    rw [hg, hu, hv] at e
    refine ⟨_, e, fun a => rfl, hgen, rfl, rfl, rfl, ?_, hvs.2⟩
    rw [← hvs.1]
    rfl
  case overwritten =>
    intro s us hover
    have e : exec (.mssOverwriteDone us) s = .next (secFinish (overwriteEnd us s)) := by
      show Host.Outcome.next (doMssOverwriteDone us s) = _
      unfold doMssOverwriteDone
      rw [if_pos hover]
    have hfinish (u : State) : mssBare (secFinish u) = mssBare u := by
      have h : Holds (fun t => mssBare t = mssBare u) u := rfl
      show Holds (fun t => mssBare t = mssBare u) _
      simp +contextual (maxDischargeDepth := 99) [keeps_mssBare, h]
    have hend : (overwriteEnd us s).mss.overwriting = false ∧ (overwriteEnd us s).mss.overwriteDue = false := by
      unfold overwriteEnd
      have hsame := sameMss_of_bare (mssBare_post0 evMssOverwriteDone 0 (odGet s odMssGeneration % 2 ^ 64 + (us % 2 ^ 32) <<< 64)
        (onMss (fun m => { m with overwriting := false, overwriteDue := false }) s))
      exact ⟨hsame.overwriting, hsame.overwriteDue⟩
    have hsame := sameMss_of_bare (hfinish (overwriteEnd us s))
    exact ⟨_, e, hsame.overwriting.trans hend.1, hsame.overwriteDue.trans hend.2, exec_piece .host e, exec_tasks e⟩

end Sys2Proof.Machine
end

section
/-! SUPPORT. The beginning of a folio (R354 to R361). -/

namespace Sys2Proof.Machine

/-! ### What a folio's beginning leaves of the Folio and Sync Unit -/

/-- The Folio and Sync Unit without the budgets, the causes and the run of degraded folios. -/
def fsuClock (s : State) : Fsu :=
  { s.fsu with full := [], remaining := [], charged := [], pass := false, cause := 0, causeNext := 0, run := 0 }

theorem keeps_fsuClock (s : State) (p : Part) (h : p ≠ .fsu := by decide) : Stable (fun t => fsuClock t = fsuClock s) p := by
  cases p
  case fsu => exact absurd rfl h
  case host | gddr | scratch | tiles => exact fun f s _ h => h
  case mq => exact fun q f s h => h
  case pw => apply stable_pw <;> exact fun f s h => h
  case po => exact fun t a b s h => h
  case st => apply stable_st <;> first | exact fun f s h => h | exact fun f s _ h => h
  case ev => apply stable_ev <;> first | exact fun f s h => h | exact fun f s _ h => h | exact fun t a b s h => h
  all_goals exact fun f s h => h

theorem fsuClock_eq {s t : State} (h : t.fsu = s.fsu) : fsuClock t = fsuClock s := by unfold fsuClock; rw [h]

theorem fsu_post0 (e : EvKind) (n d : Nat) (s : State) : (post0 e n d s).fsu = s.fsu :=
  post0_holds (P := fun t => t.fsu = s.fsu) (keeps_fsu s _) _ _ _ rfl

theorem fsu_odCount (k n : Nat) (s : State) : (odCount k n s).fsu = s.fsu := by unfold odCount; split <;> rfl

theorem fsuClock_newBudgets (s : State) : fsuClock (newBudgets s) = fsuClock s := by
  unfold newBudgets
  dsimp only
  exact (congrArg (fun f : Fsu => { f with full := [], remaining := [], charged := [], pass := false, cause := 0, causeNext := 0, run := 0 })
    (fsu_odCount odFsuCarry ((carries s).foldl (fun n c => n + c.2) 0) s) :)

theorem fsuClock_enterDegraded (c : Nat) (s : State) : fsuClock (enterDegraded c s) = fsuClock s := by
  unfold enterDegraded
  dsimp only
  split
  · rw [fsuClock_eq (fsu_post0 ..), fsuClock_eq (fsu_odCount ..)]
    rfl
  · rw [fsuClock_eq (fsu_odCount ..)]
    rfl

theorem fsuClock_degrade (c : Nat) (s : State) : fsuClock (degrade c s) = fsuClock s := by
  unfold degrade
  split
  · exact fsuClock_enterDegraded c s
  · rfl

theorem fsuClock_endRun (s : State) : fsuClock (endRun s) = fsuClock s := by
  unfold endRun
  split
  · rfl
  · rw [fsuClock_eq (fsu_post0 ..)]
    rfl

theorem fsuClock_setCauses (s : State) : fsuClock (setCauses s) = fsuClock s := by
  unfold setCauses
  dsimp only
  split
  · exact fsuClock_enterDegraded ..
  · split
    · exact fsuClock_endRun _
    · rfl

/-- The Folio and Sync Unit as a folio begins: the number, the time, and the local timer's run. -/
theorem fsuClock_beginFolio (s : State) : fsuClock (beginFolio s) = { fsuClock s with
    folio := (nextFolio s).1, elapsed := 0, correct := 0, localRun := s.fsu.localRun + 1,
    lastGood := s.fsu.lastGood.map (· - (periodNow s : Int)) } := by
  unfold beginFolio
  dsimp only
  rw [fsuClock_setCauses]
  have hperiod (u : State) : (periodBoundary u).fsu = u.fsu := by unfold periodBoundary; split <;> rfl
  have hstep (a b : Nat) (e : Int) (u : State) : (stepEvent a b e u).fsu = u.fsu := fsu_post0 ..
  have hout (f : Cru → Cru) (u : State) : fsuClock (onCru f u) = fsuClock u := rfl
  rw [hout]
  split
  · rw [fsuClock_eq (hstep ..), fsuClock_eq (hperiod _)]
    rfl
  · rw [fsuClock_eq (hperiod _)]
    rfl

/-- What falls due at the boundary changes nothing of the new folio's clock and no sync counter. -/
theorem fsuClock_folioBegin (s : State) : fsuClock (folioBegin s) = fsuClock (beginFolio s) := by
  have h : Holds (fun t => fsuClock t = fsuClock (beginFolio s)) (beginFolio s) := rfl
  have hbudgets (u : State) (hu : Holds (fun t => fsuClock t = fsuClock (beginFolio s)) u) :
      Holds (fun t => fsuClock t = fsuClock (beginFolio s)) (newBudgets u) := (fsuClock_newBudgets u).trans hu
  show Holds (fun t => fsuClock t = fsuClock (beginFolio s)) _
  unfold folioBegin
  simp +contextual (maxDischargeDepth := 99) [keeps_fsuClock, hbudgets, h]

theorem fsu_settle (f : State → State) (s : State) : (settle f s).fsu = (f s).fsu := by
  have h : Holds (fun t => t.fsu = (f s).fsu) (f s) := rfl
  show Holds (fun t => t.fsu = (f s).fsu) _
  unfold settle
  simp +contextual (maxDischargeDepth := 99) [keeps_fsu, h]

/-- The Folio and Sync Unit once the next folio has begun. -/
theorem fsuClock_settled (s : State) : fsuClock (settle folioBegin s) = { fsuClock s with
    folio := (nextFolio s).1, elapsed := 0, correct := 0, localRun := s.fsu.localRun + 1,
    lastGood := s.fsu.lastGood.map (· - (periodNow s : Int)) } := by
  rw [fsuClock_eq (fsu_settle ..), fsuClock_folioBegin, fsuClock_beginFolio]

/-! ### Markers -/

theorem endRun_od (s : State) : odBare (endRun s) = odBare s := by
  unfold endRun
  split
  · rfl
  · exact odBare_post0 ..

/-- The counts of degraded folios are all that a cause changes of the entries. -/
theorem odGet_degrade {k : Nat} (c : Nat) (s : State) (h : k ≠ odFsuDegradedFolios) (h1 : k ≠ odMscErrCounts)
    (h2 : k ≠ odHptRetainStalls) : odGet (degrade c s) k = odGet s k := by
  unfold degrade
  split
  · unfold enterDegraded
    dsimp only
    split
    · rw [odGet_bare (odBare_post0 ..) h1 h2, odGet_count_other _ _ h]
      rfl
    · rw [odGet_count_other _ _ h]
      rfl
  · rfl

/-- A member follows a higher term that it sees. -/
theorem seeTerm_member (src term : Nat) {s : State} (hreg : s.sfp.registrar = false) : seeTerm src term s = s ∨
    seeTerm src term s = odSet odSfpRegistrar src (odSet odSfpTerm term s) := by
  have hsfp : onSfp (fun f => { f with registrar := false }) s = s :=
    (congrArg (fun b => onSfp (fun f => { f with registrar := b }) s) hreg.symm :)
  unfold seeTerm
  split
  · dsimp only
    rw [hreg, if_neg (by decide), hsfp]
    exact .inr rfl
  · exact .inl rfl

/-- The folio after a marker that a member aligns to (log 62). -/
theorem alignTo_clock (m : Nat) (e : Int) (s : State) : folio (alignTo m e s) = max (folio s) (mkFolio m) ∧
    (alignTo m e s).fsu.counters = s.fsu.counters := by
  have hby : fsuClock (alignBy e s) = { fsuClock s with correct := -e } := rfl
  unfold alignTo
  dsimp only
  split
  · rename_i hsame
    have hkeep : fsuClock (if (alignBy e s).fsu.cause = 0 then endRun (alignBy e s) else alignBy e s) = fsuClock (alignBy e s) := by
      split
      · exact fsuClock_endRun _
      · rfl
    rw [hby] at hkeep
    generalize (if (alignBy e s).fsu.cause = 0 then endRun (alignBy e s) else alignBy e s) = t at hkeep
    refine ⟨?_, (congrArg Fsu.counters hkeep :)⟩
    rw [hsame.2, max_self]
    exact (congrArg Fsu.folio hkeep :)
  · generalize hn : max (folio s) (mkFolio m) = n
    have hkeep := fsuClock_degrade dcStep (onFsu (fun f => { f with folio := n }) (alignBy e s))
    generalize degrade dcStep (onFsu (fun f => { f with folio := n }) (alignBy e s)) = u at hkeep
    have hfsu : (stepEvent (folio s) n e u).fsu = u.fsu := fsu_post0 ..
    rw [show folio (stepEvent (folio s) n e u) = u.fsu.folio from congrArg Fsu.folio hfsu, hfsu]
    exact ⟨(congrArg Fsu.folio hkeep :), (congrArg Fsu.counters hkeep :)⟩

theorem odGet_alignTo {k : Nat} (m : Nat) (e : Int) (s : State) (hk : k ≠ odFsuDegradedFolios) (h1 : k ≠ odMscErrCounts)
    (h2 : k ≠ odHptRetainStalls) : odGet (alignTo m e s) k = odGet (alignBy e s) k := by
  unfold alignTo
  dsimp only
  split
  · split
    · exact odGet_bare (endRun_od _) h1 h2
    · rfl
  · unfold stepEvent
    rw [odGet_bare (odBare_post0 ..) h1 h2, odGet_degrade _ _ hk h1 h2]
    rfl

theorem sfp_alignTo (m : Nat) (e : Int) (s : State) : (alignTo m e s).sfp = s.sfp :=
  alignTo_holds (P := fun t => t.sfp = s.sfp) (keeps_sfp s _) (keeps_sfp s _) (keeps_sfp s _) _ _ rfl

/-- What a member keeps of the marker that it accepts. -/
theorem acceptMarker_accepts (port m : Nat) (e : Int) (s : State) :
    folio (acceptMarker port m e s) = max (folio s) (mkFolio m) ∧ (acceptMarker port m e s).sfp.marked = true ∧
    (acceptMarker port m e s).sfp.markFolio = mkFolio m ∧
    (400 ≤ mkPeriod m → mkPeriod m ≤ 25000 → odGet (acceptMarker port m e s) odFsuPeriodNow = mkPeriod m) ∧
    odGet (acceptMarker port m e s) odFsuAlignErr = ofSigned 32 e ∧ (acceptMarker port m e s).fsu.counters = s.fsu.counters := by
  unfold acceptMarker
  dsimp only
  generalize hu : onSfp (fun f => { f with marked := true, markedNow := true, markFolio := mkFolio m, markRef := f.refPort == some port })
    (hear (mkRegistrar m) s) = u
  generalize hv : (if 400 ≤ mkPeriod m ∧ mkPeriod m ≤ 25000 then odSet odFsuPeriodNow (mkPeriod m) u else u) = v
  have hvu : v.fsu = u.fsu ∧ v.sfp = u.sfp := by rw [← hv]; split <;> exact ⟨rfl, rfl⟩
  have hus : u.fsu = s.fsu ∧ u.sfp.marked = true ∧ u.sfp.markFolio = mkFolio m := by rw [← hu]; exact ⟨rfl, rfl, rfl⟩
  obtain ⟨hfolio, hcounters⟩ := alignTo_clock m e v
  refine ⟨?_, ?_, ?_, fun hlow hhigh => ?_, ?_, ?_⟩
  · rw [hfolio]; unfold folio; rw [hvu.1, hus.1]
  · rw [sfp_alignTo, hvu.2, hus.2.1]
  · rw [sfp_alignTo, hvu.2, hus.2.2]
  · rw [odGet_alignTo _ _ _ (by decide) (by decide) (by decide), ← hv, if_pos ⟨hlow, hhigh⟩]
    exact (odGet_set_other _ _ (by decide)).trans (odGet_set_same ..)
  · rw [odGet_alignTo _ _ _ (by decide) (by decide) (by decide)]
    exact odGet_set_same ..
  · rw [hcounters, hvu.1, hus.1]

theorem markerFrom_iff (s : State) (m : Nat) : markerFrom s m = true ↔ odGet s odSfpTerm ≤ mkTerm m ∧
    mkRegistrar m ∈ succession s ∧ mkColl m = s.sfp.collId ∧ s.sfp.collId ≠ 0 ∧ s.sfp.registrar = false := by
  unfold markerFrom termOk
  simp [and_assoc]

/-! ### The window boundary (R116, R288) -/

theorem odGet_switchArb (s : State) : odGet (switchArb s) odGauArbState = arbMode s := by
  unfold switchArb
  dsimp only
  split
  · assumption
  · rw [odGet_bare (odBare_post0 ..), odGet_set_same]

theorem odGet_throttle {k : Nat} (hk : k ≠ odMssThrottleState) (h1 : k ≠ odMscErrCounts) (h2 : k ≠ odHptRetainStalls) (v n d : Nat)
    (s : State) : odGet (post0 evMssThrottle n d (odSet odMssThrottleState v s)) k = odGet s k := by
  rw [odGet_bare (odBare_post0 ..) h1 h2, odGet_set_other _ _ hk]

theorem odGet_applyThrottle {k : Nat} {s : State} (hk : k ≠ odMssThrottleState) (h1 : k ≠ odMscErrCounts)
    (h2 : k ≠ odHptRetainStalls) : odGet (applyThrottle s) k = odGet s k := by
  unfold applyThrottle
  refine forEach_quiet (g := fun t => odGet t k) (fun ch u => ?_) _ s
  dsimp only
  split
  · rfl
  · exact odGet_throttle hk h1 h2 ..

/-! ### The statement -/

/-- Settles O28: the clock of the folio that begins by `fsuClock_settled`, whatever else falls due with it. -/
theorem foliosBegin : Obligations.FoliosBegin := by
  unfold Obligations.FoliosBegin
  refine ⟨?boundary, ?edge, ?early, ?missed, ?none, ?marker, ?old, ?window⟩
  case boundary =>
    intro s hruns htick
    have e : exec .folioBoundary s = .next (settle folioBegin s) := by
      show Host.Outcome.next (whenS (folioRuns s && !tickInUse s) (settle folioBegin) s) = _
      rw [whenS, if_pos (by simp [hruns, htick])]
    have hclock := fsuClock_settled s
    refine ⟨_, e, (congrArg Fsu.folio hclock : folio _ = (nextFolio s).1).trans ?_, (congrArg Fsu.elapsed hclock :),
      (congrArg Fsu.counters hclock :), (congrArg Fsu.updates hclock :), exec_piece .host e⟩
    unfold nextFolio
    by_cases hstep : s.sfp.registrar = true ∧ s.sfp.collId ≠ 0 ∧ folio s ≤ s.sfp.reported
    · rw [if_pos (by simpa [and_assoc] using hstep), if_pos hstep]
    · rw [if_neg (by simpa [and_assoc] using hstep), if_neg hstep]
  case edge =>
    intro s n hruns htick hlow hhigh
    have hown : startsOwn s = true ∧ odGet s odFsuTickSrc = 1 := by
      simp only [tickInUse, Bool.and_eq_true, beq_iff_eq] at htick
      exact htick.1
    generalize hu : onFsu (fun f => { f with missed := 0 }) (timePassed n s) = u
    have e : exec (.jFolioInEdge n) s = .next (onFsu (fun f => { f with edgeFolio := f.folio, lastGood := none, good := 0 })
        (settle folioBegin u)) := by
      show Host.Outcome.next (doJFolioInEdge n s) = _
      have hperiod : periodNow (timePassed n s) = periodNow s := rfl
      have hin : tickInUse (timePassed n s) = true := htick
      unfold doJFolioInEdge
      rw [if_neg (by simp [hruns, hown.1, hown.2])]
      unfold edgeAt
      rw [if_neg (by simp [hin]), hperiod, if_neg (by omega), if_pos hhigh]
      unfold tickEdge
      rw [hu]
    have hclock := fsuClock_settled u
    have hfolio : folio (settle folioBegin u) = (nextFolio s).1 := by
      have hnext : (nextFolio u).1 = (nextFolio s).1 := by rw [← hu]; rfl
      rw [← hnext]
      exact (congrArg Fsu.folio hclock :)
    refine ⟨_, e, hfolio, hfolio, ?_, (congrArg Fsu.elapsed hclock :), ?_, exec_piece .host e⟩
    · rw [← hu] at hclock ⊢
      exact (congrArg Fsu.missed hclock :)
    · rw [← hu] at hclock ⊢
      exact (congrArg Fsu.counters hclock :)
  case early =>
    intro s n hruns htick hearly
    have hown : startsOwn s = true ∧ odGet s odFsuTickSrc = 1 := by
      simp only [tickInUse, Bool.and_eq_true, beq_iff_eq] at htick
      exact htick.1
    show Host.Outcome.next (doJFolioInEdge n s) = _
    have hperiod : periodNow (timePassed n s) = periodNow s := rfl
    have hin : tickInUse (timePassed n s) = true := htick
    unfold doJFolioInEdge
    rw [if_neg (by simp [hruns, hown.1, hown.2])]
    unfold edgeAt
    rw [if_neg (by simp [hin]), hperiod, if_pos hearly]
  case missed =>
    intro s hruns htick
    generalize hu : onFsu (fun f => { f with missed := f.missed + 1, good := 0, lastGood := none, causeNext := f.causeNext ||| dcTick })
      (odCount odFsuTickMissed 1 s) = u
    have e : exec .tickMissed s = .next (if (settle folioBegin u).fsu.missed = 2 then
        post0 evFsuTickLost 0 ((settle folioBegin u).fsu.edgeFolio % 2 ^ 48) (settle folioBegin u) else settle folioBegin u) := by
      show Host.Outcome.next (doTickMissed s) = _
      unfold doTickMissed
      rw [if_neg (by simp [hruns, htick])]
      dsimp only
      rw [hu]
    have hclock := fsuClock_settled u
    have hunext : (nextFolio u).1 = (nextFolio s).1 := by rw [← hu]; rfl
    have humissed : u.fsu.missed = s.fsu.missed + 1 := by rw [← hu]; rfl
    have hucounters : u.fsu.counters = s.fsu.counters := by rw [← hu]; rfl
    have hhost := exec_piece .host e
    generalize (settle folioBegin u) = v at e hclock hhost
    have hkeep : (if v.fsu.missed = 2 then post0 evFsuTickLost 0 (v.fsu.edgeFolio % 2 ^ 48) v else v).fsu = v.fsu := by
      split
      · exact fsu_post0 ..
      · rfl
    generalize (if v.fsu.missed = 2 then post0 evFsuTickLost 0 (v.fsu.edgeFolio % 2 ^ 48) v else v) = w at e hkeep hhost
    refine ⟨w, e, ?_, ?_, ?_, ?_, hhost⟩
    · unfold folio
      rw [hkeep, ← hunext]
      exact (congrArg Fsu.folio hclock :)
    · rw [hkeep, ← humissed]
      exact (congrArg Fsu.missed hclock :)
    · rw [hkeep]
      exact (congrArg Fsu.elapsed hclock :)
    · rw [hkeep, ← hucounters]
      exact (congrArg Fsu.counters hclock :)
  case none =>
    intro s hruns hown hmarked
    generalize hu : timePassed (periodNow s / 2) s = u
    have e : exec .noMarker s = .next (degrade dcNoMarker u) := by
      show Host.Outcome.next (whenS (folioRuns s && !startsOwn s && !s.sfp.markedNow) _ s) = _
      rw [whenS, if_pos (by simp [hruns, hown, hmarked]), hu]
    have hclock := fsuClock_degrade dcNoMarker u
    have hcause : (degrade dcNoMarker u).fsu.cause = u.fsu.cause ||| 1 := by
      unfold degrade
      split
      · rename_i hzero
        rw [hzero]
        unfold enterDegraded
        dsimp only
        split
        · rw [fsu_post0, fsu_odCount]; rfl
        · rw [fsu_odCount]; rfl
      · rfl
    refine ⟨_, e, ?_, ?_, ?_, exec_tasks e, exec_piece .host e⟩
    · rw [hcause, ← hu]; rfl
    · rw [← hu] at hclock ⊢
      exact (congrArg Fsu.folio hclock :)
    · rw [← hu] at hclock ⊢
      exact (congrArg Fsu.counters hclock :)
  case marker =>
    intro s port w e hup hruns hfrom hnew
    generalize hm : w.toNat = m at hfrom hnew ⊢
    obtain ⟨hterm, hreg, hcoll, hin, hmember⟩ := (markerFrom_iff s m).mp hfrom
    generalize hu : seeTerm (mkRegistrar m) (mkTerm m) s = u
    have hus : u.fsu = s.fsu ∧ u.sfp = s.sfp ∧ markerFrom u m = true := by
      rw [← hu]
      rcases seeTerm_member (mkRegistrar m) (mkTerm m) hmember with h | h <;> rw [h]
      · exact ⟨rfl, rfl, hfrom⟩
      · have hsucc : succession (odSet odSfpRegistrar (mkRegistrar m) (odSet odSfpTerm (mkTerm m) s)) = succession s := by
          unfold succession
          rw [odGet_set_other _ _ (by decide), odGet_set_other _ _ (by decide)]
        refine ⟨rfl, rfl, (markerFrom_iff _ m).mpr ⟨?_, hsucc ▸ hreg, hcoll, hin, hmember⟩⟩
        rw [odGet_set_other _ _ (by decide), odGet_set_same]
    generalize hv : renominate (modPort port (fun p => { p with hops := some (mkHops m) }) u) = v
    have hvfsu : v.fsu = u.fsu := by
      rw [← hv]
      exact renominate_holds (P := fun t => t.fsu = u.fsu) (keeps_fsu u _) (keeps_fsu u _) rfl
    have hunew : markerNew u m = true := by
      unfold markerNew folio at *
      rw [hus.1, hus.2.1]
      exact hnew
    have hsees : (if (succession s).contains (mkRegistrar m) = true ∧ mkColl m = s.sfp.collId then
        seeTerm (mkRegistrar m) (mkTerm m) s else s) = u := by
      rw [if_pos ⟨by simpa using hreg, hcoll⟩, hu]
    have ex : exec (.marker port w e) s = .next (acceptMarker port m e v) := by
      show Host.Outcome.next (doMarker port w e s) = _
      unfold doMarker
      rw [if_neg (by simp [hup, hruns])]
      dsimp only
      rw [hm, hsees, if_neg (by simp [hus.2.2]), if_pos hunew, hv]
    obtain ⟨hfolio, hmarked, hmark, hperiod, herr, hcounters⟩ := acceptMarker_accepts port m e v
    refine ⟨_, ex, ?_, hmarked, hmark, hperiod, herr, ?_, exec_tasks ex, exec_piece .host ex⟩
    · rw [hfolio]; unfold folio; rw [hvfsu, hus.1]
    · rw [hcounters, hvfsu, hus.1]
  case old =>
    intro s port w e hup hruns hfrom hnew hmarked hterm
    have hsee : seeTerm (mkRegistrar w.toNat) (mkTerm w.toNat) s = s := by
      unfold seeTerm
      rw [if_neg (fun h => by omega)]
    show Host.Outcome.next (doMarker port w e s) = _
    unfold doMarker
    rw [if_neg (by simp [hup, hruns])]
    dsimp only
    rw [hsee, ite_self, if_neg (by simp [hfrom]), if_neg (by simp [hnew]), if_neg (by simp [hmarked])]
  case window =>
    intro s hruns
    have e : exec .arbWindowBoundary s = .next (applyThrottle (switchArb (countThrottled s))) := by
      show Host.Outcome.next (whenS (folioRuns s) doArbWindowBoundary s) = _
      rw [whenS, if_pos hruns]
      rfl
    have hcount : arbMode (countThrottled s) = arbMode s ∧ (countThrottled s).fsu = s.fsu := by
      unfold countThrottled
      split <;> exact ⟨rfl, rfl⟩
    refine ⟨_, e, ?_, ?_, exec_tasks e, exec_piece .host e⟩
    · rw [odGet_applyThrottle (by decide) (by decide) (by decide), ← hcount.1]
      exact odGet_switchArb _
    · have h : Holds (fun t => t.fsu = s.fsu) s := rfl
      show Holds (fun t => t.fsu = s.fsu) _
      simp +contextual (maxDischargeDepth := 99) [keeps_fsu, h]

end Sys2Proof.Machine
end

section
/-! SUPPORT. The host's register writes (R453 to R458). -/

namespace Sys2Proof.Machine

/-! ### The tile window -/

theorem windowTile_some {off pod kind tile b : Nat} (h : windowTile off = some (pod, kind, tile, b)) :
    pod < 16 ∧ kind < 2 ∧ tile < 1024 ∧ b < 1024 := by
  unfold windowTile at h
  split at h
  · dsimp only at h
    split at h
    · simp only [Option.some.injEq, Prod.mk.injEq] at h
      omega
    · cases h
  · cases h

theorem awSpace_tileWord {pod kind tile b : Nat} (hpod : pod < 16) (hkind : kind < 2) (htile : tile < 1024) (hb : b < 1024) :
    awSpace (tileWord pod kind tile + b) = 3 := by
  unfold awSpace bitsOf tileWord
  simp only [Nat.shiftLeft_eq, Nat.shiftRight_eq_div_pow]
  omega

/-- A write of the tile window that its tile, its clock and the mode allow. -/
theorem tileWindowWrite_lands {off width v pod kind tile b : Nat} {s : State} (hwidth : width = 4 ∨ width = 8) (hal : off % width = 0)
    (hup : windowUp s = true) (hopen : confidential s = false) (htile : windowTile off = some (pod, kind, tile, b))
    (hgate : gated s (tileSub kind) = false) : exec (.tileWindowWrite off width v) s = .next (if windowOpen s pod kind tile then
      storeAw (tileWord pod kind tile + b) (leBytes width v) none s else odCount odPluWindowDrops 1 s) := by
  show Host.Outcome.next (doTileWindowWrite off width v s) = _
  unfold doTileWindowWrite
  rw [if_pos ⟨hwidth, hal, hup, by simp [hopen]⟩, htile]
  dsimp only
  rw [if_neg (by simp [hgate])]

/-! ### The page of a queue -/

/-- A write of the ring base in the page of a queue. -/
theorem mmioWrite_ringBase {q v : Nat} {s : State} (hq : q < 512) (hon : regOn s 0 = true) (hoff : (getQ s q).state = .disabled) :
    exec (.mmioRegisterWrite (0x100000 + 0x1000 * q + 0x48) 8 v) s =
      .next (modQ q (fun r => { r with ringBase := setBits (v % 2 ^ 64) 59 57 0 }) s) := by
  have hkeep : setBits (v % 2 ^ 64) 59 57 0 = awKeep (v % 2 ^ 64) := by unfold awKeep; rw [Nat.mod_mod]
  rw [hkeep]
  obtain ⟨hup, hgate⟩ : windowUp s = true ∧ gated s 0 = false := by simpa [regOn] using hon
  have hpage : qPageWrite q 0x48 (v % 2 ^ 64) s = modQ q (fun r => { r with ringBase := awKeep (v % 2 ^ 64) }) s := by
    unfold qPageWrite
    rw [if_neg (by decide), if_neg (by decide), if_neg (by decide), if_pos rfl, if_pos hoff]
  rw [← hpage]
  have hqueue : (0x100000 + 0x1000 * q + 0x48 - 0x100000) / 0x1000 = q := by omega
  have hplace : (0x100000 + 0x1000 * q + 0x48) % 0x1000 = 0x48 := by omega
  generalize hw : v % 2 ^ 64 = w
  show Host.Outcome.next (doMmioRegisterWrite (0x100000 + 0x1000 * q + 0x48) 8 v s) = _
  unfold doMmioRegisterWrite
  rw [if_neg (by simp [hup]), if_neg (by omega), if_neg (by omega), if_neg (by omega), if_neg (by omega), if_neg (by omega),
    if_neg (by omega), if_pos ⟨by omega, by simp [hgate]⟩, hqueue, hplace, ← hw]

/-- Settles O32: the engine reset of `enterReset_cleared`, and each write by the checks that it passes. -/
theorem hostRegisters : Obligations.HostRegisters := by
  unfold Obligations.HostRegisters
  refine ⟨?reset, ?key, ?clear, ?width, ?base, ?lands, ?drops⟩
  case reset =>
    intro s key hup hkey hmode hpackage hrst hheld
    have e : exec (.engReset key) s = .next (leaveReset (enterReset s)) := by
      show Host.Outcome.next (doEngReset key s) = _
      unfold doEngReset
      rw [if_pos ⟨hup, hkey, by simp [hmode], by simp [hpackage], hrst⟩]
    obtain ⟨hcleared, hrun, -⟩ := enterReset_cleared hheld
    refine ⟨_, e, ?_⟩
    unfold leaveReset
    split
    · exact ⟨.inr rfl, hcleared⟩
    · exact ⟨.inl hrun, hcleared⟩
  case key =>
    intro s key hkey
    show Host.Outcome.next (doEngReset key s) = _
    unfold doEngReset
    rw [if_neg (fun h => hkey h.2.1)]
  case clear =>
    intro s hup hlevel hcause
    show Host.Outcome.next (doErrClear s) = _
    unfold doErrClear
    rw [if_pos ⟨hup, hlevel, hcause⟩]
    rfl
  case width =>
    intro s off width v hoff hbad
    show Host.Outcome.next (doMmioRegisterWrite off width v s) = _
    unfold doMmioRegisterWrite
    dsimp only
    by_cases hup : windowUp s = true
    · rw [if_neg (by simp [hup]), if_neg (show ¬ (0x400000 ≤ off ∧ off < 0x800000) by omega), if_pos hbad]
    · rw [if_pos (by simpa using hup)]
  case base =>
    intro s q v hq hon hoff
    have e := mmioWrite_ringBase (v := v) hq hon hoff
    generalize setBits (v % 2 ^ 64) 59 57 0 = w at e ⊢
    refine ⟨_, e, ?_, ?_⟩
    · rw [getQ_mod_same]
    · exact ⟨fun p hp => getQ_mod_other _ _ hp, rfl, rfl⟩
  case lands =>
    intro s off width v pod kind tile b hwidth hal hup hopen htile hgate hfree
    have e := tileWindowWrite_lands (v := v) hwidth hal hup hopen htile hgate
    rw [if_pos hfree] at e
    obtain ⟨hpod, hkind, hnum, hb⟩ := windowTile_some htile
    rw [storeAw_tiles _ _ _ (awSpace_tileWord hpod hkind hnum hb)] at e
    exact ⟨_, e, stored_memStore .., rfl, rfl⟩
  case drops =>
    intro s off width v pod kind tile b hwidth hal hup hopen htile hgate hheld
    have e := tileWindowWrite_lands (v := v) hwidth hal hup hopen htile hgate
    rwa [if_neg (by simp [hheld])] at e

end Sys2Proof.Machine
end

section
/-! SUPPORT. Partitions and pins of Stacks (R260 to R277). -/

namespace Sys2Proof.Machine

/-! ### Partitions -/

theorem partVal_set_same (k v : Nat) (s : State) : partVal (odSet (odStkPart + k) v s) k = v := odGet_set_same ..

theorem partVal_set_other {k j : Nat} (v : Nat) (s : State) (h : j ≠ k) : partVal (odSet (odStkPart + k) v s) j = partVal s j :=
  odGet_set_other _ _ (by omega)

theorem partRefused_lt {s : State} {k v : Nat} (h : partRefused s k v = false) : k < 8 := by
  unfold partRefused at h
  simp only [Bool.or_eq_false_iff, decide_eq_false_iff_not] at h
  omega

/-- The partitions are not among the entries that an event changes. -/
theorem partVal_bare {s t : State} {k : Nat} (hk : k < 8) (h : odBare t = odBare s) : partVal t k = partVal s k :=
  odGet_bare h (by unfold odStkPart odMscErrCounts; omega) (by unfold odStkPart odHptRetainStalls; omega)

theorem odBare_pinShortAll (s : State) : odBare (pinShortAll s) = odBare s := by
  have h : Holds (fun t => odBare t = odBare s) s := rfl
  show Holds (fun t => odBare t = odBare s) _
  simp +contextual (maxDischargeDepth := 99) [keeps_odBare, h]

/-- Disabling a partition clears INV_DONE. -/
theorem partVal_partDisable {k : Nat} (hk : k < 8) (s : State) : partVal (partDisable k s) k = setBit (partVal s k) 33 false := by
  unfold partDisable
  dsimp only
  have hset (u : State) : partVal (odSet (odStkPart + k) (setBit (partVal s k) 33 false) u) k = setBit (partVal s k) 33 false :=
    partVal_set_same ..
  generalize hv : odSet (odStkPart + k) (setBit (partVal s k) 33 false)
    (onStk (fun x => { x with lastWays := tabPut k (partVal s k % 65536) x.lastWays }) s) = v
  have hval : partVal v k = setBit (partVal s k) 33 false := by rw [← hv]; exact hset _
  split
  · exact hval
  · split
    · rw [partVal_bare hk (odBare_pinShortAll _)]
      exact hval
    · split
      · unfold dropReplicas partVal
        rw [odGet_set_other _ _ (by unfold odStkPart odCatReplicas; omega)]
        exact hval
      · exact hval

theorem partVal_partEnable (k j : Nat) (s : State) : partVal (partEnable k s) j = partVal s j := by
  unfold partEnable
  dsimp only
  split <;> rfl

theorem partEnable_cfe (k : Nat) (s : State) : (partEnable k s).cfe = s.cfe ∧ (partEnable k s).mem = s.mem := by
  unfold partEnable
  dsimp only
  split <;> exact ⟨rfl, rfl⟩

/-- A write that is allowed, by the change of ENABLE and by INVALIDATE. -/
theorem partWrite_some {s : State} {k v : Nat} (h : partRefused s k v = false) : partWrite k v s = some (
    (if bitOf v 17 then startInvalidate k else id) ((if partOn v && !partOn (partVal s k) then partEnable k else id)
      (odSet (odStkPart + k) (partFields v +
        (bitsOf (partVal ((if partOn (partVal s k) && !partOn v then partDisable k else id) s) k) 33 32) <<< 32)
        ((if partOn (partVal s k) && !partOn v then partDisable k else id) s)))) := by
  unfold partWrite
  rw [if_neg (by simp [h])]
  dsimp only
  congr 1
  split <;> split <;> split <;> rfl

/-- The fields of a write hold ENABLE. -/
theorem partOn_fields (v : Nat) : partOn (partFields v + 2 ^ 17) = partOn v := by
  unfold partOn bitOf partFields bitsOf
  simp only [Nat.shiftLeft_eq, Nat.shiftRight_eq_div_pow]
  congr 1
  omega

theorem startInvalidate_busy (k : Nat) (s : State) : bitOf (partVal (startInvalidate k s) k) 32 = true := by
  unfold startInvalidate
  dsimp only
  rw [partVal_set_same]
  exact bitOf_setBit_same ..

theorem startInvalidate_stk (k : Nat) (s : State) : (startInvalidate k s).stk = { s.stk with sweeps := tabPut k 0 s.stk.sweeps } := rfl

theorem startInvalidate_pods (k : Nat) (s : State) : (startInvalidate k s).pods = s.pods := rfl

theorem startInvalidate_cfe (k : Nat) (s : State) : (startInvalidate k s).cfe = s.cfe := rfl

theorem startInvalidate_mem (k : Nat) (s : State) : (startInvalidate k s).mem = s.mem := rfl

/-! An answer changes nothing but the answer. -/

theorem partVal_answer (c k : Nat) (s : State) : partVal (odAnswer c s) k = partVal s k := rfl

theorem odAnswer_stk (c : Nat) (s : State) : (odAnswer c s).stk = s.stk := rfl

theorem odAnswer_pods (c : Nat) (s : State) : (odAnswer c s).pods = s.pods := rfl

theorem odAnswer_status (c : Nat) (s : State) : (odAnswer c s).out.status = c := rfl

theorem odAnswer_cfe (c : Nat) (s : State) : (odAnswer c s).cfe = s.cfe := rfl

theorem odAnswer_mem (c : Nat) (s : State) : (odAnswer c s).mem = s.mem := rfl

/-- A write with INVALIDATE starts the sweep of its partition and changes nothing else. -/
theorem startInvalidate_starts (k w : Nat) (s : State) :
    bitOf (partVal (odAnswer osOk (startInvalidate k (odSet (odStkPart + k) w s))) k) 32 = true ∧
    (odAnswer osOk (startInvalidate k (odSet (odStkPart + k) w s))).stk = { s.stk with sweeps := tabPut k 0 s.stk.sweeps } ∧
    (odAnswer osOk (startInvalidate k (odSet (odStkPart + k) w s))).pods = s.pods ∧
    (odAnswer osOk (startInvalidate k (odSet (odStkPart + k) w s))).out.status = osOk ∧
    (odAnswer osOk (startInvalidate k (odSet (odStkPart + k) w s))).cfe = s.cfe ∧
    (odAnswer osOk (startInvalidate k (odSet (odStkPart + k) w s))).mem = s.mem := by
  rw [partVal_answer, odAnswer_stk, odAnswer_pods, odAnswer_status, odAnswer_cfe, odAnswer_mem]
  exact ⟨startInvalidate_busy .., startInvalidate_stk .., startInvalidate_pods .., rfl, startInvalidate_cfe .., startInvalidate_mem ..⟩

theorem bitOf_fields (v : Nat) : bitOf (partFields v + 2 ^ 17) 17 = true := by
  unfold bitOf partFields bitsOf
  simp only [Nat.shiftLeft_eq, Nat.shiftRight_eq_div_pow, beq_iff_eq]
  omega

/-! ### Pins -/

theorem pinVal_set_other {k : Nat} (j v : Nat) (s : State) (hk : k < 16) (hj : j < 8) : partVal (odSet (odStkPin + k) v s) j = partVal s j :=
  odGet_set_other _ _ (by unfold odStkPart odStkPin; omega)

theorem pinPartOn_set {k : Nat} (v : Nat) (s : State) (hk : k < 16) : pinPartOn (odSet (odStkPin + k) v s) = pinPartOn s := by
  unfold pinPartOn
  rw [Bool.eq_iff_iff]
  simp only [List.any_eq_true, List.mem_range]
  refine exists_congr fun j => and_congr_right fun hj => ?_
  rw [pinVal_set_other j v s hk hj]

theorem pinWrite_enable {s : State} {k n : Nat} (hk : k < 16) (hn : n < 65536) (hoff : pinOn (pinVal s k) = false)
    (hpart : pinPartOn s = true) (hclash : ∀ j < 16, j ≠ k → pinOn (pinVal s j) = true → pinTable (pinVal s j) ≠ n) :
    pinWrite k (n + 2 ^ 16) s = some (odSet (odStkPin + k) (n + 2 ^ 16) s) := by
  have hon : pinOn (n + 2 ^ 16) = true := by
    unfold pinOn bitOf
    simp only [Nat.shiftRight_eq_div_pow, beq_iff_eq]
    omega
  have htable : pinTable (n + 2 ^ 16) = n := by unfold pinTable; omega
  have hlow : bitsOf (n + 2 ^ 16) 31 17 = 0 ∧ bitsOf (n + 2 ^ 16) 95 34 = 0 := by
    unfold bitsOf
    simp only [Nat.shiftRight_eq_div_pow]
    omega
  have hmod : (n + 2 ^ 16) % 2 ^ 17 = n + 2 ^ 16 := by omega
  have hany : (List.range 16).any (fun j => j != k && pinOn (pinVal s j) && pinTable (pinVal s j) == n) = false := by
    rw [List.any_eq_false]
    intro j hj
    have hlt := List.mem_range.mp hj
    simp only [bne_iff_ne, Bool.and_eq_true, beq_iff_eq, ne_eq, not_and, and_imp]
    exact hclash j hlt
  have hsmall : n + 2 ^ 16 < 2 ^ 128 := by omega
  have hpin := pinPartOn_set (n + 2 ^ 16) s hk
  generalize n + 2 ^ 16 = v at hon htable hlow hmod hsmall hpin ⊢
  unfold pinWrite
  dsimp only
  rw [hon, htable, hany, hmod, hpin, hpart, hoff, if_neg]
  · rfl
  · rintro (h | h | h | h | ⟨h, -⟩ | h)
    · omega
    · omega
    · exact h hlow.1
    · exact h hlow.2
    · cases h
    · cases h

theorem pinWrite_disable {s : State} {k : Nat} (hk : k < 16) (hon : pinOn (pinVal s k) = true) : pinWrite k (pinTable (pinVal s k)) s =
    some (onStk (fun x => { x with pinned := x.pinned.filter (fun c => c.k != k), short := x.short.filter (· != k) })
      (odSet (odStkPin + k) (pinTable (pinVal s k)) s)) := by
  have hlt : pinTable (pinVal s k) < 65536 := Nat.mod_lt _ (by decide)
  have htable : pinTable (pinTable (pinVal s k)) = pinTable (pinVal s k) := Nat.mod_mod ..
  unfold pinWrite
  dsimp only
  rw [htable, hon]
  generalize pinTable (pinVal s k) = n at hlt ⊢
  have hoff : pinOn n = false := by
    unfold pinOn bitOf
    simp only [Nat.shiftRight_eq_div_pow, beq_eq_false_iff_ne]
    omega
  have hlow : bitsOf n 31 17 = 0 ∧ bitsOf n 95 34 = 0 := by
    unfold bitsOf
    simp only [Nat.shiftRight_eq_div_pow]
    omega
  have hsmall : ¬ 2 ^ 128 ≤ n := by omega
  have hmod : n % 2 ^ 17 = n := by omega
  rw [hoff, hmod, if_neg]
  · rfl
  · rintro (h | h | h | h | ⟨-, h⟩ | h)
    · omega
    · exact hsmall h
    · exact h hlow.1
    · exact h hlow.2
    · exact h rfl
    · cases h

/-! ### Loads -/

/-- An entry whose shard finds no room is SHORT, and its copies stand as they did. -/
theorem pinShort_short (k idx lines : Nat) (s : State) : k ∈ (pinShort k idx lines s).stk.short ∧
    (pinShort k idx lines s).stk.pinned.map (·.idx) = s.stk.pinned.map (·.idx) := by
  unfold pinShort
  split
  · rename_i h
    exact ⟨by simpa using h, rfl⟩
  · generalize idx % 2 ^ 20 + (lines % 2 ^ 32) <<< 20 = d
    have hstk : stkBare (post0 evStkPinShort (pinTable (pinVal s k)) d (onStk (fun x => { x with short := x.short ++ [k] }) s)) =
      stkBare (onStk (fun x => { x with short := x.short ++ [k] }) s) := quiet_stkBare.event ..
    generalize post0 evStkPinShort (pinTable (pinVal s k)) d (onStk (fun x => { x with short := x.short ++ [k] }) s) = u at hstk
    have hshort : u.stk.short = s.stk.short ++ [k] := (congrArg Stk.short hstk :)
    refine ⟨by rw [hshort]; simp, ?_⟩
    have hidx := congrArg (fun x : Stk => x.pinned.map (·.idx)) hstk
    simpa [stkBare, List.map_map, Function.comp_def] using hidx


theorem forEach_hptRead_rest (asid : State → Nat) (f : Nat × (Nat × Nat) → Nat) (n : State → Nat) (hs : List (Nat × (Nat × Nat)))
    (s : State) : { forEach (fun h t => hptRead (asid t) (f h) (n t) t) hs s with hpt := s.hpt } = s :=
  forEach_quiet (g := fun t => ({ t with hpt := s.hpt } : State)) (f := fun h t => hptRead (asid t) (f h) (n t) t) (fun h t =>
    (congrArg (fun u : State => ({ u with hpt := s.hpt } : State)) (hptRead_rest (asid t) (f h) (n t) t) :)) hs s

/-! ### Invalidates -/

/-- The lines that are left when the sets of a partition's ways are cleared. -/
theorem mem_clearSets (ways lo hi q : Nat) (s : State) (l : Nat × Line) : l ∈ (getSlice (clearSets ways lo hi s) q).lines ↔
    l ∈ (getSlice s q).lines ∧ (bitOf ways (l.1 / 8192) = false ∨ l.1 % 8192 < lo ∨ hi ≤ l.1 % 8192) := by
  unfold getSlice clearSets
  rw [getPod_map (fun p => { p with slice := { p.slice with
    lines := p.slice.lines.filter (fun l => !(bitOf ways (l.1 / 8192) && decide (lo ≤ l.1 % 8192) && decide (l.1 % 8192 < hi))) } }) s q rfl]
  rw [List.mem_filter]
  refine and_congr_right fun _ => ?_
  cases bitOf ways (l.1 / 8192) with
  | false => simp
  | true => simp

/-- Settles O31: a write of a partition by `partWrite_some`, of a pin by `pinWrite_enable` and `pinWrite_disable`, and a sweep by
`mem_clearSets`. -/
theorem stacksPartitions : Obligations.StacksPartitions := by
  unfold Obligations.StacksPartitions
  refine ⟨?set, ?disable, ?refused, ?pin, ?unpin, ?load, ?short, ?invalidate, ?done⟩
  case set =>
    intro s k v r hready hrole hok h17 hoff
    have hwrite := partWrite_some hok
    rw [h17, hoff] at hwrite
    have e : exec (.stkPartWrite k v r) s = .next _ := congrArg Host.Outcome.next (odTry_some hrole hready hwrite)
    generalize hw : partFields v + (bitsOf (partVal s k) 33 32) <<< 32 = w
    generalize hu : odSet (odStkPart + k) w s = u
    have hsame : partVal u k = w := by rw [← hu]; exact partVal_set_same ..
    have hother (j : Nat) (hj : j ≠ k) : partVal u j = partVal s j := by rw [← hu]; exact partVal_set_other _ _ hj
    have hrest : u.cfe = s.cfe ∧ u.mem = s.mem := by rw [← hu]; exact ⟨rfl, rfl⟩
    simp only [Bool.false_and, Bool.not_false, Bool.and_true, Bool.false_eq_true, if_false, id_eq, hw, hu] at e
    refine ⟨_, e, ?_⟩
    by_cases hon : partOn v = true
    · rw [if_pos hon]
      obtain ⟨hcfe, hmem⟩ := partEnable_cfe k u
      exact ⟨(partVal_partEnable k k u).trans hsame, fun j hj => (partVal_partEnable k j u).trans (hother j hj), rfl,
        hcfe.trans hrest.1, hmem.trans hrest.2⟩
    · rw [if_neg hon]
      exact ⟨hsame, hother, rfl, hrest⟩
  case disable =>
    intro s k v r hready hrole hok h17 hon hoff
    have hwrite := partWrite_some hok
    rw [h17, hon, hoff] at hwrite
    have e : exec (.stkPartWrite k v r) s = .next _ := congrArg Host.Outcome.next (odTry_some hrole hready hwrite)
    simp only [Bool.false_and, Bool.not_false, Bool.and_true, Bool.false_eq_true, if_false, if_true, id_eq,
      partVal_partDisable (partRefused_lt hok)] at e
    generalize partFields v + (bitsOf (setBit (partVal s k) 33 false) 33 32) <<< 32 = w at e ⊢
    exact ⟨_, e, partVal_set_same .., rfl, exec_tasks e, exec_piece .host e⟩
  case refused =>
    intro s k v r hready hrole hbad
    exact congrArg Host.Outcome.next (odTry_none hrole hready (if_pos hbad))
  case pin =>
    intro s k n r hk hready hrole hn hoff hpart hclash
    exact congrArg Host.Outcome.next (odTry_some hrole hready (pinWrite_enable hk hn hoff hpart hclash))
  case unpin =>
    intro s k r hk hready hrole hon
    have e : exec (.stkPinWrite k (pinTable (pinVal s k)) r) s = .next _ :=
      congrArg Host.Outcome.next (odTry_some hrole hready (pinWrite_disable hk hon))
    exact ⟨_, e, odGet_set_same .., rfl, rfl, rfl, rfl⟩
  case load =>
    intro s k idx a hk hon hmem hopen hgate hblock hfit hplace
    have hfirst : pinFirst s idx (shardPinLines s idx) = some a := by
      unfold pinFirst
      rw [if_pos hfit]
      rcases hplace with hcopy | ⟨hnone, hfree⟩
      · obtain ⟨c, hc, rfl⟩ := Option.map_eq_some_iff.mp hcopy
        rw [hc]
      · rw [hnone]
        exact hfree
    generalize hu : forEach (fun h t => hptRead (engineAsid t) h.2.2 (rowS (descAt t idx)) t)
      ((pinHomes s idx).filter (fun h => h.2.1 == 1)) s = u
    have hrest : { u with hpt := s.hpt } = s := by
      rw [← hu]
      exact forEach_hptRead_rest engineAsid (fun h => h.2.2) (fun t => rowS (descAt t idx)) _ s
    have e : exec (.pinShardLoad k idx) s = .next (onStk (fun x => { x with pinned := pinOthers s idx ++
        [{ k := k, idx := idx, first := a, lines := shardPinLines s idx, rows := pinRows s idx, homes := pinHomes s idx }] }) u) := by
      show Host.Outcome.next (doPinShardLoad k idx s) = _
      unfold doPinShardLoad
      rw [if_pos ⟨hk, hon, by simpa using hmem, by simp [hopen], by simp [hgate]⟩, if_neg (by simp [hblock])]
      dsimp only
      rw [hfirst]
      dsimp only
      rw [hu]
    refine ⟨_, e, ?_, (congrArg State.cfe hrest :), (congrArg State.mem hrest :)⟩
    have hstk : u.stk = s.stk := (congrArg State.stk hrest :)
    rw [onStk_stk, hstk]
  case short =>
    intro s k idx hk hon hmem hopen hgate hblock hplace
    have hfirst : pinFirst s idx (shardPinLines s idx) = none := by
      unfold pinFirst
      rcases hplace with hfull | ⟨hnone, hfree⟩
      · rw [if_neg (by simp [hfull])]
      · rw [hnone]
        split
        · exact hfree
        · rfl
    have e : exec (.pinShardLoad k idx) s = .next (pinShort k idx (shardPinLines s idx) s) := by
      show Host.Outcome.next (doPinShardLoad k idx s) = _
      unfold doPinShardLoad
      rw [if_pos ⟨hk, hon, by simpa using hmem, by simp [hopen], by simp [hgate]⟩, if_neg (by simp [hblock])]
      dsimp only
      rw [hfirst]
    obtain ⟨hshort, hidx⟩ := pinShort_short k idx (shardPinLines s idx) s
    exact ⟨_, e, hshort, hidx, exec_tasks e, exec_piece .host e⟩
  case invalidate =>
    intro s k r hready hrole hok
    have hx : exec (.invalidate k r) s = .next (odTry (odStkPart + k) .owner r (partFields (partVal s k) + 2 ^ 17)
        (partWrite k (partFields (partVal s k) + 2 ^ 17)) s) := rfl
    have hon := partOn_fields (partVal s k)
    have hbit := bitOf_fields (partVal s k)
    generalize partFields (partVal s k) + 2 ^ 17 = v at hok hx hon hbit
    have hwrite := partWrite_some hok
    rw [hon, hbit, Bool.and_not_self] at hwrite
    simp only [Bool.false_eq_true, if_false, if_true, id_eq] at hwrite
    generalize partFields v + (bitsOf (partVal s k) 33 32) <<< 32 = w at hwrite
    rw [odTry_some hrole hready hwrite] at hx
    exact ⟨_, hx, startInvalidate_starts k w s⟩
  case done =>
    intro s k p hsweep
    have e : exec (.invalidateDone k) s = .next (odSet (odStkPart + k) (setBits (partVal s k) 33 32 2)
        (onStk (fun x => { x with sweeps := tabDrop k x.sweeps }) (clearSets (partVal s k % 65536) p 8192 s))) := by
      show Host.Outcome.next (endSweep k s) = _
      unfold endSweep
      rw [hsweep]
    refine ⟨_, e, partVal_set_same .., ?_, fun j hj => partVal_set_other _ _ hj, fun q l => ?_, rfl⟩
    · exact (tabFind_drop k k s.stk.sweeps).trans (if_pos rfl)
    · have hlt := Nat.mod_lt l.1 (show 8192 > 0 by decide)
      refine (mem_clearSets (partVal s k % 65536) p 8192 q s l).trans (and_congr_right fun _ => or_congr_right ?_)
      omega

end Sys2Proof.Machine
end

section
/-! SUPPORT. The messages of management (R379 to R388, R451). -/

namespace Sys2Proof.Machine

/-! ### Answers -/

/-- An answer of the MSC changes its answer, its mailbox and its counts, and what is drawn. -/
structure responds (session st : Nat) (payload : List Byte) (s t : State) : Prop where
  read : t.out.read = payload
  status : t.out.status = st
  od : t.od = s.od
  cfe : t.cfe = s.cfe
  mem : t.mem = s.mem
  staged : t.msc.staged = s.msc.staged

theorem respond_responds (session st : Nat) (payload : List Byte) (s : State) : responds session st payload s (respond session st payload s) := by
  unfold respond
  dsimp only
  split <;> exact ⟨rfl, rfl, rfl, rfl, rfl, rfl⟩

theorem odKey_some {i j : Nat} (hi : i < 65536) (hj : j < 256) : odKey i j = some (256 * i + j) := if_pos ⟨hi, hj⟩

theorem odKey_of_named {i j : Nat} {e : OdEnt} (h : odNamed i j = some e) : (odKey i j).isNone = false := by
  unfold odNamed at h
  cases hkey : odKey i j with
  | none => rw [hkey] at h; cases h
  | some k => rfl

/-! ### Whole values -/

theorem isSome_sessionOk {s : State} {ss : Nat} {r : Role} (h : sessionOk s ss r = true) : ¬ (!sessionOk s ss r) = true := by simp [h]

/-- A value that the checks of R451 turn away. -/
theorem odWrite_blocked {s : State} {ss i j off st : Nat} {r : Role} {bs : List Byte} {e : OdEnt} (hok : sessionOk s ss r = true)
    (hlen : bs.length ≤ 1024) (hoff : off < 2 ^ 32) (hnamed : odNamed i j = some e)
    (hblock : writeBlock s ss r e true off bs.length (leNat (stagedBytes s e.key ss ++ bs)) = some st) :
    exec (.odWrite ss r i j off bs) s = .next (respond ss st [] s) := by
  have hkey := odKey_of_named hnamed
  have hbad : ¬ (1024 < bs.length ∨ 2 ^ 32 ≤ off ∨ (odKey i j).isNone = true) := by rw [hkey]; simp; omega
  show Host.Outcome.next (doOdWrite ss r i j off bs s) = _
  unfold doOdWrite
  rw [if_neg (isSome_sessionOk hok), if_neg hbad, hnamed]
  dsimp only
  rw [hblock]

/-- A value that passes them is applied. -/
theorem odWrite_applied {s : State} {ss i j : Nat} {r : Role} {bs : List Byte} {e : OdEnt} (hok : sessionOk s ss r = true)
    (hlen : bs.length ≤ 1024) (hnamed : odNamed i j = some e) (hstaged : stagedBytes s e.key ss = [])
    (hblock : writeBlock s ss r e true 0 bs.length (leNat bs) = none) : exec (.odWrite ss r i j 0 bs) s =
      .next (respond ss (odApply e bs (unstage e.key s)).1 [] (odApply e bs (unstage e.key s)).2) := by
  have hkey := odKey_of_named hnamed
  have hbad : ¬ (1024 < bs.length ∨ 2 ^ 32 ≤ 0 ∨ (odKey i j).isNone = true) := by rw [hkey]; simp; omega
  show Host.Outcome.next (doOdWrite ss r i j 0 bs s) = _
  unfold doOdWrite
  rw [if_neg (isSome_sessionOk hok), if_neg hbad, hnamed]
  dsimp only
  rw [hstaged, List.nil_append, hblock]
  rfl

/-- These entries take any value that their type and bounds allow. -/
theorem odApplyNow_scalar {e : OdEnt} {bs : List Byte} {s : State} (hkey : e.key ∈ [odFsuPeriod, odCatHotReads, odMscFlushTime])
    (hlt : leNat bs < 2 ^ (8 * e.size)) (hscalar : scalarOk e (leNat bs) = true) :
    odApplyNow e bs s = (osOk, odSet e.key (leNat bs) s) := by
  have hrule : ruleOk s e.key (leNat bs) = true ∧ storeSide e.key (leNat bs) (odSet e.key (leNat bs) s) = odSet e.key (leNat bs) s := by
    unfold ruleOk storeSide
    simp only [List.mem_cons, List.not_mem_nil, or_false] at hkey
    have hside (k : Nat) (h : k ≠ odFsuOutEnable) : ¬ (k = odFsuOutEnable ∧ leNat bs = 0) := fun hk => h hk.1
    rcases hkey with h | h | h <;> rw [h, if_neg (hside _ (by decide))] <;> simp (disch := decide) only [if_neg, and_self]
  have hstore : odEffect e (leNat bs) s = storeApply e (leNat bs) s := by
    unfold odEffect
    simp only [List.mem_cons, List.not_mem_nil, or_false] at hkey
    dsimp only
    rcases hkey with h | h | h <;> rw [h] <;> simp (disch := decide) only [if_neg]
  have hnow : odApplyNow e bs s = applied s (odEffect e (leNat bs) s) := by
    unfold odApplyNow
    simp only [List.mem_cons, List.not_mem_nil, or_false] at hkey
    dsimp only
    rcases hkey with h | h | h <;> rw [h] <;> simp (disch := decide) only [if_neg]
  rw [hnow, hstore]
  unfold storeApply
  rw [if_pos ⟨hlt, hscalar, hrule.1⟩, hrule.2]
  rfl

/-! ### Staged values -/

theorem stagedBytes_append (s : State) (key ss : Nat) (bs : List Byte) :
    stagedBytes (onMsc (fun m => { m with staged := m.staged ++ [⟨key, ss, bs⟩] }) (unstage key s)) key ss = bs := by
  have hnone : (s.msc.staged.filter (fun x => x.key != key)).find? (fun x => x.key == key && x.session == ss) = none := by
    rw [List.find?_eq_none]
    intro x hx
    have hne := (List.mem_filter.mp hx).2
    simp only [bne_iff_ne, ne_eq] at hne
    simp [hne]
  show (((s.msc.staged.filter (fun x => x.key != key) ++ [(⟨key, ss, bs⟩ : Staged)]).find? (fun x => x.key == key && x.session == ss)).map
    Staged.bytes).getD [] = bs
  rw [List.find?_append, hnone]
  simp

theorem stagedBytes_congr {s t : State} (h : t.msc.staged = s.msc.staged) (key ss : Nat) : stagedBytes t key ss = stagedBytes s key ss := by
  unfold stagedBytes
  rw [h]

theorem leNat_lt (bs : List Byte) : leNat bs < 2 ^ (8 * bs.length) := by
  induction bs with
  | nil => decide
  | cons b bs ih =>
    have hb := b.isLt
    have hpow : 2 ^ (8 * (b :: bs).length) = 256 * 2 ^ (8 * bs.length) := by
      rw [List.length_cons, Nat.mul_add, Nat.pow_add]
      omega
    rw [hpow]
    show b.toNat + 256 * leNat bs < _
    omega

/-! ### Sessions -/

theorem loginFail_sessions (cause peer : Nat) (s : State) : (loginFail cause peer s).msc.sessions = s.msc.sessions := by
  unfold loginFail
  split
  · rfl
  · generalize cause + (peer % 2 ^ 64) <<< 64 = d
    have hbare : mscBare (post0 evMscAuthFail 0 d (onMsc (fun m => { m with authRaised := true }) s)) =
      mscBare (onMsc (fun m => { m with authRaised := true }) s) := mscBare_postEvent ..
    exact (congrArg Msc.sessions hbare :)

/-- Settles O33: each message by the checks that it passes, its answer by `respond_responds`. -/
theorem managementMessages : Obligations.ManagementMessages := by
  unfold Obligations.ManagementMessages
  refine ⟨?read, ?noEntry, ?segment, ?blocked, ?applied, ?discard, ?spdm, ?session, ?noAnchor, ?idle⟩
  case read =>
    intro s ss r i j off len e hok hlen hoff hnamed
    have hkey := odKey_of_named hnamed
    have hbad : ¬ (1024 < len ∨ 2 ^ 32 ≤ off ∨ (odKey i j).isNone = true) := by rw [hkey]; simp; omega
    have ex : exec (.garwaRead ss r i j off len) s = .next (respond ss osOk (odRead s e off len) s) := by
      show Host.Outcome.next (doGarwaRead ss r i j off len s) = _
      unfold doGarwaRead
      rw [if_neg (isSome_sessionOk hok), if_neg hbad, hnamed]
    obtain ⟨hread, hstatus, hod, hcfe, hmem, -⟩ := respond_responds ss osOk (odRead s e off len) s
    exact ⟨_, ex, hread, hstatus, hod, hcfe, hmem⟩
  case noEntry =>
    intro s ss r i j off len hok hlen hoff hi hj hnone
    have hbad : ¬ (1024 < len ∨ 2 ^ 32 ≤ off ∨ (odKey i j).isNone = true) := by rw [odKey_some hi hj]; simp; omega
    have ex : exec (.garwaRead ss r i j off len) s = .next (respond ss osNoEntry [] s) := by
      show Host.Outcome.next (doGarwaRead ss r i j off len s) = _
      unfold doGarwaRead
      rw [if_neg (isSome_sessionOk hok), if_neg hbad, hnone]
    obtain ⟨hread, hstatus, hod, -, -, -⟩ := respond_responds ss osNoEntry [] s
    exact ⟨_, ex, hread, hstatus, hod⟩
  case segment =>
    intro s ss r i j off bs e hok hlen hoff hnamed hlast hblock
    have hkey := odKey_of_named hnamed
    have hbad : ¬ (1024 < bs.length ∨ 2 ^ 32 ≤ off ∨ (odKey i j).isNone = true) := by rw [hkey]; simp; omega
    generalize hu : onMsc (fun m => { m with staged := m.staged ++ [⟨e.key, ss, stagedBytes s e.key ss ++ bs⟩] }) (unstage e.key s) = u
    have ex : exec (.garwaWriteSegment ss r i j off bs) s = .next (respond ss osOk [] u) := by
      show Host.Outcome.next (doGarwaWriteSegment ss r i j off bs s) = _
      unfold doGarwaWriteSegment
      rw [if_neg (isSome_sessionOk hok), if_neg hbad, hnamed]
      dsimp only
      rw [hblock]
      dsimp only
      rw [if_neg (by simp [hlast]), hu]
    have hus : u.od = s.od ∧ u.cfe = s.cfe ∧ u.mem = s.mem := by rw [← hu]; exact ⟨rfl, rfl, rfl⟩
    obtain ⟨-, hstatus, hod, hcfe, hmem, hstaged⟩ := respond_responds ss osOk [] u
    refine ⟨_, ex, ?_, hstatus, hod.trans hus.1, hcfe.trans hus.2.1, hmem.trans hus.2.2⟩
    rw [stagedBytes_congr hstaged, ← hu]
    exact stagedBytes_append ..
  case blocked =>
    intro s ss r i j off bs e st hok hlen hoff hnamed hblock
    obtain ⟨-, hstatus, hod, hcfe, hmem, -⟩ := respond_responds ss st [] s
    exact ⟨_, odWrite_blocked hok hlen hoff hnamed hblock, hstatus, hod, hcfe, hmem⟩
  case applied =>
    intro s ss r i j bs e hok hlen hnamed hkey hfix hsize hstaged hblock hgate hscalar
    have hlt : leNat bs < 2 ^ (8 * e.size) := hsize ▸ leNat_lt bs
    have happly : odApply e bs (unstage e.key s) = (osOk, odSet e.key (leNat bs) (unstage e.key s)) := by
      unfold odApply
      rw [hfix, if_neg (by simp [hsize]), odApplyNow_scalar hkey hlt hscalar]
      exact if_neg (fun h => by rw [show gated (unstage e.key s) (odSub e.key) = false from hgate] at h; cases h.2)
    have ex := odWrite_applied hok hlen hnamed hstaged hblock
    rw [happly] at ex
    obtain ⟨-, hstatus, hod, hcfe, hmem, -⟩ := respond_responds ss osOk [] (odSet e.key (leNat bs) (unstage e.key s))
    refine ⟨_, ex, ?_, fun k hk => ?_, hstatus, hcfe, hmem⟩
    · rw [odGet_congr hod, odGet_set_same]
    · rw [odGet_congr hod, odGet_set_other _ _ hk]
      rfl
  case discard =>
    intro s i j hi hj
    refine ⟨unstage (256 * i + j) s, ?_, rfl, rfl⟩
    show Host.Outcome.next (match odKey i j with | none => s | some k => unstage k s) = _
    rw [odKey_some hi hj]
  case spdm =>
    intro s ss m hok hlen
    have ex : exec (.spdm ss m) s = .next (respond ss osOk (spdmReply s m) s) := by
      show Host.Outcome.next (doSpdm ss m s) = _
      unfold doSpdm
      dsimp only
      rw [if_neg (isSome_sessionOk hok), if_neg (by omega)]
    obtain ⟨hread, hstatus, hod, hcfe, hmem, -⟩ := respond_responds ss osOk (spdmReply s m) s
    exact ⟨_, ex, hread, hstatus, hod, hcfe, hmem⟩
  case session =>
    intro s chain peer r hrun hrestart hboot hrole hroom
    show Host.Outcome.next (doDtlsHandshake chain peer s) = _
    unfold doDtlsHandshake
    rw [if_neg (by simp [hrun, hrestart, hboot]), hrole]
    dsimp only
    rw [if_neg (by omega)]
    rfl
  case noAnchor =>
    intro s chain peer hrole
    have ex : exec (.dtlsHandshake chain peer) s = .next (doDtlsHandshake chain peer s) := rfl
    refine ⟨_, ex, ?_, exec_tasks ex, exec_piece .host ex⟩
    unfold doDtlsHandshake
    split
    · rfl
    · rw [hrole]
      exact loginFail_sessions ..
  case idle =>
    intro s ss
    refine ⟨_, rfl, fun x hx => ?_, fun x hx hne => ?_, rfl⟩
    · simpa using (List.mem_filter.mp hx).2
    · exact List.mem_filter.mpr ⟨hx, by simpa using hne⟩

end Sys2Proof.Machine
end

section
/-! SUPPORT. The modes of security, the keys and their envelopes (R389 to R397). -/

namespace Sys2Proof.Machine

/-! ### Erasing keys and resetting -/

/-- What of the MSC an end of handlings leaves. -/
theorem closeHandlings_security (f : Handling → Bool) (s : State) : (closeHandlings f s).msc.mode = s.msc.mode ∧
    (closeHandlings f s).msc.step = s.msc.step ∧ (closeHandlings f s).msc.debug = s.msc.debug ∧
    (closeHandlings f s).msc.tableKeys = s.msc.tableKeys := by
  have h := forEach_quiet (g := fun t : State => (t.msc.mode, t.msc.step, t.msc.debug, t.msc.tableKeys)) (f := closeRecords)
    (fun x t => by unfold closeRecords; rfl) (s.msc.open_.filter f) (onMsc (fun m => { m with open_ := m.open_.filter (fun h => !f h) }) s)
  simp only [Prod.mk.injEq] at h
  exact h

theorem engineReset_msc (s : State) : (engineReset s).msc = { s.msc with flushing := false, images := [], latched := [] } := by
  have h : (partsReset s).msc = s.msc := partsReset_quiet State.msc (fun _ _ _ => rfl) s
  unfold engineReset
  dsimp only
  rw [h]

theorem engineReset_keys (s : State) : (engineReset s).sfp.keys = s.sfp.keys ∧ (engineReset s).sfp.sending = s.sfp.sending := by
  have h : (partsReset s).sfp = s.sfp := partsReset_quiet State.sfp (fun _ _ _ => rfl) s
  unfold engineReset
  dsimp only
  rw [h]
  exact ⟨rfl, rfl⟩

theorem engineReset_due {s : State} (hdue : s.mss.overwriteDue = true) : (engineReset s).mss.overwriteDue = true := by
  have h : (partsReset s).mss = s.mss := partsReset_quiet State.mss (fun _ _ _ => rfl) s
  unfold engineReset
  dsimp only
  rw [h, hdue]
  simp only [Bool.true_or]

theorem engineReset_held (s : State) : (engineReset s).cru.heldWrites = s.cru.heldWrites := by
  have h := partsReset_cru s
  unfold engineReset
  dsimp only
  rw [h]

/-- What of the MSC, the link keys and the overwrite engine reset leaves. -/
theorem enterReset_security {s : State} (h : s.cru.heldWrites = []) : (enterReset s).msc.mode = s.msc.mode ∧
    (enterReset s).msc.step = s.msc.step ∧ (enterReset s).msc.tableKeys = s.msc.tableKeys ∧
    (enterReset s).msc.debug = (s.msc.debug || (s.msc.mode == .open && !s.msc.debugKill)) ∧
    (enterReset s).sfp.keys = s.sfp.keys ∧ (enterReset s).sfp.sending = s.sfp.sending ∧
    (s.mss.overwriteDue = true → (enterReset s).mss.overwriteDue = true) := by
  unfold enterReset
  dsimp only
  generalize hv : landWrites (onMsc (fun m => { m with debug := m.debug || (m.mode == .open && !m.debugKill) }) s) = v
  have hvs : v.msc = { s.msc with debug := s.msc.debug || (s.msc.mode == .open && !s.msc.debugKill) } ∧ v.cru = s.cru ∧ v.sfp = s.sfp ∧
    v.mss = s.mss := by rw [← hv]; exact ⟨rfl, rfl, rfl, rfl⟩
  obtain ⟨hmsc, hcru, hsfp, hmss⟩ := hvs
  obtain ⟨hmode, hstep, hdbg, htables⟩ := closeHandlings_security (fun h => h.level == 2) v
  have hrest := closeHandlings_rest (fun h => h.level == 2) v
  generalize closeHandlings (fun h => h.level == 2) v = u at hmode hstep hdbg htables hrest
  have hucru : u.cru = v.cru := (congrArg State.cru hrest :)
  have husfp : u.sfp = v.sfp := (congrArg State.sfp hrest :)
  have humss : u.mss = v.mss := (congrArg State.mss hrest :)
  have hheld : (engineReset u).cru.heldWrites = [] := by rw [engineReset_held, hucru, hcru, h]
  obtain ⟨hkeys, hsending⟩ := engineReset_keys u
  rw [applyHeld_none hheld, engineReset_msc, hkeys, hsending]
  refine ⟨?_, ?_, ?_, ?_, ?_, ?_, fun hdue => engineReset_due ?_⟩
  · exact hmode.trans (by rw [hmsc])
  · exact hstep.trans (by rw [hmsc])
  · exact htables.trans (by rw [hmsc])
  · exact hdbg.trans (by rw [hmsc])
  · rw [husfp, hsfp]
  · rw [husfp, hsfp]
  · rw [humss, hmss, hdue]

theorem leaveReset_rest (s : State) : { leaveReset s with cru := s.cru } = s := by
  unfold leaveReset
  split <;> rfl

/-- What a change of mode and a job end have in common: from a state whose keys are erased, the engine is reset with an overwrite due. -/
theorem secReset_resets (step : SecStep) {s u : State} (hheld : u.cru.heldWrites = []) (hkeys : u.sfp.keys = []) (hsend : u.sfp.sending = none)
    (htables : u.msc.tableKeys = []) (hfsu : u.fsu = s.fsu) (hmem : u.mem = s.mem) :
    (secReset step u).msc.mode = u.msc.mode ∧ (secReset step u).msc.step = step ∧ keysErased (secReset step u) ∧
    (secReset step u).mss.overwriteDue = true ∧ engineCleared s (secReset step u) ∧
    (u.msc.mode ≠ .open → (secReset step u).msc.debug = u.msc.debug) := by
  unfold secReset
  dsimp only
  generalize hv : (if twinState (onMss (fun m => { m with overwriteDue := true }) (onMsc (fun m => { m with step := step }) u)) = 1 then
    drawn (onMss (fun m => { m with overwriteDue := true }) (onMsc (fun m => { m with step := step }) u))
    else onMss (fun m => { m with overwriteDue := true }) (onMsc (fun m => { m with step := step }) u)) = v
  have hvu : v.cru = u.cru ∧ v.msc = { u.msc with step := step } ∧ v.mss.overwriteDue = true ∧ v.sfp = u.sfp ∧ v.fsu = u.fsu ∧
      v.mem = u.mem := by
    rw [← hv]
    split <;> exact ⟨rfl, rfl, rfl, rfl, rfl, rfl⟩
  obtain ⟨hcru, hmsc, hdue, hsfp, hvfsu, hvmem⟩ := hvu
  have hvheld : v.cru.heldWrites = [] := by rw [hcru, hheld]
  obtain ⟨hcleared, -, -⟩ := enterReset_cleared hvheld
  obtain ⟨hmode, hstep, htab, hdebug, hkey, hsending, hover⟩ := enterReset_security hvheld
  have hrest := leaveReset_rest (enterReset v)
  generalize leaveReset (enterReset v) = t at hrest
  have htmsc : t.msc = (enterReset v).msc := (congrArg State.msc hrest :)
  have htsfp : t.sfp = (enterReset v).sfp := (congrArg State.sfp hrest :)
  have htmss : t.mss = (enterReset v).mss := (congrArg State.mss hrest :)
  refine ⟨?_, ?_, ⟨fun k => ?_, ?_, ?_⟩, ?_, ?_, fun hopen => ?_⟩
  · rw [htmsc, hmode, hmsc]
  · rw [htmsc, hstep, hmsc]
  · unfold getKey
    rw [htsfp, hkey, hsfp, hkeys]
    rfl
  · rw [htsfp, hsending, hsfp, hsend]
  · rw [htmsc, htab, hmsc]
    exact htables
  · rw [htmss]
    exact hover hdue
  · have hs : engineCleared s (enterReset v) := engineCleared_from hcleared (hvfsu.trans hfsu) (by rw [hvmem, hmem])
      (by rw [hvmem, hmem]) (by rw [hvmem, hmem])
    rw [← hrest] at hs
    exact hs
  · rw [htmsc, hdebug, hmsc]
    simp [hopen]

/-- The apertures are entries of the object dictionary alone. -/
theorem closeApertures_rest (s : State) : { closeApertures s with od := s.od } = s := by
  unfold closeApertures
  refine forEach_quiet (g := fun t => ({ t with od := s.od } : State)) (fun k t => ?_) _ s
  dsimp only
  split
  · unfold apertureApply
    dsimp only
    split
    · rfl
    · split
      · rfl
      · split
        · rfl
        · split <;> rfl
  · rfl

theorem eraseKeys_erased (s : State) : (eraseKeys s).cru = s.cru ∧ (eraseKeys s).sfp.keys = [] ∧ (eraseKeys s).sfp.sending = none ∧
    (eraseKeys s).msc = { s.msc with tableKeys := [] } ∧ (eraseKeys s).fsu = s.fsu ∧ (eraseKeys s).mem = s.mem :=
  ⟨rfl, rfl, rfl, rfl, rfl, rfl⟩

/-- An engine that does not meet R393. -/
theorem secQuiet_false {s : State} (h : (∃ q ∈ s.cfe.queues, q.2.state ≠ .disabled) ∨ ledgerOwes s = true ∨
      (∃ p < 16, (getPod s p).groups ≠ []) ∨ (∃ i ∈ liveDescs s, 2 ≤ sdState (descAt s i)) ∨ s.mss.overwriteDue = true ∨
      s.mss.overwriting = true ∨ s.msc.step ≠ .idle ∨ partnerQuiet s = false) : secQuiet s = false ∨ partnerQuiet s = false := by
  by_contra hboth
  simp only [not_or, Bool.not_eq_false] at hboth
  obtain ⟨hquiet, hpartner⟩ := hboth
  unfold secQuiet at hquiet
  simp only [Bool.and_eq_true, List.all_eq_true, Bool.not_eq_true', beq_iff_eq, decide_eq_true_eq, List.isEmpty_iff] at hquiet
  obtain ⟨⟨⟨⟨⟨⟨hq, hl⟩, hp⟩, hd⟩, ho⟩, hw⟩, hs⟩ := hquiet
  rcases h with ⟨q, hqm, hqs⟩ | h | ⟨p, hpl, hpg⟩ | ⟨i, hi, hi2⟩ | h | h | h | h
  · exact hqs (hq q hqm)
  · rw [hl] at h; cases h
  · exact hpg (hp p (List.mem_range.mpr hpl))
  · have := hd i hi
    omega
  · rw [ho] at h; cases h
  · rw [hw] at h; cases h
  · exact h hs
  · rw [hpartner] at h; cases h

theorem secModeReq_refused {v : Nat} {s : State} (h : secQuiet s = false ∨ partnerQuiet s = false) : secModeReq v s = none := by
  unfold secModeReq
  split
  · rfl
  · rw [if_pos (by rcases h with h | h <;> simp [h])]

theorem secJobEnd_refused {s : State} (h : secQuiet s = false ∨ partnerQuiet s = false) : secJobEnd 1 s = none := by
  unfold secJobEnd
  rw [if_neg (by decide), if_pos (by rcases h with h | h <;> simp [h])]

/-! ### Keys -/

theorem getKey_installKey_same (k gen : Nat) (z : List Byte) (s : State) : getKey (installKey k gen z s) k = { secret := some z, gen := gen } :=
  tabGet_put_same k ({} : KeySlot) ({ secret := some z, gen := gen } : KeySlot) s.sfp.keys

theorem getKey_installKey_other {k j : Nat} (gen : Nat) (z : List Byte) (s : State) (h : j ≠ k) : getKey (installKey k gen z s) j = getKey s j :=
  tabGet_put_other ({} : KeySlot) ({ secret := some z, gen := gen } : KeySlot) s.sfp.keys h

theorem installKey_rest (k gen : Nat) (z : List Byte) (s : State) : { installKey k gen z s with sfp := s.sfp, od := s.od } = s := rfl

theorem getKey_answer (c k : Nat) (s : State) : getKey (odAnswer c s) k = getKey s k := rfl

theorem odAnswer_msc (c : Nat) (s : State) : (odAnswer c s).msc = s.msc := rfl

/-- The answer OK to a reset leaves all that the reset has done. -/
theorem resets_answered {s w : State} {mode : SecMode} {step : SecStep} (hmode : w.msc.mode = mode) (hstep : w.msc.step = step)
    (herased : keysErased w) (hdue : w.mss.overwriteDue = true) (hcleared : engineCleared s w) :
    (odAnswer osOk w).msc.mode = mode ∧ (odAnswer osOk w).msc.step = step ∧ keysErased (odAnswer osOk w) ∧
    (odAnswer osOk w).mss.overwriteDue = true ∧ engineCleared s (odAnswer osOk w) ∧ (odAnswer osOk w).out.status = osOk :=
  ⟨hmode, hstep, herased, hdue, hcleared, rfl⟩

/-- What a table envelope and an unbinding may change. -/
theorem tableKeys_rest (f : List (Nat × List Byte) → List (Nat × List Byte)) (c : Nat) (s : State) :
    { odAnswer c (onMsc (fun m => { m with tableKeys := f m.tableKeys }) s) with
      msc := { (odAnswer c (onMsc (fun m => { m with tableKeys := f m.tableKeys }) s)).msc with tableKeys := s.msc.tableKeys },
      out := s.out } = s := rfl

/-- Settles O34: a change of mode and a job end by `secReset_resets`, a refusal by `secQuiet_false`, the keys by their tables. -/
theorem securityModes : Obligations.SecurityModes := by
  unfold Obligations.SecurityModes
  refine ⟨?enter, ?leave, ?jobEnd, ?same, ?refused, ?job, ?jobRefused, ?table, ?tableRefused, ?unbind⟩
  case enter =>
    intro s r hready hr hquiet hpartner hmode hheld
    have hrest := closeApertures_rest (onMsc (fun m => { m with mode := .entering, debug := false }) s)
    generalize hv : closeApertures (onMsc (fun m => { m with mode := .entering, debug := false }) s) = v at hrest
    have hvcru : v.cru = s.cru := (congrArg State.cru hrest :)
    have hvmsc : v.msc = { s.msc with mode := .entering, debug := false } := (congrArg State.msc hrest :)
    obtain ⟨hcru, hkeys, hsend, hmsc, hfsu, hmem⟩ := eraseKeys_erased v
    generalize hu : eraseKeys v = u at hcru hkeys hsend hmsc hfsu hmem
    have hwrite : secModeReq 1 s = some (secReset .enter u) := by
      unfold secModeReq
      rw [if_neg (by decide), if_neg (by simp [hquiet, hpartner]), if_pos rfl, if_pos (by simp [hmode])]
      dsimp only
      rw [hv, hu]
    obtain ⟨hm, hstep, herased, hdue, hcleared, hdebug⟩ := secReset_resets .enter (s := s) (u := u) (by rw [hcru, hvcru, hheld]) hkeys hsend
      (by rw [hmsc]) (hfsu.trans (congrArg State.fsu hrest :)) (hmem.trans (congrArg State.mem hrest :))
    have humode : u.msc.mode = .entering := by rw [hmsc, hvmsc]
    have hudebug : u.msc.debug = false := by rw [hmsc, hvmsc]
    obtain ⟨hm, hstep, hanswer⟩ := resets_answered (hm.trans humode) hstep herased hdue hcleared
    refine ⟨_, congrArg Host.Outcome.next (odTry_some hr hready hwrite), hm, hstep, ?_, hanswer⟩
    rw [odAnswer_msc, hdebug (by rw [humode]; decide), hudebug]
  case leave =>
    intro s r hready hr hquiet hpartner hmode hheld
    obtain ⟨hcru, hkeys, hsend, hmsc, hfsu, hmem⟩ := eraseKeys_erased (onMsc (fun m => { m with mode := .exiting }) s)
    generalize hu : eraseKeys (onMsc (fun m => { m with mode := .exiting }) s) = u at hcru hkeys hsend hmsc hfsu hmem
    have hwrite : secModeReq 0 s = some (secReset .exit u) := by
      unfold secModeReq
      rw [if_neg (by decide), if_neg (by simp [hquiet, hpartner]), if_neg (by decide), if_pos (by simp [hmode]), hu]
    obtain ⟨hm, hstep, herased, hdue, hcleared, -⟩ := secReset_resets .exit (s := s) (u := u) (by rw [hcru]; exact hheld) hkeys hsend
      (by rw [hmsc]) hfsu hmem
    exact ⟨_, congrArg Host.Outcome.next (odTry_some hr hready hwrite), resets_answered (hm.trans (by rw [hmsc]; rfl)) hstep herased hdue hcleared⟩
  case jobEnd =>
    intro s r hready hr hquiet hpartner hheld
    obtain ⟨hcru, hkeys, hsend, hmsc, hfsu, hmem⟩ := eraseKeys_erased s
    generalize hu : eraseKeys s = u at hcru hkeys hsend hmsc hfsu hmem
    have hwrite : secJobEnd 1 s = some (secReset .jobEnd u) := by
      unfold secJobEnd
      rw [if_neg (by decide), if_neg (by simp [hquiet, hpartner]), hu]
    obtain ⟨hm, hstep, herased, hdue, hcleared, -⟩ := secReset_resets .jobEnd (s := s) (u := u) (by rw [hcru]; exact hheld) hkeys hsend
      (by rw [hmsc]) hfsu hmem
    exact ⟨_, congrArg Host.Outcome.next (odTry_some hr hready hwrite), resets_answered (hm.trans (by rw [hmsc])) hstep herased hdue hcleared⟩
  case same =>
    intro s r hready hr hquiet hpartner
    refine ⟨fun hmode => congrArg Host.Outcome.next (odTry_some hr hready ?_),
      fun hmode => congrArg Host.Outcome.next (odTry_some hr hready ?_)⟩ <;> unfold secModeReq
    · rw [if_neg (by decide), if_neg (by simp [hquiet, hpartner]), if_pos rfl, if_neg (by simp [hmode])]
    · rw [if_neg (by decide), if_neg (by simp [hquiet, hpartner]), if_neg (by decide), if_neg (by simp [hmode])]
  case refused =>
    intro s r hr hunmet
    have hquiet := secQuiet_false hunmet
    exact ⟨fun hready => ⟨congrArg Host.Outcome.next (odTry_none hr hready (secModeReq_refused hquiet)),
      congrArg Host.Outcome.next (odTry_none hr hready (secModeReq_refused hquiet))⟩,
      fun hready => congrArg Host.Outcome.next (odTry_none hr hready (secJobEnd_refused hquiet))⟩
  case job =>
    intro s r bs z hready hr hok hsend hopen
    have e : exec (.secJobEnvelope r bs) s = .next (odAnswer osOk (installKey (envName bs) (leNat (sliceBytes 10 4 bs)) z s)) := by
      show Host.Outcome.next (odBytes odSecJobEnvelope .owner r (jobEnvelope bs) s) = _
      rw [odBytes_ready _ hr hready]
      unfold jobEnvelope
      rw [if_neg (by simp [hok, hsend]), hopen]
    have hrest := installKey_rest (envName bs) (leNat (sliceBytes 10 4 bs)) z s
    refine ⟨_, e, ?_, fun k hk => ?_, odAnswer_status .., ?_, ?_, ?_⟩
    · rw [getKey_answer, getKey_installKey_same]
    · rw [getKey_answer, getKey_installKey_other _ _ _ hk]
    · rw [odAnswer_cfe]; exact (congrArg State.cfe hrest :)
    · rw [odAnswer_mem]; exact (congrArg State.mem hrest :)
    · rw [odAnswer_msc]; exact (congrArg State.msc hrest :)
  case jobRefused =>
    intro s r bs hready hr
    refine ⟨fun hbad => ?_, fun c hok hsend hopen => ?_⟩
    · show Host.Outcome.next (odBytes odSecJobEnvelope .owner r (jobEnvelope bs) s) = _
      rw [odBytes_ready _ hr hready]
      unfold jobEnvelope
      rw [if_pos (by simpa using hbad)]
    · show Host.Outcome.next (odBytes odSecJobEnvelope .owner r (jobEnvelope bs) s) = _
      rw [odBytes_ready _ hr hready]
      unfold jobEnvelope
      rw [if_neg (by simp [hok, hsend]), hopen]
      rfl
  case table =>
    intro s r bs z hready hr hok hopen hroom
    have e : exec (.secTableEnvelope r bs) s = .next (odAnswer osOk (onMsc (fun m => { m with
        tableKeys := tabPut (envName bs) z m.tableKeys }) s)) := by
      show Host.Outcome.next (odBytes odSecTableEnvelope .owner r (tableEnvelope bs) s) = _
      rw [odBytes_ready _ hr hready]
      unfold tableEnvelope
      dsimp only
      rw [if_neg (by simp [hok]), hopen]
      dsimp only
      rw [if_neg]
      rintro ⟨hfull, hnone⟩
      rcases hroom with h | h
      · omega
      · simp [Option.isNone_iff_eq_none.mp hnone] at h
    refine ⟨_, e, ?_, fun k hk => ?_, rfl, tableKeys_rest (tabPut (envName bs) z) osOk s⟩
    · exact (tabFind_put (envName bs) (envName bs) z s.msc.tableKeys).trans (if_pos rfl)
    · exact (tabFind_put (envName bs) k z s.msc.tableKeys).trans (if_neg hk)
  case tableRefused =>
    intro s r bs hready hr
    have hx : exec (.secTableEnvelope r bs) s = .next (odAnswer (tableEnvelope bs s).1 (tableEnvelope bs s).2) := by
      show Host.Outcome.next (odBytes odSecTableEnvelope .owner r (tableEnvelope bs) s) = _
      rw [odBytes_ready _ hr hready]
    refine ⟨fun hbad => ?_, fun c hok hopen => ?_, fun z hok hopen hfull hnone => ?_⟩ <;> rw [hx] <;> unfold tableEnvelope <;> dsimp only
    · rw [if_pos (by simp [hbad])]
    · rw [if_neg (by simp [hok]), hopen]
      rfl
    · rw [if_neg (by simp [hok]), hopen]
      dsimp only
      rw [if_pos ⟨hfull, by rw [hnone]; rfl⟩]
      rfl
  case unbind =>
    intro s r n hready hr hn
    refine ⟨_, congrArg Host.Outcome.next (odTry_some hr hready (if_pos hn)), ?_, fun k hk => ?_, rfl, tableKeys_rest (tabDrop n) osOk s⟩
    · exact (tabFind_drop n n s.msc.tableKeys).trans (if_pos rfl)
    · exact (tabFind_drop n k s.msc.tableKeys).trans (if_neg hk)

end Sys2Proof.Machine
end

section
/-! SUPPORT. Moves and replicas of rows (R232 to R236, R246). -/

namespace Sys2Proof.Machine

/-! ### Stores in a tier -/

theorem tierStore_keeps {P : State → Prop} (tier a : Nat) (bs : List Byte) {s : State} (hpods : Stable P .pods) (hpw : Stable P .pw)
    (hst : Stable P .st) (h : P s) : P (tierStore tier a bs .output s) := tierStore_holds hpods hpw hst _ _ _ _ h

theorem tierStore_cfe (tier a : Nat) (bs : List Byte) (s : State) : (tierStore tier a bs .output s).cfe = s.cfe :=
  tierStore_keeps (P := fun t => t.cfe = s.cfe) _ _ _ (keeps_cfe s _) (keeps_cfe s _) (keeps_cfe s _) rfl

theorem tierStore_cat (tier a : Nat) (bs : List Byte) (s : State) : (tierStore tier a bs .output s).cat = s.cat :=
  tierStore_keeps (P := fun t => t.cat = s.cat) _ _ _ (keeps_cat s _) (keeps_cat s _) (keeps_cat s _) rfl

theorem tierStore_fsu (tier a : Nat) (bs : List Byte) (s : State) : (tierStore tier a bs .output s).fsu = s.fsu :=
  tierStore_keeps (P := fun t => t.fsu = s.fsu) _ _ _ (keeps_fsu s _) (keeps_fsu s _) (keeps_fsu s _) rfl

theorem tierStore_sfp (tier a : Nat) (bs : List Byte) (s : State) : (tierStore tier a bs .output s).sfp = s.sfp :=
  tierStore_keeps (P := fun t => t.sfp = s.sfp) _ _ _ (keeps_sfp s _) (keeps_sfp s _) (keeps_sfp s _) rfl

theorem odBare_tierStore (tier a : Nat) (bs : List Byte) (s : State) : odBare (tierStore tier a bs .output s) = odBare s :=
  tierStore_keeps (P := fun t => odBare t = odBare s) _ _ _ (keeps_odBare s _) (keeps_odBare s _) (keeps_odBare s _) rfl

/-- What is stored in a tier stands there, or is on its way there. -/
theorem tierStore_stored {s : State} (tier a : Nat) (bs : List Byte) (h : chansUp s) : storedTier tier a bs s (tierStore tier a bs .output s) := by
  unfold storedTier tierStore
  by_cases ht : tier = 0
  · rw [if_pos ht, if_pos ht]
    exact ⟨(congrArg Mem.host (gddrStore_mem a bs h) :), gddrStore_stored a bs h, (gddrStore_frame a bs s).1⟩
  · rw [if_neg ht, if_neg ht]
    dsimp only
    rw [if_neg (by decide), postWrite_mem, postWrite_outq]
    exact ⟨rfl, rfl, rfl⟩

/-- A store in a tier is one from, and to, every state with the same memory and the same writes under way. -/
theorem storedTier_congr {s s' t t' : State} {tier a : Nat} {bs : List Byte} (h : storedTier tier a bs s t) (hmem : s'.mem = s.mem)
    (hhpt : s'.hpt = s.hpt) (htmem : t'.mem = t.mem) (hthpt : t'.hpt = t.hpt) : storedTier tier a bs s' t' := by
  unfold storedTier at *
  rw [hmem, hhpt, htmem, hthpt]
  exact h

theorem tierLoad_congr {s t : State} (hmem : t.mem = s.mem) (hhpt : t.hpt = s.hpt) (tier a n : Nat) : tierLoad t tier a n = tierLoad s tier a n := by
  unfold tierLoad gddrLoad hostView
  rw [hmem, hhpt]

/-! ### Tasks and their moves -/

theorem relocTask_some {s : State} {n op : Nat} {k : Task} (h : relocTask s n op = some k) : getTask s n = some k := by
  unfold relocTask at h
  split at h
  · rename_i j hj
    split at h
    · cases h
      exact (liveTask_some hj).1
    · cases h
  · cases h

/-- The copy of a row that a MOVE_ROW makes, and what it notes of it. -/
def movePut (n tier src len m loc : Nat) (s : State) : State :=
  modTask n (fun k => { k with copyPos := 1 + folio (tierStore tier (32 * loc) (tierLoad s (smTier m) src len) .output s), moveMark := m, moveSlot := loc })
    (tierStore tier (32 * loc) (tierLoad s (smTier m) src len) .output s)

theorem movePut_puts {n tier src len m loc : Nat} {s : State} {k : Task} (hk : getTask s n = some k) (hup : chansUp s) :
    storedTier tier (32 * loc) (tierLoad s (smTier m) src len) s (movePut n tier src len m loc s) ∧
    getTask (movePut n tier src len m loc s) n = some { k with copyPos := 1 + folio s, moveMark := m, moveSlot := loc } ∧
    (movePut n tier src len m loc s).cat = s.cat := by
  unfold movePut
  generalize htl : tierLoad s (smTier m) src len = bs
  have hstored := tierStore_stored tier (32 * loc) bs hup
  have hfolio : folio (tierStore tier (32 * loc) bs .output s) = folio s := congrArg Fsu.folio (tierStore_fsu ..)
  have htask : getTask (tierStore tier (32 * loc) bs .output s) n = some k := (getTask_congr (congrArg Cfe.tasks (tierStore_cfe ..)) n).trans hk
  rw [hfolio]
  exact ⟨hstored, getTask_mod_same _ htask (fun _ => rfl), tierStore_cat ..⟩

/-! ### Slot rings -/

theorem slotCtl_bare {s t : State} (h : odBare t = odBare s) {k : Nat} (hk : k < 8) : slotCtl t k = slotCtl s k :=
  odGet_bare h (by unfold odCatSlotring odMscErrCounts; omega) (by unfold odCatSlotring odHptRetainStalls; omega)

theorem ringFor_bare {s t : State} (h : odBare t = odBare s) (size tier : Nat) : ringFor t size tier = ringFor s size tier := by
  unfold ringFor
  refine List.find?_congr fun k hk => ?_
  rw [slotCtl_bare h (List.mem_range.mp hk)]

theorem ringFor_lt {s : State} {size tier r : Nat} (h : ringFor s size tier = some r) : r < 8 := by
  unfold ringFor at h
  exact List.mem_range.mp (List.mem_of_find?_eq_some h)

theorem slotRing_congr {s t : State} (h : t.cat.rings = s.cat.rings) (k : Nat) : slotRing t k = slotRing s k := by unfold slotRing; rw [h]

/-- A slot whose ring has room stands behind the slots in its return ring. -/
theorem freeSlot_returns {size tier loc r : Nat} {s : State} (hring : ringFor s size tier = some r)
    (hroom : (slotRing s r).ret.length < 2 ^ srLog (slotCtl s r)) : slotRing (freeSlot size tier loc false s) r = { slotRing s r with
      ret := (slotRing s r).ret ++ [{ loc := loc, folio := folio s }],
      retNext := ((slotRing s r).retNext + 1) % 2 ^ srLog (slotCtl s r) } := by
  unfold freeSlot
  rw [hring]
  dsimp only
  rw [if_neg (Nat.not_le.mpr hroom), slotRing_mod_same, if_neg (show ¬ (false = true) by decide)]
  rfl

theorem freeSlot_leaks {size tier loc : Nat} {ready : Bool} {s : State} (hring : ringFor s size tier = none) :
    freeSlot size tier loc ready s = odCount odCatSlotsLeaked 1 s := by
  unfold freeSlot
  rw [hring]

/-! ### The returning twin, and the end of a move -/

theorem toTwin_closed {s : State} (h : twinOpen s = false) (tier a : Nat) (bs : List Byte) : toTwin tier a bs s = s := if_neg (by simp [h])

theorem toTwin_keeps {P : State → Prop} (tier a : Nat) (bs : List Byte) {s : State} (hsfp : Stable P .sfp) (hev : Stable P .ev) (h : P s) :
    P (toTwin tier a bs s) := toTwin_holds hsfp hev _ _ _ h

theorem rowPlaced_cfe (t row idx pos tier a : Nat) (s : State) : (rowPlaced t row idx pos tier a s).cfe = s.cfe := rfl

/-- The commit of a MOVE_ROW whose shelfmark is still what it read. -/
theorem moveRowCommit_commits {s : State} {n m : Nat} {k : Task} {x : BitVec 512} (hk : relocTask s n 1 = some k) (hcopied : k.copyPos ≠ 0)
    (hx : x = descAt s (rlIndex s k.desc)) (hm : m = shelfmark s x (posOf (dirAt s (dTable k.desc)) (rlRow k.desc)))
    (hacc : smAccession m = smAccession k.moveMark) (hloc : smLoc m = smLoc k.moveMark) (htime : folio s ≤ k.copyPos)
    (hdone : rlTier k.desc = 1 → hostPending s (32 * k.moveSlot) (rowS x) = false) : exec (.moveRowCommit n) s =
      .next (finishTask n (freeSlot (rowS x) (smTier m) (smLoc m) false
        (rowPlaced (dTable k.desc) (rlRow k.desc) (rlIndex s k.desc) (posOf (dirAt s (dTable k.desc)) (rlRow k.desc)) (rlTier k.desc)
          (32 * k.moveSlot) (toTwin (sdTier x) (rowAddr x (sdBase x) (posOf (dirAt s (dTable k.desc)) (rlRow k.desc)))
            (leBytes 8 (smMake (rlTier k.desc) ((smAccession m + 1) % 4096) k.moveSlot))
            (tierStore (sdTier x) (rowAddr x (sdBase x) (posOf (dirAt s (dTable k.desc)) (rlRow k.desc)))
              (leBytes 8 (smMake (rlTier k.desc) ((smAccession m + 1) % 4096) k.moveSlot)) .output
              (toTwin (rlTier k.desc) (32 * k.moveSlot) (tierLoad s (rlTier k.desc) (32 * k.moveSlot) (rowS x)) s)))))) := by
  show Host.Outcome.next (doMoveRowCommit n s) = _
  unfold doMoveRowCommit
  rw [hk]
  dsimp only
  rw [← hx, ← hm, if_neg hcopied, if_pos ⟨hacc, hloc, htime⟩, if_neg (fun h => by rw [hdone h.1] at h; cases h.2)]

/-- A count leaves everything but the entry. -/
theorem odCount_keeps (k n : Nat) (s : State) : (odCount k n s).cfe = s.cfe ∧ (odCount k n s).fsu = s.fsu ∧ (odCount k n s).mem = s.mem ∧
    (odCount k n s).hpt = s.hpt ∧ (odCount k n s).cat = s.cat := by
  have h := odCount_rest k n s
  exact ⟨(congrArg State.cfe h :), (congrArg State.fsu h :), (congrArg State.mem h :), (congrArg State.hpt h :), (congrArg State.cat h :)⟩

theorem freeSlot_dir (size tier loc : Nat) (ready : Bool) (s : State) : (freeSlot size tier loc ready s).cat.dir = s.cat.dir := by
  unfold freeSlot
  cases ringFor s size tier with
  | none => exact congrArg Cat.dir (odCount_keeps odCatSlotsLeaked 1 s).2.2.2.2
  | some r =>
    dsimp only
    split
    · exact congrArg Cat.dir (odCount_keeps odCatSlotsLeaked 1 s).2.2.2.2
    · rfl

/-! ### Replicas -/

/-- A row that is held as a replica. -/
theorem holdReplica_holds_it (r : Replica) (s : State) : r ∈ (holdReplica r s).cat.replicas ∧
    odGet (holdReplica r s) odCatReplicas = (holdReplica r s).cat.replicas.length ∧ (holdReplica r s).mem = s.mem ∧
    (holdReplica r s).cfe = s.cfe ∧ (holdReplica r s).fsu = s.fsu :=
  ⟨List.mem_append_right _ List.mem_cons_self, odGet_set_same .., rfl, rfl, rfl⟩

theorem replicaNames_bare {s t : State} (h : catBare t = catBare s) : t.cat.replicas.map (fun r => (r.table, r.row)) =
    s.cat.replicas.map (fun r => (r.table, r.row)) := by
  have hmap := congrArg (fun c : Cat => c.replicas.map (fun r => (r.table, r.row))) h
  simpa [catBare, List.map_map, Function.comp_def] using hmap

/-- Settles O38: the copy by `movePut_puts`, the commit by `moveRowCommit_commits`, the replicas by `holdReplica_holds_it`. -/
theorem rowMoves : Obligations.RowMoves := by
  unfold Obligations.RowMoves
  refine ⟨?base, ?slot, ?commit, ?gives, ?lost, ?replicate, ?ask, ?drop⟩
  case base =>
    intro s n k m hk hfirst hok hbase hup hm
    have e : exec (.moveRow n) s = .next (movePut n (rlTier k.desc) (32 * smLoc m) (rowS (descAt s (rlIndex s k.desc))) m (rlBase k.desc) s) := by
      show Host.Outcome.next (doMoveRow n s) = _
      unfold doMoveRow
      rw [hk]
      dsimp only
      rw [← hm, if_neg (by simp [hfirst]), if_neg (by simp [hok]), if_pos hbase]
      rfl
    exact ⟨_, e, movePut_puts (relocTask_some hk) hup⟩
  case slot =>
    intro s n k m r loc f hk hfirst hok hbase hup hm hring hslot
    have e : exec (.moveRow n) s = .next (movePut n (rlTier k.desc) (32 * smLoc m) (rowS (descAt s (rlIndex s k.desc))) m loc
        (takeSlot r f s)) := by
      show Host.Outcome.next (doMoveRow n s) = _
      unfold doMoveRow
      rw [hk]
      dsimp only
      rw [← hm, if_neg (by simp [hfirst]), if_neg (by simp [hok]), if_neg (by simp [hbase]), hring]
      dsimp only
      rw [hslot]
      rfl
    obtain ⟨hstored, htask, hcat⟩ := movePut_puts (n := n) (tier := rlTier k.desc) (src := 32 * smLoc m)
      (len := rowS (descAt s (rlIndex s k.desc))) (m := m) (loc := loc) (s := takeSlot r f s) (k := k) (relocTask_some hk) hup
    exact ⟨_, e, storedTier_congr hstored rfl rfl rfl rfl, htask, hcat⟩
  case commit =>
    intro s n k x m hk hcopied hx hm hacc hloc htime hdone htwin hup hring
    have e := moveRowCommit_commits hk hcopied hx hm hacc hloc htime hdone
    generalize hnew : leBytes 8 (smMake (rlTier k.desc) ((smAccession m + 1) % 4096) k.moveSlot) = new at e ⊢
    generalize ha : rowAddr x (sdBase x) (posOf (dirAt s (dTable k.desc)) (rlRow k.desc)) = a at e ⊢
    rw [toTwin_closed htwin] at e
    have hstored := tierStore_stored (sdTier x) a new hup
    have hcfe := tierStore_cfe (sdTier x) a new s
    have hcat := tierStore_cat (sdTier x) a new s
    have hfsu := tierStore_fsu (sdTier x) a new s
    have hsfp := tierStore_sfp (sdTier x) a new s
    have hod := odBare_tierStore (sdTier x) a new s
    generalize tierStore (sdTier x) a new .output s = u at e hstored hcfe hcat hfsu hsfp hod
    have htwinu : twinOpen u = false := by
      unfold twinOpen twinState at *
      rw [odGet_bare hod (k := odSfpTwinState), hsfp]
      exact htwin
    generalize hv : rowPlaced (dTable k.desc) (rlRow k.desc) (rlIndex s k.desc) (posOf (dirAt s (dTable k.desc)) (rlRow k.desc))
      (rlTier k.desc) (32 * k.moveSlot) u = v at e
    have hvod : odBare v = odBare s := by rw [← hod, ← hv]; rfl
    have hvrest : v.cfe = u.cfe ∧ v.fsu = u.fsu ∧ v.mem = u.mem ∧ v.hpt = u.hpt ∧ { v.cat with replicas := u.cat.replicas } = u.cat := by
      rw [← hv]; exact ⟨rfl, rfl, rfl, rfl, rfl⟩
    obtain ⟨hvcfe, hvfsu, hvmem, hvhpt, hvcat⟩ := hvrest
    rw [toTwin_closed htwinu, hv, freeSlot_leaks ((ringFor_bare hvod ..).trans hring)] at e
    obtain ⟨hwcfe, hwfsu, hwmem, hwhpt, hwcat⟩ := odCount_keeps odCatSlotsLeaked 1 v
    generalize odCount odCatSlotsLeaked 1 v = w at e hwcfe hwfsu hwmem hwhpt hwcat
    have hwfolio : folio w = folio s := congrArg Fsu.folio (hwfsu.trans (hvfsu.trans hfsu))
    have htask : getTask w n = some k := (getTask_congr (congrArg Cfe.tasks (hwcfe.trans (hvcfe.trans hcfe))) n).trans (relocTask_some hk)
    obtain ⟨hfmem, hfhpt, -⟩ := finishTask_keeps n w
    have hfcat : (finishTask n w).cat = w.cat := (congrArg State.cat (finishTask_rest n w) :)
    refine ⟨_, e, storedTier_congr hstored rfl rfl (hfmem.trans (hwmem.trans hvmem)) (hfhpt.trans (hwhpt.trans hvhpt)), getTask_finishTask htask hwfolio, ?_⟩
    rw [hfcat, hwcat, ← hcat]
    exact hvcat
  case gives =>
    intro s n k x m r hk hcopied hx hm hacc hloc htime hdone hring hroom
    have e := moveRowCommit_commits hk hcopied hx hm hacc hloc htime hdone
    have hhost := exec_piece .host e
    generalize hnew : leBytes 8 (smMake (rlTier k.desc) ((smAccession m + 1) % 4096) k.moveSlot) = new at e hhost
    generalize ha : rowAddr x (sdBase x) (posOf (dirAt s (dTable k.desc)) (rlRow k.desc)) = a at e hhost
    generalize hu : toTwin (sdTier x) a new (tierStore (sdTier x) a new .output
      (toTwin (rlTier k.desc) (32 * k.moveSlot) (tierLoad s (rlTier k.desc) (32 * k.moveSlot) (rowS x)) s)) = u at e hhost
    have hkeep (P : State → Prop) (hsfp : Stable P .sfp) (hev : Stable P .ev) (hpods : Stable P .pods) (hpw : Stable P .pw)
        (hst : Stable P .st) (h : P s) : P u := by
      rw [← hu]
      exact toTwin_keeps _ _ _ hsfp hev (tierStore_keeps _ _ _ hpods hpw hst (toTwin_keeps _ _ _ hsfp hev h))
    have hod : odBare u = odBare s := hkeep (fun t => odBare t = odBare s) (keeps_odBare s _) (keeps_odBare s _) (keeps_odBare s _)
      (keeps_odBare s _) (keeps_odBare s _) rfl
    have hcat : catBare u = catBare s := hkeep (fun t => catBare t = catBare s) (keeps_catBare s _) (keeps_catBare s _) (keeps_catBare s _)
      (keeps_catBare s _) (keeps_catBare s _) rfl
    have htasks : u.cfe.tasks = s.cfe.tasks := hkeep (fun t => t.cfe.tasks = s.cfe.tasks) (keeps_tasks s _) (keeps_tasks s _) (keeps_tasks s _)
      (keeps_tasks s _) (keeps_tasks s _) rfl
    have hfsu : u.fsu = s.fsu := hkeep (fun t => t.fsu = s.fsu) (keeps_fsu s _) (keeps_fsu s _) (keeps_fsu s _) (keeps_fsu s _)
      (keeps_fsu s _) rfl
    generalize hv : rowPlaced (dTable k.desc) (rlRow k.desc) (rlIndex s k.desc) (posOf (dirAt s (dTable k.desc)) (rlRow k.desc))
      (rlTier k.desc) (32 * k.moveSlot) u = v at e hhost
    have hvod : odBare v = odBare s := by rw [← hod, ← hv]; rfl
    have hvrings : v.cat.rings = s.cat.rings := by
      rw [← hv]
      exact (congrArg Cat.rings hcat :)
    have hvfolio : folio v = folio s := by rw [← hv]; exact congrArg Fsu.folio hfsu
    have hvtasks : v.cfe.tasks = s.cfe.tasks := by rw [← hv]; exact htasks
    have hringv := (ringFor_bare hvod (rowS x) (smTier m)).trans hring
    have hctl : slotCtl v r = slotCtl s r := slotCtl_bare hvod (ringFor_lt hring)
    have hslot : slotRing v r = slotRing s r := slotRing_congr hvrings r
    have hfree := freeSlot_returns (loc := smLoc m) hringv (by rw [hctl, hslot]; exact hroom)
    rw [hslot, hctl, hvfolio] at hfree
    have hfcat : (finishTask n (freeSlot (rowS x) (smTier m) (smLoc m) false v)).cat = (freeSlot (rowS x) (smTier m) (smLoc m) false v).cat :=
      (congrArg State.cat (finishTask_rest n _) :)
    have hftasks : (freeSlot (rowS x) (smTier m) (smLoc m) false v).cfe.tasks = v.cfe.tasks :=
      freeSlot_holds (P := fun t => t.cfe.tasks = v.cfe.tasks) (keeps_tasks v _) (keeps_tasks v _) (keeps_tasks v _) _ _ _ _ rfl
    have hffsu : (freeSlot (rowS x) (smTier m) (smLoc m) false v).fsu = v.fsu :=
      freeSlot_holds (P := fun t => t.fsu = v.fsu) (keeps_fsu v _) (keeps_fsu v _) (keeps_fsu v _) _ _ _ _ rfl
    refine ⟨_, e, ?_, ?_, hhost⟩
    · rw [slotRing_congr (congrArg Cat.rings hfcat), hfree]
    · exact getTask_finishTask ((getTask_congr (hftasks.trans hvtasks) n).trans (relocTask_some hk)) ((congrArg Fsu.folio hffsu).trans hvfolio)
  case lost =>
    intro s n k m hk hcopied hend hm hchanged
    generalize hu : (if rlBase k.desc = 0 then freeSlot (rowS (descAt s (rlIndex s k.desc))) (rlTier k.desc) k.moveSlot true s else s) = u
    have e : exec (.moveRowCommit n) s = .next (refuseCtl n (odCount odCatMovesLost 1 u)) := by
      show Host.Outcome.next (doMoveRowCommit n s) = _
      unfold doMoveRowCommit
      rw [hk]
      dsimp only
      rw [← hm, if_neg hcopied, if_neg (fun h => by rcases hchanged with h1 | h1 | h1 <;> omega), hu]
    have hkeep (P : State → Prop) (hcat : Stable P .cat) (hod : Stable P .od) (hst : Stable P .st) (h : P s) : P u := by
      rw [← hu]
      split
      · exact freeSlot_holds hcat hod hst _ _ _ _ h
      · exact h
    have hucfe : u.cfe = s.cfe := hkeep (fun t => t.cfe = s.cfe) (keeps_cfe s _) (keeps_cfe s _) (keeps_cfe s _) rfl
    have hufsu : u.fsu = s.fsu := hkeep (fun t => t.fsu = s.fsu) (keeps_fsu s _) (keeps_fsu s _) (keeps_fsu s _) rfl
    have hudir : u.cat.dir = s.cat.dir := by
      rw [← hu]
      split
      · exact freeSlot_dir ..
      · rfl
    obtain ⟨hwcfe, hwfsu, -, -, hwcat⟩ := odCount_keeps odCatMovesLost 1 u
    generalize odCount odCatMovesLost 1 u = w at e hwcfe hwfsu hwcat
    have htask : getTask w n = some k := (getTask_congr (congrArg Cfe.tasks (hwcfe.trans hucfe)) n).trans (relocTask_some hk)
    have hended := endTask_ended stCtlRefused 0 0 htask hend
    obtain ⟨f, ps, p, hrest⟩ := refuseCtl_rest n w
    refine ⟨_, e, ?_, ?_⟩
    · unfold endedAs folio at *
      rw [hwfsu, hufsu] at hended
      exact hended
    · rw [hrest]
      exact (congrArg Cat.dir hwcat).trans hudir
  case replicate =>
    intro s n k x tier a row side hk hnew hok hx hhome hplace hflt hrow hside hroom
    generalize hr : Replica.mk (dTable k.desc) (rlRow k.desc) (sdHome x) row side (some (tier, a)) = r
    have e : exec (.replicateRow n) s = .next (finishTask n (holdReplica r s)) := by
      show Host.Outcome.next (doReplicateRow n s) = _
      unfold doReplicateRow
      rw [hk]
      dsimp only
      rw [← hx, if_neg (by simp [hnew]), if_neg (by simp [hok]), if_pos hhome, hplace]
      dsimp only
      rw [hflt]
      dsimp only
      rw [← hrow, ← hside, if_neg (by omega), hr]
    obtain ⟨hheld, hcount, hmem, hcfe, hfsu⟩ := holdReplica_holds_it r s
    generalize holdReplica r s = u at e hheld hcount hmem hcfe hfsu
    have hrest := finishTask_rest n u
    have htask : getTask u n = some k := (getTask_congr (congrArg Cfe.tasks hcfe) n).trans (relocTask_some hk)
    have hfcat : (finishTask n u).cat = u.cat := (congrArg State.cat hrest :)
    refine ⟨_, e, ?_, ?_, getTask_finishTask htask (congrArg Fsu.folio hfsu), (finishTask_keeps n u).1.trans hmem⟩
    · rw [hfcat]
      exact hheld
    · rw [hfcat, ← hcount]
      exact odGet_congr (congrArg State.od hrest :) _
  case ask =>
    intro s n k x hk hnew hok hx haway hroom
    generalize hu : modTask n (fun k => { k with ctlSeq := some s.sfp.xid, moveMark := s.sfp.epoch }) s = u
    have hustate : u.sfp = s.sfp ∧ u.od = s.od ∧ u.cat = s.cat := by rw [← hu]; exact ⟨rfl, rfl, rfl⟩
    have htask : getTask u n = some { k with ctlSeq := some s.sfp.xid, moveMark := s.sfp.epoch } := by
      rw [← hu]; exact getTask_mod_same _ (relocTask_some hk) (fun _ => rfl)
    generalize hws : readReqWords (rlRow k.desc) (dTable k.desc) false false true 0 s.sfp.epoch = ws
    have e : exec (.replicateRow n) s = .next (sendCell ctReadReq (sdHome x) 16 ws u) := by
      show Host.Outcome.next (doReplicateRow n s) = _
      unfold doReplicateRow
      rw [hk]
      dsimp only
      rw [← hx, if_neg (by simp [hnew]), if_neg (by simp [hok]), if_neg (by simp [haway]), hu, hustate.1, hws]
    have hroomu : readRoom u (sdHome x) := by rw [← hu]; exact hroom
    have hcredit := hroomu.2
    have hsent := sendCell_sent ctReadReq (sdHome x) 16 ws u hroomu.1
    have hcat : catBare (sendCell ctReadReq (sdHome x) 16 ws u) = catBare u :=
      sendCell_holds (P := fun t => catBare t = catBare u) (keeps_catBare u _) (keeps_catBare u _) _ _ _ _ rfl
    have htasks : (sendCell ctReadReq (sdHome x) 16 ws u).cfe.tasks = u.cfe.tasks :=
      sendCell_holds (P := fun t => t.cfe.tasks = u.cfe.tasks) (keeps_tasks u _) (keeps_tasks u _) _ _ _ _ rfl
    refine ⟨_, e, ?_, (getTask_congr htasks n).trans htask, (replicaNames_bare hcat).trans (by rw [hustate.2.2])⟩
    unfold sentOne cellDst cseqUsed at *
    rw [hustate.1] at hsent
    exact hsent
  case drop =>
    intro s n k hk hok
    generalize hu : odSet odCatReplicas (s.cat.replicas.filter (fun r => !(r.table == dTable k.desc && r.row == rlRow k.desc))).length
      (onCat (fun c => { c with
        replicas := c.replicas.filter (fun r => !(r.table == dTable k.desc && r.row == rlRow k.desc)) }) s) = u
    have hus : u.cfe = s.cfe ∧ u.fsu = s.fsu ∧ u.cat.replicas =
        s.cat.replicas.filter (fun r => !(r.table == dTable k.desc && r.row == rlRow k.desc)) := by
      rw [← hu]; exact ⟨rfl, rfl, rfl⟩
    generalize hheld : s.cat.replicas.any (fun r => r.table == dTable k.desc && r.row == rlRow k.desc) = held
    generalize hv : (if (held && !isHome u (descAt s (rlIndex s k.desc))) = true then
      sendCtl ctInvalAck (sdHome (descAt s (rlIndex s k.desc))) [dTable k.desc, rlRow k.desc] none u else u) = v
    have e : exec (.dropReplica n) s = .next (finishTask n v) := by
      show Host.Outcome.next (doDropReplica n s) = _
      unfold doDropReplica
      rw [hk]
      dsimp only
      rw [if_neg (by simp [hok]), hheld, ← hv, ← hu]
      rfl
    have hkeep (P : State → Prop) (hsfp : Stable P .sfp) (hev : Stable P .ev) (h : P u) : P v := by
      rw [← hv]
      split
      · exact sendCtl_holds hsfp hev _ _ _ _ h
      · exact h
    have hcat : catBare v = catBare u := hkeep (fun t => catBare t = catBare u) (keeps_catBare u _) (keeps_catBare u _) rfl
    have htasks : v.cfe.tasks = u.cfe.tasks := hkeep (fun t => t.cfe.tasks = u.cfe.tasks) (keeps_tasks u _) (keeps_tasks u _) rfl
    have hfsu : v.fsu = u.fsu := hkeep (fun t => t.fsu = u.fsu) (keeps_fsu u _) (keeps_fsu u _) rfl
    have hfcat : (finishTask n v).cat = v.cat := (congrArg State.cat (finishTask_rest n v) :)
    have htask : getTask v n = some k := (getTask_congr (htasks.trans (congrArg Cfe.tasks hus.1)) n).trans (relocTask_some hk)
    refine ⟨_, e, ?_, getTask_finishTask htask (congrArg Fsu.folio (hfsu.trans hus.2.1)), exec_piece .host e⟩
    rw [hfcat, replicaNames_bare hcat, hus.2.2]

end Sys2Proof.Machine
end

section
/-! SUPPORT. The replacement of a shard (R237 to R241, R254). -/

namespace Sys2Proof.Machine

/-! ### Descriptors in the cache -/

theorem descAt_cached {s : State} {i : Nat} {d : BitVec 512} (h : cached s i = some d) : descAt s i = d := by
  unfold descAt
  rw [h]

theorem cached_congr {s t : State} (h : t.cat.cache = s.cat.cache) (i : Nat) : cached t i = cached s i := by unfold cached; rw [h]

/-- A descriptor that is written is the cached one too. -/
theorem cached_setDesc {s : State} {i : Nat} (d : BitVec 512) (h : (cached s i).isSome = true) : cached (setDesc i d s) i = some d := by
  have hcache : (setDesc i d s).cat.cache = s.cat.cache.map (fun e => if e.1 = i then (i, d) else e) := rfl
  unfold cached at *
  rw [hcache]
  generalize s.cat.cache = cache at h ⊢
  induction cache with
  | nil => cases h
  | cons c cs ih =>
    rw [List.map_cons, List.find?_cons]
    by_cases hc : c.1 = i
    · simp [hc]
    · have hne : (c.1 == i) = false := by simpa using hc
      rw [List.find?_cons] at h
      simp only [hne] at h
      simp only [hc, if_false, hne]
      exact ih h

/-! ### Slots that an array gives back -/

theorem freeSlot_cat (size tier loc : Nat) (ready : Bool) (s : State) :
    { (freeSlot size tier loc ready s).cat with rings := [] } = { s.cat with rings := [] } := by
  unfold freeSlot
  cases ringFor s size tier with
  | none => exact congrArg (fun c : Cat => { c with rings := [] }) (odCount_keeps odCatSlotsLeaked 1 s).2.2.2.2
  | some r =>
    dsimp only
    split
    · exact congrArg (fun c : Cat => { c with rings := [] }) (odCount_keeps odCatSlotsLeaked 1 s).2.2.2.2
    · rfl

/-- An array that goes changes nothing of the Catalogue but the slot rings. -/
theorem freeArray_cat (d : BitVec 512) (rows tierOld old tierNew new : Nat) (s : State) :
    { (freeArray d rows tierOld old tierNew new s).cat with rings := [] } = { s.cat with rings := [] } := by
  unfold freeArray
  split
  · refine forEach_quiet (g := fun t : State => ({ t.cat with rings := [] } : Cat)) (fun p t => ?_) _ s
    dsimp only
    split
    · rfl
    · exact freeSlot_cat ..
  · rfl

theorem freeSlot_tasks (size tier loc : Nat) (ready : Bool) (s : State) : (freeSlot size tier loc ready s).cfe = s.cfe ∧
    (freeSlot size tier loc ready s).fsu = s.fsu :=
  ⟨freeSlot_holds (P := fun t => t.cfe = s.cfe) (keeps_cfe s _) (keeps_cfe s _) (keeps_cfe s _) _ _ _ _ rfl,
    freeSlot_holds (P := fun t => t.fsu = s.fsu) (keeps_fsu s _) (keeps_fsu s _) (keeps_fsu s _) _ _ _ _ rfl⟩

theorem freeArray_tasks (d : BitVec 512) (rows tierOld old tierNew new : Nat) (s : State) :
    (freeArray d rows tierOld old tierNew new s).cfe = s.cfe ∧ (freeArray d rows tierOld old tierNew new s).fsu = s.fsu :=
  ⟨freeArray_holds (P := fun t => t.cfe = s.cfe) (keeps_cfe s _) (keeps_cfe s _) (keeps_cfe s _) _ _ _ _ _ _ rfl,
    freeArray_holds (P := fun t => t.fsu = s.fsu) (keeps_fsu s _) (keeps_fsu s _) (keeps_fsu s _) _ _ _ _ _ _ rfl⟩

/-! ### The end of a task's work -/

/-- A task whose record stands and whose folio is still the one it had finishes; the Catalogue, memory and the fabric port stay. -/
theorem finishTask_after {n : Nat} {k : Task} {s u : State} (hk : getTask s n = some k) (hcfe : u.cfe.tasks = s.cfe.tasks)
    (hfsu : u.fsu = s.fsu) : getTask (finishTask n u) n = some (finishedTask (folio s) k) ∧ (finishTask n u).cat = u.cat ∧
    (finishTask n u).mem = u.mem ∧ (finishTask n u).sfp = u.sfp ∧ (finishTask n u).stk = u.stk := by
  have hrest := finishTask_rest n u
  exact ⟨getTask_finishTask ((getTask_congr hcfe n).trans hk) (congrArg Fsu.folio hfsu), (congrArg State.cat hrest :),
    (congrArg State.mem hrest :), (congrArg State.sfp hrest :), (congrArg State.stk hrest :)⟩

/-! ### The second copy ends -/

/-- The shard is ONLINE again with its first array, and no move or commit of it is under way. -/
def closeMove (i : Nat) (x : BitVec 512) (s : State) : State :=
  onCat (fun c => { c with moves := c.moves.filter (fun m => m.1 != i), committed := c.committed.filter (· != i) })
    (setDesc i (sdSet (sdSet x 45 44 1) 241 192 0) s)

theorem closeMove_cat (i : Nat) (x : BitVec 512) (s : State) : (closeMove i x s).cat.committed = s.cat.committed.filter (· != i) ∧
    (closeMove i x s).cat.moves = s.cat.moves.filter (fun m => m.1 != i) ∧
    (closeMove i x s).cat.cache = (setDesc i (sdSet (sdSet x 45 44 1) 241 192 0) s).cat.cache := by
  unfold closeMove
  generalize sdSet (sdSet x 45 44 1) 241 192 0 = d
  exact ⟨rfl, rfl, rfl⟩

/-- What the end of the second copy leaves in the Catalogue, whatever slots it gives back and whatever it writes in GDDR7. -/
theorem closeMove_closes {i : Nat} {x : BitVec 512} {s u : State} (hcached : (cached s i).isSome = true)
    (hcat : { u.cat with rings := [] } = { (closeMove i x s).cat with rings := [] }) :
    descAt u i = sdSet (sdSet x 45 44 1) 241 192 0 ∧ i ∉ u.cat.committed ∧ moveOf u i = none := by
  obtain ⟨hcommitted, hmoves, hcache⟩ := closeMove_cat i x s
  generalize closeMove i x s = v at hcat hcommitted hmoves hcache
  have hucommitted : u.cat.committed = v.cat.committed := (congrArg Cat.committed hcat :)
  have humoves : u.cat.moves = v.cat.moves := (congrArg Cat.moves hcat :)
  have hucache : u.cat.cache = v.cat.cache := (congrArg Cat.cache hcat :)
  rw [hcommitted] at hucommitted
  rw [hmoves] at humoves
  refine ⟨descAt_cached ((cached_congr (hucache.trans hcache) i).trans (cached_setDesc _ hcached)), ?_, ?_⟩
  · rw [hucommitted]
    simp
  · unfold moveOf
    rw [humoves, Option.map_eq_none_iff, List.find?_eq_none]
    intro m hm
    simpa using (List.mem_filter.mp hm).2

theorem closeMove_keeps (i : Nat) (x : BitVec 512) (s : State) : (closeMove i x s).cfe = s.cfe ∧ (closeMove i x s).fsu = s.fsu := by
  unfold closeMove
  generalize sdSet (sdSet x 45 44 1) 241 192 0 = d
  exact ⟨rfl, rfl⟩

/-- The end of the second copy of a shard, and of its DRAIN_FENCE. -/
theorem drained_closes {n i : Nat} {x : BitVec 512} {k : Task} {s u : State} (hk : getTask s n = some k)
    (hcached : (cached s i).isSome = true) (hcat : { u.cat with rings := [] } = { (closeMove i x s).cat with rings := [] })
    (hcfe : u.cfe = s.cfe) (hfsu : u.fsu = s.fsu) : descAt (finishTask n u) i = sdSet (sdSet x 45 44 1) 241 192 0 ∧
    i ∉ (finishTask n u).cat.committed ∧ moveOf (finishTask n u) i = none ∧
    getTask (finishTask n u) n = some (finishedTask (folio s) k) := by
  obtain ⟨htask, hfcat, -⟩ := finishTask_after hk (congrArg Cfe.tasks hcfe) hfsu
  obtain ⟨hdesc, hcommitted, hmove⟩ := closeMove_closes (u := finishTask n u) hcached (by rw [hfcat]; exact hcat)
  exact ⟨hdesc, hcommitted, hmove, htask⟩

theorem freeArray_closes {n i : Nat} {x : BitVec 512} {k : Task} {s : State} (hk : getTask s n = some k)
    (hcached : (cached s i).isSome = true) (rows tierOld old tierNew new : Nat) :
    descAt (finishTask n (freeArray x rows tierOld old tierNew new (closeMove i x s))) i = sdSet (sdSet x 45 44 1) 241 192 0 ∧
    i ∉ (finishTask n (freeArray x rows tierOld old tierNew new (closeMove i x s))).cat.committed ∧
    moveOf (finishTask n (freeArray x rows tierOld old tierNew new (closeMove i x s))) i = none ∧
    getTask (finishTask n (freeArray x rows tierOld old tierNew new (closeMove i x s))) n = some (finishedTask (folio s) k) := by
  obtain ⟨hccfe, hcfsu⟩ := closeMove_keeps i x s
  obtain ⟨hfcfe, hffsu⟩ := freeArray_tasks x rows tierOld old tierNew new (closeMove i x s)
  exact drained_closes hk hcached (freeArray_cat ..) (hfcfe.trans hccfe) (hffsu.trans hcfsu)

/-! ### Reports of a changed descriptor -/

/-- A report to the Registrar, or the Registrar's own change of its map while a deputy is alive, goes out over the fabric alone. -/
theorem reportMove_keeps {P : State → Prop} {s : State} (epoch i : Nat) (d : BitVec 512)
    (hdep : s.sfp.registrar = true → (firstDeputy s).isSome = true) (hsfp : Stable P .sfp) (hev : Stable P .ev) (h : P s) :
    P (reportMove epoch i d s) := by
  unfold reportMove
  dsimp only
  split
  · rename_i hreg
    obtain ⟨e, he⟩ := Option.isSome_iff_exists.mp (hdep hreg)
    unfold mapChange
    dsimp only
    rw [show firstDeputy (onSfp (fun f => { f with
        mapEpoch := if epochOlder epoch f.mapEpoch then f.mapEpoch else epoch % 2 ^ 32,
        mapPending := f.mapPending ++ [(i, sdSet (sdSet d 45 44 1) 241 192 0)] }) s) = some e from (firstDeputy_map ..).trans he]
    exact sendCtl_holds hsfp hev _ _ _ _ (onSfp_holds hsfp _ h)
  · split
    · exact sendCtl_holds hsfp hev _ _ _ _ h
    · exact h

theorem firstDeputy_same {s u : State} (hsfp : u.sfp = s.sfp) (hsucc : odGet u odSfpSuccession = odGet s odSfpSuccession)
    (htake : odGet u odSfpTakeoverFolios = odGet s odSfpTakeoverFolios) : firstDeputy u = firstDeputy s := by
  unfold firstDeputy succession
  rw [hsfp, hsucc, htake]

/-- What the Registrar's map, or the message to the Registrar, takes of a changed descriptor. -/
theorem reportMove_reports {s : State} (epoch i : Nat) (d : BitVec 512) (hdep : s.sfp.registrar = true → (firstDeputy s).isSome = true) :
    (s.sfp.registrar = true → (reportMove epoch i d s).sfp.mapPending = s.sfp.mapPending ++ [(i, sdSet (sdSet d 45 44 1) 241 192 0)]) ∧
    (s.sfp.registrar = false → odGet s odSfpRegistrar < 1024 → odGet s odSfpRegistrar ≠ s.sfp.engineId → ∃ m, {
      dst := odGet s odSfpRegistrar, mseq := m, type := ctControl, task := none,
      payload := [1, epoch, i, (sdSet (sdSet d 45 44 1) 241 192 0).toNat] } ∈ (reportMove epoch i d s).sfp.ctlOut) := by
  unfold reportMove
  dsimp only
  generalize sdSet (sdSet d 45 44 1) 241 192 0 = z
  refine ⟨fun hreg => ?_, fun hreg hlt hne => ⟨nextCtl s (odGet s odSfpRegistrar), ?_⟩⟩
  · obtain ⟨e, he⟩ := Option.isSome_iff_exists.mp (hdep hreg)
    rw [if_pos hreg]
    obtain ⟨sq, out, hmap⟩ := mapChange_mirrors epoch [(i, z)] he
    exact (congrArg Sfp.mapPending hmap :)
  · rw [if_neg (by simp [hreg]), if_pos ⟨hlt, hne⟩]
    have hbare := sendCtl_bare ctControl (odGet s odSfpRegistrar) [1, epoch, i, z.toNat] none s
    have hout : (sendCtl ctControl (odGet s odSfpRegistrar) [1, epoch, i, z.toNat] none s).sfp.ctlOut = s.sfp.ctlOut ++ [{
        dst := odGet s odSfpRegistrar, mseq := nextCtl s (odGet s odSfpRegistrar), type := ctControl,
        payload := [1, epoch, i, z.toNat], task := none }] := (congrArg Sfp.ctlOut hbare :)
    rw [hout]
    exact List.mem_append_right _ List.mem_cons_self

/-! ### The commit -/

/-- The engine as a REPLACE_COMMIT leaves it, before it reports. -/
def replaceCommitted (t i : Nat) (x : BitVec 512) (s : State) : State :=
  onStk (fun u => { u with pinned := u.pinned.filter (fun p => p.idx != i) })
    (onCat (fun c => { c with committed := c.committed ++ [i] }) (setDesc i (committedDesc x) (dropShardReplicas t (sdShard x) s)))

theorem replaceCommitted_commits {t i : Nat} {x : BitVec 512} {s : State} (hcached : (cached s i).isSome = true) :
    cached (replaceCommitted t i x s) i = some (committedDesc x) ∧ (replaceCommitted t i x s).cat.committed = s.cat.committed ++ [i] ∧
    (replaceCommitted t i x s).cat.replicas = s.cat.replicas.filter (fun r => !(r.table == t && shardOf (dirAt s t) r.row == sdShard x)) ∧
    (replaceCommitted t i x s).stk.pinned = s.stk.pinned.filter (fun p => p.idx != i) ∧ (replaceCommitted t i x s).cfe = s.cfe ∧
    (replaceCommitted t i x s).fsu = s.fsu ∧ (replaceCommitted t i x s).sfp = s.sfp ∧
    (∀ k, k ≠ odCatReplicas → odGet (replaceCommitted t i x s) k = odGet s k) := by
  have hdrop : cached (dropShardReplicas t (sdShard x) s) i = cached s i := rfl
  have hset := cached_setDesc (committedDesc x) (s := dropShardReplicas t (sdShard x) s) (hdrop ▸ hcached)
  unfold replaceCommitted
  generalize committedDesc x = d at hset ⊢
  exact ⟨hset, rfl, rfl, rfl, rfl, rfl, rfl, fun k hk => odGet_set_other _ _ hk⟩

theorem replaceCommit_reports {s : State} {n : Nat} {k : Task} (hk : relocTask s n 6 = some k) (hok : relocOk s k.desc = true)
    (hnone : shardHolders s (dTable k.desc) (sdShard (descAt s (rlIndex s k.desc))) = []) : exec (.replaceCommit n) s =
      .next (finishTask n (reportMove (replaceCommitted (dTable k.desc) (rlIndex s k.desc) (descAt s (rlIndex s k.desc)) s).sfp.epoch
        (rlIndex s k.desc) (committedDesc (descAt s (rlIndex s k.desc)))
        (replaceCommitted (dTable k.desc) (rlIndex s k.desc) (descAt s (rlIndex s k.desc)) s))) := by
  show Host.Outcome.next (doReplaceCommit n s) = _
  unfold doReplaceCommit
  rw [hk]
  dsimp only
  rw [if_neg (by simp [hok]), hnone]
  rfl

/-- Settles O39: each end of a second copy by `drained_closes`, the commit by `replaceCommitted_commits` and `reportMove_reports`. -/
theorem replacements : Obligations.Replacements := by
  unfold Obligations.Replacements
  refine ⟨?begins, ?copied, ?commit, ?abandon, ?refused, ?committed, ?moved, ?within⟩
  case begins =>
    intro s n k x hk hfirst hok hx htwin hup hsrc hdst
    generalize hbs : tierLoad s (sdTier x) (32 * sdBase x) (arrayBytes (dirAt s (dTable k.desc)) x) = bs
    have hod := odBare_tierStore (sdTier x) (32 * rlBase k.desc) bs s
    have hsfp := tierStore_sfp (sdTier x) (32 * rlBase k.desc) bs s
    have htwinu : twinOpen (tierStore (sdTier x) (32 * rlBase k.desc) bs .output s) = false := by
      unfold twinOpen twinState at *
      rw [odGet_bare hod (k := odSfpTwinState), hsfp]
      exact htwin
    have e : exec (.replaceBegin n) s = .next (modTask n (fun k => { k with copyPos := 1 })
        (tierStore (sdTier x) (32 * rlBase k.desc) bs .output s)) := by
      show Host.Outcome.next (doReplaceBegin n s) = _
      unfold doReplaceBegin
      rw [hk]
      dsimp only
      rw [← hx, if_neg (by simp [hfirst]), if_neg (by simp [hok]), hsrc, hdst]
      dsimp only
      rw [hbs, toTwin_closed htwinu]
    refine ⟨_, e, tierStore_stored (sdTier x) (32 * rlBase k.desc) bs hup, ?_, tierStore_cat ..⟩
    exact getTask_mod_same _ ((getTask_congr (congrArg Cfe.tasks (tierStore_cfe ..)) n).trans (relocTask_some hk)) (fun _ => rfl)
  case copied =>
    intro s n k hk hcopied hcached
    have e : exec (.replaceCopyDone n) s = .next (finishTask n (setDesc (rlIndex s k.desc)
        (sdSet (sdSet (descAt s (rlIndex s k.desc)) 45 44 2) 241 192 (rlBase k.desc)) s)) := by
      show Host.Outcome.next (doReplaceCopyDone n s) = _
      unfold doReplaceCopyDone
      rw [hk]
      dsimp only
      rw [if_neg hcopied]
    have hhost := exec_piece .host e
    generalize sdSet (sdSet (descAt s (rlIndex s k.desc)) 45 44 2) 241 192 (rlBase k.desc) = d at e hhost ⊢
    obtain ⟨htask, hcat, -⟩ := finishTask_after (u := setDesc (rlIndex s k.desc) d s) (relocTask_some hk) rfl rfl
    exact ⟨_, e, descAt_cached ((cached_congr (congrArg Cat.cache hcat) _).trans (cached_setDesc d hcached)), htask, hhost⟩
  case commit =>
    intro s n k z hk hok hcached hnone hdep hz
    have e := replaceCommit_reports hk hok hnone
    have hhost := exec_piece .host e
    obtain ⟨hcache, hcommitted, hreplicas, hpinned, hcfe, hfsu, hsfp, hod⟩ :=
      replaceCommitted_commits (t := dTable k.desc) (x := descAt s (rlIndex s k.desc)) hcached
    subst hz
    generalize replaceCommitted (dTable k.desc) (rlIndex s k.desc) (descAt s (rlIndex s k.desc)) s = u
      at e hhost hcache hcommitted hreplicas hpinned hcfe hfsu hsfp hod
    generalize committedDesc (descAt s (rlIndex s k.desc)) = d at e hhost hcache ⊢
    have hregistrar : odGet u odSfpRegistrar = odGet s odSfpRegistrar := hod _ (by decide)
    have hdepu : u.sfp.registrar = true → (firstDeputy u).isSome = true := by
      rw [hsfp, firstDeputy_same hsfp (hod _ (by decide)) (hod _ (by decide))]
      exact hdep
    obtain ⟨hmap, hmessage⟩ := reportMove_reports u.sfp.epoch (rlIndex s k.desc) d hdepu
    have hkeep (P : State → Prop) (h1 : Stable P .sfp) (h2 : Stable P .ev) (h : P u) : P (reportMove u.sfp.epoch (rlIndex s k.desc) d u) :=
      reportMove_keeps _ _ _ hdepu h1 h2 h
    have hcat := hkeep (fun t => catBare t = catBare u) (keeps_catBare u _) (keeps_catBare u _) rfl
    have hstk := hkeep (fun t => stkBare t = stkBare u) (keeps_stkBare u _) (keeps_stkBare u _) rfl
    have htasks := hkeep (fun t => t.cfe.tasks = u.cfe.tasks) (keeps_tasks u _) (keeps_tasks u _) rfl
    have hufsu := hkeep (fun t => t.fsu = u.fsu) (keeps_fsu u _) (keeps_fsu u _) rfl
    rw [hsfp] at hmap
    rw [hsfp, hregistrar] at hmessage
    rw [hsfp] at e hhost hcat hstk htasks hufsu
    generalize reportMove s.sfp.epoch (rlIndex s k.desc) d u = v at e hhost hmap hmessage hcat hstk htasks hufsu
    obtain ⟨htask, hfcat, -, hfsfp, hfstk⟩ := finishTask_after (n := n) (relocTask_some hk)
      (htasks.trans (congrArg Cfe.tasks hcfe)) (hufsu.trans hfsu)
    refine ⟨_, e, ?_, ?_, ?_, ?_, fun r hr => ?_, fun c hc => ?_, htask, hhost⟩
    · rw [hfsfp]; exact hmap
    · rw [hfsfp]; exact hmessage
    · have hvcache : v.cat.cache = u.cat.cache := (congrArg Cat.cache hcat :)
      exact descAt_cached ((cached_congr ((congrArg Cat.cache hfcat).trans hvcache) _).trans hcache)
    · have hvcommitted : v.cat.committed = u.cat.committed := (congrArg Cat.committed hcat :)
      rw [hfcat, hvcommitted, hcommitted]
    · rw [hfcat] at hr
      obtain ⟨y, hy, hyr⟩ := replica_bare hcat hr
      rw [hreplicas] at hy
      obtain ⟨-, hno⟩ := List.mem_filter.mp hy
      have htable : y.table = r.table := (congrArg Replica.table hyr :)
      have hrow : y.row = r.row := (congrArg Replica.row hyr :)
      rw [htable, hrow] at hno
      rintro ⟨h1, h2⟩
      simp [h1, h2] at hno
    · rw [hfstk] at hc
      have hidx := congrArg (fun x : Stk => x.pinned.map (·.idx)) hstk
      have hsame : v.stk.pinned.map (·.idx) = u.stk.pinned.map (·.idx) := by
        simpa [stkBare, List.map_map, Function.comp_def] using hidx
      have hmem := List.mem_map_of_mem (f := fun p : Pinned => p.idx) hc
      rw [hsame, hpinned] at hmem
      obtain ⟨p, hp, hpc⟩ := List.mem_map.mp hmem
      have hne := (List.mem_filter.mp hp).2
      rw [← hpc]
      simpa using hne
  case abandon =>
    intro s n k hk hok hstate hopen hcached
    generalize hu : freeArray (descAt s (rlIndex s k.desc)) (shardRows (dirAt s (dTable k.desc)) (sdShard (descAt s (rlIndex s k.desc))))
      (sdTier (descAt s (rlIndex s k.desc))) (sdAlt (descAt s (rlIndex s k.desc))) (sdTier (descAt s (rlIndex s k.desc)))
      (sdBase (descAt s (rlIndex s k.desc))) s = u
    have hus : u.cfe = s.cfe ∧ u.fsu = s.fsu ∧ { u.cat with rings := [] } = { s.cat with rings := [] } := by
      rw [← hu]; exact ⟨(freeArray_tasks ..).1, (freeArray_tasks ..).2, freeArray_cat ..⟩
    obtain ⟨hcfe, hfsu, hcat⟩ := hus
    have e : exec (.drainFence n) s = .next (finishTask n (setDesc (rlIndex s k.desc)
        (sdSet (sdSet (descAt s (rlIndex s k.desc)) 45 44 1) 241 192 0) u)) := by
      show Host.Outcome.next (doDrainFence n s) = _
      unfold doDrainFence
      rw [hk]
      dsimp only
      rw [if_neg (by simp [hok]), if_pos ⟨hstate, by simpa using hopen⟩, hu]
    have hhost := exec_piece .host e
    generalize sdSet (sdSet (descAt s (rlIndex s k.desc)) 45 44 1) 241 192 0 = d at e hhost ⊢
    have hcachedu : (cached u (rlIndex s k.desc)).isSome = true := by
      rw [cached_congr (s := s) ((congrArg Cat.cache hcat :))]
      exact hcached
    obtain ⟨htask, hfcat, -⟩ := finishTask_after (u := setDesc (rlIndex s k.desc) d u) (relocTask_some hk) (congrArg Cfe.tasks hcfe) hfsu
    exact ⟨_, e, descAt_cached ((cached_congr (congrArg Cat.cache hfcat) _).trans (cached_setDesc d hcachedu)), htask, hhost⟩
  case refused =>
    intro s n k hk hbad hend
    have e : exec (.drainFence n) s = .next (refuseCtl n s) := by
      show Host.Outcome.next (doDrainFence n s) = _
      unfold doDrainFence
      rw [hk]
      dsimp only
      rw [if_pos (by simp [hbad])]
    obtain ⟨f, ps, p, hrest⟩ := refuseCtl_rest n s
    exact ⟨_, e, endTask_ended stCtlRefused 0 0 (relocTask_some hk) hend, by rw [hrest]⟩
  case committed =>
    intro s n k hk hstate hin hfloor hcached
    have e : exec (.drainFenceComplete n) s = .next (finishTask n (freeArray (descAt s (rlIndex s k.desc))
        (shardRows (dirAt s (dTable k.desc)) (sdShard (descAt s (rlIndex s k.desc)))) (sdTier (descAt s (rlIndex s k.desc)))
        (sdAlt (descAt s (rlIndex s k.desc))) (sdTier (descAt s (rlIndex s k.desc))) (sdBase (descAt s (rlIndex s k.desc)))
        (closeMove (rlIndex s k.desc) (descAt s (rlIndex s k.desc)) s))) := by
      show Host.Outcome.next (doDrainFenceComplete n s) = _
      unfold doDrainFenceComplete
      rw [hk]
      dsimp only
      rw [if_pos hstate, if_pos ⟨by simpa using hin, hfloor⟩]
      rfl
    obtain ⟨hdesc, hcommitted, hmove, htask⟩ := freeArray_closes (relocTask_some hk) hcached ..
    exact ⟨_, e, hdesc, hcommitted, hmove, htask, exec_piece .host e⟩
  case moved =>
    intro s n k slot f hk hstate hfwd hreads hepoch hdone hcached
    generalize hx : descAt s (rlIndex s k.desc) = x at hstate ⊢
    generalize hu : gddrStore (fwdAddr s slot) (List.replicate 32 0) (closeMove (rlIndex s k.desc) x s) = u
    generalize hv : (if sdShelved x then forEach (fun p s =>
      if 1 < smTier (leNat (tierLoad s (fwOldTier f) (32 * fwOldBase f + 8 * p) 8)) then s
      else freeSlot (rowS x) (smTier (leNat (tierLoad s (fwOldTier f) (32 * fwOldBase f + 8 * p) 8)))
        (smLoc (leNat (tierLoad s (fwOldTier f) (32 * fwOldBase f + 8 * p) 8))) false s)
      (List.range (shardRows (dirAt s (dTable k.desc)) (sdShard x))) u else u) = v
    have e : exec (.drainFenceComplete n) s = .next (finishTask n v) := by
      show Host.Outcome.next (doDrainFenceComplete n s) = _
      unfold doDrainFenceComplete
      rw [hk]
      dsimp only
      rw [hx, if_neg (by omega), if_pos hstate, hfwd]
      dsimp only
      rw [if_pos (by simp [hreads, hepoch, hdone]), ← hv, ← hu]
      rfl
    have hfree : { v.cat with rings := [] } = { u.cat with rings := [] } := by
      rw [← hv]
      split
      · refine forEach_quiet (g := fun t : State => ({ t.cat with rings := [] } : Cat)) (fun p t => ?_) _ u
        dsimp only
        split
        · rfl
        · exact freeSlot_cat ..
      · rfl
    have hvkeep : v.cfe = u.cfe ∧ v.fsu = u.fsu := by
      rw [← hv]
      split
      · constructor
        · refine forEach_quiet (g := State.cfe) (fun p t => ?_) _ u
          split
          · rfl
          · exact (freeSlot_tasks ..).1
        · refine forEach_quiet (g := State.fsu) (fun p t => ?_) _ u
          split
          · rfl
          · exact (freeSlot_tasks ..).2
      · exact ⟨rfl, rfl⟩
    obtain ⟨hccfe, hcfsu⟩ := closeMove_keeps (rlIndex s k.desc) x s
    have hucat : u.cat = (closeMove (rlIndex s k.desc) x s).cat := by rw [← hu]; rfl
    have hukeep : u.cfe = (closeMove (rlIndex s k.desc) x s).cfe ∧ u.fsu = (closeMove (rlIndex s k.desc) x s).fsu := by
      rw [← hu]; exact ⟨rfl, rfl⟩
    obtain ⟨hdesc, -, hmove, htask⟩ := drained_closes (relocTask_some hk) hcached (hfree.trans (by rw [hucat]))
      (hvkeep.1.trans (hukeep.1.trans hccfe)) (hvkeep.2.trans (hukeep.2.trans hcfsu))
    exact ⟨_, e, hdesc, hmove, htask, exec_piece .host e⟩
  case within =>
    intro s n k m hk hstate hfwd hmove hne hreads hcached
    have e : exec (.drainFenceComplete n) s = .next (finishTask n (freeArray (descAt s (rlIndex s k.desc))
        (shardRows (dirAt s (dTable k.desc)) (sdShard (descAt s (rlIndex s k.desc)))) (1 - sdTier (descAt s (rlIndex s k.desc)))
        (sdAlt (descAt s (rlIndex s k.desc))) (sdTier (descAt s (rlIndex s k.desc))) (sdBase (descAt s (rlIndex s k.desc)))
        (closeMove (rlIndex s k.desc) (descAt s (rlIndex s k.desc)) s))) := by
      show Host.Outcome.next (doDrainFenceComplete n s) = _
      unfold doDrainFenceComplete
      rw [hk]
      dsimp only
      rw [if_neg (by omega), if_pos hstate, hfwd, hmove]
      dsimp only
      rw [if_neg (by simp [hreads, hne])]
      rfl
    obtain ⟨hdesc, -, hmove, htask⟩ := freeArray_closes (relocTask_some hk) hcached ..
    exact ⟨_, e, hdesc, hmove, htask, exec_piece .host e⟩

end Sys2Proof.Machine
end

section
/-! SUPPORT. Admission (R362 to R365). -/

namespace Sys2Proof.Machine

/-! ### The time of an admission -/

/-- What settles the time of an admission: it draws, time passes, and J_FOLIO_OUT may fall. -/
theorem settleTime_keeps (s : State) : (settleTime s).cfe = s.cfe ∧ (settleTime s).pods = s.pods ∧ (settleTime s).od = s.od ∧
    (settleTime s).mem = s.mem ∧ (settleTime s).hpt = s.hpt ∧ folio (settleTime s) = folio s ∧
    (settleTime s).fsu.admitted = s.fsu.admitted := by
  unfold settleTime
  split <;> exact ⟨rfl, rfl, rfl, rfl, rfl, rfl, rfl⟩

theorem mem_insert_ {k j : Task} {ks : List Task} : j ∈ inOrder.insert_ k ks ↔ j = k ∨ j ∈ ks := by
  induction ks with
  | nil => simp [inOrder.insert_]
  | cons x xs ih =>
    unfold inOrder.insert_
    split
    · rw [List.mem_cons, ih, List.mem_cons]
      tauto
    · simp

theorem mem_inOrder {j : Task} {ks : List Task} : j ∈ inOrder ks ↔ j ∈ ks := by
  induction ks with
  | nil => rfl
  | cons k ks ih =>
    unfold inOrder
    rw [mem_insert_, ih, List.mem_cons]

theorem admission_first {s : State} (hon : admitting s = true) : exec .admission s = .next (admitOne (settleTime s)) :=
  congrArg Host.Outcome.next (if_pos hon)

theorem admitOne_enter {s : State} {k : Task} (hfirst : (inOrder (candidates s)).find? (fun k => verdict s k != .pass) = some k)
    (hv : verdict s k = .enter) : admitOne s = admitTask k s := by
  unfold admitOne
  rw [hfirst]
  dsimp only
  rw [hv]

/-! ### Charges -/

/-- One share is charged. -/
def chargeOne (x : Nat × Nat) (s : State) : State :=
  onFsu (fun f => { f with
    remaining := tabPut x.1 (if fullBudget s x.1 < (x.2 : Int) then 0 else remaining s x.1 - x.2) f.remaining,
    charged := if f.charged.contains x.1 then f.charged else f.charged ++ [x.1] }) s

theorem charge_eq (sh : List (Nat × Nat)) (s : State) : charge sh s = forEach chargeOne (sh.filter (fun x => x.2 != 0)) s := rfl

theorem tabFind_chargeOne_same (x : Nat × Nat) (s : State) : tabFind x.1 (chargeOne x s).fsu.remaining =
    some (if fullBudget s x.1 < (x.2 : Int) then 0 else remaining s x.1 - x.2) :=
  (tabFind_put x.1 x.1 _ s.fsu.remaining).trans (if_pos rfl)

theorem tabFind_chargeOne_other {x : Nat × Nat} {key : Nat} (s : State) (h : key ≠ x.1) :
    tabFind key (chargeOne x s).fsu.remaining = tabFind key s.fsu.remaining :=
  (tabFind_put x.1 key _ s.fsu.remaining).trans (if_neg h)

theorem remaining_chargeOne_other {x : Nat × Nat} {key : Nat} (s : State) (h : key ≠ x.1) :
    remaining (chargeOne x s) key = remaining s key := by
  unfold remaining
  rw [tabFind_chargeOne_other s h]
  rfl

theorem fullBudget_chargeOne (x : Nat × Nat) (key : Nat) (s : State) : fullBudget (chargeOne x s) key = fullBudget s key := rfl

theorem tabFind_charged_other {xs : List (Nat × Nat)} {key : Nat} (s : State) (h : key ∉ xs.map (·.1)) :
    tabFind key (forEach chargeOne xs s).fsu.remaining = tabFind key s.fsu.remaining := by
  induction xs generalizing s with
  | nil => rfl
  | cons x xs ih =>
    rw [List.map_cons, List.mem_cons, not_or] at h
    exact (ih _ h.2).trans (tabFind_chargeOne_other s h.1)

/-- Shares of different budgets are each charged once. -/
theorem tabFind_charged {xs : List (Nat × Nat)} (s : State) (hnd : (xs.map (·.1)).Nodup) {x : Nat × Nat} (hx : x ∈ xs) :
    tabFind x.1 (forEach chargeOne xs s).fsu.remaining = some (if fullBudget s x.1 < (x.2 : Int) then 0 else remaining s x.1 - x.2) := by
  induction xs generalizing s with
  | nil => cases hx
  | cons y ys ih =>
    rw [List.map_cons, List.nodup_cons] at hnd
    rcases List.mem_cons.mp hx with rfl | hx
    · exact (tabFind_charged_other _ hnd.1).trans (tabFind_chargeOne_same x s)
    · have hne : x.1 ≠ y.1 := fun h => hnd.1 (h ▸ List.mem_map_of_mem hx)
      exact (ih (chargeOne y s) hnd.2 hx).trans (by rw [fullBudget_chargeOne, remaining_chargeOne_other s hne])

/-- Charges change the remaining budgets and which budgets are charged. -/
theorem charge_rest (sh : List (Nat × Nat)) (s : State) : { charge sh s with
    fsu := { (charge sh s).fsu with remaining := s.fsu.remaining, charged := s.fsu.charged } } = s := by
  rw [charge_eq]
  exact forEach_quiet (g := fun t : State => ({ t with fsu := { t.fsu with remaining := s.fsu.remaining, charged := s.fsu.charged } } : State))
    (f := chargeOne) (fun _ _ => rfl) _ s

/-! ### A task begins -/

/-- The task as it is admitted. -/
def admittedAs (k : Task) (s : State) (j : Task) : Task :=
  { j with
    phase := .admitted, admitFolio := folio s, rescale := bitOf (odGet s odQntRescale) (dTable j.desc), seq := s.fsu.admitted,
    phases := phasesOf s k, deals := dealOf s k.desc, shard0 := shard0Of s (dTable k.desc), hashSlot := odGet s odIxuHashSlot,
    binds := (List.range 9).map (fun kind => boundSlot s kind k.queue),
    rowStart := dealPod (dealOrder s (dealStart s k.desc)) 0, finishFolio := if dOp k.desc = opReloc then some (folio s) else none }

/-- What the admission of a task without a partner does. -/
theorem beginTask_begins {k : Task} {s : State} (hpair : pairOf s k = none) :
    (∀ j, getTask s k.id = some j → getTask (beginTask k s) k.id = some (admittedAs k s j)) ∧
    (∀ j, j ≠ k.id → getTask (beginTask k s) j = getTask s j) ∧ (beginTask k s).fsu.admitted = s.fsu.admitted + 1 ∧
    (getQ (beginTask k s) k.queue).cost = k.cost ∧
    (beginTask k s).fsu.remaining = (charge (sharesOf s k (phasesOf s k)) s).fsu.remaining ∧
    (∃ ps, (beginTask k s).pods = (wakePods ps s).pods) ∧
    (beginTask k s).mem = s.mem ∧ (beginTask k s).hpt = s.hpt ∧ (beginTask k s).od = s.od := by
  have hrest := charge_rest (sharesOf s k (phasesOf s k)) s
  unfold beginTask
  dsimp only
  generalize charge (sharesOf s k (phasesOf s k)) s = v at hrest ⊢
  rw [hpair]
  dsimp only
  generalize hw : (if dealt k.desc = 0 then v else onCfe (fun c => { c with
    dealNext := (dealPod (dealOrder s (dealStart s k.desc)) (dealt k.desc - 1) + 1) % 16 }) v) = w
  have hwv : w.cfe.tasks = v.cfe.tasks ∧ w.pods = v.pods ∧ w.fsu = v.fsu ∧ w.mem = v.mem ∧ w.hpt = v.hpt ∧ w.od = v.od := by
    rw [← hw]; split <;> exact ⟨rfl, rfl, rfl, rfl, rfl, rfl⟩
  obtain ⟨hwtasks, hwpods, hfsu, hwmem, hwhpt, hwod⟩ := hwv
  have htasks : w.cfe.tasks = s.cfe.tasks := hwtasks.trans (congrArg (fun t : State => t.cfe.tasks) hrest :)
  have hpods : w.pods = s.pods := hwpods.trans (congrArg State.pods hrest :)
  have hadmitted : w.fsu.admitted = s.fsu.admitted := by rw [hfsu]; exact (congrArg (fun t : State => t.fsu.admitted) hrest :)
  have hfolio : folio w = folio s := by unfold folio; rw [hfsu]; exact (congrArg (fun t : State => t.fsu.folio) hrest :)
  have hmem : w.mem = s.mem := hwmem.trans (congrArg State.mem hrest :)
  have hhpt : w.hpt = s.hpt := hwhpt.trans (congrArg State.hpt hrest :)
  have hod : w.od = s.od := hwod.trans (congrArg State.od hrest :)
  generalize hx : wakePods ((dealOf s k.desc).map (·.pod)) (modQ k.queue (fun r => { r with cost := k.cost })
    (onFsu (fun f => { f with admitted := f.admitted + 1 }) w)) = x
  have hxtasks : x.cfe.tasks = s.cfe.tasks := by rw [← hx]; exact htasks
  have hxq : getQ x k.queue = { getQ w k.queue with cost := k.cost } := by rw [← hx]; exact getQ_mod_same ..
  have hxod : x.od = s.od := by rw [← hx]; exact hod
  refine ⟨fun j hj => ?_, fun j hj => ?_, ?_, ?_, ?_, ⟨(dealOf s k.desc).map (·.pod), ?_⟩, ?_, ?_, hxod⟩
  · have hjx : getTask x k.id = some j := (getTask_congr hxtasks _).trans hj
    rw [hadmitted, hfolio, odGet_congr hxod]
    exact getTask_mod_same _ hjx (fun _ => rfl)
  · refine (getTask_mod_other x _ hj ?_).trans (getTask_congr hxtasks j)
    exact fun _ => rfl
  · rw [← hx]
    exact congrArg (· + 1) hadmitted
  · exact congrArg Queue.cost hxq
  · rw [← hfsu, ← hx]
    rfl
  · rw [← hx]
    exact congrArg (fun ps => (wakePods ((dealOf s k.desc).map (·.pod)) { s with pods := ps }).pods) hpods
  · rw [← hx]; exact hmem
  · rw [← hx]; exact hhpt

theorem groups_wakePods (ps : List Nat) (s : State) (p : Nat) : (getPod (wakePods ps s) p).groups = (getPod s p).groups := by
  have hpods : (wakePods ps s).pods = s.pods.map (fun x => (x.1, if ps.contains x.1 then { x.2 with lowVolt := false } else x.2)) := by
    unfold wakePods
    refine List.map_congr_left fun x _ => ?_
    split <;> rfl
  unfold getPod
  rw [hpods]
  generalize s.pods = table
  unfold tabGet
  induction table with
  | nil => rfl
  | cons x xs ih =>
    obtain ⟨j, q⟩ := x
    rw [List.map_cons]
    unfold tabFind
    split
    · split <;> rfl
    · exact ih

/-! ### A task enters -/

theorem admitTask_enters {k : Task} {s : State} (hcheck : tileCheck s k = none) (htrain : trainFlt s k = none) :
    admitTask k s = admitGroup k.id k (beginTask k s) := by
  unfold admitTask
  dsimp only
  rw [hcheck, htrain]

theorem dropNamedGroup_over {k : Task} {s : State} {n : Nat} {j : Task} (st : Nat) (hj : getTask s n = some j) (hover : canEnd j = false) :
    getTask (dropNamedGroup k st s) n = some j ∧ (dropNamedGroup k st s).fsu = s.fsu := by
  have hfsu : (dropNamedGroup k st s).fsu = s.fsu := by
    have h : Holds (fun t => t.fsu = s.fsu) s := rfl
    show Holds (fun t => t.fsu = s.fsu) _
    simp +contextual (maxDischargeDepth := 99) [keeps_fsu, h]
  refine ⟨?_, hfsu⟩
  unfold dropNamedGroup
  split
  · exact hj
  · split
    · exact hj
    · split
      · exact dropGroup_over _ _ _ _ hj hover
      · exact hj

/-- Settles O42: the task that enters by `beginTask_begins`, its charges by `remaining_charged`, its group by its Pod's groups. -/
theorem admissions : Obligations.Admissions := by
  unfold Obligations.Admissions
  refine ⟨?enters, ?opens, ?joins, ?aborts, ?noGroup, ?none⟩
  case enters =>
    intro s u k hu hon hfirst hv hcheck htrain hop hgroup hpair hk
    subst hu
    have e : exec .admission s = .next (beginTask k (settleTime s)) := by
      rw [admission_first hon, admitOne_enter hfirst hv, admitTask_enters hcheck htrain]
      unfold admitGroup
      dsimp only
      rw [if_neg hop, hgroup]
    obtain ⟨hcfe, -, hod, hmem, hhpt, hfolio, hadmitted⟩ := settleTime_keeps s
    obtain ⟨htask, hothers, hcount, hcost, hremaining, -, hbmem, hbhpt, hbod⟩ := beginTask_begins hpair
    refine ⟨_, e, ⟨_, htask k hk, rfl, hfolio, hadmitted, rfl, rfl, rfl, rfl⟩, hcount.trans (by rw [hadmitted]), hcost,
      fun hnd x hx hx0 => ?_, fun j hj => (hothers j hj).trans (getTask_congr (congrArg Cfe.tasks hcfe) j), hbmem.trans hmem, hbhpt.trans hhpt,
      hbod.trans hod⟩
    have hmem : x ∈ (sharesOf (settleTime s) k (phasesOf (settleTime s) k)).filter (fun x => x.2 != 0) :=
      List.mem_filter.mpr ⟨hx, by simpa using hx0⟩
    have hnd' : (((sharesOf (settleTime s) k (phasesOf (settleTime s) k)).filter (fun x => x.2 != 0)).map (·.1)).Nodup :=
      hnd.sublist (List.filter_sublist.map _)
    have hfound := tabFind_charged (settleTime s) hnd' hmem
    unfold remaining
    rw [hremaining, charge_eq, hfound]
    rfl
  case opens =>
    intro s u k hu hon hfirst hv hcheck htrain hop hpair
    subst hu
    obtain ⟨-, -, -, -, -, ⟨ps, hpods⟩, -⟩ := beginTask_begins hpair
    have hgroups : (getPod (beginTask k (settleTime s)) (namedRun k.desc).pod).groups = (getPod s (namedRun k.desc).pod).groups := by
      unfold getPod
      rw [hpods]
      exact (groups_wakePods ps (settleTime s) _).trans (by unfold getPod; rw [(settleTime_keeps s).2.1])
    rw [admission_first hon, admitOne_enter hfirst hv, admitTask_enters hcheck htrain]
    refine ⟨_, rfl, ?_⟩
    unfold admitGroup
    dsimp only
    rw [if_pos hop, getPod_mod_same]
    dsimp only
    rw [hgroups]
  case joins =>
    intro s u k pod n hu hon hfirst hv hcheck htrain hop hgroup hpair
    subst hu
    obtain ⟨-, -, -, -, -, ⟨ps, hpods⟩, -⟩ := beginTask_begins hpair
    have hgroups : (getPod (beginTask k (settleTime s)) pod).groups = (getPod s pod).groups := by
      unfold getPod
      rw [hpods]
      exact (groups_wakePods ps (settleTime s) _).trans (by unfold getPod; rw [(settleTime_keeps s).2.1])
    rw [admission_first hon, admitOne_enter hfirst hv, admitTask_enters hcheck htrain]
    refine ⟨_, rfl, ?_⟩
    unfold admitGroup
    dsimp only
    rw [if_neg hop, hgroup]
    dsimp only
    rw [getPod_mod_same]
    dsimp only
    rw [hgroups]
  case aborts =>
    intro s u k hu hon hfirst hv hk hend
    subst hu
    have e : exec .admission s = .next (dropNamedGroup k stBudgetAbort (odCount odFsuBudgetAborts 1
        (endTask k.id stBudgetAbort 0 0 (settleTime s)))) := by
      rw [admission_first hon]
      unfold admitOne
      rw [hfirst]
      dsimp only
      rw [hv]
    have hended := endTask_ended stBudgetAbort 0 0 hk hend
    have hfolio := (settleTime_keeps s).2.2.2.2.2.1
    unfold endedAs at hended ⊢
    rw [hfolio] at hended
    have hfsu : (endTask k.id stBudgetAbort 0 0 (settleTime s)).fsu = (settleTime s).fsu := by
      have h : Holds (fun t => t.fsu = (settleTime s).fsu) (settleTime s) := rfl
      show Holds (fun t => t.fsu = (settleTime s).fsu) _
      simp +contextual (maxDischargeDepth := 99) [keeps_fsu, h]
    obtain ⟨hccfe, hcfsu, -⟩ := odCount_keeps odFsuBudgetAborts 1 (endTask k.id stBudgetAbort 0 0 (settleTime s))
    have hcended := (getTask_congr (congrArg Cfe.tasks hccfe) k.id).trans hended
    have hdropped := dropNamedGroup_over (k := k) stBudgetAbort hcended (ended_over ..)
    exact ⟨_, e, hdropped.1, hdropped.2.trans (hcfsu.trans hfsu)⟩
  case noGroup =>
    intro s u k hu hon hfirst hv hk hend
    subst hu
    have e : exec .admission s = .next (refuseGroup k (settleTime s)) := by
      rw [admission_first hon]
      unfold admitOne
      rw [hfirst]
      dsimp only
      rw [hv]
    have hended := endTask_ended stNoGroup 0 0 hk hend
    have hfolio := (settleTime_keeps s).2.2.2.2.2.1
    unfold endedAs at hended ⊢
    rw [hfolio] at hended
    refine ⟨_, e, hended, ?_⟩
    have h : Holds (fun t => t.fsu = (settleTime s).fsu) (settleTime s) := rfl
    show Holds (fun t => t.fsu = (settleTime s).fsu) _
    simp +contextual (maxDischargeDepth := 99) [keeps_fsu, h]
  case none =>
    intro s u hu hon hpass
    subst hu
    have hnone : (inOrder (candidates (settleTime s))).find? (fun k => verdict (settleTime s) k != .pass) = none := by
      rw [List.find?_eq_none]
      intro k hk
      simp [hpass k (mem_inOrder.mp hk)]
    rw [admission_first hon]
    unfold admitOne
    rw [hnone]
    rfl

end Sys2Proof.Machine
end

section
/-! SUPPORT. Lines read through a slice (R261 to R276): what an access of a class leaves as it is. -/

namespace Sys2Proof.Machine

/-- From s to t lines were served: nothing has changed but slices, reads of lines, and the counts and queues that go with
them. -/
structure linesServed (s t : State) : Prop where
  cfe : t.cfe = s.cfe
  cat : t.cat = s.cat
  mem : t.mem = s.mem
  sfp : t.sfp = s.sfp
  fsu : t.fsu = s.fsu
  upu : t.upu = s.upu
  msc : t.msc = s.msc
  cru : t.cru = s.cru
  pods : ∀ p, { getPod t p with reads := [], slice := {} } = { getPod s p with reads := [], slice := {} }
  linked : linked t = linked s

namespace linesServed

variable {s t u : State}

theorem refl (s : State) : linesServed s s := by constructor <;> intros <;> rfl

theorem trans (h : linesServed s t) (h' : linesServed t u) : linesServed s u where
  cfe := h'.cfe.trans h.cfe
  cat := h'.cat.trans h.cat
  mem := h'.mem.trans h.mem
  sfp := h'.sfp.trans h.sfp
  fsu := h'.fsu.trans h.fsu
  upu := h'.upu.trans h.upu
  msc := h'.msc.trans h.msc
  cru := h'.cru.trans h.cru
  pods p := (h'.pods p).trans (h.pods p)
  linked := h'.linked.trans h.linked

theorem flu (h : linesServed s t) (p : Nat) : (getPod t p).flu = (getPod s p).flu := (congrArg Pod.flu (h.pods p) :)

theorem getTask (h : linesServed s t) (n : Nat) : getTask t n = getTask s n := by unfold Machine.getTask; rw [h.cfe]

/-- A change of the counts, of Stacks' own registers, of the Memory Subsystem or of the Host Port is none of the rest. -/
theorem odCount (h : linesServed s t) (k n : Nat) (hstate : odSfpPortState ≠ k := by decide) (hroute : odSfpRoute ≠ k := by decide) :
    linesServed s (odCount k n t) := by
  refine h.trans ?_
  have hlinked := linked_congr (odGet_count_other n t hstate) (odGet_count_other n t hroute)
  obtain ⟨f, hf⟩ := odCount_on k n t
  rw [hf] at hlinked ⊢
  constructor
  case linked => exact hlinked
  all_goals intros; rfl

theorem onStk (h : linesServed s t) (f : Stk → Stk) : linesServed s (onStk f t) := h.trans (by constructor <;> intros <;> rfl)

theorem onMss (h : linesServed s t) (f : Mss → Mss) : linesServed s (onMss f t) := h.trans (by constructor <;> intros <;> rfl)

theorem drawn (h : linesServed s t) : linesServed s (drawn t) := h.trans (by constructor <;> intros <;> rfl)

theorem hptRead (h : linesServed s t) (asid w n : Nat) : linesServed s (hptRead asid w n t) := by
  refine h.trans ?_
  unfold Machine.hptRead translate
  split
  · constructor <;> intros <;> rfl
  · exact .refl t

/-- A change of one Pod that keeps all but its reads and its slice. -/
theorem modPod (h : linesServed s t) (pod : Nat) (f : Pod → Pod)
    (hf : ∀ p, { f p with reads := [], slice := {} } = { p with reads := [], slice := {} }) : linesServed s (modPod pod f t) := by
  refine h.trans ?_
  constructor
  case pods =>
    intro p
    by_cases hp : p = pod
    · subst hp; rw [getPod_mod_same]; exact hf _
    · rw [getPod_mod_other f t hp]
  all_goals rfl

theorem modSlice (h : linesServed s t) (pod : Nat) (f : Slice → Slice) : linesServed s (modSlice pod f t) :=
  h.modPod pod _ (fun _ => by rfl)

/-- A change of every slice that keeps an empty one empty. -/
theorem mapSlices (h : linesServed s t) (f : Slice → Slice) (hf : f {} = {}) :
    linesServed s (onPods (fun ps => ps.map (fun p => (p.1, { p.2 with slice := f p.2.slice }))) t) := by
  refine h.trans ?_
  constructor
  case pods =>
    intro p
    rw [getPod_map (fun p => { p with slice := f p.slice }) t p (by rw [hf])]
  all_goals rfl

/-- A list of steps of which each serves lines. -/
theorem forEach {α : Type} {f : α → State → State} (hf : ∀ x t, linesServed s t → linesServed s (f x t)) (xs : List α)
    (h : linesServed s t) : linesServed s (forEach f xs t) :=
  forEach_holds (P := linesServed s) f hf xs h

theorem sweepAll (h : linesServed s t) : linesServed s (sweepAll t) := by
  unfold Machine.sweepAll
  split
  · exact h
  · refine forEach (fun k t ht => ?_) _ h
    unfold sweepOn
    split
    · exact ht
    · exact (ht.drawn.onStk _).mapSlices (fun x => { x with lines := x.lines.filter _ }) rfl

theorem touchLine (h : linesServed s t) (pod way : Nat) (l : Line) : linesServed s (touchLine pod way l t) :=
  (((h.onStk _).modSlice pod _).odCount _ _).odCount _ _

theorem allocDir (h : linesServed s t) (tier a : Nat) : linesServed s (allocDir tier a t) := by
  unfold Machine.allocDir
  dsimp only
  split
  · exact h
  · split
    · exact h
    · exact (h.drawn.odCount _ _).mapSlices (fun x => { x with lines := x.lines.filter _, weed := x.weed.filter _ }) rfl

theorem installLine (h : linesServed s t) (pod cls tier a : Nat) (bs : List Byte) (pre : Bool) :
    linesServed s (installLine pod cls tier a bs pre t) := by
  unfold Machine.installLine
  dsimp only
  split
  · exact h
  · exact ((h.allocDir tier a).onStk _).modSlice pod _

theorem ackWeed (h : linesServed s t) (pod : Nat) : linesServed s (ackWeed pod t) := h.modSlice pod _

theorem openSlip (h : linesServed s t) (pod cls tier a : Nat) (pre : Bool) (ids : List Nat) :
    linesServed s (openSlip pod cls tier a pre ids t).2 := by
  unfold Machine.openSlip
  dsimp only
  exact h.modSlice pod _

theorem openPrefetch (h : linesServed s t) (pod tier a : Nat) : linesServed s (openPrefetch pod tier a t) := by
  unfold Machine.openPrefetch
  dsimp only
  split
  · exact h.openSlip pod 0 tier _ true []
  · exact h

/-- A request that finds its line in no way. -/
theorem askMiss (h : linesServed s t) (pod cls tier a rid : Nat) (pre : Bool) :
    linesServed s (askMiss pod cls tier a rid pre t).1 := by
  unfold Machine.askMiss joinSlip
  split
  · exact h.odCount odStkWeedHits 1
  · split
    · split
      · exact (h.modSlice pod _).odCount odStkMerged 1
      · exact h
    · split
      · exact h.odCount odStkSlipWaits 1
      · split
        · exact h
        · have hx := (h.odCount odStkMisses 1).openSlip pod cls tier a false [rid]
          dsimp only
          split
          · exact hx.openPrefetch pod tier a
          · exact hx

/-- A request that meets no error in a way. -/
theorem askLine (h : linesServed s t) (pod cls tier a rid : Nat) (pre : Bool) :
    linesServed s (askLine pod cls tier a rid 0 pre t).1 := by
  unfold Machine.askLine
  dsimp only
  split
  · exact h.sweepAll.touchLine pod _ _
  · exact h.sweepAll.askMiss pod cls tier a rid pre

theorem modRead (h : linesServed s t) (pod id : Nat) (f : ReadRec → ReadRec) : linesServed s (modRead pod id f t) :=
  h.modPod pod _ (fun _ => by rfl)

theorem askFor (h : linesServed s t) (pod : Nat) (r : ReadRec) (la : Nat) : linesServed s (askFor pod r 0 la t) := by
  unfold Machine.askFor
  have hx := h.askLine pod 0 (if r.space = 1 then 0 else 1) la r.id r.ahead
  dsimp only
  split <;> exact hx.modRead pod r.id _

theorem retryHeld (h : linesServed s t) (pod : Nat) : linesServed s (retryHeld pod t) :=
  forEach (fun r _ ht => forEach (fun la _ ht => ht.askFor pod r la) _ (ht.modRead pod r.id _)) _ h

theorem serveReads (h : linesServed s t) (pod n a : Nat) (ids : List Nat) (bs : List Byte) :
    linesServed s (serveReads pod n a ids bs t) := h.modPod pod _ (fun _ => by rfl)

theorem closeSlip (h : linesServed s t) (pod n : Nat) : linesServed s (closeSlip pod n t) := by
  unfold Machine.closeSlip serveWrites
  exact (h.modSlice pod _).onMss _

theorem reissue (h : linesServed s t) (pod : Nat) (c : Slip) : linesServed s (reissue pod c t) := by
  unfold Machine.reissue
  dsimp only
  split
  · exact h
  · exact (((h.odCount _ _).openSlip pod c.cls c.tier c.addr false c.after).modPod pod _ (fun _ => by rfl)).odCount _ _

/-- The fill of a slip arrives. -/
theorem fillSlip (h : linesServed s t) (pod : Nat) (c : Slip) : linesServed s (fillSlip pod c t) := by
  unfold Machine.fillSlip
  have h0 : linesServed s (if c.tier = 1 then Machine.hptRead (engineAsid t) c.addr 128 t
      else Machine.onMss (fun m => { m with atomsRead := m.atomsRead + 2 }) t) := by
    split
    · exact h.hptRead _ _ _
    · exact h.onMss _
  dsimp only
  split
  · exact (((h0.serveReads ..).closeSlip ..).reissue ..).retryHeld pod
  · exact (((((h0.sweepAll.installLine ..).odCount ..)).serveReads ..).closeSlip ..).retryHeld pod

theorem fillNow (h : linesServed s t) (pod : Nat) (c : Slip) : linesServed s (fillNow pod c t) := by
  unfold Machine.fillNow
  split
  · exact ((h.odCount _ _).ackWeed pod).fillSlip pod c
  · exact h.fillSlip pod c

theorem missNow (h : linesServed s t) (pod cls tier a : Nat) : linesServed s (missNow pod cls tier a t) := by
  unfold Machine.missNow
  have h0 : linesServed s (match (getSlice t pod).slips with
      | c :: _ => if 1024 ≤ (getSlice t pod).slips.length then Machine.fillNow pod c (Machine.odCount odStkSlipWaits 1 t) else t
      | [] => t) := by
    split
    · split
      · exact (h.odCount _ _).fillNow pod _
      · exact h
    · exact h
  have hx := (h0.odCount odStkMisses 1).openSlip pod cls tier a false []
  dsimp only at hx ⊢
  split
  · exact hx
  · exact hx.fillNow pod _

/-- A read of one line by a class. -/
theorem readLine (h : linesServed s t) (pod cls tier a : Nat) : linesServed s (readLine pod cls tier a t).2 := by
  unfold Machine.readLine
  dsimp only
  split
  · exact h.sweepAll.touchLine pod _ _
  · split
    · exact h.sweepAll.odCount odStkWeedHits 1
    · split
      · exact (h.sweepAll.odCount odStkMerged _).fillNow pod _
      · exact h.sweepAll.missNow pod cls tier a

theorem stkRead (h : linesServed s t) (pod cls tier a n : Nat) : linesServed s (stkRead pod cls tier a n t).2 := by
  unfold Machine.stkRead
  dsimp only
  generalize ([] : List Byte) = bs
  induction linesOf a n generalizing t bs with
  | nil => exact h
  | cons la las ih => exact ih (h.readLine pod cls tier la) _

theorem readClass (h : linesServed s t) (asid pod w n : Nat) : linesServed s (readClass asid pod w n t).2 := by
  unfold Machine.readClass
  split
  · exact h.stkRead ..
  · exact h.hptRead ..

theorem loadRows (asid pod width : Nat) (aws : List (Option Nat)) (rows : List (List Byte)) (r : LoadRun)
    (h : linesServed s r.s) : linesServed s (loadRows asid pod width aws rows r).s := by
  induction aws generalizing rows r with
  | nil => exact h
  | cons aw aws ih =>
    unfold Machine.loadRows
    split
    · exact h
    · exact ih _ _ (h.readClass ..)

/-- The accesses of a load stream serve lines, whatever they come to. -/
theorem loadActs (asid pod : Nat) (acts : List SAct) (r : LoadRun) (h : linesServed s r.s) :
    linesServed s (loadActs asid pod acts r).s := by
  induction acts generalizing r with
  | nil => exact h
  | cons act acts ih =>
    cases act with
    | rd aw n =>
      unfold Machine.loadActs
      split
      · exact h
      · exact ih _ (h.readClass ..)
    | ix aw n =>
      unfold Machine.loadActs
      split
      · exact h
      · exact ih _ (h.hptRead ..)
    | wr aw bs => unfold Machine.loadActs; exact ih _ h
    | tile rows width =>
      have hx := loadRows asid pod width rows [] r h
      unfold Machine.loadActs
      dsimp only
      split
      · exact hx
      · exact ih _ hx

theorem runLoad (k : Task) (pod kind : Nat) (acts : List SAct) (s : State) : linesServed s (runLoad k pod kind acts s).s := by
  unfold Machine.runLoad
  split
  · exact .refl s
  · exact loadActs _ _ _ _ (.refl s)

end linesServed

end Sys2Proof.Machine
end

section
/-! SUPPORT. The Fold Unit's latches, passes, captures and weights (07). -/

namespace Sys2Proof.Machine

/-! ### Handle queues of a Pod -/

/-- Where the pointer copies of a queue agree the command is carried out. -/
theorem withHq_ok {s : State} {p q : Nat} (f : State → State) (h : hqOk (hqOf (getPod s p) q) = true) : withHq p q f s = f s :=
  if_pos h

/-! ### Latches -/

theorem latchRowFill_fills {s : State} {pod : Nat} {h : Handle} {rest : List Handle} {k : Task}
    {y : F32 × List Int × Nat} (hon : podOn s pod [7, 8] = true) (hq : hqOk (getPod s pod).hq1 = true)
    (hi : (getPod s pod).hq1.items = h :: rest) (hk : getTask s h.task = some k) (hst : h.st = .pooled) (hf : h.fold = true)
    (hlen : (getPod s pod).flu.shadow.length < 160) (hown : foldOwned (getPod s pod) = false)
    (hj : joinsSet s k (getPod s pod).flu.shadow = true)
    (hy : y = latchRow (dInBits k.desc) (carrelRow s pod h.carrel (sdDim k.shard0))) :
    ∃ g : Flu → Flu, (∀ f, (g f).shadow = f.shadow ++ [{ task := h.task, bag := h.bag, a := y.1, codes := y.2.1 }]) ∧
      doLatchRowFill pod s = modFlu pod g (modTask h.task (fun k => { k with sats := k.sats + y.2.2 })
        (freeCarrels pod h.carrel h.carrels (popHandle pod 1 s))) := by
  have hid := getTask_id hk
  unfold doLatchRowFill
  rw [if_neg (by simp [hon]), withHq_ok _ (by exact hq)]
  have hh : headHandle s pod 1 = some h := by unfold headHandle; show (getPod s pod).hq1.items.head? = _; rw [hi]; rfl
  dsimp only
  rw [hh]
  dsimp only
  rw [hk]
  dsimp only
  rw [if_neg (by simp [hst, hf, hown, hj, hlen]), ← hy, hid]
  exact ⟨_, fun f => rfl, rfl⟩

/-! ### A pass starts -/

theorem getPod_odCount (k n : Nat) (s : State) : getPod (odCount k n s) = getPod s := by
  unfold getPod; rw [show (odCount k n s).pods = s.pods from (congrArg State.pods (odCount_rest k n s) :)]

/-- The Pod whose pass has started with its shadow set. -/
def passOn (s : State) (pod : Nat) (p : Pod) : Pod :=
  { p with flu := { p.flu with
      active := p.flu.shadow, shadow := [], running := true, block := 0, cfg := setCfg s pod p.flu.shadow, expired := false, idle := false } }

theorem foldPassStart_starts {s : State} {pod : Nat} (hon : podOn s pod [7] = true) (hr : (getPod s pod).flu.running = false)
    (ha : (getPod s pod).flu.active = []) (hp : passReady s pod = true) :
    getPod (doFoldPassStart pod s) pod = passOn s pod (getPod s pod) ∧
    (∀ p, p ≠ pod → getPod (doFoldPassStart pod s) p = getPod s p) ∧
    (doFoldPassStart pod s).mem = s.mem ∧ (doFoldPassStart pod s).cfe = s.cfe := by
  unfold doFoldPassStart
  dsimp only
  rw [if_neg (by simp [hon, hr, ha, hp])]
  generalize hu : (if ((getPod s pod).flu.idle || (getPod s pod).flu.cfg != setCfg s pod (getPod s pod).flu.shadow) = true then
    odCount odFluRamps 1 (odCount odFluActiveCycles 45 s) else s) = u
  have hmem : u.mem = s.mem := by subst hu; split <;> simp only [odCount_keeps]
  have hcfe : u.cfe = s.cfe := by subst hu; split <;> simp only [odCount_keeps]
  have hget (p : Nat) : getPod u p = getPod s p := by subst hu; split <;> simp only [getPod_odCount]
  unfold modFlu
  refine ⟨?_, fun p hne => ?_, hmem, hcfe⟩
  · rw [getPod_mod_same, hget]; rfl
  · rw [getPod_mod_other _ _ hne, hget]

/-! ### A capture -/

/-- Handles pushed one after the other stand at the end of their queue, in order. -/
theorem pushHandles_pushed (pod : Nat) (hs : List Handle) (s : State) (t : State)
    (ht : t = forEach (fun h s => pushHandle pod 2 h s) hs s) :
    (getPod t pod).hq2.items = (getPod s pod).hq2.items ++ hs ∧ (getPod t pod).flu = (getPod s pod).flu ∧
    (∀ p, p ≠ pod → getPod t p = getPod s p) ∧ { t with pods := s.pods } = s := by
  induction hs generalizing s with
  | nil => subst ht; exact ⟨(List.append_nil _).symm, rfl, fun _ _ => rfl, rfl⟩
  | cons h hs ih =>
    obtain ⟨hitems, hflu, hother, hrest⟩ := ih (pushHandle pod 2 h s) ht
    unfold pushHandle at hitems hflu hother
    rw [getPod_mod_same] at hitems hflu
    refine ⟨hitems.trans (List.append_assoc ..), hflu, fun p hp => (hother p hp).trans (getPod_mod_other _ _ hp), ?_⟩
    exact (congrArg (fun u : State => { u with pods := s.pods }) hrest :)

/-- Changes of deals are changes of the front end alone. -/
theorem modDeals_rest (f : Deal → Deal) (ls : List Latch) (s : State) :
    { forEach (fun l s => modDeal l.task l.bag f s) ls s with cfe := s.cfe } = s := by
  induction ls generalizing s with
  | nil => rfl
  | cons l ls ih => exact (congrArg (fun t : State => { t with cfe := s.cfe }) (ih (modDeal l.task l.bag f s)) :)

/-- What a capture comes to: the handles stand in their queue, the block is counted, and after the last block the set is
done. -/
theorem foldCapture_captures {s : State} {pod : Nat} {f : Flu} {hs : List Handle} (hf : f = (getPod s pod).flu)
    (hhs : hs = foldedHandles s pod f.block f.active) (hq : hqOk (getPod s pod).hq2 = true) (hr : f.running = true)
    (hu : f.unread = 0) (hsc : scalesHere s pod f.active = true) (hroom : (getPod s pod).hq2.items.length + hs.length ≤ 256)
    (hon : podOn s pod [7] = true) (t : State) (ht : t = doFoldCapture pod s) :
    t.mem = (captureTiles pod (f.active.map (fun l => foldAcc f.block l.codes
      (halfOf (getPod s pod) ((f.cfg.map (·.1)).getD 0)).w)) s).mem ∧ t.hpt = s.hpt ∧
    (getPod t pod).hq2.items = (getPod s pod).hq2.items ++ hs ∧ (∀ p, p ≠ pod → getPod t p = getPod s p) ∧
    ∃ idle : Bool, (getPod t pod).flu = if f.block + 1 < foldBlocks (layerCols f)
      then { f with unread := hs.length, block := f.block + 1 }
      else { f with unread := hs.length, block := f.block + 1, active := [], running := false, idle := idle } := by
  unfold doFoldCapture at ht
  rw [withHq_ok _ (by exact hq)] at ht
  dsimp only at ht
  rw [← hf, ← hhs, if_neg (by simp only [hr, hu, hsc, hon]; simp; omega)] at ht
  generalize hc : captureTiles pod _ s = c at ht ⊢
  have hcget : getPod c = getPod s := by subst hc; rfl
  have hchpt : c.hpt = s.hpt := by subst hc; rfl
  generalize hd : odCount odFluActiveCycles _ _ = d at ht
  have hdget : getPod d = getPod s := by subst hd; simp only [getPod_odCount, hcget]
  have hdhpt : d.hpt = s.hpt := by subst hd; simp only [odCount_hpt, hchpt]
  have hdmem : d.mem = c.mem := by subst hd; simp only [odCount_keeps]
  generalize hp : forEach _ hs d = u at ht
  obtain ⟨hitems, hflu, hother, hrest⟩ := pushHandles_pushed pod hs d u hp.symm
  rw [hdget] at hitems hflu
  have humem : u.mem = c.mem := (congrArg State.mem hrest :).trans hdmem
  have huhpt : u.hpt = s.hpt := (congrArg State.hpt hrest :).trans hdhpt
  have hother' (p : Nat) (hp : p ≠ pod) : getPod u p = getPod s p := (hother p hp).trans (by rw [hdget])
  rw [← hf] at hflu
  generalize hv : modFlu pod _ u = v at ht
  have hvmem : v.mem = c.mem := by subst hv; exact humem
  have hvhpt : v.hpt = s.hpt := by subst hv; exact huhpt
  have hvother (p : Nat) (hp : p ≠ pod) : getPod v p = getPod s p := by
    subst hv; exact (getPod_mod_other _ _ hp).trans (hother' p hp)
  have hvpod : (getPod v pod).hq2 = (getPod u pod).hq2 ∧
      (getPod v pod).flu = { f with unread := hs.length, block := f.block + 1 } := by
    subst hv; unfold modFlu; rw [getPod_mod_same, ← hflu]; exact ⟨rfl, rfl⟩
  split at ht
  next hlast =>
    subst ht
    refine ⟨hvmem, hvhpt, by rw [hvpod.1, hitems], hvother, false, ?_⟩
    rw [if_pos hlast, hvpod.2]
  next hlast =>
    generalize hw : forEach _ f.active v = w at ht
    have hwrest : { w with cfe := v.cfe } = v := by subst hw; exact modDeals_rest _ _ _
    have hwget : getPod w = getPod v := by unfold getPod; rw [show w.pods = v.pods from (congrArg State.pods hwrest :)]
    subst ht
    unfold modFlu
    refine ⟨(congrArg State.mem hwrest :).trans hvmem, (congrArg State.hpt hwrest :).trans hvhpt, ?_, fun p hp => ?_, ?_⟩
    · rw [getPod_mod_same, hwget]; exact (congrArg HQueue.items hvpod.1).trans hitems
    · rw [getPod_mod_other _ _ hp, hwget, hvother p hp]
    · refine ⟨!passReady w pod, ?_⟩
      rw [if_neg hlast, getPod_mod_same, hwget, hvpod.2]

/-! ### Weights -/

theorem halfOf_setHalf (h : Nat) (x : Half) (p : Pod) : halfOf (setHalf h x p) h = x := by
  unfold halfOf setHalf; split <;> rfl

theorem setHalf_setHalf (h : Nat) (x : Half) (p : Pod) : setHalf h x (setHalf h x p) = setHalf h x p := by
  unfold setHalf; split <;> rfl

/-- The Pods of a list that meet a condition change alike, and nothing else does; f changes nothing a second time. -/
theorem modPods_where (c : Pod → Bool) (f : Pod → Pod) (hf : ∀ p, f (f p) = f p) (ps : List Nat) (s t : State)
    (ht : t = forEach (fun p s => if c (getPod s p) = true then modPod p f s else s) ps s) :
    (∀ p, getPod t p = if p ∈ ps ∧ c (getPod s p) = true then f (getPod s p) else getPod s p) ∧ { t with pods := s.pods } = s := by
  induction ps generalizing s with
  | nil => subst ht; exact ⟨fun p => (if_neg (by simp)).symm, rfl⟩
  | cons q qs ih =>
    by_cases hc : c (getPod s q) = true
    · obtain ⟨hget, hrest⟩ := ih (modPod q f s) (by rw [ht]; exact congrArg _ (if_pos hc))
      refine ⟨fun p => ?_, (congrArg (fun u : State => { u with pods := s.pods }) hrest :)⟩
      rw [hget p]
      by_cases hp : p = q
      · subst hp
        rw [getPod_mod_same, hf, ite_self, if_pos ⟨.head qs, hc⟩]
      · simp [getPod_mod_other f s hp, hp]
    · obtain ⟨hget, hrest⟩ := ih s (by rw [ht]; exact congrArg _ (if_neg hc))
      refine ⟨fun p => ?_, hrest⟩
      rw [hget p]
      by_cases hp : p = q
      · subst hp; simp [hc]
      · simp [hp]

/-- A load begins: the half of every Pod to load is being filled, and no other Fold Unit changes. -/
theorem beginLoad_begins {s : State} {n : Nat} {k : Task} (hk : getTask s n = some k) (hne : loadPods s k ≠ []) :
    (∀ p ∈ loadPods s k, halfOf (getPod (beginLoad k s) p) (dBufHalf k.desc) = { tag := none, loading := [n], w := [] }) ∧
    (∀ p, p ∉ loadPods s k → (getPod (beginLoad k s) p).flu = (getPod s p).flu) ∧ getTask (beginLoad k s) n = some k := by
  have hid := getTask_id hk
  unfold beginLoad
  dsimp only
  rw [if_neg (by simpa using hne), hid]
  generalize hu : forEach _ (loadPods s k) s = u
  obtain ⟨hget, hrest⟩ := modPods_where (fun _ => true) (setHalf (dBufHalf k.desc) { tag := none, loading := [n], w := [] })
    (setHalf_setHalf _ _) (loadPods s k) s u (by simp [← hu])
  have hsame {t : State} (hpods : podsBare t = podsBare u) (htasks : t.cfe.tasks = u.cfe.tasks) :
      (∀ p, (getPod t p).flu = (getPod u p).flu) ∧ getTask t n = getTask s n := by
    refine ⟨fun p => (congrArg Pod.flu ((getPod_bare t p).trans ((congrArg (tabGet p {}) hpods).trans (getPod_bare u p).symm)) :), ?_⟩
    exact getTask_congr (htasks.trans (congrArg (fun x : State => x.cfe.tasks) hrest :)) n
  generalize ht : (if dPreloaded k.desc = true then _ else u) = t
  obtain ⟨hflu, htask⟩ : (∀ p, (getPod t p).flu = (getPod u p).flu) ∧ getTask t n = getTask s n := by
    subst ht
    split
    · refine hsame ((podsBare_postEvent ..).trans ?_) ((quiet_tasksOf.event ..).trans ?_)
      · unfold podsBare; rw [(congrArg State.pods (odCount_rest _ _ u) :)]
      · unfold tasksOf; rw [(congrArg (fun x : State => x.cfe) (odCount_rest _ _ u) :)]
    · exact hsame rfl rfl
  refine ⟨fun p hp => ?_, fun p hp => ?_, htask.trans hk⟩
  · have hh : halfOf (getPod t p) (dBufHalf k.desc) = halfOf (getPod u p) (dBufHalf k.desc) := by unfold halfOf; rw [hflu p]
    rw [hh, hget p, if_pos ⟨hp, rfl⟩, halfOf_setHalf]
  · rw [hflu p, hget p, if_neg (by simp [hp])]

/-- The data of a load arrives in every half that the task fills, and the task holds its weights. -/
theorem endLoad_ends {s : State} {n : Nat} {k : Task} {r : LoadRun} (hk : getTask s n = some k)
    (hr : r = runLoad k ((taskPods k).headD 0) 4 (weightActs s k ((taskPods k).headD 0)) s) (hflt : r.flt = none) :
    (∀ p ∈ podNums, filling (getPod s p) k = true → halfOf (getPod (endLoad k s) p) (dBufHalf k.desc) =
      { tag := some (foldTag k), loading := [], w := weightRows r.s k r.chunks }) ∧
    (∀ p ∈ podNums, filling (getPod s p) k = false → (getPod (endLoad k s) p).flu = (getPod s p).flu) ∧
    getTask (endLoad k s) n = some { k with wLoaded := true, wBytes := r.bytes } := by
  obtain rfl := getTask_id hk
  have hserved : linesServed s r.s := by rw [hr]; exact .runLoad ..
  unfold endLoad
  dsimp only
  rw [← hr, hflt]
  dsimp only
  generalize hc : odCount odFluWloadBytes r.bytes r.s = c
  have hcserved : linesServed s c := by subst hc; exact hserved.odCount _ _
  have hw : weightRows (modTask k.id (fun k => { k with wBytes := r.bytes }) c) k r.chunks = weightRows r.s k r.chunks := by
    have hfree : (modTask k.id (fun k => { k with wBytes := r.bytes }) c).gau.free = r.s.gau.free := by
      subst hc; exact (congrArg (fun x : State => x.gau.free) (odCount_rest odFluWloadBytes r.bytes r.s) :)
    unfold weightRows delivered
    rw [hfree]
  rw [hw]
  generalize hu : modTask k.id _ c = u
  have hutask : getTask u k.id = some { k with wBytes := r.bytes } := by
    subst hu; exact getTask_mod_same _ ((hcserved.getTask k.id).trans hk) (fun _ => rfl)
  have huflu (p : Nat) : (getPod u p).flu = (getPod s p).flu := by subst hu; exact hcserved.flu p
  have hfill (p : Nat) : filling (getPod u p) k = filling (getPod s p) k := by unfold filling halfOf; rw [huflu p]
  generalize hv : forEach _ podNums (drawn u) = v
  obtain ⟨hget, hrest⟩ := modPods_where (fun p => filling p k)
    (setHalf (dBufHalf k.desc) { tag := some (foldTag k), loading := [], w := weightRows r.s k r.chunks })
    (setHalf_setHalf _ _) podNums (drawn u) v hv.symm
  have hvtask : getTask v k.id = some { k with wBytes := r.bytes } :=
    (getTask_congr (congrArg (fun x : State => x.cfe.tasks) hrest :) k.id).trans hutask
  have htask' := getTask_mod_same (fun k => { k with wLoaded := true }) hvtask (fun _ => rfl)
  refine ⟨fun p hp hf => ?_, fun p hp hf => ?_, htask'⟩
  · show halfOf (getPod v p) _ = _
    rw [hget p, if_pos ⟨hp, (hfill p).trans hf⟩, halfOf_setHalf]
  · show (getPod v p).flu = _
    rw [hget p, if_neg (fun h => by have := (hfill p).symm.trans h.2; simp [hf] at this)]
    exact huflu p

/-- A live Fold task whose weights are still to be loaded, and whose memories can be reached. -/
theorem foldWeightLoad_live {s : State} {n : Nat} {k : Task} (h : liveTask s n opFold = some k) (hl : k.wLoaded = false)
    (hw : wordsHeld s k.desc = false) :
    doFoldWeightLoad n s = if podNums.any (fun p => filling (getPod s p) k) then endLoad k s
      else if loadWaits s k then s else beginLoad k s := by
  unfold doFoldWeightLoad
  rw [h]
  exact if_neg (by simp [hl, hw])

/-- Settles O47: each clause is one outcome of `doLatchRowFill`, `doFoldPassStart`, `doFoldFillWaitExpiry`, `doFoldCapture` or
`doFoldWeightLoad`; what a load reads changes slices and reads alone. -/
theorem foldPasses : Obligations.FoldPasses := by
  unfold Obligations.FoldPasses
  refine ⟨?latch, ?start, ?expiry, ?expired, ?capture, ?begins, ?none, ?ends⟩
  case latch =>
    intro s pod h rest k y hon hq hi hk hst hf hlen hown hj hy
    refine ⟨_, rfl, ?_⟩
    obtain ⟨g, hg, e⟩ := latchRowFill_fills hon hq hi hk hst hf hlen hown hj hy
    rw [e]
    generalize hu : modTask h.task _ _ = u
    have hpod : getPod u pod = { getPod s pod with
        hq1 := hqPop (getPod s pod).hq1, carrels := (getPod s pod).carrels.filter (fun c =>
          !(decide (h.carrel ≤ c.1) && decide (c.1 < h.carrel + h.carrels))) } := by
      subst hu
      show getPod (freeCarrels pod h.carrel h.carrels (popHandle pod 1 s)) pod = _
      unfold freeCarrels popHandle
      rw [getPod_mod_same, getPod_mod_same]
      rfl
    have hother (p : Nat) (hp : p ≠ pod) : getPod u p = getPod s p := by
      subst hu
      show getPod (freeCarrels pod h.carrel h.carrels (popHandle pod 1 s)) p = _
      exact (getPod_mod_other _ _ hp).trans (getPod_mod_other _ _ hp)
    have htask : getTask u h.task = some { k with sats := k.sats + y.2.2 } := by
      subst hu
      exact getTask_mod_same (fun k => { k with sats := k.sats + y.2.2 }) hk (fun _ => rfl)
    have hmem : u.mem = s.mem := by subst hu; rfl
    unfold modFlu
    refine ⟨?_, ?_, ?_, htask, fun p hp => (getPod_mod_other _ _ hp).trans (hother p hp), hmem⟩
    all_goals rw [getPod_mod_same, hpod]
    · exact hg _
    · exact congrArg List.tail hi
  case start =>
    intro s pod hon hr ha hp
    exact ⟨_, rfl, foldPassStart_starts hon hr ha hp⟩
  case expiry =>
    intro s pod hon hr ha hsh hown hall
    refine ⟨_, rfl, ?_⟩
    unfold doFoldFillWaitExpiry
    rw [if_neg (by simpa using hsh)]
    generalize hu : modFlu pod (fun f => { f with expired := true }) s = u
    have hpod : getPod u pod = { getPod s pod with flu := { (getPod s pod).flu with expired := true } } := by
      subst hu; exact getPod_mod_same ..
    have hother (p : Nat) (hp : p ≠ pod) : getPod u p = getPod s p := by subst hu; exact getPod_mod_other _ _ hp
    have hrest : { u with pods := s.pods } = s := by subst hu; rfl
    have hmem : u.mem = s.mem := (congrArg State.mem hrest :)
    have hcfe : u.cfe = s.cfe := (congrArg State.cfe hrest :)
    have htasks (set : List Latch) : setTasks u set = setTasks s set := by
      unfold setTasks getTask; rw [hcfe]
    have hready : passReady u pod = true := by
      have hhalf (h : Nat) : halfOf (getPod u pod) h = halfOf (getPod s pod) h := by rw [hpod]; rfl
      unfold passReady
      simp only [hhalf, htasks]
      simp only [hpod]
      simp only [foldOwned] at hown ⊢
      have hall' : (setTasks s (getPod s pod).flu.shadow).all (fun k => k.err.isSome ||
          (k.wLoaded && (halfOf (getPod s pod) (dBufHalf k.desc)).tag == some (foldTag k))) = true := by
        simpa [List.all_eq_true] using hall
      simp only [hown, Bool.or_true, Bool.true_or]
      simpa [hsh] using hall'
    have honu : podOn u pod [7] = true := by
      have : unitsOn u [7] = unitsOn s [7] := by subst hu; rfl
      unfold podOn at hon ⊢
      rw [this, hpod]
      exact hon
    obtain ⟨hstarted, hothers, hm, hc⟩ := foldPassStart_starts honu (by rw [hpod]; exact hr) (by rw [hpod]; exact ha) hready
    refine ⟨?_, fun p hp => (hothers p hp).trans (hother p hp), hm.trans hmem, hc.trans hcfe⟩
    rw [hstarted, hpod]
    unfold passOn setCfg
    simp only [htasks, hpod]
  case expired =>
    intro s pod hr hsh
    refine ⟨_, rfl, ?_⟩
    unfold doFoldFillWaitExpiry
    rw [if_neg (by simpa using hsh)]
    generalize hu : modFlu pod (fun f => { f with expired := true }) s = u
    have hpod : getPod u pod = { getPod s pod with flu := { (getPod s pod).flu with expired := true } } := by
      subst hu; exact getPod_mod_same ..
    have hsame : doFoldPassStart pod u = u := if_pos (by rw [hpod]; simp [hr])
    rw [hsame]
    subst hu
    exact ⟨hpod, fun p hp => getPod_mod_other _ _ hp, rfl⟩
  case capture =>
    intro s pod f half hs hf hhalf hhs hq hr hu hsc hroom hon
    refine ⟨_, rfl, ?_⟩
    obtain ⟨hmem, hhpt, hitems, hother, idle, hflu⟩ := foldCapture_captures hf hhs hq hr hu hsc hroom hon _ rfl
    subst hhalf
    refine ⟨hmem, hitems, ?_, ?_, fun hlt => ?_, fun hle => ?_, hother, hhpt⟩
    · rw [hflu]; split <;> rfl
    · rw [hflu]; split <;> rfl
    · rw [hflu, if_pos hlt]; exact ⟨rfl, hr⟩
    · rw [hflu, if_neg (by omega)]; exact ⟨rfl, rfl⟩
  case begins =>
    intro s n k h hl hw hfill hwait hne
    refine ⟨_, rfl, ?_⟩
    have e : doFoldWeightLoad n s = beginLoad k s := by
      rw [foldWeightLoad_live h hl hw, if_neg (by simpa using hfill), if_neg (by simp [hwait])]
    obtain ⟨hhalf, hflu, htask⟩ := beginLoad_begins (liveTask_some h).1 hne
    rw [← e] at hhalf hflu htask
    exact ⟨hhalf, hflu, htask, exec_piece (c := .foldWeightLoad n) .host rfl⟩
  case none =>
    intro s n k h hl hw hfill hwait hnil
    refine ⟨_, rfl, ?_⟩
    have hk := (liveTask_some h).1
    have e : doFoldWeightLoad n s = modTask n (fun k => { k with wLoaded := true }) s := by
      rw [foldWeightLoad_live h hl hw, if_neg (by simpa using hfill), if_neg (by simp [hwait])]
      unfold beginLoad
      rw [hnil, getTask_id hk]
      rfl
    rw [e]
    refine ⟨getTask_mod_same _ hk (fun _ => rfl), ⟨fun j hj => getTask_mod_other s _ hj (fun _ => rfl), fun p _ => rfl, rfl⟩, rfl⟩
  case ends =>
    intro s n k q r h hl hw hq hfill hr hflt
    refine ⟨_, rfl, ?_⟩
    have e : doFoldWeightLoad n s = endLoad k s := by
      rw [foldWeightLoad_live h hl hw, if_pos (List.any_eq_true.mpr ⟨q, hq, hfill⟩)]
    obtain ⟨hhalf, hflu, htask⟩ := endLoad_ends (liveTask_some h).1 hr hflt
    rw [← e] at hhalf hflu htask
    exact ⟨hhalf, hflu, htask, exec_piece (c := .foldWeightLoad n) .host rfl⟩

end Sys2Proof.Machine
end

section
/-! SUPPORT. Bags start, take indices and release their segments (R91 to R98). -/

namespace Sys2Proof.Machine

/-! ### A bag of a Pod -/

theorem getBag_id {s : State} {pod n bag : Nat} {b : Bag} (h : getBag s pod n bag = some b) : b.task = n ∧ b.bag = bag := by
  unfold getBag at h
  simpa using List.find?_some h

/-- The first bag of a list with a task and a number, after a change of every such bag. -/
theorem find_modBag {n bag : Nat} (f : Bag → Bag) (hf : ∀ b, (f b).task = b.task ∧ (f b).bag = b.bag) (bs : List Bag) :
    (bs.map (fun b => if b.task = n ∧ b.bag = bag then f b else b)).find? (fun b => b.task == n && b.bag == bag) =
      (bs.find? (fun b => b.task == n && b.bag == bag)).map f := by
  induction bs with
  | nil => rfl
  | cons b bs ih =>
    rw [List.map_cons, List.find?_cons, List.find?_cons, ih]
    by_cases hb : b.task = n ∧ b.bag = bag
    · simp [hb, hf b]
    · have : (b.task == n && b.bag == bag) = false := by simpa using hb
      simp [hb, this]

theorem getBag_mod_same {s : State} {pod n bag : Nat} {b : Bag} (f : Bag → Bag) (h : getBag s pod n bag = some b)
    (hf : ∀ b, (f b).task = b.task ∧ (f b).bag = b.bag) : getBag (modBag pod n bag f s) pod n bag = some (f b) := by
  unfold getBag modBag at *
  rw [getPod_mod_same]
  dsimp only
  rw [find_modBag f hf, h, Option.map_some]

theorem getBag_congr {s t : State} {pod : Nat} (h : (getPod t pod).bags = (getPod s pod).bags) (n bag : Nat) :
    getBag t pod n bag = getBag s pod n bag := by unfold getBag; rw [h]

/-- The Pods, but for their slices, say what bags a Pod has. -/
theorem bags_bare {s t : State} (h : podsBare t = podsBare s) (pod : Nat) : (getPod t pod).bags = (getPod s pod).bags :=
  (congrArg Pod.bags ((getPod_bare t pod).trans ((congrArg (tabGet pod {}) h).trans (getPod_bare s pod).symm)) :)

theorem bagTask_some {s : State} {n : Nat} {k : Task} (h : bagTask s n = some k) : getTask s n = some k ∧ goesOn s n = true := by
  unfold bagTask at h
  split at h
  · exact ⟨h, by assumption⟩
  · cases h

theorem bagTask_congr {s t : State} (h : t.cfe = s.cfe) (n : Nat) : bagTask t n = bagTask s n := by
  unfold bagTask goesOn getTask; rw [h]

/-- A count of a row in the sketch changes of its Pod the sketch and the candidates alone. -/
theorem heatHit_pod (pod t row p : Nat) (s : State) :
    ∃ sk cand, getPod (heatHit pod t row s) p = { getPod s p with sketch := sk, cand := cand } := by
  unfold heatHit
  by_cases hp : p = pod
  · subst hp
    rw [getPod_mod_same]
    dsimp only
    split
    · exact ⟨_, _, rfl⟩
    · exact ⟨_, _, rfl⟩
  · rw [getPod_mod_other _ _ hp]; exact ⟨_, _, rfl⟩

theorem pods_odCount (k n : Nat) (s : State) : (odCount k n s).pods = s.pods := (congrArg State.pods (odCount_rest k n s) :)

theorem gau_odCount (k n : Nat) (s : State) : (odCount k n s).gau = s.gau := (congrArg State.gau (odCount_rest k n s) :)

theorem heatHit_rest (pod t row : Nat) (s : State) : { heatHit pod t row s with pods := s.pods } = s := rfl

/-! ### A bag starts -/

theorem getPod_modDeal (t bag : Nat) (f : Deal → Deal) (s : State) : getPod (modDeal t bag f s) = getPod s := rfl

theorem startBag_lookup {k : Task} {pod bag base n c : Nat} {s : State} (h : dOp k.desc ≠ opUpdate) (t : State)
    (ht : t = startBag k pod bag base n c s) :
    (getPod t pod).bags = (getPod s pod).bags ++ [{
      task := k.id, bag := bag, base := base, n := n, carrel := c, carrels := bagCarrels (sdDim k.shard0),
      tree := bagTree (dPool k.desc) (sdDim k.shard0) n }] ∧
    (getPod t pod).carrels = (getPod s pod).carrels ++ (List.range (bagCarrels (sdDim k.shard0))).map (fun i => (c + i, k.id)) ∧
    (getPod t pod).hq0.items = (getPod s pod).hq0.items ++ [{
      st := .open, task := k.id, bag := bag, fold := dOp k.desc == opFold, carrel := c, carrels := bagCarrels (sdDim k.shard0) }] ∧
    (∀ p, p ≠ pod → getPod t p = getPod s p) ∧ t.mem = s.mem ∧ t.hpt = s.hpt := by
  unfold startBag at ht
  simp only [if_neg h] at ht
  generalize hu : modDeal k.id bag _ _ = u at ht
  subst ht
  have hpod : getPod u pod = { getPod s pod with
      bags := (getPod s pod).bags ++ [{
        task := k.id, bag := bag, base := base, n := n, carrel := c, carrels := bagCarrels (sdDim k.shard0),
        tree := bagTree (dPool k.desc) (sdDim k.shard0) n }]
      carrels := (getPod s pod).carrels ++ (List.range (bagCarrels (sdDim k.shard0))).map (fun i => (c + i, k.id)) } := by
    subst hu; rw [getPod_modDeal, getPod_mod_same]
  have hother (p : Nat) (hp : p ≠ pod) : getPod u p = getPod s p := by subst hu; rw [getPod_modDeal, getPod_mod_other _ _ hp]
  unfold pushHandle
  refine ⟨?_, ?_, ?_, fun p hp => (getPod_mod_other _ _ hp).trans (hother p hp), by subst hu; rfl, by subst hu; rfl⟩
  all_goals rw [getPod_mod_same, hpod]; rfl

theorem startBag_update {k : Task} {pod bag base n c : Nat} {s : State} (h : dOp k.desc = opUpdate) (t : State)
    (ht : t = startBag k pod bag base n c s) :
    getPod t pod = { getPod s pod with
      bags := (getPod s pod).bags ++ [{ task := k.id, bag := bag, base := base, n := n, carrel := c, carrels := 0, tree := 0 }] } ∧
    (∀ p, p ≠ pod → getPod t p = getPod s p) ∧ t.mem = s.mem ∧ t.hpt = s.hpt := by
  unfold startBag at ht
  simp only [if_pos h, List.range_zero, List.map_nil, List.append_nil] at ht
  subst ht
  rw [getPod_modDeal]
  exact ⟨getPod_mod_same .., fun p hp => getPod_mod_other _ _ hp, rfl, rfl⟩

/-- The next bag of a Pod can start. -/
theorem bagStart_next {s : State} {pod base n : Nat} {k : Task} {x : Deal} (hon : podOn s pod [3, 6] = true)
    (hn : nextStart s pod = some (k, x)) (hr : streamReady s k pod 0 = true) (hb : bagSpan s k pod x.bag = .ok (base, n)) :
    (dOp k.desc = opUpdate → doBagStart pod s = startBag k pod x.bag base n 0 s) ∧
    (dOp k.desc ≠ opUpdate → hqOk (getPod s pod).hq0 = true → hqFull (getPod s pod).hq0 = false →
      treeUse (getPod s pod) + bagTree (dPool k.desc) (sdDim k.shard0) n ≤ 4096 →
      ∀ c, carrelRun (getPod s pod) (bagCarrels (sdDim k.shard0)) = some c → doBagStart pod s = startBag k pod x.bag base n c s) := by
  unfold doBagStart
  rw [if_neg (by simp [hon]), hn]
  dsimp only
  rw [if_neg (by simp [hr]), hb]
  dsimp only
  refine ⟨fun h => if_pos h, fun h hq hfull htree c hc => ?_⟩
  rw [if_neg h, withHq_ok _ (by exact hq), hc]
  dsimp only
  rw [if_neg (by simp [hfull]), if_neg (by omega)]

/-! ### An index is taken -/

theorem bagEntry_pos {s : State} {k : Task} {pod bag base j : Nat} {e : WinEntry} (h : bagEntry s k pod bag base j = .ok e) :
    e.pos = j := by
  unfold bagEntry at h
  repeat' split at h
  all_goals cases h
  rfl

theorem indexProcess_lookup {s : State} {pod n bag : Nat} {k : Task} {b : Bag} {e : WinEntry} (h : indexTurn s pod n bag k b)
    (he : bagEntry s k pod bag b.base b.taken = .ok e) (hroom : e.row.all (missRoom s (dTable k.desc)) = true) :
    doIndexProcess pod n bag s = takeLookup k pod b e s := by
  obtain ⟨hk, hb, hlt, hon, hop, hr, hw, hseg, hq, hpark⟩ := h
  have hupd : (dOp k.desc == opUpdate) = false := beq_false_of_ne hop
  unfold doIndexProcess
  rw [hk, hb]
  dsimp only
  simp only [hupd, Bool.false_eq_true, if_false]
  have hgo : (if b.taken % segmentLen = 0 then b.window.isEmpty && b.leaves.all (fun l => l.stage != 0) &&
      decide (windowUse (getPod s pod) + segSize b.n b.taken ≤ segmentLen) else true) = true := by
    split
    next h0 =>
      obtain ⟨h1, h2, h3⟩ := hseg h0
      simpa [h1, h3] using h2
    next => rfl
  rw [hgo, if_neg, if_neg, he]
  · dsimp only
    rw [if_pos hroom]
  · simp [hpark]
  · have hw' : ¬(dPool k.desc = 3 ∧ (!streamReady s k pod 1) = true) := fun ⟨h3, hn⟩ => by simp [hw h3] at hn
    simp only [hon, hr, hq, hw', Bool.not_true, Bool.false_eq_true, false_and, or_false, false_or, Nat.not_le]
    exact hlt

theorem indexProcess_update {s : State} {pod n bag : Nat} {k : Task} {b : Bag} {e : WinEntry} (h : gradTurn s pod n bag k b)
    (he : bagEntry s k pod bag b.base b.taken = .ok e) : doIndexProcess pod n bag s = takeUpdate k pod b e s := by
  obtain ⟨hk, hb, hlt, hon, hop, hr, hw, hg, huse, hq, hturn⟩ := h
  have hupd : (dOp k.desc == opUpdate) = true := beq_iff_eq.mpr hop
  unfold doIndexProcess
  rw [hk, hb]
  dsimp only
  simp only [hupd, if_true]
  rw [if_neg, if_neg (by simp), he]
  have hw' : ¬(dPool k.desc = 3 ∧ (!streamReady s k pod 1) = true) := fun ⟨h3, hn⟩ => by simp [hw h3] at hn
  have hg' : s.gau.streams.contains (n * 16 + pod, 8) = true := List.contains_iff_mem.mpr hg
  have hgo : (decide (windowUse (getPod s pod) < segmentLen) && updateTurn s pod n bag) = true := by simp [huse, hturn]
  simp only [hon, hr, hq, hw', hg', hgo, Bool.not_true, Bool.false_eq_true, and_false, or_false, false_or, Nat.not_le]
  exact hlt

/-- The bag with its next index in the window. -/
def tookIndex (e : WinEntry) (b : Bag) : Bag := { b with taken := b.taken + 1, window := b.window ++ [e] }

theorem tookIndex_taken {s : State} {pod n bag : Nat} {b : Bag} (e : WinEntry) (hb : getBag s pod n bag = some b) (t : State)
    (ht : t = modBag pod n bag (tookIndex e) (onGau (fun g => { g with taken := g.taken + 1 }) s)) :
    getBag t pod n bag = some (tookIndex e b) ∧ t.gau.taken = s.gau.taken + 1 ∧ { t with gau := s.gau, pods := s.pods } = s := by
  subst ht
  exact ⟨getBag_mod_same _ hb (fun _ => ⟨rfl, rfl⟩), rfl, rfl⟩

theorem takeLookup_none {k : Task} {e : WinEntry} (h : e.row = none) (pod : Nat) (b : Bag) (s : State) :
    takeLookup k pod b e s = countSubst k.id (dTable k.desc) 0 1 (modBag pod k.id b.bag
      (tookIndex { e with desc := shard0Of s (dTable k.desc) }) (onGau (fun g => { g with taken := g.taken + 1 }) s)) := by
  obtain ⟨pos, row⟩ := e
  cases h
  rfl

theorem takeLookup_row {k : Task} {e : WinEntry} {row : Nat} (h : e.row = some row) (pod : Nat) (b : Bag) (s : State) :
    takeLookup k pod b e s = askDescriptor k pod b.bag b.taken row (heatHit pod (dTable k.desc) row (modBag pod k.id b.bag
      (tookIndex { e with desc := shard0Of s (dTable k.desc) }) (onGau (fun g => { g with taken := g.taken + 1 }) s))) := by
  obtain ⟨pos, row⟩ := e
  cases h
  rfl

theorem taken_countSubst (t table cause n : Nat) (s : State) : (countSubst t table cause n s).gau.taken = s.gau.taken := by
  unfold countSubst
  by_cases hn : n = 0
  · rw [if_pos hn]
  · rw [if_neg hn]
    dsimp only
    generalize hu : odCount _ n (modTask t _ s) = u
    have hgau : u.gau.taken = s.gau.taken := by subst hu; exact congrArg Gau.taken (gau_odCount ..)
    split
    · refine (congrArg Gau.taken (post0_holds (P := fun x => x.gau = _) (keeps_gau _ _) _ _ _ rfl : _ = _)).trans ?_
      exact hgau
    · exact hgau

/-- A substitution leaves the bags of the Pods. -/
theorem bags_countSubst (t table cause n pod : Nat) (s : State) :
    (getPod (countSubst t table cause n s) pod).bags = (getPod s pod).bags :=
  bags_bare (countSubst_holds (P := fun t => podsBare t = podsBare s) (keeps_podsBare s _) (keeps_podsBare s _) (keeps_podsBare s _)
    (keeps_podsBare s _) _ _ _ _ rfl) pod

theorem heatHit_bags (pod t row p : Nat) (s : State) : (getPod (heatHit pod t row s) p).bags = (getPod s p).bags := by
  obtain ⟨sk, cand, h⟩ := heatHit_pod pod t row p s
  rw [h]

/-- A descriptor that is put into the cache stands there. -/
theorem cached_put {s t : State} {i : Nat} {d : BitVec 512} (h : t.cat.cache = cachePut i d s.cat.cache) : cached t i = some d := by
  have hnone (p : Nat × BitVec 512 → Bool) : ((s.cat.cache.filter (fun e => e.1 != i)).filter p).find? (fun c => c.1 == i) = none := by
    refine List.find?_eq_none.mpr fun x hx => ?_
    simpa using (List.mem_filter.mp (List.mem_filter.mp hx).1).2
  have hnone' : (s.cat.cache.filter (fun e => e.1 != i)).find? (fun c => c.1 == i) = none := by
    simp
  unfold cached
  rw [h]
  unfold cachePut
  dsimp only
  rw [List.find?_append]
  split
  · rw [hnone']; simp
  · split
    · rw [hnone']; simp
    · rw [hnone]; simp

/-- A hit puts the descriptor into the bag's window at its place. -/
theorem askDescriptor_hit {k : Task} {pod bag j row : Nat} {s : State} {x : BitVec 512}
    (h : cached s (shardIndex (dirAt s (dTable k.desc)) (shardOf (dirAt s (dTable k.desc)) row)) = some x)
    (hf : shardFlt k (dTable k.desc) x = none) :
    askDescriptor k pod bag j row s = gotDesc pod k.id bag j x
      (cacheHit (shardIndex (dirAt s (dTable k.desc)) (shardOf (dirAt s (dTable k.desc)) row)) x s) := by
  unfold askDescriptor
  dsimp only
  rw [h]
  dsimp only
  rw [hf]

theorem askDescriptor_miss {k : Task} {pod bag j row i : Nat} {s : State}
    (hi : i = shardIndex (dirAt s (dTable k.desc)) (shardOf (dirAt s (dTable k.desc)) row)) (h : cached s i = none) :
    askDescriptor k pod bag j row s =
      cacheMiss i (modBag pod k.id bag (fun b => { b with parked := b.parked ++ [(i, j)] }) s) := by
  subst hi
  unfold askDescriptor
  dsimp only
  rw [h]

theorem cacheMiss_misses {i : Nat} {s : State} (h : s.cat.misses.length < 512) :
    i ∈ (cacheMiss i s).cat.misses ∧ (cacheMiss i s).cfe = s.cfe ∧ (cacheMiss i s).mem = s.mem ∧ (cacheMiss i s).pods = s.pods := by
  unfold cacheMiss
  split
  next hc => exact ⟨List.contains_iff_mem.mp hc, rfl, rfl, rfl⟩
  next =>
    obtain ⟨hcfe, -, hmem, -, hcat⟩ := odCount_keeps odCatMisses 1 (onCat (fun c => { c with misses := c.misses ++ [i] }) s)
    exact ⟨by rw [hcat]; simp, hcfe, hmem, pods_odCount ..⟩

/-- An index of a lookup whose row is named: what it has come to when its descriptor is asked for. -/
theorem takeLookup_asks {s : State} {pod n bag : Nat} {k : Task} {b : Bag} {e : WinEntry} {row : Nat}
    (hk : getTask s n = some k) (hb : getBag s pod n bag = some b) (hrow : e.row = some row) :
    ∃ u, takeLookup k pod b e s = askDescriptor k pod bag b.taken row u ∧
      getBag u pod n bag = some (tookIndex { e with desc := shard0Of s (dTable k.desc) } b) ∧
      u.gau.taken = s.gau.taken + 1 ∧ { u with gau := s.gau, pods := s.pods } = s := by
  obtain rfl := getTask_id hk
  obtain ⟨-, rfl⟩ := getBag_id hb
  rw [takeLookup_row hrow]
  generalize hu : modBag pod k.id b.bag _ _ = u
  obtain ⟨hbag, htaken, hrest⟩ := tookIndex_taken { e with desc := shard0Of s (dTable k.desc) } hb u hu.symm
  exact ⟨_, rfl, (getBag_congr (heatHit_bags ..) _ _).trans hbag, htaken, hrest⟩

/-- What an index of an UPDATE leaves: its entry stands in the update window of its task. -/
theorem takeUpdate_takes {s : State} {pod n bag : Nat} {k : Task} {b : Bag} {e : WinEntry} {g : List F32}
    (hk : getTask s n = some k) (hb : getBag s pod n bag = some b) (hg : gradRow s k pod bag b.base b.taken = .ok g)
    (t : State) (ht : t = takeUpdate k pod b e s) :
    getBag t pod n bag = some { b with taken := b.taken + 1 } ∧
    tabGet k.id [] (getPod t pod).uwin = tabGet k.id [] (getPod s pod).uwin ++
      [if (e.row.isNone && sdDefault k.shard0 != 2) = true
       then { e with grad := [], discard := true } else { e with grad := indexGrad (dPool k.desc) b.n e.weight g }] ∧
    t.mem = s.mem ∧ t.cfe = s.cfe := by
  obtain rfl := getTask_id hk
  obtain ⟨-, rfl⟩ := getBag_id hb
  unfold takeUpdate at ht
  rw [hg] at ht
  dsimp only at ht
  generalize hu : modBag pod k.id b.bag _ _ = u at ht
  have hubag : getBag u pod k.id b.bag = some { b with taken := b.taken + 1 } := by
    subst hu; exact getBag_mod_same (s := onGau _ s) (fun b => { b with taken := b.taken + 1 }) hb (fun _ => ⟨rfl, rfl⟩)
  have huwin : (getPod u pod).uwin = (getPod s pod).uwin := by subst hu; unfold modBag; rw [getPod_mod_same]; rfl
  have humem : u.mem = s.mem := by subst hu; rfl
  have hucfe : u.cfe = s.cfe := by subst hu; rfl
  generalize hw : odCount odUpuGradDiscarded _ u = w at ht
  have hwget : getPod w = getPod u := by subst hw; exact getPod_odCount ..
  have hwmem : w.mem = s.mem := by subst hw; exact (odCount_keeps ..).2.2.1.trans humem
  have hwcfe : w.cfe = s.cfe := by subst hw; exact (odCount_keeps ..).1.trans hucfe
  generalize hv : modPod pod _ w = v at ht
  have hvbag : (getPod v pod).bags = (getPod u pod).bags := by subst hv; rw [getPod_mod_same, hwget]
  have hvwin : tabGet k.id [] (getPod v pod).uwin = tabGet k.id [] (getPod s pod).uwin ++
      [if (e.row.isNone && sdDefault k.shard0 != 2) = true
       then { e with grad := [], discard := true } else { e with grad := indexGrad (dPool k.desc) b.n e.weight g }] := by
    subst hv
    rw [getPod_mod_same, hwget]
    dsimp only
    rw [tabGet_mod_same, huwin]
  have hvmem : v.mem = s.mem := by subst hv; exact hwmem
  have hvcfe : v.cfe = s.cfe := by subst hv; exact hwcfe
  obtain ⟨hpods, hmem, hcfe⟩ : ((getPod t pod).bags = (getPod v pod).bags ∧ (getPod t pod).uwin = (getPod v pod).uwin) ∧
      t.mem = v.mem ∧ t.cfe = v.cfe := by
    split at ht
    · subst ht; exact ⟨⟨rfl, rfl⟩, rfl, rfl⟩
    next row _ =>
      obtain ⟨sk, cand, h⟩ := heatHit_pod pod (dTable k.desc) row pod v
      subst ht
      rw [h]
      exact ⟨⟨rfl, rfl⟩, rfl, rfl⟩
  refine ⟨(getBag_congr (hpods.1.trans hvbag) _ _).trans hubag, ?_, hmem.trans hvmem, hcfe.trans hvcfe⟩
  rw [hpods.2, hvwin]

/-! ### Parked indices resume (R93) -/

/-- An index of a bag is parked for descriptor i. -/
def parkedFor (i : Nat) (b : Bag) : Prop := ∃ q ∈ b.parked, q.1 = i

/-- The bag with the indices resumed that waited for descriptor i. -/
def resumed (i : Nat) (x : BitVec 512) (js : List Nat) (b : Bag) : Bag :=
  { b with parked := b.parked.filter (fun q => q.1 != i),
           window := b.window.map (fun e => if js.contains e.pos then { e with desc := x } else e) }

theorem resumed_clean (i : Nat) (x : BitVec 512) (js : List Nat) (b : Bag) : ¬ parkedFor i (resumed i x js b) := by
  rintro ⟨q, hq, rfl⟩
  simpa using (List.mem_filter.mp hq).2

section
variable {s : State} {i : Nat} {x : BitVec 512} (hok : ∀ n k, bagTask s n = some k → shardFlt k (dTable k.desc) x = none)
include hok

/-- Where the descriptor suits every task a bag resumes, and nothing else happens. -/
theorem resumeBag_resumes (pod : Nat) (b : Bag) (t : State) (ht : t.cfe = s.cfe) :
    (parkedFor i b ∧ ∃ js, resumeBag pod i x b t = modBag pod b.task b.bag (resumed i x js) t) ∨
    (¬ parkedFor i b ∧ resumeBag pod i x b t = t) := by
  by_cases hp : parkedFor i b
  · refine .inl ⟨hp, (b.parked.filter (fun q => q.1 == i)).map (·.2), ?_⟩
    unfold resumeBag
    obtain ⟨q, hq, hi⟩ := hp
    rw [if_pos (List.any_eq_true.mpr ⟨q, hq, by simp [hi]⟩)]
    dsimp only
    generalize hv : modBag pod b.task b.bag _ t = v
    rw [bagTask_congr (show v.cfe = s.cfe by subst hv; exact ht)]
    split
    · exact hv.symm
    next k hk => rw [hok _ k hk]; exact hv.symm
  · refine .inr ⟨hp, ?_⟩
    unfold resumeBag
    refine if_neg fun h => ?_
    obtain ⟨q, hq, hi⟩ := List.any_eq_true.mp h
    exact hp ⟨q, hq, by simpa using hi⟩

/-- With every bag of a list resumed no bag of the Pod waits for the descriptor, where each that did is in the list. -/
theorem resumeBags_clean (pod : Nat) (bs : List Bag) (t u : State) (ht : t.cfe = s.cfe)
    (hall : ∀ c ∈ (getPod t pod).bags, parkedFor i c → ∃ b ∈ bs, parkedFor i b ∧ c.task = b.task ∧ c.bag = b.bag)
    (hu : u = forEach (resumeBag pod i x) bs t) :
    (∀ c ∈ (getPod u pod).bags, ¬ parkedFor i c) ∧ (∀ p, p ≠ pod → getPod u p = getPod t p) ∧ { u with pods := t.pods } = t := by
  induction bs generalizing t with
  | nil =>
    subst hu
    exact ⟨fun c hc hp => (List.not_mem_nil (hall c hc hp).choose_spec.1), fun _ _ => rfl, rfl⟩
  | cons b bs ih =>
    rcases resumeBag_resumes hok pod b t ht with ⟨-, js, e⟩ | ⟨hp, e⟩
    · rw [forEach, e] at hu
      have hnext : ∀ c ∈ (getPod (modBag pod b.task b.bag (resumed i x js) t) pod).bags, parkedFor i c →
          ∃ b ∈ bs, parkedFor i b ∧ c.task = b.task ∧ c.bag = b.bag := by
        intro c hc hpc
        unfold modBag at hc
        rw [getPod_mod_same] at hc
        obtain ⟨c', hc', rfl⟩ := List.mem_map.mp hc
        by_cases hkey : c'.task = b.task ∧ c'.bag = b.bag
        · rw [if_pos hkey] at hpc
          exact absurd hpc (resumed_clean i x js c')
        · rw [if_neg hkey] at hpc ⊢
          obtain ⟨b', hb', hpb, hk⟩ := hall c' hc' hpc
          rcases List.mem_cons.mp hb' with rfl | hb'
          · exact absurd hk hkey
          · exact ⟨b', hb', hpb, hk⟩
      obtain ⟨hclean, hother, hrest⟩ := ih (modBag pod b.task b.bag (resumed i x js) t) ht hnext hu
      exact ⟨hclean, fun p hp => (hother p hp).trans (getPod_mod_other _ _ hp),
        (congrArg (fun v : State => { v with pods := t.pods }) hrest :)⟩
    · rw [forEach, e] at hu
      refine ih t ht (fun c hc hpc => ?_) hu
      obtain ⟨b', hb', hpb, hk⟩ := hall c hc hpc
      rcases List.mem_cons.mp hb' with rfl | hb'
      · exact absurd hpb hp
      · exact ⟨b', hb', hpb, hk⟩

/-- With the bags of every Pod of a list resumed none of them waits for the descriptor. -/
theorem resumePods_clean (ps : List Nat) (t u : State) (ht : t.cfe = s.cfe)
    (hu : u = forEach (fun pod s => forEach (resumeBag pod i x) (getPod s pod).bags s) ps t) :
    (∀ pod, (pod ∈ ps ∨ ∀ c ∈ (getPod t pod).bags, ¬ parkedFor i c) → ∀ c ∈ (getPod u pod).bags, ¬ parkedFor i c) ∧
    { u with pods := t.pods } = t := by
  induction ps generalizing t with
  | nil => subst hu; exact ⟨fun pod h => h.resolve_left List.not_mem_nil, rfl⟩
  | cons p ps ih =>
    rw [forEach] at hu
    generalize hv : forEach (resumeBag p i x) (getPod t p).bags t = v at hu
    obtain ⟨hclean, hother, hrest⟩ := resumeBags_clean hok p (getPod t p).bags t v ht (fun c hc hp => ⟨c, hc, hp, rfl, rfl⟩) hv.symm
    obtain ⟨hcleans, hrest'⟩ := ih v ((congrArg State.cfe hrest :).trans ht) hu
    refine ⟨fun pod h => hcleans pod ?_, ?_⟩
    · by_cases hpod : pod = p
      · exact .inr (by subst hpod; exact hclean)
      · rw [hother pod hpod]
        exact h.imp_left fun hm => (List.mem_cons.mp hm).resolve_left hpod
    · exact (congrArg (fun w : State => { w with pods := t.pods }) hrest' :).trans hrest

end

/-- Settles O43: each clause is one outcome of `doBagStart`, `doIndexProcess`, `doDescriptorFill` or `doSegmentRelease`. -/
theorem bagsTakeIndices : Obligations.BagsTakeIndices := by
  unfold Obligations.BagsTakeIndices
  refine ⟨?start, ?startUpdate, ?range, ?hit, ?miss, ?grad, ?discard, ?fill, ?release⟩
  case start =>
    intro s pod k x base n c hon hn hr hb hop hq hc hfull htree
    refine ⟨_, rfl, ?_⟩
    rw [(bagStart_next hon hn hr hb).2 hop hq hfull htree c hc]
    exact startBag_lookup hop _ rfl
  case startUpdate =>
    intro s pod k x base n hon hn hr hb hop
    refine ⟨_, rfl, ?_⟩
    rw [(bagStart_next hon hn hr hb).1 hop]
    exact startBag_update hop _ rfl
  case range =>
    intro s pod n bag k b e h he hrow
    refine ⟨_, rfl, ?_⟩
    have hhost := exec_piece (c := .indexProcess pod n bag) (s := s) .host rfl
    obtain ⟨hk, hb, -⟩ := id h
    have e' := indexProcess_lookup h he (by rw [hrow]; rfl)
    obtain rfl := getTask_id (bagTask_some hk).1
    obtain ⟨-, rfl⟩ := getBag_id hb
    refine ⟨?_, ?_, hhost⟩
    all_goals rw [e', takeLookup_none hrow]
    all_goals
      generalize hu : modBag pod k.id b.bag _ _ = u
      obtain ⟨hbag, htaken, -⟩ := tookIndex_taken { e with desc := shard0Of s (dTable k.desc) } hb u hu.symm
    · exact (getBag_congr (bags_countSubst ..) _ _).trans hbag
    · exact (taken_countSubst ..).trans htaken
  case hit =>
    intro s pod n bag k b e row x h he hrow hc hf
    refine ⟨_, rfl, ?_⟩
    obtain ⟨hk, hb, -⟩ := id h
    have hroom : e.row.all (missRoom s (dTable k.desc)) = true := by
      rw [hrow]; unfold missRoom; simp [hc]
    obtain ⟨u, hask, hbag, htaken, hrest⟩ := takeLookup_asks (e := e) (bagTask_some hk).1 hb hrow
    have hcat : u.cat = s.cat := (congrArg State.cat hrest :)
    have hdir : dirAt u (dTable k.desc) = dirAt s (dTable k.desc) := by unfold dirAt; rw [hcat]
    rw [indexProcess_lookup h he hroom, hask, askDescriptor_hit (x := x) (by rw [hdir]; exact (cached_congr (congrArg Cat.cache hcat) _).trans hc) hf]
    obtain rfl := getTask_id (bagTask_some hk).1
    generalize hv : cacheHit _ x u = v
    have hvbag : getBag v pod k.id bag = getBag u pod k.id bag :=
      getBag_congr (by subst hv; unfold cacheHit; rw [getPod_odCount]; rfl) _ _
    obtain ⟨hvcfe, hvmem, hvgau⟩ : v.cfe = u.cfe ∧ v.mem = u.mem ∧ v.gau = u.gau := by
      subst hv
      unfold cacheHit
      exact ⟨(odCount_keeps ..).1, (odCount_keeps ..).2.2.1, gau_odCount ..⟩
    refine ⟨?_, (congrArg Gau.taken hvgau).trans htaken, hvmem.trans (congrArg State.mem hrest :), hvcfe.trans (congrArg State.cfe hrest :)⟩
    unfold gotDesc
    refine (getBag_mod_same (fun b' => { b' with window := b'.window.map (fun e => if e.pos = b.taken then { e with desc := x } else e) })
      (hvbag.trans hbag) (fun _ => ⟨rfl, rfl⟩)).trans ?_
    have hpos := bagEntry_pos he
    unfold tookIndex
    simp [hpos]
  case miss =>
    intro s pod n bag k b e row i h he hrow hi hc hlen
    refine ⟨_, rfl, ?_⟩
    obtain ⟨hk, hb, -⟩ := id h
    have hroom : e.row.all (missRoom s (dTable k.desc)) = true := by
      rw [hrow]; unfold missRoom; simp [hlen]
    obtain ⟨u, hask, hbag, htaken, hrest⟩ := takeLookup_asks (e := e) (bagTask_some hk).1 hb hrow
    have hcat : u.cat = s.cat := (congrArg State.cat hrest :)
    have hdir : dirAt u (dTable k.desc) = dirAt s (dTable k.desc) := by unfold dirAt; rw [hcat]
    rw [indexProcess_lookup h he hroom, hask, askDescriptor_miss (i := i) (by rw [hdir]; exact hi)
      ((cached_congr (congrArg Cat.cache hcat) _).trans hc)]
    obtain rfl := getTask_id (bagTask_some hk).1
    generalize hv : modBag pod k.id bag _ u = v
    have hvcat : v.cat = s.cat := by subst hv; exact hcat
    obtain ⟨hmiss, hcfe, hmem, hpods⟩ := cacheMiss_misses (i := i) (s := v) (by rw [hvcat]; exact hlen)
    refine ⟨?_, hmiss, hmem.trans ?_, hcfe.trans ?_⟩
    · refine (getBag_congr (s := v) (by unfold getPod; rw [hpods]) _ _).trans ?_
      subst hv
      exact getBag_mod_same (fun b' => { b' with parked := b'.parked ++ [(i, b.taken)] }) hbag (fun _ => ⟨rfl, rfl⟩)
    · subst hv; exact (congrArg State.mem hrest :)
    · subst hv; exact (congrArg State.cfe hrest :)
  case grad =>
    intro s pod n bag k b e g h he hdef hg
    refine ⟨_, rfl, ?_⟩
    obtain ⟨hk, hb, -⟩ := id h
    rw [indexProcess_update h he]
    obtain ⟨hbag, hwin, hmem, hcfe⟩ := takeUpdate_takes (e := e) (bagTask_some hk).1 hb hg _ rfl
    refine ⟨hbag, hwin.trans ?_, hmem, hcfe⟩
    rw [if_neg fun hout => ?_]
    obtain ⟨hnone, hne⟩ := Bool.and_eq_true_iff.mp hout
    exact absurd (hdef (by simpa using hnone)) (by simpa using hne)
  case discard =>
    intro s pod n bag k b e g h he hrow hdef hg
    refine ⟨_, rfl, ?_⟩
    obtain ⟨hk, hb, -⟩ := id h
    rw [indexProcess_update h he]
    obtain ⟨hbag, hwin, hmem, hcfe⟩ := takeUpdate_takes (e := e) (bagTask_some hk).1 hb hg _ rfl
    refine ⟨hbag, hwin.trans ?_, hmem, hcfe⟩
    rw [if_pos (by simp [hrow, hdef])]
  case fill =>
    intro s i x hi hgate hheld hx hok
    refine ⟨_, rfl, ?_⟩
    unfold doDescriptorFill
    rw [if_pos ⟨List.contains_iff_mem.mpr hi, by simp [hgate], by simp [hheld]⟩]
    generalize hu : cacheLoad i _ = u
    have hucached : cached u i = some x := by
      subst hu hx
      exact cached_put (s := onCat _ s) rfl
    have humiss : i ∉ u.cat.misses := by subst hu; simp [cacheLoad, onCat]
    have hucfe : u.cfe = s.cfe := by subst hu; rfl
    have humem : u.mem = s.mem := by subst hu; rfl
    dsimp only
    rw [descAt_cached hucached]
    generalize ht : forEach _ podNums u = t
    obtain ⟨hclean, hrest⟩ := resumePods_clean hok podNums u t hucfe ht.symm
    have hcat : t.cat = u.cat := (congrArg State.cat hrest :)
    refine ⟨by rw [hcat]; exact humiss, (cached_congr (congrArg Cat.cache hcat) _).trans hucached, fun pod hp b hb q hq hqi => ?_,
      (congrArg State.mem hrest :).trans humem, (congrArg State.cfe hrest :).trans hucfe⟩
    exact hclean pod (.inl hp) b hb ⟨q, hq, hqi⟩
  case release =>
    intro s pod n bag k b hk hb hwin hlen hpark hon hop
    generalize hc : odCount odIxuFolded (b.window.length - (foldSegment (dPool k.desc) segmentLen b.window).length) s = c
    have hcget : getPod c = getPod s := by subst hc; exact getPod_odCount ..
    obtain ⟨hcfe, -, hmem, -, hcat⟩ := hc ▸ odCount_keeps odIxuFolded (b.window.length - (foldSegment (dPool k.desc) segmentLen b.window).length) s
    refine ⟨modBag pod n bag (fun b' => { b' with window := [], leaves := b'.leaves ++ foldSegment (dPool k.desc) segmentLen b.window }) c,
      ?_, ?_, fun p hp => (getPod_mod_other _ _ hp).trans (by rw [hcget]), hcfe, hcat, hmem⟩
    · show Host.Outcome.next (doSegmentRelease pod n bag s) = _
      unfold doSegmentRelease
      rw [hk, hb]
      dsimp only
      rw [if_neg (by simp [hwin, hpark, hon, hop]; omega), hc]
    · exact getBag_mod_same _ ((getBag_congr (by rw [hcget]) _ _).trans hb) (fun _ => ⟨rfl, rfl⟩)

end Sys2Proof.Machine
end

section
/-! SUPPORT. Reads issue (R101, R104): what the release of leaves leaves, and a state in which a read that could open a call
slip is held back. -/

namespace Sys2Proof.Machine

/-! ### The release of leaves appends reads -/

theorem reads_bare {s t : State} (h : podsBare t = podsBare s) (pod : Nat) : (getPod t pod).reads = (getPod s pod).reads :=
  (congrArg Pod.reads ((getPod_bare t pod).trans ((congrArg (tabGet pod {}) h).trans (getPod_bare s pod).symm)) :)

/-- The descriptors of the tasks in the engine. -/
def descsOf (s : State) : List Desc := s.cfe.tasks.map (·.desc)

theorem descsOf_modTask (t : Nat) (f : Task → Task) (s : State) (hf : ∀ k, (f k).desc = k.desc) :
    descsOf (modTask t f s) = descsOf s := by
  unfold descsOf modTask onCfe
  rw [List.map_map]
  refine List.map_congr_left fun k _ => ?_
  show (if k.id == t then f k else k).desc = k.desc
  split
  · exact hf k
  · rfl

theorem descsOf_countSubst (t table cause n : Nat) (s : State) : descsOf (countSubst t table cause n s) = descsOf s := by
  have hcount (k m : Nat) (u : State) : (odCount k m u).cfe = u.cfe := (odCount_keeps k m u).1
  unfold countSubst
  by_cases hn : n = 0
  · rw [if_pos hn]
  · rw [if_neg hn]
    dsimp only
    generalize hu : odCount _ n (modTask t _ s) = u
    have hdescs : descsOf u = descsOf s := by
      subst hu
      unfold descsOf
      rw [hcount]
      exact descsOf_modTask t _ s (fun _ => rfl)
    split
    · exact (congrArg (List.map Task.desc) (quiet_tasksOf.post ..)).trans hdescs
    · exact hdescs

/-- A substitution leaves the reads of the Pods. -/
theorem reads_countSubst (t table cause n pod : Nat) (s : State) :
    (getPod (countSubst t table cause n s) pod).reads = (getPod s pod).reads :=
  reads_bare (countSubst_holds (P := fun t => podsBare t = podsBare s) (keeps_podsBare s _) (keeps_podsBare s _) (keeps_podsBare s _)
    (keeps_podsBare s _) _ _ _ _ rfl) pod

theorem modLeaf_leaves (pod t bag i : Nat) (f : Leaf → Leaf) (s : State) :
    (getPod (modLeaf pod t bag i f s) pod).reads = (getPod s pod).reads ∧ descsOf (modLeaf pod t bag i f s) = descsOf s := by
  unfold modLeaf modBag
  rw [getPod_mod_same]
  exact ⟨rfl, rfl⟩

theorem substLeaf_leaves (k : Task) (pod bag i : Nat) (l : Leaf) (y : BitVec 512) (absent : Bool) (s : State) :
    (getPod (substLeaf k pod bag i l y absent s) pod).reads = (getPod s pod).reads ∧
    descsOf (substLeaf k pod bag i l y absent s) = descsOf s := by
  unfold substLeaf
  dsimp only
  generalize hu : modLeaf pod k.id bag i _ s = u
  obtain ⟨hreads, hdescs⟩ : (getPod u pod).reads = (getPod s pod).reads ∧ descsOf u = descsOf s := by
    subst hu; exact modLeaf_leaves ..
  split
  · exact ⟨(reads_countSubst ..).trans hreads, (descsOf_countSubst ..).trans hdescs⟩
  · exact ⟨hreads, hdescs⟩

theorem queueRead_leaves (pod t bag leaf : Nat) (w : Want) (dep : Bool) (s : State) :
    ∃ r, (getPod (queueRead pod t bag leaf w dep s) pod).reads = (getPod s pod).reads ++ [r] ∧
    descsOf (queueRead pod t bag leaf w dep s) = descsOf s := by
  unfold queueRead
  dsimp only
  rw [getPod_mod_same]
  exact ⟨_, rfl, rfl⟩

/-- A row that an unpinned task reads has a base. -/
theorem wantRow_unpinned {k : Task} (h : dPin k.desc = false) (s : State) (pod : Nat) (l : Leaf) (f : Flt) :
    wantRow s k pod l ≠ .bad f := by
  have hdflt (t : Nat) (y : BitVec 512) : wantDefault s t y ≠ .bad f := by
    unfold wantDefault
    split
    · simp
    · split <;> simp
  unfold wantRow
  split
  · exact hdflt _ _
  · dsimp only
    split
    · exact hdflt _ _
    · simp
    · simp
    · simp
    · have hbase (e idx : Nat) (x : BitVec 512) : pinBase s (dPin k.desc) e idx x = .ok (sdBase x) := by
        unfold pinBase; rw [h]; rfl
      rw [hbase]
      dsimp only
      split <;> simp

/-- What the release of leaves leaves, where no task is pinned: reads stand as they are, and others come after them. -/
theorem feedReads_appends (pod n : Nat) (s : State) (h : ∀ d ∈ descsOf s, dPin d = false) :
    ∃ rs, (getPod (feedReads pod n s) pod).reads = (getPod s pod).reads ++ rs := by
  induction n generalizing s with
  | zero => exact ⟨[], (List.append_nil _).symm⟩
  | succ n ih =>
    have hstay {t : State} (ht : t.pods = s.pods) : ∃ rs, (getPod t pod).reads = (getPod s pod).reads ++ rs :=
      ⟨[], by rw [List.append_nil]; unfold getPod; rw [ht]⟩
    unfold feedReads
    dsimp only
    split
    · exact hstay rfl
    next b i l _ =>
      split
      · exact hstay rfl
      next k hk =>
        have hpin : dPin k.desc = false :=
          h _ (List.mem_map_of_mem (List.mem_of_find?_eq_some (bagTask_some hk).1))
        split
        next f hf => exact absurd hf (wantRow_unpinned hpin s pod l f)
        next y _ =>
          obtain ⟨hr, hd⟩ := substLeaf_leaves k pod b.bag i l y l.row.isSome s
          obtain ⟨hr', hd'⟩ := modLeaf_leaves pod k.id b.bag i (fun l => { l with stage := 2, data := [] })
            (substLeaf k pod b.bag i l y l.row.isSome s)
          obtain ⟨rs, hrs⟩ := ih _ (by rw [hd', hd]; exact h)
          exact ⟨rs, by rw [hrs, hr', hr]⟩
        next w x dflt _ =>
          split
          · exact hstay rfl
          · split
            · exact hstay (pods_odCount ..)
            · generalize hu : (if dflt = true then _ else _) = u
              obtain ⟨hr, hd⟩ : (getPod u pod).reads = (getPod s pod).reads ∧ descsOf u = descsOf s := by
                subst hu
                split
                · exact substLeaf_leaves ..
                · exact modLeaf_leaves ..
              obtain ⟨q, hq, hd'⟩ := queueRead_leaves pod k.id b.bag i w false u
              obtain ⟨rs, hrs⟩ := ih _ (by rw [hd', hd]; exact h)
              exact ⟨q :: rs, by rw [hrs, hq, hr, List.append_assoc]; rfl⟩

/-! ### A read that is held back -/

/-- A dependent read of one line of GDDR7. -/
def lineRead : ReadRec :=
  { id := 3, task := 7, bag := 0, leaf := 0, kind := 1, tier := 2, space := 1, addr := 0, len := 32, dep := true }

/-- Task 7, which is not pinned. -/
def lineTask : Task := { id := 7, queue := 0, desc := 0, phase := .admitted }

/-- A Pod with that read, and with 200 call slips open for another line of the same channel. -/
def slipPod : Pod :=
  { up := true, reads := [lineRead],
    bags := [{ task := 7, bag := 0, base := 0, n := 1, carrel := 0, carrels := 0, tree := 0,
               leaves := [{ pos := 0, row := none, weight := 0, count := 1, stage := 1 }] }],
    slice := { slips := (List.range 200).map (fun i => { n := i, tier := 0, addr := 128, cls := 0 }), nextSlip := 200 } }

/-- Pod 0 is listed after Pod 1. A change of Pod 0 lists it again before both, and the read queue of the channel then counts
its slips twice. -/
def slipState : State := { pods := [(1, {}), (0, slipPod)], cfe := { tasks := [lineTask] } }

theorem slipState_issues :
    issues slipState (placed 0 lineRead ⟨1, 2, 1, 0, 32⟩ 0 slipState) 0 2 lineTask lineRead ⟨1, 2, 1, 0, 32⟩ 0 := by
  refine ⟨⟨?_, ?_, ?_, ?_, { pos := 0, row := none, weight := 0, count := 1, stage := 1 }, false, ?_, ?_, ?_⟩, rfl, rfl, ?_⟩
  all_goals decide +kernel

theorem slipState_holds_back :
    ((getPod (doReadIssue 0 2 0 slipState) 0).reads.map (·.need)).head? = some [] := by decide +kernel

theorem slipState_unpinned : ∀ d ∈ descsOf slipState, dPin d = false := by
  have h : (descsOf slipState).all (fun d => !dPin d) = true := by decide +kernel
  simpa [List.all_eq_true] using h

theorem descsOf_congr {s t : State} (h : t.cfe = s.cfe) : descsOf t = descsOf s := by unfold descsOf; rw [h]

/-- Refutes O44: where the list of Pods has Pod 0 after Pod 1, a change of Pod 0 lists it a second time, the read queue of the
channel counts its 200 slips twice and is full, and the read is held back where the clause of the call slip has it open one. -/
theorem not_readsIssue : ¬ Obligations.ReadsIssue := by
  unfold Obligations.ReadsIssue
  rintro ⟨-, -, -, -, hslip, -⟩
  obtain ⟨u, e, hreads, -, -, -, hcfe⟩ := hslip slipState (placed 0 lineRead ⟨1, 2, 1, 0, 32⟩ 0 slipState) 0 2 lineTask lineRead
    ⟨1, 2, 1, 0, 32⟩ 0 0 0 slipState_issues (by decide) (by decide +kernel) rfl rfl (by decide +kernel) (by decide +kernel)
    (by decide +kernel) (by decide +kernel) (by decide +kernel) (by decide +kernel)
  have hexec (s : State) : exec (.readIssue 0 2 0) s = .next (doReadIssue 0 2 0 s) := rfl
  rw [hexec] at e
  have hfeed := Host.Outcome.next.inj e
  obtain ⟨rs, hrs⟩ := feedReads_appends 0 (sumOf (fun b => b.leaves.length) (getPod u 0).bags) u
    (by rw [descsOf_congr hcfe]; exact slipState_unpinned)
  have hneed := slipState_holds_back
  have hf : (getPod (feed 0 u) 0).reads = (getPod u 0).reads ++ rs := hrs
  rw [hfeed, hf, hreads] at hneed
  have hplaced : (getPod (placed 0 lineRead ⟨1, 2, 1, 0, 32⟩ 0 slipState) 0).reads =
      [wantRead ⟨1, 2, 1, 0, 32⟩ false lineRead] := by decide +kernel
  rw [hplaced] at hneed
  simp [wantRead, lineRead] at hneed

end Sys2Proof.Machine
end

section
/-! SUPPORT. Rows return into their leaves (R103, R126), and leaves are pooled (R128 to R135). -/

namespace Sys2Proof.Machine

/-! ### A read that has come whole -/

theorem findRead_some {s : State} {n pod : Nat} {r : ReadRec} (h : findRead s n = some (pod, r)) : r.id = n := by
  unfold findRead at h
  obtain ⟨p, -, hp⟩ := List.exists_of_findSome?_eq_some h
  obtain ⟨q, hq, heq⟩ := Option.map_eq_some_iff.mp hp
  cases heq
  simpa using List.find?_some hq

theorem dropRead_pod (pod id : Nat) (s : State) :
    getPod (dropRead pod id s) pod = { getPod s pod with reads := (getPod s pod).reads.filter (fun r => r.id != id) } ∧
    (∀ p, p ≠ pod → getPod (dropRead pod id s) p = getPod s p) ∧ { dropRead pod id s with pods := s.pods } = s :=
  ⟨getPod_mod_same .., fun _ hp => getPod_mod_other _ _ hp, rfl⟩

/-- The data of a task that has gone only frees its slots. -/
theorem rowReturn_gone {s : State} {n pod : Nat} {r : ReadRec} (h : findRead s n = some (pod, r)) (hw : readWhole r = true)
    (hk : bagTask s r.task = none) : doRowReturn n 0 s = dropRead pod n s := by
  have hatom : (if r.space = 1 then atomError r.addr 0 false s else (s, false)) = (s, false) := by
    split
    · rfl
    · rfl
  unfold doRowReturn
  rw [h]
  dsimp only
  rw [if_neg (by simp [hw]), hatom, hk]

/-- A whole read of a task that goes on, which meets no fault and is not checked against the twin. -/
theorem rowReturn_goes {s : State} {n pod : Nat} {r : ReadRec} {k : Task} {b : Bag} {l : Leaf}
    (h : findRead s n = some (pod, r)) (hw : readWhole r = true) (hk : bagTask s r.task = some k)
    (hb : getBag s pod r.task r.bag = some b) (hl : b.leaves[r.leaf]? = some l)
    (hf : r.space < 2 → tierFlt s (if r.space = 1 then 0 else 1) r.addr r.len = none)
    (hpair : pairRead s (leafPlace s k l).1 r l = false) :
    doRowReturn n 0 s = feed pod (readDone k pod r l (readBytes r) (dropRead pod n s)) := by
  have hatom : (if r.space = 1 then atomError r.addr 0 false s else (s, false)) = (s, false) := by
    split
    · rfl
    · rfl
  have hleaf : readLeaf s pod r = some l := by unfold readLeaf; rw [hb]; exact hl
  have hflt : (if r.space < 2 then tierFlt s (if r.space = 1 then 0 else 1) r.addr r.len else none) = none := by
    split
    next h2 => exact hf h2
    next => rfl
  have htwin : twinCheck k pod r l s = (some (readBytes r), s) := if_pos (by simp [hpair])
  unfold doRowReturn
  rw [h]
  dsimp only
  rw [if_neg (by simp [hw]), hatom, hk, hleaf]
  dsimp only
  simp only [Bool.false_eq_true, if_false]
  rw [hflt, htwin]

/-- Leaf i of a bag changes. -/
theorem getBag_modLeaf {s : State} {pod n bag : Nat} {b : Bag} (i : Nat) (f : Leaf → Leaf) (h : getBag s pod n bag = some b) :
    getBag (modLeaf pod n bag i f s) pod n bag = some { b with leaves := b.leaves.modify i f } :=
  getBag_mod_same (fun b => { b with leaves := b.leaves.modify i f }) h (fun _ => ⟨rfl, rfl⟩)

theorem modLeaf_other {pod p : Nat} (t bag i : Nat) (f : Leaf → Leaf) (s : State) (h : p ≠ pod) :
    getPod (modLeaf pod t bag i f s) p = getPod s p := getPod_mod_other _ _ h

/-- The row of a whole read goes into its leaf. -/
theorem gotRow_ready {s : State} {pod : Nat} {r : ReadRec} {k : Task} {l : Leaf} {bs : List Byte} (hkind : r.kind = 1)
    (hfolio : sdShelved l.desc = true → folio s ≤ l.markFolio + 1) (hm : rowMalformed l.desc bs = false)
    (he : rowEscapes l.desc bs = 0) :
    ∃ u, readDone k pod r l bs s = leafReady pod r l.desc bs [] u ∧ { u with cat := s.cat } = s := by
  unfold readDone
  rw [if_neg (by omega), if_neg (by omega)]
  unfold gotRow
  dsimp only
  rw [if_neg (fun ⟨hs, _, _, hlt⟩ => by have := hfolio hs; omega), if_neg (by simp [hm]), if_pos he]
  refine ⟨_, rfl, ?_⟩
  split
  · rfl
  · unfold countServed
    split <;> rfl

/-! ### A leaf is pooled -/

/-- The bag that a table of bags names becomes another one of its name. -/
theorem getBag_set {s : State} {pod n bag : Nat} {b b' : Bag} (h : getBag s pod n bag = some b) (hb' : b'.task = n ∧ b'.bag = bag) :
    getBag (modBag pod n bag (fun _ => b') s) pod n bag = some b' := by
  have hmap : (getPod (modBag pod n bag (fun _ => b') s) pod).bags =
      (getPod s pod).bags.map (fun b => if b.task = n ∧ b.bag = bag then
        (if b.task = n ∧ b.bag = bag then b' else b) else b) := by
    unfold modBag
    rw [getPod_mod_same]
    exact List.map_congr_left fun b _ => by split <;> rfl
  unfold getBag at *
  rw [hmap, find_modBag (fun b => if b.task = n ∧ b.bag = bag then b' else b) (fun b => by split <;> simp_all), h, Option.map_some,
    if_pos (getBag_id (s := s) (pod := pod) h)]

theorem poolInto_id (pool : Nat) (l : Leaf) (v : List F32) (b : Bag) :
    (poolInto pool l v b).task = b.task ∧ (poolInto pool l v b).bag = b.bag ∧ (poolInto pool l v b).base = b.base ∧
    (poolInto pool l v b).carrel = b.carrel ∧ (poolInto pool l v b).carrels = b.carrels ∧
    (poolInto pool l v b).pooled = b.pooled + 1 ∧
    (poolInto pool l v b).leaves = b.leaves.modify b.pooled (fun x => { x with stage := 3, data := [], side := [] }) := by
  simp only [poolInto]
  split
  · exact ⟨rfl, rfl, rfl, rfl, rfl, rfl, rfl⟩
  · split <;> exact ⟨rfl, rfl, rfl, rfl, rfl, rfl, rfl⟩

/-- The oldest handles of a Pod's queue to the Pool Unit are gone, and nothing else has changed. -/
def openTaken (pod : Nat) (s u : State) : Prop :=
  (∃ q, getPod u pod = { getPod s pod with hq0 := q }) ∧ (∀ p, p ≠ pod → getPod u p = getPod s p) ∧ { u with pods := s.pods } = s

theorem takeOpen_taken {pod n bag : Nat} {s u : State} (h : takeOpen pod n bag s = some u) : openTaken pod s u := by
  unfold takeOpen at h
  dsimp only at h
  split at h
  · cases h
    exact ⟨⟨(getPod s pod).hq0, rfl⟩, fun _ _ => rfl, rfl⟩
  · split at h
    · cases h
    · cases h
      exact ⟨⟨_, getPod_mod_same ..⟩, fun _ hp => getPod_mod_other _ _ hp, rfl⟩

/-- Without an aborted handle in the queue the OPEN handle can be taken. -/
theorem takeOpen_some {s : State} {pod : Nat} (h : ∀ h ∈ (getPod s pod).hq0.items, h.st ≠ .aborted) (n bag : Nat) :
    ∃ u, takeOpen pod n bag s = some u := by
  unfold takeOpen
  dsimp only
  split
  · exact ⟨_, rfl⟩
  · rw [if_neg]
    · exact ⟨_, rfl⟩
    · intro hany
      obtain ⟨x, hx, hst⟩ := List.any_eq_true.mp hany
      exact h x (List.mem_of_mem_take hx) (by simpa using hst)

/-- An entry of codebook memory as the one used last. -/
def cbLatest (c : Nat × Nat × Nat) (top : Nat) (e : CbEntry) : CbEntry :=
  if e.kind = c.1 ∧ e.aux = c.2.1 ∧ e.size = c.2.2 then { e with used := top } else e

theorem cbLatest_keeps (c : Nat × Nat × Nat) (top : Nat) (e : CbEntry) : (cbLatest c top e).kind = e.kind ∧
    (cbLatest c top e).aux = e.aux ∧ (cbLatest c top e).size = e.size ∧ (cbLatest c top e).data = e.data := by
  unfold cbLatest
  split <;> exact ⟨rfl, rfl, rfl, rfl⟩

theorem cbBytes_latest (c : Nat × Nat × Nat) (top : Nat) (p : Pod) (n : Option (Nat × Nat × Nat)) :
    cbBytes { p with cb := p.cb.map (cbLatest c top) } n = cbBytes p n := by
  unfold cbBytes
  split
  · rfl
  next m =>
    dsimp only
    rw [List.find?_map, Option.map_map]
    have hkey : ((fun e : CbEntry => e.kind == m.1 && e.aux == m.2.1 && e.size == m.2.2) ∘ cbLatest c top) =
        (fun e : CbEntry => e.kind == m.1 && e.aux == m.2.1 && e.size == m.2.2) := by
      funext e
      obtain ⟨hk, ha, hs, -⟩ := cbLatest_keeps c top e
      simp only [Function.comp, hk, ha, hs]
    have hdata : CbEntry.data ∘ cbLatest c top = CbEntry.data := funext fun e => (cbLatest_keeps c top e).2.2.2
    rw [hkey, hdata]

/-- Codebook memory that is used keeps its contents. -/
theorem cbTouch_pod (pod : Nat) (c : Option (Nat × Nat × Nat)) (s : State) :
    (∃ es, getPod (cbTouch pod c s) pod = { getPod s pod with cb := es } ∧
      ∀ n, cbBytes { getPod s pod with cb := es } n = cbBytes (getPod s pod) n) ∧
    (∀ p, p ≠ pod → getPod (cbTouch pod c s) p = getPod s p) ∧ { cbTouch pod c s with pods := s.pods } = s := by
  unfold cbTouch
  split
  · exact ⟨⟨_, rfl, fun _ => rfl⟩, fun _ _ => rfl, rfl⟩
  next c =>
    exact ⟨⟨_, getPod_mod_same .., fun n => cbBytes_latest c _ (getPod s pod) n⟩, fun _ hp => getPod_mod_other _ _ hp, rfl⟩

/-- The row of a finished bag depends on its Pod only through codebook memory. -/
theorem bagRow_congr {p q : Pod} (h : ∀ n, cbBytes q n = cbBytes p n) (k : Task) (b : Bag) : bagRow q k b = bagRow p k b := by
  unfold bagRow
  dsimp only
  rw [h]

/-- The handle of a finished row. -/
def pooledHandle (k : Task) (b : Bag) (num : Nat) (last : Bool) : Handle :=
  { st := .pooled, task := k.id, bag := num, fold := dOp k.desc == opFold, carrel := b.carrel,
    carrels := if last then b.carrels else 0, block := b.bag }

/-- A row has left the Pool Unit: it stands in its carrels, and its handle is the last of the queue. -/
def rowPushed (pod : Nat) (h : Handle) (carrel : Nat) (r : List F32) (s t : State) : Prop :=
  (getPod t pod).hq1.items = (getPod s pod).hq1.items ++ [h] ∧
  stored (carrelKey pod carrel) (r.flatMap (fun x => leBytes 4 x.toNat)) s.mem.tiles t.mem.tiles ∧
  (∀ p, p ≠ pod → getPod t p = getPod s p) ∧ { t.mem with tiles := s.mem.tiles } = s.mem

theorem pushPooled_pushes (k : Task) (pod : Nat) (b : Bag) (num : Nat) (last : Bool) (r : List F32) (s : State) :
    rowPushed pod (pooledHandle k b num last) b.carrel r s (pushPooled k pod b num last r s) ∧
    (getPod (pushPooled k pod b num last r s) pod).bags =
      if last then (getPod s pod).bags.filter (fun c => !(c.task == k.id && c.bag == b.bag)) else (getPod s pod).bags := by
  have e : pushPooled k pod b num last r s =
      if last then modDeal k.id b.bag (fun x => { x with passedG := true }) (modPod pod (fun p => { p with
          bags := p.bags.filter (fun c => !(c.task == k.id && c.bag == b.bag)) })
        (pushHandle pod 1 (pooledHandle k b num last) (putCarrels pod b.carrel r s)))
      else pushHandle pod 1 (pooledHandle k b num last) (putCarrels pod b.carrel r s) := rfl
  rw [e]
  generalize pooledHandle k b num last = h
  generalize hu : pushHandle pod 1 h (putCarrels pod b.carrel r s) = u
  have hpod : getPod u pod = { getPod s pod with hq1 := hqPush h (getPod s pod).hq1 } := by
    subst hu; exact getPod_mod_same ..
  have hother (p : Nat) (hp : p ≠ pod) : getPod u p = getPod s p := by
    subst hu; exact getPod_mod_other (s := putCarrels pod b.carrel r s) _ hp
  have hstored : stored (carrelKey pod b.carrel) (r.flatMap (fun x => leBytes 4 x.toNat)) s.mem.tiles u.mem.tiles := by
    subst hu; exact stored_memStore ..
  have hmem : { u.mem with tiles := s.mem.tiles } = s.mem := by subst hu; rfl
  split
  · refine ⟨⟨?_, hstored, fun p hp => ?_, hmem⟩, ?_⟩
    · rw [getPod_modDeal, getPod_mod_same, hpod]; rfl
    · rw [getPod_modDeal, getPod_mod_other _ _ hp, hother p hp]
    · rw [getPod_modDeal, getPod_mod_same, hpod]
  · exact ⟨⟨by rw [hpod]; rfl, hstored, hother, hmem⟩, by rw [hpod]⟩

/-- The count of a finished bag changes no Pod and no memory. -/
theorem countBag_keeps (t n : Nat) (bad : Bool) (s : State) :
    getPod (countBag t n bad s) = getPod s ∧ (countBag t n bad s).mem = s.mem := by
  unfold countBag
  dsimp only
  split
  · exact ⟨by rw [getPod_odCount]; exact getPod_odCount .., (odCount_keeps ..).2.2.1.trans (odCount_keeps ..).2.2.1⟩
  · exact ⟨by rw [getPod_odCount]; rfl, (odCount_keeps ..).2.2.1⟩

/-- A bag, or an index of a GATHER, that leaves the Pool Unit with its fused row r. -/
theorem finishBag_pushes {k : Task} {pod num : Nat} {b : Bag} {s : State} {r : List F32} (hn : dPool k.desc = 6 → b.n ≠ 0)
    (hnum : num = if dPool k.desc = 6 then b.base + (b.leaves[b.pooled - 1]?).elim 0 (·.pos) else b.bag)
    (hr : (if dPool k.desc = 6 then .ok (bagRow (getPod s pod) k b) else finishFuse s k pod b.bag (bagRow (getPod s pod) k b)) = .ok r) :
    rowPushed pod (pooledHandle k b num (bagEnds b)) b.carrel r s (finishBag k pod b s) ∧
    (bagEnds b = true → ∀ c ∈ (getPod (finishBag k pod b s) pod).bags, ¬ (c.task = k.id ∧ c.bag = b.bag)) := by
  unfold finishBag
  dsimp only
  simp only [beq_iff_eq]
  rw [if_neg (fun h => hn h.1 h.2), hr, ← hnum]
  dsimp only
  generalize hw : modBag pod k.id b.bag _ (cbTouch pod (signNeed k.shard0) s) = w
  obtain ⟨⟨es, hcb, -⟩, hcbother, hcbrest⟩ := cbTouch_pod pod (signNeed k.shard0) s
  have hwq : (getPod w pod).hq1 = (getPod s pod).hq1 := by
    subst hw; unfold modBag; rw [getPod_mod_same, hcb]
  have hwother (p : Nat) (hp : p ≠ pod) : getPod w p = getPod s p := by
    subst hw; exact (getPod_mod_other _ _ hp).trans (hcbother p hp)
  have hwmem : w.mem = s.mem := by subst hw; exact (congrArg State.mem hcbrest :)
  generalize hv : (if bagEnds b = true then countBag k.id b.n _ w else w) = v
  obtain ⟨hvget, hvmem⟩ : getPod v = getPod w ∧ v.mem = w.mem := by
    subst hv; split
    · exact countBag_keeps ..
    · exact ⟨rfl, rfl⟩
  obtain ⟨⟨hitems, hstored, hother, hmem⟩, hbags⟩ := pushPooled_pushes k pod b num (bagEnds b) r v
  rw [hvget] at hitems hbags
  rw [hvmem, hwmem] at hstored hmem
  refine ⟨⟨by rw [hitems, hwq], hstored, fun p hp => ?_, hmem⟩, fun hends c hc => ?_⟩
  · rw [hother p hp, hvget, hwother p hp]
  · rw [hbags, if_pos hends] at hc
    rintro ⟨ht, hbag⟩
    simpa [ht, hbag] using (List.mem_filter.mp hc).2

/-- LEAF_POOL of a bag that goes on, whose handle has been taken. -/
theorem leafPool_goes {s u : State} {pod n bag : Nat} {k : Task} {b : Bag} (hk : bagTask s n = some k)
    (hb : getBag s pod n bag = some b) (hon : podOn s pod [6, 8] = true) (hop : dOp k.desc ≠ opUpdate)
    (hq0 : hqOk (getPod s pod).hq0 = true) (hq1 : hqOk (getPod s pod).hq1 = true) (hu : takeOpen pod n bag s = some u) :
    doLeafPool pod n bag s = match b.leaves[b.pooled]? with
      | none => if bagEnds b && mayFinish s k pod b then finishBag k pod b u else s
      | some l =>
        if l.stage ≠ 2 ∨ !cbHeld (getPod s pod) (cbNeed l.desc) ∨
            ((bagEnds (poolInto (dPool k.desc) l (poolVec (getPod s pod) l) b) || dPool k.desc == 6) ∧
              !mayFinish s k pod (poolInto (dPool k.desc) l (poolVec (getPod s pod) l) b)) then s
        else feed pod (if bagEnds (poolInto (dPool k.desc) l (poolVec (getPod s pod) l) b) || dPool k.desc == 6
          then finishBag k pod (poolInto (dPool k.desc) l (poolVec (getPod s pod) l) b) (cbTouch pod (cbNeed l.desc)
            (modBag pod n bag (fun _ => poolInto (dPool k.desc) l (poolVec (getPod s pod) l) b) (drawn u)))
          else cbTouch pod (cbNeed l.desc)
            (modBag pod n bag (fun _ => poolInto (dPool k.desc) l (poolVec (getPod s pod) l) b) (drawn u))) := by
  unfold doLeafPool
  rw [hk, hb]
  dsimp only
  rw [if_neg (by simp [hon, hop]), withHq_ok _ (by exact hq0), withHq_ok _ (by exact hq1), hu] <;> rfl

/-- What has been taken from a Pod's queue and put into a bag leaves the rest of the Pod. -/
theorem pooledState {s u : State} {pod n bag : Nat} {b b' : Bag} (hu : openTaken pod s u) (hb : getBag s pod n bag = some b)
    (hb' : b'.task = n ∧ b'.bag = bag) (c : Option (Nat × Nat × Nat)) (t : State)
    (ht : t = cbTouch pod c (modBag pod n bag (fun _ => b') (drawn u))) :
    getBag t pod n bag = some b' ∧ (getPod t pod).hq1 = (getPod s pod).hq1 ∧
    (∀ m, cbBytes (getPod t pod) m = cbBytes (getPod s pod) m) ∧ (∀ p, p ≠ pod → getPod t p = getPod s p) ∧
    { t with pods := s.pods, gau := s.gau } = s := by
  obtain ⟨⟨q, hpod⟩, hother, hrest⟩ := hu
  generalize hv : modBag pod n bag (fun _ => b') (drawn u) = v at ht
  have hubag : getBag (drawn u) pod n bag = some b := (getBag_congr (show (getPod u pod).bags = _ by rw [hpod]) _ _).trans hb
  have hvbag : getBag v pod n bag = some b' := by subst hv; exact getBag_set hubag hb'
  have hvpod : ∃ bs, getPod v pod = { getPod s pod with hq0 := q, bags := bs } := by
    subst hv
    exact ⟨_, (getPod_mod_same ..).trans (by rw [show getPod (drawn u) pod = getPod u pod from rfl, hpod])⟩
  have hvother (p : Nat) (hp : p ≠ pod) : getPod v p = getPod s p := by
    subst hv; exact (getPod_mod_other _ _ hp).trans (hother p hp)
  have hvrest : { v with pods := s.pods, gau := s.gau } = s := by
    subst hv; exact (congrArg (fun x : State => { x with gau := s.gau }) hrest :)
  obtain ⟨bs, hvpod⟩ := hvpod
  obtain ⟨⟨es, hcb, hbytes⟩, hcbother, hcbrest⟩ := cbTouch_pod pod c v
  subst ht
  refine ⟨(getBag_congr (by rw [hcb]) _ _).trans hvbag, by rw [hcb, hvpod], fun m => ?_, fun p hp => (hcbother p hp).trans (hvother p hp), ?_⟩
  · rw [hcb, hbytes, hvpod]
    rfl
  · exact (congrArg (fun x : State => { x with pods := s.pods, gau := s.gau }) hcbrest :).trans hvrest

/-- Settles O45: the first three clauses are outcomes of `doRowReturn`, the others of `doLeafPool`. -/
theorem rowsArriveAndPool : Obligations.RowsArriveAndPool := by
  unfold Obligations.RowsArriveAndPool
  refine ⟨?gone, ?row, ?shelfmark, ?pool, ?finish, ?gather⟩
  case gone =>
    intro s n pod r h hw hk
    refine ⟨_, rfl, ?_⟩
    rw [rowReturn_gone h hw hk]
    exact dropRead_pod pod n s
  case row =>
    intro s n pod r k b l h hw hk hb hl hf hpair hkind hfolio hm he
    obtain ⟨hdrop, hother, hrest⟩ := dropRead_pod pod n s
    have hfol : folio (dropRead pod n s) = folio s := rfl
    obtain ⟨u, hu, hurest⟩ := gotRow_ready (s := dropRead pod n s) (pod := pod) (k := k) hkind (by rw [hfol]; exact hfolio) hm he
    have huget : getPod u = getPod (dropRead pod n s) := by
      unfold getPod; rw [show u.pods = (dropRead pod n s).pods from (congrArg State.pods hurest :)]
    have hubag : getBag u pod r.task r.bag = some b :=
      (getBag_congr (by rw [huget, hdrop]) _ _).trans hb
    refine ⟨leafReady pod r l.desc (readBytes r) [] u, ?_, ?_, ?_, ?_, fun p hp => ?_, ?_⟩
    · show Host.Outcome.next (doRowReturn n 0 s) = _
      rw [rowReturn_goes h hw hk hb hl hf hpair, hu]
    · exact getBag_modLeaf r.leaf (fun l => { l with stage := 2, data := readBytes r, side := [] }) hubag
    · show (getPod (modLeaf pod r.task r.bag r.leaf _ u) pod).reads = _
      rw [(modLeaf_leaves ..).1, huget, hdrop]
    · show u.gau.bytes + _ = _
      rw [show u.gau = s.gau from (congrArg State.gau hurest :)]
    · exact (modLeaf_other _ _ _ _ u hp).trans (by rw [huget, hother p hp])
    · show u.mem = s.mem
      exact (congrArg State.mem hurest :)
  case shelfmark =>
    intro s n pod r k b l h hw hk hb hl hf hkind hm
    obtain ⟨hdrop, hother, hrest⟩ := dropRead_pod pod n s
    have hpair : pairRead s (leafPlace s k l).1 r l = false := by unfold pairRead; simp [hkind]
    generalize hv : modLeaf pod r.task r.bag r.leaf (fun l => { l with markFolio := folio s }) (dropRead pod n s) = v
    generalize hm' : leNat (readBytes r) = m at hm ⊢
    have e : doRowReturn n 0 s = feed pod (queueRead pod r.task r.bag r.leaf
        ⟨1, slotTier (smTier m), readSpace (smTier m), 32 * smLoc m, rowS l.desc⟩ true v) := by
      rw [rowReturn_goes h hw hk hb hl hf hpair]
      unfold readDone
      rw [if_pos hkind, hm']
      unfold gotShelfmark
      dsimp only
      rw [if_pos hm, ← hv]
      rfl
    have hvbag : getBag v pod r.task r.bag = some { b with leaves := b.leaves.modify r.leaf (fun l => { l with markFolio := folio s }) } := by
      subst hv
      exact getBag_modLeaf _ _ ((getBag_congr (by rw [hdrop]) _ _).trans hb)
    have hvreads : (getPod v pod).reads = (getPod s pod).reads.filter (fun q => q.id != n) := by
      subst hv
      rw [(modLeaf_leaves ..).1, hdrop]
    have hvrest : v.gau = s.gau ∧ v.mem = s.mem ∧ v.cfe = s.cfe := by subst hv; exact ⟨rfl, rfl, rfl⟩
    obtain ⟨hvgau, hvmem, hvcfe⟩ := hvrest
    have hvother (p : Nat) (hp : p ≠ pod) : getPod v p = getPod s p := by
      subst hv; exact (modLeaf_other _ _ _ _ _ hp).trans (hother p hp)
    refine ⟨_, congrArg Host.Outcome.next e, ?_, ?_, fun p hp => ?_, hvmem, hvcfe⟩
    · refine (getBag_congr (s := v) ?_ _ _).trans hvbag
      unfold queueRead
      dsimp only
      rw [getPod_mod_same]
      rfl
    · unfold queueRead
      dsimp only
      rw [getPod_mod_same]
      show (getPod v pod).reads ++ _ = _
      rw [hvreads, hvgau]
      rfl
    · exact (getPod_mod_other _ _ hp).trans (hvother p hp)
  case pool =>
    intro s pod n k b l b' hk hb hon hop hq0 hq1 hab hl hst hcb hb' hpool hends
    obtain ⟨u, hu⟩ := takeOpen_some hab n b.bag
    have hid := getBag_id hb
    have hkeep := poolInto_id (dPool k.desc) l (poolVec (getPod s pod) l) b
    rw [← hb'] at hkeep
    obtain ⟨htask, hbag, -⟩ := hkeep
    obtain ⟨hget, -, -, hother, hrest⟩ := pooledState (takeOpen_taken hu) hb ⟨htask.trans hid.1, hbag⟩ (cbNeed l.desc) _ rfl
    refine ⟨_, ?_, hget, hother, (congrArg State.mem hrest :), (congrArg State.cfe hrest :)⟩
    show Host.Outcome.next (doLeafPool pod n b.bag s) = _
    rw [leafPool_goes hk hb hon hop hq0 hq1 hu, hl]
    dsimp only
    rw [← hb', if_neg (by simp [hst, hcb, hends, hpool]), if_neg (by simp [hends, hpool])]
  case finish =>
    intro s u pod n k b r hk hb hon hop hq0 hq1 hends hmay hpool hu hr
    have hid := getTask_id (bagTask_some hk).1
    have hnone : b.leaves[b.pooled]? = none := by
      unfold bagEnds at hends
      simp only [Bool.and_eq_true, beq_iff_eq] at hends
      rw [hends.2]
      exact List.getElem?_eq_none (Nat.le_refl _)
    refine ⟨_, rfl, ?_⟩
    rw [leafPool_goes hk hb hon hop hq0 hq1 hu, hnone]
    dsimp only
    rw [if_pos (by simp [hends, hmay])]
    obtain ⟨⟨q, hpod⟩, huother, hurest⟩ := takeOpen_taken hu
    have hrow : bagRow (getPod u pod) k b = bagRow (getPod s pod) k b := by rw [hpod]; rfl
    obtain ⟨⟨hitems, hstored, hother, hmem⟩, hgone⟩ := finishBag_pushes (k := k) (pod := pod) (num := b.bag) (b := b) (s := u) (r := r)
      (fun h => absurd h hpool) (by rw [if_neg hpool]) (by rw [if_neg hpool, hrow]; exact hr)
    have humem : u.mem = s.mem := (congrArg State.mem hurest :)
    rw [humem] at hstored hmem
    refine ⟨?_, hstored, ?_, fun p hp => (hother p hp).trans (huother p hp), hmem⟩
    · rw [hitems, hpod]
      unfold pooledHandle
      rw [hends, hid]
      rfl
    · rw [← hid]
      exact hgone hends
  case gather =>
    intro s pod n k b l b' hk hb hon hop hq0 hq1 hab hl hst hcb hpool hn hb' hmay
    have hid := getTask_id (bagTask_some hk).1
    obtain ⟨u, hu⟩ := takeOpen_some hab n b.bag
    have hid' := getBag_id hb
    have hkeep := poolInto_id 6 l (poolVec (getPod s pod) l) b
    have hbn := poolInto_n 6 l (poolVec (getPod s pod) l) b
    rw [← hb'] at hkeep hbn
    obtain ⟨htask, hbag, hbase, hcar, hcars, hpooled, hleaves⟩ := hkeep
    generalize hw : cbTouch pod (cbNeed l.desc) (modBag pod n b.bag (fun _ => b') (drawn u)) = w
    obtain ⟨-, hwq, hbytes, hother, hrest⟩ := pooledState (takeOpen_taken hu) hb ⟨htask.trans hid'.1, hbag⟩ (cbNeed l.desc) w hw.symm
    have hwmem : w.mem = s.mem := (congrArg State.mem hrest :)
    have hrow : bagRow (getPod w pod) k b' = bagRow (getPod s pod) k b' := bagRow_congr hbytes k b'
    have hnum : b.base + l.pos = if dPool k.desc = 6 then b'.base + (b'.leaves[b'.pooled - 1]?).elim 0 (·.pos) else b'.bag := by
      rw [if_pos hpool, hbase, hpooled, hleaves, Nat.add_sub_cancel, List.getElem?_modify_eq, hl]
      rfl
    obtain ⟨⟨hitems, hstored, hother', hmem⟩, -⟩ := finishBag_pushes (k := k) (pod := pod) (b := b') (s := w)
      (r := bagRow (getPod s pod) k b') (fun _ => by rw [hbn]; exact hn) hnum (by rw [if_pos hpool, hrow])
    rw [hwmem] at hstored hmem
    rw [hcar] at hstored
    refine ⟨finishBag k pod b' w, ?_, ?_, hstored, fun p hp => (hother' p hp).trans (hother p hp), hmem⟩
    · show Host.Outcome.next (doLeafPool pod n b.bag s) = _
      rw [leafPool_goes hk hb hon hop hq0 hq1 hu, hl]
      dsimp only
      rw [hpool, ← hb', if_neg (by simp [hst, hcb, hmay]), if_pos (by simp), hw]
    · rw [hitems, hwq]
      unfold pooledHandle
      rw [hid, hcar, hcars, hbag]

end Sys2Proof.Machine
end

section
/-! SUPPORT. Finished rows and blocks leave the Pool Unit and the Fold Unit (R142, R150, R187), aborted handles are freed (R19),
and codebook memory is loaded (R167). -/

namespace Sys2Proof.Machine

/-! ### A handle is taken -/

/-- A Pod without the oldest handle of one of its queues. -/
def handlePopped (q : Nat) (p : Pod) : Pod := setHq q (hqPop (hqOf p q)) p

theorem handlePopped_keeps (q : Nat) (p : Pod) : (handlePopped q p).bags = p.bags ∧ (handlePopped q p).carrels = p.carrels ∧
    (handlePopped q p).flu = p.flu ∧ (handlePopped q p).sprouts = p.sprouts ∧ (handlePopped q p).inReset = p.inReset ∧
    (handlePopped q p).retired = p.retired ∧ (handlePopped q p).groups = p.groups := by
  unfold handlePopped setHq
  split
  · exact ⟨rfl, rfl, rfl, rfl, rfl, rfl, rfl⟩
  · split <;> exact ⟨rfl, rfl, rfl, rfl, rfl, rfl, rfl⟩

theorem hqOf_popped (q : Nat) (p : Pod) : hqOf (handlePopped q p) q = hqPop (hqOf p q) := by
  unfold handlePopped setHq hqOf
  split
  · rfl
  · split <;> rfl

theorem getPod_popHandle (pod q p : Nat) (s : State) :
    getPod (popHandle pod q s) p = if p = pod then handlePopped q (getPod s p) else getPod s p := by
  unfold popHandle
  split
  next h => subst h; exact getPod_mod_same ..
  next h => exact getPod_mod_other _ _ h

/-- What a property of a Pod that no handle queue bears on comes to after a handle is taken. -/
theorem popHandle_same {α : Type} (g : Pod → α) (q : Nat) (h : ∀ p, g (handlePopped q p) = g p) (pod p : Nat) (s : State) :
    g (getPod (popHandle pod q s) p) = g (getPod s p) := by
  rw [getPod_popHandle]
  split
  · exact h _
  · rfl

theorem accessFlt_popHandle (pod q : Nat) (s : State) : accessFlt (popHandle pod q s) = accessFlt s := by
  have hin (p : Nat) := popHandle_same (·.inReset) q (fun p => (handlePopped_keeps q p).2.2.2.2.1) pod p s
  have hret (p : Nat) := popHandle_same (·.retired) q (fun p => (handlePopped_keeps q p).2.2.2.2.2.1) pod p s
  have hscratch : scratchFault (popHandle pod q s) = scratchFault s := by
    funext a n
    unfold scratchFault
    simp only [hin, hret]
    rfl
  funext w n
  unfold accessFlt accessFault
  rw [hscratch]
  rfl

theorem loadAw_popHandle (pod q : Nat) (s : State) : loadAw (popHandle pod q s) = loadAw s := by
  have hbags (p : Nat) := popHandle_same (·.bags) q (fun p => (handlePopped_keeps q p).1) pod p s
  have htile : tileByte (popHandle pod q s) = tileByte s := by
    funext a
    unfold tileByte carrelBusy
    simp only [hbags]
    rfl
  funext w n
  unfold loadAw tileLoad
  rw [htile]
  rfl

theorem streamSlot_popHandle (pod q : Nat) (s : State) (k : Task) (p kind : Nat) :
    streamSlot (popHandle pod q s) k p kind = streamSlot s k p kind := by
  unfold streamSlot
  rw [popHandle_same (·.sprouts) q (fun p => (handlePopped_keeps q p).2.2.2.1) pod p s]

theorem addGroup_popHandle (pod q : Nat) (s : State) (k : Task) : addGroup (popHandle pod q s) k = addGroup s k := by
  unfold addGroup
  rw [popHandle_same (·.groups) q (fun p => (handlePopped_keeps q p).2.2.2.2.2.2) pod _ s]

/-! ### An output row is written -/

/-- An exported row goes out by the system sprout. -/
def rowOut (k : Task) (w : Nat) (e : Exported) (s : State) : State :=
  storeAw w e.bytes (some k.id) (countExport k.id (outNarrow (dOutFmt k.desc)) e s)

theorem rowOut_stored {k : Task} {w : Nat} {e : Exported} {s : State} (hup : chansUp s) :
    storedAt w e.bytes (some k.id) s (rowOut k w e s) := by
  have hsame := sameAccess_countExport k.id (outNarrow (dOutFmt k.desc)) e s
  exact hsame.storedAt (storeAw_storedAt w e.bytes (some k.id) (hsame.chansUp hup))

/-- The Pods, but for their slices, are as they were. -/
theorem rowOut_pods (k : Task) (w : Nat) (e : Exported) (s : State) (p : Nat) :
    { getPod (rowOut k w e s) p with slice := {} } = { getPod s p with slice := {} } := by
  have hbare : podsBare (rowOut k w e s) = podsBare s := by
    refine (quiet_podsBare.storeAw ..).trans ?_
    unfold podsBare
    rw [(sameAccess_countExport k.id (outNarrow (dOutFmt k.desc)) e s).pods]
  rw [getPod_bare, hbare, getPod_bare]

theorem rowOut_exported (k : Task) (w : Nat) (e : Exported) (s : State) :
    (rowOut k w e s).gau.exported = s.gau.exported + 1 := by
  have hgau : (rowOut k w e s).gau = (countExport k.id (outNarrow (dOutFmt k.desc)) e s).gau :=
    storeAw_holds (P := fun t => t.gau = _) (keeps_gau _ _) (keeps_gau _ _) (keeps_gau _ _) (keeps_gau _ _)
      (keeps_gau _ _) (keeps_gau _ _) _ _ _ rfl
  rw [hgau]
  unfold countExport
  dsimp only
  show (odCount _ _ _).gau.exported + 1 = _
  rw [gau_odCount, gau_odCount]
  rfl

/-- A bag that has passed export changes the front end alone. -/
theorem leftBag_rest (t bag : Nat) (s : State) : { leftBag t bag s with cfe := s.cfe } = s := by
  unfold leftBag finishIfDone
  split
  · rfl
  · split
    · exact (congrArg (fun u : State => { u with cfe := s.cfe }) (finishTask_rest t (modDeal t bag (fun x => { x with passedX := true }) s)) :)
    · rfl

/-- A row that has left its carrels: they are free, and its bag may have passed export. -/
def rowLeft (k : Task) (pod : Nat) (h : Handle) (s : State) : State :=
  if h.carrels = 0 then freeCarrels pod h.carrel h.carrels s else leftBag k.id h.block (freeCarrels pod h.carrel h.carrels s)

theorem rowLeft_rest (k : Task) (pod : Nat) (h : Handle) (s : State) : { rowLeft k pod h s with cfe := s.cfe, pods := s.pods } = s := by
  unfold rowLeft
  split
  · rfl
  · exact (congrArg (fun u : State => { u with pods := s.pods }) (leftBag_rest k.id h.block (freeCarrels pod h.carrel h.carrels s)) :)

theorem rowLeft_pod (k : Task) (pod : Nat) (h : Handle) (s : State) :
    getPod (rowLeft k pod h s) pod = { getPod s pod with carrels := (getPod s pod).carrels.filter (fun c =>
      !(decide (h.carrel ≤ c.1) && decide (c.1 < h.carrel + h.carrels))) } := by
  have hfree : getPod (freeCarrels pod h.carrel h.carrels s) pod = { getPod s pod with
      carrels := (getPod s pod).carrels.filter (fun c => !(decide (h.carrel ≤ c.1) && decide (c.1 < h.carrel + h.carrels))) } :=
    getPod_mod_same ..
  unfold rowLeft
  split
  · exact hfree
  · rw [← hfree]
    unfold getPod
    rw [show (leftBag k.id h.block (freeCarrels pod h.carrel h.carrels s)).pods = _ from (congrArg State.pods (leftBag_rest ..) :)]

/-- A row goes to its place after OUT_ADDR. -/
theorem sendPooled_out {s : State} {pod w : Nat} {h : Handle} {k : Task} {e : Exported} (hto : dToTiles k.desc = false)
    (hslot : streamSlot s k pod 3 = .system) (hw : w = dOutAddr k.desc + h.bag * outPitch k.desc (sdDim k.shard0))
    (he : e = exportRow (dOutFmt k.desc) (carrelRow s pod h.carrel (sdDim k.shard0))) (hacc : accessFlt s w e.bytes.length = none) :
    sendPooled k pod h s = rowLeft k pod h (rowOut k w e (popHandle pod 1 s)) := by
  subst hw
  have hsame := sameAccess_countExport k.id (outNarrow (dOutFmt k.desc)) e (popHandle pod 1 s)
  unfold sendPooled emitRow
  dsimp only
  rw [if_neg (by simp [hto])]
  unfold exportOut
  dsimp only
  rw [← he, outputStream_system h.bag _ (by rw [hsame.streamSlot, streamSlot_popHandle]; exact hslot)
    (by rw [hsame.accessFlt, accessFlt_popHandle]; exact hacc)]
  rfl

/-- A column block goes to its place in its row. -/
theorem sendBlock_out {s : State} {pod w place : Nat} {h : Handle} {k : Task} {e : Exported} (hto : dToTiles k.desc = false)
    (hslot : streamSlot s k pod 3 = .system)
    (hplace : place = h.bag * outPitch k.desc (sdDim k.shard0) +
      (if outNarrow (dOutFmt k.desc) then h.block * outSize (dOutFmt k.desc) 1024 else h.block * 1024 * outBits (dOutFmt k.desc) / 8))
    (hw : w = dOutAddr k.desc + place)
    (he : e = exportRow (dOutFmt k.desc) (foldScaled h.scale h.cols (capturedAcc s pod h.latch (blockWidth (dFoldN k.desc) h.block))))
    (hacc : accessFlt s w e.bytes.length = none) :
    sendBlock k pod h.latch h.block h.scale h.cols h.bag s = (rowOut k w e s, none) := by
  subst hw hplace
  have hsame := sameAccess_countExport k.id (outNarrow (dOutFmt k.desc)) e s
  unfold sendBlock emitBlock
  dsimp only
  rw [if_neg (by simp [hto]), ← he, outputStream_system h.bag _ (by rw [hsame.streamSlot]; exact hslot)
    (by rw [hsame.accessFlt]; exact hacc)]
  rfl

/-! ### The export of a Pod -/

theorem exportHead_some {s : State} {pod q : Nat} {tiles : Bool} {h : Handle} {rest : List Handle} {k : Task}
    (hi : (hqOf (getPod s pod) q).items = h :: rest) (hst : h.st = if q = 2 then .folded else .pooled)
    (hfold : q = 2 ∨ h.fold = false) (hk : getTask s h.task = some k) (hto : dToTiles k.desc = tiles) :
    exportHead s pod q tiles = some (h, k) := by
  unfold exportHead headHandle
  rw [hi]
  dsimp only [List.head?_cons]
  rw [if_pos ⟨hst, by simpa using hfold⟩, hk]
  exact if_pos hto

theorem exportHead_empty {s : State} {pod q : Nat} (tiles : Bool) (hi : (hqOf (getPod s pod) q).items = []) :
    exportHead s pod q tiles = none := by
  unfold exportHead headHandle
  rw [hi]
  rfl

/-- The export takes the FOLDED handle whose turn has come. -/
theorem exportNext_folded {s : State} {pod : Nat} {tiles : Bool} {h : Handle} {k : Task}
    (hon : podOn s pod (if tiles then [6] else [8]) = true) (hq1 : hqOk (getPod s pod).hq1 = true) (hq2 : hqOk (getPod s pod).hq2 = true)
    (hh : exportHead s pod 2 tiles = some (h, k)) (ht : tiles = true → addTurn s k h.bag (some h.block) = true) :
    exportNext pod tiles s = sendFolded k pod h s := by
  unfold exportNext
  rw [if_neg (by simp [hon]), withHq_ok _ (by exact hq2), withHq_ok _ (by exact hq1), hh, Option.filter_some_pos]
  cases tiles
  · rfl
  · simpa using ht rfl

/-- Without a FOLDED handle the export takes the POOLED handle whose turn has come. -/
theorem exportNext_pooled {s : State} {pod : Nat} {tiles : Bool} {h : Handle} {k : Task}
    (hon : podOn s pod (if tiles then [6] else [8]) = true) (hq1 : hqOk (getPod s pod).hq1 = true) (hq2 : hqOk (getPod s pod).hq2 = true)
    (h2 : (getPod s pod).hq2.items = []) (hh : exportHead s pod 1 tiles = some (h, k))
    (ht : tiles = true → addTurn s k h.block none = true) : exportNext pod tiles s = sendPooled k pod h s := by
  unfold exportNext
  rw [if_neg (by simp [hon]), withHq_ok _ (by exact hq2), withHq_ok _ (by exact hq1), exportHead_empty tiles (by exact h2), hh]
  dsimp only [Option.filter_none]
  rw [Option.filter_some_pos]
  cases tiles
  · rfl
  · simpa using ht rfl

/-- A row is added into the tiles of its group. -/
theorem sendPooled_adds {s : State} {pod lin w : Nat} {h : Handle} {k : Task} {g : Group} {r : List F32} {bs : List Byte}
    (hto : dToTiles k.desc = true) (hg : addGroup s k = some g) (hr : r = carrelRow s pod h.carrel (sdDim k.shard0))
    (hlin : lin = (outTile k.desc).first * 1024 + dOutTileAddr k.desc % 1024 + h.block * outPitch k.desc (sdDim k.shard0))
    (hlo : g.first * 1024 ≤ lin) (hhi : lin + 4 * r.length ≤ (g.first + g.count) * 1024)
    (hw : w = tileWord (outTile k.desc).pod 0 0 + lin)
    (hbs : bs = (vAdd false (fuseVec 0 r.length (loadAw s w (4 * r.length))) r).flatMap (fun v => leBytes 4 v.toNat)) :
    sendPooled k pod h s = rowLeft k pod h (storeAw w bs (some k.id) (popHandle pod 1 s)) := by
  unfold sendPooled emitRow
  dsimp only
  rw [if_pos hto]
  unfold addTiles
  dsimp only
  rw [addGroup_popHandle, hg]
  dsimp only
  rw [Nat.add_zero, ← hlin, ← hr, if_neg (by omega), loadAw_popHandle, ← hw, ← hbs]
  rfl

theorem storeAw_pods (w : Nat) (bs : List Byte) (task : Option Nat) (s : State) (p : Nat) :
    { getPod (storeAw w bs task s) p with slice := {} } = { getPod s p with slice := {} } := by
  rw [getPod_bare, show podsBare (storeAw w bs task s) = podsBare s from quiet_podsBare.storeAw .., getPod_bare]

/-- What a row leaves behind it: its handle and its carrels. -/
theorem rowLeft_leaves {s u : State} {pod : Nat} {h : Handle} {rest : List Handle} (k : Task)
    (hi : (getPod s pod).hq1.items = h :: rest)
    (hu : { getPod u pod with slice := {} } = { getPod (popHandle pod 1 s) pod with slice := {} }) :
    (getPod (rowLeft k pod h u) pod).hq1.items = rest ∧
    (getPod (rowLeft k pod h u) pod).carrels = (getPod s pod).carrels.filter (fun c =>
      !(decide (h.carrel ≤ c.1) && decide (c.1 < h.carrel + h.carrels))) := by
  have hq : (getPod u pod).hq1 = hqPop (getPod s pod).hq1 :=
    (congrArg Pod.hq1 hu :).trans (by rw [getPod_popHandle, if_pos rfl]; rfl)
  have hc : (getPod u pod).carrels = (getPod s pod).carrels :=
    (congrArg Pod.carrels hu :).trans (by rw [getPod_popHandle, if_pos rfl]; rfl)
  rw [rowLeft_pod]
  exact ⟨by rw [hq]; exact congrArg List.tail hi, by rw [hc]⟩

/-- A block leaves its queue and the captures that are still to be read. -/
def blockLeft (k : Task) (pod : Nat) (h : Handle) (s : State) : State :=
  let s := modPod pod (fun p => { p with flu := { p.flu with unread := p.flu.unread - 1 } }) (popHandle pod 2 s)
  let s := modDeal k.id h.bag (fun x => { x with blocks := x.blocks + 1 }) s
  if h.block + 1 = foldBlocks (dFoldN k.desc) then leftBag k.id h.bag s else s

theorem blockLeft_rest (k : Task) (pod : Nat) (h : Handle) (s : State) :
    { blockLeft k pod h s with cfe := s.cfe, pods := s.pods } = s := by
  unfold blockLeft
  dsimp only
  split
  · exact (congrArg (fun u : State => { u with cfe := s.cfe, pods := s.pods }) (leftBag_rest k.id h.bag
      (modDeal k.id h.bag (fun x => { x with blocks := x.blocks + 1 })
        (modPod pod (fun p => { p with flu := { p.flu with unread := p.flu.unread - 1 } }) (popHandle pod 2 s)))) :)
  · rfl

theorem blockLeft_pod (k : Task) (pod : Nat) (h : Handle) (s : State) :
    (getPod (blockLeft k pod h s) pod).hq2 = hqPop (getPod s pod).hq2 ∧
    (getPod (blockLeft k pod h s) pod).flu.unread = (getPod s pod).flu.unread - 1 := by
  have hpod : getPod (modPod pod (fun p => { p with flu := { p.flu with unread := p.flu.unread - 1 } }) (popHandle pod 2 s)) pod =
      { handlePopped 2 (getPod s pod) with flu := { (getPod s pod).flu with unread := (getPod s pod).flu.unread - 1 } } := by
    rw [getPod_mod_same, getPod_popHandle, if_pos rfl]
    rfl
  unfold blockLeft
  dsimp only
  generalize hu : modPod pod _ (popHandle pod 2 s) = u at hpod
  have hleft : getPod (leftBag k.id h.bag (modDeal k.id h.bag (fun x => { x with blocks := x.blocks + 1 }) u)) pod = getPod u pod := by
    unfold getPod
    rw [show (leftBag k.id h.bag (modDeal k.id h.bag (fun x => { x with blocks := x.blocks + 1 }) u)).pods = _ from
      (congrArg State.pods (leftBag_rest ..) :)]
    rfl
  split
  · rw [hleft, hpod]; exact ⟨rfl, rfl⟩
  · rw [getPod_modDeal, hpod]; exact ⟨rfl, rfl⟩

theorem le_foldl_max (l : List Nat) (a : Nat) : a ≤ l.foldl max a ∧ ∀ x ∈ l, x ≤ l.foldl max a := by
  induction l generalizing a with
  | nil => exact ⟨Nat.le_refl a, fun x hx => absurd hx List.not_mem_nil⟩
  | cons y l ih =>
    obtain ⟨h1, h2⟩ := ih (max a y)
    refine ⟨Nat.le_trans (Nat.le_max_left a y) h1, fun x hx => ?_⟩
    rcases List.mem_cons.mp hx with rfl | hx
    · exact Nat.le_trans (Nat.le_max_right a x) h1
    · exact h2 x hx

/-- An aborted handle is taken with what it holds. -/
theorem abortedHandleFree_frees {s : State} {pod q : Nat} {h : Handle} {rest : List Handle} (hq : q < 3)
    (hok : hqOk (hqOf (getPod s pod) q) = true) (hi : (hqOf (getPod s pod) q).items = h :: rest) (hst : h.st = .aborted) :
    doAbortedHandleFree pod q s = if q = 2
      then modPod pod (fun P => { P with flu := { P.flu with unread := P.flu.unread - 1 } }) (popHandle pod q s)
      else freeCarrels pod h.carrel h.carrels (popHandle pod q s) := by
  unfold doAbortedHandleFree
  rw [if_pos hq, withHq_ok _ hok]
  unfold headHandle
  rw [hi]
  exact if_pos hst

/-- An entry that has been read is the one used last. -/
theorem cbFill_fills (pod : Nat) (c : Nat × Nat × Nat) (es : List CbEntry) (bs : List Byte) (s t : State)
    (ht : t = cbFill pod c es none bs s) :
    (∃ m, getPod t pod = { getPod s pod with
        cbAsk := (getPod s pod).cbAsk.filter (fun a => a.1 != c),
        cb := es ++ [{ kind := c.1, aux := c.2.1, size := c.2.2, used := m, data := bs }] } ∧ ∀ e ∈ (getPod s pod).cb, e.used < m) ∧
    (∀ p, p ≠ pod → getPod t p = getPod s p) ∧ t.mem = s.mem ∧ t.cfe = s.cfe := by
  unfold cbFill at ht
  dsimp only at ht
  subst ht
  rw [getPod_odCount, getPod_mod_same]
  refine ⟨⟨((getPod s pod).cb.map (·.used)).foldl max 0 + 1, rfl, fun e he => ?_⟩, fun p hp => getPod_mod_other _ _ hp,
    (odCount_keeps ..).2.2.1, (odCount_keeps ..).1⟩
  exact Nat.lt_succ_of_le ((le_foldl_max _ 0).2 _ (List.mem_map_of_mem he))

/-- Settles O46: the first two clauses are the export of a POOLED and of a FOLDED handle under a system sprout, the third an add
into tiles, the next two the queues of an aborted handle, and the last `doCodebookLoad` without a fault. -/
theorem rowsLeave : Obligations.RowsLeave := by
  unfold Obligations.RowsLeave
  refine ⟨?pooled, ?folded, ?tiles, ?aborted, ?abortedFold, ?codebook⟩
  case pooled =>
    intro s pod h rest k w bs hon hq1 hq2 h2 hi hst hfold hk hto hslot hup hw hbs hacc
    have hid := getTask_id hk
    generalize he : exportRow (dOutFmt k.desc) (carrelRow s pod h.carrel (sdDim k.shard0)) = e at hbs
    subst hbs
    have hhead : exportHead s pod 1 false = some (h, k) := exportHead_some hi hst (.inr hfold) hk hto
    have e1 : exec (.exportRow pod) s = .next (rowLeft k pod h (rowOut k w e (popHandle pod 1 s))) := by
      show Host.Outcome.next (exportNext pod false s) = _
      rw [exportNext_pooled hon hq1 hq2 h2 hhead (fun h => absurd h (by decide)), sendPooled_out hto hslot hw he.symm hacc]
    refine ⟨_, e1, ?_, ?_⟩
    · rw [← hid]
      have hstored : storedAt w e.bytes (some k.id) s (rowOut k w e (popHandle pod 1 s)) := rowOut_stored (s := popHandle pod 1 s) hup
      exact storedAt_congr hstored (congrArg State.mem (rowLeft_rest ..) :) (congrArg (fun u : State => u.hpt.outq) (rowLeft_rest ..) :)
    · obtain ⟨hitems, hcarrels⟩ := rowLeft_leaves k hi (rowOut_pods k w e (popHandle pod 1 s) pod)
      refine ⟨hitems, ?_, hcarrels⟩
      rw [show (rowLeft k pod h (rowOut k w e (popHandle pod 1 s))).gau = _ from (congrArg State.gau (rowLeft_rest ..) :)]
      exact rowOut_exported ..
  case folded =>
    intro s pod h rest k y w bs hon hq1 hq2 hi hst hk hto hslot hup hy hw hbs hacc
    have hid := getTask_id hk
    subst hy
    generalize he : exportRow (dOutFmt k.desc) (foldScaled h.scale h.cols (capturedAcc s pod h.latch (blockWidth (dFoldN k.desc) h.block))) = e at hbs
    subst hbs
    have hhead : exportHead s pod 2 false = some (h, k) := exportHead_some hi hst (.inl rfl) hk hto
    have e1 : exec (.exportRow pod) s = .next (blockLeft k pod h (rowOut k w e s)) := by
      show Host.Outcome.next (exportNext pod false s) = _
      rw [exportNext_folded hon hq1 hq2 hhead (fun h => absurd h (by decide))]
      unfold sendFolded
      dsimp only
      rw [sendBlock_out hto hslot rfl hw he.symm hacc]
      rfl
    obtain ⟨hq, hun⟩ := blockLeft_pod k pod h (rowOut k w e s)
    have hpods := rowOut_pods k w e s pod
    refine ⟨_, e1, ?_, ?_, ?_⟩
    · rw [← hid]
      exact storedAt_congr (rowOut_stored hup) (congrArg State.mem (blockLeft_rest ..) :)
        (congrArg (fun u : State => u.hpt.outq) (blockLeft_rest ..) :)
    · rw [hq, show (getPod (rowOut k w e s) pod).hq2 = (getPod s pod).hq2 from (congrArg Pod.hq2 hpods :)]
      exact congrArg List.tail hi
    · rw [hun, show (getPod (rowOut k w e s) pod).flu = (getPod s pod).flu from (congrArg Pod.flu hpods :)]
  case tiles =>
    intro s pod h rest k g r lin w bs hon hq1 hq2 h2 hi hst hfold hk hto hturn hg hup hr hlin hlo hhi hw hbs
    have hid := getTask_id hk
    have hhead : exportHead s pod 1 true = some (h, k) := exportHead_some hi hst (.inr hfold) hk hto
    have e1 : exec (.tileAdd pod) s = .next (rowLeft k pod h (storeAw w bs (some k.id) (popHandle pod 1 s))) := by
      show Host.Outcome.next (exportNext pod true s) = _
      rw [exportNext_pooled hon hq1 hq2 h2 hhead (fun _ => hturn), sendPooled_adds hto hg hr hlin hlo hhi hw hbs]
    refine ⟨_, e1, ?_, rowLeft_leaves k hi (storeAw_pods w bs (some k.id) (popHandle pod 1 s) pod)⟩
    rw [← hid]
    have hstored : storedAt w bs (some k.id) s (storeAw w bs (some k.id) (popHandle pod 1 s)) :=
      storeAw_storedAt (s := popHandle pod 1 s) w bs (some k.id) hup
    exact storedAt_congr hstored (congrArg State.mem (rowLeft_rest ..) :) (congrArg (fun u : State => u.hpt.outq) (rowLeft_rest ..) :)
  case aborted =>
    intro s pod q h rest hq hok hi hst
    refine ⟨_, rfl, ?_⟩
    rw [abortedHandleFree_frees (by omega) hok hi hst, if_neg (by omega)]
    unfold freeCarrels
    rw [getPod_mod_same]
    have hpop : getPod (popHandle pod q s) pod = handlePopped q (getPod s pod) := by rw [getPod_popHandle, if_pos rfl]
    refine ⟨?_, ?_, fun p hp => ?_, rfl⟩
    · have hsame (cs : List (Nat × Nat)) (p : Pod) : hqOf { p with carrels := cs } q = hqOf p q := by unfold hqOf; rfl
      rw [hsame, hpop, hqOf_popped]
      exact congrArg List.tail hi
    · dsimp only
      rw [hpop, (handlePopped_keeps q (getPod s pod)).2.1]
    · rw [getPod_mod_other _ _ hp, getPod_popHandle, if_neg hp]
  case abortedFold =>
    intro s pod h rest hok hi hst
    refine ⟨_, rfl, ?_⟩
    rw [abortedHandleFree_frees (q := 2) (by omega) hok hi hst, if_pos rfl, getPod_mod_same]
    have hpop : getPod (popHandle pod 2 s) pod = handlePopped 2 (getPod s pod) := by rw [getPod_popHandle, if_pos rfl]
    refine ⟨?_, by rw [hpop]; rfl, fun p hp => ?_, rfl⟩
    · rw [hpop]
      exact congrArg List.tail hi
    · rw [getPod_mod_other _ _ hp, getPod_popHandle, if_neg hp]
  case codebook =>
    intro s pod kind aux size es hon hheld hwant hgddr hroom hflt
    refine ⟨_, rfl, ?_⟩
    unfold doCodebookLoad
    dsimp only
    rw [if_neg (by simp [hon, hheld, hwant, hgddr]), hroom]
    dsimp only
    rw [hflt]
    exact cbFill_fills pod (kind, aux, size) es _ s _ rfl

end Sys2Proof.Machine
end

section
/-! SUPPORT. An UPDATE combines, packs, releases and sends its row gradients (R197 to R206). -/

namespace Sys2Proof.Machine

/-! ### A window closes (R197, R198) -/

theorem windowRows_one {r : Option Nat} {es : List WinEntry} {e : WinEntry} (n : Nat) (he : e.row = r) (h : ∀ x ∈ es, x.row = e.row) :
    windowRows (n + 1) (e :: es) = [(r, e.grad :: es.map (·.grad))] := by
  subst he
  have hsame : es.filter (fun x => x.row == e.row) = es := List.filter_eq_self.mpr (fun x hx => by simp [h x hx])
  have hrest : es.filter (fun x => x.row != e.row) = [] := List.filter_eq_nil_iff.mpr (fun x hx => by simp [h x hx])
  have hnil : windowRows n [] = [] := by cases n <;> rfl
  rw [windowRows, hsame, hrest, hnil]

/-- The use of a descriptor puts it into the cache, and counts. -/
theorem useDesc_puts (i : Nat) (s : State) : ∃ o, useDesc i s =
    { s with cat := { s.cat with cache := cachePut i (descAt s i) s.cat.cache }, od := o } := by
  unfold useDesc descAt
  cases cached s i with
  | some d =>
    obtain ⟨f, h⟩ := odCount_on odCatHits 1 (onCat (fun c => { c with cache := cachePut i d c.cache }) s)
    exact ⟨_, h⟩
  | none =>
    obtain ⟨f, h⟩ := odCount_on odCatMisses 1 s
    exact ⟨f s.od, by dsimp only; rw [h]; rfl⟩

/-- A row of a direct update leaves its window as a row gradient for the home that its descriptor names. -/
theorem windowRow_gives {s : State} {k : Task} {pod r i : Nat} {d : BitVec 512} {gs : List (List F32)} (hon : goesOn s k.id = true)
    (hdeep : dDeep k.desc = false) (hi : i = shardIndex (dirAt s (dTable k.desc)) (shardOf (dirAt s (dTable k.desc)) r))
    (hd : descAt s i = d) (hf : shardFlt k (dTable k.desc) d = none) :
    ∃ o c, windowRow k pod (some r, gs) s = modTask k.id (fun j => { j with grads := j.grads ++ [{
      row := r, dflt := false, owner := sdHome d, g := treeGo false (sdDim k.shard0) [] none gs }] }) { s with cat := c, od := o } := by
  obtain ⟨f, hcount⟩ := odCount_on odUpuCoalesced (gs.length - 1) s
  obtain ⟨o, hput⟩ := useDesc_puts i (odCount odUpuCoalesced (gs.length - 1) s)
  have hd' : descAt (odCount odUpuCoalesced (gs.length - 1) s) i = d := by rw [hcount]; exact hd
  have hi' : shardIndex (dirAt (odCount odUpuCoalesced (gs.length - 1) s) (dTable k.desc))
      (shardOf (dirAt (odCount odUpuCoalesced (gs.length - 1) s) (dTable k.desc)) r) = i := by rw [hcount]; exact hi.symm
  unfold windowRow askUpdate
  dsimp only
  rw [if_neg (by simp [hon]), hi', hput, hd']
  generalize hu : ({ odCount odUpuCoalesced (gs.length - 1) s with cat := _, od := o } : State) = u
  have hdir : dirAt u = dirAt (odCount odUpuCoalesced (gs.length - 1) s) := by subst hu; rfl
  have hdu : descAt u i = d := descAt_cached (cached_put (s := odCount odUpuCoalesced (gs.length - 1) s) (by subst hu; rfl))
  rw [hdir, hi', hdu, hf]
  dsimp only
  rw [sendGrad, if_neg (by simp [hdeep])]
  subst hu
  exact ⟨o, _, by rw [hcount]; rfl⟩

theorem flushDeep_open {s : State} {n : Nat} {k : Task} (hk : getTask s n = some k) (h : windowsDone s k = false) : flushDeep n s = s := by
  unfold flushDeep
  rw [hk]
  dsimp only
  rw [if_neg (by simp [h])]

theorem flushDeep_empty {s : State} {n : Nat} (h : ∀ p, ∀ c ∈ (getPod s p).comb, c.1 ≠ n) : flushDeep n s = s := by
  unfold flushDeep
  cases getTask s n with
  | none => rfl
  | some k =>
    dsimp only
    have hsets : (podNums.flatMap (fun p => ((getPod s p).comb.filter (fun c => c.1 == n)).map (·.2))) = [] := by
      rw [List.flatMap_eq_nil_iff]
      intro p _
      rw [List.map_eq_nil_iff, List.filter_eq_nil_iff]
      exact fun c hc => by simpa using h p c hc
    rw [hsets]
    split <;> rfl

theorem tabGet_filtered {α : Type} {n : Nat} {d : α} {t : List (Nat × α)} : tabGet n d (t.filter (fun u => u.1 != n)) = d := by
  have h := tabGet_drop n n d t
  rw [if_pos rfl] at h
  exact h

/-- A Pod that retires the bags of a task keeps its combine sets, and the window of the task is empty if it was. -/
theorem retirePodBags_keeps {s : State} {n pod : Nat} {k : Task} (hk : getTask s n = some k) (hw : windowOf s pod n = []) :
    windowOf (retirePodBags n pod s) pod n = [] ∧
    (∃ ds, getTask (retirePodBags n pod s) n = some { k with deals := ds }) ∧
    (∀ p, (getPod (retirePodBags n pod s) p).comb = (getPod s p).comb) ∧
    (∀ p, p ≠ pod → getPod (retirePodBags n pod s) p = getPod s p) ∧ (retirePodBags n pod s).mem = s.mem := by
  unfold retirePodBags
  rw [hk]
  dsimp only
  split
  · generalize hv : modPod pod _ s = v
    have hother (p : Nat) (hp : p ≠ pod) : getPod v p = getPod s p := by subst hv; exact getPod_mod_other _ _ hp
    have hsame : getPod v pod = { getPod s pod with
        bags := (getPod s pod).bags.filter (fun b => b.task != n)
        uwin := (getPod s pod).uwin.filter (fun u => u.1 != n) } := by
      subst hv; exact getPod_mod_same ..
    have hkv : getTask v n = some k := by subst hv; exact hk
    refine ⟨?_, ⟨_, getTask_mod_same _ hkv (fun _ => rfl)⟩, fun p => ?_, hother, by subst hv; rfl⟩
    · show windowOf v pod n = []
      unfold windowOf
      rw [hsame]
      exact tabGet_filtered
    · show (getPod v p).comb = _
      by_cases hp : p = pod
      · subst hp; rw [hsame]
      · rw [hother p hp]
  · exact ⟨hw, ⟨k.deals, hk⟩, fun _ => rfl, fun _ _ => rfl, rfl⟩

/-- A task of a command of an UPDATE that has not ended and whose phase is admitted goes on. -/
theorem goesOn_admitted {s : State} {n : Nat} {k : Task} (hk : getTask s n = some k) (hphase : k.phase = .admitted) (herr : k.err = none) :
    goesOn s n = true := by
  unfold goesOn
  rw [hk]
  simp [hphase, herr]

/-- UPDATE_WINDOW_CLOSE of a window with one row. -/
theorem closeWindow_one {s : State} {pod n r : Nat} {k : Task} {e : WinEntry} {es : List WinEntry} {d : BitVec 512}
    (hk : getTask s n = some k) (hphase : k.phase = .admitted) (herr : k.err = none) (hdeep : dDeep k.desc = false)
    (hwin : windowOf s pod n = e :: es) (hrows : ∀ x ∈ es, x.row = e.row) (hkept : ∀ x ∈ e :: es, x.discard = false)
    (hlen : es.length < segmentLen) (hr : e.row = some r) (hcomb : ∀ p, ∀ c ∈ (getPod s p).comb, c.1 ≠ n)
    (hd : d = descAt s (shardIndex (dirAt s (dTable k.desc)) (shardOf (dirAt s (dTable k.desc)) r)))
    (hf : shardFlt k (dTable k.desc) d = none) :
    windowOf (closeWindow k pod s) pod n = [] ∧
    (∃ k', getTask (closeWindow k pod s) n = some k' ∧ k'.windows = tabMod pod 0 (· + 1) k.windows ∧ k'.grads = k.grads ++ [{
      row := r, dflt := false, owner := sdHome d, g := treeGo false (sdDim k.shard0) [] none (e.grad :: es.map (·.grad)) }]) ∧
    (∀ p, p ≠ pod → getPod (closeWindow k pod s) p = getPod s p) ∧ (closeWindow k pod s).mem = s.mem := by
  obtain rfl := getTask_id hk
  have hlen' : (e :: es).length ≤ segmentLen := hlen
  have hfilter : (e :: es).filter (fun x => !x.discard) = e :: es := List.filter_eq_self.mpr (fun x hx => by rw [hkept x hx]; rfl)
  unfold closeWindow
  dsimp only
  rw [hwin, List.drop_eq_nil_of_le hlen', List.take_of_length_le hlen', hfilter, if_neg (by simp),
    show segmentLen = 65535 + 1 from rfl, windowRows_one 65535 hr hrows]
  generalize hu : modTask k.id _ (modPod pod _ s) = u
  have hku : getTask u k.id = some { k with windows := tabMod pod 0 (· + 1) k.windows } := by
    subst hu; exact getTask_mod_same _ hk (fun _ => rfl)
  have hon : goesOn u k.id = true := goesOn_admitted hku hphase herr
  have hdu : descAt u (shardIndex (dirAt u (dTable k.desc)) (shardOf (dirAt u (dTable k.desc)) r)) = d := by
    subst hu; exact hd.symm
  obtain ⟨o, c, hgives⟩ := windowRow_gives (pod := pod) (gs := e.grad :: es.map (·.grad)) hon hdeep rfl hdu hf
  have hsame : getPod u pod = { getPod s pod with uwin := tabPut k.id [] (getPod s pod).uwin } := by
    subst hu; exact getPod_mod_same pod (fun p => { p with uwin := tabPut k.id [] p.uwin }) s
  have hother (p : Nat) (hp : p ≠ pod) : getPod u p = getPod s p := by
    subst hu; exact getPod_mod_other (fun p => { p with uwin := tabPut k.id [] p.uwin }) s hp
  have hmem : u.mem = s.mem := by subst hu; rfl
  unfold forEach forEach
  rw [hgives]
  generalize hv : modTask k.id _ { u with cat := c, od := o } = v
  have hkv : ∃ j, getTask v k.id = some j ∧ j.windows = tabMod pod 0 (· + 1) k.windows ∧ j.grads = k.grads ++ [{
      row := r, dflt := false, owner := sdHome d, g := treeGo false (sdDim k.shard0) [] none (e.grad :: es.map (·.grad)) }] := by
    subst hv; exact ⟨_, getTask_mod_same _ (s := { u with cat := c, od := o }) hku (fun _ => rfl), rfl, rfl⟩
  have hpods : getPod v = getPod u := by subst hv; rfl
  have hmemv : v.mem = s.mem := by subst hv; exact hmem
  obtain ⟨j, hj, hwindows, hgrads⟩ := hkv
  obtain ⟨hempty, ⟨ds, htask⟩, hcombv, hpodv, hmemr⟩ := retirePodBags_keeps (pod := pod) hj (by
    unfold windowOf
    rw [hpods, hsame]
    exact tabGet_put_same ..)
  have hnone (p : Nat) : ∀ c ∈ (getPod (retirePodBags k.id pod v) p).comb, c.1 ≠ k.id := by
    rw [hcombv, hpods]
    by_cases hp : p = pod
    · subst hp; rw [hsame]; exact hcomb p
    · rw [hother p hp]; exact hcomb p
  rw [flushDeep_empty hnone]
  exact ⟨hempty, ⟨_, htask, hwindows, hgrads⟩, fun p hp => (hpodv p hp).trans ((congrFun hpods p).trans (hother p hp)), hmemr.trans hmemv⟩

/-! ### Combine sets (R199) -/

theorem windowsDone_congr {s t : State} (h : ∀ p, (getPod t p).uwin = (getPod s p).uwin) (k : Task) : windowsDone t k = windowsDone s k := by
  unfold windowsDone podOpen windowOf
  simp only [h]

/-- A Pod whose oldest arriving row gradient of a task has been taken. -/
def arrivalTaken (n : Nat) (p : Pod) : Pod := { p with combIn := p.combIn.eraseP (fun c => c.1 == n) }

/-- The sets of a Pod with a row gradient added into that of its row. -/
def setsAdded (n : Nat) (g : RowGrad) (p : Pod) : Pod := { p with
  comb := p.comb.map (fun c => if c.1 = n ∧ c.2.row = g.row ∧ c.2.dflt = g.dflt then (c.1, { c.2 with g := vAdd false c.2.g g.g }) else c) }

/-- The sets of a Pod with one more, which takes carrels from c on. -/
def setOpened (n c m : Nat) (g : RowGrad) (p : Pod) : Pod :=
  { p with comb := p.comb ++ [(n, g)], carrels := p.carrels ++ (List.range m).map (fun i => (c + i, n)) }

theorem combineOne_opens {s : State} {n pod c : Nat} {k : Task} {g : RowGrad} (hk : getTask s n = some k)
    (hg : (getPod s pod).combIn.find? (fun c => c.1 == n) = some (n, g))
    (hnone : ∀ x ∈ (getPod s pod).comb, ¬ (x.1 = n ∧ x.2.row = g.row ∧ x.2.dflt = g.dflt))
    (hc : carrelRun (getPod s pod) (bagCarrels (sdDim k.shard0)) = some c) :
    combineOne n pod s = modPod pod (setOpened n c (bagCarrels (sdDim k.shard0)) g) (modPod pod (arrivalTaken n) s) := by
  have hany : (getPod s pod).comb.any (fun c => c.1 == n && c.2.row == g.row && c.2.dflt == g.dflt) = false := by
    rw [List.any_eq_false]
    intro x hx
    simpa [and_assoc] using hnone x hx
  unfold combineOne
  dsimp only
  rw [hg, hk]
  dsimp only
  rw [if_neg (by rw [hany]; exact Bool.false_ne_true), hc]
  rfl

theorem combineOne_adds {s : State} {n pod : Nat} {k : Task} {g : RowGrad} {x : Nat × RowGrad} (hk : getTask s n = some k)
    (hg : (getPod s pod).combIn.find? (fun c => c.1 == n) = some (n, g)) (hx : x ∈ (getPod s pod).comb) (hn : x.1 = n)
    (hrow : x.2.row = g.row) (hdflt : x.2.dflt = g.dflt) :
    combineOne n pod s = odCount odUpuCoalesced 1 (modPod pod (setsAdded n g) (modPod pod (arrivalTaken n) s)) := by
  have hany : (getPod s pod).comb.any (fun c => c.1 == n && c.2.row == g.row && c.2.dflt == g.dflt) = true :=
    List.any_eq_true.mpr ⟨x, hx, by simp [hn, hrow, hdflt]⟩
  have hsets : setsAdded n g = fun p => { p with comb := p.comb.map (fun c =>
      if (c.1 == n && c.2.row == g.row && c.2.dflt == g.dflt) = true then (c.1, { c.2 with g := vAdd false c.2.g g.g }) else c) } := by
    funext p
    simp only [setsAdded, Bool.and_eq_true, beq_iff_eq, and_assoc]
  unfold combineOne
  dsimp only
  rw [hg, hk, hsets]
  dsimp only
  rw [if_pos hany]
  rfl

/-- DEEP_COMBINE before the windows of its task have closed: only the combine Pod takes the row gradient. -/
theorem deepCombine_open {s u : State} {n pod : Nat} {k : Task} {f : Pod → Pod} (hlive : liveTask s n opUpdate = some k)
    (herr : k.err = none) (hup : (getPod s pod).up = true) (hopen : windowsDone s k = false) (hf : ∀ p, (f p).uwin = p.uwin)
    (hu : combineOne n pod s = u) (hpods : getPod u = getPod (modPod pod f (modPod pod (arrivalTaken n) s))) (hcfe : u.cfe = s.cfe) :
    doDeepCombine pod n s = u ∧ getPod u pod = f (arrivalTaken n (getPod s pod)) ∧ ∀ p, p ≠ pod → getPod u p = getPod s p := by
  obtain ⟨hk, -⟩ := liveTask_some hlive
  have hsame : getPod u pod = f (arrivalTaken n (getPod s pod)) := by rw [hpods, getPod_mod_same, getPod_mod_same]
  have hother (p : Nat) (hp : p ≠ pod) : getPod u p = getPod s p := by rw [hpods, getPod_mod_other _ _ hp, getPod_mod_other _ _ hp]
  refine ⟨?_, hsame, hother⟩
  unfold doDeepCombine
  rw [hlive]
  dsimp only
  rw [if_neg (by simp [herr, hup]), hu]
  refine flushDeep_open (k := k) ((getTask_congr (congrArg Cfe.tasks hcfe) n).trans hk) ((windowsDone_congr (fun p => ?_) k).trans hopen)
  by_cases hp : p = pod
  · subst hp; rw [hsame]; exact hf _
  · rw [hother p hp]

/-- What states that differ in the front end alone share. -/
theorem sharedRest {s t : State} (h : { t with cfe := s.cfe } = s) : t.mem = s.mem ∧ t.upu = s.upu ∧ t.pods = s.pods ∧
    ∀ c, ({ t with cfe := c } : State) = { s with cfe := c } :=
  ⟨(congrArg State.mem h :), (congrArg State.upu h :), (congrArg State.pods h :), fun c => (congrArg (fun u : State => { u with cfe := c }) h :)⟩

/-! ### A row gradient is packed (R156, R200) -/

/-- The residuals of a task with one more, in place of the one of the same row. -/
def residsWith (res : Option (Nat × List F32)) (rs : List (Nat × List F32)) : List (Nat × List F32) :=
  match res with
  | none => rs
  | some r => rs.filter (fun x => x.1 != r.1) ++ [r]

/-- A task whose parcels take an entry within its limit. -/
theorem packFor_fits {s : State} {k j : Task} {owner : Nat} {e : PEntry} {ps : List Parcel} (res : Option (Nat × List F32))
    (hj : getTask s k.id = some j) (hps : packEntry s j owner e j.pendingParcels = ps)
    (hlim : sumOf parcelSize ps ≤ odGet s odUpuTaskLimit * 2 ^ 20) :
    getTask (packFor k owner e res s) k.id = some { j with pendingParcels := ps, resids := residsWith res j.resids } ∧
    (∀ i, i ≠ k.id → getTask (packFor k owner e res s) i = getTask s i) ∧ { packFor k owner e res s with cfe := s.cfe } = s := by
  generalize hu : modTask k.id (fun k => { k with
    pendingParcels := packEntry s k owner e k.pendingParcels, resids := residsWith res k.resids }) s = u
  have hju : getTask u k.id = some { j with pendingParcels := ps, resids := residsWith res j.resids } := by
    rw [← hps, ← hu]
    exact getTask_mod_same _ hj (fun _ => rfl)
  have hfits : packFor k owner e res s = u := by
    have hsize : ¬ odGet u odUpuTaskLimit * 2 ^ 20 < sumOf parcelSize (((getTask u k.id).map (·.pendingParcels)).getD []) := by
      rw [hju]
      subst hu
      exact Nat.not_lt.mpr hlim
    have hif : ∃ w, packFor k owner e res s =
        if odGet u odUpuTaskLimit * 2 ^ 20 < sumOf parcelSize (((getTask u k.id).map (·.pendingParcels)).getD []) then w else u :=
      ⟨_, by subst hu; rfl⟩
    obtain ⟨w, hw⟩ := hif
    rw [hw, if_neg hsize]
  rw [hfits]
  exact ⟨hju, fun i hi => by subst hu; exact getTask_mod_other _ _ hi (fun _ => rfl), by subst hu; rfl⟩

/-- The entry of a row gradient that is packed in FP32. -/
def rawEntry (g : RowGrad) : PEntry := { row := g.row, dflt := g.dflt, data := g.g.flatMap (fun x => leBytes 4 x.toNat) }

theorem packGrad_raw {k : Task} {g : RowGrad} {s : State} (h : phFmt (entryHdr s k g.owner g.row g.dflt) = 0) :
    packGrad k g s = packFor k g.owner (rawEntry g) none s := by
  have hplace : residPlace s k g = none := by unfold residPlace; rw [if_pos (.inl (by omega))]
  unfold packGrad
  dsimp only
  rw [h, hplace]
  rfl

/-- The residual that packing a row in INT8 leaves (R156). -/
def residLeft (v : List F32) (e : Exported) : List F32 := List.zipWith (fun x c => fSub true x (fMul true e.scale c)) v e.codes

theorem packGrad_narrow {k : Task} {g : RowGrad} {s : State} {a : Nat} {v : List F32}
    (h : phFmt (entryHdr s k g.owner g.row g.dflt) = 2) (ha : residPlace s k g = some a)
    (hv : List.zipWith (fAdd true) g.g (residAt s k a (sdDim k.shard0)) = v) :
    packGrad k g s = packFor k g.owner { row := g.row, dflt := g.dflt, data := (exportRow 5 v).bytes.take (4 + sdDim k.shard0) }
      (some (a, residLeft v (exportRow 5 v))) (countExport k.id true (exportRow 5 v) s) := by
  unfold packGrad
  dsimp only
  rw [h, ha]
  dsimp only
  rw [hv]
  rfl

theorem headerFor_congr {s t : State} (hsfp : t.sfp = s.sfp) (hopt : ∀ i, optSlot t i = optSlot s i) (k : Task) (owner : Nat) :
    headerFor t k owner = headerFor s k owner := by
  unfold headerFor
  rw [hsfp]
  simp only [hopt]

theorem packEntry_congr {s t : State} {j k : Task} (hsfp : t.sfp = s.sfp) (hopt : ∀ i, optSlot t i = optSlot s i)
    (hdesc : j.desc = k.desc) (hshard : j.shard0 = k.shard0) (owner : Nat) (e : PEntry) (ps : List Parcel) :
    packEntry t j owner e ps = packEntry s k owner e ps := by
  have h : headerFor s j owner = headerFor s k owner := by unfold headerFor; rw [hdesc]
  unfold packEntry openParcel
  rw [headerFor_congr hsfp hopt, h, hshard]

/-- What packing reads of the engine: the fabric port's numbers, the optimiser slots, the residual arrays and GDDR7. -/
theorem entryHdr_congr {s t : State} (hsfp : t.sfp = s.sfp) (hopt : ∀ i, optSlot t i = optSlot s i) (k : Task) :
    entryHdr t k = entryHdr s k := by
  funext owner row dflt
  unfold entryHdr
  rw [headerFor_congr hsfp hopt]

theorem residPlace_congr {s t : State} (hsfp : t.sfp = s.sfp) (hopt : ∀ i, optSlot t i = optSlot s i) (hgau : t.gau = s.gau) (k : Task) :
    residPlace t k = residPlace s k := by
  funext g
  unfold residPlace residBase
  rw [entryHdr_congr hsfp hopt, hgau]

theorem residAt_congr {s t : State} (hmem : t.mem = s.mem) (k : Task) : residAt t k = residAt s k := by
  funext a dim
  unfold residAt gddrLoad
  rw [hmem]

theorem countExport_task {s : State} {n : Nat} {k : Task} (narrow : Bool) (e : Exported) (h : getTask s n = some k) :
    getTask (countExport n narrow e s) n = some { k with sats := k.sats + e.sats } ∧
    (countExport n narrow e s).upu = s.upu := by
  unfold countExport
  dsimp only
  generalize hu : modTask n (fun k => { k with sats := k.sats + e.sats }) s = u
  have hku : getTask u n = some { k with sats := k.sats + e.sats } := by subst hu; exact getTask_mod_same _ h (fun _ => rfl)
  obtain ⟨f, hf⟩ := odCount_on odQntExportSat e.sats u
  obtain ⟨f', hf'⟩ := odCount_on odQntExportNonfinite (bit (narrow && e.nonFinite)) (odCount odQntExportSat e.sats u)
  rw [hf', hf]
  exact ⟨hku, by subst hu; rfl⟩

/-- ROW_GRADIENT_PACK of a task that may pack its next row gradient. -/
theorem packOne_packs {s : State} {n : Nat} {k : Task} {g : RowGrad} {rest : List RowGrad} (hlive : liveTask s n opUpdate = some k)
    (herr : k.err = none) (hg : k.grads = g :: rest) (hmay : mayPack s k = true) (hwait : residWaits s k g = false) :
    packOne n s = packGrad k g (modTask n (fun k => { k with grads := rest }) s) := by
  unfold packOne
  rw [hlive]
  dsimp only
  rw [hg]
  dsimp only
  rw [if_neg (by simp [herr, hmay, hwait])]

/-! ### A task releases its parcels (R201, R205) -/

theorem parcelRelease_releases {s : State} {n : Nat} {k : Task} (hk : getTask s n = some k) (hphase : k.phase = .admitted)
    (herr : k.err = none) (hrel : k.released = false) (hvia : viaLedger k = true) (hpacked : packed s k = true)
    (hon : gated s 9 = false) (hclear : epochsClear s k = true) (hroom : ringRoom s k = true) : doParcelRelease n s = releaseTask k s := by
  unfold doParcelRelease
  rw [hk]
  dsimp only
  rw [if_neg (by simp [hphase, herr, hrel, hvia, hpacked, hon, hclear]), if_neg (by simp [hroom])]

theorem sayTwin_shut {s : State} (h : twinOpen s = false) (words : List Nat) (bs : List Byte) : sayTwin words bs s = s := by
  unfold sayTwin
  rw [if_neg (by simp [h])]

/-- The parcel that a pending one becomes when it takes the next sequence of its pair. -/
def numbered (s : State) (p : Parcel) : Parcel := { p with hdr := phSet p.hdr 47 0 (nextSeq s (phOwner p.hdr)) }

/-- A parcel of a task that goes into the retention ring at its tail. -/
def ringEntry (n : Nat) (p : Parcel) (s : State) : Retained :=
  { seq := nextSeq s (phOwner p.hdr), task := n, pos := s.upu.ringTail, parcel := numbered s p }

/-- The Update Unit when a parcel of a task has gone into the retention ring. -/
def upuRetained (n : Nat) (p : Parcel) (s : State) : Upu := { s.upu with
  sent := tabPut (phOwner p.hdr) (nextSeq s (phOwner p.hdr)) s.upu.sent
  ring := s.upu.ring ++ [(phOwner p.hdr, ringEntry n p s)]
  ringTail := (s.upu.ringTail + (parcelBytes (numbered s p)).length) % ringSize s }

/-- GDDR7 when a parcel has gone into the retention ring, with the sender state and the ring's pointers (R204, R205). -/
def gddrRetained (p : Parcel) (s : State) : List Host.Cell :=
  let o := phOwner p.hdr
  let q := nextSeq s o
  let bs := parcelBytes (numbered s p)
  let room := ringSize s - s.upu.ringTail
  let m := (s.upu.ringTail + bs.length) % ringSize s
  let head := (s.upu.ring.head?.map (·.2.pos)).getD s.upu.ringTail
  memStore (s.upu.ledgerBase + 0x408000) (leBytes 8 head ++ leBytes 8 head ++ leBytes 8 m ++ leBytes 8 m)
    (memStore (senderAddr s o) (leBytes 8 (q + 1) ++ leBytes 8 (((retainedOf s o).map (·.seq)).headD q))
    (memStore s.upu.retainBase (bs.drop room)
    (memStore (s.upu.retainBase + s.upu.ringTail) (bs.take room) s.mem.gddr)))

theorem intoRing_mem {s : State} (bs : List Byte) (hup : chansUp s) : (intoRing bs s).mem = { s.mem with
    gddr := memStore s.upu.retainBase (bs.drop (ringSize s - s.upu.ringTail))
      (memStore (s.upu.retainBase + s.upu.ringTail) (bs.take (ringSize s - s.upu.ringTail)) s.mem.gddr) } := by
  have hmem : (intoRing bs s).mem = (gddrStore s.upu.retainBase (bs.drop (ringSize s - s.upu.ringTail))
      (gddrStore (s.upu.retainBase + s.upu.ringTail) (bs.take (ringSize s - s.upu.ringTail)) s)).mem := by
    unfold intoRing; rfl
  rw [hmem, gddrStore_mem _ _ (gddrStore_chansUp _ _ hup), gddrStore_mem _ _ hup]

theorem intoRing_chansUp {s : State} (bs : List Byte) (hup : chansUp s) : chansUp (intoRing bs s) := by
  have hmss : (intoRing bs s).mss.chans = (gddrStore s.upu.retainBase (bs.drop (ringSize s - s.upu.ringTail))
      (gddrStore (s.upu.retainBase + s.upu.ringTail) (bs.take (ringSize s - s.upu.ringTail)) s)).mss.chans := by
    unfold intoRing; rfl
  unfold chansUp
  rw [hmss]
  exact gddrStore_chansUp _ _ (gddrStore_chansUp _ _ hup)

theorem putSender_mem {s : State} {o n oldest head : Nat} (hup : chansUp s) (hn : nextSeq s o = n)
    (hold : ((retainedOf s o).head?.map (·.seq)).getD n = oldest) (hhead : (s.upu.ring.head?.map (·.2.pos)).getD s.upu.ringTail = head) :
    (putSender o s).mem = { s.mem with
      gddr := memStore (s.upu.ledgerBase + 0x408000)
          (leBytes 8 head ++ leBytes 8 head ++ leBytes 8 s.upu.ringTail ++ leBytes 8 s.upu.ringTail)
        (memStore (senderAddr s o) (leBytes 8 n ++ leBytes 8 oldest) s.mem.gddr) } := by
  generalize hv : gddrStore (senderAddr s o) (leBytes 8 n ++ leBytes 8 oldest) s = v
  have hupv : chansUp v := by subst hv; exact gddrStore_chansUp _ _ hup
  have hmemv : v.mem = { s.mem with gddr := memStore (senderAddr s o) (leBytes 8 n ++ leBytes 8 oldest) s.mem.gddr } := by
    subst hv; exact gddrStore_mem _ _ hup
  have hupu : v.upu = s.upu := by subst hv; rfl
  unfold putSender putRing
  dsimp only
  rw [hn, hold, hv, hupu, hhead, gddrStore_mem _ _ hupv, hmemv]

theorem intoRing_upu (bs : List Byte) (s : State) :
    (intoRing bs s).upu = { s.upu with ringTail := (s.upu.ringTail + bs.length) % ringSize s } := by
  unfold intoRing
  rfl

/-- What a change of the retention ring leaves, but for memory and the Stacks' copies of it. -/
def ringFrame (s t : State) : Prop :=
  t.cfe = s.cfe ∧ t.fsu = s.fsu ∧ t.od = s.od ∧ t.sfp = s.sfp ∧ podsBare t = podsBare s

theorem ringFrame.trans {s t u : State} (h : ringFrame s t) (h' : ringFrame t u) : ringFrame s u := by
  obtain ⟨hcfe, hfsu, hod, hsfp, hpods⟩ := h
  obtain ⟨hcfe', hfsu', hod', hsfp', hpods'⟩ := h'
  exact ⟨hcfe'.trans hcfe, hfsu'.trans hfsu, hod'.trans hod, hsfp'.trans hsfp, hpods'.trans hpods⟩

theorem ringFrame_gddrStore (a : Nat) (bs : List Byte) (s : State) : ringFrame s (gddrStore a bs s) :=
  ⟨rfl, rfl, rfl, rfl, gddrStore_holds (P := fun t => podsBare t = podsBare s) (keeps_podsBare s _) a bs rfl⟩

theorem ringFrame_onUpu (f : Upu → Upu) (s : State) : ringFrame s (onUpu f s) := ⟨rfl, rfl, rfl, rfl, rfl⟩

theorem intoRing_frame (bs : List Byte) (s : State) : ringFrame s (intoRing bs s) := by
  unfold intoRing
  exact ((ringFrame_gddrStore ..).trans (ringFrame_gddrStore ..)).trans (ringFrame_onUpu ..)

theorem putSender_frame (o : Nat) (s : State) : ringFrame s (putSender o s) ∧ (putSender o s).upu = s.upu := by
  unfold putSender putRing
  exact ⟨(ringFrame_gddrStore ..).trans (ringFrame_gddrStore ..), rfl⟩

/-- The engine when a parcel has its place in the retention ring, before its bytes are there. -/
def numberTaken (n : Nat) (p : Parcel) (s : State) : State := onUpu (fun u => { u with
  sent := tabPut (phOwner p.hdr) (nextSeq s (phOwner p.hdr)) u.sent
  ring := u.ring ++ [(phOwner p.hdr, ringEntry n p s)] }) s

theorem retain_eq (n : Nat) (p : Parcel) (s : State) : ∃ ws, retain n none p s =
    sayTwin ws (parcelBytes (numbered s p)) (putSender (phOwner p.hdr) (intoRing (parcelBytes (numbered s p)) (numberTaken n p s))) := by
  unfold retain
  exact ⟨[3, twinKey (phOwner p.hdr), nextSeq s (phOwner p.hdr), s.upu.ringTail, 0], rfl⟩

theorem upuRetained_next (n : Nat) (p : Parcel) {s u : State} (hu : u.upu = upuRetained n p s) :
    nextSeq u (phOwner p.hdr) = nextSeq s (phOwner p.hdr) + 1 := by
  rw [nextSeq, hu, upuRetained, tabGet_put_same]

theorem upuRetained_oldest (n : Nat) (p : Parcel) {s u : State} (hu : u.upu = upuRetained n p s) (d : Nat) :
    ((retainedOf u (phOwner p.hdr)).head?.map (·.seq)).getD d =
      ((retainedOf s (phOwner p.hdr)).map (·.seq)).headD (nextSeq s (phOwner p.hdr)) := by
  have hof : retainedOf u (phOwner p.hdr) = retainedOf s (phOwner p.hdr) ++ [ringEntry n p s] := by
    rw [retainedOf, hu, upuRetained, retainedOf]
    simp
  rw [hof]
  cases retainedOf s (phOwner p.hdr) <;> rfl

theorem upuRetained_head (n : Nat) (p : Parcel) {s u : State} (hu : u.upu = upuRetained n p s) :
    (u.upu.ring.head?.map (·.2.pos)).getD u.upu.ringTail = (s.upu.ring.head?.map (·.2.pos)).getD s.upu.ringTail := by
  rw [hu, upuRetained]
  dsimp only
  cases s.upu.ring <;> simp [ringEntry]

/-- Without a returning twin, a parcel goes into the retention ring and nowhere else. -/
theorem retain_shut {s : State} (n : Nat) (p : Parcel) (htwin : twinOpen s = false) : retain n none p s =
    putSender (phOwner p.hdr) (intoRing (parcelBytes (numbered s p)) (numberTaken n p s)) := by
  obtain ⟨ws, hret⟩ := retain_eq n p s
  obtain ⟨-, -, hod, hsfp, -⟩ := ((ringFrame_onUpu _ s).trans (intoRing_frame (parcelBytes (numbered s p)) (numberTaken n p s))).trans
    (putSender_frame (phOwner p.hdr) (intoRing (parcelBytes (numbered s p)) (numberTaken n p s))).1
  rw [hret, sayTwin_shut]
  unfold twinOpen twinState odGet at htwin ⊢
  rw [hod, hsfp]
  exact htwin

theorem retain_frame {s : State} (n : Nat) (p : Parcel) (htwin : twinOpen s = false) :
    (retain n none p s).upu = upuRetained n p s ∧ ringFrame s (retain n none p s) := by
  rw [retain_shut n p htwin]
  obtain ⟨hframe, hupu⟩ := putSender_frame (phOwner p.hdr) (intoRing (parcelBytes (numbered s p)) (numberTaken n p s))
  exact ⟨hupu.trans (intoRing_upu ..), ((ringFrame_onUpu _ s).trans (intoRing_frame ..)).trans hframe⟩

theorem retain_mem {s : State} (n : Nat) (p : Parcel) (hup : chansUp s) (htwin : twinOpen s = false) :
    (retain n none p s).mem = { s.mem with gddr := gddrRetained p s } := by
  have hupu : (intoRing (parcelBytes (numbered s p)) (numberTaken n p s)).upu = upuRetained n p s := intoRing_upu ..
  have hmem := intoRing_mem (s := numberTaken n p s) (parcelBytes (numbered s p)) hup
  have hup' := intoRing_chansUp (s := numberTaken n p s) (parcelBytes (numbered s p)) hup
  rw [retain_shut n p htwin]
  generalize intoRing (parcelBytes (numbered s p)) (numberTaken n p s) = u at hupu hmem hup'
  rw [putSender_mem hup' (upuRetained_next n p hupu) (upuRetained_oldest n p hupu _) (upuRetained_head n p hupu), hmem, senderAddr, hupu]
  rfl

/-- What a task is once its parcels, m of them, are released. -/
def releasedTask (now m : Nat) (k : Task) : Task :=
  { k with released := true, unacked := m, pendingParcels := [], resids := [], finishFolio := some now }

theorem releaseTask_none {s : State} {k : Task} (hp : k.pendingParcels = []) (hr : k.resids = []) :
    releaseTask k s = showRing (finishTask k.id (modTask k.id (releasedTask (folio s) 0) s)) := by
  unfold releaseTask
  rw [hp, hr]
  rfl

theorem releaseTask_one {s : State} {k : Task} {p : Parcel} (hp : k.pendingParcels = [p]) (hr : k.resids = []) :
    releaseTask k s = showRing (modTask k.id (releasedTask (folio (odCount odUpuParcelsSent 1 (retain k.id none p s))) 1)
      (odCount odUpuParcelsSent 1 (retain k.id none p s))) := by
  unfold releaseTask
  rw [hp, hr]
  rfl

/-! ### Parcels go out (R204, R206) -/

theorem emitParcel_away {s : State} {o : Nat} {p : Parcel} (ho : phOwner p.hdr = o) (hdst : cellDst s o ≠ s.sfp.engineId)
    (htwin : twinState s ≠ 1) :
    emitParcel p s = sendCell ctParcel o (parcelSize p) ((parcelBytes p).map (·.toNat)) s := by
  subst ho
  unfold emitParcel
  dsimp only
  rw [if_neg hdst, if_neg (fun h => htwin h.1)]

/-- What a parcel sent to another engine leaves, besides the transfer. -/
theorem sendCell_leaves (type dst len : Nat) (fields : List Nat) (s : State) : (sendCell type dst len fields s).upu = s.upu ∧
    (sendCell type dst len fields s).cfe.tasks = s.cfe.tasks ∧ (sendCell type dst len fields s).mem.host = s.mem.host :=
  ⟨sendCell_holds (P := fun t => t.upu = s.upu) (keeps_upu s _) (keeps_upu s _) _ _ _ _ rfl,
    sendCell_holds (P := fun t => t.cfe.tasks = s.cfe.tasks) (keeps_tasks s _) (keeps_tasks s _) _ _ _ _ rfl,
    sendCell_holds (P := fun t => t.mem.host = s.mem.host) (keeps_host s _) (keeps_host s _) _ _ _ _ rfl⟩

theorem retained_mem {s : State} {owner : Nat} {r : Retained} (h : r ∈ retainedOf s owner) : (owner, r) ∈ s.upu.ring := by
  obtain ⟨x, hmem, rfl⟩ := List.mem_map.mp h
  obtain ⟨hx, ho⟩ := List.mem_filter.mp hmem
  have hown : x.1 = owner := by simpa using ho
  subst hown
  exact hx

/-- The ring with a parcel of an owner marked as sent. -/
def ringSent (owner seq : Nat) (ring : List (Nat × Retained)) : List (Nat × Retained) :=
  ring.map (fun x => if x.1 = owner ∧ x.2.seq = seq then (x.1, { x.2 with sent := true }) else x)

theorem markSent_marks {s : State} {owner : Nat} {r : Retained} (h : r ∈ retainedOf s owner) : markSent owner r.seq s =
    onUpu (fun u => { u with
      ring := ringSent owner r.seq u.ring
      waiting := if (tabFind owner u.waiting).isSome then u.waiting else tabPut owner (folio s) u.waiting }) s := by
  have hany : (ringSent owner r.seq s.upu.ring).any (fun x => x.1 == owner && x.2.sent) = true := by
    refine List.any_eq_true.mpr ⟨(owner, { r with sent := true }), List.mem_map.mpr ⟨(owner, r), retained_mem h, ?_⟩, by simp⟩
    rw [if_pos ⟨rfl, rfl⟩]
  unfold markSent
  dsimp only
  generalize hv : onUpu _ s = v
  have hwaiting : v.upu.waiting = s.upu.waiting := by subst hv; rfl
  have hring : v.upu.ring = ringSent owner r.seq s.upu.ring := by subst hv; rfl
  rw [hwaiting]
  by_cases hw : (tabFind owner s.upu.waiting).isSome = true
  · subst hv
    unfold onUpu
    dsimp only
    rw [if_pos hw, if_pos hw]
    rfl
  · unfold waitFrom
    dsimp only
    rw [hring, hany, if_neg hw]
    subst hv
    unfold onUpu
    dsimp only
    rw [if_neg hw, if_pos rfl]
    rfl

theorem ringSent_same {owner seq : Nat} {ring : List (Nat × Retained)}
    (h : ∀ x ∈ ring, x.1 = owner → x.2.seq = seq → x.2.sent = true) : ringSent owner seq ring = ring := by
  unfold ringSent
  refine (List.map_congr_left fun x hx => ?_).trans (List.map_id _)
  split
  next hsame =>
    obtain ⟨o, r⟩ := x
    have hr : r.sent = true := h _ hx hsame.1 hsame.2
    cases r
    simp only at hr
    rw [hr]
    rfl
  next => rfl

/-- PARCEL_RESEND_TIMEOUT of the only parcel of an owner. -/
theorem resendKey_one {s : State} {owner : Nat} {r : Retained} (hone : retainedOf s owner = [r]) (hsent : r.sent = true) :
    resendKey owner s = odCount odUpuParcelsResent 1 (emitParcel r.parcel
      (onUpu (fun u => { u with waiting := tabPut owner (folio s) u.waiting }) s)) := by
  have hmem : r ∈ retainedOf s owner := by rw [hone]; exact List.mem_singleton_self r
  have hring (x : Nat × Retained) (hx : x ∈ s.upu.ring) (ho : x.1 = owner) : x.2 = r := by
    have : x.2 ∈ retainedOf s owner := List.mem_map.mpr ⟨x, List.mem_filter.mpr ⟨hx, by simp [ho]⟩, rfl⟩
    rw [hone] at this
    exact List.mem_singleton.mp this
  have hwait : waitFrom owner s = onUpu (fun u => { u with waiting := tabPut owner (folio s) u.waiting }) s := by
    have hany : s.upu.ring.any (fun x => x.1 == owner && x.2.sent) = true :=
      List.any_eq_true.mpr ⟨_, retained_mem hmem, by simp [hsent]⟩
    unfold waitFrom
    dsimp only
    rw [hany]
    rfl
  generalize hu : onUpu (fun u => { u with waiting := tabPut owner (folio s) u.waiting }) s = u at hwait
  have hof : retainedOf u owner = [r] := by subst hu; exact hone
  have hmark : markSent owner r.seq u = u := by
    rw [markSent_marks (by rw [hof]; exact List.mem_singleton_self r)]
    have hsame : ringSent owner r.seq u.upu.ring = u.upu.ring := by
      subst hu
      exact ringSent_same fun x hx ho _ => by rw [hring x hx ho]; exact hsent
    have hfound : (tabFind owner u.upu.waiting).isSome = true := by subst hu; show (tabFind owner (tabPut _ _ _)).isSome = true; rw [tabFind_put]; simp
    unfold onUpu
    dsimp only
    rw [hsame, if_pos hfound]
  unfold resendKey
  rw [hone, hwait]
  unfold forEach forEach
  rw [hof, if_pos (by simp [hsent]), hmark]

theorem resendDue_none {s : State} {key : Nat} (h : tabFind key s.upu.waiting = none) : resendDue s key = false := by
  unfold resendDue
  rw [h]
  rfl

/-- PARCEL_RELEASE of a task with nothing to release. -/
theorem parcelRelease_none {s : State} {n : Nat} {k : Task} (hk : getTask s n = some k) (hp : k.pendingParcels = [])
    (hr : k.resids = []) (he : doParcelRelease n s = releaseTask k s) :
    getTask (doParcelRelease n s) n =
      some (finishedTask (folio s) { k with released := true, unacked := 0, finishFolio := some (folio s) }) ∧
    (doParcelRelease n s).upu = s.upu ∧ (doParcelRelease n s).mem = s.mem ∧ (doParcelRelease n s).pods = s.pods := by
  obtain rfl := getTask_id hk
  rw [he, releaseTask_none hp hr]
  generalize hu : modTask k.id (releasedTask (folio s) 0) s = u
  have hkept : releasedTask (folio s) 0 k = { k with released := true, unacked := 0, finishFolio := some (folio s) } := by
    unfold releasedTask
    rw [← hp, ← hr]
  have hku : getTask u k.id = some { k with released := true, unacked := 0, finishFolio := some (folio s) } := by
    rw [← hkept, ← hu]
    exact getTask_mod_same _ hk (fun _ => rfl)
  have hfolio : folio u = folio s := by subst hu; rfl
  obtain ⟨hmem, hupu, hpods, -⟩ := sharedRest (finishTask_rest k.id u)
  obtain ⟨htask, -⟩ := finishTask_finishes hku
  rw [hfolio] at htask
  exact ⟨htask, hupu.trans (by subst hu; rfl), hmem.trans (by subst hu; rfl), hpods.trans (by subst hu; rfl)⟩

/-- PARCEL_RELEASE of a task with one parcel. -/
theorem parcelRelease_one {s : State} {n : Nat} {k : Task} {p : Parcel} (hk : getTask s n = some k) (hp : k.pendingParcels = [p])
    (hr : k.resids = []) (hup : chansUp s) (htwin : twinOpen s = false) (he : doParcelRelease n s = releaseTask k s) :
    getTask (doParcelRelease n s) n =
      some { k with released := true, unacked := 1, pendingParcels := [], finishFolio := some (folio s) } ∧
    (doParcelRelease n s).upu = upuRetained n p s ∧ (doParcelRelease n s).mem = { s.mem with gddr := gddrRetained p s } ∧
    podsBare (doParcelRelease n s) = podsBare s := by
  obtain rfl := getTask_id hk
  rw [he, releaseTask_one hp hr]
  obtain ⟨hupu, hcfe, hfsu, -, -, hpods⟩ := retain_frame k.id p htwin
  have hmem := retain_mem k.id p hup htwin
  generalize retain k.id none p s = u at hupu hmem hcfe hfsu hpods
  obtain ⟨f, hcount⟩ := odCount_on odUpuParcelsSent 1 u
  rw [hcount]
  have hku : getTask (onOd f u) k.id = some k := (getTask_congr (congrArg Cfe.tasks hcfe) _).trans hk
  have hfolio : folio (onOd f u) = folio s := congrArg Fsu.folio hfsu
  have hkept : releasedTask (folio (onOd f u)) 1 k =
      { k with released := true, unacked := 1, pendingParcels := [], finishFolio := some (folio s) } := by
    unfold releasedTask
    rw [hfolio, ← hr]
  have htask := getTask_mod_same (releasedTask (folio (onOd f u)) 1) hku (fun _ => rfl)
  rw [hkept] at htask
  exact ⟨htask, hupu, hmem, hpods⟩

/-- ROW_GRADIENT_PACK of a row gradient in INT8 with a residual. -/
theorem packOne_narrow {s : State} {n a : Nat} {k : Task} {g : RowGrad} {rest : List RowGrad} {v : List F32} {ps : List Parcel}
    (hk : getTask s n = some k) (hpack : packOne n s = packGrad k g (modTask n (fun k => { k with grads := rest }) s))
    (hfmt : phFmt (entryHdr s k g.owner g.row g.dflt) = 2) (ha : residPlace s k g = some a)
    (hv : v = List.zipWith (fAdd true) g.g (residAt s k a (sdDim k.shard0)))
    (hps : ps = packEntry s k g.owner
      { row := g.row, dflt := g.dflt, data := (exportRow 5 v).bytes.take (4 + sdDim k.shard0) } k.pendingParcels)
    (hlim : sumOf parcelSize ps ≤ odGet s odUpuTaskLimit * 2 ^ 20) :
    getTask (packOne n s) n = some { k with
      grads := rest, sats := k.sats + (exportRow 5 v).sats, pendingParcels := ps
      resids := k.resids.filter (fun x => x.1 != a) ++ [(a, residLeft v (exportRow 5 v))] } ∧
    (packOne n s).mem = s.mem ∧ (packOne n s).upu = s.upu := by
  obtain rfl := getTask_id hk
  generalize hu : modTask k.id (fun k => { k with grads := rest }) s = u at hpack
  have hku : getTask u k.id = some { k with grads := rest } := by subst hu; exact getTask_mod_same _ hk (fun _ => rfl)
  have hsame : sameAccess s u := by subst hu; exact sameAccess_modTask ..
  have hupus : u.upu = s.upu := by subst hu; rfl
  have hoptu (i : Nat) : optSlot u i = optSlot s i := by subst hu; rfl
  have hgauu : u.gau = s.gau := by subst hu; rfl
  rw [packGrad_narrow (a := a) (v := v) (by rw [entryHdr_congr hsame.sfp hoptu]; exact hfmt)
    (by rw [residPlace_congr hsame.sfp hoptu hgauu]; exact ha) (by rw [residAt_congr hsame.mem]; exact hv.symm)] at hpack
  obtain ⟨hkw, hupu⟩ := countExport_task true (exportRow 5 v) hku
  have hsame' := hsame.trans (sameAccess_countExport k.id true (exportRow 5 v) u)
  generalize countExport k.id true (exportRow 5 v) u = w at hpack hkw hupu hsame'
  have hopt (i : Nat) : optSlot w i = optSlot s i :=
    hsame'.od (odUpuOpt + i) (by unfold odUpuOpt odQntExportSat; omega) (by unfold odUpuOpt odQntExportNonfinite; omega)
  have hlimit : odGet w odUpuTaskLimit = odGet s odUpuTaskLimit := hsame'.od odUpuTaskLimit (by decide) (by decide)
  generalize hj : ({ k with grads := rest, sats := k.sats + (exportRow 5 v).sats } : Task) = j at hkw
  have hpsj : packEntry w j g.owner { row := g.row, dflt := g.dflt, data := (exportRow 5 v).bytes.take (4 + sdDim k.shard0) }
      j.pendingParcels = ps := by
    rw [packEntry_congr (k := k) hsame'.sfp hopt (by subst hj; rfl) (by subst hj; rfl), hps, ← hj]
  obtain ⟨htask, -, hrest⟩ := packFor_fits (some (a, residLeft v (exportRow 5 v))) hkw hpsj (by rw [hlimit]; exact hlim)
  obtain ⟨hmemw, hupuw, -⟩ := sharedRest hrest
  rw [hpack]
  exact ⟨htask.trans (by subst hj; rfl), hmemw.trans hsame'.mem, hupuw.trans (hupu.trans hupus)⟩

/-- Settles O48: the window (`closeWindow_one`), the combine sets (`combineOne_opens`, `combineOne_adds`), the packing
(`packFor_fits`), the release (`retain_frame`, `retain_mem`) and the sending (`markSent_marks`, `resendKey_one`) each have their lemma. -/
theorem updateSends : Obligations.UpdateSends := by
  unfold Obligations.UpdateSends
  refine ⟨?window, ?opens, ?adds, ?raw, ?narrow, ?without, ?release, ?send, ?resend⟩
  case window =>
    intro s pod n k e es r d hlive hphase herr hdeep hwin hrows hkept hlen hr htaken hturn hcomb hd hf
    obtain ⟨hk, -⟩ := liveTask_some hlive
    obtain rfl := getTask_id hk
    refine ⟨closeWindow k pod s, ?_, closeWindow_one hk hphase herr hdeep hwin hrows hkept hlen hr hcomb hd hf⟩
    show Host.Outcome.next (doUpdateWindowClose pod k.id s) = _
    unfold doUpdateWindowClose
    rw [hlive]
    dsimp only
    rw [if_neg (by simp [herr, htaken, hturn, podOpen, hwin])]
  case opens =>
    intro s pod n k g c hlive herr hup hopen hg hnone hc
    obtain ⟨hk, -⟩ := liveTask_some hlive
    have hone := combineOne_opens hk hg hnone hc
    obtain ⟨he, hsame, hother⟩ := deepCombine_open (f := setOpened n c (bagCarrels (sdDim k.shard0)) g) hlive herr hup hopen
      (fun _ => rfl) hone rfl rfl
    exact ⟨_, congrArg Host.Outcome.next he, hsame, hother, rfl⟩
  case adds =>
    intro s pod n k g x hlive herr hup hopen hg hx hn hrow hdflt
    obtain ⟨hk, -⟩ := liveTask_some hlive
    have hone := combineOne_adds hk hg hx hn hrow hdflt
    obtain ⟨f, hcount⟩ := odCount_on odUpuCoalesced 1 (modPod pod (setsAdded n g) (modPod pod (arrivalTaken n) s))
    rw [hcount] at hone
    obtain ⟨he, hsame, hother⟩ := deepCombine_open (f := setsAdded n g) hlive herr hup hopen (fun _ => rfl) hone rfl rfl
    exact ⟨_, congrArg Host.Outcome.next he, hsame, hother, rfl, rfl⟩
  case raw =>
    intro s n k g rest ps hlive herr hg hmay hfmt hps hlim
    obtain ⟨hk, -⟩ := liveTask_some hlive
    obtain rfl := getTask_id hk
    have hplace : residPlace s k g = none := by unfold residPlace; rw [if_pos (.inl (by omega))]
    have hwait : residWaits s k g = false := by unfold residWaits; rw [hplace]; rfl
    have hpack := packOne_packs hlive herr hg hmay hwait
    generalize hv : modTask k.id (fun k => { k with grads := rest }) s = v at hpack
    have hkv : getTask v k.id = some { k with grads := rest } := by subst hv; exact getTask_mod_same _ hk (fun _ => rfl)
    have hsfpv : v.sfp = s.sfp := by subst hv; rfl
    have hoptv (i : Nat) : optSlot v i = optSlot s i := by subst hv; rfl
    rw [packGrad_raw (by rw [entryHdr_congr hsfpv hoptv]; exact hfmt)] at hpack
    obtain ⟨htask, hother, hrest⟩ := packFor_fits (owner := g.owner) (e := rawEntry g) (ps := ps) none hkv
      ((packEntry_congr (k := k) hsfpv hoptv rfl rfl _ _ _).trans hps.symm) (by subst hv; exact hlim)
    refine ⟨_, congrArg Host.Outcome.next hpack, htask, fun j hj => (hother j hj).trans ?_, ?_⟩
    · subst hv; exact getTask_mod_other _ _ hj (fun _ => rfl)
    · obtain ⟨-, -, -, hcfe⟩ := sharedRest hrest
      exact (hcfe s.cfe).trans (by subst hv; rfl)
  case narrow =>
    intro s n k g rest a v e ps hlive herr hg hmay hfmt ha hwait hv he hps hlim
    obtain ⟨hk, -⟩ := liveTask_some hlive
    subst he
    obtain ⟨htask, hmem, hupu⟩ := packOne_narrow hk (packOne_packs hlive herr hg hmay hwait) hfmt ha hv hps hlim
    exact ⟨packOne n s, _, rfl, htask, rfl, rfl, rfl, hmem, hupu⟩
  case without =>
    intro s n k hk hphase herr hrel hvia hpacked hon hp hr hroom
    have hclear : epochsClear s k = true := by unfold epochsClear; rw [hp]; simp
    exact ⟨doParcelRelease n s, rfl,
      parcelRelease_none hk hp hr (parcelRelease_releases hk hphase herr hrel hvia hpacked hon hclear hroom)⟩
  case release =>
    intro s n k p o q bs room m hk hphase herr hrel hvia hpacked hon hp hr hclear hroom hup htwin ho hq hbs hrm hm
    obtain ⟨htask, hupu, hmem, hpods⟩ := parcelRelease_one hk hp hr hup htwin
      (parcelRelease_releases hk hphase herr hrel hvia hpacked hon hclear hroom)
    subst ho
    subst hq
    subst hbs
    subst hrm
    subst hm
    exact ⟨doParcelRelease n s, rfl, htask, hupu, by rw [hmem], congrArg Mem.gddr hmem, hpods⟩
  case send =>
    intro s owner r howner hnext hon hwin hepoch hdst hreach htwin ho hroom
    have hr : r ∈ retainedOf s owner := List.mem_of_find?_eq_some hnext
    have hunsent : r.sent = false := by simpa using List.find?_some hnext
    have hany : (retainedOf s owner).any (fun r => !r.sent) = true := List.any_eq_true.mpr ⟨r, hr, by simp [hunsent]⟩
    have hfar : (retainedOf s owner).any (fun x => decide (x.seq + 256 ≤ r.seq)) = false := by
      rw [List.any_eq_false]
      intro x hx
      have := hwin x hx
      simp only [decide_eq_true_eq]
      omega
    have he : doParcelSend owner s = emitParcel r.parcel (markSent owner r.seq s) := by
      unfold doParcelSend
      rw [if_pos hany]
      unfold sendNext
      rw [hnext]
      dsimp only
      rw [Nat.mod_eq_of_lt howner, if_neg (by simp [hon, hfar, hepoch, hreach])]
    rw [markSent_marks hr] at he
    generalize hu : onUpu _ s = u at he
    rw [emitParcel_away ho (by subst hu; exact hdst) (by subst hu; exact htwin)] at he
    obtain ⟨hupu, htasks, hhost⟩ := sendCell_leaves ctParcel owner (parcelSize r.parcel) ((parcelBytes r.parcel).map (·.toNat)) u
    have hsent := sendCell_sent ctParcel owner (parcelSize r.parcel) ((parcelBytes r.parcel).map (·.toNat)) u (by subst hu; exact hroom)
    exact ⟨_, congrArg Host.Outcome.next he, by subst hu; exact hsent, hupu.trans (by subst hu; rfl), htasks.trans (by subst hu; rfl),
      hhost.trans (by subst hu; rfl)⟩
  case resend =>
    intro s owner r f hone hsent hwait hdue hother hdst htwin ho hroom
    have hdue' : resendDue s owner = true := by unfold resendDue; rw [hwait]; simpa using hdue
    generalize hu : onUpu (fun u => { u with waiting := tabPut owner (folio s) u.waiting }) s = u
    have hkey : resendKey owner s = odCount odUpuParcelsResent 1 (sendCell ctParcel owner (parcelSize r.parcel)
        ((parcelBytes r.parcel).map (·.toNat)) u) := by
      rw [resendKey_one hone hsent, hu, emitParcel_away ho (by subst hu; exact hdst) (by subst hu; exact htwin)]
    obtain ⟨hupu, htasks, hhost⟩ := sendCell_leaves ctParcel owner (parcelSize r.parcel) ((parcelBytes r.parcel).map (·.toNat)) u
    have hcell := sendCell_sent ctParcel owner (parcelSize r.parcel) ((parcelBytes r.parcel).map (·.toNat)) u (by subst hu; exact hroom)
    generalize sendCell ctParcel owner (parcelSize r.parcel) ((parcelBytes r.parcel).map (·.toNat)) u = v at hkey hupu htasks hhost hcell
    obtain ⟨g, hcount⟩ := odCount_on odUpuParcelsResent 1 v
    have hnone : resendDue (onOd g v) (owner + 1024) = false := by
      refine resendDue_none ?_
      show tabFind (owner + 1024) v.upu.waiting = none
      rw [hupu, ← hu]
      show tabFind (owner + 1024) (tabPut owner (folio s) s.upu.waiting) = none
      rw [tabFind_put, if_neg (by omega), hother]
    have he : doParcelResendTimeout owner s = onOd g v := by
      unfold doParcelResendTimeout
      dsimp only
      rw [if_pos hdue', hkey, hcount, hnone]
      rfl
    exact ⟨_, congrArg Host.Outcome.next he, by subst hu; exact hcell, hupu.trans (by subst hu; rfl), htasks.trans (by subst hu; rfl),
      hhost.trans (by subst hu; rfl)⟩

end Sys2Proof.Machine
end

section
/-! SUPPORT. A parcel outside every sequence (R216; log 41). -/

namespace Sys2Proof.Machine

/-! ### A parcel with SEQ 0 -/

/-- A parcel of updates with SEQ 0 belongs to no sequence: nothing is done with it. -/
theorem arrive_unsequenced {s : State} {p : Parcel} (hseq : phSeq p.hdr = 0) (hwrite : phWrite p.hdr = false) : arrive p s = s := by
  unfold arrive
  cases ownedAs s p with
  | none => rfl
  | some off =>
    dsimp only
    rw [if_neg (by simp [hseq]), if_neg (by simp [hwrite])]

/-- PARCEL_ARRIVAL of one only notes that its source has been heard. -/
theorem parcelArrival_unsequenced {s : State} {src : Nat} {bs : List Byte} (hon : gated s 9 = false) (hmember : isMember s src = true)
    (hentries : (readParcel s bs).entries ≠ []) (hlen : bs.length = parcelSize (readParcel s bs))
    (hseq : phSeq (readParcel s bs).hdr = 0) (hwrite : phWrite (readParcel s bs).hdr = false) :
    doParcelArrival src bs s = hear src s := by
  unfold doParcelArrival
  dsimp only
  rw [hon, hmember, if_neg Bool.false_ne_true, if_neg (by simp), if_neg (by simp [hseq, hentries, hlen]), arrive_unsequenced hseq hwrite]

/-- A parcel of updates with SEQ 0 from engine 1 to engine 0: its header, with COUNT 1, and one entry of 32 bytes of zero. -/
def unsequencedBytes : List Byte := leBytes 32 (1 <<< 48 + 1 <<< 112) ++ leBytes 40 0

/-- Engine 0 of a Collection with engine 1, whose port 0 is up, and whose journal has an APPLIED entry of engine 1 with SEQ 0. -/
def journalledZero : State := {
  sfp := { collId := 1 }
  cru := { gate := 0xFFFF }
  od := [(odSfpMembers, 2), (odSfpRoute, 0x100), (odSfpPortState, 2)]
  upu := { journal := [{ table := 0, seq := 0, st := .applied, source := 1, intake := 0 }] } }

theorem journalledZero_ready : gated journalledZero 9 = false ∧ isMember journalledZero 1 = true ∧ cellRoom journalledZero 1 1 := by
  refine ⟨?_, ?_, ?_, ?_⟩
  all_goals decide +kernel

/-- Refutes O49: a parcel of updates with SEQ 0 belongs to no sequence, and PARCEL_ARRIVAL sends no acknowledgement for it; the
clause of a parcel that was applied before asks for one where the journal has an APPLIED entry with SEQ 0. -/
theorem not_parcelsArrive : ¬ Obligations.ParcelsArrive := by
  unfold Obligations.ParcelsArrive
  intro h
  obtain ⟨-, -, hagain, -⟩ := h
  obtain ⟨hon, hmember, hroom⟩ := journalledZero_ready
  have hseq : phSeq (readParcel journalledZero unsequencedBytes).hdr = 0 := by decide +kernel
  have hsource : phSource (readParcel journalledZero unsequencedBytes).hdr = 1 := by decide +kernel
  have howner : phOwner (readParcel journalledZero unsequencedBytes).hdr = 0 := by decide +kernel
  have hwrite : phWrite (readParcel journalledZero unsequencedBytes).hdr = false := by decide +kernel
  have hentries : (readParcel journalledZero unsequencedBytes).entries ≠ [] := by decide +kernel
  have hlen : unsequencedBytes.length = parcelSize (readParcel journalledZero unsequencedBytes) := by decide +kernel
  obtain ⟨t, he, ⟨c, hsent, -⟩, -⟩ := hagain journalledZero 1 unsequencedBytes _ { table := 0, seq := 0, st := .applied, source := 1, intake := 0 }
    rfl hon hmember hsource hentries hlen howner (by decide) (by rw [hseq]; exact Nat.zero_le _) (by rw [hseq]; decide)
    (by rw [hseq]; rfl) rfl hroom
  have hheard : exec (.parcelArrival 1 unsequencedBytes) journalledZero = .next (hear 1 journalledZero) :=
    congrArg Host.Outcome.next (parcelArrival_unsequenced hon hmember hentries hlen hseq hwrite)
  obtain rfl : hear 1 journalledZero = t := Host.Outcome.next.inj (hheard.symm.trans he)
  exact absurd hsent (List.cons_ne_nil _ _).symm

end Sys2Proof.Machine
end

section
/-! SUPPORT. The event of key wear in an event ring that lies in GDDR7, over a row (R83, R342). -/

namespace Sys2Proof.Machine

/-! ### A row under an event ring -/

/-- Shard 0 of table 0: FP32 rows with TRAIN and 8 elements, at byte 2^25 of GDDR7. -/
def wornDesc : BitVec 512 := BitVec.ofNat 512 (1 <<< 44 + 2 ^ 20 <<< 128 + 10 <<< 296 + 1 <<< 321)

/-- A parcel of updates with SEQ 1 from engine 1 to engine 0, with one entry, for row 0 of table 0. -/
def wornEntry : PEntry := { row := 0, dflt := false, data := [] }
def wornParcel : Parcel := { hdr := BitVec.ofNat 256 (1 + 1 <<< 48 + 1 <<< 112), entries := [wornEntry] }
def wornJournal : Journal :=
  { table := 0, seq := 1, st := .received, source := 1, intake := 1, mirrored := true, partnerApplied := true }

/-- Engine 0, which has journalled the parcel, and whose next cell to engine 1 is number 2^47 under its slot: the event of key
wear then goes into event ring 0, which lies at the row in GDDR7. -/
def worn : State := {
  sfp := { collId := 1, sending := some 0, cseq := [(4, 2 ^ 47 - 1)] }
  cat := { dir := [(0, 1)], cache := [(0, wornDesc)] }
  od := [(odSfpMembers, 2), (odSfpRoute, 0x100), (odSfpPortState, 2), (odMssUsable, 2 ^ 30)]
  cfe := { evqs := [(0, { base := 2 ^ 60 + 2 ^ 25, ctl := 3 })] }
  upu := { journal := [wornJournal], inbox := [(1, 1, wornParcel)] } }

/-- The place of the row. -/
def wornRow : RowCtx := { idx := 0, x := wornDesc, row := 0, pos := 0 }

theorem worn_ready : nextReceived worn = some wornJournal ∧ inboxOf worn 1 1 = some wornParcel ∧ gated worn 9 = false ∧
    switchWaits worn = false ∧ phWrite wornParcel.hdr = false ∧ entryAt worn (phTable wornParcel.hdr) wornEntry = .here wornRow ∧
    inRecovery worn = false ∧ twinState worn ≠ 1 ∧ twinOpen worn = false ∧ cellRoom worn 1 1 := by
  refine ⟨?_, ?_, ?_, ?_, ?_, ?_, ?_, ?_, ?_, ?_, ?_⟩
  all_goals decide +kernel

theorem worn_row : sdTier wornDesc = 0 ∧ sdShelved wornDesc = false ∧ sdEsc wornDesc = false ∧
    rowAddr wornDesc (sdBase wornDesc) 0 = 2 ^ 25 ∧ rowS wornDesc = 64 ∧ sdDim wornDesc = 8 ∧
    holdersOf worn (phTable wornParcel.hdr) 0 = [] ∧
    entryDrops worn wornParcel.hdr (trainAt worn (phTable wornParcel.hdr)) wornDesc = false ∧
    teMaster (trainAt worn (phTable wornParcel.hdr)) = false ∧ cbReady worn (homePod worn 0) wornDesc = true ∧
    compSize (trainAt worn (phTable wornParcel.hdr)) 8 = 0 ∧ trainBad worn (phTable wornParcel.hdr) = false ∧
    tierFlt worn 0 (2 ^ 25) 64 = none := by
  refine ⟨?_, ?_, ?_, ?_, ?_, ?_, ?_, ?_, ?_, ?_, ?_, ?_, ?_⟩
  all_goals decide +kernel

/-! ### The parcel is applied -/

/-- The state that an entry leaves. -/
def stateAfter : ApplyRes → State
  | .done s => s
  | .wait s => s
  | .fault s => s

/-- The entry is done. -/
def isDone : ApplyRes → Bool
  | .done _ => true
  | _ => false

theorem applyRes_done {r : ApplyRes} (h : isDone r = true) : r = .done (stateAfter r) := by
  cases r with
  | done s => rfl
  | wait s => cases h
  | fault s => cases h

/-- PARCEL_APPLY of a parcel with one entry, once nothing holds it. -/
theorem parcelApply_one {s : State} {j : Journal} {p : Parcel} {e : PEntry} {u : State} (hrows : s.upu.rowIn = [])
    (hnext : nextReceived s = some j) (hin : inboxOf s j.source j.seq = some p) (hon : gated s 9 = false) (hfault : s.upu.fault = none)
    (hmirrored : j.mirrored = true) (happlying : s.upu.applying = none) (hswitch : switchWaits s = false) (he : p.entries = [e])
    (hu : applyEntry false p.hdr (j.intake + (bit (phWrite p.hdr)) <<< 48) e s = .done u) :
    doParcelApply s = parcelDone j p (useEntry p.hdr e u) := by
  have hrun : runRows s = s := by
    unfold runRows
    rw [hrows]
    show { s with upu := { s.upu with rowIn := [] } } = s
    rw [← hrows]
  unfold doParcelApply
  dsimp only
  rw [hon, if_neg Bool.false_ne_true, hrun, hnext]
  dsimp only
  rw [hin, happlying]
  dsimp only
  rw [if_neg (by simp [hon, hfault, hmirrored, hswitch]), he]
  unfold applyFrom
  dsimp only
  rw [List.drop_zero]
  dsimp only
  rw [hu]
  rfl

/-- A parcel of another engine that is done, with no entry for a shard that has moved, says so to its source. -/
theorem parcelDone_says {s v : State} {j : Journal} {p : Parcel} (hfwd : forwardsOf s p = []) (hv : endParcel { j with st := .applied } s = v)
    (hpartner : j.partnerApplied = true) (hsource : j.source < 1024) (hother : j.source ≠ v.sfp.engineId) :
    parcelDone j p s = sendCell ctParcelAck j.source 16 [v.sfp.engineId, j.source, j.seq, j.intake] v := by
  unfold parcelDone
  dsimp only
  rw [hfwd, hv, if_pos List.isEmpty_nil, if_neg (fun h => absurd h.1 (Nat.not_le.mpr hsource)), if_pos (.inl hpartner)]
  unfold sayApplied
  dsimp only
  rw [Nat.mod_eq_of_lt hsource, if_neg hother, if_neg (Nat.not_le.mpr hsource)]

/-- What a transfer that goes out leaves of memory is what its count leaves: the event of key wear alone changes it. -/
theorem sendCell_mem {type dst len : Nat} {fields : List Nat} {s : State} (ht : type ≠ ctReadReq) (hroom : cellRoom s dst (cellsFor len)) :
    (sendCell type dst len fields s).mem = (countCells (cellDst s dst) (cellsFor len) (onSfp (fun f => { f with xid := (f.xid + 1) % 2 ^ 23 }) s)).mem := by
  unfold sendCell
  extract_lets c s1
  have hl : linked s1 c.dst = true := hroom.1
  have hn : ¬ 2 ^ 48 ≤ cseqUsed s1 c.dst + cellsFor c.len := Nat.not_le.2 hroom.2
  rw [if_neg (by simp [hl]), if_neg (fun h => ht h.1)]
  unfold transmit
  dsimp only
  rw [if_neg hn]
  obtain ⟨ps, hlane⟩ := laneCells_eq c.dst c.xid (cellsFor c.len) (countCells c.dst (cellsFor c.len) s1)
  obtain ⟨qs, hcredit⟩ := useCredit_eq { c with cseq := cseqUsed s1 c.dst + 1, slot := s1.sfp.sending }
    (laneCells c.dst c.xid (cellsFor c.len) (countCells c.dst (cellsFor c.len) s1))
  rw [hcredit, hlane]
  rfl

/-- The state when the row is in its place, and when the parcel has left the inbox. -/
def wornApplied : State :=
  useEntry wornParcel.hdr wornEntry (stateAfter (applyEntry false wornParcel.hdr (1 + (bit (phWrite wornParcel.hdr)) <<< 48) wornEntry worn))
def wornEnded : State := endParcel { wornJournal with st := .applied } wornApplied

theorem worn_applies : isDone (applyEntry false wornParcel.hdr (1 + (bit (phWrite wornParcel.hdr)) <<< 48) wornEntry worn) = true ∧
    forwardsOf wornApplied wornParcel = [] ∧ wornEnded.sfp.engineId = 0 ∧ wornEnded.upu.recovering = false ∧ cellRoom wornEnded 1 1 := by
  refine ⟨?_, ?_, ?_, ?_, ?_, ?_⟩
  all_goals decide +kernel

/-- The first byte at the row, once the transfer is counted, is that of the event. -/
theorem wornEnded_bytes : (gddrLoad (countCells (cellDst wornEnded 1) (cellsFor 16)
    (onSfp (fun f => { f with xid := (f.xid + 1) % 2 ^ 23 }) wornEnded)) (2 ^ 25) 64).head? = some 4 := by decide +kernel

theorem worn_steps : ∃ t, exec .parcelApply worn = .next t ∧ (gddrLoad t (2 ^ 25) 64).head? = some 4 := by
  obtain ⟨hnext, hin, hon, hswitch, -, -, hcalm, -⟩ := worn_ready
  obtain ⟨hdone, hfwd, hengine, hrecovering, hroom⟩ := worn_applies
  have happly : doParcelApply worn = parcelDone wornJournal wornParcel wornApplied :=
    parcelApply_one rfl hnext hin hon rfl rfl rfl hswitch rfl (applyRes_done hdone)
  have hended : endParcel { wornJournal with st := .applied } wornApplied = wornEnded := rfl
  have hbytes := wornEnded_bytes
  generalize wornEnded = v at hended hengine hrecovering hroom hbytes
  have hstep : doParcelApply worn = sendCell ctParcelAck 1 16 [v.sfp.engineId, 1, 1, 1] v :=
    happly.trans (parcelDone_says hfwd hended rfl (by decide) (by rw [hengine]; decide))
  have hmem := sendCell_mem (type := ctParcelAck) (dst := 1) (len := 16) (fields := [v.sfp.engineId, 1, 1, 1]) (by decide) hroom
  have hupu := (sendCell_leaves ctParcelAck 1 16 [v.sfp.engineId, 1, 1, 1] v).1
  rw [← hstep] at hmem hupu
  refine ⟨settle doParcelApply worn, rfl, ?_⟩
  rw [settle_calm hcalm ((congrArg Upu.recovering hupu).trans hrecovering), gddrLoad, hmem]
  exact hbytes

theorem wornRow_bytes (w : List F32) : (wideRow wornDesc 1 w).head? = some 1 := by
  have hsize : rowS wornDesc = 64 := by decide +kernel
  have hstamp : rowT wornDesc = 8 := by decide +kernel
  unfold wideRow
  rw [hsize, hstamp]
  rfl

/-- Refutes O50: the "applied" of the parcel is the 2^47th cell to its source under the slot, its event of key wear goes into event
ring 0, and where that ring lies in GDDR7 over the row just written, the row is no longer what the optimiser gave. -/
theorem not_rowsCommit : ¬ Obligations.RowsCommit := by
  unfold Obligations.RowsCommit
  intro h
  obtain ⟨happly, -⟩ := h
  obtain ⟨hnext, hin, hon, hswitch, hwrite, hhere, hrecovery, hpaired, hopen, hroom⟩ := worn_ready
  obtain ⟨htier, hshelved, hesc, haddr, hsize, hdim, hholders, hdrops, hmaster, hcb, hcomp, htrain, hflt⟩ := worn_row
  obtain ⟨t, he, hrow, -⟩ := happly worn wornJournal wornParcel wornEntry wornRow (2 ^ 25) 1 8 wornDesc _
    hnext hin hon rfl rfl rfl rfl hswitch rfl hwrite rfl hhere rfl rfl rfl rfl hdim.symm htier hshelved hesc haddr.symm hholders
    rfl hdrops hmaster hcb hcomp htrain (by rw [hsize]; exact hflt) rfl (by decide +kernel) hrecovery (by decide) (by decide)
    hpaired hopen hroom (by intro c hc; cases hc) (.inl (by rw [hsize]; decide))
  obtain ⟨u, hu, hbytes⟩ := worn_steps
  obtain rfl : u = t := Host.Outcome.next.inj (hu.symm.trans he)
  rw [hsize] at hrow
  exact absurd (hbytes.symm.trans ((congrArg List.head? hrow).trans (wornRow_bytes _))) (by decide)

end Sys2Proof.Machine
end

section
/-! SUPPORT. Whole tasks as runs of the pipeline's own steps (R16, R19, R362). -/

namespace Sys2Proof.Machine

/-! ### Runs of steps -/

theorem runSteps_nil (s : State) : runSteps [] s = s := rfl

theorem runSteps_cons (i : Instr) (is : List Instr) (s : State) : runSteps (i :: is) s = runSteps is (pipeExec i s) := rfl

theorem runSteps_append (is js : List Instr) (s : State) : runSteps (is ++ js) s = runSteps js (runSteps is s) := by
  induction is generalizing s with
  | nil => rfl
  | cons i is ih => exact ih (pipeExec i s)

/-- Steps that each change nothing change nothing. -/
theorem runSteps_idle {is : List Instr} {s : State} (h : ∀ i ∈ is, pipeExec i s = s) : runSteps is s = s := by
  induction is with
  | nil => rfl
  | cons i is ih => rw [runSteps_cons, h i (List.mem_cons_self ..)]; exact ih (fun j hj => h j (List.mem_cons_of_mem i hj))

/-- Every command of a list is a step of the pipeline. -/
def allSteps (is : List Instr) : Prop := ∀ i ∈ is, (pipeStep i).isSome = true

theorem allSteps_nil : allSteps [] := fun _ h => absurd h List.not_mem_nil

theorem allSteps_append {is js : List Instr} (h : allSteps is) (h' : allSteps js) : allSteps (is ++ js) := fun i hi =>
  (List.mem_append.mp hi).elim (h i) (h' i)

theorem allSteps_flatMap {α : Type} {xs : List α} {f : α → List Instr} (h : ∀ x ∈ xs, allSteps (f x)) : allSteps (xs.flatMap f) := by
  intro i hi
  obtain ⟨x, hx, hi⟩ := List.mem_flatMap.mp hi
  exact h x hx i hi

theorem allSteps_map {α : Type} {xs : List α} {f : α → Instr} (h : ∀ x, (pipeStep (f x)).isSome = true) : allSteps (xs.map f) := by
  intro i hi
  obtain ⟨x, -, rfl⟩ := List.mem_map.mp hi
  exact h x

theorem allSteps_replicate {n : Nat} {i : Instr} (h : (pipeStep i).isSome = true) : allSteps (List.replicate n i) := by
  intro j hj
  rw [List.eq_of_mem_replicate hj]
  exact h

theorem allSteps_eachPod {s : State} {f : Nat → Pod → List Instr} (h : ∀ p x, allSteps (f p x)) : allSteps (onEachPod s f) :=
  allSteps_flatMap fun p _ => h p _

theorem streamSteps_steps (s : State) : allSteps (streamSteps s) := by
  refine allSteps_flatMap fun k _ => allSteps_append (allSteps_flatMap fun p _ => allSteps_map fun n => rfl) ?_
  split
  · exact allSteps_replicate (n := 2) rfl
  · exact allSteps_nil

theorem outSteps_steps (s : State) : allSteps (outSteps s) := by
  refine allSteps_eachPod fun p x i hi => ?_
  simp only [List.flatten_cons, List.flatten_nil, List.mem_append, List.mem_replicate, List.mem_cons, List.not_mem_nil, or_false] at hi
  rcases hi with ⟨-, rfl⟩ | ⟨-, rfl⟩ | ⟨-, rfl⟩ | ⟨-, rfl⟩ | ⟨-, rfl⟩ | ⟨-, rfl⟩ | rfl | rfl
  all_goals rfl

theorem returnSteps_steps (s : State) : allSteps (returnSteps s) := by
  refine allSteps_eachPod fun p x => allSteps_append ?_ (allSteps_map fun c => rfl)
  split
  · exact allSteps_replicate (n := 1) rfl
  · exact allSteps_nil

/-- Every stage takes steps of the pipeline alone. -/
theorem stages_steps : ∀ f ∈ stages, ∀ s, allSteps (f s) := by
  intro f hf s
  simp only [stages, List.mem_cons, List.not_mem_nil, or_false] at hf
  rcases hf with rfl | rfl | rfl | rfl | rfl | rfl | rfl | rfl | rfl | rfl | rfl | rfl | rfl
  · exact streamSteps_steps s
  · exact allSteps_eachPod fun p x => allSteps_replicate rfl
  · exact allSteps_eachPod fun p x => allSteps_flatMap fun b _ => allSteps_replicate rfl
  · exact allSteps_append (allSteps_map fun i => rfl) (allSteps_eachPod fun p x => allSteps_map fun b => rfl)
  · exact allSteps_eachPod fun p x => allSteps_flatMap fun t _ => allSteps_replicate rfl
  · exact returnSteps_steps s
  · exact allSteps_eachPod fun p x => allSteps_append (allSteps_map fun r => rfl) (allSteps_map fun c => rfl)
  · exact allSteps_eachPod fun p x => allSteps_flatMap fun b _ => allSteps_replicate rfl
  · exact outSteps_steps s
  · exact allSteps_flatMap fun k _ => allSteps_map fun p => rfl
  · exact allSteps_eachPod fun p x => allSteps_map fun c => rfl
  · exact allSteps_flatMap fun k _ => allSteps_append (allSteps_replicate rfl) (allSteps_replicate (n := 1) rfl)
  · exact allSteps_map fun o => rfl

theorem expirySteps_steps (s : State) : allSteps (expirySteps s) := by
  refine allSteps_eachPod fun p x => ?_
  split
  · exact allSteps_nil
  · exact allSteps_replicate (n := 1) rfl

/-- A round is a run of steps. -/
theorem runRound_run (s : State) : ∃ is, runRound s = runSteps is s ∧ allSteps is := by
  have h (fs : List (State → List Instr)) (hfs : ∀ f ∈ fs, f ∈ stages) (s : State) :
      ∃ is, fs.foldl (fun s f => runSteps (f s) s) s = runSteps is s ∧ allSteps is := by
    induction fs generalizing s with
    | nil => exact ⟨[], rfl, allSteps_nil⟩
    | cons f fs ih =>
      obtain ⟨is, hrun, hall⟩ := ih (fun g hg => hfs g (List.mem_cons_of_mem f hg)) (runSteps (f s) s)
      exact ⟨f s ++ is, by rw [List.foldl_cons, hrun, runSteps_append],
        allSteps_append (stages_steps f (hfs f (List.mem_cons_self ..)) s) hall⟩
  exact h stages (fun f hf => hf) s

theorem sameWork_refl (s : State) : sameWork s s = true := by simp [sameWork]

/-- Steps that change what the pipeline works on are at least one. -/
theorem steps_pos {is : List Instr} {s : State} (h : sameWork s (runSteps is s) = false) : 1 ≤ is.length := by
  cases is with
  | nil => rw [runSteps_nil, sameWork_refl] at h; cases h
  | cons i is => exact Nat.le_add_left 1 is.length

/-- The end of a run of rounds: the task no longer goes on, the rounds are used up, or a further round changes nothing. -/
def driven (n m : Nat) (len : Nat) (t : State) : Prop :=
  stillRuns t n = false ∨ m ≤ len ∨ ∃ u, runRound u = t ∧ sameWork u t = true ∧ sameWork t (runSteps (expirySteps t) t) = true

theorem driven_later {n m len : Nat} {t : State} (is : List Instr) (h : driven n m len t) (hpos : 1 ≤ is.length) :
    driven n (m + 1) (is.length + len) t := by
  rcases h with h | h | h
  · exact .inl h
  · exact .inr (.inl (by omega))
  · exact .inr (.inr h)

/-- Rounds are a run of steps, at least one for each that changes anything. -/
theorem drive_run (n m : Nat) (s : State) : ∃ is, drive n m s = runSteps is s ∧ allSteps is ∧ driven n m is.length (drive n m s) := by
  induction m generalizing s with
  | zero => exact ⟨[], rfl, allSteps_nil, .inr (.inl (Nat.zero_le _))⟩
  | succ m ih =>
    unfold drive
    split
    next hstop => exact ⟨[], rfl, allSteps_nil, .inl (by simpa using hstop)⟩
    next =>
      dsimp only
      obtain ⟨is, hround, hall⟩ := runRound_run s
      split
      next hnew =>
        obtain ⟨js, hrun, hall', hend⟩ := ih (runRound s)
        have hpos : 1 ≤ is.length := steps_pos (s := s) (by rw [← hround]; simpa using hnew)
        refine ⟨is ++ js, by rw [hrun, runSteps_append, hround], allSteps_append hall hall', ?_⟩
        rw [List.length_append]
        exact driven_later is hend hpos
      next hsame =>
        split
        next hwait => exact ⟨is, hround, hall, .inr (.inr ⟨s, rfl, by simpa using hsame, hwait⟩)⟩
        next hnew =>
          obtain ⟨js, hrun, hall', hend⟩ := ih (runSteps (expirySteps (runRound s)) (runRound s))
          have hpos : 1 ≤ (expirySteps (runRound s)).length := steps_pos (s := runRound s) (by simpa using hnew)
          refine ⟨is ++ (expirySteps (runRound s) ++ js), by rw [hrun, runSteps_append, runSteps_append, hround],
            allSteps_append hall (allSteps_append (expirySteps_steps _) hall'), ?_⟩
          rw [← List.append_assoc, List.length_append]
          exact driven_later (is ++ expirySteps (runRound s)) hend (by rw [List.length_append]; omega)

/-! ### Steps without work -/

/-- A Pod has no handle in its queues, whose pointers agree, no latched row and no pass. -/
structure outIdle (p : Pod) : Prop where
  none0 : p.hq0.items = []
  none1 : p.hq1.items = []
  none2 : p.hq2.items = []
  ok0 : hqOk p.hq0 = true
  ok1 : hqOk p.hq1 = true
  ok2 : hqOk p.hq2 = true
  shadow : p.flu.shadow = []
  still : p.flu.running = false

/-- The steps of a Pod that its handles and its Fold Unit take. -/
def outStepOf (p : Nat) : Instr → Prop
  | .abortedHandleFree q _ | .exportRow q | .tileAdd q | .latchRowFill q | .foldPassStart q | .foldCapture q => q = p
  | _ => False

theorem headHandle_empty {s : State} {p q : Nat} (h : (hqOf (getPod s p) q).items = []) : headHandle s p q = none := by
  unfold headHandle
  rw [h]
  rfl

theorem exportNext_idle {s : State} {p : Nat} (tiles : Bool) (h : outIdle (getPod s p)) : exportNext p tiles s = s := by
  unfold exportNext
  rw [withHq_ok _ (by exact h.ok2), withHq_ok _ (by exact h.ok1), exportHead_empty tiles (by exact h.none2),
    exportHead_empty tiles (by exact h.none1)]
  exact ite_self s

theorem abortedHandleFree_idle {s : State} {p : Nat} (q : Nat) (h : outIdle (getPod s p)) : doAbortedHandleFree p q s = s := by
  have hq : hqOk (hqOf (getPod s p) q) = true ∧ (hqOf (getPod s p) q).items = [] := by
    unfold hqOf
    split
    · exact ⟨h.ok0, h.none0⟩
    · split
      · exact ⟨h.ok1, h.none1⟩
      · exact ⟨h.ok2, h.none2⟩
  unfold doAbortedHandleFree
  split
  · rw [withHq_ok _ hq.1, headHandle_empty hq.2]
  · rfl

theorem latchRowFill_idle {s : State} {p : Nat} (h : outIdle (getPod s p)) : doLatchRowFill p s = s := by
  unfold doLatchRowFill
  split
  · rfl
  · rw [withHq_ok _ (by exact h.ok1), headHandle_empty (by exact h.none1)]

theorem foldPassStart_idle {s : State} {p : Nat} (h : outIdle (getPod s p)) : doFoldPassStart p s = s := by
  have hready : passReady s p = false := by
    unfold passReady
    dsimp only
    rw [h.shadow]
    rfl
  unfold doFoldPassStart
  dsimp only
  rw [if_pos (by simp [hready])]

theorem foldCapture_idle {s : State} {p : Nat} (h : outIdle (getPod s p)) : doFoldCapture p s = s := by
  unfold doFoldCapture
  rw [withHq_ok _ (by exact h.ok2)]
  dsimp only
  rw [if_pos (by simp [h.still])]

theorem outStep_idle {s : State} {p : Nat} {i : Instr} (hi : outStepOf p i) (h : outIdle (getPod s p)) : pipeExec i s = s := by
  cases i
  case abortedHandleFree q n => obtain rfl : q = p := hi; exact abortedHandleFree_idle n h
  case exportRow q => obtain rfl : q = p := hi; exact exportNext_idle false h
  case tileAdd q => obtain rfl : q = p := hi; exact exportNext_idle true h
  case latchRowFill q => obtain rfl : q = p := hi; exact latchRowFill_idle h
  case foldPassStart q => obtain rfl : q = p := hi; exact foldPassStart_idle h
  case foldCapture q => obtain rfl : q = p := hi; exact foldCapture_idle h
  all_goals exact hi.elim

/-- The steps that a Pod's handles and its Fold Unit may take (the Pod's part of `outSteps`). -/
def outStepsOf (p : Nat) (x : Pod) : List Instr :=
  let n := x.hq1.items.length + x.hq2.items.length
  [List.replicate x.hq0.items.length (Instr.abortedHandleFree p 0), List.replicate n (Instr.exportRow p),
   List.replicate n (Instr.tileAdd p), List.replicate x.hq1.items.length (Instr.abortedHandleFree p 1),
   List.replicate x.hq2.items.length (Instr.abortedHandleFree p 2), List.replicate x.hq1.items.length (Instr.latchRowFill p),
   [Instr.foldPassStart p, Instr.foldCapture p]].flatten

theorem outSteps_eq (s : State) : outSteps s = (activePods s).flatMap (fun p => outStepsOf p (getPod s p)) := rfl

theorem outStepsOf_steps (p : Nat) (x : Pod) : ∀ i ∈ outStepsOf p x, outStepOf p i := by
  intro i hi
  simp only [outStepsOf, List.flatten_cons, List.flatten_nil, List.mem_append, List.mem_replicate, List.mem_cons, List.not_mem_nil,
    or_false] at hi
  rcases hi with ⟨-, rfl⟩ | ⟨-, rfl⟩ | ⟨-, rfl⟩ | ⟨-, rfl⟩ | ⟨-, rfl⟩ | ⟨-, rfl⟩ | rfl | rfl
  all_goals rfl

/-- With one handle in its two queues to the export, a Pod first exports. -/
theorem outStepsOf_one {x : Pod} (p : Nat) (h0 : x.hq0.items = []) (h : x.hq1.items.length + x.hq2.items.length = 1) :
    ∃ is, outStepsOf p x = .exportRow p :: is ∧ ∀ i ∈ is, outStepOf p i := by
  have hall := outStepsOf_steps p x
  unfold outStepsOf at hall ⊢
  dsimp only at hall ⊢
  rw [h0, h] at hall ⊢
  exact ⟨_, rfl, fun i hi => hall i (List.mem_cons_of_mem _ hi)⟩

theorem activePods_nodup (s : State) : (activePods s).Nodup := List.Nodup.filter _ (by decide)

/-- The steps of several Pods that have no work. -/
theorem runSteps_pods {ps : List Nat} {s v : State} (h : ∀ p ∈ ps, outIdle (getPod v p)) :
    runSteps (ps.flatMap (fun p => outStepsOf p (getPod s p))) v = v := by
  refine runSteps_idle fun i hi => ?_
  obtain ⟨p, hp, hi⟩ := List.mem_flatMap.mp hi
  exact outStep_idle (outStepsOf_steps p _ i hi) (h p hp)

/-- The stage of the handles exports the one handle that there is. -/
theorem outSteps_one {s v : State} {pod : Nat} (hpod : pod ∈ activePods s) (h0 : (getPod s pod).hq0.items = [])
    (hone : (getPod s pod).hq1.items.length + (getPod s pod).hq2.items.length = 1) (hothers : ∀ p, p ≠ pod → outIdle (getPod s p))
    (hv : exportNext pod false s = v) (hidle : ∀ p, outIdle (getPod v p)) : runSteps (outSteps s) s = v := by
  obtain ⟨xs, ys, hsplit⟩ := List.append_of_mem hpod
  have hnd := activePods_nodup s
  rw [hsplit] at hnd
  have hxs (p : Nat) (hp : p ∈ xs) : p ≠ pod := by
    rintro rfl
    exact (List.nodup_append.mp hnd).2.2 _ hp _ (List.mem_cons_self ..) rfl
  obtain ⟨is, hfirst, hrest⟩ := outStepsOf_one pod h0 hone
  rw [outSteps_eq, hsplit, List.flatMap_append, List.flatMap_cons, hfirst, runSteps_append,
    runSteps_pods (fun p hp => hothers p (hxs p hp)), List.cons_append, runSteps_cons, runSteps_append,
    show pipeExec (.exportRow pod) s = v from hv, runSteps_idle (fun i hi => outStep_idle (hrest i hi) (hidle pod)),
    runSteps_pods (fun p _ => hidle p)]

/-! ### A round with nothing to gather -/

/-- The stages before the handles. -/
def gatherStages : List (State → List Instr) :=
  [streamSteps, startSteps, indexSteps, releaseSteps, issueSteps, returnSteps, arriveSteps, poolSteps]

theorem eachPod_nil {s : State} {f : Nat → Pod → List Instr} (h : ∀ p, f p (getPod s p) = []) : onEachPod s f = [] :=
  List.flatMap_eq_nil_iff.mpr fun p _ => h p

theorem gatherStages_none {s : State} {f : Nat → Prop} (hidle : podsIdleBut f s) (hstreams : streamSteps s = [])
    (hstarted : ∀ p, startList s p = []) (hmisses : s.cat.misses = []) : ∀ g ∈ gatherStages, g s = [] := by
  intro g hg
  have hbags (p : Nat) : (getPod s p).bags = [] := (hidle p).1
  have hreads (p : Nat) : (getPod s p).reads = [] := (hidle p).2.1
  simp only [gatherStages, List.mem_cons, List.not_mem_nil, or_false] at hg
  rcases hg with rfl | rfl | rfl | rfl | rfl | rfl | rfl | rfl
  · exact hstreams
  · exact eachPod_nil fun p => by rw [hstarted]; rfl
  · exact eachPod_nil fun p => by rw [hbags]; rfl
  · unfold releaseSteps
    rw [hmisses, eachPod_nil fun p => by rw [hbags]; rfl]
    rfl
  · exact eachPod_nil fun p => by rw [hreads]; rfl
  · refine eachPod_nil fun p => ?_
    obtain ⟨-, -, hslips, hweed, -⟩ := hidle p
    rw [hslips, if_neg (by omega)]
    rfl
  · refine eachPod_nil fun p => ?_
    obtain ⟨-, -, -, -, -, hask, -⟩ := hidle p
    rw [hreads, hask, cbInUse, hbags]
    rfl
  · exact eachPod_nil fun p => by rw [hbags]; rfl

theorem stages_idle {s : State} {fs : List (State → List Instr)} (h : ∀ g ∈ fs, runSteps (g s) s = s) :
    fs.foldl (fun s f => runSteps (f s) s) s = s := by
  induction fs with
  | nil => rfl
  | cons f fs ih =>
    rw [List.foldl_cons, h f (List.mem_cons_self ..)]
    exact ih fun g hg => h g (List.mem_cons_of_mem f hg)

/-- The stages of a round from the handles on. -/
theorem runRound_gathered {s : State} {f : Nat → Prop} (hidle : podsIdleBut f s) (hstreams : streamSteps s = [])
    (hstarted : ∀ p, startList s p = []) (hmisses : s.cat.misses = []) : runRound s =
      [outSteps, windowSteps, combineSteps, packSteps, sendSteps].foldl (fun s f => runSteps (f s) s) s := by
  have hnone := gatherStages_none hidle hstreams hstarted hmisses
  show (gatherStages ++ [outSteps, windowSteps, combineSteps, packSteps, sendSteps]).foldl (fun s f => runSteps (f s) s) s = _
  rw [List.foldl_append, stages_idle (fs := gatherStages) fun g hg => by rw [hnone g hg]; rfl]

theorem startList_started {s : State} {k : Task} (htasks : s.cfe.tasks = [k]) (h : ∀ x ∈ k.deals, x.started = true) (p : Nat) :
    startList s p = [] := by
  unfold startList
  rw [htasks]
  refine List.flatMap_eq_nil_iff.mpr fun j hj => ?_
  obtain rfl : j = k := List.mem_singleton.mp (List.mem_filter.mp hj).1
  rw [List.map_eq_nil_iff, List.filter_eq_nil_iff]
  intro x hx
  simp [h x hx]

/-- The numbers of the tasks. -/
def taskIds (s : State) : List Nat := s.cfe.tasks.map (·.id)

theorem bagTasks_over {s : State} {n : Nat} (hids : ∀ i ∈ taskIds s, i = n) (hover : goesOn s n = false) : bagTasks s = [] := by
  refine List.filter_eq_nil_iff.mpr fun k hk => ?_
  rw [hids k.id (List.mem_map_of_mem hk), hover]
  simp

/-- A round that exports the last handle and ends its task. -/
theorem runRound_exports {s v : State} {k : Task} {pod : Nat} {h : Handle} (hlast : lastWork s k pod h) (htasks : s.cfe.tasks = [k])
    (hone : (getPod s pod).hq1.items.length + (getPod s pod).hq2.items.length = 1) (hv : exportNext pod false s = v)
    (hidle : ∀ p, outIdle (getPod v p)) (hcomb : ∀ p, (getPod v p).combIn = []) (hids : taskIds v = taskIds s)
    (hover : goesOn v k.id = false) (hring : v.upu.ring = s.upu.ring) : runRound s = v := by
  obtain ⟨hbut, hpod, -, ⟨x, hdeals, -, -, hstarted⟩, hstreams, hmisses, hringS, -⟩ := hlast
  have hstart (p : Nat) : startList s p = [] := startList_started htasks (by rw [hdeals]; simpa using hstarted) p
  rw [runRound_gathered hbut hstreams hstart hmisses, List.foldl_cons, outSteps_one hpod (hbut pod).2.2.2.2.2.2.2.2.1 hone ?_ hv hidle]
  · have htask : bagTasks v = [] := bagTasks_over (n := k.id) (by rw [hids, taskIds, htasks]; simp) hover
    refine stages_idle fun g hg => ?_
    have hnone : g v = [] := by
      simp only [List.mem_cons, List.not_mem_nil, or_false] at hg
      rcases hg with rfl | rfl | rfl | rfl
      · unfold windowSteps; rw [htask]; rfl
      · exact eachPod_nil fun p => by rw [hcomb]; rfl
      · unfold packSteps; rw [htask]; rfl
      · unfold sendSteps; rw [hring, hringS]; rfl
    rw [hnone]
    rfl
  · intro p hp
    obtain ⟨-, -, -, -, -, -, hshadow, hstill, h0, ok0, ok1, ok2, hnone⟩ := hbut p
    obtain ⟨h1, h2⟩ := hnone hp
    exact ⟨h0, h1, h2, ok0, ok1, ok2, hshadow, hstill⟩

/-- Rounds end with the task. -/
theorem drive_ends {n m : Nat} {s v : State} (hm : 2 ≤ m) (hruns : stillRuns s n = true) (hround : runRound s = v)
    (hnew : sameWork s v = false) (hends : stillRuns v n = false) : drive n m s = v := by
  obtain ⟨m, rfl⟩ : ∃ j, m = j + 2 := ⟨m - 2, by omega⟩
  unfold drive
  dsimp only
  rw [hruns, hround, hnew]
  unfold drive
  rw [hends]
  rfl

/-! ### The last row or block leaves -/

theorem taskIds_mod {n : Nat} {f : Task → Task} (s : State) (hf : ∀ k, (f k).id = k.id) : taskIds (modTask n f s) = taskIds s := by
  show (s.cfe.tasks.map _).map _ = _
  rw [List.map_map]
  refine List.map_congr_left fun k _ => ?_
  dsimp only [Function.comp]
  split
  · exact hf k
  · rfl

theorem taskIds_finishTask (n : Nat) (s : State) : taskIds (finishTask n s) = taskIds s := by
  unfold finishTask
  split
  · rfl
  · exact taskIds_mod s fun _ => rfl

/-- The only bag of a task passes export: the task is finished. -/
theorem leftBag_finishes {s : State} {n bag : Nat} {k : Task} {x : Deal} (hk : getTask s n = some k) (hphase : k.phase = .admitted)
    (hdeals : k.deals = [x]) (hbag : x.bag = bag) : ∃ j, getTask (leftBag n bag s) n = some j ∧ j.phase = .finished ∧ j.err = k.err ∧
      taskIds (leftBag n bag s) = taskIds s := by
  generalize hu : modDeal n bag (fun x => { x with passedX := true }) s = u
  have hku : getTask u n = some { k with deals := [{ x with passedX := true }] } := by
    subst hu
    have h := getTask_mod_same (fun k => { k with deals := k.deals.map (fun x => if x.bag = bag then { x with passedX := true } else x) })
      hk (fun _ => rfl)
    simp only [hdeals, List.map_cons, List.map_nil, if_pos hbag] at h
    exact h
  have hids : taskIds u = taskIds s := by subst hu; exact taskIds_mod s fun _ => rfl
  have hdone : leftBag n bag s = finishTask n u := by
    unfold leftBag finishIfDone
    rw [hu, hku]
    dsimp only
    rw [if_pos (by simp [hphase])]
  obtain ⟨htask, -⟩ := finishTask_finishes hku
  rw [hdone]
  exact ⟨_, htask, rfl, rfl, (taskIds_finishTask n u).trans hids⟩

/-- What the work of the handles and of the Fold Unit reads of a Pod: all but its carrels, its Stacks and its unread captures. -/
theorem outIdle_popped {s : State} {pod q : Nat} {h : Handle} (hidle : podsIdleBut (fun p => p = pod) s)
    (hq : q = 1 ∧ (getPod s pod).hq1.items = [h] ∧ (getPod s pod).hq2.items = [] ∨
      q = 2 ∧ (getPod s pod).hq2.items = [h] ∧ (getPod s pod).hq1.items = []) (p : Nat) : outIdle (getPod (popHandle pod q s) p) ∧
    (getPod (popHandle pod q s) p).combIn = [] := by
  obtain ⟨-, -, -, -, hcomb, -, hshadow, hstill, h0, ok0, ok1, ok2, hnone⟩ := hidle p
  have hokPop (x : HQueue) (h : hqOk x = true) : hqOk (hqPop x) = true := by
    unfold hqOk at h ⊢
    rw [Bool.and_eq_true] at h ⊢
    exact ⟨by simp [hqPop, ptrOk, ptr], h.2⟩
  rw [getPod_popHandle]
  by_cases hp : p = pod
  · subst hp
    rw [if_pos rfl]
    rcases hq with ⟨rfl, h1, h2⟩ | ⟨rfl, h2, h1⟩
    · exact ⟨⟨h0, congrArg List.tail h1, h2, ok0, hokPop _ ok1, ok2, hshadow, hstill⟩, hcomb⟩
    · exact ⟨⟨h0, h1, congrArg List.tail h2, ok0, ok1, hokPop _ ok2, hshadow, hstill⟩, hcomb⟩
  · rw [if_neg hp]
    obtain ⟨h1, h2⟩ := hnone hp
    exact ⟨⟨h0, h1, h2, ok0, ok1, ok2, hshadow, hstill⟩, hcomb⟩

/-- What the handles' steps read of a Pod. -/
def outPart (p : Pod) : HQueue × HQueue × HQueue × List Latch × Bool × List (Nat × RowGrad) :=
  (p.hq0, p.hq1, p.hq2, p.flu.shadow, p.flu.running, p.combIn)

theorem outIdle_congr {p q : Pod} (h : outPart p = outPart q) (hq : outIdle q ∧ q.combIn = []) : outIdle p ∧ p.combIn = [] := by
  simp only [outPart, Prod.mk.injEq] at h
  obtain ⟨e0, e1, e2, eshadow, estill, ecomb⟩ := h
  obtain ⟨⟨h0, h1, h2, ok0, ok1, ok2, hshadow, hstill⟩, hcomb⟩ := hq
  exact ⟨⟨by rw [e0, h0], by rw [e1, h1], by rw [e2, h2], by rw [e0, ok0], by rw [e1, ok1], by rw [e2, ok2], by rw [eshadow, hshadow],
    by rw [estill, hstill]⟩, by rw [ecomb, hcomb]⟩

theorem outPart_modPod {pod : Nat} {f : Pod → Pod} (s : State) (hf : ∀ x, outPart (f x) = outPart x) (p : Nat) :
    outPart (getPod (modPod pod f s) p) = outPart (getPod s p) := by
  by_cases hp : p = pod
  · subst hp; rw [getPod_mod_same, hf]
  · rw [getPod_mod_other _ _ hp]

theorem outPart_popped {x y : Pod} (h : outPart x = outPart y) : outPart (handlePopped 2 x) = outPart (handlePopped 2 y) := by
  simp only [outPart, Prod.mk.injEq] at h
  obtain ⟨e0, e1, e2, eshadow, estill, ecomb⟩ := h
  show (x.hq0, x.hq1, hqPop x.hq2, x.flu.shadow, x.flu.running, x.combIn) = (y.hq0, y.hq1, hqPop y.hq2, y.flu.shadow, y.flu.running, y.combIn)
  rw [e0, e1, e2, eshadow, estill, ecomb]

theorem outPart_rowOut (k : Task) (w : Nat) (e : Exported) (s : State) (p : Nat) :
    outPart (getPod (rowOut k w e s) p) = outPart (getPod s p) := (congrArg outPart (rowOut_pods k w e s p) :)

theorem getPod_leftBag (n bag : Nat) (s : State) : getPod (leftBag n bag s) = getPod s := by
  funext p
  unfold getPod
  rw [(sharedRest (leftBag_rest n bag s)).2.2.1]

theorem upu_leftBag (n bag : Nat) (s : State) : (leftBag n bag s).upu = s.upu := (sharedRest (leftBag_rest n bag s)).2.1

/-- An exported row counts in its task. -/
theorem rowOut_task {k : Task} {s : State} (w : Nat) (e : Exported) (hk : getTask s k.id = some k) :
    getTask (rowOut k w e s) k.id = some { k with sats := k.sats + e.sats } ∧ taskIds (rowOut k w e s) = taskIds s ∧
    (rowOut k w e s).upu = s.upu := by
  obtain ⟨hku, hupu⟩ := countExport_task (outNarrow (dOutFmt k.desc)) e hk
  have hids : taskIds (countExport k.id (outNarrow (dOutFmt k.desc)) e s) = taskIds s := by
    unfold countExport taskIds
    dsimp only
    rw [show ∀ (f : Gau → Gau) (u : State), (onGau f u).cfe = u.cfe from fun _ _ => rfl, (odCount_keeps ..).1, (odCount_keeps ..).1]
    exact taskIds_mod s fun _ => rfl
  have htasks : (rowOut k w e s).cfe.tasks = (countExport k.id (outNarrow (dOutFmt k.desc)) e s).cfe.tasks := quiet_tasksOf.storeAw ..
  refine ⟨(getTask_congr htasks _).trans hku, ?_, ?_⟩
  · unfold taskIds at hids ⊢
    rw [htasks, hids]
  · exact (storeAw_holds (P := fun t => t.upu = _) (keeps_upu _ _) (keeps_upu _ _) (keeps_upu _ _) (keeps_upu _ _) (keeps_upu _ _)
      (keeps_upu _ _) _ _ _ rfl).trans hupu

/-- What the end of a whole task says of it. -/
def taskOver (s v : State) (n : Nat) : Prop :=
  (∃ j, getTask v n = some j ∧ j.phase = .finished ∧ j.err = none) ∧ taskIds v = taskIds s ∧ v.upu = s.upu ∧
  ∀ p, outIdle (getPod v p) ∧ (getPod v p).combIn = []

/-- The last row of a LOOKUP leaves. -/
theorem rowLeft_over {s : State} {k : Task} {pod w : Nat} {h : Handle} {x : Deal} (e : Exported) (hk : getTask s k.id = some k)
    (hphase : k.phase = .admitted) (herr : k.err = none) (hdeals : k.deals = [x]) (hbag : x.bag = h.block) (hcarrels : h.carrels ≠ 0)
    (hidle : podsIdleBut (fun p => p = pod) s) (h1 : (getPod s pod).hq1.items = [h]) (h2 : (getPod s pod).hq2.items = []) :
    taskOver s (rowLeft k pod h (rowOut k w e (popHandle pod 1 s))) k.id := by
  obtain ⟨hku, hids, hupu⟩ := rowOut_task (s := popHandle pod 1 s) w e hk
  have hpods (p : Nat) := outPart_rowOut k w e (popHandle pod 1 s) p
  generalize rowOut k w e (popHandle pod 1 s) = u at hku hids hupu hpods
  unfold rowLeft
  rw [if_neg hcarrels]
  obtain ⟨j, hj, hfin, herrj, hidsj⟩ := leftBag_finishes (s := freeCarrels pod h.carrel h.carrels u) (bag := h.block) hku hphase hdeals hbag
  refine ⟨⟨j, hj, hfin, herrj.trans herr⟩, hidsj.trans hids, (upu_leftBag ..).trans hupu, fun p => ?_⟩
  rw [getPod_leftBag]
  refine outIdle_congr ?_ (outIdle_popped hidle (.inl ⟨rfl, h1, h2⟩) p)
  exact (outPart_modPod u (fun _ => by rfl) p).trans (hpods p)

/-- The last block of a LOOKUP_FOLD leaves. -/
theorem blockLeft_over {s : State} {k : Task} {pod w : Nat} {h : Handle} {x : Deal} (e : Exported) (hk : getTask s k.id = some k)
    (hphase : k.phase = .admitted) (herr : k.err = none) (hdeals : k.deals = [x]) (hbag : x.bag = h.bag)
    (hlast : h.block + 1 = foldBlocks (dFoldN k.desc)) (hidle : podsIdleBut (fun p => p = pod) s)
    (h1 : (getPod s pod).hq1.items = []) (h2 : (getPod s pod).hq2.items = [h]) :
    taskOver s (blockLeft k pod h (rowOut k w e s)) k.id := by
  obtain ⟨hku, hids, hupu⟩ := rowOut_task w e hk
  have hpods (p : Nat) := outPart_rowOut k w e s p
  generalize rowOut k w e s = u at hku hids hupu hpods
  unfold blockLeft
  dsimp only
  rw [if_pos hlast]
  generalize hv : modDeal k.id h.bag (fun x => { x with blocks := x.blocks + 1 })
    (modPod pod (fun p => { p with flu := { p.flu with unread := p.flu.unread - 1 } }) (popHandle pod 2 u)) = v
  have hkv : getTask v k.id = some { k with sats := k.sats + e.sats, deals := [{ x with blocks := x.blocks + 1 }] } := by
    subst hv
    have h := getTask_mod_same (s := modPod pod (fun p => { p with flu := { p.flu with unread := p.flu.unread - 1 } }) (popHandle pod 2 u))
      (fun k => { k with deals := k.deals.map (fun x => if x.bag = h.bag then { x with blocks := x.blocks + 1 } else x) })
      hku (fun _ => rfl)
    simp only [hdeals, List.map_cons, List.map_nil, if_pos hbag] at h
    exact h
  have hidsv : taskIds v = taskIds s := by subst hv; exact (taskIds_mod _ fun _ => by rfl).trans hids
  have hupuv : v.upu = s.upu := by subst hv; exact hupu
  obtain ⟨j, hj, hfin, herrj, hidsj⟩ := leftBag_finishes (bag := h.bag) hkv hphase rfl hbag
  refine ⟨⟨j, hj, hfin, herrj.trans herr⟩, hidsj.trans hidsv, (upu_leftBag ..).trans hupuv, fun p => ?_⟩
  rw [getPod_leftBag]
  refine outIdle_congr ?_ (outIdle_popped hidle (.inr ⟨rfl, h2, h1⟩) p)
  have hmod : outPart (getPod v p) = outPart (getPod (popHandle pod 2 u) p) := by
    subst hv
    show outPart (getPod (modPod pod (fun p => { p with flu := { p.flu with unread := p.flu.unread - 1 } }) (popHandle pod 2 u)) p) = _
    exact outPart_modPod (popHandle pod 2 u) (fun _ => by rfl) p
  rw [hmod, getPod_popHandle, getPod_popHandle]
  split
  · exact outPart_popped (hpods p)
  · exact hpods p

/-- A task that a round ends is done with that round. -/
theorem runTask_ends {s v : State} {n op : Nat} {k : Task} (hlive : liveTask s n op = some k) (hheld : wordsHeld s k.desc = false)
    (hphase : k.phase = .admitted) (herr : k.err = none) (hrel : k.released = false) (hround : runRound s = v)
    (hnew : sameWork s v = false) (hends : stillRuns v n = false) : runTask n op s = v := by
  obtain ⟨hk, -⟩ := liveTask_some hlive
  have hruns : stillRuns s n = true := by
    unfold stillRuns
    rw [hk]
    simp [goesOn_admitted hk hphase herr, hrel]
  unfold runTask
  rw [hlive]
  dsimp only
  rw [if_neg (by simp [hheld])]
  exact drive_ends (by decide) hruns hround hnew hends

theorem goesOn_finished {s : State} {n : Nat} {j : Task} (hj : getTask s n = some j) (hfin : j.phase = .finished) : goesOn s n = false := by
  unfold goesOn
  rw [hj]
  simp [hfin]

/-- A task that a round finishes is done with that round. -/
theorem runTask_finishes {s v : State} {n op : Nat} {j k : Task} (hlive : liveTask s n op = some k) (hheld : wordsHeld s k.desc = false)
    (hphase : k.phase = .admitted) (herr : k.err = none) (hrel : k.released = false) (hround : runRound s = v)
    (hj : getTask v n = some j) (hfin : j.phase = .finished) : runTask n op s = v := by
  obtain ⟨hk, -⟩ := liveTask_some hlive
  have hends : stillRuns v n = false := by
    unfold stillRuns
    rw [hj]
    simp [goesOn_finished hj hfin]
  have hnew : sameWork s v = false := by
    rw [Bool.eq_false_iff]
    intro hsame
    have hcfe : s.cfe = v.cfe := by
      simp only [sameWork, Bool.and_eq_true, decide_eq_true_eq] at hsame
      exact hsame.1.1.1.2
    have heq : some j = some k := hj.symm.trans ((getTask_congr (congrArg Cfe.tasks hcfe.symm) n).trans hk)
    rw [Option.some.inj heq, hphase] at hfin
    cases hfin
  exact runTask_ends hlive hheld hphase herr hrel hround hnew hends

/-- A round in which the last handle's step ends its task. -/
theorem runRound_over {s v : State} {k : Task} {pod : Nat} {h : Handle} (hlast : lastWork s k pod h) (htasks : s.cfe.tasks = [k])
    (hone : (getPod s pod).hq1.items.length + (getPod s pod).hq2.items.length = 1) (hv : exportNext pod false s = v)
    (hover : taskOver s v k.id) : runRound s = v := by
  obtain ⟨⟨j, hj, hfin, -⟩, hids, hupu, hidle⟩ := hover
  refine runRound_exports hlast htasks hone hv (fun p => (hidle p).1) (fun p => (hidle p).2) hids ?_ (congrArg Upu.ring hupu)
  exact goesOn_finished hj hfin

/-! ### The last parcel of an UPDATE -/

theorem bitsOf_phSet_other {h : BitVec 256} {hi lo x a b : Nat} (hout : a < lo ∨ hi < b) (ha : a < 256) :
    bitsOf (phSet h hi lo x).toNat a b = bitsOf h.toNat a b := by
  rw [phSet, BitVec.toNat_ofNat, ← bitsOf_setBits_other (v := h.toNat) (x := x) hout]
  apply Nat.eq_of_testBit_eq
  intro j
  rw [testBit_bitsOf, testBit_bitsOf, Nat.testBit_mod_two_pow]
  by_cases hj : j < a + 1 - b
  · rw [decide_eq_true (show b + j < 256 by omega), Bool.true_and]
  · simp [hj]

theorem phOwner_numbered (s : State) (p : Parcel) : phOwner (numbered s p).hdr = phOwner p.hdr :=
  bitsOf_phSet_other (.inr (by decide)) (by decide)

theorem epochOlder_irrefl (e : Nat) : epochOlder e e = false := by
  unfold epochOlder
  simp only [Bool.and_eq_false_iff, decide_eq_false_iff_not]
  omega

theorem length_leBytes_eq (n v : Nat) : (leBytes n v).length = n := by
  induction n generalizing v with
  | zero => rfl
  | succ n ih => exact congrArg Nat.succ (ih _)

theorem length_sliceBytes_eq (n : Nat) (bs : List Byte) : (sliceBytes 0 n bs).length = n := by
  unfold sliceBytes
  dsimp only
  rw [List.length_append, List.length_replicate, List.length_take]
  omega

theorem length_parcelBytes (p : Parcel) : (parcelBytes p).length = parcelSize p := by
  unfold parcelBytes parcelSize sumOf
  rw [List.length_append, length_leBytes_eq, List.length_flatMap, List.sum_eq_foldl]
  refine congrArg (fun xs => 32 + List.foldl (· + ·) 0 xs) (List.map_congr_left fun e _ => ?_)
  unfold entryBytes
  rw [List.length_append, length_leBytes_eq, length_sliceBytes_eq]

/-- A task whose parcels are complete closes no window. -/
theorem updateWindowClose_closed {s : State} {n pod : Nat} {k : Task} (hk : getTask s n = some k) (hpod : pod ∈ podNums)
    (hclosed : windowsDone s k = true) : doUpdateWindowClose pod n s = s := by
  have hopen : podOpen s k pod = false := by
    have h := List.all_eq_true.mp hclosed pod hpod
    simpa using h
  unfold doUpdateWindowClose
  cases hlive : liveTask s n opUpdate with
  | none => rfl
  | some j =>
    obtain ⟨hj, -⟩ := liveTask_some hlive
    obtain rfl : j = k := Option.some.inj (hj.symm.trans hk)
    dsimp only
    rw [if_pos (by simp [hopen])]

/-- The release of a task's one parcel, whatever becomes of its bytes in GDDR7. -/
structure releasedOne (n : Nat) (p : Parcel) (k : Task) (s u : State) : Prop where
  task : getTask u n = some { k with released := true, unacked := 1, pendingParcels := [], finishFolio := some (folio s) }
  upu : u.upu = upuRetained n p s
  sfp : u.sfp = s.sfp
  fsu : u.fsu = s.fsu
  cru : u.cru = s.cru
  host : u.mem.host = s.mem.host
  od : ∀ e, e ≠ odUpuParcelsSent → e ≠ odUpuRetainedBytes → odGet u e = odGet s e

theorem releaseTask_releases {s : State} {k : Task} {p : Parcel} (hk : getTask s k.id = some k) (hp : k.pendingParcels = [p])
    (hr : k.resids = []) (htwin : twinOpen s = false) : releasedOne k.id p k s (releaseTask k s) := by
  have hcru : (releaseTask k s).cru = s.cru := releaseTask_holds (P := fun t => t.cru = s.cru) (keeps_cru s _) (keeps_cru s _)
    (keeps_cru s _) (keeps_cru s _) (keeps_cru s _) (keeps_cru s _) (keeps_cru s _) _ rfl
  have hhost : (releaseTask k s).mem.host = s.mem.host := releaseTask_holds (P := fun t => t.mem.host = s.mem.host) (keeps_host s _)
    (keeps_host s _) (keeps_host s _) (keeps_host s _) (keeps_host s _) (keeps_host s _) (keeps_host s _) _ rfl
  rw [releaseTask_one hp hr] at hcru hhost ⊢
  obtain ⟨hupu, hcfe, hfsu, hod, hsfp, -⟩ := retain_frame k.id p htwin
  generalize retain k.id none p s = u at hcru hhost hupu hcfe hfsu hod hsfp
  have hcount (e : Nat) (he : e ≠ odUpuParcelsSent) : odGet (odCount odUpuParcelsSent 1 u) e = odGet s e :=
    (odGet_count_other 1 u he).trans (odGet_congr hod e)
  obtain ⟨f, hf⟩ := odCount_on odUpuParcelsSent 1 u
  rw [hf] at hcru hhost hcount ⊢
  have hku : getTask (onOd f u) k.id = some k := (getTask_congr (congrArg Cfe.tasks hcfe) _).trans hk
  have hfolio : folio (onOd f u) = folio s := congrArg Fsu.folio hfsu
  have hkept : releasedTask (folio (onOd f u)) 1 k =
      { k with released := true, unacked := 1, pendingParcels := [], finishFolio := some (folio s) } := by
    unfold releasedTask
    rw [hfolio, ← hr]
  have htask := getTask_mod_same (releasedTask (folio (onOd f u)) 1) hku (fun _ => rfl)
  rw [hkept] at htask
  exact ⟨htask, hupu, hsfp, hfsu, hcru, hhost, fun e he he' => (odGet_set_other _ _ he').trans (hcount e he)⟩

/-- The parcel just released goes out. -/
theorem parcelSend_released {s u : State} {n o : Nat} {k : Task} {p : Parcel} (hu : releasedOne n p k s u) (hring : s.upu.ring = [])
    (hwaiting : s.upu.waiting = []) (ho : phOwner p.hdr = o) (hon : gated s 9 = false) (hdst : cellDst s o ≠ s.sfp.engineId)
    (hreach : reachable s (cellDst s o) = true) (htwin : twinState s ≠ 1) (hroom : cellRoom s o (cellsFor (parcelSize p))) :
    sentOne ctParcel o ((parcelBytes (numbered s p)).map (·.toNat)) s (doParcelSend o u) ∧
    (doParcelSend o u).upu = { s.upu with
      sent := tabPut o (nextSeq s o) s.upu.sent, waiting := [(o, folio s)],
      ringTail := (s.upu.ringTail + parcelSize p) % ringSize s
      ring := [(o, { ringEntry n p s with sent := true })] } ∧
    (doParcelSend o u).cfe.tasks = u.cfe.tasks ∧ (doParcelSend o u).mem.host = s.mem.host := by
  obtain ⟨-, -, -, -, -, -, -, hsend, -⟩ := updateSends
  subst ho
  obtain ⟨-, hupu, hsfp, hfsu, hcru, hhost, hod⟩ := hu
  have howner : phOwner p.hdr < 1024 := Nat.mod_lt _ (by decide)
  have hof : retainedOf u (phOwner p.hdr) = [ringEntry n p s] := by
    unfold retainedOf
    rw [hupu, upuRetained, hring]
    simp
  have hlinked : linked u = linked s := linked_congr (hod _ (by decide) (by decide)) (hod _ (by decide) (by decide))
  have hdst' : cellDst u (phOwner p.hdr) = cellDst s (phOwner p.hdr) := by unfold cellDst; rw [hsfp]
  have hreach' : reachable u (cellDst u (phOwner p.hdr)) = true := by
    rw [hdst']
    unfold reachable isMember at hreach ⊢
    rw [hlinked, hod _ (by decide) (by decide), hsfp]
    exact hreach
  have hturn : epochTurn u (ringEntry n p s).parcel = true := by
    unfold epochTurn
    rw [hupu, upuRetained, hring]
    simp [epochOlder_irrefl, ringEntry]
  obtain ⟨t, he, hsent, hupu', htasks, hhost'⟩ := hsend u (phOwner p.hdr) (ringEntry n p s) howner
    (by rw [hof]; rfl) (by unfold gated at hon ⊢; rw [hcru]; exact hon) (by rw [hof]; simp) hturn (by rw [hdst', hsfp]; exact hdst) hreach'
    (by unfold twinState at htwin ⊢; rw [hod _ (by decide) (by decide)]; exact htwin) (phOwner_numbered s p)
    (cellRoom_heard (q := s.sfp.quiet) (by rw [hsfp]) hlinked hroom)
  obtain rfl : doParcelSend (phOwner p.hdr) u = t := Host.Outcome.next.inj he
  refine ⟨sentOne_heard (q := s.sfp.quiet) (by rw [hsfp]) hsent, hupu'.trans ?_, htasks, hhost'.trans hhost⟩
  have hfolio : folio u = folio s := congrArg Fsu.folio hfsu
  rw [hupu, hfolio]
  unfold upuRetained
  rw [hring, hwaiting, length_parcelBytes]
  simp [tabFind, tabPut, ringEntry]
  rfl

/-- A round in which an UPDATE releases its one parcel and sends it. -/
theorem runRound_sends {s u v : State} {n o : Nat} {k : Task} {q : Retained} (htasks : s.cfe.tasks = [k]) (hid : k.id = n)
    (hphase : k.phase = .admitted) (herr : k.err = none) (hop : dOp k.desc = opUpdate) (hidle : podsIdle s)
    (hstreams : streamSteps s = []) (hmisses : s.cat.misses = []) (hdeals : ∀ x ∈ k.deals, x = dealDone x) (hpacked : packed s k = true)
    (hu : doParcelRelease n s = u) (hring : u.upu.ring = [(o, q)]) (hunsent : q.sent = false) (ho : o < 1024)
    (hv : doParcelSend o u = v) : runRound s = v := by
  subst hid
  have hk : getTask s k.id = some k := by unfold getTask; rw [htasks]; simp
  have hon := goesOn_admitted hk hphase herr
  rw [packed, if_pos hop] at hpacked
  simp only [Bool.and_eq_true] at hpacked
  obtain ⟨⟨⟨hclosed, -⟩, hgrads⟩, -⟩ := hpacked
  have hgrads : k.grads = [] := List.isEmpty_iff.mp hgrads
  have hstart (p : Nat) : startList s p = [] :=
    startList_started htasks (fun x hx => by rw [hdeals x hx]; rfl) p
  have hbag : bagTasks s = [k] := by
    unfold bagTasks
    rw [htasks]
    simp [hon, dIsIndexed, hop]
  have hwork : (bagTasks s).filter (fun k => dOp k.desc == opUpdate) = [k] := by rw [hbag]; simp [hop]
  have hout : runSteps (outSteps s) s = s := runSteps_pods fun p _ => by
    obtain ⟨-, -, -, -, -, -, hshadow, hstill, h0, ok0, ok1, ok2, hnone⟩ := hidle p
    obtain ⟨h1, h2⟩ := hnone id
    exact ⟨h0, h1, h2, ok0, ok1, ok2, hshadow, hstill⟩
  have hwindows : runSteps (windowSteps s) s = s := by
    refine runSteps_idle fun i hi => ?_
    unfold windowSteps at hi
    rw [hwork, List.flatMap_singleton] at hi
    obtain ⟨p, hp, rfl⟩ := List.mem_map.mp hi
    exact updateWindowClose_closed hk (List.mem_filter.mp hp).1 hclosed
  have hcombine : combineSteps s = [] := eachPod_nil fun p => by
    obtain ⟨-, -, -, -, hcomb, -⟩ := hidle p
    rw [hcomb]
    rfl
  have hpack : packSteps s = [.parcelRelease k.id] := by
    unfold packSteps
    rw [hwork, List.flatMap_singleton, hgrads]
    rfl
  have hsend : sendSteps u = [.parcelSend o] := by
    unfold sendSteps
    rw [hring, List.filter_cons, if_pos (by simp [hunsent])]
    simp [Nat.mod_eq_of_lt ho, List.eraseDups_cons]
  rw [runRound_gathered hidle hstreams hstart hmisses]
  simp only [List.foldl_cons, List.foldl_nil]
  rw [hout, hwindows, hcombine, runSteps_nil, hpack, runSteps_cons, runSteps_nil, show pipeExec (.parcelRelease k.id) s = u from hu,
    hsend, runSteps_cons, runSteps_nil]
  exact hv

/-! ### A ROW_WRITE of one row (R71, R230) -/

/-- What a ROW_WRITE of one row does: its row goes, its descriptor has been used, and the task ends where nothing more is out. -/
theorem rowWrite_one {s u : State} {n : Nat} {k : Task} (hlive : liveTask s n opRowWrite = some k) (hphase : k.phase = .admitted)
    (herr : k.err = none) (hrel : k.released = false) (hheld : wordsHeld s k.desc = false) (hpos : k.copyPos = 0)
    (hone : rwCount k.desc = 1) (htakes : ∀ i ∈ rowShards s k.desc, shardRefuses s i = false) (hkey : tableKey s (dTable k.desc) = none)
    (hvia : viaLedger k = false) (hrow : writeRow k 0 s = (u, true)) : doRowWrite n s = rowsDone n (useDesc (rowIdx s k 0) u) := by
  obtain ⟨hk, -⟩ := liveTask_some hlive
  have hon := goesOn_admitted hk hphase herr
  have hnone : (rowShards s k.desc).any (shardRefuses s) = false := by
    rw [List.any_eq_false]
    intro i hi
    simp [htakes i hi]
  have hrows : writeRows n 1 s = useDesc (rowIdx s k 0) u := by
    unfold writeRows
    rw [hk]
    dsimp only
    rw [if_neg (by simp [hon, hone, hpos]), hpos, hrow]
    rfl
  unfold doRowWrite
  rw [hlive]
  dsimp only
  rw [if_neg (by simp [herr, hrel, hheld]), if_neg (by simp [hnone]), if_neg (by simp [hkey]), hone, hrows, hvia]
  rfl

/-- A row of a direct shard in its place, with the copies that this engine holds of it. -/
def rowPut (c : RowCtx) (bs : List Byte) (s : State) : State :=
  pinnedWrite c.idx c.pos (some bs) (replicaWrite (sdTable c.x) c.row bs []
    (tierStore (sdTier c.x) (rowAddr c.x (sdBase c.x) c.pos) bs .output s))

theorem twinOpen_tierStore (tier a : Nat) (bs : List Byte) (s : State) : twinOpen (tierStore tier a bs .output s) = twinOpen s := by
  unfold twinOpen twinState
  rw [tierStore_sfp, odGet_bare (odBare_tierStore tier a bs s)]

/-- A direct row of this engine's own goes into its place at once. -/
theorem putRow_direct {s : State} {c : RowCtx} {task : Option Nat} (bs : List Byte) (hdirect : sdShelved c.x = false) (hesc : sdEsc c.x = false)
    (hstate : sdState c.x ≠ 2) (hholders : holdersOf s (sdTable c.x) c.row = []) (hmove : moveOf s c.idx = none) (htwin : twinOpen s = false) :
    putRow c bs none .output task s = .done (rowPut c bs s) := by
  have hbase : writeBase s c.idx c.x = sdBase c.x := if_neg (fun h => hstate h.1)
  have hside (old : List Byte) (u : State) : sideLeft c.x old bs u = u := by
    unfold sideLeft
    rw [hesc]
    rfl
  have hmirror : mirrorRow c.idx c.x c.pos bs none (rowPut c bs s) = rowPut c bs s := by
    have hnone : moveOf (rowPut c bs s) c.idx = none := by
      unfold moveOf at hmove ⊢
      rw [show (rowPut c bs s).cat.moves = (tierStore _ _ bs .output s).cat.moves from rfl, tierStore_cat]
      exact hmove
    unfold mirrorRow mirrors
    rw [hnone]
  have hcommit (u : State) (hu : u = s) : commitDirect (sdTable c.x) c.idx c.x (sdBase c.x) c.row c.pos bs none .output u = rowPut c bs s := by
    subst hu
    unfold commitDirect
    dsimp only
    rw [toTwin_closed ((twinOpen_tierStore ..).trans htwin), if_pos (by simp)]
    exact hmirror
  unfold putRow
  dsimp only
  rw [hbase, if_neg (by simp), if_neg (by simp [hholders]), if_pos (by simp [hdirect]), hside, hcommit s rfl]

/-- The place of the first row of a ROW_WRITE. -/
def firstRow (s : State) (k : Task) : RowCtx := {
  idx := rowIdx s k 0, x := descAt s (rowIdx s k 0), row := rwRow k.desc + 0
  pos := posOf (dirAt s (dTable k.desc)) (rwRow k.desc + 0) }

/-- The first row of a ROW_WRITE that no check turns away, to a table without TRAIN: written here, or sent to its home. -/
theorem writeRow_first {s : State} {k : Task} {x : BitVec 512} {bs : List Byte} (hx : descAt s (rowIdx s k 0) = x)
    (hvalid : deValid (dirAt s (dTable k.desc)) = true) (htable : sdTable x = dTable k.desc)
    (hlevel : sdTableLevel x = sdTableLevel k.shard0) (hesc : sdEsc x = false) (htrain : sdTrain x = false)
    (hbs : rowOfTask s k 0 = .row bs) : writeRow k 0 s =
      if homedHere s x then
        (if (sdTier x = 1 ∨ rowSlotTier s x (writeBase s (firstRow s k).idx x) (firstRow s k).pos = 1) ∧ hostHeld s then (s, false)
          else writeHere k 0 (firstRow s k) bs s)
      else (writeThere k (firstRow s k) bs s, true) := by
  unfold writeRow
  dsimp only
  rw [hx, if_neg (by simpa [hvalid] using htable), if_neg (by simpa using hlevel), hbs]
  dsimp only
  rw [if_neg (by simp [hesc]), if_neg (by simp [htrain]), ← hx]
  rfl

/-- A row of this engine's own whose tier can be written. -/
theorem writeRow_here {s : State} {k : Task} {x : BitVec 512} {bs : List Byte} (hwrite : writeRow k 0 s =
      if homedHere s x then
        (if (sdTier x = 1 ∨ rowSlotTier s x (writeBase s (firstRow s k).idx x) (firstRow s k).pos = 1) ∧ hostHeld s then (s, false)
          else writeHere k 0 (firstRow s k) bs s)
      else (writeThere k (firstRow s k) bs s, true)) (hhome : homedHere s x = true) (hdirect : sdShelved x = false)
    (hheld : sdTier x = 1 → hostHeld s = false) : writeRow k 0 s = writeHere k 0 (firstRow s k) bs s := by
  have htier : rowSlotTier s x (writeBase s (firstRow s k).idx x) (firstRow s k).pos = sdTier x := by
    unfold rowSlotTier
    rw [hdirect]
    rfl
  rw [hwrite, if_pos hhome, htier, if_neg]
  rintro ⟨h, hh⟩
  rw [hheld (h.elim id id)] at hh
  cases hh

theorem writeHere_direct {s : State} {k : Task} {c : RowCtx} {bs : List Byte} (hquant : rwQuant k.desc = false)
    (hput : putRow c bs none .output (some k.id) s = .done (rowPut c bs s)) :
    writeHere k 0 c bs s = (nextRow k.id (rowPut c bs s), true) := by
  have hready : prepRow (rowPod s k 0) c (rwQuant k.desc) (rwReplace k.desc || k.rescale) bs (some k.id) s = .ready { bytes := bs } s := by
    unfold prepRow
    rw [hquant]
    rfl
  unfold writeHere
  dsimp only
  rw [hready]
  dsimp only
  rw [hput]
  rfl

theorem rowPut_keeps (c : RowCtx) (bs : List Byte) (s : State) : (rowPut c bs s).cfe = s.cfe ∧ (rowPut c bs s).fsu = s.fsu ∧
    (rowPut c bs s).cat.pend = s.cat.pend :=
  ⟨tierStore_cfe .., tierStore_fsu .., (congrArg Cat.pend (tierStore_cat ..) :)⟩

/-- Its last row written here finishes a ROW_WRITE that has nothing else out. -/
theorem rowsDone_finishes {s : State} {n : Nat} {k : Task} (hk : getTask s n = some k) (hphase : k.phase = .admitted) (herr : k.err = none)
    (hpos : k.copyPos = rwCount k.desc) (hvia : viaLedger k = false) (hunacked : k.unacked = 0)
    (hpend : ∀ q ∈ s.cat.pend, q.task ≠ some n) : rowsDone n s = finishTask n s := by
  have hnone : s.cat.pend.any (fun w => w.task == some n) = false := by
    rw [List.any_eq_false]
    intro q hq
    simpa using hpend q hq
  unfold rowsDone
  rw [hk]
  dsimp only
  rw [if_pos (by simp [hphase, herr, hpos, hvia, hunacked, hnone])]

theorem rowsDone_waits {s : State} {n : Nat} {k : Task} (hk : getTask s n = some k) (hunacked : k.unacked ≠ 0) : rowsDone n s = s := by
  unfold rowsDone
  rw [hk]
  dsimp only
  rw [if_neg (by simp [hunacked])]

theorem viaLedger_plain {k : Task} (hop : dOp k.desc = opRowWrite) (htrain : sdTrain k.shard0 = false) : viaLedger k = false := by
  unfold viaLedger
  rw [hop, htrain]
  rfl

theorem useDesc_leaves (i : Nat) (s : State) : (useDesc i s).cfe = s.cfe ∧ (useDesc i s).fsu = s.fsu ∧ (useDesc i s).cat.pend = s.cat.pend ∧
    (useDesc i s).mem = s.mem ∧ (useDesc i s).hpt = s.hpt ∧ (useDesc i s).sfp = s.sfp := by
  obtain ⟨o, hu⟩ := useDesc_puts i s
  rw [hu]
  exact ⟨rfl, rfl, rfl, rfl, rfl, rfl⟩

/-- The row of a ROW_WRITE is in its place, and its task done. -/
theorem rowWrite_here {s : State} {k : Task} {bs : List Byte} (hlive : liveTask s k.id opRowWrite = some k) (hphase : k.phase = .admitted)
    (herr : k.err = none) (hpos : k.copyPos = 0) (hone : rwCount k.desc = 1) (hvia : viaLedger k = false) (hunacked : k.unacked = 0)
    (hpend : ∀ q ∈ s.cat.pend, q.task ≠ some k.id) (hup : chansUp s)
    (hdo : doRowWrite k.id s = rowsDone k.id (useDesc (rowIdx s k 0) (nextRow k.id (rowPut (firstRow s k) bs s)))) :
    storedTier (sdTier (firstRow s k).x) (rowAddr (firstRow s k).x (sdBase (firstRow s k).x) (firstRow s k).pos) bs s (doRowWrite k.id s) ∧
      getTask (doRowWrite k.id s) k.id = some (finishedTask (folio s) { k with copyPos := 1 }) := by
  obtain ⟨hk, -⟩ := liveTask_some hlive
  obtain ⟨hcfeU, hfsuU, hpendU, hmemU, hhptU, -⟩ := useDesc_leaves (rowIdx s k 0) (nextRow k.id (rowPut (firstRow s k) bs s))
  obtain ⟨hcfe, hfsu, hpendPut⟩ := rowPut_keeps (firstRow s k) bs s
  have hput : getTask (rowPut (firstRow s k) bs s) k.id = some k := (getTask_congr (congrArg Cfe.tasks hcfe) _).trans hk
  have hnext := getTask_mod_same (fun j => { j with copyPos := j.copyPos + 1 }) hput fun _ => rfl
  have hused := (getTask_congr (congrArg Cfe.tasks hcfeU) k.id).trans hnext
  rw [hpos] at hused
  have hno : ∀ q ∈ (useDesc (rowIdx s k 0) (nextRow k.id (rowPut (firstRow s k) bs s))).cat.pend, q.task ≠ some k.id := by
    rw [hpendU]
    exact fun q hq => hpend q (hpendPut ▸ hq)
  rw [rowsDone_finishes hused hphase herr hone.symm hvia hunacked hno] at hdo
  rw [hdo]
  refine ⟨storedTier_congr (tierStore_stored _ _ bs hup) rfl rfl ((congrArg State.mem (finishTask_rest ..)).trans hmemU)
    ((congrArg State.hpt (finishTask_rest ..)).trans hhptU), ?_⟩
  rw [(finishTask_finishes hused).1]
  unfold folio
  rw [hfsuU, show (nextRow k.id (rowPut (firstRow s k) bs s)).fsu = s.fsu from hfsu]

/-- The parcel that takes the first row of a ROW_WRITE to its home. -/
def firstParcel (s : State) (k : Task) (bs : List Byte) : Parcel :=
  parcelAdd { row := (firstRow s k).row, dflt := false, data := bs }
    { hdr := phSet (headerFor s k (sdHome (firstRow s k).x)) 223 192 k.id, entries := [] }

/-- The row of a ROW_WRITE goes to its home, and its task waits. -/
theorem rowWrite_there {s : State} {k : Task} {bs : List Byte} (hlive : liveTask s k.id opRowWrite = some k) (hpos : k.copyPos = 0)
    (hroom : cellRoom s (sdHome (firstRow s k).x) (cellsFor (parcelSize (firstParcel s k bs))))
    (hdo : doRowWrite k.id s = rowsDone k.id (useDesc (rowIdx s k 0) (writeThere k (firstRow s k) bs s))) :
    sentOne ctParcel (sdHome (firstRow s k).x) ((parcelBytes (firstParcel s k bs)).map (·.toNat)) s (doRowWrite k.id s) ∧
      getTask (doRowWrite k.id s) k.id = some { k with copyPos := 1, unacked := k.unacked + 1 } ∧
      (doRowWrite k.id s).mem.host = s.mem.host := by
  obtain ⟨hk, -⟩ := liveTask_some hlive
  obtain ⟨hcfeU, -, -, hmemU, -, hsfpU⟩ := useDesc_leaves (rowIdx s k 0) (writeThere k (firstRow s k) bs s)
  have hsent := sendCell_sent ctParcel (sdHome (firstRow s k).x) (parcelSize (firstParcel s k bs))
    ((parcelBytes (firstParcel s k bs)).map (·.toNat)) s hroom
  obtain ⟨-, htasks, hhost⟩ := sendCell_leaves ctParcel (sdHome (firstRow s k).x) (parcelSize (firstParcel s k bs))
    ((parcelBytes (firstParcel s k bs)).map (·.toNat)) s
  have hcell := (getTask_congr htasks k.id).trans hk
  have hmarked := getTask_mod_same (fun j => { j with unacked := j.unacked + 1 }) hcell fun _ => rfl
  have hnext := getTask_mod_same (fun j => { j with copyPos := j.copyPos + 1 }) hmarked fun _ => rfl
  have hused := (getTask_congr (congrArg Cfe.tasks hcfeU) k.id).trans hnext
  rw [hpos] at hused
  rw [rowsDone_waits hused (Nat.succ_ne_zero _)] at hdo
  rw [hdo]
  refine ⟨?_, hused, ?_⟩
  · unfold sentOne at hsent ⊢
    rw [hsfpU]
    exact hsent
  · rw [hmemU]
    exact hhost

/-- Settles O51: a whole task is a run of steps (`drive_run`); the round that exports the last handle (`runRound_over`) or sends the
parcel (`runRound_sends`) is the last; a ROW_WRITE writes its row here (`putRow_direct`) or sends it there. -/
theorem wholeTasks : Obligations.WholeTasks := by
  unfold Obligations.WholeTasks
  refine ⟨?pipe, ?run, ?lookup, ?fold, ?update, ?here, ?there⟩
  case pipe =>
    intro i f s h
    unfold pipeStep at h
    split at h
    all_goals cases h
    all_goals rfl
  case run =>
    intro s n op c k hc hlive hheld
    obtain ⟨is, hrun, hall, hend⟩ := drive_run n (2 ^ 64) s
    have htask : runTask n op s = drive n (2 ^ 64) s := by
      unfold runTask
      rw [hlive]
      exact if_neg (by simp [hheld])
    have hexec : exec c s = .next (runTask n op s) := by
      simp only [List.mem_cons, Prod.mk.injEq, List.not_mem_nil, or_false] at hc
      rcases hc with ⟨rfl, rfl⟩ | ⟨rfl, rfl⟩ | ⟨rfl, rfl⟩
      all_goals rfl
    exact ⟨is, drive n (2 ^ 64) s, hexec.trans (congrArg Host.Outcome.next htask), hrun, hall, hend⟩
  case lookup =>
    intro s n k pod h w bs hphase herr hrel htasks hid hlive hheld hlast hcarrels hblock h1 h2 hst hfold hto hslot hup hw hbs hacc
    subst hid
    obtain ⟨hk, -⟩ := liveTask_some hlive
    generalize he : exportRow (dOutFmt k.desc) (carrelRow s pod h.carrel (sdDim k.shard0)) = e at hbs
    subst hbs
    obtain ⟨hidle, -, hon, ⟨x, hdeals, -, hbag, -⟩, -, -, -, htask⟩ := id hlast
    have hhead : exportHead s pod 1 false = some (h, k) := exportHead_some h1 hst (.inr hfold) (by rw [htask]; exact hk) hto
    have hexport : exportNext pod false s = rowLeft k pod h (rowOut k w e (popHandle pod 1 s)) := by
      obtain ⟨-, -, -, -, -, -, -, -, -, -, ok1, ok2, -⟩ := hidle pod
      rw [exportNext_pooled hon ok1 ok2 h2 hhead (fun h => absurd h (by decide)), sendPooled_out hto hslot hw he.symm hacc]
    have hover := rowLeft_over (w := w) e hk hphase herr hdeals (hbag.trans hblock.symm) hcarrels hidle h1 h2
    have hround := runRound_over hlast htasks (by rw [h1, h2]; rfl) hexport hover
    obtain ⟨⟨j, hj, hfin, hjerr⟩, -⟩ := hover
    refine ⟨_, congrArg Host.Outcome.next (runTask_finishes hlive hheld hphase herr hrel hround hj hfin), ?_, ⟨j, hj, hfin, hjerr⟩, ?_⟩
    · have hstored : storedAt w e.bytes (some k.id) s (rowOut k w e (popHandle pod 1 s)) := rowOut_stored (s := popHandle pod 1 s) hup
      exact storedAt_congr hstored (congrArg State.mem (rowLeft_rest ..) :) (congrArg (fun u : State => u.hpt.outq) (rowLeft_rest ..) :)
    · rw [show (rowLeft k pod h (rowOut k w e (popHandle pod 1 s))).gau = _ from (congrArg State.gau (rowLeft_rest ..) :)]
      exact rowOut_exported ..
  case fold =>
    intro s n k pod h y w bs hphase herr hrel htasks hid hlive hheld hlast hbag hw' h1 h2 hst hblock hto hslot hup hy hw hbs hacc
    subst hid
    obtain ⟨hk, -⟩ := liveTask_some hlive
    subst hy
    generalize he : exportRow (dOutFmt k.desc) (foldScaled h.scale h.cols (capturedAcc s pod h.latch (blockWidth (dFoldN k.desc) h.block))) = e at hbs
    subst hbs
    obtain ⟨hidle, -, hon, ⟨x, hdeals, -, hxbag, -⟩, -, -, -, htask⟩ := id hlast
    have hhead : exportHead s pod 2 false = some (h, k) := exportHead_some h2 hst (.inl rfl) (by rw [htask]; exact hk) hto
    have hexport : exportNext pod false s = blockLeft k pod h (rowOut k w e s) := by
      obtain ⟨-, -, -, -, -, -, -, -, -, -, ok1, ok2, -⟩ := hidle pod
      rw [exportNext_folded hon ok1 ok2 hhead (fun h => absurd h (by decide))]
      unfold sendFolded
      dsimp only
      rw [sendBlock_out hto hslot rfl hw he.symm hacc]
      rfl
    have hover := blockLeft_over (w := w) e hk hphase herr hdeals (hxbag.trans hbag.symm) hblock hidle h1 h2
    have hround := runRound_over hlast htasks (by rw [h1, h2]; rfl) hexport hover
    obtain ⟨⟨j, hj, hfin, hjerr⟩, -⟩ := hover
    refine ⟨_, congrArg Host.Outcome.next (runTask_finishes hlive hheld hphase herr hrel hround hj hfin), ?_, j, hj, hfin, hjerr⟩
    exact storedAt_congr (rowOut_stored hup) (congrArg State.mem (blockLeft_rest ..) :)
      (congrArg (fun u : State => u.hpt.outq) (blockLeft_rest ..) :)
  case update =>
    intro s n k p o q hphase herr hrel htasks hid hlive hheld hidle hstreams hmisses hdeals hpacked hon hp hr hclear hroom hring hwaiting
      ho hq hdst hreach hpaired htwin hcells
    subst hid
    subst ho hq
    obtain ⟨hk, hop, -⟩ := liveTask_some hlive
    have hvia : viaLedger k = true := by unfold viaLedger; simp [hop]
    have hu := releaseTask_releases hk hp hr htwin
    rw [← parcelRelease_releases hk hphase herr hrel hvia hpacked hon hclear hroom] at hu
    obtain ⟨hsent, hupu, htasksT, hhost⟩ := parcelSend_released hu hring hwaiting rfl hon hdst hreach hpaired hcells
    have hringU : (doParcelRelease k.id s).upu.ring = [(phOwner p.hdr, ringEntry k.id p s)] := by
      rw [hu.upu, upuRetained, hring]
      rfl
    have hround := runRound_sends htasks rfl hphase herr hop hidle hstreams hmisses hdeals hpacked rfl hringU rfl (Nat.mod_lt _ (by decide)) rfl
    generalize doParcelSend (phOwner p.hdr) (doParcelRelease k.id s) = v at hsent hupu htasksT hhost hround
    have htaskV := (getTask_congr htasksT k.id).trans hu.task
    have hends : stillRuns v k.id = false := by
      unfold stillRuns
      rw [htaskV]
      simp
    have hnew : sameWork s v = false := by
      rw [Bool.eq_false_iff]
      intro hsame
      simp only [sameWork, Bool.and_eq_true, decide_eq_true_eq] at hsame
      have hno : ([] : List (Nat × Retained)) = [_] := hring.symm.trans ((congrArg Upu.ring hsame.1.2).trans (congrArg Upu.ring hupu))
      cases hno
    exact ⟨v, congrArg Host.Outcome.next (runTask_ends hlive hheld hphase herr hrel hround hnew hends), hsent, hupu, htaskV, hhost⟩
  case here =>
    intro s n k e x c bs hlive hphase herr hrel hheld hunacked hpos hone hquant htakes hkey he hc hx hvalid htable hlevel htrain0 htrain hesc
      hbs hhome hdirect hstate hhost hholders hmove hpend htwin hup
    subst he hc hx
    obtain ⟨hk, hop, -⟩ := liveTask_some hlive
    obtain rfl : k.id = n := getTask_id hk
    have hvia := viaLedger_plain hop htrain0
    have hput : putRow (firstRow s k) bs none .output (some k.id) s = .done (rowPut (firstRow s k) bs s) :=
      putRow_direct bs hdirect hesc hstate hholders hmove htwin
    have hrow := (writeRow_here (writeRow_first rfl hvalid htable hlevel hesc htrain hbs) hhome hdirect hhost).trans (writeHere_direct hquant hput)
    exact ⟨_, rfl, rowWrite_here hlive hphase herr hpos hone hvia hunacked hpend hup
      (rowWrite_one hlive hphase herr hrel hheld hpos hone htakes hkey hvia hrow)⟩
  case there =>
    intro s n k e x c bs p hlive hphase herr hrel hheld hpos hone hquant htakes hkey he hc hx hvalid htable hlevel htrain0 htrain hesc
      hbs hhome hp hroom
    subst he hc hx hp
    obtain ⟨hk, hop, -⟩ := liveTask_some hlive
    obtain rfl : k.id = n := getTask_id hk
    have hvia := viaLedger_plain hop htrain0
    have hrow := (writeRow_first rfl hvalid htable hlevel hesc htrain hbs).trans (if_neg fun h => Bool.false_ne_true (hhome.symm.trans h))
    exact ⟨_, rfl, rowWrite_there hlive hpos hroom (rowWrite_one hlive hphase herr hrel hheld hpos hone htakes hkey hvia hrow)⟩

end Sys2Proof.Machine
end

section
/-! SUPPORT. Reads of other engines' rows: a request is served and answered, and an answer reaches what waits for it
(R240, R251, R333, R336, R341). -/

namespace Sys2Proof.Machine

/-! ### A transfer under a given identifier -/

theorem sendAs_sent {xid type dst len : Nat} {fields : List Nat} {s : State} (h : cellRoom s dst (cellsFor len))
    (hc : type ≠ ctReadReq ∨ credited s (cellDst s dst) xid = true) : sentUnder xid type dst fields s (sendAs xid type dst len fields s) :=
  sendCell_sent type dst len fields (onSfp (fun f => { f with xid := xid }) s) h hc

theorem sendAs_bare (xid type dst len : Nat) (fields : List Nat) (s : State) :
    sfpBare (sendAs xid type dst len fields s).sfp = sfpBare s.sfp :=
  sendCell_bare type dst len fields (onSfp (fun f => { f with xid := xid }) s)

theorem sendAs_tasks (xid type dst len : Nat) (fields : List Nat) (s : State) :
    (sendAs xid type dst len fields s).cfe.tasks = s.cfe.tasks :=
  sendAs_holds (P := fun t => t.cfe.tasks = s.cfe.tasks) (keeps_tasks s _) (keeps_tasks s _) _ _ _ _ _ rfl

theorem sendAs_catBare (xid type dst len : Nat) (fields : List Nat) (s : State) : catBare (sendAs xid type dst len fields s) = catBare s :=
  sendAs_holds (P := fun t => catBare t = catBare s) (keeps_catBare s _) (keeps_catBare s _) _ _ _ _ _ rfl

/-! ### A READ_REQ cell is taken -/

theorem cellReplayed_marked (hdr : BitVec 128) {s t : State} (h : t.sfp.replayWin = (markCell hdr s).sfp.replayWin) :
    cellReplayed t hdr = true := by
  unfold cellReplayed
  dsimp only
  rw [h]
  unfold markCell onSfp
  dsimp only
  rw [tabGet_mod_same]
  simp

/-- From s to t the READ_REQ cell of an engine is taken and its row read: its CSEQ is marked and its source heard, no task
changes, and the ports are as they were. -/
structure cellTaken (src : Nat) (hdr : BitVec 128) (s t : State) : Prop where
  sfp : t.sfp = (hear src (markCell hdr s)).sfp
  linked : linked t = linked s
  tasks : t.cfe.tasks = s.cfe.tasks

namespace cellTaken

variable {src : Nat} {hdr : BitVec 128} {s t u : State}

theorem heard (src : Nat) (hdr : BitVec 128) (s : State) : cellTaken src hdr s (hear src (markCell hdr s)) := ⟨rfl, rfl, rfl⟩

theorem trans (h : cellTaken src hdr s t) (hsfp : u.sfp = t.sfp) (hlinked : Machine.linked u = Machine.linked t)
    (htasks : u.cfe.tasks = t.cfe.tasks) : cellTaken src hdr s u :=
  ⟨hsfp.trans h.sfp, hlinked.trans h.linked, htasks.trans h.tasks⟩

theorem room (h : cellTaken src hdr s t) {e n : Nat} (hroom : cellRoom s e n) : cellRoom t e n := by
  unfold cellRoom cellDst cseqUsed at *
  rw [h.linked, h.sfp]
  exact hroom

/-- The answer goes out, under the identifier of the request. -/
theorem sends (h : cellTaken src hdr s t) {xid type e len : Nat} {fields : List Nat} (hroom : cellRoom s e (cellsFor len))
    (hc : type ≠ ctReadReq ∨ credited t (cellDst t e) xid = true) :
    sentUnder xid type e fields s (sendAs xid type e len fields t) ∧ cellReplayed (sendAs xid type e len fields t) hdr = true ∧
      (sendAs xid type e len fields t).cfe.tasks = s.cfe.tasks := by
  refine ⟨?_, ?_, (sendAs_tasks ..).trans h.tasks⟩
  · have hsent := sendAs_sent (fields := fields) (h.room hroom) hc
    unfold sentUnder cellDst cseqUsed at *
    rw [h.sfp] at hsent
    exact hsent
  · apply cellReplayed_marked (s := s)
    have hwin : (sendAs xid type e len fields t).sfp.replayWin = t.sfp.replayWin := (congrArg Sfp.replayWin (sendAs_bare ..) :)
    rw [hwin, h.sfp]
    rfl

theorem served (h : cellTaken src hdr s t) (pod : Nat) (rs : List (Nat × Nat × Nat)) : cellTaken src hdr s (doServedReads pod rs t) := by
  have hlines : linesServed t (doServedReads pod rs t) := linesServed.forEach (fun r u hu => hu.stkRead ..) rs (.refl t)
  exact h.trans hlines.sfp hlines.linked (congrArg Cfe.tasks hlines.cfe)

end cellTaken

/-- A cell that the engine takes is answered, once its read can be served. -/
theorem readReq_answers {s : State} {hdr : BitVec 128} {body pl : List Byte} {w : Nat} {r : Served} (h : newReadReq s hdr body pl)
    (hw : w = leNat (sliceBytes 0 8 pl))
    (hr : serveRead s (bitsOf w 39 0) (bitsOf w 55 40) (bitOf w 56) (bitOf w 57) (leNat (sliceBytes 8 2 pl)) = r) (hwait : r ≠ .wait) :
    exec (.readReq hdr body) s = .next (answerRead (readerOf (bitsOf hdr.toNat 53 44) (leNat (sliceBytes 16 8 pl))) (bitsOf hdr.toNat 35 13)
      (bitsOf w 39 0) (bitsOf w 55 40) (bitOf w 56) (bitOf w 57) (bitOf w 58) (leNat (sliceBytes 8 2 pl)) (leNat (sliceBytes 12 4 pl)) r
      (hear (bitsOf hdr.toNat 53 44) (markCell hdr s))) := by
  obtain ⟨htype, hon, hup, hplain, hnew, hmember⟩ := h
  have hok : cellCheck s hdr body = .ok := by
    unfold cellCheck
    rw [hplain, hnew, hmember]
    rfl
  subst hw
  show Host.Outcome.next (doReadReq hdr body s) = _
  unfold doReadReq
  dsimp only
  rw [if_neg (by simp [htype, hon, hup]), hok, hplain]
  dsimp only
  rw [Option.getD_some, hr, if_neg hwait]

/-! ### A row is served (R240, R243, R247) -/

theorem useDesc_od {k : Nat} (i : Nat) (s : State) (hhits : k ≠ odCatHits) (hmisses : k ≠ odCatMisses) :
    odGet (useDesc i s) k = odGet s k := by
  unfold useDesc
  cases cached s i with
  | some d => exact odGet_count_other 1 (onCat _ s) hhits
  | none => exact odGet_count_other 1 s hmisses

theorem useDesc_linked (i : Nat) (s : State) : linked (useDesc i s) = linked s :=
  linked_congr (useDesc_od i s (by decide) (by decide)) (useDesc_od i s (by decide) (by decide))

theorem addHolder_linked (e t row : Nat) (s : State) : linked (addHolder e t row s) = linked s := by
  unfold addHolder
  dsimp only
  split
  · rfl
  · exact linked_congr (odGet_set_other _ _ (by decide)) (odGet_set_other _ _ (by decide))

theorem addHolder_repdir (e t row : Nat) (s : State) : (t, row, e) ∈ (addHolder e t row s).cat.repdir := by
  unfold addHolder
  dsimp only
  split
  · next h => exact List.contains_iff_mem.mp h
  · exact List.mem_append_right _ List.mem_cons_self

theorem cellTaken.holder {src : Nat} {hdr : BitVec 128} {s u : State} (h : cellTaken src hdr s u) (e t row : Nat) :
    cellTaken src hdr s (addHolder e t row u) :=
  h.trans (addHolder_holds (P := fun x => x.sfp = u.sfp) (keeps_sfp u _) (keeps_sfp u _) (keeps_sfp u _) _ _ _ rfl) (addHolder_linked ..)
    (addHolder_holds (P := fun x => x.cfe.tasks = u.cfe.tasks) (keeps_tasks u _) (keeps_tasks u _) (keeps_tasks u _) _ _ _ rfl)

theorem countServed_cat (s : State) (i : Nat) (x : BitVec 512) (remote : Bool) : { countServed s i x remote with cat := s.cat } = s ∧
    (countServed s i x remote).cat.repdir = s.cat.repdir := by
  unfold countServed
  split <;> exact ⟨rfl, rfl⟩

/-- The served row counts for its shard. -/
def rowCounted (i : Nat) (s : State) : State := countServed (useDesc i s) i (descAt s i) true

theorem cellTaken.counted {src : Nat} {hdr : BitVec 128} {s u : State} (h : cellTaken src hdr s u) (i : Nat) :
    cellTaken src hdr s (rowCounted i u) := by
  obtain ⟨hrest, -⟩ := countServed_cat (useDesc i u) i (descAt u i) true
  obtain ⟨hcfe, -, -, -, -, hsfp⟩ := useDesc_leaves i u
  refine h.trans ((congrArg State.sfp hrest).trans hsfp) ((congrArg (fun x : State => Machine.linked x) hrest :).trans (useDesc_linked i u)) ?_
  exact (congrArg (fun x : State => x.cfe.tasks) hrest :).trans (congrArg Cfe.tasks hcfe)

theorem rowCounted_repdir (i : Nat) (s : State) : (rowCounted i s).cat.repdir = s.cat.repdir := by
  obtain ⟨o, hu⟩ := useDesc_puts i s
  unfold rowCounted
  rw [(countServed_cat ..).2, hu]

theorem rowCounted_circ {s : State} {i : Nat} (h : sdHome (descAt s i) = s.sfp.engineId) :
    tabGet i (0, 0, 0, 0) (rowCounted i s).cat.circ = ((tabGet i (0, 0, 0, 0) s.cat.circ).1 + 1,
      (tabGet i (0, 0, 0, 0) s.cat.circ).2.1 + 1, (tabGet i (0, 0, 0, 0) s.cat.circ).2.2.1 + rowS (descAt s i),
      (tabGet i (0, 0, 0, 0) s.cat.circ).2.2.2) := by
  obtain ⟨o, hu⟩ := useDesc_puts i s
  unfold rowCounted countServed
  rw [hu, if_pos h]
  exact tabGet_put_same ..

/-- The state in which the answer of a served row goes out. -/
def rowServed (src row t : Nat) (dflt holds : Bool) (reads : List (Nat × Nat × Nat)) (s : State) : State :=
  let u := doServedReads (homePod s row) reads s
  let u := if holds && !dflt then addHolder src t row u else u
  if dflt then u else rowCounted (idxOfRow s t row) u

theorem answerRead_row {src xid row t pe ep : Nat} {pin dflt holds : Bool} {data side : List Byte} {reads : List (Nat × Nat × Nat)}
    {s : State} (h : holds = true → s.cat.repdir.length < 65536) :
    answerRead src xid row t pin dflt holds pe ep (.row data side reads) s =
      sendRsp src xid 0 false data side (rowServed src row t dflt holds reads s) := by
  have hlines : linesServed s (doServedReads (homePod s row) reads s) := linesServed.forEach (fun r u hu => hu.stkRead ..) reads (.refl s)
  unfold answerRead rowServed
  dsimp only
  rw [if_neg]
  · rfl
  · rw [hlines.cat]
    intro hfull
    simp only [Bool.and_eq_true, decide_eq_true_eq] at hfull
    exact absurd (h hfull.1.1) (Nat.not_lt.mpr hfull.1.2)

theorem cellTaken.rowServed {src : Nat} {hdr : BitVec 128} {s u : State} (h : cellTaken src hdr s u) (e row t : Nat) (dflt holds : Bool)
    (reads : List (Nat × Nat × Nat)) : cellTaken src hdr s (rowServed e row t dflt holds reads u) := by
  have hread := h.served (homePod u row) reads
  unfold Machine.rowServed
  dsimp only
  have hheld : cellTaken src hdr s (if holds && !dflt then addHolder e t row (doServedReads (homePod u row) reads u)
      else doServedReads (homePod u row) reads u) := by
    split
    · exact hread.holder ..
    · exact hread
  split
  · exact hheld
  · exact hheld.counted _

theorem rowServed_holder (e row t : Nat) (reads : List (Nat × Nat × Nat)) (s : State) :
    (t, row, e) ∈ (rowServed e row t false true reads s).cat.repdir := by
  unfold rowServed
  dsimp only
  rw [if_neg Bool.false_ne_true, if_pos (by decide), rowCounted_repdir]
  exact addHolder_repdir ..

theorem rowServed_circ {s : State} (e row t : Nat) (reads : List (Nat × Nat × Nat)) {i : Nat} (hi : i = idxOfRow s t row)
    (h : sdHome (descAt s i) = s.sfp.engineId) :
    tabGet i (0, 0, 0, 0) (rowServed e row t false false reads s).cat.circ = ((tabGet i (0, 0, 0, 0) s.cat.circ).1 + 1,
      (tabGet i (0, 0, 0, 0) s.cat.circ).2.1 + 1, (tabGet i (0, 0, 0, 0) s.cat.circ).2.2.1 + rowS (descAt s i),
      (tabGet i (0, 0, 0, 0) s.cat.circ).2.2.2) := by
  have hlines : linesServed s (doServedReads (homePod s row) reads s) := linesServed.forEach (fun r u hu => hu.stkRead ..) reads (.refl s)
  have hdesc : descAt (doServedReads (homePod s row) reads s) i = descAt s i := by
    unfold descAt cached gddrLoad descAddr
    rw [hlines.cat, hlines.mem]
  have hcirc := rowCounted_circ (s := doServedReads (homePod s row) reads s) (i := i) (by rw [hdesc, hlines.sfp]; exact h)
  rw [hdesc, hlines.cat] at hcirc
  subst hi
  exact hcirc

/-- A cell that fails its protection changes of the fabric port the sources that it was raised for. -/
theorem authFail_raises (src slot : Nat) (s : State) : (∃ as, (authFail src slot s).sfp = { s.sfp with authRaised := as } ∧ src ∈ as) ∧
    (authFail src slot s).cfe.tasks = s.cfe.tasks := by
  obtain ⟨f, hf⟩ := odCount_on odSfpAuthFails 1 s
  unfold authFail
  dsimp only
  rw [hf]
  split
  · next h => exact ⟨⟨s.sfp.authRaised, rfl, List.contains_iff_mem.mp h⟩, rfl⟩
  · generalize hu : onSfp (fun g => { g with authRaised := g.authRaised ++ [src] }) (onOd f s) = u
    have hsfp : u.sfp = { s.sfp with authRaised := s.sfp.authRaised ++ [src] } := by rw [← hu]; rfl
    have htasks : u.cfe.tasks = s.cfe.tasks := by rw [← hu]; rfl
    refine ⟨⟨s.sfp.authRaised ++ [src], ?_, List.mem_append_right _ List.mem_cons_self⟩, (postEvent_tasks ..).trans htasks⟩
    rw [← hsfp]
    exact post0_holds (P := fun t => t.sfp = u.sfp) (keeps_sfp u _) _ _ _ rfl

/-! ### A fault of a remote read ends its task (R117, R336) -/

/-- No read of a Pod has a number. -/
def noRead (pod id : Nat) (s : State) : Prop := ∀ r ∈ (getPod s pod).reads, r.id ≠ id

theorem noRead.event {pod id : Nat} {s : State} (h : noRead pod id s) (i e n c d) : noRead pod id (postEvent i e n c d s) := by
  unfold noRead
  rw [reads_bare (podsBare_postEvent ..)]
  exact h

/-- The end of a task only takes reads away. -/
theorem noRead.ended {pod id : Nat} {s : State} (h : noRead pod id s) (n st a b : Nat) : noRead pod id (endTaskCore n st a b s) := by
  unfold endTaskCore
  split
  · exact h
  · split
    · intro r hr
      have hpod : getPod (onPods (fun ps => ps.map (fun p => (p.1, abortOnPod n p.2))) (modTask n (endedTask (folio s) st a b) s)) pod =
          abortOnPod n (getPod s pod) := getPod_map (abortOnPod n) _ pod rfl
      have hmem : r ∈ (abortOnPod n (getPod s pod)).reads := hpod ▸ hr
      exact h r (List.mem_filter.mp hmem).1
    · exact h

theorem noRead.dropped {pod id : Nat} {s : State} (h : noRead pod id s) (p : Nat) (g : Group) (a st : Nat) :
    noRead pod id (dropGroup p g a st s) := by
  unfold dropGroup
  extract_lets s1 ends
  have h1 : noRead pod id s1 := by
    have hreads : (getPod s1 pod).reads = (getPod s pod).reads := by
      by_cases hp : pod = p
      · subst hp
        exact (congrArg Pod.reads (getPod_mod_same pod _ s) :)
      · exact congrArg Pod.reads (getPod_mod_other _ s hp)
    unfold noRead
    rw [hreads]
    exact h
  have h2 : noRead pod id (forEach (fun t s => endTaskCore t stNoGroup 0 0 s) ends s1) :=
    forEach_holds (P := noRead pod id) _ (fun x t ht => ht.ended _ _ _ _) _ h1
  unfold groupDropEvent
  extract_lets d s2
  split
  · exact h2.event _ _ _ _ _
  · exact (h2.event _ _ _ _ _).event _ _ _ _ _

theorem noRead.endTask {pod id : Nat} {s : State} (h : noRead pod id s) (n st a b : Nat) : noRead pod id (endTask n st a b s) := by
  unfold Machine.endTask
  split
  · exact h
  · split
    · dsimp only
      split
      · exact forEach_holds (P := noRead pod id) _ (fun x t ht => ht.dropped _ _ _ _) _ (h.ended _ _ _ _)
      · exact h.ended _ _ _ _
    · exact h

theorem noRead.streamEvent {pod id : Nat} {s : State} (h : noRead pod id s) (t p kind st : Nat) :
    noRead pod id (streamFaultEvent t p kind st s) := by
  unfold streamFaultEvent
  split
  · exact h
  · exact h.event _ _ _ _ _

theorem streamFaultEvent_task (t p kind st : Nat) (s : State) (n : Nat) : getTask (streamFaultEvent t p kind st s) n = getTask s n := by
  unfold streamFaultEvent
  split
  · rfl
  · exact getTask_postEvent ..

/-- A fault of a remote read ends its task, while no other error is being handled. -/
theorem taskFault_remote {s : State} {n : Nat} {k : Task} (p e c : Nat) (hk : getTask s n = some k) (hend : canEnd k = true)
    (hopen : s.msc.open_ = []) : endedAs n k stAbortedFault 4 (e % 1024 + c <<< 10) s (taskFault n p 0 (remoteFlt e c) s) ∧
      ∀ pod id, noRead pod id s → noRead pod id (taskFault n p 0 (remoteFlt e c) s) := by
  have hcause : faultCause (remoteFlt e c) = some 5 := rfl
  have hstream : isStreamFault (remoteFlt e c) = true := rfl
  unfold taskFault
  rw [hk]
  dsimp only
  rw [if_pos hend, hcause, if_pos hstream]
  dsimp only
  generalize hw : raiseErr _ s = w
  have hrest : { w with msc := s.msc, od := s.od } = s := by
    rw [← hw]
    exact raiseErr_calm_rest hopen rfl (by decide : 5 ≠ 8)
  have hkw : getTask w n = some k := (getTask_congr (congrArg (fun t : State => t.cfe.tasks) hrest) n).trans hk
  have hfolio : folio w = folio s := (congrArg folio hrest :)
  unfold endByFault
  rw [hkw]
  dsimp only
  rw [if_pos hend]
  refine ⟨?_, fun pod id h => ?_⟩
  · have hended := endTask_ended stAbortedFault 4 (e % 1024 + c <<< 10) hkw hend
    unfold endedAs at hended ⊢
    rw [streamFaultEvent_task]
    rw [hfolio] at hended
    exact hended
  · have hpods : w.pods = s.pods := (congrArg State.pods hrest :)
    have hwr : noRead pod id w := by
      unfold noRead getPod at h ⊢
      rw [hpods]
      exact h
    exact (hwr.endTask _ _ _ _).streamEvent _ _ _ _

theorem canEnd_of_goesOn {s : State} {n : Nat} {k : Task} (hk : getTask s n = some k) (h : goesOn s n = true) : canEnd k = true := by
  unfold goesOn at h
  rw [hk] at h
  simp only [Bool.and_eq_true, beq_iff_eq] at h
  simp [canEnd, h.1, h.2]

/-- The task of a read that its home cannot give ends, and the read is gone. -/
theorem readFault_ends {s t : State} {n p e c : Nat} {k : Task} {r : ReadRec} (hcfe : t.cfe = s.cfe) (hfsu : t.fsu = s.fsu)
    (hmsc : t.msc = s.msc) (hk : bagTask s n = some k) (hopen : s.msc.open_ = []) :
    endedAs n k stAbortedFault 4 (e % 1024 + c <<< 10) s (taskFault k.id p 0 (remoteFlt e c) (dropRead p r.id t)) ∧
      ∀ x ∈ (getPod (taskFault k.id p 0 (remoteFlt e c) (dropRead p r.id t)) p).reads, x.id ≠ r.id := by
  obtain ⟨htask, hon⟩ := bagTask_some hk
  obtain rfl : k.id = n := getTask_id htask
  have hdropped : noRead p r.id (dropRead p r.id t) := by
    intro x hx
    rw [(dropRead_pod ..).1] at hx
    simpa using (List.mem_filter.mp hx).2
  have hkt : getTask (dropRead p r.id t) k.id = some k := (getTask_congr (congrArg Cfe.tasks hcfe) k.id).trans htask
  obtain ⟨hended, hreads⟩ := taskFault_remote p e c hkt (canEnd_of_goesOn htask hon) (by rw [← hopen, ← hmsc]; rfl)
  refine ⟨?_, hreads _ _ hdropped⟩
  have hfolio : folio (dropRead p r.id t) = folio s := congrArg Fsu.folio hfsu
  unfold endedAs at hended ⊢
  rw [hended, hfolio]

/-! ### A read goes out again (R336) -/

theorem upPorts_congr {s t : State} (hstate : odGet t odSfpPortState = odGet s odSfpPortState)
    (hroute : odGet t odSfpRoute = odGet s odSfpRoute) : upPorts t = upPorts s := by
  funext e
  unfold upPorts routePorts portUp portState odByte
  rw [hstate, hroute]

/-- A count of the reads that went out again leaves room for one. -/
theorem reissueCounted (s : State) : ∃ o, odCount odSfpReadReissues 1 s = { s with od := o } ∧
    (∀ dst, readRoom s dst → readRoom { s with od := o } dst) := by
  obtain ⟨f, hf⟩ := odCount_on odSfpReadReissues 1 s
  have hup : upPorts (odCount odSfpReadReissues 1 s) = upPorts s :=
    upPorts_congr (odGet_count_other 1 s (by decide)) (odGet_count_other 1 s (by decide))
  refine ⟨f s.od, hf, fun dst hroom => ?_⟩
  have hup' : upPorts { s with od := f s.od } = upPorts s := by rw [← hup, hf]; rfl
  unfold readRoom cellRoom linked credited portFor at *
  rw [hup']
  exact hroom

/-- The words of the request of a read. -/
def readWords (s : State) (k : Task) (r : ReadRec) : List Nat :=
  readReqWords (if r.kind = 3 then 0 else r.addr) (dTable k.desc) (dPin k.desc) (r.kind == 3) false (dPinEpoch k.desc) s.sfp.epoch

theorem readAgain_sends {s : State} {p : Nat} {r : ReadRec} {k : Task} {l : Leaf} (hk : bagTask s r.task = some k)
    (hl : readLeaf s p r = some l) (htries : r.tries < 2) (hroom : readRoom s (readHomeOf s k r l)) :
    sentOne ctReadReq (readHomeOf s k r l) (readWords s k r) s (readAgain p r s) ∧
      (getPod (readAgain p r s) p).reads = (getPod s p).reads.map (fun x => if x.id = r.id then
        { x with xid := s.sfp.xid, epoch := s.sfp.epoch, tries := x.tries + 1 } else x) ∧
      (readAgain p r s).cfe.tasks = s.cfe.tasks := by
  obtain ⟨o, hcount, hkeep⟩ := reissueCounted s
  obtain ⟨hcell, hcredit⟩ := hkeep _ hroom
  have hsent := sendCell_sent ctReadReq (readHomeOf s k r l) 16 (readWords s k r) { s with od := o } hcell (.inr hcredit)
  obtain ⟨-, htasks, -⟩ := sendCell_leaves ctReadReq (readHomeOf s k r l) 16 (readWords s k r) { s with od := o }
  have hbare := sendCell_bare ctReadReq (readHomeOf s k r l) 16 (readWords s k r) { s with od := o }
  have hpods : podsBare (sendCell ctReadReq (readHomeOf s k r l) 16 (readWords s k r) { s with od := o }) = podsBare s :=
    sendCell_holds (P := fun t => podsBare t = podsBare s) (keeps_podsBare s _) (keeps_podsBare s _) _ _ _ _ rfl
  have hgo : readAgain p r s = modRead p r.id (fun x => { x with
      xid := s.sfp.xid
      epoch := (sendCell ctReadReq (readHomeOf s k r l) 16 (readWords s k r) { s with od := o }).sfp.epoch
      tries := x.tries + 1 }) (sendCell ctReadReq (readHomeOf s k r l) 16 (readWords s k r) { s with od := o }) := by
    unfold readAgain
    rw [hk, hl]
    dsimp only
    rw [if_neg (Nat.not_le.mpr htries), hcount]
    rfl
  rw [hgo]
  generalize sendCell ctReadReq (readHomeOf s k r l) 16 (readWords s k r) { s with od := o } = u at *
  have hepoch : u.sfp.epoch = s.sfp.epoch := (congrArg Sfp.epoch hbare :)
  refine ⟨hsent, ?_, htasks⟩
  have hread := congrArg Pod.reads (getPod_mod_same p (fun q => { q with reads := q.reads.map (fun x => if x.id = r.id then
    { x with xid := s.sfp.xid, epoch := u.sfp.epoch, tries := x.tries + 1 } else x) }) u)
  refine hread.trans ?_
  dsimp only
  rw [reads_bare hpods, hepoch]

/-- The read of a REPLICATE_ROW goes out again. -/
theorem replicateAgain_sends {s : State} {xid : Nat} {k : Task} (hread : readOfXid s xid = none) (htwin : twinOfXid s xid = none)
    (hrep : replicateOfXid s xid = some k) (htries : k.copyPos < 2) (hk : getTask s k.id = some k)
    (hroom : readRoom s (sdHome (descAt s (rlIndex s k.desc)))) :
    sentOne ctReadReq (sdHome (descAt s (rlIndex s k.desc))) (readReqWords (rlRow k.desc) (dTable k.desc) false false true 0 s.sfp.epoch) s
      (doReadTimeout xid s) ∧
    getTask (doReadTimeout xid s) k.id = some { k with ctlSeq := some s.sfp.xid, copyPos := k.copyPos + 1, moveMark := s.sfp.epoch } := by
  obtain ⟨o, hcount, hkeep⟩ := reissueCounted s
  obtain ⟨hcell, hcredit⟩ := hkeep _ hroom
  have hmod := getTask_mod_same (s := { s with od := o })
    (fun j => { j with ctlSeq := some s.sfp.xid, copyPos := j.copyPos + 1, moveMark := s.sfp.epoch }) hk fun _ => rfl
  have hgo : doReadTimeout xid s = sendCell ctReadReq (sdHome (descAt s (rlIndex s k.desc))) 16
      (readReqWords (rlRow k.desc) (dTable k.desc) false false true 0 s.sfp.epoch)
      (modTask k.id (fun j => { j with ctlSeq := some s.sfp.xid, copyPos := j.copyPos + 1, moveMark := s.sfp.epoch }) { s with od := o }) := by
    unfold doReadTimeout
    rw [hread, htwin, hrep]
    dsimp only
    rw [if_neg (Nat.not_le.mpr htries), hcount]
    rfl
  have hsent := sendCell_sent ctReadReq (sdHome (descAt s (rlIndex s k.desc))) 16
    (readReqWords (rlRow k.desc) (dTable k.desc) false false true 0 s.sfp.epoch)
    (modTask k.id (fun j => { j with ctlSeq := some s.sfp.xid, copyPos := j.copyPos + 1, moveMark := s.sfp.epoch }) { s with od := o })
    hcell (.inr hcredit)
  obtain ⟨-, htasks, -⟩ := sendCell_leaves ctReadReq (sdHome (descAt s (rlIndex s k.desc))) 16
    (readReqWords (rlRow k.desc) (dTable k.desc) false false true 0 s.sfp.epoch)
    (modTask k.id (fun j => { j with ctlSeq := some s.sfp.xid, copyPos := j.copyPos + 1, moveMark := s.sfp.epoch }) { s with od := o })
  rw [hgo]
  exact ⟨hsent, (getTask_congr htasks k.id).trans hmod⟩

/-! ### A READ_RSP reaches what waits for it (R240, R251, R336) -/

/-- The cells of an answer are counted. -/
def rspHeard (row side : List Byte) (s : State) : State :=
  onSfp (fun f => { f with cellsRecv := f.cellsRecv + cellsFor (8 + row.length + side.length) }) s

/-- What an answer does once its cells are counted. -/
def rspTaken (xid status : Nat) (absent : Bool) (row side : List Byte) (s : State) : State :=
  match readOfXid s xid with
  | some c => rspRead c.1 c.2 status absent row side s
  | none =>
    match twinOfXid s xid with
    | some c => rspTwin c.1 c.2 status absent row s
    | none =>
      match replicateOfXid s xid with
      | some k => rspReplicate k status absent row side s
      | none => s

theorem readRsp_takes {s : State} (xid status : Nat) (absent : Bool) (row side : List Byte) (hon : gated s 11 = false)
    (hup : windowUp s = true) : exec (.readRsp xid status absent row side) s =
      .next (rspTaken xid status absent row side (rspHeard row side s)) := by
  show Host.Outcome.next (doReadRsp xid status absent row side s) = _
  unfold doReadRsp
  rw [if_neg (by simp [hon, hup])]
  rfl

theorem modRead_reads (p id : Nat) (f : ReadRec → ReadRec) (s : State) :
    (getPod (modRead p id f s) p).reads = (getPod s p).reads.map (fun x => if x.id = id then f x else x) ∧
      (∀ q, q ≠ p → getPod (modRead p id f s) q = getPod s q) ∧ (modRead p id f s).cfe = s.cfe ∧ (modRead p id f s).mem = s.mem :=
  ⟨(congrArg Pod.reads (getPod_mod_same p _ s) :), fun _ hq => getPod_mod_other _ s hq, rfl, rfl⟩

/-- Settles O22: a taken request is answered (`readReq_answers`, `cellTaken.sends`) from the row it serves (`cellTaken.rowServed`);
an answer goes to the read, the twin check or the REPLICATE_ROW, or ends the task (`readFault_ends`); one that does not come
sends the read again (`readAgain_sends`, `replicateAgain_sends`). -/
theorem fabricReads : Obligations.FabricReads := by
  unfold Obligations.FabricReads
  refine ⟨?row, ?refused, ?passed, ?auth, ?replay, ?gives, ?fails, ?twin, ?replicate, ?dropped, ?again, ?gone, ?replicateAgain, ?nothing⟩
  case row =>
    intro s hdr body pl w e row side reads idx hnew hw he hr hfull hroom hidx
    have hexec := readReq_answers hnew hw hr (by simp)
    rw [answerRead_row (by exact hfull), ← he] at hexec
    have hserved := (cellTaken.heard (bitsOf hdr.toNat 53 44) hdr s).rowServed e (bitsOf w 39 0) (bitsOf w 55 40) (bitOf w 57) (bitOf w 58) reads
    obtain ⟨hsent, hmarked, htasks⟩ := hserved.sends (xid := bitsOf hdr.toNat 35 13) (type := ctReadRsp)
      (fields := 0 :: (row ++ side).map (·.toNat)) hroom (.inl (by decide))
    refine ⟨_, hexec, hsent, fun h58 h57 => ?_, fun h57 h58 hhome => ?_, hmarked, htasks, exec_piece .host hexec⟩
    · have hcat := congrArg Cat.repdir (sendAs_catBare (bitsOf hdr.toNat 35 13) ctReadRsp e (8 + row.length + side.length)
        (0 :: (row ++ side).map (·.toNat)) (rowServed e (bitsOf w 39 0) (bitsOf w 55 40) (bitOf w 57) (bitOf w 58) reads
          (hear (bitsOf hdr.toNat 53 44) (markCell hdr s))))
      refine (Eq.mpr (congrArg (_ ∈ ·) hcat) ?_ :)
      rw [h57, h58]
      exact rowServed_holder ..
    · have hcat := congrArg Cat.circ (sendAs_catBare (bitsOf hdr.toNat 35 13) ctReadRsp e (8 + row.length + side.length)
        (0 :: (row ++ side).map (·.toNat)) (rowServed e (bitsOf w 39 0) (bitsOf w 55 40) (bitOf w 57) (bitOf w 58) reads
          (hear (bitsOf hdr.toNat 53 44) (markCell hdr s))))
      refine (congrArg (tabGet idx (0, 0, 0, 0)) hcat :).trans ?_
      rw [h57, h58]
      exact rowServed_circ e _ _ reads (s := hear (bitsOf hdr.toNat 53 44) (markCell hdr s)) hidx hhome
  case refused =>
    intro s hdr body pl w e r a hnew hw he hr hcase hroom
    have hexec := readReq_answers hnew hw hr (by rintro rfl; simp at hcase)
    rw [← he] at hexec
    have hsends := (cellTaken.heard (bitsOf hdr.toNat 53 44) hdr s).sends (xid := bitsOf hdr.toNat 35 13) (type := ctReadRsp) (len := 8)
      (fields := [a]) hroom (.inl (by decide))
    obtain ⟨hsent, hmarked, htasks⟩ := hsends
    rcases hcase with ⟨rfl, rfl⟩ | ⟨v, rfl, rfl⟩
    · exact ⟨_, hexec, hsent, hmarked, htasks, exec_piece .host hexec⟩
    · rw [show v <<< 8 = bit false + v <<< 8 from (Nat.zero_add _).symm] at hsent hmarked htasks ⊢
      exact ⟨_, hexec, hsent, hmarked, htasks, exec_piece .host hexec⟩
  case passed =>
    intro s hdr body pl w e h hnew hw he hr hroom hcredit
    have hexec := readReq_answers hnew hw hr (by simp)
    rw [← he] at hexec
    obtain ⟨hsent, hmarked, htasks⟩ := (cellTaken.heard (bitsOf hdr.toNat 53 44) hdr s).sends (xid := bitsOf hdr.toNat 35 13)
      (type := ctReadReq) (len := 24) (fields := readReqWords (bitsOf w 39 0) (bitsOf w 55 40) (bitOf w 56) (bitOf w 57) (bitOf w 58)
        (leNat (sliceBytes 8 2 pl)) (leNat (sliceBytes 12 4 pl)) ++ [readerWord e]) hroom (.inr hcredit)
    have hhost := exec_piece .host hexec
    unfold answerRead at hexec hhost
    dsimp only at hexec hhost
    obtain ⟨f, hcount⟩ := odCount_on odCatReadsPassed 1 (sendAs (bitsOf hdr.toNat 35 13) ctReadReq h 24
      (readReqWords (bitsOf w 39 0) (bitsOf w 55 40) (bitOf w 56) (bitOf w 57) (bitOf w 58) (leNat (sliceBytes 8 2 pl))
        (leNat (sliceBytes 12 4 pl)) ++ [readerWord e]) (hear (bitsOf hdr.toNat 53 44) (markCell hdr s)))
    rw [hcount] at hexec hhost
    exact ⟨_, hexec, hsent, hmarked, htasks, hhost⟩
  case auth =>
    intro s hdr body htype hon hup hplain
    have hcheck : cellCheck s hdr body = .auth := by unfold cellCheck; rw [hplain]; rfl
    have hexec : exec (.readReq hdr body) s = .next (authFail (bitsOf hdr.toNat 53 44) (bitsOf hdr.toNat 79 78) s) := by
      show Host.Outcome.next (doReadReq hdr body s) = _
      unfold doReadReq
      dsimp only
      rw [if_neg (by simp [htype, hon, hup]), hcheck]
    obtain ⟨hsfp, htasks⟩ := authFail_raises (bitsOf hdr.toNat 53 44) (bitsOf hdr.toNat 79 78) s
    obtain ⟨as, hsfp, hmem⟩ := hsfp
    exact ⟨_, hexec, (congrArg Sfp.replayWin hsfp :), (congrArg Sfp.sentCells hsfp :), (congrArg Sfp.authRaised hsfp : _ = as) ▸ hmem, htasks,
      exec_piece .host hexec⟩
  case replay =>
    intro s hdr body pl htype hon hup hplain hseen
    have hcheck : cellCheck s hdr body = .replay := by unfold cellCheck; rw [hplain, hseen]; rfl
    show Host.Outcome.next (doReadReq hdr body s) = _
    unfold doReadReq
    dsimp only
    rw [if_neg (by simp [htype, hon, hup]), hcheck]
  case gives =>
    intro s xid p r row side k l hon hup hread hk hl
    have hgo : rspTaken xid 0 false row side (rspHeard row side s) =
        modRead p r.id (fun x => { x with got := [(0, row), (1, side)] }) (rspHeard row side s) := by
      unfold rspTaken rspRead
      rw [show readOfXid (rspHeard row side s) xid = some (p, r) from hread]
      dsimp only
      rw [show bagTask (rspHeard row side s) r.task = some k from hk, show readLeaf (rspHeard row side s) p r = some l from hl]
      rfl
    exact ⟨_, (readRsp_takes xid 0 false row side hon hup).trans (congrArg Host.Outcome.next hgo),
      modRead_reads p r.id _ (rspHeard row side s)⟩
  case fails =>
    intro s xid p r row side k l hon hup hread hk hl hopen
    have hgo : rspTaken xid 1 false row side (rspHeard row side s) =
        taskFault k.id p 0 (remoteFlt (readHomeOf s k r l) 2) (dropRead p r.id (rspHeard row side s)) := by
      unfold rspTaken rspRead
      rw [show readOfXid (rspHeard row side s) xid = some (p, r) from hread]
      dsimp only
      rw [show bagTask (rspHeard row side s) r.task = some k from hk, show readLeaf (rspHeard row side s) p r = some l from hl]
      rfl
    have hexec := (readRsp_takes xid 1 false row side hon hup).trans (congrArg Host.Outcome.next hgo)
    obtain ⟨hended, hreads⟩ := readFault_ends (p := p) (r := r) (e := readHomeOf s k r l) (c := 2) (t := rspHeard row side s) rfl rfl rfl hk hopen
    exact ⟨_, hexec, hended, hreads, exec_piece .host hexec⟩
  case twin =>
    intro s xid p r row side hon hup hread htwin
    have hgo : rspTaken xid 0 false row side (rspHeard row side s) =
        modRead p r.id (fun x => { x with twin := none, other := row }) (rspHeard row side s) := by
      unfold rspTaken
      rw [show readOfXid (rspHeard row side s) xid = none from hread, show twinOfXid (rspHeard row side s) xid = some (p, r) from htwin]
      rfl
    exact ⟨_, (readRsp_takes xid 0 false row side hon hup).trans (congrArg Host.Outcome.next hgo),
      modRead_reads p r.id _ (rspHeard row side s)⟩
  case replicate =>
    intro s xid row side k hon hup hread htwin hrep hk hfits
    have hgo : rspTaken xid 0 false row side (rspHeard row side s) = finishTask k.id (holdReplica {
        table := dTable k.desc, row := rlRow k.desc, home := sdHome (descAt s (rlIndex s k.desc)), data := row, side := side } (rspHeard row side s)) := by
      unfold rspTaken
      rw [show readOfXid (rspHeard row side s) xid = none from hread, show twinOfXid (rspHeard row side s) xid = none from htwin,
        show replicateOfXid (rspHeard row side s) xid = some k from hrep]
      have hroom : ¬ ((0 : Nat) ≠ 0 ∨ false = true ∨
          replicaRoom (rspHeard row side s) < replicaUsed (rspHeard row side s) + replicaLines row side) := by
        rintro (h | h | h)
        · exact h rfl
        · cases h
        · exact absurd h (Nat.not_lt.mpr hfits)
      unfold rspReplicate
      dsimp only
      rw [if_neg (by decide), if_neg hroom]
      rfl
    obtain ⟨hheld, -, hmem, hcfe, hfsu⟩ := holdReplica_holds_it {
      table := dTable k.desc, row := rlRow k.desc, home := sdHome (descAt s (rlIndex s k.desc)), data := row, side := side } (rspHeard row side s)
    generalize holdReplica _ (rspHeard row side s) = u at hgo hheld hmem hcfe hfsu
    have hrest := finishTask_rest k.id u
    obtain ⟨hfin, -⟩ := finishTask_finishes ((getTask_congr (congrArg Cfe.tasks hcfe) k.id).trans hk : getTask u k.id = some k)
    refine ⟨_, (readRsp_takes xid 0 false row side hon hup).trans (congrArg Host.Outcome.next hgo), ?_, ?_,
      (congrArg State.mem hrest).trans hmem⟩
    · rw [hfin, show folio u = folio s from congrArg Fsu.folio hfsu]
    · rw [show (finishTask k.id u).cat = u.cat from (congrArg State.cat hrest :)]
      exact hheld
  case dropped =>
    intro s xid status absent row side hon hup hread htwin hrep
    refine ⟨_, readRsp_takes xid status absent row side hon hup, ?_⟩
    unfold rspTaken
    rw [show readOfXid (rspHeard row side s) xid = none from hread, show twinOfXid (rspHeard row side s) xid = none from htwin,
      show replicateOfXid (rspHeard row side s) xid = none from hrep]
    rfl
  case again =>
    intro s xid p r k l hread hk hl htries hroom
    have hexec : exec (.readTimeout xid) s = .next (readAgain p r s) := by
      show Host.Outcome.next (doReadTimeout xid s) = _
      unfold doReadTimeout
      rw [hread]
    obtain ⟨hsent, hreads, htasks⟩ := readAgain_sends hk hl htries hroom
    exact ⟨_, hexec, hsent, hreads, htasks, exec_piece .host hexec⟩
  case gone =>
    intro s xid p r k l hread hk hl htries hopen
    have hexec : exec (.readTimeout xid) s = .next (taskFault k.id p 0
        (remoteFlt (readHomeOf s k r l) (lostCause s (readHomeOf s k r l))) (dropRead p r.id s)) := by
      show Host.Outcome.next (doReadTimeout xid s) = _
      unfold doReadTimeout
      rw [hread]
      dsimp only
      unfold readAgain
      rw [hk, hl]
      dsimp only
      rw [if_pos htries]
    obtain ⟨hended, hreads⟩ := readFault_ends (p := p) (r := r) (e := readHomeOf s k r l) (c := lostCause s (readHomeOf s k r l)) (t := s)
      rfl rfl rfl hk hopen
    exact ⟨_, hexec, hended, hreads, exec_piece .host hexec⟩
  case replicateAgain =>
    intro s xid k hread htwin hrep htries hk hroom
    have hexec : exec (.readTimeout xid) s = .next (doReadTimeout xid s) := rfl
    obtain ⟨hsent, htask⟩ := replicateAgain_sends hread htwin hrep htries hk hroom
    exact ⟨_, hexec, hsent, htask, exec_piece .host hexec⟩
  case nothing =>
    intro s xid hread htwin hrep
    show Host.Outcome.next (doReadTimeout xid s) = _
    unfold doReadTimeout
    rw [hread, htwin, hrep]

end Sys2Proof.Machine
end
